-- ==== Sys2Proof/Word.lean ====
section
/-! DEFINITION. The word types of the machine (00 R2, 04 R77, R85). -/

namespace Sys2Proof

/-- A byte of memory. -/
abbrev Byte := BitVec 8
/-- A vector register of one lane (R77). -/
abbrev W32 := BitVec 32
/-- A uniform register, an address as software sees it (R85). -/
abbrev W64 := BitVec 64
/-- A set of lanes of one wave; bit `L` stands for lane `L`. -/
abbrev Lanes := BitVec 64

end Sys2Proof

namespace Sys2Proof.Machine

/-- The value a dyadic computation carries between roundings: a NaN, a signed infinity, or the
number `(-1)^neg · m · 2^e` (00 R9: arithmetic on named values is exact). -/
inductive FVal where
  | nan
  | inf (neg : Bool)
  | fin (neg : Bool) (m : Nat) (e : Int)
  deriving DecidableEq, Repr

end Sys2Proof.Machine
end

