-- ==== Sys2Proof/Machine/Table.lean ====
section
/-! DEFINITION. Tables keyed by a number: lists of (key, value) pairs with rising keys, in which a key that is not
listed stands for the table's default value. Memory is such a table of bytes with default 0. -/

namespace Sys2Proof.Machine

/-- The entry of a key, if listed. -/
def lookT {α : Type} : List (Nat × α) → Nat → Option α
  | [], _ => none
  | (k', v) :: r, k => if k' = k then some v else lookT r k

/-- The value of a key; `d` when it is not listed. -/
def getT {α : Type} (d : α) : List (Nat × α) → Nat → α
  | [], _ => d
  | (k', v) :: r, k => if k' = k then v else getT d r k

/-- The table without a key. -/
def delT {α : Type} : List (Nat × α) → Nat → List (Nat × α)
  | [], _ => []
  | (k', v) :: r, k => if k' = k then delT r k else (k', v) :: delT r k

/-- Inserts an entry before the first larger key. -/
def insT {α : Type} : List (Nat × α) → Nat → α → List (Nat × α)
  | [], k, v => [(k, v)]
  | (k', v') :: r, k, v => if k < k' then (k, v) :: (k', v') :: r else (k', v') :: insT r k v

/-- Writes an entry, whatever its value. -/
def putT {α : Type} (m : List (Nat × α)) (k : Nat) (v : α) : List (Nat × α) := insT (delT m k) k v

/-- Writes a value; the default value is not listed. -/
def setT {α : Type} [DecidableEq α] (d : α) (m : List (Nat × α)) (k : Nat) (v : α) : List (Nat × α) :=
  if v = d then delT m k else putT m k v

/-- Keys strictly rising, each above `lo`. -/
def risingFrom {α : Type} : Nat → List (Nat × α) → Bool
  | _, [] => true
  | lo, (k, _) :: r => decide (lo ≤ k) && risingFrom (k + 1) r

/-- The canonical form of a byte memory: keys strictly rising, and no byte equal to what an unlisted address
reads as. -/
def Memory.wf (m : List (Nat × Byte)) : Bool := risingFrom 0 m && m.all (fun e => e.2 != 0)

/-- The byte at an address. -/
def readByte (m : List (Nat × Byte)) (a : Nat) : Byte := getT 0 m a

/-- Writes one byte. -/
def writeByte (m : List (Nat × Byte)) (a : Nat) (b : Byte) : List (Nat × Byte) := setT 0 m a b

/-- `n` bytes from an address up. -/
def readBytes (m : List (Nat × Byte)) (a : Nat) : Nat → List Byte
  | 0 => []
  | n + 1 => readByte m a :: readBytes m (a + 1) n

/-- Writes bytes from an address up. -/
def writeBytes (m : List (Nat × Byte)) (a : Nat) : List Byte → List (Nat × Byte)
  | [] => m
  | b :: bs => writeBytes (writeByte m a b) (a + 1) bs

/-- The number held by bytes, lowest address first (00 R2). -/
def natOfBytes : List Byte → Nat
  | [] => 0
  | b :: bs => b.toNat + 256 * natOfBytes bs

/-- A number as `n` bytes, lowest address first (00 R2). -/
def bytesOfNat : Nat → Nat → List Byte
  | 0, _ => []
  | n + 1, v => BitVec.ofNat 8 v :: bytesOfNat n (v / 256)

/-- Zeroes every byte in a range of addresses. -/
def clearRange (m : List (Nat × Byte)) (lo hi : Nat) : List (Nat × Byte) :=
  m.filter (fun e => e.1 < lo || hi ≤ e.1)

end Sys2Proof.Machine
end

