-- ==== Sys2Proof/Machine/Float.lean ====
section
/-! DEFINITION. Number formats, rounding, float operations and conversions (07 R152-R168). A result is a bit
pattern with the flags of its element, in the order of FPSTAT: IO, DZ, OF, UF, IX from bit 0. -/

namespace Sys2Proof.Machine

/-- A floating-point format (07 R152). `inf` is false for e4m3, `sub` is false for W24. -/
structure Fmt where
  eb : Nat
  fb : Nat
  inf : Bool := true
  sub : Bool := true
  flush : Bool := false
  deriving DecidableEq, Repr

/-- binary16; FPMODE.FTZ applies to it (07 R158). -/
def fmtF16 : Fmt := { eb := 5, fb := 10, flush := true }
def fmtBf16 : Fmt := { eb := 8, fb := 7 }
/-- binary32; FPMODE.FTZ applies to it (07 R158). -/
def fmtF32 : Fmt := { eb := 8, fb := 23, flush := true }
def fmtF64 : Fmt := { eb := 11, fb := 52 }
def fmtE4m3 : Fmt := { eb := 4, fb := 3, inf := false }
def fmtE5m2 : Fmt := { eb := 5, fb := 2 }
/-- The working format of the matrix array (07 R169). -/
def fmtW24 : Fmt := { eb := 8, fb := 15, sub := false }

/-- Float format of a TY code (05 R109). -/
def fmtOf (ty : Nat) : Option Fmt :=
  match ty with
  | 3 => some fmtF32
  | 4 => some fmtF16
  | 5 => some fmtBf16
  | 6 => some fmtF64
  | 13 => some fmtE4m3
  | 14 => some fmtE5m2
  | _ => none

def Fmt.width (f : Fmt) : Nat := 1 + f.eb + f.fb
def Fmt.bias (f : Fmt) : Int := 2 ^ (f.eb - 1) - 1
/-- Exponent of the smallest normal. -/
def Fmt.emin (f : Fmt) : Int := 1 - f.bias
/-- Pattern of the largest finite magnitude. -/
def Fmt.maxBits (f : Fmt) : Nat := if f.inf then (2 ^ f.eb - 1) * 2 ^ f.fb - 1 else 2 ^ (f.eb + f.fb) - 2
/-- Pattern of +∞. -/
def Fmt.infBits (f : Fmt) : Nat := (2 ^ f.eb - 1) * 2 ^ f.fb
/-- The canonical NaN (07 R153). -/
def Fmt.nanBits (f : Fmt) : Nat := if f.inf then f.infBits + 2 ^ (f.fb - 1) else 2 ^ (f.eb + f.fb) - 1
def Fmt.signBits (f : Fmt) (neg : Bool) : Nat := if neg then 2 ^ (f.eb + f.fb) else 0

/-- The value of a pattern (07 R152). -/
def Fmt.value (f : Fmt) (x : Nat) : FVal :=
  let neg := x / 2 ^ (f.eb + f.fb) % 2 = 1
  let e := x / 2 ^ f.fb % 2 ^ f.eb
  let m := x % 2 ^ f.fb
  if f.inf && e == 2 ^ f.eb - 1 then (if m = 0 then .inf neg else .nan)
  else if !f.inf && x % 2 ^ (f.eb + f.fb) == 2 ^ (f.eb + f.fb) - 1 then .nan
  else if e = 0 then .fin neg (if f.sub then m else 0) (f.emin - f.fb)
  else .fin neg (m + 2 ^ f.fb) (f.emin - f.fb + (e - 1))

/-- A signalling NaN pattern (07 R153). -/
def Fmt.snan (f : Fmt) (x : Nat) : Bool :=
  f.inf && x / 2 ^ f.fb % 2 ^ f.eb == 2 ^ f.eb - 1 && x % 2 ^ f.fb != 0 && x / 2 ^ (f.fb - 1) % 2 == 0

/-- A subnormal pattern. -/
def Fmt.subnormal (f : Fmt) (x : Nat) : Bool := x / 2 ^ f.fb % 2 ^ f.eb == 0 && x % 2 ^ f.fb != 0

/-- The value of an operand under FTZ (07 R158). -/
def Fmt.operand (f : Fmt) (ftz : Bool) (x : Nat) : FVal :=
  match f.value x with
  | .fin neg m e => .fin neg (if ftz && f.flush && f.subnormal x then 0 else m) e
  | v => v

/-- Rounding modes (05 R110). -/
def rmRne := 0
def rmRtz := 1
def rmRup := 2
def rmRdn := 3
def rmRna := 4

abbrev Flags := BitVec 5
def flIO : Flags := 1
def flDZ : Flags := 2
def flOF : Flags := 4
def flUF : Flags := 8
def flIX : Flags := 16

/-- A pattern and its flags. -/
structure FRes where
  bits : Nat
  fl : Flags
  deriving DecidableEq, Repr

/-- Whether a magnitude cut at a position rounds up: the kept part's last bit, what was cut off compared with
one half (07 R156). `rem` of `2^sh` was cut off, and `sticky` says that something below it was not zero. -/
def roundsUp (rm : Nat) (neg odd : Bool) (rem sh : Nat) (sticky : Bool) : Bool :=
  let half := if sh = 0 then 0 else 2 ^ (sh - 1)
  let inexact := rem != 0 || sticky
  match rm with
  | 0 => sh != 0 && (decide (half < rem) || (rem == half && (sticky || odd)))
  | 1 => false
  | 2 => inexact && !neg
  | 3 => inexact && neg
  | _ => sh != 0 && decide (half ≤ rem)

/-- Rounds the magnitude `m · 2^e`, exceeded by less than `2^e` when `sticky`, to a multiple of `2^q`: the multiple,
and whether it is inexact. With `sticky`, `q` is above `e`. -/
def roundAt (rm : Nat) (neg : Bool) (m : Nat) (e : Int) (sticky : Bool) (q : Int) : Nat × Bool :=
  if q ≤ e then (m * 2 ^ (e - q).toNat, sticky)
  else
    let sh := (q - e).toNat
    let hi := m / 2 ^ sh
    let rem := m % 2 ^ sh
    (hi + (if roundsUp rm neg (hi % 2 == 1) rem sh sticky then 1 else 0), rem != 0 || sticky)

/-- An overflow's result (07 R156). -/
def Fmt.overflow (f : Fmt) (rm : Nat) (neg : Bool) : Nat :=
  let toInf := match rm with
    | 1 => false
    | 2 => !neg
    | 3 => neg
    | _ => true
  if toInf then (if f.inf then f.signBits neg + f.infBits else f.nanBits) else f.signBits neg + f.maxBits

/-- Rounds the non-zero magnitude `m · 2^e` (plus less than `2^e` when `sticky`) to a format (07 R156, R157, R158,
R169). -/
def Fmt.roundMag (f : Fmt) (rm : Nat) (ftz : Bool) (neg : Bool) (m : Nat) (e : Int) (sticky : Bool) : FRes :=
  let top : Int := e + Nat.log2 m
  let r := roundAt rm neg m e sticky (top - f.fb)
  -- the rounded magnitude with unbounded exponent is r.1 · 2^(top - fb); it may have reached the next power of two
  let exp : Int := if r.1 = 2 ^ (f.fb + 1) then top + 1 else top
  if exp < f.emin then
    if (ftz && f.flush) || !f.sub then { bits := f.signBits neg, fl := flUF ||| flIX }
    else
      let g := roundAt rm neg m e sticky (f.emin - f.fb)
      { bits := f.signBits neg + g.1, fl := if g.2 then flUF ||| flIX else 0 }
  else
    let mant := if r.1 = 2 ^ (f.fb + 1) then 2 ^ f.fb else r.1
    let pat := (exp - f.emin + 1).toNat * 2 ^ f.fb + (mant - 2 ^ f.fb)
    if f.maxBits < pat then { bits := f.overflow rm neg, fl := flOF ||| flIX }
    else { bits := f.signBits neg + pat, fl := if r.2 then flIX else 0 }

/-- Rounds a value; a zero keeps the sign it carries. -/
def Fmt.round (f : Fmt) (rm : Nat) (ftz : Bool) : FVal → FRes
  | .nan => { bits := f.nanBits, fl := 0 }
  | .inf neg => { bits := if f.inf then f.signBits neg + f.infBits else f.nanBits, fl := 0 }
  | .fin neg m e => if m = 0 then { bits := f.signBits neg, fl := 0 } else f.roundMag rm ftz neg m e false

/-! ### Exact sums and products (07 R157, R159, R170) -/

def signed (neg : Bool) (m : Nat) : Int := if neg then -(m : Int) else m

/-- Exact sum of two values; a zero sum is −0 when both terms are −0, and under RDN (07 R157). -/
def FVal.add (rm : Nat) : FVal → FVal → FVal
  | .nan, _ => .nan
  | _, .nan => .nan
  | .inf a, .inf b => if a = b then .inf a else .nan
  | .inf a, _ => .inf a
  | _, .inf b => .inf b
  | .fin a m e, .fin b n g =>
    let q := min e g
    let t := signed a m * 2 ^ (e - q).toNat + signed b n * 2 ^ (g - q).toNat
    if t = 0 then .fin ((a && b && m == 0 && n == 0) || rm == rmRdn) 0 q else .fin (decide (t < 0)) t.natAbs q

/-- Exact product; a zero product keeps its sign (07 R157). -/
def FVal.mul : FVal → FVal → FVal
  | .nan, _ => .nan
  | _, .nan => .nan
  | .inf a, .inf b => .inf (a != b)
  | .inf a, .fin b n _ => if n = 0 then .nan else .inf (a != b)
  | .fin a m _, .inf b => if m = 0 then .nan else .inf (a != b)
  | .fin a m e, .fin b n g => .fin (a != b) (m * n) (e + g)

def FVal.neg : FVal → FVal
  | .nan => .nan
  | .inf a => .inf (!a)
  | .fin a m e => .fin (!a) m e

def FVal.isNan : FVal → Bool
  | .nan => true
  | _ => false

def FVal.isZero : FVal → Bool
  | .fin _ 0 _ => true
  | _ => false

/-- Whether two non-NaN values make a NaN in a sum or a product: the IO cases ∞ − ∞ and 0 × ∞ (07 R159). -/
def newNan (r : FVal) (ops : List FVal) : Bool := r.isNan && !(ops.any FVal.isNan)

/-- IO of signalling operands (07 R159). -/
def Fmt.sigs (f : Fmt) (xs : List Nat) : Flags := if xs.any f.snan then flIO else 0

/-- Adds IO to a result. -/
def FRes.io (r : FRes) (b : Bool) : FRes := if b then { r with fl := r.fl ||| flIO } else r
def FRes.also (r : FRes) (fl : Flags) : FRes := { r with fl := r.fl ||| fl }

/-- `fadd` (07 R162). -/
def Fmt.fadd (f : Fmt) (rm : Nat) (ftz : Bool) (x y : Nat) : FRes :=
  let a := f.operand ftz x; let b := f.operand ftz y
  let r := FVal.add rm a b
  ((f.round rm ftz r).io (newNan r [a, b])).also (f.sigs [x, y])

/-- `fsub` (07 R162): A + (−B); the sign of a NaN plays no part. -/
def Fmt.fsub (f : Fmt) (rm : Nat) (ftz : Bool) (x y : Nat) : FRes :=
  let a := f.operand ftz x; let b := f.operand ftz y
  let r := FVal.add rm a b.neg
  ((f.round rm ftz r).io (newNan r [a, b])).also (f.sigs [x, y])

/-- `fmul` (07 R162). -/
def Fmt.fmul (f : Fmt) (rm : Nat) (ftz : Bool) (x y : Nat) : FRes :=
  let a := f.operand ftz x; let b := f.operand ftz y
  let r := FVal.mul a b
  ((f.round rm ftz r).io (newNan r [a, b])).also (f.sigs [x, y])

/-- `ffma` (07 R159, R162): 0 × ∞ sets IO whatever the third operand. -/
def Fmt.ffma (f : Fmt) (rm : Nat) (ftz : Bool) (x y z : Nat) : FRes :=
  let a := f.operand ftz x; let b := f.operand ftz y; let c := f.operand ftz z
  let p := FVal.mul a b
  let r := FVal.add rm p c
  ((f.round rm ftz r).io (newNan p [a, b] || newNan r [p, c])).also (f.sigs [x, y, z])

/-- `fdiv` (07 R159, R162). -/
def Fmt.fdiv (f : Fmt) (rm : Nat) (ftz : Bool) (x y : Nat) : FRes :=
  let s := f.sigs [x, y]
  match f.operand ftz x, f.operand ftz y with
  | .nan, _ => { bits := f.nanBits, fl := s }
  | _, .nan => { bits := f.nanBits, fl := s }
  | .inf _, .inf _ => { bits := f.nanBits, fl := flIO }
  | .inf a, .fin b _ _ => { bits := f.signBits (a != b) + f.infBits, fl := 0 }
  | .fin a _ _, .inf b => { bits := f.signBits (a != b), fl := 0 }
  | .fin a m e, .fin b n g =>
    if n = 0 then
      if m = 0 then { bits := f.nanBits, fl := flIO }
      else { bits := f.signBits (a != b) + f.infBits, fl := flDZ }
    else if m = 0 then { bits := f.signBits (a != b), fl := 0 }
    else
      -- a quotient of at least 2^(fb + 3), so that the rounding position lies above its last bit
      let k := Nat.log2 n + f.fb + 4
      let num := m * 2 ^ k
      f.roundMag rm ftz (a != b) (num / n) (e - g - k) (num % n != 0)

/-- `fsqrt` (07 R159, R162). -/
def Fmt.fsqrt (f : Fmt) (rm : Nat) (ftz : Bool) (x : Nat) : FRes :=
  match f.operand ftz x with
  | .nan => { bits := f.nanBits, fl := f.sigs [x] }
  | .inf neg => if neg then { bits := f.nanBits, fl := flIO } else { bits := f.infBits, fl := 0 }
  | .fin neg m e =>
    if m = 0 then { bits := f.signBits neg, fl := 0 }
    else if neg then { bits := f.nanBits, fl := flIO }
    else
      -- make the exponent even and the radicand at least 2^(2·fb + 6)
      let k := 2 * (f.fb + 3) + (if (e % 2 = 0) then 0 else 1)
      let n := m * 2 ^ k
      let r := Nat.sqrt n
      f.roundMag rm ftz false r ((e - k) / 2) (r * r != n)

/-- `fscale` (07 R162): A × 2^B, rounded once. Beyond ±10,000 every format overflows or underflows alike. -/
def Fmt.fscale (f : Fmt) (rm : Nat) (ftz : Bool) (x : Nat) (b : Int) : FRes :=
  match f.operand ftz x with
  | .fin neg m e => f.round rm ftz (.fin neg m (e + max (-10000) (min b 10000)))
  | v => (f.round rm ftz v).also (f.sigs [x])

/-- Rounds a finite magnitude to an integer by RM: the integer and whether it is inexact. -/
def roundInt (rm : Nat) (neg : Bool) (m : Nat) (e : Int) : Nat × Bool := roundAt rm neg m e false 0

/-- `frnd` (07 R159, R162): IX is never set, and A's sign is kept. -/
def Fmt.frnd (f : Fmt) (rm : Nat) (ftz : Bool) (x : Nat) : FRes :=
  match f.operand ftz x with
  | .fin neg m e =>
    let n := (roundInt rm neg m e).1
    { (f.round rm false (.fin neg n 0)) with fl := 0 }
  | v => (f.round rm ftz v).also (f.sigs [x])

/-- Compares two values: −1, 0 or 1; none when one is a NaN. −0 equals +0. -/
def FVal.cmp : FVal → FVal → Option Int
  | .nan, _ => none
  | _, .nan => none
  | .inf a, .inf b => some ((if b then 1 else 0) - (if a then 1 else 0))
  | .inf a, _ => some (if a then -1 else 1)
  | _, .inf b => some (if b then 1 else -1)
  | .fin a m e, .fin b n g =>
    let q := min e g
    let d := signed a m * 2 ^ (e - q).toNat - signed b n * 2 ^ (g - q).toNat
    some d.sign

def FVal.isNeg : FVal → Bool
  | .nan => false
  | .inf a => a
  | .fin a _ _ => a

/-- A value as an operand's own pattern: the flushed pattern under FTZ. -/
def Fmt.repr (f : Fmt) (ftz : Bool) (x : Nat) : Nat :=
  if ftz && f.flush && f.subnormal x then f.signBits (x / 2 ^ (f.eb + f.fb) % 2 == 1) else x

/-- `fmin` and `fmax` (07 R163): a NaN loses to a number, −0 orders below +0. -/
def Fmt.minMax (f : Fmt) (ftz isMax : Bool) (x y : Nat) : FRes :=
  let a := f.operand ftz x; let b := f.operand ftz y
  let s := f.sigs [x, y]
  match FVal.cmp a b with
  | none =>
    if a.isNan && b.isNan then { bits := f.nanBits, fl := s }
    else { bits := f.repr ftz (if a.isNan then y else x), fl := s }
  | some c =>
    let aLess := decide (c < 0) || (c == 0 && a.isNeg)
    { bits := f.repr ftz (if aLess != isMax then x else y), fl := s }

/-- `fcmp` (05 R132, 07 R159): the condition, and its flags. -/
def Fmt.fcmp (f : Fmt) (ftz : Bool) (sub : Nat) (x y : Nat) : Bool × Flags :=
  let s := f.sigs [x, y]
  match FVal.cmp (f.operand ftz x) (f.operand ftz y) with
  | none => (sub == 1 || sub == 6, if 2 ≤ sub ∧ sub ≤ 5 then s ||| flIO else s)
  | some c =>
    (match sub with
      | 0 => c == 0
      | 1 => c != 0
      | 2 => decide (c < 0)
      | 3 => decide (c ≤ 0)
      | 4 => decide (0 < c)
      | 5 => decide (0 ≤ c)
      | 7 => true
      | _ => false, s)

/-- `fclass` (07 R164): the operand as stored. -/
def Fmt.fclass (f : Fmt) (x : Nat) : Nat :=
  match f.value x with
  | .nan => if f.snan x then 1 else 2
  | .inf neg => if neg then 4 else 512
  | .fin neg m _ =>
    if m = 0 then (if neg then 32 else 64)
    else if f.subnormal x then (if neg then 16 else 128)
    else (if neg then 8 else 256)

/-! ### Integer types and conversions (07 R154, R166-R168) -/

/-- Width of a TY code (05 R109). -/
def tyWidth (ty : Nat) : Nat :=
  if ty = 6 ∨ ty = 7 ∨ ty = 8 ∨ ty = 15 then 64
  else if ty = 4 ∨ ty = 5 ∨ ty = 9 ∨ ty = 10 then 16
  else if 11 ≤ ty then 8
  else 32
/-- The s types. -/
def tySigned (ty : Nat) : Bool := ty == 1 || ty == 7 || ty == 9 || ty == 11
/-- The s and n types. -/
def tyInt (ty : Nat) : Bool := tySigned ty || ty == 2 || ty == 8 || ty == 10 || ty == 12
/-- The b types. -/
def tyBits (ty : Nat) : Bool := ty == 0 || ty == 15

/-- The number an integer pattern of a type stands for (07 R154). -/
def intOf (ty : Nat) (x : Nat) : Int :=
  let w := tyWidth ty
  let v := x % 2 ^ w
  if tySigned ty && decide (2 ^ (w - 1) ≤ v) then (v : Int) - 2 ^ w else v
def tyMin (ty : Nat) : Int := if tySigned ty then -(2 ^ (tyWidth ty - 1)) else 0
def tyMax (ty : Nat) : Int := if tySigned ty then 2 ^ (tyWidth ty - 1) - 1 else 2 ^ tyWidth ty - 1
/-- The integer modulo the type's width. -/
def wrapInt (w : Nat) (v : Int) : Nat := (v % 2 ^ w).toNat
def clampInt (ty : Nat) (v : Int) : Int := max (tyMin ty) (min v (tyMax ty))
/-- Wraps, or clamps with SAT (07 R161). -/
def fitInt (ty : Nat) (sat : Bool) (v : Int) : Nat := wrapInt (tyWidth ty) (if sat then clampInt ty v else v)

/-- Integer to float (07 R166): an exact zero is −0 under RDN (R157). -/
def Fmt.ofInt (f : Fmt) (rm : Nat) (ftz : Bool) (v : Int) : FRes :=
  f.round rm ftz (.fin (decide (v < 0 ∨ v = 0 ∧ rm = rmRdn)) v.natAbs 0)

/-- Clamps an infinite result with SAT (07 R167). -/
def Fmt.satur (f : Fmt) (r : FRes) (neg : Bool) : FRes :=
  if r.bits % 2 ^ (f.eb + f.fb) = f.infBits ∨ (!f.inf ∧ r.bits = f.nanBits) then
    { r with bits := f.signBits neg + f.maxBits } else r

/-- Float to float (07 R166, R167). -/
def cvtFF (src dst : Fmt) (rm : Nat) (sat ftz : Bool) (x : Nat) : FRes :=
  match src.operand ftz x with
  | .nan => { bits := dst.nanBits, fl := src.sigs [x] }
  | .inf neg =>
    if sat then { bits := dst.signBits neg + dst.maxBits, fl := 0 }
    else if dst.inf then { bits := dst.signBits neg + dst.infBits, fl := 0 }
    else { bits := dst.nanBits, fl := flIO }
  | .fin neg m e =>
    let r := dst.round rm ftz (.fin neg m e)
    if sat && (r.fl &&& flOF) != 0 then dst.satur r neg else r

/-- Float to integer (07 R166, R159). -/
def cvtFI (src : Fmt) (ty rm : Nat) (ftz : Bool) (x : Nat) : FRes :=
  match src.operand ftz x with
  | .nan => { bits := 0, fl := flIO }
  | .inf neg => { bits := wrapInt (tyWidth ty) (if neg then tyMin ty else tyMax ty), fl := flIO }
  | .fin neg m e =>
    let r := roundInt rm neg m e
    let v := signed neg r.1
    if v < tyMin ty ∨ tyMax ty < v then { bits := wrapInt (tyWidth ty) (clampInt ty v), fl := flIO }
    else { bits := wrapInt (tyWidth ty) v, fl := if r.2 then flIX else 0 }

/-- `cvt` of one element from type `src` to type `dst` (07 R166, R167). -/
def convert (src dst rm : Nat) (sat ftz : Bool) (x : Nat) : FRes :=
  let x := x % 2 ^ tyWidth src
  if tyBits src || tyBits dst then { bits := x % 2 ^ tyWidth dst, fl := 0 }
  else
    match fmtOf src, fmtOf dst with
    | none, none => { bits := fitInt dst sat (intOf src x), fl := 0 }
    | none, some d =>
      let r := d.ofInt rm ftz (intOf src x)
      if sat && (r.fl &&& flOF) != 0 then d.satur r (decide (intOf src x < 0)) else r
    | some f, none => cvtFI f dst rm ftz x
    | some f, some d => cvtFF f d rm sat ftz x

/-- `cvtq` of one element (07 R155, R168). -/
def quantise (f : Fmt) (q4 : Bool) (rm : Nat) (ftz : Bool) (scale zp x : Nat) : FRes :=
  let z := zp % (if q4 then 16 else 256)
  let cmax := if q4 then 15 else 255
  match f.operand ftz x, fmtF16.value scale with
  | .nan, _ => { bits := z, fl := flIO }
  | _, .nan => { bits := z, fl := flIO }
  | _, .inf _ => { bits := z, fl := flIO }
  | .inf a, .fin b n _ => if n = 0 then { bits := z, fl := flIO } else { bits := if a != b then 0 else cmax, fl := flIO }
  | .fin a m e, .fin b n g =>
    if n = 0 then { bits := z, fl := flIO }
    else
      let d := e - g
      let num := m * 2 ^ d.toNat
      let den := n * 2 ^ (-d).toNat
      -- the quotient with one more bit than the integer, so that a tie is seen
      let up := roundsUp rm (a != b) (num / den % 2 == 1) (2 * num / den % 2) 1 (2 * num % den != 0)
      let q := signed (a != b) (num / den + (if up then 1 else 0))
      let c := q + z
      let code := max 0 (min c cmax)
      { bits := code.toNat, fl := if num % den != 0 || code != c then flIX else 0 }

/-- `cvtd` of one element (07 R155, R168). -/
def dequantise (f : Fmt) (q4 : Bool) (rm : Nat) (ftz : Bool) (scale zp x : Nat) : FRes :=
  let lim := if q4 then 16 else 256
  let d : Int := (x % lim : Nat) - (zp % lim : Nat)
  let s := fmtF16.value scale
  let p := FVal.mul s (.fin (decide (d < 0)) d.natAbs 0)
  ((f.round rm ftz p).io (newNan p [s])).also (fmtF16.sigs [scale])

/-- The magnitude that AMAX compares: binary32 |x| as stored, binary64 rounded with RUP; none for a NaN (07 R174). -/
def amaxOf (f : Fmt) (x : Nat) : Option Nat :=
  match f.value x with
  | .nan => none
  | .inf _ => some fmtF32.infBits
  | .fin _ m e => some ((fmtF32.round rmRup false (.fin false m e)).bits)

end Sys2Proof.Machine
end

