-- ==== Sys2Proof/Config.lean ====
section
/-! DEFINITION. What an implementation fixes and what the spec leaves open. The opaque constants have no body:
nothing can be proved of their values (notes/assumptions/3.md). -/

namespace Sys2Proof

/-- Signature bytes made with the device identity key over a digest (18 R389): the key is not given. -/
opaque Config.signature : List Byte → List Byte

/-- The identity key's certificate (18 R389), which has at least one byte (R385): its first byte and the others are not given. -/
opaque Config.certificate : Byte × List Byte

/-- The SHA3-256 hash of the firmware's public key, which is fused into the package (18 R388): not given. -/
opaque Config.fusedKeyHash : List Byte

/-- ML-DSA-44 verification of 18 R388: public key, message and signature. The spec names the algorithm and does not define it. -/
opaque Config.mlDsaVerify : List Byte → List Byte → List Byte → Bool

/-- The smallest slack, in picoseconds, that a cluster's replica monitors measure in an interval (17 R374): cluster,
and a counter that makes each interval fresh. -/
opaque Config.replicaSlack : Nat → Nat → Nat

/-- Bytes that the device behind a CXL tier port holds (18 R387). -/
opaque Config.cxlBytes : Nat → Nat

/-- Texel index of a coordinate, as its f32 pattern, that is not finite (22 R500 gives none). -/
opaque Config.texelIndex : Nat → Int

/-- What `texq` with SUB 2 returns for a texel outside the texture (22 R501 gives none), by a coordinate's pattern. -/
opaque Config.texqOutside : Nat → BitVec 32

/-- The rgba8 unorm channel that a NaN converts to (14 R321 gives none), by its pattern. -/
opaque Config.unormOfNan : Nat → Nat

/-- Device cycles of a load from local HBM, typical figure (01 R27). -/
def Config.hbmLatency : Nat := 380

/-- Device cycles of a load from the CXL tier, typical figure (01 R27). -/
def Config.cxlLatency : Nat := 900

end Sys2Proof
end

