-- ==== Sys2Proof/Syntax.lean ====
section
/-! DEFINITION. The instructions of Farnak 3 and the steps of the machine that are not fetched: one
constructor per row of the opcode table (05 R95-R133; 95). A fetched instruction carries the fields of its
words as 05 lays them out; an event carries the identity of what it happens to. -/

namespace Sys2Proof

/-- Operand area of class R (05 R98). -/
structure RWord where
  s : Bool
  d : BitVec 7
  a : BitVec 7
  b : BitVec 7
  k : Bool
  deriving DecidableEq, Repr

/-- Operand area of class J (05 R98). -/
structure JWord where
  s : Bool
  off : BitVec 22
  deriving DecidableEq, Repr

/-- Operand area of class P (05 R98). -/
structure PWord where
  s : Bool
  pred : BitVec 3
  neg : Bool
  off : BitVec 18
  deriving DecidableEq, Repr

/-- Operand area of class U (05 R98); `z` is the field that must be zero. -/
structure UWord where
  s : Bool
  d : BitVec 6
  a : BitVec 6
  b : BitVec 6
  k : Bool
  z : BitVec 3
  deriving DecidableEq, Repr

/-- Operand area of class M (05 R98). -/
structure MWord where
  s : Bool
  d : BitVec 7
  a : BitVec 7
  bu : BitVec 6
  w : Bool
  nr : Bool
  deriving DecidableEq, Repr

/-- The XA extension word (05 R102). -/
structure XaWord where
  c : BitVec 7
  ty : BitVec 4
  pr : BitVec 3
  pn : Bool
  bh : BitVec 2
  bw : BitVec 2
  xd : Bool
  xa : Bool
  xb : Bool
  rm : BitVec 3
  sat : Bool
  cu : Bool
  au : Bool
  sub : BitVec 4
  deriving DecidableEq, Repr

/-- The XM extension word (05 R105). -/
structure XmWord where
  off : BitVec 14
  sz : BitVec 3
  ord : BitVec 2
  scope : BitVec 3
  cp : BitVec 2
  pr : BitVec 3
  pn : Bool
  sub : BitVec 4
  deriving DecidableEq, Repr

/-- The XT extension word (05 R107); `z6` is the field that must be zero. -/
structure XtWord where
  tile : BitVec 4
  pm1 : BitVec 4
  aty : BitVec 3
  bty : BitVec 3
  mw : BitVec 4
  z : Bool
  co : Bool
  ak : Bool
  bk : Bool
  z6 : BitVec 6
  sub : BitVec 4
  deriving DecidableEq, Repr

/-- A part of a resident wave: its core, its wave slot in the core and its lane base (03 R52, R75). -/
structure PartRef where
  core : Nat
  slot : Nat
  base : Nat
  deriving DecidableEq, Repr

/-- Who makes a register write (18 R379, R380): the management function, the management controller, or
the host function of a tenant. -/
inductive Source where
  | pf0
  | controller
  | tenant (t : Nat)
  deriving DecidableEq, Repr

/-- One access through an aperture (18 R386): offset, size in bytes, and the data of a write. -/
structure HostAccess where
  write : Bool
  off : Nat
  size : Nat
  data : W64
  deriving DecidableEq, Repr

/-- The instructions and steps of the machine, in the order of the opcode table. -/
inductive Instr where
  /-- NOP (R454): One-word no-op; with S set it parks until LD is zero. -/
  | nop (r : RWord)
  /-- NOP_XI (R454): Two-word no-op whose XI word may hold any value. -/
  | nopXi (r : RWord) (x : W32)
  /-- BRA (R410): Moves the part's current path to the class-J target. -/
  | bra (j : JWord)
  /-- BRP (R410): Divergent predicated branch; it divides the part by the buddy rule or runs the paths under a mask. -/
  | brp (p : PWord)
  /-- BRU (R410): Moves the whole part to the target if the predicate holds in any active lane. -/
  | bru (p : PWord)
  /-- JMP (R442): Transfers to the address held in a uniform register, with ACCESS and ALIGN checks. -/
  | jmp (u : UWord)
  /-- CALL (R410): Writes the return address to s63 and branches. -/
  | call (j : JWord)
  /-- RET (R475): Returns through a uniform register, s63 by default. -/
  | ret (u : UWord)
  /-- CONF (R60): Confluence point: waits for LD, then waits for the buddy block and fuses, or proceeds alone. -/
  | conf (r : RWord)
  /-- FUSE (R66): Forced-fuse point that does nothing else. -/
  | fuse (r : RWord)
  /-- EXIT (R429): Drains the counts, delivers pending failures, then ends the lanes of the current path. -/
  | exit (r : RWord)
  /-- ENTRY (R428): Kernel or task entry; performs a sys-scope acquire. -/
  | entry (r : RWord)
  /-- GCALL (R302): Gate call: checks the gate, claims and scrubs the callee allotment, pushes a frame and switches domain. -/
  | gcall (r : RWord) (x : W32)
  /-- GRET (R305): Ends a gate call: copies the results, releases the callee allotment and restores the caller. -/
  | gret (r : RWord)
  /-- GENTRY (R306): Marks a gate entry; reached other than by gcall it raises GATE with DETAIL 6. -/
  | gentry (r : RWord)
  /-- TRAP (R280): Raises SOFT with DETAIL n after it completes. -/
  | trap (r : RWord)
  /-- BRK (R280): Raises BRK, or halts the die when BRKHALT is set. -/
  | brk (r : RWord)
  /-- SLEEP (R490): Parks the part for a number of device cycles. -/
  | sleep (u : UWord)
  /-- SLEEPAT (R490): Parks the part until the DCC reaches a deadline. -/
  | sleepat (u : UWord)
  /-- PWAIT (R227): Parks until the promise time; raises PROMISE if the copy is still outstanding. -/
  | pwait (u : UWord)
  /-- WINB (R509): Sets the window base. -/
  | winb (r : RWord)
  /-- PHINT (R285): Pre-emption point: checks the scratch ranges and saves the part if PEND is set. -/
  | phint (u : UWord) (x : W32)
  /-- REGION (R281): Waits for LD, then sets a new idempotent region entry and counts it. -/
  | region (r : RWord)
  /-- TRET (R278): Returns from a trap handler to the resume address. -/
  | tret (r : RWord)
  /-- SADD (R478): 64-bit uniform add. -/
  | sadd (u : UWord)
  /-- SSUB (R478): 64-bit uniform subtract. -/
  | ssub (u : UWord)
  /-- SMUL (R478): 64-bit uniform multiply, low half. -/
  | smul (u : UWord)
  /-- SMULH (R478): High 64 bits of the unsigned uniform product. -/
  | smulh (u : UWord)
  /-- SAND (R478): Uniform bitwise and. -/
  | sand (u : UWord)
  /-- SOR (R478): Uniform bitwise or. -/
  | sor (u : UWord)
  /-- SXOR (R478): Uniform bitwise xor. -/
  | sxor (u : UWord)
  /-- SSHL (R478): Uniform shift left. -/
  | sshl (u : UWord)
  /-- SSHR (R478): Uniform logical shift right. -/
  | sshr (u : UWord)
  /-- SSAR (R478): Uniform arithmetic shift right. -/
  | ssar (u : UWord)
  /-- SMIN (R478): Uniform signed minimum. -/
  | smin (u : UWord)
  /-- SMAX (R478): Uniform signed maximum. -/
  | smax (u : UWord)
  /-- SMOV (R479): Copies one uniform register to another. -/
  | smov (u : UWord)
  /-- SMOVI (R479): Writes a sign-extended 32-bit immediate to a uniform register. -/
  | smovi (u : UWord) (x : W32)
  /-- SMOVH (R479): Writes the high 32 bits of a uniform register. -/
  | smovh (u : UWord) (x : W32)
  /-- SCMP (R480): Uniform compare that writes 1 or 0. -/
  | scmp (u : UWord) (x : XaWord)
  /-- SSEL (R480): Uniform select on s(C). -/
  | ssel (u : UWord) (x : XaWord)
  /-- SLD (R482): One-word uniform load of 4 bytes. -/
  | sld (u : UWord)
  /-- SLD_EXT (R482): Uniform load with an XM word. -/
  | sldExt (u : UWord) (x : XmWord)
  /-- SST (R482): One-word uniform store of 4 bytes. -/
  | sst (u : UWord)
  /-- SST_EXT (R482): Uniform store with an XM word. -/
  | sstExt (u : UWord) (x : XmWord)
  /-- IADD (R440): Integer add, one-word form. -/
  | iadd (r : RWord)
  /-- IADD_EXT (R440): Integer add with an XA word. -/
  | iaddExt (r : RWord) (x : XaWord)
  /-- ISUB (R440): Integer subtract, one-word form. -/
  | isub (r : RWord)
  /-- ISUB_EXT (R440): Integer subtract with an XA word. -/
  | isubExt (r : RWord) (x : XaWord)
  /-- IMUL (R440): Integer multiply, one-word form. -/
  | imul (r : RWord)
  /-- IMUL_EXT (R440): Integer multiply with an XA word. -/
  | imulExt (r : RWord) (x : XaWord)
  /-- IMULH (R440): High half of the integer product, one-word form. -/
  | imulh (r : RWord)
  /-- IMULH_EXT (R440): High half of the integer product, with an XA word. -/
  | imulhExt (r : RWord) (x : XaWord)
  /-- IMAD (R440): Integer multiply-add, A times B plus C. -/
  | imad (r : RWord) (x : XaWord)
  /-- IMIN (R440): Integer minimum, one-word form. -/
  | imin (r : RWord)
  /-- IMIN_EXT (R440): Integer minimum with an XA word. -/
  | iminExt (r : RWord) (x : XaWord)
  /-- IMAX (R440): Integer maximum, one-word form. -/
  | imax (r : RWord)
  /-- IMAX_EXT (R440): Integer maximum with an XA word. -/
  | imaxExt (r : RWord) (x : XaWord)
  /-- IABS (R440): Integer absolute value, one-word form. -/
  | iabs (r : RWord)
  /-- IABS_EXT (R440): Integer absolute value with an XA word. -/
  | iabsExt (r : RWord) (x : XaWord)
  /-- AND (R397): Bitwise and, one-word form. -/
  | and (r : RWord)
  /-- AND_EXT (R397): Bitwise and with an XA word. -/
  | andExt (r : RWord) (x : XaWord)
  /-- OR (R455): Bitwise or, one-word form. -/
  | or (r : RWord)
  /-- OR_EXT (R455): Bitwise or with an XA word. -/
  | orExt (r : RWord) (x : XaWord)
  /-- XOR (R511): Bitwise xor, one-word form. -/
  | xor (r : RWord)
  /-- XOR_EXT (R511): Bitwise xor with an XA word. -/
  | xorExt (r : RWord) (x : XaWord)
  /-- ANDN (R397): A and not B, one-word form. -/
  | andn (r : RWord)
  /-- ANDN_EXT (R397): A and not B, with an XA word. -/
  | andnExt (r : RWord) (x : XaWord)
  /-- SHL (R483): Vector shift left, one-word form. -/
  | shl (r : RWord)
  /-- SHL_EXT (R483): Vector shift left with an XA word. -/
  | shlExt (r : RWord) (x : XaWord)
  /-- SHR (R483): Vector logical shift right, one-word form. -/
  | shr (r : RWord)
  /-- SHR_EXT (R483): Vector logical shift right with an XA word. -/
  | shrExt (r : RWord) (x : XaWord)
  /-- SAR (R483): Vector arithmetic shift right, one-word form. -/
  | sar (r : RWord)
  /-- SAR_EXT (R483): Vector arithmetic shift right with an XA word. -/
  | sarExt (r : RWord) (x : XaWord)
  /-- POPC (R460): Counts one bits, one-word form. -/
  | popc (r : RWord)
  /-- POPC_EXT (R460): Counts one bits, with an XA word. -/
  | popcExt (r : RWord) (x : XaWord)
  /-- CLZ (R412): Counts leading zeros, one-word form. -/
  | clz (r : RWord)
  /-- CLZ_EXT (R412): Counts leading zeros, with an XA word. -/
  | clzExt (r : RWord) (x : XaWord)
  /-- BREV (R412): Reverses bits, one-word form. -/
  | brev (r : RWord)
  /-- BREV_EXT (R412): Reverses bits, with an XA word. -/
  | brevExt (r : RWord) (x : XaWord)
  /-- BFE (R408): Extracts a bit field, one-word form. -/
  | bfe (r : RWord)
  /-- BFE_EXT (R408): Extracts a bit field, with an XA word. -/
  | bfeExt (r : RWord) (x : XaWord)
  /-- BFI (R408): Inserts a bit field into C. -/
  | bfi (r : RWord) (x : XaWord)
  /-- SEL (R486): Per-lane select by predicate. -/
  | sel (r : RWord) (x : XaWord)
  /-- MOV (R451): Copies a register, one-word form. -/
  | mov (r : RWord)
  /-- MOV_EXT (R451): Copies a vector or uniform register, with an XA word. -/
  | movExt (r : RWord) (x : XaWord)
  /-- MOVI (R452): Writes a 7-bit sign-extended immediate. -/
  | movi (r : RWord)
  /-- MOVI_XI (R452): Writes a 32-bit immediate taken from the XI word. -/
  | moviXi (r : RWord) (x : W32)
  /-- ICMP (R440): Integer compare into a predicate, one-word form. -/
  | icmp (r : RWord)
  /-- ICMP_EXT (R440): Integer compare into a predicate, with an XA word. -/
  | icmpExt (r : RWord) (x : XaWord)
  /-- ISCADD (R440): Scaled add, one-word form (shift 0). -/
  | iscadd (r : RWord)
  /-- ISCADD_EXT (R440): Scaled add with its shift in SUB. -/
  | iscaddExt (r : RWord) (x : XaWord)
  /-- FADD (R433): Float add, one-word form. -/
  | fadd (r : RWord)
  /-- FADD_EXT (R433): Float add with an XA word. -/
  | faddExt (r : RWord) (x : XaWord)
  /-- FSUB (R433): Float subtract, one-word form. -/
  | fsub (r : RWord)
  /-- FSUB_EXT (R433): Float subtract with an XA word. -/
  | fsubExt (r : RWord) (x : XaWord)
  /-- FMUL (R433): Float multiply, one-word form. -/
  | fmul (r : RWord)
  /-- FMUL_EXT (R433): Float multiply with an XA word. -/
  | fmulExt (r : RWord) (x : XaWord)
  /-- FFMA (R433): Fused multiply-add, rounded once. -/
  | ffma (r : RWord) (x : XaWord)
  /-- FMIN (R433): Float minimumNumber, one-word form. -/
  | fmin (r : RWord)
  /-- FMIN_EXT (R433): Float minimumNumber with an XA word. -/
  | fminExt (r : RWord) (x : XaWord)
  /-- FMAX (R433): Float maximumNumber, one-word form. -/
  | fmax (r : RWord)
  /-- FMAX_EXT (R433): Float maximumNumber with an XA word. -/
  | fmaxExt (r : RWord) (x : XaWord)
  /-- FCMP (R434): Float compare into a predicate, one-word form (eq, f32). -/
  | fcmp (r : RWord)
  /-- FCMP_EXT (R434): Float compare into a predicate, with an XA word. -/
  | fcmpExt (r : RWord) (x : XaWord)
  /-- FRCP (R433): Reciprocal, one-word form. -/
  | frcp (r : RWord)
  /-- FRCP_EXT (R433): Reciprocal with an XA word. -/
  | frcpExt (r : RWord) (x : XaWord)
  /-- FRSQ (R433): Reciprocal square root, one-word form. -/
  | frsq (r : RWord)
  /-- FRSQ_EXT (R433): Reciprocal square root with an XA word. -/
  | frsqExt (r : RWord) (x : XaWord)
  /-- FSQRT (R433): Square root, one-word form. -/
  | fsqrt (r : RWord)
  /-- FSQRT_EXT (R433): Square root with an XA word. -/
  | fsqrtExt (r : RWord) (x : XaWord)
  /-- FDIV (R433): Float divide, one-word form. -/
  | fdiv (r : RWord)
  /-- FDIV_EXT (R433): Float divide with an XA word. -/
  | fdivExt (r : RWord) (x : XaWord)
  /-- FEXP2 (R433): Base-2 exponential, one-word form. -/
  | fexp2 (r : RWord)
  /-- FEXP2_EXT (R433): Base-2 exponential with an XA word. -/
  | fexp2Ext (r : RWord) (x : XaWord)
  /-- FLOG2 (R433): Base-2 logarithm, one-word form. -/
  | flog2 (r : RWord)
  /-- FLOG2_EXT (R433): Base-2 logarithm with an XA word. -/
  | flog2Ext (r : RWord) (x : XaWord)
  /-- FSIN (R433): Sine of 2 pi x, one-word form. -/
  | fsin (r : RWord)
  /-- FSIN_EXT (R433): Sine of 2 pi x, with an XA word. -/
  | fsinExt (r : RWord) (x : XaWord)
  /-- FCOS (R433): Cosine of 2 pi x, one-word form. -/
  | fcos (r : RWord)
  /-- FCOS_EXT (R433): Cosine of 2 pi x, with an XA word. -/
  | fcosExt (r : RWord) (x : XaWord)
  /-- FRND (R433): Rounds to an integral value, one-word form. -/
  | frnd (r : RWord)
  /-- FRND_EXT (R433): Rounds to an integral value, with an XA word. -/
  | frndExt (r : RWord) (x : XaWord)
  /-- FCLASS (R164): Writes the class mask of a float, one-word form. -/
  | fclass (r : RWord)
  /-- FCLASS_EXT (R164): Writes the class mask of a float, with an XA word. -/
  | fclassExt (r : RWord) (x : XaWord)
  /-- FSCALE (R433): Computes A times 2 to the B, one-word form. -/
  | fscale (r : RWord)
  /-- FSCALE_EXT (R433): Computes A times 2 to the B, with an XA word. -/
  | fscaleExt (r : RWord) (x : XaWord)
  /-- CVT (R420): Converts between element types and updates AMAX. -/
  | cvt (r : RWord) (x : XaWord)
  /-- CVTQ (R423): Quantises floats to q8 or q4 codes. -/
  | cvtq (r : RWord) (x : XaWord)
  /-- CVTD (R423): Dequantises q8 or q4 codes to floats. -/
  | cvtd (r : RWord) (x : XaWord)
  /-- PACK (R456): Packs halves, one-word form. -/
  | pack (r : RWord)
  /-- PACK_EXT (R456): Packs halves or bytes, with an XA word. -/
  | packExt (r : RWord) (x : XaWord)
  /-- UNPACK (R506): Extracts half 0, zero-extended, one-word form. -/
  | unpack (r : RWord)
  /-- UNPACK_EXT (R506): Extracts a half or a byte, with an XA word. -/
  | unpackExt (r : RWord) (x : XaWord)
  /-- AMAX (R396): Folds magnitudes into AMAX, one-word form. -/
  | amax (r : RWord)
  /-- AMAX_EXT (R396): Folds magnitudes into AMAX, with an XA word. -/
  | amaxExt (r : RWord) (x : XaWord)
  /-- SHFL (R488): Lane shuffle, one-word form (idx). -/
  | shfl (r : RWord)
  /-- SHFL_EXT (R488): Lane shuffle with a mode and MW in XA. -/
  | shflExt (r : RWord) (x : XaWord)
  /-- VOTE (R508): Predicate vote any, one-word form. -/
  | vote (r : RWord)
  /-- VOTE_EXT (R508): Predicate vote or ballot, with an XA word. -/
  | voteExt (r : RWord) (x : XaWord)
  /-- REDU (R472): Reduction across the active lanes, one-word form. -/
  | redu (r : RWord)
  /-- REDU_EXT (R472): Reduction across the active lanes, with an XA word. -/
  | reduExt (r : RWord) (x : XaWord)
  /-- SCAN (R485): Inclusive s32 add scan, one-word form. -/
  | scan (r : RWord)
  /-- SCAN_EXT (R485): Prefix scan with an XA word. -/
  | scanExt (r : RWord) (x : XaWord)
  /-- RDLANE (R470): Reads one lane into a uniform register, one-word form. -/
  | rdlane (r : RWord)
  /-- RDLANE_EXT (R470): Reads one lane into a uniform register, with an XA word. -/
  | rdlaneExt (r : RWord) (x : XaWord)
  /-- WRLANE (R510): Writes one lane from a uniform register. -/
  | wrlane (r : RWord) (x : XaWord)
  /-- DDX (R427): Horizontal quad derivative, one-word form. -/
  | ddx (r : RWord)
  /-- DDX_EXT (R427): Horizontal quad derivative with an XA word. -/
  | ddxExt (r : RWord) (x : XaWord)
  /-- DDY (R427): Vertical quad derivative, one-word form. -/
  | ddy (r : RWord)
  /-- DDY_EXT (R427): Vertical quad derivative with an XA word. -/
  | ddyExt (r : RWord) (x : XaWord)
  /-- QPERM (R465): Quad permute by lane XOR 1, one-word form. -/
  | qperm (r : RWord)
  /-- QPERM_EXT (R465): Quad permute with its mode in XA. -/
  | qpermExt (r : RWord) (x : XaWord)
  /-- LD (R445): Global load, one-word form. -/
  | ld (m : MWord)
  /-- LD_EXT (R445): Global load with an XM word. -/
  | ldExt (m : MWord) (x : XmWord)
  /-- ST (R494): Global store, one-word form. -/
  | st (m : MWord)
  /-- ST_EXT (R494): Global store with an XM word. -/
  | stExt (m : MWord) (x : XmWord)
  /-- LDL (R447): Scratch load, one-word form. -/
  | ldl (m : MWord)
  /-- LDL_EXT (R447): Scratch load with an XM word. -/
  | ldlExt (m : MWord) (x : XmWord)
  /-- STL (R496): Scratch store, one-word form. -/
  | stl (m : MWord)
  /-- STL_EXT (R496): Scratch store with an XM word. -/
  | stlExt (m : MWord) (x : XmWord)
  /-- ATOM (R400): Global atomic xchg, one-word form. -/
  | atom (m : MWord)
  /-- ATOM_EXT (R400): Global atomic with an XM word. -/
  | atomExt (m : MWord) (x : XmWord)
  /-- ATOML (R402): Scratch atomic xchg, one-word form. -/
  | atoml (m : MWord)
  /-- ATOML_EXT (R402): Scratch atomic with an XM word. -/
  | atomlExt (m : MWord) (x : XmWord)
  /-- FENCE (R218): Waits for LD and ST, then performs release and/or acquire actions at a scope. -/
  | fence (m : MWord) (x : XmWord)
  /-- CCTL (R414): Cache write-back, one-word form. -/
  | cctl (m : MWord)
  /-- CCTL_EXT (R414): Cache control operation selected in XM. -/
  | cctlExt (m : MWord) (x : XmWord)
  /-- PFETCH (R458): Prefetch hint, one-word form. -/
  | pfetch (m : MWord)
  /-- PFETCH_EXT (R458): Prefetch hint with an XM word. -/
  | pfetchExt (m : MWord) (x : XmWord)
  /-- TCOPY (R237): Queues an asynchronous tensor copy and returns a promise. -/
  | tcopy (u : UWord) (x : XtWord)
  /-- MMA (R243): Queues a matrix multiply-accumulate into accumulator tiles. -/
  | mma (u : UWord) (x : XtWord)
  /-- MMZ (R450): Queues the clearing of an accumulator tile. -/
  | mmz (u : UWord) (x : XtWord)
  /-- TKACQ (R503): Takes a tile's token back, waiting for the tile's MX work. -/
  | tkacq (u : UWord) (x : XtWord)
  /-- TKREL (R503): Yields a tile's token to the engine side. -/
  | tkrel (u : UWord) (x : XtWord)
  /-- ACCRD (R394): Reads an accumulator row into vector registers. -/
  | accrd (r : RWord) (x : XtWord)
  /-- ACCWR (R394): Writes an accumulator row from vector registers. -/
  | accwr (r : RWord) (x : XtWord)
  /-- WAITC (R224): Waits for an engine count and delivers pending failures. -/
  | waitc (r : RWord)
  /-- BARA (R405): Arrives at a named barrier after a group-scope release. -/
  | bara (r : RWord)
  /-- BARW (R405): Waits for the recorded barrier phase, then acquires. -/
  | barw (r : RWord)
  /-- BAR (R405): Forced fuse, then arrive and wait at a barrier, one-word form. -/
  | bar (r : RWord)
  /-- BAR_EXT (R405): Barrier with MW in an XA word. -/
  | barExt (r : RWord) (x : XaWord)
  /-- RBAR (R468): Barrier across an aligned sub-rectangle, one-word form. -/
  | rbar (r : RWord)
  /-- RBAR_EXT (R468): Rectangle barrier with MW in an XA word. -/
  | rbarExt (r : RWord) (x : XaWord)
  /-- REGREL (R36): Releases registers of the wave's allotment to the pool. -/
  | regrel (r : RWord) (x : W32)
  /-- REGCLM (R37): Claims more registers for the wave and parks until the claim is granted. -/
  | regclm (r : RWord) (x : W32)
  /-- CHSEND (R417): Sends a channel message, parking without a credit. -/
  | chsend (r : RWord)
  /-- CHRECV (R417): Receives a channel message into registers. -/
  | chrecv (r : RWord)
  /-- QENQ (R463): Sends an enqueue request to a slice queue. -/
  | qenq (u : UWord)
  /-- QDEQ (R463): Sends a dequeue request to a slice queue. -/
  | qdeq (u : UWord)
  /-- FORK (R435): Checks a task descriptor, releases at rect scope and pushes it to the deque. -/
  | fork (u : UWord)
  /-- JOIN (R443): Parks until a counter reads zero, then acquires at dev scope. -/
  | join (u : UWord)
  /-- TEX (R500): Texture sample, one-word form. -/
  | tex (m : MWord)
  /-- TEX_EXT (R500): Texture sample with an XA word. -/
  | texExt (m : MWord) (x : XaWord)
  /-- TEXG (R500): Texture gather, one-word form. -/
  | texg (m : MWord)
  /-- TEXG_EXT (R500): Texture gather with an XA word. -/
  | texgExt (m : MWord) (x : XaWord)
  /-- TEXQ (R501): Texture dimension query, one-word form. -/
  | texq (m : MWord)
  /-- TEXQ_EXT (R501): Texture query with an XA word. -/
  | texqExt (m : MWord) (x : XaWord)
  /-- IPA (R330): Interpolates an attribute, one-word form. -/
  | ipa (r : RWord)
  /-- IPA_EXT (R330): Interpolates an attribute, with an XA word. -/
  | ipaExt (r : RWord) (x : XaWord)
  /-- KILL (R329): Makes lanes helpers and retires their fragments, one-word form. -/
  | kill (r : RWord)
  /-- KILL_EXT (R329): Predicated kill with an XA word. -/
  | killExt (r : RWord) (x : XaWord)
  /-- POUT (R331): Queues pixel output for a target, one-word form. -/
  | pout (r : RWord)
  /-- POUT_EXT (R331): Predicated pixel output with an XA word. -/
  | poutExt (r : RWord) (x : XaWord)
  /-- MVTX (R313): Writes a mesh vertex. -/
  | mvtx (r : RWord)
  /-- MPRIM (R313): Emits a mesh triangle. -/
  | mprim (r : RWord)
  /-- RTRAV (R342): Begins a BVH traversal in f32, one-word form. -/
  | rtrav (m : MWord)
  /-- RTRAV_EXT (R341): Begins or continues a traversal, with an XA word. -/
  | rtravExt (m : MWord) (x : XaWord)
  /-- RTCOM (R341): Records a decision on a user candidate, one-word form. -/
  | rtcom (r : RWord)
  /-- RTCOM_EXT (R341): Records a candidate decision, with an XA word. -/
  | rtcomExt (r : RWord) (x : XaWord)
  /-- RTREP (R350): Reads a traversal log record, one-word form. -/
  | rtrep (m : MWord)
  /-- RTREP_EXT (R350): Reads a traversal log record, with an XA word. -/
  | rtrepExt (m : MWord) (x : XaWord)
  /-- SRGET (R492): Copies a system register into a uniform register. -/
  | srget (u : UWord)
  /-- SRSET (R492): Writes a system register from a uniform register. -/
  | srset (u : UWord)
  /-- TLBI (R505): Invalidates translations and gate caches across the package. -/
  | tlbi (u : UWord)
  /-- HSIG (R438): Releases at sys scope, stores a value to the host signal slot and sends MSI-X. -/
  | hsig (u : UWord)
  /-- QUEUE_NOP (R254): NOP command consumed from a host command queue. -/
  | queueNop (q : Nat)
  /-- LAUNCH (R255): LAUNCH command validated and accepted for placement, or a draw when a pass is bound. -/
  | launch (q : Nat)
  /-- WAIT (R256): WAIT command consumed once the polled word reaches its value. -/
  | wait (q : Nat)
  /-- WAIT_POLL (R256): Periodic sys-scope re-read of a WAIT command's word. -/
  | waitPoll (q : Nat)
  /-- SIGNAL (R256): SIGNAL command stores a value once earlier launches have completed. -/
  | signal (q : Nat)
  /-- GRAPHLOAD (R264): Copies and checks a task graph image into scheduler memory. -/
  | graphload (q : Nat)
  /-- QTAIL_WRITE (R253): Doorbell write of a queue's TAIL; the scheduler reads the new commands. -/
  | qtailWrite (q : Nat) (v : W64) (src : Source)
  /-- QERR_STOP_WRITE (R252): Writing 1 to STOP skips the stopped command and resumes the queue. -/
  | qerrStopWrite (q : Nat) (v : W64) (src : Source)
  /-- QPASS_WRITE (R309): Binds or unbinds a pass for a queue and resets its draw count. -/
  | qpassWrite (q : Nat) (v : W64) (src : Source)
  /-- TRIGGER_WRITE (R265): A 64-bit write starts or drops an instance of a task graph. -/
  | triggerWrite (t : Nat) (v : W64) (whole : Bool) (src : Source)
  /-- REGISTER_WRITE (R6): Write to a register that has no behaviour of its own, applied by access code. -/
  | registerWrite (off : Nat) (v : W64) (src : Source)
  /-- LOAD (R384): Mailbox LOAD request: copies, verifies and maps a segment. -/
  | load
  /-- UNLOAD (R384): Mailbox UNLOAD request: unmaps a segment once its launches are gone. -/
  | unload
  /-- ATTEST (R385): Mailbox ATTEST request: writes a signed measurement reply. -/
  | attest
  /-- FWRELOAD (R385): Mailbox FWRELOAD request: verifies and stores a new firmware image. -/
  | fwreload
  /-- MAILBOX_REQUEST_END (R383): A mailbox request ends: STATE and DONE are set and MSI-X vector 0 is sent. -/
  | mailboxRequestEnd
  /-- FAULT_REPLY (R190): Write of FREPLY answering a fault ticket with replay or reject. -/
  | faultReply (die : Nat) (v : W64) (src : Source)
  /-- HALTED_WRITE (R296): Writing 1 to DBGHALT.HALTED resumes selection on the die. -/
  | haltedWrite (die : Nat) (v : W64) (src : Source)
  /-- PWRCFG_WRITE (R367): Write of a cluster's REFILL and CAP, ignored whole when CAP is invalid. -/
  | pwrcfgWrite (c : Nat) (v : W64) (src : Source)
  /-- RAMP_WRITE (R367): Write of the slew ramp table, ignored whole when it is not valid. -/
  | rampWrite (c : Nat) (upper : Bool) (v : W64) (src : Source)
  /-- RAILSEL_WRITE (R375): Selects a cluster's rail, at once if the cluster is gated, else at its next gating commit. -/
  | railselWrite (c : Nat) (v : W64) (src : Source)
  /-- DOMTAB_WRITE (R389): Sets the domain table address and extends M1. -/
  | domtabWrite (v : W64) (src : Source)
  /-- APERTURE_ACCESS (R386): Host access through the PF0 BAR2 aperture to device memory. -/
  | apertureAccess (a : HostAccess)
  /-- TENANT_APERTURE_ACCESS (R386): Tenant access through its aperture, translated under its ASID. -/
  | tenantApertureAccess (t : Nat) (a : HostAccess)
  /-- PACKAGE_RESET (R391): Verifies firmware, trains memory and links, clears arrays and starts the DCC. -/
  | packageReset
  /-- FUNCTION_LEVEL_RESET (R391): Reset of a tenant function: disables its queues and ends its waves. -/
  | functionLevelReset (t : Nat)
  /-- FATAL_ERROR (R390): A fatal error halts every die and sets FWSTAT to fatal. -/
  | fatalError (cause : Nat) (pa : Nat)
  /-- STATE_DUMP_COMPLETE (R390): Firmware finishes the state dump and sends MSI-X vector 5. -/
  | stateDumpComplete
  /-- PEER_LINK_STATE (R387): A peer link changes its training state. -/
  | peerLinkState (k : Nat) (st : Nat)
  /-- DIE_HALT (R296): A halt takes effect and the die stops selecting. -/
  | dieHalt (die : Nat)
  /-- LAUNCH_PLACEMENT (R260): The distributor places a waiting launch on an aligned rectangle. -/
  | launchPlacement (l : Nat)
  /-- GROUP_ADMISSION (R261): A core accepts an offered group and places its waves. -/
  | groupAdmission (l : Nat) (core : Nat)
  /-- TASK_START (R42): A core pops a task from its own deque and starts its group. -/
  | taskStart (l : Nat) (core : Nat)
  /-- TASK_STEAL (R43): An idle core steals the oldest task from another deque of its launch. -/
  | taskSteal (l : Nat) (core : Nat)
  /-- FORK_PUSH (R41): A parked fork pushes its descriptor once the deque has room. -/
  | forkPush (p : PartRef)
  /-- TASK_JOIN_DECREMENT (R45): At a task's end the home slice decrements its join counter. -/
  | taskJoinDecrement (g : Nat)
  /-- JOIN_WAKE (R46): A slice wakes a parked join, which rereads its counter. -/
  | joinWake (p : PartRef)
  /-- LAUNCH_COMPLETION (R263): A launch completes, releases its cores and triggers graph successors. -/
  | launchCompletion (l : Nat)
  /-- PREEMPT_VICTIM_CHOICE (R270): The distributor chooses victims to make room for a waiting launch. -/
  | preemptVictimChoice (l : Nat)
  /-- LAUNCH_DUE (R272): A waiting launch's count reaches QUANTUM and it becomes due. -/
  | launchDue (l : Nat)
  /-- PROTECTION_END (R272): A placed due launch's protection period ends. -/
  | protectionEnd (l : Nat)
  /-- FORCED_SAVE (R287): PREEMPT.TIMEOUT expires; unsaved parts are restarted and saved whole. -/
  | forcedSave (l : Nat)
  /-- VICTIM_RELEASE (R271): Every wave of a victim is saved; its cores are released. -/
  | victimRelease (l : Nat)
  /-- LAUNCH_RESTORE (R291): A saved launch is restored and its parts resume. -/
  | launchRestore (l : Nat)
  /-- CLAIM_GRANT (R38): End-of-cycle grant of pending register claims in age order. -/
  | claimGrant (core : Nat)
  /-- CLAIM_AGING (R38): A claim that has waited 4,096 cycles blocks younger claims on shared banks. -/
  | claimAging (core : Nat)
  /-- CLAIM_DEADLOCK (R39): A group in claim deadlock takes REGDEAD in its claiming waves. -/
  | claimDeadlock (g : Nat)
  /-- CONF_TIMEOUT (R60): A confluence wait expires and the part proceeds alone. -/
  | confTimeout (p : PartRef)
  /-- MISS_SPLIT (R58): After 32 parked cycles a part divides on a partial miss. -/
  | missSplit (p : PartRef)
  /-- FUSEFAIL (R65): A part parked at a forced-fuse point whose block can never become present takes FUSEFAIL. -/
  | fusefail (p : PartRef)
  /-- BARRIER_PHASE_COMPLETE (R403): Every expected quad has arrived; the barrier phase completes. -/
  | barrierPhaseComplete (g : Nat) (b : Nat)
  /-- RBAR_LOCAL_COMPLETION (R467): A core's rbar instance completes locally and reports to the coordinating slice. -/
  | rbarLocalCompletion (l : Nat) (core : Nat)
  /-- RBAR_REPORT (R469): A local completion report arrives at the coordinating slice. -/
  | rbarReport (l : Nat) (core : Nat)
  /-- RBAR_GLOBAL_COMPLETION (R468): Every core of the sub-rectangle has reported; the waiters acquire and continue. -/
  | rbarGlobalCompletion (l : Nat) (core : Nat)
  /-- SLEEP_WAKE (R490): A sleeping part's deadline is reached. -/
  | sleepWake (p : PartRef)
  /-- PWAIT_WAKE (R227): A parked pwait's promise time is reached; PROMISE is checked. -/
  | pwaitWake (p : PartRef)
  /-- PAGE_WALK_COMPLETE (R186): A walker finishes a translation, filling TLBs or posting a fault record. -/
  | pageWalkComplete (w : Nat)
  /-- LD_COMPLETION (R223): An LD-class operation's destinations are written and its count falls. -/
  | ldCompletion (op : Nat)
  /-- ST_COMPLETION (R223): An ST-class operation has performed at its scope and its count falls. -/
  | stCompletion (op : Nat)
  /-- SLICE_REQUEST (R199): A request arrives at a slice and is served in arrival order. -/
  | sliceRequest (op : Nat)
  /-- PIN_TIMEOUT (R222): A refused pin's count reaches 65,536; the slice demands a write-back. -/
  | pinTimeout (line : Nat)
  /-- QUEUE_ENQUEUE_REQUEST (R203): The home slice performs or parks a qenq on a queue. -/
  | queueEnqueueRequest (op : Nat)
  /-- QUEUE_DEQUEUE_REQUEST (R203): The home slice performs or parks a qdeq on a queue. -/
  | queueDequeueRequest (op : Nat)
  /-- CHANNEL_MESSAGE_ARRIVAL (R205): A channel message arrives at its slot store. -/
  | channelMessageArrival (op : Nat)
  /-- CHANNEL_CREDIT_RETURN (R205): A received slot's credit returns to the sender. -/
  | channelCreditReturn (l : Nat) (inst : Nat)
  /-- BANK_DROWSY (R200): A slice bank idle for 4,096 cycles enters retention voltage. -/
  | bankDrowsy (bank : Nat)
  /-- BANK_WAKE_COMPLETE (R200): A drowsy bank's 12-cycle wake ends. -/
  | bankWakeComplete (bank : Nat)
  /-- TCOPY_COMPLETE (R237): A copy engine operation completes or ends with a failure. -/
  | tcopyComplete (op : Nat)
  /-- COOP_MMA_RELEASE (R249): Every instance of a co-operative mma has issued; the instances may pass their first k-step. -/
  | coopMmaRelease (op : Nat)
  /-- MMA_KSTEP_DELIVERY (R244): A memory-sourced stream delivers a k-step's operands to the array. -/
  | mmaKstepDelivery (op : Nat)
  /-- MMA_COMPLETE (R244): An mma completes 24 cycles after its last pass. -/
  | mmaComplete (op : Nat)
  /-- MMZ_COMPLETE (R450): An mmz completes and the tile is zero. -/
  | mmzComplete (op : Nat)
  /-- SLEW_STEP (R372): Each 4-cycle step the slew limiter sets its budget, grants passes and adds fillers. -/
  | slewStep (c : Nat)
  /-- PAC_SUSTAINED_STRIKE (R369): The allowance has stayed negative for 256 cycles; every weighted class is struck. -/
  | pacSustainedStrike (c : Nat)
  /-- VOLTAGE_INTERVAL (R374): Every 1,200 cycles the replica loop records slack and adjusts REQ. -/
  | voltageInterval (c : Nat)
  /-- GATING_START (R376): After 64 idle cycles a cluster begins gating and L1 write-backs. -/
  | gatingStart (c : Nat)
  /-- GATING_COMMIT (R376): The gating write-backs have performed; the cluster becomes gated. -/
  | gatingCommit (c : Nat)
  /-- CLUSTER_AWAKE (R376): A waking cluster's 2,400 cycles pass and it becomes awake. -/
  | clusterAwake (c : Nat)
  /-- SETUP_BINNING (R316): After a mesh group exits, set-up clips, culls and bins its triangles. -/
  | setupBinning (g : Nat)
  /-- PRIMITIVE_RECORD (R317): A primitive record arrives at the owning die's rasteriser. -/
  | primitiveRecord (r : Nat)
  /-- WATERMARK (R318): A watermark message arrives at a rasteriser. -/
  | watermark (m : Nat)
  /-- WATERMARK_SEND (R318): A set-up unit or the distributor sends a watermark on change or every 256 cycles. -/
  | watermarkSend (l : Nat) (src : Nat)
  /-- RASTERISE_RECORD (R319): A record below the global watermark is rasterised and its fragments registered. -/
  | rasteriseRecord (r : Nat)
  /-- FRAGMENT_COMMIT (R321): A slice applies a retired fragment's depth test and pout writes in order. -/
  | fragmentCommit (f : Nat)
  /-- DIVERGENCE_HISTORY_UPDATE (R327): After 256 counted waves the adaptive pixel width is adjusted. -/
  | divergenceHistoryUpdate (die : Nat) (seg : W64) (kidx : Nat)
  /-- RESERVED_OPCODE (R120): A part reaches a word whose opcode is reserved and takes ILLEGAL, whatever its EMASK and predicate. -/
  | reservedOpcode
  /-- INSTRUCTION_FETCH_FAULT (R97): A fetch of an instruction word fails translation or permission, so the part parks for a fault reply or takes ACCESS at once. -/
  | instructionFetchFault
  /-- ALLOWANCE_UPDATE (R368): At the end of every device cycle the cluster's allowance A is refilled by REFILL and debited by the cycle's issues, capped at CAP. -/
  | allowanceUpdate (c : Nat)
  /-- JOIN_REREAD (R443): A join on a peer or host counter rereads it 1,024 device cycles after the previous reply arrives. -/
  | joinReread (p : PartRef)
  /-- DEBUG_INTERFACE_ACCESS (R296): The debug interface reads any OPM region, or writes the register, scratch and accumulator regions of a halted core. -/
  | debugInterfaceAccess (write : Bool) (opm : Nat) (v : W32)
  deriving DecidableEq, Repr

end Sys2Proof
end

