-- ==== Sys2Proof/Machine/State.lean ====
section
/-! DEFINITION. The machine's state as plain data: every register, queue, table and store the spec gives
the machine, and `State.reset`. A table keyed by a number is a list of (key, value) pairs with rising keys;
a key not listed stands for the table's reset value (Machine/Table.lean). -/

namespace Sys2Proof.Machine

/-- Why the machine stops. The spec has no stop: every fault of it is a trap or a recorded error. -/
inductive Fault where
  /-- Raised by every fetched instruction executed while no part is issuing (`State.cur` names no part of a
  resident wave). No step of the machine does this; safe. -/
  | noIssuingPart
  deriving DecidableEq, Repr

/-- Why an instruction has no meaning. -/
inductive Refusal where
  /-- Raised by an arm of `exec` for an instruction that is not modelled yet; safe. -/
  | notModelled (mnemonic : String)
  deriving DecidableEq, Repr

/-! ### Parts -/

/-- The counted classes of operations (05 R117). -/
inductive Cls where
  | ld | st | cp | mx
  deriving DecidableEq, Repr

/-- The per-part registers that a gate call saves and restores (13 R304). -/
structure PartRegs where
  /-- s0–s63 (R85), keyed by number; absent is zero. -/
  sregs : List (Nat × W64)
  wb : BitVec 8
  ix0 : BitVec 16
  ix1 : BitVec 16
  /-- FPMODE: bits 2:0 RM, bit 3 FTZ (R92). -/
  fpmode : BitVec 4
  /-- FPSTAT: IO, DZ, OF, UF, IX from bit 0 (R92). -/
  fpstat : BitVec 5
  /-- STATUS: DERIV, TEXMISS, SCOPEVIOL, RTLOGFULL from bit 0 (R92). -/
  status : BitVec 4
  amaxv : W32
  amaxnan : Bool
  /-- GSTAT (R92). -/
  fcode : BitVec 8
  unwound : Bool
  gate : BitVec 16
  /-- SPLITPOL (R53). -/
  split : Bool
  miss : Bool
  minw : BitVec 3
  /-- DOM (R92). -/
  asid : BitVec 16
  domain : BitVec 8
  privseg : Bool
  /-- TRAPBASE.HANDLER as an address (R92). -/
  handler : W64
  /-- GTBASE.TABLE as an address, and LOGN (R92). -/
  gtable : W64
  gtlogn : BitVec 5
  deriving DecidableEq, Repr

/-- A failure or rejected access waiting for the instruction that delivers it (08 R191, R195, R203; 10 R245,
R246; 12 R284). `engine` marks an engine failure: TWORD is then the delivering instruction's. -/
structure Delivery where
  engine : Bool
  cls : Cls
  code : BitVec 8
  detail : BitVec 8
  taddr : W64
  tword : W64
  op : Nat
  ticket : Nat
  /-- local accumulator tiles the failed operation names -/
  tiles : List Nat
  deriving DecidableEq, Repr

/-- A gate frame (13 R304). Registers of the caller stay in the wave's register file at the caller's depth. -/
structure GateFrame where
  uid : Nat
  ret : W64
  /-- address of the callee's `gentry` -/
  entry : W64
  gateIx : BitVec 16
  nres : Nat
  unwind : Bool
  allowSplit : Bool
  /-- the caller's result registers, as fixed at issue -/
  results : List Nat
  /-- lanes active at the `gcall` -/
  emask : Lanes
  base : Nat
  width : Nat
  regs : PartRegs
  /-- p1–p7 of the caller, keyed by number -/
  preds : List (Nat × Lanes)
  fails : List Delivery
  held : List Delivery
  callot : Nat
  scrBase : Nat
  cscr : Nat
  deriving DecidableEq, Repr

/-- The trap frame (12 R275): resume address, WB, IX, and the lanes set aside with their resume PCs. -/
structure TrapFrame where
  resume : W64
  wb : BitVec 8
  ix0 : BitVec 16
  ix1 : BitVec 16
  aside : Lanes
  /-- the handler wrote TWORD (R279) -/
  wrote : Bool
  /-- TSTAT.CODE was WATCH at entry (R278) -/
  watch : Bool
  /-- cycle in which the trap was taken -/
  entered : Nat
  deriving DecidableEq, Repr

/-- A 64-byte task descriptor (02 R40). -/
structure Task where
  entry : W64
  arg : W64
  join : W64
  cls : Nat
  user : List W64
  deriving DecidableEq, Repr

/-- What a part waits for before its next instruction is issued again. -/
inductive Wait where
  /-- LD count zero: an S marker (R116) -/
  | ldZero
  /-- the same at `conf` or at a forced-fuse point, where the park never divides the part (R58, R60) -/
  | ldPoint
  /-- LD and ST counts zero: `fence` (R218) -/
  | ldStZero
  /-- the same in `bar` or `rbar`, which is a barrier wait (R405, R406, R468) -/
  | barQuiet
  /-- at most `n` operations of the class outstanding: `waitc`, and the limit of 255 (R69, R224) -/
  | count (c : Cls) (n : Nat)
  /-- every count zero and no side-log entry: `gcall`, `gret` (R302, R305) -/
  | quiet
  /-- none of the named operations is outstanding: release, acquire, overlap waits (R194, R216, R217) -/
  | ops (ids : List Nat)
  /-- a free entry in the copy queue of the core (R237) -/
  | copyRoom
  /-- a free entry in the matrix queue of the core (R243) -/
  | matrixRoom
  /-- no queued MX work names the physical tile (R250) -/
  | tileQuiet (tile : Nat)
  /-- `n` free side-log entries (R193) -/
  | logRoom (n : Nat)
  /-- no side-log entry of the part is left (R195) -/
  | noLog
  /-- the answer to a fault ticket of a die; the address that waits, for TADDR (R97, R41, R443) -/
  | ticket (die t va : Nat)
  /-- a channel operation of the part has its credit or its message (R205) -/
  | served (op : Nat)
  /-- the recorded phase of a barrier has completed: `bara` (R405) -/
  | phase (group b n : Nat)
  /-- the same in `bar`, which is a barrier wait (R406) -/
  | barPhase (group b n : Nat)
  /-- the write-backs of the release at the part's instruction have performed (R217); in a barrier instruction, which makes it a
  barrier wait (R406, R469) -/
  | backs (barrier : Bool)
  /-- the DCC has reached a value: gate reads (R302) -/
  | time (t : Nat)
  /-- the store of the part's `hsig` is on its way (R438) -/
  | posted (id : Nat)
  deriving DecidableEq, Repr

/-- Where a `join` stands (02 R46, 20 R443). -/
inductive JoinAt where
  /-- a read is under way -/
  | reading (due : Nat)
  /-- parked until the counter differs from the value last read -/
  | waiting (seen : Nat)
  /-- the next read starts -/
  | reread (due : Nat)
  deriving DecidableEq, Repr

/-- What a `gcall` has read and checked before its claim (13 R302). -/
structure GateCall where
  /-- registers per lane and scratch units claimed -/
  n : Nat
  units : Nat
  gateIx : BitVec 16
  entry : W64
  tasid : BitVec 16
  tdom : BitVec 8
  unwind : Bool
  allowSplit : Bool
  handler : W64
  gt : W64
  privseg : Bool
  args : List Nat
  results : List Nat
  deriving DecidableEq, Repr

/-- Why a part is not a candidate for selection (R10 `Park`, R70, R75). -/
inductive Park where
  | running
  | on (w : Wait)
  /-- waiting at `conf` with its id, its arrival and its deadline (R60) -/
  | conf (arrival deadline : Nat)
  /-- at a forced-fuse point of an effective width (R64); `ready` is the earliest issue after the last fusion -/
  | forced (eff : Nat)
  /-- `regclm` claim of `n` registers, the DCC cycle in which it parked, and its aging mark (R37, R38) -/
  | claim (n since : Nat) (aged : Bool)
  /-- `gcall` claim, its parking cycle and its aging mark (R302, R303) -/
  | gclaim (g : GateCall) (since : Nat) (aged : Bool)
  /-- a barrier wait of `barw` or `bar` for the completion of phase `n` (R405) -/
  | barrier (b n : Nat)
  /-- an `rbar` wait: instance and shape (R468) -/
  | rbar (inst logw logh : Nat)
  | join (addr pa : Nat) (at_ : JoinAt)
  /-- `fork` waiting for room, and the earliest push after a departure (R41) -/
  | fork (t : Task) (earliest : Option Nat)
  | sleep (deadline : Nat)
  | pwait (t ticket : Nat) (value : W64)
  /-- saved at `phint` or by force: the register groups and the scratch ranges (first line, count) it named (R285-R287) -/
  | saved (live : W32) (lines : List (Nat × Nat))
  deriving DecidableEq, Repr

/-- A wave part (03 R52, R67, R75). The switches, helper marks and exits of lanes stand in the wave. -/
structure Part where
  base : Nat
  width : Nat
  pc : W64
  /-- lanes of the current path, switched off or not -/
  cur : Lanes
  /-- waiting lanes of a masked part -/
  waiting : Lanes
  /-- resume PC of each waiting or set-aside lane (R57, R76) -/
  resume : List (Nat × W64)
  regs : PartRegs
  /-- TSTAT (R92) -/
  tcodeReg : BitVec 8
  tdetail : BitVec 8
  restart : Bool
  taddr : W64
  tword : W64
  /-- MXPROG (R92) -/
  mxRow : BitVec 16
  mxTile : BitVec 4
  mxActive : Bool
  /-- REGION (R92) -/
  region : W64
  regionCount : Nat
  /-- cycle in which the instruction that made the region entry issued, or in which it was made (R281) -/
  regionAt : Nat
  /-- outstanding operations of each class, oldest first; a count is a length (R69, R117) -/
  ldOps : List Nat
  stOps : List Nat
  cpOps : List Nat
  mxOps : List Nat
  /-- the 127 youngest operations of each class, youngest first (R224) -/
  recent : List (Cls × Nat)
  frames : List GateFrame
  park : Park
  /-- CONFID of the descriptor (R75) -/
  confId : Nat
  /-- arrival records: barrier and phase (R405, R406) -/
  arrivals : List (Nat × Nat)
  /-- TCODE: code of the trap whose handler runs, 0 if none (R75, R275) -/
  tcode : BitVec 8
  tframe : Option TrapFrame
  /-- pending engine failures, oldest first (R246) -/
  fails : List Delivery
  /-- rejected loads and side-log entries not yet delivered, oldest first (R191, R195) -/
  held : List Delivery
  /-- acquires not yet complete: no later memory instruction issues before them (R216) -/
  acquiring : List Nat
  lastIssue : Nat
  notBefore : Nat
  /-- registers whose fixed-latency results are in the pipe: key, and the first cycle in which they may be read (R117) -/
  busy : List (Nat × Nat)
  /-- operations of the parts it was divided from that it does not count: every access of them precedes its own (R207) -/
  before : List Nat
  /-- STATUS bits that arrived in a cycle, and that cycle: a clear of the same cycle leaves them set (R91) -/
  statusNew : BitVec 4
  statusAt : Nat
  /-- flags that the instruction of this turn raises: FPSTAT in bits 4:0, STATUS in bits 8:5; and those of instructions in their
  pipes, each with the cycle in which its instruction completes (R91, R160) -/
  raised : BitVec 9
  flags : List (Nat × BitVec 9)
  /-- it has stopped issue, and waits for an operation that is performing before it restarts (R283) -/
  stopped : Bool
  /-- a wait at `conf` that a forced save interrupted: the address, and the deadline, or the cycles left while the part is saved
  (R74) -/
  confLeft : Option (W64 × Nat)
  /-- a sleep that a forced save interrupted: the address, and its deadline (R490) -/
  sleepLeft : Option (W64 × Nat)
  /-- DCC cycle since which the part is parked at an S marker (R58) -/
  parkedAt : Nat
  /-- the first issue at the resume address is not matched by watchpoints (R278) -/
  watchSkip : Bool
  /-- no instruction of the part's call has issued yet (R306) -/
  gentryDue : Bool
  /-- the instruction at the PC is a release whose write-backs have been sent: the first identity they did not use (R217) -/
  relAt : Option Nat
  /-- a forced save restarted the part (R287) -/
  forcedSave : Bool
  deriving DecidableEq, Repr

/-! ### Waves -/

/-- A hit found by a traversal (15 R339): kind, PRIM, INST, FRONT, t and two more words. -/
structure RayHit where
  kind : Nat
  prim : W32
  inst : W32
  front : Bool
  t : W64
  b1 : W32
  b2 : W32
  deriving DecidableEq, Repr

/-- The instance a traversal is in (15 R346): its index and its matrix as twelve patterns. -/
structure RayInst where
  index : W32
  matrix : List W64
  f64 : Bool
  deriving DecidableEq, Repr

/-- An entry of a lane's traversal stack (15 R342). `kind` is coded as the node's KIND field; `idx` is the
reference at which a user leaf goes on. -/
structure RayEntry where
  kind : Nat
  addr : Nat
  count : Nat
  idx : Nat
  inst : Option RayInst
  tn : W64
  /-- a user leaf that goes on, and in which a hit was accepted -/
  taken : Bool
  deriving DecidableEq, Repr

/-- The traversal state of one lane (15 R341). -/
structure RayState where
  f64 : Bool
  /-- origin x, y, z, tmin, direction x, y, z, tmax as patterns in working precision -/
  ray : List W64
  flags : W32
  top : Bool
  instF64 : Bool
  logDesc : W64
  stack : List RayEntry
  best : W64
  hit : Option RayHit
  nrec : Nat
  cand : Option RayHit
  decision : Option (Bool × W64)
  ended : Option RayHit
  deriving DecidableEq, Repr

/-- One primitive as a rasteriser holds it (14 R317): sequence number, snapped window coordinates in 1/256
pixel, Z and 1/w patterns, attribute words. -/
structure PrimRec where
  id : Nat
  launch : Nat
  /-- its pass: queue + 64 · descriptor address -/
  pass : Nat
  seq : Nat
  tile : Nat
  xs : List Int
  ys : List Int
  zs : List W32
  ws : List W32
  attrs : List (List W32)
  die : Nat
  due : Nat
  arrived : Bool
  deriving DecidableEq, Repr

/-- One lane of a pixel wave (14 R325, R326). -/
structure PixelLane where
  x : Nat
  y : Nat
  cover : Nat
  prim : Nat
  frag : Option Nat
  deriving DecidableEq, Repr

/-- What makes a wave a pixel wave (14 R325). -/
structure PixelWave where
  pass : Nat
  width : Nat
  die : Nat
  tile : Nat
  prims : List PrimRec
  lanes : List (Nat × PixelLane)
  deriving DecidableEq, Repr

/-- A resident wave (02 R31–R34). It is keyed by core · 128 + wave slot. -/
structure Wave where
  core : Nat
  slot : Nat
  partition : Nat
  /-- first quad it occupies in its partition -/
  quad0 : Nat
  width : Nat
  widx : Nat
  group : Nat
  launch : Nat
  admission : Nat
  allot : Nat
  /-- PREEMPT (R92) -/
  timeout : Nat
  /-- the cycle of its last write, and the lane base of the part that made it (R94) -/
  timeoutBy : Option (Nat × Nat)
  pend : Bool
  /-- Farnak 2 compatibility mode (R364) -/
  cm : Bool
  exited : Lanes
  helper : Lanes
  /-- lanes switched off by `srset EMASK` (R89) -/
  off : Lanes
  /-- p1–p7 as lane masks, keyed by number (R84) -/
  preds : List (Nat × Lanes)
  /-- vector registers, keyed by (depth · 64 + lane) · 512 + n (R77, R302) -/
  vregs : List (Nat × W32)
  rays : List (Nat × RayState)
  raysAtRegion : List (Nat × RayState)
  /-- `tcopy` instructions of the wave (R226) -/
  tcopies : Nat
  parts : List Part
  /-- latent blocks: lane base and width (R54) -/
  latent : List (Nat × Nat)
  /-- `mprim` effects per lane (R314) -/
  mprims : List (Nat × Nat)
  pixel : Option PixelWave
  /-- ever divided by R54 or R58 (R327) -/
  divided : Bool
  /-- register units (eight registers of one quad) written since the last restore: (lane / 4) · 256 + depth · 32 + n / 8 (R289) -/
  dirty : List Nat
  saved : Bool
  /-- cycles for which its die was halted while a save was pending: they do not count to the timeout (R296) -/
  haltedFor : Nat
  deriving DecidableEq, Repr

/-! ### Groups -/

inductive GroupKind where
  | ordinary
  | task (join : W64)
  | mesh
  | pixel
  deriving DecidableEq, Repr

/-- A named barrier (19 R403): its phase and the arrived lanes of each wave slot. -/
structure Barrier where
  phase : Nat
  arrived : List (Nat × Lanes)
  deriving DecidableEq, Repr

/-- A vertex and a triangle of a mesh group's output (14 R313, R314). -/
structure MeshVertex where
  index : Nat
  clip : List W32
  attrs : List W32
  deriving DecidableEq, Repr

structure MeshTri where
  k : Nat
  v0 : Nat
  v1 : Nat
  v2 : Nat
  deriving DecidableEq, Repr

/-- A resident group (02 R31). -/
structure Group where
  launch : Nat
  num : Nat
  core : Nat
  kind : GroupKind
  cls : Nat
  /-- first 8 KiB scratch unit and number of units -/
  scrBase : Nat
  scr : Nat
  t0 : Nat
  nacc : Nat
  nbar : Nat
  nwaves : Nat
  /-- slots of its waves in order of wave index -/
  slots : List Nat
  barriers : List (Nat × Barrier)
  /-- local tiles whose token the engine side holds (R250) -/
  engineTiles : List Nat
  coop : Nat
  /-- mesh group number (14 R315): groups of NGROUPS admitted before it -/
  mesh : Nat
  verts : List MeshVertex
  tris : List MeshTri
  /-- 256-byte scratch lines written since the last restore (R289) -/
  dirtyLines : List Nat
  deriving DecidableEq, Repr

/-! ### Operations in flight -/

/-- Where one access of a memory operation stands. -/
inductive Phase where
  /-- waits for a page walk of its page -/
  | walk
  /-- translated, not yet performed -/
  | ready
  /-- waits for the reply to a ticket of a die (R191, R193) -/
  | held (die ticket : Nat)
  /-- refused by a pin (R221) -/
  | refused
  /-- performed; its result is back at `due` -/
  | done
  /-- its result stands in the registers, or it has completed -/
  | back
  /-- ended by a rejected or failed translation: the ACCESS detail (R190) -/
  | failed (detail : Nat)
  deriving DecidableEq, Repr

/-- One lane's access (09 R206). -/
structure Access where
  lane : Nat
  va : Nat
  size : Nat
  /-- bytes to store, or the operand of an atomic; after a read, the bytes read -/
  data : List Byte
  /-- the new value of a compare-and-swap -/
  data2 : List Byte
  phase : Phase
  pa : Nat
  /-- the leaf's page kind (0 C, 1 S, 2 U), effective cache policy and log2 page size -/
  kind : Nat
  cp : Nat
  logPage : Nat
  /-- cycle in which it reaches the L1 or its slice, and in which its result is back (R27) -/
  arrival : Nat
  due : Nat
  /-- its latency was taken as an L1 hit's -/
  l1 : Bool
  deriving DecidableEq, Repr

/-- What a texture, ray or log instruction read at its issue. -/
inductive UnitReq where
  /-- `tex` or `texg`: SUB, descriptor addresses, coordinate registers of the lanes of its quads, the lanes that a derivative
  reads, and the draw whose pass takes its sparse misses (14 R333, R335) -/
  | tex (gather f16 : Bool) (sub desc samp : Nat) (coords : List (Nat × List Nat)) (here : Lanes)
  /-- `texq`: SUB, descriptor address, operand registers -/
  | texq (sub desc : Nat) (coords : List (Nat × List Nat))
  /-- `rtrav`: precision, `.cont`, header and log descriptor addresses, ray registers, helper lanes, and the decisions that
  stood at its issue (15 R341) -/
  | trav (f64 cont : Bool) (header log : Nat) (rays : List (Nat × List Nat)) (helper : Lanes) (decided : List (Nat × (Bool × W64)))
  /-- `rtrep`: log descriptor address and record indices (15 R350) -/
  | replog (log : Nat) (index : List (Nat × Nat))
  deriving DecidableEq, Repr

/-- What a memory operation does when its accesses have performed. -/
inductive OpKind where
  /-- registers `dst` on of the lanes at a gate depth, `n` registers -/
  | load (depth dst n : Nat)
  | store
  | atom (op : Nat) (ret : Option (Nat × Nat))
  | sload (d : Nat)
  | scratchLoad (depth dst n : Nat)
  | scratchStore
  | scratchAtom (ret : Option (Nat × Nat))
  | qenq (value : W64)
  | qdeq (d : Nat)
  | chsend (inst : Nat) (msg : List Byte)
  | chrecv (inst depth dst m : Nat) (active : Lanes)
  /-- a texture, ray or log instruction: `n` registers `dst` on of each lane's result -/
  | unit (depth dst n : Nat) (q : UnitReq)
  /-- `pout`: fragment, target, values -/
  | output (writes : List (Nat × Nat × List W32))
  /-- `mvtx` and `mprim` on their way to the group's output buffer -/
  | meshOut
  deriving DecidableEq, Repr

/-- A memory, queue, channel, texture, ray or output operation in flight (05 R117). -/
structure MemOp where
  id : Nat
  core : Nat
  slot : Nat
  admission : Nat
  group : Nat
  launch : Nat
  asid : BitVec 16
  cls : Cls
  pc : W64
  next : W64
  kind : OpKind
  ord : Nat
  scope : Nat
  sub : Nat
  accs : List Access
  issued : Nat
  /-- earliest completion (R27) -/
  due : Nat
  /-- the request has reached its slice and waits there (R203, R205) -/
  parked : Bool
  arrival : Nat
  /-- the release actions or acquire actions that go with it have been taken -/
  acted : Bool
  /-- STATUS bits it sets in its parts as it completes (R91) -/
  status : BitVec 4
  /-- of a texture or ray operation: the lane being evaluated, and what each lane has read: lane, address, bytes (12 R284) -/
  lane : Nat
  reads : List (Nat × Nat × Nat)
  /-- a release: the first identity that its core's write-backs had not used when its own had been sent (R217) -/
  relAt : Option Nat
  deriving DecidableEq, Repr

/-- A page walk in flight for a core's memory unit (08 R186, R187). -/
structure Walk where
  id : Nat
  core : Nat
  asid : BitVec 16
  va : Nat
  /-- the cycle in which its lookups have missed, and from which a walker may take it (R186) -/
  since : Nat
  /-- table references made (R186) -/
  made : Nat
  /-- cycle in which its next reference reaches its slice, or after the last, in which its result is there; none while all 64
  walkers of its die are busy (R187) -/
  due : Option Nat
  /-- a matching `tlbi` arrived: the result is discarded (R188) -/
  discarded : Bool
  deriving DecidableEq, Repr

/-- A translation held by a TLB (08 R186): the leaf's pattern covers a page of 2^logPage bytes. -/
structure TlbEntry where
  asid : BitVec 16
  page : Nat
  logPage : Nat
  leaf : W64
  deriving DecidableEq, Repr

/-- A line of an L1 cache (08 R196): line address, bytes by offset, valid and dirty sectors, page kind, ASID. A dirty sector that is
not valid waits for its fill, and holds the written bytes alone. -/
structure L1Line where
  line : Nat
  data : List (Nat × Byte)
  valid : BitVec 4
  dirty : BitVec 4
  /-- bytes written since their sector was clean (the byte enables of 08 R198) -/
  written : BitVec 128
  kind : Nat
  asid : BitVec 16
  /-- its way in its set (17 R376) -/
  way : Nat
  /-- for each sector, the cycle in which its fill is back (01 R27) -/
  ready : List (Nat × Nat)
  /-- wave slot and admission of the part that first dirtied the line since it was clean (09 R220) -/
  slot : Nat
  admission : Nat
  deriving DecidableEq, Repr

/-- Dirty sectors of a line on their way from a core's L1 to the line's home (08 R196, 09 R217). -/
structure Back where
  id : Nat
  core : Nat
  line : Nat
  kind : Nat
  sectors : BitVec 4
  data : List (Nat × Byte)
  /-- the bytes of these sectors that the core wrote -/
  written : BitVec 128
  /-- every dirty sector of the line went with it (09 R220) -/
  whole : Bool
  /-- the agent, as a debug SRC names it (12 R295) -/
  src : Nat
  /-- cycle in which it arrives at the line's home -/
  due : Nat
  deriving DecidableEq, Repr

/-- Sectors that a store missed in its core's L1, asked for from their home (08 R196, R197). -/
structure Fill where
  core : Nat
  line : Nat
  sectors : BitVec 4
  cp : Nat
  /-- cycle in which the request reaches its slice -/
  arrival : Nat
  deriving DecidableEq, Repr

/-- What a write on its way to its slice does there. -/
inductive PostedKind where
  /-- stores bytes within one line -/
  | bytes (b : List Byte)
  /-- adds to a 32-bit word (14 R310) -/
  | add (n : Nat)
  /-- sets bits of a byte (14 R335) -/
  | orByte (mask : Byte)
  /-- enqueues an entry on a residency queue whose block page has log2 size; a full queue adds 1 to a counter (14 R335) -/
  | entry (v : W64) (logPage : Nat) (drops : Option Nat)
  /-- the store of an `hsig`: value, MSI-X function and vector, and the part's next address (20 R438) -/
  | signal (v : W64) (fn vec : Nat) (next : W64)
  deriving DecidableEq, Repr

/-- A write that a core's graphics or ray unit, or an `hsig`, has sent to a slice (01 R19, R27). -/
structure Posted where
  id : Nat
  core : Nat
  launch : Nat
  /-- the operation that completes behind it -/
  op : Option Nat
  /-- the part whose `hsig` it is, and its wave's admission -/
  part : Option (PartRef × Nat)
  src : Nat
  pa : Nat
  what : PostedKind
  /-- cycle in which it reaches its slice -/
  arrival : Nat
  deriving DecidableEq, Repr

/-- A line that a `pfetch` asked for, on its way to its slice (21 R458). -/
structure Prefetch where
  core : Nat
  asid : BitVec 16
  va : Nat
  cp : Nat
  arrival : Nat
  deriving DecidableEq, Repr

/-- A line of an L2 slice, most recently used first in its set (08 R197). -/
structure L2Line where
  slice : Nat
  line : Nat
  persist : Bool
  /-- the cycle in which its fill is there (01 R27) -/
  ready : Nat
  deriving DecidableEq, Repr

/-- A scope pin at a home slice (09 R220–R222). -/
structure Pin where
  line : Nat
  core : Nat
  slot : Nat
  admission : Nat
  refused : Option Nat
  /-- the slice has demanded the write-back (R222) -/
  demanded : Bool
  deriving DecidableEq, Repr

/-- A slice bank (08 R200): last access, retention, and the end of a wake. -/
structure Bank where
  last : Nat
  drowsy : Bool
  wake : Option Nat
  deriving DecidableEq, Repr

/-- A side-log entry (08 R193, R194): operation and page extent. -/
structure LogEntry where
  op : Nat
  asid : BitVec 16
  page : Nat
  size : Nat
  deriving DecidableEq, Repr

inductive EngineAt where
  | queued
  | running
  | held (die ticket : Nat)
  | finishing
  deriving DecidableEq, Repr

/-- A copy-engine operation (10 R236–R239). -/
structure CopyOp where
  id : Nat
  slot : Nat
  admission : Nat
  group : Nat
  launch : Nat
  pc : W64
  asid : BitVec 16
  dir : Nat
  record : W64
  scratch : Nat
  opm : Nat
  origin : List Int
  scrBase : Nat
  scrBytes : Nat
  ticket : Nat
  promise : Nat
  issued : Nat
  due : Nat
  /-- the record's bytes, once it has been read (R232) -/
  recBytes : List Byte
  /-- elements and groups of its box that it has moved (R192) -/
  moved : Nat
  /-- what younger copies of the core have written since it was issued: space (0 memory, 1 scratch, 2 accumulators, 3 registers),
  first half-byte and count (R239) -/
  newer : List (Nat × Nat × Nat)
  status : EngineAt
  deriving DecidableEq, Repr

/-- A memory source of a matrix operation as its stream has delivered it (10 R241, R244, R248). -/
structure Stream where
  /-- the record, once it has been read -/
  record : List Byte
  /-- the image delivered so far, by image offset -/
  image : List (Nat × Byte)
  /-- k-steps delivered -/
  steps : Nat
  /-- due cycle of the next read's delivery; none where another core reads the band, and when all is delivered -/
  next : Option Nat
  /-- waits for the reply to a ticket of a die (R192) -/
  held : Option (Nat × Nat)
  deriving DecidableEq, Repr

/-- A matrix operation (10 R240–R249). -/
structure MmaOp where
  id : Nat
  slot : Nat
  admission : Nat
  group : Nat
  launch : Nat
  pc : W64
  asid : BitVec 16
  /-- `mmz` -/
  zeroOnly : Bool
  aty : Nat
  bty : Nat
  m : Nat
  n : Nat
  k : Nat
  z : Bool
  period : Nat
  tile : Nat
  t0 : Nat
  srcA : W64
  srcB : W64
  memA : Bool
  memB : Bool
  gcode : Nat
  scrBase : Nat
  scrBytes : Nat
  /-- co-operative: log2 w, log2 h, instance, and whether every instance has issued (R248, R249) -/
  co : Bool
  logw : Nat
  logh : Nat
  inst : Nat
  released : Bool
  /-- pass cycles done (R244) -/
  idx : Nat
  /-- values of k promoted into the tile (MXPROG.ROW) -/
  row : Nat
  /-- W24 partial of each output, keyed by row · 1,024 + column; absent is +0 (R169, R170). A group's exact sum
  stands 2^21 higher (R171) -/
  partials : List (Nat × FVal)
  /-- the streams of its memory sources (R241, R244) -/
  streamA : Stream
  streamB : Stream
  issued : Nat
  /-- earliest start at the array, and completion once the last pass is done -/
  start : Nat
  finish : Option Nat
  status : EngineAt
  /-- the failure it ends with: code and DETAIL (R245) -/
  fail : Option (Nat × Nat)
  /-- the tile whose memory failed (12 R284) -/
  badTile : Option Nat
  deriving DecidableEq, Repr

/-- An entry of a core's cache of gate and domain entries (13 R299). `domain` keeps the two kinds apart. -/
structure GateCached where
  domain : Bool
  asid : BitVec 16
  addr : Nat
  /-- bytes of the entry; none while the read is on its way to the slice -/
  bytes : List Byte
  /-- cycle in which the read reaches its slice, and then in which the bytes are back (R302) -/
  ready : Nat
  deriving DecidableEq, Repr

/-- An unanswered fault record (08 R189). -/
structure FaultRec where
  ticket : Nat
  va : Nat
  asid : BitVec 16
  kind : Nat
  core : Nat
  slot : Nat
  stamp : Nat
  page : Nat
  size : Nat
  deriving DecidableEq, Repr

/-! ### Cores, clusters, dies -/

/-- A core's resources beside its waves (01 R16). -/
structure Core where
  /-- pool count per quad bank (R34); absent is 1,024 -/
  pool : List (Nat × Nat)
  /-- the counts at the end of the previous cycle (R93) -/
  poolPrev : List (Nat × Nat)
  watch : List (Nat × W64)
  l1 : List L1Line
  l1tlb : List TlbEntry
  coreTlb : List TlbEntry
  walkAhead : List TlbEntry
  sideLog : List LogEntry
  copyQ : List CopyOp
  matrixQ : List MmaOp
  gateCache : List GateCached
  /-- size of the last copy of each record address (R238) -/
  recSizes : List (Nat × Nat)
  /-- earliest next steal round (R43) -/
  stealAt : Nat
  /-- quads and pipe use of this cycle's issues, per partition (R70, R71) -/
  fpBusy : List (Nat × Nat)
  sfuBusy : List (Nat × Nat)
  /-- cycle until which each partition's memory pipe is held (R198) -/
  memBusy : List (Nat × Nat)
  /-- groups that ended in this cycle: what they owned is free from the next (R31) -/
  late : List Group
  deriving DecidableEq, Repr

inductive PowerState where
  | awake | gated | gating | waking
  deriving DecidableEq, Repr

/-- A cluster's power block and its limiters (17 R367–R376). -/
structure Cluster where
  refill : BitVec 16
  cap : W32
  walu : BitVec 8
  wf64 : BitVec 8
  wmx : BitVec 16
  floor : W32
  ramp0 : W64
  ramp1 : W64
  target : BitVec 7
  vmin : BitVec 8
  vmax : BitVec 8
  req : BitVec 16
  slack : BitVec 8
  rail : BitVec 2
  railPend : Option (BitVec 2)
  state : PowerState
  /-- allowance A (R368) -/
  allow : Int
  debit : Nat
  /-- consecutive earlier cycles that started with A < 0, and the strike it causes (R369) -/
  negCycles : Nat
  struckAll : Bool
  /-- slew row, the step (DCC div 4) it works in, and the step's budget left, demand, issues and fillers (R372) -/
  row : Nat
  step : Nat
  budget : Nat
  demand : Nat
  made : Nat
  fillers : Nat
  idle : Nat
  /-- gating write-backs not yet sent: core, line, cycle in which they are sent; and the identities of those under way (R376) -/
  wbs : List (Nat × Nat × Nat)
  sentWbs : List Nat
  /-- cycle of the last transition, and of the last gating write-back performed (R376) -/
  since : Nat
  lastWb : Nat
  deriving DecidableEq, Repr

/-- A die's last-level TLB, fault service, debug block and graphics tables. -/
structure Die where
  llTlb : List TlbEntry
  ticket : Nat
  faults : List FaultRec
  asidt : W64
  fring : W64
  fqueue : W64
  freply : W64
  cecnt : W32
  uecnt : W32
  dbgEn : Bool
  dbgBase : W64
  dbgHead : W32
  dbgTail : W32
  dbgDrops : W32
  halted : Bool
  /-- a resumed die selects from this cycle on (R296) -/
  selectFrom : Nat
  brkHalt : Bool
  haltAt : Option Nat
  /-- SWATCH, keyed by local slice · 2 + k (R294) -/
  swatch : List (Nat × W64)
  /-- latest watermarks held for each pass: four set-up units, then the distributor (R318) -/
  marks : List (Nat × List Nat)
  /-- divergence history: (segment, KIDX), width, counted, divided; most recent first (R327) -/
  history : List ((W64 × Nat) × (Nat × Nat × Nat))
  /-- most recent residency entries (R335) -/
  recent : List W64
  deriving DecidableEq, Repr

/-! ### Kernels, launches, scheduler -/

/-- A channel declared in a header (06 R150). -/
structure ChanDecl where
  dx : Int
  dy : Int
  slots : Nat
  bytes : Nat
  deriving DecidableEq, Repr

/-- A kernel header as a launch uses it (06 R147). -/
structure Kernel where
  seg : W64
  kidx : Nat
  entry : W64
  cm : Bool
  width : Nat
  allot : Nat
  nbar : Nat
  nacc : Nat
  scr : Nat
  lanes : Nat
  chans : List ChanDecl
  privseg : Bool
  deriving DecidableEq, Repr

/-- The fields of a pass descriptor read at a draw's consumption (14 R310). -/
structure Pass where
  addr : W64
  tw : Nat
  th : Nat
  samp : Nat
  nrt : Nat
  dtest : Nat
  dwrite : Bool
  owntab : W64
  reshade : W64
  resq : W64
  depth : W64
  dpitch : Nat
  rts : List (W64 × Nat × Nat × Nat)
  deriving DecidableEq, Repr

/-- A draw (14 R311). -/
structure Draw where
  num : Nat
  pass : Pass
  maxv : Nat
  maxp : Nat
  nattr : Nat
  cull : Nat
  vx : Nat
  vy : Nat
  vw : Nat
  vh : Nat
  pixel : Kernel
  deriving DecidableEq, Repr

/-- A task deque (02 R40–R44): near end newest first, far end oldest first, and the last departure. -/
structure Deque where
  near : List Task
  far : List Task
  deriving DecidableEq, Repr

/-- A channel instance (08 R204, R205): messages with their arrival cycles, free credits, credits on the way. -/
structure ChanInst where
  msgs : List (Nat × List Byte)
  credits : Nat
  returning : List Nat
  deriving DecidableEq, Repr

/-- A core's rbar instance (21 R467): number, arrived lanes per slot, shape, and whether it has reported. -/
structure RbarCore where
  num : Nat
  arrived : List (Nat × Lanes)
  shape : Option (Nat × Nat)
  /-- report on its way to the coordinating slice: instance, shape, arrival cycle -/
  report : Option (Nat × (Nat × Nat) × Nat)
  /-- the coordinating slice's record: instances reported, latest first, with their shapes and the cycles of their completion -/
  reports : List (Nat × (Nat × Nat) × Nat)
  deriving DecidableEq, Repr

inductive LaunchAt where
  /-- accepted and not placed -/
  | waiting
  | placed
  /-- a victim being saved since a cycle -/
  | saving (since : Nat)
  /-- saved and not restored -/
  | saved
  /-- completed: it holds nothing, and its sys-scope release is under way (R263) -/
  | completed
  deriving DecidableEq, Repr

/-- The save image of a launch (12 R286–R290). Scratch is keyed by 2 · group for a group's allocation and by 2 · uid + 1
for the callee scratch of an open gate frame. -/
structure SaveImage where
  waves : List Wave
  groups : List (Nat × Group)
  scratch : List (Nat × List (Nat × Byte))
  acc : List (Nat × List (Nat × Byte))
  copies : List (Nat × CopyOp)
  matrix : List (Nat × MmaOp)
  /-- units whose image copy is valid: group, wave index and register unit; scratch key and line -/
  validRegs : List (Nat × Nat × Nat)
  validLines : List (Nat × Nat)
  /-- bytes of registers and scratch that the last save wrote -/
  written : Nat
  deriving DecidableEq, Repr

/-- A launch from its acceptance to its completion (11 R255, R259–R263). -/
structure Launch where
  id : Nat
  queue : Nat
  prio : Nat
  asid : BitVec 16
  domain : BitVec 8
  tenant : Nat
  seq : Nat
  kernel : Kernel
  classes : List (Nat × Kernel)
  logw : Nat
  logh : Nat
  any : Bool
  x0 : Nat
  y0 : Nat
  cor : Bool
  ngroups : Nat
  ptimeout : Nat
  param : W64
  arg : W64
  trap : W64
  at_ : LaunchAt
  acceptedAt : Nat
  /-- the cycle from which it may be placed: decode, patches and placement have their stages (R268) -/
  placeFrom : Nat
  /-- device cycles waited, whether due, and the end of protection (R272) -/
  waited : Nat
  due : Bool
  protectedUntil : Option Nat
  /-- the cycle of its placement or restore, from which dispatch counts (R268) -/
  ready : Nat
  admitted : Nat
  exitedGroups : Nat
  offerAt : Nat
  /-- cores whose channel reservations are made (R204) -/
  chanCores : List Nat
  deques : List (Nat × Deque)
  chans : List (Nat × ChanInst)
  rbars : List (Nat × RbarCore)
  /-- graph instance it belongs to: tenant, graph id, node (R267) -/
  node : Option (Nat × Nat × Nat)
  draw : Option Draw
  image : Option SaveImage
  /-- pixel waves created and not admitted, in order (R312, R325) -/
  pixels : List PixelWave
  /-- co-operative instances that a partner's failure ends: instance, index of the core in the rectangle, DETAIL, and the cycle in
  which the failure reaches it (R249, 01 R18) -/
  coopFails : List (Nat × Nat × Nat × Nat)
  /-- steal rounds under way: index of the core in the rectangle, and the cycle in which its requests left (02 R43, 01 R18) -/
  stealing : List (Nat × Nat)
  /-- task and pixel groups numbered so far (R261) -/
  numbered : Nat
  /-- its completion or its save has sent the write-backs of its release: the first identity that they did not use (R263, R290) -/
  relAt : Option Nat
  deriving DecidableEq, Repr

/-- A launch queue's registers (11 R252, 14 R309) and its command buffer (R253). -/
structure Queue where
  base : W64
  en : Bool
  privq : Bool
  prio : Nat
  tenant : Nat
  logn : Nat
  asid : BitVec 16
  domain : BitVec 8
  tail : W32
  head : W32
  code : BitVec 8
  index : W32
  stop : Bool
  qpass : W64
  draws : Nat
  /-- commands prefetched, first at HEAD -/
  buffer : List (List Byte)
  /-- a WAIT's next poll cycle (R256), and whether the last poll satisfied it -/
  pollAt : Nat
  pollOk : Bool
  /-- a WAIT, SIGNAL or GRAPHLOAD of the head command is under way since -/
  bufferedAt : Nat
  deriving DecidableEq, Repr

/-- A tenant's scheduler registers (11 R252, R265; 18 R386; 20 R436, R437). -/
structure Tenant where
  patch : BitVec 48
  gid : BitVec 16
  code : BitVec 8
  drops : Nat
  hsigBase : W64
  tapva : W64
  taperr : Bool
  tapAsid : BitVec 16
  tapEn : Bool
  /-- bytes of the tenant's scheduler memory in use by images: (gid, offset, size) -/
  images : List (Nat × Nat × Nat)
  /-- cycle of the last function-level reset: a TRIGGER write of that cycle is dropped (18 R391) -/
  flrAt : Option Nat
  deriving DecidableEq, Repr

/-- A loaded graph (11 R264). -/
structure Graph where
  tenant : Nat
  gid : Nat
  queue : Nat
  prio : Nat
  asid : BitVec 16
  domain : BitVec 8
  privq : Bool
  nodes : List (List Byte)
  npred : List Nat
  succs : List (List Nat)
  doneAddr : W64
  doneVal : W64
  deriving DecidableEq, Repr

/-- A graph instance (11 R265–R267): patch list offset, nodes launched and completed. -/
structure GraphInst where
  tenant : Nat
  gid : Nat
  patch : Nat
  running : Bool
  arrived : Nat
  nodes : List (List Byte)
  launched : List Nat
  completed : List Nat
  deriving DecidableEq, Repr

/-- The scheduler (11 R252–R268). -/
structure Sched where
  quantum : W32
  tenmap : W64
  queues : List (Nat × Queue)
  tenants : List (Nat × Tenant)
  graphs : List Graph
  insts : List GraphInst
  /-- last queue served in each priority (R257) -/
  served : List (Nat × Nat)
  nextLaunch : Nat
  /-- scheduler memory, keyed by tenant · 2^20 + offset -/
  mem : List (Nat × Byte)
  launchSeq : Nat
  deriving DecidableEq, Repr

/-! ### Package -/

/-- A loaded segment (18 R384). -/
structure Segment where
  asid : BitVec 16
  va : Nat
  dst : Nat
  size : Nat
  privseg : Bool
  deriving DecidableEq, Repr

/-- A peer link (18 R387). -/
structure Peer where
  en : Bool
  number : BitVec 8
  link : BitVec 2
  deriving DecidableEq, Repr

/-- The management controller's registers, mailbox, tables and store (18 R382–R391). -/
structure Package where
  domtab : W64
  dump : W64
  fwState : BitVec 3
  fwVersion : W32
  mbOp : BitVec 8
  mbGo : Bool
  mbState : BitVec 2
  mbErr : BitVec 8
  mbDone : Bool
  /-- MBARG as eight-byte words by index -/
  mbArg : List (Nat × W64)
  /-- the request's copy of MBARG, and its result once ended -/
  mbCopy : List (Nat × W64)
  mbResult : Option (BitVec 8)
  apEn : Bool
  apErr : Bool
  apStart : W64
  peers : List (Nat × Peer)
  segments : List Segment
  /-- the stored firmware image -/
  firmware : List Byte
  /-- M0–M7 -/
  meas : List (Nat × List Byte)
  dumping : Bool
  dumpCause : Nat
  dumpPa : Nat
  dumpDcc : Nat
  /-- MSI-X messages sent: function (0 for PF0) and vector, newest first -/
  msix : List (Nat × Nat)
  /-- masked MSI-X vectors, and those whose pending bit is set (20 R438) -/
  msixMask : List (Nat × Nat)
  msixPend : List (Nat × Nat)
  /-- what the last host or debug read returned -/
  readData : W64
  deriving DecidableEq, Repr

/-- The join decrement that an ended task owes (02 R45): its counter and address space, the core that makes it, and where its
dev-scope release and its request stand. -/
structure JoinDec where
  group : Nat
  launch : Nat
  addr : W64
  asid : BitVec 16
  core : Nat
  /-- the release has been sent: the first identity that its write-backs did not use -/
  relAt : Option Nat
  /-- cycle in which the request reaches the counter's slice -/
  arrival : Option Nat
  deriving DecidableEq, Repr

/-! ### Graphics in flight -/

/-- A mesh group waiting for set-up (14 R316). -/
structure MeshDone where
  group : Nat
  launch : Nat
  num : Nat
  core : Nat
  verts : List MeshVertex
  tris : List MeshTri
  due : Nat
  deriving DecidableEq, Repr

/-- A watermark message on a link (14 R318): pass, source 0–3 a die's set-up unit, 4 the distributor, rasteriser's die. -/
structure MarkMsg where
  id : Nat
  pass : Nat
  src : Nat
  die : Nat
  value : Nat
  due : Nat
  deriving DecidableEq, Repr

/-- A queued output of a fragment (14 R321, R331; 21 R461): target, values, the cycle in which its `pout` issued, and whether a
restart is to repeat that `pout`. -/
structure PoutData where
  target : Nat
  values : List W32
  issued : Nat
  stale : Bool
  deriving DecidableEq, Repr

/-- A registered fragment (14 R320, R321). -/
structure Fragment where
  id : Nat
  order : Nat
  launch : Nat
  pass : Nat
  die : Nat
  /-- core of its pixel wave, once admitted -/
  core : Nat
  seq : Nat
  x : Nat
  y : Nat
  cover : Nat
  zs : List W32
  retired : Bool
  killed : Bool
  pouts : List PoutData
  deriving DecidableEq, Repr

/-- A step of the machine that is not fetched, as a turn of a device cycle: each stands for the constructor of `Instr` of
its name (see `Event.run`). -/
inductive Event where
  | queueNop (q : Nat)
  | launch (q : Nat)
  | wait (q : Nat)
  | waitPoll (q : Nat)
  | signal (q : Nat)
  | graphload (q : Nat)
  | qtailWrite (q : Nat) (v : W64) (src : Source)
  | qerrStopWrite (q : Nat) (v : W64) (src : Source)
  | qpassWrite (q : Nat) (v : W64) (src : Source)
  | triggerWrite (t : Nat) (v : W64) (whole : Bool) (src : Source)
  | registerWrite (off : Nat) (v : W64) (src : Source)
  | load
  | unload
  | attest
  | fwreload
  | mailboxRequestEnd
  | faultReply (die : Nat) (v : W64) (src : Source)
  | haltedWrite (die : Nat) (v : W64) (src : Source)
  | pwrcfgWrite (c : Nat) (v : W64) (src : Source)
  | rampWrite (c : Nat) (upper : Bool) (v : W64) (src : Source)
  | railselWrite (c : Nat) (v : W64) (src : Source)
  | domtabWrite (v : W64) (src : Source)
  | apertureAccess (a : HostAccess)
  | tenantApertureAccess (t : Nat) (a : HostAccess)
  | packageReset
  | functionLevelReset (t : Nat)
  | fatalError (cause : Nat) (pa : Nat)
  | stateDumpComplete
  | peerLinkState (k : Nat) (st : Nat)
  | dieHalt (die : Nat)
  | launchPlacement (l : Nat)
  | groupAdmission (l : Nat) (core : Nat)
  | taskStart (l : Nat) (core : Nat)
  | taskSteal (l : Nat) (core : Nat)
  | forkPush (p : PartRef)
  | taskJoinDecrement (g : Nat)
  | joinWake (p : PartRef)
  | launchCompletion (l : Nat)
  | preemptVictimChoice (l : Nat)
  | launchDue (l : Nat)
  | protectionEnd (l : Nat)
  | forcedSave (l : Nat)
  | victimRelease (l : Nat)
  | launchRestore (l : Nat)
  | claimGrant (core : Nat)
  | claimAging (core : Nat)
  | claimDeadlock (g : Nat)
  | confTimeout (p : PartRef)
  | missSplit (p : PartRef)
  | fusefail (p : PartRef)
  | barrierPhaseComplete (g : Nat) (b : Nat)
  | rbarLocalCompletion (l : Nat) (core : Nat)
  | rbarReport (l : Nat) (core : Nat)
  | rbarGlobalCompletion (l : Nat) (core : Nat)
  | sleepWake (p : PartRef)
  | pwaitWake (p : PartRef)
  | pageWalkComplete (w : Nat)
  | ldCompletion (op : Nat)
  | stCompletion (op : Nat)
  | sliceRequest (op : Nat)
  | pinTimeout (line : Nat)
  | queueEnqueueRequest (op : Nat)
  | queueDequeueRequest (op : Nat)
  | channelMessageArrival (op : Nat)
  | channelCreditReturn (l : Nat) (inst : Nat)
  | bankDrowsy (bank : Nat)
  | bankWakeComplete (bank : Nat)
  | tcopyComplete (op : Nat)
  | coopMmaRelease (op : Nat)
  | mmaKstepDelivery (op : Nat)
  | mmaComplete (op : Nat)
  | mmzComplete (op : Nat)
  | slewStep (c : Nat)
  | pacSustainedStrike (c : Nat)
  | voltageInterval (c : Nat)
  | gatingStart (c : Nat)
  | gatingCommit (c : Nat)
  | clusterAwake (c : Nat)
  | setupBinning (g : Nat)
  | primitiveRecord (r : Nat)
  | watermark (m : Nat)
  | watermarkSend (l : Nat) (src : Nat)
  | rasteriseRecord (r : Nat)
  | fragmentCommit (f : Nat)
  | divergenceHistoryUpdate (die : Nat) (seg : W64) (kidx : Nat)
  | allowanceUpdate (c : Nat)
  | joinReread (p : PartRef)
  | debugInterfaceAccess (write : Bool) (opm : Nat) (v : W32)
  deriving DecidableEq, Repr

/-- What the outside world will do: an event, or a write to memory by an agent other than parts (09 R228), with its SRC
and UNIT as 12 R295 codes them, at a device cycle. -/
inductive Input where
  | event (e : Event)
  | write (src unit pa : Nat) (bytes : List Byte)
  /-- a tenant function writes its own region of scheduler memory (11 R252): tenant, offset, bytes -/
  | sched (t off : Nat) (bytes : List Byte)
  /-- an uncorrectable error seen by a part (12 R284): detail and TADDR -/
  | ecc (p : PartRef) (detail : Nat) (taddr : W64)
  /-- a corrected error of a die (18 R390) -/
  | corrected (die : Nat)
  /-- an entry of a TLB fails its parity (18 R390): level 0 L1, 1 core, 2 walk-ahead, 3 last; its core or die, its address space and
  page -/
  | tlbError (level unit : Nat) (asid : BitVec 16) (page : Nat)
  /-- the host masks or unmasks an MSI-X vector: function, vector (20 R438) -/
  | msixMask (fn vec : Nat) (masked : Bool)
  deriving DecidableEq, Repr

/-- One turn of a device cycle. -/
inductive Turn where
  | issue (p : PartRef)
  | event (e : Event)
  | input (i : Input)
  deriving DecidableEq, Repr

/-- Where the machine stands in a device cycle: what becomes due, the steps of the limiters and of the scheduler, the
issues, what the end of the cycle examines, and its last debits. -/
inductive CyclePhase where
  | start | limits | selected | ending | closing
  deriving DecidableEq, Repr

/-- The whole machine. -/
structure State where
  dcc : Nat
  /-- memory by physical address, rising addresses, no zero byte listed (R180) -/
  mem : List Host.Cell
  /-- scratchpads, keyed by core · 2^20 + offset -/
  scratch : List Host.Cell
  /-- accumulators, keyed by core · 2^20 + tile · 2^16 + offset -/
  acc : List Host.Cell
  cores : List (Nat × Core)
  clusters : List (Nat × Cluster)
  dies : List (Nat × Die)
  waves : List (Nat × Wave)
  groups : List (Nat × Group)
  launches : List (Nat × Launch)
  ops : List MemOp
  walks : List Walk
  pins : List Pin
  banks : List (Nat × Bank)
  l2 : List L2Line
  backs : List Back
  fills : List Fill
  posted : List Posted
  prefetches : List Prefetch
  sched : Sched
  pkg : Package
  meshes : List MeshDone
  prims : List PrimRec
  marks : List MarkMsg
  /-- last watermark of each pass and source: value and cycle (R318) -/
  sentMarks : List ((Nat × Nat) × (Nat × Nat))
  frags : List Fragment
  /-- completed draws and tasks whose last effects are pending: join decrements (R45) -/
  joinDecs : List JoinDec
  /-- the model's own fields -/
  cur : Option PartRef
  agenda : List Turn
  cyclePhase : CyclePhase
  inputs : List (Nat × Input)
  nextId : Nat
  freeCount : Nat
  deriving DecidableEq, Repr

/-- A queue's registers at reset (11 R252). -/
def Queue.reset : Queue :=
  { base := 0, en := false, privq := false, prio := 0, tenant := 0, logn := 4, asid := 0, domain := 0
    tail := 0, head := 0, code := 0, index := 0, stop := false, qpass := 0, draws := 0, buffer := []
    pollAt := 0, pollOk := false, bufferedAt := 0 }

/-- A tenant's registers at reset (11 R252, 18 R386). -/
def Tenant.reset : Tenant :=
  { patch := 0, gid := 0, code := 0, drops := 0, hsigBase := 0, tapva := 0, taperr := false
    tapAsid := 0, tapEn := false, images := [], flrAt := none }

/-- A core at reset (01 R16, 04 R92). -/
def Core.reset : Core :=
  { pool := [], poolPrev := [], watch := [], l1 := [], l1tlb := [], coreTlb := [], walkAhead := []
    sideLog := [], copyQ := [], matrixQ := [], gateCache := [], recSizes := []
    stealAt := 0, fpBusy := [], sfuBusy := [], memBusy := [], late := [] }

/-- A cluster's power block at reset (17 R367, R368, R372). -/
def Cluster.reset (c : Nat) : Cluster :=
  { refill := 4096, cap := 65536, walu := 2, wf64 := 6, wmx := 256, floor := 8192
    ramp0 := 0x1C1814100C080400, ramp1 := 0x403834302C282420
    target := 60, vmin := 240, vmax := 124, req := 380, slack := 0
    rail := BitVec.ofNat 2 (c / 8), railPend := none, state := .gated
    allow := 65536, debit := 0, negCycles := 0, struckAll := false
    row := 0, step := 0, budget := 0, demand := 0, made := 0, fillers := 0, idle := 0, wbs := [], sentWbs := [], since := 0, lastWb := 0 }

/-- A die's blocks at reset (12 R294, R295; 18 R380). -/
def Die.reset : Die :=
  { llTlb := [], ticket := 0, faults := [], asidt := 0, fring := 0, fqueue := 0, freply := 0
    cecnt := 0, uecnt := 0, dbgEn := false, dbgBase := 0, dbgHead := 0, dbgTail := 0, dbgDrops := 0
    halted := false, selectFrom := 0, brkHalt := false, haltAt := none, swatch := [], marks := [], history := [], recent := [] }

/-- A slice bank at reset (08 R200). -/
def Bank.reset : Bank := { last := 0, drowsy := false, wake := none }

/-- A peer link at reset: down and not enabled (18 R387). -/
def Peer.reset : Peer := { en := false, number := 0, link := 0 }

/-- The scheduler at reset (11 R252). -/
def Sched.reset : Sched :=
  { quantum := 2400000, tenmap := 0, queues := [], tenants := [], graphs := [], insts := [], served := []
    nextLaunch := 0, mem := [], launchSeq := 0 }

/-- The package block after the reset sequence (18 R391). -/
def Package.reset : Package :=
  { domtab := 0, dump := 0, fwState := 1, fwVersion := 0, mbOp := 0, mbGo := false, mbState := 0
    mbErr := 0, mbDone := false, mbArg := [], mbCopy := [], mbResult := none, apEn := false, apErr := false
    apStart := 0, peers := [], segments := [], firmware := [], meas := [], dumping := false, dumpCause := 0
    dumpPa := 0, dumpDcc := 0, msix := [], msixMask := [], msixPend := [], readData := 0 }

/-- The machine after package reset (18 R391): DCC zero, arrays zero, no launch, firmware ready. -/
def State.reset : State :=
  { dcc := 0, mem := [], scratch := [], acc := [], cores := [], clusters := [], dies := [], waves := []
    groups := [], launches := [], ops := [], walks := [], pins := [], banks := [], l2 := [], backs := [], fills := [], posted := [], prefetches := []
    sched := Sched.reset, pkg := Package.reset, meshes := [], prims := [], marks := [], sentMarks := [], frags := []
    joinDecs := [], cur := none, agenda := [], cyclePhase := .start, inputs := [], nextId := 0
    freeCount := 0 }

end Sys2Proof.Machine
end

