-- ==== Sys2Proof/Machine/Ops.lean ====
section
/-! DEFINITION. The named operations over registers, parts, waves and pools; taking a trap and returning from
one (12 R274-R279, R307, R517). -/

namespace Sys2Proof

/-- Key of a wave: core and wave slot. -/
def PartRef.key (p : PartRef) : Nat := p.core * 128 + p.slot

end Sys2Proof

namespace Sys2Proof.Machine

/-! ### Numbering (01 R13, R15) -/

def coreX (c : Nat) : Nat := c % 16
def coreY (c : Nat) : Nat := c / 16
def coreId (x y : Nat) : Nat := y * 16 + x
def dieOf (c : Nat) : Nat := coreX c / 8 + 2 * (coreY c / 4)
def clusterOf (c : Nat) : Nat := (coreY c / 2) * 8 + coreX c / 2
/-- Global id of a core's home slice. -/
def homeSlice (c : Nat) : Nat := 32 * dieOf c + (coreY c % 4) * 8 + coreX c % 8
/-- The four cores of a cluster, in increasing id. -/
def clusterCores (c : Nat) : List Nat :=
  let x := 2 * (c % 8); let y := 2 * (c / 8)
  [coreId x y, coreId (x + 1) y, coreId x (y + 1), coreId (x + 1) (y + 1)]
/-- Slice-hit latency between two dies (01 R27). -/
def sliceLatency (d d' : Nat) : Nat := if d = d' then 88 else 130

/-! ### Lane sets -/

/-- The `n` lowest lanes. -/
def lowLanes (n : Nat) : Lanes := BitVec.ofNat 64 (2 ^ n - 1)
/-- Lanes `base` to `base + width - 1`. -/
def laneRange (base width : Nat) : Lanes := lowLanes width <<< base
/-- The lanes of a set, in increasing order. -/
def lanesOf (m : Lanes) : List Nat := (List.range 64).filter (fun l => m.getLsbD l)
/-- One lane. -/
def laneBit (l : Nat) : Lanes := (1 : Lanes) <<< l

/-! ### State accessors -/

def State.core (s : State) (c : Nat) : Core := getT Core.reset s.cores c
def State.setCore (s : State) (c : Nat) (v : Core) : State := { s with cores := setT Core.reset s.cores c v }
def State.updCore (s : State) (c : Nat) (f : Core → Core) : State := s.setCore c (f (s.core c))
def State.cluster (s : State) (c : Nat) : Cluster := getT (Cluster.reset c) s.clusters c
def State.updCluster (s : State) (c : Nat) (f : Cluster → Cluster) : State :=
  { s with clusters := setT (Cluster.reset c) s.clusters c (f (s.cluster c)) }
def State.die (s : State) (d : Nat) : Die := getT Die.reset s.dies d
def State.updDie (s : State) (d : Nat) (f : Die → Die) : State :=
  { s with dies := setT Die.reset s.dies d (f (s.die d)) }
def State.queue (s : State) (q : Nat) : Queue := getT Queue.reset s.sched.queues q
def State.updQueue (s : State) (q : Nat) (f : Queue → Queue) : State :=
  { s with sched := { s.sched with queues := setT Queue.reset s.sched.queues q (f (s.queue q)) } }
def State.tenant (s : State) (t : Nat) : Tenant := getT Tenant.reset s.sched.tenants t
def State.updTenant (s : State) (t : Nat) (f : Tenant → Tenant) : State :=
  { s with sched := { s.sched with tenants := setT Tenant.reset s.sched.tenants t (f (s.tenant t)) } }
def State.wave? (s : State) (k : Nat) : Option Wave := lookT s.waves k
def State.putWave (s : State) (k : Nat) (w : Wave) : State := { s with waves := putT s.waves k w }
def State.updWave (s : State) (k : Nat) (f : Wave → Wave) : State :=
  match s.wave? k with
  | some w => s.putWave k (f w)
  | none => s
def State.group? (s : State) (g : Nat) : Option Group := lookT s.groups g
def State.updGroup (s : State) (g : Nat) (f : Group → Group) : State :=
  match s.group? g with
  | some v => { s with groups := putT s.groups g (f v) }
  | none => s
def State.launch? (s : State) (l : Nat) : Option Launch := lookT s.launches l
def State.updLaunch (s : State) (l : Nat) (f : Launch → Launch) : State :=
  match s.launch? l with
  | some v => { s with launches := putT s.launches l (f v) }
  | none => s
def State.op? (s : State) (id : Nat) : Option MemOp := s.ops.find? (fun o => o.id == id)
def State.updOp (s : State) (id : Nat) (f : MemOp → MemOp) : State :=
  { s with ops := s.ops.map (fun o => if o.id = id then f o else o) }
def State.dropOp (s : State) (id : Nat) : State := { s with ops := s.ops.filter (fun o => o.id != id) }
def State.updPkg (s : State) (f : Package → Package) : State := { s with pkg := f s.pkg }

/-- FWSTAT.STATE leaves registers to answer: neither recovery nor fatal (18 R388, R390). -/
def State.answers (s : State) : Bool := s.pkg.fwState != 2 && s.pkg.fwState != 3

/-- Sends an MSI-X vector of a function; a masked one becomes pending (18 R383, 20 R438). -/
def Package.sendMsix (p : Package) (fn vec : Nat) : Package :=
  if p.msixMask.contains (fn, vec) then
    { p with msixPend := if p.msixPend.contains (fn, vec) then p.msixPend else (fn, vec) :: p.msixPend }
  else { p with msix := (fn, vec) :: p.msix }
def State.sendMsix (s : State) (fn vec : Nat) : State := s.updPkg (fun p => p.sendMsix fn vec)

/-- The host masks or unmasks a vector; one that is pending is then sent (20 R438). -/
def Package.maskMsix (p : Package) (fn vec : Nat) (masked : Bool) : Package :=
  let rest := p.msixMask.filter (fun e => e != (fn, vec))
  if masked then { p with msixMask := (fn, vec) :: rest }
  else if p.msixPend.contains (fn, vec) then
    { p with msixMask := rest, msixPend := p.msixPend.filter (fun e => e != (fn, vec)), msix := (fn, vec) :: p.msix }
  else { p with msixMask := rest }


def Wave.part? (w : Wave) (base : Nat) : Option Part := w.parts.find? (fun p => p.base == base)
def Wave.updPart (w : Wave) (base : Nat) (f : Part → Part) : Wave :=
  { w with parts := w.parts.map (fun p => if p.base = base then f p else p) }
def State.part? (s : State) (r : PartRef) : Option Part := (s.wave? r.key).bind (fun w => w.part? r.base)
def State.updPart (s : State) (r : PartRef) (f : Part → Part) : State := s.updWave r.key (fun w => w.updPart r.base f)

/-- Everything an issuing part belongs to. -/
structure Ctx where
  ref : PartRef
  part : Part
  wave : Wave
  group : Group
  launch : Launch

/-- The context of a part of a resident wave. -/
def State.ctx? (s : State) (r : PartRef) : Option Ctx :=
  match s.wave? r.key with
  | none => none
  | some w =>
    match w.part? r.base, s.group? w.group, s.launch? w.launch with
    | some p, some g, some l => some { ref := r, part := p, wave := w, group := g, launch := l }
    | _, _, _ => none

/-- The context of the part whose turn it is. -/
def State.issuing (s : State) : Option Ctx :=
  match s.cur with
  | some r => s.ctx? r
  | none => none

/-! ### Registers -/

/-- EMASK: lanes on the current path, not exited and not switched off (04 R88). -/
def Ctx.emask (c : Ctx) : Lanes := c.part.cur &&& ~~~c.wave.off &&& ~~~c.wave.exited

/-- Gate depth: open frames (04 R92). -/
def Part.depth (p : Part) : Nat := p.frames.length

/-- Registers per lane a part may name (04 R92, 13 R302). -/
def allotOf (w : Wave) (p : Part) : Nat :=
  match p.frames with
  | f :: _ => f.callot
  | [] => w.allot
def Ctx.allot (c : Ctx) : Nat := allotOf c.wave c.part

def vKey (depth lane n : Nat) : Nat := (depth * 64 + lane) * 512 + n
/-- Vector register `n` of a lane at a gate depth (04 R77). -/
def Wave.v (w : Wave) (depth lane n : Nat) : W32 := getT 0 w.vregs (vKey depth lane n)
/-- Unit of a register for the dirty bits of a save (12 R289). -/
def dirtyUnit (depth lane n : Nat) : Nat := (lane / 4) * 256 + depth * 32 + n / 8
def addNew (l : List Nat) (n : Nat) : List Nat := if l.contains n then l else n :: l
/-- Register units of lanes `base` to `base + width - 1` at a gate depth that hold registers `lo` to `hi - 1` (12 R289). -/
def unitsOf (depth base width lo hi : Nat) : List Nat :=
  (List.range (width / 4)).flatMap (fun k => (List.range (hi / 8 - lo / 8)).map (fun i => dirtyUnit depth (base + 4 * k) (8 * (lo / 8 + i))))

def Wave.setV (w : Wave) (depth lane n : Nat) (v : W32) : Wave :=
  { w with vregs := setT 0 w.vregs (vKey depth lane n) v, dirty := addNew w.dirty (dirtyUnit depth lane n) }
/-- Writes a list of (lane, register, value). -/
def Wave.setVs (w : Wave) (depth : Nat) : List (Nat × Nat × W32) → Wave
  | [] => w
  | (l, n, v) :: r => (w.setV depth l n v).setVs depth r

/-- Uniform register (04 R85). -/
def PartRegs.sreg (r : PartRegs) (n : Nat) : W64 := getT 0 r.sregs n
def PartRegs.setS (r : PartRegs) (n : Nat) (v : W64) : PartRegs := { r with sregs := setT 0 r.sregs n v }
def Part.setS (p : Part) (n : Nat) (v : W64) : Part := { p with regs := p.regs.setS n v }
def Ctx.sreg (c : Ctx) (n : Nat) : W64 := c.part.regs.sreg n

/-- Predicate as a lane set; p0 is true (04 R84). -/
def Wave.p (w : Wave) (n : Nat) : Lanes := if n = 0 then BitVec.allOnes 64 else getT 0 w.preds n
/-- Writes a predicate in some lanes; a write to p0 is ignored (04 R84). -/
def Wave.setP (w : Wave) (n : Nat) (lanes v : Lanes) : Wave :=
  if n = 0 then w else { w with preds := setT 0 w.preds n ((w.p n &&& ~~~lanes) ||| (v &&& lanes)) }
/-- A predicate after its negation. -/
def Wave.pred (w : Wave) (n : Nat) (neg : Bool) : Lanes := if neg then ~~~(w.p n) else w.p n

/-- Active lanes under a predicate (00 R9). -/
def Ctx.active (c : Ctx) (pr : Nat) (pn : Bool) : Lanes := c.emask &&& c.wave.pred pr pn

/-- Writes vector registers of the part at its gate depth. -/
def State.putV (s : State) (c : Ctx) (ws : List (Nat × Nat × W32)) : State :=
  s.updWave c.ref.key (fun w => w.setVs c.part.depth ws)

/-- ORs bits into FPSTAT (04 R92). -/
def Part.orFp (p : Part) (f : BitVec 5) : Part :=
  { p with regs := { p.regs with fpstat := p.regs.fpstat ||| f }, raised := p.raised ||| f.setWidth 9 }
/-- ORs bits into STATUS (04 R92). -/
def Part.orStatus (p : Part) (f : BitVec 4) : Part := { p with regs := { p.regs with status := p.regs.status ||| f } }
/-- The same for an instruction of fixed latency, whose bits arrive as it completes (04 R91). -/
def Part.raiseStatus (p : Part) (f : BitVec 4) : Part := { p.orStatus f with raised := p.raised ||| (f.setWidth 9 <<< 5) }
/-- STATUS bits that arrive with a completion or an event in cycle `now` (04 R91). -/
def Part.arriveStatus (p : Part) (now : Nat) (f : BitVec 4) : Part :=
  { p.orStatus f with statusNew := if p.statusAt = now then p.statusNew ||| f else f, statusAt := now }

/-! ### Moving a part -/

def resumeOf (p : Part) (lane : Nat) : W64 := getT 0 p.resume lane
/-- Lanes of a set whose resume PC is a given address. -/
def lanesAt (p : Part) (m : Lanes) (a : W64) : Lanes :=
  (lanesOf m).foldl (fun acc l => if resumeOf p l = a then acc ||| laneBit l else acc) 0
def setResume (p : Part) (m : Lanes) (a : W64) : Part :=
  { p with resume := (lanesOf m).foldl (fun t l => putT t l a) p.resume }
/-- The lowest resume PC among a set of lanes. -/
def lowestResume (p : Part) (m : Lanes) : Option W64 :=
  (lanesOf m).foldl (fun acc l =>
    match acc with
    | none => some (resumeOf p l)
    | some a => if (resumeOf p l).toNat < a.toNat then some (resumeOf p l) else some a) none

/-- Sets the PC; every waiting lane whose resume PC equals it joins the current path (03 R57). -/
def Part.moveTo (p : Part) (a : W64) : Part :=
  let j := lanesAt p p.waiting a
  let left := p.waiting &&& ~~~j
  { p with pc := a, cur := p.cur ||| j, waiting := left,
           resume := p.resume.filter (fun e => !(j.getLsbD e.1)) }

/-- Switches to the waiting lanes with the lowest resume PC; the current lanes keep their PC (03 R57). -/
def Part.switchPath (p : Part) : Part :=
  match lowestResume p p.waiting with
  | none => p
  | some a =>
    let q := setResume { p with waiting := p.waiting ||| p.cur } p.cur p.pc
    { q with cur := 0 }.moveTo a

/-- A taken transfer: a target at or below the instruction's own address yields in a masked part (03 R57). -/
def Part.jumpTo (p : Part) (own target : W64) : Part :=
  let q := p.moveTo target
  if target.toNat ≤ own.toNat ∧ q.waiting ≠ 0 then q.switchPath else q

/-- The part holds more than one path (03 R57, R75). -/
def Part.masked (p : Part) : Bool := p.waiting != 0

/-- Marks an issue: the part runs on, no earlier than `d` cycles later (03 R56, R91). Outside a handler it has left the first
instruction of its call behind (13 R306). -/
def Part.issued (p : Part) (now d : Nat) : Part :=
  { p with park := .running, lastIssue := now, notBefore := now + d, watchSkip := false, gentryDue := p.gentryDue && p.tcode != 0
           relAt := none }

/-- Completes an instruction at the next address after `d` cycles. -/
def State.finish (s : State) (r : PartRef) (next : W64) (d : Nat) : State :=
  s.updPart r (fun p => (p.moveTo next).issued s.dcc d)

/-- The part parks before its instruction issues, and not as its effect. -/
def Park.beforeIssue : Park → Bool
  | .on (.served _) => false
  | .on (.posted _) => false
  | .on _ => true
  | .forced _ => true
  | _ => false

/-- Parks a part; it stays before its instruction, which counts as issued when the wait is its effect. -/
def State.parkPart (s : State) (r : PartRef) (w : Park) : State :=
  s.updPart r (fun p =>
    { p with park := w, parkedAt := if p.park = w then p.parkedAt else s.dcc, lastIssue := if w.beforeIssue then p.lastIssue else s.dcc })

/-- A region entry at an address, counted or not (12 R281). At each entry the ray unit records the traversal
states of the part's lanes (15 R352). -/
def Part.enterRegion (p : Part) (a : W64) (counted : Bool) (now : Nat) : Part :=
  { p with region := a, regionAt := now, regionCount := if counted then min (p.regionCount + 1) 127 else p.regionCount }
def State.recordRays (s : State) (r : PartRef) : State :=
  s.updWave r.key (fun w =>
    match w.part? r.base with
    | none => w
    | some p =>
      let inPart := fun (e : Nat × RayState) => decide (p.base ≤ e.1) && decide (e.1 < p.base + p.width)
      { w with raysAtRegion := (w.raysAtRegion.filter (fun e => !inPart e)) ++ w.rays.filter inPart })
def State.beginRegion (s : State) (r : PartRef) (a : W64) (counted : Bool) : State :=
  (s.updPart r (fun p => p.enterRegion a counted s.dcc)).recordRays r

/-! ### Pools, scratch, ends of waves and groups (02 R31, R34, R38) -/

/-- Quad banks of the core that lanes `base` to `base + width - 1` of a wave occupy. -/
def Wave.banks (w : Wave) (base width : Nat) : List Nat :=
  (List.range (width / 4)).map (fun q => w.partition * 16 + w.quad0 + base / 4 + q)
def poolOf (k : Core) (bank : Nat) : Nat := getT 1024 k.pool bank
def creditBanks (k : Core) (banks : List Nat) (n : Nat) : Core :=
  { k with pool := banks.foldl (fun t b => setT 1024 t b (getT 1024 t b + n)) k.pool }
def debitBanks (k : Core) (banks : List Nat) (n : Nat) : Core :=
  { k with pool := banks.foldl (fun t b => setT 1024 t b (getT 1024 t b - n)) k.pool }

/-- Bytes of a core's scratch start here in `State.scratch`. -/
def scratchKey (core off : Nat) : Nat := core * 1048576 + off
def accKey (core tile off : Nat) : Nat := core * 1048576 + tile * 65536 + off

/-- Frames open on a core, each once, with their scratch runs (13 R303). -/
def State.openFrames (s : State) (core : Nat) : List GateFrame :=
  (s.waves.filter (fun e => e.2.core == core)).flatMap (fun e => e.2.parts.flatMap (fun p => p.frames))

/-- An 8 KiB scratch unit of a core is free (02 R31). -/
def State.unitFree (s : State) (core u : Nat) : Bool :=
  (s.groups.all (fun e => !(e.2.core == core && decide (e.2.scrBase ≤ u) && decide (u < e.2.scrBase + e.2.scr))))
  && (s.openFrames core).all (fun f => !(decide (f.scrBase ≤ u) && decide (u < f.scrBase + f.cscr)))
  && (s.core core).late.all (fun g => !(decide (g.scrBase ≤ u) && decide (u < g.scrBase + g.scr)))

/-- The lowest run of `n` contiguous free units of 128 (02 R31). -/
def firstRun (free : Nat → Bool) (n total : Nat) : Option Nat :=
  (List.range (total + 1 - n)).find? (fun b => (List.range n).all (fun i => free (b + i)))
def State.scratchRun (s : State) (core n : Nat) : Option Nat :=
  if n = 0 then some 0 else if n > 128 then none else firstRun (s.unitFree core) n 128

/-- Lanes of a block. -/
def inBlock (base width l : Nat) : Bool := decide (base ≤ l) && decide (l < base + width)
def Wave.latentQuad (w : Wave) (l : Nat) : Bool := w.latent.any (fun b => inBlock b.1 b.2 l)
def Wave.quadPart (w : Wave) (l : Nat) : Option Part := w.parts.find? (fun p => inBlock p.base p.width l)

/-- Open frames of a wave, each once. -/
def Wave.openFrames (w : Wave) : List GateFrame :=
  (w.parts.flatMap (fun p => p.frames)).foldl (fun acc f => if acc.any (fun g => g.uid == f.uid) then acc else acc ++ [f]) []

/-- Registers per lane that a wave holds in the bank of the quad at a lane: its allotment, and the callee allotments of the open
frames whose quads it is one of. A quad that stands in no part any more, latent or exited, stays with the frame until no part has it open
(02 R34; 13 R304). -/
def Wave.heldRegs (w : Wave) (l : Nat) : Nat :=
  w.allot + ((w.openFrames.filter (fun f => inBlock f.base f.width l &&
    (match w.quadPart l with
      | some p => p.frames.any (fun g => g.uid == f.uid)
      | none => true))).map (fun f => f.callot)).sum

/-- What a wave holds in each of its quads. -/
def Wave.quadNeeds (w : Wave) : List Nat := (List.range (w.width / 4)).map (fun q => w.heldRegs (4 * q))

/-- Credits the banks with what a wave no longer holds (02 R34, R38). -/
def State.creditWave (s : State) (old new : Wave) : State :=
  s.updCore old.core (fun k =>
    (List.range (old.width / 4)).foldl (fun k q => creditBanks k (old.banks (4 * q) 4) (old.heldRegs (4 * q) - new.heldRegs (4 * q))) k)

/-- Frees a wave: its allotment and its frames' return to the banks (02 R34, R38). -/
def State.freeWaveRegs (s : State) (w : Wave) : State := s.creditWave w { w with allot := 0, parts := [], latent := [] }

/-- Lanes of a wave retire their fragments when they exit (14 R320). -/
def State.retireFrags (s : State) (w : Wave) (lanes : Lanes) (killed : Bool) : State :=
  match w.pixel with
  | none => s
  | some px =>
    let ids := px.lanes.filterMap (fun e => if lanes.getLsbD e.1 then e.2.frag else none)
    { s with frags := s.frags.map (fun f =>
        if ids.contains f.id && !f.retired then { f with retired := true, killed := killed } else f) }

/-- A named barrier of a group (19 R403). -/
def barrierOf (g : Group) (b : Nat) : Barrier := getT { phase := 0, arrived := [] } g.barriers b

/-- Index of a core in its launch's rectangle. -/
def Launch.rel (l : Launch) (core : Nat) : Nat := coreId (coreX core - l.x0) (coreY core - l.y0)
/-- The core at an index of the rectangle. -/
def Launch.coreAt (l : Launch) (rel : Nat) : Nat := coreId (l.x0 + coreX rel) (l.y0 + coreY rel)

/-- A group with no wave left: what it owned is free from the next cycle on; a task owes its join decrement, a mesh group goes to set-up
(02 R31, R45; 14 R316). -/
def State.endGroup (s : State) (g : Nat) (v : Group) : State :=
  let s := ({ s with groups := delT s.groups g } : State).updCore v.core (fun k => { k with late := v :: k.late })
  let s := match v.kind with
    | .task j =>
      match s.launch? v.launch with
      | some l => if j = 0 then s else { s with joinDecs := s.joinDecs ++
          [({ group := g, launch := v.launch, addr := j, asid := l.asid, core := v.core, relAt := none, arrival := none } : JoinDec)] }
      | none => s
    | .mesh =>
      let done : MeshDone :=
        { group := g, launch := v.launch, num := v.mesh, core := v.core, verts := v.verts, tris := v.tris,
          due := s.dcc + 1 }
      { s with meshes := s.meshes ++ [done] }
    | _ => s
  let last := !(s.groups.any (fun e => e.2.launch == v.launch && e.2.core == v.core))
  s.updLaunch v.launch (fun l =>
    { l with -- the failures that reached the group's instances: another group of the core counts its own from 0 (10 R249)
             coopFails := l.coopFails.filter (fun e => !(e.2.1 == l.rel v.core && (last || decide (e.1 < v.coop))))
             exitedGroups := if v.kind = GroupKind.ordinary ∨ v.kind = GroupKind.mesh then l.exitedGroups + 1 else l.exitedGroups })
/-- A new cycle: the groups that ended in the last one return their tiles, slots and scratch, and, where no group of their launch is
left on their core, its channel reservations (02 R31, 08 R204). -/
def State.returnLate (s : State) : State :=
  let gone := s.cores.flatMap (fun e => (e.2.late.filter (fun g =>
    !(s.groups.any (fun x => x.2.launch == g.launch && x.2.core == e.1)))).map (fun g => (g.launch, e.1)))
  let s := gone.foldl (fun (s : State) e => s.updLaunch e.1 (fun l => { l with chanCores := l.chanCores.filter (fun c => c != e.2) })) s
  { s with cores := s.cores.map (fun (e : Nat × Core) => (e.1, { e.2 with late := [] })) }

/-- The next width of an adaptive pixel kernel (14 R327). -/
def nextWidth (w divided : Nat) : Nat := if 64 < divided then max 8 (w / 2) else if divided < 16 then min 64 (w * 2) else w
/-- An entry of the divergence history after a full window of 256 waves: width, counted, divided (14 R327). -/
def windowEnd (v : Nat × Nat × Nat) : Nat × Nat × Nat := if 256 ≤ v.2.1 then (nextWidth v.1 v.2.2, 0, 0) else v

/-- Counts an ended pixel wave in the divergence history of its die (14 R327). -/
def State.countPixelWave (s : State) (w : Wave) : State :=
  match w.pixel, s.launch? w.launch with
  | some px, some l =>
    match l.draw with
    | none => s
    | some d =>
      s.updDie px.die (fun di => { di with history := di.history.map (fun e =>
        if e.1 = (d.pixel.seg, d.pixel.kidx) then
          let v := windowEnd e.2
          (e.1, (v.1, v.2.1 + 1, v.2.2 + (if w.divided then 1 else 0)))
        else e) })
  | _, _ => s

/-- Ends a wave: registers credited, pending failures dropped with its parts, wave slot free (19/20 R430). -/
def State.endWave (s : State) (key : Nat) : State :=
  match s.wave? key with
  | none => s
  | some w =>
    let s := (s.retireFrags w (laneRange 0 w.width) false).countPixelWave w
    let s := s.freeWaveRegs w
    let s := { s with waves := delT s.waves key }
    let s := s.updGroup w.group (fun g => { g with slots := g.slots.filter (fun n => n != w.slot) })
    match s.group? w.group with
    | some g => if g.slots = [] then s.endGroup w.group g else s
    | none => s

/-! ### Debug events (12 R295) -/

/-- Posts a debug event on a die: recorded while the ring has room, else counted in DROPS. -/
def State.postDebug (s : State) (die kind index src unit info : Nat) (addr : W64) : State :=
  let d := s.die die
  if !d.dbgEn then s
  else if (d.dbgTail - d.dbgHead).toNat < 256 then
    let rec_ := bytesOfNat 1 kind ++ bytesOfNat 1 index ++ bytesOfNat 1 src ++ bytesOfNat 1 unit
      ++ bytesOfNat 4 info ++ bytesOfNat 8 addr.toNat ++ bytesOfNat 8 s.dcc ++ bytesOfNat 8 0
    let s := { s with mem := writeBytes s.mem (d.dbgBase.toNat + 32 * (d.dbgTail.toNat % 256)) rec_ }
    s.updDie die (fun d => { d with dbgTail := d.dbgTail + 1 })
  else s.updDie die (fun d => { d with dbgDrops := if d.dbgDrops = BitVec.allOnes 32 then d.dbgDrops else d.dbgDrops + 1 })

/-! ### Traps -/

/-- A trap about to be taken (12 R274, R517): code, DETAIL, TADDR, TWORD, resume address and restart mark. -/
structure Trap where
  code : Nat
  detail : Nat
  taddr : W64
  tword : W64
  resume : W64
  restart : Bool := false
  deriving DecidableEq, Repr

/-- Trap codes (12 R274). -/
def tcIllegal := 0x01
def tcPriv := 0x02
def tcRegbound := 0x03
def tcAlign := 0x04
def tcAccess := 0x05
def tcToken := 0x06
def tcPromise := 0x07
def tcFusefail := 0x08
def tcRegdead := 0x09
def tcScale := 0x0A
def tcGate := 0x0B
def tcEcc := 0x0C
def tcWatch := 0x0D
def tcBrk := 0x0E
def tcSoft := 0x0F
def tcChannel := 0x10
def tcCopyfault := 0x11
def tcMxfault := 0x12
def tcBarrier := 0x13

/-- TSTAT, TADDR and TWORD as step 1 of R275 writes them. -/
def Part.writeTstat (p : Part) (t : Trap) : Part :=
  { p with tcodeReg := BitVec.ofNat 8 t.code, tdetail := BitVec.ofNat 8 t.detail, restart := t.restart
           taddr := t.taddr, tword := t.tword &&& 0x01FFFFFFFFFFFFFF }

/-- Enters the handler (12 R275): trap frame written, WB and IX zeroed, waiting lanes set aside. -/
def Part.enterHandler (p : Part) (t : Trap) (now : Nat) : Part :=
  let q := p.writeTstat t
  { q with
    tframe := some { resume := t.resume, wb := p.regs.wb, ix0 := p.regs.ix0, ix1 := p.regs.ix1,
                     aside := p.waiting, wrote := false, watch := t.code == tcWatch, entered := now },
    regs := { p.regs with wb := 0, ix0 := 0, ix1 := 0 },
    tcode := BitVec.ofNat 8 t.code, waiting := 0, pc := p.regs.handler,
    park := .running, lastIssue := now, notBefore := now + 12, watchSkip := false, relAt := none }

/-- Restores the caller's state from the innermost frame and resumes at its return address (13 R305, R307). -/
def Part.popFrame (p : Part) (f : GateFrame) (unwound : Bool) (fcode : Nat) (now : Nat) : Part :=
  { p with
    regs := { f.regs with gate := f.gateIx, unwound := unwound, fcode := BitVec.ofNat 8 fcode }
    frames := p.frames.drop 1
    fails := f.fails, held := f.held, tcode := 0, tframe := none
    cur := p.cur ||| p.waiting ||| (match p.tframe with | some t => t.aside | none => 0), waiting := 0, resume := []
    pc := f.ret, park := .running, lastIssue := now, notBefore := now + 16 + f.nres, watchSkip := false
    gentryDue := false, relAt := none }

/-- The registers of a part's lanes at a gate depth, zeroed. -/
def Wave.dropRegs (w : Wave) (depth : Nat) (p : Part) : Wave :=
  { w with vregs := w.vregs.filter (fun e =>
      !(decide (vKey depth p.base 0 ≤ e.1) && decide (e.1 < vKey depth (p.base + p.width) 0))) }

/-- Puts the callee's registers of a part away: zeroed, with the caller's predicates back (13 R305, R307). -/
def State.dropCallee (s : State) (r : PartRef) (p : Part) (f : GateFrame) : State :=
  let depth := p.frames.length
  let m := laneRange p.base p.width
  s.updWave r.key (fun w =>
    { w.dropRegs depth p with
      preds := (List.range 8).foldl (fun t n =>
        setT 0 t n ((getT 0 t n &&& ~~~m) ||| (getT 0 f.preds n &&& m))) w.preds })

/-- Credits the banks with what the wave of a part held before and holds no longer (13 R305, R307). -/
def State.creditPopped (s : State) (r : PartRef) (old : Wave) : State :=
  match s.wave? r.key with
  | none => s
  | some w => s.creditWave old w

/-- Zeroes the scratch of a frame that no part holds any more. -/
def State.dropScratch (s : State) (core : Nat) (f : GateFrame) : State :=
  if (s.openFrames core).any (fun g => g.uid == f.uid) then s
  else { s with scratch := clearRange s.scratch (scratchKey core (f.scrBase * 8192))
                  (scratchKey core ((f.scrBase + f.cscr) * 8192)) }

/-- Writes values into the caller's result registers of the lanes active at the `gcall`. -/
def resultWrites (f : GateFrame) (p : Part) (val : Nat → Nat → W32) : List (Nat × Nat × W32) :=
  (lanesOf (f.emask &&& laneRange p.base p.width)).flatMap (fun l =>
    (List.range f.results.length).map (fun k => (l, f.results.getD k 0, val l k)))

/-- What stays of a load-class operation whose result is discarded: an atomic, which still performs
(notes/assumptions/28.md). -/
def MemOp.withoutResult (o : MemOp) : Option MemOp :=
  match o.kind with
  | .atom op (some _) => some { o with cls := .st, kind := .atom op none }
  | .scratchAtom (some _) => some { o with cls := .st, kind := .scratchAtom none }
  | _ => none

/-- Discards the results that an operation owes to a part (13 R307): those of its lanes, while another part counts the operation too. -/
def State.discardResult (s : State) (r : PartRef) (p : Part) (id : Nat) : State :=
  match s.op? id, s.wave? r.key with
  | some o, some w =>
    let shared := w.parts.any (fun q => q.base != p.base && q.ldOps.contains id)
    let uniform := match o.kind with | .sload _ => true | .qdeq _ => true | _ => false
    if shared && uniform then s
    else
      let mine := fun (a : Access) => !shared || inBlock p.base p.width a.lane
      let s := if shared then s.updOp id (fun o => { o with accs := o.accs.filter (fun a => !mine a) }) else s.dropOp id
      match o.withoutResult with
      | some q => { s with ops := s.ops ++ [{ q with id := s.nextId, accs := o.accs.filter mine }], nextId := s.nextId + 1 }
      | none => s
  | _, _ => s

/-- Takes from the copy queue the copies that no part but this one counts. -/
def State.discardCopies (s : State) (r : PartRef) (p : Part) : State :=
  let others : List Nat := match s.wave? r.key with
    | some w => (w.parts.filter (fun q => q.base != p.base)).flatMap (fun q => q.cpOps)
    | none => []
  s.updCore r.core (fun k => { k with copyQ := k.copyQ.filter (fun o => !(p.cpOps.contains o.id && !others.contains o.id)) })

/-- Unwinds the innermost gate call of a part (13 R307): its stores stand, before every later access of the part; a region begins
at the return address, as at a `gret`, and copies that have not completed are discarded (notes/assumptions/28.md). -/
def State.unwind (s : State) (r : PartRef) (p : Part) (f : GateFrame) (fcode : Nat) : State :=
  let old := s.wave? r.key
  let s := p.ldOps.foldl (fun s id => s.discardResult r p id) s
  let s := (s.discardCopies r p).dropCallee r p f
  let s := s.updWave r.key (fun w => w.setVs (p.frames.length - 1) (resultWrites f p (fun _ _ => 0)))
  let s := s.updPart r (fun q =>
    { (q.popFrame f true fcode s.dcc) with
      ldOps := [], stOps := [], cpOps := [], mxOps := [], acquiring := [], before := q.stOps.foldl addNew q.before })
  let s := match old with | some w => s.creditPopped r w | none => s
  (s.beginRegion r f.ret true).dropScratch r.core f

/-- Takes a trap in a part (12 R275, R277; 13 R307). -/
def State.takeTrap (s : State) (r : PartRef) (t : Trap) : State :=
  match s.part? r with
  | none => s
  | some p =>
    let dbg := fun (s : State) (index info : Nat) =>
      s.postDebug (dieOf r.core) 2 index 0 r.core (info + r.slot * 256) (t.tword &&& 0x01FFFFFFFFFFFFFF)
    if p.tcode ≠ 0 ∧ t.code ≠ tcWatch then
      let s := s.updPart r (fun q => q.writeTstat t)
      match p.frames with
      | f :: _ =>
        if f.unwind then s.unwind r p f t.code
        else dbg (s.endWave r.key) p.tcode.toNat t.code
      | [] => dbg (s.endWave r.key) p.tcode.toNat t.code
    else
      match p.frames with
      | f :: _ =>
        if p.regs.handler = 0 then
          let s := s.updPart r (fun q => q.writeTstat t)
          if f.unwind then s.unwind r p f t.code
          else dbg (s.endWave r.key) t.code 0
        else s.updPart r (fun q => q.enterHandler t s.dcc)
      | [] => s.updPart r (fun q => q.enterHandler t s.dcc)

/-- A precise trap at the part's instruction: TWORD and the resume address are its own (12 R274). -/
def State.precise (s : State) (c : Ctx) (code detail : Nat) (taddr : W64) : State :=
  s.takeTrap c.ref { code := code, detail := detail, taddr := taddr, tword := c.part.pc, resume := c.part.pc }

/-- Delivers a pending failure or a held rejection at the part's instruction (08 R191, R195; 10 R246). -/
def State.deliver (s : State) (c : Ctx) (d : Delivery) : State :=
  s.takeTrap c.ref { code := d.code.toNat, detail := d.detail.toNat, taddr := d.taddr
                     tword := if d.engine then c.part.pc else d.tword, resume := c.part.pc }

/-- The return from a handler, once every handler lane stands at the `tret` (12 R278). -/
def Part.leaveHandler (p : Part) (f : TrapFrame) (now : Nat) : Part :=
  let a := if f.wrote then p.tword else f.resume
  let q := { p with regs := { p.regs with wb := f.wb, ix0 := f.ix0, ix1 := f.ix1 }, tcode := 0, tframe := none
                    waiting := p.waiting ||| f.aside }
  { (q.moveTo a).issued now 8 with watchSkip := f.watch, gentryDue := p.gentryDue }

end Sys2Proof.Machine
end

