-- ==== Sys2Proof/Machine/Interp.lean ====
section
/-! DEFINITION. Window-space geometry of a primitive: edge functions, coverage, planes and barycentrics (14 R322, R323, R326,
R330), and what a pixel wave holds at admission. A plane's or a barycentric's value is exact and rounded once
(notes/assumptions/40.md). -/

namespace Sys2Proof.Machine

/-- The exact ratio num / den · 2^e, rounded once; an exact zero has no sign of its own (07 R157). -/
def Fmt.roundRatio (f : Fmt) (rm : Nat) (num den e : Int) : Nat :=
  let neg := decide (num < 0) != decide (den < 0)
  if den = 0 then (if num = 0 then f.nanBits else f.signBits (decide (num < 0)) + f.infBits)
  else if num = 0 then f.signBits (decide (rm = rmRdn))
  else
    let d := den.natAbs
    let k := Nat.log2 d + f.fb + 4
    let n := num.natAbs * 2 ^ k
    (f.roundMag rm false neg (n / d) (e - k) (n % d != 0)).bits

/-- A finite f32 pattern as a multiple of 2^-149. -/
def fixedOf (x : W32) : Int :=
  match fmtF32.value x.toNat with
  | .fin neg m e => signed neg m * 2 ^ (e + 149).toNat
  | _ => 0

/-- The edge function of P to Q at a point scaled by `n`. -/
def edgeAt (px py qx qy : Int) (n sx sy : Int) : Int := (qx - px) * (sy - n * py) - (qy - py) * (sx - n * px)

/-- The three edge functions of a primitive at the sum (sx, sy) of `n` points: opposite vertex 0, 1 and 2. -/
def PrimRec.edges (p : PrimRec) (n : Nat) (sx sy : Int) : List Int :=
  let x := fun (i : Nat) => p.xs.getD i 0
  let y := fun (i : Nat) => p.ys.getD i 0
  [(1, 2), (2, 0), (0, 1)].map (fun e => edgeAt (x e.1) (y e.1) (x e.2) (y e.2) n sx sy)

/-- Twice the signed area of three snapped vertices (R316). -/
def area2 (xs ys : List Int) : Int :=
  edgeAt (xs.getD 0 0) (ys.getD 0 0) (xs.getD 1 0) (ys.getD 1 0) 1 (xs.getD 2 0) (ys.getD 2 0)

/-- The sum of products. -/
def dot (es vs : List Int) : Int := ((es.zip vs).map (fun e => e.1 * e.2)).sum

/-- The plane through the vertices' values, at a point's edge functions. -/
def planeAt (es : List Int) (vs : List W32) : Nat := fmtF32.roundRatio rmRne (dot es (vs.map fixedOf)) es.sum (-149)
/-- Linear barycentric of vertex `i`. -/
def linearAt (es : List Int) (i : Nat) : Nat := fmtF32.roundRatio rmRne (es.getD i 0) es.sum 0
/-- Perspective barycentric of vertex `i`. -/
def perspAt (es : List Int) (ws : List W32) (i : Nat) : Nat :=
  let w := ws.map fixedOf
  fmtF32.roundRatio rmRne (es.getD i 0 * w.getD i 0) (dot es w) 0

/-! ### Samples (R322, R323) -/

/-- Sample positions in 1/16 pixel. -/
def samplePos : Nat → List (Nat × Nat)
  | 0 => [(8, 8)]
  | 1 => [(4, 4), (12, 12)]
  | 2 => [(6, 2), (14, 6), (2, 10), (10, 14)]
  | _ => [(9, 5), (7, 11), (13, 9), (5, 3), (3, 13), (1, 7), (11, 15), (15, 1)]

/-- A sample of a pixel in 1/256 pixel. -/
def samplePoint (x y : Nat) (s : Nat × Nat) : Int × Int := ((256 * x + 16 * s.1 : Nat), (256 * y + 16 * s.2 : Nat))

/-- A point is inside the half plane of one edge, or on a top or left edge: for vertices of positive area. -/
def insideEdge (px py qx qy sx sy : Int) : Bool :=
  let e := edgeAt px py qx qy 1 sx sy
  decide (0 < e) || (e == 0 && ((py == qy && decide (px < qx)) || decide (qy < py)))

/-- The primitive covers a point. -/
def PrimRec.covers (p : PrimRec) (s : Int × Int) : Bool :=
  let x := fun (i : Nat) => p.xs.getD i 0
  let y := fun (i : Nat) => p.ys.getD i 0
  let es : List (Nat × Nat) := if 0 < area2 p.xs p.ys then [(0, 1), (1, 2), (2, 0)] else [(1, 0), (2, 1), (0, 2)]
  es.all (fun e => insideEdge (x e.1) (y e.1) (x e.2) (y e.2) s.1 s.2)

/-- The samples of a pixel that a primitive covers, as a mask. -/
def PrimRec.coverage (p : PrimRec) (samp x y : Nat) : Nat :=
  ((samplePos samp).zipIdx.map (fun e => if p.covers (samplePoint x y e.1) then 2 ^ e.2 else 0)).sum

/-- Z of a sample. -/
def PrimRec.zAt (p : PrimRec) (pt : Int × Int) : Nat := planeAt (p.edges 1 pt.1 pt.2) p.zs

/-- Edge functions at a pixel's centre. -/
def PrimRec.centre (p : PrimRec) (x y : Nat) : List Int :=
  let c := samplePoint x y (8, 8)
  p.edges 1 c.1 c.2

/-- Edge functions at the centroid of the covered samples; at the centre when all are covered or none is (R330). -/
def PrimRec.centroid (p : PrimRec) (samp x y cover : Nat) : List Int :=
  let all := samplePos samp
  let pts := (all.zipIdx.filter (fun e => cover.testBit e.2)).map (fun e => samplePoint x y e.1)
  if pts = [] ∨ pts.length = all.length then p.centre x y
  else p.edges pts.length (pts.map Prod.fst).sum (pts.map Prod.snd).sum

/-! ### Anchors of a pixel wave (R326) -/

/-- The primitive of a lane. -/
def PixelWave.primOf (w : PixelWave) (l : PixelLane) : Option PrimRec := w.prims[l.prim]?

/-- The values of v0 to v7 of a lane. -/
def PixelWave.anchors (w : PixelWave) (e : Nat × PixelLane) : List (Nat × Nat × W32) :=
  match w.primOf e.2 with
  | none => []
  | some p =>
    let es := p.centre e.2.x e.2.y
    let vals : List Nat :=
      [e.2.x % 65536 + 65536 * e.2.y, e.2.cover + (if e.2.frag.isNone then 2 ^ 31 else 0), perspAt es p.ws 1, perspAt es p.ws 2
       , linearAt es 1, linearAt es 2, planeAt es p.zs, planeAt es p.ws]
    vals.zipIdx.map (fun v => (e.1, v.2, BitVec.ofNat 32 v.1))

/-- Lanes of a pixel wave that are helpers, and those of its exited quads (R325, R328). -/
def PixelWave.helpers (w : PixelWave) : Lanes :=
  w.lanes.foldl (fun (m : Lanes) e => if e.2.frag.isNone then m ||| laneBit e.1 else m) 0
def PixelWave.unfilled (w : PixelWave) : Lanes := laneRange 0 w.width &&& ~~~(lowLanes w.lanes.length)

end Sys2Proof.Machine
end

