-- ==== Sys2Proof/Machine/Trans.lean ====
section
/-! DEFINITION. Physical addresses and homes (08 R180, R181), page tables and walks (R182-R184), translation
caches (R186, R188), and the posting and answering of page faults (R189, R190). -/

namespace Sys2Proof.Machine

/-! ### Physical addresses -/

/-- Class of a physical address. -/
def paClass (pa : Nat) : Nat := pa / 2 ^ 48
/-- An address of a class that exists, below the class's limit (R180). -/
def paOk (pa : Nat) : Bool :=
  let c := paClass pa
  let o := pa % 2 ^ 48
  if c = 0 then decide (o < 0xC000000000)
  else if c = 1 then decide (o < 0xC0000000000) && decide (o % 0x18000000000 < Config.cxlBytes (o / 0x18000000000))
  else if 4 ≤ c ∧ c ≤ 0xB then
    if o < 2 ^ 47 then decide (o < 0xC000000000) else decide (o - 2 ^ 47 < 0xC0000000000)
  else c == 0xC
/-- Die on which an address is served: of its HBM stack, its CXL port, or the link that carries it (R180, R181). -/
def dieOfPa (pa : Nat) : Nat :=
  let c := paClass pa
  let o := pa % 2 ^ 48
  if c = 0 then o / 0x3000000000
  else if c = 1 then o / 0x18000000000 / 2
  else if 4 ≤ c ∧ c ≤ 0xB then (c - 4) / 2
  else 0
/-- Slice index within the die (R181). -/
def localSlice (pa : Nat) : Nat :=
  ((pa / 2 ^ 7 % 32) ^^^ (pa / 2 ^ 12 % 32) ^^^ (pa / 2 ^ 17 % 32) ^^^ (pa / 2 ^ 22 % 32))
/-- Global slice that serves a line (01 R15). -/
def sliceOf (pa : Nat) : Nat := dieOfPa pa * 32 + localSlice pa
/-- Lines of HBM and CXL-tier pages are cached in L2 (R181). -/
def l2Cached (pa : Nat) : Bool := decide (paClass pa ≤ 1)
/-- Latency of a slice hit from a core (01 R27). -/
def slicePath (core pa : Nat) : Nat := sliceLatency (dieOf core) (dieOfPa pa)
/-- Latency beyond the slice figure when the slice does not hold the line (01 R27): the typical figures for HBM and
CXL, the link for peer and host pages. -/
def homeExtra (pa : Nat) : Nat :=
  let c := paClass pa
  if c = 0 then Config.hbmLatency - 88 else if c = 1 then Config.cxlLatency - 88
  else if c = 0xC then 150 else 200

/-! ### Writes at a slice (08 R199, 12 R294) -/

/-- Key of a slice's bank: the bank of a line is PA[15:12] (DESIGN CHOICE, notes/assumptions/12.md). -/
def bankKey (pa : Nat) : Nat := sliceOf pa * 16 + pa / 4096 % 16

/-- The bank waits for the end of a wake: cycles an access now adds (R200). -/
def State.bankDelay (s : State) (pa : Nat) : Nat :=
  let b := getT Bank.reset s.banks (bankKey pa)
  match b.wake with
  | some t => t - s.dcc
  | none => if b.drowsy || decide (b.last + 4096 ≤ s.dcc) then 12 else 0

/-- An access reaches its bank: a drowsy bank starts its wake (R200). -/
def State.touchBank (s : State) (pa : Nat) : State :=
  let b := getT Bank.reset s.banks (bankKey pa)
  let wake := match b.wake with
    | some t => some t
    | none => if b.drowsy || decide (b.last + 4096 ≤ s.dcc) then some (s.dcc + 12) else none
  { s with banks := setT Bank.reset s.banks (bankKey pa) { b with last := s.dcc, wake := wake } }

/-- A slice watchpoint matches a write of `n` bytes at `pa` (12 R294). -/
def swatchHits (w : W64) (pa n : Nat) : Bool :=
  let v := w.toNat
  let size := 32 * 2 ^ (v / 2 ^ 52 % 16)
  let base := v / 2 ^ 5 % 2 ^ 47 * 32 / size * size
  v % 2 == 1 && decide (base < pa + n) && decide (pa < base + size)

/-- Applies the slice watchpoints to a write within one line (12 R294, R296). -/
def State.swatch (s : State) (src unit pa n : Nat) : State :=
  let d := dieOfPa pa
  let ks := (List.range 2).map (fun k => localSlice pa * 2 + k)
  ks.foldl (fun s k =>
    let w := getT 0 (s.die d).swatch k
    if swatchHits w pa n then
      let s := s.postDebug d 1 k src unit n (BitVec.ofNat 64 pa)
      if w.getLsbD 1 then
        s.updDie d (fun di => { di with haltAt := match di.haltAt with | some t => some t | none => some (s.dcc + 16) })
      else s
    else s) s

/-- A write within one line arrives at its slice. -/
def State.slicePut (s : State) (src unit pa : Nat) (bytes : List Byte) : State :=
  (({ s with mem := writeBytes s.mem pa bytes }).touchBank pa).swatch src unit pa bytes.length

/-- A write of any length, as one write for each line it touches; `fuel` bounds the lines. -/
def State.slicePutAll (s : State) (src unit : Nat) : Nat → Nat → List Byte → State
  | 0, _, _ => s
  | fuel + 1, pa, bytes =>
    match bytes with
    | [] => s
    | _ =>
      let n := 128 - pa % 128
      (s.slicePut src unit pa (bytes.take n)).slicePutAll src unit fuel (pa + n) (bytes.drop n)
def State.putLong (s : State) (src unit pa : Nat) (bytes : List Byte) : State :=
  s.slicePutAll src unit (bytes.length / 128 + 2) pa bytes

/-! ### Table entries and walks -/

def bitsOf (x lo n : Nat) : Nat := x / 2 ^ lo % 2 ^ n

/-- PA[51:48] agrees with HOME (R183, R184). -/
def homeAgrees (home pa : Nat) : Bool :=
  let c := paClass pa
  if home = 0 then c == 0 else if home = 1 then c == 1
  else if home = 2 then decide (4 ≤ c) && decide (c ≤ 0xB) else c == 0xC

/-- Page address of a leaf entry. -/
def leafPa (e : Nat) : Nat := bitsOf e 16 36 * 2 ^ 16
/-- Next-level table of a pointer entry. -/
def nextPa (e : Nat) : Nat := bitsOf e 8 44 * 2 ^ 8
/-- A well-formed table pointer to a table of 2^`logT` bytes in HBM (R182, R183, R184). -/
def goodPointer (e logT : Nat) : Bool :=
  bitsOf e 2 6 == 0 && bitsOf e 52 12 == 0 && nextPa e % 2 ^ logT == 0 && paClass (nextPa e) == 0 && paOk (nextPa e)
/-- A well-formed leaf of a page of 2^`logP` bytes. -/
def goodLeaf (e logP : Nat) : Bool :=
  bitsOf e 11 5 == 0 && bitsOf e 52 12 == 0 && leafPa e % 2 ^ logP == 0 && homeAgrees (bitsOf e 9 2) (leafPa e)

/-- What a walk finds. -/
inductive WalkRes where
  /-- a leaf entry and log2 of its page size -/
  | leaf (pte logPage : Nat)
  /-- an entry with V = 0: log2 of the extent it covers (R189) -/
  | nonPresent (logExtent : Nat)
  | malformed
  deriving DecidableEq, Repr

/-- The eight-byte entry at a physical address. -/
def entryAt (mem : List (Nat × Byte)) (pa : Nat) : Nat := natOfBytes (readBytes mem pa 8)

/-- Walks from level `lvl` down, with `table` the level's table (R182). -/
def walkFrom (mem : List (Nat × Byte)) (va : Nat) : Nat → Nat → WalkRes
  | 0, table =>
    let e := entryAt mem (table + 8 * bitsOf va 16 5)
    if e % 2 = 0 then .nonPresent 16
    else if bitsOf e 1 1 = 1 ∧ goodLeaf e 16 then .leaf e 16 else .malformed
  | lvl + 1, table =>
    let idx := if lvl = 0 then bitsOf va 21 5 else if lvl = 1 then bitsOf va 26 16 else bitsOf va 42 15
    let ext := if lvl = 0 then 21 else if lvl = 1 then 26 else 42
    let e := entryAt mem (table + 8 * idx)
    if e % 2 = 0 then .nonPresent ext
    else if bitsOf e 1 1 = 1 then (if lvl < 2 ∧ goodLeaf e ext then .leaf e ext else .malformed)
    else if goodPointer e (if lvl = 2 then 19 else 8) then walkFrom mem va lvl (nextPa e)
    else .malformed

/-- The walk of a virtual address under an ASID on a die, from the ASID table (R181 of ch. 18, R381). -/
def State.walk (s : State) (die : Nat) (asid : BitVec 16) (va : Nat) : WalkRes :=
  let base := (s.die die).asidt.toNat
  let e := entryAt s.mem (base + 8 * asid.toNat)
  if e % 2 = 1 ∧ bitsOf e 1 1 = 0 ∧ goodPointer e 18 then walkFrom s.mem va 3 (nextPa e) else .malformed

/-- The entries that a walk reads, one for each level walked (R186). -/
def walkRefsFrom (mem : List (Nat × Byte)) (va : Nat) : Nat → Nat → List Nat
  | 0, table => [table + 8 * bitsOf va 16 5]
  | lvl + 1, table =>
    let idx := if lvl = 0 then bitsOf va 21 5 else if lvl = 1 then bitsOf va 26 16 else bitsOf va 42 15
    let at_ := table + 8 * idx
    let e := entryAt mem at_
    if e % 2 = 1 ∧ bitsOf e 1 1 = 0 ∧ goodPointer e (if lvl = 2 then 19 else 8) then at_ :: walkRefsFrom mem va lvl (nextPa e) else [at_]

/-- Table references of the walk of a virtual address. -/
def State.walkRefs (s : State) (die : Nat) (asid : BitVec 16) (va : Nat) : List Nat :=
  let e := entryAt s.mem ((s.die die).asidt.toNat + 8 * asid.toNat)
  if e % 2 = 1 ∧ bitsOf e 1 1 = 0 ∧ goodPointer e 18 then walkRefsFrom s.mem va 3 (nextPa e) else []

/-- Addresses that a walk reads: its ASID's table entry, then an entry for each level. -/
def State.walkReads (s : State) (die : Nat) (asid : BitVec 16) (va : Nat) : List Nat :=
  ((s.die die).asidt.toNat + 8 * asid.toNat) :: s.walkRefs die asid va

/-- The physical address of a leaf's page for a virtual address. -/
def paOf (pte logPage va : Nat) : Nat := leafPa pte + va % 2 ^ logPage

/-- An address of a peer is reached while its link is up (18 R387). -/
def State.linkUp (s : State) (pa : Nat) : Bool :=
  let c := paClass pa
  if 4 ≤ c ∧ c ≤ 0xB then (getT Peer.reset s.pkg.peers (c - 4)).link == 2 else true

/-- What an access needs of a leaf (R184). -/
inductive Need where
  | read | write | readWrite | fetch
  deriving DecidableEq, Repr

/-- The ACCESS detail of a translated access, if it fails (R184, 12 R274). -/
def State.leafFault (s : State) (need : Need) (pte pa : Nat) : Option Nat :=
  let r := bitsOf pte 2 1 == 1
  let w := bitsOf pte 3 1 == 1
  let x := bitsOf pte 4 1 == 1
  let ok := match need with
    | .read => r
    | .write => w
    | .readWrite => r && w
    | .fetch => x
  if !paOk pa || !s.linkUp pa then some 3 else if !ok || bitsOf pte 5 2 == 3 then some 2 else none

/-- The page kind of a leaf: 0 C, 1 S, 2 U. -/
def leafKind (pte : Nat) : Nat := bitsOf pte 5 2
/-- The effective cache policy (R185). -/
def effCp (cp pte : Nat) : Nat := if cp = 0 then bitsOf pte 7 2 else cp

/-! ### Translation caches -/

/-- The sets and ways of the TLBs; one set is fully associative (R186). -/
def tlbSet (sets : Nat) (e : TlbEntry) : Nat := (e.page ^^^ e.asid.toNat) % sets
def tlbMatch (asid : BitVec 16) (va : Nat) (e : TlbEntry) : Bool :=
  e.asid == asid && va / 2 ^ e.logPage == e.page
/-- Makes a hit the most recently used entry. -/
def tlbTouch (t : List TlbEntry) (e : TlbEntry) : List TlbEntry := e :: t.erase e
/-- Drops the least recently used entry of a full set; `n` counts entries of the set seen so far. -/
def tlbTrim (sets ways set : Nat) : List TlbEntry → Nat → List TlbEntry
  | [], _ => []
  | e :: r, n =>
    if tlbSet sets e = set then (if n < ways then e :: tlbTrim sets ways set r (n + 1) else tlbTrim sets ways set r n)
    else e :: tlbTrim sets ways set r n
/-- Fills an entry; one already held for the page is replaced (R186). -/
def tlbFill (sets ways : Nat) (t : List TlbEntry) (e : TlbEntry) : List TlbEntry :=
  tlbTrim sets ways (tlbSet sets e)
    (e :: t.filter (fun o => !(o.asid == e.asid && o.logPage == e.logPage && o.page == e.page))) 0

def fillCore (k : Core) (e : TlbEntry) : Core :=
  { k with l1tlb := tlbFill 1 128 k.l1tlb e, coreTlb := tlbFill 256 8 k.coreTlb e }

/-- Fills the TLBs that a walk of a core, or of its copy engine, fills (R186). -/
def State.fillTlbs (s : State) (core : Nat) (copy : Bool) (e : TlbEntry) : State :=
  let s := s.updDie (dieOf core) (fun d => { d with llTlb := tlbFill 1024 12 d.llTlb e })
  if copy then s.updCore core (fun k => { k with walkAhead := tlbFill 1 512 k.walkAhead e })
  else s.updCore core (fun k => fillCore k e)

/-- A lookup: the entry, if any TLB holds it, and the cycles it adds (R186). -/
def State.tlbLook (s : State) (core : Nat) (copy : Bool) (asid : BitVec 16) (va : Nat) :
    State × Option TlbEntry × Nat :=
  let k := s.core core
  if copy then
    match k.walkAhead.find? (tlbMatch asid va) with
    | some e => (s.updCore core (fun k => { k with walkAhead := tlbTouch k.walkAhead e }), some e, 0)
    | none => (s, none, 0)
  else
    match k.l1tlb.find? (tlbMatch asid va) with
    | some e => (s.updCore core (fun k => { k with l1tlb := tlbTouch k.l1tlb e }), some e, 0)
    | none =>
      match k.coreTlb.find? (tlbMatch asid va) with
      | some e =>
        (s.updCore core (fun k => { k with coreTlb := tlbTouch k.coreTlb e, l1tlb := tlbFill 1 128 k.l1tlb e }), some e, 6)
      | none =>
        match (s.die (dieOf core)).llTlb.find? (tlbMatch asid va) with
        | some e =>
          let s := s.updDie (dieOf core) (fun d => { d with llTlb := tlbTouch d.llTlb e })
          (s.updCore core (fun k => fillCore k e), some e, 40)
        | none => (s, none, 40)

/-- A TLB entry that fails its parity is discarded; a later lookup refills it (18 R390). -/
def State.tlbDiscard (s : State) (level unit : Nat) (asid : BitVec 16) (page : Nat) : State :=
  let f := fun (t : List TlbEntry) => t.filter (fun e => !(e.asid == asid && e.page == page))
  match level with
  | 0 => s.updCore unit (fun k => { k with l1tlb := f k.l1tlb })
  | 1 => s.updCore unit (fun k => { k with coreTlb := f k.coreTlb })
  | 2 => s.updCore unit (fun k => { k with walkAhead := f k.walkAhead })
  | _ => s.updDie unit (fun d => { d with llTlb := f d.llTlb })

/-- Which translations a `tlbi` removes (R188): kind 0 page, 1 ASID, 2 all. -/
def tlbiHits (kind : Nat) (asid : BitVec 16) (va : Nat) (e : TlbEntry) : Bool :=
  if kind = 0 then tlbMatch asid va e else if kind = 1 then e.asid == asid else true

/-- log2 of the bytes that the result of a walk in flight covers. -/
def State.walkExtent (s : State) (w : Walk) : Nat :=
  match s.walk (dieOf w.core) w.asid w.va with
  | .leaf _ p => p
  | .nonPresent x => x
  | .malformed => 16

/-- Removes matching entries from every TLB of the package, and discards walks in flight (R188). -/
def State.tlbInvalidate (s : State) (kind : Nat) (asid : BitVec 16) (va : Nat) : State :=
  let f := fun (t : List TlbEntry) => t.filter (fun e => !tlbiHits kind asid va e)
  { s with
    cores := s.cores.map (fun e => (e.1, { e.2 with l1tlb := f e.2.l1tlb, coreTlb := f e.2.coreTlb, walkAhead := f e.2.walkAhead }))
    dies := s.dies.map (fun e => (e.1, { e.2 with llTlb := f e.2.llTlb }))
    walks := s.walks.map (fun w =>
      if kind = 2 ∨ (kind = 1 ∧ w.asid = asid) ∨ (kind = 0 ∧ w.asid = asid ∧ w.va / 2 ^ s.walkExtent w = va / 2 ^ s.walkExtent w)
      then { w with discarded := true } else w) }

end Sys2Proof.Machine
end

