-- ==== Sys2Proof/Machine/Cache.lean ====
section
/-! DEFINITION. The L1 cache of a core and its write-backs, the L2 tags of a slice, scope pins, and the acquire and release
actions on them (08 R196, R197; 09 R216, R217, R219-R222). -/

namespace Sys2Proof.Machine

/-! ### L2 tags (R197) -/

/-- The set of a slice a line falls into (DESIGN CHOICE, notes/assumptions/12.md). -/
def l2Set (line : Nat) : Nat := line / 32 % 4096

/-- Makes room in a set for one line: a persist fill beyond three takes the least recent persist line; a full set
loses its least recent non-persist line, or its least recent line when all are persist (R197). -/
def l2Room (slice set : Nat) (persist : Bool) (t : List L2Line) : List L2Line :=
  let mine := t.filter (fun (l : L2Line) => l.slice == slice && l2Set l.line == set)
  let pers := mine.filter (fun (l : L2Line) => l.persist)
  let plain := mine.filter (fun (l : L2Line) => !l.persist)
  let drop := fun (o : Option L2Line) => match o with
    | some l => t.erase l
    | none => t
  if persist && decide (3 ≤ pers.length) then drop pers.getLast?
  else if mine.length < 12 then t
  else if plain.isEmpty then drop mine.getLast? else drop plain.getLast?

/-- The line of an address in its slice's tags. -/
def State.l2Line? (s : State) (pa : Nat) : Option L2Line := s.l2.find? (fun l => l.line == pa / 128 && l.slice == sliceOf pa)

/-- A line is used at its slice: a hit becomes most recent; a fill, which is there at `ready`, enters as most recent, a stream
fill as least recent. A line that becomes persist counts as a persist fill (R197). -/
def State.l2Use (s : State) (pa cp ready : Nat) : State :=
  if !l2Cached pa then s
  else
    let slice := sliceOf pa
    let line := pa / 128
    match s.l2Line? pa with
    | some e =>
      if cp = 1 then s
      else if cp = 3 ∧ !e.persist then
        { s with l2 := { e with persist := true } :: l2Room slice (l2Set line) true (s.l2.erase e) }
      else { s with l2 := e :: s.l2.erase e }
    | none =>
      let e : L2Line := { slice := slice, line := line, persist := cp == 3, ready := ready }
      let t := l2Room slice (l2Set line) e.persist s.l2
      { s with l2 := if cp = 1 then t ++ [e] else e :: t }

/-- Cycles beyond the slice figure for an access: a line that the slice does not hold or is still filling, and a drowsy bank
(01 R27, R200). -/
def State.beyondSlice (s : State) (pa : Nat) : Nat :=
  (match s.l2Line? pa with | some e => e.ready - s.dcc | none => homeExtra pa) + s.bankDelay pa

/-- An access of any agent uses its line and its bank. -/
def State.useLine (s : State) (pa cp : Nat) : State :=
  (s.touchBank pa).l2Use pa cp (s.dcc + s.beyondSlice pa)

/-- Latency of one walk that finds every reference as it stands: a table reference for each level, each with the latency of a load from the table's home (R186). -/
def State.walkLatency (s : State) (core : Nat) (asid : BitVec 16) (va : Nat) : Nat :=
  ((s.walkRefs (dieOf core) asid va).map (fun pa => slicePath core pa + s.beyondSlice pa)).sum

/-- A walk made at once uses the lines of its references and wakes their banks (R200). -/
def State.useRefs (s : State) (die : Nat) (asid : BitVec 16) (va : Nat) : State :=
  (s.walkRefs die asid va).foldl (fun s pa => s.useLine pa 0) s

/-- Translates at once: from a TLB, else by a walk, whose result is filled. -/
def State.translate (s : State) (core : Nat) (copy : Bool) (asid : BitVec 16) (va : Nat) : State × WalkRes :=
  match s.tlbLook core copy asid va with
  | (s, some e, _) => (s, .leaf e.leaf.toNat e.logPage)
  | (s, none, _) =>
    let t := s.useRefs (dieOf core) asid va
    match s.walk (dieOf core) asid va with
    | .leaf pte p =>
      (t.fillTlbs core copy { asid := asid, page := va / 2 ^ p, logPage := p, leaf := BitVec.ofNat 64 pte }, .leaf pte p)
    | r => (t, r)

/-! ### L1 lines -/

/-- The set of an L1 a line falls into (DESIGN CHOICE, notes/assumptions/12.md). -/
def l1Set (line : Nat) : Nat := line % 256

def State.l1Line? (s : State) (core line : Nat) : Option L1Line :=
  (s.core core).l1.find? (fun l => l.line == line)

/-- Sectors of a line that `n` bytes at `pa` touch. -/
def sectorsOf (pa n : Nat) : BitVec 4 :=
  (List.range 4).foldl (fun m k =>
    if pa % 128 < 32 * (k + 1) ∧ 32 * k < pa % 128 + n then m ||| (1 <<< k) else m) 0

def State.setL1 (s : State) (core : Nat) (f : List L1Line → List L1Line) : State :=
  s.updCore core (fun k => { k with l1 := f k.l1 })

/-- The bits of `n` bytes of a line from an offset on. -/
def byteMask (off n : Nat) : BitVec 128 := BitVec.ofNat 128 ((2 ^ n - 1) * 2 ^ off)
/-- The bits of the bytes of some sectors. -/
def sectorBytes (m : BitVec 4) : BitVec 128 :=
  (List.range 4).foldl (fun w k => if m.getLsbD k then w ||| byteMask (32 * k) 32 else w) 0

/-- A line that holds nothing. -/
def L1Line.empty (l : L1Line) : Bool := l.valid == 0 && l.dirty == 0
/-- Replaces a line in place. -/
def putLine (t : List L1Line) (l : L1Line) : List L1Line :=
  if l.empty then t.filter (fun o => o.line != l.line) else t.map (fun o => if o.line = l.line then l else o)

/-- A byte of a line. -/
def L1Line.byte (l : L1Line) (off : Nat) : Byte := getT 0 l.data off
/-- The line holds a byte: its sector is valid, or the core has written it. -/
def L1Line.holds (l : L1Line) (off : Nat) : Bool := l.valid.getLsbD (off / 32) || l.written.getLsbD off

/-- A byte at its slice, as a core will see it there: behind the core's own write-backs that are under way. -/
def State.homeByte (s : State) (core pa : Nat) : Byte :=
  match s.backs.reverse.find? (fun b => b.core == core && b.line == pa / 128 && b.written.getLsbD (pa % 128)) with
  | some b => getT 0 b.data (pa % 128)
  | none => readByte s.mem pa

/-- Bytes as a core sees them: from its L1 where that holds them, else from the slice. -/
def State.coreBytes (s : State) (core pa n : Nat) : List Byte :=
  match s.l1Line? core (pa / 128) with
  | none => (List.range n).map (fun i => s.homeByte core (pa + i))
  | some l =>
    (List.range n).map (fun i =>
      if l.holds ((pa + i) % 128) then l.byte ((pa + i) % 128) else s.homeByte core (pa + i))

/-- The L1 holds every byte of an access. -/
def State.l1Valid (s : State) (core pa n : Nat) : Bool :=
  match s.l1Line? core (pa / 128) with
  | none => false
  | some l => (byteMask (pa % 128) n &&& ~~~(sectorBytes l.valid ||| l.written)) == 0

/-- The cycle in which the sectors of an access in the L1 have been filled; the core's own bytes wait for no fill. -/
def State.l1Ready (s : State) (core pa n : Nat) : Nat :=
  match s.l1Line? core (pa / 128) with
  | none => 0
  | some l =>
    if byteMask (pa % 128) n &&& ~~~l.written = 0 then 0
    else ((List.range 4).filter (fun k => (sectorsOf pa n).getLsbD k)).foldl (fun t k => max t (getT 0 l.ready k)) 0

/-! ### Pins (09 R220-R222) -/

def State.pin? (s : State) (line : Nat) : Option Pin := s.pins.find? (fun p => p.line == line)
/-- Another agent than the pinning core is refused. -/
def State.pinned (s : State) (core : Option Nat) (pa : Nat) : Bool :=
  match s.pin? (pa / 128) with
  | some p => some p.core != core
  | none => false
/-- A refused access starts the pin's count (R222). -/
def State.refuse (s : State) (pa : Nat) : State :=
  { s with pins := s.pins.map (fun p =>
      if p.line = pa / 128 then { p with refused := match p.refused with | some t => some t | none => some s.dcc } else p) }

/-- Lines of a list that another agent has pinned. -/
def State.pinnedIn (s : State) (core : Option Nat) (pas : List Nat) : List Nat := pas.filter (s.pinned core)
/-- Refuses the accesses to every pinned line of a list. -/
def State.refuseAll (s : State) (pas : List Nat) : State := pas.foldl State.refuse s
/-- A retry of the pinned lines of a list has something to do: one of them has not refused an access before, or none is left. -/
def State.retryDue (s : State) (core : Option Nat) (pas : List Nat) : Bool :=
  let pins := s.pinnedIn core pas
  pins == [] || pins.any (fun pa => match s.pin? (pa / 128) with | some p => p.refused.isNone | none => true)

/-- Table entries of a walk that are pinned: a walker is no part of any core (R221). -/
def State.walkPins (s : State) (die : Nat) (asid : BitVec 16) (va : Nat) : List Nat := s.pinnedIn none (s.walkReads die asid va)
/-- The same for a lookup that may find a TLB entry, and then reads no table. -/
def State.lookPins (s : State) (core : Nat) (copy : Bool) (asid : BitVec 16) (va : Nat) : List Nat :=
  if (s.tlbLook core copy asid va).2.1.isSome then [] else s.walkPins (dieOf core) asid va

/-! ### Fault records (R189) -/

/-- HEAD, TAIL and capacity of the block at a physical address, if it is well formed in its page. -/
def queueBlock (mem : List (Nat × Byte)) (pa logPage : Nat) : Option (Nat × Nat × Nat) :=
  let cap := (readByte mem (pa + 16)).toNat
  if pa % 64 ≠ 0 ∨ 9 < cap ∨ (readBytes mem (pa + 17) 47).any (fun b => b != 0)
      ∨ 2 ^ logPage < pa % 2 ^ logPage + 64 + 8 * 2 ^ cap then none
  else some (natOfBytes (readBytes mem pa 8), natOfBytes (readBytes mem (pa + 8) 8), 2 ^ cap)

/-- Entries in a queue, modulo 2^64 (R202). -/
def queueLength (head tail : Nat) : Nat := (tail + 2 ^ 64 - head) % 2 ^ 64

/-- The block page of a queue: that of the issuing part's leaf, and for a die's fault queue the 64 KiB page that holds the block
(R203). -/
def State.blockPage (s : State) (pa logPage : Nat) : Nat := if s.dies.any (fun e => e.2.fqueue.toNat == pa) then 16 else logPage

/-- The unanswered record of a core that covers an address. -/
def State.recordFor (s : State) (core : Nat) (asid : BitVec 16) (va : Nat) : Option FaultRec :=
  (s.die (dieOf core)).faults.find? (fun f =>
    f.core == core && f.asid == asid && decide (f.page ≤ va) && decide (va < f.page + f.size))

/-- Capacity of a die's fault service: min(1,024, 2^LOGCAP) of its queue (R189, R202). -/
def State.faultRoom (s : State) (die : Nat) : Bool :=
  let d := s.die die
  decide (d.faults.length < min 1024 (2 ^ (readByte s.mem (d.fqueue.toNat + 16)).toNat))

/-- Slot of the fault ring that a die's next ticket takes. -/
def Die.ringSlot (d : Die) : Nat := d.fring.toNat + 32 * (d.ticket % 1024)

/-- Addresses that the posting of a die's next record writes: its slot, and where its queue is well formed the queue's entry and
TAIL. -/
def State.postLines (s : State) (die : Nat) : List Nat :=
  let q := (s.die die).fqueue.toNat
  (s.die die).ringSlot ::
    (match queueBlock s.mem q 16 with
      | some (_, tail, cap) => [q + 64 + 8 * (tail % cap), q]
      | none => [])

/-- Enqueues a value on a die's fault queue, and tells the host when it was empty (R189, R203). A block that is malformed takes no
entry: the spec names no trap for a walker (DESIGN CHOICE, notes/assumptions/62.md). -/
def State.enqueueFault (s : State) (die v : Nat) : State :=
  let q := (s.die die).fqueue.toNat
  match queueBlock s.mem q 16 with
  | none => s
  | some (head, tail, cap) =>
    let s := (s.slicePut 2 0 (q + 64 + 8 * (tail % cap)) (bytesOfNat 8 v)).slicePut 2 0 (q + 8) (bytesOfNat 8 (tail + 1))
    if head = tail then s.sendMsix 0 (1 + die) else s

/-- The ticket to wait on for an address of a core: that of the record already posted, or of the one posted now (R189). None while the
record cannot be posted: the die holds as many unanswered tickets as it can, or a line that it writes is pinned and refuses it
(R221). -/
def State.postFault (s : State) (core : Nat) (asid : BitVec 16) (va logExt kind slot : Nat) : State × Option (Nat × Nat) :=
  let die := dieOf core
  match s.recordFor core asid va with
  | some f => (s, some (die, f.ticket))
  | none =>
    let d := s.die die
    if !s.faultRoom die then (s, none)
    else if s.pinnedIn none (s.postLines die) ≠ [] then (s.refuseAll (s.pinnedIn none (s.postLines die)), none)
    else
      let page := va / 2 ^ logExt * 2 ^ logExt
      let rec_ := bytesOfNat 8 va ++ bytesOfNat 2 asid.toNat ++ bytesOfNat 1 kind ++ bytesOfNat 1 core ++ bytesOfNat 1 slot
        ++ bytesOfNat 3 0 ++ bytesOfNat 8 s.dcc ++ bytesOfNat 4 d.ticket ++ bytesOfNat 4 0
      let s := (s.slicePut 2 0 d.ringSlot rec_).enqueueFault die d.ticket
      let s := s.updDie die (fun d =>
        { d with
          ticket := (d.ticket + 1) % 2 ^ 32
          faults := d.faults ++ [{ ticket := d.ticket, va := va, asid := asid, kind := kind, core := core, slot := slot
                                   stamp := s.dcc, page := page, size := 2 ^ logExt }] })
      (s, some (die, d.ticket))

/-- An attempt to post has something to do: it can, or a pin refuses it for the first time. -/
def State.mayPost (s : State) (core : Nat) (asid : BitVec 16) (va : Nat) : Bool :=
  (s.recordFor core asid va).isSome || (s.faultRoom (dieOf core) && s.retryDue none (s.postLines (dieOf core)))

/-! ### Write-backs (R196, R217, R220) -/

/-- A write-back of a line is under way from a core. -/
def State.backBusy (s : State) (core line : Nat) : Bool := s.backs.any (fun b => b.core == core && b.line == line)
/-- Every write-back of a core with an identity below `n` has performed. -/
def State.backsDone (s : State) (core n : Nat) : Bool := !s.backs.any (fun b => b.core == core && decide (b.id < n))

/-- Sends dirty sectors of a line to its home, where they arrive a slice path later; they stay clean, and valid if they were. -/
def State.sendSectors (s : State) (src core line : Nat) (mask : BitVec 4) : State :=
  match s.l1Line? core line with
  | none => s
  | some l =>
    let go := l.dirty &&& mask
    if go = 0 then s
    else
      let pa := line * 128
      let b : Back :=
        { id := s.nextId, core := core, line := line, kind := l.kind, sectors := go, data := l.data
          written := l.written &&& sectorBytes go, whole := l.dirty == go, src := src
          due := s.dcc + slicePath core pa + (if l2Cached pa then 0 else homeExtra pa) }
      { s with backs := s.backs ++ [b], nextId := s.nextId + 1 }.setL1 core (fun t =>
        putLine t { l with dirty := l.dirty &&& ~~~go, written := l.written &&& ~~~sectorBytes go })
/-- Sends every dirty sector of a line. -/
def State.sendBackAs (s : State) (src core line : Nat) : State := s.sendSectors src core line 0xF
def State.sendBack (s : State) (core line : Nat) : State := s.sendBackAs 0 core line

/-- The pins of a line after a write-back of its core has performed. They go when it took every dirty sector, or when nothing dirty is
left; a sector dirtied since has a pin of its own, with a new count (R220, R222). -/
def State.unpin (s : State) (core line : Nat) (whole : Bool) : State :=
  let rest := s.pins.filter (fun p => !(p.line == line && p.core == core))
  match s.l1Line? core line with
  | some l =>
    if l.kind = 0 ∧ l.dirty ≠ 0 then
      if whole then
        { s with pins := rest ++ [{ line := line, core := core, slot := l.slot, admission := l.admission, refused := none, demanded := false }] }
      else s
    else if s.backBusy core line then s else { s with pins := rest }
  | none => if s.backBusy core line then s else { s with pins := rest }

/-- A fatal error: every die halts in the following cycle; a second one is recorded in the dump's header (18 R390). -/
def State.fatal (s : State) (cause pa : Nat) : State :=
  if s.pkg.fwState = 3 then s.updPkg (fun p => { p with dumpCause := if p.dumping then 4 else p.dumpCause })
  else
    let s := (List.range 4).foldl (fun s d => s.updDie d (fun d => { d with haltAt := some (s.dcc + 1) })) s
    s.updPkg (fun p => { p with fwState := 3, dumping := true, dumpCause := cause, dumpPa := pa, dumpDcc := s.dcc })

/-- A write-back performs at its line's home: it writes the bytes that its core wrote. It enters the L2 under the policy normal
(DESIGN CHOICE, notes/assumptions/51.md). One that finds its peer's link down is lost, a fatal error (18 R387; DEDUCED,
notes/assumptions/37.md). -/
def State.landBack (s : State) (b : Back) : State :=
  let s := { s with backs := s.backs.filter (fun x => x.id != b.id) }
  if !s.linkUp (b.line * 128) then (s.fatal 3 (b.line * 128)).unpin b.core b.line b.whole
  else
  let s := (List.range 4).foldl (fun s k =>
    if b.sectors.getLsbD k then
      s.slicePut b.src b.core (b.line * 128 + 32 * k) ((List.range 32).map (fun i =>
        if b.written.getLsbD (32 * k + i) then getT 0 b.data (32 * k + i) else readByte s.mem (b.line * 128 + 32 * k + i)))
    else s) (s.useLine (b.line * 128) 0)
  s.unpin b.core b.line b.whole

/-- A write-back arrives: it performs, or waits for its bank to wake (R200). -/
def State.backArrives (s : State) (b : Back) : State :=
  let d := s.bankDelay (b.line * 128)
  if d = 0 then s.landBack b
  else { s.touchBank (b.line * 128) with backs := s.backs.map (fun x => if x.id = b.id then { x with due := s.dcc + d } else x) }

/-- The write-backs that arrive as a cycle begins. -/
def State.landBacks (s : State) : State := (s.backs.filter (fun b => decide (b.due ≤ s.dcc))).foldl State.backArrives s

/-- Drops valid clean sectors of a line. -/
def State.dropClean (s : State) (core line : Nat) (mask : BitVec 4) : State :=
  match s.l1Line? core line with
  | none => s
  | some l => s.setL1 core (fun t => putLine t { l with valid := l.valid &&& ~~~(mask &&& ~~~l.dirty) })

/-- The core holds some sectors of a line dirty, or has write-backs of them under way. -/
def State.sectorsBusy (s : State) (core line : Nat) (mask : BitVec 4) : Bool :=
  s.backs.any (fun b => b.core == core && b.line == line && b.sectors &&& mask != 0)
  || (match s.l1Line? core line with | some l => l.dirty &&& mask != 0 | none => false)
/-- The core holds dirty sectors of a line, or has them on their way. -/
def State.lineBusy (s : State) (core line : Nat) : Bool := s.sectorsBusy core line 0xF

/-- A write at the slice by a core keeps the core's valid copy, and its write-backs under way, in step (R196, R212). -/
def State.patchL1 (s : State) (core pa : Nat) (bytes : List Byte) : State :=
  let s := { s with backs := s.backs.map (fun (b : Back) =>
    if b.core = core ∧ b.line = pa / 128 then { b with data := writeBytes b.data (pa % 128) bytes } else b) }
  match s.l1Line? core (pa / 128) with
  | none => s
  | some l => s.setL1 core (fun t => putLine t { l with data := writeBytes l.data (pa % 128) bytes })

/-- A way of the line's set that no line has, or that of the line it takes the place of. -/
def freeWay (mine : List L1Line) : Nat :=
  match (List.range 8).find? (fun w => mine.all (fun l => l.way != w)) with
  | some w => w
  | none => match mine.getLast? with | some v => v.way | none => 0

/-- Makes room for a line and installs it with no valid sector: most recent, or least recent for stream. -/
def State.l1Install (s : State) (core line kind : Nat) (asid : BitVec 16) (stream : Bool) : State :=
  match s.l1Line? core line with
  | some l => s.setL1 core (fun t => if stream then t else l :: t.erase l)
  | none =>
    let mine := (s.core core).l1.filter (fun l => l1Set l.line == l1Set line)
    let l : L1Line := { line := line, data := [], valid := 0, dirty := 0, written := 0, kind := kind, asid := asid, way := freeWay mine, ready := []
                        slot := 0, admission := 0 }
    let s := match mine.getLast? with
      | some v => if 8 ≤ mine.length then (s.sendBack core v.line).setL1 core (fun t => t.filter (fun o => o.line != v.line)) else s
      | none => s
    s.setL1 core (fun t => if stream then t ++ [l] else l :: t)

/-- Fills some sectors of a line in the L1 that are not valid from their home; they are there at `ready`. The core's own bytes stay. -/
def State.fillSectors (s : State) (core line : Nat) (sectors : BitVec 4) (ready : Nat) : State :=
  match s.l1Line? core line with
  | none => s
  | some l =>
    let need := (List.range 4).filter (fun k => (sectors &&& ~~~l.valid).getLsbD k)
    let data := need.foldl (fun d k =>
      (List.range 32).foldl (fun d i =>
        if l.written.getLsbD (32 * k + i) then d else setT 0 d (32 * k + i) (s.homeByte core (line * 128 + 32 * k + i))) d) l.data
    let l := { l with data := data, valid := l.valid ||| sectors, ready := need.foldl (fun t k => putT t k ready) l.ready }
    s.setL1 core (fun t => t.map (fun o => if o.line = line then l else o))
/-- Fills the sectors of an access. -/
def State.l1Fill (s : State) (core pa n kind : Nat) (asid : BitVec 16) (stream : Bool) (ready : Nat) : State :=
  (s.l1Install core (pa / 128) kind asid stream).fillSectors core (pa / 128) (sectorsOf pa n) ready

/-- Asks for sectors of a line that a store missed, unless they are asked for already: the request takes its slice path (01 R27). -/
def State.askFill (s : State) (core line : Nat) (sectors : BitVec 4) (cp : Nat) : State :=
  let asked := (s.fills.filter (fun f => f.core == core && f.line == line)).foldl (fun (m : BitVec 4) f => m ||| f.sectors) 0
  if sectors &&& ~~~asked = 0 then s
  else
    { s with fills := s.fills ++ [{ core := core, line := line, sectors := sectors &&& ~~~asked, cp := cp
                                    arrival := s.dcc + slicePath core (line * 128) }] }

/-- The sectors that a store missed reach their slice, which gives them under the store's policy (R197). -/
def State.landFill (s : State) (f : Fill) : State :=
  let ready := s.dcc + s.beyondSlice (f.line * 128)
  (((s.touchBank (f.line * 128)).l2Use (f.line * 128) f.cp ready).fillSectors f.core f.line f.sectors ready)

/-- The fills that reach their slices as a cycle begins. -/
def State.landFills (s : State) : State :=
  (s.fills.filter (fun f => decide (f.arrival ≤ s.dcc))).foldl State.landFill
    { s with fills := s.fills.filter (fun f => !decide (f.arrival ≤ s.dcc)) }

/-- A store kept in L1: its bytes are written and their sectors dirty; sectors that are not valid are asked for. The first dirty
sector of a C line registers the line's pin at its home (R196, R220). -/
def State.l1Store (s : State) (core slot admission pa : Nat) (bytes : List Byte) (kind : Nat) (asid : BitVec 16)
    (cp : Nat) : State :=
  let line := pa / 128
  let s := s.l1Install core line kind asid (cp == 1)
  match s.l1Line? core line with
  | none => s
  | some l =>
    let pin : Pin := { line := line, core := core, slot := slot, admission := admission, refused := none, demanded := false }
    let s := if kind = 0 ∧ l.dirty = 0 ∧ (s.pin? line).isNone then { s with pins := s.pins ++ [pin] } else s
    let s := s.askFill core line (sectorsOf pa bytes.length &&& ~~~l.valid) cp
    let l := if l.dirty = 0 then { l with slot := slot, admission := admission } else l
    s.setL1 core (fun t => t.map (fun o =>
      if o.line = line then
        { l with data := writeBytes l.data (pa % 128) bytes, dirty := l.dirty ||| sectorsOf pa bytes.length
                 written := l.written ||| byteMask (pa % 128) bytes.length }
      else o))

/-! ### Acquire and release actions (09 R216, R217) -/

/-- Invalidates clean C-page sectors: of HBM and CXL lines from rect to dev, of every line at sys. Of a dirty sector only the bytes
that the core wrote are left: the others may be as old as those of a clean one (R212; DEDUCED, notes/assumptions/51.md). -/
def State.acquireL1 (s : State) (core scope : Nat) : State :=
  if scope < 3 then s
  else s.setL1 core (fun t => (t.map (fun l =>
    if l.kind = 0 ∧ (scope = 6 ∨ l2Cached (l.line * 128)) then { l with valid := 0 } else l)).filter (fun l => !l.empty))

/-- Invalidates every clean sector of a core, of U pages too: a part that comes to the core has read elsewhere before (R212, R213). -/
def State.invalidateClean (s : State) (core : Nat) : State :=
  s.setL1 core (fun t => (t.map (fun l => { l with valid := 0 })).filter (fun l => !l.empty))

/-- Sends back every dirty C-page sector of the core, for rect and wider. -/
def State.releaseL1 (s : State) (core scope : Nat) : State :=
  if scope < 3 then s
  else
    let lines := ((s.core core).l1.filter (fun l => l.kind == 0 && l.dirty != 0)).map (fun l => l.line)
    lines.foldl (fun s l => s.sendBack core l) s

/-- The write-backs of a release by an issuing part (R217): at rect scope or wider the core's dirty C-page sectors are sent back,
and at any scope the part waits before its instruction until every write-back of the core that is under way has performed, those of
an earlier `cctl` among them (19 R415); none when there is nothing to wait for. -/
def State.releaseAt (s : State) (c : Ctx) (scope : Nat) (barrier : Bool) : Option State :=
  match c.part.relAt with
  | some n => if s.backsDone c.ref.core n then none else some (s.parkPart c.ref (.on (.backs barrier)))
  | none =>
    let t := s.releaseL1 c.ref.core scope
    if t.backsDone c.ref.core t.nextId then none
    else some ((t.updPart c.ref (fun p => { p with relAt := some t.nextId })).parkPart c.ref (.on (.backs barrier)))

/-! ### Prefetches (21 R457, R458) -/

/-- A prefetched line reaches its slice: it is dropped on any failure, for peer and host pages, and for a pinned line; else it
enters the L2 and, unless the policy or the page keeps it out, the L1. -/
def State.landPrefetch (s : State) (f : Prefetch) : State :=
  match s.translate f.core false f.asid f.va with
  | (s, .leaf pte p) =>
    let pa := paOf pte p f.va
    if (s.leafFault .read pte pa).isSome || !l2Cached pa || (s.pin? (pa / 128)).isSome then s
    else
      let cp := effCp f.cp pte
      let ready := s.dcc + s.beyondSlice pa
      let s := (s.touchBank pa).l2Use pa cp ready
      if cp = 2 ∨ leafKind pte = 1 then s
      else s.l1Fill f.core (pa / 128 * 128) 128 (leafKind pte) f.asid (cp == 1) ready
  | (s, _) => s

/-- The prefetches that reach their slices as a cycle begins. -/
def State.landPrefetches (s : State) : State :=
  let due := s.prefetches.filter (fun f => decide (f.arrival ≤ s.dcc))
  due.foldl State.landPrefetch { s with prefetches := s.prefetches.filter (fun f => !decide (f.arrival ≤ s.dcc)) }

/-! ### Writes on their way (01 R19, R27)

The writes of a core's graphics and ray units, and the store of an `hsig`, reach their slices after their path and perform there. -/

/-- Sends a write. -/
def State.post (s : State) (p : Posted) : State := { s with posted := s.posted ++ [{ p with id := s.nextId }], nextId := s.nextId + 1 }
/-- A write by a unit of a core for an operation or a launch, sent now. -/
def State.unitPost (s : State) (core launch : Nat) (op : Option Nat) (src pa : Nat) (what : PostedKind) : State :=
  s.post { id := 0, core := core, launch := launch, op := op, part := none, src := src, pa := pa, what := what
           arrival := s.dcc + slicePath core pa }

/-- Addresses of the lines that a write touches at its slice. -/
def State.postedLines (s : State) (p : Posted) : List Nat :=
  match p.what with
  | .entry _ logPage _ =>
    match queueBlock s.mem p.pa logPage with
    | some (_, tail, cap) => [p.pa, p.pa + 64 + 8 * (tail % cap)]
    | none => [p.pa]
  | _ => [p.pa]

/-- A posted write's bytes at the slice: the core's clean copy goes (R196). -/
def State.postedPut (s : State) (p : Posted) (pa : Nat) (b : List Byte) : State :=
  ((s.dropClean p.core (pa / 128) (sectorsOf pa b.length)).slicePut p.src p.core pa b).useLine pa 0

/-- A missing page is entered on its residency queue, unless the die holds the entry; a full queue drops it and adds 1 to RESDROP
(14 R335), which lies at `drops`. A malformed block takes nothing: the spec names no trap for a unit (DESIGN CHOICE,
notes/assumptions/52.md). -/
def State.enterMissing (s : State) (p : Posted) (v : W64) (logPage : Nat) (drops : Option Nat) : State :=
  match queueBlock s.mem p.pa logPage with
  | none => s
  | some (head, tail, cap) =>
    if (s.die (dieOf p.core)).recent.contains v then s
    else if queueLength head tail = cap then
      match drops with
      | some pa => s.unitPost p.core p.launch p.op p.src pa (.add 1)
      | none => s
    else
      ((s.postedPut p (p.pa + 64 + 8 * (tail % cap)) (bytesOfNat 8 v.toNat)).postedPut p (p.pa + 8) (bytesOfNat 8 (tail + 1))).updDie
        (dieOf p.core) (fun d => { d with recent := (v :: d.recent).take 64 })

/-- The part of an `hsig` goes on behind it in a new region, its message sent (12 R281, 20 R438). -/
def State.endSignal (s : State) (p : Posted) (next : W64) : State :=
  match p.part with
  | none => s
  | some (r, admission) =>
    match s.wave? r.key with
    | none => s
    | some w =>
      if w.admission ≠ admission then s
      else
        (s.beginRegion r next true).updPart r (fun q =>
          if q.park = .on (.posted p.id) then { (q.moveTo next).issued s.dcc 0 with lastIssue := q.lastIssue } else q)

/-- A write performs at its slice. -/
def State.performPosted (s : State) (p : Posted) : State :=
  let s := { s with posted := s.posted.filter (fun q => q.id != p.id) }
  match p.what with
  | .bytes b => s.postedPut p p.pa b
  | .add n => s.postedPut p p.pa (bytesOfNat 4 (natOfBytes (readBytes s.mem p.pa 4) + n))
  | .orByte m => s.postedPut p p.pa [readByte s.mem p.pa ||| m]
  | .entry v logPage drops => s.enterMissing p v logPage drops
  | .signal v fn vec next => ((s.postedPut p p.pa (bytesOfNat 8 v.toNat)).sendMsix fn vec).endSignal p next

/-- A write arrives at its slice: a pinned line refuses it (09 R221), the core's own dirty sectors of its lines go back first, a drowsy
bank wakes (R200); else it performs. -/
def State.landPosted (s : State) (p : Posted) : State :=
  let lines := s.postedLines p
  let pins := s.pinnedIn (some p.core) lines
  let delay := (lines.map s.bankDelay).foldl max 0
  if pins ≠ [] then s.refuseAll pins
  else if lines.any (fun pa => s.lineBusy p.core (pa / 128)) then lines.foldl (fun s pa => s.sendBack p.core (pa / 128)) s
  else if delay ≠ 0 then
    { lines.foldl State.touchBank s with
      posted := s.posted.map (fun q => if q.id = p.id then { q with arrival := s.dcc + delay } else q) }
  else s.performPosted p

/-- The writes that are at their slices as a cycle begins. -/
def State.landPosts (s : State) : State := (s.posted.filter (fun p => decide (p.arrival ≤ s.dcc))).foldl State.landPosted s

end Sys2Proof.Machine
end

