-- ==== Sys2Proof/Machine/Operands.lean ====
section
/-! DEFINITION. Operand forms: vector registers through the window with indirection and blocks, their checks
(04 R77-R82), uniform and immediate sources (04 R85, 05 R99, R103) and addresses (05 R101). -/

namespace Sys2Proof.Machine

/-- A vector operand: field, index added, block extent, registers per element, and the alignment its first register
needs (R77, R79, R80). A block of registers named from one field is an operand of one row. -/
structure Vop where
  f : Nat
  x : Nat := 0
  rows : Nat := 1
  cols : Nat := 1
  unit : Nat := 1
  al : Nat := 1
  deriving DecidableEq, Repr

/-- Effective field of element (i, j) (R80). -/
def Vop.field (o : Vop) (i j : Nat) : Nat := o.f + o.x + 16 * i + (if o.unit = 2 then 2 else 1) * j

/-- The register R79 names for an effective field. -/
def regNumber (wb e : Nat) : Nat := if e < 16 then e else wb + e

/-- First register of element (i, j). -/
def Vop.reg (o : Vop) (wb i j : Nat) : Nat := regNumber wb (o.field i j)

/-- Element positions, in increasing i and then j. -/
def Vop.elems (o : Vop) : List (Nat × Nat) :=
  (List.range o.rows).flatMap (fun i => (List.range o.cols).map (fun j => (i, j)))

/-- Effective fields of every register the operand names, in the order of R81. -/
def Vop.fields (o : Vop) : List Nat :=
  o.elems.flatMap (fun p => (List.range o.unit).map (fun k => o.field p.1 p.2 + k))

/-- A field is outside its operand's region, or its register is at or above ALLOT (R79, R80, R81). -/
def badField (e0 wb allot e : Nat) : Bool :=
  if e0 < 16 then decide (16 ≤ e) || decide (allot ≤ e) else decide (127 < e) || decide (allot ≤ wb + e)

/-- The first register check an operand fails: trap code and TADDR (R77, R81). -/
def Vop.check (o : Vop) (wb allot : Nat) : Option (Nat × Nat) :=
  let e0 := o.field 0 0
  if regNumber wb e0 % o.al ≠ 0 then some (tcIllegal, regNumber wb e0)
  else (o.fields.find? (badField e0 wb allot)).map (fun e => (tcRegbound, regNumber wb e))

/-- The first failing check of an instruction's operands, in order (R81). -/
def checkVops (ops : List Vop) (wb allot : Nat) : Option (Nat × Nat) := ops.findSome? (fun o => o.check wb allot)

/-- Registers of a lane from `n` up, as one number. -/
def laneRegs (w : Wave) (depth lane n : Nat) : Nat → Nat
  | 0 => 0
  | k + 1 => (w.v depth lane n).toNat + 2 ^ 32 * laneRegs w depth lane (n + 1) k

def Ctx.wb (c : Ctx) : Nat := c.part.regs.wb.toNat

/-- The value of element (i, j) in a lane. -/
def Ctx.vec (c : Ctx) (lane : Nat) (o : Vop) (i j : Nat) : Nat :=
  laneRegs c.wave c.part.depth lane (o.reg c.wb i j) o.unit

/-- The registers of a value, least significant first. -/
def regWrites (lane n v : Nat) : Nat → List (Nat × Nat × W32)
  | 0 => []
  | k + 1 => (lane, n, BitVec.ofNat 32 v) :: regWrites lane (n + 1) (v / 2 ^ 32) k

/-- Writes of a value to element (i, j) in a lane. -/
def Ctx.wr (c : Ctx) (lane : Nat) (o : Vop) (i j v : Nat) : List (Nat × Nat × W32) :=
  regWrites lane (o.reg c.wb i j) v o.unit

/-- A source operand: vector, uniform register or immediate (already in the element's width). -/
inductive Src where
  | vec (o : Vop)
  | uni (n : Nat)
  | imm (v : Nat)
  deriving DecidableEq, Repr

/-- The vector operands among sources. -/
def Src.vops : Src → List Vop
  | .vec o => [o]
  | _ => []

/-- The value a source gives to element (i, j) of a lane, in `width` bits. -/
def Ctx.src (c : Ctx) (width lane : Nat) (o : Src) (i j : Nat) : Nat :=
  match o with
  | .vec v => c.vec lane v i j % 2 ^ width
  | .uni n => (c.sreg n).toNat % 2 ^ width
  | .imm v => v

/-- An immediate B in an element type (05 R99, R103). -/
def immOf (ty : Nat) (b : BitVec 7) : Nat :=
  match fmtOf ty with
  | some f => (f.ofInt rmRne false b.toInt).bits
  | none => wrapInt (tyWidth ty) b.toInt

/-- Registers per element of a type. -/
def unitOf (ty : Nat) : Nat := if tyWidth ty = 64 then 2 else 1

/-- Operand builder for an XA instruction: its words, the element types of D and of the sources. -/
structure XaForm where
  r : RWord
  x : XaWord
  dty : Nat
  sty : Nat
  block : Bool := true

def blockRows (o : XaForm) : Nat := if o.block then 2 ^ o.x.bh.toNat else 1
def blockCols (o : XaForm) : Nat := if o.block then 2 ^ o.x.bw.toNat else 1
/-- A vector operand of an XA instruction: field, indirect mark and index. -/
def XaForm.vop (o : XaForm) (f : BitVec 7) (ind : Bool) (ix : BitVec 16) (ty : Nat) : Vop :=
  { f := f.toNat, x := if ind then ix.toNat else 0, rows := blockRows o, cols := blockCols o, unit := unitOf ty
    al := unitOf ty }
def XaForm.d (o : XaForm) (c : Ctx) : Vop := o.vop o.r.d o.x.xd c.part.regs.ix0 o.dty
def XaForm.a (o : XaForm) (c : Ctx) : Src :=
  if o.x.au then .uni o.r.a.toNat else .vec (o.vop o.r.a o.x.xa c.part.regs.ix1 o.sty)
/-- B of a type of its own (`bty`). -/
def XaForm.bAs (o : XaForm) (c : Ctx) (bty : Nat) : Src :=
  if o.r.k then .imm (immOf bty o.r.b) else .vec (o.vop o.r.b o.x.xb c.part.regs.ix1 bty)
def XaForm.b (o : XaForm) (c : Ctx) : Src := o.bAs c o.sty
def XaForm.c (o : XaForm) (c : Ctx) : Src :=
  if o.x.cu then .uni o.x.c.toNat else .vec (o.vop o.x.c o.x.xb c.part.regs.ix1 o.sty)

/-- The XA word an absent extension stands for, with the default type (05 R112). -/
def xaDefault (ty : Nat) : XaWord :=
  { c := 0, ty := BitVec.ofNat 4 ty, pr := 0, pn := false, bh := 0, bw := 0, xd := false, xa := false, xb := false
    rm := 0, sat := false, cu := false, au := false, sub := 0 }

/-- The XM word an absent extension stands for (05 R112). -/
def xmDefault : XmWord :=
  { off := 0, sz := 2, ord := 0, scope := 0, cp := 0, pr := 0, pn := false, sub := 0 }

/-- Lanes an XA instruction acts on. -/
def Ctx.xaActive (c : Ctx) (x : XaWord) : Lanes := c.active x.pr.toNat x.pn
/-- Lanes an XM instruction acts on. -/
def Ctx.xmActive (c : Ctx) (x : XmWord) : Lanes := c.active x.pr.toNat x.pn

/-! ### Addresses (05 R101) -/

/-- The class-M vector offset operand, if any. -/
def mOffset (m : MWord) : Option Vop :=
  if m.a = 0x7F ∧ !m.w then none
  else some { f := m.a.toNat, unit := if m.w then 2 else 1, al := if m.w then 2 else 1 }

/-- The address sum of a lane, before it is cut to the space's width. -/
def Ctx.addrSum (c : Ctx) (m : MWord) (off : BitVec 14) (lane : Nat) : Int :=
  let v : Int := match mOffset m with
    | none => 0
    | some o => if m.w then (c.vec lane o 0 0 : Nat) else (BitVec.ofNat 32 (c.vec lane o 0 0)).toInt
  (c.sreg m.bu.toNat).toNat + v + off.toInt

/-- Global address of a lane: the sum modulo 2^64. -/
def Ctx.globalAddr (c : Ctx) (m : MWord) (off : BitVec 14) (lane : Nat) : Nat :=
  ((c.addrSum m off lane) % 2 ^ 64).toNat

/-- Scratch offset of a lane: the sum modulo 2^32. -/
def Ctx.scratchOff (c : Ctx) (m : MWord) (off : BitVec 14) (lane : Nat) : Nat :=
  ((c.addrSum m off lane) % 2 ^ 32).toNat

/-- Bytes per lane of an SZ code (05 R105). -/
def szBytes (sz : BitVec 3) : Nat := 2 ^ sz.toNat

/-- The data operand of a memory access of an SZ code (05 R106). -/
def mData (d : BitVec 7) (sz : BitVec 3) : Vop :=
  let u := if sz.toNat = 4 then 4 else if sz.toNat = 3 then 2 else 1
  { f := d.toNat, unit := u, al := u }

/-- Target of a class J or P branch (05 R100). -/
def jTarget (pc : W64) (off : BitVec 22) : W64 := pc + 4 * off.signExtend 64
def pTarget (pc : W64) (off : BitVec 18) : W64 := pc + 4 * off.signExtend 64

end Sys2Proof.Machine
end

