-- ==== Sys2Proof/Machine/Flags.lean ====
section
/-! DEFINITION. Flag computations: the sticky FPSTAT of an instruction (07 R159, R160), the rounding mode (05 R110), and
AMAX (07 R174, R175). -/

namespace Sys2Proof.Machine

/-- The rounding mode an RM code names (R110). -/
def Ctx.rm (c : Ctx) (code : Nat) : Nat := if code = 5 then (c.part.regs.fpmode &&& 7).toNat else code
/-- FPMODE.FTZ (R158). -/
def Ctx.ftz (c : Ctx) : Bool := c.part.regs.fpmode.getLsbD 3

/-- Folds magnitudes into AMAX: an unsigned maximum, NaNs counted apart (R174). -/
def foldAmax (r : PartRegs) : List (Option Nat) → PartRegs
  | [] => r
  | none :: xs => foldAmax { r with amaxnan := true } xs
  | some v :: xs =>
    foldAmax { r with amaxv := if r.amaxv.toNat < v then BitVec.ofNat 32 v else r.amaxv } xs

/-- Folds magnitudes into the part's AMAX. -/
def Part.amaxIn (p : Part) (xs : List (Option Nat)) : Part := { p with regs := foldAmax p.regs xs }

end Sys2Proof.Machine
end

