-- ==== Sys2Proof/WellFormed.lean ====
section
/-! DEFINITION. Which encodings are defined: the zero fields, field codes and static operand limits of every
instruction (05 R96-R133 and the reference entries). `badWord i` is the index, 0 or 1, of the first word of `i`
that breaks a rule of R113, word 0 before its extension word; an instruction is well formed when there is none. -/

namespace Sys2Proof

/-- The first offending word, from the verdicts on word 0 and on the extension word. -/
def firstBad (ok0 ok1 : Bool) : Option Nat :=
  if ok0 then (if ok1 then none else some 1) else some 0

/-- A 7-bit field that names a uniform register (R99). -/
def isUniform (f : BitVec 7) : Bool := f.toNat < 64

/-- A 7-bit field that names a predicate (R99). -/
def isPredicate (f : BitVec 7) : Bool := f.toNat < 8

/-- The MW code an XA word holds at bits 16:13 in the instructions of R103. -/
def XaWord.mw (x : XaWord) : Nat := x.bh.toNat * 4 + x.bw.toNat

/-- A minimum-width code of R62 that is defined. -/
def isWidthCode (c : Nat) : Bool := c ≤ 5

/-- Which fields of an XA word an instruction uses, and which codes it accepts in them; every other field is
zero (R113). The C and AU fields have rules of their own beside these. -/
structure XaUse where
  tys : List Nat := [0]
  subs : List Nat := [0]
  rms : List Nat := [0]
  sat : Bool := false
  block : Bool := false
  mw : Bool := false
  pred : Bool := false
  xd : Bool := false
  xa : Bool := false
  xb : Bool := false
  c : Bool := false
  cu : Bool := false
  au : Bool := false
  deriving Repr

/-- The XA word keeps to the use (R102, R103, R113). -/
def XaUse.ok (u : XaUse) (x : XaWord) : Bool :=
  u.tys.contains x.ty.toNat && u.subs.contains x.sub.toNat && u.rms.contains x.rm.toNat
  && (u.sat || !x.sat)
  && (u.block || (if u.mw then isWidthCode x.mw else x.mw == 0))
  && (u.pred || (x.pr == 0 && !x.pn))
  && (u.xd || !x.xd) && (u.xa || !x.xa) && (u.xb || !x.xb)
  && (u.c || x.c == 0) && (u.cu || !x.cu) && (u.au || !x.au)

/-- Element type codes by use (R109, R123-R126). -/
def intTypes : List Nat := [1, 2, 7, 8]
def bitTypes : List Nat := [0, 15]
def floatTypes : List Nat := [3, 4, 5, 6]
/-- Rounding codes of an opcode with an RM field other than `cvt` (R110). -/
def rmCodes : List Nat := [0, 1, 2, 3, 5]

/-- AU and XA agree: a uniform A is not indirect and its number is below 64 (R85, R103). The verdict on word 0
and the verdict on the extension word. -/
def auOk (r : RWord) (x : XaWord) : Bool × Bool :=
  (!x.au || isUniform r.a, !(x.au && x.xa))

/-- CU names a uniform register below 64 (R85). -/
def cuOk (x : XaWord) : Bool := !x.cu || isUniform x.c

/-- Two-source form of class R with XA: D, A, B vector fields, B immediate when K = 1 (R103, R432). -/
def twoSource (u : XaUse) (r : RWord) (x : XaWord) : Option Nat :=
  firstBad (auOk r x).1 ((auOk r x).2 && { u with pred := true, xa := true, xb := !r.k }.ok x)

/-- One-source form: B and K zero. -/
def oneSource (u : XaUse) (r : RWord) (x : XaWord) : Option Nat :=
  firstBad (r.b == 0 && !r.k && (auOk r x).1)
    ((auOk r x).2 && { u with pred := true, xa := true }.ok x)

/-- Three-source form: C a vector field, or a uniform register with CU = 1 (R103, R432). -/
def threeSource (u : XaUse) (r : RWord) (x : XaWord) : Option Nat :=
  firstBad (auOk r x).1
    ((auOk r x).2 && cuOk x && { u with pred := true, xa := true, xb := !(r.k && x.cu), c := true }.ok x)

/-- One-source form without an extension word. -/
def oneSourceShort (r : RWord) : Option Nat := firstBad (r.b == 0 && !r.k) true

/-- A compare: D names a predicate (R434). -/
def compare (u : XaUse) (r : RWord) (x : XaWord) : Option Nat :=
  firstBad (isPredicate r.d && (auOk r x).1)
    ((auOk r x).2 && { u with pred := true, xa := true, xb := !r.k, au := true }.ok x)

/-- Field use of an XM word: codes accepted in SZ, ORD, SCOPE and SUB, and whether CP, the predicate and OFF are
used (R105, R106, R111). -/
structure XmUse where
  off : Bool := true
  szs : List Nat := [0, 1, 2, 3, 4]
  ords : List Nat := [0]
  maxScope : Nat := 6
  cp : Bool := true
  pred : Bool := true
  subs : List Nat := [0]
  deriving Repr

def XmUse.ok (u : XmUse) (x : XmWord) : Bool :=
  (u.off || x.off == 0) && u.szs.contains x.sz.toNat && u.ords.contains x.ord.toNat
  && x.scope.toNat ≤ u.maxScope && (u.cp || x.cp == 0) && (u.pred || (x.pr == 0 && !x.pn))
  && u.subs.contains x.sub.toNat

/-- A class-M address whose A = 0x7F has W = 0 (R101). -/
def addrOk (m : MWord) : Bool := !(m.w && m.a == 0x7F)

/-- The XT fields other than TILE, MW, SUB and the types are zero (R107, R108). -/
def xtPlain (x : XtWord) : Bool :=
  x.pm1 == 0 && x.bty == 0 && !x.z && !x.co && !x.ak && !x.bk && x.z6 == 0

/-- Only TILE is set (R251). -/
def xtTileOnly (x : XtWord) : Bool := xtPlain x && x.aty == 0 && x.mw == 0 && x.sub == 0

/-- The whole operand area of class R is zero. -/
def rZero (r : RWord) : Bool := r.d == 0 && r.a == 0 && r.b == 0 && !r.k

/-- The whole operand area of class U is zero. -/
def uZero (u : UWord) : Bool := u.d == 0 && u.a == 0 && u.b == 0 && !u.k && u.z == 0

/-- D and A zero and K = 1: an unsigned B alone. -/
def bOnly (r : RWord) : Bool := r.d == 0 && r.a == 0 && r.k

/-- Class-U arithmetic: bits 2:0 zero (R478). -/
def uArith (u : UWord) : Option Nat := firstBad (u.z == 0) true

/-- Class U with A alone. -/
def uA (u : UWord) : Option Nat := firstBad (u.d == 0 && u.b == 0 && !u.k && u.z == 0) true

/-- System-register numbers that name a register (R90, R91). -/
def isSysReg (n : Nat) : Bool :=
  n ≤ 0x14 || (0x20 ≤ n && n ≤ 0x22) || (0x24 ≤ n && n ≤ 0x28) || (0x30 ≤ n && n ≤ 0x3F)

/-- Registers all of whose fields are RO (R90, R492). -/
def isReadOnlyReg (n : Nat) : Bool :=
  [0x00, 0x02, 0x03, 0x04, 0x06, 0x0B, 0x0C, 0x11, 0x12, 0x28].contains n || 0x30 ≤ n

/-- The system-register number of `srget` and `srset`: operand bits 11:4 (R131). -/
def UWord.index (u : UWord) : Nat := (u.a.toNat % 4) * 64 + u.b.toNat

/-- The zero fields of `srget` and `srset` (R491). -/
def sysFields (u : UWord) : Bool := u.a.toNat < 4 && !u.k && u.z == 0

/-- SUB codes 0 to n. -/
def codes (n : Nat) : List Nat := List.range (n + 1)

/-- Reductions: and, or and xor take no float type (R132, R471). -/
def reduOk (x : XaWord) : Bool := !(3 ≤ x.sub.toNat % 8 && (x.ty == 3 || x.ty == 6))

/-- The type pairs and promotion periods an `mma` accepts (R108). -/
def mmaTypes (x : XtWord) : Bool :=
  ((x.aty.toNat ≤ 1 && x.bty.toNat ≤ 1) || (x.aty == x.bty && 2 ≤ x.aty.toNat))
  && ((x.aty != 4 && x.aty != 5) || x.pm1 == 0)

/-- Types of `redu` and `scan` (R126). -/
def reduTypes : List Nat := [1, 2, 3, 7, 8, 6]

/-- Operand fields of `vote` (R507): `sub` 2 writes a uniform register. -/
def voteFields (sub : Nat) (r : RWord) : Bool :=
  r.a.toNat < 16 && r.b == 0 && !r.k && (if sub = 2 then isUniform r.d else isPredicate r.d)

/-- An atomic: SZ 2 or 3, ORD by NR, SUB 0-13 (R398). -/
def atomUse (m : MWord) (maxScope : Nat) (cp : Bool) : XmUse :=
  { szs := [2, 3], ords := if m.nr then [0, 2] else [0, 1, 2, 3], maxScope := maxScope, cp := cp, subs := codes 13 }

/-- The first word that breaks a rule, by instruction. Events have no words. 19 R407, R412 and 21 R460 list no XA fields for `bfe`,
`bfi`, `brev`, `clz` and `popc` beside TY: the model lets them use the block, PR, PN, XD, XA and, with a vector B or C, XB, and
refuses AU for all five and CU for `bfi` (DESIGN CHOICE, notes/assumptions/8.md). -/
def badWord : Instr → Option Nat
  | .nop r => firstBad (rZero r) true
  | .nopXi r _ => firstBad (rZero r) true
  | .bra _ => none
  | .brp _ => none
  | .bru _ => none
  | .jmp u => uA u
  | .call _ => none
  | .ret u => uA u
  | .conf r => firstBad (bOnly r && r.b.toNat < 64) true
  | .fuse r => firstBad (bOnly r && r.b.toNat < 16 && isWidthCode r.b.toNat) true
  | .exit r => firstBad (rZero r) true
  | .entry r => firstBad (rZero r) true
  | .gcall r x => firstBad (r.b == 0 && !r.k) (x.toNat < 65536)
  | .gret r => firstBad (r.d == 0 && r.b == 0 && !r.k) true
  | .gentry r => firstBad (rZero r) true
  | .trap r => firstBad (bOnly r) true
  | .brk r => firstBad (rZero r) true
  | .sleep u => firstBad (u.d == 0 && u.z == 0 && (if u.k then u.a == 0 else u.b == 0)) true
  | .sleepat u => uA u
  | .pwait u => uA u
  | .winb r => firstBad (bOnly r && r.b.toNat ≤ 8) true
  | .phint u _ => uA u
  | .region r => firstBad (rZero r) true
  | .tret r => firstBad (rZero r) true
  | .sadd u => uArith u
  | .ssub u => uArith u
  | .smul u => uArith u
  | .smulh u => uArith u
  | .sand u => uArith u
  | .sor u => uArith u
  | .sxor u => uArith u
  | .sshl u => uArith u
  | .sshr u => uArith u
  | .ssar u => uArith u
  | .smin u => uArith u
  | .smax u => uArith u
  | .smov u => firstBad (u.b == 0 && !u.k && u.z == 0) true
  | .smovi u _ => firstBad (u.a == 0 && u.b == 0 && !u.k && u.z == 0) true
  | .smovh u _ => firstBad (u.a == 0 && u.b == 0 && !u.k && u.z == 0) true
  | .scmp u x => firstBad (u.z == 0) ({ tys := [7, 8], subs := codes 5 : XaUse }.ok x)
  | .ssel u x => firstBad (u.z == 0) (x.cu && cuOk x && { c := true, cu := true : XaUse }.ok x)
  | .sld u => firstBad (u.b == 0 && !u.k && u.z == 0) true
  | .sldExt u x => firstBad (u.b == 0 && !u.k && u.z == 0)
      ({ szs := codes 3, ords := [0, 1], pred := false : XmUse }.ok x)
  | .sst u => firstBad (u.b == 0 && !u.k && u.z == 0) true
  | .sstExt u x => firstBad (u.b == 0 && !u.k && u.z == 0)
      ({ szs := codes 3, ords := [0, 2], pred := false : XmUse }.ok x)
  | .iadd _ => none
  | .iaddExt r x => twoSource { tys := intTypes, sat := true, block := true, xd := true, au := true } r x
  | .isub _ => none
  | .isubExt r x => twoSource { tys := intTypes, sat := true, block := true, xd := true, au := true } r x
  | .imul _ => none
  | .imulExt r x => twoSource { tys := intTypes, sat := true, block := true, xd := true, au := true } r x
  | .imulh _ => none
  | .imulhExt r x => twoSource { tys := intTypes, block := true, xd := true, au := true } r x
  | .imad r x => threeSource { tys := intTypes, sat := true, block := true, xd := true, cu := true, au := true } r x
  | .imin _ => none
  | .iminExt r x => twoSource { tys := intTypes, block := true, xd := true, au := true } r x
  | .imax _ => none
  | .imaxExt r x => twoSource { tys := intTypes, block := true, xd := true, au := true } r x
  | .iabs r => oneSourceShort r
  | .iabsExt r x => oneSource { tys := [1, 7], sat := true, block := true, xd := true, au := true } r x
  | .and _ => none
  | .andExt r x => twoSource { tys := bitTypes, block := true, xd := true } r x
  | .or _ => none
  | .orExt r x => twoSource { tys := bitTypes, block := true, xd := true } r x
  | .xor _ => none
  | .xorExt r x => twoSource { tys := bitTypes, block := true, xd := true } r x
  | .andn _ => none
  | .andnExt r x => twoSource { tys := bitTypes, block := true, xd := true } r x
  | .shl _ => none
  | .shlExt r x => twoSource { tys := bitTypes, block := true, xd := true } r x
  | .shr _ => none
  | .shrExt r x => twoSource { tys := bitTypes, block := true, xd := true } r x
  | .sar _ => none
  | .sarExt r x => twoSource { tys := bitTypes, block := true, xd := true } r x
  | .popc r => oneSourceShort r
  | .popcExt r x => oneSource { tys := bitTypes, block := true, xd := true } r x
  | .clz r => oneSourceShort r
  | .clzExt r x => oneSource { tys := bitTypes, block := true, xd := true } r x
  | .brev r => oneSourceShort r
  | .brevExt r x => oneSource { tys := bitTypes, block := true, xd := true } r x
  | .bfe _ => none
  | .bfeExt r x => twoSource { tys := intTypes, block := true, xd := true } r x
  | .bfi r x => threeSource { tys := bitTypes, block := true, xd := true } r x
  | .sel r x => firstBad true
      (x.c.toNat < 16 && { tys := bitTypes, block := true, pred := true, xd := true, xa := true, xb := !r.k, c := true : XaUse }.ok x)
  | .mov r => oneSourceShort r
  | .movExt r x => oneSource { tys := bitTypes, block := true, xd := true, au := true } r x
  | .movi r => firstBad (r.a == 0 && r.k) true
  | .moviXi r _ => firstBad (r.a == 0 && r.b == 0 && !r.k) true
  | .icmp r => firstBad (isPredicate r.d) true
  | .icmpExt r x => compare { tys := intTypes, subs := codes 5 } r x
  | .iscadd _ => none
  | .iscaddExt r x => twoSource { tys := intTypes, subs := codes 15, block := true, xd := true, au := true } r x
  | .fadd _ => none
  | .faddExt r x => twoSource { tys := floatTypes, rms := rmCodes, block := true, xd := true, au := true } r x
  | .fsub _ => none
  | .fsubExt r x => twoSource { tys := floatTypes, rms := rmCodes, block := true, xd := true, au := true } r x
  | .fmul _ => none
  | .fmulExt r x => twoSource { tys := floatTypes, rms := rmCodes, block := true, xd := true, au := true } r x
  | .ffma r x => threeSource { tys := floatTypes, rms := rmCodes, block := true, xd := true, cu := true, au := true } r x
  | .fmin _ => none
  | .fminExt r x => twoSource { tys := floatTypes, block := true, xd := true, au := true } r x
  | .fmax _ => none
  | .fmaxExt r x => twoSource { tys := floatTypes, block := true, xd := true, au := true } r x
  | .fcmp r => firstBad (isPredicate r.d) true
  | .fcmpExt r x => compare { tys := floatTypes, subs := codes 7 } r x
  | .frcp r => oneSourceShort r
  | .frcpExt r x => oneSource { tys := [3, 4], block := true, xd := true, au := true } r x
  | .frsq r => oneSourceShort r
  | .frsqExt r x => oneSource { tys := [3, 4], block := true, xd := true, au := true } r x
  | .fsqrt r => oneSourceShort r
  | .fsqrtExt r x => oneSource { tys := [3, 4, 6], rms := rmCodes, block := true, xd := true, au := true } r x
  | .fdiv _ => none
  | .fdivExt r x => twoSource { tys := [3, 4, 6], rms := rmCodes, block := true, xd := true, au := true } r x
  | .fexp2 r => oneSourceShort r
  | .fexp2Ext r x => oneSource { tys := [3, 4], block := true, xd := true, au := true } r x
  | .flog2 r => oneSourceShort r
  | .flog2Ext r x => oneSource { tys := [3, 4], block := true, xd := true, au := true } r x
  | .fsin r => oneSourceShort r
  | .fsinExt r x => oneSource { tys := [3, 4], block := true, xd := true, au := true } r x
  | .fcos r => oneSourceShort r
  | .fcosExt r x => oneSource { tys := [3, 4], block := true, xd := true, au := true } r x
  | .frnd r => oneSourceShort r
  | .frndExt r x => oneSource { tys := floatTypes, rms := rmCodes, block := true, xd := true, au := true } r x
  | .fclass r => oneSourceShort r
  | .fclassExt r x => oneSource { tys := floatTypes, block := true, xd := true, au := true } r x
  | .fscale _ => none
  | .fscaleExt r x => twoSource { tys := floatTypes, rms := rmCodes, block := true, xd := true, au := true } r x
  | .cvt r x => firstBad (r.b == 0 && !r.k)
      ({ tys := codes 15, subs := codes 15, rms := codes 5, sat := !(bitTypes.contains x.ty.toNat || bitTypes.contains x.sub.toNat)
         block := true, pred := true, xd := true, xa := true : XaUse }.ok x)
  | .cvtq r x => firstBad (r.b == 0 && !r.k)
      (x.cu && cuOk x && { tys := [3, 4, 5], subs := [0, 1, 4, 5, 8, 9], rms := rmCodes, block := true, pred := true
                           xd := true, xa := true, c := true, cu := true : XaUse }.ok x)
  | .cvtd r x => firstBad (r.b == 0 && !r.k)
      (x.cu && cuOk x && { tys := [3, 4, 5], subs := [0, 1, 4, 5, 8, 9], rms := rmCodes, block := true, pred := true
                           xd := true, xa := true, c := true, cu := true : XaUse }.ok x)
  | .pack _ => none
  | .packExt r x => twoSource { subs := [0, 1], block := true, xd := true } r x
  | .unpack r => oneSourceShort r
  | .unpackExt r x => oneSource { subs := [0, 1, 4, 5, 6, 7, 8, 9, 12, 13, 14, 15], block := true, xd := true } r x
  | .amax r => firstBad (r.d == 0 && r.b == 0 && !r.k) true
  | .amaxExt r x => firstBad (r.d == 0 && r.b == 0 && !r.k)
      ({ tys := [3, 4, 5], block := true, pred := true, xa := true : XaUse }.ok x)
  | .shfl _ => none
  | .shflExt r x => firstBad true
      ({ tys := bitTypes, subs := codes 3, mw := true, pred := true, xd := true, xa := true, xb := !r.k : XaUse }.ok x)
  | .vote r => firstBad (voteFields 0 r) true
  | .voteExt r x => firstBad (voteFields x.sub.toNat r) ({ subs := codes 3, mw := true, pred := true : XaUse }.ok x)
  | .redu r => oneSourceShort r
  | .reduExt r x => firstBad (r.b == 0 && !r.k)
      (reduOk x && { tys := reduTypes, subs := codes 5, mw := true, pred := true, xd := true, xa := true : XaUse }.ok x)
  | .scan r => oneSourceShort r
  | .scanExt r x => firstBad (r.b == 0 && !r.k)
      (reduOk x && { tys := reduTypes, subs := [0, 1, 2, 3, 4, 5, 8, 9, 10, 11, 12, 13], mw := true, pred := true
                     xd := true, xa := true : XaUse }.ok x)
  | .rdlane r => firstBad (isUniform r.d && r.k) true
  | .rdlaneExt r x => firstBad (isUniform r.d && r.k) ({ tys := bitTypes, mw := true, xa := true : XaUse }.ok x)
  | .wrlane r x => firstBad (isUniform r.a && r.k)
      (x.au && { tys := bitTypes, mw := true, xd := true, au := true : XaUse }.ok x)
  | .ddx r => oneSourceShort r
  | .ddxExt r x => firstBad (r.b == 0 && !r.k)
      ({ tys := [3, 4], subs := [0, 1], pred := true, xd := true, xa := true : XaUse }.ok x)
  | .ddy r => oneSourceShort r
  | .ddyExt r x => firstBad (r.b == 0 && !r.k)
      ({ tys := [3, 4], subs := [0, 1], pred := true, xd := true, xa := true : XaUse }.ok x)
  | .qperm r => oneSourceShort r
  | .qpermExt r x => firstBad (if x.sub == 3 then r.k && r.b.toNat < 4 else r.b == 0 && !r.k)
      ({ tys := bitTypes, subs := codes 3, mw := true, pred := true, xd := true, xa := true : XaUse }.ok x)
  | .ld m => firstBad (addrOk m && !m.nr) true
  | .ldExt m x => firstBad (addrOk m && !m.nr) ({ ords := [0, 1] : XmUse }.ok x)
  | .st m => firstBad (addrOk m && !m.nr) true
  | .stExt m x => firstBad (addrOk m && !m.nr) ({ ords := [0, 2] : XmUse }.ok x)
  | .ldl m => firstBad (!m.w && !m.nr) true
  | .ldlExt m x => firstBad (!m.w && !m.nr) ({ maxScope := 2, cp := false : XmUse }.ok x)
  | .stl m => firstBad (!m.w && !m.nr) true
  | .stlExt m x => firstBad (!m.w && !m.nr) ({ maxScope := 2, cp := false : XmUse }.ok x)
  | .atom m => firstBad (addrOk m) true
  | .atomExt m x => firstBad (addrOk m) ((atomUse m 6 true).ok x)
  | .atoml m => firstBad (!m.w) true
  | .atomlExt m x => firstBad (!m.w) ((atomUse m 2 false).ok x)
  | .fence m x => firstBad (m.d == 0 && m.a == 0 && m.bu == 0 && !m.w && !m.nr)
      ({ off := false, szs := [0], ords := [1, 2, 3], cp := false, pred := false : XmUse }.ok x)
  | .cctl m => firstBad (addrOk m && m.d == 0 && !m.nr) true
  | .cctlExt m x => firstBad (addrOk m && m.d == 0 && !m.nr && (x.sub != 3 || (m.a == 0x7F && m.bu == 0 && !m.w)))
      ({ off := x.sub != 3, szs := [0], cp := false, pred := x.sub != 3, subs := codes 3 : XmUse }.ok x)
  | .pfetch m => firstBad (m.d == 0 && !m.w && !m.nr) true
  | .pfetchExt m x => firstBad (m.d == 0 && !m.w && !m.nr) ({ maxScope := 0 : XmUse }.ok x)
  | .tcopy u x => firstBad (!u.k && u.z == 0 && u.b.toNat ≤ 60)
      (xtPlain x && x.aty == 0 && x.tile == 0 && isWidthCode x.mw.toNat && x.sub.toNat ≤ 3)
  | .mma u x => firstBad (u.d == 0 && !u.k && u.z == 0 && u.b.toNat ≤ 62)
      (mmaTypes x && isWidthCode x.mw.toNat && x.z6 == 0 && x.sub == 0)
  | .mmz u x => firstBad (uZero u) (xtTileOnly x)
  | .tkacq u x => firstBad (uZero u) (xtTileOnly x)
  | .tkrel u x => firstBad (uZero u) (xtTileOnly x)
  | .accrd r x => firstBad (r.a == 0 && r.k) (xtPlain x && x.mw == 0 && x.sub == 0 && (x.aty == 4 || x.aty == 5))
  | .accwr r x => firstBad (r.d == 0 && r.k) (xtPlain x && x.mw == 0 && x.sub == 0 && (x.aty == 4 || x.aty == 5))
  | .waitc r => firstBad (r.d.toNat < 4 && r.a == 0 && r.k) true
  | .bara r => firstBad (bOnly r && r.b.toNat ≤ 15) true
  | .barw r => firstBad (bOnly r && r.b.toNat ≤ 15) true
  | .bar r => firstBad (bOnly r && r.b.toNat ≤ 15) true
  | .barExt r x => firstBad (bOnly r && r.b.toNat ≤ 15) ({ mw := true : XaUse }.ok x)
  | .rbar r => firstBad (bOnly r && r.b.toNat < 32 && r.b.toNat % 8 ≤ 4) true
  | .rbarExt r x => firstBad (bOnly r && r.b.toNat < 32 && r.b.toNat % 8 ≤ 4) ({ mw := true : XaUse }.ok x)
  | .regrel r _ => firstBad (rZero r) true
  | .regclm r _ => firstBad (rZero r) true
  | .chsend r => firstBad (r.d == 0 && r.k && r.b.toNat ≤ 15) true
  | .chrecv r => firstBad (r.a == 0 && r.k && r.b.toNat ≤ 15) true
  | .qenq u => firstBad (u.d == 0 && !u.k && u.z == 0) true
  | .qdeq u => firstBad (u.b == 0 && !u.k && u.z == 0) true
  | .fork u => firstBad (u.d == 0 && u.b == 0 && !u.k && u.z == 0 && u.a.toNat % 8 == 0) true
  | .join u => uA u
  | .tex m => firstBad (!m.w && !m.nr && m.bu.toNat ≤ 62) true
  | .texExt m x => firstBad (!m.w && !m.nr && m.bu.toNat ≤ 62)
      ({ tys := [3, 4], subs := codes 3, pred := true : XaUse }.ok x)
  | .texg m => firstBad (!m.w && !m.nr && m.bu.toNat ≤ 62) true
  | .texgExt m x => firstBad (!m.w && !m.nr && m.bu.toNat ≤ 62)
      ({ tys := [3, 4], subs := codes 3, pred := true : XaUse }.ok x)
  | .texq m => firstBad (!m.w && !m.nr && m.bu.toNat ≤ 62) true
  | .texqExt m x => firstBad (!m.w && !m.nr && m.bu.toNat ≤ 62)
      ({ tys := [3], subs := codes 2, pred := true : XaUse }.ok x)
  | .ipa r => firstBad (r.k && r.b.toNat ≤ 31) true
  | .ipaExt r x => firstBad (r.k && r.b.toNat ≤ 31)
      ({ tys := if x.sub == 2 then [0, 3] else [3], subs := codes 3, pred := true : XaUse }.ok x)
  | .kill r => firstBad (rZero r) true
  | .killExt r x => firstBad (rZero r) ({ pred := true : XaUse }.ok x)
  | .pout r => firstBad (r.d == 0 && r.k && r.b.toNat ≤ 7) true
  | .poutExt r x => firstBad (r.d == 0 && r.k && r.b.toNat ≤ 7) ({ pred := true : XaUse }.ok x)
  | .mvtx r => firstBad (r.d == 0 && !r.k) true
  | .mprim r => firstBad (r.d == 0 && r.b == 0 && !r.k) true
  | .rtrav m => firstBad (!m.w && !m.nr && m.bu.toNat ≤ 62) true
  | .rtravExt m x => firstBad (!m.w && !m.nr && m.bu.toNat ≤ 62)
      ({ tys := [3, 6], subs := [0, 1], pred := true : XaUse }.ok x)
  | .rtcom r => firstBad (r.d == 0 && r.k && r.b.toNat ≤ 1) true
  | .rtcomExt r x => firstBad (r.d == 0 && r.k && r.b.toNat ≤ 1) ({ tys := [3, 6], pred := true : XaUse }.ok x)
  | .rtrep m => firstBad (!m.w && !m.nr) true
  | .rtrepExt m x => firstBad (!m.w && !m.nr) ({ pred := true : XaUse }.ok x)
  | .srget u => firstBad (sysFields u && isSysReg u.index) true
  | .srset u => firstBad (sysFields u && isSysReg u.index && !isReadOnlyReg u.index) true
  | .tlbi u => firstBad (!u.k && u.z == 0 && u.d.toNat ≤ 2 && (u.d == 0 || u.a == 0) && (u.d != 2 || u.b == 0)) true
  | .hsig u => firstBad (u.d == 0 && u.k && u.z == 0) true
  | .queueNop _ => none
  | .launch _ => none
  | .wait _ => none
  | .waitPoll _ => none
  | .signal _ => none
  | .graphload _ => none
  | .qtailWrite _ _ _ => none
  | .qerrStopWrite _ _ _ => none
  | .qpassWrite _ _ _ => none
  | .triggerWrite _ _ _ _ => none
  | .registerWrite _ _ _ => none
  | .load => none
  | .unload => none
  | .attest => none
  | .fwreload => none
  | .mailboxRequestEnd => none
  | .faultReply _ _ _ => none
  | .haltedWrite _ _ _ => none
  | .pwrcfgWrite _ _ _ => none
  | .rampWrite _ _ _ _ => none
  | .railselWrite _ _ _ => none
  | .domtabWrite _ _ => none
  | .apertureAccess _ => none
  | .tenantApertureAccess _ _ => none
  | .packageReset => none
  | .functionLevelReset _ => none
  | .fatalError _ _ => none
  | .stateDumpComplete => none
  | .peerLinkState _ _ => none
  | .dieHalt _ => none
  | .launchPlacement _ => none
  | .groupAdmission _ _ => none
  | .taskStart _ _ => none
  | .taskSteal _ _ => none
  | .forkPush _ => none
  | .taskJoinDecrement _ => none
  | .joinWake _ => none
  | .launchCompletion _ => none
  | .preemptVictimChoice _ => none
  | .launchDue _ => none
  | .protectionEnd _ => none
  | .forcedSave _ => none
  | .victimRelease _ => none
  | .launchRestore _ => none
  | .claimGrant _ => none
  | .claimAging _ => none
  | .claimDeadlock _ => none
  | .confTimeout _ => none
  | .missSplit _ => none
  | .fusefail _ => none
  | .barrierPhaseComplete _ _ => none
  | .rbarLocalCompletion _ _ => none
  | .rbarReport _ _ => none
  | .rbarGlobalCompletion _ _ => none
  | .sleepWake _ => none
  | .pwaitWake _ => none
  | .pageWalkComplete _ => none
  | .ldCompletion _ => none
  | .stCompletion _ => none
  | .sliceRequest _ => none
  | .pinTimeout _ => none
  | .queueEnqueueRequest _ => none
  | .queueDequeueRequest _ => none
  | .channelMessageArrival _ => none
  | .channelCreditReturn _ _ => none
  | .bankDrowsy _ => none
  | .bankWakeComplete _ => none
  | .tcopyComplete _ => none
  | .coopMmaRelease _ => none
  | .mmaKstepDelivery _ => none
  | .mmaComplete _ => none
  | .mmzComplete _ => none
  | .slewStep _ => none
  | .pacSustainedStrike _ => none
  | .voltageInterval _ => none
  | .gatingStart _ => none
  | .gatingCommit _ => none
  | .clusterAwake _ => none
  | .setupBinning _ => none
  | .primitiveRecord _ => none
  | .watermark _ => none
  | .watermarkSend _ _ => none
  | .rasteriseRecord _ => none
  | .fragmentCommit _ => none
  | .divergenceHistoryUpdate _ _ _ => none
  | .reservedOpcode => none
  | .instructionFetchFault => none
  | .allowanceUpdate _ => none
  | .joinReread _ => none
  | .debugInterfaceAccess _ _ _ => none

/-- Every field keeps to the encoding's rules (R113). -/
def wellFormed (i : Instr) : Bool := (badWord i).isNone

end Sys2Proof
end

