-- ==== Sys2Proof/Decode.lean ====
section
/-! DEFINITION. Decoding and encoding (05 R95-R133). `decode` reads word 0 and the word that follows it;
`encode` gives the words of an instruction, from the same field layouts. -/

namespace Sys2Proof

/-- Why a word is no instruction (R96, R113, R120). -/
inductive DecodeError where
  /-- the opcode is reserved (R120) -/
  | reserved
  /-- the E bit breaks the opcode's requirement (R96) -/
  | eRequirement (op : BitVec 8)
  /-- the word of this index breaks a field rule (R113) -/
  | field (index : Nat) (i : Instr)
  deriving DecidableEq, Repr

/-- What the decoder reads. -/
inductive Decoded where
  | instr (i : Instr)
  | bad (e : DecodeError)
  deriving DecidableEq, Repr

/-- Bit 31, the park marker (R95). -/
def sOf (w : W32) : Bool := w.getLsbD 31
/-- Bit 30, E. -/
def eOf (w : W32) : Bool := w.getLsbD 30
/-- Bits 29:22, the opcode. -/
def opOf (w : W32) : BitVec 8 := w.extractLsb' 22 8

/-- The operand area read by each class (R98). -/
def rOf (w : W32) : RWord :=
  { s := sOf w, d := w.extractLsb' 15 7, a := w.extractLsb' 8 7, b := w.extractLsb' 1 7, k := w.getLsbD 0 }
def jOf (w : W32) : JWord := { s := sOf w, off := w.extractLsb' 0 22 }
def pOf (w : W32) : PWord :=
  { s := sOf w, pred := w.extractLsb' 19 3, neg := w.getLsbD 18, off := w.extractLsb' 0 18 }
def uOf (w : W32) : UWord :=
  { s := sOf w, d := w.extractLsb' 16 6, a := w.extractLsb' 10 6, b := w.extractLsb' 4 6, k := w.getLsbD 3
    z := w.extractLsb' 0 3 }
def mOf (w : W32) : MWord :=
  { s := sOf w, d := w.extractLsb' 15 7, a := w.extractLsb' 8 7, bu := w.extractLsb' 2 6, w := w.getLsbD 1
    nr := w.getLsbD 0 }

/-- The XA word (R102). -/
def xaOf (w : W32) : XaWord :=
  { c := w.extractLsb' 25 7, ty := w.extractLsb' 21 4, pr := w.extractLsb' 18 3, pn := w.getLsbD 17
    bh := w.extractLsb' 15 2, bw := w.extractLsb' 13 2, xd := w.getLsbD 12, xa := w.getLsbD 11
    xb := w.getLsbD 10, rm := w.extractLsb' 7 3, sat := w.getLsbD 6, cu := w.getLsbD 5, au := w.getLsbD 4
    sub := w.extractLsb' 0 4 }
/-- The XM word (R105). -/
def xmOf (w : W32) : XmWord :=
  { off := w.extractLsb' 18 14, sz := w.extractLsb' 15 3, ord := w.extractLsb' 13 2, scope := w.extractLsb' 10 3
    cp := w.extractLsb' 8 2, pr := w.extractLsb' 5 3, pn := w.getLsbD 4, sub := w.extractLsb' 0 4 }
/-- The XT word (R107). -/
def xtOf (w : W32) : XtWord :=
  { tile := w.extractLsb' 28 4, pm1 := w.extractLsb' 24 4, aty := w.extractLsb' 21 3, bty := w.extractLsb' 18 3
    mw := w.extractLsb' 14 4, z := w.getLsbD 13, co := w.getLsbD 12, ak := w.getLsbD 11, bk := w.getLsbD 10
    z6 := w.extractLsb' 4 6, sub := w.extractLsb' 0 4 }

/-- One bit as a word of width 1. -/
def bit (b : Bool) : BitVec 1 := BitVec.ofBool b

/-- Word 0 of each class, from the opcode and the E bit (R95, R98). -/
def encR (op : BitVec 8) (e : Bool) (r : RWord) : W32 := bit r.s ++ bit e ++ op ++ r.d ++ r.a ++ r.b ++ bit r.k
def encJ (op : BitVec 8) (e : Bool) (j : JWord) : W32 := bit j.s ++ bit e ++ op ++ j.off
def encP (op : BitVec 8) (e : Bool) (p : PWord) : W32 := bit p.s ++ bit e ++ op ++ p.pred ++ bit p.neg ++ p.off
def encU (op : BitVec 8) (e : Bool) (u : UWord) : W32 :=
  bit u.s ++ bit e ++ op ++ u.d ++ u.a ++ u.b ++ bit u.k ++ u.z
def encM (op : BitVec 8) (e : Bool) (m : MWord) : W32 :=
  bit m.s ++ bit e ++ op ++ m.d ++ m.a ++ m.bu ++ bit m.w ++ bit m.nr
def encXa (x : XaWord) : W32 :=
  x.c ++ x.ty ++ x.pr ++ bit x.pn ++ x.bh ++ x.bw ++ bit x.xd ++ bit x.xa ++ bit x.xb ++ x.rm ++ bit x.sat
    ++ bit x.cu ++ bit x.au ++ x.sub
def encXm (x : XmWord) : W32 := x.off ++ x.sz ++ x.ord ++ x.scope ++ x.cp ++ x.pr ++ bit x.pn ++ x.sub
def encXt (x : XtWord) : W32 :=
  x.tile ++ x.pm1 ++ x.aty ++ x.bty ++ x.mw ++ bit x.z ++ bit x.co ++ bit x.ak ++ bit x.bk ++ x.z6 ++ x.sub

/-- The instruction an opcode and an E bit name, before its field checks (R121-R131). -/
def formOf (op : BitVec 8) (e : Bool) (w0 w1 : W32) : Decoded :=
  match op, e with
  | 0x00#8, false => .instr (.nop (rOf w0))
  | 0x00#8, true => .instr (.nopXi (rOf w0) w1)
  | 0x01#8, false => .instr (.bra (jOf w0))
  | 0x01#8, _ => .bad (.eRequirement 0x01#8)
  | 0x02#8, false => .instr (.brp (pOf w0))
  | 0x02#8, _ => .bad (.eRequirement 0x02#8)
  | 0x03#8, false => .instr (.bru (pOf w0))
  | 0x03#8, _ => .bad (.eRequirement 0x03#8)
  | 0x04#8, false => .instr (.jmp (uOf w0))
  | 0x04#8, _ => .bad (.eRequirement 0x04#8)
  | 0x05#8, false => .instr (.call (jOf w0))
  | 0x05#8, _ => .bad (.eRequirement 0x05#8)
  | 0x06#8, false => .instr (.ret (uOf w0))
  | 0x06#8, _ => .bad (.eRequirement 0x06#8)
  | 0x07#8, false => .instr (.conf (rOf w0))
  | 0x07#8, _ => .bad (.eRequirement 0x07#8)
  | 0x08#8, false => .instr (.fuse (rOf w0))
  | 0x08#8, _ => .bad (.eRequirement 0x08#8)
  | 0x09#8, false => .instr (.exit (rOf w0))
  | 0x09#8, _ => .bad (.eRequirement 0x09#8)
  | 0x0A#8, false => .instr (.entry (rOf w0))
  | 0x0A#8, _ => .bad (.eRequirement 0x0A#8)
  | 0x0B#8, true => .instr (.gcall (rOf w0) w1)
  | 0x0B#8, _ => .bad (.eRequirement 0x0B#8)
  | 0x0C#8, false => .instr (.gret (rOf w0))
  | 0x0C#8, _ => .bad (.eRequirement 0x0C#8)
  | 0x0D#8, false => .instr (.gentry (rOf w0))
  | 0x0D#8, _ => .bad (.eRequirement 0x0D#8)
  | 0x0E#8, false => .instr (.trap (rOf w0))
  | 0x0E#8, _ => .bad (.eRequirement 0x0E#8)
  | 0x0F#8, false => .instr (.brk (rOf w0))
  | 0x0F#8, _ => .bad (.eRequirement 0x0F#8)
  | 0x10#8, false => .instr (.sleep (uOf w0))
  | 0x10#8, _ => .bad (.eRequirement 0x10#8)
  | 0x11#8, false => .instr (.sleepat (uOf w0))
  | 0x11#8, _ => .bad (.eRequirement 0x11#8)
  | 0x12#8, false => .instr (.pwait (uOf w0))
  | 0x12#8, _ => .bad (.eRequirement 0x12#8)
  | 0x13#8, false => .instr (.winb (rOf w0))
  | 0x13#8, _ => .bad (.eRequirement 0x13#8)
  | 0x14#8, true => .instr (.phint (uOf w0) w1)
  | 0x14#8, _ => .bad (.eRequirement 0x14#8)
  | 0x15#8, false => .instr (.region (rOf w0))
  | 0x15#8, _ => .bad (.eRequirement 0x15#8)
  | 0x16#8, false => .instr (.tret (rOf w0))
  | 0x16#8, _ => .bad (.eRequirement 0x16#8)
  | 0x20#8, false => .instr (.sadd (uOf w0))
  | 0x20#8, _ => .bad (.eRequirement 0x20#8)
  | 0x21#8, false => .instr (.ssub (uOf w0))
  | 0x21#8, _ => .bad (.eRequirement 0x21#8)
  | 0x22#8, false => .instr (.smul (uOf w0))
  | 0x22#8, _ => .bad (.eRequirement 0x22#8)
  | 0x23#8, false => .instr (.smulh (uOf w0))
  | 0x23#8, _ => .bad (.eRequirement 0x23#8)
  | 0x24#8, false => .instr (.sand (uOf w0))
  | 0x24#8, _ => .bad (.eRequirement 0x24#8)
  | 0x25#8, false => .instr (.sor (uOf w0))
  | 0x25#8, _ => .bad (.eRequirement 0x25#8)
  | 0x26#8, false => .instr (.sxor (uOf w0))
  | 0x26#8, _ => .bad (.eRequirement 0x26#8)
  | 0x27#8, false => .instr (.sshl (uOf w0))
  | 0x27#8, _ => .bad (.eRequirement 0x27#8)
  | 0x28#8, false => .instr (.sshr (uOf w0))
  | 0x28#8, _ => .bad (.eRequirement 0x28#8)
  | 0x29#8, false => .instr (.ssar (uOf w0))
  | 0x29#8, _ => .bad (.eRequirement 0x29#8)
  | 0x2A#8, false => .instr (.smin (uOf w0))
  | 0x2A#8, _ => .bad (.eRequirement 0x2A#8)
  | 0x2B#8, false => .instr (.smax (uOf w0))
  | 0x2B#8, _ => .bad (.eRequirement 0x2B#8)
  | 0x2C#8, false => .instr (.smov (uOf w0))
  | 0x2C#8, _ => .bad (.eRequirement 0x2C#8)
  | 0x2D#8, true => .instr (.smovi (uOf w0) w1)
  | 0x2D#8, _ => .bad (.eRequirement 0x2D#8)
  | 0x2E#8, true => .instr (.smovh (uOf w0) w1)
  | 0x2E#8, _ => .bad (.eRequirement 0x2E#8)
  | 0x2F#8, true => .instr (.scmp (uOf w0) (xaOf w1))
  | 0x2F#8, _ => .bad (.eRequirement 0x2F#8)
  | 0x30#8, true => .instr (.ssel (uOf w0) (xaOf w1))
  | 0x30#8, _ => .bad (.eRequirement 0x30#8)
  | 0x31#8, false => .instr (.sld (uOf w0))
  | 0x31#8, true => .instr (.sldExt (uOf w0) (xmOf w1))
  | 0x32#8, false => .instr (.sst (uOf w0))
  | 0x32#8, true => .instr (.sstExt (uOf w0) (xmOf w1))
  | 0x40#8, false => .instr (.iadd (rOf w0))
  | 0x40#8, true => .instr (.iaddExt (rOf w0) (xaOf w1))
  | 0x41#8, false => .instr (.isub (rOf w0))
  | 0x41#8, true => .instr (.isubExt (rOf w0) (xaOf w1))
  | 0x42#8, false => .instr (.imul (rOf w0))
  | 0x42#8, true => .instr (.imulExt (rOf w0) (xaOf w1))
  | 0x43#8, false => .instr (.imulh (rOf w0))
  | 0x43#8, true => .instr (.imulhExt (rOf w0) (xaOf w1))
  | 0x44#8, true => .instr (.imad (rOf w0) (xaOf w1))
  | 0x44#8, _ => .bad (.eRequirement 0x44#8)
  | 0x45#8, false => .instr (.imin (rOf w0))
  | 0x45#8, true => .instr (.iminExt (rOf w0) (xaOf w1))
  | 0x46#8, false => .instr (.imax (rOf w0))
  | 0x46#8, true => .instr (.imaxExt (rOf w0) (xaOf w1))
  | 0x47#8, false => .instr (.iabs (rOf w0))
  | 0x47#8, true => .instr (.iabsExt (rOf w0) (xaOf w1))
  | 0x48#8, false => .instr (.and (rOf w0))
  | 0x48#8, true => .instr (.andExt (rOf w0) (xaOf w1))
  | 0x49#8, false => .instr (.or (rOf w0))
  | 0x49#8, true => .instr (.orExt (rOf w0) (xaOf w1))
  | 0x4A#8, false => .instr (.xor (rOf w0))
  | 0x4A#8, true => .instr (.xorExt (rOf w0) (xaOf w1))
  | 0x4B#8, false => .instr (.andn (rOf w0))
  | 0x4B#8, true => .instr (.andnExt (rOf w0) (xaOf w1))
  | 0x4C#8, false => .instr (.shl (rOf w0))
  | 0x4C#8, true => .instr (.shlExt (rOf w0) (xaOf w1))
  | 0x4D#8, false => .instr (.shr (rOf w0))
  | 0x4D#8, true => .instr (.shrExt (rOf w0) (xaOf w1))
  | 0x4E#8, false => .instr (.sar (rOf w0))
  | 0x4E#8, true => .instr (.sarExt (rOf w0) (xaOf w1))
  | 0x4F#8, false => .instr (.popc (rOf w0))
  | 0x4F#8, true => .instr (.popcExt (rOf w0) (xaOf w1))
  | 0x50#8, false => .instr (.clz (rOf w0))
  | 0x50#8, true => .instr (.clzExt (rOf w0) (xaOf w1))
  | 0x51#8, false => .instr (.brev (rOf w0))
  | 0x51#8, true => .instr (.brevExt (rOf w0) (xaOf w1))
  | 0x52#8, false => .instr (.bfe (rOf w0))
  | 0x52#8, true => .instr (.bfeExt (rOf w0) (xaOf w1))
  | 0x53#8, true => .instr (.bfi (rOf w0) (xaOf w1))
  | 0x53#8, _ => .bad (.eRequirement 0x53#8)
  | 0x54#8, true => .instr (.sel (rOf w0) (xaOf w1))
  | 0x54#8, _ => .bad (.eRequirement 0x54#8)
  | 0x55#8, false => .instr (.mov (rOf w0))
  | 0x55#8, true => .instr (.movExt (rOf w0) (xaOf w1))
  | 0x56#8, false => .instr (.movi (rOf w0))
  | 0x56#8, true => .instr (.moviXi (rOf w0) w1)
  | 0x57#8, false => .instr (.icmp (rOf w0))
  | 0x57#8, true => .instr (.icmpExt (rOf w0) (xaOf w1))
  | 0x58#8, false => .instr (.iscadd (rOf w0))
  | 0x58#8, true => .instr (.iscaddExt (rOf w0) (xaOf w1))
  | 0x60#8, false => .instr (.fadd (rOf w0))
  | 0x60#8, true => .instr (.faddExt (rOf w0) (xaOf w1))
  | 0x61#8, false => .instr (.fsub (rOf w0))
  | 0x61#8, true => .instr (.fsubExt (rOf w0) (xaOf w1))
  | 0x62#8, false => .instr (.fmul (rOf w0))
  | 0x62#8, true => .instr (.fmulExt (rOf w0) (xaOf w1))
  | 0x63#8, true => .instr (.ffma (rOf w0) (xaOf w1))
  | 0x63#8, _ => .bad (.eRequirement 0x63#8)
  | 0x64#8, false => .instr (.fmin (rOf w0))
  | 0x64#8, true => .instr (.fminExt (rOf w0) (xaOf w1))
  | 0x65#8, false => .instr (.fmax (rOf w0))
  | 0x65#8, true => .instr (.fmaxExt (rOf w0) (xaOf w1))
  | 0x66#8, false => .instr (.fcmp (rOf w0))
  | 0x66#8, true => .instr (.fcmpExt (rOf w0) (xaOf w1))
  | 0x67#8, false => .instr (.frcp (rOf w0))
  | 0x67#8, true => .instr (.frcpExt (rOf w0) (xaOf w1))
  | 0x68#8, false => .instr (.frsq (rOf w0))
  | 0x68#8, true => .instr (.frsqExt (rOf w0) (xaOf w1))
  | 0x69#8, false => .instr (.fsqrt (rOf w0))
  | 0x69#8, true => .instr (.fsqrtExt (rOf w0) (xaOf w1))
  | 0x6A#8, false => .instr (.fdiv (rOf w0))
  | 0x6A#8, true => .instr (.fdivExt (rOf w0) (xaOf w1))
  | 0x6B#8, false => .instr (.fexp2 (rOf w0))
  | 0x6B#8, true => .instr (.fexp2Ext (rOf w0) (xaOf w1))
  | 0x6C#8, false => .instr (.flog2 (rOf w0))
  | 0x6C#8, true => .instr (.flog2Ext (rOf w0) (xaOf w1))
  | 0x6D#8, false => .instr (.fsin (rOf w0))
  | 0x6D#8, true => .instr (.fsinExt (rOf w0) (xaOf w1))
  | 0x6E#8, false => .instr (.fcos (rOf w0))
  | 0x6E#8, true => .instr (.fcosExt (rOf w0) (xaOf w1))
  | 0x6F#8, false => .instr (.frnd (rOf w0))
  | 0x6F#8, true => .instr (.frndExt (rOf w0) (xaOf w1))
  | 0x70#8, false => .instr (.fclass (rOf w0))
  | 0x70#8, true => .instr (.fclassExt (rOf w0) (xaOf w1))
  | 0x71#8, false => .instr (.fscale (rOf w0))
  | 0x71#8, true => .instr (.fscaleExt (rOf w0) (xaOf w1))
  | 0x80#8, true => .instr (.cvt (rOf w0) (xaOf w1))
  | 0x80#8, _ => .bad (.eRequirement 0x80#8)
  | 0x81#8, true => .instr (.cvtq (rOf w0) (xaOf w1))
  | 0x81#8, _ => .bad (.eRequirement 0x81#8)
  | 0x82#8, true => .instr (.cvtd (rOf w0) (xaOf w1))
  | 0x82#8, _ => .bad (.eRequirement 0x82#8)
  | 0x83#8, false => .instr (.pack (rOf w0))
  | 0x83#8, true => .instr (.packExt (rOf w0) (xaOf w1))
  | 0x84#8, false => .instr (.unpack (rOf w0))
  | 0x84#8, true => .instr (.unpackExt (rOf w0) (xaOf w1))
  | 0x85#8, false => .instr (.amax (rOf w0))
  | 0x85#8, true => .instr (.amaxExt (rOf w0) (xaOf w1))
  | 0x90#8, false => .instr (.shfl (rOf w0))
  | 0x90#8, true => .instr (.shflExt (rOf w0) (xaOf w1))
  | 0x91#8, false => .instr (.vote (rOf w0))
  | 0x91#8, true => .instr (.voteExt (rOf w0) (xaOf w1))
  | 0x92#8, false => .instr (.redu (rOf w0))
  | 0x92#8, true => .instr (.reduExt (rOf w0) (xaOf w1))
  | 0x93#8, false => .instr (.scan (rOf w0))
  | 0x93#8, true => .instr (.scanExt (rOf w0) (xaOf w1))
  | 0x94#8, false => .instr (.rdlane (rOf w0))
  | 0x94#8, true => .instr (.rdlaneExt (rOf w0) (xaOf w1))
  | 0x95#8, true => .instr (.wrlane (rOf w0) (xaOf w1))
  | 0x95#8, _ => .bad (.eRequirement 0x95#8)
  | 0x96#8, false => .instr (.ddx (rOf w0))
  | 0x96#8, true => .instr (.ddxExt (rOf w0) (xaOf w1))
  | 0x97#8, false => .instr (.ddy (rOf w0))
  | 0x97#8, true => .instr (.ddyExt (rOf w0) (xaOf w1))
  | 0x98#8, false => .instr (.qperm (rOf w0))
  | 0x98#8, true => .instr (.qpermExt (rOf w0) (xaOf w1))
  | 0xA0#8, false => .instr (.ld (mOf w0))
  | 0xA0#8, true => .instr (.ldExt (mOf w0) (xmOf w1))
  | 0xA1#8, false => .instr (.st (mOf w0))
  | 0xA1#8, true => .instr (.stExt (mOf w0) (xmOf w1))
  | 0xA2#8, false => .instr (.ldl (mOf w0))
  | 0xA2#8, true => .instr (.ldlExt (mOf w0) (xmOf w1))
  | 0xA3#8, false => .instr (.stl (mOf w0))
  | 0xA3#8, true => .instr (.stlExt (mOf w0) (xmOf w1))
  | 0xA4#8, false => .instr (.atom (mOf w0))
  | 0xA4#8, true => .instr (.atomExt (mOf w0) (xmOf w1))
  | 0xA5#8, false => .instr (.atoml (mOf w0))
  | 0xA5#8, true => .instr (.atomlExt (mOf w0) (xmOf w1))
  | 0xA6#8, true => .instr (.fence (mOf w0) (xmOf w1))
  | 0xA6#8, _ => .bad (.eRequirement 0xA6#8)
  | 0xA7#8, false => .instr (.cctl (mOf w0))
  | 0xA7#8, true => .instr (.cctlExt (mOf w0) (xmOf w1))
  | 0xA8#8, false => .instr (.pfetch (mOf w0))
  | 0xA8#8, true => .instr (.pfetchExt (mOf w0) (xmOf w1))
  | 0xC0#8, true => .instr (.tcopy (uOf w0) (xtOf w1))
  | 0xC0#8, _ => .bad (.eRequirement 0xC0#8)
  | 0xC1#8, true => .instr (.mma (uOf w0) (xtOf w1))
  | 0xC1#8, _ => .bad (.eRequirement 0xC1#8)
  | 0xC2#8, true => .instr (.mmz (uOf w0) (xtOf w1))
  | 0xC2#8, _ => .bad (.eRequirement 0xC2#8)
  | 0xC3#8, true => .instr (.tkacq (uOf w0) (xtOf w1))
  | 0xC3#8, _ => .bad (.eRequirement 0xC3#8)
  | 0xC4#8, true => .instr (.tkrel (uOf w0) (xtOf w1))
  | 0xC4#8, _ => .bad (.eRequirement 0xC4#8)
  | 0xC5#8, true => .instr (.accrd (rOf w0) (xtOf w1))
  | 0xC5#8, _ => .bad (.eRequirement 0xC5#8)
  | 0xC6#8, true => .instr (.accwr (rOf w0) (xtOf w1))
  | 0xC6#8, _ => .bad (.eRequirement 0xC6#8)
  | 0xC7#8, false => .instr (.waitc (rOf w0))
  | 0xC7#8, _ => .bad (.eRequirement 0xC7#8)
  | 0xD0#8, false => .instr (.bara (rOf w0))
  | 0xD0#8, _ => .bad (.eRequirement 0xD0#8)
  | 0xD1#8, false => .instr (.barw (rOf w0))
  | 0xD1#8, _ => .bad (.eRequirement 0xD1#8)
  | 0xD2#8, false => .instr (.bar (rOf w0))
  | 0xD2#8, true => .instr (.barExt (rOf w0) (xaOf w1))
  | 0xD3#8, false => .instr (.rbar (rOf w0))
  | 0xD3#8, true => .instr (.rbarExt (rOf w0) (xaOf w1))
  | 0xD4#8, true => .instr (.regrel (rOf w0) w1)
  | 0xD4#8, _ => .bad (.eRequirement 0xD4#8)
  | 0xD5#8, true => .instr (.regclm (rOf w0) w1)
  | 0xD5#8, _ => .bad (.eRequirement 0xD5#8)
  | 0xD6#8, false => .instr (.chsend (rOf w0))
  | 0xD6#8, _ => .bad (.eRequirement 0xD6#8)
  | 0xD7#8, false => .instr (.chrecv (rOf w0))
  | 0xD7#8, _ => .bad (.eRequirement 0xD7#8)
  | 0xD8#8, false => .instr (.qenq (uOf w0))
  | 0xD8#8, _ => .bad (.eRequirement 0xD8#8)
  | 0xD9#8, false => .instr (.qdeq (uOf w0))
  | 0xD9#8, _ => .bad (.eRequirement 0xD9#8)
  | 0xDA#8, false => .instr (.fork (uOf w0))
  | 0xDA#8, _ => .bad (.eRequirement 0xDA#8)
  | 0xDB#8, false => .instr (.join (uOf w0))
  | 0xDB#8, _ => .bad (.eRequirement 0xDB#8)
  | 0xE0#8, false => .instr (.tex (mOf w0))
  | 0xE0#8, true => .instr (.texExt (mOf w0) (xaOf w1))
  | 0xE1#8, false => .instr (.texg (mOf w0))
  | 0xE1#8, true => .instr (.texgExt (mOf w0) (xaOf w1))
  | 0xE2#8, false => .instr (.texq (mOf w0))
  | 0xE2#8, true => .instr (.texqExt (mOf w0) (xaOf w1))
  | 0xE3#8, false => .instr (.ipa (rOf w0))
  | 0xE3#8, true => .instr (.ipaExt (rOf w0) (xaOf w1))
  | 0xE4#8, false => .instr (.kill (rOf w0))
  | 0xE4#8, true => .instr (.killExt (rOf w0) (xaOf w1))
  | 0xE5#8, false => .instr (.pout (rOf w0))
  | 0xE5#8, true => .instr (.poutExt (rOf w0) (xaOf w1))
  | 0xE6#8, false => .instr (.mvtx (rOf w0))
  | 0xE6#8, _ => .bad (.eRequirement 0xE6#8)
  | 0xE7#8, false => .instr (.mprim (rOf w0))
  | 0xE7#8, _ => .bad (.eRequirement 0xE7#8)
  | 0xE8#8, false => .instr (.rtrav (mOf w0))
  | 0xE8#8, true => .instr (.rtravExt (mOf w0) (xaOf w1))
  | 0xE9#8, false => .instr (.rtcom (rOf w0))
  | 0xE9#8, true => .instr (.rtcomExt (rOf w0) (xaOf w1))
  | 0xEA#8, false => .instr (.rtrep (mOf w0))
  | 0xEA#8, true => .instr (.rtrepExt (mOf w0) (xaOf w1))
  | 0xF0#8, false => .instr (.srget (uOf w0))
  | 0xF0#8, _ => .bad (.eRequirement 0xF0#8)
  | 0xF1#8, false => .instr (.srset (uOf w0))
  | 0xF1#8, _ => .bad (.eRequirement 0xF1#8)
  | 0xF2#8, false => .instr (.tlbi (uOf w0))
  | 0xF2#8, _ => .bad (.eRequirement 0xF2#8)
  | 0xF3#8, false => .instr (.hsig (uOf w0))
  | 0xF3#8, _ => .bad (.eRequirement 0xF3#8)
  | _, _ => .bad .reserved

/-- The instruction of word 0 and, when E is 1, its extension word (R95, R96, R113). -/
def decode (w0 w1 : W32) : Decoded :=
  match formOf (opOf w0) (eOf w0) w0 w1 with
  | .bad err => .bad err
  | .instr i =>
    match badWord i with
    | some n => .bad (.field n i)
    | none => .instr i

/-- The words of an instruction; an event has none. -/
def encode : Instr → List W32
  | .nop r => [encR 0x00 false r]
  | .nopXi r x => [encR 0x00 true r, x]
  | .bra j => [encJ 0x01 false j]
  | .brp p => [encP 0x02 false p]
  | .bru p => [encP 0x03 false p]
  | .jmp u => [encU 0x04 false u]
  | .call j => [encJ 0x05 false j]
  | .ret u => [encU 0x06 false u]
  | .conf r => [encR 0x07 false r]
  | .fuse r => [encR 0x08 false r]
  | .exit r => [encR 0x09 false r]
  | .entry r => [encR 0x0A false r]
  | .gcall r x => [encR 0x0B true r, x]
  | .gret r => [encR 0x0C false r]
  | .gentry r => [encR 0x0D false r]
  | .trap r => [encR 0x0E false r]
  | .brk r => [encR 0x0F false r]
  | .sleep u => [encU 0x10 false u]
  | .sleepat u => [encU 0x11 false u]
  | .pwait u => [encU 0x12 false u]
  | .winb r => [encR 0x13 false r]
  | .phint u x => [encU 0x14 true u, x]
  | .region r => [encR 0x15 false r]
  | .tret r => [encR 0x16 false r]
  | .sadd u => [encU 0x20 false u]
  | .ssub u => [encU 0x21 false u]
  | .smul u => [encU 0x22 false u]
  | .smulh u => [encU 0x23 false u]
  | .sand u => [encU 0x24 false u]
  | .sor u => [encU 0x25 false u]
  | .sxor u => [encU 0x26 false u]
  | .sshl u => [encU 0x27 false u]
  | .sshr u => [encU 0x28 false u]
  | .ssar u => [encU 0x29 false u]
  | .smin u => [encU 0x2A false u]
  | .smax u => [encU 0x2B false u]
  | .smov u => [encU 0x2C false u]
  | .smovi u x => [encU 0x2D true u, x]
  | .smovh u x => [encU 0x2E true u, x]
  | .scmp u x => [encU 0x2F true u, encXa x]
  | .ssel u x => [encU 0x30 true u, encXa x]
  | .sld u => [encU 0x31 false u]
  | .sldExt u x => [encU 0x31 true u, encXm x]
  | .sst u => [encU 0x32 false u]
  | .sstExt u x => [encU 0x32 true u, encXm x]
  | .iadd r => [encR 0x40 false r]
  | .iaddExt r x => [encR 0x40 true r, encXa x]
  | .isub r => [encR 0x41 false r]
  | .isubExt r x => [encR 0x41 true r, encXa x]
  | .imul r => [encR 0x42 false r]
  | .imulExt r x => [encR 0x42 true r, encXa x]
  | .imulh r => [encR 0x43 false r]
  | .imulhExt r x => [encR 0x43 true r, encXa x]
  | .imad r x => [encR 0x44 true r, encXa x]
  | .imin r => [encR 0x45 false r]
  | .iminExt r x => [encR 0x45 true r, encXa x]
  | .imax r => [encR 0x46 false r]
  | .imaxExt r x => [encR 0x46 true r, encXa x]
  | .iabs r => [encR 0x47 false r]
  | .iabsExt r x => [encR 0x47 true r, encXa x]
  | .and r => [encR 0x48 false r]
  | .andExt r x => [encR 0x48 true r, encXa x]
  | .or r => [encR 0x49 false r]
  | .orExt r x => [encR 0x49 true r, encXa x]
  | .xor r => [encR 0x4A false r]
  | .xorExt r x => [encR 0x4A true r, encXa x]
  | .andn r => [encR 0x4B false r]
  | .andnExt r x => [encR 0x4B true r, encXa x]
  | .shl r => [encR 0x4C false r]
  | .shlExt r x => [encR 0x4C true r, encXa x]
  | .shr r => [encR 0x4D false r]
  | .shrExt r x => [encR 0x4D true r, encXa x]
  | .sar r => [encR 0x4E false r]
  | .sarExt r x => [encR 0x4E true r, encXa x]
  | .popc r => [encR 0x4F false r]
  | .popcExt r x => [encR 0x4F true r, encXa x]
  | .clz r => [encR 0x50 false r]
  | .clzExt r x => [encR 0x50 true r, encXa x]
  | .brev r => [encR 0x51 false r]
  | .brevExt r x => [encR 0x51 true r, encXa x]
  | .bfe r => [encR 0x52 false r]
  | .bfeExt r x => [encR 0x52 true r, encXa x]
  | .bfi r x => [encR 0x53 true r, encXa x]
  | .sel r x => [encR 0x54 true r, encXa x]
  | .mov r => [encR 0x55 false r]
  | .movExt r x => [encR 0x55 true r, encXa x]
  | .movi r => [encR 0x56 false r]
  | .moviXi r x => [encR 0x56 true r, x]
  | .icmp r => [encR 0x57 false r]
  | .icmpExt r x => [encR 0x57 true r, encXa x]
  | .iscadd r => [encR 0x58 false r]
  | .iscaddExt r x => [encR 0x58 true r, encXa x]
  | .fadd r => [encR 0x60 false r]
  | .faddExt r x => [encR 0x60 true r, encXa x]
  | .fsub r => [encR 0x61 false r]
  | .fsubExt r x => [encR 0x61 true r, encXa x]
  | .fmul r => [encR 0x62 false r]
  | .fmulExt r x => [encR 0x62 true r, encXa x]
  | .ffma r x => [encR 0x63 true r, encXa x]
  | .fmin r => [encR 0x64 false r]
  | .fminExt r x => [encR 0x64 true r, encXa x]
  | .fmax r => [encR 0x65 false r]
  | .fmaxExt r x => [encR 0x65 true r, encXa x]
  | .fcmp r => [encR 0x66 false r]
  | .fcmpExt r x => [encR 0x66 true r, encXa x]
  | .frcp r => [encR 0x67 false r]
  | .frcpExt r x => [encR 0x67 true r, encXa x]
  | .frsq r => [encR 0x68 false r]
  | .frsqExt r x => [encR 0x68 true r, encXa x]
  | .fsqrt r => [encR 0x69 false r]
  | .fsqrtExt r x => [encR 0x69 true r, encXa x]
  | .fdiv r => [encR 0x6A false r]
  | .fdivExt r x => [encR 0x6A true r, encXa x]
  | .fexp2 r => [encR 0x6B false r]
  | .fexp2Ext r x => [encR 0x6B true r, encXa x]
  | .flog2 r => [encR 0x6C false r]
  | .flog2Ext r x => [encR 0x6C true r, encXa x]
  | .fsin r => [encR 0x6D false r]
  | .fsinExt r x => [encR 0x6D true r, encXa x]
  | .fcos r => [encR 0x6E false r]
  | .fcosExt r x => [encR 0x6E true r, encXa x]
  | .frnd r => [encR 0x6F false r]
  | .frndExt r x => [encR 0x6F true r, encXa x]
  | .fclass r => [encR 0x70 false r]
  | .fclassExt r x => [encR 0x70 true r, encXa x]
  | .fscale r => [encR 0x71 false r]
  | .fscaleExt r x => [encR 0x71 true r, encXa x]
  | .cvt r x => [encR 0x80 true r, encXa x]
  | .cvtq r x => [encR 0x81 true r, encXa x]
  | .cvtd r x => [encR 0x82 true r, encXa x]
  | .pack r => [encR 0x83 false r]
  | .packExt r x => [encR 0x83 true r, encXa x]
  | .unpack r => [encR 0x84 false r]
  | .unpackExt r x => [encR 0x84 true r, encXa x]
  | .amax r => [encR 0x85 false r]
  | .amaxExt r x => [encR 0x85 true r, encXa x]
  | .shfl r => [encR 0x90 false r]
  | .shflExt r x => [encR 0x90 true r, encXa x]
  | .vote r => [encR 0x91 false r]
  | .voteExt r x => [encR 0x91 true r, encXa x]
  | .redu r => [encR 0x92 false r]
  | .reduExt r x => [encR 0x92 true r, encXa x]
  | .scan r => [encR 0x93 false r]
  | .scanExt r x => [encR 0x93 true r, encXa x]
  | .rdlane r => [encR 0x94 false r]
  | .rdlaneExt r x => [encR 0x94 true r, encXa x]
  | .wrlane r x => [encR 0x95 true r, encXa x]
  | .ddx r => [encR 0x96 false r]
  | .ddxExt r x => [encR 0x96 true r, encXa x]
  | .ddy r => [encR 0x97 false r]
  | .ddyExt r x => [encR 0x97 true r, encXa x]
  | .qperm r => [encR 0x98 false r]
  | .qpermExt r x => [encR 0x98 true r, encXa x]
  | .ld m => [encM 0xA0 false m]
  | .ldExt m x => [encM 0xA0 true m, encXm x]
  | .st m => [encM 0xA1 false m]
  | .stExt m x => [encM 0xA1 true m, encXm x]
  | .ldl m => [encM 0xA2 false m]
  | .ldlExt m x => [encM 0xA2 true m, encXm x]
  | .stl m => [encM 0xA3 false m]
  | .stlExt m x => [encM 0xA3 true m, encXm x]
  | .atom m => [encM 0xA4 false m]
  | .atomExt m x => [encM 0xA4 true m, encXm x]
  | .atoml m => [encM 0xA5 false m]
  | .atomlExt m x => [encM 0xA5 true m, encXm x]
  | .fence m x => [encM 0xA6 true m, encXm x]
  | .cctl m => [encM 0xA7 false m]
  | .cctlExt m x => [encM 0xA7 true m, encXm x]
  | .pfetch m => [encM 0xA8 false m]
  | .pfetchExt m x => [encM 0xA8 true m, encXm x]
  | .tcopy u x => [encU 0xC0 true u, encXt x]
  | .mma u x => [encU 0xC1 true u, encXt x]
  | .mmz u x => [encU 0xC2 true u, encXt x]
  | .tkacq u x => [encU 0xC3 true u, encXt x]
  | .tkrel u x => [encU 0xC4 true u, encXt x]
  | .accrd r x => [encR 0xC5 true r, encXt x]
  | .accwr r x => [encR 0xC6 true r, encXt x]
  | .waitc r => [encR 0xC7 false r]
  | .bara r => [encR 0xD0 false r]
  | .barw r => [encR 0xD1 false r]
  | .bar r => [encR 0xD2 false r]
  | .barExt r x => [encR 0xD2 true r, encXa x]
  | .rbar r => [encR 0xD3 false r]
  | .rbarExt r x => [encR 0xD3 true r, encXa x]
  | .regrel r x => [encR 0xD4 true r, x]
  | .regclm r x => [encR 0xD5 true r, x]
  | .chsend r => [encR 0xD6 false r]
  | .chrecv r => [encR 0xD7 false r]
  | .qenq u => [encU 0xD8 false u]
  | .qdeq u => [encU 0xD9 false u]
  | .fork u => [encU 0xDA false u]
  | .join u => [encU 0xDB false u]
  | .tex m => [encM 0xE0 false m]
  | .texExt m x => [encM 0xE0 true m, encXa x]
  | .texg m => [encM 0xE1 false m]
  | .texgExt m x => [encM 0xE1 true m, encXa x]
  | .texq m => [encM 0xE2 false m]
  | .texqExt m x => [encM 0xE2 true m, encXa x]
  | .ipa r => [encR 0xE3 false r]
  | .ipaExt r x => [encR 0xE3 true r, encXa x]
  | .kill r => [encR 0xE4 false r]
  | .killExt r x => [encR 0xE4 true r, encXa x]
  | .pout r => [encR 0xE5 false r]
  | .poutExt r x => [encR 0xE5 true r, encXa x]
  | .mvtx r => [encR 0xE6 false r]
  | .mprim r => [encR 0xE7 false r]
  | .rtrav m => [encM 0xE8 false m]
  | .rtravExt m x => [encM 0xE8 true m, encXa x]
  | .rtcom r => [encR 0xE9 false r]
  | .rtcomExt r x => [encR 0xE9 true r, encXa x]
  | .rtrep m => [encM 0xEA false m]
  | .rtrepExt m x => [encM 0xEA true m, encXa x]
  | .srget u => [encU 0xF0 false u]
  | .srset u => [encU 0xF1 false u]
  | .tlbi u => [encU 0xF2 false u]
  | .hsig u => [encU 0xF3 false u]
  | .queueNop _ => []
  | .launch _ => []
  | .wait _ => []
  | .waitPoll _ => []
  | .signal _ => []
  | .graphload _ => []
  | .qtailWrite _ _ _ => []
  | .qerrStopWrite _ _ _ => []
  | .qpassWrite _ _ _ => []
  | .triggerWrite _ _ _ _ => []
  | .registerWrite _ _ _ => []
  | .load => []
  | .unload => []
  | .attest => []
  | .fwreload => []
  | .mailboxRequestEnd => []
  | .faultReply _ _ _ => []
  | .haltedWrite _ _ _ => []
  | .pwrcfgWrite _ _ _ => []
  | .rampWrite _ _ _ _ => []
  | .railselWrite _ _ _ => []
  | .domtabWrite _ _ => []
  | .apertureAccess _ => []
  | .tenantApertureAccess _ _ => []
  | .packageReset => []
  | .functionLevelReset _ => []
  | .fatalError _ _ => []
  | .stateDumpComplete => []
  | .peerLinkState _ _ => []
  | .dieHalt _ => []
  | .launchPlacement _ => []
  | .groupAdmission _ _ => []
  | .taskStart _ _ => []
  | .taskSteal _ _ => []
  | .forkPush _ => []
  | .taskJoinDecrement _ => []
  | .joinWake _ => []
  | .launchCompletion _ => []
  | .preemptVictimChoice _ => []
  | .launchDue _ => []
  | .protectionEnd _ => []
  | .forcedSave _ => []
  | .victimRelease _ => []
  | .launchRestore _ => []
  | .claimGrant _ => []
  | .claimAging _ => []
  | .claimDeadlock _ => []
  | .confTimeout _ => []
  | .missSplit _ => []
  | .fusefail _ => []
  | .barrierPhaseComplete _ _ => []
  | .rbarLocalCompletion _ _ => []
  | .rbarReport _ _ => []
  | .rbarGlobalCompletion _ _ => []
  | .sleepWake _ => []
  | .pwaitWake _ => []
  | .pageWalkComplete _ => []
  | .ldCompletion _ => []
  | .stCompletion _ => []
  | .sliceRequest _ => []
  | .pinTimeout _ => []
  | .queueEnqueueRequest _ => []
  | .queueDequeueRequest _ => []
  | .channelMessageArrival _ => []
  | .channelCreditReturn _ _ => []
  | .bankDrowsy _ => []
  | .bankWakeComplete _ => []
  | .tcopyComplete _ => []
  | .coopMmaRelease _ => []
  | .mmaKstepDelivery _ => []
  | .mmaComplete _ => []
  | .mmzComplete _ => []
  | .slewStep _ => []
  | .pacSustainedStrike _ => []
  | .voltageInterval _ => []
  | .gatingStart _ => []
  | .gatingCommit _ => []
  | .clusterAwake _ => []
  | .setupBinning _ => []
  | .primitiveRecord _ => []
  | .watermark _ => []
  | .watermarkSend _ _ => []
  | .rasteriseRecord _ => []
  | .fragmentCommit _ => []
  | .divergenceHistoryUpdate _ _ _ => []
  | .reservedOpcode => []
  | .instructionFetchFault => []
  | .allowanceUpdate _ => []
  | .joinReread _ => []
  | .debugInterfaceAccess _ _ _ => []

/-- Length in bytes of an instruction's words (R95). -/
def lengthOf (i : Instr) : Nat := 4 * (encode i).length

/-- A word as the four bytes memory holds, lowest address first (00 R2). -/
def wordBytes (w : W32) : List Byte :=
  [w.extractLsb' 0 8, w.extractLsb' 8 8, w.extractLsb' 16 8, w.extractLsb' 24 8]

/-- The number held by bytes, lowest address first (00 R2). -/
def leNat : List Byte → Nat
  | [] => 0
  | b :: bs => b.toNat + 256 * leNat bs

/-- The instruction whose words stand at the head of the bytes; an absent extension word reads as zero. -/
def decodeBytes (bs : List Byte) : Decoded :=
  decode (BitVec.ofNat 32 (leNat (bs.take 4))) (BitVec.ofNat 32 (leNat ((bs.drop 4).take 4)))

/-- The instruction of a table row's bits, numbered from the least significant bit of word 0; bits at and above
`nbits` are zero. -/
def decodeTableWord (nbits w : Nat) : Option Instr :=
  let v := w % 2 ^ nbits
  match decodeBytes (wordBytes (BitVec.ofNat 32 v) ++ wordBytes (BitVec.ofNat 32 (v / 2 ^ 32))) with
  | .instr i => some i
  | .bad _ => none

end Sys2Proof
end

