-- ==== Sys2Proof/Machine/Parts.lean ====
section
/-! DEFINITION. Dividing and fusing wave parts, masked execution, confluence and forced fuse (03 R54-R67). -/

namespace Sys2Proof.Machine

/-! ### The buddy rule (R54) -/

/-- Class of a quad. -/
inductive QuadClass where
  | empty | taken | notTaken | mixed
  deriving DecidableEq, Repr

/-- Class of the quad at lane `l`, from the active lanes and the taken mask. -/
def quadClass (active taken : Lanes) (l : Nat) : QuadClass :=
  let q := laneRange l 4 &&& active
  if q = 0 then .empty else if q &&& ~~~taken = 0 then .taken else if q &&& taken = 0 then .notTaken else .mixed

/-- The class of a block: empty, one class, or mixed when its non-empty quads differ. -/
def blockClass (active taken : Lanes) (base width : Nat) : QuadClass :=
  let cs := ((List.range (width / 4)).map (fun q => quadClass active taken (base + 4 * q))).filter (fun c => c != .empty)
  match cs with
  | [] => .empty
  | c :: r => if r.all (fun d => d == c) then c else .mixed

/-- The non-empty quads of a block all have one class, or there is none. -/
def uniformBlock (active taken : Lanes) (base width : Nat) : Bool :=
  let cs := ((List.range (width / 4)).map (fun q => quadClass active taken (base + 4 * q))).filter (fun c => c != .empty)
  match cs with
  | [] => true
  | c :: r => r.all (fun d => d == c)

/-- A block of a division: base, width, class; an empty block is latent. -/
structure Block where
  base : Nat
  width : Nat
  cls : QuadClass
  deriving DecidableEq, Repr

/-- A block that divides no further (R54). -/
def finalBlock (active taken : Lanes) (minw base width : Nat) : Bool := uniformBlock active taken base width || decide (width ≤ minw)

/-- Divides a block; an empty final half is folded into its buddy when that is final, and is latent otherwise. -/
def divide (active taken : Lanes) (minw : Nat) : Nat → Nat → Nat → List Block
  | 0, base, width => [{ base := base, width := width, cls := blockClass active taken base width }]
  | fuel + 1, base, width =>
    if finalBlock active taken minw base width then [{ base := base, width := width, cls := blockClass active taken base width }]
    else
      let h := width / 2
      let lo := blockClass active taken base h
      let hi := blockClass active taken (base + h) h
      if finalBlock active taken minw base h && finalBlock active taken minw (base + h) h && (lo == .empty || hi == .empty) then
        [{ base := base, width := width, cls := if lo = .empty then hi else lo }]
      else divide active taken minw fuel base h ++ divide active taken minw fuel (base + h) h

/-- SPLITPOL.MINW in lanes (R53). -/
def minWidth (p : Part) : Nat := 2 ^ (p.regs.minw.toNat + 1)

/-- The part runs as if SPLIT and MISS were as given: cleared in a handler and in a callee whose gate entry has
ALLOWSPLIT 0 (R73, 12 R276). -/
def policyOn (p : Part) (bit : Bool) : Bool :=
  bit && p.tcode == 0 && (match p.frames with | f :: _ => f.allowSplit | [] => true)

/-! ### Operations of a part -/

/-- Lanes for which a load-class operation has data outstanding. A load or dequeue into a uniform register, which every lane
reads, is outstanding for all of them (DESIGN CHOICE, notes/assumptions/61.md: R58 and R67 do not say for which quads). -/
def pendingLanes (o : MemOp) : Lanes :=
  let acc := o.accs.foldl (fun m a =>
    match a.phase with
    | .back => m
    | .failed _ => m
    | _ => m ||| laneBit a.lane) (0 : Lanes)
  match o.kind with
  | .sload _ => BitVec.allOnes 64
  | .qdeq _ => BitVec.allOnes 64
  | .chrecv _ _ _ _ act => act
  | _ => acc

/-- A load instruction has data outstanding for lanes of a block (R67). -/
def State.opPending (s : State) (id : Nat) (lanes : Lanes) : Bool :=
  match s.op? id with
  | some o => pendingLanes o &&& lanes != 0
  | none => false

/-- Lane base of the first of the blocks that become parts. -/
def lowestBase : List Block → Nat
  | b :: _ => b.base
  | [] => 0

/-- A part of a division (R55, R67): counts, registers, frames and records copied; LD restricted to the block; every access of
the parent precedes its own, those of loads that it does not count among them (R207); pending failures stay with the lowest part, which
has the lane base `first`. -/
def State.childPart (s : State) (p : Part) (first : Nat) (b : Block) : Part :=
  let m := laneRange b.base b.width
  { p with
    base := b.base
    width := b.width
    cur := p.cur &&& m
    waiting := 0
    resume := []
    ldOps := p.ldOps.filter (fun id => s.opPending id m)
    before := (p.ldOps.filter (fun id => (s.op? id).isSome && !s.opPending id m)) ++ p.before.filter (fun id => (s.op? id).isSome)
    fails := if b.base = first then p.fails else []
    held := if b.base = first then p.held else [] }

/-- Replaces a part by others, which stand in increasing lane base, and adds latent blocks; of an empty block whose lanes have all
exited, only exited quads are left (R52). -/
def Wave.replacePart (w : Wave) (base : Nat) (ps : List Part) (latent : List (Nat × Nat)) : Wave :=
  { w with parts := w.parts.flatMap (fun p => if p.base = base then ps else [p])
           latent := w.latent ++ latent.filter (fun b => laneRange b.1 b.2 &&& ~~~w.exited != 0)
           divided := w.divided || decide (1 < ps.length) }

/-- Puts the current path under a mask (R57): lanes of `taken` stand at the target, others at the fall-through; the
part goes on at the lower address, and yields when that path took a backward branch. -/
def Part.maskPaths (p : Part) (taken : Lanes) (own target fall : W64) : Part :=
  let t := p.cur &&& taken
  let n := p.cur &&& ~~~taken
  let tFirst := decide (target.toNat < fall.toNat)
  let now := if tFirst then t else n
  let later := if tFirst then n else t
  let q := setResume { p with waiting := p.waiting ||| later, cur := now } later (if tFirst then fall else target)
  let q := q.moveTo (if tFirst then target else fall)
  if tFirst ∧ target.toNat ≤ own.toNat ∧ q.waiting ≠ 0 then q.switchPath else q

/-- A divergent branch (R54, R55, R57): every resulting part may issue four cycles later (R56). -/
def State.diverge (s : State) (c : Ctx) (taken : Lanes) (target fall : W64) : State :=
  let p := c.part
  let issue := fun (q : Part) => q.issued s.dcc 4
  if p.waiting ≠ 0 ∨ !policyOn p p.regs.split then s.updPart c.ref (fun q => issue (q.maskPaths taken p.pc target fall))
  else
    let act := c.emask
    let blocks := divide act taken (minWidth p) 5 p.base p.width
    let real := blocks.filter (fun b => b.cls != .empty)
    let latent := (blocks.filter (fun b => b.cls == .empty)).map (fun b => (b.base, b.width))
    let parts := real.map (fun b =>
      let q := s.childPart p (lowestBase real) b
      match b.cls with
      | .taken => issue { q with pc := target }
      | .mixed => issue ({ q with pc := p.pc }.maskPaths (taken &&& act) p.pc target fall)
      | _ => issue { q with pc := fall })
    s.updWave c.ref.key (fun w => w.replacePart p.base parts latent)

/-! ### Where lanes stand -/

/-- The instruction at an address of a part's address space, if it can be fetched and decoded. -/
def State.instrAt (s : State) (core : Nat) (asid : BitVec 16) (pc : W64) : Option Instr :=
  let word := fun (a : Nat) =>
    match s.walk (dieOf core) asid a with
    | .leaf pte p => if (s.leafFault .fetch pte (paOf pte p a)).isNone then some (readBytes s.mem (paOf pte p a) 4) else none
    | _ => none
  match word pc.toNat with
  | none => none
  | some w0 =>
    match decodeBytes (w0 ++ (word (pc.toNat + 4)).getD []) with
    | .instr i => some i
    | .bad _ => none

/-- Kinds of instruction that lanes wait at (R57, R65). -/
inductive Stand where
  | conf | forced | barrier | other
  deriving DecidableEq, Repr

/-- The kind of an instruction for R57 and R65: a confluence point, a forced-fuse point, or a barrier wait. `bar` and
`rbar` are both of the last two. -/
def standOf : Instr → Stand
  | .conf _ => .conf
  | .barw _ => .barrier
  | .bar _ => .barrier
  | .barExt _ _ => .barrier
  | .rbar _ => .barrier
  | .rbarExt _ _ => .barrier
  | .shfl _ => .forced
  | .shflExt _ _ => .forced
  | .vote _ => .forced
  | .voteExt _ _ => .forced
  | .redu _ => .forced
  | .reduExt _ _ => .forced
  | .scan _ => .forced
  | .scanExt _ _ => .forced
  | .rdlane _ => .forced
  | .rdlaneExt _ _ => .forced
  | .wrlane _ _ => .forced
  | .qperm _ => .forced
  | .qpermExt _ _ => .forced
  | .mma _ _ => .forced
  | .tcopy _ _ => .forced
  | .regrel _ _ => .forced
  | .regclm _ _ => .forced
  | .gcall _ _ => .forced
  | .gret _ => .forced
  | .fuse _ => .forced
  | _ => .other

def State.standAt (s : State) (core : Nat) (p : Part) (pc : W64) : Stand :=
  match s.instrAt core p.regs.asid pc with
  | some i => standOf i
  | none => .other

/-- Every waiting lane of a masked part stands at a confluence point, a forced-fuse point or a barrier wait other than
the one at `pc` (R57). -/
def State.stuckWaiting (s : State) (core : Nat) (p : Part) : Bool :=
  (lanesOf p.waiting).all (fun l => resumeOf p l != p.pc && s.standAt core p (resumeOf p l) != .other)

/-- The FUSEFAIL detail a masked part takes at a forced-fuse point: some waiting lane stands at a different forced-fuse
point (2) or at a barrier wait (3), with that lane (R57, R65). -/
def State.maskedFail (s : State) (core : Nat) (p : Part) : Option (Nat × Nat) :=
  (lanesOf p.waiting).findSome? (fun l =>
    if resumeOf p l = p.pc then none
    else match s.standAt core p (resumeOf p l) with
      | .forced => some (2, l)
      | .barrier => some (3, l)
      | _ => none)

/-- A forced-fuse point: `bar` and `rbar` among them (R63, R405, R468). -/
def isForcedPoint : Instr → Bool
  | .bar _ => true
  | .barExt _ _ => true
  | .rbar _ => true
  | .rbarExt _ _ => true
  | i => standOf i == .forced

/-- A channel operation has its credit or its message (08 R205). -/
def State.isServed (s : State) (op : Nat) : Bool :=
  match s.op? op with
  | none => true
  | some o => match o.kind with
    | .chsend _ _ => o.acted
    | _ => !o.parked

/-- The part may go on at its PC: nothing that its last instruction waits for is left. -/
def State.arrived (s : State) (p : Part) : Bool :=
  match p.park with
  | .running => true
  | .on (.served op) => s.isServed op
  | _ => false

/-- The current path has reached a `conf`, a forced-fuse point or the `tret` of its handler, where it yields to the part's
waiting lanes (R57; 12 R278). -/
def State.pathYields (s : State) (core : Nat) (p : Part) : Bool :=
  p.waiting != 0 && s.arrived p &&
  (match s.instrAt core p.regs.asid p.pc with
    | some (.conf _) => !s.stuckWaiting core p
    | some (.tret _) => p.tcode != 0
    | some i => isForcedPoint i && (s.maskedFail core p).isNone
    | none => false)

/-- Switches paths until the current one goes on; a switch takes no cycle (23 R512). -/
def State.settlePath (s : State) (core : Nat) : Nat → Part → Part
  | 0, p => p
  | n + 1, p => if s.pathYields core p then s.settlePath core n { p.switchPath with park := .running } else p

/-- The path switches of a cycle (R57, 23 R512). -/
def State.settlePaths (s : State) : State :=
  { s with waves := s.waves.map (fun (e : Nat × Wave) =>
      if e.2.parts.any (fun p => s.pathYields e.2.core p) then
        (e.1, { e.2 with parts := e.2.parts.map (s.settlePath e.2.core 64) })
      else e) }

/-! ### Fusion (R60, R64, R67) -/

def sameFrames (p q : Part) : Bool := p.frames.map (fun f => f.uid) == q.frames.map (fun f => f.uid)

/-- Merges operation lists by issue order; an operation held twice is counted twice (R69). -/
def mergeOps : List Nat → List Nat → List Nat
  | [], b => b
  | x :: a, b => insertOp x (mergeOps a b)
where
  insertOp (x : Nat) : List Nat → List Nat
    | [] => [x]
    | y :: r => if x ≤ y then x :: y :: r else y :: insertOp x r

/-- Merges two lists of young operations, youngest first. -/
def mergeRecent (a b : List (Cls × Nat)) : List (Cls × Nat) :=
  let c := a.foldl (fun l x => if l.contains x then l else ins x l) b
  c
where
  ins (x : Cls × Nat) : List (Cls × Nat) → List (Cls × Nat)
    | [] => [x]
    | y :: r => if y.2 ≤ x.2 then x :: y :: r else y :: ins x r

/-- Merges pending deliveries, those of older operations first (08 R191; 09 R224; 10 R246). -/
def mergeDeliveries : List Delivery → List Delivery → List Delivery
  | [], b => b
  | x :: a, b => ins x (mergeDeliveries a b)
where
  ins (x : Delivery) : List Delivery → List Delivery
    | [] => [x]
    | y :: r => if x.op ≤ y.op then x :: y :: r else y :: ins x r

/-- The part with the lower lane base takes in the other one at a common address (R67). -/
def mergeParts (lo hi : Part) (base width now : Nat) : Part :=
  { lo with
    base := base
    width := width
    cur := lo.cur ||| hi.cur
    waiting := 0
    resume := []
    regs := { lo.regs with
      fpstat := lo.regs.fpstat ||| hi.regs.fpstat
      status := lo.regs.status ||| hi.regs.status
      amaxv := if hi.regs.amaxv.toNat < lo.regs.amaxv.toNat then lo.regs.amaxv else hi.regs.amaxv
      amaxnan := lo.regs.amaxnan || hi.regs.amaxnan }
    ldOps := mergeOps lo.ldOps hi.ldOps
    stOps := mergeOps lo.stOps hi.stOps
    cpOps := mergeOps lo.cpOps hi.cpOps
    mxOps := mergeOps lo.mxOps hi.mxOps
    recent := mergeRecent lo.recent hi.recent
    region := lo.pc
    regionAt := now
    regionCount := max lo.regionCount hi.regionCount
    lastIssue := min lo.lastIssue hi.lastIssue
    busy := lo.busy ++ hi.busy
    arrivals := hi.arrivals.foldl (fun t a => putT t a.1 (max a.2 (getT a.2 t a.1))) lo.arrivals
    fails := mergeDeliveries lo.fails hi.fails
    held := mergeDeliveries lo.held hi.held
    acquiring := lo.acquiring ++ hi.acquiring
    before := hi.before.foldl addNew lo.before
    statusNew := if lo.statusAt = hi.statusAt then lo.statusNew ||| hi.statusNew else if hi.statusAt < lo.statusAt then lo.statusNew else hi.statusNew
    statusAt := max lo.statusAt hi.statusAt
    raised := 0
    flags := lo.flags ++ hi.flags }

/-- The part stands parked at the point: the same address, frames and kind of park, holding one path. -/
def standsWith (p q : Part) : Bool :=
  p.pc == q.pc && sameFrames p q && q.waiting == 0 && q.tcode == 0 && !p.stopped && !q.stopped &&
  (match p.park, q.park with
    | .conf _ _, .conf _ _ => true
    | .forced _, .forced _ => true
    | _, _ => false)

/-- Quads of a block, by their lowest lane. -/
def blockQuads (base width : Nat) : List Nat := (List.range (width / 4)).map (fun q => base + 4 * q)
/-- Lanes of the latent blocks within a block that have not exited: they join the current path of the part that absorbs them
(R52, R54). -/
def Wave.latentLanes (w : Wave) (base width : Nat) : Lanes :=
  (w.latent.filter (fun b => inBlock base width b.1)).foldl (fun m b => m ||| laneRange b.1 b.2) 0 &&& ~~~w.exited

/-- The buddy block of a part is present: its quads lie in latent blocks and at most one part, which stands with it. -/
def Wave.buddyPart (w : Wave) (p : Part) : Option (Option Part) :=
  let bb := if p.base / p.width % 2 = 0 then p.base + p.width else p.base - p.width
  let ps := w.parts.filter (fun q => inBlock bb p.width q.base)
  let covered := (blockQuads bb p.width).all (fun l => w.latentQuad l || (w.quadPart l).isSome)
  match ps with
  | [] => if covered then some none else none
  | [q] => if covered && standsWith p q then some (some q) else none
  | _ => none

/-- One fusion of the part at `base`: the wave after it, and the base of the fused part. -/
def Wave.fuseOnce (w : Wave) (now base : Nat) : Option (Wave × Nat) :=
  match w.part? base with
  | none => none
  | some p =>
    if w.width ≤ p.width then none
    else
      match w.buddyPart p with
      | none => none
      | some oq =>
        let b := p.base / (2 * p.width) * (2 * p.width)
        let f := match oq with
          | none => { p with base := b, width := 2 * p.width, region := p.pc, regionAt := now }
          | some q => if p.base < q.base then mergeParts p q b (2 * p.width) now else mergeParts q p b (2 * p.width) now
        let f := { f with park := p.park, confId := p.confId, cur := f.cur ||| w.latentLanes b (2 * p.width) }
        let others := w.parts.filter (fun q => !inBlock b (2 * p.width) q.base)
        let before := others.filter (fun q => decide (q.base < b))
        let after := others.filter (fun q => !decide (q.base < b))
        some ({ w with parts := before ++ [f] ++ after, latent := w.latent.filter (fun l => !inBlock b (2 * p.width) l.1) }, b)

/-- Fuses pairwise up to a width. -/
def Wave.fuseClimb (w : Wave) (now base upTo : Nat) : Nat → Wave × Nat × Bool
  | 0 => (w, base, false)
  | fuel + 1 =>
    match w.part? base with
    | none => (w, base, false)
    | some p =>
      if upTo ≤ p.width then (w, base, false)
      else
        match w.fuseOnce now base with
        | none => (w, base, false)
        | some (w', b) =>
          let r := w'.fuseClimb now b upTo fuel
          (r.1, r.2.1, true)

/-- A quad every lane of which has exited. -/
def Wave.quadExited (w : Wave) (l : Nat) : Bool := w.exited &&& laneRange l 4 == laneRange l 4

/-- A part waits at a barrier (`barw`, `bar`, `rbar`), for its release actions among others (19 R405, R406). -/
def barrierPark : Park → Bool
  | .barrier _ _ => true
  | .rbar _ _ _ => true
  | .on (.barPhase _ _ _) => true
  | .on .barQuiet => true
  | .on (.backs b) => b
  | _ => false

def forcedPark : Park → Bool
  | .forced _ => true
  | _ => false

/-- A confluence wait ends at once: a quad of the buddy block has exited, is parked at a forced-fuse point or a barrier
wait, or has other gate frames (R61). -/
def Wave.confHopeless (w : Wave) (p : Part) : Bool :=
  let bb := if p.base / p.width % 2 = 0 then p.base + p.width else p.base - p.width
  (blockQuads bb p.width).any (fun l =>
    w.quadExited l ||
    (match w.quadPart l with
      | some q => forcedPark q.park || barrierPark q.park || !sameFrames p q
      | none => false))

/-- The part passes its `conf` and goes on. -/
def Part.passConf (p : Part) (now d : Nat) : Part := (p.moveTo (p.pc + 4)).issued now d

/-- A wait that a save left the part with, unless it is that of the instruction at `pc`, which has taken it. -/
def takenAt (pc : W64) (e : Option (W64 × Nat)) : Option (W64 × Nat) := e.filter (fun x => x.1 != pc)
/-- The deadline of a `sleep` or `sleepat` that begins now: the one that a save left the part with, if it is for this instruction
(R490; DEDUCED, notes/assumptions/53.md). -/
def Part.sleepDeadline (p : Part) (t : Nat) : Nat :=
  match p.sleepLeft with
  | some (pc, d) => if pc = p.pc then d else t
  | none => t
/-- The deadline of a wait at `conf` that begins now: the one that a save left the part with, if it is for this `conf`, else a
timeout of `t` cycles from now (R60, R74; DEDUCED, notes/assumptions/53.md). -/
def Part.confDeadline (p : Part) (now t : Nat) : Nat :=
  match p.confLeft with
  | some (pc, d) => if pc = p.pc then max d now else now + t
  | none => now + t

/-- A part arrives at `conf` with a timeout of `t` cycles (R60, R61). -/
def State.arriveConf (s : State) (c : Ctx) (id t : Nat) : State :=
  let due := c.part.confDeadline s.dcc t
  let s := s.updPart c.ref (fun p => { p with confId := id, lastIssue := s.dcc, park := .conf s.dcc due, confLeft := takenAt p.pc p.confLeft })
  match s.wave? c.ref.key with
  | none => s
  | some w =>
    match w.fuseClimb s.dcc c.ref.base w.width 6 with
    | (w, b, true) =>
      let r : PartRef := { c.ref with base := b }
      let s := (s.putWave c.ref.key w)
      let s := s.updPart r (fun p =>
        if p.width = w.width then { p.passConf s.dcc 2 with lastIssue := p.lastIssue }
        else { p with park := .conf s.dcc due, notBefore := s.dcc + 2 })
      (s.creditPopped r c.wave).recordRays r
    | _ =>
      match w.part? c.ref.base with
      | none => s
      | some p => if w.confHopeless p then s.updPart c.ref (fun p => p.passConf s.dcc 1) else s

/-- A part parks at a forced-fuse point of an effective width, and fuses with what is there (R64). -/
def State.arriveForced (s : State) (c : Ctx) (eff : Nat) : State :=
  let s := s.parkPart c.ref (.forced eff)
  match s.wave? c.ref.key with
  | none => s
  | some w =>
    match w.fuseClimb s.dcc c.ref.base eff 6 with
    | (w, b, true) =>
      let r : PartRef := { c.ref with base := b }
      let s := s.putWave c.ref.key w
      let s := s.updPart r (fun p =>
        if eff ≤ p.width then { p with park := .running, notBefore := s.dcc + 2 } else p)
      (s.creditPopped r c.wave).recordRays r
    | _ => s

/-- The forced-fuse point at which a part stood when the end of the cycle was examined: one that has taken its own FUSEFAIL in this
cycle stands in its handler by now (R65). -/
def Part.forcedAt (p : Part) (now : Nat) : Option W64 :=
  if forcedPark p.park then some p.pc
  else if p.tcode.toNat = tcFusefail ∧ p.lastIssue = now then p.tframe.map (fun f => f.resume)
  else none

/-- A part is inside every gate call that another one is inside. -/
def Part.inCallsOf (p q : Part) : Bool := (q.frames.map (fun f => f.uid)).isSuffixOf (p.frames.map (fun f => f.uid))

/-- The FUSEFAIL that a part parked at a forced-fuse point takes, of what the quads of its block are in: detail and lane (R65). A part in
a trap handler, or inside a gate call that this one is not in, is awaited (R72, R73). -/
def State.fuseFailOf (s : State) (w : Wave) (p : Part) (eff : Nat) : Option (Nat × Nat) :=
  let b := p.base / eff * eff
  (blockQuads b eff).findSome? (fun l =>
    if w.quadExited l then some (1, l)
    else
      match w.quadPart l with
      | none => none
      | some q =>
        if !p.inCallsOf q then none
        else if (q.forcedAt s.dcc).isSome ∧ q.forcedAt s.dcc ≠ some p.pc then some (2, l)
        else if q.tcode ≠ 0 then none
        else if barrierPark q.park then some (3, l)
        else
          (lanesOf (q.waiting &&& laneRange l 4)).findSome? (fun k =>
            if resumeOf q k = p.pc then none
            else match s.standAt w.core q (resumeOf q k) with
              | .forced => some (2, l)
              | .barrier => some (3, l)
              | _ => none))

/-! ### Splitting on a miss (R58) -/

/-- Lanes of a part that await data of an outstanding load. -/
def State.awaiting (s : State) (p : Part) : Lanes :=
  p.ldOps.foldl (fun m id => match s.op? id with | some o => m ||| pendingLanes o | none => m) 0

/-- Divides a part parked at an S marker into complete and waiting parts; unchanged but for its count when its quads
are not of both classes. -/
def State.divideOnMiss (s : State) (r : PartRef) (w : Wave) (p : Part) : State :=
  let act := p.cur &&& ~~~w.off &&& ~~~w.exited
  let wait := s.awaiting p
  -- a quad is complete when no lane of it awaits data
  let complete := (blockQuads p.base p.width).foldl (fun m l =>
    if wait &&& laneRange l 4 = 0 then m ||| laneRange l 4 else m) (0 : Lanes)
  let blocks := divide act complete (minWidth p) 5 p.base p.width
  match blocks with
  | [_] => s.updPart r (fun p => { p with parkedAt := s.dcc + 1 })
  | _ =>
    let latent := (blocks.filter (fun b => b.cls == .empty)).map (fun b => (b.base, b.width))
    let real := blocks.filter (fun b => b.cls != .empty)
    let parts := real.map (fun b =>
      let q := s.childPart p (lowestBase real) b
      if b.cls = .taken then { q with park := .running, notBefore := s.dcc + 1 } else { q with parkedAt := s.dcc + 1 })
    s.updWave r.key (fun w => w.replacePart p.base parts latent)

end Sys2Proof.Machine
end

