-- ==== Sys2Proof/Machine/Issue.lean ====
section
/-! DEFINITION. The issue of a fetched instruction: the checks of 05 R114 in their order, the parks before issue
(R64, R116, R69, 09 R216), the delivery of held failures (08 R191, R195), and the part-level forms that many
instructions share. -/

namespace Sys2Proof.Machine

abbrev Out := Host.Outcome State Fault Refusal

/-- What the checks before issue need of an instruction (R114). `pre` holds the checks of step 4 that depend on the
state: code, DETAIL, TADDR. `regs` lists the vector operands in the order of R81. `ff` gives the effective width of a
forced-fuse point. `mem` marks the memory, queue, channel and engine instructions that an acquire holds back. -/
structure Hdr where
  s : Bool
  len : Nat
  priv : Bool := false
  pre : Ctx → State → Option (Nat × Nat × W64) := fun _ _ => none
  regs : Ctx → State → List Vop := fun _ _ => []
  ff : Option (Ctx → State → Nat) := none
  cls : Option Cls := none
  mem : Bool := false
  /-- a confluence point, whose park at S never divides the part (03 R58) -/
  point : Bool := false

/-- Operations of a class a part counts. -/
def Part.opsOf (p : Part) : Cls → List Nat
  | .ld => p.ldOps
  | .st => p.stOps
  | .cp => p.cpOps
  | .mx => p.mxOps
def Part.setOps (p : Part) (k : Cls) (l : List Nat) : Part :=
  match k with
  | .ld => { p with ldOps := l }
  | .st => { p with stOps := l }
  | .cp => { p with cpOps := l }
  | .mx => { p with mxOps := l }
/-- Counts a new operation, and notes it among the youngest of its class (R69, R224). -/
def Part.addOp (p : Part) (k : Cls) (id : Nat) : Part :=
  let mine := ((p.recent.filter (fun e => e.1 == k)).take 126)
  let q := p.setOps k (p.opsOf k ++ [id])
  { q with recent := (k, id) :: p.recent.filter (fun e => e.1 != k || mine.contains e) }
def Part.count (p : Part) (k : Cls) : Nat := (p.opsOf k).length

/-- The operation is older than the youngest `n` of its class (R224). -/
def Part.olderThan (p : Part) (k : Cls) (n id : Nat) : Bool :=
  !(((p.recent.filter (fun e => e.1 == k)).take n).contains (k, id))

/-- The failure of the oldest operation of a list (10 R246). -/
def oldestOf (ds : List Delivery) : Option Delivery :=
  ds.foldl (fun acc d =>
    match acc with
    | none => some d
    | some e => if d.op < e.op then some d else some e) none

/-- The oldest held failure of the given classes, unless a handler holds it back (12 R276). -/
def Part.heldOf (p : Part) (ks : List Cls) : Option Delivery :=
  if p.tcode = 0 then oldestOf (p.held.filter (fun d => ks.contains d.cls)) else none

/-- Delivers a held failure, which is then no longer pending. -/
def State.deliverHeld (s : State) (c : Ctx) (d : Delivery) : State :=
  (s.updPart c.ref (fun p => { p with held := p.held.erase d })).deliver c d

/-- Side-log entries of a part that have not replayed. -/
def State.partLogged (s : State) (core : Nat) (p : Part) : Bool :=
  (s.core core).sideLog.any (fun e => p.stOps.contains e.op)

/-- Every access of a part, and every one made before the split that created it, has performed, and none stands in the side log
(09 R207, R217, R218). -/
def State.drained (s : State) (core : Nat) (p : Part) : Bool :=
  p.ldOps == [] && p.stOps == [] && p.before.all (fun id => (s.op? id).isNone)
  && !(s.core core).sideLog.any (fun e => p.before.contains e.op) && !s.partLogged core p

/-- Parks a part until a condition holds. -/
def State.parkOn (s : State) (c : Ctx) (w : Wait) : State := s.parkPart c.ref (.on w)

/-- MW code as a number of lanes (03 R62, R63), at least 16 in Farnak 2 compatibility mode (16 R365). -/
def Ctx.effWidth (c : Ctx) (code : Nat) : Nat :=
  let w := if c.part.tcode ≠ 0 then c.part.width
    else if code = 0 then c.wave.width else min (2 ^ (code + 1)) c.wave.width
  if c.wave.cm then max 16 w else w
/-- Effective width of a cross-lane forced-fuse point: 16 in Farnak 2 compatibility mode (16 R365). -/
def Ctx.crossWidth (c : Ctx) (code : Nat) : Nat := if c.wave.cm then 16 else c.effWidth code

/-- The park at a forced-fuse point (R57, R64, R65); none when the part may issue. -/
def State.forcedFuse (s : State) (c : Ctx) (eff : Nat) : Option State :=
  if c.part.waiting ≠ 0 then
    match s.maskedFail c.ref.core c.part with
    -- it parks, and takes FUSEFAIL as the cycle ends
    | some _ => some (s.parkPart c.ref (.forced eff))
    | none => some (s.updPart c.ref (fun p => p.switchPath.issued s.dcc 1))
  else if c.part.width < eff then some (s.arriveForced c eff)
  else none

/-- The checks of R114 after decoding, the parks, then the instruction's own effect. -/
def issueIn (h : Hdr) (eff : Ctx → State → State) (c : Ctx) (s : State) : State :=
  if h.priv && !c.part.regs.privseg then s.precise c tcPriv 0 0
  else
    match h.pre c s with
    | some (code, detail, taddr) => s.precise c code detail taddr
    | none =>
      match checkVops (h.regs c s) c.wb c.allot with
      | some (code, reg) => s.precise c code 0 (BitVec.ofNat 64 reg)
      | none =>
        if h.s && c.part.ldOps != [] then s.parkOn c (if h.ff.isSome || h.point then .ldPoint else .ldZero)
        else
          match (if h.s then c.part.heldOf [.ld] else none) with
          | some d => s.deliverHeld c d
          | none =>
            match h.ff.bind (fun w => s.forcedFuse c (w c s)) with
            | some s' => s'
            | none =>
              if h.mem && c.part.acquiring != [] then s.parkOn c (.ops c.part.acquiring)
              else
                match h.cls with
                | some k => if 255 ≤ c.part.count k then s.parkOn c (.count k 254) else eff c s
                | none => eff c s

/-- Issues an instruction in the part whose turn it is. -/
def issue (h : Hdr) (eff : Ctx → State → State) (s : State) : Out :=
  match s.issuing with
  | none => .fault .noIssuingPart
  | some c => .next (issueIn h eff c s)

/-- Address of the instruction's extension word, and of its first word, for TADDR (R113). -/
def wordAddr (c : Ctx) (i : Nat) : W64 := c.part.pc + BitVec.ofNat 64 (4 * i)
/-- ILLEGAL at a word of the instruction. -/
def illegalAt (c : Ctx) (i : Nat) (bad : Bool) : Option (Nat × Nat × W64) :=
  if bad then some (tcIllegal, 0, wordAddr c i) else none
/-- GATE with DETAIL 5 for an instruction forbidden inside a gate call (13 R306). -/
def gateBan (c : Ctx) : Option (Nat × Nat × W64) :=
  if c.part.frames = [] then none else some (tcGate, 5, 0)

/-- The next address. -/
def Ctx.next (c : Ctx) (len : Nat) : W64 := c.part.pc + BitVec.ofNat 64 len

/-- Completes a fixed-latency instruction (R117). -/
def State.done (s : State) (c : Ctx) (len : Nat) : State := s.finish c.ref (c.next len) 1

/-- Per-element computation over the active lanes: every source is read before any destination is written (04 R82);
the flags of every element are ORed, helper lanes' apart (07 R160, 20 R433). -/
def elementWrites (c : Ctx) (act : Lanes) (d : Vop) (f : Nat → Nat → Nat → FRes) : List (Nat × Nat × W32) × Flags :=
  (lanesOf act).foldl (fun acc l =>
    d.elems.foldl (fun acc p =>
      let r := f l p.1 p.2
      (acc.1 ++ c.wr l d p.1 p.2 r.bits, if c.wave.helper.getLsbD l then acc.2 else acc.2 ||| r.fl)) acc) ([], 0)

/-- A vector instruction that writes D and FPSTAT. -/
def vectorOp (s : Bool) (len : Nat) (o : XaForm) (srcs : Ctx → List Src) (f : Ctx → Nat → Nat → Nat → FRes) : State → Out :=
  issue
    { s := s, len := len, regs := fun c _ => o.d c :: (srcs c).flatMap Src.vops }
    (fun c st =>
      let w := elementWrites c (c.xaActive o.x) (o.d c) (f c)
      ((st.putV c w.1).updPart c.ref (fun p => p.orFp w.2)).done c len)

/-- A vector instruction that writes predicate D[2:0] in its active lanes, and FPSTAT. -/
def predicateOp (s : Bool) (len : Nat) (o : XaForm) (srcs : Ctx → List Src) (f : Ctx → Nat → Bool × Flags) : State → Out :=
  issue
    { s := s, len := len, regs := fun c _ => (srcs c).flatMap Src.vops }
    (fun c st =>
      let act := c.xaActive o.x
      let r := (lanesOf act).foldl (fun acc l =>
        let v := f c l
        ((if v.1 then acc.1 ||| laneBit l else acc.1), (if c.wave.helper.getLsbD l then acc.2 else acc.2 ||| v.2))) ((0 : Lanes), (0 : Flags))
      let st := st.updWave c.ref.key (fun w => w.setP (o.r.d.toNat % 8) act r.1)
      (st.updPart c.ref (fun p => p.orFp r.2)).done c len)

/-- A uniform instruction that writes s(D). -/
def uniformOp (s : Bool) (len d : Nat) (f : Ctx → W64) : State → Out :=
  issue { s := s, len := len } (fun c st => (st.updPart c.ref (fun p => p.setS d (f c))).done c len)

end Sys2Proof.Machine
end

