-- ==== Sys2Proof/Machine/Uniform.lean ====
section
/-! DEFINITION. The uniform group but for its memory instructions (05 R122; 22 R478-R480). -/

namespace Sys2Proof.Machine

/-- The second operand of class U: s(B), or the unsigned immediate (05 R99). -/
def uSecond (u : UWord) (c : Ctx) : W64 := if u.k then BitVec.ofNat 64 u.b.toNat else c.sreg u.b.toNat

/-- s(D) := s(A) op b (R478). -/
def uniformArith (u : UWord) (f : W64 → W64 → W64) : State → Out :=
  uniformOp u.s 4 u.d.toNat (fun c => f (c.sreg u.a.toNat) (uSecond u c))

/-- The high half of the unsigned product (R478). -/
def mulHigh (a b : W64) : W64 := BitVec.ofNat 64 (a.toNat * b.toNat / 2 ^ 64)

/-- `sadd` (R478). -/
def execSadd (u : UWord) : State → Out := uniformArith u (fun a b => a + b)
/-- `ssub` (R478). -/
def execSsub (u : UWord) : State → Out := uniformArith u (fun a b => a - b)
/-- `smul` (R478). -/
def execSmul (u : UWord) : State → Out := uniformArith u (fun a b => a * b)
/-- `smulh` (R478). -/
def execSmulh (u : UWord) : State → Out := uniformArith u (fun a b => mulHigh a b)
/-- `sand` (R478). -/
def execSand (u : UWord) : State → Out := uniformArith u (fun a b => a &&& b)
/-- `sor` (R478). -/
def execSor (u : UWord) : State → Out := uniformArith u (fun a b => a ||| b)
/-- `sxor` (R478). -/
def execSxor (u : UWord) : State → Out := uniformArith u (fun a b => a ^^^ b)
/-- `sshl` (R478). -/
def execSshl (u : UWord) : State → Out := uniformArith u (fun a b => a <<< (b.toNat % 64))
/-- `sshr` (R478). -/
def execSshr (u : UWord) : State → Out := uniformArith u (fun a b => a >>> (b.toNat % 64))
/-- `ssar` (R478). -/
def execSsar (u : UWord) : State → Out := uniformArith u (fun a b => a.sshiftRight (b.toNat % 64))
/-- `smin` (R478). -/
def execSmin (u : UWord) : State → Out := uniformArith u (fun a b => if a.slt b then a else b)
/-- `smax` (R478). -/
def execSmax (u : UWord) : State → Out := uniformArith u (fun a b => if a.slt b then b else a)

/-- `smov` (R479). -/
def execSmov (u : UWord) : State → Out := uniformOp u.s 4 u.d.toNat (fun c => c.sreg u.a.toNat)
/-- `smovi` (R479). -/
def execSmovi (u : UWord) (x : W32) : State → Out := uniformOp u.s 8 u.d.toNat (fun _ => x.signExtend 64)
/-- `smovh` (R479): bits 31:0 stay. -/
def execSmovh (u : UWord) (x : W32) : State → Out :=
  uniformOp u.s 8 u.d.toNat (fun c => x ++ (c.sreg u.d.toNat).extractLsb' 0 32)

/-- A comparison condition of R132 on integers. -/
def condHolds (sub : Nat) (a b : Int) : Bool :=
  match sub with
  | 0 => a == b
  | 1 => a != b
  | 2 => decide (a < b)
  | 3 => decide (a ≤ b)
  | 4 => decide (b < a)
  | _ => decide (b ≤ a)

/-- `scmp` (R480): s64 compares signed, n64 unsigned. -/
def execScmp (u : UWord) (x : XaWord) : State → Out :=
  uniformOp u.s 8 u.d.toNat (fun c =>
    let ty := x.ty.toNat
    if condHolds x.sub.toNat (intOf ty (c.sreg u.a.toNat).toNat) (intOf ty (uSecond u c).toNat) then 1 else 0)

/-- `ssel` (R480). -/
def execSsel (u : UWord) (x : XaWord) : State → Out :=
  uniformOp u.s 8 u.d.toNat (fun c =>
    if c.sreg (x.c.toNat % 64) ≠ 0 then c.sreg u.a.toNat else uSecond u c)

end Sys2Proof.Machine
end

