-- ==== Sys2Proof/Machine/Control.lean ====
section
/-! DEFINITION. The control group but for the gate instructions and `phint` (05 R121; 12 R278-R281; 19 R410; 20 R428-R430,
R442; 21 R454, R475; 22 R490, R509). -/

namespace Sys2Proof.Machine

/-- A part-level instruction that only advances the part, after an update of it. -/
def partOp (sBit : Bool) (len : Nat) (f : Ctx → Part → Part) : State → Out :=
  issue { s := sBit, len := len } (fun c st => (st.updPart c.ref (f c)).done c len)

/-- `nop` (R454). -/
def execNop (r : RWord) : State → Out := partOp r.s 4 (fun _ p => p)
/-- `nop` with an XI word of any value (R454). -/
def execNopXi (r : RWord) (_x : W32) : State → Out := partOp r.s 8 (fun _ p => p)

/-! ### Branches (19 R410) -/

/-- A transfer of the current path; the next issue is four cycles later (03 R56). -/
def State.branchTo (s : State) (c : Ctx) (target : W64) : State :=
  s.updPart c.ref (fun p => (p.jumpTo c.part.pc target).issued s.dcc 4)
/-- A branch that is not taken. -/
def State.fallThrough (s : State) (c : Ctx) : State := s.finish c.ref (c.next 4) 4

/-- `bra`. -/
def execBra (j : JWord) : State → Out :=
  issue { s := j.s, len := 4 } (fun c st => st.branchTo c (jTarget c.part.pc j.off))
/-- `call`: s63 takes the return address. -/
def execCall (j : JWord) : State → Out :=
  issue { s := j.s, len := 4 } (fun c st =>
    (st.updPart c.ref (fun p => p.setS 63 (c.next 4))).branchTo c (jTarget c.part.pc j.off))
/-- `bru`: taken when the predicate is true in an active lane. -/
def execBru (w : PWord) : State → Out :=
  issue { s := w.s, len := 4 } (fun c st =>
    if c.active w.pred.toNat w.neg ≠ 0 then st.branchTo c (pTarget c.part.pc w.off) else st.fallThrough c)
/-- `brp`: falls through, branches, divides the part, or masks its paths. -/
def execBrp (w : PWord) : State → Out :=
  issue { s := w.s, len := 4 } (fun c st =>
    let t := c.active w.pred.toNat w.neg
    if t = 0 then st.fallThrough c
    else if t = c.emask then st.branchTo c (pTarget c.part.pc w.off)
    else st.diverge c t (pTarget c.part.pc w.off) (c.next 4))

/-- A transfer to an address in a uniform register (R442). -/
def registerJump (u : UWord) : State → Out :=
  issue { s := u.s, len := 4 } (fun c st =>
    let t := c.sreg u.a.toNat
    if t.toNat / 2 ^ 57 ≠ 0 then st.precise c tcAccess 5 t
    else if t.toNat % 4 ≠ 0 then st.precise c tcAlign 0 t
    else st.branchTo c t)
/-- `jmp`. -/
def execJmp (u : UWord) : State → Out := registerJump u
/-- `ret` (R475). -/
def execRet (u : UWord) : State → Out := registerJump u

/-! ### Confluence and forced fuse (03 R59-R66) -/

/-- Cycles of a timeout class. -/
def confTimeout (tclass : Nat) : Nat :=
  if tclass = 0 then 0 else if tclass = 1 then 64 else if tclass = 2 then 1024 else 16384

/-- `conf`: it waits for LD, then for its buddy block; in a handler and at the nominal width it passes at once. A masked
part first gathers its lanes, or passes when no switch can (R57). -/
def execConf (r : RWord) : State → Out :=
  issue { s := true, len := 4, point := true } (fun c st =>
    let p := c.part
    let id := r.b.toNat % 16
    if p.waiting ≠ 0 then
      if st.stuckWaiting c.ref.core p then st.updPart c.ref (fun p => { p.passConf st.dcc 1 with confId := id })
      else st.updPart c.ref (fun p => p.switchPath.issued st.dcc 1)
    else if p.tcode ≠ 0 ∨ p.width = c.wave.width then
      st.updPart c.ref (fun p => { p.passConf st.dcc 1 with confId := id })
    else st.arriveConf c id (confTimeout (r.b.toNat / 16 % 4)))

/-- `fuse`: a forced-fuse point and nothing else. -/
def execFuse (r : RWord) : State → Out :=
  issue { s := r.s, len := 4, ff := some (fun c _ => c.effWidth r.b.toNat) } (fun c st => st.done c 4)

/-! ### Exit and entry (20 R428-R430) -/

/-- The oldest pending delivery of a part: engine failures and held rejections in order of their operations. -/
def oldestDelivery (p : Part) : Option Delivery := oldestOf (p.fails ++ p.held)

/-- Every count is zero and the part holds no side-log entry. -/
def State.quiet (s : State) (c : Ctx) : Bool :=
  c.part.ldOps == [] && c.part.stOps == [] && c.part.cpOps == [] && c.part.mxOps == [] &&
  !s.partLogged c.ref.core c.part

/-- Delivers one pending delivery, which is then removed. -/
def State.deliverAny (s : State) (c : Ctx) (d : Delivery) : State :=
  (s.updPart c.ref (fun p => { p with fails := p.fails.erase d, held := p.held.erase d })).deliver c d

/-- What is left of a part whose current lanes have exited: the other paths, or the lanes set aside by a handler none of
whose lanes is left. -/
def Part.afterExit (p : Part) : Part :=
  let q := { p with cur := 0 }
  if q.waiting ≠ 0 then q.switchPath
  else
    match q.tframe with
    | some f => if f.aside ≠ 0 then { q with tcode := 0, tframe := none, waiting := f.aside }.switchPath else q
    | none => q

/-- Lanes of a part not on its current path. -/
def Part.otherLanes (p : Part) : Lanes :=
  p.waiting ||| (match p.tframe with | some f => f.aside | none => 0)

/-- The lanes of the current path exit (R429, R430). -/
def State.exitLanes (s : State) (c : Ctx) : State :=
  let lanes := c.part.cur &&& ~~~c.wave.exited
  let s := s.retireFrags c.wave lanes false
  let s := s.updWave c.ref.key (fun w => { w with exited := w.exited ||| lanes })
  if c.part.otherLanes ≠ 0 then s.updPart c.ref (fun p => p.afterExit.issued s.dcc 1)
  else
    let s := s.updWave c.ref.key (fun w => { w with parts := w.parts.filter (fun p => p.base != c.ref.base) })
    match s.wave? c.ref.key with
    | none => s
    | some w => if w.parts = [] then s.endWave c.ref.key else s

/-- `exit`: drains the counts, delivers what is pending one per issue, then ends the lanes of the path. -/
def execExit (r : RWord) : State → Out :=
  issue { s := r.s, len := 4, pre := fun c _ => gateBan c } (fun c st =>
    if !st.quiet c then st.parkOn c .quiet
    else
      match (if c.part.tcode = 0 then oldestDelivery c.part else none) with
      | some d => st.deliverAny c d
      | none =>
        let st := st.updPart c.ref (fun p => { p with fails := [], held := [] })
        st.exitLanes c)

/-- `entry`: the acquire actions at sys scope. -/
def execEntry (r : RWord) : State → Out :=
  issue { s := r.s, len := 4 } (fun c st => (st.acquireL1 c.ref.core 6).finish c.ref (c.next 4) 4)

/-! ### Traps, halts and waits -/

/-- A trap taken after its instruction completes: the handler returns behind it (12 R274, R280). -/
def State.afterTrap (s : State) (c : Ctx) (code detail : Nat) (taddr : W64) (len : Nat) : State :=
  s.takeTrap c.ref { code := code, detail := detail, taddr := taddr, tword := c.part.pc, resume := c.next len }

/-- `trap n`: SOFT. -/
def execTrap (r : RWord) : State → Out :=
  issue { s := r.s, len := 4 } (fun c st => st.afterTrap c tcSoft r.b.toNat 0 4)

/-- A halt of a die that takes effect 16 cycles after its event (12 R296). -/
def State.requestHalt (s : State) (d : Nat) : State :=
  s.updDie d (fun di => { di with haltAt := match di.haltAt with | some t => some t | none => some (s.dcc + 16) })

/-- `brk`: BRK, or with BRKHALT a halt of the die and no trap. -/
def execBrk (r : RWord) : State → Out :=
  issue { s := r.s, len := 4 } (fun c st =>
    let d := dieOf c.ref.core
    if (st.die d).brkHalt then
      let st := st.postDebug d 3 0 0 c.ref.core c.ref.slot c.part.pc
      (st.requestHalt d).finish c.ref (c.next 4) 17
    else st.afterTrap c tcBrk 0 0 4)

/-- Parks until a deadline of the device cycle counter; one already reached costs one cycle (R490). -/
def sleepUntil (t : Nat) (c : Ctx) (s : State) : State :=
  let t := c.part.sleepDeadline t
  let s := s.updPart c.ref (fun p => { p with sleepLeft := takenAt p.pc p.sleepLeft })
  if t ≤ s.dcc then s.done c 4 else s.parkPart c.ref (.sleep t)

/-- `sleep`. -/
def execSleep (u : UWord) : State → Out :=
  issue { s := u.s, len := 4 } (fun c st =>
    sleepUntil (st.dcc + (if u.k then u.b.toNat else (c.sreg u.a.toNat).toNat)) c st)
/-- `sleepat`. -/
def execSleepat (u : UWord) : State → Out :=
  issue { s := u.s, len := 4 } (fun c st => sleepUntil (c.sreg u.a.toNat).toNat c st)

/-- The promise's time has been reached, modulo 2^48 (09 R227). -/
def promiseDue (dcc t : Nat) : Bool := decide ((dcc % 2 ^ 48 + 2 ^ 48 - t % 2 ^ 48) % 2 ^ 48 < 2 ^ 47)

/-- The part counts an outstanding copy with a ticket. -/
def State.ticketOut (s : State) (core : Nat) (p : Part) (ticket : Nat) : Bool :=
  (s.core core).copyQ.any (fun o => p.cpOps.contains o.id && o.ticket == ticket)

/-- The pending failure of the copy with a ticket, which a handler holds back (10 R246, 12 R276). -/
def Part.copyFailure (p : Part) (ticket : Nat) : Option Delivery :=
  if p.tcode = 0 then p.fails.find? (fun d => d.cls == .cp && d.ticket == ticket) else none

/-- A `pwait` completes: PROMISE when its copy is still outstanding, except in a handler (12 R276). -/
def State.endPwait (s : State) (c : Ctx) (ticket : Nat) (value : W64) : State :=
  if s.ticketOut c.ref.core c.part ticket ∧ c.part.tcode = 0 then s.afterTrap c tcPromise 0 value 4 else s.done c 4

/-- `pwait` (09 R227). -/
def execPwait (u : UWord) : State → Out :=
  issue { s := u.s, len := 4 } (fun c st =>
    let v := c.sreg u.a.toNat
    let t := v.toNat % 2 ^ 48
    match c.part.copyFailure (v.toNat / 2 ^ 48) with
    | some d => st.deliverAny c d
    | none =>
    if promiseDue st.dcc t then st.endPwait c (v.toNat / 2 ^ 48) v
    else st.parkPart c.ref (.pwait t (v.toNat / 2 ^ 48) v))

/-- `winb` (R509). -/
def execWinb (r : RWord) : State → Out :=
  partOp r.s 4 (fun _ p => { p with regs := { p.regs with wb := BitVec.ofNat 8 (16 * r.b.toNat) } })

/-- `region` (12 R281). -/
def execRegion (r : RWord) : State → Out :=
  issue { s := r.s, len := 4 } (fun c st =>
    if c.part.ldOps ≠ [] then st.parkOn c (.count .ld 0)
    else
      match c.part.heldOf [.ld] with
      | some d => st.deliverHeld c d
      | none => (st.beginRegion c.ref (c.next 4) true).done c 4)

/-- `tret` (12 R278, R279): lanes of the handler on other paths are gathered first. -/
def execTret (r : RWord) : State → Out :=
  issue { s := r.s, len := 4, pre := fun c _ => if c.part.tcode = 0 then some (tcIllegal, 0, 0) else none }
    (fun c st =>
      match c.part.tframe with
      | none => st.precise c tcIllegal 0 0
      | some f =>
        if c.part.waiting ≠ 0 then st.updPart c.ref (fun p => p.switchPath.issued st.dcc 1)
        else if f.wrote ∧ c.part.tword.toNat % 4 ≠ 0 then st.precise c tcAlign 0 c.part.tword
        else st.updPart c.ref (fun p => p.leaveHandler f st.dcc))

end Sys2Proof.Machine
end

