-- ==== Sys2Proof/Machine/Gate.lean ====
section
/-! DEFINITION. Gate calls (13 R298-R307). -/

namespace Sys2Proof.Machine

/-- A byte field of a table entry. -/
def fieldAt (bs : List Byte) (off n : Nat) : Nat := natOfBytes ((bs.drop off).take n)

/-- A dev-scope read of a core at a virtual address that posts no fault record: the bytes, if the page translates and
its leaf allows the need. -/
def State.quietRead (s : State) (core : Nat) (asid : BitVec 16) (need : Need) (va n : Nat) : Option (List Byte) :=
  match s.walk (dieOf core) asid va with
  | .leaf pte p => if (s.leafFault need pte (paOf pte p va)).isNone then some (readBytes s.mem (paOf pte p va) n) else none
  | _ => none

/-- An entry of the core's cache of gate and domain entries (R299). -/
def State.gateCached (s : State) (core : Nat) (dom : Bool) (asid : BitVec 16) (addr n : Nat) : Option (List Byte) :=
  ((s.core core).gateCache.find? (fun e =>
    e.domain == dom && e.asid == asid && e.addr == addr && e.bytes.length == n && decide (e.ready ≤ s.dcc))).map (fun e => e.bytes)

/-- Gate entry `g` of a part's table. -/
def State.gateEntry (s : State) (c : Ctx) (g : Nat) : Option (List Byte) :=
  let a := c.part.regs.gtable.toNat + 32 * g
  match s.gateCached c.ref.core false c.part.regs.asid a 32 with
  | some b => some b
  | none => s.quietRead c.ref.core c.part.regs.asid .read a 32

/-- Entry of the domain table (R298, R382). -/
def State.domainEntry (s : State) (core d : Nat) : List Byte :=
  let a := s.pkg.domtab.toNat + 32 * d
  match s.gateCached core true 0 a 32 with
  | some b => b
  | none => readBytes s.mem a 32

/-- A gate entry that breaks the table of R299. -/
def gateMalformed (e : List Byte) : Bool :=
  let entry := fieldAt e 0 8
  let callot := fieldAt e 14 1
  entry % 4 != 0 || decide (2 ^ 57 ≤ entry) || decide (8 ≤ fieldAt e 11 1) || decide (16 < fieldAt e 12 1)
    || decide (16 < fieldAt e 13 1) || callot == 0 || decide (32 < callot)
    || decide (8 * callot < fieldAt e 12 1) || decide (8 * callot < fieldAt e 13 1) || decide (8 < fieldAt e 15 1)
    || decide (5 < fieldAt e 16 1) || fieldAt e 17 7 != 0

/-- The word at ENTRY is `gentry` (R302). -/
def State.entryIsGentry (s : State) (core : Nat) (tasid : BitVec 16) (entry : Nat) : Bool :=
  match s.gateCached core false tasid entry 4 with
  | some b => natOfBytes b % 2 ^ 31 == 0x03400000
  | none =>
    match s.quietRead core tasid .fetch entry 4 with
    | some b => natOfBytes b % 2 ^ 31 == 0x03400000
    | none => false

/-- The gate checks of `gcall`, which close step 4 of R114: the GATE detail of the first that fails. -/
def State.gateFault (s : State) (c : Ctx) (g : Nat) : Option Nat :=
  if c.part.frames.length = 4 then some 4
  else if c.part.regs.gtable = 0 ∨ 2 ^ c.part.regs.gtlogn.toNat ≤ g then some 1
  else
    match s.gateEntry c g with
    | none => some 1
    | some e =>
      if fieldAt e 11 1 % 2 = 0 ∨ gateMalformed e then some 1
      else if fieldAt e 24 8 / 2 ^ (c.part.regs.domain.toNat / 4) % 2 = 0 then some 2
      else if fieldAt (s.domainEntry c.ref.core (fieldAt e 10 1)) 16 1 % 2 = 0 then some 7
      else if !s.entryIsGentry c.ref.core (BitVec.ofNat 16 (fieldAt e 8 2)) (fieldAt e 0 8) then some 3
      else none

/-- A block of consecutive registers named from a field (R301). -/
def spanVop (f : BitVec 7) (n : Nat) : List Vop := if n = 0 then [] else [{ f := f.toNat, cols := n }]

/-- A register block's numbers. -/
def spanRegs (f : BitVec 7) (wb n : Nat) : List Nat := (List.range n).map (fun k => regNumber wb (f.toNat + k))

/-- A loaded segment holds an address of its address space: it takes whole pages of 64 KiB (16 R350, 18 R384). -/
def Segment.spans (g : Segment) (asid : BitVec 16) (va : Nat) : Bool :=
  g.asid == asid && decide (g.va ≤ va) && decide (va < g.va + (g.size + 65535) / 65536 * 65536)

/-- The segment of an address is privileged (R302, 18 R384). -/
def State.privSegment (s : State) (asid : BitVec 16) (va : Nat) : Bool := s.pkg.segments.any (fun g => g.privseg && g.spans asid va)

/-- What `gcall` claims and installs, from its checked entries. -/
def State.gateCall (s : State) (c : Ctx) (g : Nat) (e : List Byte) (r : RWord) : GateCall :=
  let d := s.domainEntry c.ref.core (fieldAt e 10 1)
  let tasid := BitVec.ofNat 16 (fieldAt e 8 2)
  { n := 8 * fieldAt e 14 1
    units := fieldAt e 15 1
    gateIx := BitVec.ofNat 16 g
    entry := BitVec.ofNat 64 (fieldAt e 0 8)
    tasid := tasid
    tdom := BitVec.ofNat 8 (fieldAt e 10 1)
    unwind := fieldAt e 11 1 / 2 % 2 == 1
    allowSplit := fieldAt e 11 1 / 4 % 2 == 1
    handler := BitVec.ofNat 64 (fieldAt d 0 8)
    gt := BitVec.ofNat 64 (fieldAt d 8 8)
    privseg := s.privSegment tasid (fieldAt e 0 8)
    args := spanRegs r.a c.wb (fieldAt e 12 1)
    results := spanRegs r.d c.wb (fieldAt e 13 1) }

/-- Cycles that the translation of a core's read takes: its lookup, and its walk (R186). -/
def State.lookTime (s : State) (core : Nat) (asid : BitVec 16) (va : Nat) : Nat :=
  match s.tlbLook core false asid va with
  | (_, some _, d) => d
  | (_, none, d) => d + s.walkLatency core asid va

/-- A step of the read of `n` bytes at `pa` into the core's 16-entry cache (R299): the request goes to its slice, after `first`
cycles; it reads the bytes there; they come back. The part waits for them before the check that uses them, and so does any other part
that needs them (R302). A line that another core has pinned refuses the read (09 R221). -/
def State.readGate (s : State) (c : Ctx) (dom : Bool) (asid : BitVec 16) (addr n pa first : Nat) : State :=
  let core := c.ref.core
  let mine := fun (e : GateCached) => e.domain == dom && e.asid == asid && e.addr == addr && (e.bytes == [] || e.bytes.length == n)
  match (s.core core).gateCache.find? mine with
  | none =>
    let t := s.dcc + first + slicePath core pa
    let w : GateCached := { domain := dom, asid := asid, addr := addr, bytes := [], ready := t }
    (s.updCore core (fun k => { k with gateCache := (w :: k.gateCache).take 16 })).parkOn c (.time t)
  | some e =>
    if s.dcc < e.ready then s.parkOn c (.time e.ready)
    else if s.pinned (some core) pa then (s.refuse pa).parkOn c (.time (s.dcc + 1))
    else
      let t := s.dcc + s.beyondSlice pa
      ((s.useLine pa 0).updCore core (fun k => { k with gateCache := k.gateCache.map (fun w =>
        if mine w then { w with bytes := readBytes s.mem pa n, ready := t } else w) })).parkOn c
        -- bytes that are back at once hold the part no longer
        (.time (if s.beyondSlice pa = 0 then 0 else t))

/-- Reads a gate entry or a `gentry` word at its virtual address; one that fails is left to its check, and takes no time. A table that
the walk reads may be pinned, and refuses it (09 R221). -/
def State.readGateVa (s : State) (c : Ctx) (asid : BitVec 16) (need : Need) (va n : Nat) : Option State :=
  if (s.quietRead c.ref.core asid need va n).isNone then none
  else if s.lookPins c.ref.core false asid va ≠ [] then some ((s.refuseAll (s.lookPins c.ref.core false asid va)).parkOn c (.time (s.dcc + 1)))
  else
    match s.translate c.ref.core false asid va with
    | (t, .leaf pte p) => some (t.readGate c false asid va n (paOf pte p va) (s.lookTime c.ref.core asid va))
    | _ => none

/-- The next read that the gate checks of a `gcall` need and the core's cache lacks: the part waits for it. None when the checks
can be made without one (R302). -/
def State.gateRead (s : State) (c : Ctx) (g : Nat) : Option State :=
  let core := c.ref.core
  let asid := c.part.regs.asid
  let a := c.part.regs.gtable.toNat + 32 * g
  if c.part.frames.length = 4 ∨ c.part.regs.gtable = 0 ∨ 2 ^ c.part.regs.gtlogn.toNat ≤ g then none
  else
    match s.gateCached core false asid a 32 with
    | none => s.readGateVa c asid .read a 32
    | some e =>
      let da := s.pkg.domtab.toNat + 32 * fieldAt e 10 1
      let tasid := BitVec.ofNat 16 (fieldAt e 8 2)
      if fieldAt e 11 1 % 2 = 0 ∨ gateMalformed e ∨ fieldAt e 24 8 / 2 ^ (c.part.regs.domain.toNat / 4) % 2 = 0 then none
      else
        match s.gateCached core true 0 da 32 with
        | none =>
          some (s.readGate c true 0 da 32 da 0)
        | some d =>
          if fieldAt d 16 1 % 2 = 0 ∨ (s.gateCached core false tasid (fieldAt e 0 8) 4).isSome then none
          else s.readGateVa c tasid .fetch (fieldAt e 0 8) 4

/-- `gcall` (R302). Once its entries have been read and its counts are zero, it waits for its claim. -/
def execGcall (r : RWord) (x : W32) : State → Out :=
  let g := x.toNat % 65536
  let entry := fun (c : Ctx) (s : State) => (s.gateEntry c g).getD []
  fun s =>
    match s.issuing.bind (fun c => s.gateRead c g) with
    | some t => .next t
    | none =>
      issue
        { s := r.s, len := 8
          pre := fun c s => (s.gateFault c g).map (fun d => (tcGate, d, BitVec.ofNat 64 g))
          regs := fun c s => spanVop r.d (fieldAt (entry c s) 13 1) ++ spanVop r.a (fieldAt (entry c s) 12 1)
          ff := some (fun c s => c.effWidth (fieldAt (entry c s) 16 1)) }
        (fun c st =>
          if !st.quiet c then st.parkOn c .quiet
          else st.parkPart c.ref (.gclaim (st.gateCall c g (entry c st) r) st.dcc false)) s

/-- The registers a callee starts with (R302). -/
def calleeRegs (p : Part) (g : GateCall) : PartRegs :=
  { sregs := setT 0 (setT 0 [] 0 ((0 : BitVec 39) ++ BitVec.ofBool p.regs.privseg ++ p.regs.domain ++ p.regs.asid)) 1
      (g.gateIx.setWidth 64)
    wb := 0, ix0 := 0, ix1 := 0, fpmode := 0, fpstat := 0, status := 0, amaxv := 0, amaxnan := false
    fcode := 0, unwound := false, gate := 0
    split := p.regs.split && g.allowSplit
    miss := p.regs.miss && g.allowSplit
    minw := p.regs.minw
    asid := g.tasid, domain := g.tdom, privseg := g.privseg
    handler := g.handler &&& 0x01FFFFFFFFFFFFFC
    gtable := g.gt &&& 0x01FFFFFFFFFFFFE0
    gtlogn := g.gt.extractLsb' 0 5 }

/-- The frame `gcall` pushes (R304). -/
def frameOf (w : Wave) (p : Part) (g : GateCall) (uid scr : Nat) : GateFrame :=
  { uid := uid, ret := p.pc + 8, entry := g.entry, gateIx := g.gateIx, nres := g.results.length, unwind := g.unwind
    allowSplit := g.allowSplit, results := g.results
    emask := p.cur &&& ~~~w.off &&& ~~~w.exited
    base := p.base, width := p.width, regs := p.regs, preds := w.preds, fails := p.fails, held := p.held
    callot := g.n, scrBase := scr, cscr := g.units }

/-- A granted `gcall` performs (R302): banks debited, frame pushed, registers and scratch of the callee set. -/
def State.enterCallee (s : State) (r : PartRef) (g : GateCall) (scr : Nat) : State :=
  match s.wave? r.key with
  | none => s
  | some w =>
    match w.part? r.base with
    | none => s
    | some p =>
      let f := frameOf w p g s.nextId scr
      let s := { s with nextId := s.nextId + 1 }
      let s := s.updCore r.core (fun k => debitBanks k (w.banks p.base p.width) g.n)
      let depth := p.frames.length
      let lanes := (List.range p.width).map (fun l => p.base + l)
      let args := lanes.flatMap (fun l => (List.range g.args.length).map (fun k => (l, k, w.v depth l (g.args.getD k 0))))
      let m := laneRange p.base p.width
      let s := s.updWave r.key (fun w =>
        { (w.dropRegs (depth + 1) p).setVs (depth + 1) args with
          dirty := (unitsOf (depth + 1) p.base p.width 0 g.n).foldl addNew w.dirty
          preds := (List.range 8).foldl (fun t n => setT 0 t n (getT 0 t n &&& ~~~m)) w.preds })
      let s := { s with scratch := clearRange s.scratch (scratchKey r.core (scr * 8192))
                          (scratchKey r.core ((scr + g.units) * 8192)) }
      let s := s.updPart r (fun p =>
        { p with regs := calleeRegs p g, frames := f :: p.frames, fails := [], held := [], pc := g.entry
                 gentryDue := true, park := .running, notBefore := s.dcc + 24 + g.args.length })
      s.beginRegion r (g.entry + 4) true

/-- A callee fault that the handler hands over with `gret`, or that no handler takes: unwinds, or ends the wave with a
debug event (R307). -/
def State.calleeFault (s : State) (c : Ctx) (f : GateFrame) : State :=
  if f.unwind then s.unwind c.ref c.part f c.part.tcode.toNat
  else (s.endWave c.ref.key).postDebug (dieOf c.ref.core) 2 c.part.tcode.toNat 0 c.ref.core (c.ref.slot * 256) c.part.tword

/-- Returns from the innermost call (R305). -/
def State.leaveCallee (s : State) (c : Ctx) (f : GateFrame) (a : BitVec 7) : State :=
  let p := c.part
  let depth := p.frames.length
  let regs := spanRegs a c.wb f.nres
  let ws := resultWrites f p (fun l k => c.wave.v depth l (regs.getD k 0))
  let s := s.dropCallee c.ref p f
  let s := s.updWave c.ref.key (fun w => w.setVs (depth - 1) ws)
  let s := s.updPart c.ref (fun p => p.popFrame f false 0 s.dcc)
  let s := (s.creditPopped c.ref c.wave).dropScratch c.ref.core f
  s.beginRegion c.ref f.ret true

/-- `gret` (R305). -/
def execGret (r : RWord) : State → Out :=
  let frame := fun (c : Ctx) => if c.part.tcode = 0 then c.part.frames.head? else none
  issue
    { s := r.s, len := 4
      pre := fun c _ => if c.part.frames = [] then some (tcGate, 6, 0) else none
      regs := fun c _ => match frame c with | some f => spanVop r.a f.nres | none => []
      ff := some (fun c _ => match frame c with | some f => f.width | none => c.part.width) }
    (fun c st =>
      match c.part.frames with
      | [] => st.precise c tcGate 6 0
      | f :: _ =>
        if c.part.tcode ≠ 0 then st.calleeFault c f
        else if !st.quiet c then st.parkOn c .quiet
        else
          match oldestDelivery c.part with
          | some d => st.deliverAny c d
          | none => st.leaveCallee c f r.a)

/-- The part stands, outside a handler, at the first instruction of its call, and has issued none of it (R306). -/
def Part.atEntry (p : Part) : Bool := p.gentryDue && p.tcode == 0 && (p.frames.head?).map (fun f => f.entry) == some p.pc

/-- `gentry` (R306): only the first instruction of a call may be one. -/
def execGentry (r : RWord) : State → Out :=
  issue { s := r.s, len := 4, pre := fun c _ => if c.part.atEntry then none else some (tcGate, 6, 0) }
    (fun c st => st.done c 4)

end Sys2Proof.Machine
end

