-- ==== Sys2Proof/Machine/Claims.lean ====
section
/-! DEFINITION. Register release and claim, the grants at the end of a cycle, and claim deadlock (02 R36-R39). -/

namespace Sys2Proof.Machine

/-- Checks of `regrel` and `regclm` before register checks: an undefined n, then the gate rule (13 R306). -/
def claimPre (c : Ctx) (bad : Bool) : Option (Nat × Nat × W64) :=
  match illegalAt c 1 bad with
  | some t => some t
  | none => gateBan c

/-- Every quad bank of a wave. -/
def Wave.allBanks (w : Wave) : List Nat := w.banks 0 w.width

/-- `regrel n` (R36). -/
def execRegrel (r : RWord) (x : W32) : State → Out :=
  let n := x.toNat
  issue
    { s := r.s, len := 8
      pre := fun c _ =>
        match claimPre c (n % 8 != 0) with
        | some t => some t
        | none => if n ≠ 0 ∧ c.wave.allot ≤ n then some (tcRegbound, 0, BitVec.ofNat 64 n) else none
      ff := some (fun c _ => c.effWidth 0) }
    (fun c st =>
      if n = 0 then (st.beginRegion c.ref (c.next 8) true).done c 8
      else
        let st := st.updWave c.ref.key (fun w =>
          { w with allot := w.allot - n, vregs := w.vregs.filter (fun e => decide (vKey 1 0 0 ≤ e.1) || decide (e.1 % 512 < w.allot - n)) })
        let st := st.updCore c.ref.core (fun k => creditBanks k c.wave.allBanks n)
        (st.beginRegion c.ref (c.next 8) true).done c 8)

/-- `regclm n` (R37): checked, then parked until its grant. -/
def execRegclm (r : RWord) (x : W32) : State → Out :=
  let n := x.toNat
  issue
    { s := r.s, len := 8
      pre := fun c _ =>
        match claimPre c (n % 8 != 0 || n == 0) with
        | some t => some t
        | none => if 256 < c.wave.allot + n then some (tcRegbound, 0, BitVec.ofNat 64 n) else none
      ff := some (fun c _ => c.effWidth 0) }
    (fun c st => st.parkPart c.ref (.claim n st.dcc false))

/-! ### Pending claims (R38, 13 R303) -/

/-- A pending claim: part, cycle in which it parked, aging mark, registers, scratch units, banks. -/
structure Claim where
  ref : PartRef
  since : Nat
  aged : Bool
  n : Nat
  units : Nat
  banks : List Nat
  partition : Nat
  deriving DecidableEq, Repr

/-- The claim a part is parked in, unless it has stopped to be saved (12 R283). -/
def claimOf (w : Wave) (p : Part) : Option Claim :=
  let r : PartRef := { core := w.core, slot := w.slot, base := p.base }
  if p.stopped then none
  else match p.park with
  | .claim n since aged =>
    some { ref := r, since := since, aged := aged, n := n, units := 0, banks := w.allBanks, partition := w.partition }
  | .gclaim g since aged =>
    some { ref := r, since := since, aged := aged, n := g.n, units := g.units, banks := w.banks p.base p.width
           partition := w.partition }
  | _ => none

/-- Older claims first; ties by lower partition, then lower wave slot (R38). Of two claims that parts of one wave make in one cycle
the lower lane base comes first (DESIGN CHOICE, notes/assumptions/49.md: the rule's ties end at the wave slot). -/
def olderClaim (a b : Claim) : Bool :=
  if a.since ≠ b.since then decide (a.since < b.since)
  else if a.partition ≠ b.partition then decide (a.partition < b.partition)
  else if a.ref.slot ≠ b.ref.slot then decide (a.ref.slot < b.ref.slot)
  else decide (a.ref.base ≤ b.ref.base)

/-- Inserts by an order. -/
def insertBy {α : Type} (le : α → α → Bool) (x : α) : List α → List α
  | [] => [x]
  | y :: r => if le x y then x :: y :: r else y :: insertBy le x r
/-- Sorts by an order. -/
def sortBy {α : Type} (le : α → α → Bool) : List α → List α
  | [] => []
  | x :: r => insertBy le x (sortBy le r)

/-- Pending claims of a core, oldest first. -/
def State.claims (s : State) (core : Nat) : List Claim :=
  sortBy olderClaim ((s.waves.filter (fun e => e.2.core == core)).flatMap (fun e => e.2.parts.filterMap (claimOf e.2)))

/-- The banks hold enough, and the scratch has a run (R38, R303). -/
def State.grantable (s : State) (core : Nat) (q : Claim) : Bool :=
  q.banks.all (fun b => decide (q.n ≤ poolOf (s.core core) b)) && (s.scratchRun core q.units).isSome

/-- A granted `regclm` performs (R37): the registers claimed are zeroed, which is a write of their units (12 R289). -/
def State.enterClaim (s : State) (q : Claim) : State :=
  let s := s.updCore q.ref.core (fun k => debitBanks k q.banks q.n)
  let s := s.updWave q.ref.key (fun w =>
    { w with
      vregs := w.vregs.filter (fun e => decide (vKey 1 0 0 ≤ e.1) || !(decide (w.allot ≤ e.1 % 512) && decide (e.1 % 512 < w.allot + q.n)))
      dirty := (unitsOf 0 0 w.width w.allot (w.allot + q.n)).foldl addNew w.dirty
      allot := w.allot + q.n })
  match s.part? q.ref with
  | none => s
  | some p => (s.beginRegion q.ref (p.pc + 8) true).finish q.ref (p.pc + 8) 1

/-- Grants one claim. -/
def State.grantClaim (s : State) (q : Claim) : State :=
  match s.part? q.ref with
  | none => s
  | some p =>
    match p.park with
    | .gclaim g _ _ =>
      match s.scratchRun q.ref.core q.units with
      | some b => s.enterCallee q.ref g b
      | none => s
    | _ => s.enterClaim q

/-- Visits claims in order of age; an aged claim that is not granted, for want of registers or for an older aged claim, blocks the
banks it names. -/
def State.grantClaims (s : State) (core : Nat) : List Claim → List Nat → State
  | [], _ => s
  | q :: rest, blocked =>
    if !q.banks.any (fun b => blocked.contains b) && s.grantable core q then (s.grantClaim q).grantClaims core rest blocked
    else s.grantClaims core rest (if q.aged || decide (q.since + 4096 ≤ s.dcc) then q.banks ++ blocked else blocked)

/-- CLAIM_GRANT: the grants of a core at the end of a cycle (R38). -/
def execClaimGrant (core : Nat) (s : State) : Out := .next (s.grantClaims core (s.claims core) [])

/-- Marks the claims that have waited 4,096 cycles. -/
def agePart (now : Nat) (p : Part) : Part :=
  match p.park with
  | .claim n since false => if since + 4096 ≤ now then { p with park := .claim n since true } else p
  | .gclaim g since false => if since + 4096 ≤ now then { p with park := .gclaim g since true } else p
  | _ => p

/-- CLAIM_AGING (R38). -/
def execClaimAging (core : Nat) (s : State) : Out :=
  .next { s with waves := s.waves.map (fun e =>
    if e.2.core = core then (e.1, { e.2 with parts := e.2.parts.map (agePart s.dcc) }) else e) }

/-- Waves of a group. -/
def State.groupWaves (s : State) (g : Nat) : List Wave := (s.waves.filter (fun e => e.2.group == g)).map Prod.snd

def claimPark : Park → Bool
  | .claim _ _ _ => true
  | .gclaim _ _ _ => true
  | _ => false

/-- A group is in claim deadlock (R39). -/
def State.claimDeadlocked (s : State) (g : Nat) : Bool :=
  let ws := s.groupWaves g
  ws.all (fun w => w.parts.all (fun p => claimPark p.park || barrierPark p.park))
  && ws.any (fun w => w.parts.any (fun p => claimPark p.park))
  && ws.all (fun w => (w.parts.filterMap (claimOf w)).all (fun q => !s.grantable w.core q))

/-- REGDEAD at a claiming instruction (R39, 12 R517). -/
def State.regdead (s : State) (q : Claim) : State :=
  match s.part? q.ref with
  | none => s
  | some p => s.takeTrap q.ref { code := tcRegdead, detail := 0, taddr := BitVec.ofNat 64 q.n, tword := p.pc, resume := p.pc }

/-- CLAIM_DEADLOCK (R39). -/
def execClaimDeadlock (g : Nat) (s : State) : Out :=
  if s.claimDeadlocked g then
    .next (((s.groupWaves g).flatMap (fun w => w.parts.filterMap (claimOf w))).foldl State.regdead s)
  else .next s

end Sys2Proof.Machine
end

