-- ==== Sys2Proof/Machine/Kernels.lean ====
section
/-! DEFINITION. Kernels of loaded segments: the segment image, kernel headers and tables (06 R147-R150), wave widths (02 R32),
and the registers that admission gives a part (04 R53, R78, R86, R92; 13 R298; 16 R365). -/

namespace Sys2Proof.Machine

/-! ### Images -/

/-- A field of an image that reads from `rd` by offset. -/
def imageNat (rd : Nat → Byte) (off n : Nat) : Nat := natOfBytes ((List.range n).map (fun i => rd (off + i)))

/-- The header word's fields (R147). -/
def widthCode (w0 : Nat) : Nat := w0 / 2 ^ 24 % 8
def headerWidth (w0 : Nat) : Nat := if widthCode w0 = 0 then 0 else 2 ^ (widthCode w0 + 1)
def headerAllot (w0 : Nat) : Nat := if w0 / 2 ^ 19 % 32 = 0 then 256 else w0 / 2 ^ 19 % 32 * 8
def headerNbar (w0 : Nat) : Nat := if w0 / 2 ^ 15 % 16 = 15 then 16 else w0 / 2 ^ 15 % 16
def headerNacc (w0 : Nat) : Nat := if w0 / 2 ^ 11 % 16 = 15 then 16 else w0 / 2 ^ 11 % 16
def headerScr (w0 : Nat) : Nat := w0 / 2 ^ 4 % 128

/-- A signed byte. -/
def signedByte (n : Nat) : Int := if n < 128 then n else (n : Int) - 256

/-- Channels of a table at an offset (R150); none for offset 0. -/
def channelsAt (rd : Nat → Byte) (off : Nat) : List ChanDecl :=
  if off = 0 then []
  else (List.range (imageNat rd off 1)).map (fun i =>
    let a := off + 4 + 8 * i
    { dx := signedByte (imageNat rd a 1), dy := signedByte (imageNat rd (a + 1) 1), slots := imageNat rd (a + 2) 1
      bytes := 16 * imageNat rd (a + 3) 1 })

/-- Offset of the header of kernel `kidx`. -/
def headerOffset (rd : Nat → Byte) (kidx : Nat) : Nat := imageNat rd (imageNat rd 28 4 + 16 * kidx) 4
/-- Kernels of an image. -/
def kernelCount (rd : Nat → Byte) : Nat := imageNat rd 32 2

/-- The kernel of an image at a virtual base (R147, R150). -/
def kernelOf (rd : Nat → Byte) (va kidx : Nat) (priv : Bool) : Kernel :=
  let h := headerOffset rd kidx
  let w := fun (i : Nat) => imageNat rd (h + 4 * i) 4
  { seg := BitVec.ofNat 64 va, kidx := kidx, entry := BitVec.ofNat 64 (va + w 1), cm := w 0 / 2 ^ 27 % 2 == 1, width := headerWidth (w 0)
    allot := headerAllot (w 0), nbar := headerNbar (w 0), nacc := headerNacc (w 0), scr := headerScr (w 0), lanes := w 2 % 2048
    chans := channelsAt rd (w 4), privseg := priv }

/-- A loaded segment of an ASID at an address (18 R384). -/
def State.segment? (s : State) (asid : BitVec 16) (va : Nat) : Option Segment :=
  s.pkg.segments.find? (fun g => g.asid == asid && g.va == va)
/-- A byte of a loaded segment's copy. -/
def State.segByte (s : State) (g : Segment) (off : Nat) : Byte := readByte s.mem (g.dst + off)
/-- A kernel of a loaded segment by its index. -/
def State.kernel? (s : State) (g : Segment) (kidx : Nat) : Option Kernel :=
  if kidx < kernelCount (s.segByte g) then some (kernelOf (s.segByte g) g.va kidx g.privseg) else none

/-- Width of a kernel's waves (02 R32). -/
def Kernel.waveWidth (k : Kernel) : Nat :=
  if k.width ≠ 0 then k.width
  else ([64, 32, 16, 8, 4].find? (fun w => k.lanes % w == 0 && decide (1 ≤ k.lanes / w) && decide (k.lanes / w ≤ 16))).getD 4
/-- Waves of a group. -/
def Kernel.waves (k : Kernel) : Nat := k.lanes / k.waveWidth

/-! ### Gate imports (R150, 13 R298, R299) -/

/-- GT of a domain: 0 for an entry that is not valid (13 R298). -/
def State.domainGt (s : State) (d : Nat) : Nat :=
  let e := readBytes s.mem (s.pkg.domtab.toNat + 32 * d) 32
  if fieldAt e 16 1 % 2 = 1 then fieldAt e 8 8 else 0
/-- Table address and LOGN of a GT field. -/
def gtTable (gt : Nat) : Nat := gt / 32 % 2 ^ 52 * 32
def gtLogn (gt : Nat) : Nat := gt % 32

/-- An import that the domain's gate table does not meet: index, NARG, NRES. An entry that is VALID counts as present even
where its other fields are malformed (DESIGN CHOICE, notes/assumptions/60.md). -/
def State.badImport (s : State) (asid : BitVec 16) (gt : Nat) (i : Nat × Nat × Nat) : Bool :=
  if gtTable gt = 0 ∨ 2 ^ gtLogn gt ≤ i.1 then true
  else
    match s.quietRead 0 asid .read (gtTable gt + 32 * i.1) 32 with
    | none => true
    | some e => fieldAt e 11 1 % 2 == 0 || fieldAt e 12 1 != i.2.1 || fieldAt e 13 1 != i.2.2

/-- The gate imports of a kernel's header. -/
def importsOf (rd : Nat → Byte) (kidx : Nat) : List (Nat × Nat × Nat) :=
  let off := imageNat rd (headerOffset rd kidx + 24) 4
  if off = 0 then []
  else (List.range (imageNat rd off 1)).map (fun i =>
    let a := off + 4 + 8 * i
    (imageNat rd a 2, imageNat rd (a + 2) 1, imageNat rd (a + 3) 1))

/-! ### A part at admission -/

/-- Per-part registers at admission (R92, R53, 16 R365). -/
def admissionRegs (l : Launch) (k : Kernel) (gt : Nat) (sregs : List (Nat × W64)) : PartRegs :=
  { sregs := sregs.foldl (fun t e => setT 0 t e.1 e.2) [], wb := 0, ix0 := 0, ix1 := 0, fpmode := 0, fpstat := 0, status := 0, amaxv := 0
    amaxnan := false, fcode := 0, unwound := false, gate := 0, split := true, miss := true, minw := if k.cm then 3 else 1
    asid := l.asid, domain := l.domain, privseg := k.privseg, handler := BitVec.ofNat 64 (l.trap.toNat / 4 % 2 ^ 55 * 4)
    gtable := BitVec.ofNat 64 (gtTable gt), gtlogn := BitVec.ofNat 5 (gtLogn gt) }

/-- The one part of a newly admitted wave (03 R52): its first region begins at its entry (12 R281), and no instruction
issues for `delay` cycles. -/
def newPart (width : Nat) (entry : W64) (regs : PartRegs) (now delay : Nat) : Part :=
  { base := 0, width := width, pc := entry, cur := laneRange 0 width, waiting := 0, resume := [], regs := regs, tcodeReg := 0, tdetail := 0
    restart := false, taddr := 0, tword := 0, mxRow := 0, mxTile := 0, mxActive := false, region := entry, regionCount := 0, regionAt := now
    ldOps := [], stOps := [], cpOps := [], mxOps := [], recent := [], frames := [], park := .running, confId := 0, arrivals := []
    tcode := 0, tframe := none, fails := [], held := [], acquiring := [], lastIssue := now, notBefore := now + delay, busy := [], parkedAt := 0
    watchSkip := false, gentryDue := false, forcedSave := false, before := [], statusNew := 0, statusAt := 0, raised := 0, flags := [], stopped := false
    confLeft := none, sleepLeft := none, relAt := none }

end Sys2Proof.Machine
end

