-- ==== Sys2Proof/Machine/MemUnit.lean ====
section
/-! DEFINITION. The memory unit: operations in flight, their page walks, the store side log, the order in which accesses
perform, what each access does at the L1 or its slice, and the completion of an operation (08 R186-R199; 09 R206-R223;
19 R399, R400). -/

namespace Sys2Proof.Machine

/-! ### Accesses -/

/-- ORD is an acquire, or a release (R216, R217). -/
def isAcquire (ord : Nat) : Bool := ord % 2 == 1
def isRelease (ord : Nat) : Bool := decide (2 ≤ ord)

/-- The access has not performed. -/
def Access.isOpen (a : Access) : Bool :=
  match a.phase with
  | .walk => true
  | .ready => true
  | .held _ _ => true
  | .refused => true
  | _ => false

/-- The access has no translation yet. -/
def Access.unresolved (a : Access) : Bool :=
  match a.phase with
  | .walk => true
  | .held _ _ => true
  | _ => false

/-- The access has performed and its result is back, or it has failed. -/
def Access.ended (a : Access) : Bool :=
  match a.phase with
  | .back => true
  | .failed _ => true
  | _ => false

def overlaps (a n b m : Nat) : Bool := decide (a < b + m) && decide (b < a + n)

/-- The line that an access not yet translated is about to name, as its tables stand: program order to one location holds under
every address of it (R212, R213). A page that is not present has none yet, and its accesses keep the order of R194. -/
def State.lineAhead (s : State) (core : Nat) (asid : BitVec 16) (a : Access) : Option Nat :=
  match s.walk (dieOf core) asid a.va with
  | .leaf pte p => some (paOf pte p a.va / 128)
  | _ => none

/-- An earlier access of the part that holds a later one back: its bytes or its line, while untranslated; its line; or the S-page
order of R211. -/
def State.clashes (s : State) (core : Nat) (asid : BitVec 16) (later e : Access) : Bool :=
  e.isOpen &&
  (if e.unresolved then
    overlaps e.va e.size later.va later.size || later.kind == 1 || s.lineAhead core asid e == some (later.pa / 128)
   else e.pa / 128 == later.pa / 128 || (e.kind == 1 && later.kind == 1))

/-- Key of the wave of an operation. -/
def MemOp.key (o : MemOp) : Nat := o.core * 128 + o.slot

/-- The wave of an operation, while it is the one that issued it. -/
def State.opWave (s : State) (o : MemOp) : Option Wave :=
  (s.wave? o.key).bind (fun w => if w.admission = o.admission then some w else none)

/-- The part holds an operation. -/
def Part.holdsOp (p : Part) (id : Nat) : Bool := p.ldOps.contains id || p.stOps.contains id

/-- Some part that holds the later operation `b` holds the earlier one, or was divided from a part that issued it (R207). -/
def sharePart (w : Wave) (a b : Nat) : Bool := w.parts.any (fun p => p.holdsOp b && (p.holdsOp a || p.before.contains a))

/-- The page extent of a side-log entry covers an address. -/
def LogEntry.covers (e : LogEntry) (asid : BitVec 16) (va : Nat) : Bool :=
  e.asid == asid && decide (e.page ≤ va) && decide (va < e.page + e.size)

/-- What the store side log takes: stores, reductions and atomics without return (R193). -/
def OpKind.logged : OpKind → Bool
  | .store => true
  | .atom _ none => true
  | _ => false

/-- An earlier entry of the side log holds the page back (R194). -/
def State.logAhead (s : State) (o : MemOp) (a : Access) : Bool :=
  o.kind.logged &&
  (match (s.core o.core).sideLog.find? (fun e => e.covers o.asid a.va) with
    | some e => decide (e.op < o.id)
    | none => false)

/-- An earlier operation holds an access back: one it clashes with, or whose write to its line is on its way to the slice (R212); for
a release, any that has not performed (R217). -/
def State.holdsBack (s : State) (o : MemOp) (a : Access) (e : MemOp) : Bool :=
  e.accs.any (s.clashes e.core e.asid a) || (isRelease o.ord && (e.parked || e.accs.any Access.isOpen))
    || s.posted.any (fun q => q.op == some e.id && (isRelease o.ord || (a.phase == .ready && q.pa / 128 == a.pa / 128)))

/-- An earlier operation of the part holds an access back. -/
def State.heldBack (s : State) (o : MemOp) (a : Access) : Bool :=
  match s.opWave o with
  | none => false
  | some w => s.ops.any (fun e => decide (e.id < o.id) && e.key == o.key && s.holdsBack o a e && sharePart w e.id o.id)

/-- A release whose write-backs have not all performed (R217). -/
def State.releasing (s : State) (o : MemOp) : Bool :=
  isRelease o.ord && (match o.relAt with | some n => !s.backsDone o.core n | none => true)

/-- Every earlier access of the part has performed: a release sends the L1's dirty sectors back now (R217). -/
def State.releaseDueAt (s : State) (o : MemOp) : Bool :=
  isRelease o.ord && o.relAt.isNone && o.accs.any Access.isOpen && !(o.accs.any (fun a => a.isOpen && s.heldBack o a))

/-- Sends the write-backs of a release whose turn has come. -/
def State.startRelease (s : State) (id : Nat) : State :=
  match s.op? id with
  | none => s
  | some o =>
    if s.releaseDueAt o then
      let s := s.releaseL1 o.core o.scope
      s.updOp id (fun o => { o with relAt := some s.nextId })
    else s

/-- The access must wait for another one (R194, R207, R211, R212, R217, R400). -/
def State.accessBlocked (s : State) (o : MemOp) (a : Access) : Bool :=
  (o.accs.takeWhile (fun b => b.lane != a.lane)).any (s.clashes o.core o.asid a)
  || s.logAhead o a || s.releasing o || s.heldBack o a

/-! ### Failures -/

/-- Puts a rejected access into the lowest part that holds its operation. Several failing lanes of one load are one delivery, and
those of one store are one for each page, as its side-log entries are (R191, R193, R195). -/
def State.holdFailure (s : State) (o : MemOp) (detail va logPage : Nat) : State :=
  match s.opWave o with
  | none => s
  | some w =>
    match w.parts.find? (fun p => p.holdsOp o.id) with
    | none => s
    | some p =>
      if p.held.any (fun d => d.op == o.id && (o.cls == .ld || d.taddr.toNat / 2 ^ logPage == va / 2 ^ logPage)) then s
      else
        let d : Delivery :=
          { engine := false, cls := o.cls, code := BitVec.ofNat 8 tcAccess, detail := BitVec.ofNat 8 detail
            taddr := BitVec.ofNat 64 va, tword := o.pc, op := o.id, ticket := 0, tiles := [] }
        s.updPart { core := o.core, slot := o.slot, base := p.base } (fun p => { p with held := p.held ++ [d] })

/-- Holds the failures that a lookup or a walk has found among some accesses. -/
def State.holdFailures (s : State) (o : MemOp) (accs : List Access) : State :=
  accs.foldl (fun s a => match a.phase with
    | .failed d => s.holdFailure o d a.va a.logPage
    | _ => s) s

/-- Frees the side-log entries of an operation whose accesses have performed or failed (R194, R195). -/
def State.freeLog (s : State) (id : Nat) : State :=
  match s.op? id with
  | none => s
  | some o =>
    s.updCore o.core (fun k => { k with sideLog := k.sideLog.filter (fun e =>
      e.op != id || o.accs.any (fun a => e.covers o.asid a.va && a.isOpen)) })

/-- Ends the accesses that a test picks with an ACCESS detail: one delivery for each page of 2^`logPage` bytes, at its first. -/
def State.failAccesses (s : State) (id detail logPage : Nat) (pick : Access → Bool) : State :=
  match s.op? id with
  | none => s
  | some o =>
    let bad := fun (a : Access) => { a with phase := .failed detail, logPage := logPage }
    let s := s.updOp id (fun o => { o with accs := o.accs.map (fun a => if pick a then bad a else a) })
    (s.holdFailures o ((o.accs.filter pick).map bad)).freeLog id

/-! ### Translation -/

/-- What an operation needs of a leaf (R184). -/
def OpKind.need : OpKind → Need
  | .load _ _ _ => .read
  | .sload _ => .read
  | .store => .write
  | .atom _ (some _) => .readWrite
  | .atom _ none => .write
  | .qenq _ => .readWrite
  | .qdeq _ => .readWrite
  | _ => .read

/-- KIND of its fault record (R189, 21 R464). -/
def MemOp.recordKind (o : MemOp) : Nat :=
  match o.kind with
  | .qenq _ => 1
  | .qdeq _ => 2
  | .atom _ (some _) => 2
  | _ => if o.cls = .st then 1 else 0

/-- A store that performs in the core's L1 (R196, R223). -/
def narrowStore (kind cp scope : Nat) : Bool := cp != 2 && (kind == 2 || (kind == 0 && decide (scope < 3)))

/-- The access can be served by the L1 alone. -/
def State.l1Route (s : State) (o : MemOp) (kind cp pa size : Nat) : Bool :=
  match o.kind with
  | .load _ _ _ => kind != 1 && cp != 2 && s.l1Valid o.core pa size
  | .sload _ => kind != 1 && cp != 2 && s.l1Valid o.core pa size
  | .store => narrowStore kind cp o.scope
  | _ => false

/-- The access with a leaf: failed, or ready to arrive `delay` cycles on plus its path (R27). -/
def State.resolved (s : State) (o : MemOp) (a : Access) (cp : Nat) (pte logPage delay : Nat) : Access :=
  let pa := paOf pte logPage a.va
  match s.leafFault o.kind.need pte pa with
  | some d => { a with phase := .failed d, logPage := logPage }
  | none =>
    let kind := leafKind pte
    let cp := effCp cp pte
    let l1 := s.l1Route o kind cp pa a.size
    { a with phase := .ready, pa := pa, kind := kind, cp := cp, logPage := logPage, l1 := l1
             arrival := s.dcc + delay + (if l1 then 20 else slicePath o.core pa), due := 0 }

/-- The addresses that the next reference of a walk reads: the first reads its ASID's table entry too, which takes no time of its own
(R186). -/
def State.walkNext (s : State) (w : Walk) : List Nat :=
  (if w.made = 0 then [(s.die (dieOf w.core)).asidt.toNat + 8 * w.asid.toNat] else [])
  ++ ((s.walkRefs (dieOf w.core) w.asid w.va)[w.made]?).toList

/-- The cycle in which a walk's next reference reaches its slice, when the one before is back at `t` (R186). -/
def State.refTime (s : State) (w : Walk) (t : Nat) : Nat :=
  t + (match (s.walkRefs (dieOf w.core) w.asid w.va)[w.made]? with | some pa => slicePath w.core pa | none => 0)

/-- A walker of the 64 of a die is free (R187). -/
def State.walkerFree (s : State) (die : Nat) : Bool :=
  decide ((s.walks.filter (fun w => dieOf w.core == die && w.due.isSome)).length < 64)

/-- A free walker of a die takes the oldest walk that waits for one. -/
def State.takeWalk (s : State) (die : Nat) : State :=
  match s.walks.find? (fun w => dieOf w.core == die && w.due.isNone) with
  | none => s
  | some w =>
    if s.walkerFree die then
      { s with walks := s.walks.map (fun x => if x.id = w.id then { x with due := some (s.refTime w (max s.dcc w.since)) } else x) }
    else s

/-- Starts a walk, unless one of the same page is under way (R186). -/
def State.startWalk (s : State) (core : Nat) (asid : BitVec 16) (va : Nat) : State :=
  if s.walks.any (fun w => w.core == core && w.asid == asid && w.va / 65536 == va / 65536 && !w.discarded)
  then s
  else
    let w : Walk := { id := s.nextId, core := core, asid := asid, va := va, since := s.dcc + 40, made := 0, due := none, discarded := false }
    { s with walks := s.walks ++ [w], nextId := s.nextId + 1 }.takeWalk (dieOf core)

/-- The access bypasses the L1: no-L1, an S page, an atomic, a queue request (R185, R196, R197, R219). -/
def bypasses (o : MemOp) (a : Access) : Bool :=
  a.kind == 1 || a.cp == 2 || (match o.kind with | .atom _ _ => true | .qenq _ => true | .qdeq _ => true | _ => false)

/-- The sectors that go back ahead of an access that bypasses the L1: those it accesses, and for an atomic or a queue request every
one of the line (R197, R203, R219). -/
def sectorsAhead (o : MemOp) (a : Access) : BitVec 4 :=
  match o.kind with
  | .load _ _ _ => sectorsOf a.pa a.size
  | .sload _ => sectorsOf a.pa a.size
  | .store => sectorsOf a.pa a.size
  | _ => 0xF

/-- The core's dirty sectors go back ahead of an access that bypasses the L1 (R197, R219). -/
def State.sendAhead (s : State) (o : MemOp) (a : Access) : State :=
  if a.phase = .ready ∧ bypasses o a then s.sendSectors 0 o.core (a.pa / 128) (sectorsAhead o a) else s

/-- Looks one access up, and walks on a miss; `cp` is the instruction's policy, kept in the access until a leaf is
found, and `extra` the coalescer's delay. -/
def State.lookAccess (s : State) (o : MemOp) (a : Access) : State × Access :=
  match s.tlbLook o.core false o.asid a.va with
  | (s, some e, d) =>
    let a := s.resolved o a a.cp e.leaf.toNat e.logPage (d + a.due)
    (s.sendAhead o a, a)
  | (s, none, _) => (s.startWalk o.core o.asid a.va, { a with phase := .walk })

/-- Looks every access of a list up in turn. -/
def State.lookAll (s : State) (o : MemOp) : List Access → State × List Access
  | [] => (s, [])
  | a :: r =>
    if a.phase = .walk then
      let x := s.lookAccess o a
      let y := x.1.lookAll o r
      (y.1, x.2 :: y.2)
    else
      let y := s.lookAll o r
      (y.1, a :: y.2)

/-- The faulting extents for which a store-class operation takes side-log entries: the page of an entry that stands in
the log, or a page that is not present (R193, R194). -/
def State.logPages (s : State) (core : Nat) (asid : BitVec 16) (vas : List Nat) : List (Nat × Nat) :=
  vas.foldl (fun acc va =>
    if acc.any (fun e => decide (e.1 ≤ va) && decide (va < e.1 + e.2)) then acc
    else
      match (s.core core).sideLog.find? (fun e => e.covers asid va) with
      | some e => acc ++ [(e.page, e.size)]
      | none =>
        match s.walk (dieOf core) asid va with
        | .nonPresent x => acc ++ [(va / 2 ^ x * 2 ^ x, 2 ^ x)]
        | _ => acc) []

/-- Free entries of a core's side log. -/
def State.logFree (s : State) (core : Nat) : Nat := 128 - (s.core core).sideLog.length

def State.takeLog (s : State) (core id : Nat) (asid : BitVec 16) (pages : List (Nat × Nat)) : State :=
  s.updCore core (fun k => { k with sideLog := k.sideLog ++ pages.map (fun e => { op := id, asid := asid, page := e.1, size := e.2 }) })

/-! ### Performing -/

/-- New value of an atomic of `w` bits (R399). -/
def atomNew (op w old data data2 : Nat) : Nat :=
  let f := if w = 32 then fmtF32 else fmtF64
  let si := fun (x : Nat) => (if x < 2 ^ (w - 1) then (x : Int) else (x : Int) - 2 ^ w)
  match op with
  | 0 => data
  | 1 => if old = data then data2 else old
  | 2 => (old + data) % 2 ^ w
  | 3 => if si old ≤ si data then old else data
  | 4 => if si old ≤ si data then data else old
  | 5 => min old data
  | 6 => max old data
  | 7 => old &&& data
  | 8 => old ||| data
  | 9 => old ^^^ data
  | 10 => (f.fadd rmRne false old data).bits
  | 11 => (f.minMax false false old data).bits
  | 12 => (f.minMax false true old data).bits
  | _ => if data ≤ old then 0 else old + 1

/-- A load at the L1. A request whose line has gone goes on to the slice (R196). -/
def State.loadL1 (s : State) (o : MemOp) (a : Access) : State × Access :=
  if s.l1Valid o.core a.pa a.size then
    let due := max s.dcc (s.l1Ready o.core a.pa a.size)
    let s := s.l1Install o.core (a.pa / 128) a.kind o.asid (a.cp == 1)
    (s, { a with phase := .done, data := s.coreBytes o.core a.pa a.size, due := due })
  else (s, { a with phase := .ready, l1 := false, arrival := s.dcc + slicePath o.core a.pa })

/-- A load performs at its slice, and fills the L1 unless it bypasses it (R196, R197, R211). Its line is in L1 and L2 from then on,
but no later access has it before the data's own latency has passed (notes/assumptions/12.md); `path` is what the request still
has to go. -/
def State.loadSlice (s : State) (o : MemOp) (a : Access) (path : Nat) : State × Access :=
  let ready := s.dcc + path + s.beyondSlice a.pa
  let s := (s.touchBank a.pa).l2Use a.pa a.cp ready
  if bypasses o a then
    (s.dropClean o.core (a.pa / 128) (sectorsOf a.pa a.size), { a with phase := .done, data := readBytes s.mem a.pa a.size, due := ready })
  else
    let s := s.l1Fill o.core a.pa a.size a.kind o.asid (a.cp == 1) ready
    (s, { a with phase := .done, data := s.coreBytes o.core a.pa a.size, due := ready })

/-- A load performs (R196, R197, R211). -/
def State.performLoad (s : State) (o : MemOp) (a : Access) : State × Access :=
  if !bypasses o a && (a.l1 || s.l1Valid o.core a.pa a.size) then s.loadL1 o a
  else if s.pinned (some o.core) a.pa then (s.refuse a.pa, { a with phase := .refused })
  else s.loadSlice o a 0

/-- A store performs (R196, R209, R220, R221). One that writes through patches a line that the L1 has and allocates none there (DESIGN
CHOICE, notes/assumptions/12.md). -/
def State.performStore (s : State) (o : MemOp) (a : Access) : State × Access :=
  if narrowStore a.kind a.cp o.scope ∧ (a.kind = 2 ∨ s.pinned (some o.core) a.pa = false) then
    (s.l1Store o.core o.slot o.admission a.pa a.data a.kind o.asid a.cp, { a with phase := .done, due := s.dcc })
  else if s.pinned (some o.core) a.pa then (s.refuse a.pa, { a with phase := .refused })
  else
    -- at sys scope a store to a peer or host page performs at the remote home (R209)
    let late := s.bankDelay a.pa + (if o.scope = 6 ∧ !l2Cached a.pa then homeExtra a.pa else 0)
    let ready := s.dcc + s.beyondSlice a.pa
    let s := if bypasses o a then s.dropClean o.core (a.pa / 128) (sectorsOf a.pa a.size) else s.patchL1 o.core a.pa a.data
    ((s.slicePut 0 o.core a.pa a.data).l2Use a.pa a.cp ready, { a with phase := .done, due := s.dcc + late })

/-- An atomic performs at its home slice (R219, R400); its cache policy decides nothing else (19 R398). -/
def State.performAtom (s : State) (o : MemOp) (op : Nat) (a : Access) : State × Access :=
  if s.pinned (some o.core) a.pa then (s.refuse a.pa, { a with phase := .refused })
  else
    let ready := s.dcc + s.beyondSlice a.pa
    let s := s.dropClean o.core (a.pa / 128) (sectorsOf a.pa a.size)
    let old := readBytes s.mem a.pa a.size
    let new := atomNew op (8 * a.size) (natOfBytes old) (natOfBytes a.data) (natOfBytes a.data2)
    ((s.slicePut 0 o.core a.pa (bytesOfNat a.size new)).l2Use a.pa 0 ready, { a with phase := .done, data := old, due := ready })

/-- Performs one access of an operation of plain memory. An access that bypasses the L1 first has the core's dirty sectors of its
line sent back, and performs behind them (R197, R219). -/
def State.performAccess (s : State) (o : MemOp) (a : Access) : State × Access :=
  if bypasses o a ∧ s.sectorsBusy o.core (a.pa / 128) (sectorsAhead o a) then (s.sendSectors 0 o.core (a.pa / 128) (sectorsAhead o a), a)
  else
    match o.kind with
    | .load _ _ _ => s.performLoad o a
    | .sload _ => s.performLoad o a
    | .store => s.performStore o a
    | .atom op _ => s.performAtom o op a
    | _ => (s, a)

/-- The access has reached its place and nothing holds it back: no earlier access, no release's write-back, none of its own
line; a refused access is taken up again when its pin has gone, or has
given way to one that has refused nothing yet (R221, R222). -/
def State.canPerform (s : State) (o : MemOp) (a : Access) : Bool :=
  (match a.phase with
    | .ready => decide (a.arrival ≤ s.dcc)
    | .refused => s.retryDue (some o.core) [a.pa]
    | _ => false)
  && !(bypasses o a && s.backs.any (fun b => b.core == o.core && b.line == a.pa / 128 && b.sectors &&& sectorsAhead o a != 0)) && !s.accessBlocked o a

/-- Replaces the access of a lane. -/
def MemOp.putAccess (o : MemOp) (a : Access) : MemOp :=
  { o with accs := o.accs.map (fun b => if b.lane = a.lane then a else b) }

/-- Performs, in lane order, every access of an operation that can. -/
def State.performLanes (s : State) (id : Nat) : List Nat → State
  | [] => s
  | l :: r =>
    match s.op? id with
    | none => s
    | some o =>
      match o.accs.find? (fun a => a.lane == l) with
      | none => s.performLanes id r
      | some a =>
        if s.canPerform o a then
          let x := s.performAccess o a
          (x.1.updOp id (fun o => o.putAccess x.2)).performLanes id r
        else s.performLanes id r

/-- The parts that hold an operation begin a new region behind it (12 R281). -/
def State.regionBehind (s : State) (o : MemOp) : State :=
  match s.opWave o with
  | none => s
  | some w =>
    (w.parts.filter (fun p => p.holdsOp o.id)).foldl (fun s p =>
      let r : PartRef := { core := o.core, slot := o.slot, base := p.base }
      (s.beginRegion r o.next true).updPart r (fun q => { q with regionAt := o.issued })) s

/-- Actions owed once all accesses of an operation have performed: an acquire's invalidation before any later access
(R216), and the region of an atomic. -/
def State.afterPerform (s : State) (id : Nat) : State :=
  match s.op? id with
  | none => s
  | some o =>
    if o.acted || o.accs.any Access.isOpen || !(o.accs.any (fun a => a.phase == .done)) then s
    else
      let s := s.updOp id (fun o => { o with acted := true })
      let s := if o.ord % 2 = 1 then s.acquireL1 o.core o.scope else s
      match o.kind with
      | .atom _ _ => s.regionBehind o
      | _ => s

/-- Loads, stores and atomics of plain memory. -/
def OpKind.plain : OpKind → Bool
  | .load _ _ _ => true
  | .sload _ => true
  | .store => true
  | .atom _ _ => true
  | _ => false

/-- Performs what can be performed of an operation of plain memory. -/
def State.performOp (s : State) (id : Nat) : State :=
  match s.op? id with
  | none => s
  | some o =>
    if o.kind.plain then (((s.startRelease id).performLanes id (o.accs.map (fun a => a.lane))).freeLog id).afterPerform id else s

/-! ### Completion (R119, R223) -/

/-- The result of an access is back. -/
def Access.returned (now : Nat) (a : Access) : Bool := a.phase == .done && decide (a.due ≤ now)

/-- Registers that a loaded value of some bytes fills: zero-extended below a word. -/
def loadWrites (lane dst n : Nat) (data : List Byte) : List (Nat × Nat × W32) := regWrites lane dst (natOfBytes data) n

/-- A result that returns into a released register is discarded (02 R36). -/
def keepHeldRegs (w : Wave) (depth : Nat) (ws : List (Nat × Nat × W32)) : List (Nat × Nat × W32) :=
  if depth = 0 then ws.filter (fun e => decide (e.2.1 < w.allot)) else ws

/-- Vector writes of what has returned. -/
def MemOp.writes (o : MemOp) (now : Nat) : Nat × List (Nat × Nat × W32) :=
  let back := o.accs.filter (Access.returned now)
  match o.kind with
  | .load depth dst n => (depth, back.flatMap (fun a => loadWrites a.lane dst n a.data))
  | .scratchLoad depth dst n => (depth, back.flatMap (fun a => loadWrites a.lane dst n a.data))
  | .atom _ (some (depth, dst)) => (depth, back.flatMap (fun a => loadWrites a.lane dst (a.size / 4) a.data))
  | .scratchAtom (some (depth, dst)) => (depth, back.flatMap (fun a => loadWrites a.lane dst (a.size / 4) a.data))
  | .chrecv _ depth dst m active =>
    (depth, back.flatMap (fun a =>
      let w := a.size
      (lanesOf active).flatMap (fun l =>
        (List.range m).map (fun k =>
          (l, dst + k, BitVec.ofNat 32 (natOfBytes ((a.data.drop (4 * (k * w + (l - a.lane)))).take 4)))))))
  | .unit depth dst n _ => (depth, back.flatMap (fun a => loadWrites a.lane dst n a.data))
  | _ => (0, [])

/-- Uniform writes of what has returned. -/
def MemOp.uniformWrites (o : MemOp) (now : Nat) : List (Nat × W64) :=
  let back := o.accs.filter (Access.returned now)
  match o.kind with
  | .sload d => back.map (fun a => (d, BitVec.ofNat 64 (natOfBytes a.data)))
  | .qdeq d => back.map (fun a => (d, BitVec.ofNat 64 (natOfBytes a.data)))
  | _ => []

/-- Writes the destinations of everything that has returned. -/
def State.writeBack (s : State) (id : Nat) : State :=
  match s.op? id with
  | none => s
  | some o =>
    let s := s.updOp id (fun o => { o with accs := o.accs.map (fun a => if a.returned s.dcc then { a with phase := .back } else a) })
    match s.opWave o with
    | none => s
    | some w =>
      let vw := o.writes s.dcc
      let us := o.uniformWrites s.dcc
      s.updWave o.key (fun w' =>
        let w' := w'.setVs vw.1 (keepHeldRegs w vw.1 vw.2)
        { w' with parts := w'.parts.map (fun p =>
            if p.holdsOp id then us.foldl (fun p e => p.setS e.1 e.2) p else p) })

/-- The operation is the oldest of its class in every part that holds it. -/
def headOfClass (w : Wave) (o : MemOp) : Bool :=
  w.parts.all (fun p => !(p.opsOf o.cls).contains o.id || (p.opsOf o.cls).head? == some o.id)

/-- Nothing of the operation is left to do. -/
def State.opOver (s : State) (o : MemOp) : Bool :=
  o.accs.all Access.ended && decide (o.due ≤ s.dcc) && !o.parked && !(s.posted.any (fun p => p.op == some o.id)) &&
  (match s.opWave o with
    | none => true
    | some w => headOfClass w o)

/-- A part without an operation of class LD or ST. -/
def Part.dropOp (p : Part) (id : Nat) : Part :=
  { p with ldOps := p.ldOps.filter (fun i => i != id), stOps := p.stOps.filter (fun i => i != id)
           acquiring := p.acquiring.filter (fun i => i != id), before := p.before.filter (fun i => i != id) }

/-- Counts an operation complete in every part that holds it. -/
def State.retire (s : State) (o : MemOp) : State :=
  let s := match s.opWave o with
    | none => s
    | some _ =>
      s.updWave o.key (fun w => { w with parts := w.parts.map (fun (p : Part) =>
        (if p.holdsOp o.id then p.arriveStatus s.dcc o.status else p).dropOp o.id) })
  s.dropOp o.id

/-- Performs, writes back and, when all is done, completes an operation. -/
def State.advanceOp (s : State) (id : Nat) : State :=
  let s := (s.performOp id).writeBack id
  match s.op? id with
  | none => s
  | some o => if s.opOver o then s.retire o else s

/-! ### Issue of an operation -/

/-- A new operation of a part, counted in its class; an acquire holds later instructions back (R216). -/
def State.newOp (s : State) (c : Ctx) (cls : Cls) (kind : OpKind) (len ord scope sub : Nat) (accs : List Access) (due : Nat) :
    State × MemOp :=
  let o : MemOp :=
    { id := s.nextId, core := c.ref.core, slot := c.ref.slot, admission := c.wave.admission, group := c.wave.group, launch := c.wave.launch
      asid := c.part.regs.asid, cls := cls, pc := c.part.pc, next := c.next len, kind := kind, ord := ord, scope := scope
      sub := sub, accs := accs, issued := s.dcc, due := due, parked := false, arrival := due, acted := false
      status := 0, lane := 0, reads := [], relAt := none }
  let s := { s with ops := s.ops ++ [o], nextId := s.nextId + 1 }
  (s.updPart c.ref (fun p =>
    let q := p.addOp cls o.id
    { q with acquiring := if ord % 2 = 1 then p.acquiring ++ [o.id] else p.acquiring }), o)

/-- Distinct 128-byte lines of a list of addresses. -/
def lineCount (vas : List Nat) : Nat := (vas.foldl (fun l a => addNew l (a / 128)) []).length

/-- Holds the partition's memory pipe for the coalescer (R198). -/
def State.holdPipe (s : State) (c : Ctx) (lines : Nat) : State :=
  s.updCore c.ref.core (fun k => { k with memBusy := putT k.memBusy c.wave.partition (s.dcc + (lines + 3) / 4) })

end Sys2Proof.Machine
end

