-- ==== Sys2Proof/Machine/SysRegs.lean ====
section
/-! DEFINITION. System registers (04 R88-R93; 22 R491, R492) and `tlbi` (22 R505). -/

namespace Sys2Proof.Machine

/-- A number placed at a bit of a register. -/
def at_ (v lo : Nat) : Nat := v * 2 ^ lo
def bool1 (b : Bool) : Nat := if b then 1 else 0

/-- A count as a CNT field shows it (03 R69). -/
def shown (n : Nat) : Nat := min n 255

/-- EMASK of the part as `srget` reads it: lane b + i in bit i (R88). -/
def Ctx.emaskReg (c : Ctx) : W64 := (c.emask &&& laneRange c.part.base c.part.width) >>> c.part.base

/-- Value of a system register (R92). -/
def State.sysReg (s : State) (c : Ctx) (idx : Nat) : Nat :=
  let p := c.part
  let r := p.regs
  let k := s.core c.ref.core
  let core := c.ref.core
  if idx = 0x00 then s.dcc % 2 ^ 64
  else if idx = 0x01 then c.emaskReg.toNat
  else if idx = 0x02 then
    p.base + at_ (Nat.log2 p.width) 8 + at_ c.wave.widx 16 + at_ c.ref.slot 20 + at_ (bool1 p.masked) 27 + at_ p.depth 28
  else if idx = 0x03 then
    c.wave.widx + at_ (c.group.num % 2 ^ 24) 8 + at_ (c.launch.id % 2 ^ 16) 32 + at_ c.launch.queue 48
      + at_ c.launch.prio 54 + at_ (if c.group.nacc = 0 then 0 else c.group.t0) 60
  else if idx = 0x04 then
    coreX core + at_ (coreY core) 4 + at_ (dieOf core) 8 + at_ (clusterOf core) 16 + at_ c.wave.partition 24
      + at_ (coreX core - c.launch.x0) 32 + at_ (coreY core - c.launch.y0) 36
  else if idx = 0x05 then r.wb.toNat
  else if idx = 0x06 then c.allot
  else if idx = 0x07 then r.ix0.toNat + at_ r.ix1.toNat 16
  else if idx = 0x08 then r.fpmode.toNat
  else if idx = 0x09 then r.fpstat.toNat
  else if idx = 0x0A then r.amaxv.toNat + at_ (bool1 r.amaxnan) 32
  else if idx = 0x0B then
    shown p.ldOps.length + at_ (shown p.stOps.length) 8 + at_ (shown p.cpOps.length) 16 + at_ (shown p.mxOps.length) 24
  else if idx = 0x0C then p.region.toNat % 2 ^ 57 / 4 * 4 + at_ p.regionCount 57
  else if idx = 0x0D then p.tcodeReg.toNat + at_ p.tdetail.toNat 8 + at_ (bool1 p.restart) 16
  else if idx = 0x0E then p.taddr.toNat
  else if idx = 0x0F then p.tword.toNat
  else if idx = 0x10 then r.fcode.toNat + at_ (bool1 r.unwound) 8 + at_ r.gate.toNat 16
  else if idx = 0x11 then r.asid.toNat + at_ r.domain.toNat 16 + at_ (bool1 r.privseg) 24
  else if idx = 0x12 then p.mxRow.toNat + at_ p.mxTile.toNat 16 + at_ (bool1 p.mxActive) 31
  else if idx = 0x13 then r.status.toNat
  else if idx = 0x14 then bool1 r.split + at_ (bool1 r.miss) 1 + at_ r.minw.toNat 4
  else if idx = 0x20 then r.handler.toNat
  else if idx = 0x21 then r.gtable.toNat + r.gtlogn.toNat
  else if idx = 0x22 then c.wave.timeout + at_ (bool1 c.wave.pend) 32
  else if 0x24 ≤ idx ∧ idx ≤ 0x27 then (getT 0 k.watch (idx - 0x24)).toNat
  else if idx = 0x28 then
    let u := s.cluster (clusterOf core)
    wrapInt 32 u.allow + at_ (if u.refill = 0 then 1 else u.refill.toNat) 32
  else if 0x30 ≤ idx ∧ idx ≤ 0x3F then
    let b := fun j => getT 1024 k.poolPrev (4 * (idx - 0x30) + j)
    b 0 + at_ (b 1) 16 + at_ (b 2) 32 + at_ (b 3) 48
  else 0

/-- A privileged register index (R90). -/
def privIndex (idx : Nat) : Bool := decide (0x20 ≤ idx) && decide (idx ≤ 0x3F)

/-- `srget` (R492). -/
def execSrget (u : UWord) : State → Out :=
  issue { s := u.s, len := 4, priv := privIndex u.index }
    (fun c st => (st.updPart c.ref (fun p => p.setS u.d.toNat (BitVec.ofNat 64 (st.sysReg c u.index)))).done c 4)

/-- A written value raises ILLEGAL (R53, R92; 16 R365). -/
def badSrset (c : Ctx) (idx : Nat) (v : W64) : Bool :=
  let n := v.toNat
  if idx = 0x05 then n % 256 % 16 != 0 || decide (128 < n % 256)
  else if idx = 0x08 then decide (4 ≤ n % 8)
  else if idx = 0x14 then
    let m := n / 16 % 8
    m == 0 || decide (6 ≤ m) || (c.wave.cm && (decide (m ≤ 2) || m == 5))
  else if idx = 0x21 then decide (16 < n % 32)
  else false

/-- The part after a write of a per-part register. -/
def Part.srset (p : Part) (idx : Nat) (v : W64) : Part :=
  let r := p.regs
  let x := fun (lo len : Nat) => v.extractLsb' lo len
  if idx = 0x05 then { p with regs := { r with wb := x 0 8 } }
  else if idx = 0x07 then { p with regs := { r with ix0 := x 0 16, ix1 := x 16 16 } }
  else if idx = 0x08 then { p with regs := { r with fpmode := x 0 4 } }
  else if idx = 0x09 then { p with regs := { r with fpstat := r.fpstat &&& ~~~(x 0 5) } }
  else if idx = 0x0A then { p with regs := { r with amaxv := (x 0 31).setWidth 32, amaxnan := v.getLsbD 32 } }
  else if idx = 0x0D then { p with tcodeReg := x 0 8, tdetail := x 8 8, restart := v.getLsbD 16 }
  else if idx = 0x0E then { p with taddr := v }
  else if idx = 0x0F then
    { p with tword := v &&& 0x01FFFFFFFFFFFFFF, tframe := p.tframe.map (fun f => { f with wrote := true }) }
  else if idx = 0x10 then { p with regs := { r with fcode := x 0 8, unwound := v.getLsbD 8, gate := x 16 16 } }
  else if idx = 0x13 then { p with regs := { r with status := r.status &&& ~~~(x 0 4) } }
  else if idx = 0x14 then { p with regs := { r with split := v.getLsbD 0, miss := v.getLsbD 1, minw := x 4 3 } }
  else if idx = 0x20 then { p with regs := { r with handler := v &&& 0x01FFFFFFFFFFFFFC } }
  else if idx = 0x21 then { p with regs := { r with gtable := v &&& 0x01FFFFFFFFFFFFE0, gtlogn := x 0 5 } }
  else p

/-- Flags that an update of this cycle has set, FPSTAT in bits 4:0 and STATUS in bits 8:5: a clear leaves them (R91). -/
def Part.freshFlags (p : Part) (now : Nat) : BitVec 9 :=
  p.flags.foldl (fun a e => if e.1 = now then a ||| e.2 else a) ((if p.statusAt = now then p.statusNew else 0).setWidth 9 <<< 5)

/-- A write of PREEMPT: of the parts that write it in one cycle the one with the lowest lane base prevails (R94). -/
def Wave.writeTimeout (w : Wave) (now base : Nat) (v : W64) : Wave :=
  if (match w.timeoutBy with | some (t, b) => t == now && decide (b < base) | none => false) then w
  else { w with timeout := v.toNat % 2 ^ 32, timeoutBy := some (now, base) }

/-- The machine after a write of a system register (R89, R92, R94). -/
def State.srset (s : State) (c : Ctx) (idx : Nat) (v : W64) : State :=
  if idx = 0x01 then
    let can := c.part.cur &&& ~~~c.wave.exited
    let on := v <<< c.part.base
    s.updWave c.ref.key (fun w => { w with off := (w.off &&& ~~~can) ||| (can &&& ~~~on) })
  else if idx = 0x22 then s.updWave c.ref.key (fun w => w.writeTimeout s.dcc c.ref.base v)
  else if 0x24 ≤ idx ∧ idx ≤ 0x27 then
    s.updCore c.ref.core (fun k => { k with watch := setT 0 k.watch (idx - 0x24) (v &&& 0x01FFFFFFFFFFFFC7) })
  else if idx = 0x09 then s.updPart c.ref (fun p => p.srset idx (v &&& ~~~((p.freshFlags s.dcc).setWidth 64)))
  else if idx = 0x13 then s.updPart c.ref (fun p => p.srset idx (v &&& ~~~((p.freshFlags s.dcc >>> 5).setWidth 64)))
  else s.updPart c.ref (fun p => p.srset idx v)

/-- `srset` (R492): a value its field forbids raises ILLEGAL with TADDR the uniform register (12 R517). -/
def execSrset (u : UWord) : State → Out :=
  issue { s := u.s, len := 4, priv := privIndex u.index }
    (fun c st =>
      let v := c.sreg u.d.toNat
      if badSrset c u.index v then st.precise c tcIllegal 0 (BitVec.ofNat 64 u.d.toNat)
      else (st.srset c u.index v).done c 4)

/-- `tlbi` (R505): translations of the package, and every cache of gate and domain entries. -/
def execTlbi (u : UWord) : State → Out :=
  issue { s := u.s, len := 4, priv := true }
    (fun c st =>
      let a := (c.sreg u.a.toNat).toNat % 2 ^ 57
      let st := st.tlbInvalidate (u.d.toNat % 4) ((c.sreg u.b.toNat).extractLsb' 0 16) a
      let st := { st with cores := st.cores.map (fun (e : Nat × Core) => (e.1, { e.2 with gateCache := [] })) }
      st.done c 4)

end Sys2Proof.Machine
end

