-- ==== Sys2Proof/Machine/MemOps.lean ====
section
/-! DEFINITION. The memory group (05 R127; 19 R398-R402, R413-R415; 09 R218; 20 R445-R447; 21 R457, R458; 22 R493-R496) and
the uniform loads and stores (22 R481, R482). -/

namespace Sys2Proof.Machine

/-! ### Checks at issue -/

/-- A core watchpoint matches an access (12 R293). -/
def watchMatches (w : W64) (rd wr : Bool) (va size : Nat) : Bool :=
  w.getLsbD 0 && ((rd && w.getLsbD 1) || (wr && w.getLsbD 2))
  && overlaps va size (w.toNat / 64 * 64 % 2 ^ 57) 64

/-- The WATCH an instruction takes: the lowest matching watchpoint and its first address in lane order. -/
def State.watchHit (s : State) (c : Ctx) (rd wr : Bool) (accs : List Access) : Option (Nat × Nat) :=
  if c.part.tcode ≠ 0 ∨ c.part.watchSkip then none
  else
    (List.range 4).findSome? (fun k =>
      (accs.find? (fun a => !c.wave.helper.getLsbD a.lane && watchMatches (getT 0 (s.core c.ref.core).watch k) rd wr a.va a.size)).map
        (fun a => (k, a.va)))

/-- Address traps of a global instruction: bits 63:57, then alignment, each at its first lane (R445). -/
def addressTrap (size : Nat) (vas : List Nat) : Option (Nat × Nat × W64) :=
  match vas.find? (fun a => decide (2 ^ 57 ≤ a)) with
  | some a => some (tcAccess, 5, BitVec.ofNat 64 a)
  | none =>
    match vas.find? (fun a => a % size != 0) with
    | some a => some (tcAlign, 0, BitVec.ofNat 64 a)
    | none => none

/-- A new access, not looked up yet; `extra` is the coalescer's delay. -/
def newAccess (lane va size cp extra : Nat) (data data2 : List Byte) : Access :=
  { lane := lane, va := va, size := size, data := data, data2 := data2, phase := .walk, pa := 0, kind := 0, cp := cp
    logPage := 0, arrival := 0, due := extra, l1 := false }

/-- What a release form waits for before it issues: the part's side-log entries; then it delivers a rejected one (R195). Its
accesses wait for the part's earlier ones in the memory unit (R217). -/
def State.releaseWait (s : State) (c : Ctx) (ord : Nat) : Option State :=
  if !isRelease ord then none
  else if s.partLogged c.ref.core c.part then some (s.parkOn c .noLog)
  else (c.part.heldOf [.st]).map (fun d => s.deliverHeld c d)

/-- What an instruction that orders every earlier access of its part waits for as it issues: that they have performed, and the
delivery of a rejected one of some classes (R217, R218). -/
def State.drainFirst (s : State) (c : Ctx) (ks : List Cls) : Option State :=
  if !s.drained c.ref.core c.part then some (s.parkOn c .ldStZero) else (c.part.heldOf ks).map (fun d => s.deliverHeld c d)

/-- A release that performs as its instruction issues: it waits for the earlier accesses, then for the write-backs of the
core's L1 (R217). -/
def State.releaseFirst (s : State) (c : Ctx) (scope : Nat) (ks : List Cls) : Option State :=
  match s.drainFirst c ks with
  | some s => some s
  | none => s.releaseAt c scope false

/-- The same for a form whose ORD may be no release. -/
def State.fullReleaseWait (s : State) (c : Ctx) (ord scope : Nat) : Option State :=
  if !isRelease ord then none else s.releaseFirst c scope [.st]

/-! ### Global accesses -/

/-- Issues a global operation whose checks have passed: its side-log entries, its acquire's invalidation, and the
lookup of every access. -/
def State.startOp (s : State) (c : Ctx) (cls : Cls) (kind : OpKind) (len ord scope sub : Nat) (accs : List Access) : State :=
  let stores := accs.filter (fun a => a.phase == .walk)
  let pages := if kind.logged then s.logPages c.ref.core c.part.regs.asid (stores.map (fun a => a.va)) else []
  if s.logFree c.ref.core < pages.length then s.parkOn c (.logRoom pages.length)
  else
    let s := if isAcquire ord then s.acquireL1 c.ref.core scope else s
    let (s, o) := s.newOp c cls kind len ord scope sub accs (s.dcc + 1)
    let s := s.takeLog c.ref.core o.id o.asid pages
    let (s, found) := s.lookAll o accs
    let s := s.updOp o.id (fun o => { o with accs := found })
    let s := s.holdFailures o found
    ((s.startRelease o.id).holdPipe c (lineCount (accs.map (fun a => a.va)))).done c len

/-- A lane-wise global instruction: its kind, and the access of an active lane at an address with a coalescer delay. -/
def globalOp (m : MWord) (x : XmWord) (len : Nat) (cls : Cls) (data : Vop) (rd wr : Bool) (kind : Ctx → OpKind)
    (access : Ctx → Nat → Nat → Nat → Option Access) : State → Out :=
  issue
    { s := m.s, len := len, regs := fun _ _ => data :: (mOffset m).toList, cls := some cls, mem := true }
    (fun c st =>
      match st.releaseWait c x.ord.toNat with
      | some st => st
      | none =>
        let lanes := lanesOf (c.xmActive x)
        let at_ := lanes.map (fun l => (l, c.globalAddr m x.off l))
        match addressTrap (szBytes x.sz) (at_.map Prod.snd) with
        | some (code, d, a) => st.precise c code d a
        | none =>
          let extra := (lineCount (at_.map Prod.snd) + 3) / 4 - 1
          let accs := at_.filterMap (fun e => access c e.1 e.2 extra)
          match st.watchHit c rd wr accs with
          | some (k, a) => st.precise c tcWatch k (BitVec.ofNat 64 a)
          | none => st.startOp c cls (kind c) len x.ord.toNat x.scope.toNat x.sub.toNat accs)

/-- `ld` (R445, R446). -/
def loadGlobal (m : MWord) (x : XmWord) (len : Nat) : State → Out :=
  let d := mData m.d x.sz
  globalOp m x len .ld d true false
    (fun c => .load c.part.depth (d.reg c.wb 0 0) d.unit)
    (fun _ l a extra => some (newAccess l a (szBytes x.sz) x.cp.toNat extra [] []))
def execLd (m : MWord) : State → Out := loadGlobal m xmDefault 4
/-- `ld` with an XM word (R445). -/
def execLdExt (m : MWord) (x : XmWord) : State → Out := loadGlobal m x 8

/-- `st` (R494, R495): helper lanes make no access. -/
def storeGlobal (m : MWord) (x : XmWord) (len : Nat) : State → Out :=
  let d := mData m.d x.sz
  globalOp m x len .st d false true (fun _ => .store)
    (fun c l a extra =>
      if c.wave.helper.getLsbD l then none
      else some (newAccess l a (szBytes x.sz) x.cp.toNat extra (bytesOfNat (szBytes x.sz) (c.vec l d 0 0)) []))
def execSt (m : MWord) : State → Out := storeGlobal m xmDefault 4
/-- `st` with an XM word (R494). -/
def execStExt (m : MWord) (x : XmWord) : State → Out := storeGlobal m x 8

/-- The register operand of an atomic: the data, or the comparand and the new value of `cas` (R399). -/
def atomData (d : BitVec 7) (x : XmWord) : Vop :=
  let u := if x.sz.toNat = 3 then 2 else 1
  { f := d.toNat, unit := if x.sub.toNat = 1 then 2 * u else u, al := u }

/-- Data and second data of a lane's atomic. -/
def atomBytes (c : Ctx) (d : Vop) (x : XmWord) (l : Nat) : List Byte × List Byte :=
  let n := szBytes x.sz
  let v := c.vec l d 0 0
  (bytesOfNat n v, if x.sub.toNat = 1 then bytesOfNat n (v / 2 ^ (8 * n)) else [])

/-- `atom` (R398-R401): a helper lane has no effect and returns 0. -/
def atomGlobal (m : MWord) (x : XmWord) (len : Nat) : State → Out :=
  let d := atomData m.d x
  globalOp m x len (if m.nr then .st else .ld) d (!m.nr) true
    (fun c => .atom x.sub.toNat (if m.nr then none else some (c.part.depth, d.reg c.wb 0 0)))
    (fun c l a extra =>
      let b := atomBytes c d x l
      if c.wave.helper.getLsbD l then
        if m.nr then none
        else some { newAccess l a (szBytes x.sz) 0 0 (bytesOfNat (szBytes x.sz) 0) [] with phase := .done }
      else some (newAccess l a (szBytes x.sz) x.cp.toNat extra b.1 b.2))
def execAtom (m : MWord) : State → Out := atomGlobal m xmDefault 4
/-- `atom` with an XM word (R400). -/
def execAtomExt (m : MWord) (x : XmWord) : State → Out := atomGlobal m x 8

/-! ### Uniform accesses (R481, R482) -/

/-- `sld` or `sst`: one access for the part, if a lane qualifies. -/
def uniformAccess (u : UWord) (x : XmWord) (len : Nat) (load : Bool) : State → Out :=
  issue
    { s := u.s, len := len, cls := some (if load then .ld else .st), mem := true }
    (fun c st =>
      match st.releaseWait c x.ord.toNat with
      | some st => st
      | none =>
        let n := szBytes x.sz
        let a := ((((c.sreg u.a.toNat).toNat : Int) + x.off.toInt) % 2 ^ 64).toNat
        match addressTrap n [a] with
        | some (code, d, a) => st.precise c code d a
        | none =>
          let lanes := if load then c.emask else c.emask &&& ~~~c.wave.helper
          -- the one access is a helper's only when no other lane is active (12 R293)
          let own := lanes &&& ~~~c.wave.helper
          let accs :=
            if lanes = 0 then []
            else [newAccess ((lanesOf (if own = 0 then lanes else own)).headD 0) a n x.cp.toNat 0 (if load then [] else bytesOfNat n (c.sreg u.d.toNat).toNat) []]
          match st.watchHit c load (!load) accs with
          | some (k, a) => st.precise c tcWatch k (BitVec.ofNat 64 a)
          | none =>
            st.startOp c (if load then .ld else .st) (if load then .sload u.d.toNat else .store) len x.ord.toNat x.scope.toNat
              0 accs)
def execSld (u : UWord) : State → Out := uniformAccess u xmDefault 4 true
/-- `sld` with an XM word (R482). -/
def execSldExt (u : UWord) (x : XmWord) : State → Out := uniformAccess u x 8 true
/-- `sst` (R482). -/
def execSst (u : UWord) : State → Out := uniformAccess u xmDefault 4 false
/-- `sst` with an XM word (R482). -/
def execSstExt (u : UWord) (x : XmWord) : State → Out := uniformAccess u x 8 false

/-! ### Scratch (R177, R201, R303) -/

/-- Base and size, in bytes of the core's scratch, of what a part's scratch offsets address. -/
def Ctx.scratchArea (c : Ctx) : Nat × Nat :=
  match c.part.frames with
  | f :: _ => (f.scrBase * 8192, f.cscr * 8192)
  | [] => (c.group.scrBase * 8192, c.group.scr * 8192)

/-- Bytes of the scratch area at an offset. -/
def State.scratchRead (s : State) (c : Ctx) (off n : Nat) : List Byte :=
  readBytes s.scratch (scratchKey c.ref.core (c.scratchArea.1 + off)) n

/-- Writes scratch bytes of a core and marks their 256-byte lines as written since the last restore (12 R289). -/
def State.writeScratch (s : State) (core g abs : Nat) (bytes : List Byte) : State :=
  let s := { s with scratch := writeBytes s.scratch (scratchKey core abs) bytes }
  s.updGroup g (fun v => { v with dirtyLines :=
    (List.range (bytes.length / 256 + 2)).foldl (fun l k =>
      if (abs / 256 + k) * 256 < abs + bytes.length then addNew l (abs / 256 + k) else l) v.dirtyLines })
def State.scratchWrite (s : State) (c : Ctx) (off : Nat) (bytes : List Byte) : State :=
  s.writeScratch c.ref.core c.wave.group (c.scratchArea.1 + off) bytes

/-- Bank time of a scratch instruction: the most rows one bank serves (R201). -/
def bankCycles (offs : List Nat) : Nat :=
  let rows := offs.foldl (fun l o => addNew l (o / 64)) []
  max 1 ((List.range 32).foldl (fun m b => max m (rows.filter (fun r => r % 32 == b)).length) 0)

/-- Bounds, then alignment, of a scratch instruction (R177, R106). -/
def scratchTrap (area size : Nat) (offs : List Nat) : Option (Nat × Nat × W64) :=
  match offs.find? (fun o => decide (area < o + size)) with
  | some o => some (tcAccess, 4, BitVec.ofNat 64 o)
  | none =>
    match offs.find? (fun o => o % size != 0) with
    | some o => some (tcAlign, 0, BitVec.ofNat 64 o)
    | none => none

/-- A scratch instruction: its accesses perform at issue, lane by lane, and it completes after its bank time. -/
def scratchOp (m : MWord) (x : XmWord) (len : Nat) (cls : Cls) (data : Vop) (kind : Ctx → OpKind)
    (lane : Ctx → Nat → Nat → State → State × Option Access) (after : Ctx → State → State) : State → Out :=
  issue
    { s := m.s, len := len, regs := fun _ _ => data :: (mOffset m).toList, cls := some cls, mem := true }
    (fun c st =>
      match st.fullReleaseWait c x.ord.toNat x.scope.toNat with
      | some st => st
      | none =>
        let at_ := (lanesOf (c.xmActive x)).map (fun l => (l, c.scratchOff m x.off l))
        match scratchTrap c.scratchArea.2 (szBytes x.sz) (at_.map Prod.snd) with
        | some (code, d, a) => st.precise c code d a
        | none =>
          let r := at_.foldl (fun (acc : State × List Access) e =>
            match lane c e.1 e.2 acc.1 with
            | (s, some a) => (s, acc.2 ++ [a])
            | (s, none) => (s, acc.2)) (st, [])
          let due := st.dcc + 13 + bankCycles (at_.map Prod.snd)
          let accs := r.2.map (fun a => { a with phase := .done, due := due })
          let (st, _) := r.1.newOp c cls (kind c) len x.ord.toNat x.scope.toNat x.sub.toNat accs due
          (after c st).done c len)

/-- `ldl` (R447). -/
def loadScratch (m : MWord) (x : XmWord) (len : Nat) : State → Out :=
  let d := mData m.d x.sz
  scratchOp m x len .ld d (fun c => .scratchLoad c.part.depth (d.reg c.wb 0 0) d.unit)
    (fun c l off s => (s, some (newAccess l off (szBytes x.sz) 0 0 (s.scratchRead c off (szBytes x.sz)) [])))
    (fun _ s => s)
def execLdl (m : MWord) : State → Out := loadScratch m xmDefault 4
/-- `ldl` with an XM word (R447). -/
def execLdlExt (m : MWord) (x : XmWord) : State → Out := loadScratch m x 8

/-- `stl` (R496). -/
def storeScratch (m : MWord) (x : XmWord) (len : Nat) : State → Out :=
  let d := mData m.d x.sz
  scratchOp m x len .st d (fun _ => .scratchStore)
    (fun c l off s =>
      if c.wave.helper.getLsbD l then (s, none) else (s.scratchWrite c off (bytesOfNat (szBytes x.sz) (c.vec l d 0 0)), none))
    (fun _ s => s)
def execStl (m : MWord) : State → Out := storeScratch m xmDefault 4
/-- `stl` with an XM word (R496). -/
def execStlExt (m : MWord) (x : XmWord) : State → Out := storeScratch m x 8

/-- `atoml` (R402): it performs as it issues, and begins a region. -/
def atomScratch (m : MWord) (x : XmWord) (len : Nat) : State → Out :=
  let d := atomData m.d x
  let n := szBytes x.sz
  scratchOp m x len (if m.nr then .st else .ld) d
    (fun c => .scratchAtom (if m.nr then none else some (c.part.depth, d.reg c.wb 0 0)))
    (fun c l off s =>
      if c.wave.helper.getLsbD l then (s, if m.nr then none else some (newAccess l off n 0 0 (bytesOfNat n 0) []))
      else
        let old := s.scratchRead c off n
        let b := atomBytes c d x l
        let s := s.scratchWrite c off (bytesOfNat n (atomNew x.sub.toNat (8 * n) (natOfBytes old) (natOfBytes b.1) (natOfBytes b.2)))
        (s, if m.nr then none else some (newAccess l off n 0 0 old [])))
    (fun c s => s.beginRegion c.ref (c.next len) true)
def execAtoml (m : MWord) : State → Out := atomScratch m xmDefault 4
/-- `atoml` with an XM word (R402). -/
def execAtomlExt (m : MWord) (x : XmWord) : State → Out := atomScratch m x 8

/-! ### Fence, cache control, prefetch -/

/-- `fence` (R218): counts zero, rejected entries delivered, then its release and its acquire actions. -/
def execFence (m : MWord) (x : XmWord) : State → Out :=
  issue { s := m.s, len := 8, mem := true } (fun c st =>
    match (if isRelease x.ord.toNat then st.releaseFirst c x.scope.toNat [.ld, .st] else st.drainFirst c [.ld, .st]) with
    | some st => st
    | none =>
      let st := if isAcquire x.ord.toNat then st.acquireL1 c.ref.core x.scope.toNat else st
      st.done c 8)

/-- `cctl` on one line of physical address (R414). -/
def State.cctlLine (s : State) (core sub pa : Nat) : State :=
  match sub with
  | 0 => s.sendBack core (pa / 128)
  | 1 => s.dropClean core (pa / 128) 0xF
  | _ => (s.sendBack core (pa / 128)).dropClean core (pa / 128) 0xF

/-- Earlier accesses of the part to the lines of some addresses (to any line for SUB 3) that have not performed: `cctl` acts
behind them, in program order (R415). A held access is on a page that is not present, where `cctl` has no effect. -/
def State.opsBefore (s : State) (c : Ctx) (all : Bool) (vas : List Nat) : List Nat :=
  let pas := vas.filterMap (fun a => match s.walk (dieOf c.ref.core) c.part.regs.asid a with
    | .leaf pte p => some (paOf pte p a / 128)
    | _ => none)
  let here := fun (a : Access) => match a.phase with
    | .walk => all || vas.any (fun v => v / 128 == a.va / 128)
    | .ready => all || pas.contains (a.pa / 128)
    | .refused => all || pas.contains (a.pa / 128)
    | _ => false
  (s.ops.filter (fun o => c.part.holdsOp o.id && o.accs.any here)).map (fun o => o.id)

/-- `cctl` (R413-R415). -/
def cacheControl (m : MWord) (x : XmWord) (len : Nat) : State → Out :=
  issue
    { s := m.s, len := len, regs := fun _ _ => if x.sub.toNat = 3 then [] else (mOffset m).toList, mem := true }
    (fun c st =>
      let core := c.ref.core
      if x.sub.toNat = 3 then
        if st.opsBefore c true [] ≠ [] then st.parkOn c (.ops (st.opsBefore c true [])) else
        let lines := (st.core core).l1.map (fun l => l.line)
        (lines.foldl (fun s l => s.cctlLine core 2 (l * 128)) st).done c len
      else
        let vas := (lanesOf (c.xmActive x)).map (c.globalAddr m x.off)
        match vas.find? (fun a => decide (2 ^ 57 ≤ a)) with
        | some a => st.precise c tcAccess 5 (BitVec.ofNat 64 a)
        | none =>
          let asid := c.part.regs.asid
          match vas.find? (fun a => st.walk (dieOf core) asid a == .malformed) with
          | some a => st.precise c tcAccess 3 (BitVec.ofNat 64 a)
          | none =>
            if st.opsBefore c false vas ≠ [] then st.parkOn c (.ops (st.opsBefore c false vas)) else
            let st := vas.foldl (fun s a =>
              match s.walk (dieOf core) asid a with
              | .leaf pte p =>
                if bitsOf pte 2 3 = 0 then s
                else (s.translate core false asid a).1.cctlLine core x.sub.toNat (paOf pte p a)
              | _ => s) st
            (st.holdPipe c (lineCount vas)).done c len)
/-- The XM word an absent extension of `cctl` stands for: every field zero. -/
def execCctl (m : MWord) : State → Out := cacheControl m xmDefault 4
/-- `cctl` with an XM word (R414). -/
def execCctlExt (m : MWord) (x : XmWord) : State → Out := cacheControl m x 8

/-- Sends the request for the line of an address; its translation takes the cycles of its lookup, and of a walk on a miss
(R186, R458). -/
def State.prefetchLine (s : State) (core : Nat) (asid : BitVec 16) (cp va : Nat) : State :=
  if 2 ^ 57 ≤ va then s
  else
    match s.walk (dieOf core) asid va with
    | .leaf pte p =>
      let x := s.tlbLook core false asid va
      let d := x.2.2 + (match x.2.1 with | some _ => 0 | none => s.walkLatency core asid va)
      let f : Prefetch := { core := core, asid := asid, va := va, cp := cp, arrival := s.dcc + d + slicePath core (paOf pte p va) }
      { x.1 with prefetches := x.1.prefetches ++ [f] }
    | _ => s

/-- `pfetch` (R457, R458). -/
def prefetch (m : MWord) (x : XmWord) (len : Nat) : State → Out :=
  issue
    { s := m.s, len := len, regs := fun _ _ => (mOffset m).toList, mem := true }
    (fun c st =>
      let vas := (lanesOf (c.xmActive x)).map (c.globalAddr m x.off)
      -- a fetch of a misaligned address is dropped; an aligned one lies within one line
      let st := (vas.filter (fun a => a % szBytes x.sz == 0)).foldl (fun s a => s.prefetchLine c.ref.core c.part.regs.asid x.cp.toNat a) st
      (st.holdPipe c (lineCount vas)).done c len)
def execPfetch (m : MWord) : State → Out := prefetch m xmDefault 4
/-- `pfetch` with an XM word (R458). -/
def execPfetchExt (m : MWord) (x : XmWord) : State → Out := prefetch m x 8

end Sys2Proof.Machine
end

