-- ==== Sys2Proof/Machine/Opm.lean ====
section
/-! DEFINITION. The on-chip physical map (08 R178, R179) and the state region (03 R75, R76). -/

namespace Sys2Proof.Machine

/-- Core and window offset of an OPM address. -/
def opmCore (a : Nat) : Nat := a / 2 ^ 32 % 128
def opmOff (a : Nat) : Nat := a % 2 ^ 32
/-- Region: 0 registers, 1 scratch, 2 accumulators, 3 state. -/
def opmRegion (a : Nat) : Nat := opmOff a / 2 ^ 30

/-- Wave slot, register and lane of a register address. -/
def opmReg (a : Nat) : Nat × Nat × Nat := (opmOff a / 65536, opmOff a / 256 % 256, opmOff a / 4 % 64)
/-- The wave in a slot; a core has 128 of them. -/
def State.slotWave (s : State) (core slot : Nat) : Option Wave := if slot < 128 then s.wave? (core * 128 + slot) else none
/-- The group whose wave 0 occupies a slot, and its number. -/
def State.slotGroup (s : State) (core slot : Nat) : Option (Nat × Group) :=
  match s.slotWave core slot with
  | some w => if w.widx = 0 then (s.group? w.group).map (fun g => (w.group, g)) else none
  | none => none
/-- The group that holds a physical tile. -/
def State.tileGroup (s : State) (core tile : Nat) : Option (Nat × Group) :=
  s.groups.find? (fun e => e.2.core == core && decide (e.2.t0 ≤ tile) && decide (tile < e.2.t0 + e.2.nacc))

/-! ### Tiles (10 R242) -/

/-- Columns of a tile. -/
def tileCols (aty : Nat) : Nat := if aty = 5 then 64 else 128
/-- Local tiles of a span (R242); none when M × N does not fit from the tile. -/
def spanOf (aty tile nacc m n : Nat) : Option (List Nat) :=
  let w := tileCols aty
  if m ≤ 128 ∧ n ≤ w then some [tile]
  else if m ≤ 256 ∧ n ≤ 2 * w ∧ tile % 4 = 0 ∧ tile + 3 < nacc then some [tile, tile + 1, tile + 2, tile + 3]
  else none

/-- Physical tiles that an operation of the matrix queue names. -/
def MmaOp.tiles (o : MmaOp) : List Nat :=
  if o.zeroOnly then [o.t0 + o.tile] else ((spanOf o.aty o.tile 16 o.m o.n).getD [o.tile]).map (fun t => o.t0 + t)

/-- Queued MX work of a core names a tile. -/
def State.tileBusy (s : State) (core tile : Nat) : Bool := (s.core core).matrixQ.any (fun o => o.tiles.contains tile)

/-! ### What a parked part waits for -/

/-- A barrier of a group is past a phase. -/
def State.phasePast (s : State) (g b n : Nat) : Bool :=
  match s.group? g with
  | none => true
  | some v => decide (n < (barrierOf v b).phase)

/-- The condition a part waits for holds. -/
def State.holds (s : State) (core : Nat) (p : Part) : Wait → Bool
  | .ldZero => p.ldOps == []
  | .ldPoint => p.ldOps == []
  | .ldStZero => s.drained core p
  | .barQuiet => s.drained core p
  | .count k n => decide (p.count k ≤ n)
  | .quiet => p.ldOps == [] && p.stOps == [] && p.cpOps == [] && p.mxOps == [] && !s.partLogged core p
  | .ops ids => ids.all (fun id => (s.op? id).isNone)
  | .copyRoom => decide ((s.core core).copyQ.length < 32)
  | .matrixRoom => decide ((s.core core).matrixQ.length < 16)
  | .tileQuiet t => !s.tileBusy core t
  | .logRoom n => decide (n ≤ s.logFree core)
  | .noLog => !s.partLogged core p
  | .ticket die t _ => !((s.die die).faults.any (fun f => f.ticket == t))
  | .served op => s.isServed op
  | .phase g b n => s.phasePast g b n
  | .barPhase g b n => s.phasePast g b n
  | .backs _ => match p.relAt with | some n => s.backsDone core n | none => true
  | .time t => decide (t ≤ s.dcc)
  | .posted id => !s.posted.any (fun p => p.id == id)

/-! ### Descriptors (R75) -/

/-- STATE of a part: one whose wait is over is ready. -/
def State.stateCode (s : State) (core : Nat) (p : Part) : Nat :=
  if p.tcode ≠ 0 then 5
  else match p.park with
    | .running => 0
    | .on w => if s.holds core p w then 0 else if w = .ldZero ∨ w = .ldPoint then 1 else 4
    | .conf _ _ => 2
    | .forced _ => 3
    | _ => 4

/-- CTRL of a part or a latent block. -/
def ctrlWord (state lbase width slot conf masked depth : Nat) : Nat :=
  1 + at_ state 1 + at_ lbase 4 + at_ (Nat.log2 width) 10 + at_ slot 13 + at_ conf 20 + at_ masked 24 + at_ depth 25

/-- The 64-byte descriptor slot of a quad. -/
def State.descriptor (s : State) (w : Wave) (quad : Nat) : List Byte :=
  let l := 4 * quad
  match w.parts.find? (fun p => p.base == l) with
  | some p =>
    let alt := lowestResume p p.waiting
    let deadline := match p.park with | .conf _ d => d | _ => 0
    bytesOfNat 4 (ctrlWord (s.stateCode w.core p) p.base p.width w.slot p.confId (bool1 p.masked) p.depth)
    ++ bytesOfNat 4 (shown p.ldOps.length + at_ (shown p.stOps.length) 8 + at_ (shown p.cpOps.length) 16 + at_ (shown p.mxOps.length) 24)
    ++ bytesOfNat 8 p.pc.toNat ++ bytesOfNat 8 (p.cur &&& ~~~w.off &&& ~~~w.exited).toNat ++ bytesOfNat 8 p.region.toNat
    ++ bytesOfNat 8 deadline ++ bytesOfNat 8 (match alt with | some a => a.toNat | none => 0)
    ++ bytesOfNat 8 p.waiting.toNat ++ [p.tcode, p.regs.wb] ++ bytesOfNat 6 0
  | none =>
    match w.latent.find? (fun b => b.1 == l) with
    | some b => bytesOfNat 4 (ctrlWord 6 b.1 b.2 w.slot 0 0 0) ++ bytesOfNat 60 0
    | none => bytesOfNat 4 (if w.quadExited l then 14 else 0) ++ bytesOfNat 60 0

/-- Resume PC of a lane (R76); a lane of a latent block or of an exited quad has none, and reads 0 (DESIGN CHOICE,
notes/assumptions/61.md). -/
def Wave.laneResume (w : Wave) (lane : Nat) : W64 :=
  match w.parts.find? (fun p => inBlock p.base p.width lane) with
  | none => 0
  | some p => if p.otherLanes.getLsbD lane then resumeOf p lane else p.pc

/-- A byte of a core's state region. -/
def State.stateByte (s : State) (core off : Nat) : Byte :=
  if 0x100000 ≤ off ∧ off < 0x100000 + 128 * 0x400 then
    let o := off - 0x100000
    match s.slotWave core (o / 0x400) with
    | none => 0
    | some w => if w.width / 4 ≤ o % 0x400 / 64 then 0 else (s.descriptor w (o % 0x400 / 64)).getD (o % 64) 0
  else if 0x300000 ≤ off ∧ off < 0x300000 + 128 * 0x200 then
    let o := off - 0x300000
    match s.slotWave core (o / 0x200) with
    | none => 0
    | some w => BitVec.ofNat 8 ((w.laneResume (o % 0x200 / 8)).toNat / 256 ^ (o % 8))
  else 0

/-! ### Bytes of the map -/

/-- A byte of the OPM, as the debug interface reads it. -/
def State.opmByte (s : State) (a : Nat) : Byte :=
  let core := opmCore a
  let off := opmOff a % 2 ^ 30
  match opmRegion a with
  | 0 =>
    let r := opmReg a
    match s.slotWave core r.1 with
    | none => 0
    | some w => BitVec.ofNat 8 ((w.v 0 r.2.2 r.2.1).toNat / 256 ^ (a % 4))
  | 1 =>
    match s.slotGroup core (off / 1048576) with
    | none => 0
    | some g => if off % 1048576 < g.2.scr * 8192 then readByte s.scratch (scratchKey core (g.2.scrBase * 8192 + off % 1048576)) else 0
  | 2 => if off / 65536 < 16 then readByte s.acc (accKey core (off / 65536) (off % 65536)) else 0
  | _ => s.stateByte core off

/-- Replaces a byte of a register. -/
def putByteIn (v : W32) (k : Nat) (b : Byte) : W32 :=
  BitVec.ofNat 32 (v.toNat - v.toNat / 256 ^ k % 256 * 256 ^ k + b.toNat * 256 ^ k)

/-- Writes a byte of the OPM; the state region ignores writes. -/
def State.opmPut (s : State) (a : Nat) (b : Byte) : State :=
  let core := opmCore a
  let off := opmOff a % 2 ^ 30
  match opmRegion a with
  | 0 =>
    let r := opmReg a
    match s.slotWave core r.1 with
    | none => s
    | some _ => s.updWave (core * 128 + r.1) (fun w => w.setV 0 r.2.2 r.2.1 (putByteIn (w.v 0 r.2.2 r.2.1) (a % 4) b))
  | 1 =>
    match s.slotGroup core (off / 1048576) with
    | none => s
    | some g => if off % 1048576 < g.2.scr * 8192 then s.writeScratch core g.1 (g.2.scrBase * 8192 + off % 1048576) [b] else s
  | 2 => if off / 65536 < 16 then { s with acc := writeByte s.acc (accKey core (off / 65536) (off % 65536)) b } else s
  | _ => s
def State.opmWrite (s : State) (a : Nat) : List Byte → State
  | [] => s
  | b :: bs => (s.opmPut a b).opmWrite (a + 1) bs

/-- What a copy's reference to an OPM byte gives: valid, a copy fault, or TOKEN (R179, 10 R245, R250). -/
inductive OpmRef where
  | valid | bad | token
  deriving DecidableEq, Repr

def State.opmRef (s : State) (launch a : Nat) : OpmRef :=
  let core := opmCore a
  let off := opmOff a % 2 ^ 30
  match opmRegion a with
  | 0 =>
    let r := opmReg a
    match s.slotWave core r.1 with
    | some w => if w.launch = launch ∧ r.2.1 < w.allot ∧ r.2.2 < w.width then .valid else .bad
    | none => .bad
  | 1 =>
    match s.slotGroup core (off / 1048576) with
    | some g => if g.2.launch = launch ∧ off % 1048576 < g.2.scr * 8192 then .valid else .bad
    | none => .bad
  | 2 =>
    if 16 ≤ off / 65536 then .bad
    else
      match s.tileGroup core (off / 65536) with
      | some g => if g.2.launch ≠ launch then .bad else if g.2.engineTiles.contains (off / 65536 - g.2.t0) then .valid else .token
      | none => .bad
  | _ => .bad

end Sys2Proof.Machine
end

