-- ==== Sys2Proof/Machine/Sync.lean ====
section
/-! DEFINITION. Named barriers of a group and rectangle barriers (19 R403-R406; 21 R466-R469). -/

namespace Sys2Proof.Machine

/-! ### Named barriers -/

/-- Lanes of the quads of a wave that a barrier expects: neither exited nor in a latent block (R403). -/
def expectedLanes (w : Wave) : Lanes :=
  (blockQuads 0 w.width).foldl (fun m l => if w.quadExited l || w.latentQuad l then m else m ||| laneRange l 4) 0

/-- The arrival record of a part for a barrier (R405). -/
def Part.arrival? (p : Part) (b : Nat) : Option Nat := lookT p.arrivals b

/-- Lanes of a wave that have arrived in the current phase: recorded quads, and every quad of a part that holds a record
of the phase, which a fusion may have widened (R403, R406). -/
def arrivedLanes (w : Wave) (b : Nat) (r : Barrier) : Lanes :=
  w.parts.foldl (fun m p => if p.arrival? b = some r.phase then m ||| laneRange p.base p.width else m) (getT 0 r.arrived w.slot)

/-- The phase is complete: some quad has arrived and none is outstanding (R403). -/
def State.phaseOver (s : State) (g b : Nat) : Bool :=
  match s.group? g with
  | none => false
  | some v =>
    let r := barrierOf v b
    let ws := s.groupWaves g
    ws.any (fun w => arrivedLanes w b r != 0) && ws.all (fun w => expectedLanes w &&& ~~~(arrivedLanes w b r) == 0)

/-- Checks of a barrier instruction before issue (05 R114, R129, 13 R306). -/
def barrierPre (r : RWord) (c : Ctx) (_ : State) : Option (Nat × Nat × W64) :=
  match illegalAt c 0 (decide (c.group.nbar ≤ r.b.toNat)) with
  | some t => some t
  | none => gateBan c

/-- The part's earlier accesses have performed (R217 steps 1 and 2). -/
def State.releaseDone (s : State) (c : Ctx) : Bool := s.drained c.ref.core c.part

/-- Adds every quad of the part to the arrived set, and records the phase (R405). -/
def State.arrive (s : State) (c : Ctx) (b : Nat) : State :=
  let r := barrierOf c.group b
  let lanes := laneRange c.part.base c.part.width
  let s := s.updGroup c.wave.group (fun g =>
    { g with barriers := putT g.barriers b { r with arrived := putT r.arrived c.ref.slot (getT 0 r.arrived c.ref.slot ||| lanes) } })
  s.updPart c.ref (fun p => { p with arrivals := putT p.arrivals b r.phase })

/-- An earlier record of the part whose phase has not completed (R405). -/
def openRecord (c : Ctx) (b : Nat) : Option Nat :=
  match c.part.arrival? b with
  | some n => if (barrierOf c.group b).phase ≤ n then some n else none
  | none => none

/-- `bara` (R405). -/
def execBara (r : RWord) : State → Out :=
  issue { s := r.s, len := 4, pre := barrierPre r } (fun c st =>
    match openRecord c r.b.toNat with
    | some n => st.parkOn c (.phase c.wave.group r.b.toNat n)
    | none => if st.releaseDone c then (st.arrive c r.b.toNat).done c 4 else st.parkOn c .ldStZero)

/-- `barw` (R405): a group-scope acquire invalidates nothing (R216). -/
def execBarw (r : RWord) : State → Out :=
  issue { s := r.s, len := 4, pre := barrierPre r } (fun c st =>
    let b := r.b.toNat
    match c.part.arrival? b with
    | none => st.precise c tcBarrier 1 (BitVec.ofNat 64 b)
    | some n =>
      if n < (barrierOf c.group b).phase then (st.updPart c.ref (fun p => { p with arrivals := delT p.arrivals b })).done c 4
      else st.parkPart c.ref (.barrier b n))

/-- `bar`: fused to its effective width, it arrives and waits (R405). -/
def fullBarrier (r : RWord) (len mw : Nat) : State → Out :=
  issue { s := r.s, len := len, pre := barrierPre r, ff := some (fun c _ => c.effWidth mw) } (fun c st =>
    let b := r.b.toNat
    match openRecord c b with
    | some n => st.parkOn c (.barPhase c.wave.group b n)
    | none =>
      if st.releaseDone c then (st.arrive c b).parkPart c.ref (.barrier b (barrierOf c.group b).phase)
      else st.parkOn c .barQuiet)
def execBar (r : RWord) : State → Out := fullBarrier r 4 0
/-- `bar` with a width (R404). -/
def execBarExt (r : RWord) (x : XaWord) : State → Out := fullBarrier r 8 x.mw

/-- Length in bytes of the instruction at an address of a part. -/
def State.lenAt (s : State) (core : Nat) (p : Part) : Nat :=
  match s.instrAt core p.regs.asid p.pc with
  | some (.barExt _ _) => 8
  | some (.rbarExt _ _) => 8
  | _ => 4

/-- The part after a barrier phase: waiters of it go on four cycles later, and a later arrival may follow (R403). -/
def State.phasePart (s : State) (g b n : Nat) (w : Wave) (p : Part) : Part :=
  match p.park with
  | .barrier b' n' =>
    if b' = b ∧ n' ≤ n then
      let next := p.pc + BitVec.ofNat 64 (s.lenAt w.core p)
      ({ p with arrivals := delT p.arrivals b }.moveTo next).issued s.dcc 4
    else p
  | .on (.phase g' b' _) => if g' = g ∧ b' = b then { p with notBefore := max p.notBefore (s.dcc + 3) } else p
  | .on (.barPhase g' b' _) => if g' = g ∧ b' = b then { p with notBefore := max p.notBefore (s.dcc + 3) } else p
  | _ => p

/-- BARRIER_PHASE_COMPLETE (R403). -/
def execBarrierPhaseComplete (g b : Nat) (s : State) : Out :=
  if !s.phaseOver g b then .next s
  else
    match s.group? g with
    | none => .next s
    | some v =>
      let n := (barrierOf v b).phase
      let s := s.updGroup g (fun v => { v with barriers := putT v.barriers b { phase := n + 1, arrived := [] } })
      .next { s with waves := s.waves.map (fun (e : Nat × Wave) =>
        if e.2.group = g then (e.1, { e.2 with parts := e.2.parts.map (s.phasePart g b n e.2) }) else e) }

/-! ### Rectangle barriers -/

def RbarCore.fresh : RbarCore := { num := 0, arrived := [], shape := none, report := none, reports := [] }
/-- Shape and completion of an instance that a core has reported. -/
def RbarCore.reported (r : RbarCore) (inst : Nat) : Option ((Nat × Nat) × Nat) := lookT r.reports inst
def Launch.rbar (l : Launch) (core : Nat) : RbarCore := getT RbarCore.fresh l.rbars (l.rel core)
def Launch.setRbar (l : Launch) (core : Nat) (r : RbarCore) : Launch := { l with rbars := putT l.rbars (l.rel core) r }

/-- Cores of the aligned sub-rectangle of a shape that holds a core (R29, R466). -/
def Launch.subRect (l : Launch) (core logw logh : Nat) : List Nat :=
  let rx := (coreX core - l.x0) / 2 ^ logw * 2 ^ logw
  let ry := (coreY core - l.y0) / 2 ^ logh * 2 ^ logh
  (List.range (2 ^ logh)).flatMap (fun j => (List.range (2 ^ logw)).map (fun i => coreId (l.x0 + rx + i) (l.y0 + ry + j)))

/-- `rbar` (R466, R468). -/
def rectBarrier (r : RWord) (len mw : Nat) : State → Out :=
  let lw := r.b.toNat % 8
  let lh := r.b.toNat / 8 % 4
  issue
    { s := r.s, len := len
      pre := fun c _ =>
        match illegalAt c 0 (decide (c.launch.logw < lw) || decide (c.launch.logh < lh)) with
        | some t => some t
        | none => gateBan c
      ff := some (fun c _ => c.effWidth mw) }
    (fun c st =>
      let k := c.launch.rbar c.ref.core
      if k.shape.isSome ∧ k.shape ≠ some (lw, lh) then st.precise c tcBarrier 2 (BitVec.ofNat 64 r.b.toNat)
      else if !st.releaseDone c then st.parkOn c .barQuiet
      else
        match st.releaseAt c 3 true with
        | some st => st
        | none =>
        let lanes := laneRange c.part.base c.part.width
        let k := { k with shape := some (lw, lh), arrived := putT k.arrived c.ref.slot (getT 0 k.arrived c.ref.slot ||| lanes) }
        (st.updLaunch c.wave.launch (fun l => l.setRbar c.ref.core k)).parkPart c.ref (.rbar k.num lw lh))
def execRbar (r : RWord) : State → Out := rectBarrier r 4 0
/-- `rbar` with a width (R466). -/
def execRbarExt (r : RWord) (x : XaWord) : State → Out := rectBarrier r 8 x.mw

/-- Waves of a launch on a core. -/
def State.launchWaves (s : State) (l core : Nat) : List Wave :=
  (s.waves.filter (fun e => e.2.launch == l && e.2.core == core)).map Prod.snd

/-- The core's open instance has every expected quad (R467, R469). -/
def State.rbarOver (s : State) (l core : Nat) : Bool :=
  match s.launch? l with
  | none => false
  | some v =>
    let k := v.rbar core
    k.shape.isSome && (s.launchWaves l core).all (fun w => expectedLanes w &&& ~~~(getT 0 k.arrived w.slot) == 0)

/-- Parts of a core that wait in an instance. -/
def State.rbarWaiters (s : State) (l core inst : Nat) : List PartRef :=
  (s.launchWaves l core).flatMap (fun w => w.parts.filterMap (fun p =>
    match p.park with
    | .rbar n _ _ => if n = inst then some { core := core, slot := w.slot, base := p.base } else none
    | _ => none))

/-- A waiter acquires at rect scope and goes on `d` cycles after a time. -/
def State.passRbar (s : State) (t d : Nat) (r : PartRef) : State :=
  s.updPart r (fun p =>
    { (p.moveTo (p.pc + BitVec.ofNat 64 (s.lenAt r.core p))).issued s.dcc 1 with notBefore := max (s.dcc + 1) (t + d) })

/-- RBAR_LOCAL_COMPLETION (R467, R468): the core reports and advances; a 1×1 instance ends there. -/
def execRbarLocalCompletion (l core : Nat) (s : State) : Out :=
  match s.launch? l with
  | none => .next s
  | some v =>
    let k := v.rbar core
    match k.shape with
    | none => .next s
    | some shape =>
      if !s.rbarOver l core then .next s
      else
        let k' := { k with num := k.num + 1, arrived := [], shape := none, report := some (k.num, shape, s.dcc) }
        let s := s.updLaunch l (fun v => v.setRbar core k')
        if shape = (0, 0) then .next ((s.rbarWaiters l core k.num).foldl (fun s r => s.passRbar s.dcc 4 r) (s.acquireL1 core 3))
        else .next s

/-- RBAR_REPORT (R467, R469): the coordinating slice records a report, or turns it away with BARRIER. -/
def execRbarReport (l core : Nat) (s : State) : Out :=
  match s.launch? l with
  | none => .next s
  | some v =>
    let k := v.rbar core
    match k.report with
    | none => .next s
    | some (inst, shape, t) =>
      if s.dcc < t then .next s
      else
        let others := (v.subRect core shape.1 shape.2).filter (fun c => c != core)
        let clash := others.any (fun c =>
          match (v.rbar c).reported inst with
          | some (sh, _) => sh != shape
          | none => false)
        if clash then
          let s := s.updLaunch l (fun v => v.setRbar core { k with report := none, num := inst, arrived := [], shape := none })
          .next ((s.rbarWaiters l core inst).foldl (fun s r =>
            match s.part? r with
            | none => s
            | some p =>
              s.takeTrap r { code := tcBarrier, detail := 2, taddr := BitVec.ofNat 64 (shape.1 + 8 * shape.2), tword := p.pc, resume := p.pc }) s)
        else .next (s.updLaunch l (fun v => v.setRbar core { k with report := none, reports := (inst, shape, t) :: k.reports }))

/-- The instance that parts of a core wait in is reported by its whole sub-rectangle: the cycle of its last completion
and the core that made it. -/
def State.rbarGlobal (s : State) (l core : Nat) : Option (Nat × Nat × Nat) :=
  match s.launch? l with
  | none => none
  | some v =>
    match (v.rbar core).reports.find? (fun e => !(s.rbarWaiters l core e.1).isEmpty) with
    | none => none
    | some (inst, shape, _) =>
      let cs := v.subRect core shape.1 shape.2
      let reports := cs.map (fun c => ((v.rbar c).reported inst, c))
      if reports.all (fun e => match e.1 with | some (sh, _) => sh == shape | none => false) then
        some (reports.foldl (fun acc e =>
          match e.1 with
          | some (_, t) => if acc.2.1 ≤ t then (inst, t, e.2) else acc
          | none => acc) (inst, 0, core))
      else none

/-- RBAR_GLOBAL_COMPLETION (R468): the waiters of a core acquire, and go on 88 or 130 cycles after the last completion. -/
def execRbarGlobalCompletion (l core : Nat) (s : State) : Out :=
  match s.rbarGlobal l core, s.launch? l with
  | some (inst, t, last), some v =>
    let home := dieOf (coreId v.x0 v.y0)
    let d := if dieOf core = home ∧ dieOf last = home then 88 else 130
    .next ((s.rbarWaiters l core inst).foldl (fun s r => s.passRbar t d r) (s.acquireL1 core 3))
  | _, _ => .next s

end Sys2Proof.Machine
end

