-- ==== Sys2Proof/Machine/Tensor.lean ====
section
/-! DEFINITION. Tensor records, boxes and the canonical scratch layout (10 R230-R235). -/

namespace Sys2Proof.Machine

/-- A tensor record (R230). -/
structure Tensor where
  format : Nat
  rank : Nat
  etype : Nat
  group : Nat
  swz : Nat
  fill : Nat
  base : Nat
  sbase : Nat
  zbase : Nat
  dim : List Nat
  stride : List Nat
  box : List Nat
  zstride : Nat
  deriving DecidableEq, Repr

def bytesAt (b : List Byte) (off n : Nat) : Nat := natOfBytes ((b.drop off).take n)

/-- The fields of a record's 256 bytes. -/
def Tensor.ofBytes (b : List Byte) : Tensor :=
  { format := bytesAt b 0 1, rank := bytesAt b 1 1, etype := bytesAt b 2 1, group := bytesAt b 3 1, swz := bytesAt b 4 1
    fill := bytesAt b 5 1, base := bytesAt b 8 8, sbase := bytesAt b 16 8, zbase := bytesAt b 24 8
    dim := (List.range 12).map (fun k => bytesAt b (32 + 4 * k) 4)
    stride := (List.range 12).map (fun k => bytesAt b (80 + 8 * k) 8)
    box := (List.range 12).map (fun k => bytesAt b (176 + 2 * k) 2)
    zstride := bytesAt b 200 8 }

/-- Half bytes an element takes in memory. -/
def memNibbles (ety : Nat) : Nat := [2, 2, 4, 4, 8, 16, 2, 1, 2, 4, 8, 16].getD ety 2
/-- Bytes an element takes in scratch. -/
def scrBytesOf (ety : Nat) : Nat := [1, 1, 2, 2, 4, 8, 1, 1, 1, 2, 4, 8].getD ety 1
/-- Group size of a code: 32, 64 or 128. -/
def groupSize (g : Nat) : Nat := 32 * 2 ^ g

def Tensor.e (t : Tensor) : Nat := scrBytesOf t.etype
def Tensor.isQ (t : Tensor) : Bool := t.etype == 6 || t.etype == 7
def Tensor.boxAt (t : Tensor) (k : Nat) : Nat := t.box.getD k 1
def Tensor.dimAt (t : Tensor) (k : Nat) : Nat := t.dim.getD k 1
/-- Rows of a box (R233). -/
def Tensor.rows (t : Tensor) : Nat := ((List.range (t.rank - 1)).map (fun k => t.boxAt (k + 1))).foldl (fun a b => a * b) 1

def ceilDiv (a b : Nat) : Nat := (a + b - 1) / b
def up16 (n : Nat) : Nat := (n + 15) / 16 * 16

/-- Sizes of a canonical image of `r` rows of `k` elements of `e` bytes, with side-tiles of `gb` groups (R233, R234). -/
def imageRows (e k r : Nat) : Nat := ceilDiv k (128 / e) * r
def sideScale (gb : Nat) : Nat := up16 (2 * gb)
def sideZero (gb : Nat) : Nat := up16 gb
def imageBytes (e k r gb : Nat) : Nat := 128 * imageRows e k r + (if gb = 0 then 0 else r * sideScale gb + r * sideZero gb)

/-- Scratch offset, from the image's base, of element `k` of row `r` (R233). -/
def imagePos (e rows r k : Nat) : Nat :=
  let kp := 128 / e
  let j := k / kp * rows + r
  let b := k % kp * e
  128 * j + 16 * ((b / 16) ^^^ (j % 8)) + b % 16

/-- Groups of a box's row; none for FORMAT 0. -/
def Tensor.groups (t : Tensor) : Nat := if t.format = 1 then t.boxAt 0 / groupSize t.group else 0
def Tensor.image (t : Tensor) : Nat := imageBytes t.e (t.boxAt 0) t.rows t.groups

/-- The record keeps R230 and R232; `b` are its bytes. -/
def Tensor.wellFormed (t : Tensor) (b : List Byte) : Bool :=
  let ks := List.range 12
  decide (t.format ≤ 1) && decide (1 ≤ t.rank) && decide (t.rank ≤ 12) && decide (t.etype ≤ 11)
    && (if t.format = 1 then t.isQ && decide (t.group ≤ 2) else t.group == 0 && t.sbase == 0 && t.zbase == 0 && t.zstride == 0)
    && decide (t.swz ≤ 1) && decide (t.fill ≤ 1) && bytesAt b 6 2 == 0 && bytesAt b 208 48 == 0
    && t.base % (max 1 (memNibbles t.etype / 2)) == 0
    && ks.all (fun k => if k < t.rank then t.dimAt k != 0 else t.dimAt k == 0)
    && ks.all (fun k => if 0 < k ∧ k < t.rank then t.stride.getD k 0 != 0 && t.stride.getD k 0 % 16 == 0 else t.stride.getD k 0 == 0)
    && ks.all (fun k => if k < t.rank then decide (1 ≤ t.boxAt k) && decide (t.boxAt k ≤ 1024) else t.boxAt k == 0)
    && t.boxAt 0 * t.e % 16 == 0 && decide (t.image ≤ 1048576)

/-- Box coordinates b1, b2, … of a row, dimension 1 fastest. -/
def rowCoords : List Nat → Nat → List Nat
  | [], _ => []
  | b :: bs, r => r % b :: rowCoords bs (r / b)
def Tensor.coords (t : Tensor) (r : Nat) : List Nat := rowCoords ((List.range (t.rank - 1)).map (fun k => t.boxAt (k + 1))) r

/-- Tensor coordinates i1, i2, … of a row of a box. -/
def Tensor.rowAt (t : Tensor) (origin : List Int) (r : Nat) : List Int :=
  (t.coords r).zipIdx.map (fun c => origin.getD (c.2 + 1) 0 + c.1)

/-- A row lies in the tensor. -/
def Tensor.rowInside (t : Tensor) (origin : List Int) (r : Nat) : Bool :=
  (t.rowAt origin r).zipIdx.all (fun c => decide (0 ≤ c.1) && decide (c.1 < t.dimAt (c.2 + 1)))
/-- An element lies in the tensor (R231). -/
def Tensor.inside (t : Tensor) (origin : List Int) (r k : Nat) : Bool :=
  let i := origin.getD 0 0 + k
  decide (0 ≤ i) && decide (i < t.dimAt 0) && t.rowInside origin r

/-- Memory offsets of the chunk swizzle (R230 SWZ). -/
def swizzle (off : Nat) : Nat := off / 128 * 128 + 16 * ((off % 128 / 16) ^^^ (off / 128 % 8)) + off % 16

/-- Virtual address of an element, and its half byte within it for q4 (R231). -/
def Tensor.addr (t : Tensor) (origin : List Int) (r k : Nat) : Nat × Nat :=
  let nib := ((origin.getD 0 0 + k) * memNibbles t.etype).toNat
  let off := (t.rowAt origin r).zipIdx.foldl (fun a c => a + c.1.toNat * t.stride.getD (c.2 + 1) 0) (nib / 2)
  (t.base + (if t.swz = 1 then swizzle off else off), nib % 2)

/-- Scratch pattern of an outside element on a read (R231). -/
def Tensor.fillBits (t : Tensor) : Nat :=
  if t.fill = 0 then 0
  else match t.etype with
    | 0 => fmtE4m3.nanBits
    | 1 => fmtE5m2.nanBits
    | 2 => fmtBf16.nanBits
    | 3 => fmtF16.nanBits
    | 4 => fmtF32.nanBits
    | 5 => fmtF64.nanBits
    | _ => 0

/-- An element's scratch pattern, from a reader of memory. -/
def Tensor.element (t : Tensor) (origin : List Int) (rd : Nat → Byte) (r k : Nat) : Nat :=
  if !t.inside origin r k then t.fillBits
  else
    let a := t.addr origin r k
    if t.etype = 7 then (rd a.1).toNat / 16 ^ a.2 % 16
    else natOfBytes ((List.range t.e).map (fun i => rd (a.1 + i)))

/-! ### Scales and zero points (R234, R235) -/

/-- Flattened index of a row of a box over dimensions 1 and up; below 0 for a row before the tensor's first. -/
def Tensor.flatIndex (t : Tensor) (origin : List Int) (r : Nat) : Int :=
  (t.rowAt origin r).zipIdx.foldr (fun c (a : Int) => c.1 + t.dimAt (c.2 + 1) * a) 0
def Tensor.flatRow (t : Tensor) (origin : List Int) (r : Nat) : Nat := (t.flatIndex origin r).toNat
/-- The rows of a box are whole runs of 128 tensor rows, each beginning at a multiple of 128 (R235). -/
def Tensor.rowsWhole (t : Tensor) (origin : List Int) : Bool :=
  t.rows % 128 == 0 && (List.range t.rows).all (fun r =>
    if r % 128 = 0 then t.flatIndex origin r % 128 == 0 else t.flatIndex origin r == t.flatIndex origin (r - 1) + 1)
/-- First group of a box. -/
def Tensor.group0 (t : Tensor) (origin : List Int) : Int := origin.getD 0 0 / groupSize t.group
/-- Group `g` of a row lies in the tensor. -/
def Tensor.groupInside (t : Tensor) (origin : List Int) (r g : Nat) : Bool :=
  let i := (t.group0 origin + g) * groupSize t.group
  decide (0 ≤ i) && decide (i < t.dimAt 0) && t.rowInside origin r

/-- Addresses of the scale and of the zero point of group `g` of a row of a box. -/
def Tensor.scaleAddr (t : Tensor) (origin : List Int) (r g : Nat) : Nat :=
  let row := t.flatRow origin r
  let g := (t.group0 origin + g).toNat
  let gt := ceilDiv (ceilDiv (t.dimAt 0) (groupSize t.group)) 4
  let m := row % 128
  t.sbase + 1024 * (row / 128 * gt + g / 4) + 16 * ((m / 2) ^^^ (m / 16 % 8)) + 8 * (m % 2) + 2 * (g % 4)
def Tensor.zeroAddr (t : Tensor) (origin : List Int) (r g : Nat) : Nat :=
  t.zbase + t.flatRow origin r * t.zstride + (t.group0 origin + g).toNat

/-- The SCALELAYOUT detail of a FORMAT 1 box, if any (R234, R235). -/
def Tensor.scaleFault (t : Tensor) (origin : List Int) : Option Nat :=
  let g := groupSize t.group
  if t.format = 0 then none
  else if t.sbase % 1024 ≠ 0 then some 1
  else if (origin.getD 0 0) % g ≠ 0 ∨ t.boxAt 0 % g ≠ 0 then some 3
  else if !t.rowsWhole origin ∨ (t.group0 origin) % 4 ≠ 0 ∨ t.groups % 4 ≠ 0 then some 2
  else none

/-- Every pair of a row and an element of the box. -/
def Tensor.cells (t : Tensor) : List (Nat × Nat) :=
  (List.range t.rows).flatMap (fun r => (List.range (t.boxAt 0)).map (fun k => (r, k)))
def Tensor.groupCells (t : Tensor) : List (Nat × Nat) :=
  (List.range t.rows).flatMap (fun r => (List.range t.groups).map (fun g => (r, g)))

/-- Offsets of a scale and a zero point in the side-tiles of an image (R234). -/
def Tensor.scalePos (t : Tensor) (r g : Nat) : Nat :=
  128 * imageRows t.e (t.boxAt 0) t.rows + r * sideScale t.groups + 2 * g
def Tensor.zeroPos (t : Tensor) (r g : Nat) : Nat :=
  128 * imageRows t.e (t.boxAt 0) t.rows + t.rows * sideScale t.groups + r * sideZero t.groups + g

/-! ### The steps of a copy: its elements, then its groups -/

/-- One element or one group of a box, by row. -/
inductive BoxStep where
  | cell (r k : Nat)
  | group (r g : Nat)
  deriving DecidableEq, Repr

def Tensor.steps (t : Tensor) : List BoxStep :=
  t.cells.map (fun c => .cell c.1 c.2) ++ t.groupCells.map (fun c => .group c.1 c.2)

/-- Addresses of memory that a step reads or writes; none for what lies outside the tensor (R231). -/
def Tensor.stepAddrs (t : Tensor) (origin : List Int) : BoxStep → List Nat
  | .cell r k => if t.inside origin r k then [(t.addr origin r k).1] else []
  | .group r g => if t.groupInside origin r g then [t.scaleAddr origin r g, t.zeroAddr origin r g] else []

/-- What a step writes into an image: offsets and bytes (R231, R233, R234). -/
def Tensor.stepImage (t : Tensor) (origin : List Int) (rd : Nat → Byte) : BoxStep → List (Nat × List Byte)
  | .cell r k => [(imagePos t.e t.rows r k, bytesOfNat t.e (t.element origin rd r k))]
  | .group r g =>
    if t.groupInside origin r g then
      let a := t.scaleAddr origin r g
      [(t.scalePos r g, [rd a, rd (a + 1)]), (t.zeroPos r g, [rd (t.zeroAddr origin r g)])]
    else [(t.scalePos r g, [0, 0]), (t.zeroPos r g, [0])]

/-- What a step of an image writes into memory: address, half byte for q4, and bytes (R237). -/
def Tensor.stepMem (t : Tensor) (origin : List Int) (img : Nat → Byte) : BoxStep → List (Nat × Option Nat × List Byte)
  | .cell r k =>
    if t.inside origin r k then
      let a := t.addr origin r k
      let p := imagePos t.e t.rows r k
      [(a.1, if t.etype = 7 then some a.2 else none, (List.range t.e).map (fun i => img (p + i)))]
    else []
  | .group r g =>
    if t.groupInside origin r g then
      let p := t.scalePos r g
      [(t.scaleAddr origin r g, none, [img p, img (p + 1)]), (t.zeroAddr origin r g, none, [img (t.zeroPos r g)])]
    else []

/-- The canonical image of a box, with its side-tiles (R233, R234). -/
def Tensor.build (t : Tensor) (origin : List Int) (rd : Nat → Byte) : List Byte :=
  let img := (t.steps.flatMap (t.stepImage origin rd)).foldl (fun m w => writeBytes m w.1 w.2) []
  readBytes img 0 t.image

/-- Offsets of an image that no step writes: padding, which is zero. -/
def Tensor.padding (t : Tensor) : List Nat :=
  let panels := ceilDiv (t.boxAt 0) (128 / t.e) * (128 / t.e)
  (List.range t.rows).flatMap (fun r =>
    (List.range (panels - t.boxAt 0)).flatMap (fun k => (List.range t.e).map (fun i => imagePos t.e t.rows r (t.boxAt 0 + k) + i))
    ++ (if t.groups = 0 then [] else
        (List.range (sideScale t.groups - 2 * t.groups)).map (fun i => t.scalePos r t.groups + i)
        ++ (List.range (sideZero t.groups - t.groups)).map (fun i => t.zeroPos r t.groups + i)))

/-- Addresses of memory that a box reads or writes. -/
def Tensor.addrs (t : Tensor) (origin : List Int) : List Nat := t.steps.flatMap (t.stepAddrs origin)

/-- Writes that a box's image makes in memory. -/
def Tensor.unbuild (t : Tensor) (origin : List Int) (img : Nat → Byte) : List (Nat × Option Nat × List Byte) :=
  t.steps.flatMap (t.stepMem origin img)

end Sys2Proof.Machine
end

