-- ==== Sys2Proof/Machine/Engine.lean ====
section
/-! DEFINITION. The asynchronous engine group but for the array's own work: `tcopy` and the copy engine (10 R236-R239),
`mma` and `mmz` at issue (R240-R243, R248, R450), tokens and accumulator rows (R250, R251, 19 R394), `waitc` (09 R224). -/

namespace Sys2Proof.Machine

/-! ### Ends of engine operations (R223, R245, R246) -/

/-- The oldest operation of its class in every part that holds it. -/
def engineHead (w : Wave) (k : Cls) (id : Nat) : Bool :=
  w.parts.all (fun p => !(p.opsOf k).contains id || (p.opsOf k).head? == some id)

/-- Counts an engine operation complete; a failure becomes pending in the lowest part that holds it. -/
def State.endEngine (s : State) (core slot admission : Nat) (k : Cls) (id : Nat) (fail : Option Delivery) : State :=
  s.updWave (core * 128 + slot) (fun w =>
    if w.admission ≠ admission then w
    else
      let owner := (w.parts.find? (fun p => (p.opsOf k).contains id)).map (fun p => p.base)
      { w with parts := w.parts.map (fun (p : Part) =>
          let q := p.setOps k ((p.opsOf k).filter (fun i => i != id))
          match fail with
          | some d => if owner = some p.base then { q with fails := q.fails ++ [d] } else q
          | none => q) })

/-- An engine operation that ends has no older one before it. -/
def State.engineTurn (s : State) (core slot admission : Nat) (k : Cls) (id : Nat) : Bool :=
  match s.wave? (core * 128 + slot) with
  | some w => w.admission != admission || engineHead w k id
  | none => true

/-! ### `tcopy` at issue (R236-R238) -/

/-- ILLEGAL and ALIGN of the operands: code and TADDR (R237). -/
def copyOperandTrap (dir b : Nat) (a s0 s1 : W64) : Option (Nat × W64) :=
  let lowOnly := fun (v : W64) (n : Nat) => decide (v.toNat < 2 ^ n)
  if (if dir = 2 then s0 != 0 else !lowOnly s0 32) then some (tcIllegal, BitVec.ofNat 64 b)
  else if (if 2 ≤ dir then !lowOnly s1 39 else s1 != 0) then some (tcIllegal, BitVec.ofNat 64 (b + 1))
  else if a.toNat % 256 ≠ 0 then some (tcAlign, a)
  else if dir ≠ 2 ∧ s0.toNat % 1024 ≠ 0 then some (tcAlign, s0)
  else if 2 ≤ dir ∧ s1.toNat % 1024 ≠ 0 then some (tcAlign, s1)
  else none

/-- The promise time of a copy issued now (R238). -/
def State.promise (s : State) (core : Nat) (record : W64) : Nat :=
  let k := s.core core
  let n := getT 4096 k.recSizes record.toNat
  let last := match k.copyQ.getLast? with | some o => o.promise | none => 0
  max s.dcc last + 300 + ceilDiv n 256

/-- A byte as the core's copy engine reads it: a dirty sector of a C page of its own L1, or one of its core's write-backs that are
under way, else the slice (R221, R225). -/
def State.engineByte (s : State) (core pa : Nat) : Byte :=
  let home := fun (_ : Unit) =>
    match s.backs.reverse.find? (fun b => b.core == core && b.line == pa / 128 && b.kind == 0 && b.written.getLsbD (pa % 128)) with
    | some b => getT 0 b.data (pa % 128)
    | none => readByte s.mem pa
  match s.l1Line? core (pa / 128) with
  | some l => if l.kind = 0 ∧ l.written.getLsbD (pa % 128) then l.byte (pa % 128) else home ()
  | none => home ()

/-- Latency of an engine's read of an address: a load's from its home (R27, R186); none where it does not translate. -/
def State.engineLat (s : State) (core : Nat) (asid : BitVec 16) (va : Nat) : Nat :=
  match s.walk (dieOf core) asid va with
  | .leaf pte p => let pa := paOf pte p va; slicePath core pa + s.beyondSlice pa
  | _ => 0

/-- The record at an address as it stands, if its page is there. -/
def State.recordNow (s : State) (core : Nat) (asid : BitVec 16) (va : Nat) : Option Tensor :=
  match s.walk (dieOf core) asid va with
  | .leaf pte p => some (Tensor.ofBytes ((List.range 256).map (fun i => s.engineByte core (paOf pte p va + i))))
  | _ => none

/-- One address for each page of a list. -/
def pageStarts (vas : List Nat) : List Nat := (vas.foldl (fun (l : List (Nat × Nat)) va => if (lookT l (va / 65536)).isSome then l else (va / 65536, va) :: l) []).map Prod.snd

/-- The least time a copy takes: its record, and then its farthest page (R27). -/
def State.copyPath (s : State) (core : Nat) (asid : BitVec 16) (dir va : Nat) (origin : List Int) : Nat :=
  match s.recordNow core asid va with
  | none => 0
  | some t => s.engineLat core asid va
      + (if dir = 3 then 0 else ((pageStarts (t.addrs origin)).map (s.engineLat core asid)).foldl max 0)

/-- When a copy with a promise runs: not before its promise, nor before its path from its turn, which comes when it is among the
engine's 8 (R27, R238, R239). -/
def State.copyTime (s : State) (core : Nat) (asid : BitVec 16) (dir va promise : Nat) (origin : List Int) : Nat :=
  let start := match (s.core core).copyQ.reverse[7]? with | some o => max s.dcc o.due | none => s.dcc
  max promise (start + s.copyPath core asid dir va origin)

/-- `tcopy` (R236, R237, 22 R497). -/
def execTcopy (u : UWord) (x : XtWord) : State → Out :=
  issue
    { s := u.s, len := 8, cls := some .cp, mem := true
      pre := fun c _ => if 2 ≤ x.sub.toNat then gateBan c else none
      ff := some (fun c _ => c.effWidth x.mw.toNat) }
    (fun c st =>
      let dir := x.sub.toNat
      let b := u.b.toNat
      let a := (c.sreg u.a.toNat) &&& 0x01FFFFFFFFFFFFFF
      match copyOperandTrap dir b (c.sreg u.a.toNat) (c.sreg b) (c.sreg (b + 1)) with
      | some (code, t) => st.precise c code 0 t
      | none =>
        if 32 ≤ (st.core c.ref.core).copyQ.length then st.parkOn c .copyRoom
        else
          let t := st.promise c.ref.core a
          let ticket := c.wave.tcopies % 65536
          let half := fun (v : W64) (hi : Bool) => (if hi then v.extractLsb' 32 32 else v.extractLsb' 0 32).toInt
          let origin := [half (c.sreg (b + 2)) false, half (c.sreg (b + 2)) true, half (c.sreg (b + 3)) false, half (c.sreg (b + 3)) true]
          let o : CopyOp :=
            { id := st.nextId, slot := c.ref.slot, admission := c.wave.admission, group := c.wave.group, launch := c.wave.launch
              pc := c.part.pc, asid := c.part.regs.asid, dir := dir, record := a, scratch := (c.sreg b).toNat
              opm := (c.sreg (b + 1)).toNat
              origin := origin
              scrBase := c.scratchArea.1, scrBytes := c.scratchArea.2, ticket := ticket, promise := t, issued := st.dcc
              due := st.copyTime c.ref.core c.part.regs.asid dir a.toNat t origin
              recBytes := [], moved := 0, newer := [], status := .running }
          let st := { st with nextId := st.nextId + 1 }
          let st := st.updCore c.ref.core (fun k => { k with copyQ := k.copyQ ++ [o] })
          let st := st.updWave c.ref.key (fun w => { w with tcopies := w.tcopies + 1 })
          let v := BitVec.ofNat 64 (ticket * 2 ^ 48 + t % 2 ^ 48)
          (st.updPart c.ref (fun p => (p.addOp .cp o.id).setS u.d.toNat v)).done c 8)

/-! ### The copy engine -/

/-- How an attempt to run a copy ends. -/
inductive CopyEnd where
  /-- it has performed, and wrote so many bytes -/
  | wrote (n : Nat)
  | failed (code detail : Nat)
  /-- a page is not present: the address and log2 of the extent (R192) -/
  | missing (va ext : Nat)
  /-- pinned lines refuse it, or the core's own sectors of its lines go back first (R221): it is reissued -/
  | again
  deriving DecidableEq, Repr

/-- Physical base of each 64 KiB page of a list of addresses, or what stops the copy: a table entry that is pinned is read again
(R221). -/
def State.mapPages (s : State) (core : Nat) (asid : BitVec 16) (need : Need) :
    List Nat → List (Nat × Nat) → State × Except CopyEnd (List (Nat × Nat))
  | [], m => (s, .ok m)
  | va :: r, m =>
    if (lookT m (va / 65536)).isSome then s.mapPages core asid need r m
    else if 2 ^ 57 ≤ va then (s, .error (.failed tcCopyfault 2))
    else if !((s.core core).walkAhead.any (tlbMatch asid va)) ∧ s.walkPins (dieOf core) asid va ≠ [] then
      (s.refuseAll (s.walkPins (dieOf core) asid va), .error .again)
    else
      match s.translate core true asid va with
      | (s, .leaf pte p) =>
        let pa := paOf pte p (va / 65536 * 65536)
        if (s.leafFault need pte pa).isSome then (s, .error (.failed tcCopyfault 2))
        else s.mapPages core asid need r (putT m (va / 65536) pa)
      | (s, .nonPresent x) => (s, .error (.missing va x))
      | (s, .malformed) => (s, .error (.failed tcCopyfault 2))

/-- Physical address under a page map. -/
def mapPa (m : List (Nat × Nat)) (va : Nat) : Nat := getT 0 m (va / 65536) + va % 65536

/-- A write of the copy engine: the core's copy of its sectors is invalidated (R225). -/
def State.engineWrite (s : State) (core pa : Nat) (bytes : List Byte) : State :=
  ((s.dropClean core (pa / 128) (sectorsOf pa bytes.length)).slicePut 1 core pa bytes).useLine pa 0

/-- Lines of a page map's addresses that another core has pinned. -/
def State.pinnedOf (s : State) (core : Nat) (m : List (Nat × Nat)) (vas : List Nat) : List Nat :=
  s.pinnedIn (some core) (vas.map (mapPa m))

/-- Addresses without those on the line of the one before. -/
def lineStarts : Nat → List Nat → List Nat
  | _, [] => []
  | last, pa :: r => if pa / 128 = last then lineStarts last r else pa :: lineStarts (pa / 128) r
/-- An engine's reads use their lines and banks (R200). -/
def State.useLines (s : State) (m : List (Nat × Nat)) (vas : List Nat) : State :=
  (lineStarts (2 ^ 64) (vas.map (mapPa m))).foldl (fun s pa => s.useLine pa 0) s

/-- The 256 bytes of a record; a pinned line is read again (R221, R232). -/
def State.recordBytes (s : State) (core : Nat) (asid : BitVec 16) (va : Nat) : State × Except CopyEnd (List Byte) :=
  match s.mapPages core asid .read [va] [] with
  | (s, .error e) => (s, .error e)
  | (s, .ok m) =>
    let pins := s.pinnedOf core m [va, va + 128]
    if pins ≠ [] then (s.refuseAll pins, .error .again)
    else
      let s := s.useLines m [va, va + 128]
      (s, .ok ((List.range 256).map (fun i => s.engineByte core (mapPa m va + i))))

/-- Bytes that a copy to memory writes; two q4 codes of one byte count once (R238). -/
def writtenBytes (ws : List (Nat × Option Nat × List Byte)) : Nat :=
  (ws.foldl (fun (a : Nat × Option Nat) w =>
    if w.2.1.isSome ∧ a.2 = some w.1 then a else (a.1 + w.2.2.length, some w.1)) (0, none)).1

/-- Maps the addresses of one step of a copy and sees what stops it there: a page, a pin, or the core's own dirty sectors, which go
back before a write (R192, R221). -/
def State.stepReady (s : State) (core : Nat) (asid : BitVec 16) (write : Bool) (vas : List Nat) (m : List (Nat × Nat)) :
    State × Except CopyEnd (List (Nat × Nat)) :=
  match s.mapPages core asid (if write then .write else .read) vas m with
  | (s, .error e) => (s, .error e)
  | (s, .ok m) =>
    let pins := s.pinnedOf core m vas
    let busy := if write then vas.filter (fun va => s.lineBusy core (mapPa m va / 128)) else []
    if pins ≠ [] then (s.refuseAll pins, .error .again)
    else if busy ≠ [] then (busy.foldl (fun s va => s.sendBack core (mapPa m va / 128)) s, .error .again)
    else (s, .ok m)

/-- The steps of a copy that can go on from a place: their number, and what stops the next one, if anything. -/
def State.stepsReady (s : State) (core : Nat) (asid : BitVec 16) (write : Bool) :
    List (List Nat) → List (Nat × Nat) → Nat → State × List (Nat × Nat) × Nat × Option CopyEnd
  | [], m, n => (s, m, n, none)
  | vas :: r, m, n =>
    match s.stepReady core asid write vas m with
    | (s, .error e) => (s, m, n, some e)
    | (s, .ok m) => s.stepsReady core asid write r m (n + 1)

/-! Where two copies of a core write the same byte, it ends with the value of the one issued later (R239): a copy leaves alone what a
younger one has written. -/

/-- A younger copy of the core has written a half-byte of a space. -/
def CopyOp.covered (o : CopyOp) (space half : Nat) : Bool :=
  o.newer.any (fun e => e.1 == space && decide (e.2.1 ≤ half) && decide (half < e.2.1 + e.2.2))
/-- A byte of a space after a copy's write of it. -/
def CopyOp.merge (o : CopyOp) (space key : Nat) (old new : Byte) : Byte :=
  if o.newer = [] then new
  else
    BitVec.ofNat 8 ((if o.covered space (2 * key) then old.toNat else new.toNat) % 16
      + (if o.covered space (2 * key + 1) then old.toNat else new.toNat) / 16 * 16)
/-- The older copies of the core learn what a copy writes: half-bytes of a space. -/
def State.markOver (s : State) (core : Nat) (o : CopyOp) (space half n : Nat) : State :=
  s.updCore core (fun k =>
    let older := (k.copyQ.takeWhile (fun x => x.id != o.id)).map (fun (x : CopyOp) => { x with newer := (space, half, n) :: x.newer })
    { k with copyQ := older ++ k.copyQ.dropWhile (fun x => x.id != o.id) })

/-- Writes of a copy's steps to memory. -/
def State.engineWrites (s : State) (core : Nat) (o : CopyOp) (m : List (Nat × Nat)) (ws : List (Nat × Option Nat × List Byte)) : State :=
  ws.foldl (fun s w =>
    let pa := mapPa m w.1
    match w.2.1 with
    | none =>
      (s.markOver core o 0 (2 * pa) (2 * w.2.2.length)).engineWrite core pa
        (w.2.2.zipIdx.map (fun b => o.merge 0 (pa + b.2) (s.engineByte core (pa + b.2)) b.1))
    | some h =>
      let old := s.engineByte core pa
      let v := (natOfBytes w.2.2) % 16
      let new := BitVec.ofNat 8 (if h = 0 then old.toNat / 16 * 16 + v else old.toNat % 16 + 16 * v)
      (s.markOver core o 0 (2 * pa + h) 1).engineWrite core pa [o.merge 0 pa old new]) s

/-- The space and the key of a byte of the on-chip map. -/
def State.opmPlace (s : State) (a : Nat) : Nat × Nat :=
  match opmRegion a with
  | 1 =>
    match s.slotGroup (opmCore a) (opmOff a % 2 ^ 30 / 1048576) with
    | some g => (1, scratchKey (opmCore a) (g.2.scrBase * 8192 + opmOff a % 1048576))
    | none => (3, a)
  | 2 => (2, accKey (opmCore a) (opmOff a % 2 ^ 30 / 65536) (opmOff a % 65536))
  | _ => (3, a)
/-- A copy's write of bytes of the on-chip map. -/
def State.engineOpm (s : State) (core : Nat) (o : CopyOp) (a : Nat) (bs : List Byte) : State :=
  bs.zipIdx.foldl (fun s b =>
    let p := s.opmPlace (a + b.2)
    (s.markOver core o p.1 (2 * p.2) 2).opmPut (a + b.2) (o.merge p.1 p.2 (s.opmByte (a + b.2)) b.1)) s

/-- Writes of a copy's steps to an image: bytes at offsets of scratch or of the on-chip map. -/
def State.imageWrites (s : State) (core : Nat) (o : CopyOp) (ws : List (Nat × List Byte)) : State :=
  ws.foldl (fun s w =>
    if o.dir = 0 then
      let at_ := o.scrBase + o.scratch + w.1
      (s.markOver core o 1 (2 * scratchKey core at_) (2 * w.2.length)).writeScratch core o.group at_
        (w.2.zipIdx.map (fun b => o.merge 1 (scratchKey core (at_ + b.2)) (readByte s.scratch (scratchKey core (at_ + b.2))) b.1))
    else s.engineOpm core o (o.opm + w.1) w.2) s

/-- What a copy finds wrong before it moves anything (R245): its scratch range, then its references to the on-chip map. -/
def State.copyPlaces (s : State) (o : CopyOp) (n : Nat) : Option CopyEnd :=
  let refs := if o.dir < 2 then [] else (List.range n).map (fun i => s.opmRef o.launch (o.opm + i))
  if o.dir ≠ 2 ∧ o.scrBytes < o.scratch + n then some (.failed tcCopyfault 3)
  else if refs.any (fun r => r == .bad) then some (.failed tcCopyfault 4)
  else if refs.any (fun r => r == .token) then some (.failed tcToken 1)
  else none

def State.updCopy (s : State) (core id : Nat) (f : CopyOp → CopyOp) : State :=
  s.updCore core (fun k => { k with copyQ := k.copyQ.map (fun o => if o.id = id then f o else o) })
def State.dropCopy (s : State) (core id : Nat) : State :=
  s.updCore core (fun k => { k with copyQ := k.copyQ.filter (fun o => o.id != id) })

/-- Moves a box between memory and an image from where it stands: the steps before one that is stopped have been moved, and their
writes stand (R192, R245). A box that is never stopped is moved at once. -/
def State.copyBox (s : State) (core : Nat) (o : CopyOp) (t : Tensor) : State × CopyEnd :=
  let todo := t.steps.drop o.moved
  let x := s.stepsReady core o.asid (o.dir == 1) (todo.map (t.stepAddrs o.origin)) [] 0
  let m := x.2.1
  let now := todo.take x.2.2.1
  let rd := fun (va : Nat) => x.1.engineByte core (mapPa m va)
  let scr := fun (i : Nat) => readByte x.1.scratch (scratchKey core (o.scrBase + o.scratch + i))
  let whole := x.2.2.2.isNone && o.moved == 0
  let used := fun (_ : Unit) => x.1.useLines m (now.flatMap (t.stepAddrs o.origin))
  let s :=
    if o.dir = 1 then x.1.engineWrites core o m (now.flatMap (t.stepMem o.origin scr))
    else if whole then (used ()).imageWrites core o [(0, t.build o.origin rd)]
    else (used ()).imageWrites core o (now.flatMap (t.stepImage o.origin rd))
  match x.2.2.2 with
  | some e => (s.updCopy core o.id (fun q => { q with moved := o.moved + now.length }), e)
  | none =>
    let s := if o.dir = 1 ∨ whole then s else s.imageWrites core o (t.padding.map (fun i => (i, [0])))
    (s, .wrote (if o.dir = 1 then writtenBytes (t.unbuild o.origin scr) else t.image))

/-- Runs a copy on, with its record (R237). SUB 3 ends with SCALELAYOUT as the other directions do, though it reads the record for its
shape only (DESIGN CHOICE, notes/assumptions/63.md: R235 and R245 name the cause for every copy, and R237 no exception). -/
def State.runRecord (s : State) (core : Nat) (o : CopyOp) : State × CopyEnd :=
  let t := Tensor.ofBytes o.recBytes
  if !t.wellFormed o.recBytes then (s, .failed tcCopyfault 1)
  else
    match t.scaleFault o.origin with
    | some d => (s, .failed tcScale d)
    | none =>
      match s.copyPlaces o t.image with
      | some e => (s, e)
      | none =>
        if o.dir = 3 then
          (s.imageWrites core o [(0, (List.range t.image).map (fun i => readByte s.scratch (scratchKey core (o.scrBase + o.scratch + i))))],
            .wrote t.image)
        else s.copyBox core o t

/-- Attempts a copy from where it stands; its record is read once, as it starts (R232). -/
def State.runCopy (s : State) (core : Nat) (o : CopyOp) : State × CopyEnd :=
  if o.recBytes ≠ [] then s.runRecord core o
  else
    match s.recordBytes core o.asid o.record.toNat with
    | (s, .error e) => (s, e)
    | (s, .ok b) => (s.updCopy core o.id (fun q => { q with recBytes := b })).runRecord core { o with recBytes := b }

/-- The failure a copy leaves pending (R246). -/
def copyDelivery (o : CopyOp) (code detail : Nat) : Delivery :=
  { engine := true, cls := .cp, code := BitVec.ofNat 8 code, detail := BitVec.ofNat 8 detail, taddr := o.pc, tword := 0, op := o.id
    ticket := o.ticket, tiles := [] }

/-- The core and the copy of an id. -/
def State.copy? (s : State) (id : Nat) : Option (Nat × CopyOp) :=
  s.cores.findSome? (fun e => (e.2.copyQ.find? (fun o => o.id == id)).map (fun o => (e.1, o)))

/-- A copy may be attempted: its time has come, it is among the engine's 8, and its part's older copies have ended (R223, R239). -/
def State.copyDue (s : State) (core : Nat) (o : CopyOp) : Bool :=
  let older := (s.core core).copyQ.takeWhile (fun x => x.id != o.id)
  o.status == .running && decide (o.due ≤ s.dcc) && s.engineTurn core o.slot o.admission .cp o.id && decide (older.length < 8)
  && (match s.walk (dieOf core) o.asid o.record.toNat with
      | .nonPresent _ => s.mayPost core o.asid o.record.toNat || o.recBytes != []
      | _ => true)

/-- TCOPY_COMPLETE (R237, R239, R245): the copy performs, fails, or is held at a page. The size that R238 keeps for a record is that
of the last copy of it that has ended without a failure (DESIGN CHOICE, notes/assumptions/63.md). -/
def execTcopyComplete (op : Nat) (s : State) : Out :=
  match s.copy? op with
  | none => .next s
  | some (core, o) =>
    if !s.copyDue core o then .next s
    else
      match s.runCopy core o with
      | (s, .wrote n) =>
        let s := s.updCore core (fun k => { k with recSizes := putT k.recSizes o.record.toNat n })
        .next ((s.dropCopy core op).endEngine core o.slot o.admission .cp op none)
      | (s, .failed code d) =>
        .next ((s.dropCopy core op).endEngine core o.slot o.admission .cp op (some (copyDelivery o code d)))
      | (s, .missing va ext) =>
        match s.postFault core o.asid va ext 3 0xFF with
        | (s, some (die, t)) => .next (s.updCopy core op (fun o => { o with status := .held die t }))
        | (s, none) => .next (s.updCopy core op (fun o => { o with due := s.dcc + 1 }))
      | (s, .again) => .next (s.updCopy core op (fun o => { o with due := s.dcc + 1 }))

/-! ### `mma` and `mmz` at issue -/

/-- A source word's ILLEGAL: unused bits, shape bits, group code (R240). -/
def badSource (q mem co isA : Bool) (v : W64) : Bool :=
  let n := v.toNat
  let shape := n / 2 ^ 57 % 64
  n / 2 ^ 63 != 0 || ((!co || !isA) && shape != 0) ||
  (!mem && (n / 2 ^ 34 % 2 ^ 23 != 0 || (if q then n / 2 ^ 32 % 4 == 3 else n / 2 ^ 32 % 4 != 0)))

/-- The co-operative shape's ILLEGAL: the uniform register it blames, counted from A (none) or B (some). -/
def badCoop (l : Launch) (logw logh m n : Nat) : Option Bool :=
  if 5 ≤ logw ∨ 4 ≤ logh ∨ l.logw < logw ∨ l.logh < logh ∨ logw + logh = 0 then some true
  else if 1024 < m ∨ 1024 < n ∨ m % 2 ^ logh ≠ 0 ∨ n % 2 ^ logw ≠ 0 then some false
  else none

/-- Address part of a source word: an offset, or a record address. -/
def sourceAddr (mem : Bool) (v : W64) : Nat := if mem then v.toNat % 2 ^ 57 else v.toNat % 2 ^ 32

/-- The traps of R243 at issue, in order: code and TADDR. -/
def mmaTrap (c : Ctx) (u : UWord) (x : XtWord) : Option (Nat × W64) :=
  let a := (c.sreg u.a.toNat).toNat
  let b := u.b.toNat
  let s0 := c.sreg b
  let s1 := c.sreg (b + 1)
  let q := x.aty.toNat == 6 || x.aty.toNat == 7
  let logw := if x.co then s0.toNat / 2 ^ 57 % 8 else 0
  let logh := if x.co then s0.toNat / 2 ^ 60 % 8 else 0
  let m := a % 65536
  let n := a / 65536 % 65536
  let reg := fun (k : Nat) => some (tcIllegal, BitVec.ofNat 64 k)
  if a / 2 ^ 48 ≠ 0 then reg u.a.toNat
  else if (spanOf x.aty.toNat x.tile.toNat c.group.nacc (m / 2 ^ logh) (n / 2 ^ logw)).isNone then reg u.a.toNat
  else if badSource q x.ak x.co true s0 then reg b
  else if badSource q x.bk x.co false s1 then reg (b + 1)
  else if q ∧ !x.ak ∧ !x.bk ∧ s0.toNat / 2 ^ 32 % 4 ≠ s1.toNat / 2 ^ 32 % 4 then reg (b + 1)
  else
    match (if x.co then badCoop c.launch logw logh m n else none) with
    | some true => reg b
    | some false => reg u.a.toNat
    | none =>
      let bad := fun (mem : Bool) (v : W64) => sourceAddr mem v % (if mem then 256 else 1024) != 0
      if bad x.ak s0 then some (tcAlign, BitVec.ofNat 64 (sourceAddr x.ak s0))
      else if bad x.bk s1 then some (tcAlign, BitVec.ofNat 64 (sourceAddr x.bk s1))
      else none

/-- An operation of the array that has not passed its last pass. -/
def MmaOp.unfinished (o : MmaOp) : Bool := o.finish.isNone

/-- Puts an operation into the matrix queue: its tiles' tokens pass to the engine, its part counts it (R243, R250). -/
def State.queueMatrix (s : State) (c : Ctx) (o : MmaOp) (tiles : List Nat) (idle : Nat) : State :=
  let busy := (s.core c.ref.core).matrixQ.any MmaOp.unfinished
  let o := { o with start := if busy then 0 else s.dcc + idle }
  let s := { s with nextId := s.nextId + 1 }
  let s := s.updCore c.ref.core (fun k => { k with matrixQ := k.matrixQ ++ [o] })
  let s := s.updGroup c.wave.group (fun g => { g with engineTiles := tiles.foldl addNew g.engineTiles })
  s.updPart c.ref (fun p => p.addOp .mx o.id)

/-- A stream that has delivered nothing and is not reading. -/
def Stream.idle : Stream := { record := [], image := [], steps := 0, next := none, held := none }

/-- The fields of an operation that its instruction fixes. -/
def mmaOf (c : Ctx) (s : State) (u : UWord) (x : XtWord) : MmaOp :=
  let a := (c.sreg u.a.toNat).toNat
  let s0 := c.sreg u.b.toNat
  let s1 := c.sreg (u.b.toNat + 1)
  let logw := if x.co then s0.toNat / 2 ^ 57 % 8 else 0
  let logh := if x.co then s0.toNat / 2 ^ 60 % 8 else 0
  { id := s.nextId, slot := c.ref.slot, admission := c.wave.admission, group := c.wave.group, launch := c.wave.launch, pc := c.part.pc
    asid := c.part.regs.asid, zeroOnly := false, aty := x.aty.toNat, bty := x.bty.toNat, m := a % 65536 / 2 ^ logh
    n := a / 65536 % 65536 / 2 ^ logw, k := a / 2 ^ 32 % 65536, z := x.z, period := x.pm1.toNat + 1, tile := x.tile.toNat
    t0 := c.group.t0, srcA := BitVec.ofNat 64 (sourceAddr x.ak s0), srcB := BitVec.ofNat 64 (sourceAddr x.bk s1), memA := x.ak
    memB := x.bk, gcode := if x.ak then s1.toNat / 2 ^ 32 % 4 else s0.toNat / 2 ^ 32 % 4
    scrBase := c.group.scrBase * 8192, scrBytes := c.group.scr * 8192, co := x.co, logw := logw, logh := logh
    inst := if x.co then c.group.coop else 0, released := !x.co, idx := 0, row := 0, partials := []
    streamA := Stream.idle, streamB := Stream.idle, issued := s.dcc, start := 0, finish := none, status := .queued
    fail := if x.co then
        (c.launch.coopFails.find? (fun e => e.1 == c.group.coop && e.2.1 == c.launch.rel c.ref.core && decide (e.2.2.2 ≤ s.dcc))).map
          (fun e => (tcMxfault, e.2.2.1))
      else none
    badTile := none }

/-- A tile at or above NACC, in the XT word, then the gate rule (R108, R251, 13 R306). -/
def tilePre (x : XtWord) (c : Ctx) (_ : State) : Option (Nat × Nat × W64) :=
  match illegalAt c 1 (decide (c.group.nacc ≤ x.tile.toNat)) with
  | some t => some t
  | none => gateBan c

/-! ### Shape of an operation, and its memory sources (R244, R371) -/

/-- Formats of the float types of ATY (05 R107). -/
def arrayFmt (aty : Nat) : Fmt := [fmtE4m3, fmtE5m2, fmtBf16, fmtF16, fmtF32, fmtF64].getD aty fmtF32
/-- k-step depth (01 R26); the direct path takes one k. -/
def stepDepth (aty : Nat) : Nat := [8, 8, 4, 4, 1, 1, 8, 16].getD aty 1
def MmaOp.isQ (o : MmaOp) : Bool := decide (6 ≤ o.aty)
def MmaOp.direct (o : MmaOp) : Bool := o.aty == 4 || o.aty == 5
/-- Cycles of a pass. -/
def MmaOp.passCycles (o : MmaOp) : Nat := if o.aty = 4 then 2 else if o.aty = 5 then 8 else 1
/-- Values of k in a unit of the promotion loop: a group, a k-step, or one k. -/
def MmaOp.unit (o : MmaOp) : Nat := if o.isQ then groupSize o.gcode else stepDepth o.aty
def MmaOp.units (o : MmaOp) : Nat := ceilDiv o.k o.unit
/-- k-steps of a unit. -/
def MmaOp.perUnit (o : MmaOp) : Nat := if o.isQ then groupSize o.gcode / stepDepth o.aty else 1
def MmaOp.steps (o : MmaOp) : Nat := o.units * o.perUnit

/-! Memory-sourced streams: the cores of a sub-rectangle that share a band read it once (R248). The reader is the instance that
issued first (DESIGN CHOICE, notes/assumptions/54.md: R248 names none). -/

/-- An operation takes an operand from memory; its source word, its stream. -/
def MmaOp.mem (o : MmaOp) (isA : Bool) : Bool := if isA then o.memA else o.memB
def MmaOp.src (o : MmaOp) (isA : Bool) : W64 := if isA then o.srcA else o.srcB
def MmaOp.stream (o : MmaOp) (isA : Bool) : Stream := if isA then o.streamA else o.streamB
def MmaOp.setStream (o : MmaOp) (isA : Bool) (st : Stream) : MmaOp := if isA then { o with streamA := st } else { o with streamB := st }

/-- Cores of a co-operative operation's sub-rectangle (R248). -/
def State.coopCores (s : State) (core : Nat) (o : MmaOp) : List Nat :=
  match s.launch? o.launch with
  | some l => l.subRect core o.logw o.logh
  | none => []
/-- The matching instance on a core (R249). -/
def State.instanceOn (s : State) (o : MmaOp) (core : Nat) : Option MmaOp :=
  (s.core core).matrixQ.find? (fun q => q.co && q.launch == o.launch && q.inst == o.inst)

/-- Two instances take an operand from one tensor alike. -/
def MmaOp.sameSource (o q : MmaOp) (isA : Bool) : Bool :=
  q.mem isA && q.src isA == o.src isA && q.asid == o.asid && q.aty == o.aty && q.bty == o.bty && q.m == o.m && q.n == o.n && q.k == o.k
  && q.logw == o.logw && q.logh == o.logh && q.fail.isNone
/-- Cores of the sub-rectangle that have the same band of an operand: its rows' for A, its columns' for B. -/
def State.bandCores (s : State) (core : Nat) (o : MmaOp) (isA : Bool) : List Nat :=
  match s.launch? o.launch with
  | none => []
  | some l =>
    let band := fun (c : Nat) => if isA then coreY (l.rel c) else coreX (l.rel c)
    (s.coopCores core o).filter (fun c => band c == band core)
/-- The other instances that share an operand's band, with their cores. -/
def State.sharers (s : State) (core : Nat) (o : MmaOp) (isA : Bool) : List (Nat × MmaOp) :=
  if !o.co then []
  else ((s.bandCores core o isA).filter (fun c => c != core)).filterMap (fun c =>
    ((s.instanceOn o c).filter (fun q => o.sameSource q isA)).map (fun q => (c, q)))

def State.updMma (s : State) (core id : Nat) (f : MmaOp → MmaOp) : State :=
  s.updCore core (fun k => { k with matrixQ := k.matrixQ.map (fun o => if o.id = id then f o else o) })

/-- A stream is reading, or waits to. -/
def Stream.active (x : Stream) : Bool := x.next.isSome || x.held.isSome
/-- An operation that is about to be queued takes up a memory source: what another instance has read of the band, where one reads it or
has read it whole, or a read of its own, whose record is there after its latency (R244, R248). -/
def State.joinStream (s : State) (core : Nat) (o : MmaOp) (isA : Bool) : MmaOp :=
  let others := s.sharers core o isA
  let read := others.any (fun e => (e.2.stream isA).active || decide (o.steps ≤ (e.2.stream isA).steps))
  if !o.mem isA then o
  else
    match (if read then others else []) with
    | (_, q) :: _ => o.setStream isA { q.stream isA with next := none, held := none }
    | [] => o.setStream isA { o.stream isA with next := some (s.dcc + s.engineLat core o.asid (o.src isA).toNat) }

/-- `mma` (R240-R243, R449). -/
def execMma (u : UWord) (x : XtWord) : State → Out :=
  issue
    { s := u.s, len := 8, cls := some .mx, mem := true, pre := tilePre x, ff := some (fun c _ => c.effWidth x.mw.toNat) }
    (fun c st =>
      match mmaTrap c u x with
      | some (code, t) => st.precise c code 0 t
      | none =>
        if 16 ≤ (st.core c.ref.core).matrixQ.length then st.parkOn c .matrixRoom
        else
          let o := mmaOf c st u x
          let o := st.joinStream c.ref.core (st.joinStream c.ref.core o true) false
          let tiles := (spanOf o.aty o.tile c.group.nacc o.m o.n).getD []
          let st := st.queueMatrix c o tiles 16
          let st := if x.co then st.updGroup c.wave.group (fun g => { g with coop := g.coop + 1 }) else st
          (st.beginRegion c.ref (c.next 8) true).done c 8)

/-- `mmz` (R450). -/
def execMmz (u : UWord) (x : XtWord) : State → Out :=
  issue
    { s := u.s, len := 8, cls := some .mx, mem := true, pre := tilePre x }
    (fun c st =>
      if 16 ≤ (st.core c.ref.core).matrixQ.length then st.parkOn c .matrixRoom
      else
        let st := st.queueMatrix c { mmaOf c st u x with zeroOnly := true, m := 0, n := 0, k := 0 } [x.tile.toNat] 1
        (st.beginRegion c.ref (c.next 8) true).done c 8)

/-! ### Tokens and accumulator rows -/

/-- `tkacq` (R250, R503). -/
def execTkacq (u : UWord) (x : XtWord) : State → Out :=
  issue { s := u.s, len := 8, pre := tilePre x, mem := true } (fun c st =>
    let t := x.tile.toNat
    if c.group.engineTiles.contains t ∧ st.tileBusy c.ref.core (c.group.t0 + t) then st.parkOn c (.tileQuiet (c.group.t0 + t))
    else
      match (if c.part.tcode = 0 then oldestOf (c.part.fails.filter (fun d => d.cls == .mx && d.tiles.contains t)) else none) with
      | some d => st.deliverAny c d
      | none =>
        (st.updGroup c.wave.group (fun g => { g with engineTiles := g.engineTiles.filter (fun i => i != t) })).done c 8)

/-- `tkrel` (R250, R503). -/
def execTkrel (u : UWord) (x : XtWord) : State → Out :=
  issue { s := u.s, len := 8, pre := tilePre x, mem := true } (fun c st =>
    (st.updGroup c.wave.group (fun g => { g with engineTiles := addNew g.engineTiles x.tile.toNat })).done c 8)

/-- The registers of a row: element j of the operand holds columns j·w to j·w + w − 1 (R394). -/
def rowVop (f : BitVec 7) (x : XtWord) (c : Ctx) : Vop :=
  let u := if x.aty = 5 then 2 else 1
  { f := f.toNat, cols := 128 / u / c.part.width, unit := u, al := u }

/-- Elements of a row that a lane moves: register element and byte offset in the tile. -/
def rowElems (c : Ctx) (o : Vop) (row lane : Nat) : List (Nat × Nat) :=
  (List.range o.cols).map (fun j => (j, row * 512 + 4 * o.unit * (j * c.part.width + (lane - c.part.base))))

/-- TOKEN, for a tile whose token the engine holds. -/
def tokenTrap (c : Ctx) (x : XtWord) : Bool := c.group.engineTiles.contains x.tile.toNat

/-- `accrd` (R394). -/
def execAccrd (r : RWord) (x : XtWord) : State → Out :=
  issue { s := r.s, len := 8, pre := tilePre x, regs := fun c _ => [rowVop r.d x c], mem := true } (fun c st =>
    if tokenTrap c x then st.precise c tcToken 2 (BitVec.ofNat 64 x.tile.toNat)
    else
      let o := rowVop r.d x c
      let tile := c.group.t0 + x.tile.toNat
      let ws := (lanesOf c.emask).flatMap (fun l => (rowElems c o r.b.toNat l).flatMap (fun e =>
        c.wr l o 0 e.1 (natOfBytes (readBytes st.acc (accKey c.ref.core tile e.2) (4 * o.unit)))))
      (st.putV c ws).done c 8)

/-- `accwr` (R394). -/
def execAccwr (r : RWord) (x : XtWord) : State → Out :=
  issue { s := r.s, len := 8, pre := tilePre x, regs := fun c _ => [rowVop r.a x c], mem := true } (fun c st =>
    if tokenTrap c x then st.precise c tcToken 2 (BitVec.ofNat 64 x.tile.toNat)
    else
      let o := rowVop r.a x c
      let tile := c.group.t0 + x.tile.toNat
      let acc := (lanesOf c.emask).foldl (fun m l => (rowElems c o r.b.toNat l).foldl (fun m e =>
        writeBytes m (accKey c.ref.core tile e.2) (bytesOfNat (4 * o.unit) (c.vec l o 0 e.1))) m) st.acc
      ({ st with acc := acc }).done c 8)

/-! ### `waitc` (R224) -/

/-- The class a `waitc` names. -/
def clsOf (n : Nat) : Cls := match n with | 0 => .ld | 1 => .st | 2 => .cp | _ => .mx

/-- The failure a `waitc` delivers: the oldest of its class older than the youngest n. -/
def Part.waitcFailure (p : Part) (k : Cls) (n : Nat) : Option Delivery :=
  if p.tcode ≠ 0 then none else oldestOf ((p.fails ++ p.held).filter (fun d => d.cls == k && p.olderThan k n d.op))

/-- `waitc`. -/
def execWaitc (r : RWord) : State → Out :=
  issue { s := r.s, len := 4, mem := true } (fun c st =>
    let k := clsOf r.d.toNat
    let n := r.b.toNat
    if n < c.part.count k then st.parkOn c (.count k n)
    -- every entry of the part in the side log has replayed (08 R195)
    else if k = .st ∧ st.partLogged c.ref.core c.part then st.parkOn c .noLog
    else
      match c.part.waitcFailure k n with
      | some d => st.deliverAny c d
      | none => st.done c 4)

end Sys2Proof.Machine
end

