-- ==== Sys2Proof/Machine/Matrix.lean ====
section
/-! DEFINITION. The matrix array: the arithmetic of R169-R173, its operations' passes (10 R241-R245), memory-sourced
streams, co-operative instances (R248, R249), and the slew limiter that grants the passes (17 R371, R372). -/

namespace Sys2Proof.Machine

/-! ### Passes of an operation (R244, R371) -/

/-- The result lies in one tile. -/
def MmaOp.single (o : MmaOp) : Bool := decide (o.m ≤ 128) && decide (o.n ≤ tileCols o.aty)
/-- Quadrants of each pass of a k-step: one pass for each tile that holds an output. -/
def MmaOp.quads (o : MmaOp) : List Nat :=
  let w := tileCols o.aty
  let q := fun (mt nt : Nat) => ceilDiv mt 64 * ceilDiv nt (w / 2)
  if o.single then [q o.m o.n]
  else ((List.range 4).map (fun i => q (min 128 (o.m - 128 * (i / 2))) (min w (o.n - w * (i % 2))))).filter (fun n => n != 0)
/-- Pass cycles of a k-step, and of the operation. -/
def MmaOp.perStep (o : MmaOp) : Nat := o.quads.length * o.passCycles
def MmaOp.total (o : MmaOp) : Nat := o.steps * o.perStep
/-- Quadrants of the next pass cycle. -/
def MmaOp.nextQuads (o : MmaOp) : Nat := o.quads.getD (o.idx / o.passCycles % o.quads.length) 0
/-- Pass cycles whose operands stand ready. -/
def MmaOp.readyCycles (o : MmaOp) : Nat :=
  if !o.released then 0
  else
    let one := fun (isA : Bool) => if o.mem isA then min o.total ((o.stream isA).steps * o.perStep) else o.total
    min (one true) (one false)
/-- The array reaches it and goes past it without a pass (R243, R450). -/
def MmaOp.passless (o : MmaOp) : Bool := o.zeroOnly || o.fail.isSome || o.m == 0 || o.n == 0 || o.k == 0

/-! ### Operands (R241, R234) -/

/-- Bytes of an element in an image. -/
def MmaOp.elemBytes (o : MmaOp) (isA : Bool) : Nat := scrBytesOf (if isA then o.aty else o.bty)
def MmaOp.rowsOf (o : MmaOp) (isA : Bool) : Nat := if isA then o.m else o.n
def MmaOp.groups (o : MmaOp) : Nat := if o.isQ then ceilDiv o.k (groupSize o.gcode) else 0
/-- Bytes of an operand's image with its side-tiles. -/
def MmaOp.imageLen (o : MmaOp) (isA : Bool) : Nat := imageBytes (o.elemBytes isA) o.k (o.rowsOf isA) o.groups

/-- A byte of an operand's image: of the group's scratch as it stands, or of the stream. -/
def State.operandByte (s : State) (core : Nat) (o : MmaOp) (isA : Bool) (off : Nat) : Byte :=
  if o.mem isA then getT 0 (o.stream isA).image off
  else readByte s.scratch (scratchKey core (o.scrBase + (o.src isA).toNat + off))
def State.operandNat (s : State) (core : Nat) (o : MmaOp) (isA : Bool) (off n : Nat) : Nat :=
  natOfBytes ((List.range n).map (fun i => s.operandByte core o isA (off + i)))

/-- Pattern of element `k` of row `r` of an operand. -/
def State.operandAt (s : State) (core : Nat) (o : MmaOp) (isA : Bool) (r k : Nat) : Nat :=
  let e := o.elemBytes isA
  let v := s.operandNat core o isA (imagePos e (o.rowsOf isA) r k) e
  if o.aty = 7 then v % 16 else v
/-- Scale pattern and zero point of group `g` of a row. -/
def State.operandScale (s : State) (core : Nat) (o : MmaOp) (isA : Bool) (r g : Nat) : Nat × Nat :=
  let rows := o.rowsOf isA
  let side := 128 * imageRows (o.elemBytes isA) o.k rows
  let z := s.operandNat core o isA (side + rows * sideScale o.groups + r * sideZero o.groups + g) 1
  (s.operandNat core o isA (side + r * sideScale o.groups + 2 * g) 2, if o.aty = 7 then z % 16 else z)

/-! ### The arithmetic (R169-R172) -/

/-- RoundW24 (R169). -/
def roundW24 (v : FVal) : FVal := fmtW24.value (fmtW24.round rmRne false v).bits
/-- Adds a step value to a partial (R170). -/
def addStep (part t : FVal) : FVal := roundW24 (FVal.add rmRne part (roundW24 t))
/-- Promotes a partial into binary32 (R170). -/
def promote (acc : Nat) (part : FVal) : Nat := (fmtF32.round rmRne false (FVal.add rmRne (fmtF32.value acc) part)).bits

/-- The exact sum of a k-step's products (R170). -/
def State.floatStep (s : State) (core : Nat) (o : MmaOp) (j m n : Nat) : FVal :=
  let d := stepDepth o.aty
  let ts := (List.range d).map (fun i =>
    let k := d * j + i
    if o.k ≤ k then FVal.fin false 0 0
    else FVal.mul ((arrayFmt o.aty).value (s.operandAt core o true m k)) ((arrayFmt o.bty).value (s.operandAt core o false n k)))
  match ts with
  | [] => .fin false 0 0
  | t :: r => r.foldl (FVal.add rmRne) t

/-- The exact sum of a k-step of a group of codes (R171). -/
def State.codeStep (s : State) (core : Nat) (o : MmaOp) (j m n : Nat) : Int :=
  let d := stepDepth o.aty
  (List.range d).foldl (fun acc i =>
    let k := d * j + i
    if o.k ≤ k then acc
    else
      let g := k / o.unit
      let a : Int := s.operandAt core o true m k
      let b : Int := s.operandAt core o false n k
      acc + (a - (s.operandScale core o true m g).2) * (b - (s.operandScale core o false n g).2)) 0

/-- A group's step value from its exact sum (R171). -/
def State.groupStep (s : State) (core : Nat) (o : MmaOp) (g m n : Nat) (sum : FVal) : FVal :=
  let sa := fmtF16.value (s.operandScale core o true m g).1
  let sb := fmtF16.value (s.operandScale core o false n g).1
  match sa, sb with
  | .fin _ _ _, .fin _ _ _ => FVal.mul sum (FVal.mul sa sb)
  | _, _ => .nan

/-! ### Tiles (R178, R242) -/

/-- Key of an output's bytes in the accumulator memory. -/
def MmaOp.outKey (o : MmaOp) (core m n : Nat) : Nat :=
  let w := tileCols o.aty
  let t := if o.single then 0 else m / 128 * 2 + n / w
  accKey core (o.t0 + o.tile + t) (m % 128 * 512 + n % w * (512 / w))
def MmaOp.outBytes (o : MmaOp) : Nat := 512 / tileCols o.aty
def MmaOp.outputs (o : MmaOp) : List (Nat × Nat) := (List.range o.m).flatMap (fun m => (List.range o.n).map (fun n => (m, n)))
/-- The value an output starts a promotion from: +0 before the first promotion under Z (R170). -/
def State.accAt (s : State) (core : Nat) (o : MmaOp) (m n : Nat) : Nat :=
  if o.z ∧ o.row = 0 then 0 else natOfBytes (readBytes s.acc (o.outKey core m n) o.outBytes)
def State.putAcc (s : State) (core : Nat) (o : MmaOp) (m n v : Nat) : State :=
  { s with acc := writeBytes s.acc (o.outKey core m n) (bytesOfNat o.outBytes v) }

/-- The unit that ends with k-step `j` promotes (R170, R171). -/
def MmaOp.promotes (o : MmaOp) (j : Nat) : Bool :=
  let u := j / o.perUnit
  (j + 1) % o.perUnit == 0 && (o.direct || (u + 1) % o.period == 0 || u + 1 == o.units)

/-- Sums k-step `j` into one output; at a promotion boundary the tile takes it. -/
def State.outputStep (s : State) (core : Nat) (o : MmaOp) (j : Nat) (q : MmaOp) (m n : Nat) : State × MmaOp :=
  if o.direct then
    let f := arrayFmt o.aty
    let r := f.ffma rmRne false (s.operandAt core o true m j) (s.operandAt core o false n j) (s.accAt core o m n)
    (s.putAcc core o m n r.bits, q)
  else
    let key := m * 1024 + n
    let part := getT (.fin false 0 0) o.partials key
    let u := j / o.perUnit
    let exact := getT (.fin false 0 0) o.partials (key + 2097152)
    let sum := if o.isQ then FVal.add rmRne exact (let c := s.codeStep core o j m n; .fin (decide (c < 0)) c.natAbs 0) else exact
    let ends := (j + 1) % o.perUnit == 0
    let t := if o.isQ then s.groupStep core o u m n sum else s.floatStep core o j m n
    let part' := if ends then addStep part t else part
    let base := if o.isQ ∧ !ends then putT q.partials (key + 2097152) sum else delT q.partials (key + 2097152)
    if o.promotes j then (s.putAcc core o m n (promote (s.accAt core o m n) part'), { q with partials := delT base key })
    else (s, { q with partials := putT base key part' })

/-- MXPROG of the parts that hold the operation (R243). -/
def State.showProgress (s : State) (core : Nat) (o : MmaOp) (active : Bool) : State :=
  s.updWave (core * 128 + o.slot) (fun w =>
    if w.admission ≠ o.admission then w
    else { w with parts := w.parts.map (fun (p : Part) =>
      if p.mxOps.contains o.id then
        { p with mxRow := BitVec.ofNat 16 o.row, mxTile := BitVec.ofNat 4 o.tile, mxActive := active }
      else p) })

/-- The core and the operation of an id. -/
def State.mma? (s : State) (id : Nat) : Option (Nat × MmaOp) :=
  s.cores.findSome? (fun e => (e.2.matrixQ.find? (fun o => o.id == id)).map (fun o => (e.1, o)))

/-- Performs k-step `j` of an operation: operands are read now, every output is summed (R170-R172, R244). -/
def State.kstep (s : State) (core : Nat) (o : MmaOp) (j : Nat) : State :=
  let r := o.outputs.foldl (fun (a : State × MmaOp) e => a.1.outputStep core o j a.2 e.1 e.2) (s, o)
  let q := if o.promotes j then { r.2 with row := min o.k ((j / o.perUnit + 1) * o.unit) } else r.2
  let s := r.1.updMma core o.id (fun _ => q)
  if o.promotes j then s.showProgress core q true else s

/-! ### The array's turn (R243, R244, R450, R515) -/

/-- The operation the array serves. -/
def Core.served (k : Core) : Option MmaOp := k.matrixQ.find? MmaOp.unfinished

/-- Gives the next operation its start, in the cycle after this one. -/
def State.startNext (s : State) (core : Nat) : State :=
  match (s.core core).served with
  | some o => s.updMma core o.id (fun o => { o with start := max o.start (s.dcc + 1) })
  | none => s

/-- Drops the engine operations of launches that leave the machine; where the array was at one of them, the next begins behind it
(25 R515). -/
def State.dropEngines (s : State) (gone : Nat → Bool) : State :=
  let left := (s.cores.filter (fun e => match e.2.served with | some o => gone o.launch | none => false)).map Prod.fst
  let s := { s with cores := s.cores.map (fun (e : Nat × Core) =>
    (e.1, { e.2 with copyQ := e.2.copyQ.filter (fun o => !gone o.launch), matrixQ := e.2.matrixQ.filter (fun o => !gone o.launch) })) }
  left.foldl State.startNext s

/-- Ends the array's work on an operation; it completes `d` cycles later. -/
def State.arrayDone (s : State) (core : Nat) (o : MmaOp) (d : Nat) : State :=
  (s.updMma core o.id (fun o => { o with finish := some (s.dcc + d), status := .finishing })).startNext core

/-- MXFAULT 3 of a scratch operand outside the group's allocation (R245). -/
def MmaOp.badScratch (o : MmaOp) : Bool :=
  (!o.memA && decide (o.scrBytes < o.srcA.toNat + o.imageLen true)) || (!o.memB && decide (o.scrBytes < o.srcB.toNat + o.imageLen false))

/-- A failure ends the operation, and a co-operative one's partners with MXFAULT 4, or 5 where the sub-rectangle is not as it
must be, issued or yet to issue (R249). The failure reaches each partner over a slice (01 R18), in the cycles of a slice hit (DESIGN
CHOICE, notes/assumptions/54.md: R249 gives no figure). -/
def State.failMma (s : State) (core : Nat) (o : MmaOp) (code detail : Nat) : State :=
  let s := s.updMma core o.id (fun o => { o with fail := some (code, detail) })
  if !o.co ∨ detail = 4 then s
  else
    let d := if detail = 5 then 5 else 4
    ((s.coopCores core o).filter (fun c => c != core)).foldl (fun s c =>
      s.updLaunch o.launch (fun l => { l with coopFails := (o.inst, l.rel c, d, s.dcc + sliceLatency (dieOf core) (dieOf c)) :: l.coopFails })) s

/-- A failure of a launch's instance reaches a partner: an instance that has not failed itself takes it. -/
def State.landFailure (s : State) (lid core inst detail : Nat) : State :=
  s.updCore core (fun k => { k with matrixQ := k.matrixQ.map (fun o =>
    if o.co && o.launch == lid && o.inst == inst && o.fail.isNone then { o with fail := some (tcMxfault, detail) } else o) })
/-- The failures that have reached their cores as a cycle begins. -/
def State.landFailures (s : State) : State :=
  s.launches.foldl (fun s e => (e.2.coopFails.filter (fun f => decide (f.2.2.2 ≤ s.dcc))).foldl (fun s f =>
    s.landFailure e.1 (e.2.coreAt f.2.1) f.1 f.2.2.1) s) s
/-- A partner's failure is on its way to an instance. -/
def State.failComing (s : State) (core : Nat) (o : MmaOp) : Bool :=
  o.co && o.fail.isNone && (match s.launch? o.launch with
    | some l => l.coopFails.any (fun f => f.1 == o.inst && f.2.1 == l.rel core && decide (s.dcc < f.2.2.2))
    | none => false)

/-- Groups of the launch on a core. -/
def State.groupsOn (s : State) (launch core : Nat) : Nat :=
  (s.groups.filter (fun e => e.2.launch == launch && e.2.core == core)).length
/-- A core of the sub-rectangle has not exactly one group: two or more, or none with every group admitted (R249). -/
def State.coopBroken (s : State) (core : Nat) (o : MmaOp) : Bool :=
  match s.launch? o.launch with
  | none => true
  | some l => (s.coopCores core o).any (fun c =>
      let n := s.groupsOn o.launch c
      decide (2 ≤ n) || (n == 0 && decide (l.ngroups ≤ l.admitted)))

/-- The array reaches the operation at its head: clears, empty shapes and failures go past it at once. An empty shape completes before
the groups of its sub-rectangle are looked at (DESIGN CHOICE, notes/assumptions/54.md). -/
def State.reach (s : State) (core : Nat) : State :=
  match (s.core core).served with
  | none => s
  | some o =>
    if o.start = 0 ∨ s.dcc < o.start then s
    else if o.zeroOnly then
      let lo := accKey core (o.t0 + o.tile) 0
      ({ s with acc := clearRange s.acc lo (lo + 65536) }).arrayDone core o 16
    else if o.fail.isSome then s.arrayDone core o 0
    else if o.m = 0 ∨ o.n = 0 then s.arrayDone core o 0
    else if o.k = 0 then
      let s := if o.z then o.outputs.foldl (fun s e => s.putAcc core o e.1 e.2 0) s else s
      s.arrayDone core o 0
    else if o.co ∧ !o.released ∧ s.coopBroken core o then (s.failMma core o tcMxfault 5).arrayDone core o 0
    else if o.badScratch then (s.failMma core o tcMxfault 3).arrayDone core o 0
    else if o.status = .queued ∧ o.idx < o.readyCycles then
      (s.updMma core o.id (fun o => { o with status := .running })).showProgress core o true
    else s

/-- Quadrants of the pass cycle that a core's array could make now; none if it could make none. -/
def State.wants (s : State) (core : Nat) : Option (MmaOp × Nat) :=
  match (s.core core).served with
  | none => none
  | some o =>
    if o.start = 0 ∨ s.dcc < o.start ∨ o.passless ∨ o.readyCycles ≤ o.idx then none else some (o, o.nextQuads)

/-- One granted pass cycle: the last of a k-step performs it, the last of all ends the array's work (R244). -/
def State.passCycle (s : State) (core : Nat) (o : MmaOp) : State :=
  let s := s.updMma core o.id (fun o => { o with idx := o.idx + 1 })
  let s := if (o.idx + 1) % o.perStep = 0 then s.kstep core { o with idx := o.idx + 1 } (o.idx / o.perStep) else s
  if o.idx + 1 = o.total then s.arrayDone core o 24 else s

/-! ### The slew limiter (17 R372) -/

/-- G[k]; G[−1] is zero, given as `k + 1 = 0`. -/
def Cluster.ramp (c : Cluster) (k : Nat) : Nat :=
  (if k < 8 then c.ramp0.toNat / 256 ^ k else c.ramp1.toNat / 256 ^ (k - 8)) % 256
/-- G[r − 1]. -/
def Cluster.rampBelow (c : Cluster) : Nat := if c.row = 0 then 0 else c.ramp (c.row - 1)

/-- Quadrant issues an array could make in `fuel` cycles from cycle `t`, were every grant given. -/
def demandOf (t : Nat) : Nat → List MmaOp → Nat
  | 0, _ => 0
  | _, [] => 0
  | fuel + 1, o :: r =>
    if t < o.start then demandOf (t + 1) fuel (o :: r)
    else if o.passless then demandOf (t + 1) fuel r
    else if o.readyCycles ≤ o.idx then 0
    else o.nextQuads + demandOf (t + 1) fuel (if o.idx + 1 = o.total then r else { o with idx := o.idx + 1 } :: r)

/-- Brings a cluster's limiter into the step of this cycle; a step that begins without work has no demand. -/
def Cluster.enterStep (c : Cluster) (dcc demand : Nat) : Cluster :=
  if dcc % 4 = 0 then { c with step := dcc / 4, budget := c.ramp c.row, demand := demand, made := 0, fillers := 0 }
  else if c.step = dcc / 4 then c
  else { c with step := dcc / 4, budget := c.ramp c.row, demand := 0, made := 0, fillers := 0 }

/-- The row of the next step. -/
def Cluster.nextRow (c : Cluster) : Nat :=
  let g := c.ramp c.row
  if g < c.demand then min (c.row + 1) 15
  else if c.demand < g then
    max (c.row - 1) (((List.range 16).find? (fun k => decide (c.demand ≤ c.ramp k))).getD 15)
  else c.row

/-- The demand of a step that begins now: passes that the power filter strikes as it begins are none that the arrays could make (R369;
DEDUCED, notes/assumptions/27.md). -/
def State.demand (s : State) (c : Nat) : Nat :=
  if (s.cluster c).allow < 0 then 0
  else (clusterCores c).foldl (fun a core => a + demandOf s.dcc 4 ((s.core core).matrixQ.filter MmaOp.unfinished)) 0

/-- The cluster's limiter has work in this cycle; a step that began with a demand runs to its end. -/
def State.slewBusy (s : State) (c : Nat) : Bool :=
  let k := s.cluster c
  (clusterCores c).any (fun core => (s.core core).served.isSome) || k.row != 0
    || (s.dcc % 4 != 0 && k.step == s.dcc / 4 && k.demand != 0)

/-- One core's turn at the grants of a cycle: struck passes keep their place (R369). -/
def State.grant (s : State) (c : Nat) (core : Nat) : State :=
  let s := s.reach core
  match s.wants core with
  | none => s
  | some (o, q) =>
    let k := s.cluster c
    if k.allow < 0 ∨ k.budget < q then s
    else
      (s.updCluster c (fun k => { k with budget := k.budget - q, made := k.made + q, debit := k.debit + q * k.wmx.toNat })).passCycle core o

/-- Fillers that bring the step's issues to its floor by the end of cycle `j` (1 to 4). -/
def Cluster.fill (c : Cluster) (j : Nat) : Cluster :=
  let n := ceilDiv (j * c.rampBelow) 4 - c.made
  { c with made := c.made + n, fillers := c.fillers + n, debit := c.debit + n * c.wmx.toNat }

/-- SLEW_STEP (R372): a device cycle of the cluster's limiter. Its first cycle forms the step's demand and budget, each
cycle grants and fills, and the last fixes the next row. -/
def execSlewStep (c : Nat) (s : State) : Out :=
  if !s.slewBusy c then .next s
  else
    let d := s.demand c
    let s := s.updCluster c (fun k => k.enterStep s.dcc d)
    let s := (clusterCores c).foldl (fun s core => s.grant c core) s
    .next (s.updCluster c (fun k =>
      let k := k.fill (s.dcc % 4 + 1)
      if s.dcc % 4 = 3 then { k with row := k.nextRow } else k))

/-! ### Ends of array operations -/

/-- The failure an array operation leaves pending (R246); an error of the accumulator names its tile (12 R284). -/
def mmaDelivery (o : MmaOp) (f : Nat × Nat) : Delivery :=
  { engine := true, cls := .mx, code := BitVec.ofNat 8 f.1, detail := BitVec.ofNat 8 f.2
    taddr := if f.1 = tcEcc then BitVec.ofNat 64 (o.badTile.getD o.tile) else o.pc, tword := 0, op := o.id, ticket := 0
    tiles := ((spanOf o.aty o.tile 16 o.m o.n).getD [o.tile]) }

/-- The array has begun the operation, and it has not completed. -/
def MmaOp.begun (o : MmaOp) : Bool := !o.zeroOnly && (o.status == .running || o.status == .finishing || decide (0 < o.idx))

/-- MXPROG of the parts whose operation completes; a part whose next operation the array has begun shows that one (R92, R243). -/
def State.showEnd (s : State) (core : Nat) (o : MmaOp) : State :=
  let later := (s.core core).matrixQ.filter (fun q => q.id != o.id && q.begun)
  s.updWave (core * 128 + o.slot) (fun w =>
    if w.admission ≠ o.admission then w
    else { w with parts := w.parts.map (fun (p : Part) =>
      if p.mxOps.contains o.id ∧ !later.any (fun q => p.mxOps.contains q.id) then
        { p with mxRow := BitVec.ofNat 16 o.row, mxTile := BitVec.ofNat 4 o.tile, mxActive := false }
      else p) })

/-- An array operation may complete: not while a partner's failure, which ends every instance (R249), is on its way. -/
def State.mmaOver (s : State) (core : Nat) (o : MmaOp) : Bool :=
  !s.failComing core o && (match o.finish with | some t => decide (t ≤ s.dcc) | none => false) && s.engineTurn core o.slot o.admission .mx o.id

def State.completeMatrix (s : State) (core : Nat) (o : MmaOp) : State :=
  let s := if o.zeroOnly then s else s.showEnd core o
  let s := s.updCore core (fun k => { k with matrixQ := k.matrixQ.filter (fun q => q.id != o.id) })
  s.endEngine core o.slot o.admission .mx o.id (o.fail.map (mmaDelivery o))

/-- MMA_COMPLETE (R244, R245). -/
def execMmaComplete (op : Nat) (s : State) : Out :=
  match s.mma? op with
  | none => .next s
  | some (core, o) => .next (if !o.zeroOnly ∧ s.mmaOver core o then s.completeMatrix core o else s)

/-- MMZ_COMPLETE (R450). -/
def execMmzComplete (op : Nat) (s : State) : Out :=
  match s.mma? op with
  | none => .next s
  | some (core, o) => .next (if o.zeroOnly ∧ s.mmaOver core o then s.completeMatrix core o else s)

/-! ### Co-operative release (R249) -/

/-- Cycles that the news of an instance's issue takes to the farthest core of the sub-rectangle, over a slice (01 R18); none for a
sub-rectangle of one core. -/
def coopPath (core : Nat) (cores : List Nat) : Nat :=
  if cores.length ≤ 1 then 0 else (cores.map (fun c => sliceLatency (dieOf core) (dieOf c))).foldl max 0
/-- Every instance of the operation has issued, and every core has the news. -/
def State.coopReady (s : State) (core : Nat) (o : MmaOp) : Bool :=
  let cores := s.coopCores core o
  o.co && !o.released && o.fail.isNone && !s.coopBroken core o
  && cores.all (fun c => match s.instanceOn o c with | some q => decide (q.issued + coopPath core cores ≤ s.dcc) | none => false)

/-- COOP_MMA_RELEASE: every instance may pass its first k-step, the cycles of a slice hit after the last has issued (DESIGN CHOICE,
notes/assumptions/54.md: R249 gives no figure). -/
def execCoopMmaRelease (op : Nat) (s : State) : Out :=
  match s.mma? op with
  | none => .next s
  | some (core, o) =>
    if !s.coopReady core o then .next s
    else .next ((s.coopCores core o).foldl (fun s c =>
      match s.instanceOn o c with
      | some q => s.updMma c q.id (fun q => { q with released := true })
      | none => s) s)

/-! ### Memory-sourced streams (R241, R244) -/

/-- Row of the record's box where the core's band begins (R248). -/
def State.bandRow (s : State) (core : Nat) (o : MmaOp) (isA : Bool) : Nat :=
  match s.launch? o.launch with
  | none => 0
  | some l =>
    let r := l.rel core
    if isA then (coreY r % 2 ^ o.logh) * o.m else (coreX r % 2 ^ o.logw) * o.n

/-- A record's shape and type are those R241 asks for: MXFAULT 1 otherwise; SCALELAYOUT of its scales. -/
def MmaOp.recordFault (o : MmaOp) (isA : Bool) (b : List Byte) : Option (Nat × Nat) :=
  let t := Tensor.ofBytes b
  let rows := if isA then o.m * 2 ^ o.logh else o.n * 2 ^ o.logw
  if !t.wellFormed b ∨ t.boxAt 0 ≠ o.k ∨ t.rows ≠ rows ∨ t.etype ≠ (if isA then o.aty else o.bty) ∨ (o.isQ ∧ t.format ≠ 1) then
    some (tcMxfault, 1)
  else (t.scaleFault []).map (fun d => (tcScale, d))

/-- The group size each operand has, by source: a record's GROUP or the scratch code (R240). -/
def MmaOp.groupMismatch (o : MmaOp) : Bool :=
  let ga := (Tensor.ofBytes o.streamA.record).group
  let gb := (Tensor.ofBytes o.streamB.record).group
  o.isQ && ((o.memA && !o.memB && ga != o.gcode) || (o.memB && !o.memA && gb != o.gcode) || (o.memA && o.memB && ga != gb))

/-- Rows and elements of a k-step, and its group when it begins one. -/
def MmaOp.streamCells (o : MmaOp) (isA : Bool) (j : Nat) : List (Nat × Nat) :=
  let d := stepDepth o.aty
  (List.range (o.rowsOf isA)).flatMap (fun r =>
    ((List.range d).map (fun i => (r, d * j + i))).filter (fun c => decide (c.2 < o.k)))
def MmaOp.streamGroup (o : MmaOp) (j : Nat) : Option Nat :=
  if o.isQ ∧ j % o.perUnit = 0 then some (j / o.perUnit) else none

/-- Memory addresses of one source's operands of k-step `j`. -/
def State.streamVas (s : State) (core : Nat) (o : MmaOp) (isA : Bool) (j : Nat) : List Nat :=
  let t := Tensor.ofBytes (o.stream isA).record
  let row0 := s.bandRow core o isA
  let sides := match o.streamGroup j with
    | some g => (List.range (o.rowsOf isA)).map (fun r => (r, g))
    | none => []
  (((o.streamCells isA j).filter (fun c => t.inside [] (row0 + c.1) c.2)).map (fun c => (t.addr [] (row0 + c.1) c.2).1))
    ++ (sides.filter (fun c => t.groupInside [] (row0 + c.1) c.2)).flatMap (fun c =>
        [t.scaleAddr [] (row0 + c.1) c.2, t.zeroAddr [] (row0 + c.1) c.2])

/-- Latency of the reads of k-step `j`, by its farthest page (R244). -/
def State.streamLat (s : State) (core : Nat) (o : MmaOp) (isA : Bool) (j : Nat) : Nat :=
  ((pageStarts (s.streamVas core o isA j)).map (s.engineLat core o.asid)).foldl max 0

/-- Delivers one source's operands of k-step `j` into its image. -/
def State.streamStep (s : State) (core : Nat) (o : MmaOp) (isA : Bool) (j : Nat) : State × Except CopyEnd (List (Nat × Byte)) :=
  let t := Tensor.ofBytes (o.stream isA).record
  let row0 := s.bandRow core o isA
  let cells := o.streamCells isA j
  let e := o.elemBytes isA
  let rows := o.rowsOf isA
  let sides := match o.streamGroup j with
    | some g => (List.range rows).map (fun r => (r, g))
    | none => []
  let vas := s.streamVas core o isA j
  match s.mapPages core o.asid .read vas [] with
  | (s, .error x) => (s, .error x)
  | (s, .ok m) =>
    let pins := s.pinnedOf core m vas
    if pins ≠ [] then (s.refuseAll pins, .error .again)
    else
      let rd := fun (va : Nat) => s.engineByte core (mapPa m va)
      let img := cells.foldl (fun im c =>
        writeBytes im (imagePos e rows c.1 c.2) (bytesOfNat e (t.element [] rd (row0 + c.1) c.2))) (o.stream isA).image
      let side := 128 * imageRows e o.k rows
      let img := sides.foldl (fun im c =>
        if t.groupInside [] (row0 + c.1) c.2 then
          let a := t.scaleAddr [] (row0 + c.1) c.2
          let im := writeBytes im (side + c.1 * sideScale o.groups + 2 * c.2) [rd a, rd (a + 1)]
          writeByte im (side + rows * sideScale o.groups + c.1 * sideZero o.groups + c.2) (rd (t.zeroAddr [] (row0 + c.1) c.2))
        else im) img
      (s.useLines m vas, .ok img)

/-- Changes the stream of an operation's source. -/
def State.updStream (s : State) (core id : Nat) (isA : Bool) (f : Stream → Stream) : State :=
  s.updMma core id (fun q => q.setStream isA (f (q.stream isA)))

/-- What stops a stream: a missing page holds the operation, a rejected one ends it (R192, R245). -/
def State.streamStop (s : State) (core : Nat) (o : MmaOp) (isA : Bool) : CopyEnd → State
  | .missing va ext =>
    match s.postFault core o.asid va ext 3 0xFF with
    | (s, some t) => s.updStream core o.id isA (fun x => { x with held := some t })
    | (s, none) => s.updStream core o.id isA (fun x => { x with next := some (s.dcc + 1) })
  | .again => s.updStream core o.id isA (fun x => { x with next := some (s.dcc + 1) })
  | _ => s.failMma core o tcMxfault 2

/-- Hands what a stream has delivered to every core that shares the band (R248); for q types with no scratch operand the group size
is the record's (R240). -/
def State.pushStream (s : State) (core : Nat) (o : MmaOp) (isA : Bool) (x : Stream) : State :=
  let q := x.record
  let take := fun (o : MmaOp) =>
    let o := o.setStream isA { o.stream isA with record := q, image := x.image, steps := x.steps }
    if o.memA && o.memB then { o with gcode := (Tensor.ofBytes q).group } else o
  (s.sharers core o isA).foldl (fun s e => s.updMma e.1 e.2.id take) (s.updMma core o.id take)

/-- The failure that a record names once it has been read, if any: its own, then the two operands' group sizes (R240, R241). -/
def MmaOp.streamFault (o : MmaOp) (isA : Bool) : Option (Nat × Nat) :=
  match o.recordFault isA (o.stream isA).record with
  | some f => some f
  | none =>
    let read := fun (isA : Bool) => !o.mem isA || (o.stream isA).record != []
    if read true && read false && o.groupMismatch then some (tcMxfault, 1) else none

/-- A source's stream may deliver. -/
def State.streamDue (s : State) (o : MmaOp) (isA : Bool) : Bool :=
  o.mem isA && o.fail.isNone && o.unfinished && (o.stream isA).held.isNone
  && (match (o.stream isA).next with | some t => decide (t ≤ s.dcc) | none => false)
/-- One of an operation's streams may deliver. -/
def State.deliverDue (s : State) (o : MmaOp) : Bool := s.streamDue o true || s.streamDue o false

/-- A source's record arrives, or its operands of the next k-step: the record is read first, and the reads of the first k-step
follow (R244). -/
def State.deliverStream (s : State) (core : Nat) (o : MmaOp) (isA : Bool) : State :=
  let x := o.stream isA
  if !s.streamDue o isA then s
  else if o.m = 0 ∨ o.n = 0 ∨ o.k = 0 then s.updStream core o.id isA (fun x => { x with next := none })
  else if x.record = [] then
    match s.recordBytes core o.asid (o.src isA).toNat with
    | (s, .error e) => s.streamStop core o isA e
    | (s, .ok b) =>
      let s := s.pushStream core o isA { x with record := b }
      match (s.core core).matrixQ.find? (fun q => q.id == o.id) with
      | none => s
      | some o =>
        match o.streamFault isA with
        | some f => s.failMma core o f.1 f.2
        | none => s.updStream core o.id isA (fun x => { x with next := some (s.dcc + s.streamLat core o isA x.steps) })
  else
    match s.streamStep core o isA x.steps with
    | (s, .error e) => s.streamStop core o isA e
    | (s, .ok img) =>
      let at_ := s.dcc + 1 + (s.streamLat core o isA (x.steps + 1) - s.streamLat core o isA x.steps)
      (s.pushStream core o isA { x with image := img, steps := x.steps + 1 }).updStream core o.id isA (fun y =>
        { y with next := if x.steps + 1 < o.steps then some at_ else none })

/-- MMA_KSTEP_DELIVERY: for each memory source the record is read once, then each k-step's operands arrive in increasing k. -/
def execMmaKstepDelivery (op : Nat) (s : State) : Out :=
  match s.mma? op with
  | none => .next s
  | some (core, o) =>
    let s := s.deliverStream core o true
    match s.mma? op with
    | none => .next s
    | some (core, o) => .next (s.deliverStream core o false)

end Sys2Proof.Machine
end

