-- ==== Sys2Proof/Machine/Power.lean ====
section
/-! DEFINITION. The power controls of a cluster: the allowance (17 R367-R370), voltage (R374), rails (R375) and gating
(R376-R378). -/

namespace Sys2Proof.Machine

/-! ### The allowance (R368, R369) -/

/-- REFILL as it acts: 0 acts as 1 (R367). -/
def Cluster.refillAu (c : Cluster) : Nat := max 1 c.refill.toNat

/-- The allowance has something to do at the end of a cycle. -/
def Cluster.allowanceBusy (c : Cluster) : Bool := c.debit != 0 || c.allow != (c.cap.toNat : Int) || c.negCycles != 0

/-- The end of a cycle: refill and debit, and the run of cycles that started below zero. -/
def Cluster.nextAllowance (c : Cluster) : Cluster :=
  let a := max (-2147483648) (min (c.cap.toNat : Int) (c.allow + c.refillAu - c.debit))
  { c with allow := a, debit := 0, negCycles := if c.allow < 0 then c.negCycles + 1 else 0
           struckAll := c.struckAll && decide (a < 0) }

/-- ALLOWANCE_UPDATE. -/
def execAllowanceUpdate (c : Nat) (s : State) : Out := .next (s.updCluster c Cluster.nextAllowance)

/-- The allowance has started this cycle and each of the 256 before it below zero. -/
def Cluster.sustained (c : Cluster) : Bool := decide (c.allow < 0) && decide (256 ≤ c.negCycles) && !c.struckAll

/-- PAC_SUSTAINED_STRIKE (R369). -/
def execPacSustainedStrike (c : Nat) (s : State) : Out :=
  .next (s.updCluster c (fun k => if k.sustained then { k with struckAll := true } else k))

/-! ### Register writes (R367, R375) -/

/-- The management controller, which alone writes the block. -/
def fromController (src : Source) : Bool := src == .controller

/-- PWRCFG_WRITE: ignored as a whole for a CAP of 0 or at least 2^31. -/
def execPwrcfgWrite (c : Nat) (v : W64) (src : Source) (s : State) : Out :=
  let cap := v.extractLsb' 16 32
  if !fromController src ∨ !s.answers ∨ cap = 0 ∨ 2147483648 ≤ cap.toNat then .next s
  else .next (s.updCluster c (fun k => { k with refill := v.extractLsb' 0 16, cap := cap }))

/-- The table's entries rise and stay at 64 or below. -/
def Cluster.rampOk (c : Cluster) : Bool :=
  (List.range 16).all (fun k => decide (c.ramp k ≤ 64)) && (List.range 15).all (fun k => decide (c.ramp k ≤ c.ramp (k + 1)))

/-- RAMP_WRITE: the step under way keeps its budget; a table that is not valid is ignored. -/
def execRampWrite (c : Nat) (upper : Bool) (v : W64) (src : Source) (s : State) : Out :=
  if !fromController src ∨ !s.answers then .next s
  else
    let k := s.cluster c
    let k := if k.step = s.dcc / 4 then k else { k with step := s.dcc / 4, budget := k.ramp k.row, demand := 0, made := 0, fillers := 0 }
    let k' := if upper then { k with ramp1 := v } else { k with ramp0 := v }
    .next (if k'.rampOk then s.updCluster c (fun _ => k') else s)

/-- RAILSEL_WRITE: at once for a gated cluster, else at its next gating commit. -/
def execRailselWrite (c : Nat) (v : W64) (src : Source) (s : State) : Out :=
  if !fromController src ∨ !s.answers then .next s
  else .next (s.updCluster c (fun k =>
    let r := v.extractLsb' 0 2
    if k.state = .gated then { k with rail := r, railPend := none } else { k with railPend := some r }))

/-! ### Voltage (R374) -/

/-- REQ within VMIN to VMAX + 256. -/
def Cluster.clampReq (c : Cluster) (r : Int) : Nat := (max (c.vmin.toNat : Int) (min r (c.vmax.toNat + 256))).toNat

/-- REQ of a waking cluster is the highest that its VCTL allows until its first interval ends (R374). -/
def Cluster.wakingReq (c : Cluster) (now : Nat) : Cluster :=
  if c.state = .waking ∧ now / 1200 = c.since / 1200 then { c with req := BitVec.ofNat 16 (c.vmax.toNat + 256) } else c

/-- The voltage of a rail, in 2.5 mV units: the highest REQ of the awake and waking clusters that it supplies (R374). -/
def State.railVoltage (s : State) (rail : BitVec 2) : Nat :=
  (((List.range 32).map s.cluster).filter (fun k => k.rail == rail && (k.state == .awake || k.state == .waking))).foldl
    (fun v k => max v k.req.toNat) 0

/-- The loop's change of REQ for a measured slack. -/
def Cluster.nextReq (c : Cluster) (slack : Nat) : Cluster :=
  let t := c.target.toNat
  let d : Int := if 2 * slack < t then 4 else if slack < t then 1 else if t < slack then -1 else 0
  { c with slack := BitVec.ofNat 8 (min slack 255), req := BitVec.ofNat 16 (c.clampReq ((c.req.toNat : Int) + d)) }

/-- An interval of 1,200 device cycles ends for a cluster that makes a request. -/
def State.intervalEnds (s : State) (c : Nat) : Bool :=
  decide (0 < s.dcc) && s.dcc % 1200 == 0 && (s.cluster c).state != .gated

/-- VOLTAGE_INTERVAL: the slack that the monitors measure is a free value. -/
def execVoltageInterval (c : Nat) (s : State) : Out :=
  if !s.intervalEnds c then .next s
  else
    let slack := Config.replicaSlack c s.freeCount
    .next ({ s with freeCount := s.freeCount + 1 }.updCluster c (fun k => k.nextReq slack))

/-! ### Gating (R376-R378) -/

/-- A core holds nothing that keeps its cluster awake. -/
def State.coreIdle (s : State) (core : Nat) : Bool :=
  !(s.waves.any (fun e => e.2.core == core)) && (s.core core).copyQ == [] && (s.core core).matrixQ == []
  && !(s.launches.any (fun e =>
    (match e.2.at_ with | .placed => true | .saving _ => true | _ => false)
    && (decide (e.2.x0 ≤ coreX core) && decide (coreX core < e.2.x0 + 2 ^ e.2.logw)
      && decide (e.2.y0 ≤ coreY core) && decide (coreY core < e.2.y0 + 2 ^ e.2.logh))))
def State.clusterIdle (s : State) (c : Nat) : Bool := (clusterCores c).all s.coreIdle

/-- Dirty lines of a core in increasing order of set, then way. -/
def State.dirtyLines (s : State) (core : Nat) : List Nat :=
  (sortBy (fun (a b : L1Line) => decide (l1Set a.line < l1Set b.line) || (l1Set a.line == l1Set b.line && decide (a.way ≤ b.way)))
    ((s.core core).l1.filter (fun l => l.dirty != 0))).map (fun l => l.line)

/-- The write-backs of gating: core, line, and the cycle in which each is sent, one a cycle from each core. -/
def State.gatingWrites (s : State) (c : Nat) : List (Nat × Nat × Nat) :=
  (clusterCores c).flatMap (fun core => (s.dirtyLines core).zipIdx.map (fun e => (core, e.1, s.dcc + e.2)))

/-- 64 consecutive idle cycles have ended, and the cluster is still idle. -/
def State.gatingDue (s : State) (c : Nat) : Bool :=
  (s.cluster c).state == .awake && decide (64 ≤ (s.cluster c).idle) && s.clusterIdle c

/-- Sends the gating write-backs whose cycle has come. -/
def State.gatingTick (s : State) (c : Nat) : State :=
  let due := (s.cluster c).wbs.filter (fun e => decide (e.2.2 ≤ s.dcc))
  if due = [] then s
  else
    let first := s.nextId
    let s := due.foldl (fun s e => s.sendBack e.1 e.2.1) s
    let sent := (s.backs.filter (fun b => decide (first ≤ b.id))).map (fun b => b.id)
    s.updCluster c (fun k => { k with wbs := k.wbs.filter (fun e => !decide (e.2.2 ≤ s.dcc)), sentWbs := k.sentWbs ++ sent })

/-- GATING_START. -/
def execGatingStart (c : Nat) (s : State) : Out :=
  if !s.gatingDue c then .next s
  else
    let ws := s.gatingWrites c
    .next ((s.updCluster c (fun k => { k with state := .gating, since := s.dcc, lastWb := s.dcc, wbs := ws, sentWbs := [] })).gatingTick c)

/-- Write-backs of a cluster's gating are under way. -/
def State.clusterBacks (s : State) (c : Nat) : Bool := s.backs.any (fun b => (s.cluster c).sentWbs.contains b.id)

/-- Notes in the clusters that gate which of their write-backs have performed. -/
def State.noteGating (s : State) : State :=
  { s with clusters := s.clusters.map (fun (e : Nat × Cluster) =>
    let landed := e.2.sentWbs.filter (fun i => !(s.backs.any (fun b => b.id == i)))
    if e.2.state = .gating ∧ landed ≠ [] then (e.1, { e.2 with lastWb := s.dcc, sentWbs := e.2.sentWbs.filter (fun i => !landed.contains i) })
    else e) }

/-- The gating write-backs have performed, and 16 cycles have passed. -/
def State.commitDue (s : State) (c : Nat) : Bool :=
  (s.cluster c).state == .gating && (s.cluster c).wbs == [] && !s.clusterBacks c && decide ((s.cluster c).lastWb + 16 ≤ s.dcc)

/-- GATING_COMMIT: L1 and TLB contents are discarded; the row, A and REQ take their reset values; a pending rail takes
effect. -/
def execGatingCommit (c : Nat) (s : State) : Out :=
  if !s.commitDue c then .next s
  else
    let s := s.updCluster c (fun k =>
      { k with state := .gated, since := s.dcc, row := 0, allow := (k.cap.toNat : Int), negCycles := 0, struckAll := false
               req := BitVec.ofNat 16 (k.vmax.toNat + 256), rail := k.railPend.getD k.rail, railPend := none, idle := 0, sentWbs := [] })
    .next ((clusterCores c).foldl (fun s core =>
      s.updCore core (fun k => { k with l1 := [], l1tlb := [], coreTlb := [], walkAhead := [] })) s)

/-- CLUSTER_AWAKE. -/
def State.wakeDue (s : State) (c : Nat) : Bool :=
  (s.cluster c).state == .waking && decide ((s.cluster c).since + 2400 ≤ s.dcc)
def execClusterAwake (c : Nat) (s : State) : Out :=
  .next (if s.wakeDue c then s.updCluster c (fun k => { k with state := .awake, since := s.dcc, idle := 0 }) else s)

/-- The distributor reserves a core: its cluster stays or becomes awake, or starts to wake (R376, R378). -/
def State.reserveCore (s : State) (core : Nat) : State :=
  s.updCluster (clusterOf core) (fun k =>
    match k.state with
    | .awake => { k with idle := 0 }
    | .gating =>
      -- a write-back that has not been sent is dropped
      { k with state := .awake, since := s.dcc, idle := 0, wbs := [], sentWbs := [] }
    | .gated => { k with state := .waking, since := s.dcc, idle := 0, req := BitVec.ofNat 16 (k.vmax.toNat + 256) }
    | .waking => k)

end Sys2Proof.Machine
end

