-- ==== Sys2Proof/Machine/Queues.lean ====
section
/-! DEFINITION. Slice queues (08 R202, R203; 21 R462-R464) and channels (08 R204, R205; 19 R416-R418), and the requests that
arrive at a slice (08 R199). -/

namespace Sys2Proof.Machine

/-! ### Queue instructions -/

/-- `qenq` or `qdeq`: one request for the part, whatever its lanes (R463). -/
def queueOp (u : UWord) (cls : Cls) (kind : Ctx → OpKind) (ord : Nat) : State → Out :=
  issue
    { s := u.s, len := 4, cls := some cls, mem := true }
    (fun c st =>
      match st.releaseWait c ord with
      | some st => st
      | none =>
        let q := (c.sreg u.a.toNat).toNat
        if 2 ^ 57 ≤ q then st.precise c tcAccess 5 (BitVec.ofNat 64 q)
        else st.startOp c cls (kind c) 4 ord 5 0 [newAccess c.part.base q 8 0 0 [] []])

/-- `qenq` (R463): a release at dev scope. -/
def execQenq (u : UWord) : State → Out := queueOp u .st (fun c => .qenq (c.sreg u.b.toNat)) 2
/-- `qdeq` (R463): an acquire at dev scope. -/
def execQdeq (u : UWord) : State → Out := queueOp u .ld (fun _ => .qdeq u.d.toNat) 1

/-! ### The queue at its slice (R202, R203) -/

/-- The access of a queue operation. -/
def MemOp.queueAccess? (o : MemOp) : Option Access :=
  match o.kind with
  | .qenq _ => o.accs.head?
  | .qdeq _ => o.accs.head?
  | _ => none

def isEnq (k : OpKind) : Bool :=
  match k with
  | .qenq _ => true
  | _ => false

/-- A request of the same kind parked earlier at the block's slice (R203). -/
def State.queuedBefore (s : State) (o : MemOp) (pa : Nat) : Bool :=
  s.ops.any (fun e =>
    e.id != o.id && e.acted && isEnq e.kind == isEnq o.kind &&
    (match e.queueAccess? with
      | some a => a.isOpen && a.pa == pa && (!o.acted || decide (e.arrival < o.arrival) || (e.arrival == o.arrival && decide (e.id < o.id)))
      | none => false))

/-- The queue lets the operation through. -/
def queueOpen (k : OpKind) (head tail cap : Nat) : Bool :=
  if isEnq k then queueLength head tail != cap else queueLength head tail != 0

/-- Stores the value, or takes one (R203). -/
def State.queueMove (s : State) (o : MemOp) (a : Access) (head tail cap : Nat) : State × Access :=
  let late := (if o.acted then slicePath o.core a.pa else 0) + s.beyondSlice a.pa
  match o.kind with
  | .qenq v =>
    let s := s.slicePut 0 o.core (a.pa + 64 + 8 * (tail % cap)) (bytesOfNat 8 v.toNat)
    (s.slicePut 0 o.core (a.pa + 8) (bytesOfNat 8 (tail + 1)), { a with phase := .done, due := s.dcc + late })
  | _ =>
    let data := readBytes s.mem (a.pa + 64 + 8 * (head % cap)) 8
    ((s.slicePut 0 o.core a.pa (bytesOfNat 8 (head + 1))).acquireL1 o.core 5, { a with phase := .done, data := data, due := s.dcc + late })

/-- Lines that a queue request writes: the block's first, and the one of the entry (R203). -/
def queueLines (o : MemOp) (pa head tail cap : Nat) : List Nat :=
  [pa, pa + 64 + 8 * ((if isEnq o.kind then tail else head) % cap)]
/-- The lines of a request whose block is well formed; the first alone otherwise. -/
def State.linesOfQueue (s : State) (o : MemOp) (a : Access) : List Nat :=
  match queueBlock s.mem a.pa (s.blockPage a.pa a.logPage) with
  | some (h, t, cap) => queueLines o a.pa h t cap
  | none => [a.pa]

/-- A queue request at its slice: it performs, parks there, or fails. -/
def State.queueRequest (s : State) (id : Nat) : State :=
  let s := s.startRelease id
  match s.op? id with
  | none => s
  | some o =>
    match o.queueAccess? with
    | none => s
    | some a =>
      if !(s.canPerform o a) then s
      else if a.kind = 2 then s.failAccesses id 6 16 (fun _ => true)
      else if s.pinnedIn (some o.core) (s.linesOfQueue o a) ≠ [] then
        (s.refuseAll (s.pinnedIn (some o.core) (s.linesOfQueue o a))).updOp id (fun o => o.putAccess { a with phase := .refused })
      else if (s.linesOfQueue o a).any (fun pa => s.lineBusy o.core (pa / 128)) then
        (s.linesOfQueue o a).foldl (fun s pa => s.sendBack o.core (pa / 128)) s
      else
        match queueBlock s.mem a.pa (s.blockPage a.pa a.logPage) with
        | none => s.failAccesses id 6 16 (fun _ => true)
        | some (head, tail, cap) =>
          if queueOpen o.kind head tail cap && !s.queuedBefore o a.pa then
            let r := s.queueMove o a head tail cap
            (((r.1.useLine a.pa 0).updOp id (fun o => o.putAccess r.2)).freeLog id).regionBehind o
          else if o.acted then s
          else s.updOp id (fun o => { o with acted := true, arrival := s.dcc })

/-- A queue request has something to do at its slice: it arrives, or it is parked there and the queue is open to it. -/
def State.queueDue (s : State) (o : MemOp) : Bool :=
  match o.queueAccess? with
  | none => false
  | some a =>
    s.releaseDueAt o || s.canPerform o a && s.retryDue (some o.core) (s.linesOfQueue o a)
    && !((s.linesOfQueue o a).any (fun pa => s.backBusy o.core (pa / 128))) &&
    (!o.acted || s.pinnedIn (some o.core) (s.linesOfQueue o a) ≠ [] ||
      (match queueBlock s.mem a.pa (s.blockPage a.pa a.logPage) with
        | none => true
        | some (h, t, cap) => queueOpen o.kind h t cap && !s.queuedBefore o a.pa))

/-- QUEUE_ENQUEUE_REQUEST (R203). -/
def execQueueEnqueueRequest (op : Nat) (s : State) : Out :=
  match s.op? op with
  | some o => if isEnq o.kind then .next (s.queueRequest op) else .next s
  | none => .next s

/-- QUEUE_DEQUEUE_REQUEST (R203). -/
def execQueueDequeueRequest (op : Nat) (s : State) : Out :=
  match s.op? op with
  | some o => if isEnq o.kind then .next s else .next (s.queueRequest op)
  | none => .next s

/-! ### Channels (R204, R205, R417) -/

/-- The kernel header a wave's group runs under. -/
def Ctx.kernel (c : Ctx) : Kernel :=
  match c.group.kind with
  | .task _ => getT c.launch.kernel c.launch.classes c.group.cls
  | .pixel => match c.launch.draw with | some d => d.pixel | none => c.launch.kernel
  | _ => c.launch.kernel

/-- The slot count, the slot size and the peer offset of a channel. -/
def Ctx.chan? (c : Ctx) (n : Nat) : Option ChanDecl := c.kernel.chans[n]?

/-- Registers per lane of a message on the issuing part (R417). -/
def messageRegs (d : ChanDecl) (width : Nat) : Nat := d.bytes / (4 * width)

/-- The peer of a core, and the core whose peer it is, as indices of the rectangle (02 R30). -/
def Launch.peer (l : Launch) (rel : Nat) (dx dy : Int) : Nat :=
  let w := 2 ^ l.logw
  let h := 2 ^ l.logh
  coreId (((coreX rel : Int) + dx) % w).toNat (((coreY rel : Int) + dy) % h).toNat

/-- Key of a channel instance: the sending core's index and the channel. -/
def instKey (rel ch : Nat) : Nat := rel * 16 + ch
def Launch.inst (l : Launch) (key slots : Nat) : ChanInst := getT { msgs := [], credits := slots, returning := [] } l.chans key
def Launch.setInst (l : Launch) (key : Nat) (i : ChanInst) : Launch := { l with chans := putT l.chans key i }
/-- Kernels whose headers a launch's groups run under: its own, those of its task classes, and the pixel kernel of a draw. -/
def Launch.kernels (l : Launch) : List Kernel := l.kernel :: (l.classes.map Prod.snd ++ l.draw.toList.map (fun d => d.pixel))
/-- The launch's declaration of a channel: that of the first of its kernels whose header declares it (R204; DESIGN CHOICE,
notes/assumptions/58.md, where two headers differ). -/
def Launch.channel? (l : Launch) (n : Nat) : Option ChanDecl := l.kernels.findSome? (fun k => k.chans[n]?)
/-- The channels of a launch. -/
def Launch.channels (l : Launch) : List ChanDecl := (List.range 16).filterMap l.channel?
/-- Declaration behind an instance. -/
def Launch.decl (l : Launch) (key : Nat) : ChanDecl := (l.channel? (key % 16)).getD { dx := 0, dy := 0, slots := 0, bytes := 0 }
/-- Latency between the sending core and the slice that holds its slots. -/
def Launch.chanPath (l : Launch) (key : Nat) : Nat :=
  let d := l.decl key
  sliceLatency (dieOf (l.coreAt (key / 16))) (dieOf (l.coreAt (l.peer (key / 16) d.dx d.dy)))

/-- Checks before issue: the channel exists, CHANNEL, then GATE (R416, R417). -/
def channelPre (r : RWord) (c : Ctx) (_ : State) : Option (Nat × Nat × W64) :=
  match c.chan? r.b.toNat with
  | none => some (tcIllegal, 0, wordAddr c 0)
  | some d =>
    if d.bytes % (4 * c.part.width) ≠ 0 then some (tcChannel, 1, BitVec.ofNat 64 r.b.toNat) else gateBan c

/-- Registers named by a channel instruction: consecutive fields from its data base. -/
def channelVop (r : RWord) (f : BitVec 7) (c : Ctx) (_ : State) : List Vop :=
  match c.chan? r.b.toNat with
  | none => []
  | some d => spanVop f (messageRegs d c.part.width)

/-- A message of the part: values of active lanes, zero for others, by register and then by lane (R205). -/
def messageOf (c : Ctx) (f : BitVec 7) (m : Nat) : List Byte :=
  (List.range m).flatMap (fun k => (List.range c.part.width).flatMap (fun l =>
    let lane := c.part.base + l
    bytesOfNat 4 (if c.emask.getLsbD lane then (c.wave.v c.part.depth lane (regNumber c.wb (f.toNat + k))).toNat else 0)))

/-- Gives an instance's oldest waiting senders its free credits, in order of arrival (R205). -/
def State.grantCredits (s : State) (l key : Nat) : Nat → State
  | 0 => s
  | fuel + 1 =>
    match s.launch? l with
    | none => s
    | some v =>
      let i := v.inst key (v.decl key).slots
      let next := s.ops.find? (fun o =>
        match o.kind with
        | .chsend k _ => o.launch == l && k == key && !o.acted
        | _ => false)
      match next with
      | some o =>
        if i.credits = 0 then s
        else
          let s := s.updOp o.id (fun o => { o with acted := true, arrival := s.dcc + v.chanPath key })
          (s.updLaunch l (fun v => v.setInst key { i with credits := i.credits - 1 })).grantCredits l key fuel
      | none => s

/-- `chsend` (R417): it parks until it has a credit; the message arrives a slice latency later. -/
def execChsend (r : RWord) : State → Out :=
  issue
    { s := r.s, len := 4, pre := channelPre r, regs := channelVop r r.a, cls := some .st, mem := true }
    (fun c st =>
      match st.fullReleaseWait c 2 3 with
      | some st => st
      | none =>
        let m := match c.chan? r.b.toNat with | some d => messageRegs d c.part.width | none => 0
        let key := instKey (c.launch.rel c.ref.core) r.b.toNat
        let (st, o) := st.newOp c .st (.chsend key (messageOf c r.a m)) 4 0 3 0 [] st.dcc
        let st := st.updOp o.id (fun o => { o with parked := true })
        let st := (st.done c 4).grantCredits c.wave.launch key 1
        st.parkPart c.ref (.on (.served o.id)))

/-- A part's oldest parked receive takes a message: the part goes on, the bytes come back a slice latency after issue at the
earliest, a credit goes back (R205). -/
def State.receive (s : State) (o : MemOp) (key w base : Nat) : State :=
  match s.launch? o.launch with
  | none => s
  | some v =>
    let i := v.inst key (v.decl key).slots
    match i.msgs with
    | (t, bytes) :: rest =>
      if s.dcc < t then s
      else
        let a : Access := { newAccess base 0 w 0 0 bytes [] with phase := .done, due := max s.dcc o.arrival }
        let s := s.updLaunch o.launch (fun v =>
          v.setInst key { i with msgs := rest, returning := i.returning ++ [s.dcc + v.chanPath key] })
        let s := s.updOp o.id (fun o => { o with accs := [a], parked := false, acted := true })
        (s.acquireL1 o.core 3).regionBehind o
    | [] => s

/-- `chrecv` (R417): it parks until its request has taken a message. -/
def execChrecv (r : RWord) : State → Out :=
  issue
    { s := r.s, len := 4, pre := channelPre r, regs := channelVop r r.d, cls := some .ld, mem := true }
    (fun c st =>
      match c.chan? r.b.toNat with
      | none => st.precise c tcIllegal 0 (wordAddr c 0)
      | some d =>
        let m := messageRegs d c.part.width
        let key := instKey (c.launch.peer (c.launch.rel c.ref.core) (-d.dx) (-d.dy)) r.b.toNat
        let (st, o) := st.newOp c .ld (.chrecv key c.part.depth (regNumber c.wb r.d.toNat) m c.emask) 4 1 3 c.part.width [] st.dcc
        let st := st.updOp o.id (fun o => { o with parked := true, arrival := st.dcc + 88 })
        (st.done c 4).parkPart c.ref (.on (.served o.id)))

/-- CHANNEL_MESSAGE_ARRIVAL (R205): the message stands in its slot; the `chsend` has performed. -/
def execChannelMessageArrival (op : Nat) (s : State) : Out :=
  match s.op? op with
  | none => .next s
  | some o =>
    match o.kind with
    | .chsend key msg =>
      if !o.acted ∨ !o.parked ∨ s.dcc < o.arrival then .next s
      else
        let s := s.updLaunch o.launch (fun v =>
          let i := v.inst key (v.decl key).slots
          v.setInst key { i with msgs := i.msgs ++ [(s.dcc, msg)] })
        .next ((s.updOp op (fun o => { o with parked := false })).regionBehind o)
    | _ => .next s

/-- CHANNEL_CREDIT_RETURN (R205). -/
def execChannelCreditReturn (l inst : Nat) (s : State) : Out :=
  match s.launch? l with
  | none => .next s
  | some v =>
    let i := v.inst inst (v.decl inst).slots
    match i.returning with
    | t :: rest =>
      if s.dcc < t then .next s
      else .next ((s.updLaunch l (fun v => v.setInst inst { i with credits := i.credits + 1, returning := rest })).grantCredits l inst 1)
    | [] => .next s

/-- A parked receive is the oldest of its instance, and a message stands ready (R205). -/
def State.receiveDue (s : State) (o : MemOp) : Bool :=
  match o.kind with
  | .chrecv key _ _ _ _ =>
    o.parked &&
    (match s.launch? o.launch with
      | none => false
      | some v => match (v.inst key (v.decl key).slots).msgs with | (t, _) :: _ => decide (t ≤ s.dcc) | [] => false) &&
    !(s.ops.any (fun e =>
      match e.kind with
      | .chrecv k _ _ _ _ => decide (e.id < o.id) && e.launch == o.launch && k == key && e.parked
      | _ => false))
  | _ => false

/-- The base lane of the part that issued a receive: the lowest part that holds it. -/
def State.opBase (s : State) (o : MemOp) : Nat :=
  match s.opWave o with
  | none => 0
  | some w => match w.parts.find? (fun p => p.holdsOp o.id) with | some p => p.base | none => 0

/-- SLICE_REQUEST (R199): what an operation asks of its slice: its accesses, in arrival order, or a channel's message. -/
def execSliceRequest (op : Nat) (s : State) : Out :=
  match s.op? op with
  | none => .next s
  | some o =>
    match o.kind with
    | .chrecv key _ _ _ _ => if s.receiveDue o then .next (s.receive o key o.sub (s.opBase o)) else .next s
    | _ => .next (s.performOp op)

end Sys2Proof.Machine
end

