-- ==== Sys2Proof/Machine/Admit.lean ====
section
/-! DEFINITION. Admission of groups to cores (02 R31-R34, 11 R260-R262), channel reservations (08 R204), and the room
that placement asks for. -/

namespace Sys2Proof.Machine

/-! ### Waves (R33) -/

/-- Wave slots of a core's resident waves. -/
def State.waveSlots (s : State) (core : Nat) : List Nat := (s.waves.filter (fun e => e.2.core == core)).map (fun e => e.2.slot)
/-- Wave slots of a core that are not free: a group owns its waves' slots until the cycle after its last wave exits (R31). -/
def State.usedSlots (s : State) (core : Nat) : List Nat :=
  (s.waveSlots core ++ (s.groups.filter (fun e => e.2.core == core)).flatMap (fun e => e.2.slots)
    ++ (s.core core).late.flatMap (fun g => g.slots)).eraseDups

/-- Partitions with a free wave slot, fewest resident waves first. -/
def partitionOrder (resident used : List Nat) : List Nat :=
  let n := fun (l : List Nat) (p : Nat) => (l.filter (fun i => i / 32 == p)).length
  sortBy (fun a b => decide (n resident a < n resident b) || (n resident a == n resident b && decide (a ≤ b)))
    ((List.range 4).filter (fun p => decide (n used p < 32)))

/-- The block of a partition for a wave that needs some registers in each of its quads: its first quad, by the largest
smallest free count; lowest on a tie. The banks that pending claims name take no new wave (R38). -/
def bestBlock (k : Core) (claimed : List Nat) (p : Nat) (needs : List Nat) : Option Nat :=
  let q := needs.length
  let free := fun (b j : Nat) => if claimed.contains (p * 16 + b + j) then 0 else poolOf k (p * 16 + b + j)
  let cands := ((List.range (16 / q)).map (fun i => i * q)).filter (fun b =>
    needs.zipIdx.all (fun e => decide (e.1 ≤ free b e.2)))
  (cands.foldl (fun best b =>
    let c := (b, ((List.range q).map (free b)).foldl min 1024)
    match best with
    | none => some c
    | some m => if m.2 < c.2 then some c else some m) none).map Prod.fst

/-- Where a wave goes: partition, quad and slot, with the core's pool after it. -/
def placeWave (k : Core) (claimed resident used : List Nat) (needs : List Nat) : Option (Core × Nat × Nat × Nat) :=
  (partitionOrder resident used).findSome? (fun p =>
    (bestBlock k claimed p needs).map (fun b =>
      let slot := ((List.range 32).map (fun i => p * 32 + i)).find? (fun i => !used.contains i)
      (needs.zipIdx.foldl (fun k e => debitBanks k [p * 16 + b + e.2] e.1) k, p, b, slot.getD (p * 32))))

/-- Places waves of given needs in turn. -/
def placeWaves (k : Core) (claimed resident used : List Nat) : List (List Nat) → Option (Core × List (Nat × Nat × Nat))
  | [] => some (k, [])
  | w :: r =>
    match placeWave k claimed resident used w with
    | none => none
    | some (k', p, b, slot) => (placeWaves k' claimed (slot :: resident) (slot :: used) r).map (fun x => (x.1, (p, b, slot) :: x.2))

/-- Banks of a core that pending claims name. -/
def State.claimedBanks (s : State) (core : Nat) : List Nat := (s.claims core).flatMap (fun q => q.banks)

/-- The lowest free run of accumulator tiles (R31). -/
def State.tileRun (s : State) (core n : Nat) : Option Nat :=
  if n = 0 then some 0
  else firstRun (fun t => s.groups.all (fun e => !(e.2.core == core && decide (e.2.t0 ≤ t) && decide (t < e.2.t0 + e.2.nacc)))
    && (s.core core).late.all (fun g => !(decide (g.t0 ≤ t) && decide (t < g.t0 + g.nacc)))) n 16

/-! ### Channel reservations (08 R204) -/

/-- Bytes that a launch's instances on a core take in a slice. -/
def Launch.chanNeed (l : Launch) (core slice : Nat) : Nat :=
  (l.channels.map (fun d =>
    if homeSlice (l.coreAt (l.peer (l.rel core) d.dx d.dy)) = slice then d.slots * d.bytes else 0)).sum
/-- Bytes reserved in a slice's channel store. -/
def State.chanStore (s : State) (slice : Nat) : Nat :=
  (s.launches.map (fun e => (e.2.chanCores.map (fun c => e.2.chanNeed c slice)).sum)).sum
/-- The reservations of a core fit, or are made already. -/
def State.chanRoom (s : State) (l : Launch) (core : Nat) : Bool :=
  l.chanCores.contains core ||
  (l.channels.map (fun d => homeSlice (l.coreAt (l.peer (l.rel core) d.dx d.dy)))).all (fun sl =>
    decide (s.chanStore sl + l.chanNeed core sl ≤ 262144))

/-! ### Groups -/

/-- What a group to be admitted needs and is. -/
structure GroupReq where
  kernel : Kernel
  kind : GroupKind
  cls : Nat
  entry : W64
  /-- s1 to s5 -/
  args : List W64
  width : Nat
  nwaves : Nat
  pixel : Option PixelWave
  /-- lanes that are helpers and lanes that have exited from the start (14 R325, R328) -/
  helper : Lanes
  exited : Lanes
  /-- register values at admission: lane, register, value (14 R326) -/
  vregs : List (Nat × Nat × W32)

/-- A group of a launch's kernel (R31, R32). -/
def groupReq (l : Launch) : GroupReq :=
  { kernel := l.kernel, kind := if l.draw.isSome then .mesh else .ordinary, cls := 0, entry := l.kernel.entry, args := [l.arg]
    width := l.kernel.waveWidth, nwaves := l.kernel.waves, pixel := none, helper := 0, exited := 0, vregs := [] }
/-- A task's group (R40, R42): the resources of its class's header, its own entry and arguments. -/
def taskReq (l : Launch) (t : Task) : GroupReq :=
  let k := getT l.kernel l.classes t.cls
  { kernel := k, kind := .task t.join, cls := t.cls, entry := t.entry, args := t.arg :: t.user, width := k.waveWidth, nwaves := k.waves
    pixel := none, helper := 0, exited := 0, vregs := [] }

/-- A group of the launch's NGROUPS, which the distributor offers. -/
def GroupKind.offered : GroupKind → Bool
  | .task _ => false
  | .pixel => false
  | _ => true
/-- The number of the launch's next group: offered groups from 0, in order of their admission (R261); task and pixel groups from
NGROUPS on, in theirs (DESIGN CHOICE, notes/assumptions/58.md). -/
def Launch.groupNumber (l : Launch) (k : GroupKind) : Nat := if k.offered then l.admitted else l.ngroups + l.numbered

/-- One admitted wave. -/
def State.newWave (s : State) (l : Launch) (lid core gid : Nat) (q : GroupReq) (widx : Nat) (at_ : Nat × Nat × Nat) (id : Nat) : Wave :=
  let sregs := (0, l.param) :: (q.args.zipIdx.map (fun e => (e.2 + 1, e.1)))
  let w : Wave :=
    { core := core, slot := at_.2.2, partition := at_.1, quad0 := at_.2.1, width := q.width, widx := widx, group := gid, launch := lid
      admission := id, allot := q.kernel.allot, timeout := l.ptimeout, timeoutBy := none, pend := false, cm := q.kernel.cm, exited := q.exited, helper := q.helper
      off := 0, preds := [], vregs := [], rays := [], raysAtRegion := [], tcopies := 0
      parts := [newPart q.width q.entry (admissionRegs l q.kernel (s.domainGt l.domain.toNat) sregs) s.dcc 16]
      latent := [], mprims := [], pixel := q.pixel, divided := false, dirty := [], saved := false, haltedFor := 0 }
  { (w.setVs 0 q.vregs) with dirty := [] }

/-- Admits a group to a core, when it fits (R31, R33): its scratch and tiles are cleared, its waves take their banks, and the
core's channel reservations are made. -/
def State.startGroup (s : State) (lid core : Nat) (q : GroupReq) : Option State :=
  match s.launch? lid with
  | none => none
  | some l =>
    match s.scratchRun core q.kernel.scr, s.tileRun core q.kernel.nacc,
        placeWaves (s.core core) (s.claimedBanks core) (s.waveSlots core) (s.usedSlots core) (List.replicate q.nwaves (List.replicate (q.width / 4) q.kernel.allot)) with
    | some scr, some t0, some (k, ws) =>
      if !s.chanRoom l core then none
      else
        let gid := s.nextId
        let g : Group :=
          { launch := lid, num := l.groupNumber q.kind, core := core, kind := q.kind, cls := q.cls, scrBase := scr, scr := q.kernel.scr, t0 := t0
            nacc := q.kernel.nacc, nbar := q.kernel.nbar, nwaves := q.nwaves, slots := ws.map (fun w => w.2.2), barriers := []
            engineTiles := [], coop := 0, mesh := l.admitted, verts := [], tris := [], dirtyLines := [] }
        let waves := ws.zipIdx.map (fun w =>
          (core * 128 + w.1.2.2, s.newWave l lid core gid q w.2 w.1 (gid + 1 + w.2)))
        let s := s.setCore core k
        let s :=
          { s with
            nextId := gid + 1 + q.nwaves
            groups := putT s.groups gid g
            waves := waves.foldl (fun t (e : Nat × Wave) => putT t e.1 e.2) s.waves
            scratch := clearRange s.scratch (scratchKey core (scr * 8192)) (scratchKey core ((scr + q.kernel.scr) * 8192))
            acc := clearRange s.acc (accKey core t0 0) (accKey core (t0 + q.kernel.nacc) 0) }
        some (s.updLaunch lid (fun l =>
          { l with numbered := if q.kind.offered then l.numbered else l.numbered + 1, chanCores := if l.chanCores.contains core then l.chanCores else core :: l.chanCores }))
    | _, _, _ => none

/-- A core's place in its launch's rectangle order (R261). -/
def Launch.place (l : Launch) (core : Nat) : Nat := (coreY core - l.y0) * 2 ^ l.logw + (coreX core - l.x0)
def Launch.size (l : Launch) : Nat := 2 ^ l.logw * 2 ^ l.logh

/-- Admits the next group of a launch's NGROUPS to a core; the next offer goes to the core behind it. -/
def State.admitNext (s : State) (lid core : Nat) : Option State :=
  match s.launch? lid with
  | none => none
  | some l =>
    if l.ngroups ≤ l.admitted then none
    else (s.startGroup lid core (groupReq l)).map (fun s => s.updLaunch lid (fun l =>
      { l with admitted := l.admitted + 1, offerAt := (l.place core + 1) % l.size }))

/-- Core `i` of a launch's rectangle, in rectangle order (R261). -/
def Launch.rectCore (l : Launch) (i : Nat) : Nat := coreId (l.x0 + i % 2 ^ l.logw) (l.y0 + i / 2 ^ l.logw)
def Launch.cores (l : Launch) : List Nat := (List.range l.size).map l.rectCore

/-- Admits every remaining group of a launch at once, cyclically over those of its cores that may take one (R261, R262); none when they
do not fit. `misses` counts the cores that refused in a row. -/
def State.admitAll (s : State) (lid : Nat) (may : Nat → Bool) : Nat → Nat → Option State
  | 0, _ => none
  | fuel + 1, misses =>
    match s.launch? lid with
    | none => none
    | some l =>
      if l.ngroups ≤ l.admitted then some s
      else if l.size ≤ misses then none
      else
        match if may (l.rectCore l.offerAt) then s.admitNext lid (l.rectCore l.offerAt) else none with
        | some s' => s'.admitAll lid may fuel 0
        | none => (s.updLaunch lid (fun l => { l with offerAt := (l.offerAt + 1) % l.size })).admitAll lid may fuel (misses + 1)

/-- Bound of the offers that a co-resident admission makes: at most 128 waves, and as many refusals, for each core. -/
def corFuel (l : Launch) : Nat := min l.ngroups (128 * l.size) * (l.size + 1) + l.size + 2

/-- A launch placed at an origin of its shape. -/
def Launch.atOrigin (l : Launch) (x0 y0 : Nat) : Launch := { l with x0 := x0, y0 := y0, offerAt := 0 }
def State.withOrigin (s : State) (lid x0 y0 : Nat) : State := s.updLaunch lid (fun l => l.atOrigin x0 y0)

/-- Admits what fits of the rest of a launch's groups, in the order of its offers. -/
def State.admitMost (s : State) (lid : Nat) : Nat → Nat → State
  | 0, _ => s
  | fuel + 1, misses =>
    match s.launch? lid with
    | none => s
    | some l =>
      if l.ngroups ≤ l.admitted ∨ l.size ≤ misses then s
      else
        match s.admitNext lid (l.rectCore l.offerAt) with
        | some s' => s'.admitMost lid fuel 0
        | none => (s.updLaunch lid (fun l => { l with offerAt := (l.offerAt + 1) % l.size })).admitMost lid fuel (misses + 1)

/-- Dispatch of a launch's groups reaches a core this long after placement: the scheduler is on die 0 (R268, notes/assumptions/23.md). -/
def dispatchDelay (core : Nat) : Nat := if dieOf core = 0 then 24 else 40
/-- The cycle from which a launch's groups are offered to a core. -/
def Launch.readyAt (l : Launch) (core : Nat) : Nat := l.ready + dispatchDelay core

/-- The groups already offered: those of placed launches whose dispatch has not reached their cores (R260, R268). -/
def State.withOffers (s : State) (lid : Nat) : State :=
  (s.launches.filter (fun e => e.1 != lid && e.2.at_ == .placed && e.2.cores.any (fun c => decide (s.dcc < e.2.readyAt c)))).foldl
    (fun s e => s.admitMost e.1 (corFuel e.2) 0) s

/-- Every core of the rectangle has room for the launch, beside the groups resident and offered (R260). The channel reservations of a
launch without COR are asked for core by core, as its admissions make them (DEDUCED, notes/assumptions/58.md). -/
def State.hasRoom (s : State) (lid : Nat) : Bool :=
  match s.launch? lid with
  | none => false
  | some l =>
    let s := s.withOffers lid
    if l.cor then (s.admitAll lid (fun _ => true) (corFuel l) 0).isSome
    else l.cores.all (fun c => (s.startGroup lid c (groupReq l)).isSome)

end Sys2Proof.Machine
end

