-- ==== Sys2Proof/Machine/Tasks.lean ====
section
/-! DEFINITION. Forked tasks: `fork` and the deques (02 R40-R44, 20 R435), task ends (R45), and `join` (R46, 20 R443). -/

namespace Sys2Proof.Machine

/-! ### Deques (R41-R44) -/

def Launch.deque (l : Launch) (core : Nat) : Deque := getT { near := [], far := [] } l.deques (l.rel core)
def Launch.setDeque (l : Launch) (core : Nat) (d : Deque) : Launch := { l with deques := setT { near := [], far := [] } l.deques (l.rel core) d }
def Deque.empty (d : Deque) : Bool := d.near == [] && d.far == []
/-- The core holds 8 entries and the home slice 64. -/
def Deque.room (d : Deque) : Bool := decide (d.near.length < 8) || decide (d.far.length < 64)
/-- A push at the near end; the oldest of 8 moves to the slice. -/
def Deque.push (d : Deque) (t : Task) : Deque :=
  if d.near.length < 8 then { d with near := t :: d.near }
  else { near := t :: d.near.take 7, far := d.far ++ d.near.drop 7 }
/-- The owner's pop: the newest entry. -/
def Deque.pop (d : Deque) : Option (Task × Deque) :=
  match d.near with
  | t :: r => some (t, { d with near := r })
  | [] => d.far.getLast?.map (fun t => (t, { d with far := d.far.dropLast }))
/-- A steal: the oldest entry. -/
def Deque.steal (d : Deque) : Option (Task × Deque) :=
  match d.far with
  | t :: r => some (t, { d with far := r })
  | [] => d.near.getLast?.map (fun t => (t, { d with near := d.near.dropLast }))

/-- Parts of a launch parked in `fork` on a core, each with whether it has been given room. -/
def State.forkParts (s : State) (lid core : Nat) : List (PartRef × Bool) :=
  s.waves.flatMap (fun e =>
    if e.2.launch = lid ∧ e.2.core = core then
      e.2.parts.filterMap (fun p =>
        match p.park with
        | .fork _ t => some ({ core := core, slot := e.2.slot, base := p.base }, t.isSome)
        | _ => none)
    else [])

/-- An entry has left a core's deque: one fork parked there is given its room, and pushes from cycle `t` on (R41). Of several it is the
one of the lowest wave slot and lane base (DESIGN CHOICE, notes/assumptions/55.md: the rule gives no order). -/
def State.departed (s : State) (lid core t : Nat) : State :=
  let ws := (s.forkParts lid core).filter (fun e => !e.2)
  match (sortBy (fun a b => decide (a.1.slot < b.1.slot) || (a.1.slot == b.1.slot && decide (a.1.base ≤ b.1.base))) ws).head? with
  | none => s
  | some (r, _) => s.updPart r (fun p =>
      match p.park with
      | .fork d _ => { p with park := .fork d (some t) }
      | _ => p)

/-- A fork that arrives finds room in the deque: more than parked forks have been given (R41). -/
def State.forkRoom (s : State) (lid core : Nat) (d : Deque) : Bool :=
  decide (d.near.length + d.far.length + ((s.forkParts lid core).filter (fun e => e.2)).length < 72)

/-! ### `fork` -/

/-- The descriptor in s(N) to s(N + 7) (R40). -/
def taskOf (c : Ctx) (n : Nat) : Task :=
  { entry := c.sreg n, arg := c.sreg (n + 1), join := c.sreg (n + 2), cls := (c.sreg (n + 3)).toNat % 256
    user := [c.sreg (n + 4), c.sreg (n + 5), c.sreg (n + 6), c.sreg (n + 7)] }

/-- ILLEGAL of a descriptor: the first register that holds a failing byte (R41, 12 R517). -/
def badTask (c : Ctx) (n : Nat) : Option Nat :=
  let t := taskOf c n
  if t.entry.toNat % 4 ≠ 0 then some n
  else if t.join.toNat % 8 ≠ 0 then some (n + 2)
  else if 256 ≤ (c.sreg (n + 3)).toNat ∨ (lookT c.launch.classes t.cls).isNone ∨ (t.cls = 7 ∧ c.launch.draw.isSome) then some (n + 3)
  else none

/-- The push takes effect, a region begins, and the part goes on (R435, 12 R281). -/
def State.pushTask (s : State) (c : Ctx) (t : Task) : State :=
  let s := s.updLaunch c.wave.launch (fun l => l.setDeque c.ref.core ((l.deque c.ref.core).push t))
  (s.beginRegion c.ref (c.next 4) true).done c 4

/-- What a translation that must wait or fail makes of an instruction: a page that is not present parks it on its
ticket, any other failure is ACCESS (08 R189, R190). -/
def State.heldOr (s : State) (c : Ctx) (kind : Nat) (need : Need) (va : Nat) (ok : Nat → State → State) : State :=
  let pins := s.lookPins c.ref.core false c.part.regs.asid va
  if pins ≠ [] then (s.refuseAll pins).parkOn c (.time (s.dcc + 1))
  else
  match s.translate c.ref.core false c.part.regs.asid va with
  | (s, .leaf pte p) =>
    let pa := paOf pte p va
    match s.leafFault need pte pa with
    | some d => s.precise c tcAccess d (BitVec.ofNat 64 va)
    | none => ok pa s
  | (s, .nonPresent x) =>
    match s.postFault c.ref.core c.part.regs.asid va x kind c.ref.slot with
    | (s, some (die, t)) => s.parkOn c (.ticket die t va)
    | (s, none) => s.parkOn c (.time (s.dcc + 1))
  | (s, .malformed) => s.precise c tcAccess 3 (BitVec.ofNat 64 va)

/-- `fork` (R41, R435). -/
def execFork (u : UWord) : State → Out :=
  issue { s := u.s, len := 4, pre := fun c _ => gateBan c } (fun c st =>
    let n := u.a.toNat
    match badTask c n with
    | some r => st.precise c tcIllegal 0 (BitVec.ofNat 64 r)
    | none =>
      let t := taskOf c n
      if 2 ^ 57 ≤ t.entry.toNat then st.precise c tcAccess 5 t.entry
      else
        st.heldOr c 4 .fetch t.entry.toNat (fun _ st =>
          match st.fullReleaseWait c 2 3 with
          | some st => st
          | none =>
            if st.forkRoom c.wave.launch c.ref.core (c.launch.deque c.ref.core) then st.pushTask c t else st.parkPart c.ref (.fork t none)))

/-- A parked fork may push now. -/
def State.forkDue (s : State) (c : Ctx) : Option Task :=
  match c.part.park with
  | .fork t (some e) => if e ≤ s.dcc ∧ (c.launch.deque c.ref.core).room then some t else none
  | _ => none

/-- FORK_PUSH. -/
def execForkPush (p : PartRef) (s : State) : Out :=
  match s.ctx? p with
  | none => .next s
  | some c =>
    match s.forkDue c with
    | some t => .next (s.pushTask c t)
    | none => .next s

/-! ### Starting tasks (R42, R43) -/

/-- The launch runs on its cores: placed and not being saved (11 R271). -/
def Launch.running (l : Launch) : Bool := l.at_ == .placed
def Launch.holds (l : Launch) (core : Nat) : Bool :=
  decide (l.x0 ≤ coreX core) && decide (coreX core < l.x0 + 2 ^ l.logw) && decide (l.y0 ≤ coreY core) && decide (coreY core < l.y0 + 2 ^ l.logh)

/-- A launch is being saved on a core: the core admits nothing (R271). -/
def State.savingOn (s : State) (core : Nat) : Bool :=
  s.launches.any (fun e => (match e.2.at_ with | .saving _ => true | _ => false) && e.2.holds core)

/-- The owner's pop starts a group, when its resources fit. -/
def State.ownTask (s : State) (lid core : Nat) : Option State :=
  match s.launch? lid with
  | none => none
  | some l =>
    if !l.running ∨ !l.holds core ∨ s.savingOn core then none
    else
      match (l.deque core).pop with
      | none => none
      | some (t, d) =>
        (s.startGroup lid core (taskReq l t)).map (fun s =>
          (s.updLaunch lid (fun l => l.setDeque core d)).departed lid core (s.dcc + 1))

/-- TASK_START. -/
def execTaskStart (l core : Nat) (s : State) : Out := .next ((s.ownTask l core).getD s)

/-- Cores of the aligned 2^k × 2^k block around a core that lie in the launch, in increasing id. -/
def Launch.blockAround (l : Launch) (core k : Nat) : List Nat :=
  let n := 2 ^ k
  (List.range 128).filter (fun c => coreX c / n == coreX core / n && coreY c / n == coreY core / n && l.holds c && c != core)
/-- Victims in the order of R43. -/
def Launch.victims (l : Launch) (core : Nat) : List Nat :=
  let x := coreX core
  let y := coreY core
  let near := (if x < 15 then [coreId (x + 1) y] else []) ++ (if 0 < y then [coreId x (y - 1)] else [])
    ++ (if 0 < x then [coreId (x - 1) y] else []) ++ (if y < 7 then [coreId x (y + 1)] else [])
  let near := near.filter l.holds
  [1, 2, 3, 4].foldl (fun acc k => acc ++ (l.blockAround core k).filter (fun c => !acc.contains c)) near

/-- No group of the core is able to issue: every part is parked. -/
def State.coreStalled (s : State) (core : Nat) : Bool :=
  s.waves.all (fun e => e.2.core != core || e.2.parts.all (fun p => p.park != .running))

/-- The core wants a task of the launch's other deques: it has nothing of its own to run. -/
def State.wantsTask (s : State) (lid core : Nat) : Bool :=
  match s.launch? lid with
  | none => false
  | some l => l.running && l.holds core && !s.savingOn core && l.classes != [] && (l.deque core).empty && s.coreStalled core
/-- The cycle in which the requests of the core's steal round left, while one is under way. -/
def State.roundSince (s : State) (lid core : Nat) : Option Nat := (s.launch? lid).bind (fun l => lookT l.stealing (l.rel core))
def Launch.setRound (l : Launch) (core : Nat) (t : Option Nat) : Launch :=
  { l with stealing := match t with | some t => putT l.stealing (l.rel core) t | none => delT l.stealing (l.rel core) }
/-- The core may start a steal round for the launch. -/
def State.stealDue (s : State) (lid core : Nat) : Bool :=
  s.wantsTask lid core && decide ((s.core core).stealAt ≤ s.dcc) && (s.roundSince lid core).isNone

/-- The request of a round that began at `since` has reached the home slice of a victim's deque, which is on the victim's die, and
its answer is back (01 R15, R18, R27). -/
def stealBack (now since core v : Nat) : Bool := decide (since + sliceLatency (dieOf core) (dieOf v) ≤ now)
/-- A steal from the first victim whose oldest entry the core has room for, among those up to the first whose answer is not back
(R43). The requests of a round leave together, and the descriptor moves as its group starts (DESIGN CHOICE,
notes/assumptions/54.md: R43 gives no figure). -/
def State.stealFrom (s : State) (lid core since : Nat) : Option State :=
  match s.launch? lid with
  | none => none
  | some l =>
    ((l.victims core).takeWhile (stealBack s.dcc since core)).findSome? (fun v =>
      (l.deque v).steal.bind (fun e =>
        (s.startGroup lid core (taskReq l e.1)).map (fun s =>
          (s.updLaunch lid (fun l => l.setDeque v e.2)).departed lid v (s.dcc + 88))))

/-- Every victim of a round has answered. -/
def State.roundOver (s : State) (lid core since : Nat) : Bool :=
  match s.launch? lid with
  | none => true
  | some l => (l.victims core).all (stealBack s.dcc since core)

/-- A step of a steal round is due: it begins, is given up, finds a task, or ends. -/
def State.stealTurn (s : State) (lid core : Nat) : Bool :=
  match s.roundSince lid core with
  | none => s.stealDue lid core
  | some t => !s.wantsTask lid core || (s.stealFrom lid core t).isSome || s.roundOver lid core t

/-- TASK_STEAL: a round begins, or a task that it finds starts; a round that finds nothing is repeated no earlier than 256 cycles
later. -/
def execTaskSteal (lid core : Nat) (s : State) : Out :=
  match s.roundSince lid core with
  | none => .next (if s.stealDue lid core then s.updLaunch lid (fun l => l.setRound core (some s.dcc)) else s)
  | some t =>
    let ended := s.updLaunch lid (fun l => l.setRound core none)
    if !s.wantsTask lid core then .next ended
    else
      match s.stealFrom lid core t with
      | some s' => .next (s'.updLaunch lid (fun l => l.setRound core none))
      | none => .next (if s.roundOver lid core t then ended.updCore core (fun k => { k with stealAt := s.dcc + 256 }) else s)

/-! ### Task ends (R45) -/

/-- Every store and reduction of the group has performed. -/
def State.groupDrained (s : State) (g : Nat) : Bool := s.ops.all (fun o => o.group != g || o.cls == .ld || !(o.accs.any Access.isOpen))

/-- What the decrement of an ended task does next. -/
inductive DecAt where
  | wait
  /-- the dev-scope release sends the core's dirty sectors back -/
  | release
  /-- the request leaves for the counter's slice -/
  | send (pa : Nat)
  /-- pinned lines refuse it: of its counter, or of the tables that it walks -/
  | pinned (pas : List Nat)
  | flush (pa : Nat)
  | go (pa : Nat)
  | post (ext : Nat)
  | drop
  deriving DecidableEq, Repr

/-- The decrement at its place: refused there, behind the core's own sectors of the line, or performing. -/
def State.decSent (s : State) (e : JoinDec) (pa : Nat) : DecAt :=
  match e.arrival with
  | none => .send pa
  | some t =>
    if s.dcc < t then .wait
    else if s.pinned (some e.core) pa then .pinned [pa]
    else if s.backBusy e.core (pa / 128) then .wait
    else if s.lineBusy e.core (pa / 128) then .flush pa
    else .go pa

/-- Where a decrement stands: after every store of the group it releases at dev scope, and then goes to the counter's home (R45). -/
def State.decAt (s : State) (e : JoinDec) : DecAt :=
  let va := e.addr.toNat
  if !s.groupDrained e.group then .wait
  else
    match e.relAt with
    | none => .release
    | some n =>
      if !s.backsDone e.core n then .wait
      else if 2 ^ 57 ≤ va then .drop
      else if s.walkPins (dieOf e.core) e.asid va ≠ [] then .pinned (s.walkPins (dieOf e.core) e.asid va)
      else
        match s.walk (dieOf e.core) e.asid va with
        | .leaf pte p => if (s.leafFault .write pte (paOf pte p va)).isSome then .drop else s.decSent e (paOf pte p va)
        | .nonPresent x => if (s.recordFor e.core e.asid va).isNone ∧ s.mayPost e.core e.asid va then .post x else .wait
        | .malformed => .drop

/-- Changes the decrement of a group. -/
def State.updDec (s : State) (g : Nat) (f : JoinDec → JoinDec) : State :=
  { s with joinDecs := s.joinDecs.map (fun (e : JoinDec) => if e.group = g then f e else e) }

/-- TASK_JOIN_DECREMENT: after a dev-scope release the counter's slice subtracts 1. -/
def execTaskJoinDecrement (g : Nat) (s : State) : Out :=
  match s.joinDecs.find? (fun e => e.group == g) with
  | none => .next s
  | some e =>
    match s.decAt e with
    | .wait => .next s
    | .release =>
      let s := s.releaseL1 e.core 5
      .next (s.updDec g (fun e => { e with relAt := some s.nextId }))
    | .send pa => .next (s.updDec g (fun e => { e with arrival := some (s.dcc + slicePath e.core pa) }))
    | .pinned pas => .next (s.refuseAll pas)
    | .flush pa => .next (s.sendBack e.core (pa / 128))
    | .drop => .next { s with joinDecs := s.joinDecs.erase e }
    | .post x => .next (s.postFault e.core e.asid e.addr.toNat x 1 0).1
    | .go pa =>
      let old := natOfBytes (readBytes s.mem pa 8)
      let s := s.dropClean e.core (pa / 128) (sectorsOf pa 8)
      let s := (s.slicePut 0 e.core pa (bytesOfNat 8 ((old + 2 ^ 64 - 1) % 2 ^ 64))).useLine pa 0
      .next { s with joinDecs := s.joinDecs.erase e }

/-! ### `join` (R46, R443) -/

/-- A counter whose slice wakes the part: it lies in local HBM or CXL memory. -/
def wakesJoin (pa : Nat) : Bool := decide (paClass pa ≤ 1)

/-- Round trip of a join's read of its counter: the slice figure, and the link for peer and host pages (01 R27). -/
def joinPath (core pa : Nat) : Nat := slicePath core pa + (if wakesJoin pa then 0 else homeExtra pa)

/-- `join`. -/
def execJoin (u : UWord) : State → Out :=
  issue { s := u.s, len := 4, mem := true } (fun c st =>
    let a := c.sreg u.a.toNat
    if 2 ^ 57 ≤ a.toNat then st.precise c tcAccess 5 a
    else if a.toNat % 8 ≠ 0 then st.precise c tcAlign 0 a
    else st.heldOr c 0 .read a.toNat (fun pa st =>
      (st.sendBack c.ref.core (pa / 128)).parkPart c.ref (.join a.toNat pa (.reading (st.dcc + joinPath c.ref.core pa)))))

def State.setJoin (s : State) (c : Ctx) (addr pa : Nat) (j : JoinAt) : State :=
  s.updPart c.ref (fun p => { p with park := .join addr pa j })

/-- A read of the counter ends: at zero the part goes on after the dev-scope acquire. -/
def State.joinRead (s : State) (c : Ctx) (addr pa : Nat) : State :=
  if s.pinned (some c.ref.core) pa then (s.refuse pa).setJoin c addr pa (.reading (s.dcc + 1))
  else if s.lineBusy c.ref.core (pa / 128) then (s.sendBack c.ref.core (pa / 128)).setJoin c addr pa (.reading (s.dcc + 1))
  else
    let s := s.dropClean c.ref.core (pa / 128) (sectorsOf pa 8)
    let v := natOfBytes (readBytes s.mem pa 8)
    if v = 0 then (s.acquireL1 c.ref.core 5).done c 4
    else if wakesJoin pa then s.setJoin c addr pa (.waiting v)
    else s.setJoin c addr pa (.reread (s.dcc + 1024))

/-- What a parked join does next in this cycle, if anything; `local_` tells the events of local and of remote counters
apart. -/
def State.joinDue (s : State) (c : Ctx) (local_ : Bool) : Bool :=
  match c.part.park with
  | .join _ _ (.reading t) => local_ && decide (t ≤ s.dcc)
  | .join _ pa (.waiting v) => local_ && natOfBytes (readBytes s.mem pa 8) != v
  | .join _ pa (.reread t) => wakesJoin pa == local_ && decide (t ≤ s.dcc)
  | _ => false

/-- A step of a parked join. -/
def State.joinStep (s : State) (c : Ctx) : State :=
  match c.part.park with
  | .join addr pa (.reading _) => s.joinRead c addr pa
  | .join addr pa (.waiting _) => s.setJoin c addr pa (.reread (s.dcc + slicePath c.ref.core pa))
  | .join addr pa (.reread _) => s.setJoin c addr pa (.reading (s.dcc + joinPath c.ref.core pa))
  | _ => s

/-- JOIN_WAKE: a read of the counter ends, its slice reports a change, or the reread that a change calls for starts. -/
def execJoinWake (p : PartRef) (s : State) : Out :=
  match s.ctx? p with
  | none => .next s
  | some c => .next (if s.joinDue c true then s.joinStep c else s)

/-- JOIN_REREAD: a counter on a peer or host page is read again 1,024 cycles after the previous reply. -/
def execJoinReread (p : PartRef) (s : State) : Out :=
  match s.ctx? p with
  | none => .next s
  | some c => .next (if s.joinDue c false then s.joinStep c else s)

end Sys2Proof.Machine
end

