-- ==== Sys2Proof/Machine/Launches.lean ====
section
/-! DEFINITION. Validation of launches and draws (11 R255, R258; 14 R309-R311), their acceptance, placement, and completion
(R259-R263, R270, R272). -/

namespace Sys2Proof.Machine

/-! ### Reading as the scheduler (R253, R256) -/

/-- Bytes at a virtual address of an ASID; none when some byte does not translate with the need. -/
def State.schedBytes (s : State) (asid : BitVec 16) (need : Need) (va n : Nat) : Option (List Byte) :=
  (List.range n).foldr (fun i acc =>
    let a := va + i
    if 2 ^ 57 ≤ a then none
    else
      match acc, s.quietRead 0 asid need a 1 with
      | some bs, some b => some (b ++ bs)
      | _, _ => none) (some [])
/-- The physical address of an aligned word that the scheduler writes. -/
def State.schedPa (s : State) (asid : BitVec 16) (va : Nat) : Option Nat :=
  if 2 ^ 57 ≤ va then none
  else match s.walk 0 asid va with
    | .leaf pte p => if (s.leafFault .write pte (paOf pte p va)).isNone then some (paOf pte p va) else none
    | _ => none

/-- The physical address that the scheduler reads a virtual one at. -/
def State.schedPas (s : State) (asid : BitVec 16) (va : Nat) : List Nat :=
  match s.walk 0 asid va with
  | .leaf pte p => [paOf pte p va]
  | _ => []
/-- Table entries and lines, of those that the scheduler reads for some bytes, that a core has pinned: its read is sent again (09 R221). -/
def State.schedPins (s : State) (asid : BitVec 16) (va n : Nat) : List Nat :=
  (List.range ((va % 128 + n + 127) / 128)).flatMap (fun i =>
    let a := max va ((va / 128 + i) * 128)
    s.walkPins 0 asid a ++ s.pinnedIn none (s.schedPas asid a))

/-- The write-backs of a sys-scope release of a launch's writes: the dirty sectors of its cores go back (R263). -/
def State.releaseCores (s : State) (cores : List Nat) : State := cores.foldl (fun s c => s.releaseL1 c 6) s

/-! ### What a launch runs under -/

/-- Fields of a queue or a loaded graph that its launches take (R252, R264). -/
structure Origin where
  queue : Nat
  prio : Nat
  tenant : Nat
  asid : BitVec 16
  domain : BitVec 8
  privq : Bool
  qpass : W64
  draws : Nat

def State.queueOrigin (s : State) (n : Nat) : Origin :=
  let q := s.queue n
  { queue := n, prio := q.prio, tenant := q.tenant, asid := q.asid, domain := q.domain, privq := q.privq, qpass := q.qpass, draws := q.draws }

/-- Tenant of a core's cluster (R252). -/
def State.tenantOf (s : State) (core : Nat) : Nat := s.sched.tenmap.toNat / 4 ^ clusterOf core % 4

/-- Morton code of an origin (R260). -/
def morton (x y : Nat) : Nat :=
  ((List.range 4).map (fun i => x / 2 ^ i % 2 * 4 ^ i + 2 * (y / 2 ^ i % 2 * 4 ^ i))).sum
/-- Aligned origins of a shape in increasing Morton order. -/
def originsOf (logw logh : Nat) : List (Nat × Nat) :=
  sortBy (fun a b => decide (morton a.1 a.2 ≤ morton b.1 b.2))
    ((List.range (16 / 2 ^ logw)).flatMap (fun i => (List.range (8 / 2 ^ logh)).map (fun j => (i * 2 ^ logw, j * 2 ^ logh))))
/-- Cores of a rectangle. -/
def rectCores (x0 y0 logw logh : Nat) : List Nat :=
  (List.range (2 ^ logh)).flatMap (fun j => (List.range (2 ^ logw)).map (fun i => coreId (x0 + i) (y0 + j)))
def State.inTenant (s : State) (t : Nat) (cores : List Nat) : Bool := cores.all (fun c => s.tenantOf c == t)

/-! ### Draws (14 R309-R311) -/

/-- A pass descriptor's fields. -/
def passOf (addr : W64) (b : List Byte) : Pass :=
  let f := fieldAt b
  { addr := addr, tw := f 0 2, th := f 2 2, samp := f 4 1, nrt := f 5 1, dtest := f 6 1, dwrite := f 7 1 == 1
    owntab := BitVec.ofNat 64 (f 8 8), reshade := BitVec.ofNat 64 (f 16 8), resq := BitVec.ofNat 64 (f 24 8)
    depth := BitVec.ofNat 64 (f 32 8), dpitch := f 40 4
    rts := (List.range 8).map (fun i => (BitVec.ofNat 64 (f (64 + 16 * i) 8), f (72 + 16 * i) 4, f (76 + 16 * i) 1, f (77 + 16 * i) 1)) }
/-- A value of a pass descriptor is out of range (R310). -/
def badPass (b : List Byte) : Bool :=
  let f := fieldAt b
  let dim := fun (n : Nat) => n == 0 || decide (256 < n)
  dim (f 0 2) || dim (f 2 2) || decide (3 < f 4 1) || decide (8 < f 5 1) || decide (3 < f 6 1) || decide (1 < f 7 1) || f 40 4 % 16 != 0
    || f 44 4 != 0 || (f 32 8 == 0 && f 6 1 != 0)
    || (List.range 8).any (fun i =>
      f (72 + 16 * i) 4 % 16 != 0 || decide (2 < f (76 + 16 * i) 1) || decide (2 < f (77 + 16 * i) 1) || f (78 + 16 * i) 2 != 0)
/-- A value of a draw record is out of range (R311). -/
def badDraw (b : List Byte) : Bool :=
  let f := fieldAt b
  let dim := fun (n m : Nat) => n == 0 || decide (m < n)
  dim (f 0 2) 1024 || f 2 2 == 0 || decide (32 < f 4 1) || decide (2 < f 5 1) || f 6 2 != 0 || dim (f 12 2) 16384 || dim (f 14 2) 16384
    || (b.drop 16).any (fun x => x != 0)

/-- The die that owns a tile (R317). -/
def State.tileOwner (s : State) (asid : BitVec 16) (p : Pass) (tx ty : Nat) : Nat :=
  if p.owntab = 0 then tx % 2 + 2 * (ty % 2)
  else match s.quietRead 0 asid .read (p.owntab.toNat + (ty * p.tw + tx)) 1 with
    | some b => natOfBytes b % 4
    | none => tx % 2 + 2 * (ty % 2)
/-- Dies that own a tile of a pass. -/
def State.ownerDies (s : State) (asid : BitVec 16) (p : Pass) : List Nat :=
  ((List.range p.th).flatMap (fun ty => (List.range p.tw).map (fun tx => s.tileOwner asid p tx ty))).foldl addNew []

/-- The draw that a LAUNCH becomes under a pass: number, pass, record, pixel kernel; or the queue's error code. -/
def State.drawOf (s : State) (o : Origin) (g : Segment) (param pixIx ngroups : Nat) : Except Nat Draw :=
  let pa := o.qpass.toNat
  match s.schedBytes o.asid .readWrite pa 192, s.schedBytes o.asid .read param 64 with
  | some pb, some db =>
    if 2 ^ 24 ≤ o.draws then .error 1
    else if pixIx = 0xFFFF then .error 1
    else
      match s.kernel? g pixIx with
      | none => .error 3
      | some pk =>
        if pk.width = 4 ∨ 2 ^ 32 < ngroups * fieldAt db 2 2 then .error 1
        else if badPass pb ∨ badDraw db then .error 8
        else
          let f := fieldAt db
          .ok { num := o.draws, pass := passOf o.qpass pb, maxv := f 0 2, maxp := f 2 2, nattr := f 4 1, cull := f 5 1, vx := f 8 2, vy := f 10 2
                vw := f 12 2, vh := f 14 2, pixel := pk }
  | _, _ => .error 9

/-! ### Validation (R255, R258) -/

/-- Parts of a LAUNCH command. -/
def cmdShape (b : List Byte) : Nat × Nat := (fieldAt b 4 1 % 8, fieldAt b 4 1 / 8 % 4)
def cmdAny (b : List Byte) : Bool := fieldAt b 5 1 / 128 == 1
def cmdClasses (b : List Byte) : List (Nat × Nat) :=
  ((List.range 8).map (fun k => (k, fieldAt b (40 + 2 * k) 2))).filter (fun e => e.2 != 0xFFFF)

/-- Code 1: reserved bits and bytes, and NGROUPS 0. -/
def cmdMalformed (b : List Byte) : Bool :=
  fieldAt b 0 1 != 1 || decide (4 ≤ fieldAt b 1 1) || decide (32 ≤ fieldAt b 4 1) || (cmdAny b && fieldAt b 5 1 % 128 != 0)
    || fieldAt b 6 2 != 0 || fieldAt b 16 4 == 0
/-- Code 2: the shape, or a fixed origin that is not aligned to it. -/
def cmdBadShape (b : List Byte) : Bool :=
  let s := cmdShape b
  let o := fieldAt b 5 1
  decide (4 < s.1) || decide (3 < s.2) || (!cmdAny b && (o % 16 % 2 ^ s.1 != 0 || o / 16 % 8 % 2 ^ s.2 != 0))

/-- A launch of a command's fields, not yet accepted. -/
def freshLaunch (o : Origin) (b : List Byte) (k : Kernel) (classes : List (Nat × Kernel)) (d : Option Draw) : Launch :=
  let f := fieldAt b
  let sh := cmdShape b
  { id := 0, queue := o.queue, prio := o.prio, asid := o.asid, domain := o.domain, tenant := o.tenant, seq := 0, kernel := k
    classes := classes, logw := sh.1, logh := sh.2, any := cmdAny b, x0 := f 5 1 % 16, y0 := f 5 1 / 16 % 8, cor := f 1 1 % 2 == 1
    ngroups := f 16 4, ptimeout := if f 20 4 = 0 then 65536 else f 20 4, param := BitVec.ofNat 64 (f 24 8), arg := BitVec.ofNat 64 (f 32 8)
    trap := BitVec.ofNat 64 (f 56 8), at_ := .waiting, acceptedAt := 0, placeFrom := 0, waited := 0, due := false, protectedUntil := none, ready := 0
    admitted := 0, exitedGroups := 0, offerAt := 0, chanCores := [], deques := [], chans := [], rbars := [], node := none, draw := d
    image := none, pixels := [], coopFails := [], stealing := [], numbered := 0, relAt := none }

/-- Every group fits at once on an empty rectangle of the shape (code 6). -/
def State.fitsEmpty (s : State) (l : Launch) : Bool :=
  let s := { s with waves := [], groups := [], cores := [], launches := [(0, { l with x0 := 0, y0 := 0, admitted := 0, chanCores := [] })] }
  (s.admitAll 0 (fun _ => true) (corFuel l) 0).isSome

/-- The launch of a command, or the code that stops its queue. -/
def State.validate (s : State) (o : Origin) (b : List Byte) : Except Nat Launch :=
  let sh := cmdShape b
  let fixed := rectCores (fieldAt b 5 1 % 16) (fieldAt b 5 1 / 16 % 8) sh.1 sh.2
  if cmdMalformed b then .error 1
  else if cmdBadShape b ∨ (!cmdAny b ∧ !s.inTenant o.tenant fixed) then .error 2
  else
    match s.segment? o.asid (fieldAt b 8 8) with
    | none => .error 3
    | some g =>
      let ks := (cmdClasses b).map (fun e => (e.1, s.kernel? g e.2))
      match s.kernel? g (fieldAt b 2 2) with
      | none => .error 3
      | some k =>
        if ks.any (fun e => e.2.isNone) then .error 3
        else
          let gt := s.domainGt o.domain.toNat
          let used := fieldAt b 2 2 :: (cmdClasses b).map Prod.snd
          if used.any (fun i => (importsOf (s.segByte g) i).any (s.badImport o.asid gt)) then .error 4
          else if cmdAny b ∧ (originsOf sh.1 sh.2).all (fun e => !s.inTenant o.tenant (rectCores e.1 e.2 sh.1 sh.2)) then .error 5
          else
            let classes := ks.filterMap (fun e => e.2.map (fun k => (e.1, k)))
            let l := freshLaunch o b k classes none
            if l.cor ∧ !s.fitsEmpty l then .error 6
            else if g.privseg ∧ !o.privq then .error 7
            else if o.qpass = 0 then .ok l
            else
              match s.drawOf o g (fieldAt b 24 8) (fieldAt b 54 2) l.ngroups with
              | .error c => .error c
              | .ok d =>
                let dies := s.ownerDies o.asid d.pass
                let covers := fun (e : Nat × Nat) => dies.all (fun t => (rectCores e.1 e.2 sh.1 sh.2).any (fun c => dieOf c == t))
                let origins := if cmdAny b then (originsOf sh.1 sh.2).filter (fun e => s.inTenant o.tenant (rectCores e.1 e.2 sh.1 sh.2))
                  else [(fieldAt b 5 1 % 16, fieldAt b 5 1 / 16 % 8)]
                if origins.any covers then .ok { l with draw := some d } else .error 2

/-! ### Acceptance (R259) -/

/-- The next launch identifier from `n`, skipping those held; `fuel` bounds the skips. -/
def freeLaunchId (used : List Nat) : Nat → Nat → Nat
  | 0, n => n
  | fuel + 1, n => if used.contains n then freeLaunchId used fuel ((n + 1) % 65536) else n

/-- Accepts a launch after its decode stage; it may be placed 16 cycles later (R268). -/
def State.accept (s : State) (l : Launch) (decode : Nat) : State :=
  let used := (s.launches.filter (fun e => e.2.at_ != .completed)).map (fun e => e.2.id)
  let id := freeLaunchId used used.length s.sched.nextLaunch
  let key := s.sched.launchSeq
  let l := { l with id := id, seq := key, acceptedAt := s.dcc + decode, placeFrom := s.dcc + decode + 16 }
  { s with launches := putT s.launches key l
           sched := { s.sched with nextLaunch := (id + 1) % 65536, launchSeq := key + 1 } }

/-! ### Waiting launches (R270, R272) -/

/-- Accepted and not placed, or saved and not restored. -/
def Launch.waits (l : Launch) : Bool := l.at_ == .waiting || l.at_ == .saved
/-- Cycles it has waited. -/
def State.waitedOf (s : State) (l : Launch) : Nat := l.waited + (s.dcc - l.acceptedAt)
/-- QUANTUM as it acts (R252). -/
def State.quantum (s : State) : Nat := max 65536 s.sched.quantum.toNat

/-- A launch that the distributor has in hand: one past its stages, or a saved one. -/
def State.inHand (s : State) (l : Launch) : Bool := l.at_ == .saved || (l.at_ == .waiting && decide (l.placeFrom ≤ s.dcc))

/-- Waiting launches in the order in which the distributor visits them. -/
def State.waiting (s : State) : List (Nat × Launch) :=
  sortBy (fun a b =>
    if a.2.due ≠ b.2.due then a.2.due
    else if !a.2.due && a.2.prio != b.2.prio then decide (b.2.prio < a.2.prio)
    else decide (s.waitedOf b.2 ≤ s.waitedOf a.2)) (s.launches.filter (fun e => s.inHand e.2))

/-- The launch's rectangle at an origin: in its tenant, with every owner die of a draw, and no core being saved. -/
def State.originOk (s : State) (l : Launch) (e : Nat × Nat) : Bool :=
  let cs := rectCores e.1 e.2 l.logw l.logh
  s.inTenant l.tenant cs &&
  (match l.draw with
    | some d => (s.ownerDies l.asid d.pass).all (fun t => cs.any (fun c => dieOf c == t))
    | none => true)
/-- Origins that a launch may take. -/
def State.origins (s : State) (l : Launch) : List (Nat × Nat) :=
  (if l.any then originsOf l.logw l.logh else [(l.x0, l.y0)]).filter (s.originOk l)

/-- The first origin at which a launch can be placed, awake clusters first (R260). -/
def State.placeAt (s : State) (lid : Nat) (l : Launch) : Option (Nat × Nat) :=
  let ok := (s.origins l).filter (fun e => (s.withOrigin lid e.1 e.2).hasRoom lid)
  let awake := fun (e : Nat × Nat) => (rectCores e.1 e.2 l.logw l.logh).all (fun c => (s.cluster (clusterOf c)).state == .awake)
  match ok.find? awake with
  | some e => some e
  | none => ok.head?

/-- Takes a launch's cores: they are reserved, and a due launch is protected (R260, R272, 17 R376). -/
def State.takeCores (s : State) (lid : Nat) (e : Nat × Nat) : State :=
  let s := s.withOrigin lid e.1 e.2
  match s.launch? lid with
  | none => s
  | some l =>
    let s := l.cores.foldl State.reserveCore s
    let until_ := if l.due then some (s.dcc + s.quantum / 8) else none
    s.updLaunch lid (fun l =>
      { l with at_ := .placed, waited := s.waitedOf l, acceptedAt := s.dcc, protectedUntil := until_
               ready := s.dcc })

/-- LAUNCH_PLACEMENT (R260, R270). -/
def execLaunchPlacement (lid : Nat) (s : State) : Out :=
  match s.launch? lid with
  | none => .next s
  | some l =>
    if l.at_ ≠ .waiting then .next s
    else match s.placeAt lid l with
      | some e => .next (s.takeCores lid e)
      | none => .next s

/-- LAUNCH_DUE (R272). -/
def State.becomesDue (s : State) (l : Launch) : Bool := l.waits && !l.due && decide (s.quantum ≤ s.waitedOf l)
def execLaunchDue (lid : Nat) (s : State) : Out :=
  .next (s.updLaunch lid (fun l => if s.becomesDue l then { l with due := true } else l))

/-- PROTECTION_END (R272). -/
def State.protectionOver (s : State) (l : Launch) : Bool :=
  match l.protectedUntil with | some t => decide (t ≤ s.dcc) | none => false
def execProtectionEnd (lid : Nat) (s : State) : Out :=
  .next (s.updLaunch lid (fun l => if s.protectionOver l then { l with due := false, protectedUntil := none, waited := 0 } else l))

/-! ### Offers (R261, R262, R42) -/

/-- A task of some launch that fits is ahead of an offer on the core (R42). -/
def State.ownTaskFits (s : State) (core : Nat) : Bool := s.launches.any (fun e => (s.ownTask e.1 core).isSome)

/-- The core admits what is offered to it: dispatch has reached it, no launch is being saved on it, and no task is ahead (R42, R271). -/
def State.accepts (s : State) (l : Launch) (core : Nat) : Bool :=
  l.running && decide (l.readyAt core ≤ s.dcc) && l.holds core && !s.savingOn core && !s.ownTaskFits core

/-- The core takes the launch's next group now; a co-resident launch's groups are all taken at once, by those of its cores that
accept (R261, R262). -/
def State.offerTaken (s : State) (lid core : Nat) : Option State :=
  match s.launch? lid with
  | none => none
  | some l =>
    if !s.accepts l core then none
    else if l.cor then s.admitAll lid (s.accepts l) (corFuel l) 0
    else s.admitNext lid core

/-- Cores of a launch in the order of its next offers. -/
def Launch.offerOrder (l : Launch) : List Nat := (List.range l.size).map (fun i => l.rectCore ((l.offerAt + i) % l.size))

/-- The group of a pixel wave (14 R325, R326). -/
def pixelReq (l : Launch) (d : Draw) (w : PixelWave) : GroupReq :=
  { kernel := d.pixel, kind := .pixel, cls := 7, entry := d.pixel.entry, args := [l.arg], width := w.width, nwaves := 1, pixel := some w
    helper := w.helpers, exited := w.unfilled, vregs := w.lanes.flatMap w.anchors }

/-- Fragments of a pixel wave take their core. -/
def State.settleFrags (s : State) (core : Nat) (w : PixelWave) : State :=
  let ids := w.lanes.filterMap (fun e => e.2.frag)
  { s with frags := s.frags.map (fun f => if ids.contains f.id then { f with core := core } else f) }

/-- The core takes the oldest pixel wave of its die's rasteriser (14 R312). -/
def State.pixelTaken (s : State) (lid core : Nat) : Option State :=
  match s.launch? lid with
  | none => none
  | some l =>
    match l.draw, l.pixels.find? (fun w => w.die == dieOf core) with
    | some d, some w =>
      if !s.accepts l core then none
      else
        (s.startGroup lid core (pixelReq l d w)).map (fun s =>
          (s.updLaunch lid (fun l => { l with pixels := l.pixels.erase w })).settleFrags core w)
    | _, _ => none

/-- GROUP_ADMISSION: a pixel wave; else the first core in the order of the offers that accepts, or for a co-resident launch
all groups in one cycle. -/
def execGroupAdmission (lid core : Nat) (s : State) : Out :=
  match s.launch? lid with
  | none => .next s
  | some l =>
    match s.pixelTaken lid core with
    | some s => .next s
    | none =>
      if l.ngroups ≤ l.admitted then .next s
      else if (l.offerOrder.find? (fun c => (s.offerTaken lid c).isSome)) = some core then .next ((s.offerTaken lid core).getD s)
      else .next s

end Sys2Proof.Machine
end

