-- ==== Sys2Proof/Machine/Sched.lean ====
section
/-! DEFINITION. Command queues (11 R252-R258), triggers and task graphs (R264-R267), and the completion of launches (R263). -/

namespace Sys2Proof.Machine

/-! ### Rings (R253) -/

/-- The place of command `i` of a ring, where it exists. -/
def Queue.ringPlace (q : Queue) (i : Nat) : Option Nat :=
  let a := q.base.toNat + 64 * (i % 2 ^ q.logn)
  if paOk a ∧ (paClass a = 0 ∨ paClass a = 0xC) then some a else none
/-- Command `i` of a ring, when its place exists and no core has pinned its line. -/
def State.ringCommand (s : State) (q : Queue) (i : Nat) : Option (List Byte) :=
  (q.ringPlace i).bind (fun a => if s.pinnedIn none [a, a + 63] = [] then some (readBytes s.mem a 64) else none)

/-- Commands written and not consumed. -/
def Queue.pending (q : Queue) : Nat := (q.tail - q.head).toNat

/-- Fills the command buffer to 4 commands. -/
def State.refillFrom (s : State) (q : Queue) : Nat → Queue
  | 0 => q
  | fuel + 1 =>
    if 4 ≤ q.buffer.length ∨ q.pending ≤ q.buffer.length then q
    else
      match s.ringCommand q (q.head.toNat + q.buffer.length) with
      | none => q
      | some c => s.refillFrom { q with buffer := q.buffer ++ [c] } fuel
/-- Pinned lines that the next prefetch of a queue would read: it is sent again (09 R221). -/
def State.ringPins (s : State) (q : Queue) : List Nat :=
  if 4 ≤ q.buffer.length ∨ q.pending ≤ q.buffer.length then []
  else ((q.ringPlace (q.head.toNat + q.buffer.length)).toList.flatMap (fun a => s.pinnedIn none [a, a + 63])).eraseDups
def State.refill (s : State) (n : Nat) : State :=
  let q := s.queue n
  if q.en && !q.stop then
    let q := s.refillFrom q 4
    (s.updQueue n (fun _ => q)).refuseAll (s.ringPins q)
  else s
/-- The prefetches that pins have refused, and that none refuses any more. -/
def State.refillAll (s : State) : State :=
  s.sched.queues.foldl (fun s e =>
    let q := s.queue e.1
    if q.en && !q.stop && decide (q.buffer.length < min 4 q.pending) then s.refill e.1 else s) s

/-- Stops a queue with a code (R258). -/
def State.stopQueue (s : State) (n code : Nat) : State :=
  s.updQueue n (fun q => { q with stop := true, code := BitVec.ofNat 8 code, index := q.head })

/-- The head command is consumed, or skipped: HEAD advances and the buffer refills. -/
def State.consume (s : State) (n : Nat) : State :=
  (s.updQueue n (fun q => { q with head := q.head + 1, buffer := q.buffer.drop 1, pollAt := 0, pollOk := false })).refill n

/-- What the scheduler sees at a queue's head: nothing, an error code, or a command. -/
inductive HeadAt where
  | empty | bad (code : Nat) | cmd (b : List Byte)
  deriving DecidableEq, Repr

def State.headAt (s : State) (n : Nat) : HeadAt :=
  let q := s.queue n
  if !q.en || q.stop || q.pending == 0 then .empty
  else if 24 ≤ q.prio ∨ q.logn < 4 ∨ 12 < q.logn ∨ 2 ^ q.logn < q.pending then .bad 1
  else
    match q.buffer with
    | b :: _ => if 4 < fieldAt b 0 1 then .bad 1 else .cmd b
    | [] => if s.ringPins q = [] then .bad 9 else .empty
/-- KIND of the head command; a head that stops its queue counts as a NOP. -/
def State.headKind (s : State) (n : Nat) : Option Nat :=
  match s.headAt n with
  | .empty => none
  | .bad _ => some 0
  | .cmd b => some (fieldAt b 0 1)
def State.headBytes (s : State) (n : Nat) : List Byte := match s.headAt n with | .cmd b => b | _ => []

/-! ### Commands that need no launch (R254, R256) -/

/-- QUEUE_NOP: consumes a NOP; a head that cannot be a command stops the queue (R254, R258). -/
def execQueueNop (n : Nat) (s : State) : Out :=
  match s.headAt n with
  | .bad c => .next (s.stopQueue n c)
  | .cmd b => .next (if fieldAt b 0 1 = 0 then s.consume n else s)
  | .empty => .next s

/-- Address and value of a WAIT or SIGNAL. -/
def cmdAddr (b : List Byte) : Nat := fieldAt b 8 8
def cmdValue (b : List Byte) : Nat := fieldAt b 16 8

/-- WAIT_POLL: reads the word, no more than every 1,024 cycles; a read that a pin refuses is made again. -/
def State.pollDue (s : State) (n : Nat) : Bool :=
  s.headKind n == some 2 && decide ((s.queue n).pollAt ≤ s.dcc) && !(s.queue n).pollOk
  && s.retryDue none (s.schedPins (s.queue n).asid (cmdAddr (s.headBytes n)) 8)
def execWaitPoll (n : Nat) (s : State) : Out :=
  if !s.pollDue n then .next s
  else
    let b := s.headBytes n
    let q := s.queue n
    let pins := s.schedPins q.asid (cmdAddr b) 8
    if cmdAddr b % 8 ≠ 0 then .next (s.stopQueue n 1)
    else if pins ≠ [] then .next (s.refuseAll pins)
    else
      match s.schedBytes q.asid .read (cmdAddr b) 8 with
      | none => .next (s.stopQueue n 9)
      | some v => .next (s.updQueue n (fun q => { q with pollAt := s.dcc + 1024, pollOk := decide (cmdValue b ≤ natOfBytes v) }))

/-- WAIT: consumed once a poll has found the value. -/
def execWait (n : Nat) (s : State) : Out :=
  .next (if s.headKind n = some 2 ∧ (s.queue n).pollOk then s.consume n else s)

/-- Every earlier launch of the queue's commands has completed, and its release has been made (R256, R263). -/
def State.queueIdle (s : State) (n : Nat) : Bool := !(s.launches.any (fun e => e.2.queue == n && e.2.node.isNone))
/-- Every earlier launch of the queue's commands has completed. -/
def State.queueOver (s : State) (n : Nat) : Bool :=
  !(s.launches.any (fun e => e.2.queue == n && e.2.node.isNone && e.2.at_ != .completed))

/-- SIGNAL: consumed once every earlier launch of the queue has completed; the value is stored with sys-scope release. -/
def execSignal (n : Nat) (s : State) : Out :=
  if s.headKind n ≠ some 3 ∨ !s.queueIdle n then .next s
  else
    let b := s.headBytes n
    if cmdAddr b % 8 ≠ 0 then .next (s.stopQueue n 1)
    else
      match s.schedPa (s.queue n).asid (cmdAddr b) with
      | none => .next (s.stopQueue n 9)
      | some pa => let pins := s.schedPins (s.queue n).asid (cmdAddr b) 8
        if pins ≠ [] then .next (s.refuseAll pins) else .next ((s.slicePut 6 0 pa (bytesOfNat 8 (cmdValue b))).consume n)

/-! ### LAUNCH (R255) -/

/-- A LAUNCH can be consumed: with SER, once every earlier launch has completed. -/
def State.launchReady (s : State) (n : Nat) : Bool :=
  s.headKind n == some 1 && (fieldAt (s.headBytes n) 1 1 / 2 % 2 == 0 || s.queueOver n)

/-- LAUNCH: validated, and accepted or stopped; under a pass it takes the next draw number (14 R309). -/
def execLaunch (n : Nat) (s : State) : Out :=
  if !s.launchReady n then .next s
  else
    match s.validate (s.queueOrigin n) (s.headBytes n) with
    | .error c => .next (s.stopQueue n c)
    | .ok l =>
      let s := (s.accept l 104).consume n
      .next (if l.draw.isSome then s.updQueue n (fun q => { q with draws := q.draws + 1 }) else s)

/-! ### Graphs (R264) -/

def schedKey (t off : Nat) : Nat := t * 1048576 + off
/-- Bytes of an image's node. -/
def nodeBytes (img : List Byte) (i : Nat) : List Byte := (img.drop (64 + 128 * i)).take 128
def nodeSuccs (node : List Byte) : List Nat := (List.range (fieldAt node 66 1)).map (fun j => fieldAt node (96 + 2 * j) 2)

/-- Peels nodes without predecessors off a graph; what is left after `fuel` rounds lies on a cycle. -/
def peel (succs : List (List Nat)) : Nat → List Nat → List Nat
  | 0, left => left
  | fuel + 1, left => peel succs fuel (left.filter (fun i => left.any (fun j => (succs.getD j []).contains i)))

/-- An image that breaks R264. -/
def badGraph (img : List Byte) (size : Nat) : Bool :=
  let n := fieldAt img 0 2
  let nodes := (List.range n).map (nodeBytes img)
  let succs := nodes.map nodeSuccs
  n == 0 || decide (1024 < n) || size != 64 + 128 * n || ((img.drop 2).take 6).any (· != 0) || ((img.drop 24).take 40).any (· != 0)
    || nodes.any (fun b => decide (16 < fieldAt b 66 1) || ((b.drop 67).take 29).any (· != 0)
      || ((b.drop (96 + 2 * fieldAt b 66 1))).any (· != 0) || (nodeSuccs b).any (fun i => decide (n ≤ i)))
    || (List.range n).any (fun i => fieldAt (nodes.getD i []) 64 2 != (succs.filter (fun l => l.contains i)).length)
    || peel succs n (List.range n) != []

/-- The lowest free place of an image in a tenant's region, on a 16-byte boundary. -/
def freePlace (images : List (Nat × Nat × Nat)) (size : Nat) : Option Nat :=
  let starts := 0 :: images.map (fun i => (i.2.1 + i.2.2 + 15) / 16 * 16)
  let ok := fun (a : Nat) => decide (a + size ≤ 1048576) && images.all (fun i => decide (a + size ≤ i.2.1) || decide (i.2.1 + i.2.2 ≤ a))
  (sortBy (fun a b => decide (a ≤ b)) starts).find? ok

/-- The loaded graph of an image. -/
def graphOf (o : Origin) (gid : Nat) (img : List Byte) : Graph :=
  let nodes := (List.range (fieldAt img 0 2)).map (nodeBytes img)
  { tenant := o.tenant, gid := gid, queue := o.queue, prio := o.prio, asid := o.asid, domain := o.domain, privq := o.privq, nodes := nodes
    npred := nodes.map (fun b => fieldAt b 64 2), succs := nodes.map nodeSuccs, doneAddr := BitVec.ofNat 64 (fieldAt img 8 8)
    doneVal := BitVec.ofNat 64 (fieldAt img 16 8) }

def State.graph? (s : State) (t gid : Nat) : Option Graph := s.sched.graphs.find? (fun g => g.tenant == t && g.gid == gid)
def State.graphInsts (s : State) (t gid : Nat) : List GraphInst := s.sched.insts.filter (fun i => i.tenant == t && i.gid == gid)
def Graph.origin (g : Graph) : Origin :=
  { queue := g.queue, prio := g.prio, tenant := g.tenant, asid := g.asid, domain := g.domain, privq := g.privq, qpass := 0, draws := 0 }

/-- A GRAPHLOAD can be consumed: its graph has no running or pending instance. -/
def State.graphloadReady (s : State) (n : Nat) : Bool :=
  s.headKind n == some 4 && s.graphInsts (s.queue n).tenant (fieldAt (s.headBytes n) 2 2) == []

/-- GRAPHLOAD: the image is copied into the tenant's region and checked; its nodes are checked as launches. While a core has pinned a line
of the image the copy waits (09 R221). -/
def execGraphload (n : Nat) (s : State) : Out :=
  if !s.graphloadReady n then .next s
  else
    let b := s.headBytes n
    let q := s.queue n
    let gid := fieldAt b 2 2
    let size := fieldAt b 16 4
    let pins := s.schedPins q.asid (cmdAddr b) size
    if 1023 < gid ∨ 1048576 < size then .next (s.stopQueue n 8)
    else if pins ≠ [] then .next (s.refuseAll pins)
    else
      match s.schedBytes q.asid .read (cmdAddr b) size with
      | none => .next (s.stopQueue n 9)
      | some img =>
        let kept := (s.tenant q.tenant).images.filter (fun i => i.1 != gid)
        match freePlace kept size with
        | none => .next (s.stopQueue n 8)
        | some off =>
          if badGraph img size then .next (s.stopQueue n 8)
          else
            let g := graphOf { s.queueOrigin n with qpass := 0 } gid img
            match g.nodes.findSome? (fun b => match s.validate g.origin (b.take 64) with | .error c => some c | .ok _ => none) with
            | some c => .next (s.stopQueue n c)
            | none =>
              let s := s.updTenant q.tenant (fun t => { t with images := (gid, off, size) :: kept })
              let s := { s with sched := { s.sched with
                mem := writeBytes s.sched.mem (schedKey q.tenant off) img,
                graphs := g :: s.sched.graphs.filter (fun g => !(g.tenant == q.tenant && g.gid == gid)) } }
              .next (s.consume n)

/-! ### Instances (R265-R267) -/

def State.updInst (s : State) (t gid : Nat) (f : GraphInst → GraphInst) : State :=
  { s with sched := { s.sched with insts := s.sched.insts.map (fun i =>
      if i.tenant = t ∧ i.gid = gid ∧ i.running = true then f i else i) } }

/-- Drops a trigger for reason `k` (R265). -/
def State.dropTrigger (s : State) (t k : Nat) : State :=
  s.updTenant t (fun x => { x with code := x.code ||| BitVec.ofNat 8 (2 ^ k), drops := min (x.drops + 1) 65535 })

/-- Writes a field of a node's LAUNCH: FIRST word at 16, PARAM or ARG (R266). -/
def patchNode (node : List Byte) (code : Nat) (v : List Byte) : List Byte :=
  let off := 16 + 8 * code
  node.take off ++ v ++ node.drop (off + 8)

/-- The entries of a patch list, or none when it is malformed (R266). -/
def State.patchList (s : State) (t patch : Nat) (g : Graph) : Option (List (Nat × Nat × List Byte)) :=
  if patch = 0 then some []
  else
    let rd := fun (off n : Nat) => readBytes s.sched.mem (schedKey t (patch + off)) n
    let head := rd 0 16
    let n := fieldAt head 0 1
    let entries := (List.range n).map (fun i => rd (16 + 16 * i) 16)
    let overlap := (s.tenant t).images.any (fun i => decide (i.2.1 < patch + 16 + 16 * n) && decide (patch < i.2.1 + i.2.2))
    if patch % 16 ≠ 0 ∨ 32 < n ∨ (head.drop 1).any (· != 0) ∨ 1048576 < patch + 16 + 16 * n ∨ overlap = true
        ∨ entries.any (fun e => decide (g.nodes.length ≤ fieldAt e 0 2) || decide (2 < fieldAt e 2 1) || ((e.drop 3).take 5).any (· != 0)) then none
    else some (entries.map (fun e => (fieldAt e 0 2, fieldAt e 2 1, e.drop 8)))

/-- Launches node `i` of the running instance of a graph after its decode stage (R268); a node that fails its checks stops the
graph's queue. -/
def State.launchNode (s : State) (g : Graph) (i decode : Nat) : State :=
  match (s.graphInsts g.tenant g.gid).find? (fun x => x.running) with
  | none => s
  | some x =>
    match s.validate g.origin ((x.nodes.getD i []).take 64) with
    | .error c => s.stopQueue g.queue c
    | .ok l => (s.accept { l with node := some (g.tenant, g.gid, i) } decode).updInst g.tenant g.gid (fun x => { x with launched := i :: x.launched })

/-- A list with `y` in the place of its first `x`. -/
def replaceFirst (x y : GraphInst) : List GraphInst → List GraphInst
  | [] => []
  | i :: r => if i = x then y :: r else i :: replaceFirst x y r

/-- Starts the oldest waiting instance of a graph, when none runs; a malformed patch list drops it, and the next one is
tried. `fuel` bounds the drops. -/
def State.startInstance (s : State) (g : Graph) : Nat → State
  | 0 => s
  | fuel + 1 =>
    let xs := s.graphInsts g.tenant g.gid
    if xs.any (fun x => x.running) then s
    else
      match xs with
      | [] => s
      | x :: _ =>
        match s.patchList g.tenant x.patch g with
        | none =>
          let s := { s with sched := { s.sched with insts := s.sched.insts.erase x } }
          (s.dropTrigger g.tenant 2).startInstance g fuel
        | some ps =>
          let nodes := ps.foldl (fun ns p => ns.set p.1 (patchNode (ns.getD p.1 []) p.2.1 p.2.2)) g.nodes
          let y := { x with running := true, nodes := nodes }
          let s := { s with sched := { s.sched with insts := replaceFirst x y s.sched.insts } }
          ((List.range g.nodes.length).filter (fun i => g.npred.getD i 0 == 0)).foldl (fun s i => s.launchNode g i (8 + 2 * ps.length)) s

/-- May a source write a tenant's TRIGGER or a queue's registers: PF0, the controller, or the tenant's own function (R252). -/
def mayTenant (src : Source) (t : Nat) : Bool := match src with | .tenant u => u == t | _ => true

/-- TRIGGER_WRITE (R265). A write that is not one 64-bit write leaves PATCH and GID as they are (DESIGN CHOICE,
notes/assumptions/65.md). -/
def execTriggerWrite (t : Nat) (v : W64) (whole : Bool) (src : Source) (s : State) : Out :=
  if !mayTenant src t ∨ !s.answers ∨ (s.tenant t).flrAt = some s.dcc then .next s
  else if !whole then .next (s.dropTrigger t 3)
  else
    let patch := v.toNat % 2 ^ 48
    let gid := v.toNat / 2 ^ 48
    let s := s.updTenant t (fun x => { x with patch := v.extractLsb' 0 48, gid := v.extractLsb' 48 16 })
    match s.graph? t gid with
    | none => .next (s.dropTrigger t 0)
    | some g =>
      if 4 ≤ ((s.graphInsts t gid).filter (fun x => !x.running)).length then .next (s.dropTrigger t 1)
      else
        let x : GraphInst := { tenant := t, gid := gid, patch := patch, running := false, arrived := s.dcc, nodes := [], launched := [], completed := [] }
        let s := { s with sched := { s.sched with insts := s.sched.insts ++ [x] } }
        .next (s.startInstance g 5)

/-- Pinned lines that the store of DONEVAL meets, when node `i` is the last of its instance to complete (R267, 09 R221). -/
def State.donePins (s : State) (t gid : Nat) : List Nat :=
  match s.graph? t gid, (s.graphInsts t gid).find? (fun x => x.running) with
  | some g, some x =>
    if x.completed.length + 1 = g.nodes.length then s.schedPins g.asid g.doneAddr.toNat 8 else []
  | _, _ => []

/-- A node of the running instance has completed: its successors whose predecessors are all done launch; the last one ends
the instance (R267). A DONEADDR that is no multiple of 8 is stored at as it is (DESIGN CHOICE, notes/assumptions/65.md). -/
def State.nodeDone (s : State) (t gid i : Nat) : State :=
  match s.graph? t gid with
  | none => s
  | some g =>
    let s := s.updInst t gid (fun x => { x with completed := i :: x.completed })
    match (s.graphInsts t gid).find? (fun x => x.running) with
    | none => s
    | some x =>
      if x.completed.length = g.nodes.length then
        let s := match s.schedPa g.asid g.doneAddr.toNat with
          | some pa => s.slicePut 6 0 pa (bytesOfNat 8 g.doneVal.toNat)
          | none => s
        ({ s with sched := { s.sched with insts := s.sched.insts.erase x } }).startInstance g 5
      else
        let preds := fun (j : Nat) => (List.range g.nodes.length).filter (fun k => (g.succs.getD k []).contains j)
        ((g.succs.getD i []).filter (fun j => (preds j).all (fun k => x.completed.contains k))).foldl (fun s j => s.launchNode g j 8) s

/-! ### Completion (R263, 14 R312) -/

/-- Nothing of a draw is left in the pipeline. -/
def State.drawDone (s : State) (lid : Nat) (l : Launch) : Bool :=
  l.pixels == [] && !(s.meshes.any (fun m => m.launch == lid)) && !(s.prims.any (fun p => p.launch == lid))
  && !(s.frags.any (fun f => f.launch == lid))

/-- The launch completes. -/
def State.launchOver (s : State) (lid : Nat) (l : Launch) : Bool :=
  (match l.at_ with | .placed => true | .saving _ => true | _ => false)
  && l.admitted == l.ngroups && l.exitedGroups == l.ngroups && l.deques.all (fun e => e.2.empty)
  && !(s.groups.any (fun e => e.2.launch == lid)) && (l.draw.isNone || s.drawDone lid l)

/-- The pass of a draw: queue and descriptor address. -/
def Launch.passKey (l : Launch) : Option Nat := l.draw.map (fun d => l.queue + 64 * d.pass.addr.toNat)

/-- When no draw of a launch's pass is in flight any more, the pass's watermarks are gone: a later draw of it gets new ones. -/
def State.endPass (s : State) (l : Launch) : State :=
  match l.passKey with
  | none => s
  | some k =>
    if s.launches.any (fun e => e.2.passKey == some k && e.2.at_ != .completed) then s
    else { s with
      marks := s.marks.filter (fun m => m.pass != k)
      sentMarks := s.sentMarks.filter (fun e => e.1.1 != k)
      dies := s.dies.map (fun (e : Nat × Die) => (e.1, { e.2 with marks := delT e.2.marks k })) }

/-- An operation of a launch writes memory and has not performed. -/
def writesOpen (lid : Nat) (o : MemOp) : Bool :=
  o.launch == lid && !o.parked && o.accs.any Access.isOpen &&
  (o.cls == .st || (match o.kind with | .atom _ _ => true | .qdeq _ => true | _ => false))

/-- Every write that a completed launch made has performed at its slice or in its core's L1: operations, copies and unit writes whose
waves have ended, and the join decrements of its tasks, are among them (R263, 02 R45). -/
def State.writesPerformed (s : State) (lid : Nat) : Bool :=
  !(s.ops.any (writesOpen lid)) && s.cores.all (fun e => e.2.copyQ.all (fun o => o.launch != lid))
    && !(s.posted.any (fun p => p.launch == lid)) && !(s.joinDecs.any (fun e => e.launch == lid))

/-- Where the completion of a launch stands (R263). -/
inductive EndAt where
  | wait
  /-- it completes: its hold ends -/
  | ended
  /-- its release sends its cores' dirty sectors back -/
  | release
  /-- the store of DONEVAL is refused -/
  | pinned (pas : List Nat)
  /-- the release is made: successors, and a later SIGNAL, act on the completion -/
  | done
  deriving DecidableEq, Repr

def State.endAt (s : State) (lid : Nat) (l : Launch) : EndAt :=
  if l.at_ ≠ .completed then (if s.launchOver lid l then .ended else .wait)
  else
    match l.relAt with
    | none => if s.writesPerformed lid then .release else .wait
    | some n =>
      -- its channel stores are its own until the cycle after its last group (02 R31)
      if !l.cores.all (fun c => s.backsDone c n) ∨ (l.channels ≠ [] ∧ l.chanCores ≠ []) then .wait
      else
        match l.node with
        | some (t, gid, _) => if s.donePins t gid = [] then .done else .pinned (s.donePins t gid)
        | none => .done

/-- The completion of a launch has a step to make. -/
def State.endDue (s : State) (lid : Nat) (l : Launch) : Bool :=
  match s.endAt lid l with
  | .wait => false
  | .pinned pas => s.retryDue none pas
  | _ => true

/-- LAUNCH_COMPLETION: the launch's hold on its cores ends; a sys-scope release covers its writes; then a graph's successors. -/
def execLaunchCompletion (lid : Nat) (s : State) : Out :=
  match s.launch? lid with
  | none => .next s
  | some l =>
    match s.endAt lid l with
    | .wait => .next s
    | .ended => .next ((s.updLaunch lid (fun l => { l with at_ := .completed, relAt := none })).endPass { l with at_ := .completed })
    | .release =>
      let s := s.releaseCores l.cores
      .next (s.updLaunch lid (fun l => { l with relAt := some s.nextId }))
    | .pinned pas => .next (s.refuseAll pas)
    | .done =>
      let s := { s with launches := delT s.launches lid }
      match l.node with
      | none => .next s
      | some (t, gid, i) => .next (s.nodeDone t gid i)

/-! ### Doorbells (R252, R253) -/

/-- QTAIL_WRITE: more than the ring's capacity stops the queue. -/
def execQtailWrite (n : Nat) (v : W64) (src : Source) (s : State) : Out :=
  if !mayTenant src (s.queue n).tenant ∨ !s.answers then .next s
  else
    let s := s.updQueue n (fun q => { q with tail := v.extractLsb' 0 32 })
    let q := s.queue n
    if q.en ∧ !q.stop ∧ 2 ^ q.logn < q.pending then .next (s.stopQueue n 1) else .next (s.refill n)

/-- QERR_STOP_WRITE: the stopped command is skipped. -/
def execQerrStopWrite (n : Nat) (v : W64) (src : Source) (s : State) : Out :=
  if !mayTenant src (s.queue n).tenant ∨ !s.answers ∨ !v.getLsbD 63 ∨ !(s.queue n).stop then .next s
  else .next ((s.updQueue n (fun q => { q with stop := false })).consume n)

/-- QPASS_WRITE (14 R309). -/
def execQpassWrite (n : Nat) (v : W64) (src : Source) (s : State) : Out :=
  if !mayTenant src (s.queue n).tenant ∨ !s.answers then .next s
  else .next (s.updQueue n (fun q => { q with qpass := BitVec.ofNat 64 (v.toNat / 64 % 2 ^ 51 * 64), draws := 0 }))

/-! ### Arbitration (R257) -/

/-- The head command of a queue can be consumed, or stops it. -/
def State.consumable (s : State) (n : Nat) : Bool :=
  match s.headKind n with
  | none => false
  | some 0 => true
  | some 1 => s.launchReady n
  | some 2 => (s.queue n).pollOk
  | some 3 => s.queueIdle n
  | _ => s.graphloadReady n

/-- The queue the scheduler serves in this cycle: the highest priority, then the next number after the last served. -/
def State.arbitrate (s : State) : Option Nat :=
  let ready := (s.sched.queues.map Prod.fst).filter s.consumable
  let best := (ready.map (fun n => (s.queue n).prio)).foldl max 0
  let top := ready.filter (fun n => (s.queue n).prio == best)
  let last := getT 63 s.sched.served best
  match top.filter (fun n => decide (last < n)) with
  | n :: r => some (r.foldl min n)
  | [] => match top with
    | n :: r => some (r.foldl min n)
    | [] => none

end Sys2Proof.Machine
end

