-- ==== Sys2Proof/Machine/Preempt.lean ====
section
/-! DEFINITION. Pre-emption: `phint` and forced saves (12 R281-R291), the choice of victims (11 R270, R271), and the save and
restore of a launch (12 R286-R291, 10 R247). -/

namespace Sys2Proof.Machine

/-! ### `phint` (R285) -/

/-- The two ranges that a register names: first line and count (R285). -/
def phintRanges (v : W64) : List (Nat × Nat) :=
  (List.range 2).map (fun k => (v.toNat / 2 ^ (32 * k) % 65536, v.toNat / 2 ^ (32 * k + 16) % 65536))

/-- A range that is not empty and passes the end of the part's scratch. -/
def badRange (c : Ctx) (r : Nat × Nat) : Bool := r.2 != 0 && decide (c.scratchArea.2 < (r.1 + r.2) * 256)

/-- The wait at `conf` that a save finds in a part: its address and the cycles left (R74). -/
def Part.confRest (p : Part) (now : Nat) : Option (W64 × Nat) :=
  match p.park with
  | .conf _ t => some (p.pc, t - now)
  | _ => p.confLeft.map (fun e => (e.1, e.2 - now))

/-- `phint`. -/
def execPhint (u : UWord) (x : W32) : State → Out :=
  issue { s := u.s, len := 8 } (fun c st =>
    let v := c.sreg u.a.toNat
    if (phintRanges v).any (badRange c) then st.precise c tcIllegal 0 v
    else if !c.wave.pend then st.done c 8
    else
      -- a wait at `conf` that an earlier save left keeps the cycles left of it (03 R74)
      ((st.done c 8).updPart c.ref (fun p => { p with confLeft := p.confRest st.dcc })).parkPart c.ref
        (.saved x ((phintRanges v).filter (fun r => r.2 != 0))))

/-! ### Restart of a part (R283) -/

/-- An operation in flight as a restart finds it. -/
inductive AtRestart where
  /-- it has performed: its result is written -/
  | performed
  /-- it has not performed, and is discarded or withdrawn -/
  | dropped
  /-- it is about to perform: the restart waits for it -/
  | pending
  /-- a store or a reduction: it stands -/
  | stands
  deriving DecidableEq, Repr

/-- What a restart makes of an operation. -/
def MemOp.atRestart (o : MemOp) : AtRestart :=
  let open_ := o.accs.any Access.isOpen
  match o.kind with
  | .store => .stands
  | .scratchStore => .stands
  | .output _ => if o.acted then .stands else .dropped
  | .meshOut => .stands
  | .scratchAtom none => .stands
  | .atom _ none => .stands
  | .atom _ (some _) => if !open_ then .performed else if o.accs.all (fun a => a.isOpen || a.ended) then .dropped else .pending
  | .qenq _ => if open_ then .dropped else .stands
  | .chsend _ _ => if !o.acted then .dropped else if o.parked then .pending else .stands
  | .chrecv _ _ _ _ _ => if o.parked then .dropped else .performed
  | _ => if open_ then .dropped else .performed

/-- Operations in flight of a part. -/
def State.partOps (s : State) (p : Part) : List MemOp := s.ops.filter (fun o => p.holdsOp o.id)
/-- The part can be restarted now. -/
def State.restartReady (s : State) (p : Part) : Bool := (s.partOps p).all (fun o => o.atRestart != .pending)

/-- Ends a performed operation at once: its results are written. -/
def State.settleOp (s : State) (id : Nat) : State :=
  let s := s.updOp id (fun o =>
    { o with due := min o.due s.dcc, accs := o.accs.map (fun a => if a.phase = .done then { a with due := min a.due s.dcc } else a) })
  let s := s.writeBack id
  match s.op? id with
  | some o => s.retire o
  | none => s

/-- Takes an operation from one part; it is gone when no other part holds it. -/
def State.withdraw (s : State) (r : PartRef) (o : MemOp) : State :=
  let s := s.updPart r (fun p => p.dropOp o.id)
  let held := match s.wave? r.key with
    | some w => w.parts.any (fun p => p.holdsOp o.id)
    | none => false
  if held then s
  else (s.dropOp o.id).updCore r.core (fun k => { k with sideLog := k.sideLog.filter (fun e => e.op != o.id) })

/-- The lanes' traversal states of the region entry (15 R352). -/
def Wave.restoreRays (w : Wave) (p : Part) : Wave :=
  let inPart := fun (e : Nat × RayState) => decide (p.base ≤ e.1) && decide (e.1 < p.base + p.width)
  { w with rays := (w.rays.filter (fun e => !inPart e)) ++ w.raysAtRegion.filter inPart }

/-- Fragments of a part's lanes. -/
def Wave.fragsOf (w : Wave) (p : Part) : List Nat :=
  match w.pixel with
  | some x => (x.lanes.filter (fun e => decide (p.base ≤ e.1) && decide (e.1 < p.base + p.width))).filterMap (fun e => e.2.frag)
  | none => []
/-- A restart is to repeat the outputs that the part issued behind its restart point (21 R461). -/
def State.staleOutputs (s : State) (r : PartRef) (p : Part) : State :=
  let from_ := match p.tframe with | some f => f.entered | none => p.regionAt
  let ids := match s.wave? r.key with | some w => w.fragsOf p | none => []
  let mark := fun (d : PoutData) => if from_ < d.issued then { d with stale := true } else d
  { s with frags := s.frags.map (fun f => if ids.contains f.id then { f with pouts := f.pouts.map mark } else f) }

/-- Restarts a part: its results are settled or discarded, and it stands at its region entry, or at its handler. -/
def State.restartPart (s : State) (r : PartRef) : State :=
  match s.part? r with
  | none => s
  | some p =>
    let s := (s.partOps p).foldl (fun s o =>
      match o.atRestart with
      | .performed => s.settleOp o.id
      | .dropped => s.withdraw r o
      | _ => s) s
    let s := (s.updWave r.key (fun w => w.restoreRays p)).staleOutputs r p
    -- the store of an `hsig` that has not performed is repeated with it (20 R438)
    let s := { s with posted := s.posted.filter (fun q => match q.part with | some (x, _) => x != r | none => true) }
    s.updPart r (fun p => ({ p with acquiring := [], stopped := false, relAt := none, gentryDue := p.gentryDue && p.tcode != 0 }.moveTo (if p.tcode = 0 then p.region else p.regs.handler)).issued s.dcc 1)

/-! ### Saving (R286, R287) -/

def Part.isSaved (p : Part) : Bool := match p.park with | .saved _ _ => true | _ => false

/-- Since when a launch is being saved. -/
def Launch.savingSince (l : Launch) : Option Nat := match l.at_ with | .saving t => some t | _ => none

def State.wavesOf (s : State) (lid : Nat) : List (Nat × Wave) := s.waves.filter (fun e => e.2.launch == lid)
def State.groupsOf (s : State) (lid : Nat) : List (Nat × Group) := s.groups.filter (fun e => e.2.launch == lid)

/-- Unsaved parts of a victim whose time is over: they are stopped, and saved as soon as they can be restarted (R283, R287). -/
def State.overdueParts (s : State) (lid : Nat) : List PartRef :=
  match (s.launch? lid).bind Launch.savingSince with
  | none => []
  | some t =>
    (s.wavesOf lid).flatMap (fun e =>
      if t + e.2.timeout + e.2.haltedFor ≤ s.dcc ∧ !(s.die (dieOf e.2.core)).halted then
        (e.2.parts.filter (fun p => !p.isSaved)).map (fun p => { core := e.2.core, slot := e.2.slot, base := p.base })
      else [])

/-- A step of a forced save is due: a part is still issuing, or can be restarted. -/
def State.forcedDue (s : State) (lid : Nat) : Bool :=
  (s.overdueParts lid).any (fun r => match s.part? r with | some p => !p.stopped || s.restartReady p | none => false)

/-- The deadline of the `sleep` that a save finds a part in (R490). -/
def Part.sleepRest (p : Part) : Option (W64 × Nat) := match p.park with | .sleep t => some (p.pc, t) | _ => p.sleepLeft

/-- Stops a part that is to be saved, or restarts it and saves it with every register and the whole scratch, once no operation of
it is about to perform (R283, R287). -/
def State.forceSave (s : State) (r : PartRef) : State :=
  match s.part? r with
  | none => s
  | some p =>
    if !s.restartReady p then s.updPart r (fun p => { p with stopped := true })
    else
      (s.restartPart r).updPart r (fun q =>
        { q with restart := true, forcedSave := true, confLeft := p.confRest s.dcc, sleepLeft := p.sleepRest, park := .saved (BitVec.allOnes 32) [(0, 65536)] })

/-- FORCED_SAVE: each part is stopped, restarted, and saved. -/
def execForcedSave (lid : Nat) (s : State) : Out := .next ((s.overdueParts lid).foldl State.forceSave s)

/-! ### Victims (11 R270, R271) -/

/-- A launch that holds cores. -/
def Launch.onCores (l : Launch) : Bool := match l.at_ with | .placed => true | .saving _ => true | _ => false

/-- Takes a launch's waves and groups off their cores. -/
def State.removeLaunch (s : State) (lid : Nat) : State :=
  let s := (s.wavesOf lid).foldl (fun s e => s.freeWaveRegs e.2) s
  let s := { s with waves := s.waves.filter (fun e => e.2.launch != lid), groups := s.groups.filter (fun e => e.2.launch != lid) }
  s.updLaunch lid (fun l => { l with chanCores := [] })

/-- A holder may be pre-empted for a waiting launch. -/
def preemptible (for_ holder : Launch) : Bool :=
  holder.protectedUntil.isNone && (if for_.due then !holder.due else decide (holder.prio < for_.prio))

/-! ### Where a saved launch can return (R271, R291) -/

/-- Open frames of a group's waves, each once: identity and scratch units. -/
def frameRuns (ws : List Wave) : List (Nat × Nat) :=
  (ws.flatMap (fun w => w.parts.flatMap (fun p => p.frames.map (fun f => (f.uid, f.cscr))))).foldl
    (fun acc e => if acc.any (fun x => x.1 == e.1) then acc else acc ++ [e]) []

/-- New places of a group's waves and frames on a core. -/
structure Place where
  core : Nat
  /-- old slot, then partition, quad and slot -/
  waves : List (Nat × Nat × Nat × Nat)
  scrBase : Nat
  t0 : Nat
  /-- first scratch unit of each frame -/
  frames : List (Nat × Nat)
  deriving DecidableEq, Repr

/-- Moves a frame's scratch, and a part's or a wave's frames. -/
def moveFrames (runs : List (Nat × Nat)) (p : Part) : Part :=
  { p with frames := p.frames.map (fun f => { f with scrBase := getT f.scrBase runs f.uid }) }

/-- Reserves the scratch of frames, by a stand-in group for each; the runs found. -/
def State.takeFrames (s : State) (core lid : Nat) : List (Nat × Nat) → List (Nat × Nat) → Option (List (Nat × Nat) × State)
  | [], acc => some (acc, s)
  | (uid, n) :: r, acc =>
    match s.scratchRun core n with
    | none => none
    | some b =>
      let g : Group :=
        { launch := lid, num := 0, core := core, kind := .ordinary, cls := 0, scrBase := b, scr := n, t0 := 0, nacc := 0, nbar := 0, nwaves := 0
          slots := [], barriers := [], engineTiles := [], coop := 0, mesh := 0, verts := [], tris := [], dirtyLines := [] }
      ({ s with groups := putT s.groups (s.nextId + uid) g }).takeFrames core lid r (putT acc uid b)

/-- Puts a saved group back on its core. -/
def State.restoreGroup (s : State) (lid : Nat) (img : SaveImage) (core : Nat) (e : Nat × Group) : Option (State × Place) :=
  let ws := img.waves.filter (fun w => w.group == e.1)
  let g := e.2
  match s.launch? lid, s.scratchRun core g.scr, s.tileRun core g.nacc, placeWaves (s.core core) (s.claimedBanks core) (s.waveSlots core) (s.usedSlots core) (ws.map Wave.quadNeeds) with
  | some l, some scr, some t0, some (k, at_) =>
    if !s.chanRoom l core then none
    else
      let moved : Group := { g with core := core, scrBase := scr, t0 := t0 }
      let with_ := { s with groups := putT s.groups e.1 moved }
      match with_.takeFrames core lid (frameRuns ws) [] with
      | none => none
      | some (runs, _) =>
        let pl : Place := { core := core, waves := (ws.zip at_).map (fun (z : Wave × Nat × Nat × Nat) => (z.1.slot, z.2)), scrBase := scr, t0 := t0, frames := runs }
        let nw := (ws.zip at_).map (fun (z : Wave × Nat × Nat × Nat) =>
          (core * 128 + z.2.2.2,
            { z.1 with core := core, partition := z.2.1, quad0 := z.2.2.1, slot := z.2.2.2, parts := z.1.parts.map (moveFrames runs) }))
        let s := s.setCore core k
        let s :=
          { s with
            groups := putT s.groups e.1 { moved with slots := nw.map (fun (z : Nat × Wave) => z.2.slot) }
            waves := nw.foldl (fun t (z : Nat × Wave) => putT t z.1 z.2) s.waves }
        some (s.updLaunch lid (fun l => { l with chanCores := addNew l.chanCores core }), pl)
  | _, _, _, _ => none

/-- Puts the saved groups back in turn, each on the core of its place in the rectangle. -/
def State.restoreGroups (s : State) (lid : Nat) (img : SaveImage) (dx dy : Int) :
    List (Nat × Group) → List (Nat × Place) → Option (State × List (Nat × Place))
  | [], acc => some (s, acc)
  | e :: r, acc =>
    let core := coreId ((coreX e.2.core : Int) + dx).toNat ((coreY e.2.core : Int) + dy).toNat
    match s.restoreGroup lid img core e with
    | none => none
    | some (s, p) => s.restoreGroups lid img dx dy r (acc ++ [(e.1, p)])

/-- The launch put back at an origin, if every core has room. -/
def State.restoredAt (s : State) (lid : Nat) (l : Launch) (e : Nat × Nat) : Option (State × List (Nat × Place)) :=
  match l.image with
  | none => none
  | some img =>
    (s.updLaunch lid (fun l => { l with x0 := e.1, y0 := e.2 })).restoreGroups lid img ((e.1 : Int) - l.x0) ((e.2 : Int) - l.y0) img.groups []

/-- Origins that a saved launch may return to: any aligned origin of its shape in its tenant (R271). -/
def State.returnOrigins (s : State) (l : Launch) : List (Nat × Nat) := (originsOf l.logw l.logh).filter (s.originOk l)

/-- A launch has room at an origin, beside the groups resident and offered: for one group of each core, or for its saved
groups (R260, R271). -/
def State.roomAt (s : State) (lid : Nat) (l : Launch) (e : Nat × Nat) : Bool :=
  if l.at_ = .saved then ((s.withOffers lid).restoredAt lid l e).isSome else (s.withOrigin lid e.1 e.2).hasRoom lid

/-- Where a saved launch returns now: awake clusters first (R260). -/
def State.restoreAt (s : State) (lid : Nat) (l : Launch) : Option (Nat × Nat) :=
  let ok := (s.returnOrigins l).filter (s.roomAt lid l)
  let awake := fun (e : Nat × Nat) => (rectCores e.1 e.2 l.logw l.logh).all (fun c => (s.cluster (clusterOf c)).state == .awake)
  match ok.find? awake with
  | some e => some e
  | none => ok.head?

/-- A waiting launch cannot be placed or restored. -/
def State.blocked (s : State) (e : Nat × Launch) : Bool :=
  if e.2.at_ = .saved then (s.restoreAt e.1 e.2).isNone else (s.placeAt e.1 e.2).isNone
/-- The first waiting launch that cannot be placed. -/
def State.firstBlocked (s : State) : Option (Nat × Launch) := s.waiting.find? s.blocked

/-- Pre-emptible launches that hold a core of a rectangle and none of a halted die (R296). -/
def State.holders (s : State) (l : Launch) (cores : List Nat) : List Nat :=
  (s.launches.filter (fun e => e.2.onCores && preemptible l e.2 && cores.any e.2.holds
    && e.2.cores.all (fun c => !(s.die (dieOf c)).halted))).map Prod.fst

/-- The victims of a waiting launch: the pre-emptible holders at the first origin that has room without them, those being
saved already left out. -/
def State.victims (s : State) (lid : Nat) (l : Launch) : List Nat :=
  let rect := fun (e : Nat × Nat) => rectCores e.1 e.2 l.logw l.logh
  let origins := if l.at_ = .saved then s.returnOrigins l else s.origins l
  let without := fun (s : State) (v : Nat) => (s.removeLaunch v).updLaunch v (fun l => { l with at_ := .waiting })
  match origins.find? (fun e => ((s.holders l (rect e)).foldl without s).roomAt lid l e) with
  | none => []
  | some e => (s.holders l (rect e)).filter (fun v => ((s.launch? v).bind Launch.savingSince).isNone)

/-- PREEMPT_VICTIM_CHOICE: the victims admit nothing more, and PEND is set in their waves. -/
def execPreemptVictimChoice (lid : Nat) (s : State) : Out :=
  match s.firstBlocked with
  | none => .next s
  | some (k, l) =>
    if k ≠ lid then .next s
    else
      .next ((s.victims lid l).foldl (fun s v =>
        let s := s.updLaunch v (fun l => { l with at_ := .saving s.dcc })
        { s with waves := s.waves.map (fun (e : Nat × Wave) => if e.2.launch = v then (e.1, { e.2 with pend := true, haltedFor := 0 }) else e) }) s)

/-! ### The image (R286-R289) -/

/-- Open gate frames over the quad at a lane, outermost first: its part's, or, of a quad in a latent block, those made while it was
in the part that called (13 R304, R308). -/
def Wave.framesAt (w : Wave) (l : Nat) : List GateFrame :=
  match w.quadPart l with
  | some p => p.frames.reverse
  | none => if w.latentQuad l then sortBy (fun a b => decide (a.uid ≤ b.uid)) (w.openFrames.filter (fun f => inBlock f.base f.width l)) else []

/-- A part's bitmap names an eighth of its registers. -/
def Part.names (p : Part) (n8 : Nat) : Bool := match p.park with | .saved live _ => live.getLsbD n8 | _ => true

/-- A register unit of a quad is named: by its part's bitmap at its own depth, every one of its callers' (R286, 13 R308). A latent
block belongs to no one part: it goes by the bitmaps of the wave's parts at its depth (DESIGN CHOICE, notes/assumptions/24.md). -/
def unitNamed (w : Wave) (quad depth n8 : Nat) : Bool :=
  let d := (w.framesAt (4 * quad)).length
  if depth < d then true
  else if d < depth then false
  else match w.quadPart (4 * quad) with
    | some p => p.names n8 && decide (8 * n8 < allotOf w p)
    | none => w.latentQuad (4 * quad) && w.parts.any (fun p => p.depth == d && p.names n8)

/-- Register units that a wave has: quad, depth, eighth. -/
def waveUnits (w : Wave) : List (Nat × Nat × Nat) :=
  (List.range (w.width / 4)).flatMap (fun q =>
    let sizes := w.allot :: (w.framesAt (4 * q)).map (fun f => f.callot)
    sizes.zipIdx.flatMap (fun e => (List.range (e.1 / 8)).map (fun n => (q, e.2, n))))
def unitKey (u : Nat × Nat × Nat) : Nat := u.1 * 256 + u.2.1 * 32 + u.2.2

/-- The wave with the registers that no part names zeroed. -/
def Wave.onlyNamed (w : Wave) : Wave :=
  { w with vregs := w.vregs.filter (fun e => unitNamed w (e.1 / 512 % 64 / 4) (e.1 / 32768) (e.1 % 512 / 8)) }

/-- A scratch allocation that a save writes: image key, core, first byte, bytes, and the lines that are named. -/
structure ScrSave where
  key : Nat
  core : Nat
  base : Nat
  bytes : Nat
  named : List Nat
  deriving DecidableEq, Repr

/-- Lines of ranges within an allocation. -/
def linesIn (bytes : Nat) (rs : List (Nat × Nat)) : List Nat :=
  (List.range (bytes / 256)).filter (fun i => rs.any (fun r => decide (r.1 ≤ i) && decide (i < r.1 + r.2)))
def Part.ranges (p : Part) : List (Nat × Nat) := match p.park with | .saved _ rs => rs | _ => [(0, 65536)]

/-- A group's allocation: the union of its parts' ranges; whole when a part was forced or stands in a callee, whose ranges
are the callee's (R287). -/
def groupScr (gid : Nat) (g : Group) (ws : List Wave) : ScrSave :=
  let ps := ws.flatMap (fun w => w.parts)
  let rs := if ps.any (fun p => p.forcedSave || p.frames != []) then [(0, 65536)] else ps.flatMap Part.ranges
  { key := 2 * gid, core := g.core, base := g.scrBase * 8192, bytes := g.scr * 8192, named := linesIn (g.scr * 8192) rs }

/-- Callee scratch: the innermost frame's by its parts' ranges, an outer frame's whole. -/
def frameScrs (core : Nat) (ws : List Wave) : List ScrSave :=
  (ws.flatMap (fun w => w.parts.flatMap (fun p => p.frames.zipIdx.map (fun e => (p, e.1, e.2))))).foldl (fun acc e =>
    let f := e.2.1
    let rs := if e.1.forcedSave || e.2.2 != 0 then [(0, 65536)] else e.1.ranges
    let mine := linesIn (f.cscr * 8192) rs
    match acc.find? (fun x => x.key == 2 * f.uid + 1) with
    | some x => acc.map (fun y => if y.key = x.key then { y with named := mine.foldl addNew y.named } else y)
    | none => acc ++ [{ key := 2 * f.uid + 1, core := core, base := f.scrBase * 8192, bytes := f.cscr * 8192, named := mine }]) []

/-- Bytes of an allocation that are named, by offset. -/
def State.scrBytesNamed (s : State) (a : ScrSave) : List (Nat × Byte) :=
  (s.scratch.filter (fun e =>
    decide (scratchKey a.core a.base ≤ e.1) && decide (e.1 < scratchKey a.core (a.base + a.bytes))
    && a.named.contains ((e.1 - scratchKey a.core a.base) / 256))).map (fun e => (e.1 - scratchKey a.core a.base, e.2))

/-- An `mma` stopped at its last promotion boundary (10 R247). -/
def MmaOp.stopped (o : MmaOp) : MmaOp :=
  if o.zeroOnly then { o with start := 0, status := .queued }
  else
    let j := o.row / o.unit * o.perUnit
    let stop := { Stream.idle with steps := j }
    { o with idx := j * o.perStep, partials := [], streamA := stop, streamB := stop, start := 0, status := .queued }

/-- The units and lines that a save writes: named, and dirty or without a valid copy (R289). -/
def unitsWritten (old : SaveImage) (w : Wave) : Nat :=
  ((waveUnits w).filter (fun u => unitNamed w u.1 u.2.1 u.2.2 &&
    (w.dirty.contains (unitKey u) || !old.validRegs.contains (w.group, w.widx, unitKey u)))).length
def linesWritten (old : SaveImage) (dirty : List (Nat × Nat)) (a : ScrSave) : Nat :=
  (a.named.filter (fun i => dirty.contains (a.core, a.base / 256 + i) || !old.validLines.contains (a.key, i))).length

def SaveImage.empty : SaveImage :=
  { waves := [], groups := [], scratch := [], acc := [], copies := [], matrix := [], validRegs := [], validLines := [], written := 0 }

/-- The save image of a launch whose waves are all saved. -/
def State.imageOf (s : State) (lid : Nat) (old : SaveImage) : SaveImage :=
  let ws := (s.wavesOf lid).map Prod.snd
  let gs := s.groupsOf lid
  let scrs := gs.flatMap (fun e =>
    let mine := ws.filter (fun w => w.group == e.1)
    groupScr e.1 e.2 mine :: frameScrs e.2.core mine)
  let dirty := gs.flatMap (fun e => e.2.dirtyLines.map (fun i => (e.2.core, i)))
  { waves := ws.map (fun w => { w.onlyNamed with saved := true })
    groups := gs
    scratch := scrs.map (fun a => (a.key, s.scrBytesNamed a))
    acc := gs.map (fun e =>
      let lo := accKey e.2.core e.2.t0 0
      (e.1, (s.acc.filter (fun b => decide (lo ≤ b.1) && decide (b.1 < lo + e.2.nacc * 65536))).map (fun b => (b.1 - lo, b.2))))
    copies := s.cores.flatMap (fun k => (k.2.copyQ.filter (fun o => o.launch == lid)).map (fun o => (k.1, o)))
    matrix := s.cores.flatMap (fun k => (k.2.matrixQ.filter (fun o => o.launch == lid)).map (fun o => (k.1, o.stopped)))
    validRegs := ws.flatMap (fun w =>
      ((waveUnits w).filter (fun u => unitNamed w u.1 u.2.1 u.2.2)).map (fun u => (w.group, w.widx, unitKey u)))
    validLines := scrs.flatMap (fun a => a.named.map (fun i => (a.key, i)))
    written := 128 * (ws.map (unitsWritten old)).sum + 256 * (scrs.map (linesWritten old dirty)).sum }

/-- The sys-scope release of a saved wave's core, with its ASID's dirty U-page sectors (R290). -/
def State.saveRelease (s : State) (core : Nat) (asid : BitVec 16) : State :=
  (((s.core core).l1.filter (fun l => (l.kind == 0 || (l.kind == 2 && l.asid == asid)) && l.dirty != 0)).map (fun l => l.line)).foldl
    (fun s l => s.sendBackAs 6 core l) s

/-- Every part of a victim is saved and every access of it has performed. -/
def State.releaseDue (s : State) (lid : Nat) : Bool :=
  match s.launch? lid with
  | none => false
  | some l =>
    l.savingSince.isSome && !s.launchOver lid l && (s.wavesOf lid).all (fun e => e.2.parts.all Part.isSaved)
    && s.ops.all (fun o => o.launch != lid)
    && s.cores.all (fun k => k.2.matrixQ.all (fun o => o.launch != lid || o.unfinished))

/-- Cores that hold waves of a launch. -/
def State.coresOf (s : State) (lid : Nat) : List Nat := (s.wavesOf lid).foldl (fun l e => addNew l e.2.core) []

/-- A step of a victim's release is due: its write-backs are sent, or have all performed. -/
def State.victimDue (s : State) (lid : Nat) : Bool :=
  s.releaseDue lid &&
  (match (s.launch? lid).bind (fun l => l.relAt) with
    | none => true
    | some n => (s.coresOf lid).all (fun c => s.backsDone c n))

/-- VICTIM_RELEASE (R271, R290): the release of the saved waves is made, then the image is written and the cores are released. -/
def execVictimRelease (lid : Nat) (s : State) : Out :=
  if !s.victimDue lid then .next s
  else
    match s.launch? lid with
    | none => .next s
    | some l =>
      if l.relAt = none then
        let s := (s.coresOf lid).foldl (fun s c => s.saveRelease c l.asid) s
        .next (s.updLaunch lid (fun l => { l with relAt := some s.nextId }))
      else
      let img := s.imageOf lid (l.image.getD SaveImage.empty)
      let s := (s.removeLaunch lid).dropEngines (fun l => l == lid)
      .next (s.updLaunch lid (fun l => { l with at_ := .saved, acceptedAt := s.dcc, image := some img, relAt := none }))

/-! ### Restore (R289, R291) -/

/-- The part goes on at its saved point. -/
def resumePart (now : Nat) (p : Part) : Part :=
  { p with park := .running, lastIssue := now, notBefore := now + 16, forcedSave := false
           confLeft := p.confLeft.map (fun e => (e.1, now + e.2)) }

/-- A restored wave: its unnamed registers were written as zero. -/
def resumeWave (now : Nat) (w : Wave) : Wave :=
  { w with pend := false, saved := false
           dirty := ((waveUnits w).filter (fun u => !unitNamed w u.1 u.2.1 u.2.2)).map unitKey
           parts := w.parts.map (resumePart now) }

/-- A key of a table moved by a list of (old, new). -/
def remap {α : Type} (m : List (Nat × Nat)) (t : List (Nat × α)) : List (Nat × α) :=
  t.foldl (fun acc e => putT acc (getT e.1 m e.1) e.2) []

/-- Old and new slots of a place. -/
def Place.slots (p : Place) : List (Nat × Nat) := p.waves.map (fun w => (w.1, w.2.2.2))
def placeOf (ps : List (Nat × Place)) (g : Nat) : Place := getT { core := 0, waves := [], scrBase := 0, t0 := 0, frames := [] } ps g

/-- Writes an image's allocation back; the lines it does not hold are zero (R287). -/
def State.putScratch (s : State) (core base bytes : Nat) (vals : List (Nat × Byte)) : State :=
  let lo := scratchKey core base
  { s with scratch := vals.foldl (fun m e => writeByte m (lo + e.1) e.2) (clearRange s.scratch lo (lo + bytes)) }

/-- Scratch, tiles, barriers and dirty lines of a restored group. -/
def State.fillGroup (s : State) (img : SaveImage) (e : Nat × Place) : State :=
  match s.group? e.1 with
  | none => s
  | some g =>
    let p := e.2
    let core := p.core
    let s := s.putScratch core (p.scrBase * 8192) (g.scr * 8192) (getT [] img.scratch (2 * e.1))
    let runs := frameRuns (img.waves.filter (fun w => w.group == e.1))
    let s := runs.foldl (fun s r => s.putScratch core (getT 0 p.frames r.1 * 8192) (r.2 * 8192) (getT [] img.scratch (2 * r.1 + 1))) s
    let lo := accKey core p.t0 0
    let acc := (getT [] img.acc e.1).foldl (fun m b => writeByte m (lo + b.1) b.2) (clearRange s.acc lo (lo + g.nacc * 65536))
    let zeroed := fun (key base bytes : Nat) =>
      ((List.range (bytes / 256)).filter (fun i => !img.validLines.contains (key, i))).map (fun i => base * 32 + i)
    ({ s with acc := acc }).updGroup e.1 (fun g =>
      { g with
        barriers := g.barriers.map (fun (b : Nat × Barrier) => (b.1, { b.2 with arrived := remap p.slots b.2.arrived }))
        dirtyLines := zeroed (2 * e.1) p.scrBase (g.scr * 8192) ++
          runs.flatMap (fun (r : Nat × Nat) => zeroed (2 * r.1 + 1) (getT 0 p.frames r.1) (r.2 * 8192)) })

/-- Where the scratch area that began at a byte of the old core begins now: the group's own, or a callee's. -/
def SaveImage.movedBase (img : SaveImage) (p : Place) (group base : Nat) : Nat :=
  let fs := (img.waves.filter (fun w => w.group == group)).flatMap (fun w => w.parts.flatMap (fun q => q.frames))
  match fs.find? (fun f => f.scrBase * 8192 == base && f.cscr != 0) with
  | some f => getT f.scrBase p.frames f.uid * 8192
  | none => p.scrBase * 8192

/-- Reissues a discarded copy of a core whole: same ticket, new promise (10 R247). What younger copies have written in memory and in
its own scratch stays theirs (R239). -/
def State.reissueCopy (s : State) (img : SaveImage) (places : List (Nat × Place)) (core : Nat) (o : CopyOp) : State :=
  let p := placeOf places o.group
  let t := s.promise p.core o.record
  let base := img.movedBase p o.group o.scrBase
  let old := { o with slot := getT o.slot p.slots o.slot, promise := t, issued := s.dcc, due := s.copyTime p.core o.asid o.dir o.record.toNat t o.origin, status := .running
                      scrBase := base, recBytes := [], moved := 0
                      newer := o.newer.filterMap (fun e =>
                        let lo := 2 * scratchKey core o.scrBase
                        if e.1 = 0 then some e
                        else if e.1 = 1 ∧ lo ≤ e.2.1 ∧ e.2.1 < lo + 2 * o.scrBytes then some (1, e.2.1 - lo + 2 * scratchKey p.core base, e.2.2)
                        else none) }
  s.updCore p.core (fun k => { k with copyQ := k.copyQ ++ [old] })

/-- The stream of a requeued operation: it reads on from the k-step its array stopped at, or the reader of its band does, from the
lowest that a sharing core stopped at (R247, R248). -/
def State.requeueStream (s : State) (core : Nat) (o : MmaOp) (isA : Bool) : State × MmaOp :=
  let j := (o.stream isA).steps
  if o.steps ≤ j then (s, o)
  else
    let s := (s.sharers core o isA).foldl (fun s e => s.updStream e.1 e.2.id isA (fun x => { x with steps := min x.steps j })) s
    (s, s.joinStream core o isA)

/-- Requeues a stopped array operation. -/
def State.requeueMma (s : State) (places : List (Nat × Place)) (o : MmaOp) : State :=
  let p := placeOf places o.group
  let busy := (s.core p.core).matrixQ.any MmaOp.unfinished
  let o := { o with slot := getT o.slot p.slots o.slot, t0 := p.t0, scrBase := p.scrBase * 8192, start := if busy then 0 else s.dcc + 16 }
  let a := s.requeueStream p.core o true
  let b := a.1.requeueStream p.core a.2 false
  b.1.updCore p.core (fun k => { k with matrixQ := k.matrixQ ++ [b.2] })

/-- LAUNCH_RESTORE (R271, R291). -/
def execLaunchRestore (lid : Nat) (s : State) : Out :=
  match s.launch? lid with
  | none => .next s
  | some l =>
    if l.at_ ≠ .saved then .next s
    else
      match s.restoreAt lid l, l.image with
      | some e, some img =>
        match s.restoredAt lid l e with
        | none => .next s
        | some (s, places) =>
          let s := places.foldl (fun s p => s.fillGroup img p) s
          let s := { s with waves := s.waves.map (fun (w : Nat × Wave) => if w.2.launch = lid then (w.1, resumeWave s.dcc w.2) else w) }
          let s := img.copies.foldl (fun s o => s.reissueCopy img places o.1 o.2) s
          let s := img.matrix.foldl (fun s o => s.requeueMma places o.2) s
          -- its parts read nothing older than what they read before they were saved (09 R212, R213; DEDUCED, notes/assumptions/24.md)
          let s := (rectCores e.1 e.2 l.logw l.logh).foldl (fun s c => (s.reserveCore c).invalidateClean c) s
          .next (s.updLaunch lid (fun v =>
            let slotsOf := fun (rel : Nat) => (places.filter (fun p => v.rel p.2.core == rel)).flatMap (fun p => p.2.slots)
            { v with
              at_ := .placed
              waited := l.waited + (s.dcc - l.acceptedAt)
              acceptedAt := s.dcc
              protectedUntil := if l.due then some (s.dcc + s.quantum / 8) else none
              ready := s.dcc
              stealing := []
              rbars := v.rbars.map (fun (r : Nat × RbarCore) => (r.1, { r.2 with arrived := remap (slotsOf r.1) r.2.arrived }))
              deques := v.deques }))
      | _, _ => .next s

end Sys2Proof.Machine
end

