-- ==== Sys2Proof/Machine/Waits.lean ====
section
/-! DEFINITION. Fetch of an instruction and the traps that precede its meaning (05 R97, R113, R114, R120), the conditions that
parked parts wait for, and the events that end waits without an issue (03 R58, R60, R65; 09 R227; 22 R490). -/

namespace Sys2Proof.Machine

/-! ### Fetch (R97) -/

/-- What a fetch finds. -/
inductive Fetched where
  | instr (i : Instr)
  /-- the opcode is reserved -/
  | reserved
  /-- E or a field of word `i` is not allowed; word 0 -/
  | illegal (i w0 : Nat)
  /-- the word at an address is on a page that is not present: log2 of the extent -/
  | missing (va ext : Nat)
  /-- the word at an address fails with an ACCESS detail -/
  | failed (va detail : Nat)
  /-- a table entry or the word stands on a line that another agent has pinned: it is read again (09 R221) -/
  | again
  deriving DecidableEq, Repr

/-- One word through the core's TLBs. -/
def State.fetchWord (s : State) (core : Nat) (asid : BitVec 16) (va : Nat) : State × Except Fetched (List Byte) :=
  if 2 ^ 57 ≤ va then (s, .error (.failed va 5))
  else if s.lookPins core false asid va ≠ [] then (s.refuseAll (s.lookPins core false asid va), .error .again)
  else
    match s.translate core false asid va with
    | (s, .leaf pte p) =>
      let pa := paOf pte p va
      match s.leafFault .fetch pte pa with
      | some d => (s, .error (.failed va d))
      | none => if s.pinned (some core) pa then (s.refuse pa, .error .again) else (s, .ok (readBytes s.mem pa 4))
    | (s, .nonPresent x) => (s, .error (.missing va x))
    | (s, .malformed) => (s, .error (.failed va 3))

/-- What the decoder makes of the words fetched. -/
def fetchedOf (bs : List Byte) : Fetched :=
  match decodeBytes bs with
  | .instr i => .instr i
  | .bad .reserved => .reserved
  | .bad (.eRequirement _) => .illegal 0 (natOfBytes (bs.take 4))
  | .bad (.field n _) => .illegal n (natOfBytes (bs.take 4))

/-- The instruction at an address: its second word is fetched when E is set and the opcode is not reserved. -/
def State.fetch (s : State) (core : Nat) (asid : BitVec 16) (pc : W64) : State × Fetched :=
  match s.fetchWord core asid pc.toNat with
  | (s, .error e) => (s, e)
  | (s, .ok b0) =>
    if natOfBytes b0 / 2 ^ 30 % 2 = 0 then (s, fetchedOf b0)
    else
      match s.fetchWord core asid (pc.toNat + 4) with
      | (s, .error e) => (s, e)
      | (s, .ok b1) => (s, fetchedOf (b0 ++ b1))

/-- The opcode of a word names a privileged instruction, or a privileged system register (05 R133, 04 R90). -/
def privilegedWord (w : Nat) : Bool :=
  let op := w / 2 ^ 22 % 256
  let idx := w / 2 ^ 10 % 4 * 64 + w / 2 ^ 4 % 64
  op == 0xF2 || op == 0xF3 || ((op == 0xF0 || op == 0xF1) && privIndex idx)

/-- The trap of a word that E or a field makes illegal: PRIV comes before it (R114). -/
def State.illegalWord (s : State) (c : Ctx) (i w0 : Nat) : State :=
  if privilegedWord w0 && !c.part.regs.privseg then s.precise c tcPriv 0 0 else s.precise c tcIllegal 0 (wordAddr c i)

/-- The part's segment is privileged: that of the loaded segment that holds its PC; outside every loaded segment, that of the segment
it entered last (04 R90, R92; DESIGN CHOICE, notes/assumptions/57.md). -/
def State.segPriv (s : State) (p : Part) : Bool :=
  match s.pkg.segments.find? (fun g => g.spans p.regs.asid p.pc.toNat) with
  | some g => g.privseg
  | none => p.regs.privseg

/-- The turn of a part begins: it is the one that issues, in the segment of its PC. -/
def State.beginTurn (s : State) (r : PartRef) : State :=
  { s with cur := some r }.updPart r (fun p => { p with regs := { p.regs with privseg := s.segPriv p } })

/-- RESERVED_OPCODE (R120). -/
def execReservedOpcode (s : State) : Out :=
  match s.issuing with
  | none => .fault .noIssuingPart
  | some c => .next (s.precise c tcIllegal 0 (wordAddr c 0))

/-- INSTRUCTION_FETCH_FAULT (R97): a page that is not present parks the part on its record's ticket. -/
def execInstructionFetchFault (s : State) : Out :=
  match s.issuing with
  | none => .fault .noIssuingPart
  | some c =>
    let core := c.ref.core
    let asid := c.part.regs.asid
    match s.fetch core asid c.part.pc with
    | (s, .missing va x) =>
      match s.postFault core asid va x 4 c.ref.slot with
      | (s, some (die, t)) => .next (s.parkOn c (.ticket die t va))
      | (s, none) => .next (s.parkOn c (.time (s.dcc + 1)))
    | (s, .failed va d) => .next (s.precise c tcAccess d (BitVec.ofNat 64 va))
    | _ => .next s

/-- The part may be selected, as far as its park and its timing go. -/
def State.ready (s : State) (core : Nat) (p : Part) : Bool :=
  decide (p.notBefore ≤ s.dcc) && !p.stopped &&
  (match p.park with
    | .running => true
    | .on w => s.holds core p w
    | _ => false)

/-! ### Ends of waits -/

/-- A wait at `conf` is over: its deadline has come, or its buddy block cannot become present (R60, R61). -/
def State.confDue (s : State) (w : Wave) (p : Part) : Bool :=
  match p.park with
  | .conf _ t => decide (t ≤ s.dcc) || w.confHopeless p
  | _ => false
/-- CONF_TIMEOUT. -/
def execConfTimeout (p : PartRef) (s : State) : Out :=
  match s.ctx? p with
  | none => .next s
  | some c =>
    -- after a fusion in this cycle the next issue is still two cycles later (R61)
    .next (if s.confDue c.wave c.part then
      s.updPart p (fun q => { q.passConf s.dcc 1 with lastIssue := q.lastIssue, notBefore := max (s.dcc + 1) q.notBefore }) else s)

/-- The 32nd cycle of a park at an S marker ends (R58). -/
def State.missDue (s : State) (p : Part) : Bool :=
  p.park == .on .ldZero && p.ldOps != [] && policyOn p p.regs.miss && decide (minWidth p < p.width) && p.waiting == 0
  && decide (p.parkedAt + 31 ≤ s.dcc)
/-- MISS_SPLIT. -/
def execMissSplit (p : PartRef) (s : State) : Out :=
  match s.ctx? p with
  | none => .next s
  | some c => .next (if s.missDue c.part then s.divideOnMiss p c.wave c.part else s)

/-- The FUSEFAIL of a part at a forced-fuse point: of its block, or, of a part as wide as that, of its own waiting lanes (R57, R65). -/
def State.fuseFailDue (s : State) (w : Wave) (p : Part) : Option (Nat × Nat) :=
  match p.park with
  | .forced eff => if eff ≤ p.width then s.maskedFail w.core p else s.fuseFailOf w p eff
  | _ => none
/-- FUSEFAIL. -/
def execFusefail (p : PartRef) (s : State) : Out :=
  match s.ctx? p with
  | none => .next s
  | some c =>
    match s.fuseFailDue c.wave c.part with
    | some (d, l) => .next (s.precise c tcFusefail d (BitVec.ofNat 64 (l / 4 * 4)))
    | none => .next s

/-- SLEEP_WAKE (R490). -/
def State.sleepDue (s : State) (p : Part) : Bool := match p.park with | .sleep t => decide (t ≤ s.dcc) | _ => false
def execSleepWake (p : PartRef) (s : State) : Out :=
  match s.ctx? p with
  | none => .next s
  | some c =>
    .next (if s.sleepDue c.part then
      s.updPart p (fun q => { q.moveTo (c.next 4) with park := .running, notBefore := max q.notBefore s.dcc }) else s)

/-- PWAIT_WAKE (R227). -/
def State.pwaitDue (s : State) (p : Part) : Bool := match p.park with | .pwait t _ _ => promiseDue s.dcc t | _ => false
def execPwaitWake (p : PartRef) (s : State) : Out :=
  match s.ctx? p with
  | none => .next s
  | some c =>
    match c.part.park with
    | .pwait _ ticket v =>
      if !s.pwaitDue c.part then .next s
      else match c.part.copyFailure ticket with
        | some d => .next (s.deliverAny c d)
        | none => .next (s.endPwait c ticket v)
    | _ => .next s

end Sys2Proof.Machine
end

