-- ==== Sys2Proof/Machine/Ecc.lean ====
section
/-! DEFINITION. Uncorrectable errors as parts see them (12 R284). -/

namespace Sys2Proof.Machine

/-- A part's next instruction is restarted, and not trapped at, by an error of its operands: it has a block above 1×1, or is
`accrd`, `chsend` or `chrecv`. -/
def restartsOnEcc (i : Instr) : Bool :=
  match i with
  | .accrd _ _ => true
  | .chsend _ => true
  | .chrecv _ => true
  | .moviXi _ _ => false
  | _ =>
    match encode i with
    | [w0, x] =>
      let op := (opOf w0).toNat
      -- the groups whose XA word holds a block shape (05 R102)
      decide (0x40 ≤ op) && decide (op < 0x90) && ((xaOf x).bh != 0 || (xaOf x).bw != 0)
    | _ => false

/-- Counts an uncorrectable error that a part of the die is told of (18 R380). -/
def State.countUncorrected (s : State) (core : Nat) : State := s.updDie (dieOf core) (fun d => { d with uecnt := d.uecnt + 1 })
/-- Counts a corrected error of a die; the count stays at its greatest value (18 R380, R390). -/
def State.countCorrected (s : State) (die : Nat) : State :=
  s.updDie die (fun d => { d with cecnt := if d.cecnt = BitVec.allOnes 32 then d.cecnt else d.cecnt + 1 })

/-- An error in a part's registers or scratch (DETAIL 1, 2). A part that is to be restarted while an operation of it is performing
has stopped issue, and takes its trap when that has ended (R283). -/
def State.eccOperand (s : State) (r : PartRef) (detail : Nat) (taddr : W64) : State :=
  match s.ctx? r with
  | none => s
  | some c =>
    if (match s.instrAt r.core c.part.regs.asid c.part.pc with | some i => restartsOnEcc i | none => false) then
      if !s.restartReady c.part then
        { s.updPart r (fun p => { p with stopped := true }) with inputs := (s.dcc + 1, .ecc r detail taddr) :: s.inputs }
      else
        let s := s.restartPart r
        match s.part? r with
        | none => s
        | some p =>
          (s.countUncorrected r.core).takeTrap r
            { code := tcEcc, detail := detail, taddr := taddr, tword := p.region, resume := p.region, restart := true }
    else (s.countUncorrected r.core).precise c tcEcc detail taddr

/-- An error in accumulator memory ends the part's oldest array operation, and reports the tile that failed (DETAIL 3). -/
def State.eccTile (s : State) (r : PartRef) (tile : Nat) : State :=
  match s.part? r with
  | none => s
  | some p =>
    match (s.core r.core).matrixQ.find? (fun o => p.mxOps.contains o.id && o.unfinished) with
    | none => s
    | some o =>
      let s := ((s.countUncorrected r.core).failMma r.core o tcEcc 3).updMma r.core o.id (fun o => { o with badTile := some tile })
      if o.status = .running then s.arrayDone r.core o 0 else s

/-- A memory error at an address meets an access of a load that has not ended: its own bytes, or what its texture or ray lane has read. -/
def MemOp.hitBy (o : MemOp) (va : Nat) (a : Access) : Bool :=
  !a.ended &&
  (match o.kind with
    | .unit _ _ _ _ => o.reads.any (fun e => e.1 == a.lane && overlaps e.2.1 e.2.2 va 1)
    | _ => overlaps a.va a.size va 1)

/-- An error in memory on a load: the load is rejected at the address, in whichever part holds its failure (DETAIL 4; R69). -/
def State.eccLoad (s : State) (r : PartRef) (va : Nat) : State :=
  match s.part? r with
  | none => s
  | some p =>
    match s.ops.find? (fun o => p.ldOps.contains o.id && o.accs.any (o.hitBy va)) with
    | none => s
    | some o =>
      let told := match s.opWave o with
        | some w => w.parts.any (fun q => q.held.any (fun d => d.op == o.id))
        | none => true
      let s := (s.countUncorrected r.core).failAccesses o.id 4 16 (o.hitBy va)
      if told then s
      else s.updWave r.key (fun w => { w with parts := w.parts.map (fun (q : Part) => { q with held := q.held.map (fun (d : Delivery) =>
        if d.op = o.id then { d with code := BitVec.ofNat 8 tcEcc, taddr := BitVec.ofNat 64 va } else d) }) })

/-- An uncorrectable error seen by a part. -/
def State.eccHit (s : State) (r : PartRef) (detail : Nat) (taddr : W64) : State :=
  if detail = 1 ∨ detail = 2 then s.eccOperand r detail taddr
  else if detail = 3 then s.eccTile r taddr.toNat
  else s.eccLoad r taddr.toNat

end Sys2Proof.Machine
end

