-- ==== Sys2Proof/Machine/Verify.lean ====
section
/-! DEFINITION. The verifier of native code (16 R358-R363, R364): the operands that an instruction's words fix, the two sweeps
over a kernel's range, and the resource floor. A failure is a load-status code and the offset of the offending word. -/

namespace Sys2Proof.Machine

/-! ### Operands that the words fix (R359) -/

/-- A vector operand as the words fix it: its position (0 D, 1 A, 2 B, 3 C), whether it is a destination, whether it is
indirect, and its extent from its base field. -/
structure StatOp where
  pos : Nat
  write : Bool
  ind : Bool
  v : Vop
  deriving DecidableEq, Repr

/-- An operand of an XA instruction. -/
def statXa (x : XaWord) (block : Bool) (pos : Nat) (write : Bool) (f : BitVec 7) (ind : Bool) (ty : Nat) : StatOp :=
  { pos := pos, write := write, ind := ind
    v := { f := f.toNat, rows := if block then 2 ^ x.bh.toNat else 1, cols := if block then 2 ^ x.bw.toNat else 1, unit := unitOf ty } }
/-- `n` consecutive registers. -/
def statRun (pos : Nat) (write : Bool) (f : BitVec 7) (n : Nat) : StatOp :=
  { pos := pos, write := write, ind := false, v := { f := f.toNat, unit := n } }

/-- The type that an absent XA word stands for (05 R112, R122-R130). -/
def defaultTy (op : Nat) : Nat :=
  if op = 0x92 ∨ op = 0x93 ∨ (0x40 ≤ op ∧ op ≤ 0x47) ∨ op = 0x52 ∨ op = 0x57 ∨ op = 0x58 then 1
  else if (0x60 ≤ op ∧ op ≤ 0x71) ∨ op = 0x85 ∨ op = 0x96 ∨ op = 0x97 ∨ (0xE0 ≤ op ∧ op ≤ 0xE3) ∨ op = 0xE8 ∨ op = 0xE9 then 3
  else 0
/-- The XA word of an instruction. -/
def xaHere (w0 w1 : W32) : XaWord := if eOf w0 then xaOf w1 else xaDefault (defaultTy (opOf w0).toNat)

/-- Vector operands of the integer, float and conversion groups. -/
def statArith (op : Nat) (r : RWord) (x : XaWord) : List StatOp :=
  let ty := x.ty.toNat
  let two := decide (op ≤ 0x46) || (decide (0x48 ≤ op) && decide (op ≤ 0x4E)) || [0x52, 0x53, 0x54, 0x57, 0x58, 0x6A, 0x71, 0x83].contains op
    || (decide (0x60 ≤ op) && decide (op ≤ 0x66))
  let dty := if op = 0x70 ∨ op = 0x81 then 0 else ty
  let sty := if op = 0x80 then x.sub.toNat else if op = 0x82 then 0 else ty
  let bty := if op = 0x71 then 1 else ty
  if op = 0x56 then [statRun 0 true r.d 1]
  else
    (if op = 0x57 ∨ op = 0x66 ∨ op = 0x85 then [] else [statXa x true 0 true r.d x.xd dty])
    ++ (if x.au then [] else [statXa x true 1 false r.a x.xa sty])
    ++ (if two && !r.k then [statXa x true 2 false r.b x.xb bty] else [])
    ++ (if (op = 0x44 ∨ op = 0x53 ∨ op = 0x63) ∧ !x.cu then [statXa x true 3 false x.c x.xb ty] else [])
/-- Vector operands of the cross-lane group. -/
def statCross (op : Nat) (r : RWord) (x : XaWord) : List StatOp :=
  let ty := x.ty.toNat
  (if op = 0x91 ∨ op = 0x94 then [] else [statXa x false 0 true r.d x.xd ty])
  ++ (if op = 0x91 ∨ op = 0x95 then [] else [statXa x false 1 false r.a x.xa ty])
  ++ (if op = 0x90 ∧ !r.k then [statXa x false 2 false r.b x.xb 2] else [])
/-- Vector operands of the memory group. -/
def statMem (op : Nat) (m : MWord) (sz sub : Nat) : List StatOp :=
  let u := if sz = 4 then 4 else if sz = 3 then 2 else 1
  (if op = 0xA0 ∨ op = 0xA2 then [statRun 0 true m.d u]
    else if op = 0xA1 ∨ op = 0xA3 then [statRun 0 false m.d u]
    else if op = 0xA4 ∨ op = 0xA5 then [statRun 0 (!m.nr) m.d u] ++ (if sub = 1 then [statRun 0 false m.d (2 * u)] else [])
    else [])
  ++ (match mOffset m with
    | some o => if op = 0xA6 then [] else [{ pos := 1, write := false, ind := false, v := o }]
    | none => [])
/-- Vector operands of the graphics and ray group; only the base where the count is known at run time alone. -/
def statGfx (op : Nat) (r : RWord) (x : XaWord) : List StatOp :=
  let wide := x.ty == 6
  match op with
  | 0xE3 => [statRun 0 true r.d 1, statRun 1 false r.a 2]
  | 0xE4 => []
  | 0xE5 => [statRun 1 false r.a 4]
  | 0xE6 => [statRun 1 false r.a 1, statRun 2 false r.b 1]
  | 0xE7 => [statRun 1 false r.a 3]
  | 0xE8 => [statRun 0 true r.d 8, statRun 1 false r.a (if wide then 17 else 9)]
  | 0xE9 => [statRun 1 false r.a (if wide then 2 else 1)]
  | 0xEA => [statRun 0 true r.d 4, statRun 1 false r.a 1]
  | _ => [statRun 0 true r.d 4, statRun 1 false r.a 1]

/-- Vector operands of an instruction; `imports` gives a gate's NARG and NRES where the kernel declares it. -/
def statOps (imports : List (Nat × Nat × Nat)) (w0 w1 : W32) : List StatOp :=
  let op := (opOf w0).toNat
  let r := rOf w0
  let x := xaHere w0 w1
  if op = 0x0B then
    match imports.find? (fun i => i.1 == w1.toNat) with
    | some i => (if i.2.2 = 0 then [] else [statRun 0 true r.d i.2.2]) ++ (if i.2.1 = 0 then [] else [statRun 1 false r.a i.2.1])
    | none => [statRun 0 true r.d 1, statRun 1 false r.a 1]
  else if op = 0x0C then [statRun 1 false r.a 1]
  else if op < 0x40 then []
  else if op < 0x90 then statArith op r x
  else if op < 0xA0 then statCross op r x
  else if op < 0xC0 then statMem op (mOf w0) (if eOf w0 then (xmOf w1).sz.toNat else 2) (if eOf w0 then (xmOf w1).sub.toNat else 0)
  else if op = 0xC5 ∨ op = 0xD7 then [statRun 0 true r.d 1]
  else if op = 0xC6 ∨ op = 0xD6 then [statRun 1 false r.a 1]
  else if 0xE0 ≤ op ∧ op ≤ 0xEA then statGfx op r x
  else []

/-- Uniform registers that an instruction reads or writes; a field that the form leaves unused names none. -/
def statUniforms (w0 w1 : W32) : List Nat :=
  let op := (opOf w0).toNat
  let u := uOf w0
  let r := rOf w0
  let x := xaHere w0 w1
  let d := u.d.toNat
  let a := u.a.toNat
  let b := if u.k then [] else [u.b.toNat]
  let bu := (mOf w0).bu.toNat
  if op = 0xF2 then (if d % 4 = 0 then [a] else []) ++ (if d % 4 < 2 then [u.b.toNat] else [])
  else if op = 0xA7 ∧ eOf w0 ∧ (xmOf w1).sub = 3 then []
  else if [0x04, 0x06, 0x11, 0x12, 0x14, 0xDB, 0xF3].contains op then [a]
  else if op = 0x10 then (if u.k then [] else [a])
  else if op = 0x05 then [63]
  else if (0x20 ≤ op ∧ op ≤ 0x2B) ∨ op = 0x2F then d :: a :: b
  else if op = 0x2C ∨ op = 0x31 ∨ op = 0x32 ∨ op = 0xD9 then [d, a]
  else if op = 0x2D ∨ op = 0x2E ∨ op = 0xF0 ∨ op = 0xF1 then [d]
  else if op = 0x30 then d :: a :: x.c.toNat :: b
  else if 0x40 ≤ op ∧ op < 0x90 then
    if op = 0x56 then [] else (if x.au then [r.a.toNat] else []) ++ (if x.cu then [x.c.toNat] else [])
  else if op = 0x91 then (if x.sub = 2 then [r.d.toNat] else [])
  else if op = 0x94 then [r.d.toNat]
  else if op = 0x95 then [r.a.toNat]
  else if 0xA0 ≤ op ∧ op ≤ 0xA8 ∧ op ≠ 0xA6 then [bu]
  else if op = 0xC0 then d :: a :: (List.range 4).map (fun i => u.b.toNat + i)
  else if op = 0xC1 then [a, u.b.toNat, u.b.toNat + 1]
  else if op = 0xD8 then [a, u.b.toNat]
  else if op = 0xDA then (List.range 8).map (fun i => a + i)
  else if (0xE0 ≤ op ∧ op ≤ 0xE2) ∨ op = 0xE8 then [bu, bu + 1]
  else if op = 0xEA then [bu]
  else []

/-- Instructions of the LD class (05 R117). -/
def isLdClass (w0 : W32) : Bool :=
  let op := (opOf w0).toNat
  [0xA0, 0xA2, 0xE0, 0xE1, 0xE2, 0xE8, 0xEA, 0x31, 0xD7, 0xD9].contains op || ((op == 0xA4 || op == 0xA5) && !(mOf w0).nr)
/-- Uniform destinations of an LD-class instruction. -/
def pendingUniforms (w0 : W32) : List Nat :=
  let op := (opOf w0).toNat
  if op = 0x31 ∨ op = 0xD9 then [(uOf w0).d.toNat] else []

/-! ### Kinds of instructions -/

/-- Length in bytes by the E bit (R95). -/
def wordLen (w0 : W32) : Nat := if eOf w0 then 8 else 4
/-- A static branch: classes J and P (R358). -/
def isStatic (w0 : W32) : Bool := [0x01, 0x02, 0x03, 0x05].contains (opOf w0).toNat
def isBranch (w0 : W32) : Bool := isStatic w0 || [0x04, 0x06].contains (opOf w0).toNat
/-- Offset of a static branch's target. -/
def staticTarget (a : Nat) (w0 : W32) : Int :=
  let o : Int := if (opOf w0).toNat = 0x01 ∨ (opOf w0).toNat = 0x05 then (jOf w0).off.toInt else (pOf w0).off.toInt
  (a : Int) + 4 * o
/-- Unconditional transfers (R359). -/
def isTransfer (w0 : W32) : Bool := [0x01, 0x04, 0x06, 0x09, 0x16].contains (opOf w0).toNat
/-- Kinds that R118 names, beside branch targets. -/
def mustCarryS (w0 : W32) : Bool := isBranch w0 || [0x07, 0x0B, 0x09, 0x14].contains (opOf w0).toNat
/-- The MW code of a wave-wide instruction (R62, R66), if it has one. -/
def mwCode (w0 w1 : W32) : Option Nat :=
  let op := (opOf w0).toNat
  if op = 0x08 then some ((rOf w0).b.toNat % 16)
  else if (0x90 ≤ op ∧ op ≤ 0x98) ∨ op = 0xD2 ∨ op = 0xD3 then (if eOf w0 then some (xaOf w1).mw else none)
  else if op = 0xC0 ∨ op = 0xC1 then some (xtOf w1).mw.toNat
  else none

/-! ### The first sweep (R358) -/

/-- What the verifier knows of a kernel: its range as segment offsets, its header, and its words. -/
structure VKernel where
  word : Nat → W32
  lo : Nat
  hi : Nat
  header : Nat
  w0 : Nat
  lanes : Nat
  nchan : Nat
  imports : List (Nat × Nat × Nat)
  priv : Bool

def VKernel.floor (k : VKernel) : Bool := k.w0 % 16 == 0
def VKernel.cm (k : VKernel) : Bool := k.w0 / 2 ^ 27 % 2 == 1

/-- Instruction starts from an offset to the end of the range. -/
def startsFrom (word : Nat → W32) (hi : Nat) : Nat → Nat → List Nat
  | 0, _ => []
  | fuel + 1, a => if hi ≤ a then [] else a :: startsFrom word hi fuel (a + wordLen (word a))
def VKernel.starts (k : VKernel) : List Nat := startsFrom k.word k.hi ((k.hi - k.lo) / 4) k.lo

/-- Code and offset of a failure. -/
abbrev VErr := Nat × Nat
def failIf (b : Bool) (code off : Nat) : Option VErr := if b then some (code, off) else none

/-- An instruction that no floor kernel has (R362). -/
def beyondFloor (w0 w1 : W32) : Bool :=
  let op := (opOf w0).toNat
  let x := xtOf w1
  (op == 0xC1 && (x.co || x.aty == 7 || x.bty == 7)) || (op == 0xC0 && decide (2 ≤ x.sub.toNat)) || (decide (0xE0 ≤ op) && decide (op ≤ 0xEA))
    || ((op == 0xF0 || op == 0xF1) && ((uOf w0).index == 0x12 || (uOf w0).index == 0x14))

/-- The checks of one instruction in the first sweep. -/
def VKernel.check1 (k : VKernel) (starts : List Nat) (a : Nat) : Option VErr :=
  let w0 := k.word a
  let w1 := k.word (a + 4)
  let op := (opOf w0).toNat
  let bad := match decode w0 w1 with
    | .instr _ => none
    | .bad (.field i _) => some (3, a + 4 * i)
    | .bad _ => some (3, a)
  let wide := match mwCode w0 w1 with
    | some c => headerWidth k.w0 != 0 && c != 0 && decide (headerWidth k.w0 < 2 ^ (c + 1))
    | none => false
  let cross := decide (0x90 ≤ op) && decide (op ≤ 0x98)
  let t := staticTarget a w0
  let last := decide (k.hi ≤ a + wordLen w0)
  (failIf (decide (k.hi < a + wordLen w0)) 4 a)
  <|> bad
  <|> failIf (isStatic w0 && !(decide (0 ≤ t) && starts.contains t.toNat)) 4 a
  <|> failIf (last && !isTransfer w0 && op != 0x0C) 4 a
  <|> failIf (op == 0x07 && (starts.takeWhile (fun b => b != a)).any (fun b => (opOf (k.word b)).toNat == 0x07 && (rOf (k.word b)).b.toNat % 16 == (rOf w0).b.toNat % 16)) 9 a
  <|> failIf (op == 0x0A && a != k.lo) 10 a
  <|> failIf (op != 0x0A && a == k.lo) 10 a
  <|> failIf wide 11 a
  <|> failIf (!k.priv && (op == 0xF2 || op == 0xF3 || ((op == 0xF0 || op == 0xF1) && decide (0x20 ≤ (uOf w0).index)))) 12 a
  <|> failIf (decide (0xC1 ≤ op) && decide (op ≤ 0xC6) && decide (headerNacc k.w0 ≤ (xtOf w1).tile.toNat)) 13 a
  <|> failIf ((op == 0xD6 || op == 0xD7) && decide (k.nchan ≤ (rOf w0).b.toNat)) 13 a
  <|> failIf (k.floor && beyondFloor w0 w1) 14 a
  <|> failIf (k.cm && cross && !((mwCode w0 w1).getD 0 == 0 || (mwCode w0 w1).getD 0 == 3)) 16 a

/-- Header rules of the floor and of compatibility mode (R362, R364). -/
def VKernel.checkHeader (k : VKernel) : Option VErr :=
  failIf (k.floor && (decide (128 < headerAllot k.w0) || decide (32 < headerScr k.w0) || decide (8 < headerNbar k.w0)
      || decide (4 < headerNacc k.w0) || headerWidth k.w0 == 0 || decide (32 < headerWidth k.w0))) 14 k.header
  <|> failIf (k.cm && (widthCode k.w0 != 4 || k.w0 % 16 != 3)) 16 k.header
  <|> failIf (k.cm && k.lanes % 32 != 0) 16 (k.header + 8)

/-- The first sweep over a kernel's range. -/
def VKernel.sweep1 (k : VKernel) : Option VErr :=
  let st := k.starts
  k.checkHeader <|> st.findSome? (k.check1 st)

/-! ### The second sweep (R359-R361) -/

/-- The state the second sweep carries. -/
structure VState where
  /-- the window base; none when unknown -/
  wb : Option Nat
  ta : Nat
  pend : List Nat
  pendU : List Nat
  armed : List Nat
  deriving DecidableEq, Repr

/-- The state at a range start (R359). -/
def VKernel.fresh (k : VKernel) : VState := { wb := some 0, ta := headerAllot k.w0, pend := [], pendU := [], armed := [] }

/-- Registers an operand names under a window base. -/
def StatOp.regs (o : StatOp) (wb : Nat) : List Nat := o.v.fields.map (fun e => if o.v.f < 16 ∧ e < 16 then e else wb + e)
/-- The operand depends on the window. -/
def StatOp.windowed (o : StatOp) : Bool := o.v.fields.any (fun e => decide (16 ≤ e))
/-- An operand reaches a register at or above TA; an indirect one is checked at its base field. -/
def StatOp.beyond (o : StatOp) (wb ta : Nat) : Bool :=
  if o.ind then decide (ta ≤ regNumber wb o.v.f) else (o.regs wb).any (fun r => decide (ta ≤ r))

/-- Nothing is pending. -/
def VState.settled (v : VState) : Bool := v.pend == [] && v.pendU == []
/-- The instruction reads or writes something pending (R360). -/
def VState.touches (v : VState) (ops : List StatOp) (us : List Nat) : Bool :=
  ops.any (fun o => if o.ind then !v.settled else (o.regs (v.wb.getD 0)).any v.pend.contains) || us.any v.pendU.contains
/-- The instruction must carry S, whether it is a branch target or not (R360). -/
def VKernel.needsS (k : VKernel) (v : VState) (target : Bool) (w0 w1 : W32) : Bool :=
  let op := (opOf w0).toNat
  v.touches (statOps k.imports w0 w1) (statUniforms w0 w1) || (!v.settled && (mustCarryS w0 || target))
    || (op == 0xD4 && v.pend.any (fun r => decide (v.ta - w1.toNat ≤ r)))

/-- The pending set is covered by an S marker. -/
def VState.cover (v : VState) (s : Bool) : VState := if s then { v with pend := [], pendU := [] } else v
/-- The state after an instruction. -/
def VKernel.after (k : VKernel) (v : VState) (w0 w1 : W32) : VState :=
  let op := (opOf w0).toNat
  let b := (rOf w0).b.toNat
  let v := v.cover (op == 0x07 || (op == 0xC7 && (rOf w0).d == 0 && (rOf w0).b == 0))
  if op = 0x13 then { v with wb := some (16 * b) }
  else if op = 0xF1 ∧ (uOf w0).index = 0x05 then { v with wb := none }
  else if op = 0xD4 then { v with ta := v.ta - w1.toNat }
  else if op = 0xD5 then { v with ta := v.ta + w1.toNat }
  else if op = 0xD0 then { v with armed := addNew v.armed b }
  else if op = 0xD1 then { v with armed := v.armed.filter (fun i => i != b) }
  else if isLdClass w0 then
    let ds := ((statOps k.imports w0 w1).filter (fun o => o.write)).flatMap (fun o => o.regs (v.wb.getD 0))
    { v with pend := ds.foldl addNew v.pend, pendU := (pendingUniforms w0).foldl addNew v.pendU }
  else v

/-- A target's TA and armed set: as forward branches recorded them, or as the sweep found them there. -/
structure VMark where
  at_ : Nat
  ta : Nat
  armed : List Nat
  deriving DecidableEq, Repr

/-- Where the second sweep stands: the state, whether an unconditional transfer came just before, and the marks. -/
structure VAcc where
  v : VState
  cut : Bool
  recorded : List VMark
  seen : List VMark

def meet (a b : List Nat) : List Nat := a.filter b.contains

/-- The state at an instruction (R359, R361), or TA in disagreement. -/
def VKernel.enter (k : VKernel) (acc : VAcc) (a : Nat) : Except VErr VState :=
  if a = k.lo ∨ (opOf (k.word a)).toNat = 0x0D then .ok k.fresh
  else
    match acc.recorded.find? (fun m => m.at_ == a), acc.cut with
    | some m, true => .ok { wb := some 0, ta := m.ta, pend := [], pendU := [], armed := m.armed }
    | some m, false => if m.ta ≠ acc.v.ta then .error (6, a) else .ok { acc.v with armed := meet acc.v.armed m.armed }
    | none, true => .ok k.fresh
    | none, false => .ok acc.v

/-- The checks of one instruction in the second sweep. -/
def VKernel.check2 (k : VKernel) (v : VState) (target : Bool) (a : Nat) : Option VErr :=
  let w0 := k.word a
  let w1 := k.word (a + 4)
  let op := (opOf w0).toNat
  let ops := statOps k.imports w0 w1
  let wb := v.wb.getD 0
  failIf ((isBranch w0 || target) && v.wb != some 0) 5 a
  <|> failIf (v.wb == none && ops.any StatOp.windowed) 5 a
  <|> failIf (ops.any (fun o => o.beyond wb v.ta)) 6 a
  <|> failIf (!sOf w0 && k.needsS v target w0 w1) 7 a
  <|> failIf ([0xD0, 0xD1, 0xD2].contains op && decide (headerNbar k.w0 ≤ (rOf w0).b.toNat)) 8 a
  <|> failIf (op == 0xD1 && !v.armed.contains (rOf w0).b.toNat) 8 a

/-- A static branch marks its target, or agrees with it (R361). -/
def markTarget (acc : VAcc) (v : VState) (a t : Nat) : Except VErr VAcc :=
  if t ≤ a then
    match acc.seen.find? (fun m => m.at_ == t) with
    | none => .ok acc
    | some m => if m.ta ≠ v.ta then .error (6, a) else if m.armed.all v.armed.contains then .ok acc else .error (8, a)
  else
    match acc.recorded.find? (fun m => m.at_ == t) with
    | none => .ok { acc with recorded := { at_ := t, ta := v.ta, armed := v.armed } :: acc.recorded }
    | some m =>
      if m.ta ≠ v.ta then .error (6, a)
      else .ok { acc with recorded := acc.recorded.map (fun (o : VMark) => if o.at_ = t then { o with armed := meet o.armed v.armed } else o) }

/-- One instruction of the second sweep. -/
def VKernel.step2 (k : VKernel) (targets : List Nat) (acc : VAcc) (a : Nat) : Except VErr VAcc :=
  match k.enter acc a with
  | .error e => .error e
  | .ok v =>
    let w0 := k.word a
    let target := targets.contains a
    match k.check2 v target a with
    | some e => .error e
    | none =>
      let acc := if target then { acc with seen := { at_ := a, ta := v.ta, armed := v.armed } :: acc.seen } else acc
      match (if isStatic w0 then markTarget acc v a (staticTarget a w0).toNat else .ok acc) with
      | .error e => .error e
      | .ok acc =>
        let v' := k.after (v.cover (sOf w0)) w0 (k.word (a + 4))
        if k.floor ∧ 128 < v'.ta then .error (14, a) else .ok { acc with v := v', cut := isTransfer w0 }
def VKernel.run2 (k : VKernel) (targets : List Nat) : List Nat → VAcc → Option VErr
  | [], _ => none
  | a :: r, acc =>
    match k.step2 targets acc a with
    | .error e => some e
    | .ok acc => k.run2 targets r acc

/-- Static targets of a range. -/
def VKernel.targets (k : VKernel) : List Nat :=
  (k.starts.filter (fun a => isStatic (k.word a))).map (fun a => (staticTarget a (k.word a)).toNat)

/-- The second sweep over a kernel's range. -/
def VKernel.sweep2 (k : VKernel) : Option VErr :=
  k.run2 k.targets k.starts { v := k.fresh, cut := false, recorded := [], seen := [] }

/-- An exported gate entry that is not at a `gentry` of some range (R353, code 10): the offset it names. -/
def badExport (ks : List VKernel) (gates : List (Nat × Nat)) : Option VErr :=
  gates.findSome? (fun g =>
    failIf (!(ks.any (fun k => k.starts.contains g.2 && (opOf (k.word g.2)).toNat == 0x0D))) 10 g.2)

/-- The verifier over all kernels of a segment. -/
def verifyAll (ks : List VKernel) (gates : List (Nat × Nat)) : Option VErr :=
  ks.findSome? VKernel.sweep1 <|> badExport ks gates <|> ks.findSome? VKernel.sweep2

end Sys2Proof.Machine
end

