-- ==== Sys2Proof/Machine/Prepol.lean ====
section
/-! DEFINITION. The translation of Prepol code to native words (16 R354-R357). A translation stands
from its kernel's ENTRY on, and what is left of the range is zero (DESIGN CHOICE, notes/assumptions/15.md). -/

namespace Sys2Proof.Machine

/-- One Prepol instruction: the offset of its prefix word, the prefix and the template's words. -/
structure PInstr where
  off : Nat
  pre : W32
  w0 : W32
  w1 : W32
  deriving DecidableEq, Repr

def PInstr.len (p : PInstr) : Nat := 4 + wordLen p.w0

/-- The instructions of a range; an offset whose words lie beyond the range ends the list with it. -/
def prepolParse (word : Nat → W32) (hi : Nat) : Nat → Nat → List PInstr × Option Nat
  | 0, _ => ([], none)
  | fuel + 1, o =>
    if hi ≤ o then ([], none)
    else
      let p : PInstr := { off := o, pre := word o, w0 := word (o + 4), w1 := word (o + 8) }
      if hi < o + p.len then ([], some o)
      else
        let r := prepolParse word hi fuel (o + p.len)
        (p :: r.1, r.2)

/-- A prefix field: 0 D, 1 A, 2 B, 3 C. -/
def PInstr.field (p : PInstr) (pos : Nat) : Nat := p.pre.toNat / 256 ^ pos % 256
/-- The template's field at a position. -/
def templateField (w0 w1 : W32) (pos : Nat) : Nat :=
  let r := rOf w0
  if pos = 0 then r.d.toNat else if pos = 1 then r.a.toNat else if pos = 2 then r.b.toNat else (xaHere w0 w1).c.toNat
/-- Class-M instructions, whose vector offset a prefix A of 0xFF leaves out. -/
def isClassM (w0 : W32) : Bool :=
  let op := (opOf w0).toNat
  (decide (0xA0 ≤ op) && decide (op ≤ 0xA8)) || (decide (0xE0 ≤ op) && decide (op ≤ 0xE2)) || op == 0xE8 || op == 0xEA
/-- Positions that hold a vector register. A class-M template has one at A whatever the field holds, since the prefix says
whether there is an offset (R354). -/
def PInstr.vecs (p : PInstr) : List Nat :=
  let w := if isClassM p.w0 then p.w0 &&& ~~~(0x7F00 : W32) else p.w0
  (statOps [] w p.w1).map (fun o => o.pos)
/-- Opcodes whose extension word is XA (05 R121-R130). -/
def hasXa (w0 : W32) : Bool :=
  let op := (opOf w0).toNat
  eOf w0 && (op == 0x2F || op == 0x30 || (decide (0x40 ≤ op) && decide (op < 0xA0) && op != 0x56) || op == 0xD2 || op == 0xD3 || decide (0xE0 ≤ op))
/-- No vector offset: the native A is 0x7F. -/
def PInstr.noOffset (p : PInstr) : Bool := isClassM p.w0 && p.field 1 == 0xFF

/-- The Prepol word that breaks R355, if any. -/
def PInstr.bad (p : PInstr) : Option VErr :=
  let op := (opOf p.w0).toNat
  let x := xaOf p.w1
  let used := p.vecs
  failIf (sOf p.w0 || op == 0x13 || (op == 0xF1 && (uOf p.w0).index == 0x05)) 3 (p.off + 4)
  <|> failIf (hasXa p.w0 && (x.xd || x.xa || x.xb)) 3 (p.off + 8)
  <|> used.findSome? (fun i => failIf (templateField p.w0 p.w1 i != 0) 3 (if i = 3 then p.off + 8 else p.off + 4))
  <|> failIf ((List.range 4).any (fun i => !used.contains i && p.field i != 0)) 3 p.off

/-- Flat registers of an instruction's operands, each with its position (R356). -/
def PInstr.flat (p : PInstr) (imports : List (Nat × Nat × Nat)) : List (Nat × List Nat) :=
  ((statOps imports p.w0 p.w1).filter (fun o => !(o.pos == 1 && p.noOffset))).map (fun o =>
    (o.pos, ({ o.v with f := 0, x := 0 } : Vop).fields.map (fun k => p.field o.pos + k)))

/-- Registers fit a window base. -/
def windowFits (regs : List Nat) (wb : Nat) : Bool := regs.all (fun r => decide (r < 16) || (decide (wb + 16 ≤ r) && decide (r ≤ wb + 127)))
/-- The register that holds the vector offset of an instruction that forms an address. -/
def PInstr.offsetReg (p : PInstr) : Option Nat :=
  if isClassM p.w0 && decide ((opOf p.w0).toNat ≤ 0xA8) && !p.noOffset then some (p.field 1) else none
/-- A window base fits an instruction: it holds its registers, and its vector offset does not become the field 0x7F, which stands for
none (R101, R356). -/
def PInstr.fits (p : PInstr) (regs : List Nat) (wb : Nat) : Bool :=
  windowFits regs wb && (match p.offsetReg with | some r => decide (r < 16) || r != wb + 127 | none => true)
/-- The window base for an instruction: the one in force while it fits, else the lowest that does (R357). -/
def PInstr.chooseWindow (p : PInstr) (regs : List Nat) (wb : Nat) : Option Nat :=
  if p.fits regs wb then some wb else ((List.range 9).map (fun i => 16 * i)).find? (p.fits regs)
/-- A block of which some elements are anchors and some are not. -/
def straddles (l : List Nat) : Bool := decide (l.headD 0 < 16) && l.any (fun r => decide (16 ≤ r))

/-- A 7-bit field put into a word at a bit. -/
def putField (w : W32) (lo : Nat) (v : Nat) : W32 := w ||| (BitVec.ofNat 32 (v % 128) <<< lo)
/-- The native words of an instruction under a window base. -/
def PInstr.native (p : PInstr) (wb : Nat) : W32 × W32 :=
  let f := fun (i : Nat) => let r := p.field i; if r < 16 then r else r - wb
  let put := fun (e : W32 × W32) (i : Nat) =>
    if i = 0 then (putField e.1 15 (f 0), e.2)
    else if i = 1 then (putField e.1 8 (if p.noOffset then 0x7F else f 1), e.2)
    else if i = 2 then (putField e.1 1 (f 2), e.2)
    else (e.1, putField e.2 25 (f 3))
  (p.vecs.foldl addNew []).foldl put (p.w0, p.w1)

/-- The word of `winb`. -/
def winbWord (wb : Nat) : W32 := BitVec.ofNat 32 (0x04C00001 + wb / 16 * 2)
def markS (w : W32) : W32 := w ||| 0x80000000

/-- What a Prepol instruction becomes: words before its label and words from the label on, each with the Prepol offset it
stands for. -/
structure PItem where
  src : PInstr
  before : List (W32 × Nat)
  body : List (W32 × Nat)
  deriving Repr

/-- Emits one native instruction, with S where the checks of R360 would fail. -/
def VKernel.emit (k : VKernel) (v : VState) (target : Bool) (w0 w1 : W32) : W32 × VState :=
  let s := k.needsS v target w0 w1
  (if s then markS w0 else w0, k.after (v.cover s) w0 w1)

/-- Where the translator stands. -/
structure PAcc where
  v : VState
  cut : Bool
  marks : List (Nat × Nat)
  items : List PItem

/-- Translates one instruction (R357); `targets` are the offsets that static branches name. -/
def VKernel.translate1 (k : VKernel) (targets : List Nat) (acc : PAcc) (p : PInstr) : Except VErr PAcc :=
  match p.bad with
  | some e => .error e
  | none =>
    let target := targets.contains p.off
    let start := p.off == k.lo || (opOf p.w0).toNat == 0x0D
    let v0 := if start then k.fresh
      else if acc.cut then { k.fresh with ta := getT k.fresh.ta acc.marks p.off } else acc.v
    let flat := p.flat k.imports
    let regs := flat.flatMap Prod.snd
    if flat.any (fun e => straddles e.2) || regs.any (fun r => decide (255 < r)) then .error (15, p.off)
    else
      let clear := (isBranch p.w0 || target) && v0.wb != some 0
      let e0 := if clear then k.emit v0 false (winbWord 0) 0 else (0, v0)
      let wb := e0.2.wb.getD 0
      match p.chooseWindow regs wb with
      | none => .error (15, p.off)
      | some w =>
        let move := w != wb
        let e1 := if move then k.emit e0.2 target (winbWord w) 0 else (0, e0.2)
        let n := p.native w
        let e2 := k.emit e1.2 (target && !move) n.1 n.2
        let body := (if move then [(e1.1, p.off)] else [])
          ++ [(e2.1, p.off + 4)] ++ (if eOf p.w0 then [(n.2, p.off + 8)] else [])
        let t := staticTarget p.off p.w0
        let marks := if isStatic p.w0 ∧ (p.off : Int) < t then putT acc.marks t.toNat e1.2.ta else acc.marks
        .ok { v := e2.2, cut := isTransfer p.w0, marks := marks
              items := acc.items ++ [{ src := p, before := if clear then [(e0.1, p.off)] else [], body := body }] }
def VKernel.translateAll (k : VKernel) (targets : List Nat) : List PInstr → PAcc → Except VErr (List PItem)
  | [], acc => .ok acc.items
  | p :: r, acc =>
    match k.translate1 targets acc p with
    | .error e => .error e
    | .ok acc => k.translateAll targets r acc

/-- Native offsets of the labels of a list of items: Prepol offset and native offset. -/
def labels (o : Nat) : List PItem → List (Nat × Nat)
  | [] => []
  | i :: r => (i.src.off, o + 4 * i.before.length) :: labels (o + 4 * (i.before.length + i.body.length)) r

/-- A static branch's word with its offset counted in native words. -/
def retarget (w : W32) (words : Int) : W32 :=
  if (opOf w).toNat = 0x01 ∨ (opOf w).toNat = 0x05 then (w &&& 0xFFC00000) ||| (BitVec.ofInt 22 words).setWidth 32
  else (w &&& 0xFFFC0000) ||| (BitVec.ofInt 18 words).setWidth 32

/-- The words of an item, static branches retargeted. -/
def PItem.words (ls : List (Nat × Nat)) (i : PItem) : List (W32 × Nat) :=
  if isStatic i.src.w0 then
    let here := getT 0 ls i.src.off
    let there := getT 0 ls (staticTarget i.src.off i.src.w0).toNat
    i.before ++ i.body.map (fun e => (retarget e.1 (((there : Int) - here) / 4), e.2))
  else i.before ++ i.body

/-- A translated range: its place in the segment, native words with their Prepol offsets, and where each Prepol instruction
went. -/
structure Translated where
  place : Nat
  words : List (W32 × Nat)
  labels : List (Nat × Nat)
  deriving Repr

/-- Translates a kernel's range. -/
def VKernel.translate (k : VKernel) : Except VErr Translated :=
  match prepolParse k.word k.hi ((k.hi - k.lo) / 4 + 1) k.lo with
  | (ps, excess) =>
    let stat := ps.filter (fun p => isStatic p.w0)
    let target := fun (p : PInstr) => staticTarget p.off p.w0
    match excess, stat.find? (fun p => !(decide (0 ≤ target p) && ps.any (fun q => (q.off : Int) == target p))) with
    | some o, _ => .error (4, o)
    | none, some p => .error (4, p.off + 4)
    | none, none =>
      match k.translateAll (stat.map (fun p => (target p).toNat)) ps { v := k.fresh, cut := false, marks := [], items := [] } with
      | .error e => .error e
      | .ok items =>
        let ls := labels k.lo items
        let ws := items.flatMap (fun i => i.words ls)
        .ok { place := k.lo, words := ws, labels := ls }

/-- The same translation at another place: branches keep, since they count from their own word. -/
def Translated.moveTo (t : Translated) (p : Nat) : Translated :=
  { t with place := p, labels := t.labels.map (fun e => (e.1, e.2 - t.place + p)) }

/-- Bytes of a translation. -/
def Translated.bytes (t : Translated) : List Byte := t.words.flatMap (fun e => bytesOfNat 4 e.1.toNat)

/-- The Prepol word that a native offset of the range stands for. -/
def Translated.origin (t : Translated) (off : Nat) : Nat :=
  match t.words[(off - t.place) / 4]? with
  | some e => e.2
  | none => off

end Sys2Proof.Machine
end

