-- ==== Sys2Proof/Machine/Sha3.lean ====
section
/-! DEFINITION. SHA3-256 over bytes, as identity digests and measurements use it (06 R150, R151; 18 R388, R389). The function is
the published standard's (PRESUMED, notes/assumptions/14.md). Its 1,600-bit state is five planes of five lanes, a lane being a
natural number below 2^64; the lane rotations and the round constants are generated, as the standard does, from their
recurrences. -/

namespace Sys2Proof.Machine

/-- The lane turned left by `k` bits. -/
def laneRotl (k lane : Nat) : Nat := (lane <<< k ||| lane >>> (64 - k)) % 2 ^ 64

/-- A plane turned so that lane `k` comes first. -/
def planeTurn (k : Nat) (plane : List Nat) : List Nat := plane.drop k ++ plane.take k

/-- The walk of the rotation step from a lane at step `t`: lane (x, y) turns by the t-th triangular number; the next lane is
(y, 2x + 3y). Each entry is the lane's number 5y + x with its rotation. -/
def rotationWalk : Nat → Nat → Nat → Nat → List (Nat × Nat)
  | 0, _, _, _ => []
  | n + 1, t, x, y => (5 * y + x, t * (t + 1) / 2 % 64) :: rotationWalk n (t + 1) y ((2 * x + 3 * y) % 5)

/-- The rotation of every lane but lane 0, which does not turn. -/
def rotations : List (Nat × Nat) := rotationWalk 24 1 1 0

/-- The generator of the constants: eight bits, fed back as x^8 + x^6 + x^5 + x^4 + 1 tells. -/
def constantStep (g : Nat) : Nat := if g < 128 then 2 * g else (2 * g) ^^^ 0x171

/-- The constant of a round from the generator: its output falls on bits 0, 1, 3, 7, 15, 31, 63; with the generator after it. -/
def roundConstant : List Nat → Nat → Nat → Nat × Nat
  | [], g, c => (c, g)
  | pos :: r, g, c => roundConstant r (constantStep g) (c + g % 2 * 2 ^ pos)

/-- The constants of `n` rounds. -/
def roundConstants : Nat → Nat → List Nat
  | 0, _ => []
  | n + 1, g =>
    let c := roundConstant [0, 1, 3, 7, 15, 31, 63] g 0
    c.1 :: roundConstants n c.2

/-- Every lane takes the parity of the column before it and, turned by one, of the column after it. -/
def mixColumns (planes : List (List Nat)) : List (List Nat) :=
  let parity := planes.foldl (List.zipWith Nat.xor) (List.replicate 5 0)
  let add := List.zipWith Nat.xor (planeTurn 4 parity) ((planeTurn 1 parity).map (laneRotl 1))
  planes.map (List.zipWith Nat.xor add)

/-- Every lane turns and moves: lane x of plane y comes from lane x + 3y of plane x. -/
def moveLanes (planes : List (List Nat)) : List (List Nat) :=
  let lanes := planes.flatten.zipIdx.map (fun e => laneRotl ((rotations.lookup e.2).getD 0) e.1)
  (List.range 5).map (fun y => (List.range 5).map (fun x => lanes.getD (5 * x + (x + 3 * y) % 5) 0))

/-- Every lane takes the AND of the complement of the next lane with the one after that. -/
def mixPlane (plane : List Nat) : List Nat :=
  List.zipWith Nat.xor plane
    (List.zipWith Nat.land ((planeTurn 1 plane).map (fun l => 2 ^ 64 - 1 - l)) (planeTurn 2 plane))

/-- The 24 rounds. -/
def permuteLanes (planes : List (List Nat)) : List (List Nat) :=
  (roundConstants 24 1).foldl
    (fun p c => match (moveLanes (mixColumns p)).map mixPlane with
      | (l :: r) :: q => ((l ^^^ c) :: r) :: q
      | q => q) planes

/-- The message with its closing bits, as blocks of 136 bytes. -/
def sha3Blocks (m : List Byte) : List (List Byte) :=
  let n := m.length / 136
  let last := natOfBytes (m.drop (136 * n)) + 0x06 * 256 ^ (m.length % 136) + 0x80 * 256 ^ 135
  (List.range n).map (fun i => (m.drop (136 * i)).take 136) ++ [bytesOfNat 136 last]

/-- The first 17 lanes take a block. -/
def takeBlock (planes : List (List Nat)) (b : List Byte) : List (List Nat) :=
  let v := natOfBytes b
  permuteLanes (planes.zipIdx.map (fun p => p.1.zipIdx.map (fun l => l.1 ^^^ (v >>> (64 * (5 * p.2 + l.2))) % 2 ^ 64)))

/-- The 32-byte digest. -/
def sha3_256 (m : List Byte) : List Byte :=
  let planes := (sha3Blocks m).foldl takeBlock (List.replicate 5 (List.replicate 5 0))
  ((planes.headD []).take 4).flatMap (bytesOfNat 8)

end Sys2Proof.Machine
end

