-- ==== Sys2Proof/Machine/Loader.lean ====
section
/-! DEFINITION. The loader (16 R353; 18 R384): image checks (06 R147-R151), identity digests, translation and verification of a
segment's copy, and its mapping. -/

namespace Sys2Proof.Machine

/-! ### Image checks (R147-R151) -/

/-- What a region of an image is: one table may be named by several kernels (R149). -/
inductive RegionKind where
  | segHeader | code | data | entryTable | gateTable | identity | kernelHeader | channels | records | imports
  deriving DecidableEq, Repr

/-- A region or table of an image: its first offset, its length and the offset to report. -/
structure Region where
  kind : RegionKind
  off : Nat
  len : Nat
  named : Nat

/-- The WIDTH, LANES and WAVES of a header go together (02 R32): LANES is a count of 1 to 16 waves of the width, or of some width
where the header fixes none. -/
def lanesFit (w0 lanes : Nat) : Bool :=
  (if widthCode w0 = 0 then [64, 32, 16, 8, 4] else [headerWidth w0]).any (fun d =>
    lanes % d == 0 && decide (1 ≤ lanes / d) && decide (lanes / d ≤ 16))
/-- The WAVES that the width and LANES ask for (R147). -/
def wavesFor (w0 lanes : Nat) : Nat := if widthCode w0 = 0 then 0 else lanes / headerWidth w0

/-- A header field that breaks R147 or R32: the offset to report, that of LANES where no WAVES could be right. The identity table
has one entry a kernel, so an IDX at or above NENT names none (DESIGN CHOICE, notes/assumptions/60.md). -/
def badHeader (rd : Nat → Byte) (h codeoff codesz nent : Nat) : Option VErr :=
  let w := fun (i : Nat) => imageNat rd (h + 4 * i) 4
  let wc := widthCode (w 0)
  let lanes := w 2
  failIf (w 0 / 2 ^ 28 != 0xA || decide (5 < wc) || (w 0 % 16 != 0 && w 0 % 16 != 3)) 1 h
  <|> failIf (decide (w 1 < codeoff) || decide (codeoff + codesz ≤ w 1) || w 1 % 4 != 0) 1 (h + 4)
  <|> failIf (decide (lanes < 4) || decide (1024 < lanes) || !lanesFit (w 0) lanes) 1 (h + 8)
  <|> failIf (w 3 != wavesFor (w 0) lanes) 1 (h + 12)
  <|> failIf (w 5 % 256 != 0) 1 (h + 20)
  <|> failIf (decide (65536 ≤ w 7) || decide (nent ≤ w 7)) 1 (h + 28)

/-- A table's count word: inside the image, else the word that names the table is reported (R149); 1 to `hi`, the other bits zero; and
the whole table, `first` bytes and `each` for every entry, inside the image. -/
def badCount (rd : Nat → Byte) (size named off hi first each : Nat) : Option VErr :=
  let c := imageNat rd off 4
  failIf (decide (size < off + 4)) 1 named
  <|> failIf (c == 0 || decide (hi < c)) 1 off
  <|> failIf (decide (size < off + first + each * c)) 1 named

/-- A channel, tensor-record or gate-import table that breaks R150. Of a tensor-record table the count word alone is checked: its
padding and the records' fields are left to their reader (DESIGN CHOICE, notes/assumptions/60.md). -/
def badTables (rd : Nat → Byte) (size h : Nat) : Option VErr :=
  let w := fun (i : Nat) => imageNat rd (h + 4 * i) 4
  (if w 4 = 0 then none
    else badCount rd size (h + 16) (w 4) 16 4 8 <|> (List.range (imageNat rd (w 4) 1)).findSome? (fun i =>
      let a := w 4 + 4 + 8 * i
      let n := imageNat rd (a + 2) 1
      let z := imageNat rd (a + 3) 1
      failIf (n == 0 || decide (64 < n) || z == 0 || decide (16 < z) || imageNat rd (a + 4) 4 != 0) 1 a))
  <|> (if w 5 = 0 then none else badCount rd size (h + 20) (w 5) 255 256 256)
  <|> (if w 6 = 0 then none
    else badCount rd size (h + 24) (w 6) 64 4 8 <|> (List.range (imageNat rd (w 6) 1)).findSome? (fun i =>
      let a := w 6 + 4 + 8 * i
      failIf (imageNat rd (a + 4) 4 != 0) 1 a))

/-- Regions of a kernel's tables. -/
def tableRegions (rd : Nat → Byte) (h : Nat) : List Region :=
  let w := fun (i : Nat) => imageNat rd (h + 4 * i) 4
  (if w 4 = 0 then [] else [⟨.channels, w 4, 4 + 8 * imageNat rd (w 4) 1, h + 16⟩])
  ++ (if w 5 = 0 then [] else [⟨.records, w 5, 256 + 256 * imageNat rd (w 5) 1, h + 20⟩])
  ++ (if w 6 = 0 then [] else [⟨.imports, w 6, 4 + 8 * imageNat rd (w 6) 1, h + 24⟩])

/-- ASCII, zero-padded. -/
def badName (n : List Byte) : Bool :=
  n.any (fun b => decide (127 < b.toNat)) || (n.dropWhile (fun b => b != 0)).any (fun b => b != 0)

/-- Two regions share a byte and are not one table or kernel header named twice: two entries of the entry table may name one header
(DESIGN CHOICE, notes/assumptions/32.md). -/
def clash (a b : Region) : Bool :=
  !(a.kind == b.kind && a.off == b.off && a.len == b.len) && decide (a.off < b.off + b.len) && decide (b.off < a.off + a.len)
/-- A region beyond SIZE, or overlapping one that starts no later (R149). A region of no bytes lies anywhere: an empty data region may
have any DATAOFF (DESIGN CHOICE, notes/assumptions/32.md). -/
def badRegions (size : Nat) (rs : List Region) : Option VErr :=
  let rs := rs.filter (fun r => r.len != 0)
  rs.findSome? (fun r =>
    failIf (decide (size < r.off + r.len) || rs.any (fun o => decide (o.off ≤ r.off) && clash o r)) 1 r.named)

/-- Stage 1 of R353 on an image: the segment header, the kernel headers and the tables. -/
def imageFault (rd : Nat → Byte) (privok : Bool) : Option VErr :=
  let f := imageNat rd
  let size := f 8 4
  let nent := f 32 2
  let ngent := f 34 2
  let entoff := f 28 4
  let gentoff := f 36 4
  let entry := fun (i : Nat) => entoff + 16 * i
  let header := fun (i : Nat) => f (entry i) 4
  let gate := fun (i : Nat) => gentoff + 8 * i
  failIf (f 0 4 != 0x53334B46) 1 0
  <|> failIf (f 4 2 != 1) 1 4
  <|> failIf (decide (4 ≤ f 6 2) || (f 6 2 % 2 == 1 && !privok)) 1 6
  <|> failIf (size % 256 != 0 || size == 0) 1 8
  <|> failIf (f 12 4 % 256 != 0) 1 12
  <|> failIf (f 16 4 % 4 != 0) 1 16
  <|> failIf (f 20 4 % 256 != 0) 1 20
  <|> failIf (entoff % 16 != 0) 1 28
  <|> failIf (nent == 0 || decide (4096 < nent)) 1 32
  <|> failIf (decide (4096 < ngent)) 1 34
  <|> failIf (gentoff % 8 != 0 || (ngent == 0 && gentoff != 0)) 1 36
  <|> failIf (f 40 4 % 32 != 0) 1 40
  <|> failIf ((List.range 20).any (fun i => rd (44 + i) != 0)) 1 44
  -- the tables are read next: they must lie in the image
  <|> failIf (decide (size < entoff + 16 * nent)) 1 28
  <|> failIf (decide (size < gentoff + 8 * ngent)) 1 36
  <|> (List.range nent).findSome? (fun i =>
      failIf (header i % 32 != 0 || f (entry i + 4) 4 != 0 || badName ((List.range 8).map (fun j => rd (entry i + 8 + j)))
        || decide (size < header i + 32)) 1 (entry i)
      <|> badHeader rd (header i) (f 12 4) (f 16 4) nent
      <|> badTables rd size (header i))
  <|> (List.range ngent).findSome? (fun i =>
      let o := f (gate i) 4
      failIf (f (gate i + 6) 2 != 0 || decide (o < f 12 4) || decide (f 12 4 + f 16 4 ≤ o) || o % 4 != 0) 1 (gate i))
  <|> badRegions size
      ([⟨.segHeader, 0, 64, 0⟩, ⟨.code, f 12 4, f 16 4, 12⟩, ⟨.data, f 20 4, f 24 4, 20⟩, ⟨.entryTable, entoff, 16 * nent, 28⟩,
          ⟨.gateTable, gentoff, 8 * ngent, 36⟩, ⟨.identity, f 40 4, 32 * nent, 40⟩]
        ++ (List.range nent).flatMap (fun i => ⟨.kernelHeader, header i, 32, entry i⟩ :: tableRegions rd (header i)))

/-! ### Identity (R150, R151) -/

/-- A kernel whose digest differs from the identity table's. -/
def identityFault (rd : Nat → Byte) : Option VErr :=
  let f := imageNat rd
  let bytes := fun (o n : Nat) => (List.range n).map (fun i => rd (o + i))
  (List.range (f 32 2)).findSome? (fun i =>
    let h := headerOffset rd i
    let id := f 40 4 + 32 * f (h + 28) 4
    failIf (sha3_256 (bytes h 28 ++ bytes (f 12 4) (f 16 4)) != bytes id 32) 2 id)

/-! ### Kernels for the verifier -/

/-- The verifier's view of kernel `i` of an image. -/
def vkernel (rd : Nat → Byte) (i : Nat) : VKernel :=
  let f := imageNat rd
  let h := headerOffset rd i
  let lo := f (h + 4) 4
  let ends := ((List.range (f 32 2)).map (fun j => f (headerOffset rd j + 4) 4)).filter (fun e => decide (lo < e))
  { word := fun a => BitVec.ofNat 32 (f a 4), lo := lo, hi := ends.foldl min (f 12 4 + f 16 4), header := h, w0 := f h 4, lanes := f (h + 8) 4
    nchan := if f (h + 16) 4 = 0 then 0 else f (f (h + 16) 4) 1, imports := importsOf rd i, priv := f 6 2 % 2 == 1 }
/-- The kernels of an image in the order of their ranges (R358). -/
def vkernels (rd : Nat → Byte) : List VKernel :=
  sortBy (fun a b => decide (a.lo ≤ b.lo)) ((List.range (kernelCount rd)).map (vkernel rd))
/-- Exported gates: offset of the table entry, and of the `gentry`. -/
def exportsOf (rd : Nat → Byte) : List (Nat × Nat) :=
  let f := imageNat rd
  (List.range (f 34 2)).map (fun i => (f 36 4 + 8 * i, f (f 36 4 + 8 * i) 4))

/-! ### Stages 3 and 4 -/

/-- A page holds bytes of a region. -/
def pageHolds (p off len : Nat) : Bool := len != 0 && decide (off < 65536 * (p + 1)) && decide (65536 * p < off + len)

/-- A translated kernel: its range, its translation. -/
abbrev Ranges := List (VKernel × Translated)

/-- The bytes set aside for a segment's copy that hold nothing of its image: from SIZE to the next multiple of 64 KiB (R384),
unless the last page holds data. -/
def spareRoom (rd : Nat → Byte) : Nat × Nat :=
  let f := imageNat rd
  let size := f 8 4
  (size, if pageHolds ((size - 1) / 65536) (f 20 4) (f 24 4) then size else (size + 65535) / 65536 * 65536)

/-- Translates the kernels' ranges in address order (R357). -/
def translateRanges : List VKernel → Except VErr Ranges
  | [] => .ok []
  | k :: r =>
    match k.translate with
    | .error e => .error e
    | .ok t =>
      match translateRanges r with
      | .error e => .error e
      | .ok rs => .ok ((k, t) :: rs)

/-- A translation is no longer than its kernel's range. -/
def inRange (e : VKernel × Translated) : Bool := decide (4 * e.2.words.length ≤ e.1.hi - e.1.lo)
/-- What the translations that fit their ranges leave of the ranges: first offset and end. Kernels of one ENTRY share a range. -/
def slackOf (rs : Ranges) : List (Nat × Nat) :=
  ((rs.map (fun e => (e.1.lo, e.1.hi))).eraseDups).map (fun r =>
    ((rs.filter (fun e => e.1.lo == r.1 && inRange e)).foldl (fun m e => max m (r.1 + 4 * e.2.words.length)) r.1, r.2))
/-- The first hole of a list that holds `n` bytes, and what is left of the list. -/
def takeRoom (n : Nat) : List (Nat × Nat) → Option (Nat × List (Nat × Nat))
  | [] => none
  | h :: r => if h.1 + n ≤ h.2 then some (h.1, (h.1 + n, h.2) :: r) else (takeRoom n r).map (fun e => (e.1, h :: e.2))
/-- Where the translations stand: in place of their ranges, and one that is longer than its range in what the others leave of theirs,
or in the spare room behind SIZE. What no hole can hold has no place and fails with code 15 (DESIGN CHOICE, notes/assumptions/15.md). -/
def placeAll : List (Nat × Nat) → Ranges → Except VErr Ranges
  | _, [] => .ok []
  | holes, e :: r =>
    match if inRange e then some (e.1.lo, holes) else takeRoom (4 * e.2.words.length) holes with
    | none => .error (15, e.1.lo)
    | some (p, holes) =>
      match placeAll holes r with
      | .error x => .error x
      | .ok rs => .ok ((e.1, e.2.moveTo p) :: rs)

/-- The kernels translated, each at its place. -/
def translateAll (room : Nat × Nat) (ks : List VKernel) : Except VErr Ranges :=
  match translateRanges ks with
  | .error e => .error e
  | .ok rs => placeAll (slackOf rs ++ [room]) rs

/-- The copy after translation: every translation's words at their place, zeros in what is left of the ranges, and the ENTRY of each
header. -/
def placeRanges (mem : List (Nat × Byte)) (dst : Nat) (rs : Ranges) : List (Nat × Byte) :=
  rs.foldl (fun m e => writeBytes (writeBytes m (dst + e.2.place) e.2.bytes) (dst + e.1.header + 4) (bytesOfNat 4 e.2.place))
    (rs.foldl (fun m e => clearRange m (dst + e.1.lo) (dst + e.1.hi)) mem)
/-- The gate-entry table after translation; an exported entry that is no Prepol instruction fails. -/
def moveExports (mem : List (Nat × Byte)) (dst : Nat) (rs : Ranges) (gates : List (Nat × Nat)) : Except VErr (List (Nat × Byte)) :=
  gates.foldl (fun acc g =>
    match acc with
    | .error e => .error e
    | .ok m =>
      match rs.findSome? (fun e => lookT e.2.labels g.2) with
      | none => .error (10, g.2)
      | some o => .ok (writeBytes m (dst + g.1) (bytesOfNat 4 o))) (.ok mem)

/-- A translated kernel as the verifier reads it. -/
def nativeKernel (rd : Nat → Byte) (e : VKernel × Translated) : VKernel :=
  { e.1 with word := fun a => BitVec.ofNat 32 (imageNat rd a 4), lo := e.2.place, hi := e.2.place + 4 * e.2.words.length }

/-- The Prepol word of a native offset in a list of ranges. -/
def prepolOrigin (rs : Ranges) (off : Nat) : Nat :=
  match rs.find? (fun e => decide (e.2.place ≤ off) && decide (off < e.2.place + 4 * e.2.words.length)) with
  | some e => e.2.origin off
  | none => off

/-- What the stages after the image checks answer: the memory, or the stage, the code and the offset. -/
def loadStages (mem : List (Nat × Byte)) (dst : Nat) : Except (Nat × VErr) (List (Nat × Byte)) :=
  let rd := fun (m : List (Nat × Byte)) (o : Nat) => readByte m (dst + o)
  match identityFault (rd mem) with
  | some e => .error (2, e)
  | none =>
    if imageNat (rd mem) 6 2 / 2 % 2 = 0 then
      match verifyAll (vkernels (rd mem)) (exportsOf (rd mem)) with
      | some e => .error (4, e)
      | none => .ok mem
    else
      match translateAll (spareRoom (rd mem)) (vkernels (rd mem)) with
      | .error e => .error (3, e)
      | .ok rs =>
        match moveExports (placeRanges mem dst rs) dst rs (exportsOf (rd mem)) with
        | .error e => .error (4, e)
        | .ok m =>
          match verifyAll (rs.map (nativeKernel (rd m))) (exportsOf (rd m)) with
          | some e => .error (4, (e.1, prepolOrigin rs e.2))
          | none => .ok m

/-! ### Mapping (R384) -/

/-- The level-0 table of an address, when every table pointer down to it is present. -/
def levelZero (mem : List (Nat × Byte)) (va : Nat) : Nat → Nat → Option Nat
  | 0, table => some table
  | lvl + 1, table =>
    let idx := if lvl = 0 then bitsOf va 21 5 else if lvl = 1 then bitsOf va 26 16 else bitsOf va 42 15
    let e := entryAt mem (table + 8 * idx)
    if e % 4 = 1 ∧ goodPointer e (if lvl = 2 then 19 else 8) then levelZero mem va lvl (nextPa e) else none

/-- The physical address of an ASID's level-0 entry for a page on a die. -/
def State.leafPlace (s : State) (die : Nat) (asid : BitVec 16) (va : Nat) : Option Nat :=
  let e := entryAt s.mem ((s.die die).asidt.toNat + 8 * asid.toNat)
  if e % 4 = 1 ∧ goodPointer e 18 then (levelZero s.mem va 3 (nextPa e)).map (fun t => t + 8 * bitsOf va 16 5) else none

/-- Stores one page's leaf in the tables of every die. -/
def State.putLeaf (s : State) (asid : BitVec 16) (va pte : Nat) : State :=
  ((List.range 4).filterMap (fun d => s.leafPlace d asid va)).foldl (fun s pa => s.slicePut 3 0 pa (bytesOfNat 8 pte)) s

/-- Pages of a segment, by number. -/
def segPages (size : Nat) : List Nat := List.range ((size + 65535) / 65536)
/-- A page holds a kernel that its translation moved behind the image. -/
def movedInto (rd : Nat → Byte) (p : Nat) : Bool :=
  (List.range (kernelCount rd)).any (fun i =>
    let e := imageNat rd (headerOffset rd i + 4) 4
    decide (imageNat rd 8 4 ≤ e) && e / 65536 == p)

/-- The leaf of a page of a segment: R; W for data; X for code, also a translation that its range could not hold (R384). -/
def segLeaf (rd : Nat → Byte) (dst p : Nat) : Nat :=
  let f := imageNat rd
  3 + 4 + (if pageHolds p (f 20 4) (f 24 4) then 8 else 0) + (if pageHolds p (f 12 4) (f 16 4) || movedInto rd p then 16 else 0) + (dst + 65536 * p)

/-- Invalidates an address space's translations, and every cache of gate entries, as `tlbi` would (R188, R384). -/
def State.invalidateAsid (s : State) (asid : BitVec 16) : State :=
  let s := s.tlbInvalidate 1 asid 0
  { s with cores := s.cores.map (fun (e : Nat × Core) => (e.1, { e.2 with gateCache := [] })) }

/-! ### The LOAD request (R384) -/

/-- Fields of a request's arguments. -/
structure LoadArgs where
  src : Nat
  dst : Nat
  asid : BitVec 16
  flags : Nat
  zero : Nat
  va : Nat
  status : Nat

/-- The load status (R353). -/
def loadStatus (stage code off : Nat) : List Byte := bytesOfNat 4 off ++ bytesOfNat 1 code ++ bytesOfNat 1 stage ++ bytesOfNat 2 0

/-- The two checks that come before the copy: a page with both kinds of bytes, and tables that are not there. -/
def State.earlyFault (s : State) (a : LoadArgs) (rd : Nat → Byte) : Option VErr :=
  let f := imageNat rd
  let ps := segPages (f 8 4)
  failIf (ps.any (fun p => pageHolds p (f 12 4) (f 16 4) && pageHolds p (f 20 4) (f 24 4))) 1 (f 20 4)
  <|> failIf (ps.any (fun p => (s.leafPlace 0 a.asid (a.va + 65536 * p)).isNone)) 1 0

/-- The range of a segment overlaps a loaded one of its address space. -/
def State.segOverlap (s : State) (asid : BitVec 16) (va size : Nat) : Bool :=
  s.pkg.segments.any (fun g => g.asid == asid && decide (va < g.va + (g.size + 65535) / 65536 * 65536)
    && decide (g.va < va + (size + 65535) / 65536 * 65536))

/-- Extends a measurement register (R389). -/
def Package.extend (p : Package) (i : Nat) (d : List Byte) : Package :=
  { p with meas := putT p.meas i (sha3_256 (getT (List.replicate 32 0) p.meas i ++ d)) }

/-- Serves a LOAD whose arguments are in range: the state and the request's ERR. -/
def State.loadSegment (s : State) (a : LoadArgs) : State × Nat :=
  let img := fun (o : Nat) => readByte s.mem (a.src + o)
  let size := imageNat img 8 4
  let fail := fun (s : State) (stage : Nat) (e : VErr) => (s.putLong 3 0 a.status (loadStatus stage e.1 e.2), 4)
  if size = 0 ∨ size % 256 ≠ 0 then fail s 1 (1, 8)
  else if 4096 ≤ s.pkg.segments.length ∨ s.segOverlap a.asid a.va size then (s, 5)
  else
    match s.earlyFault a img with
    | some e => fail s 1 e
    | none =>
      let s := s.putLong 3 0 a.dst (readBytes s.mem a.src size)
      let rd := fun (o : Nat) => readByte s.mem (a.dst + o)
      match imageFault rd (a.flags % 2 == 1) with
      | some e => fail s 1 e
      | none =>
        match loadStages s.mem a.dst with
        | .error e => fail s e.1 e.2
        | .ok m =>
          let g : Segment := { asid := a.asid, va := a.va, dst := a.dst, size := size, privseg := imageNat rd 6 2 % 2 == 1 }
          let ids := readBytes s.mem (a.dst + imageNat rd 40 4) (32 * imageNat rd 32 2)
          let s := { s with mem := m }
          let s := (segPages size).foldl (fun s p => s.putLeaf a.asid (a.va + 65536 * p) (segLeaf (fun o => readByte m (a.dst + o)) a.dst p)) s
          let s := s.invalidateAsid a.asid
          let s := s.updPkg (fun p => { (p.extend 2 ids) with segments := p.segments ++ [g] })
          (s.putLong 3 0 a.status (loadStatus 4 0 0), 0)

/-- No accepted launch of a segment is left (R384). -/
def State.segmentQuiet (s : State) (g : Segment) : Bool :=
  !(s.launches.any (fun e => e.2.asid == g.asid && e.2.kernel.seg.toNat == g.va))

/-- Serves an UNLOAD. -/
def State.unloadSegment (s : State) (g : Segment) : State :=
  let s := (segPages g.size).foldl (fun s p => s.putLeaf g.asid (g.va + 65536 * p) 0) s
  (s.invalidateAsid g.asid).updPkg (fun p => { p with segments := p.segments.erase g })

end Sys2Proof.Machine
end

