-- ==== Sys2Proof/Machine/Host.lean ====
section
/-! DEFINITION. The host and the management controller: registers of the management space (11 R252; 12 R294-R296; 17 R367;
18 R379-R383), the mailbox (R383-R385), fault replies (08 R190), apertures (R386), peer links (R387), firmware and measurements
(R388, R389), errors and resets (R390, R391), debug accesses (R296, 08 R179), and `hsig` (20 R436-R438). -/

namespace Sys2Proof.Machine

/-! ### Register fields -/

/-- Bits `lo` to `lo + n - 1` of a value, in place. -/
def keepBits (v : W64) (lo n : Nat) : W64 := BitVec.ofNat 64 (v.toNat / 2 ^ lo % 2 ^ n * 2 ^ lo)
/-- Bits `lo` to `lo + n - 1` of a value, as a number. -/
def takeBits (v : W64) (lo n : Nat) : Nat := v.toNat / 2 ^ lo % 2 ^ n

/-- PF0 or the management controller. -/
def fromManagement (src : Source) : Bool := match src with | .tenant _ => false | _ => true

/-! ### Reads (R6, R379) -/

def Queue.ctl (q : Queue) : Nat :=
  bool1 q.en + at_ (bool1 q.privq) 1 + at_ q.prio 2 + at_ q.tenant 8 + at_ q.logn 12 + at_ q.asid.toNat 16 + at_ q.domain.toNat 32
def State.readQueue (s : State) (n r : Nat) : Nat :=
  let q := s.queue n
  match r with
  | 0x00 => q.base.toNat
  | 0x08 => q.ctl
  | 0x10 => q.tail.toNat
  | 0x18 => q.head.toNat
  | 0x20 => q.code.toNat + at_ q.index.toNat 8 + at_ (bool1 q.stop) 63
  | 0x28 => q.qpass.toNat
  | _ => 0
/-- Scheduler block (R252, R309, R386, R437); `who` is the tenant of a host function's view. -/
def State.readSched (s : State) (who : Option Nat) (off : Nat) : Nat :=
  let sees := fun (t : Nat) => who.isNone || who == some t
  let t := off / 8 % 4
  if off = 0 then (if who.isNone then s.sched.quantum.toNat else 0)
  else if off = 0x10 then (if who.isNone then s.sched.tenmap.toNat else 0)
  else if 0x100 ≤ off ∧ off < 0x120 then (if sees t then (s.tenant t).patch.toNat + at_ (s.tenant t).gid.toNat 48 else 0)
  else if 0x120 ≤ off ∧ off < 0x140 then (if sees t then (s.tenant t).code.toNat + at_ (s.tenant t).drops 16 else 0)
  else if 0x140 ≤ off ∧ off < 0x160 then (if who.isNone then (s.tenant t).hsigBase.toNat else 0)
  else if 0x160 ≤ off ∧ off < 0x180 then (if sees t then (s.tenant t).tapva.toNat + bool1 (s.tenant t).taperr else 0)
  else if 0x1000 ≤ off ∧ off < 0x2000 then
    let n := (off - 0x1000) / 0x40
    if sees (s.queue n).tenant then s.readQueue n (off % 0x40) else 0
  else 0
def powerCode (p : PowerState) : Nat := match p with | .awake => 0 | .gated => 1 | .gating => 2 | .waking => 3
/-- Power block of a cluster (R367); RAIL reads as written, also while PEND is 1 (00 R6). -/
def Cluster.read (k : Cluster) (r : Nat) : Nat :=
  match r with
  | 0x00 => k.refill.toNat + at_ k.cap.toNat 16
  | 0x08 => k.walu.toNat + at_ k.wf64.toNat 8 + at_ k.wmx.toNat 16 + at_ k.floor.toNat 32
  | 0x10 => k.ramp0.toNat
  | 0x18 => k.ramp1.toNat
  | 0x20 => k.target.toNat + at_ k.vmin.toNat 8 + at_ k.vmax.toNat 16 + at_ k.req.toNat 24 + at_ k.slack.toNat 40
  | 0x28 => (k.railPend.getD k.rail).toNat + at_ (bool1 k.railPend.isSome) 2 + at_ (powerCode k.state) 4
  | _ => 0
/-- Debug block of a die (12 R294, R295). -/
def Die.readDebug (d : Die) (off : Nat) : Nat :=
  if off = 0 then bool1 d.dbgEn + d.dbgBase.toNat
  else if off = 8 then d.dbgHead.toNat
  else if off = 0x10 then d.dbgTail.toNat + at_ d.dbgDrops.toNat 32
  else if off = 0x18 then bool1 d.halted + at_ (bool1 d.brkHalt) 1
  else if 0x2000 ≤ off ∧ off < 0x2200 ∧ off % 0x10 < 0x10 then (getT 0 d.swatch ((off - 0x2000) / 0x10 * 2 + off / 8 % 2)).toNat
  else 0
/-- System block of a die (R380); FREPLY holds the last reply. -/
def Die.readSystem (d : Die) (off : Nat) : Nat :=
  match off with
  | 0x00 => d.asidt.toNat
  | 0x08 => d.fring.toNat
  | 0x10 => d.fqueue.toNat
  | 0x18 => d.freply.toNat
  | 0x20 => d.cecnt.toNat + at_ d.uecnt.toNat 32
  | _ => 0
/-- Package block (R382, R383, R386, R387). -/
def State.readPackage (s : State) (off : Nat) : Nat :=
  let p := s.pkg
  if off = 0 then p.domtab.toNat
  else if off = 8 then p.dump.toNat
  else if off = 0x10 then p.fwState.toNat + at_ p.fwVersion.toNat 16
  else if off = 0x20 then bool1 p.apEn + at_ (bool1 p.apErr) 1 + p.apStart.toNat
  else if 0x40 ≤ off ∧ off < 0x80 then
    let k := getT Peer.reset p.peers ((off - 0x40) / 8)
    bool1 k.en + at_ k.number.toNat 8 + at_ k.link.toNat 16
  else if 0x80 ≤ off ∧ off < 0xA0 then
    let t := s.tenant ((off - 0x80) / 8)
    t.tapAsid.toNat + at_ (bool1 t.tapEn) 16
  else if off = 0x100 then p.mbOp.toNat + at_ (bool1 p.mbGo) 63
  else if off = 0x108 then p.mbState.toNat + at_ p.mbErr.toNat 8 + at_ (bool1 p.mbDone) 16
  else if 0x110 ≤ off ∧ off < 0x200 then (getT 0 p.mbArg ((off - 0x110) / 8)).toNat
  else 0
/-- What a read of an eight-byte register returns: the management space, or a tenant function's view of the scheduler block. In
recovery nothing but the mailbox answers (R388). -/
def State.mgmtRead (s : State) (off : Nat) (src : Source) : Option W64 :=
  if s.pkg.fwState = 2 ∧ !(src == .pf0 && decide (0x30100 ≤ off) && decide (off < 0x30200)) then none
  else some (BitVec.ofNat 64 (match src with
    | .tenant t => if off < 0x2000 then s.readSched (some t) off else 0
    | _ =>
      if off < 0x2000 then s.readSched none off
      else if 0x3000 ≤ off ∧ off < 0x3800 then (s.cluster ((off - 0x3000) / 0x40)).read (off % 0x40)
      else if 0x10000 ≤ off ∧ off < 0x20000 then (s.die (off / 0x4000 % 4)).readDebug (off % 0x4000)
      else if 0x20000 ≤ off ∧ off < 0x20400 then (s.die (off / 0x100 % 4)).readSystem (off % 0x100)
      else if 0x30000 ≤ off ∧ off < 0x30200 then
        (if 0x30100 ≤ off ∧ src != .pf0 then 0 else s.readPackage (off - 0x30000))
      else 0))

/-! ### Writes with no behaviour of their own (R6, R7) -/

/-- QCTL: a tenant's function writes EN, PRIO and LOGN alone; TAIL and HEAD count from the write that sets EN (R252). -/
def Queue.writeCtl (q : Queue) (v : W64) (full : Bool) : Queue :=
  let en := v.getLsbD 0
  let q := { q with en := en, prio := takeBits v 2 5, logn := takeBits v 12 4 }
  let q := if full then { q with privq := v.getLsbD 1, tenant := takeBits v 8 2, asid := v.extractLsb' 16 16, domain := v.extractLsb' 32 8 } else q
  q
def Queue.enable (old q : Queue) : Queue :=
  if q.en && !old.en then { q with tail := 0, head := 0, buffer := [], pollAt := 0, pollOk := false }
  else if !q.en then { q with buffer := [], pollAt := 0, pollOk := false } else q

/-- Writes of the scheduler block. -/
def State.writeSched (s : State) (off : Nat) (v : W64) (src : Source) : State :=
  let t := off / 8 % 4
  if off = 0 then (if fromManagement src then { s with sched := { s.sched with quantum := v.extractLsb' 0 32 } } else s)
  else if off = 0x10 then (if fromManagement src then { s with sched := { s.sched with tenmap := v } } else s)
  else if 0x120 ≤ off ∧ off < 0x140 then
    if mayTenant src t then
      s.updTenant t (fun x =>
        let c := x.code &&& ~~~(v.extractLsb' 0 8)
        { x with code := c, drops := if c = 0 then 0 else x.drops })
    else s
  else if 0x140 ≤ off ∧ off < 0x160 then
    let base := takeBits v 9 43 * 512
    if src = .controller ∧ paOk base ∧ (paClass base = 0 ∨ paClass base = 0xC) then
      s.updTenant t (fun x => { x with hsigBase := keepBits v 9 43 ||| keepBits v 0 1 })
    else s
  else if 0x160 ≤ off ∧ off < 0x180 then
    if mayTenant src t then s.updTenant t (fun x => { x with tapva := keepBits v 32 25, taperr := x.taperr && !v.getLsbD 0 }) else s
  else if 0x1000 ≤ off ∧ off < 0x2000 then
    let n := (off - 0x1000) / 0x40
    if !mayTenant src (s.queue n).tenant then s
    else
      match off % 0x40 with
      | 0x00 => s.updQueue n (fun q => { q with base := keepBits v 12 40 })
      | 0x08 => s.updQueue n (fun q => Queue.enable q (q.writeCtl v (fromManagement src)))
      | _ => s
  else s

/-- Writes of a power block: weights, and the voltage loop's limits (R367). -/
def Cluster.write (k : Cluster) (r : Nat) (v : W64) : Cluster :=
  match r with
  | 0x08 => { k with walu := v.extractLsb' 0 8, wf64 := v.extractLsb' 8 8, wmx := v.extractLsb' 16 16, floor := v.extractLsb' 32 32 }
  | 0x20 =>
    let t := takeBits v 0 7
    let k := { k with target := if t < 20 ∨ 120 < t then k.target else BitVec.ofNat 7 t, vmin := v.extractLsb' 8 8, vmax := v.extractLsb' 16 8 }
    { k with req := BitVec.ofNat 16 (k.clampReq k.req.toNat) }
  | _ => k

/-- Writes of a debug block; DBGHALT's HALTED has its own step. -/
def Die.writeDebug (d : Die) (off : Nat) (v : W64) : Die :=
  if off = 0 then { d with dbgEn := v.getLsbD 0, dbgBase := keepBits v 12 40 }
  else if off = 8 then { d with dbgHead := v.extractLsb' 0 32 }
  else if off = 0x18 then { d with brkHalt := v.getLsbD 1 }
  else if 0x2000 ≤ off ∧ off < 0x2200 then
    { d with swatch := setT 0 d.swatch ((off - 0x2000) / 0x10 * 2 + off / 8 % 2) (keepBits v 0 2 ||| keepBits v 5 51) }
  else d

/-- Writes of a die's system block. -/
def Die.writeSystem (d : Die) (off : Nat) (v : W64) : Die :=
  match off with
  | 0x00 => { d with asidt := keepBits v 19 33 }
  | 0x08 => { d with fring := keepBits v 15 37 }
  | 0x10 => { d with fqueue := keepBits v 6 46 }
  | 0x20 => { d with cecnt := d.cecnt &&& ~~~(v.extractLsb' 0 32) }
  | _ => d

/-- The error a request meets before it is served: an unknown OP, or a state that does not admit it (R383). -/
def Package.refusal (p : Package) (op : Nat) : Option (BitVec 8) :=
  if p.fwState = 3 ∨ (p.fwState = 2 ∧ op ≠ 4) then some 3 else if op = 0 ∨ 4 < op then some 1 else none

/-- MBCMD and MBARG, which PF0 alone writes; a write while a request is served is ignored (R383). -/
def Package.writeMailbox (p : Package) (off : Nat) (v : W64) : Package :=
  if off = 0x108 then { p with mbDone := p.mbDone && !v.getLsbD 16 }
  else if p.mbState = 1 then p
  else if off = 0x100 then
    let p := { p with mbOp := v.extractLsb' 0 8 }
    if v.getLsbD 63 then { p with mbGo := true, mbState := 1, mbCopy := p.mbArg, mbResult := p.refusal p.mbOp.toNat } else p
  else { p with mbArg := setT 0 p.mbArg ((off - 0x110) / 8) v }

/-- Writes of the package block. -/
def State.writePackage (s : State) (off : Nat) (v : W64) (src : Source) : State :=
  if 0x100 ≤ off then (if src = .pf0 then s.updPkg (fun p => p.writeMailbox off v) else s)
  else if !s.answers then s
  else if off = 8 then s.updPkg (fun p => { p with dump := keepBits v 20 32 })
  else if off = 0x20 then
    s.updPkg (fun p => { p with apEn := v.getLsbD 0, apErr := p.apErr && !v.getLsbD 1, apStart := keepBits v 32 20 })
  else if 0x40 ≤ off ∧ off < 0x80 then
    s.updPkg (fun p =>
      let k := (off - 0x40) / 8
      { p with peers := setT Peer.reset p.peers k { getT Peer.reset p.peers k with en := v.getLsbD 0, number := v.extractLsb' 8 8 } })
  else if 0x80 ≤ off ∧ off < 0xA0 then
    s.updTenant ((off - 0x80) / 8) (fun t => { t with tapAsid := v.extractLsb' 0 16, tapEn := v.getLsbD 16 })
  else s

/-- REGISTER_WRITE: a register's RW and W1C fields take the write; a register with a step of its own, and one that the source
does not reach, ignores it. -/
def execRegisterWrite (off : Nat) (v : W64) (src : Source) (s : State) : Out :=
  .next (
    if 0x30000 ≤ off ∧ off < 0x30200 then (if fromManagement src then s.writePackage (off - 0x30000) v src else s)
    else if !s.answers then s
    else if off < 0x2000 then s.writeSched off v src
    else if 0x3000 ≤ off ∧ off < 0x3800 then
      (if src = .controller then s.updCluster ((off - 0x3000) / 0x40) (fun k => (k.write (off % 0x40) v).wakingReq s.dcc) else s)
    else if !fromManagement src then s
    else if 0x10000 ≤ off ∧ off < 0x20000 then s.updDie (off / 0x4000 % 4) (fun d => d.writeDebug (off % 0x4000) v)
    else if 0x20000 ≤ off ∧ off < 0x20400 then s.updDie (off / 0x100 % 4) (fun d => d.writeSystem (off % 0x100) v)
    else s)

/-! ### Resets (R388, R391) -/

/-- The body of a firmware image, and its fields. -/
def fwBody (img : List Byte) : List Byte := (img.drop 4096).take (fieldAt img 8 4)
/-- An image as R388 lays it out. -/
def fwLayout (img : List Byte) : Bool :=
  fieldAt img 0 4 == 0x46574D39 && decide (fieldAt img 8 4 ≤ 67108864) && ((img.drop 3744).take 352).all (fun b => b == 0)
    && decide (4096 + fieldAt img 8 4 ≤ img.length)
/-- The public key and the signature of an image. -/
def fwKey (img : List Byte) : List Byte := (img.drop 12).take 1312
def fwSignature (img : List Byte) : List Byte := (img.drop 1324).take 2420
/-- The image passes verification: its layout, its key by the fused hash, and the key's signature over the digest of the body (R388). -/
def fwVerified (img : List Byte) : Bool :=
  fwLayout img && sha3_256 (fwKey img) == Config.fusedKeyHash && Config.mlDsaVerify (fwKey img) (sha3_256 (fwBody img)) (fwSignature img)

/-- The package after a reset: every array of the package zero, HBM (class 0) among them, the DCC at 0, STATE 1, or 2 when the stored image does not verify; the stored
image is kept, and M0 is extended with its body's digest (R388, R389, R391). Messages already sent have gone to the host. Memory behind
the links stays (notes/assumptions/34.md). -/
def State.packageReset (s : State) : State :=
  let img := s.pkg.firmware
  let ok := fwVerified img
  let p := { Package.reset with firmware := img, msix := s.pkg.msix, fwState := if ok then 1 else 2, fwVersion := BitVec.ofNat 32 (fieldAt img 4 4) }
  { State.reset with
    mem := clearRange s.mem 0 281474976710656
    pkg := if ok then p.extend 0 (sha3_256 (fwBody img)) else p
    inputs := s.inputs
    freeCount := s.freeCount }

/-- PACKAGE_RESET. -/
def execPackageReset (s : State) : Out := .next s.packageReset

/-- Ends every wave of a set of launches as if by `exit`. -/
def State.endWaves (s : State) (lids : List Nat) : State :=
  ((s.waves.filter (fun e => lids.contains e.2.launch)).map Prod.fst).foldl State.endWave s

/-- FUNCTION_LEVEL_RESET of PF(t + 1): the tenant's queues are disabled, its waves end, its launches go with them, and its
scheduler memory is cleared. -/
def execFunctionLevelReset (t : Nat) (s : State) : Out :=
  let old := s.launches.filter (fun e => e.2.tenant == t)
  let mine := old.map Prod.fst
  let s := s.endWaves mine
  let gone := fun (l : Nat) => mine.contains l
  let s := s.dropEngines gone
  let s := { s with
    launches := s.launches.filter (fun e => !gone e.1)
    posted := s.posted.filter (fun p => !gone p.launch)
    groups := s.groups.filter (fun e => !gone e.2.launch)
    meshes := s.meshes.filter (fun m => !gone m.launch)
    prims := s.prims.filter (fun p => !gone p.launch)
    frags := s.frags.filter (fun f => !gone f.launch)
    sched := { s.sched with
      queues := s.sched.queues.map (fun (e : Nat × Queue) => if e.2.tenant = t then (e.1, { e.2 with en := false, buffer := [], pollAt := 0, pollOk := false }) else e)
      graphs := s.sched.graphs.filter (fun g => g.tenant != t)
      insts := s.sched.insts.filter (fun i => i.tenant != t)
      mem := clearRange s.sched.mem (schedKey t 0) (schedKey (t + 1) 0) } }
  let s := old.foldl (fun s e => s.endPass e.2) s
  .next (s.updTenant t (fun x => { x with images := [], flrAt := some s.dcc }))

/-! ### The mailbox (R383-R385) -/

/-- Byte fields of the request's copy of MBARG. -/
def Package.argByte (p : Package) (i : Nat) : Nat := (getT 0 p.mbCopy (i / 8)).toNat / 256 ^ (i % 8) % 256
def Package.arg (p : Package) (off n : Nat) : Nat := natOfBytes ((List.range n).map (fun i => BitVec.ofNat 8 (p.argByte (off + i))))

/-- A request of this OP is to be served. -/
def State.serves (s : State) (op : Nat) : Bool := s.pkg.mbState == 1 && s.pkg.mbResult.isNone && s.pkg.mbOp.toNat == op
/-- The request has its result. -/
def State.answer (s : State) (err : Nat) : State := s.updPkg (fun p => { p with mbResult := some (BitVec.ofNat 8 err) })

/-- An address argument of class 0 or 0xC, aligned. -/
def goodArg (pa align : Nat) (host : Bool) : Bool :=
  decide (pa < 2 ^ 52) && paOk pa && (paClass pa == 0 || (host && paClass pa == 0xC)) && pa % align == 0

def Package.loadArgs (p : Package) : LoadArgs :=
  { src := p.arg 0 8, dst := p.arg 8 8, asid := BitVec.ofNat 16 (p.arg 16 2), flags := p.arg 18 1, zero := p.arg 19 5, va := p.arg 24 8
    status := p.arg 32 8 }
/-- The error of a LOAD's arguments, 0 when they are in range. -/
def LoadArgs.err (a : LoadArgs) : Nat :=
  if 2 ≤ a.flags ∨ a.zero ≠ 0 ∨ 2 ^ 57 ≤ a.va then 1
  else if !goodArg a.src 256 true || !goodArg a.dst 65536 false || !goodArg a.status 8 true || a.va % 65536 != 0 then 2
  else 0

/-- LOAD (R384, 16 R353). -/
def execLoad (s : State) : Out :=
  if !s.serves 1 then .next s
  else
    let a := s.pkg.loadArgs
    if a.err ≠ 0 then .next (s.answer a.err)
    else
      let r := s.loadSegment a
      .next (r.1.answer r.2)

/-- The segment an UNLOAD names, if its arguments are in range and it is loaded. -/
def State.unloadTarget (s : State) : Except Nat Segment :=
  let p := s.pkg
  let va := p.arg 24 8
  if ((List.range 240).any (fun i => !(i == 16 || i == 17 || (decide (24 ≤ i) && decide (i < 32))) && p.argByte i != 0)) ∨ 2 ^ 57 ≤ va then .error 1
  else if va % 65536 ≠ 0 then .error 2
  else match s.segment? (BitVec.ofNat 16 (p.arg 16 2)) va with
    | some g => .ok g
    | none => .error 5
/-- An UNLOAD can be served: it fails, or its segment has no launch left. -/
def State.unloadReady (s : State) : Bool :=
  s.serves 2 && (match s.unloadTarget with | .ok g => s.segmentQuiet g | .error _ => true)

/-- UNLOAD (R384). -/
def execUnload (s : State) : Out :=
  if !s.unloadReady then .next s
  else
    match s.unloadTarget with
    | .error e => .next (s.answer e)
    | .ok g => .next ((s.unloadSegment g).answer 0)

/-- The fields of an attestation reply that are signed (R385). -/
def State.attested (s : State) (nonce : List Byte) : List Byte :=
  nonce ++ bytesOfNat 8 s.dcc ++ (List.range 8).flatMap (fun i => getT (List.replicate 32 0) s.pkg.meas i)
/-- A list of bytes at a fixed length, zeros at its end. -/
def padTo (n : Nat) (b : List Byte) : List Byte := b.take n ++ List.replicate (n - b.length) 0
/-- The reply: the signed fields, the signature and the certificate with its length, which are free values (R389). -/
def State.attestReply (s : State) (nonce : List Byte) : List Byte :=
  let f := s.attested nonce
  let cert := (Config.certificate.1 :: Config.certificate.2).take 5472
  padTo 8192 (f ++ padTo 2420 (Config.signature (sha3_256 f)) ++ bytesOfNat 4 cert.length ++ cert)

/-- ATTEST (R385). -/
def execAttest (s : State) : Out :=
  if !s.serves 3 then .next s
  else
    let buf := s.pkg.arg 32 8
    if !goodArg buf 64 true then .next (s.answer 2)
    else
      let nonce := (List.range 32).map (fun i => BitVec.ofNat 8 (s.pkg.argByte i))
      .next ((s.putLong 3 0 buf (s.attestReply nonce)).answer 0)

/-- FWRELOAD (R385, R388): a verified image replaces the stored one. -/
def execFwreload (s : State) : Out :=
  if !s.serves 4 then .next s
  else
    let pa := s.pkg.arg 0 8
    let size := s.pkg.arg 8 4
    if 67108864 + 4096 < size then .next (s.answer 1)
    else if !goodArg pa 4096 true then .next (s.answer 2)
    else
      let img := readBytes s.mem pa size
      if fwVerified img then .next ((s.updPkg (fun p => { p with firmware := img })).answer 0) else .next (s.answer 6)

/-- MAILBOX_REQUEST_END (R383); in recovery a reloaded image is followed by a package reset (R385). -/
def execMailboxRequestEnd (s : State) : Out :=
  match s.pkg.mbResult with
  | none => .next s
  | some e =>
    if s.pkg.mbState ≠ 1 then .next s
    else
      let reload := s.pkg.fwState == 2 && s.pkg.mbOp == 4 && e == 0
      let s := s.updPkg (fun p =>
        ({ p with mbState := if e = 0 then 2 else 3, mbErr := e, mbDone := true, mbGo := false, mbResult := none } : Package).sendMsix 0 0)
      .next (if reload then s.packageReset else s)

/-- Bytes of the state dump (R390). -/
def dumpBytes : Nat := 17825792
/-- Lines of the dump's area that are pinned, and refuse the firmware's writes (09 R221). -/
def State.dumpPins (s : State) : List Nat :=
  let base := s.pkg.dump.toNat
  (s.pins.filter (fun p => decide (base ≤ 128 * p.line) && decide (128 * p.line < base + dumpBytes))).map (fun p => 128 * p.line)
/-- The dump is due: in the cycle in which every die has halted (R390; DESIGN CHOICE, notes/assumptions/59.md). -/
def State.dumpEvents (s : State) : List Event :=
  if s.pkg.dumping ∧ s.pkg.dumpDcc < s.dcc ∧ s.retryDue none s.dumpPins then [.stateDumpComplete] else []

/-- What the mailbox does next. -/
def State.mailboxEvents (s : State) : List Event :=
  if s.pkg.mbState ≠ 1 then []
  else if s.pkg.mbResult.isSome then [.mailboxRequestEnd]
  else
    match s.pkg.mbOp.toNat with
    | 1 => [.load]
    | 2 => if s.unloadReady then [.unload] else []
    | 3 => [.attest]
    | 4 => [.fwreload]
    | _ => []

/-- DOMTAB_WRITE (R382, R389): M1 takes the contents of the table. -/
def execDomtabWrite (v : W64) (src : Source) (s : State) : Out :=
  if !fromManagement src ∨ !s.answers then .next s
  else
    let base := keepBits v 13 39
    .next (s.updPkg (fun p => { (p.extend 1 (readBytes s.mem base.toNat 8192)) with domtab := base }))

/-! ### Fault replies (08 R190-R192, R194) -/

/-- Cycles until a replayed access of an engine may be tried again: its lookup and its walk. -/
def State.replayDelay (s : State) (f : FaultRec) : Nat := 40 + s.walkLatency f.core f.asid f.va

/-- Accesses held on a ticket walk again; a unit's whole instruction is evaluated anew. -/
def State.replayOp (s : State) (die ticket id : Nat) : State :=
  match s.op? id with
  | none => s
  | some o =>
    let mine := fun (a : Access) => a.phase == .held die ticket
    match o.kind with
    | .unit _ _ _ _ =>
      s.updOp id (fun o => { o with accs := o.accs.map (fun a => if mine a then { a with phase := .ready, arrival := s.dcc + 40 + s.walkLatency o.core o.asid a.va } else a) })
    | _ =>
      let s := (o.accs.filter mine).foldl (fun s a => s.startWalk o.core o.asid a.va) s
      s.updOp id (fun o => { o with accs := o.accs.map (fun a => if mine a then { a with phase := .walk } else a) })

/-- Operations with an access held on a ticket. -/
def State.heldOps (s : State) (die ticket : Nat) : List Nat :=
  (s.ops.filter (fun o => o.accs.any (fun a => a.phase == .held die ticket))).map (fun o => o.id)
/-- Engine operations of a core held on a ticket. -/
def State.heldCopies (s : State) (die ticket : Nat) : List (Nat × CopyOp) :=
  s.cores.flatMap (fun e => (e.2.copyQ.filter (fun o => o.status == .held die ticket)).map (fun o => (e.1, o)))
def State.heldMmas (s : State) (die ticket : Nat) : List (Nat × MmaOp) :=
  s.cores.flatMap (fun e => (e.2.matrixQ.filter (fun o => o.streamA.held == some (die, ticket) || o.streamB.held == some (die, ticket))).map (fun o => (e.1, o)))
/-- Parts parked on a ticket, with the address that waits. -/
def State.ticketParts (s : State) (die ticket : Nat) : List (PartRef × Nat) :=
  s.waves.flatMap (fun e => e.2.parts.filterMap (fun p =>
    match p.park with
    | .on (.ticket d t va) => if d = die ∧ t = ticket then some ({ core := e.2.core, slot := e.2.slot, base := p.base }, va) else none
    | _ => none))

/-- A stream that waited for a ticket goes on at a cycle. -/
def Stream.resume (x : Stream) (die ticket at_ : Nat) : Stream :=
  if x.held = some (die, ticket) then { x with held := none, next := some at_ } else x
def MmaOp.resume (o : MmaOp) (die ticket at_ : Nat) : MmaOp :=
  { o with streamA := o.streamA.resume die ticket at_, streamB := o.streamB.resume die ticket at_ }

/-- Replay: every waiting access walks again, and held engine operations are tried again, after the latency of their own access. -/
def State.replay (s : State) (f : FaultRec) (die : Nat) : State :=
  let t := f.ticket
  let at_ := s.dcc + s.replayDelay f + s.engineLat f.core f.asid f.va
  let cs := s.heldCopies die t
  let ms := s.heldMmas die t
  let s := (s.heldOps die t).foldl (fun s id => s.replayOp die t id) s
  let s := cs.foldl (fun s e => s.updCopy e.1 e.2.id (fun o => { o with status := .running, due := at_ })) s
  ms.foldl (fun s e => s.updMma e.1 e.2.id (fun o => o.resume die t at_)) s

/-- Reject: held accesses fail with DETAIL 1, engine operations end, parked parts take ACCESS, and a task's decrement is
dropped. -/
def State.reject (s : State) (f : FaultRec) (die : Nat) : State :=
  let t := f.ticket
  let cs := s.heldCopies die t
  let ms := s.heldMmas die t
  let ps := s.ticketParts die t
  let s := (s.heldOps die t).foldl (fun s id => s.failAccesses id 1 (Nat.log2 f.size) (fun a => a.phase == .held die t)) s
  let s := cs.foldl (fun s e =>
    (s.dropCopy e.1 e.2.id).endEngine e.1 e.2.slot e.2.admission .cp e.2.id (some (copyDelivery e.2 tcCopyfault 2))) s
  let s := ms.foldl (fun s e => s.failMma e.1 e.2 tcMxfault 2) s
  let s := ps.foldl (fun s p =>
    match s.ctx? p.1 with
    | some c => s.precise c tcAccess 1 (BitVec.ofNat 64 p.2)
    | none => s) s
  { s with joinDecs := s.joinDecs.filter (fun e =>
      !(e.core == f.core && e.asid == f.asid && decide (f.page ≤ e.addr.toNat) && decide (e.addr.toNat < f.page + f.size))) }

/-- FAULT_REPLY. -/
def execFaultReply (die : Nat) (v : W64) (src : Source) (s : State) : Out :=
  if !fromManagement src ∨ !s.answers then .next s
  else
    let s := s.updDie die (fun d => { d with freply := keepBits v 0 33 })
    match (s.die die).faults.find? (fun f => f.ticket == takeBits v 0 32) with
    | none => .next s
    | some f =>
      let s := s.updDie die (fun d => { d with faults := d.faults.filter (fun g => g.ticket != f.ticket) })
      .next (if v.getLsbD 32 then s.reject f die else s.replay f die)

/-! ### Halts and debug accesses (12 R295, R296) -/

/-- DIE_HALT: no partition of the die selects from now on. -/
def execDieHalt (die : Nat) (s : State) : Out :=
  match (s.die die).haltAt with
  | some t => .next (if t ≤ s.dcc then s.updDie die (fun d => { d with haltAt := none, halted := true }) else s)
  | none => .next s

/-- HALTED_WRITE: writing 1 to HALTED resumes selection in the following cycle; BRKHALT takes the write. -/
def execHaltedWrite (die : Nat) (v : W64) (src : Source) (s : State) : Out :=
  if !fromManagement src ∨ !s.answers then .next s
  else .next (s.updDie die (fun d => { d with brkHalt := v.getLsbD 1, halted := d.halted && !v.getLsbD 0, selectFrom := if d.halted && v.getLsbD 0 then s.dcc + 1 else d.selectFrom }))

/-- DEBUG_INTERFACE_ACCESS: reads four bytes of the OPM, or writes them on a halted core. -/
def execDebugInterfaceAccess (write : Bool) (opm : Nat) (v : W32) (s : State) : Out :=
  if !s.answers then .next s
  else if write then .next (if (s.die (dieOf (opmCore opm))).halted then s.opmWrite opm (bytesOfNat 4 v.toNat) else s)
  else .next (s.updPkg (fun p => { p with readData := BitVec.ofNat 64 (natOfBytes ((List.range 4).map (fun i => s.opmByte (opm + i)))) }))

/-! ### Apertures (R386) -/

/-- All ones of an access's size. -/
def ones (size : Nat) : W64 := BitVec.ofNat 64 (2 ^ (8 * size) - 1)
def State.hostData (s : State) (v : W64) : State := s.updPkg (fun p => { p with readData := v })
/-- A pinned line refuses a host access, which is reissued (09 R221). -/
def State.again (s : State) (pa : Nat) (e : Event) : State :=
  let s := s.refuse pa
  { s with inputs := (s.dcc + 1, .event e) :: s.inputs }

/-- The access at its home. -/
def State.hostAccess (s : State) (a : HostAccess) (pa : Nat) (e : Event) : State :=
  if s.pinned none pa ∨ s.pinned none (pa + a.size - 1) then s.again pa e
  else if a.write then s.putLong 3 0 pa (bytesOfNat a.size a.data.toNat)
  else (s.touchBank pa).hostData (BitVec.ofNat 64 (natOfBytes (readBytes s.mem pa a.size)))

/-- An access that the package does not answer: a read returns all ones (DESIGN CHOICE, notes/assumptions/59.md), a write is dropped. -/
def State.unanswered (s : State) (a : HostAccess) : State := if a.write then s else s.hostData (ones a.size)

/-- APERTURE_ACCESS; in the fatal state reads are still answered, since they fetch the state dump (R386, R390). -/
def execApertureAccess (a : HostAccess) (s : State) : Out :=
  let pa := s.pkg.apStart.toNat + a.off
  if s.pkg.fwState = 2 ∨ (s.pkg.fwState = 3 ∧ a.write) then .next (s.unanswered a)
  else if s.pkg.apEn ∧ a.off < 2 ^ 32 ∧ paClass pa ≤ 1 ∧ paOk pa then .next (s.hostAccess a pa (.apertureAccess a))
  else
    let s := s.updPkg (fun p => { p with apErr := true })
    .next (if a.write then s else s.hostData (ones a.size))

/-- TENANT_APERTURE_ACCESS. -/
def execTenantApertureAccess (t : Nat) (a : HostAccess) (s : State) : Out :=
  let x := s.tenant t
  let va := x.tapva.toNat + a.off
  let pa : Option Nat :=
    if !x.tapEn ∨ 2 ^ 57 ≤ va then none
    else match s.walk 0 x.tapAsid va with
      | .leaf pte p => if (s.leafFault (if a.write then .write else .read) pte (paOf pte p va)).isNone then some (paOf pte p va) else none
      | _ => none
  if !s.answers then .next (s.unanswered a)
  else match pa with
  | some pa => .next (s.hostAccess a pa (.tenantApertureAccess t a))
  | none =>
    let s := s.updTenant t (fun x => { x with taperr := true })
    .next (if a.write then s else s.hostData (ones a.size))

/-! ### Fatal errors and the dump (R390) -/

/-- FATAL_ERROR: every die halts in the following cycle; a second one is recorded in the header. -/
def execFatalError (cause pa : Nat) (s : State) : Out := .next (s.fatal cause pa)

/-- Header of the dump. -/
def State.dumpHeader (s : State) : List Byte :=
  bytesOfNat 4 0x444D5039 ++ bytesOfNat 4 0 ++ bytesOfNat 8 s.pkg.dumpDcc ++ bytesOfNat 1 s.pkg.dumpCause ++ bytesOfNat 7 0
    ++ bytesOfNat 8 s.pkg.dumpPa
    ++ (List.range 4).flatMap (fun d => bytesOfNat 8 ((s.die d).readSystem 0x20) ++ bytesOfNat 8 ((s.die d).readDebug 0x10))
/-- A walk in flight, in 32 bytes. -/
def Walk.dumped (w : Walk) : List Byte :=
  bytesOfNat 8 w.va ++ bytesOfNat 2 w.asid.toNat ++ bytesOfNat 1 w.core ++ bytesOfNat 1 1 ++ bytesOfNat 4 0 ++ bytesOfNat 8 (w.due.getD 0) ++ bytesOfNat 8 0
/-- A die's page of the dump: its system block, its fault ring's HEAD and TAIL, and its walkers. -/
def State.dumpDie (s : State) (d : Nat) : List Byte :=
  let di := s.die d
  let sys := [0x00, 0x08, 0x10, 0x18, 0x20].flatMap (fun r => bytesOfNat 8 (di.readSystem r))
  let ws := (s.walks.filter (fun w => dieOf w.core == d)).take 64
  padTo 2048 (sys ++ readBytes s.mem di.fqueue.toNat 16) ++ ws.flatMap Walk.dumped
/-- A core's page of the dump: its numbers, its pool counts, and what its side log and its queues hold. -/
def State.dumpCore (s : State) (core : Nat) : List Byte :=
  let k := s.core core
  bytesOfNat 8 (coreX core + at_ (coreY core) 4 + at_ (dieOf core) 8 + at_ (clusterOf core) 16)
    ++ (List.range 64).flatMap (fun b => bytesOfNat 2 (getT 1024 k.pool b))
    ++ bytesOfNat 8 k.sideLog.length
    ++ bytesOfNat 8 (match k.copyQ with | o :: _ => o.pc.toNat | [] => 0) ++ bytesOfNat 8 (match k.matrixQ with | o :: _ => o.pc.toNat | [] => 0)

/-- The firmware's writes of a memory image of the dump's area reach their slices (12 R294): line by line where a watchpoint may
match, which makes no other difference. -/
def State.putDump (s : State) (m : List (Nat × Byte)) : State :=
  let base := s.pkg.dump.toNat
  if s.dies.all (fun e => e.2.swatch.all (fun w => !w.2.getLsbD 0)) then { s with mem := m }
  else (List.range (dumpBytes / 128)).foldl (fun s i => s.slicePut 3 0 (base + 128 * i) (readBytes m (base + 128 * i) 128)) s
/-- STATE_DUMP_COMPLETE: the dump stands at DUMP, and vector 5 is sent. -/
def execStateDumpComplete (s : State) : Out :=
  if !s.pkg.dumping then .next s
  else if s.dumpPins ≠ [] then .next (s.refuseAll s.dumpPins)
  else
    let base := s.pkg.dump.toNat
    let m := clearRange s.mem base (base + dumpBytes)
    let m := writeBytes m base s.dumpHeader
    let m := (List.range 4).foldl (fun m d => writeBytes m (base + 0x1000 + 0x1000 * d) (s.dumpDie d)) m
    let m := (List.range 128).foldl (fun m k =>
      let m := writeBytes m (base + 0x5000 + 0x21000 * k) (s.dumpCore k)
      ((s.waves.filter (fun e => e.2.core == k)).foldl (fun m (e : Nat × Wave) =>
        writeBytes m (base + 0x6000 + 0x21000 * k + 0x400 * e.2.slot)
          ((List.range (e.2.width / 4)).flatMap (s.descriptor e.2))) m)) m
    .next (((s.putDump m).updPkg (fun p => { p with dumping := false })).sendMsix 0 5)

/-! ### Peer links (R387) -/

/-- An operation that writes. -/
def OpKind.writesMemory : OpKind → Bool
  | .store => true
  | .atom _ _ => true
  | .qenq _ => true
  | .qdeq _ => true
  | _ => false
/-- An access on its way over a link: one that the L1 serves crosses none; a sys-scope store has until its end (09 R209). -/
def overLink (k now : Nat) (a : Access) : Bool :=
  paClass a.pa == 4 + k && !a.l1 && (a.phase == .ready || (a.phase == .done && decide (now < a.due)))

/-- Addresses of the writes toward a peer that have been sent and have not performed. -/
def State.writesOver (s : State) (k : Nat) : List Nat :=
  (s.ops.filter (fun o => o.kind.writesMemory)).flatMap (fun o => (o.accs.filter (overLink k s.dcc)).map (fun a => a.pa))
    ++ ((s.backs.map (fun (b : Back) => b.line * 128)) ++ s.posted.map (fun (p : Posted) => p.pa)).filter (fun pa => paClass pa == 4 + k)

/-- PEER_LINK_STATE: over a link that goes down, reads on their way fail with DETAIL 3, fills are lost, and writes already sent are a
fatal error. -/
def execPeerLinkState (k : Nat) (st : Nat) (s : State) : Out :=
  let old := getT Peer.reset s.pkg.peers k
  let s := s.updPkg (fun p => { p with peers := setT Peer.reset p.peers k { old with link := BitVec.ofNat 2 st } })
  if old.link = 2 ∧ st ≠ 2 then
    let reads := s.ops.filter (fun o => !o.kind.writesMemory && o.accs.any (overLink k s.dcc))
    let s := reads.foldl (fun s o => s.failAccesses o.id 3 16 (overLink k s.dcc)) { s with fills := s.fills.filter (fun f => paClass (f.line * 128) != 4 + k) }
    .next (match s.writesOver k with
      | pa :: _ => s.fatal 3 pa
      | [] => s)
  else .next s

/-! ### `hsig` (20 R436-R438) -/

/-- `hsig`: after the release at sys scope the store leaves, and the part waits until it has performed; then the message is sent and a
region begins. -/
def execHsig (u : UWord) : State → Out :=
  issue { s := u.s, len := 4, priv := true, mem := true } (fun c st =>
    match st.releaseFirst c 6 [.ld, .st] with
    | some st => st
    | none =>
        let t := c.launch.tenant
        let h := (st.tenant t).hsigBase
        let b := u.b.toNat
        let pa := (keepBits h 9 43).toNat + 8 * b
        if !h.getLsbD 0 then (st.beginRegion c.ref (c.next 4) true).done c 4
        else
          (st.post
            { id := 0, core := c.ref.core, launch := c.wave.launch, op := none, part := some (c.ref, c.wave.admission), src := 0, pa := pa
              what := .signal (c.sreg u.a.toNat) (t + 1) b (c.next 4)
              arrival := st.dcc + slicePath c.ref.core pa + (if l2Cached pa then 0 else homeExtra pa) }).parkPart c.ref (.on (.posted st.nextId)))

end Sys2Proof.Machine
end

