-- ==== Sys2Proof/Machine/MemEvents.lean ====
section
/-! DEFINITION. Steps of the memory unit and the slices: page walks, completions of stores, pins and
banks (08 R186, R189, R199, R200; 09 R222, R223). -/

namespace Sys2Proof.Machine

/-- An operation has an access that waits for a walk of a page. -/
def MemOp.waitsFor (o : MemOp) (w : Walk) : Bool :=
  o.core == w.core && o.asid == w.asid && o.accs.any (fun a => a.phase == .walk && a.va / 65536 == w.va / 65536)
def inWalk (w : Walk) (a : Access) : Bool := a.phase == .walk && a.va / 65536 == w.va / 65536

/-- Gives the accesses of an operation that a walk ends their leaf. -/
def State.walkFound (s : State) (w : Walk) (pte logPage id : Nat) : State :=
  match s.op? id with
  | none => s
  | some o =>
    let now := fun (a : Access) => if inWalk w a then s.resolved o a a.cp pte logPage a.due else a
    let bad := (o.accs.filter (inWalk w)).map now
    let s := (o.accs.filter (inWalk w)).foldl (fun s a => s.sendAhead o (now a)) s
    let s := s.updOp id (fun o => { o with accs := o.accs.map now })
    (s.holdFailures o bad).freeLog id

/-- Holds the accesses of an operation on a ticket; a store takes a side-log entry if it has none (R191, R193). -/
def State.walkHeld (s : State) (w : Walk) (die ticket page size id : Nat) : State :=
  match s.op? id with
  | none => s
  | some o =>
    let s := s.updOp id (fun o => { o with accs := o.accs.map (fun a =>
      if inWalk w a then { a with phase := .held die ticket } else a) })
    if o.kind.logged ∧ !((s.core o.core).sideLog.any (fun e => e.op == id && e.covers o.asid w.va)) then
      s.takeLog o.core id o.asid [(page, size)]
    else s

/-- Operations of the side log that wait for a walk and have no side-log entry for its page yet (R193). -/
def State.unlogged (s : State) (w : Walk) : List MemOp :=
  s.ops.filter (fun o => o.kind.logged && o.waitsFor w && !((s.core o.core).sideLog.any (fun e => e.op == o.id && e.covers o.asid w.va)))

/-- A walk has references left to make. -/
def State.walkOn (s : State) (w : Walk) : Bool := ((s.walkRefs (dieOf w.core) w.asid w.va)[w.made]?).isSome

/-- The walk's next step has something to do. A reference is not refused, or is refused for the first time (R221); at the end it could
post its record, and its stores find room in the side log (R189, R193). -/
def State.walkReady (s : State) (w : Walk) : Bool :=
  (match w.due with | some t => decide (t ≤ s.dcc) | none => false) && s.retryDue none (s.walkNext w) &&
  (s.walkOn w ||
    (match s.walk (dieOf w.core) w.asid w.va with
      | .nonPresent _ =>
        w.discarded || ((s.mayPost w.core w.asid w.va || !(s.ops.any (fun o => o.waitsFor w)))
          && decide ((s.unlogged w).length ≤ s.logFree w.core))
      | _ => true))

/-- A walk's reference reaches its slice: it uses its line and wakes its bank, and the next follows when it is back (R186, R200). -/
def State.stepWalk (s : State) (w : Walk) (pa : Nat) : State :=
  let back := s.dcc + s.beyondSlice pa
  let s := s.useLine pa 0
  { s with walks := s.walks.map (fun (x : Walk) =>
      if x.id = w.id then { x with made := x.made + 1, due := some (s.refTime { x with made := x.made + 1 } back) } else x) }

/-- A walk ends, and its walker takes another. -/
def State.dropWalk (s : State) (w : Walk) : State := { s with walks := s.walks.filter (fun y => y.id != w.id) }.takeWalk (dieOf w.core)

/-- The result of a walk reaches the accesses that wait for it (R186, R188, R189). -/
def State.endWalk (s : State) (x : Walk) : State :=
  let ids := (s.ops.filter (fun o => o.waitsFor x)).map (fun o => o.id)
  if x.discarded then (if ids = [] then s.dropWalk x else (s.dropWalk x).startWalk x.core x.asid x.va)
  else
    match s.walk (dieOf x.core) x.asid x.va with
    | .leaf pte p =>
      let s := (s.dropWalk x).fillTlbs x.core false { asid := x.asid, page := x.va / 2 ^ p, logPage := p, leaf := BitVec.ofNat 64 pte }
      ids.foldl (fun s id => s.walkFound x pte p id) s
    | .malformed => ids.foldl (fun s id => s.failAccesses id 3 16 (inWalk x)) (s.dropWalk x)
    | .nonPresent ext =>
      match s.ops.find? (fun o => o.waitsFor x) with
      | none => s.dropWalk x
      | some o =>
        match s.postFault x.core x.asid x.va ext o.recordKind o.slot with
        | (s, none) => s
        | (s, some (die, t)) => ids.foldl (fun s id => s.walkHeld x die t (x.va / 2 ^ ext * 2 ^ ext) (2 ^ ext) id) (s.dropWalk x)

/-- PAGE_WALK_COMPLETE (R186, R188, R189), and the references on the way to it: each is made as its turn comes, or refused by a pin
(R221). -/
def execPageWalkComplete (w : Nat) (s : State) : Out :=
  match s.walks.find? (fun x => x.id == w) with
  | none => .next s
  | some x =>
    if !s.walkReady x then .next s
    else if s.pinnedIn none (s.walkNext x) ≠ [] then .next (s.refuseAll (s.pinnedIn none (s.walkNext x)))
    else
      match (s.walkRefs (dieOf x.core) x.asid x.va)[x.made]? with
      | some pa => .next (s.stepWalk x pa)
      | none => .next (s.endWalk x)

/-- The pin's count has reached 65,536 (R222). -/
def State.pinExpired (s : State) (p : Pin) : Bool :=
  match p.refused with
  | some t => decide (t + 65536 ≤ s.dcc) && !p.demanded
  | none => false

/-- PIN_TIMEOUT (R222): the slice demands the line's write-back, at whose arrival the pin goes; SCOPEVIOL where the slot still
holds the wave. -/
def execPinTimeout (line : Nat) (s : State) : Out :=
  match s.pin? line with
  | none => .next s
  | some p =>
    if !s.pinExpired p then .next s
    else
      let s := { s.sendBack p.core line with pins := (s.sendBack p.core line).pins.map (fun (q : Pin) =>
        if q.line = line then { q with demanded := true } else q) }
      .next (s.updWave (p.core * 128 + p.slot) (fun w =>
        if w.admission = p.admission then { w with parts := w.parts.map (fun (q : Part) => q.arriveStatus s.dcc 4) } else w))

/-- BANK_DROWSY (R200). -/
def execBankDrowsy (bank : Nat) (s : State) : Out :=
  let b := getT Bank.reset s.banks bank
  if b.wake.isNone ∧ !b.drowsy ∧ b.last + 4096 ≤ s.dcc then
    .next { s with banks := setT Bank.reset s.banks bank { b with drowsy := true } }
  else .next s

/-- BANK_WAKE_COMPLETE (R200). -/
def execBankWakeComplete (bank : Nat) (s : State) : Out :=
  let b := getT Bank.reset s.banks bank
  match b.wake with
  | some t =>
    if t ≤ s.dcc then .next { s with banks := setT Bank.reset s.banks bank { b with drowsy := false, wake := none } } else .next s
  | none => .next s

end Sys2Proof.Machine
end

