-- ==== Sys2Proof/Machine/Integer.lean ====
section
/-! DEFINITION. The integer vector group (05 R123; 07 R161; 20 R440 and the reference entries). -/

namespace Sys2Proof.Machine

/-- Operands of an integer or bit instruction: one element type throughout. -/
def intForm (r : RWord) (x : XaWord) : XaForm := { r := r, x := x, dty := x.ty.toNat, sty := x.ty.toNat }

/-- A pattern without flags. -/
def plain (v : Nat) : FRes := { bits := v, fl := 0 }

/-- D := f(A, B), read by TY, then wrapped or clamped (R161). -/
def intTwo (r : RWord) (x : XaWord) (len : Nat) (f : Int → Int → Int) : State → Out :=
  let o := intForm r x
  let ty := x.ty.toNat
  let w := tyWidth ty
  vectorOp r.s len o (fun c => [o.a c, o.b c]) (fun c l i j =>
    plain (fitInt ty x.sat (f (intOf ty (c.src w l (o.a c) i j)) (intOf ty (c.src w l (o.b c) i j)))))

/-- D := f(A), read by TY, then wrapped or clamped. -/
def intOne (r : RWord) (x : XaWord) (len : Nat) (f : Int → Int) : State → Out :=
  let o := intForm r x
  let ty := x.ty.toNat
  vectorOp r.s len o (fun c => [o.a c]) (fun c l i j =>
    plain (fitInt ty x.sat (f (intOf ty (c.src (tyWidth ty) l (o.a c) i j)))))

/-- D := f(w, A, B) on patterns of width w. -/
def bitTwo (r : RWord) (x : XaWord) (len : Nat) (f : Nat → Nat → Nat → Nat) : State → Out :=
  let o := intForm r x
  let w := tyWidth x.ty.toNat
  vectorOp r.s len o (fun c => [o.a c, o.b c]) (fun c l i j =>
    plain (f w (c.src w l (o.a c) i j) (c.src w l (o.b c) i j)))

/-- D := f(w, A) on patterns of width w. -/
def bitOne (r : RWord) (x : XaWord) (len : Nat) (f : Nat → Nat → Nat) : State → Out :=
  let o := intForm r x
  let w := tyWidth x.ty.toNat
  vectorOp r.s len o (fun c => [o.a c]) (fun c l i j => plain (f w (c.src w l (o.a c) i j)))

/-- The high half of the exact product (R161). -/
def highHalf (ty : Nat) (a b : Int) : Int := a * b / 2 ^ tyWidth ty

/-- Number of one bits among the `w` lowest. -/
def popCount (w x : Nat) : Nat := (List.range w).foldl (fun n k => n + x / 2 ^ k % 2) 0
/-- Number of leading zero bits of a pattern of width `w` (19 R412). -/
def leadingZeros (w x : Nat) : Nat := if x = 0 then w else w - 1 - Nat.log2 x
/-- Bits in reverse order (19 R412). -/
def reverseBits (w x : Nat) : Nat := (List.range w).foldl (fun n k => 2 * n + x / 2 ^ k % 2) 0
/-- Offset and width of a bit field, cut to the element (19 R408). -/
def fieldOf (w b : Nat) : Nat × Nat :=
  let o := min (b % 256) w
  (o, min (b / 256 % 256) (w - o))
/-- `bfe` on a pattern (19 R408). -/
def extractField (ty a b : Nat) : Nat :=
  let w := tyWidth ty
  let p := fieldOf w b
  let f := a / 2 ^ p.1 % 2 ^ p.2
  if tySigned ty && p.2 != 0 && decide (2 ^ (p.2 - 1) ≤ f) then f + 2 ^ w - 2 ^ p.2 else f
/-- `bfi` on patterns (19 R408). -/
def insertField (w a b c : Nat) : Nat :=
  let p := fieldOf w b
  c % 2 ^ p.1 + a % 2 ^ p.2 * 2 ^ p.1 + c / 2 ^ (p.1 + p.2) * 2 ^ (p.1 + p.2)
/-- Arithmetic right shift of a pattern (22 R483). -/
def sarBits (w a n : Nat) : Nat := if a / 2 ^ (w - 1) % 2 = 1 then 2 ^ w - 1 - (2 ^ w - 1 - a) / 2 ^ n else a / 2 ^ n

/-- `iadd` (R440). -/
def execIadd (r : RWord) : State → Out := intTwo r (xaDefault 1) 4 (fun a b => a + b)
def execIaddExt (r : RWord) (x : XaWord) : State → Out := intTwo r x 8 (fun a b => a + b)
/-- `isub` (R440). -/
def execIsub (r : RWord) : State → Out := intTwo r (xaDefault 1) 4 (fun a b => a - b)
def execIsubExt (r : RWord) (x : XaWord) : State → Out := intTwo r x 8 (fun a b => a - b)
/-- `imul` (R440). -/
def execImul (r : RWord) : State → Out := intTwo r (xaDefault 1) 4 (fun a b => a * b)
def execImulExt (r : RWord) (x : XaWord) : State → Out := intTwo r x 8 (fun a b => a * b)
/-- `imulh` (R161, R440). -/
def execImulh (r : RWord) : State → Out := intTwo r (xaDefault 1) 4 (highHalf (xaDefault 1).ty.toNat)
def execImulhExt (r : RWord) (x : XaWord) : State → Out := intTwo r x 8 (highHalf x.ty.toNat)
/-- `imad` (R440): A × B + C, wrapped or clamped once. -/
def execImad (r : RWord) (x : XaWord) : State → Out :=
  let o := intForm r x
  let ty := x.ty.toNat
  let w := tyWidth ty
  vectorOp r.s 8 o (fun c => [o.a c, o.b c, o.c c]) (fun c l i j =>
    plain (fitInt ty x.sat (intOf ty (c.src w l (o.a c) i j) * intOf ty (c.src w l (o.b c) i j)
      + intOf ty (c.src w l (o.c c) i j))))
/-- `imin` (R440). -/
def execImin (r : RWord) : State → Out := intTwo r (xaDefault 1) 4 min
def execIminExt (r : RWord) (x : XaWord) : State → Out := intTwo r x 8 min
/-- `imax` (R440). -/
def execImax (r : RWord) : State → Out := intTwo r (xaDefault 1) 4 max
def execImaxExt (r : RWord) (x : XaWord) : State → Out := intTwo r x 8 max
/-- `iabs` (R161, R440). -/
def execIabs (r : RWord) : State → Out := intOne r (xaDefault 1) 4 (fun a => (a.natAbs : Int))
def execIabsExt (r : RWord) (x : XaWord) : State → Out := intOne r x 8 (fun a => (a.natAbs : Int))
/-- `and` (R397). -/
def execAnd (r : RWord) : State → Out := bitTwo r (xaDefault 0) 4 (fun _ a b => a &&& b)
def execAndExt (r : RWord) (x : XaWord) : State → Out := bitTwo r x 8 (fun _ a b => a &&& b)
/-- `or` (R455). -/
def execOr (r : RWord) : State → Out := bitTwo r (xaDefault 0) 4 (fun _ a b => a ||| b)
def execOrExt (r : RWord) (x : XaWord) : State → Out := bitTwo r x 8 (fun _ a b => a ||| b)
/-- `xor` (R511). -/
def execXor (r : RWord) : State → Out := bitTwo r (xaDefault 0) 4 (fun _ a b => a ^^^ b)
def execXorExt (r : RWord) (x : XaWord) : State → Out := bitTwo r x 8 (fun _ a b => a ^^^ b)
/-- `andn` (R397). -/
def execAndn (r : RWord) : State → Out := bitTwo r (xaDefault 0) 4 (fun w a b => a &&& (2 ^ w - 1 - b))
def execAndnExt (r : RWord) (x : XaWord) : State → Out := bitTwo r x 8 (fun w a b => a &&& (2 ^ w - 1 - b))
/-- `shl` (R483). -/
def execShl (r : RWord) : State → Out := bitTwo r (xaDefault 0) 4 (fun w a b => a * 2 ^ (b % w) % 2 ^ w)
def execShlExt (r : RWord) (x : XaWord) : State → Out := bitTwo r x 8 (fun w a b => a * 2 ^ (b % w) % 2 ^ w)
/-- `shr` (R483). -/
def execShr (r : RWord) : State → Out := bitTwo r (xaDefault 0) 4 (fun w a b => a / 2 ^ (b % w))
def execShrExt (r : RWord) (x : XaWord) : State → Out := bitTwo r x 8 (fun w a b => a / 2 ^ (b % w))
/-- `sar` (R483). -/
def execSar (r : RWord) : State → Out := bitTwo r (xaDefault 0) 4 (fun w a b => sarBits w a (b % w))
def execSarExt (r : RWord) (x : XaWord) : State → Out := bitTwo r x 8 (fun w a b => sarBits w a (b % w))
/-- `popc` (R460). -/
def execPopc (r : RWord) : State → Out := bitOne r (xaDefault 0) 4 popCount
def execPopcExt (r : RWord) (x : XaWord) : State → Out := bitOne r x 8 popCount
/-- `clz` (R412). -/
def execClz (r : RWord) : State → Out := bitOne r (xaDefault 0) 4 leadingZeros
def execClzExt (r : RWord) (x : XaWord) : State → Out := bitOne r x 8 leadingZeros
/-- `brev` (R412). -/
def execBrev (r : RWord) : State → Out := bitOne r (xaDefault 0) 4 reverseBits
def execBrevExt (r : RWord) (x : XaWord) : State → Out := bitOne r x 8 reverseBits
/-- `bfe` (R408). -/
def execBfe (r : RWord) : State → Out := bitTwo r (xaDefault 1) 4 (fun _ a b => extractField (xaDefault 1).ty.toNat a b)
def execBfeExt (r : RWord) (x : XaWord) : State → Out := bitTwo r x 8 (fun _ a b => extractField x.ty.toNat a b)
/-- `bfi` (R408). -/
def execBfi (r : RWord) (x : XaWord) : State → Out :=
  let o := intForm r x
  let w := tyWidth x.ty.toNat
  vectorOp r.s 8 o (fun c => [o.a c, o.b c, o.c c]) (fun c l i j =>
    plain (insertField w (c.src w l (o.a c) i j) (c.src w l (o.b c) i j) (c.src w l (o.c c) i j)))
/-- `sel` (R486): p(C[2:0]), negated by C[3], chooses A or B in each lane. -/
def execSel (r : RWord) (x : XaWord) : State → Out :=
  let o := intForm r x
  let w := tyWidth x.ty.toNat
  vectorOp r.s 8 o (fun c => [o.a c, o.b c]) (fun c l i j =>
    let p := c.wave.pred (x.c.toNat % 8) (x.c.getLsbD 3)
    plain (if p.getLsbD l then c.src w l (o.a c) i j else c.src w l (o.b c) i j))
/-- `mov` (R451). -/
def execMov (r : RWord) : State → Out := bitOne r (xaDefault 0) 4 (fun _ a => a)
def execMovExt (r : RWord) (x : XaWord) : State → Out := bitOne r x 8 (fun _ a => a)
/-- `movi` (R452): one lane register in every lane of EMASK. -/
def moveImm (r : RWord) (len : Nat) (v : W32) : State → Out :=
  let o := intForm r (xaDefault 0)
  vectorOp r.s len o (fun _ => []) (fun _ _ _ _ => plain v.toNat)
def execMovi (r : RWord) : State → Out := moveImm r 4 (r.b.signExtend 32)
def execMoviXi (r : RWord) (x : W32) : State → Out := moveImm r 8 x
/-- `icmp` (R440): writes a predicate. -/
def intCompare (r : RWord) (x : XaWord) (len : Nat) : State → Out :=
  let o := { intForm r x with block := false }
  let ty := x.ty.toNat
  let w := tyWidth ty
  predicateOp r.s len o (fun c => [o.a c, o.b c]) (fun c l =>
    (condHolds x.sub.toNat (intOf ty (c.src w l (o.a c) 0 0)) (intOf ty (c.src w l (o.b c) 0 0)), 0))
def execIcmp (r : RWord) : State → Out := intCompare r (xaDefault 1) 4
def execIcmpExt (r : RWord) (x : XaWord) : State → Out := intCompare r x 8
/-- `iscadd` (R440). -/
def execIscadd (r : RWord) : State → Out := intTwo r (xaDefault 1) 4 (fun a b => a * 2 ^ (xaDefault 1).sub.toNat + b)
def execIscaddExt (r : RWord) (x : XaWord) : State → Out := intTwo r x 8 (fun a b => a * 2 ^ x.sub.toNat + b)

end Sys2Proof.Machine
end

