-- ==== Sys2Proof/Machine/Special.lean ====
section
/-! DEFINITION. The special functions (07 R165): the exact value of the function, rounded once to binary32 with
RNE. An inexact value is enclosed in fixed point with 400 fraction bits and rounded with a sticky bit; no binary32
operand comes closer than that to a rounding boundary. -/

namespace Sys2Proof.Machine

/-- ⌊π · 2^400⌋. -/
def piFix : Nat :=
  0x3243f6a8885a308d313198a2e03707344a4093822299f31d0082efa98ec4e6c89452821e638d01377be5466cf34e90c6cc0ac
/-- ⌊ln 2 · 2^400⌋. -/
def ln2Fix : Nat :=
  0xb17217f7d1cf79abc9e3b39803f2f6af40f343267298b62d8a0d175b8baafa2be7b876206debac98559552fb4afa1b10ed2e
/-- 1 in fixed point. -/
def oneFix : Nat := 2 ^ 400

/-- Sum of the series with terms `t`, `t·x/(i·j)`, and alternating or constant signs; `fuel` terms. -/
def series (alt : Bool) (x : Nat) : Nat → Nat → Nat → Nat → Nat
  | 0, _, _, _ => 0
  | fuel + 1, t, i, stp =>
    let den := if stp = 1 then i else i * (i + 1)
    let next := t * x / oneFix / den
    let rest := series alt x fuel next (i + stp) stp
    if alt then t - rest else t + rest

/-- e^y for y in fixed point, 0 ≤ y < 1. -/
def expFix (y : Nat) : Nat := series false y 90 oneFix 1 1
/-- sin θ and cos θ for θ in fixed point, 0 ≤ θ < π/2: each term's rest stays below the term. -/
def sinFix (y : Nat) : Nat := series true (y * y / oneFix) 70 y 2 2
def cosFix (y : Nat) : Nat := oneFix - series true (y * y / oneFix) 70 (y * y / oneFix / 2) 3 2
/-- artanh z for z in fixed point, 0 ≤ z ≤ 1/3: sum of z^(2k+1)/(2k+1). -/
def artanhFix (z2 : Nat) : Nat → Nat → Nat → Nat
  | 0, _, _ => 0
  | fuel + 1, p, k => p / k + artanhFix z2 fuel (p * z2 / oneFix) (k + 2)

/-- Rounds an inexact value `m · 2^-400 · 2^n` to binary32. -/
def roundFix (ftz neg : Bool) (m : Nat) (n : Int) : FRes :=
  (fmtF32.roundMag rmRne ftz neg m (n - 400) true).also flIX

/-- 2^x. -/
def exp2Fin (ftz neg : Bool) (m : Nat) (e : Int) : FRes :=
  let k := (-e).toNat
  let big := m * 2 ^ (min e 12).toNat
  let n0 := if 0 ≤ e then min big 4000 else min (m / 2 ^ k) 4000
  let frac := if 0 ≤ e then 0 else m % 2 ^ k
  if frac = 0 then fmtF32.roundMag rmRne ftz false 1 (signed neg n0) false
  else
    let y := ln2Fix * frac / 2 ^ k
    -- a negative exponent takes 2^x = 2^(-n0-1) · 2^(1-frac)
    if neg then roundFix ftz false (expFix (ln2Fix - y)) (-(n0 : Int) - 1) else roundFix ftz false (expFix y) n0

/-- log2 of a positive finite value. -/
def log2Fin (ftz : Bool) (m : Nat) (e : Int) : FRes :=
  let l := Nat.log2 m
  let n : Int := e + l
  if m = 2 ^ l then fmtF32.ofInt rmRne ftz n
  else
    let z := (m - 2 ^ l) * oneFix / (m + 2 ^ l)
    let ln := 2 * artanhFix (z * z / oneFix) 140 z 1
    let t := n * oneFix + (ln * oneFix / ln2Fix : Nat)
    roundFix ftz (decide (t < 0)) t.natAbs 0

/-- sin(2πx) and cos(2πx) of a finite value. -/
def turnFin (ftz isCos neg : Bool) (m : Nat) (e : Int) : FRes :=
  let k := (-e).toNat
  let num := if 0 ≤ e then 0 else m % 2 ^ k
  let q := 4 * num / 2 ^ k
  let fr := 4 * num % 2 ^ k
  let quad := if isCos then (q + 1) % 4 else q
  -- cosine is sine a quarter turn on; sine is odd, cosine even
  let flip := (2 ≤ quad) != (neg && !isCos)
  if fr = 0 then
    if quad % 2 = 0 then { bits := 0, fl := 0 }
    else { bits := fmtF32.signBits flip + 0x3F800000, fl := 0 }
  else
    let th := piFix * fr / 2 ^ (k + 1)
    roundFix ftz flip (if quad % 2 = 0 then sinFix th else cosFix th) 0

/-- 1/√x of a positive finite value. -/
def rsqFin (ftz : Bool) (m : Nat) (e : Int) : FRes :=
  let m := if e % 2 = 0 then m else 2 * m
  let e := if e % 2 = 0 then e else e - 1
  let k := Nat.log2 m + 40
  let r := Nat.sqrt (2 ^ (2 * k) / m)
  let exact := r * r * m == 2 ^ (2 * k)
  fmtF32.roundMag rmRne ftz false r (-(e / 2) - k) (!exact)

/-- The special functions. -/
inductive Spec where
  | rcp | rsq | exp2 | log2 | sin | cos
  deriving DecidableEq, Repr

/-- A special function of a binary32 value, rounded to binary32. -/
def special32 (fn : Spec) (ftz : Bool) (v : FVal) : FRes :=
  match fn, v with
  | _, .nan => { bits := fmtF32.nanBits, fl := 0 }
  | .rcp, .inf neg => { bits := fmtF32.signBits neg, fl := 0 }
  | .rcp, .fin neg m e =>
    if m = 0 then { bits := fmtF32.signBits neg + fmtF32.infBits, fl := flDZ }
    else
      let k := Nat.log2 m + 30
      fmtF32.roundMag rmRne ftz neg (2 ^ k / m) (-e - k) (2 ^ k % m != 0)
  | .rsq, .inf neg => if neg then { bits := fmtF32.nanBits, fl := flIO } else { bits := 0, fl := 0 }
  | .rsq, .fin neg m e =>
    if m = 0 then { bits := fmtF32.signBits neg + fmtF32.infBits, fl := flDZ }
    else if neg then { bits := fmtF32.nanBits, fl := flIO }
    else rsqFin ftz m e
  | .exp2, .inf neg => { bits := if neg then 0 else fmtF32.infBits, fl := 0 }
  | .exp2, .fin neg m e => exp2Fin ftz neg m e
  | .log2, .inf neg => if neg then { bits := fmtF32.nanBits, fl := flIO } else { bits := fmtF32.infBits, fl := 0 }
  | .log2, .fin neg m e =>
    if m = 0 then { bits := fmtF32.signBits true + fmtF32.infBits, fl := flDZ }
    else if neg then { bits := fmtF32.nanBits, fl := flIO }
    else log2Fin ftz m e
  | .sin, .inf _ => { bits := fmtF32.nanBits, fl := flIO }
  | .sin, .fin neg m e => if m = 0 then { bits := fmtF32.signBits neg, fl := 0 } else turnFin ftz false neg m e
  | .cos, .inf _ => { bits := fmtF32.nanBits, fl := flIO }
  | .cos, .fin neg m e => turnFin ftz true neg m e

/-- A special-function instruction in f32, or in f16 by widening to f32 (07 R165). FTZ flushes no result of the f32 step of an f16 one: it
acts on the operand and on the rounding to f16 (DESIGN CHOICE, notes/assumptions/66.md). -/
def special (fn : Spec) (f : Fmt) (ftz : Bool) (x : Nat) : FRes :=
  let s := f.sigs [x]
  let v := f.operand ftz x
  match v with
  | .nan => { bits := f.nanBits, fl := s }
  | _ =>
    if f = fmtF32 then special32 fn ftz v
    else
      let r := special32 fn false v
      (f.round rmRne ftz (fmtF32.value r.bits)).also (r.fl &&& (flIO ||| flDZ ||| flIX))

end Sys2Proof.Machine
end

