-- ==== Sys2Proof/Machine/FloatGroup.lean ====
section
/-! DEFINITION. The float group (05 R124; 07 R162-R165; 20 R433, R434). -/

namespace Sys2Proof.Machine

/-- The format of a float TY. -/
def fmtTy (ty : Nat) : Fmt := (fmtOf ty).getD fmtF32

/-- D := f(format, rm, FTZ, A, B) (R433). -/
def floatTwo (r : RWord) (x : XaWord) (len : Nat) (f : Fmt → Nat → Bool → Nat → Nat → FRes) : State → Out :=
  let o := intForm r x
  let w := tyWidth x.ty.toNat
  vectorOp r.s len o (fun c => [o.a c, o.b c]) (fun c l i j =>
    f (fmtTy x.ty.toNat) (c.rm x.rm.toNat) c.ftz (c.src w l (o.a c) i j) (c.src w l (o.b c) i j))

/-- D := f(format, rm, FTZ, A) (R433). -/
def floatOne (r : RWord) (x : XaWord) (len : Nat) (f : Fmt → Nat → Bool → Nat → FRes) : State → Out :=
  let o := intForm r x
  let w := tyWidth x.ty.toNat
  vectorOp r.s len o (fun c => [o.a c]) (fun c l i j =>
    f (fmtTy x.ty.toNat) (c.rm x.rm.toNat) c.ftz (c.src w l (o.a c) i j))

/-- `fadd` (R433). -/
def execFadd (r : RWord) : State → Out := floatTwo r (xaDefault 3) 4 Fmt.fadd
def execFaddExt (r : RWord) (x : XaWord) : State → Out := floatTwo r x 8 Fmt.fadd
/-- `fsub` (R433). -/
def execFsub (r : RWord) : State → Out := floatTwo r (xaDefault 3) 4 Fmt.fsub
def execFsubExt (r : RWord) (x : XaWord) : State → Out := floatTwo r x 8 Fmt.fsub
/-- `fmul` (R433). -/
def execFmul (r : RWord) : State → Out := floatTwo r (xaDefault 3) 4 Fmt.fmul
def execFmulExt (r : RWord) (x : XaWord) : State → Out := floatTwo r x 8 Fmt.fmul
/-- `ffma` (R433): A × B + C, rounded once. -/
def execFfma (r : RWord) (x : XaWord) : State → Out :=
  let o := intForm r x
  let w := tyWidth x.ty.toNat
  vectorOp r.s 8 o (fun c => [o.a c, o.b c, o.c c]) (fun c l i j =>
    (fmtTy x.ty.toNat).ffma (c.rm x.rm.toNat) c.ftz (c.src w l (o.a c) i j) (c.src w l (o.b c) i j)
      (c.src w l (o.c c) i j))
/-- `fmin` (R163, R433). -/
def execFmin (r : RWord) : State → Out := floatTwo r (xaDefault 3) 4 (fun f _ ftz a b => f.minMax ftz false a b)
def execFminExt (r : RWord) (x : XaWord) : State → Out := floatTwo r x 8 (fun f _ ftz a b => f.minMax ftz false a b)
/-- `fmax` (R163, R433). -/
def execFmax (r : RWord) : State → Out := floatTwo r (xaDefault 3) 4 (fun f _ ftz a b => f.minMax ftz true a b)
def execFmaxExt (r : RWord) (x : XaWord) : State → Out := floatTwo r x 8 (fun f _ ftz a b => f.minMax ftz true a b)
/-- `fcmp` (R434): writes a predicate. -/
def floatCompare (r : RWord) (x : XaWord) (len : Nat) : State → Out :=
  let o := { intForm r x with block := false }
  let w := tyWidth x.ty.toNat
  predicateOp r.s len o (fun c => [o.a c, o.b c]) (fun c l =>
    (fmtTy x.ty.toNat).fcmp c.ftz x.sub.toNat (c.src w l (o.a c) 0 0) (c.src w l (o.b c) 0 0))
def execFcmp (r : RWord) : State → Out := floatCompare r (xaDefault 3) 4
def execFcmpExt (r : RWord) (x : XaWord) : State → Out := floatCompare r x 8
/-- `frcp` (R165, R433). -/
def execFrcp (r : RWord) : State → Out := floatOne r (xaDefault 3) 4 (fun f _ ftz a => special .rcp f ftz a)
def execFrcpExt (r : RWord) (x : XaWord) : State → Out := floatOne r x 8 (fun f _ ftz a => special .rcp f ftz a)
/-- `frsq` (R165, R433). -/
def execFrsq (r : RWord) : State → Out := floatOne r (xaDefault 3) 4 (fun f _ ftz a => special .rsq f ftz a)
def execFrsqExt (r : RWord) (x : XaWord) : State → Out := floatOne r x 8 (fun f _ ftz a => special .rsq f ftz a)
/-- `fsqrt` (R433). -/
def execFsqrt (r : RWord) : State → Out := floatOne r (xaDefault 3) 4 Fmt.fsqrt
def execFsqrtExt (r : RWord) (x : XaWord) : State → Out := floatOne r x 8 Fmt.fsqrt
/-- `fdiv` (R433). -/
def execFdiv (r : RWord) : State → Out := floatTwo r (xaDefault 3) 4 Fmt.fdiv
def execFdivExt (r : RWord) (x : XaWord) : State → Out := floatTwo r x 8 Fmt.fdiv
/-- `fexp2` (R165, R433). -/
def execFexp2 (r : RWord) : State → Out := floatOne r (xaDefault 3) 4 (fun f _ ftz a => special .exp2 f ftz a)
def execFexp2Ext (r : RWord) (x : XaWord) : State → Out := floatOne r x 8 (fun f _ ftz a => special .exp2 f ftz a)
/-- `flog2` (R165, R433). -/
def execFlog2 (r : RWord) : State → Out := floatOne r (xaDefault 3) 4 (fun f _ ftz a => special .log2 f ftz a)
def execFlog2Ext (r : RWord) (x : XaWord) : State → Out := floatOne r x 8 (fun f _ ftz a => special .log2 f ftz a)
/-- `fsin` (R165, R433). -/
def execFsin (r : RWord) : State → Out := floatOne r (xaDefault 3) 4 (fun f _ ftz a => special .sin f ftz a)
def execFsinExt (r : RWord) (x : XaWord) : State → Out := floatOne r x 8 (fun f _ ftz a => special .sin f ftz a)
/-- `fcos` (R165, R433). -/
def execFcos (r : RWord) : State → Out := floatOne r (xaDefault 3) 4 (fun f _ ftz a => special .cos f ftz a)
def execFcosExt (r : RWord) (x : XaWord) : State → Out := floatOne r x 8 (fun f _ ftz a => special .cos f ftz a)
/-- `frnd` (R162, R433). -/
def execFrnd (r : RWord) : State → Out := floatOne r (xaDefault 3) 4 Fmt.frnd
def execFrndExt (r : RWord) (x : XaWord) : State → Out := floatOne r x 8 Fmt.frnd
/-- `fclass` (R164): a 32-bit mask, of the operand as stored. -/
def floatClass (r : RWord) (x : XaWord) (len : Nat) : State → Out :=
  let o : XaForm := { r := r, x := x, dty := 0, sty := x.ty.toNat }
  let w := tyWidth x.ty.toNat
  vectorOp r.s len o (fun c => [o.a c]) (fun c l i j => plain ((fmtTy x.ty.toNat).fclass (c.src w l (o.a c) i j)))
def execFclass (r : RWord) : State → Out := floatClass r (xaDefault 3) 4
def execFclassExt (r : RWord) (x : XaWord) : State → Out := floatClass r x 8
/-- `fscale` (R433): B is read as s32. -/
def floatScale (r : RWord) (x : XaWord) (len : Nat) : State → Out :=
  let o := intForm r x
  let w := tyWidth x.ty.toNat
  vectorOp r.s len o (fun c => [o.a c, o.bAs c 1]) (fun c l i j =>
    (fmtTy x.ty.toNat).fscale (c.rm x.rm.toNat) c.ftz (c.src w l (o.a c) i j) (intOf 1 (c.src 32 l (o.bAs c 1) i j)))
def execFscale (r : RWord) : State → Out := floatScale r (xaDefault 3) 4
def execFscaleExt (r : RWord) (x : XaWord) : State → Out := floatScale r x 8

end Sys2Proof.Machine
end

