-- ==== Sys2Proof/Machine/Mesh.lean ====
section
/-! DEFINITION. Mesh output and the pixel instructions (14 R313, R314, R328-R331; 20 R441; 21 R453, R461). -/

namespace Sys2Proof.Machine

/-- ILLEGAL of an instruction issued from a wave of another kind than it requires (05 R114, step 4): R517 names no value. -/
def kindIllegal (bad : Bool) : Option (Nat × Nat × W64) := if bad then some (tcIllegal, 0, 0) else none
def Ctx.isMesh (c : Ctx) : Bool := c.group.kind == .mesh
def Ctx.isPixel (c : Ctx) : Bool := c.wave.pixel.isSome

/-! ### Counters of the pass descriptor (R310) -/

/-- The physical address of a virtual one that a graphics unit of a die may use with a need, and log2 of its page. -/
def State.unitLeaf (s : State) (die : Nat) (asid : BitVec 16) (need : Need) (va : Nat) : Option (Nat × Nat) :=
  if 2 ^ 57 ≤ va then none
  else match s.walk die asid va with
    | .leaf pte p => if (s.leafFault need pte (paOf pte p va)).isNone then some (paOf pte p va, p) else none
    | _ => none
def State.unitPa (s : State) (die : Nat) (asid : BitVec 16) (need : Need) (va : Nat) : Option Nat :=
  (s.unitLeaf die asid need va).map Prod.fst

/-- Counts dropped vertices and primitives of a draw, by a dev-scope atomic add (R310, R314). -/
def State.dropPrims (s : State) (core launch : Nat) (asid : BitVec 16) (d : Draw) (n : Nat) : State :=
  let va := d.pass.addr.toNat + 48
  if n = 0 then s
  else match s.unitPa (dieOf core) asid .readWrite va with
    | some pa => (s.useRefs (dieOf core) asid va).unitPost core launch none 7 pa (.add n)
    | none => s
/-- Tables on the way to that counter that are pinned (09 R221). -/
def State.dropPins (s : State) (core : Nat) (asid : BitVec 16) (d : Draw) : List Nat := s.walkPins (dieOf core) asid (d.pass.addr.toNat + 48)

/-! ### `mvtx` and `mprim` -/

/-- A mesh output instruction: its registers, how many outputs it drops, and its effect. The walk to the pass's counter of drops
waits while a table on its way is pinned (09 R221). -/
def meshOp (r : RWord) (regs : Ctx → List Vop) (drops : Ctx → Draw → Nat) (eff : Ctx → Draw → State → State) : State → Out :=
  issue
    { s := r.s, len := 4, pre := fun c _ => kindIllegal (!c.isMesh || c.launch.draw.isNone), regs := fun c _ => regs c, cls := some .st }
    (fun c st =>
      match c.launch.draw with
      | none => st.done c 4
      | some d =>
        let n := drops c d
        match (if n = 0 then [] else st.dropPins c.ref.core c.launch.asid d) with
        | [] => (((eff c d st).newOp c .st .meshOut 4 0 0 0 [] (st.dcc + 20)).1.dropPrims c.ref.core c.wave.launch c.launch.asid d n).done c 4
        | pins => (st.refuseAll pins).parkOn c (.time (st.dcc + 1)))

/-- Registers that `mvtx` reads. -/
def vertexVop (r : RWord) (n : Nat) : Vop := { f := r.a.toNat, unit := 4 + n }
def indexVop (f : BitVec 7) : Vop := { f := f.toNat }

/-- Registers of a lane from an operand up, as words. -/
def Ctx.words (c : Ctx) (lane : Nat) (o : Vop) : List W32 :=
  (List.range o.unit).map (fun k => c.wave.v c.part.depth lane (o.reg c.wb 0 0 + k))

/-- One vertex of a group; the latest write stands (R314). -/
def Group.putVertex (g : Group) (v : MeshVertex) : Group := { g with verts := v :: g.verts.filter (fun o => o.index != v.index) }

/-- The vertices of an `mvtx`, one for each active lane, and those that MAXV admits (R314). -/
def Ctx.meshVerts (c : Ctx) (r : RWord) (d : Draw) : List MeshVertex :=
  (lanesOf c.emask).map (fun l =>
    let ws := c.words l (vertexVop r d.nattr)
    { index := c.vec l (indexVop r.b) 0 0, clip := ws.take 4, attrs := ws.drop 4 })
def Draw.takesVertex (d : Draw) (v : MeshVertex) : Bool := decide (v.index < d.maxv)

/-- `mvtx` (R313, R314). -/
def execMvtx (r : RWord) : State → Out :=
  meshOp r
    (fun c => match c.launch.draw with | some d => [vertexVop r d.nattr, indexVop r.b] | none => [])
    (fun c d => (c.meshVerts r d).countP (fun v => !d.takesVertex v))
    (fun c d st => st.updGroup c.wave.group (fun g => ((c.meshVerts r d).filter d.takesVertex).foldl Group.putVertex g))

/-- The triangle of a lane: its local index counts the lane's `mprim` effects (R314). -/
def Ctx.meshTri (c : Ctx) (o : Vop) (l : Nat) : MeshTri :=
  let ws := c.words l o
  { k := getT 0 c.wave.mprims l * (c.group.nwaves * c.wave.width) + c.wave.widx * c.wave.width + l
    v0 := (ws.getD 0 0).toNat, v1 := (ws.getD 1 0).toNat, v2 := (ws.getD 2 0).toNat }

/-- The triangles of an `mprim`, one for each active lane, and those that MAXP and MAXV admit (R314). -/
def Ctx.meshTris (c : Ctx) (o : Vop) : List MeshTri := (lanesOf c.emask).map (c.meshTri o)
def Draw.takesTri (d : Draw) (t : MeshTri) : Bool :=
  decide (t.k < d.maxp) && decide (t.v0 < d.maxv) && decide (t.v1 < d.maxv) && decide (t.v2 < d.maxv)

/-- `mprim` (R313, R314). -/
def execMprim (r : RWord) : State → Out :=
  let o : Vop := { f := r.a.toNat, unit := 3 }
  meshOp r (fun _ => [o])
    (fun c d => (c.meshTris o).countP (fun t => !d.takesTri t))
    (fun c d st =>
      let st := st.updGroup c.wave.group (fun g => { g with tris := g.tris ++ (c.meshTris o).filter d.takesTri })
      st.updWave c.ref.key (fun w => { w with mprims := (lanesOf c.emask).foldl (fun t l => putT t l (getT 0 t l + 1)) w.mprims }))

/-! ### `kill` -/

/-- `kill` (R329): active lanes become helpers and their fragments retire with no commit. -/
def killOp (r : RWord) (x : XaWord) (len : Nat) : State → Out :=
  issue { s := r.s, len := len, pre := fun c _ => kindIllegal (!c.isPixel) } (fun c st =>
    let m := c.xaActive x &&& ~~~c.wave.helper
    let st := st.retireFrags c.wave m true
    (st.updWave c.ref.key (fun w => { w with helper := w.helper ||| m })).done c len)
def execKill (r : RWord) : State → Out := killOp r (xaDefault 0) 4
/-- `kill` with an XA word (R329). -/
def execKillExt (r : RWord) (x : XaWord) : State → Out := killOp r x 8

/-! ### `pout` -/

/-- `pout` (R331, R461): the values go to the slices of the owning die. Its four registers need start at no multiple of 4 (04 R77 asks
that of operands with 16 bytes a lane; whether four operands of a register each are one, R313, R331 and R461 leave open: DESIGN CHOICE,
notes/assumptions/64.md). -/
def poutOp (r : RWord) (x : XaWord) (len : Nat) : State → Out :=
  let o : Vop := { f := r.a.toNat, unit := 4 }
  issue
    { s := r.s, len := len, regs := fun _ _ => [o], cls := some .st
      pre := fun c _ => match kindIllegal (!c.isPixel) with | some t => some t | none => gateBan c }
    (fun c st =>
      let ws := match c.wave.pixel with
        | none => []
        | some px =>
          (lanesOf (c.xaActive x &&& ~~~c.wave.helper)).filterMap (fun l =>
            ((lookT px.lanes l).bind (fun e => e.frag)).map (fun f => (f, r.b.toNat, c.words l o)))
      (st.newOp c .st (.output ws) len 0 0 0 [] (st.dcc + 88)).1.done c len)
def execPout (r : RWord) : State → Out := poutOp r (xaDefault 0) 4
/-- `pout` with an XA word (R331). -/
def execPoutExt (r : RWord) (x : XaWord) : State → Out := poutOp r x 8

/-- An output has reached its slices and is not queued there yet. -/
def State.outputDue (s : State) (o : MemOp) : Bool :=
  match o.kind with
  | .output _ => !o.acted && decide (o.due ≤ s.dcc)
  | _ => false

/-- The slices queue an output; a region begins behind it (12 R281). -/
def State.queueOutput (s : State) (id : Nat) : State :=
  match s.op? id with
  | none => s
  | some o =>
    if !s.outputDue o then s
    else
      match o.kind with
      | .output ws =>
        -- what a restart is to repeat, its repetition replaces (R461)
        let add := fun (f : Fragment) =>
          let new := (ws.filter (fun w => w.1 == f.id)).map (fun w =>
            ({ target := w.2.1, values := w.2.2, issued := o.issued, stale := false } : PoutData))
          { f with pouts := f.pouts.filter (fun e => !(e.stale && new.any (fun n => n.target == e.target))) ++ new }
        ({ s with frags := s.frags.map add }.updOp id (fun o => { o with acted := true })).regionBehind o
      | _ => s

/-- ST_COMPLETION (R223). -/
def execStCompletion (op : Nat) (s : State) : Out :=
  match s.op? op with
  | some o => if o.cls = .st then .next ((s.queueOutput op).advanceOp op) else .next s
  | none => .next s

/-! ### `ipa` -/

/-- Interpolation along two differences (R330). -/
def interpolate (rm : Nat) (ftz : Bool) (b1 b2 a0 a1 a2 : Nat) : FRes :=
  let f := fmtF32
  let t1 := f.fsub rm ftz a1 a0
  let t2 := f.fsub rm ftz a2 a0
  let u := f.ffma rm ftz b1 t1.bits a0
  let v := f.ffma rm ftz b2 t2.bits u.bits
  v.also (t1.fl ||| t2.fl ||| u.fl)

/-- The attribute words of a lane's primitive. -/
def laneAttr (px : PixelWave) (l n i : Nat) : Nat :=
  match (lookT px.lanes l).bind px.primOf with
  | some p => ((p.attrs.getD i []).getD n 0).toNat
  | none => 0

/-- The barycentrics of SUB 3. -/
def centroidBary (px : PixelWave) (samp l : Nat) : Nat × Nat :=
  match lookT px.lanes l with
  | none => (0, 0)
  | some e =>
    match px.primOf e with
    | none => (0, 0)
    | some p =>
      let es := p.centroid samp e.x e.y e.cover
      (perspAt es p.ws 1, perspAt es p.ws 2)

/-- `ipa` (R330, R441). -/
def ipaOp (r : RWord) (x : XaWord) (len : Nat) : State → Out :=
  let a : Vop := { f := r.a.toNat, unit := 2 }
  let d : Vop := { f := r.d.toNat }
  let sub := x.sub.toNat
  issue
    { s := r.s, len := len, pre := fun c _ => kindIllegal (!c.isPixel), regs := fun _ _ => [d, a] }
    (fun c st =>
      match c.wave.pixel with
      | none => st
      | some px =>
        let samp := match c.launch.draw with | some dr => dr.pass.samp | none => 0
        let w := elementWrites c (c.xaActive x) d (fun l _ _ =>
          let at_ := laneAttr px l r.b.toNat
          if sub = 2 then { bits := at_ 0, fl := 0 }
          else
            let b := if sub = 3 then centroidBary px samp l
              else let ws := c.words l a; ((ws.getD 0 0).toNat, (ws.getD 1 0).toNat)
            interpolate rmRne c.ftz b.1 b.2 (at_ 0) (at_ 1) (at_ 2))
        ((st.putV c w.1).updPart c.ref (fun p => p.orFp w.2)).done c len)
def execIpa (r : RWord) : State → Out := ipaOp r (xaDefault 3) 4
/-- `ipa` with an XA word (R330). -/
def execIpaExt (r : RWord) (x : XaWord) : State → Out := ipaOp r x 8

end Sys2Proof.Machine
end

