-- ==== Sys2Proof/Machine/Setup.lean ====
section
/-! DEFINITION. Set-up and binning, primitive records and watermarks (14 R315-R319). -/

namespace Sys2Proof.Machine

/-! ### Passes and sequence numbers -/

/-- The lowest sequence number of a mesh group of a draw (R315). -/
def Draw.base (d : Draw) (g : Nat) : Nat := d.num * 2 ^ 32 + g * d.maxp
/-- Above every sequence number (R318). -/
def noMark : Nat := 2 ^ 56 - 1
/-- Cycles of a record or a watermark on its way to a rasteriser, the same on every link (notes/assumptions/41.md). -/
def linkCycles : Nat := 60

/-! ### Clipping (R316) -/

/-- A vertex in clip space: x, y, z, w and attribute words, as f32 patterns. -/
structure ClipVertex where
  pos : List Nat
  attrs : List Nat
  deriving DecidableEq, Repr

def fv (x : Nat) : FVal := fmtF32.value x
/-- a · n + b · m, exactly. -/
def comb (a : Nat) (n : Int) (b : Nat) (m : Int) : FVal :=
  let k := fun (i : Int) => FVal.fin (decide (i < 0)) i.natAbs 0
  FVal.add rmRne (FVal.mul (fv a) (k n)) (FVal.mul (fv b) (k m))

/-- The six half spaces of clipping: each gives a distance that is not negative inside. -/
def clipPlanes (vw vh : Nat) : List (List Nat → FVal) :=
  let x := fun (p : List Nat) => p.getD 0 0
  let y := fun (p : List Nat) => p.getD 1 0
  let z := fun (p : List Nat) => p.getD 2 0
  let w := fun (p : List Nat) => p.getD 3 0
  [fun p => comb (z p) 1 (w p) 0, fun p => comb (w p) 1 (z p) (-1), fun p => comb (w p) 32768 (x p) (-vw), fun p => comb (w p) 32768 (x p) vw,
    fun p => comb (w p) 32768 (y p) (-vh), fun p => comb (w p) 32768 (y p) vh]

def FVal.inside : FVal → Bool
  | .fin neg m _ => !neg || m == 0
  | _ => false
/-- A finite value as a multiple of 2^-400. -/
def FVal.fixed : FVal → Int
  | .fin neg m e => signed neg m * 2 ^ (e + 400).toNat
  | _ => 0

/-- a + t · (b − a) in f32, each step rounded (R316). -/
def lerp (t a b : Nat) : Nat :=
  (fmtF32.fadd rmRne false a (fmtF32.fmul rmRne false t (fmtF32.fsub rmRne false b a).bits).bits).bits

/-- The new vertex on the edge from a vertex inside to one outside. -/
def cutEdge (d : List Nat → FVal) (a b : ClipVertex) : ClipVertex :=
  let da := (d a.pos).fixed
  let t := fmtF32.roundRatio rmRne da (da - (d b.pos).fixed) 0
  { pos := (a.pos.zip b.pos).map (fun e => lerp t e.1 e.2), attrs := (a.attrs.zip b.attrs).map (fun e => lerp t e.1 e.2) }

/-- The polygon inside one half space. -/
def clipBy (d : List Nat → FVal) (vs : List ClipVertex) : List ClipVertex :=
  (vs.zip (vs.drop 1 ++ vs.take 1)).flatMap (fun e =>
    match (d e.1.pos).inside, (d e.2.pos).inside with
    | true, true => [e.2]
    | true, false => [cutEdge d e.1 e.2]
    | false, true => [cutEdge d e.2 e.1, e.2]
    | false, false => [])

/-- Triangles of a convex polygon, from its first vertex. -/
def fan (vs : List ClipVertex) : List (List ClipVertex) :=
  match vs with
  | [] => []
  | v :: r => (r.zip (r.drop 1)).map (fun e => [v, e.1, e.2])

/-- Every component is a finite number. -/
def ClipVertex.finite (v : ClipVertex) : Bool :=
  v.pos.all (fun x => match fv x with | .fin _ _ _ => true | _ => false)

/-- The clipped pieces of a triangle; the triangle itself when no plane cuts it. -/
def clipTri (vw vh : Nat) (vs : List ClipVertex) : List (List ClipVertex) :=
  if !vs.all ClipVertex.finite then []
  else if (clipPlanes vw vh).all (fun d => vs.all (fun v => (d v.pos).inside)) then [vs]
  else fan ((clipPlanes vw vh).foldl (fun vs d => clipBy d vs) vs)

/-! ### Window space -/

/-- A vertex in window space: snapped X and Y, Z and 1/w. -/
structure WinVertex where
  x : Int
  y : Int
  z : Nat
  rw : Nat
  deriving DecidableEq, Repr

/-- A pattern rounded to a multiple of 1/256; none when it is not finite. -/
def snap (x : Nat) : Option Int :=
  match fv x with
  | .fin neg m e => some (signed neg (roundInt rmRne neg m (e + 8)).1)
  | _ => none

def ofNat32 (n : Nat) : Nat := (fmtF32.ofInt rmRne false n).bits

/-- The map to window space, each operation in f32. -/
def toWindow (d : Draw) (v : ClipVertex) : Option WinVertex :=
  let f := fmtF32
  let p := fun (i : Nat) => v.pos.getD i 0
  let div := fun a b => (f.fdiv rmRne false a b).bits
  let axis := fun (a n o : Nat) => (f.fadd rmRne false (div (f.fmul rmRne false a (ofNat32 n)).bits (ofNat32 2)) (ofNat32 o)).bits
  let x := axis (f.fadd rmRne false (div (p 0) (p 3)) (ofNat32 1)).bits d.vw d.vx
  let y := axis (f.fsub rmRne false (ofNat32 1) (div (p 1) (p 3))).bits d.vh d.vy
  let z := div (p 2) (p 3)
  let r := div (ofNat32 1) (p 3)
  match snap x, snap y, fv z, fv r with
  | some x, some y, .fin _ _ _, .fin _ _ _ => some { x := x, y := y, z := z, rw := r }
  | _, _, _, _ => none

/-- The triangle survives the area and culling tests (R316). -/
def keepTri (cull : Nat) (a : Int) : Bool := a != 0 && !(cull == 1 && decide (a < 0)) && !(cull == 2 && decide (0 < a))

/-- Tiles that a snapped bounding box meets. -/
def tilesMet (p : Pass) (xs ys : List Int) : List (Nat × Nat) :=
  let lo := fun (l : List Int) => (l.foldl min (l.headD 0)) / 16384
  let hi := fun (l : List Int) => (l.foldl max (l.headD 0)) / 16384
  let meet := fun (l : List Int) (n : Nat) => (List.range n).filter (fun (i : Nat) => decide (lo l ≤ (i : Int)) && decide ((i : Int) ≤ hi l))
  (meet ys p.th).flatMap (fun ty => (meet xs p.tw).map (fun tx => (tx, ty)))

/-- A triangle's record, its identity, tile and arrival still open. -/
def triRecord (lid pass seq : Nat) (vs : List ClipVertex) (ws : List WinVertex) : PrimRec :=
  { id := 0, launch := lid, pass := pass, seq := seq, tile := 0, xs := ws.map (fun w => w.x), ys := ws.map (fun w => w.y)
    zs := ws.map (fun w => BitVec.ofNat 32 w.z), ws := ws.map (fun w => BitVec.ofNat 32 w.rw)
    attrs := vs.map (fun v => v.attrs.map (BitVec.ofNat 32)), die := 0, due := 0, arrived := false }

/-- The records of one triangle, before binning. -/
def setupTri (d : Draw) (lid pass seq : Nat) (vs : List ClipVertex) : List PrimRec :=
  (clipTri d.vw d.vh vs).filterMap (fun vs =>
    match vs.mapM (toWindow d) with
    | none => none
    | some ws => if keepTri d.cull (area2 (ws.map (fun w => w.x)) (ws.map (fun w => w.y))) then some (triRecord lid pass seq vs ws) else none)

/-- Sends a record to the rasteriser of each tile it meets. -/
def State.sendRecord (s : State) (asid : BitVec 16) (p : Pass) (r : PrimRec) : State :=
  (tilesMet p r.xs r.ys).foldl (fun s t =>
    let q := { r with id := s.nextId, tile := t.2 * p.tw + t.1, die := s.tileOwner asid p t.1 t.2, due := s.dcc + linkCycles }
    { s with prims := s.prims ++ [q], nextId := s.nextId + 1 }) s

/-- The clip-space vertices of a triangle, when its group wrote them all. -/
def MeshDone.corners (m : MeshDone) (t : MeshTri) : Option (List ClipVertex) :=
  [t.v0, t.v1, t.v2].mapM (fun i =>
    (m.verts.find? (fun v => v.index == i)).map (fun v =>
      { pos := v.clip.map (fun x => x.toNat), attrs := v.attrs.map (fun x => x.toNat) : ClipVertex }))

/-- Takes a group's triangles in increasing k; one that names an unwritten vertex is dropped and counted (R314, R316). -/
def State.setupGroup (s : State) (m : MeshDone) (l : Launch) (d : Draw) (pass : Nat) : State :=
  let ts := sortBy (fun (a b : MeshTri) => decide (a.k ≤ b.k)) m.tris
  let bad := ts.filter (fun t => (m.corners t).isNone)
  let s := s.dropPrims m.core m.launch l.asid d bad.length
  (ts.filterMap (fun t => (m.corners t).map (fun vs => setupTri d m.launch pass (d.base m.num + t.k) vs))).flatten.foldl
    (fun s r => s.sendRecord l.asid d.pass r) s

/-- A mesh group's triangles can be taken. -/
def State.setupDue (s : State) (m : MeshDone) : Bool := decide (m.due ≤ s.dcc)

/-- SETUP_BINNING. -/
def execSetupBinning (g : Nat) (s : State) : Out :=
  match s.meshes.find? (fun m => m.group == g && s.setupDue m) with
  | none => .next s
  | some m =>
    let done := { s with meshes := s.meshes.erase m }
    match s.launch? m.launch with
    | none => .next done
    | some l =>
      match l.draw, l.passKey with
      | some d, some k =>
        match s.dropPins m.core l.asid d with
        | [] => .next (done.setupGroup m l d k)
        | pins => .next { s.refuseAll pins with meshes := s.meshes.map (fun x => if x = m then { x with due := s.dcc + 1 } else x) }
      | _, _ => .next done

/-- PRIMITIVE_RECORD: the record has reached its rasteriser (R317). -/
def PrimRec.arriving (p : PrimRec) (now : Nat) : Bool := !p.arrived && decide (p.due ≤ now)
def execPrimitiveRecord (r : Nat) (s : State) : Out :=
  let land := fun (p : PrimRec) => if p.id = r ∧ p.arriving s.dcc then { p with arrived := true } else p
  .next { s with prims := s.prims.map land }

/-! ### Watermarks (R318) -/

/-- Draws of a pass that are consumed and not complete. -/
def State.passDraws (s : State) (pass : Nat) : List (Nat × Launch × Draw) :=
  s.launches.filterMap (fun e => if e.2.passKey = some pass ∧ e.2.at_ ≠ .completed then e.2.draw.map (fun d => (e.1, e.2, d)) else none)

/-- Mesh groups of a launch that are resident on a die, being binned there, or saved from it. -/
def State.groupsOnDie (s : State) (lid : Nat) (l : Launch) (die : Nat) : List Nat :=
  (s.groups.filter (fun e => e.2.launch == lid && e.2.kind == .mesh && dieOf e.2.core == die)).map (fun e => e.2.mesh)
  ++ (s.meshes.filter (fun m => m.launch == lid && dieOf m.core == die)).map (fun m => m.num)
  ++ (match l.image with
      | some i => (i.groups.filter (fun e => e.2.kind == .mesh && dieOf e.2.core == die)).map (fun e => e.2.mesh)
      | none => [])

/-- A set-up unit's value for a pass. -/
def State.setupMark (s : State) (pass die : Nat) : Nat :=
  ((s.passDraws pass).flatMap (fun e => (s.groupsOnDie e.1 e.2.1 die).map (fun g => e.2.2.base g))).foldl min noMark

/-- The distributor's value for a pass. -/
def State.drawMark (s : State) (pass : Nat) : Nat :=
  let open_ := (s.passDraws pass).filter (fun e => decide (e.2.1.admitted < e.2.1.ngroups))
  let q := s.queue (pass % 64)
  let next := if q.qpass.toNat = pass / 64 then q.draws * 2 ^ 32 else noMark
  if open_ = [] then next else (open_.map (fun e => e.2.2.base e.2.1.admitted)).foldl min noMark

/-- The value a source would send: 0 to 3 the set-up units, 4 the distributor. -/
def State.markOf (s : State) (pass src : Nat) : Nat := if src < 4 then s.setupMark pass src else s.drawMark pass

/-- A source's value has changed, or 256 cycles are over. -/
def State.markDue (s : State) (pass src : Nat) : Bool :=
  s.passDraws pass != [] &&
  (match s.sentMarks.find? (fun e => e.1 == (pass, src)) with
    | none => true
    | some e => e.2.1 != s.markOf pass src || decide (e.2.2 + 256 ≤ s.dcc))

/-- WATERMARK_SEND: to all four rasterisers. -/
def execWatermarkSend (pass src : Nat) (s : State) : Out :=
  if 4 < src ∨ !s.markDue pass src then .next s
  else
    let v := s.markOf pass src
    let ms := (List.range 4).map (fun d => ({ id := s.nextId + d, pass := pass, src := src, die := d, value := v, due := s.dcc + linkCycles } : MarkMsg))
    .next { s with marks := s.marks ++ ms, nextId := s.nextId + 4
                   sentMarks := ((pass, src), (v, s.dcc)) :: s.sentMarks.filter (fun e => e.1 != (pass, src)) }

/-- The five values a rasteriser holds for a pass. -/
def Die.marksOf (d : Die) (pass : Nat) : List Nat := getT [0, 0, 0, 0, 0] d.marks pass
/-- A rasteriser's global watermark. -/
def Die.globalMark (d : Die) (pass : Nat) : Nat := (d.marksOf pass).foldl min noMark

/-- WATERMARK: it arrives behind every record sent before it on its link. -/
def State.markArrives (s : State) (m : MarkMsg) : Bool :=
  decide (m.due ≤ s.dcc) && !(s.prims.any (fun p => p.arriving s.dcc && p.die == m.die))
def execWatermark (m : Nat) (s : State) : Out :=
  match s.marks.find? (fun x => x.id == m && s.markArrives x) with
  | none => .next s
  | some x =>
    let s := s.updDie x.die (fun d => { d with marks := putT d.marks x.pass ((d.marksOf x.pass).set x.src x.value) })
    .next { s with marks := s.marks.filter (fun y => y.id != m) }

/-- Passes with a draw in flight. -/
def State.passes (s : State) : List Nat := (s.launches.filterMap (fun e => if e.2.at_ = .completed then none else e.2.passKey)).foldl addNew []

end Sys2Proof.Machine
end

