-- ==== Sys2Proof/Machine/Raster.lean ====
section
/-! DEFINITION. Rasterising, pixel waves, commit and the divergence history (14 R319-R327). -/

namespace Sys2Proof.Machine

/-! ### Quads (R324) -/

/-- Columns or rows of quads of a tile that a range of snapped coordinates meets. -/
def quadRange (tile : Nat) (l : List Int) : List Nat :=
  let lo := l.foldl min (l.headD 0)
  let hi := l.foldl max (l.headD 0)
  ((List.range 32).map (fun i => 64 * tile + 2 * i)).filter (fun (v : Nat) =>
    decide (lo ≤ ((256 * (v + 2) : Nat) : Int)) && decide (((256 * v : Nat) : Int) ≤ hi))

/-- The quads of a record with at least one covered sample, in row-major order: pixel and coverage of each lane. -/
def PrimRec.quads (p : PrimRec) (samp tw : Nat) : List (List (Nat × Nat × Nat)) :=
  ((quadRange (p.tile / tw) p.ys).flatMap (fun y => (quadRange (p.tile % tw) p.xs).map (fun x =>
    [(x, y), (x + 1, y), (x, y + 1), (x + 1, y + 1)].map (fun e => (e.1, e.2, p.coverage samp e.1 e.2))))).filter
      (fun q => q.any (fun e => e.2.2 != 0))

/-! ### Pixel waves (R325, R327) -/

/-- The width of a new pixel wave of a die, with its history after the look-up (R327). -/
def Die.pixelWidth (d : Die) (k : Kernel) : Nat × Die :=
  if k.width ≠ 0 then (k.width, d)
  else
    let key := (k.seg, k.kidx)
    let e := match d.history.find? (fun e => e.1 == key) with
      | some e => e
      | none => (key, 32, 0, 0)
    (e.2.1, { d with history := (e :: d.history.filter (fun o => o.1 != key)).take 64 })

/-- The open pixel wave of a tile: the last one built, not admitted, with room for a quad of a primitive. -/
def openWave (l : Launch) (die tile prim : Nat) : Option PixelWave :=
  match (l.pixels.filter (fun w => w.die == die && w.tile == tile)).getLast? with
  | none => none
  | some w =>
    if w.lanes.length < w.width ∧ (w.prims.any (fun p => p.id == prim) ∨ w.prims.length < 16) then some w else none

/-- A pixel wave with one more quad of a primitive. -/
def PixelWave.addQuad (w : PixelWave) (p : PrimRec) (q : List (Nat × Nat × Nat × Option Nat)) : PixelWave :=
  let prims := if w.prims.any (fun o => o.id == p.id) then w.prims else w.prims ++ [p]
  let at_ := prims.findIdx (fun o => o.id == p.id)
  { w with
    prims := prims
    lanes := w.lanes ++ q.zipIdx.map (fun e =>
      (w.lanes.length + e.2, { x := e.1.1, y := e.1.2.1, cover := e.1.2.2.1, prim := at_, frag := e.1.2.2.2 })) }

/-- Registers the fragments of a quad, in lane order (R320). -/
def State.addFrags (s : State) (p : PrimRec) (samp : Nat) : List (Nat × Nat × Nat) → List (Nat × Nat × Nat × Option Nat) → State × List (Nat × Nat × Nat × Option Nat)
  | [], acc => (s, acc)
  | (x, y, c) :: r, acc =>
    if c = 0 then s.addFrags p samp r (acc ++ [(x, y, c, none)])
    else
      let zs := (samplePos samp).map (fun e => BitVec.ofNat 32 (p.zAt (samplePoint x y e)))
      let f : Fragment :=
        { id := s.nextId, order := s.nextId, launch := p.launch, pass := p.pass, die := p.die, core := 0, seq := p.seq, x := x, y := y
          cover := c, zs := zs, retired := false, killed := false, pouts := [] }
      ({ s with frags := s.frags ++ [f], nextId := s.nextId + 1 }).addFrags p samp r (acc ++ [(x, y, c, some f.id)])

/-- PIXEL_WAVE_CREATE (R325): a quad goes into the open wave of its tile, or into a new one. -/
def State.placeQuad (s : State) (p : PrimRec) (d : Draw) (q : List (Nat × Nat × Nat × Option Nat)) : State :=
  match s.launch? p.launch with
  | none => s
  | some l =>
    match openWave l p.die p.tile p.id with
    | some w => s.updLaunch p.launch (fun l => { l with pixels := l.pixels.map (fun o => if o = w then w.addQuad p q else o) })
    | none =>
      let n := (s.die p.die).pixelWidth d.pixel
      let w : PixelWave := { pass := p.pass, width := n.1, die := p.die, tile := p.tile, prims := [], lanes := [] }
      (s.updDie p.die (fun _ => n.2)).updLaunch p.launch (fun l => { l with pixels := l.pixels ++ [w.addQuad p q] })

/-- The record may be processed: below the global watermark, and the lowest of its tile (R319). -/
def State.rasterDue (s : State) (p : PrimRec) : Bool :=
  p.arrived && decide (p.seq < (s.die p.die).globalMark p.pass)
  && !(s.prims.any (fun o => o.die == p.die && o.pass == p.pass && o.tile == p.tile && (decide (o.seq < p.seq) || (o.seq == p.seq && decide (o.id < p.id)))))

/-- RASTERISE_RECORD (R319, R320). -/
def execRasteriseRecord (r : Nat) (s : State) : Out :=
  match s.prims.find? (fun p => p.id == r && s.rasterDue p) with
  | none => .next s
  | some p =>
    let s := { s with prims := s.prims.erase p }
    match (s.launch? p.launch).bind Launch.draw with
    | none => .next s
    | some d =>
      .next ((p.quads d.pass.samp d.pass.tw).foldl (fun s q =>
        let r := s.addFrags p d.pass.samp q []
        r.1.placeQuad p d r.2) s)

/-! ### Commit (R321) -/

/-- Bytes of a sample of a target format. -/
def targetBytes (fmt : Nat) : Nat := if fmt = 0 then 4 else if fmt = 1 then 8 else 16
/-- Address of a sample in a target (R310). -/
def sampleVa (base : W64) (pitch bytes samp x y k : Nat) : Nat := base.toNat + y * pitch + (x * 2 ^ samp + k) * bytes

/-- An exact value rounded to an 8-bit unorm, saturating; a NaN's channel is free. -/
def toUnorm (bits : Nat) (v : FVal) : Nat :=
  match v with
  | .nan => Config.unormOfNan bits % 256
  | .inf neg => if neg then 0 else 255
  | .fin neg m e =>
    if neg then 0
    else
      let r := (roundInt rmRne false (255 * m) e).1
      if 255 < r then 255 else r

/-- The float format of a target. -/
def targetFmt (fmt : Nat) : Fmt := if fmt = 1 then fmtF16 else fmtF32
/-- A shader's channel in the target's format. -/
def toTarget (fmt : Nat) (x : W32) : Nat :=
  if fmt = 0 then toUnorm x.toNat (fmtF32.value x.toNat) else ((targetFmt fmt).round rmRne false (fmtF32.value x.toNat)).bits

/-- The ratio of two naturals rounded to the nearest, ties to even. -/
def nearest (n d : Nat) : Nat :=
  let q := n / d
  let r := 2 * (n % d)
  if d < r ∨ (r = d ∧ q % 2 = 1) then q + 1 else q

/-- Blends a channel `i`: source and destination channels in the target's format, each result rounded once. -/
def blendChannel (fmt blend : Nat) (src dst : List Nat) (i : Nat) : Nat :=
  let s := src.getD i 0
  let d := dst.getD i 0
  let a := src.getD 3 0
  if blend = 0 then s
  else if fmt = 0 then
    if blend = 1 then min 255 (s + d)
    else min 255 (nearest (255 * s + (255 - a) * d) 255)
  else
    let f := targetFmt fmt
    if blend = 1 then (f.fadd rmRne false s d).bits
    else
      let rest := FVal.add rmRne (.fin false 1 0) (f.value a).neg
      (f.round rmRne false (FVal.add rmRne (f.value s) (FVal.mul rest (f.value d)))).bits
/-- Channels of a sample's bytes, and back. -/
def channelsOf (fmt : Nat) (b : List Byte) : List Nat :=
  let n := targetBytes fmt / 4
  (List.range 4).map (fun i => natOfBytes ((b.drop (i * n)).take n))
def bytesOfChannels (fmt : Nat) (cs : List Nat) : List Byte := cs.flatMap (bytesOfNat (targetBytes fmt / 4))

/-- The depth test (R310). -/
def depthPass (test : Nat) (z old : Nat) : Bool :=
  match test with
  | 1 => (fmtF32.fcmp false 2 z old).1
  | 2 => (fmtF32.fcmp false 3 z old).1
  | _ => true

/-- Writes by a slice for a fragment, page by page. -/
def State.fragPut (s : State) (f : Fragment) (asid : BitVec 16) (va : Nat) (b : List Byte) : State :=
  let n := 65536 - va % 65536
  let put := fun (s : State) (va : Nat) (b : List Byte) =>
    match s.unitPa f.die asid .write va with
    | some pa => s.putLong 7 f.core pa b
    | none => s
  put (put s va (b.take n)) (va + n) (b.drop n)
/-- Bytes a slice holds for a fragment. -/
def State.fragGet (s : State) (f : Fragment) (asid : BitVec 16) (va n : Nat) : List Byte :=
  (List.range n).map (fun i =>
    match s.unitPa f.die asid .readWrite (va + i) with
    | some pa => readByte s.mem pa
    | none => 0)

/-- One queued output at one sample. -/
def State.commitOutput (s : State) (f : Fragment) (asid : BitVec 16) (p : Pass) (k : Nat) (w : Nat × List W32) : State :=
  if p.nrt ≤ w.1 then s
  else
    let t := p.rts.getD w.1 (0, 0, 0, 0)
    let fmt := t.2.2.1
    let va := sampleVa t.1 t.2.1 (targetBytes fmt) p.samp f.x f.y k
    let src := w.2.map (toTarget fmt)
    let dst := channelsOf fmt (s.fragGet f asid va (targetBytes fmt))
    s.fragPut f asid va (bytesOfChannels fmt ((List.range 4).map (blendChannel fmt t.2.2.2 src dst)))

/-- A covered sample: depth test, depth write, then the outputs in program order. -/
def State.commitSample (s : State) (f : Fragment) (asid : BitVec 16) (p : Pass) (k : Nat) : State :=
  let va := sampleVa p.depth p.dpitch 4 p.samp f.x f.y k
  let z := (f.zs.getD k 0).toNat
  let old := natOfBytes (s.fragGet f asid va 4)
  if p.depth ≠ 0 ∧ !depthPass p.dtest z old then s
  else
    let s := if p.dwrite ∧ p.depth ≠ 0 then s.fragPut f asid va (bytesOfNat 4 z) else s
    f.pouts.foldl (fun s w => s.commitOutput f asid p k (w.target, w.values)) s

/-- Covered samples of a fragment. -/
def Fragment.samples (f : Fragment) : List Nat := (List.range 8).filter (fun k => f.cover.testBit k)

/-- Addresses that a commit touches. -/
def Fragment.touches (f : Fragment) (p : Pass) : List Nat :=
  f.samples.flatMap (fun k =>
    (if p.depth = 0 then [] else [sampleVa p.depth p.dpitch 4 p.samp f.x f.y k])
    ++ f.pouts.filterMap (fun w =>
      if p.nrt ≤ w.target then none
      else let t := p.rts.getD w.target (0, 0, 0, 0)
        some (sampleVa t.1 t.2.1 (targetBytes t.2.2.1) p.samp f.x f.y k)))

/-- Lines of a commit, and of the tables on its way, that a pin holds (09 R221). -/
def State.fragPinned (s : State) (f : Fragment) (asid : BitVec 16) (p : Pass) : List Nat :=
  if f.killed then []
  else
    (f.touches p).flatMap (s.walkPins f.die asid)
      ++ (f.touches p).filterMap (fun va => (s.unitPa f.die asid .write va).bind (fun pa => if s.pinned none pa then some pa else none))

/-- Every earlier-registered fragment of the pixel is committed or dropped, and this one has retired with no output of it on
its way (R321). -/
def State.commitTurn (s : State) (f : Fragment) : Bool :=
  f.retired && !(s.frags.any (fun o => o.pass == f.pass && o.x == f.x && o.y == f.y && decide (o.order < f.order)))
  && !(s.ops.any (fun o => match o.kind with | .output ws => !o.acted && ws.any (fun w => w.1 == f.id) | _ => false))

/-- A commit has something to do: it is not held by a pin that it has already met. -/
def State.fragDue (s : State) (f : Fragment) : Bool :=
  s.commitTurn f &&
  (match s.launch? f.launch with
    | none => true
    | some l =>
      match l.draw with
      | none => true
      | some d => s.retryDue none (s.fragPinned f l.asid d.pass))

/-- FRAGMENT_COMMIT. -/
def execFragmentCommit (id : Nat) (s : State) : Out :=
  match s.frags.find? (fun f => f.id == id && s.commitTurn f) with
  | none => .next s
  | some f =>
    match s.launch? f.launch with
    | none => .next { s with frags := s.frags.erase f }
    | some l =>
      match l.draw with
      | none => .next { s with frags := s.frags.erase f }
      | some d =>
        match s.fragPinned f l.asid d.pass with
        | [] =>
          let s := { s with frags := s.frags.erase f }
          if f.killed then .next s
          else
            let s := (pageStarts (f.touches d.pass)).foldl (fun s va => s.useRefs f.die l.asid va) s
            .next (f.samples.foldl (fun s k => s.commitSample f l.asid d.pass k) s)
        | ps => .next (ps.foldl State.refuse s)

/-! ### Divergence history (R327) -/

/-- DIVERGENCE_HISTORY_UPDATE: after 256 counted waves. -/
def execDivergenceHistoryUpdate (die : Nat) (seg : W64) (kidx : Nat) (s : State) : Out :=
  .next (s.updDie die (fun d => { d with history := d.history.map (fun (e : (W64 × Nat) × (Nat × Nat × Nat)) =>
    if e.1 = (seg, kidx) then (e.1, windowEnd e.2) else e) }))

/-! ### What is due -/

/-- Steps of the rendering pipeline that are due, records and watermarks first. -/
def State.graphicsEvents (s : State) : List Event :=
  (s.meshes.filter s.setupDue).map (fun m => .setupBinning m.group)
  ++ (s.prims.filter (fun p => p.arriving s.dcc)).map (fun p => .primitiveRecord p.id)
  ++ (s.marks.filter s.markArrives).map (fun m => .watermark m.id)
  ++ s.passes.flatMap (fun k => ((List.range 5).filter (s.markDue k)).map (fun i => .watermarkSend k i))
  ++ (s.prims.filter s.rasterDue).map (fun p => .rasteriseRecord p.id)
  ++ (s.frags.filter s.fragDue).map (fun f => .fragmentCommit f.id)
  ++ s.dies.flatMap (fun e => (e.2.history.filter (fun h => decide (256 ≤ h.2.2.1))).map (fun h => .divergenceHistoryUpdate e.1 h.1.1 h.1.2))

end Sys2Proof.Machine
end

