-- ==== Sys2Proof/Machine/CrossLane.lean ====
section
/-! DEFINITION. The cross-lane group (05 R126; 14 R332; 16 R366; 19 R427; 21 R465, R470, R472; 22 R485, R488, R508, R510). -/

namespace Sys2Proof.Machine

/-- A cross-lane instruction: 1×1 operands, a forced-fuse point unless it is a derivative. -/
def crossOp (r : RWord) (x : XaWord) (len : Nat) (fused : Bool) (regs : Ctx → List Vop)
    (eff : Ctx → State → State) : State → Out :=
  issue { s := r.s, len := len, regs := fun c _ => regs c, ff := if fused then some (fun c _ => c.crossWidth x.mw) else none }
    (fun c st => (eff c st).done c len)

/-- D, A and B of a cross-lane instruction, 1×1. -/
def crossForm (r : RWord) (x : XaWord) : XaForm :=
  { r := r, x := x, dty := x.ty.toNat, sty := x.ty.toNat, block := false }

/-- The lane groups that reductions and votes act on: the part, or its 16-lane halves in compatibility mode (R366). -/
def laneGroups (c : Ctx) : List Lanes :=
  if c.wave.cm then (List.range (c.part.width / 16)).map (fun h => laneRange (c.part.base + 16 * h) 16)
  else [laneRange c.part.base c.part.width]

/-- Source lane of a shuffle for lane `l` of a segment of `ew` lanes (R488). -/
def shuffleLane (mode l ew k : Nat) : Nat :=
  match mode with
  | 0 => k % ew
  | 1 => if l < k then l else l - k
  | 2 => if ew ≤ l + k then l else l + k
  | _ => l ^^^ (k % ew)

/-- `shfl` (R488): segments are the aligned blocks of the effective width within the part. -/
def shuffle (r : RWord) (x : XaWord) (len : Nat) : State → Out :=
  let o := crossForm r x
  crossOp r x len true (fun c => o.d c :: ([o.a c, o.bAs c 2].flatMap Src.vops)) (fun c st =>
    let ew := c.crossWidth (x.mw)
    st.putV c ((lanesOf (c.xaActive x)).flatMap (fun l =>
      let q := c.part.base + (l - c.part.base) / ew * ew
      let j := shuffleLane x.sub.toNat (l - q) ew (c.src 32 l (o.bAs c 2) 0 0)
      c.wr l (o.d c) 0 0 (c.src (tyWidth o.sty) (q + j) (o.a c) 0 0))))
def execShfl (r : RWord) : State → Out := shuffle r (xaDefault 0) 4
def execShflExt (r : RWord) (x : XaWord) : State → Out := shuffle r x 8

/-- `vote` (R508). -/
def voteOp (r : RWord) (x : XaWord) (len : Nat) : State → Out :=
  crossOp r x len true (fun _ => []) (fun c st =>
    let act := c.xaActive x
    let q := c.wave.pred (r.a.toNat % 8) (r.a.getLsbD 3)
    if x.sub.toNat = 2 then
      st.updPart c.ref (fun p => p.setS (r.d.toNat % 64) ((act &&& q) >>> c.part.base))
    else
      let t := (laneGroups c).foldl (fun (m : Lanes) g =>
        let xs := act &&& g
        let holds := match x.sub.toNat with
          | 0 => xs &&& q != 0
          | 1 => xs &&& ~~~q == 0
          | _ => xs &&& q == 0 || xs &&& ~~~q == 0
        if holds then m ||| g else m) 0
      st.updWave c.ref.key (fun w => w.setP (r.d.toNat % 8) act t))
def execVote (r : RWord) : State → Out := voteOp r (xaDefault 0) 4
def execVoteExt (r : RWord) (x : XaWord) : State → Out := voteOp r x 8

/-! ### Reductions and scans (R472, R485) -/

/-- The value of the first lane: flushed by FTZ, a NaN made canonical; it raises no flag. -/
def firstValue (ty : Nat) (ftz : Bool) (v : Nat) : Nat :=
  match fmtOf ty with
  | some f => (f.round rmRne false (f.operand ftz v)).bits
  | none => v

/-- Combine: one step of a reduction. -/
def combine (ty op : Nat) (ftz : Bool) (a b : Nat) : FRes :=
  match fmtOf ty with
  | some f =>
    if op = 0 then f.fadd rmRne ftz a b
    else
      let r := f.minMax ftz (op == 2) a b
      { r with bits := (f.round rmRne false (f.value r.bits)).bits }
  | none =>
    match op with
    | 0 => plain ((a + b) % 2 ^ tyWidth ty)
    | 1 => plain (if intOf ty b < intOf ty a then b else a)
    | 2 => plain (if intOf ty a < intOf ty b then b else a)
    | 3 => plain (a &&& b)
    | 4 => plain (a ||| b)
    | _ => plain (a ^^^ b)

/-- Identity(OP, TY). -/
def identityOf (ty op : Nat) : Nat :=
  match fmtOf ty with
  | some f => if op = 1 then f.infBits else if op = 2 then f.signBits true + f.infBits else 0
  | none =>
    match op with
    | 1 => wrapInt (tyWidth ty) (tyMax ty)
    | 2 => wrapInt (tyWidth ty) (tyMin ty)
    | 3 => 2 ^ tyWidth ty - 1
    | _ => 0

/-- Running results over lanes in increasing order, with the flags of the steps that count: those in which the lane
combined, or one already combined, is no helper. -/
def foldLanes (ty op : Nat) (ftz : Bool) (val : Nat → Nat) (helper : Lanes) :
    List Nat → Nat → Bool → Flags → List (Nat × Nat) × Flags
  | [], _, _, fl => ([], fl)
  | l :: ls, r, real, fl =>
    let res := combine ty op ftz r (val l)
    let real' := real || !helper.getLsbD l
    let rest := foldLanes ty op ftz val helper ls res.bits real' (if real' then fl ||| res.fl else fl)
    ((l, res.bits) :: rest.1, rest.2)

/-- The running results of a group of lanes. -/
def runLanes (c : Ctx) (ty op : Nat) (a : Src) (lanes : List Nat) : List (Nat × Nat) × Flags :=
  match lanes with
  | [] => ([], 0)
  | l :: ls =>
    let val := fun k => c.src (tyWidth ty) k a 0 0
    let r := firstValue ty c.ftz (val l)
    let rest := foldLanes ty op c.ftz val c.wave.helper ls r (!c.wave.helper.getLsbD l) 0
    ((l, r) :: rest.1, rest.2)

/-- The values each lane of a group receives: the last result, or each lane's own, shifted by one when exclusive. -/
def spread (scan excl : Bool) (ident : Nat) (rs : List (Nat × Nat)) : List (Nat × Nat) :=
  if !scan then
    match rs.getLast? with
    | some t => rs.map (fun e => (e.1, t.2))
    | none => []
  else if excl then (rs.map Prod.fst).zip (ident :: rs.map Prod.snd)
  else rs

/-- `redu` and `scan`. -/
def reduceOp (r : RWord) (x : XaWord) (len : Nat) (scan : Bool) : State → Out :=
  let o := crossForm r x
  let ty := x.ty.toNat
  let op := if scan then x.sub.toNat % 8 else x.sub.toNat
  crossOp r x len true (fun c => o.d c :: (o.a c).vops) (fun c st =>
    let act := c.xaActive x
    let rs := (laneGroups c).map (fun g => runLanes c ty op (o.a c) (lanesOf (act &&& g)))
    let outs := rs.flatMap (fun e => spread scan (x.sub.getLsbD 3) (identityOf ty op) e.1)
    let fl := rs.foldl (fun f e => f ||| e.2) (0 : Flags)
    (st.putV c (outs.flatMap (fun e => c.wr e.1 (o.d c) 0 0 e.2))).updPart c.ref (fun p => p.orFp fl))
def execRedu (r : RWord) : State → Out := reduceOp r (xaDefault 1) 4 false
def execReduExt (r : RWord) (x : XaWord) : State → Out := reduceOp r x 8 false
def execScan (r : RWord) : State → Out := reduceOp r (xaDefault 1) 4 true
def execScanExt (r : RWord) (x : XaWord) : State → Out := reduceOp r x 8 true

/-! ### Single lanes and quads -/

/-- `rdlane` (R470): part-level. -/
def readLane (r : RWord) (x : XaWord) (len : Nat) : State → Out :=
  let o := crossForm r x
  crossOp r x len true (fun c => (o.a c).vops) (fun c st =>
    let l := c.part.base + r.b.toNat % c.crossWidth (x.mw)
    st.updPart c.ref (fun p => p.setS (r.d.toNat % 64) (BitVec.ofNat 64 (c.src (tyWidth o.sty) l (o.a c) 0 0))))
def execRdlane (r : RWord) : State → Out := readLane r (xaDefault 0) 4
def execRdlaneExt (r : RWord) (x : XaWord) : State → Out := readLane r x 8

/-- `wrlane` (R510): part-level; in compatibility mode one lane of each half that has an active lane (16 R366). -/
def execWrlane (r : RWord) (x : XaWord) : State → Out :=
  let o := crossForm r x
  crossOp r x 8 true (fun c => [o.d c]) (fun c st =>
    let k := r.b.toNat % c.crossWidth (x.mw)
    let halves := (List.range (c.part.width / 16)).filter (fun h =>
      (List.range 16).any (fun l => (c.xaActive x).getLsbD (c.part.base + 16 * h + l)))
    let lanes := if c.wave.cm then halves.map (fun h => c.part.base + 16 * h + k)
      else [c.part.base + k]
    st.putV c ((lanes.filter (fun l => decide (l < 64) && !c.wave.exited.getLsbD l)).flatMap (fun l =>
      c.wr l (o.d c) 0 0 (c.sreg (r.a.toNat % 64)).toNat)))

/-- The two source positions of a derivative in quad position `i` (R332). -/
def derivLanes (isX coarse : Bool) (i : Nat) : Nat × Nat :=
  if isX then (if coarse || decide (i < 2) then (1, 0) else (3, 2))
  else (if coarse || i % 2 == 0 then (2, 0) else (3, 1))

/-- `ddx` and `ddy` (R427, R332): an absent lane reads as +0.0 and sets DERIV. -/
def derivative (r : RWord) (x : XaWord) (len : Nat) (isX : Bool) : State → Out :=
  let o := crossForm r x
  crossOp r x len false (fun c => o.d c :: (o.a c).vops) (fun c st =>
    let f := fmtTy x.ty.toNat
    let here := c.emask ||| (c.part.cur &&& c.wave.helper &&& ~~~c.wave.exited)
    let val := fun l => if here.getLsbD l then c.src (tyWidth o.sty) l (o.a c) 0 0 else 0
    let res := (lanesOf (c.xaActive x)).map (fun l =>
      let q := l / 4 * 4
      let p := derivLanes isX (x.sub == 1) (l % 4)
      (l, f.fsub rmRne c.ftz (val (q + p.1)) (val (q + p.2)),
        !(here.getLsbD (q + p.1) && here.getLsbD (q + p.2))))
    let fl := res.foldl (fun (a : Flags) e => if c.wave.helper.getLsbD e.1 then a else a ||| e.2.1.fl) 0
    let st := st.putV c (res.flatMap (fun e => c.wr e.1 (o.d c) 0 0 e.2.1.bits))
    st.updPart c.ref (fun p => (p.orFp fl).raiseStatus (if res.any (fun e => e.2.2) then 1 else 0)))
def execDdx (r : RWord) : State → Out := derivative r (xaDefault 3) 4 true
def execDdxExt (r : RWord) (x : XaWord) : State → Out := derivative r x 8 true
def execDdy (r : RWord) : State → Out := derivative r (xaDefault 3) 4 false
def execDdyExt (r : RWord) (x : XaWord) : State → Out := derivative r x 8 false

/-- `qperm` (R465). -/
def quadPermute (r : RWord) (x : XaWord) (len : Nat) : State → Out :=
  let o := crossForm r x
  crossOp r x len true (fun c => o.d c :: (o.a c).vops) (fun c st =>
    st.putV c ((lanesOf (c.xaActive x)).flatMap (fun l =>
      let j := if x.sub.toNat = 3 then r.b.toNat % 4 else (l % 4) ^^^ (x.sub.toNat + 1)
      c.wr l (o.d c) 0 0 (c.src (tyWidth o.sty) (l / 4 * 4 + j) (o.a c) 0 0))))
def execQperm (r : RWord) : State → Out := quadPermute r (xaDefault 0) 4
def execQpermExt (r : RWord) (x : XaWord) : State → Out := quadPermute r x 8

end Sys2Proof.Machine
end

