-- ==== Sys2Proof/Machine/Units.lean ====
section
/-! DEFINITION. Reads and writes by the texture unit and the ray unit, lane by lane (14 R334, 15 R347), and how a lane of their
instructions waits for a page (08 R191). -/

namespace Sys2Proof.Machine

/-- What a unit's access comes to. -/
inductive Seen where
  | data (b : List Byte)
  /-- a page that is not present: the address and log2 of its extent -/
  | absent (va ext : Nat)
  /-- the ACCESS detail and the address -/
  | failed (detail va : Nat)
  /-- held back by an earlier access of the part, or by a pin -/
  | later
  deriving DecidableEq, Repr

/-- A unit's access as the memory unit compares it with others. -/
def unitAccess (va n pa pte cp : Nat) : Access :=
  { newAccess 0 va n (effCp cp pte) 0 [] [] with phase := .ready, pa := pa, kind := leafKind pte, logPage := 16 }

/-- An earlier access of the part that has not performed holds it back (09 R207). -/
def State.unitBlocked (s : State) (o : MemOp) (a : Access) : Bool :=
  match s.opWave o with
  | none => false
  | some w => s.ops.any (fun e => decide (e.id < o.id) && e.key == o.key && e.accs.any (s.clashes e.core e.asid a) && sharePart w e.id o.id)

/-- Translates a unit's access: its physical address and leaf. -/
def State.unitWalk (s : State) (o : MemOp) (need : Need) (va n : Nat) : State × Except Seen (Nat × Nat) :=
  let pins := s.lookPins o.core false o.asid va
  if 2 ^ 57 < va + n then (s, .error (.failed 5 va))
  else if pins ≠ [] then (s.refuseAll pins, .error .later)
  else
    match s.translate o.core false o.asid va with
    | (s, .leaf pte p) =>
      let pa := paOf pte p va
      match s.leafFault need pte pa with
      | some d => (s, .error (.failed d va))
      | none => (s, .ok (pa, pte))
    | (s, .nonPresent x) => (s, .error (.absent va x))
    | (s, .malformed) => (s, .error (.failed 3 va))

/-- One read within a line, and its latency: through the L1, or at the slice for cache policy 2. The unit's value is the one that
stands as the unit evaluates the lane, behind the core's earlier requests, while its latency passes afterwards (DESIGN CHOICE,
notes/assumptions/52.md). -/
def State.unitRead (s : State) (o : MemOp) (cp va n : Nat) : State × Nat × Seen :=
  -- where a memory error of the read is delivered (12 R284)
  let s := s.updOp o.id (fun q => if q.reads.contains (o.lane, va, n) then q else { q with reads := q.reads ++ [(o.lane, va, n)] })
  match s.unitWalk o .read va n with
  | (s, .error x) => (s, 0, x)
  | (s, .ok (pa, pte)) =>
    let a := unitAccess va n pa pte cp
    if s.unitBlocked o a then (s, 0, .later)
    else if bypasses o a ∧ s.lineBusy o.core (pa / 128) then (s.sendBack o.core (pa / 128), 0, .later)
    else if !bypasses o a && s.l1Valid o.core pa n then
      let x := s.loadL1 o a
      (x.1, max 20 (x.2.due - s.dcc), .data x.2.data)
    else if s.pinned (some o.core) pa then (s.refuse pa, 0, .later)
    else
      let x := s.loadSlice o a (slicePath o.core pa)
      (x.1, x.2.due - s.dcc, .data x.2.data)

/-- A read of any length, line by line. -/
def State.unitReads (s : State) (o : MemOp) (cp : Nat) : Nat → Nat → Nat → State × Nat × Seen
  | 0, _, _ => (s, 0, .data [])
  | fuel + 1, va, n =>
    if n = 0 then (s, 0, .data [])
    else
      let k := min n (128 - va % 128)
      match s.unitRead o cp va k with
      | (s, c, .data b) =>
        match s.unitReads o cp fuel (va + k) (n - k) with
        | (s, c', .data r) => (s, max c c', .data (b ++ r))
        | x => x
      | x => x
def State.unitBytes (s : State) (o : MemOp) (cp va n : Nat) : State × Nat × Seen := s.unitReads o cp (n / 128 + 2) va n

/-- Where the writes of a list go, each within a line; it stops at the first that cannot be sent (15 R349). -/
def State.unitPlaces (s : State) (o : MemOp) : List (Nat × List Byte) → State × Except Seen (List (Nat × List Byte))
  | [] => (s, .ok [])
  | (va, b) :: r =>
    match s.unitWalk o .write va b.length with
    | (s, .error x) => (s, .error x)
    | (s, .ok (pa, pte)) =>
      if s.unitBlocked o (unitAccess va b.length pa pte 0) then (s, .error .later)
      else
        match s.unitPlaces o r with
        | (s, .ok ws) => (s, .ok ((pa, b) :: ws))
        | x => x
/-- Sends an operation's writes `delay` cycles on; it completes behind them (01 R27, 15 R349). -/
def State.unitWrites (s : State) (o : MemOp) (delay : Nat) (ws : List (Nat × List Byte)) : State × Seen :=
  match s.unitPlaces o ws with
  | (s, .error x) => (s, x)
  | (s, .ok ps) =>
    (ps.foldl (fun s p => s.post
      { id := 0, core := o.core, launch := o.launch, op := some o.id, part := none, src := 0, pa := p.1, what := .bytes p.2
        arrival := s.dcc + delay + slicePath o.core p.1 }) s, .data [])

/-! ### Lanes -/

/-- What a lane's evaluation comes to: its result registers and their latency, or why it stops. -/
inductive LaneRes where
  | done (regs : List W32) (cost : Nat)
  | stop (x : Seen)
  /-- the unit goes on with the lane after its reads' latency -/
  | more (cost : Nat)
  deriving DecidableEq, Repr

/-- STATUS bits that an operation sets as it completes (04 R91). -/
def State.orOpStatus (s : State) (id : Nat) (f : BitVec 4) : State := s.updOp id (fun o => { o with status := o.status ||| f })

/-- Changes the access of one lane. -/
def MemOp.updLane (o : MemOp) (lane : Nat) (f : Access → Access) : MemOp :=
  { o with accs := o.accs.map (fun (a : Access) => if a.lane = lane then f a else a) }

/-- The unit goes on with the lane later. -/
def State.laneLater (s : State) (id lane d : Nat) : State :=
  s.updOp id (fun o => o.updLane lane (fun a => { a with arrival := s.dcc + max 1 d, data2 := [1] }))

/-- Gives a lane its result, or lets it wait or fail (08 R189-R191). -/
def State.landLane (s : State) (id lane : Nat) (r : LaneRes) : State :=
  match s.op? id with
  | none => s
  | some o =>
    match r with
    | .done regs cost =>
      s.updOp id (fun o => o.updLane lane (fun a =>
        { a with data := regs.flatMap (fun w => bytesOfNat 4 w.toNat), phase := .done, due := s.dcc + cost }))
    | .stop (.failed d va) =>
      (s.updOp id (fun o => o.updLane lane (fun a => { a with va := va }))).failAccesses id d 16 (fun a => a.lane == lane)
    | .stop (.absent va ext) =>
      match s.postFault o.core o.asid va ext 0 o.slot with
      | (s, some (die, t)) => s.updOp id (fun o => o.updLane lane (fun a => { a with va := va, phase := .held die t }))
      | (s, none) => s.updOp id (fun o => o.updLane lane (fun a => { a with arrival := s.dcc + 1 }))
    | .stop _ => s.updOp id (fun o => o.updLane lane (fun a => { a with arrival := s.dcc + 1 }))
    | .more d => s.laneLater id lane d

/-- An earlier ray operation has not ended in the lane (15 R341). -/
def State.rayAhead (s : State) (o : MemOp) (lane : Nat) : Bool :=
  match o.kind with
  | .unit _ _ _ (.trav _ _ _ _ _ _ _) =>
    s.ops.any (fun e =>
      decide (e.id < o.id) && e.key == o.key && e.admission == o.admission &&
      (match e.kind with
        | .unit _ _ _ (.trav _ _ _ _ _ _ _) => e.accs.any (fun a => a.lane == lane && a.isOpen)
        | _ => false))
  | _ => false

/-- A request of an operation is on its way to its slice: of plain memory, to a queue, or to a channel. -/
def MemOp.underWay (o : MemOp) (now : Nat) : Bool :=
  match o.kind with
  | .unit _ _ _ _ => false
  | .chsend _ _ => o.acted && o.parked && decide (now < o.arrival)
  | .chrecv _ _ _ _ _ => o.parked && decide (now < o.arrival)
  | _ => o.accs.any (fun a => a.phase == .ready && !a.l1 && decide (now < a.arrival))

/-- Requests that the operation's core sent to slices before it have not arrived (01 R19). -/
def State.requestsAhead (s : State) (o : MemOp) : Bool :=
  s.ops.any (fun e => e.core == o.core && decide (e.id < o.id) && e.underWay s.dcc)
  || s.posted.any (fun p => p.core == o.core && decide (p.id < o.id) && decide (s.dcc < p.arrival))
  || !s.backsDone o.core o.id

/-- A lane of a unit's operation can be evaluated. -/
def State.laneDue (s : State) (o : MemOp) (a : Access) : Bool :=
  a.phase == .ready && decide (a.arrival ≤ s.dcc) && !s.rayAhead o a.lane && !s.requestsAhead o
def State.unitDue (s : State) (o : MemOp) : Bool :=
  (match o.kind with | .unit _ _ _ _ => true | _ => false)
  && (o.accs.any (s.laneDue o) || o.accs.any (Access.returned s.dcc) || s.opOver o)

/-- Addresses that no access of memory shares. -/
def unitPlace : Nat := 2 ^ 60

/-- Issues a unit's operation: one lane each, evaluated after the L1's latency. -/
def State.startUnit (s : State) (c : Ctx) (len dst n : Nat) (lanes : List Nat) (q : UnitReq) : State :=
  let accs := lanes.map (fun l =>
    { newAccess l 0 1 0 0 [] [] with phase := .ready, pa := unitPlace, arrival := s.dcc + 20 })
  let x := s.newOp c .ld (.unit c.part.depth dst n q) len 0 0 0 accs (s.dcc + 20)
  x.1.done c len

/-- Address traps of a unit's structure: bits 63:57, then alignment. -/
def structTrap (as : List (Nat × Nat)) : Option (Nat × Nat × W64) :=
  match as.find? (fun e => decide (2 ^ 57 ≤ e.1)) with
  | some e => some (tcAccess, 5, BitVec.ofNat 64 e.1)
  | none =>
    match as.find? (fun e => e.1 % e.2 != 0) with
    | some e => some (tcAlign, 0, BitVec.ofNat 64 e.1)
    | none => none

end Sys2Proof.Machine
end

