-- ==== Sys2Proof/Machine/Texture.lean ====
section
/-! DEFINITION. Textures and residency (14 R333-R335; 22 R498-R501). -/

namespace Sys2Proof.Machine

/-! ### Descriptors (R333) -/

structure TexDesc where
  base : Nat
  fmt : Nat
  dims : Nat
  levels : Nat
  sparse : Bool
  exts : List Nat
  deriving DecidableEq, Repr

/-- A texture descriptor, when every field is in range. -/
def texDesc? (b : List Byte) : Option TexDesc :=
  let f := fieldAt b
  let exts := [f 12 2, f 14 2, f 16 2]
  if 5 < f 8 1 ∨ f 9 1 = 0 ∨ 3 < f 9 1 ∨ f 10 1 = 0 ∨ 16 < f 10 1 ∨ 1 < f 11 1 ∨ exts.any (fun e => e == 0 || decide (16384 < e))
      ∨ (b.drop 18).any (fun x => x != 0) then none
  else some { base := f 0 8, fmt := f 8 1, dims := f 9 1, levels := f 10 1, sparse := f 11 1 == 1, exts := exts }

structure Sampler where
  filter : Nat
  mode : Nat
  cmp : Nat
  /-- RGBA as f32 patterns -/
  border : List Nat
  deriving DecidableEq, Repr

/-- A sampler descriptor, when every field is in range. -/
def sampler? (b : List Byte) : Option Sampler :=
  let f := fieldAt b
  if 2 < f 0 1 ∨ 2 < f 1 1 ∨ 5 < f 2 1 ∨ (List.range 5).any (fun i => f (3 + i) 1 != 0) then none
  else some { filter := f 0 1, mode := f 1 1, cmp := f 2 1
              border := (List.range 4).map (fun i => (fmtF32.round rmRne false (fmtF16.value (f (8 + 2 * i) 2))).bits) }

/-- Extent of an axis at a level. -/
def TexDesc.ext (t : TexDesc) (level axis : Nat) : Nat := max 1 (t.exts.getD axis 1 / 2 ^ level)
/-- Bytes of a texel. -/
def TexDesc.size (t : TexDesc) : Nat := [1, 4, 2, 8, 4, 16].getD t.fmt 1
/-- Base of a level: the levels before it, each rounded up to 64 KiB. -/
def TexDesc.levelBase (t : TexDesc) (level : Nat) : Nat :=
  t.base + ((List.range level).map (fun l => (t.ext l 0 * t.ext l 1 * t.ext l 2 * t.size + 65535) / 65536 * 65536)).sum
/-- Address of a texel (R500). -/
def TexDesc.texelVa (t : TexDesc) (level : Nat) (p : Nat × Nat × Nat) : Nat :=
  t.levelBase level + ((p.2.2 * t.ext level 1 + p.2.1) * t.ext level 0 + p.1) * t.size

/-- The four channels of a texel's bytes, as f32 patterns; missing channels are 0, 0, 0, 1. -/
def TexDesc.channels (t : TexDesc) (b : List Byte) : List Nat :=
  let unorm := fun (i : Nat) => fmtF32.roundRatio rmRne (fieldAt b i 1 : Nat) 255 0
  let half := fun (i : Nat) => (fmtF32.round rmRne false (fmtF16.value (fieldAt b (2 * i) 2))).bits
  let word := fun (i : Nat) => fieldAt b (4 * i) 4
  let one := 0x3F800000
  match t.fmt with
  | 0 => [unorm 0, 0, 0, one]
  | 1 => (List.range 4).map unorm
  | 2 => [half 0, 0, 0, one]
  | 3 => (List.range 4).map half
  | 4 => [word 0, 0, 0, one]
  | _ => (List.range 4).map word

/-! ### f32 arithmetic (R500: RNE) -/

def addF (a b : Nat) : Nat := (fmtF32.fadd rmRne false a b).bits
def subF (a b : Nat) : Nat := (fmtF32.fsub rmRne false a b).bits
def mulF (a b : Nat) : Nat := (fmtF32.fmul rmRne false a b).bits
def natF (n : Nat) : Nat := (fmtF32.ofInt rmRne false n).bits
def halfF : Nat := 0x3F000000

/-- The floor of a pattern: an integer, and as a pattern; free when it is not finite. -/
def floorF (x : Nat) : Int × Nat :=
  match fmtF32.value x with
  | .fin neg m e =>
    let i := if 0 ≤ e then signed neg m * 2 ^ e.toNat else (signed neg m) / 2 ^ (-e).toNat
    (i, (fmtF32.ofInt rmRne false i).bits)
  | _ => (Config.texelIndex x, x)

/-- A fraction truncated to a multiple of 1/256: its numerator. -/
def fracF (x : Nat) : Nat :=
  let d := subF x (floorF x).2
  match fmtF32.value d with
  | .fin false m e => if 0 ≤ e then 256 * m * 2 ^ e.toNat else 256 * m / 2 ^ (-e).toNat
  | _ => 0

/-- One multiply-add of a weight in units of 2^-k. -/
def maddF (num k t acc : Nat) : Nat :=
  (fmtF32.round rmRne false (FVal.add rmRne (FVal.mul (.fin false num (-(k : Int))) (fmtF32.value t)) (fmtF32.value acc))).bits

/-! ### Level of detail (R499) -/

/-- The operand registers of a lane. -/
def regsOf (coords : List (Nat × List Nat)) (lane : Nat) : List Nat := (lookT coords lane).getD []

/-- The length of the coarse difference of two quad lanes. -/
def diffLength (t : TexDesc) (val : Nat → Nat → Nat) (l0 l1 : Nat) : Nat :=
  let d := (List.range t.dims).map (fun k =>
    let e := natF (t.ext 0 k)
    subF (mulF (val l1 k) e) (mulF (val l0 k) e))
  let sq := d.map (fun x => mulF x x)
  (fmtF32.fsqrt rmRne false ((sq.drop 1).foldl addF (sq.headD 0))).bits

/-- log2 of the larger length. -/
def implicitLod (t : TexDesc) (coords : List (Nat × List Nat)) (here : Lanes) (lane : Nat) : Nat :=
  let q := lane / 4 * 4
  let val := fun (l k : Nat) => if here.getLsbD l then (regsOf coords l).getD k 0 else 0
  let rho := (fmtF32.minMax false true (diffLength t val q (q + 1)) (diffLength t val q (q + 2))).bits
  (special .log2 fmtF32 false rho).bits

/-- The level before clamping. -/
def lambda (t : TexDesc) (sub : Nat) (coords : List (Nat × List Nat)) (here : Lanes) (lane : Nat) : Nat :=
  let extra := (regsOf coords lane).getD t.dims 0
  match sub with
  | 0 => implicitLod t coords here lane
  | 1 => addF (implicitLod t coords here lane) extra
  | 2 => extra
  | _ => 0

/-- Clamped to 0…LEVELS − 1; a NaN loses to a number (07 R163). -/
def clampLod (t : TexDesc) (x : Nat) : Nat :=
  (fmtF32.minMax false false (fmtF32.minMax false true x 0).bits (natF (t.levels - 1))).bits

/-- The levels that are read and the weight of the second, in 1/256; one level for filters 0 and 1. -/
def levelsRead (t : TexDesc) (filter lod : Nat) : Nat × Option (Nat × Nat) :=
  if filter = 2 then
    let l := (floorF lod).1.toNat
    (l, some (min (l + 1) (t.levels - 1), fracF lod))
  else (min (floorF (addF lod halfF)).1.toNat (t.levels - 1), none)

/-! ### Footprints (R500) -/

/-- An index after the address mode; none is the border. -/
def addressed (mode w : Nat) (i : Int) : Option Nat :=
  match mode with
  | 0 => some (min (max i 0).toNat (w - 1))
  | 1 => some (i % w).toNat
  | _ => if 0 ≤ i ∧ i < w then some i.toNat else none

/-- The texels an axis takes: weight in 1/256, and index before the address mode. -/
def axisTaps (linear : Bool) (u w : Nat) : List (Nat × Int) :=
  let x := mulF u (natF w)
  if linear then
    let y := subF x halfF
    let i := (floorF y).1
    let f := fracF y
    [(256 - f, i), (f, i + 1)]
  else [(256, (floorF x).1)]

/-- A texel of a footprint: weight in units of 2^-24, and its place, or none for the border. -/
structure Tap where
  weight : Nat
  place : Option (Nat × Nat × Nat)
  deriving DecidableEq, Repr

/-- The three axes' indices after the address mode. -/
def placed (t : TexDesc) (mode level : Nat) (ix : List Int) : Option (Nat × Nat × Nat) :=
  let at_ := fun (k : Nat) => if k < t.dims then addressed mode (t.ext level k) (ix.getD k 0) else some 0
  match at_ 0, at_ 1, at_ 2 with
  | some i, some j, some k => some (i, j, k)
  | _, _, _ => none

/-- Texels of a level, in increasing k, then j, then i. -/
def footprint (t : TexDesc) (sm : Sampler) (level : Nat) (uvw : List Nat) : List Tap :=
  let axis := fun (k : Nat) => if k < t.dims then axisTaps (sm.filter != 0) (uvw.getD k 0) (t.ext level k) else [(256, 0)]
  (axis 2).flatMap (fun c => (axis 1).flatMap (fun b => (axis 0).map (fun a =>
    { weight := a.1 * b.1 * c.1, place := placed t sm.mode level [a.2, b.2, c.2] : Tap })))

/-- The four texels of `texg`: the linear footprint of the first two axes at the nearest slice. -/
def gatherTaps (t : TexDesc) (sm : Sampler) (level : Nat) (uvw : List Nat) : List Tap :=
  let axis := fun (k : Nat) => if k < t.dims then (axisTaps true (uvw.getD k 0) (t.ext level k)).map Prod.snd else [0, 0]
  let k : Int := if 2 < t.dims then ((axisTaps false (uvw.getD 2 0) (t.ext level 2)).map Prod.snd).headD 0 else 0
  (axis 1).flatMap (fun j => (axis 0).map (fun i => { weight := 0, place := placed t sm.mode level [i, j, k] : Tap }))

/-! ### Sparse misses (R335) -/

/-- The draw whose pass a wave belongs to. -/
def State.opDraw (s : State) (o : MemOp) : Option (Launch × Draw) :=
  (s.launch? o.launch).bind (fun l => l.draw.map (fun d => (l, d)))

/-- The tables on the way to the pass's bitmap, queue and counter that are pinned (09 R221). -/
def State.sparsePins (s : State) (o : MemOp) (l : Launch) (d : Draw) (tile : Option Nat) : List Nat :=
  let pins := s.walkPins (dieOf o.core) l.asid
  (match tile with | some t => if d.pass.reshade = 0 then [] else pins (d.pass.reshade.toNat + t / 8) | none => [])
    ++ (if d.pass.resq = 0 then [] else pins d.pass.resq.toNat ++ pins (d.pass.addr.toNat + 52))

/-- Sets the bit of a pixel wave's tile in the re-shade bitmap. -/
def State.reshade (s : State) (o : MemOp) (l : Launch) (d : Draw) (tile : Option Nat) : State :=
  match tile with
  | none => s
  | some t =>
    let va := d.pass.reshade.toNat + t / 8
    if d.pass.reshade = 0 then s
    else
      match s.unitPa (dieOf o.core) l.asid .readWrite va with
      | some pa => (s.useRefs (dieOf o.core) l.asid va).unitPost o.core o.launch (some o.id) 7 pa (.orByte (BitVec.ofNat 8 (2 ^ (t % 8))))
      | none => s

/-- The residency queue entry of a page. -/
def residencyEntry (asid : BitVec 16) (va : Nat) : W64 := BitVec.ofNat 64 (va / 65536 % 2 ^ 41 + 2 ^ 41 * asid.toNat)

/-- Sends a missing page to the residency queue, unless the die has just entered it; the block page is the leaf's (08 R203). -/
def State.noteMissing (s : State) (o : MemOp) (l : Launch) (d : Draw) (va : Nat) : State :=
  let e := residencyEntry o.asid va
  if d.pass.resq = 0 ∨ (s.die (dieOf o.core)).recent.contains e then s
  else
    match s.unitLeaf (dieOf o.core) l.asid .readWrite d.pass.resq.toNat with
    | none => s
    | some (pa, logPage) =>
      (s.useRefs (dieOf o.core) l.asid d.pass.resq.toNat).unitPost o.core o.launch (some o.id) 7 pa
        (.entry e logPage (s.unitPa (dieOf o.core) l.asid .readWrite (d.pass.addr.toNat + 52)))

/-- A texel of a sparse texture has no page at an address; false while a pinned table holds its notices back. -/
def State.sparseMiss (s : State) (o : MemOp) (va : Nat) : State × Bool :=
  match s.opDraw o with
  | none => (s.orOpStatus o.id 2, true)
  | some (l, d) =>
    let tile := ((s.opWave o).bind (fun w => w.pixel)).map (fun px => px.tile)
    match s.sparsePins o l d tile with
    | [] => (((s.orOpStatus o.id 2).reshade o l d tile).noteMissing o l d va, true)
    | pins => (s.refuseAll pins, false)

/-! ### Reading texels -/

/-- Latency of a texel whose page is missing: that of a line in the HBM of the core's die, since no page says where its home is
(R335; DESIGN CHOICE, notes/assumptions/52.md). -/
def missingCost (core : Nat) : Nat := sliceLatency (dieOf core) (dieOf core) + homeExtra 0

/-- The channels of the taps of a level, in order. -/
def State.readTaps (s : State) (o : MemOp) (t : TexDesc) (sm : Sampler) (level : Nat) : List Tap → State × Nat × Except Seen (List (List Nat))
  | [] => (s, 0, .ok [])
  | tap :: r =>
    let one : State × Nat × Except Seen (List Nat) :=
      match tap.place with
      | none => (s, 0, .ok sm.border)
      | some p =>
        match s.unitBytes o 0 (t.texelVa level p) t.size with
        | (s, c, .data b) => (s, c, .ok (t.channels b))
        | (s, c, .absent va x) =>
          if !t.sparse then (s, c, .error (.absent va x))
          else
            match s.sparseMiss o va with
            | (s, true) => (s, max c (missingCost o.core), .ok sm.border)
            | (s, false) => (s, c, .error .later)
        | (s, c, x) => (s, c, .error x)
    match one with
    | (s, c, .error x) => (s, c, .error x)
    | (s, c, .ok v) =>
      match s.readTaps o t sm level r with
      | (s, c', .ok vs) => (s, max c c', .ok (v :: vs))
      | (s, c', .error x) => (s, c', .error x)

/-- The comparison of a sampler of a reference with a texel. -/
def compared (sm : Sampler) (ref x : Nat) : Nat := if (fmtF32.fcmp false sm.cmp ref x).1 then 0x3F800000 else 0

/-- The filtered value of a level's texels. -/
def combineTaps (sm : Sampler) (taps : List Tap) (vals : List (List Nat)) : List Nat :=
  if sm.filter = 0 then vals.headD [0, 0, 0, 0]
  else (List.range 4).map (fun ch => (taps.zip vals).foldl (fun acc e => maddF e.1.weight 24 (e.2.getD ch 0) acc) 0)

/-- One level blend: the exact a + w · (b − a), rounded once. -/
def blendLevels (w : Nat) (a b : List Nat) : List Nat :=
  (List.range 4).map (fun i =>
    let x := fmtF32.value (a.getD i 0)
    let y := fmtF32.value (b.getD i 0)
    (fmtF32.round rmRne false (FVal.add rmRne x (FVal.mul (.fin false w (-8)) (FVal.add rmRne y x.neg)))).bits)

/-- The value of one level. -/
def State.sampleLevel (s : State) (o : MemOp) (t : TexDesc) (sm : Sampler) (sub : Nat) (uvw : List Nat) (level : Nat) :
    State × Nat × Except Seen (List Nat) :=
  let taps := footprint t sm level uvw
  match s.readTaps o t sm level taps with
  | (s, c, .error x) => (s, c, .error x)
  | (s, c, .ok vals) =>
    let vals := if sub = 3 then vals.map (fun v => List.replicate 4 (compared sm (uvw.getD t.dims 0) (v.headD 0))) else vals
    (s, c, .ok (combineTaps sm taps vals))

/-- `tex` of a lane: one level, or two blended. -/
def State.sampleTex (s : State) (o : MemOp) (t : TexDesc) (sm : Sampler) (sub : Nat) (uvw : List Nat) (lod : Nat) :
    State × Nat × Except Seen (List Nat) :=
  match levelsRead t sm.filter lod with
  | (l, none) => s.sampleLevel o t sm sub uvw l
  | (l, some (l', w)) =>
    match s.sampleLevel o t sm sub uvw l with
    | (s, c, .error x) => (s, c, .error x)
    | (s, c, .ok a) =>
      match s.sampleLevel o t sm sub uvw l' with
      | (s, c', .error x) => (s, c', .error x)
      | (s, c', .ok b) => (s, max c c', .ok (blendLevels w a b))

/-- `texg` of a lane: channel 0 of four texels. -/
def State.gatherTex (s : State) (o : MemOp) (t : TexDesc) (sm : Sampler) (sub : Nat) (uvw : List Nat) (lod : Nat) :
    State × Nat × Except Seen (List Nat) :=
  let l := min (floorF (addF lod halfF)).1.toNat (t.levels - 1)
  match s.readTaps o t sm l (gatherTaps t sm l uvw) with
  | (s, c, .error x) => (s, c, .error x)
  | (s, c, .ok vals) =>
    let v0 := vals.map (fun v => v.headD 0)
    (s, c, .ok (if sub = 3 then v0.map (compared sm (uvw.getD t.dims 0)) else v0))

/-- A result register: f32, or f16 in its low half (05 R109). -/
def texResult (f16 : Bool) (x : Nat) : W32 := BitVec.ofNat 32 (if f16 then (fmtF16.round rmRne false (fmtF32.value x)).bits else x)

def zeros4 : List W32 := [0, 0, 0, 0]

/-- A lane of `tex` or `texg`. -/
def State.texLane (s : State) (o : MemOp) (gather f16 : Bool) (sub desc samp : Nat) (coords : List (Nat × List Nat)) (here : Lanes) (lane : Nat) :
    State × LaneRes :=
  match s.unitBytes o 0 desc 32 with
  | (s, c, .data tb) =>
    match s.unitBytes o 0 samp 16 with
    | (s, c', .data sb) =>
      match texDesc? tb, sampler? sb with
      | some t, some sm =>
        let lod := clampLod t (lambda t sub coords here lane)
        let uvw := regsOf coords lane
        match (if gather then s.gatherTex o t sm sub uvw lod else s.sampleTex o t sm sub uvw lod) with
        | (s, c'', .ok v) => (s, .done (v.map (texResult f16)) (max c c' + c''))
        | (s, _, .error x) => (s, .stop x)
      | _, _ => (s, .done zeros4 (max c c'))
    | (s, _, x) => (s, .stop x)
  | (s, _, x) => (s, .stop x)

/-- The texel that `texq` with SUB 2 addresses: the nearest, inside the level; none when there is none. -/
def addressedTexel (t : TexDesc) (uvw : List Nat) : Option Nat :=
  let level := uvw.getD t.dims 0
  let ix := (List.range t.dims).map (fun k => (floorF (mulF (uvw.getD k 0) (natF (t.ext level k)))).1)
  if t.levels ≤ level then none else (placed t 2 level ix).map (t.texelVa level)

/-- A lane of `texq` (R501). -/
def State.texqLane (s : State) (o : MemOp) (sub desc : Nat) (coords : List (Nat × List Nat)) (lane : Nat) : State × LaneRes :=
  match s.unitBytes o 0 desc 32 with
  | (s, c, .data tb) =>
    match texDesc? tb with
    | none => (s, .done zeros4 c)
    | some t =>
      let r := regsOf coords lane
      let w := BitVec.ofNat 32
      match sub with
      | 0 =>
        let l := r.headD 0
        (s, .done (if t.levels ≤ l then zeros4 else (List.range 3).map (fun k => w (t.ext l k)) ++ [0]) c)
      | 1 => (s, .done [w t.levels, 0, 0, 0] c)
      | _ =>
        match addressedTexel t r with
        | none => (s, .done [Config.texqOutside (r.headD 0), 0, 0, 0] c)
        | some va =>
          -- only the page's presence counts, and not what may be done there
          match s.unitWalk o .read va 1 with
          | (s, .ok _) => (s, .done [1, 0, 0, 0] c)
          | (s, .error (.absent _ _)) => (s, .done [0, 0, 0, 0] c)
          | (s, .error .later) => (s, .stop .later)
          | (s, .error x) =>
            match s.walk (dieOf o.core) o.asid va with
            | .leaf _ _ => (s, .done [1, 0, 0, 0] c)
            | _ => (s, .stop x)
  | (s, _, x) => (s, .stop x)

/-! ### Issue (R498, R499) -/

/-- DIMS of the descriptor, when its page is there; it fixes how many coordinate registers are checked. -/
def State.texDims (s : State) (c : Ctx) (m : MWord) : Nat :=
  match s.quietRead c.ref.core c.part.regs.asid .read (c.sreg m.bu.toNat).toNat 32 with
  | some b => match texDesc? b with | some t => t.dims | none => 1
  | none => 1

/-- Result and coordinate operands. -/
def texVops (m : MWord) (n : Nat) : List Vop := [{ f := m.d.toNat, unit := 4, al := 4 }, { f := m.a.toNat, unit := n }]

/-- Operand registers of lanes. -/
def Ctx.coords (c : Ctx) (m : MWord) (lanes : List Nat) : List (Nat × List Nat) :=
  lanes.map (fun l => (l, (c.words l { f := m.a.toNat, unit := 4 }).map (fun w => w.toNat)))

/-- Lanes that a derivative reads: active ones of the current path, and helpers on it (R332). -/
def Ctx.derivHere (c : Ctx) : Lanes := c.emask ||| (c.part.cur &&& c.wave.helper &&& ~~~c.wave.exited)
/-- Some active lane's coarse differences read an absent lane. -/
def derivAbsent (here : Lanes) (lanes : List Nat) : Bool :=
  lanes.any (fun l => let q := l / 4 * 4; !(here.getLsbD q && here.getLsbD (q + 1) && here.getLsbD (q + 2)))

/-- `tex` and `texg`. -/
def texOp (m : MWord) (x : XaWord) (len : Nat) (gather : Bool) : State → Out :=
  let sub := x.sub.toNat
  issue
    { s := m.s, len := len, cls := some .ld, mem := true
      regs := fun c s => texVops m (s.texDims c m + (if sub = 0 then 0 else 1)) }
    (fun c st =>
      let d := (c.sreg m.bu.toNat).toNat
      let p := (c.sreg (m.bu.toNat + 1)).toNat
      match structTrap [(d, 32), (p, 16)] with
      | some (code, detail, a) => st.precise c code detail a
      | none =>
        let lanes := lanesOf (c.xaActive x)
        let here := c.derivHere
        let coords := c.coords m (lanesOf (laneRange c.part.base c.part.width))
        let dst := ({ f := m.d.toNat } : Vop).reg c.wb 0 0
        let id := st.nextId
        let st := st.startUnit c len dst 4 lanes (.tex gather (x.ty == 4) sub d p coords here)
        if sub ≠ 2 ∧ derivAbsent here lanes then st.orOpStatus id 1 else st)
def execTex (m : MWord) : State → Out := texOp m (xaDefault 3) 4 false
/-- `tex` with an XA word (R500). -/
def execTexExt (m : MWord) (x : XaWord) : State → Out := texOp m x 8 false
/-- `texg` (R500). -/
def execTexg (m : MWord) : State → Out := texOp m (xaDefault 3) 4 true
/-- `texg` with an XA word (R500). -/
def execTexgExt (m : MWord) (x : XaWord) : State → Out := texOp m x 8 true

/-- `texq` (R501). -/
def texqOp (m : MWord) (x : XaWord) (len : Nat) : State → Out :=
  let sub := x.sub.toNat
  issue
    { s := m.s, len := len, cls := some .ld, mem := true
      regs := fun c s => if sub = 1 then (texVops m 1).take 1 else texVops m (if sub = 0 then 1 else s.texDims c m + 1) }
    (fun c st =>
      let d := (c.sreg m.bu.toNat).toNat
      match structTrap [(d, 32), ((c.sreg (m.bu.toNat + 1)).toNat, 16)] with
      | some (code, detail, a) => st.precise c code detail a
      | none =>
        let lanes := lanesOf (c.xaActive x)
        let dst := ({ f := m.d.toNat } : Vop).reg c.wb 0 0
        st.startUnit c len dst 4 lanes (.texq sub d (c.coords m lanes)))
def execTexq (m : MWord) : State → Out := texqOp m (xaDefault 3) 4
/-- `texq` with an XA word (R501). -/
def execTexqExt (m : MWord) (x : XaWord) : State → Out := texqOp m x 8

end Sys2Proof.Machine
end

