-- ==== Sys2Proof/Machine/Rays.lean ====
section
/-! DEFINITION. Ray traversal and traversal logs (15 R336-R352; 21 R476). -/

namespace Sys2Proof.Machine

/-! ### Working precision (R342) -/

def rayFmt (f64 : Bool) : Fmt := if f64 then fmtF64 else fmtF32
/-- A pattern of one precision in the other. -/
def toPrec (src dst : Bool) (x : Nat) : Nat := if src = dst then x else ((rayFmt dst).round rmRne false ((rayFmt src).value x)).bits
def rAdd (f64 : Bool) (a b : Nat) : Nat := ((rayFmt f64).fadd rmRne false a b).bits
def rSub (f64 : Bool) (a b : Nat) : Nat := ((rayFmt f64).fsub rmRne false a b).bits
def rMul (f64 : Bool) (a b : Nat) : Nat := ((rayFmt f64).fmul rmRne false a b).bits
def rDiv (f64 : Bool) (a b : Nat) : Nat := ((rayFmt f64).fdiv rmRne false a b).bits
/-- a − b · c, rounded once. -/
def rFnma (f64 : Bool) (a b c : Nat) : Nat :=
  let f := rayFmt f64
  (f.round rmRne false (FVal.add rmRne (f.value a) (FVal.mul (f.value b) (f.value c)).neg)).bits
def rLt (f64 : Bool) (a b : Nat) : Bool := ((rayFmt f64).fcmp false 2 a b).1
def rLe (f64 : Bool) (a b : Nat) : Bool := ((rayFmt f64).fcmp false 3 a b).1
def rMin (f64 : Bool) (a b : Nat) : Nat := ((rayFmt f64).minMax false false a b).bits
def rMax (f64 : Bool) (a b : Nat) : Nat := ((rayFmt f64).minMax false true a b).bits
def rInf (f64 : Bool) : Nat := (rayFmt f64).infBits
/-- Sign of a non-NaN pattern: −1, 0 or 1. -/
def rSign (f64 : Bool) (x : Nat) : Int :=
  match (rayFmt f64).value x with
  | .fin neg m _ => if m = 0 then 0 else if neg then -1 else 1
  | .inf neg => if neg then -1 else 1
  | .nan => 0

/-- A ray in working precision: origin, tmin, direction, tmax. -/
structure Ray where
  o : List Nat
  d : List Nat
  tmin : Nat
  deriving DecidableEq, Repr

def RayState.rayOf (r : RayState) : Ray :=
  let x := r.ray.map (fun v => v.toNat)
  { o := x.take 3, d := (x.drop 4).take 3, tmin := x.getD 3 0 }

/-- Ray registers as patterns in the order of R339, tmax last. -/
def rayWords (f64 : Bool) (regs : List Nat) : List W64 :=
  (List.range 8).map (fun i =>
    if f64 then BitVec.ofNat 64 (regs.getD (2 * i) 0 + 2 ^ 32 * regs.getD (2 * i + 1) 0) else BitVec.ofNat 64 (regs.getD i 0))
def rayFlags (f64 : Bool) (regs : List Nat) : W32 := BitVec.ofNat 32 (regs.getD (if f64 then 16 else 8) 0)

def flagFirst (w : W32) : Bool := w.getLsbD 0
def flagCullBack (w : W32) : Bool := w.getLsbD 1
def flagCullFront (w : W32) : Bool := w.getLsbD 2
def flagNoUser (w : W32) : Bool := w.getLsbD 3
def flagMask (w : W32) : Nat := w.toNat / 256 % 256

/-- A ray that ends at once as a miss (R339). -/
def badRay (f64 : Bool) (ws : List W64) : Bool :=
  let f := rayFmt f64
  let x := fun (i : Nat) => (ws.getD i 0).toNat
  let finite := fun (i : Nat) => match f.value (x i) with | .fin _ _ _ => true | _ => false
  [0, 1, 2, 4, 5, 6].any (fun i => !finite i) || (f.value (x 3)).isNan || (f.value (x 7)).isNan || rLt f64 (x 7) (x 3)
  || [4, 5, 6].all (fun i => (f.value (x i)).isZero)

/-! ### Boxes (R337, R343) -/

/-- The exact bound ORIGIN + q · 2^EXP, rounded outward to f32. -/
def boxBound (rm origin : Nat) (exp : Int) (q : Nat) : Nat :=
  (fmtF32.round rm false (FVal.add rm (fmtF32.value origin) (.fin false q exp))).bits

/-- (b − o) ÷ d, rounded once. -/
def slabBound (f64 : Bool) (rm b o d : Nat) : Nat :=
  let f := rayFmt f64
  match FVal.add rmRne (f.value b) (f.value o).neg, f.value d with
  | .fin a m e, .fin c n g =>
    if m = 0 then f.signBits (a != c)
    else
      let k := Nat.log2 n + f.fb + 4
      (f.roundMag rm false (a != c) (m * 2 ^ k / n) (e - g - k) (m * 2 ^ k % n != 0)).bits
  | .inf a, .fin c _ _ => f.signBits (a != c) + f.infBits
  | .fin a _ _, .inf c => f.signBits (a != c)
  | _, _ => f.nanBits

/-- The slab test of one axis: none when it fails, else its near and far bounds, if it sets any. A NaN d is not ±0: its
bounds are NaN, which max and min pass over (notes/assumptions/46.md). -/
def axisSlab (f64 : Bool) (lo hi o d : Nat) : Option (Option (Nat × Nat)) :=
  if ((rayFmt f64).value d).isZero then (if rLe f64 lo o && rLe f64 o hi then some none else none)
  else
    let nf := if rSign f64 d < 0 then (hi, lo) else (lo, hi)
    some (some (slabBound f64 rmRdn nf.1 o d, slabBound f64 rmRup nf.2 o d))

/-- The slab test: the entry time of a box that is hit. -/
def slabTest (f64 : Bool) (r : Ray) (best : Nat) (box : List (Nat × Nat)) : Option Nat :=
  let ax := (List.range 3).map (fun k =>
    let b := box.getD k (0, 0)
    axisSlab f64 (toPrec false f64 b.1) (toPrec false f64 b.2) (r.o.getD k 0) (r.d.getD k 0))
  if ax.any (fun a => a.isNone) then none
  else
    let bs := ax.filterMap (fun a => a.bind id)
    let near := (bs.map Prod.fst).foldl (rMax f64) r.tmin
    let far := (bs.map Prod.snd).foldl (rMin f64) best
    if rLe f64 near far then some near else none

/-! ### Triangles (R344) -/

/-- One evaluation of steps 2 to 4 in a precision: transformed vertices x', y', z' and U, V, W. -/
structure TriEval where
  v : List (Nat × Nat × Nat)
  u : List Nat
  deriving DecidableEq, Repr

/-- The axes kx, ky, kz. -/
def rayAxes (f64 : Bool) (d : List Nat) : Nat × Nat × Nat :=
  let f := rayFmt f64
  let mag := fun (i : Nat) => d.getD i 0 % 2 ^ (f.eb + f.fb)
  let kz := if mag 1 ≤ mag 0 ∧ mag 2 ≤ mag 0 then 0 else if mag 2 ≤ mag 1 then 1 else 2
  let kx := (kz + 1) % 3
  let ky := (kz + 2) % 3
  if rSign f64 (d.getD kz 0) < 0 then (ky, kx, kz) else (kx, ky, kz)

/-- The edge function of P to Q. -/
def edgeFn (f64 : Bool) (p q : Nat × Nat × Nat) : Nat := rSub f64 (rMul f64 p.1 q.2.1) (rMul f64 p.2.1 q.1)

/-- Pairs of vertices of U, V and W. -/
def edgePairs : List (Nat × Nat) := [(1, 2), (2, 0), (0, 1)]

def triEval (f64 : Bool) (k : Nat × Nat × Nat) (o d : List Nat) (vs : List (List Nat)) : TriEval :=
  let dz := d.getD k.2.2 0
  let sx := rDiv f64 (d.getD k.1 0) dz
  let sy := rDiv f64 (d.getD k.2.1 0) dz
  let sz := rDiv f64 ((rayFmt f64).ofInt rmRne false 1).bits dz
  let v := vs.map (fun p =>
    let q := fun (i : Nat) => rSub f64 (toPrec false f64 (p.getD i 0)) (o.getD i 0)
    (rFnma f64 (q k.1) sx (q k.2.2), rFnma f64 (q k.2.1) sy (q k.2.2), rMul f64 sz (q k.2.2)))
  { v := v, u := edgePairs.map (fun e => edgeFn f64 (v.getD e.1 (0, 0, 0)) (v.getD e.2 (0, 0, 0))) }

/-- The sign of an edge function, by edge ownership when it is zero (step 6); a NaN has none. -/
def ownedSign (t : TriEval) (f64 : Bool) (i : Nat) : Int :=
  if !((rayFmt f64).value (t.u.getD i 0)).isZero then rSign f64 (t.u.getD i 0)
  else
    let e := edgePairs.getD i (0, 0)
    let p := t.v.getD e.1 (0, 0, 0)
    let q := t.v.getD e.2 (0, 0, 0)
    let y := ((FVal.cmp ((rayFmt f64).value p.2.1) ((rayFmt f64).value q.2.1))).getD 0
    if y ≠ 0 then y else ((FVal.cmp ((rayFmt f64).value q.1) ((rayFmt f64).value p.1))).getD 0

/-- A hit of a triangle: front face, t in working precision, b1 and b2. -/
structure TriHit where
  front : Bool
  t : Nat
  b1 : Nat
  b2 : Nat
  deriving DecidableEq, Repr

/-- The triangle test. -/
def triTest (f64 : Bool) (r : Ray) (vs : List (List Nat)) : Option TriHit :=
  let k := rayAxes f64 r.d
  let w := triEval f64 k r.o r.d vs
  let again := w.u.any (fun x => ((rayFmt f64).value x).isZero)
  let p := f64 || again
  let t := if again then triEval true k (r.o.map (toPrec f64 true)) (r.d.map (toPrec f64 true)) vs else w
  let signs := (List.range 3).map (ownedSign t p)
  if signs.all (fun s => decide (s < 0)) ∨ signs.all (fun s => decide (0 < s)) then
    let u := fun (i : Nat) => t.u.getD i 0
    let z := fun (i : Nat) => (t.v.getD i (0, 0, 0)).2.2
    let det := rAdd p (rAdd p (u 0) (u 1)) (u 2)
    let tt := rAdd p (rAdd p (rMul p (u 0) (z 0)) (rMul p (u 1) (z 1))) (rMul p (u 2) (z 2))
    some { front := decide (signs.headD 0 < 0), t := toPrec p f64 (rDiv p tt det), b1 := toPrec p false (rDiv p (u 1) det)
           b2 := toPrec p false (rDiv p (u 2) det) }
  else none

/-! ### Instances (R346) -/

/-- A row of the matrix applied to a vector: fused multiply-adds in increasing column order. -/
def rowDot (f64 : Bool) (row : List Nat) (v : List Nat) : Nat :=
  let f := rayFmt f64
  ((row.zip v).drop 1).foldl (fun acc e => (f.ffma rmRne false e.1 e.2 acc).bits)
    (match (row.zip v).head? with | some e => (f.fmul rmRne false e.1 e.2).bits | none => 0)

/-- The ray in an object instance. -/
def Ray.inInstance (r : Ray) (f64 : Bool) (i : RayInst) : Ray :=
  let p := f64 || i.f64
  let m := i.matrix.map (fun w => toPrec i.f64 p w.toNat)
  let one := ((rayFmt p).ofInt rmRne false 1).bits
  let o := r.o.map (toPrec f64 p)
  let d := r.d.map (toPrec f64 p)
  let rows := (List.range 3).map (fun k => (m.drop (4 * k)).take 4)
  { r with o := rows.map (fun w => toPrec p f64 (rowDot p w (o ++ [one]))), d := rows.map (fun w => toPrec p f64 (rowDot p w (d ++ [0]))) }

/-! ### Results and records (R339, R345, R348, R349) -/

/-- A hit's time in a result: an f32, or a binary64 pair. -/
def timeWords (f64 : Bool) (t : Nat) : List W32 := if f64 then [BitVec.ofNat 32 t, BitVec.ofNat 32 (t / 2 ^ 32)] else [BitVec.ofNat 32 t, 0]

/-- The eight result registers of a hit under a KIND. -/
def hitWords (f64 : Bool) (kind : Nat) (h : RayHit) : List W32 :=
  [BitVec.ofNat 32 kind, h.prim, h.inst, if h.front then 1 else 0] ++ timeWords f64 h.t.toNat ++ [h.b1, h.b2]
/-- A miss, or the KIND given with miss values. -/
def missHit (f64 : Bool) (kind : Nat) : RayHit :=
  { kind := kind, prim := 0, inst := 0, front := false, t := BitVec.ofNat 64 (rInf f64), b1 := 0, b2 := 0 }
def RayHit.words (h : RayHit) (f64 : Bool) : List W32 := hitWords f64 h.kind h

/-- A log descriptor (R348). -/
structure LogDesc where
  base : Nat
  cap : Nat
  lane0 : Nat
  counts : Nat
  deriving DecidableEq, Repr
def logDesc? (addr : Nat) (b : List Byte) : Option LogDesc :=
  let f := fieldAt b
  if addr % 32 ≠ 0 ∨ f 0 8 % 16 ≠ 0 ∨ f 8 4 = 0 ∨ 2 ^ 24 < f 8 4 ∨ f 16 8 % 4 ≠ 0 ∨ f 24 8 ≠ 0 then none
  else some { base := f 0 8, cap := f 8 4, lane0 := f 12 4, counts := f 16 8 }
def LogDesc.recordVa (d : LogDesc) (lane k : Nat) : Nat := (d.base + 16 * ((d.lane0 + lane) * d.cap + k)) % 2 ^ 64
def LogDesc.countVa (d : LogDesc) (lane : Nat) : Nat := (d.counts + 4 * (d.lane0 + lane)) % 2 ^ 64

/-- A record's bytes. -/
def recordBytes (type : Nat) (inst prim : W32) (t : Nat) : List Byte :=
  bytesOfNat 1 type ++ bytesOfNat 3 inst.toNat ++ bytesOfNat 4 prim.toNat ++ bytesOfNat 8 t

/-- A traversal at work: its state, the log, records to write, latency so far. -/
structure Walker where
  st : RayState
  log : Option LogDesc
  recs : List (Nat × List Byte)
  cost : Nat
  /-- an append of this evaluation was refused: it would have made record CAP (R349) -/
  full : Bool
  deriving DecidableEq, Repr

/-- The traversal ends with a result. -/
def Walker.finish (w : Walker) (h : RayHit) : Walker := { w with st := { w.st with ended := some h, stack := [], cand := none, decision := none } }
/-- It ends with a KIND, and the closest hit so far (R339). -/
def Walker.stopWith (w : Walker) (kind : Nat) : Walker :=
  w.finish (match w.st.hit with | some h => { h with kind := kind } | none => missHit w.st.f64 kind)

/-- Appends a record; one that would pass CAP ends the traversal (R349). -/
def Walker.append (w : Walker) (type : Nat) (inst prim : W32) (t : Nat) : Walker :=
  match w.log with
  | none => w
  | some d =>
    if d.cap ≤ w.st.nrec then { w.stopWith 3 with full := true }
    else { w with st := { w.st with nrec := w.st.nrec + 1 }, recs := w.recs ++ [(w.st.nrec, recordBytes type inst prim t)] }

/-- A hit of time t is accepted (R345). -/
def RayState.accepts (r : RayState) (t : Nat) : Bool :=
  rLe r.f64 (r.ray.getD 3 0).toNat t && (rLt r.f64 t r.best.toNat || (r.hit.isNone && rLe r.f64 t r.best.toNat))

def instWord (i : Option RayInst) : W32 := match i with | some i => i.index | none => 0xFFFFFFFF

/-- Takes an accepted hit. -/
def Walker.accept (w : Walker) (h : RayHit) (type : Nat) : Walker :=
  ({ w with st := { w.st with best := h.t, hit := some h } }).append type h.inst h.prim h.t.toNat

/-! ### Structures in memory (R336, R338) -/

def zeroBytes (b : List Byte) (lo hi : Nat) : Bool := ((b.drop lo).take (hi - lo)).all (fun x => x == 0)

/-- ROOT, F64 and TOP of a header. -/
def header? (addr : Nat) (b : List Byte) : Option (Nat × Bool × Bool) :=
  let fl := fieldAt b 8 1
  if addr % 64 ≠ 0 ∨ 4 ≤ fl ∨ !zeroBytes b 9 64 ∨ fieldAt b 0 8 % 128 ≠ 0 then none else some (fieldAt b 0 8, fl % 2 == 1, fl / 2 == 1)

/-- A child of a node: KIND, COUNT, address and decoded box. -/
structure Child where
  kind : Nat
  count : Nat
  addr : Nat
  box : List (Nat × Nat)
  empty : Bool
  deriving DecidableEq, Repr

def signed8 (n : Nat) : Int := if n < 128 then n else (n : Int) - 256

def childOf (b : List Byte) (i : Nat) : Child :=
  let f := fieldAt b
  let q := fun (j : Nat) => f (56 + 6 * i + j) 1
  let axis := fun (a : Nat) =>
    (boxBound rmRdn (f (4 * a) 4) (signed8 (f (12 + a) 1)) (q a), boxBound rmRup (f (4 * a) 4) (signed8 (f (12 + a) 1)) (q (3 + a)))
  { kind := f (16 + i) 1, count := f (24 + i) 1, addr := (f 32 8 + 128 * f (40 + 2 * i) 2) % 2 ^ 64, box := (List.range 3).map axis
    empty := (List.range 3).any (fun a => decide (q (3 + a) < q a)) }

/-- The children of a node; none when it is malformed. Instances need TOP. -/
def node? (top : Bool) (b : List Byte) : Option (List Child) :=
  let cs := (List.range 8).map (childOf b)
  let bad := fun (c : Child) =>
    decide (4 < c.kind) || (c.kind == 4 && !top)
    || (if c.kind = 2 ∨ c.kind = 3 then c.count == 0 || decide (16 < c.count) else c.count != 0)
    || (c.kind != 0 && c.addr % 128 != 0)
  if !zeroBytes b 15 16 ∨ !zeroBytes b 104 128 ∨ cs.any bad then none else some cs

/-- Triangles of a block: vertices and PRIM. -/
def triBlock? (b : List Byte) : Option (List (List (List Nat) × W32)) :=
  let f := fieldAt b
  let n := f 120 1
  if n = 0 ∨ 3 < n ∨ !zeroBytes b 121 128 then none
  else some ((List.range n).map (fun i =>
    ((List.range 3).map (fun v => (List.range 3).map (fun a => f (36 * i + 12 * v + 4 * a) 4)), BitVec.ofNat 32 (f (108 + 4 * i) 4))))

/-- References of a block: PRIM and USER word. -/
def userBlock? (b : List Byte) : Option (List (W32 × W64)) :=
  let f := fieldAt b
  let n := f 96 1
  if n = 0 ∨ 8 < n ∨ !zeroBytes b 97 128 then none
  else some ((List.range n).map (fun i => (BitVec.ofNat 32 (f (12 * i) 4), BitVec.ofNat 64 (f (12 * i + 4) 8))))

/-- An instance: matrix, bottom header, index, MASK. -/
def instRecord? (f64 : Bool) (b : List Byte) : Option (RayInst × Nat × Nat) :=
  let f := fieldAt b
  let n := if f64 then 8 else 4
  if !zeroBytes b 108 128 ∨ (!f64 ∧ !zeroBytes b 48 96) then none
  else
    some ({ index := BitVec.ofNat 32 (f 104 3), matrix := (List.range 12).map (fun i => BitVec.ofNat 64 (f (n * i) n)), f64 := f64 }
      , f 96 8, f 107 1)

/-! ### The loop (R342) -/

/-- What one step of a traversal comes to. -/
inductive Strode where
  | on (w : Walker)
  | stop (x : Seen)
  deriving DecidableEq, Repr

/-- A read of a structure, with its latency added. -/
def State.rayRead (s : State) (o : MemOp) (w : Walker) (va n : Nat) : State × Walker × Seen :=
  match s.unitBytes o 0 va n with
  | (s, c, x) => (s, { w with cost := w.cost + c }, x)

/-- Pushes an entry; a full stack is malformed (R338). -/
def Walker.push (w : Walker) (e : RayEntry) : Walker :=
  if w.st.ended.isSome then w
  else if 64 ≤ w.st.stack.length then w.stopWith 4 else { w with st := { w.st with stack := e :: w.st.stack } }

/-- The instance transforms of a traversal are binary64: kept with the top header (R336). -/
def topF64 (w : Walker) : Bool := w.st.instF64

/-- A node: the children that are hit, pushed so that pops follow increasing (tc, c). -/
def State.rayNode (s : State) (o : MemOp) (w : Walker) (e : RayEntry) (r : Ray) : State × Strode :=
  match s.rayRead o w e.addr 128 with
  | (s, w, .data b) =>
    match node? (w.st.top && e.inst.isNone) b with
    | none => (s, .on (w.stopWith 4))
    | some cs =>
      let f64 := w.st.f64
      let hits := cs.filterMap (fun c =>
        if c.kind = 0 ∨ c.empty then none else (slabTest f64 r w.st.best.toNat c.box).map (fun t => (t, c)))
      let ordered := sortBy (fun (a b : Nat × Child) => rLe f64 a.1 b.1) hits
      (s, .on (ordered.reverse.foldl (fun w h =>
        w.push { kind := h.2.kind, addr := h.2.addr, count := h.2.count, idx := 0, inst := e.inst, tn := BitVec.ofNat 64 h.1, taken := false }) w))
  | (s, _, x) => (s, .stop x)

/-- The triangles of a block in order; `hit` says whether one was accepted. -/
def Walker.triangles (w : Walker) (r : Ray) (inst : Option RayInst) : List (List (List Nat) × W32) → Bool → Walker × Bool
  | [], hit => (w, hit)
  | (vs, prim) :: rest, hit =>
    if w.st.ended.isSome then (w, hit)
    else
      match triTest w.st.f64 r vs with
      | none => w.triangles r inst rest hit
      | some h =>
        if (h.front && flagCullFront w.st.flags) || (!h.front && flagCullBack w.st.flags) || !w.st.accepts h.t then w.triangles r inst rest hit
        else
          (w.accept { kind := 0, prim := prim, inst := instWord inst, front := h.front, t := BitVec.ofNat 64 h.t, b1 := BitVec.ofNat 32 h.b1
                      b2 := BitVec.ofNat 32 h.b2 } 1).triangles r inst rest true

/-- The blocks of a triangle leaf. -/
def State.rayTris (s : State) (o : MemOp) (w : Walker) (e : RayEntry) (r : Ray) : Nat → Bool → State × Strode × Bool
  | 0, hit => (s, .on w, hit)
  | n + 1, hit =>
    match s.rayRead o w (e.addr + 128 * (e.count - (n + 1))) 128 with
    | (s, w, .data b) =>
      match triBlock? b with
      | none => (s, .on (w.stopWith 4), hit)
      | some ts =>
        let x := w.triangles r e.inst ts hit
        if x.1.st.ended.isSome then (s, .on x.1, x.2) else s.rayTris o x.1 e r n x.2
    | (s, _, x) => (s, .stop x, hit)

/-- A user leaf at reference `idx` (eight for each block): the next candidate, or nothing more. -/
def State.rayUser (s : State) (o : MemOp) (w : Walker) (e : RayEntry) : Nat → Nat → State × Strode
  | 0, _ => (s, .on w)
  | fuel + 1, idx =>
    if e.count ≤ idx / 8 then
      -- the leaf is done: FIRST ends the traversal when a hit was accepted in it
      (s, .on (if flagFirst w.st.flags && e.taken then (match w.st.hit with | some h => w.finish h | none => w) else w))
    else
      match s.rayRead o w (e.addr + 128 * (idx / 8)) 128 with
      | (s, w, .data b) =>
        match userBlock? b with
        | none => (s, .on (w.stopWith 4))
        | some rs =>
          match rs[idx % 8]? with
          | none => s.rayUser o w e fuel ((idx / 8 + 1) * 8)
          | some (prim, user) =>
            let low := BitVec.ofNat 64 ((rayFmt w.st.f64).signBits true + rInf w.st.f64)
            let back := { e with idx := idx + 1, tn := low }
            let w := w.push back
            if w.st.ended.isSome then (s, .on w)
            else
              let h : RayHit :=
                { kind := 1, prim := prim, inst := instWord e.inst, front := false, t := w.st.best, b1 := user.extractLsb' 0 32
                  b2 := user.extractLsb' 32 32 }
              (s, .on { w with st := { w.st with cand := some h } })
      | (s, _, x) => (s, .stop x)

/-- An instance: the bottom root is pushed when the masks meet. -/
def State.rayInstance (s : State) (o : MemOp) (w : Walker) (e : RayEntry) : State × Strode :=
  match s.rayRead o w e.addr 128 with
  | (s, w, .data b) =>
    match instRecord? (topF64 w) b with
    | none => (s, .on (w.stopWith 4))
    | some (i, hdr, mask) =>
      if mask &&& flagMask w.st.flags = 0 then (s, .on w)
      else
        match s.rayRead o w hdr 64 with
        | (s, w, .data hb) =>
          match header? hdr hb with
          | some (root, _, false) => (s, .on (w.push { kind := 1, addr := root, count := 0, idx := 0, inst := some i, tn := e.tn, taken := false }))
          | _ => (s, .on (w.stopWith 4))
        | (s, _, x) => (s, .stop x)
  | (s, _, x) => (s, .stop x)

/-- One pop of the loop. -/
def State.rayStep (s : State) (o : MemOp) (w : Walker) : State × Strode :=
  match w.st.stack with
  | [] => (s, .on (match w.st.hit with | some h => w.finish h | none => w.finish (missHit w.st.f64 2)))
  | e :: rest =>
    let w := { w with st := { w.st with stack := rest } }
    if rLt w.st.f64 w.st.best.toNat e.tn.toNat then (s, .on w)
    else
      let r := match e.inst with | some i => w.st.rayOf.inInstance w.st.f64 i | none => w.st.rayOf
      match e.kind with
      | 1 => s.rayNode o w e r
      | 2 =>
        match s.rayTris o w e r e.count false with
        | (s, .on w, hit) =>
          (s, .on (if flagFirst w.st.flags ∧ hit ∧ w.st.ended.isNone then (match w.st.hit with | some h => w.finish h | none => w) else w))
        | (s, x, _) => (s, x)
      | 3 => if flagNoUser w.st.flags then (s, .on w) else s.rayUser o w e 32 e.idx
      | _ => s.rayInstance o w e

/-- Runs until the lane has a result, or the steps run out. -/
def State.rayRun (s : State) (o : MemOp) (w : Walker) : Nat → State × Strode
  | 0 => (s, .on w)
  | fuel + 1 =>
    if w.st.ended.isSome ∨ w.st.cand.isSome then (s, .on w)
    else
      match s.rayStep o w with
      | (s, .on w) => s.rayRun o w fuel
      | x => x

/-! ### `.begin` and `.cont` (R341) -/

/-- The state of a new traversal. -/
def freshRay (f64 : Bool) (ws : List W64) (flags : W32) : RayState :=
  { f64 := f64, ray := ws, flags := flags, top := false, instF64 := false, logDesc := 0, stack := [], best := ws.getD 7 0, hit := none, nrec := 0
    cand := none, decision := none, ended := none }

/-- Marks the leaf on top of the stack as one in which a hit was accepted. -/
def markTaken (r : RayState) : RayState :=
  match r.stack with
  | e :: rest => { r with stack := { e with taken := true } :: rest }
  | [] => r

/-- Applies a decision on a pending candidate (R345, R349). -/
def Walker.decide (w : Walker) (decision : Option (Bool × W64)) : Walker :=
  match w.st.cand, decision with
  | some c, some (acc, t) =>
    let w := { w with st := { w.st with cand := none, decision := none } }
    if !acc then w.append 3 c.inst c.prim w.st.best.toNat
    else if w.st.accepts t.toNat then
      let h := { c with kind := 5, front := false, t := t, b1 := 0, b2 := 0 }
      ({ w with st := markTaken w.st }).accept h 2
    else w.append 4 c.inst c.prim t.toNat
  | _, _ => w

/-- The walker of a lane at the start of an evaluation: the header is read by a new traversal, and a `.cont` applies the decision
that stood at its issue. -/
def State.rayStart (s : State) (o : MemOp) (f64 cont begun : Bool) (hdr : Nat) (regs : List Nat) (old : Option RayState)
    (decision : Option (Bool × W64)) (log : Option LogDesc) (cost : Nat) : State × Strode :=
  let goOn := fun (r : RayState) => ({ st := r, log := log, recs := [], cost := cost, full := false } : Walker)
  if cont ∨ begun then
    match old with
    | some r => (s, .on (if begun then goOn r else (goOn r).decide decision))
    | none => (s, .on ((goOn (freshRay f64 (rayWords f64 regs) 0)).finish (missHit f64 2)))
  else
    let ws := rayWords f64 regs
    let w := goOn (freshRay f64 ws (rayFlags f64 regs))
    if badRay f64 ws then (s, .on (w.finish (missHit f64 2)))
    else
      match s.rayRead o w hdr 64 with
      | (s, w, .data b) =>
        match header? hdr b with
        | none => (s, .on (w.stopWith 4))
        | some (root, hf64, top) =>
          let st := { w.st with top := top, instF64 := hf64 }
          (s, .on (({ w with st := st }).push
            { kind := 1, addr := root, count := 0, idx := 0, inst := none, tn := ws.getD 3 0, taken := false }))
      | (s, _, x) => (s, .stop x)

/-- Writes of a lane's log: its new records and its count (R349). -/
def Walker.logWrites (w : Walker) (lane : Nat) : List (Nat × List Byte) :=
  match w.log with
  | none => []
  | some d => w.recs.map (fun e => (d.recordVa lane e.1, e.2)) ++ [(d.countVa lane, bytesOfNat 4 w.st.nrec)]

def setRay (w : Wave) (lane : Nat) (r : RayState) : Wave := { w with rays := putT w.rays lane r }

/-- Ends an evaluation: the log's writes are sent behind its reads, the lane's state is kept, and its result stands, unless it goes
on. -/
def State.rayEnd (s : State) (o : MemOp) (lane : Nat) (w : Walker) : State × LaneRes :=
  match s.unitWrites o w.cost (w.logWrites lane) with
  | (s, .data _) =>
    let s := s.updWave o.key (fun v => if v.admission = o.admission then setRay v lane w.st else v)
    let s := if w.full then s.orOpStatus o.id 8 else s
    match w.st.ended, w.st.cand with
    | some h, _ => (s, .done (h.words w.st.f64) w.cost)
    | none, some c => (s, .done (c.words w.st.f64) w.cost)
    | none, none => (s, .more w.cost)
  | (s, x) => (s, .stop x)

/-- Steps that one evaluation makes at most; the unit then goes on in the next cycle. -/
def raySteps : Nat := 256

/-- The log descriptor of a `rtrav`: none when logging is off; an error when it is malformed. -/
def State.rayLog (s : State) (o : MemOp) (log : Nat) : State × Nat × Except Seen (Option (Option LogDesc)) :=
  if log = 0 then (s, 0, .ok (some none))
  else match s.unitBytes o 0 log 32 with
    | (s, c, .data b) => (s, c, .ok ((logDesc? log b).map some))
    | (s, c, x) => (s, c, .error x)

/-- A lane of `rtrav`. The count of every lane performs, that of a helper lane and of one whose traversal had ended among them
(R349); a malformed log descriptor leaves a helper's miss and an ended traversal's result as they are (notes/assumptions/46.md). -/
def State.travLane (s : State) (o : MemOp) (f64 cont begun : Bool) (hdr log : Nat) (regs : List Nat) (helper : Bool)
    (decision : Option (Bool × W64)) (lane : Nat) : State × LaneRes :=
  let old := (s.opWave o).bind (fun w => lookT w.rays lane)
  let fresh := freshRay f64 (rayWords f64 regs) (rayFlags f64 regs)
  let idle : Walker := { st := if cont then old.getD fresh else fresh, log := none, recs := [], cost := 20, full := false }
  -- `.begin` discards the previous state, whatever becomes of its reads
  let s := if cont || begun then s else s.updWave o.key (fun v => if v.admission = o.admission then setRay v lane fresh else v)
  match s.rayLog o log with
  | (s, _, .error x) => (s, .stop x)
  | (s, c, .ok l) =>
    let idle := { idle with log := l.getD none, cost := 20 + c }
    if helper then s.rayEnd o lane (idle.finish (missHit idle.st.f64 2))
    else if cont && idle.st.ended.isSome then s.rayEnd o lane idle
    else
      match l with
      | none => s.rayEnd o lane (idle.stopWith 4)
      | some l =>
        match s.rayStart o f64 cont begun hdr regs old decision l (20 + c) with
        | (s, .stop x) => (s, .stop x)
        | (s, .on w) =>
          match s.rayRun o w raySteps with
          | (s, .stop x) => (s, .stop x)
          | (s, .on w) => s.rayEnd o lane w

/-- A lane of `rtrep` (R350). -/
def State.repLane (s : State) (o : MemOp) (log idx lane : Nat) : State × LaneRes :=
  match s.unitBytes o 2 log 32 with
  | (s, c, .data b) =>
    match logDesc? log b with
    | none => (s, .done zeros4 c)
    | some d =>
      match s.unitBytes o 2 (d.countVa lane) 4 with
      | (s, c', .data nb) =>
        if natOfBytes nb ≤ idx then (s, .done zeros4 (c + c'))
        else
          match s.unitBytes o 2 (d.recordVa lane idx) 16 with
          | (s, c'', .data r) => (s, .done ((List.range 4).map (fun i => BitVec.ofNat 32 (fieldAt r (4 * i) 4))) (c + max c' c''))
          | (s, _, x) => (s, .stop x)
      | (s, _, x) => (s, .stop x)
  | (s, _, x) => (s, .stop x)

/-! ### Instructions (R340, R341, R350) -/

/-- The candidate of a lane is taken: a `.begin` in flight discards it, or a `.cont` in flight has its decision. A decision recorded
now would not be one on it (notes/assumptions/46.md). -/
def State.rayTaken (s : State) (c : Ctx) (lane : Nat) : Bool :=
  s.ops.any (fun o =>
    o.key == c.ref.key && o.admission == c.wave.admission && o.accs.any (fun a => a.lane == lane && a.isOpen)
    && (match o.kind with
      | .unit _ _ _ (.trav _ cont _ _ _ _ decided) => !cont || (lookT decided lane).isSome
      | _ => false))

/-- The decision that a `.cont` issued now takes with it in a lane. -/
def State.rayDecision (s : State) (c : Ctx) (lane : Nat) : Option (Bool × W64) :=
  (lookT c.wave.rays lane).bind (fun r => if r.cand.isSome && !s.rayTaken c lane then r.decision else none)

/-- `rtrav` (R341, R476). -/
def travOp (m : MWord) (x : XaWord) (len : Nat) : State → Out :=
  let f64 := x.ty == 6
  let a : Vop := { f := m.a.toNat, unit := if f64 then 17 else 9, al := if f64 then 2 else 1 }
  let d : Vop := { f := m.d.toNat, unit := 8, al := 2 }
  issue { s := m.s, len := len, cls := some .ld, mem := true, regs := fun _ _ => [d, a] } (fun c st =>
    let lanes := lanesOf (c.xaActive x)
    let rays := lanes.map (fun l => (l, (c.words l a).map (fun w => w.toNat)))
    let decided := lanes.filterMap (fun l => (st.rayDecision c l).map (fun e => (l, e)))
    st.startUnit c len (d.reg c.wb 0 0) 8 lanes
      (.trav f64 (x.sub == 1) (c.sreg m.bu.toNat).toNat (c.sreg (m.bu.toNat + 1)).toNat rays c.wave.helper decided))
def execRtrav (m : MWord) : State → Out := travOp m (xaDefault 3) 4
/-- `rtrav` with an XA word (R341). -/
def execRtravExt (m : MWord) (x : XaWord) : State → Out := travOp m x 8

/-- A decision is recorded in a lane that holds a pending candidate. -/
def RayState.decideWith (r : RayState) (accept : Bool) (t : W64) : RayState := if r.cand.isSome then { r with decision := some (accept, t) } else r

/-- `rtcom` (R341): t is read as TY, and taken in the traversal's precision. -/
def comOp (r : RWord) (x : XaWord) (len : Nat) : State → Out :=
  let f64 := x.ty == 6
  let a : Vop := { f := r.a.toNat, unit := if f64 then 2 else 1, al := if f64 then 2 else 1 }
  issue { s := r.s, len := len, regs := fun _ _ => [a] } (fun c st =>
    (st.updWave c.ref.key (fun w => { w with rays := w.rays.map (fun (e : Nat × RayState) =>
      if (c.xaActive x).getLsbD e.1 && !st.rayTaken c e.1 then
        (e.1, e.2.decideWith (r.b == 1) (BitVec.ofNat 64 (toPrec f64 e.2.f64 (c.vec e.1 a 0 0))))
      else e) })).done c len)
def execRtcom (r : RWord) : State → Out := comOp r (xaDefault 3) 4
/-- `rtcom` with an XA word (R341). -/
def execRtcomExt (r : RWord) (x : XaWord) : State → Out := comOp r x 8

/-- `rtrep` (R350). -/
def repOp (m : MWord) (x : XaWord) (len : Nat) : State → Out :=
  let d : Vop := { f := m.d.toNat, unit := 4, al := 4 }
  let a : Vop := { f := m.a.toNat }
  issue { s := m.s, len := len, cls := some .ld, mem := true, regs := fun _ _ => [d, a] } (fun c st =>
    let lanes := lanesOf (c.xaActive x)
    st.startUnit c len (d.reg c.wb 0 0) 4 lanes (.replog (c.sreg m.bu.toNat).toNat (lanes.map (fun l => (l, c.vec l a 0 0)))))
def execRtrep (m : MWord) : State → Out := repOp m (xaDefault 0) 4
/-- `rtrep` with an XA word (R350). -/
def execRtrepExt (m : MWord) (x : XaWord) : State → Out := repOp m x 8

/-! ### Completion -/

/-- Evaluates one lane of a unit's operation. -/
def State.unitLane (s : State) (o : MemOp) (a : Access) : State × LaneRes :=
  match o.kind with
  | .unit _ _ _ (.tex gather f16 sub desc samp coords here) => s.texLane o gather f16 sub desc samp coords here a.lane
  | .unit _ _ _ (.texq sub desc coords) => s.texqLane o sub desc coords a.lane
  | .unit _ _ _ (.trav f64 cont hdr log rays helper decided) =>
    s.travLane o f64 cont (a.data2 != []) hdr log (regsOf rays a.lane) (helper.getLsbD a.lane) (lookT decided a.lane) a.lane
  | .unit _ _ _ (.replog log index) => s.repLane o log (getT 0 index a.lane) a.lane
  | _ => (s, .stop .later)

/-- Evaluates in turn the lanes that can be. -/
def State.runUnit (s : State) (id : Nat) : List Nat → State
  | [] => s
  | l :: r =>
    match s.op? id with
    | none => s
    | some o =>
      match o.accs.find? (fun a => a.lane == l && s.laneDue o a) with
      | none => s.runUnit id r
      | some a =>
        let x := s.unitLane { o with lane := l } a
        (x.1.landLane id l x.2).runUnit id r

def OpKind.isUnit : OpKind → Bool
  | .unit _ _ _ _ => true
  | _ => false

/-- LD_COMPLETION (R223). -/
def execLdCompletion (op : Nat) (s : State) : Out :=
  match s.op? op with
  | some o =>
    if o.cls = .ld then
      let s := if o.kind.isUnit then s.runUnit op (o.accs.map (fun a => a.lane)) else s
      .next (s.advanceOp op)
    else .next s
  | none => .next s

end Sys2Proof.Machine
end

