-- ==== Sys2Proof/Machine/Events.lean ====
section
/-! DEFINITION. The steps that are not fetched, as turns of a device cycle. -/

namespace Sys2Proof.Machine

/-- What a step does: the meaning of its constructor of `Instr`. -/
def Event.run : Event → State → Out
  | .queueNop q => execQueueNop q
  | .launch q => execLaunch q
  | .wait q => execWait q
  | .waitPoll q => execWaitPoll q
  | .signal q => execSignal q
  | .graphload q => execGraphload q
  | .qtailWrite q v src => execQtailWrite q v src
  | .qerrStopWrite q v src => execQerrStopWrite q v src
  | .qpassWrite q v src => execQpassWrite q v src
  | .triggerWrite t v whole src => execTriggerWrite t v whole src
  | .registerWrite off v src => execRegisterWrite off v src
  | .load => execLoad
  | .unload => execUnload
  | .attest => execAttest
  | .fwreload => execFwreload
  | .mailboxRequestEnd => execMailboxRequestEnd
  | .faultReply die v src => execFaultReply die v src
  | .haltedWrite die v src => execHaltedWrite die v src
  | .pwrcfgWrite c v src => execPwrcfgWrite c v src
  | .rampWrite c upper v src => execRampWrite c upper v src
  | .railselWrite c v src => execRailselWrite c v src
  | .domtabWrite v src => execDomtabWrite v src
  | .apertureAccess a => execApertureAccess a
  | .tenantApertureAccess t a => execTenantApertureAccess t a
  | .packageReset => execPackageReset
  | .functionLevelReset t => execFunctionLevelReset t
  | .fatalError cause pa => execFatalError cause pa
  | .stateDumpComplete => execStateDumpComplete
  | .peerLinkState k st => execPeerLinkState k st
  | .dieHalt die => execDieHalt die
  | .launchPlacement l => execLaunchPlacement l
  | .groupAdmission l core => execGroupAdmission l core
  | .taskStart l core => execTaskStart l core
  | .taskSteal l core => execTaskSteal l core
  | .forkPush p => execForkPush p
  | .taskJoinDecrement g => execTaskJoinDecrement g
  | .joinWake p => execJoinWake p
  | .launchCompletion l => execLaunchCompletion l
  | .preemptVictimChoice l => execPreemptVictimChoice l
  | .launchDue l => execLaunchDue l
  | .protectionEnd l => execProtectionEnd l
  | .forcedSave l => execForcedSave l
  | .victimRelease l => execVictimRelease l
  | .launchRestore l => execLaunchRestore l
  | .claimGrant core => execClaimGrant core
  | .claimAging core => execClaimAging core
  | .claimDeadlock g => execClaimDeadlock g
  | .confTimeout p => execConfTimeout p
  | .missSplit p => execMissSplit p
  | .fusefail p => execFusefail p
  | .barrierPhaseComplete g b => execBarrierPhaseComplete g b
  | .rbarLocalCompletion l core => execRbarLocalCompletion l core
  | .rbarReport l core => execRbarReport l core
  | .rbarGlobalCompletion l core => execRbarGlobalCompletion l core
  | .sleepWake p => execSleepWake p
  | .pwaitWake p => execPwaitWake p
  | .pageWalkComplete w => execPageWalkComplete w
  | .ldCompletion op => execLdCompletion op
  | .stCompletion op => execStCompletion op
  | .sliceRequest op => execSliceRequest op
  | .pinTimeout line => execPinTimeout line
  | .queueEnqueueRequest op => execQueueEnqueueRequest op
  | .queueDequeueRequest op => execQueueDequeueRequest op
  | .channelMessageArrival op => execChannelMessageArrival op
  | .channelCreditReturn l inst => execChannelCreditReturn l inst
  | .bankDrowsy bank => execBankDrowsy bank
  | .bankWakeComplete bank => execBankWakeComplete bank
  | .tcopyComplete op => execTcopyComplete op
  | .coopMmaRelease op => execCoopMmaRelease op
  | .mmaKstepDelivery op => execMmaKstepDelivery op
  | .mmaComplete op => execMmaComplete op
  | .mmzComplete op => execMmzComplete op
  | .slewStep c => execSlewStep c
  | .pacSustainedStrike c => execPacSustainedStrike c
  | .voltageInterval c => execVoltageInterval c
  | .gatingStart c => execGatingStart c
  | .gatingCommit c => execGatingCommit c
  | .clusterAwake c => execClusterAwake c
  | .setupBinning g => execSetupBinning g
  | .primitiveRecord r => execPrimitiveRecord r
  | .watermark m => execWatermark m
  | .watermarkSend l src => execWatermarkSend l src
  | .rasteriseRecord r => execRasteriseRecord r
  | .fragmentCommit f => execFragmentCommit f
  | .divergenceHistoryUpdate die seg kidx => execDivergenceHistoryUpdate die seg kidx
  | .allowanceUpdate c => execAllowanceUpdate c
  | .joinReread p => execJoinReread p
  | .debugInterfaceAccess write opm v => execDebugInterfaceAccess write opm v

end Sys2Proof.Machine
end

