-- ==== Sys2Proof/Machine/Convert.lean ====
section
/-! DEFINITION. The conversion group (05 R125; 07 R166-R168, R174; 19 R396, R420-R423; 21 R456; 22 R506). -/

namespace Sys2Proof.Machine

/-- Magnitudes of every source element of the active lanes, for AMAX (07 R174). -/
def amaxSources (c : Ctx) (act : Lanes) (o : XaForm) (f : Fmt) : List (Option Nat) :=
  (lanesOf act).flatMap (fun l => (o.d c).elems.map (fun p => amaxOf f (c.src f.width l (o.a c) p.1 p.2)))

/-- A conversion that writes D and FPSTAT, and folds its sources into AMAX when they are floats. -/
def convertOp (r : RWord) (o : XaForm) (srcs : Ctx → List Src) (amax : Option Fmt) (f : Ctx → Nat → Nat → Nat → FRes) :
    State → Out :=
  issue { s := r.s, len := 8, regs := fun c _ => o.d c :: (srcs c).flatMap Src.vops }
    (fun c st =>
      let act := c.xaActive o.x
      let w := elementWrites c act (o.d c) (f c)
      let st := (st.putV c w.1).updPart c.ref (fun p => p.orFp w.2)
      let st := match amax with
        | some g => st.updPart c.ref (fun p => p.amaxIn (amaxSources c act o g))
        | none => st
      st.done c 8)

/-- `cvt` (R420): TY is the destination type, SUB the source's. -/
def execCvt (r : RWord) (x : XaWord) : State → Out :=
  let o : XaForm := { r := r, x := x, dty := x.ty.toNat, sty := x.sub.toNat }
  convertOp r o (fun c => [o.a c]) (fmtOf x.sub.toNat) (fun c l i j =>
    convert x.sub.toNat x.ty.toNat (c.rm x.rm.toNat) x.sat c.ftz (c.src (tyWidth x.sub.toNat) l (o.a c) i j))

/-- Scale and zero point of a quantised conversion, from s(C) (R125, R422). -/
def quantScale (x : XaWord) (c : Ctx) : Nat × Nat :=
  let v := (c.sreg (x.c.toNat % 64)).toNat
  (v % 2 ^ 16, v / 2 ^ 16 % 256)

/-- `cvtq` (R423): codes of float sources. -/
def execCvtq (r : RWord) (x : XaWord) : State → Out :=
  let o : XaForm := { r := r, x := x, dty := 0, sty := x.ty.toNat }
  let g := fmtTy x.ty.toNat
  convertOp r o (fun c => [o.a c]) (some g) (fun c l i j =>
    let q := quantScale x c
    quantise g (x.sub.getLsbD 0) (c.rm x.rm.toNat) c.ftz q.1 q.2 (c.src g.width l (o.a c) i j))

/-- `cvtd` (R423): floats of codes. -/
def execCvtd (r : RWord) (x : XaWord) : State → Out :=
  let o : XaForm := { r := r, x := x, dty := x.ty.toNat, sty := 0 }
  let g := fmtTy x.ty.toNat
  convertOp r o (fun c => [o.a c]) none (fun c l i j =>
    let q := quantScale x c
    dequantise g (x.sub.getLsbD 0) (c.rm x.rm.toNat) c.ftz q.1 q.2 (c.src 32 l (o.a c) i j))

/-- `pack` (R456). -/
def packBits (sub a b : Nat) : Nat :=
  if sub = 0 then a % 2 ^ 16 + b % 2 ^ 16 * 2 ^ 16
  else a % 256 + b % 256 * 2 ^ 8 + a / 256 % 256 * 2 ^ 16 + b / 256 % 256 * 2 ^ 24
def execPack (r : RWord) : State → Out := bitTwo r (xaDefault 0) 4 (fun _ a b => packBits 0 a b)
def execPackExt (r : RWord) (x : XaWord) : State → Out := bitTwo r x 8 (fun _ a b => packBits x.sub.toNat a b)

/-- `unpack` (R506): SUB[1:0] the index, SUB[2] bytes, SUB[3] sign extension. -/
def unpackBits (sub : BitVec 4) (a : Nat) : Nat :=
  let n := if sub.getLsbD 2 then 8 else 16
  let v := a / 2 ^ (n * (sub.toNat % 4)) % 2 ^ n
  if sub.getLsbD 3 && decide (2 ^ (n - 1) ≤ v) then v + 2 ^ 32 - 2 ^ n else v
def execUnpack (r : RWord) : State → Out := bitOne r (xaDefault 0) 4 (fun _ a => unpackBits 0 a)
def execUnpackExt (r : RWord) (x : XaWord) : State → Out := bitOne r x 8 (fun _ a => unpackBits x.sub a)

/-- `amax` (R396): folds |A| into AMAX; helper lanes contribute. -/
def amaxOp (r : RWord) (x : XaWord) (len : Nat) : State → Out :=
  let o := intForm r x
  issue { s := r.s, len := len, regs := fun c _ => (o.a c).vops }
    (fun c st => (st.updPart c.ref (fun p => p.amaxIn (amaxSources c (c.xaActive x) o (fmtTy x.ty.toNat)))).done c len)
def execAmax (r : RWord) : State → Out := amaxOp r (xaDefault 3) 4
def execAmaxExt (r : RWord) (x : XaWord) : State → Out := amaxOp r x 8

end Sys2Proof.Machine
end

