-- ==== Sys2Proof/Machine/Dispatch.lean ====
section
/-! DEFINITION. The meaning of every instruction and step of the machine, one arm per constructor. -/

namespace Sys2Proof.Machine

def exec (i : Instr) (s : State) : Host.Outcome State Fault Refusal :=
  match i with
  | .nop r => Sys2Proof.Machine.execNop r s
  | .nopXi r x => Sys2Proof.Machine.execNopXi r x s
  | .bra j => Sys2Proof.Machine.execBra j s
  | .brp p => Sys2Proof.Machine.execBrp p s
  | .bru p => Sys2Proof.Machine.execBru p s
  | .jmp u => Sys2Proof.Machine.execJmp u s
  | .call j => Sys2Proof.Machine.execCall j s
  | .ret u => Sys2Proof.Machine.execRet u s
  | .conf r => Sys2Proof.Machine.execConf r s
  | .fuse r => Sys2Proof.Machine.execFuse r s
  | .exit r => Sys2Proof.Machine.execExit r s
  | .entry r => Sys2Proof.Machine.execEntry r s
  | .gcall r x => Sys2Proof.Machine.execGcall r x s
  | .gret r => Sys2Proof.Machine.execGret r s
  | .gentry r => Sys2Proof.Machine.execGentry r s
  | .trap r => Sys2Proof.Machine.execTrap r s
  | .brk r => Sys2Proof.Machine.execBrk r s
  | .sleep u => Sys2Proof.Machine.execSleep u s
  | .sleepat u => Sys2Proof.Machine.execSleepat u s
  | .pwait u => Sys2Proof.Machine.execPwait u s
  | .winb r => Sys2Proof.Machine.execWinb r s
  | .phint u x => Sys2Proof.Machine.execPhint u x s
  | .region r => Sys2Proof.Machine.execRegion r s
  | .tret r => Sys2Proof.Machine.execTret r s
  | .sadd u => Sys2Proof.Machine.execSadd u s
  | .ssub u => Sys2Proof.Machine.execSsub u s
  | .smul u => Sys2Proof.Machine.execSmul u s
  | .smulh u => Sys2Proof.Machine.execSmulh u s
  | .sand u => Sys2Proof.Machine.execSand u s
  | .sor u => Sys2Proof.Machine.execSor u s
  | .sxor u => Sys2Proof.Machine.execSxor u s
  | .sshl u => Sys2Proof.Machine.execSshl u s
  | .sshr u => Sys2Proof.Machine.execSshr u s
  | .ssar u => Sys2Proof.Machine.execSsar u s
  | .smin u => Sys2Proof.Machine.execSmin u s
  | .smax u => Sys2Proof.Machine.execSmax u s
  | .smov u => Sys2Proof.Machine.execSmov u s
  | .smovi u x => Sys2Proof.Machine.execSmovi u x s
  | .smovh u x => Sys2Proof.Machine.execSmovh u x s
  | .scmp u x => Sys2Proof.Machine.execScmp u x s
  | .ssel u x => Sys2Proof.Machine.execSsel u x s
  | .sld u => Sys2Proof.Machine.execSld u s
  | .sldExt u x => Sys2Proof.Machine.execSldExt u x s
  | .sst u => Sys2Proof.Machine.execSst u s
  | .sstExt u x => Sys2Proof.Machine.execSstExt u x s
  | .iadd r => Sys2Proof.Machine.execIadd r s
  | .iaddExt r x => Sys2Proof.Machine.execIaddExt r x s
  | .isub r => Sys2Proof.Machine.execIsub r s
  | .isubExt r x => Sys2Proof.Machine.execIsubExt r x s
  | .imul r => Sys2Proof.Machine.execImul r s
  | .imulExt r x => Sys2Proof.Machine.execImulExt r x s
  | .imulh r => Sys2Proof.Machine.execImulh r s
  | .imulhExt r x => Sys2Proof.Machine.execImulhExt r x s
  | .imad r x => Sys2Proof.Machine.execImad r x s
  | .imin r => Sys2Proof.Machine.execImin r s
  | .iminExt r x => Sys2Proof.Machine.execIminExt r x s
  | .imax r => Sys2Proof.Machine.execImax r s
  | .imaxExt r x => Sys2Proof.Machine.execImaxExt r x s
  | .iabs r => Sys2Proof.Machine.execIabs r s
  | .iabsExt r x => Sys2Proof.Machine.execIabsExt r x s
  | .and r => Sys2Proof.Machine.execAnd r s
  | .andExt r x => Sys2Proof.Machine.execAndExt r x s
  | .or r => Sys2Proof.Machine.execOr r s
  | .orExt r x => Sys2Proof.Machine.execOrExt r x s
  | .xor r => Sys2Proof.Machine.execXor r s
  | .xorExt r x => Sys2Proof.Machine.execXorExt r x s
  | .andn r => Sys2Proof.Machine.execAndn r s
  | .andnExt r x => Sys2Proof.Machine.execAndnExt r x s
  | .shl r => Sys2Proof.Machine.execShl r s
  | .shlExt r x => Sys2Proof.Machine.execShlExt r x s
  | .shr r => Sys2Proof.Machine.execShr r s
  | .shrExt r x => Sys2Proof.Machine.execShrExt r x s
  | .sar r => Sys2Proof.Machine.execSar r s
  | .sarExt r x => Sys2Proof.Machine.execSarExt r x s
  | .popc r => Sys2Proof.Machine.execPopc r s
  | .popcExt r x => Sys2Proof.Machine.execPopcExt r x s
  | .clz r => Sys2Proof.Machine.execClz r s
  | .clzExt r x => Sys2Proof.Machine.execClzExt r x s
  | .brev r => Sys2Proof.Machine.execBrev r s
  | .brevExt r x => Sys2Proof.Machine.execBrevExt r x s
  | .bfe r => Sys2Proof.Machine.execBfe r s
  | .bfeExt r x => Sys2Proof.Machine.execBfeExt r x s
  | .bfi r x => Sys2Proof.Machine.execBfi r x s
  | .sel r x => Sys2Proof.Machine.execSel r x s
  | .mov r => Sys2Proof.Machine.execMov r s
  | .movExt r x => Sys2Proof.Machine.execMovExt r x s
  | .movi r => Sys2Proof.Machine.execMovi r s
  | .moviXi r x => Sys2Proof.Machine.execMoviXi r x s
  | .icmp r => Sys2Proof.Machine.execIcmp r s
  | .icmpExt r x => Sys2Proof.Machine.execIcmpExt r x s
  | .iscadd r => Sys2Proof.Machine.execIscadd r s
  | .iscaddExt r x => Sys2Proof.Machine.execIscaddExt r x s
  | .fadd r => Sys2Proof.Machine.execFadd r s
  | .faddExt r x => Sys2Proof.Machine.execFaddExt r x s
  | .fsub r => Sys2Proof.Machine.execFsub r s
  | .fsubExt r x => Sys2Proof.Machine.execFsubExt r x s
  | .fmul r => Sys2Proof.Machine.execFmul r s
  | .fmulExt r x => Sys2Proof.Machine.execFmulExt r x s
  | .ffma r x => Sys2Proof.Machine.execFfma r x s
  | .fmin r => Sys2Proof.Machine.execFmin r s
  | .fminExt r x => Sys2Proof.Machine.execFminExt r x s
  | .fmax r => Sys2Proof.Machine.execFmax r s
  | .fmaxExt r x => Sys2Proof.Machine.execFmaxExt r x s
  | .fcmp r => Sys2Proof.Machine.execFcmp r s
  | .fcmpExt r x => Sys2Proof.Machine.execFcmpExt r x s
  | .frcp r => Sys2Proof.Machine.execFrcp r s
  | .frcpExt r x => Sys2Proof.Machine.execFrcpExt r x s
  | .frsq r => Sys2Proof.Machine.execFrsq r s
  | .frsqExt r x => Sys2Proof.Machine.execFrsqExt r x s
  | .fsqrt r => Sys2Proof.Machine.execFsqrt r s
  | .fsqrtExt r x => Sys2Proof.Machine.execFsqrtExt r x s
  | .fdiv r => Sys2Proof.Machine.execFdiv r s
  | .fdivExt r x => Sys2Proof.Machine.execFdivExt r x s
  | .fexp2 r => Sys2Proof.Machine.execFexp2 r s
  | .fexp2Ext r x => Sys2Proof.Machine.execFexp2Ext r x s
  | .flog2 r => Sys2Proof.Machine.execFlog2 r s
  | .flog2Ext r x => Sys2Proof.Machine.execFlog2Ext r x s
  | .fsin r => Sys2Proof.Machine.execFsin r s
  | .fsinExt r x => Sys2Proof.Machine.execFsinExt r x s
  | .fcos r => Sys2Proof.Machine.execFcos r s
  | .fcosExt r x => Sys2Proof.Machine.execFcosExt r x s
  | .frnd r => Sys2Proof.Machine.execFrnd r s
  | .frndExt r x => Sys2Proof.Machine.execFrndExt r x s
  | .fclass r => Sys2Proof.Machine.execFclass r s
  | .fclassExt r x => Sys2Proof.Machine.execFclassExt r x s
  | .fscale r => Sys2Proof.Machine.execFscale r s
  | .fscaleExt r x => Sys2Proof.Machine.execFscaleExt r x s
  | .cvt r x => Sys2Proof.Machine.execCvt r x s
  | .cvtq r x => Sys2Proof.Machine.execCvtq r x s
  | .cvtd r x => Sys2Proof.Machine.execCvtd r x s
  | .pack r => Sys2Proof.Machine.execPack r s
  | .packExt r x => Sys2Proof.Machine.execPackExt r x s
  | .unpack r => Sys2Proof.Machine.execUnpack r s
  | .unpackExt r x => Sys2Proof.Machine.execUnpackExt r x s
  | .amax r => Sys2Proof.Machine.execAmax r s
  | .amaxExt r x => Sys2Proof.Machine.execAmaxExt r x s
  | .shfl r => Sys2Proof.Machine.execShfl r s
  | .shflExt r x => Sys2Proof.Machine.execShflExt r x s
  | .vote r => Sys2Proof.Machine.execVote r s
  | .voteExt r x => Sys2Proof.Machine.execVoteExt r x s
  | .redu r => Sys2Proof.Machine.execRedu r s
  | .reduExt r x => Sys2Proof.Machine.execReduExt r x s
  | .scan r => Sys2Proof.Machine.execScan r s
  | .scanExt r x => Sys2Proof.Machine.execScanExt r x s
  | .rdlane r => Sys2Proof.Machine.execRdlane r s
  | .rdlaneExt r x => Sys2Proof.Machine.execRdlaneExt r x s
  | .wrlane r x => Sys2Proof.Machine.execWrlane r x s
  | .ddx r => Sys2Proof.Machine.execDdx r s
  | .ddxExt r x => Sys2Proof.Machine.execDdxExt r x s
  | .ddy r => Sys2Proof.Machine.execDdy r s
  | .ddyExt r x => Sys2Proof.Machine.execDdyExt r x s
  | .qperm r => Sys2Proof.Machine.execQperm r s
  | .qpermExt r x => Sys2Proof.Machine.execQpermExt r x s
  | .ld m => Sys2Proof.Machine.execLd m s
  | .ldExt m x => Sys2Proof.Machine.execLdExt m x s
  | .st m => Sys2Proof.Machine.execSt m s
  | .stExt m x => Sys2Proof.Machine.execStExt m x s
  | .ldl m => Sys2Proof.Machine.execLdl m s
  | .ldlExt m x => Sys2Proof.Machine.execLdlExt m x s
  | .stl m => Sys2Proof.Machine.execStl m s
  | .stlExt m x => Sys2Proof.Machine.execStlExt m x s
  | .atom m => Sys2Proof.Machine.execAtom m s
  | .atomExt m x => Sys2Proof.Machine.execAtomExt m x s
  | .atoml m => Sys2Proof.Machine.execAtoml m s
  | .atomlExt m x => Sys2Proof.Machine.execAtomlExt m x s
  | .fence m x => Sys2Proof.Machine.execFence m x s
  | .cctl m => Sys2Proof.Machine.execCctl m s
  | .cctlExt m x => Sys2Proof.Machine.execCctlExt m x s
  | .pfetch m => Sys2Proof.Machine.execPfetch m s
  | .pfetchExt m x => Sys2Proof.Machine.execPfetchExt m x s
  | .tcopy u x => Sys2Proof.Machine.execTcopy u x s
  | .mma u x => Sys2Proof.Machine.execMma u x s
  | .mmz u x => Sys2Proof.Machine.execMmz u x s
  | .tkacq u x => Sys2Proof.Machine.execTkacq u x s
  | .tkrel u x => Sys2Proof.Machine.execTkrel u x s
  | .accrd r x => Sys2Proof.Machine.execAccrd r x s
  | .accwr r x => Sys2Proof.Machine.execAccwr r x s
  | .waitc r => Sys2Proof.Machine.execWaitc r s
  | .bara r => Sys2Proof.Machine.execBara r s
  | .barw r => Sys2Proof.Machine.execBarw r s
  | .bar r => Sys2Proof.Machine.execBar r s
  | .barExt r x => Sys2Proof.Machine.execBarExt r x s
  | .rbar r => Sys2Proof.Machine.execRbar r s
  | .rbarExt r x => Sys2Proof.Machine.execRbarExt r x s
  | .regrel r x => Sys2Proof.Machine.execRegrel r x s
  | .regclm r x => Sys2Proof.Machine.execRegclm r x s
  | .chsend r => Sys2Proof.Machine.execChsend r s
  | .chrecv r => Sys2Proof.Machine.execChrecv r s
  | .qenq u => Sys2Proof.Machine.execQenq u s
  | .qdeq u => Sys2Proof.Machine.execQdeq u s
  | .fork u => Sys2Proof.Machine.execFork u s
  | .join u => Sys2Proof.Machine.execJoin u s
  | .tex m => Sys2Proof.Machine.execTex m s
  | .texExt m x => Sys2Proof.Machine.execTexExt m x s
  | .texg m => Sys2Proof.Machine.execTexg m s
  | .texgExt m x => Sys2Proof.Machine.execTexgExt m x s
  | .texq m => Sys2Proof.Machine.execTexq m s
  | .texqExt m x => Sys2Proof.Machine.execTexqExt m x s
  | .ipa r => Sys2Proof.Machine.execIpa r s
  | .ipaExt r x => Sys2Proof.Machine.execIpaExt r x s
  | .kill r => Sys2Proof.Machine.execKill r s
  | .killExt r x => Sys2Proof.Machine.execKillExt r x s
  | .pout r => Sys2Proof.Machine.execPout r s
  | .poutExt r x => Sys2Proof.Machine.execPoutExt r x s
  | .mvtx r => Sys2Proof.Machine.execMvtx r s
  | .mprim r => Sys2Proof.Machine.execMprim r s
  | .rtrav m => Sys2Proof.Machine.execRtrav m s
  | .rtravExt m x => Sys2Proof.Machine.execRtravExt m x s
  | .rtcom r => Sys2Proof.Machine.execRtcom r s
  | .rtcomExt r x => Sys2Proof.Machine.execRtcomExt r x s
  | .rtrep m => Sys2Proof.Machine.execRtrep m s
  | .rtrepExt m x => Sys2Proof.Machine.execRtrepExt m x s
  | .srget u => Sys2Proof.Machine.execSrget u s
  | .srset u => Sys2Proof.Machine.execSrset u s
  | .tlbi u => Sys2Proof.Machine.execTlbi u s
  | .hsig u => Sys2Proof.Machine.execHsig u s
  | .queueNop q => Sys2Proof.Machine.execQueueNop q s
  | .launch q => Sys2Proof.Machine.execLaunch q s
  | .wait q => Sys2Proof.Machine.execWait q s
  | .waitPoll q => Sys2Proof.Machine.execWaitPoll q s
  | .signal q => Sys2Proof.Machine.execSignal q s
  | .graphload q => Sys2Proof.Machine.execGraphload q s
  | .qtailWrite q v src => Sys2Proof.Machine.execQtailWrite q v src s
  | .qerrStopWrite q v src => Sys2Proof.Machine.execQerrStopWrite q v src s
  | .qpassWrite q v src => Sys2Proof.Machine.execQpassWrite q v src s
  | .triggerWrite t v whole src => Sys2Proof.Machine.execTriggerWrite t v whole src s
  | .registerWrite off v src => Sys2Proof.Machine.execRegisterWrite off v src s
  | .load => Sys2Proof.Machine.execLoad s
  | .unload => Sys2Proof.Machine.execUnload s
  | .attest => Sys2Proof.Machine.execAttest s
  | .fwreload => Sys2Proof.Machine.execFwreload s
  | .mailboxRequestEnd => Sys2Proof.Machine.execMailboxRequestEnd s
  | .faultReply die v src => Sys2Proof.Machine.execFaultReply die v src s
  | .haltedWrite die v src => Sys2Proof.Machine.execHaltedWrite die v src s
  | .pwrcfgWrite c v src => Sys2Proof.Machine.execPwrcfgWrite c v src s
  | .rampWrite c upper v src => Sys2Proof.Machine.execRampWrite c upper v src s
  | .railselWrite c v src => Sys2Proof.Machine.execRailselWrite c v src s
  | .domtabWrite v src => Sys2Proof.Machine.execDomtabWrite v src s
  | .apertureAccess a => Sys2Proof.Machine.execApertureAccess a s
  | .tenantApertureAccess t a => Sys2Proof.Machine.execTenantApertureAccess t a s
  | .packageReset => Sys2Proof.Machine.execPackageReset s
  | .functionLevelReset t => Sys2Proof.Machine.execFunctionLevelReset t s
  | .fatalError cause pa => Sys2Proof.Machine.execFatalError cause pa s
  | .stateDumpComplete => Sys2Proof.Machine.execStateDumpComplete s
  | .peerLinkState k st => Sys2Proof.Machine.execPeerLinkState k st s
  | .dieHalt die => Sys2Proof.Machine.execDieHalt die s
  | .launchPlacement l => Sys2Proof.Machine.execLaunchPlacement l s
  | .groupAdmission l core => Sys2Proof.Machine.execGroupAdmission l core s
  | .taskStart l core => Sys2Proof.Machine.execTaskStart l core s
  | .taskSteal l core => Sys2Proof.Machine.execTaskSteal l core s
  | .forkPush p => Sys2Proof.Machine.execForkPush p s
  | .taskJoinDecrement g => Sys2Proof.Machine.execTaskJoinDecrement g s
  | .joinWake p => Sys2Proof.Machine.execJoinWake p s
  | .launchCompletion l => Sys2Proof.Machine.execLaunchCompletion l s
  | .preemptVictimChoice l => Sys2Proof.Machine.execPreemptVictimChoice l s
  | .launchDue l => Sys2Proof.Machine.execLaunchDue l s
  | .protectionEnd l => Sys2Proof.Machine.execProtectionEnd l s
  | .forcedSave l => Sys2Proof.Machine.execForcedSave l s
  | .victimRelease l => Sys2Proof.Machine.execVictimRelease l s
  | .launchRestore l => Sys2Proof.Machine.execLaunchRestore l s
  | .claimGrant core => Sys2Proof.Machine.execClaimGrant core s
  | .claimAging core => Sys2Proof.Machine.execClaimAging core s
  | .claimDeadlock g => Sys2Proof.Machine.execClaimDeadlock g s
  | .confTimeout p => Sys2Proof.Machine.execConfTimeout p s
  | .missSplit p => Sys2Proof.Machine.execMissSplit p s
  | .fusefail p => Sys2Proof.Machine.execFusefail p s
  | .barrierPhaseComplete g b => Sys2Proof.Machine.execBarrierPhaseComplete g b s
  | .rbarLocalCompletion l core => Sys2Proof.Machine.execRbarLocalCompletion l core s
  | .rbarReport l core => Sys2Proof.Machine.execRbarReport l core s
  | .rbarGlobalCompletion l core => Sys2Proof.Machine.execRbarGlobalCompletion l core s
  | .sleepWake p => Sys2Proof.Machine.execSleepWake p s
  | .pwaitWake p => Sys2Proof.Machine.execPwaitWake p s
  | .pageWalkComplete w => Sys2Proof.Machine.execPageWalkComplete w s
  | .ldCompletion op => Sys2Proof.Machine.execLdCompletion op s
  | .stCompletion op => Sys2Proof.Machine.execStCompletion op s
  | .sliceRequest op => Sys2Proof.Machine.execSliceRequest op s
  | .pinTimeout line => Sys2Proof.Machine.execPinTimeout line s
  | .queueEnqueueRequest op => Sys2Proof.Machine.execQueueEnqueueRequest op s
  | .queueDequeueRequest op => Sys2Proof.Machine.execQueueDequeueRequest op s
  | .channelMessageArrival op => Sys2Proof.Machine.execChannelMessageArrival op s
  | .channelCreditReturn l inst => Sys2Proof.Machine.execChannelCreditReturn l inst s
  | .bankDrowsy bank => Sys2Proof.Machine.execBankDrowsy bank s
  | .bankWakeComplete bank => Sys2Proof.Machine.execBankWakeComplete bank s
  | .tcopyComplete op => Sys2Proof.Machine.execTcopyComplete op s
  | .coopMmaRelease op => Sys2Proof.Machine.execCoopMmaRelease op s
  | .mmaKstepDelivery op => Sys2Proof.Machine.execMmaKstepDelivery op s
  | .mmaComplete op => Sys2Proof.Machine.execMmaComplete op s
  | .mmzComplete op => Sys2Proof.Machine.execMmzComplete op s
  | .slewStep c => Sys2Proof.Machine.execSlewStep c s
  | .pacSustainedStrike c => Sys2Proof.Machine.execPacSustainedStrike c s
  | .voltageInterval c => Sys2Proof.Machine.execVoltageInterval c s
  | .gatingStart c => Sys2Proof.Machine.execGatingStart c s
  | .gatingCommit c => Sys2Proof.Machine.execGatingCommit c s
  | .clusterAwake c => Sys2Proof.Machine.execClusterAwake c s
  | .setupBinning g => Sys2Proof.Machine.execSetupBinning g s
  | .primitiveRecord r => Sys2Proof.Machine.execPrimitiveRecord r s
  | .watermark m => Sys2Proof.Machine.execWatermark m s
  | .watermarkSend l src => Sys2Proof.Machine.execWatermarkSend l src s
  | .rasteriseRecord r => Sys2Proof.Machine.execRasteriseRecord r s
  | .fragmentCommit f => Sys2Proof.Machine.execFragmentCommit f s
  | .divergenceHistoryUpdate die seg kidx => Sys2Proof.Machine.execDivergenceHistoryUpdate die seg kidx s
  | .reservedOpcode => Sys2Proof.Machine.execReservedOpcode s
  | .instructionFetchFault => Sys2Proof.Machine.execInstructionFetchFault s
  | .allowanceUpdate c => Sys2Proof.Machine.execAllowanceUpdate c s
  | .joinReread p => Sys2Proof.Machine.execJoinReread p s
  | .debugInterfaceAccess write opm v => Sys2Proof.Machine.execDebugInterfaceAccess write opm v s

end Sys2Proof.Machine
end

