-- ==== Sys2Proof/Machine/Interlock.lean ====
section
/-! DEFINITION. The interlock of fixed-latency results (01 R27, 05 R117): which registers an instruction reads, which it
writes within its pipe and how long that takes, and the cycle from which a part's registers may be read. A part's `busy`
list holds (register key, first cycle of a reader). -/

namespace Sys2Proof.Machine

/-- Keys of a part's registers at its gate depth: vector registers, then s0–s63, p0–p7 and system registers. -/
def vBusy (depth n : Nat) : Nat := 1024 * depth + n
def sBusy (depth n : Nat) : Nat := 1024 * depth + 256 + n
def pBusy (depth n : Nat) : Nat := 1024 * depth + 320 + n
def xBusy (depth n : Nat) : Nat := 1024 * depth + 340 + n

/-- What an instruction reads before it issues. -/
structure Uses where
  vops : List Vop := []
  unis : List Nat := []
  preds : List Nat := []
  sys : List Nat := []

/-- What an instruction writes within its pipe, and the cycles from its issue to the issue of a dependent one. -/
structure Gives where
  lat : Nat := 4
  vops : List Vop := []
  unis : List Nat := []
  preds : List Nat := []
  sys : List Nat := []

/-- Element types of D and of the sources, and the block form. -/
def xaShape (op : Nat) (r : RWord) (x : XaWord) : XaForm :=
  let ty := x.ty.toNat
  let sty := if op = 0x80 then x.sub.toNat else if op = 0x82 then 0 else ty
  let dty := if op = 0x70 ∨ op = 0x81 then 0 else ty
  { r := r, x := x, dty := dty, sty := sty, block := !(op == 0x57 || op == 0x66 || decide (0x90 ≤ op)) }

/-- Sources among the operands of an XA instruction, as vector operands and as uniform registers. -/
def srcUses (ss : List Src) : Uses :=
  { vops := ss.flatMap Src.vops, unis := ss.filterMap (fun e => match e with | .uni n => some n | _ => none) }

/-- Integer and float groups that read A alone. -/
def oneSource (op : Nat) : Bool := [0x47, 0x4F, 0x50, 0x51, 0x55, 0x67, 0x68, 0x69, 0x6B, 0x6C, 0x6D, 0x6E, 0x6F, 0x70].contains op

/-- Reads of the vector arithmetic, conversion and cross-lane groups. -/
def xaUses (op : Nat) (o : XaForm) (c : Ctx) : Uses :=
  let u : Uses :=
    if op = 0x56 then {}
    else if op = 0x54 then { srcUses [o.a c, o.b c] with preds := [o.x.c.toNat % 8] }
    else if op = 0x44 ∨ op = 0x53 ∨ op = 0x63 then srcUses [o.a c, o.b c, o.c c]
    else if op = 0x71 then srcUses [o.a c, o.bAs c 1]
    else if oneSource op then srcUses [o.a c]
    else if op < 0x80 then srcUses [o.a c, o.b c]
    else if op = 0x81 ∨ op = 0x82 then { vops := (o.a c).vops, unis := [o.x.c.toNat % 64] }
    else if op = 0x83 then srcUses [o.a c, o.b c]
    else if op = 0x90 then srcUses [o.a c, o.bAs c 2]
    else if op = 0x91 then { preds := [o.r.a.toNat % 8] }
    else if op = 0x95 then { unis := [o.r.a.toNat % 64] }
    else srcUses [o.a c]
  { u with preds := o.x.pr.toNat :: u.preds }

/-- Reads of the uniform group. -/
def uniformUses (op : Nat) (u : UWord) (xs : List W32) : List Nat :=
  let ab := u.a.toNat :: (if u.k then [] else [u.b.toNat])
  if op = 0x2C ∨ op = 0x31 then [u.a.toNat]
  else if op = 0x2D then []
  else if op = 0x2E then [u.d.toNat]
  else if op = 0x30 then (xs.map (fun x => (xaOf x).c.toNat % 64)) ++ ab
  else if op = 0x32 then [u.a.toNat, u.d.toNat]
  else ab

/-- Reads of the memory group. -/
def memoryUses (op : Nat) (m : MWord) (x : XmWord) : Uses :=
  let off := (mOffset m).toList
  let data : List Vop :=
    if op = 0xA1 ∨ op = 0xA3 then [mData m.d x.sz]
    else if op = 0xA4 ∨ op = 0xA5 then [atomData m.d x]
    else []
  if op = 0xA6 then {} else { vops := data ++ off, unis := [m.bu.toNat], preds := [x.pr.toNat] }

/-- Reads of the control group. -/
def controlUses (op : Nat) (w0 : W32) : Uses :=
  let u := uOf w0
  if op = 0x02 ∨ op = 0x03 then { preds := [(pOf w0).pred.toNat] }
  else if op = 0x10 then { unis := if u.k then [] else [u.a.toNat] }
  else if [0x04, 0x06, 0x11, 0x12, 0x14].contains op then { unis := [u.a.toNat] }
  else {}

/-- Reads of the engine, synchronisation, graphics and system groups. -/
def otherUses (op : Nat) (w0 : W32) (xs : List W32) (c : Ctx) (s : State) : Uses :=
  let u := uOf w0
  let m := mOf w0
  let r := rOf w0
  let x := (xs.head?.map xaOf).getD (xaDefault (defaultTy op))
  let from_ := fun (n k : Nat) => (List.range k).map (fun i => n + i)
  let pr : Uses := { preds := [x.pr.toNat] }
  if op = 0xC0 then { unis := u.a.toNat :: from_ u.b.toNat 4 }
  else if op = 0xC1 then { unis := u.a.toNat :: from_ u.b.toNat 2 }
  else if op = 0xC6 then { vops := (xs.map xtOf).map (fun t => rowVop r.a t c) }
  else if op = 0xD6 then { vops := channelVop r r.a c s }
  else if op = 0xD8 then { unis := [u.a.toNat, u.b.toNat] }
  else if op = 0xD9 ∨ op = 0xDB then { unis := [u.a.toNat] }
  else if op = 0xDA then { unis := from_ u.a.toNat 8 }
  else if op = 0xE0 ∨ op = 0xE1 then
    { pr with vops := [{ f := m.a.toNat, unit := s.texDims c m + (if x.sub = 0 then 0 else 1) }], unis := from_ m.bu.toNat 2 }
  else if op = 0xE2 then
    { pr with vops := if x.sub = 1 then [] else [{ f := m.a.toNat, unit := if x.sub = 0 then 1 else s.texDims c m + 1 }], unis := [m.bu.toNat] }
  else if op = 0xE3 then { pr with vops := if x.sub.toNat < 2 then [{ f := r.a.toNat, unit := 2 }] else [] }
  else if op = 0xE4 then pr
  else if op = 0xE5 then { pr with vops := [{ f := r.a.toNat, unit := 4 }] }
  else if op = 0xE6 then
    { vops := match c.launch.draw with | some d => [vertexVop r d.nattr, indexVop r.b] | none => [] }
  else if op = 0xE7 then { vops := [{ f := r.a.toNat, unit := 3 }] }
  else if op = 0xE8 then
    { pr with vops := [{ f := m.a.toNat, unit := if x.ty = 6 then 17 else 9 }], unis := from_ m.bu.toNat 2 }
  else if op = 0xE9 then { pr with vops := [{ f := r.a.toNat, unit := if x.ty = 6 then 2 else 1 }] }
  else if op = 0xEA then { pr with vops := [{ f := m.a.toNat }], unis := [m.bu.toNat] }
  else if op = 0xF0 then { sys := [u.index] }
  else if op = 0xF1 then { unis := [u.d.toNat], sys := [u.index] }
  else if op = 0xF2 then { unis := [u.a.toNat, u.b.toNat] }
  else if op = 0xF3 then { unis := [u.a.toNat] }
  else {}

/-- What an instruction reads (R117). -/
def State.usesOf (s : State) (c : Ctx) (i : Instr) : Uses :=
  match encode i with
  | [] => {}
  | w0 :: xs =>
    let op := (opOf w0).toNat
    if op = 0x0B then { vops := spanVop (rOf w0).a (match xs with | x :: _ => fieldAt ((s.gateEntry c (x.toNat % 65536)).getD []) 12 1 | [] => 0) }
    else if op = 0x0C then { vops := match c.part.frames with | f :: _ => spanVop (rOf w0).a f.nres | [] => [] }
    else if op < 0x20 then controlUses op w0
    else if op < 0x40 then
      { unis := uniformUses op (uOf w0) xs
        preds := [] }
    else if op < 0xA0 then
      xaUses op (xaShape op (rOf w0) ((if op = 0x56 then none else xs.head?.map xaOf).getD (xaDefault (defaultTy op)))) c
    else if op < 0xC0 then memoryUses op (mOf w0) ((xs.head?.map xmOf).getD xmDefault)
    else otherUses op w0 xs c s

/-- Latency of an arithmetic, conversion or cross-lane result (R27; 20 R431, R439; 21 R448, R472). -/
def xaLatency (op : Nat) (x : XaWord) : Nat :=
  let wide := x.ty = 6
  if op < 0x60 then (if (op = 0x42 ∨ op = 0x43 ∨ op = 0x44) ∧ tyWidth x.ty.toNat = 64 then 8 else 4)
  else if op = 0x69 ∨ op = 0x6A then (if wide then 36 else 20)
  else if op = 0x67 ∨ op = 0x68 ∨ (0x6B ≤ op ∧ op ≤ 0x6E) then 12
  else if op < 0x80 then (if wide then 8 else 4)
  else if op = 0x80 then (if wide ∨ x.sub = 6 then 8 else 4)
  else if op < 0x90 then 4
  else if op = 0x92 ∨ op = 0x93 then (if tyWidth x.ty.toNat = 64 then 14 else 10)
  else 6

/-- What an instruction writes within its pipe; nothing for the counted classes (R117). -/
def givesOf (c : Ctx) (i : Instr) : Gives :=
  match encode i with
  | [] => {}
  | w0 :: xs =>
    let op := (opOf w0).toNat
    let r := rOf w0
    let u := uOf w0
    if op < 0x20 then {}
    else if op < 0x40 then
      { lat := if op = 0x22 ∨ op = 0x23 then 8 else 4
        unis := if op = 0x31 ∨ op = 0x32 then [] else [u.d.toNat] }
    else if op < 0xA0 then
      let x := (if op = 0x56 then none else xs.head?.map xaOf).getD (xaDefault (defaultTy op))
      let o := xaShape op r x
      let g : Gives := { lat := xaLatency op x }
      let g := if (0x60 ≤ op ∧ op < 0x80) ∨ op = 0x80 ∨ op = 0x81 ∨ op = 0x82 ∨ op = 0x92 ∨ op = 0x93 ∨ op = 0x96 ∨ op = 0x97 then { g with sys := [0x09] } else g
      let g := if op = 0x80 ∨ op = 0x81 ∨ op = 0x85 then { g with sys := 0x0A :: g.sys } else g
      let g := if op = 0x96 ∨ op = 0x97 then { g with sys := 0x13 :: g.sys } else g
      if op = 0x57 ∨ op = 0x66 then { g with preds := [r.d.toNat % 8] }
      else if op = 0x91 then (if x.sub = 2 then { g with unis := [r.d.toNat % 64] } else { g with preds := [r.d.toNat % 8] })
      else if op = 0x94 then { g with unis := [r.d.toNat % 64] }
      else if op = 0x85 then g
      else { g with vops := [o.d c] }
    else if op = 0xC5 then { lat := 8, vops := (xs.map xtOf).map (fun t => rowVop r.d t c) }
    else if op = 0xE3 then { lat := 8, vops := [{ f := r.d.toNat }], sys := [0x09] }
    else if op = 0xF0 then { unis := [u.d.toNat] }
    else {}

/-- Keys of registers. -/
def keysOf (c : Ctx) (vops : List Vop) (unis preds sys : List Nat) : List Nat :=
  let d := c.part.depth
  (vops.flatMap (fun o => o.fields.map (fun f => vBusy d (regNumber c.wb f)))) ++ unis.map (sBusy d) ++ preds.map (pBusy d)
    ++ sys.map (xBusy d)

def Uses.keys (u : Uses) (c : Ctx) : List Nat := keysOf c u.vops u.unis u.preds u.sys
def Gives.keys (g : Gives) (c : Ctx) : List Nat := keysOf c g.vops g.unis g.preds g.sys

/-- An instruction of the part must wait for a result in its pipe (R117). -/
def State.stalled (s : State) (c : Ctx) (i : Instr) : Bool :=
  let late := c.part.busy.filter (fun e => decide (s.dcc < e.2))
  late != [] && (let ks := (s.usesOf c i).keys c; late.any (fun e => ks.contains e.1))

/-- Later readers of an instruction's results wait for them, and its flags arrive as it completes (R91, R117); results already there
are forgotten. -/
def Part.hold (p : Part) (now lat : Nat) (keys : List Nat) : Part :=
  { p with
    busy := (keys.map (fun k => (k, now + lat))) ++ p.busy.filter (fun e => decide (now < e.2) && !(keys.contains e.1 && decide (e.2 ≤ now + lat)))
    raised := 0
    flags := (if p.raised = 0 then [] else [(now + lat, p.raised)]) ++ p.flags.filter (fun e => decide (now ≤ e.1)) }

/-- Notes what an instruction that has completed in this turn wrote within its pipe: its part stands at the next address. -/
def State.noteGives (s : State) (c : Ctx) (i : Instr) : State :=
  match s.part? c.ref with
  | none => s
  | some p =>
    if p.pc = c.part.pc + BitVec.ofNat 64 (4 * (encode i).length) ∧ p.tcode = c.part.tcode ∧ p.lastIssue = s.dcc then
      let g := givesOf c i
      match g.keys c with
      | [] => s
      | ks => s.updPart c.ref (fun p => p.hold s.dcc g.lat ks)
    else s

/-- What follows an instruction in the same turn. -/
def thenNext (o : Out) (f : State → State) : Out :=
  match o with
  | .next s => .next (f s)
  | .fault r => .fault r
  | .refused r => .refused r

end Sys2Proof.Machine
end

