-- ==== Sys2Proof/Machine/Plan.lean ====
section
/-! DEFINITION. The order of a device cycle: what becomes due, the steps of the limiters and of the scheduler, the selection of
parts (03 R70, R71; 17 R368, R369), what the end of a cycle examines, and the turn of one selected part. -/

namespace Sys2Proof.Machine

/-! ### The turn of a part -/

/-- A selected part fetches its instruction and runs it, or takes what precedes it (05 R97, R113, R114, R120). -/
def State.issueTurn (s : State) (r : PartRef) : Out :=
  let s := s.beginTurn r
  match s.ctx? r with
  | none => .next s
  | some c =>
    match s.fetch r.core c.part.regs.asid c.part.pc with
    | (s, .instr i) => thenNext (exec i s) (fun t => t.noteGives c i)
    | (s, .reserved) => exec .reservedOpcode s
    | (s, .illegal n w0) => .next (s.illegalWord c n w0)
    | (s, .again) => .next (s.parkOn c (.time (s.dcc + 1)))
    | (_, .missing _ _) => exec .instructionFetchFault s
    | (_, .failed _ _) => exec .instructionFetchFault s

/-- The next state of an outcome. -/
def nextOf : Out → Option State
  | .next s => some s
  | _ => none

/-- Every part of a resident wave. -/
def State.allParts (s : State) : List (PartRef × Wave × Part) :=
  s.waves.flatMap (fun e => e.2.parts.map (fun p => ({ core := e.2.core, slot := e.2.slot, base := p.base }, e.2, p)))

/-- A part that its turn would leave before its instruction: parked there, or fused. -/
def stays (p q : Part) : Bool :=
  q.pc == p.pc && q.tcode == p.tcode
    && (q.park.beforeIssue || (q.park == .running && (q.lastIssue == p.lastIssue || decide (p.width < q.width))))

/-- What a ready part's turn comes to: it issues, or it parks or fuses before its issue. -/
inductive Preview where
  | issues | parks | nothing
  deriving DecidableEq, Repr

def State.preview (s : State) (r : PartRef) (p : Part) : Preview :=
  match nextOf (s.issueTurn r) with
  | none => .nothing
  | some s' =>
    match (s'.wave? r.key).bind (fun w => w.quadPart r.base) with
    | none => .issues
    | some q => if !stays p q then .issues else if q.park = p.park ∧ q.width = p.width then .nothing else .parks

/-- The core selects: its die is not halted, and its cluster is awake (12 R296, 17 R376). -/
def State.selects (s : State) (core : Nat) : Bool := !(s.die (dieOf core)).halted && decide ((s.die (dieOf core)).selectFrom ≤ s.dcc)
  && (s.cluster (clusterOf core)).state == .awake

/-- Ready parts of selecting cores. -/
def State.readyParts (s : State) : List (PartRef × Wave × Part) := s.allParts.filter (fun e => s.selects e.1.core && s.ready e.1.core e.2.2)

/-! ### Selection (R70, R71) -/

inductive Pipe where
  | alu | fp64 | sfu | cross | mem | async | sync | gfx | uniform | free
  deriving DecidableEq, Repr

/-- The pipe of an instruction, from its opcode and element types. -/
def pipeOf (i : Instr) : Pipe :=
  match encode i with
  | [] => .free
  | w0 :: xs =>
    let op := (opOf w0).toNat
    let x := xs.head?.map xaOf
    let ty := match x with | some x => x.ty.toNat | none => 3
    if op < 0x20 then .free
    else if op < 0x40 then .uniform
    else if op < 0x60 then .alu
    else if op < 0x80 then
      if ty = 6 then .fp64
      else if op = 0x67 ∨ op = 0x68 ∨ (0x6B ≤ op ∧ op ≤ 0x6E) then .sfu
      else if (op = 0x69 ∨ op = 0x6A) ∧ (ty = 3 ∨ ty = 4) then .sfu
      else .alu
    else if op < 0x90 then
      let sub := match x with | some x => x.sub.toNat | none => 0
      if op = 0x80 ∧ (ty = 6 ∨ sub = 6) then .fp64 else .alu
    else if op < 0xA0 then .cross
    else if op < 0xC0 then .mem
    else if op < 0xD0 then .async
    else if op < 0xE0 then .sync
    else if op = 0xE3 then .alu
    else if op < 0xF0 then .gfx
    else .free

/-- A candidate: its part, its quads in the partition, its pipe, and whether it fails a check before issue (R114). -/
structure Cand where
  ref : PartRef
  partition : Nat
  quads : List Nat
  pipe : Pipe
  prio : Nat
  last : Nat
  deriving DecidableEq, Repr

/-- A part as it would be in no handler and with a handler of its own, so that each trap it takes shows, and with every count at its
limit, so that an instruction of a counted class parks behind its checks (R69). -/
def Part.probed (p : Part) : Part :=
  let full := List.replicate 255 0
  { p with tcode := 0, tframe := none, regs := { p.regs with handler := 4 }, ldOps := full, stOps := full, cpOps := full, mxOps := full }

/-- The instruction of a part fails a check of R114 before its issue. The ILLEGAL of a `fork` is none of them: it comes as the fork
executes (R41), and every other instruction that its execution can stop so is of a counted class or takes no pipe. -/
def State.failsCheck (s : State) (r : PartRef) (i : Instr) : Bool :=
  let isFork := match i with | .fork _ => true | _ => false
  match (nextOf ((s.updPart r Part.probed).issueTurn r)).bind (fun t => t.part? r) with
  | some q => (q.tcode.toNat == tcIllegal && !isFork) || q.tcode.toNat == tcPriv || q.tcode.toNat == tcRegbound || q.tcode.toNat == tcGate
  | none => false

/-- The pipe of a ready part that does not wait in the interlock: R114 makes one that fails a check a candidate no earlier than the
result timing of its predecessor allows, and it takes no pipe. A word that decodes to no instruction names no registers: it waits for
every result in the part's pipes (DEDUCED, notes/assumptions/7.md). -/
def State.candPipe (s : State) (r : PartRef) (p : Part) : Option Pipe :=
  match (s.fetch r.core p.regs.asid p.pc).2 with
  | .instr i =>
    if (match s.ctx? r with | some c => s.stalled c i | none => false) then none
    else some (if s.failsCheck r i then .free else pipeOf i)
  | _ => if p.busy.any (fun e => decide (s.dcc < e.2)) then none else some .free

/-- The classes that the power filter strikes in a cluster (17 R369). -/
def Cluster.strikes (c : Cluster) (p : Pipe) : Bool :=
  let low := decide (c.allow < -(c.floor.toNat : Int)) || c.struckAll
  match p with
  | .fp64 => decide (c.allow < 0) || c.struckAll
  | .alu => low
  | .sfu => low
  | .cross => low
  | _ => false

/-- Candidates of a core, best first. The order is that of R70 alone: a ready part of a lower launch priority on the same quads may wait
longer than the 1,024 cycles of 02 R47, which R70 and R50 override (DESIGN CHOICE, notes/assumptions/56.md). -/
def State.candidates (s : State) (core : Nat) : List Cand :=
  let ps := s.readyParts.filter (fun e => e.1.core == core && s.preview e.1 e.2.2 == .issues)
  let cs := ps.filterMap (fun e => (s.candPipe e.1 e.2.2).map (fun pipe =>
    { ref := e.1, partition := e.2.1.partition
      quads := (List.range (e.2.2.width / 4)).map (fun q => e.2.1.quad0 + e.2.2.base / 4 + q)
      pipe := pipe, prio := match s.launch? e.2.1.launch with | some l => l.prio | none => 0
      last := e.2.2.lastIssue : Cand }))
  sortBy (fun a b =>
    if a.prio ≠ b.prio then decide (b.prio < a.prio)
    else if a.last ≠ b.last then decide (a.last < b.last)
    else if a.ref.slot ≠ b.ref.slot then decide (a.ref.slot < b.ref.slot)
    else decide (a.ref.base ≤ b.ref.base)) (cs.filter (fun c => !(s.cluster (clusterOf core)).strikes c.pipe))

/-- Pipe use of a partition in this cycle. -/
structure PipeUse where
  quads : List Nat
  alu : Nat
  fp64 : Nat
  sfu : Nat
  ones : List Pipe
  deriving DecidableEq, Repr

/-- A candidate fits the quads and the pipe capacity that are left. -/
def State.fits (s : State) (core part : Nat) (u : PipeUse) (c : Cand) : Bool :=
  let k := s.core core
  let n := c.quads.length
  c.quads.all (fun q => !u.quads.contains q) &&
  (match c.pipe with
    | .alu => decide (u.alu + n ≤ 16)
    | .fp64 => decide (getT 0 k.fpBusy part ≤ s.dcc) && (decide (u.fp64 + n ≤ 8) || u.fp64 == 0)
    | .sfu => decide (getT 0 k.sfuBusy part ≤ s.dcc) && (decide (u.sfu + n ≤ 4) || u.sfu == 0)
    | .mem => decide (getT 0 k.memBusy part ≤ s.dcc) && !u.ones.contains .mem
    | .free => true
    | p => !u.ones.contains p)

def PipeUse.add (u : PipeUse) (c : Cand) : PipeUse :=
  let n := c.quads.length
  let u := { u with quads := u.quads ++ c.quads }
  match c.pipe with
  | .alu => { u with alu := u.alu + n }
  | .fp64 => { u with fp64 := u.fp64 + n }
  | .sfu => { u with sfu := u.sfu + n }
  | p => { u with ones := p :: u.ones }

/-- Takes candidates in order while they fit. -/
def State.choose (s : State) (core part : Nat) : List Cand → PipeUse → List Cand
  | [], _ => []
  | c :: r, u => if s.fits core part u c then c :: s.choose core part r (u.add c) else s.choose core part r u

/-- The selections of a core's four partitions. -/
def State.selection (s : State) (core : Nat) : List Cand :=
  let cs := s.candidates core
  (List.range 4).flatMap (fun part =>
    s.choose core part (cs.filter (fun c => c.partition == part)) { quads := [], alu := 0, fp64 := 0, sfu := 0, ones := [] })

/-- The debit of a candidate (17 R368). -/
def Cluster.weight (k : Cluster) (c : Cand) : Nat :=
  match c.pipe with
  | .fp64 => k.wf64.toNat * c.quads.length
  | .alu => k.walu.toNat * c.quads.length
  | .sfu => k.walu.toNat * c.quads.length
  | .cross => k.walu.toNat * c.quads.length
  | _ => 0

/-- Debits a chosen candidate, and holds the pipe that a wide one occupies for more than a cycle. -/
def State.takePipe (s : State) (c : Cand) : State :=
  let n := c.quads.length
  let s := s.updCluster (clusterOf c.ref.core) (fun k => { k with debit := k.debit + k.weight c })
  match c.pipe with
  | .fp64 => s.updCore c.ref.core (fun k => { k with fpBusy := putT k.fpBusy c.partition (s.dcc + (n + 7) / 8) })
  | .sfu => s.updCore c.ref.core (fun k => { k with sfuBusy := putT k.sfuBusy c.partition (s.dcc + (n + 3) / 4) })
  | _ => s

/-- Cores that hold a wave, in increasing id. -/
def State.liveCores (s : State) : List Nat :=
  sortBy (fun a b => decide (a ≤ b)) (s.waves.foldl (fun l (e : Nat × Wave) => addNew l e.2.core) [])

/-! ### What becomes due -/

/-- Inputs of the outside world whose cycle has come: the first of them. -/
def State.inputDue (s : State) : Option Input := (s.inputs.find? (fun e => decide (e.1 ≤ s.dcc))).map Prod.snd
def dropInput (dcc : Nat) : List (Nat × Input) → List (Nat × Input)
  | [] => []
  | e :: r => if e.1 ≤ dcc then r else e :: dropInput dcc r

/-- Events of dies, clusters, banks and pins. -/
def State.unitEvents (s : State) : List Event :=
  (s.dies.filter (fun e => match e.2.haltAt with | some t => decide (t ≤ s.dcc) | none => false)).map (fun e => .dieHalt e.1)
  ++ (s.clusters.filter (fun e => s.wakeDue e.1)).map (fun e => .clusterAwake e.1)
  ++ (s.banks.filter (fun e => match e.2.wake with | some t => decide (t ≤ s.dcc) | none => false)).map (fun e => .bankWakeComplete e.1)
  ++ (s.banks.filter (fun e => e.2.wake.isNone && !e.2.drowsy && decide (e.2.last + 4096 ≤ s.dcc))).map (fun e => .bankDrowsy e.1)
  ++ (s.pins.filter s.pinExpired).map (fun p => .pinTimeout p.line)
  ++ (s.walks.filter s.walkReady).map (fun w => .pageWalkComplete w.id)

/-- The event that an operation in flight calls for, if any. -/
def State.opEvent (s : State) (o : MemOp) : Option Event :=
  let ends : Option Event :=
    if o.accs.any (Access.returned s.dcc) || s.opOver o then some (if o.cls = .st then .stCompletion o.id else .ldCompletion o.id) else none
  match o.kind with
  | .qenq _ => if s.queueDue o then some (.queueEnqueueRequest o.id) else ends
  | .qdeq _ => if s.queueDue o then some (.queueDequeueRequest o.id) else ends
  | .chrecv _ _ _ _ _ => if s.receiveDue o then some (.sliceRequest o.id) else ends
  | .chsend _ _ => if o.acted && o.parked && decide (o.arrival ≤ s.dcc) then some (.channelMessageArrival o.id) else ends
  | .output _ => if s.outputDue o then some (.stCompletion o.id) else ends
  | .unit _ _ _ _ => if s.unitDue o then some (.ldCompletion o.id) else ends
  | _ =>
    if s.releaseDueAt o then some (if o.cls = .st then .stCompletion o.id else .ldCompletion o.id)
    else if o.kind.plain && o.accs.any (s.canPerform o) then
      some (if o.accs.all (fun a => !s.canPerform o a || a.l1) then (if o.cls = .st then .stCompletion o.id else .ldCompletion o.id)
        else .sliceRequest o.id)
    else ends

/-- Events of the engines. -/
def State.engineEvents (s : State) : List Event :=
  s.cores.flatMap (fun e =>
    (e.2.copyQ.filter (s.copyDue e.1)).map (fun o => .tcopyComplete o.id)
    ++ (e.2.matrixQ.filter (s.coopReady e.1)).map (fun o => .coopMmaRelease o.id)
    ++ (e.2.matrixQ.filter s.deliverDue).map (fun o => .mmaKstepDelivery o.id)
    ++ (e.2.matrixQ.filter (s.mmaOver e.1)).map (fun o => if o.zeroOnly then .mmzComplete o.id else .mmaComplete o.id))

/-- Events of parked parts that end or advance a wait as a cycle begins. -/
def State.wakeEvents (s : State) : List Event :=
  (s.allParts.filter (fun e => !e.2.2.stopped)).flatMap (fun e =>
    let r := e.1
    (if s.sleepDue e.2.2 then [Event.sleepWake r] else [])
    ++ (if s.pwaitDue e.2.2 then [Event.pwaitWake r] else [])
    ++ (match s.ctx? r with
        | none => []
        | some c =>
          (if (s.forkDue c).isSome then [Event.forkPush r] else [])
          ++ (if s.joinDue c true then [Event.joinWake r] else [])
          ++ (if s.joinDue c false then [Event.joinReread r] else [])))

/-- Events of launches on their cores: channels, rectangle barriers, the quantum. -/
def State.launchEvents (s : State) (lid : Nat) (l : Launch) : List Event :=
  (l.chans.filter (fun e => match e.2.returning with | t :: _ => decide (t ≤ s.dcc) | [] => false)).map (fun e => .channelCreditReturn lid e.1)
  ++ (l.rbars.filter (fun e => (s.rbarGlobal lid (l.coreAt e.1)).isSome)).map (fun e => .rbarGlobalCompletion lid (l.coreAt e.1))
  ++ (if s.becomesDue l then [.launchDue lid] else [])
  ++ (if s.protectionOver l then [.protectionEnd lid] else [])

/-- Running launches, higher priority first, earlier acceptance first on a tie (R50). -/
def State.byPriority (s : State) : List (Nat × Launch) :=
  sortBy (fun a b => if a.2.prio ≠ b.2.prio then decide (b.2.prio < a.2.prio) else decide (a.1 ≤ b.1)) (s.launches.filter (fun e => e.2.running))
/-- The first events that a list of launches gives. -/
def firstEvents (f : Nat → Launch → List Event) (ls : List (Nat × Launch)) : List Event :=
  ((ls.map (fun e => f e.1 e.2)).find? (fun es => es != [])).getD []

/-- A launch's next pixel wave or group that a core takes. -/
def State.offerEvent (s : State) (lid : Nat) (l : Launch) : List Event :=
  let px := if l.pixels = [] then none else l.cores.find? (fun c => (s.pixelTaken lid c).isSome)
  let core := match px with
    | some c => some c
    | none => if l.ngroups ≤ l.admitted then none else l.offerOrder.find? (fun c => (s.offerTaken lid c).isSome)
  core.toList.map (fun c => .groupAdmission lid c)

/-- The work that cores start next: tasks of their own deques, then groups offered, then steals; of each, the launch of the highest
priority that has any (R42, R50, 11 R261). -/
def State.workEvents (s : State) : List Event :=
  let ls := s.byPriority
  match firstEvents (fun lid l => (l.cores.filter (fun c => (s.ownTask lid c).isSome)).map (fun c => Event.taskStart lid c)) ls with
  | [] =>
    (match firstEvents s.offerEvent ls with
      | [] => firstEvents (fun lid l => (l.cores.filter (fun c => s.stealTurn lid c)).map (fun c => Event.taskSteal lid c)) ls
      | es => es)
  | es => es

/-- A task's decrement can make a step. -/
def State.decDue (s : State) (e : JoinDec) : Bool :=
  match s.decAt e with
  | .wait => false
  | .pinned pas => s.retryDue (some e.core) pas || s.retryDue none pas
  | _ => true

/-- Everything that is due as a cycle begins. -/
def State.startEvents (s : State) : List Event :=
  s.unitEvents ++ s.ops.filterMap s.opEvent ++ s.engineEvents ++ s.wakeEvents
  ++ s.launches.flatMap (fun e => s.launchEvents e.1 e.2)
  ++ (s.joinDecs.filter s.decDue).map (fun e => .taskJoinDecrement e.group)
  ++ (s.sched.queues.filter (fun e => s.pollDue e.1)).map (fun e => .waitPoll e.1)
  ++ s.graphicsEvents ++ s.mailboxEvents ++ s.dumpEvents

/-- Ready parts that park or fuse before their issue. -/
def State.parkTurns (s : State) : List Turn :=
  (s.readyParts.filter (fun e => s.preview e.1 e.2.2 == .parks)).map (fun e => .issue e.1)

/-! ### Once a cycle -/

/-- The head command that the scheduler serves in this cycle (11 R257). -/
def State.servedEvent (s : State) : Option (Nat × Event) :=
  s.arbitrate.map (fun n =>
    (n, match s.headKind n with
      | some 1 => .launch n
      | some 2 => .wait n
      | some 3 => .signal n
      | some 4 => .graphload n
      | _ => .queueNop n))

/-- The limiters' steps, the voltage loops and the scheduler's turn. -/
def State.limitEvents (s : State) : List Event :=
  (s.clusters.filter (fun e => s.intervalEnds e.1)).map (fun e => .voltageInterval e.1)
  ++ (s.clusters.filter (fun e => e.2.sustained)).map (fun e => .pacSustainedStrike e.1)
  ++ ((List.range 32).filter s.slewBusy).map (fun c => .slewStep c)
  ++ (s.servedEvent.toList.map Prod.snd)

/-- Notes the queue served in its priority. -/
def State.noteServed (s : State) : State :=
  match s.servedEvent with
  | some (n, _) => { s with sched := { s.sched with served := putT s.sched.served (s.queue n).prio n } }
  | none => s

/-! ### The end of a cycle -/

/-- Confluence waits, forced-fuse failures and miss splits. -/
def State.splitEvents (s : State) : List Event :=
  (s.allParts.filter (fun e => !e.2.2.stopped)).flatMap (fun e =>
    (if s.confDue e.2.1 e.2.2 then [Event.confTimeout e.1] else [])
    ++ (if s.missDue e.2.2 then [Event.missSplit e.1] else [])
    ++ (if (s.fuseFailDue e.2.1 e.2.2).isSome then [Event.fusefail e.1] else []))

/-- Barrier phases, rectangle barriers, completions, saves and placements. -/
def State.endEvents (s : State) : List Event :=
  s.splitEvents
  ++ s.groups.flatMap (fun g => (g.2.barriers.filter (fun b => s.phaseOver g.1 b.1)).map (fun b => .barrierPhaseComplete g.1 b.1))
  ++ s.launches.flatMap (fun l => (l.2.rbars.filter (fun r => s.rbarOver l.1 (l.2.coreAt r.1))).map
      (fun r => .rbarLocalCompletion l.1 (l.2.coreAt r.1)))
  ++ s.launches.flatMap (fun l => (l.2.rbars.filter (fun e => match e.2.report with | some (_, _, t) => decide (t ≤ s.dcc) | none => false)).map
      (fun e => .rbarReport l.1 (l.2.coreAt e.1)))
  ++ (s.launches.filter (fun l => s.endDue l.1 l.2)).map (fun l => .launchCompletion l.1)
  ++ (s.launches.filter (fun l => s.forcedDue l.1)).map (fun l => .forcedSave l.1)
  ++ (s.launches.filter (fun l => s.victimDue l.1)).map (fun l => .victimRelease l.1)

/-- The first waiting launch that can be placed or restored. -/
def State.placeEvent (s : State) : List Event :=
  match s.waiting.find? (fun e => !s.blocked e) with
  | some (lid, l) => [if l.at_ = .saved then .launchRestore lid else .launchPlacement lid]
  | none => []

def State.gatingEvents (s : State) : List Event :=
  (s.clusters.filter (fun e => s.gatingDue e.1)).map (fun e => .gatingStart e.1)
  ++ (s.clusters.filter (fun e => s.commitDue e.1)).map (fun e => .gatingCommit e.1)

/-- The last of a cycle: the choice of victims, the grants and deadlocks of claims, and the debits. -/
def State.closeEvents (s : State) : List Event :=
  (match s.firstBlocked with
    | some (lid, l) => if s.victims lid l = [] then [] else [.preemptVictimChoice lid]
    | none => [])
  ++ (s.liveCores.filter (fun c => s.claims c != [])).flatMap (fun c => [.claimGrant c, .claimAging c])
  ++ (s.groups.filter (fun g => (s.groupWaves g.1).any (fun w => w.parts.any (fun p => claimPark p.park)))).map (fun g => .claimDeadlock g.1)
  ++ (s.clusters.filter (fun e => e.2.allowanceBusy)).map (fun e => .allowanceUpdate e.1)

/-- The next device cycle begins: pool counts are kept for POOL reads, idle and halted cycles are counted, the scratch of ended groups
is free, gating write-backs are sent, and write-backs, prefetches and failures that arrive act. -/
def State.nextCycle (s : State) : State :=
  let s := s.returnLate
  let s := { s with
    cores := s.cores.map (fun (e : Nat × Core) => (e.1, { e.2 with poolPrev := e.2.pool }))
    waves := s.waves.map (fun (e : Nat × Wave) =>
      if e.2.pend && (s.die (dieOf e.2.core)).halted then (e.1, { e.2 with haltedFor := e.2.haltedFor + 1 }) else e)
    clusters := s.clusters.map (fun (e : Nat × Cluster) =>
      (e.1, if e.2.state = PowerState.awake then { e.2 with idle := if s.clusterIdle e.1 then e.2.idle + 1 else 0 } else e.2)) }
  let s := { s with dcc := s.dcc + 1, cyclePhase := .start }
  let s := (s.clusters.filter (fun e => e.2.wbs != [])).foldl (fun (s : State) (e : Nat × Cluster) => s.gatingTick e.1) s
  s.landBacks.noteGating.landFills.landPosts.landPrefetches.landFailures.refillAll

/-! ### The plan -/

def State.withEvents (s : State) (es : List Event) : State := { s with agenda := es.map Turn.event }

/-- What follows when no turn is left. -/
def State.plan (s : State) : State :=
  match s.cyclePhase with
  | .start =>
    match s.inputDue with
    | some i => { s with inputs := dropInput s.dcc s.inputs, agenda := [.input i] }
    | none =>
      match s.startEvents, s.workEvents with
      | [], [] =>
        let s := s.settlePaths
        match s.parkTurns with
        | [] => { (s.withEvents s.limitEvents).noteServed with cyclePhase := .limits }
        | ts => { s with agenda := ts }
      | [], es => s.withEvents es
      | es, _ => s.withEvents es
  | .limits =>
    let cs := s.liveCores.flatMap s.selection
    { cs.foldl State.takePipe s with agenda := cs.map (fun c => .issue c.ref), cyclePhase := .selected }
  | .selected => { s.settlePaths with cyclePhase := .ending }
  | .ending =>
    match s.endEvents, s.placeEvent, s.gatingEvents with
    | [], [], [] => let s := s.settlePaths; { s.withEvents s.closeEvents with cyclePhase := .closing }
    | [], [], es => s.withEvents es
    | [], es, _ => s.withEvents es
    | es, _, _ => s.withEvents es
  | .closing => s.nextCycle

/-! ### A turn -/

/-- Lines that bytes touch, by one address of each. -/
def linesTouched (pa n : Nat) : List Nat := (List.range ((pa % 128 + n + 127) / 128)).map (fun i => (pa / 128 + i) * 128)

/-- A write by another agent at its slices (09 R228): it is refused while a line of it is pinned, and sent again (R221). -/
def State.agentWrite (s : State) (src unit pa : Nat) (bytes : List Byte) : State :=
  match s.pinnedIn none (linesTouched pa bytes.length) with
  | [] => s.putLong src unit pa bytes
  | ps => { s.refuseAll ps with inputs := (s.dcc + 1, .write src unit pa bytes) :: s.inputs }

/-- What the outside world does: an event, a write by another agent, an error, a mask of the host's. -/
def State.takeInput (s : State) : Input → Out
  | .event e => e.run s
  | .write src unit pa bytes => .next (s.agentWrite src unit pa bytes)
  | .corrected d => .next (s.countCorrected d)
  | .tlbError level unit asid page => .next (s.tlbDiscard level unit asid page)
  | .msixMask fn vec masked => .next (if s.answers then s.updPkg (fun p => p.maskMsix fn vec masked) else s)
  | .sched t off bytes =>
    .next (if s.answers ∧ off + bytes.length ≤ 1048576 then { s with sched := { s.sched with mem := writeBytes s.sched.mem (schedKey t off) bytes } } else s)
  | .ecc r detail taddr => .next (s.eccHit r detail taddr)

/-- One turn of a device cycle. -/
def State.runTurn (s : State) : Turn → Out
  | .issue r => s.issueTurn r
  | .event e => e.run s
  | .input i => s.takeInput i

/-! ### A program in place -/

/-- Places the words of an instruction where a part about to issue fetches them, if its page is there. -/
def State.patchFetch (s : State) (bytes : List Byte) : Option State :=
  match s.agenda with
  | .issue r :: _ =>
    match s.part? r with
    | none => none
    | some p =>
      match s.walk (dieOf r.core) p.regs.asid p.pc.toNat with
      | .leaf pte l =>
        let pa := paOf pte l p.pc.toNat
        if (s.leafFault .fetch pte pa).isNone ∧ p.pc.toNat % 2 ^ l + bytes.length ≤ 2 ^ l then
          some { s with mem := writeBytes s.mem pa bytes }
        else none
      | _ => none
  | _ => none

/-- The kernel that a placed instruction runs under: one 64-lane wave, all registers, barriers and tiles. -/
def placedKernel : Kernel :=
  { seg := 0x10000, kidx := 0, entry := 0x10000, cm := false, width := 64, allot := 256, nbar := 16, nacc := 16, scr := 16, lanes := 64
    chans := [], privseg := true }

/-- The launch that a placed instruction belongs to: core 0, address space 1. -/
def placedLaunch : Launch :=
  { id := 0, queue := 0, prio := 0, asid := 1, domain := 0, tenant := 0, seq := 0, kernel := placedKernel, classes := [], logw := 0, logh := 0
    any := false, x0 := 0, y0 := 0, cor := false, ngroups := 1, ptimeout := 65536, param := 0, arg := 0, trap := 0, at_ := .placed
    acceptedAt := 0, placeFrom := 0, waited := 0, due := false, protectedUntil := none, ready := 0, admitted := 1, exitedGroups := 0, offerAt := 0
    chanCores := [0], deques := [], chans := [], rbars := [], node := none, draw := none, image := none, pixels := [], coopFails := [], stealing := []
    numbered := 0, relAt := none }

/-- Its group, at the whole of the core's tiles. -/
def placedGroup : Group :=
  { launch := 0, num := 0, core := 0, kind := .ordinary, cls := 0, scrBase := 0, scr := 16, t0 := 0, nacc := 16, nbar := 16, nwaves := 1
    slots := [0], barriers := [], engineTiles := [], coop := 0, mesh := 0, verts := [], tris := [], dirtyLines := [] }

/-- Its wave: slot 0, one part at the entry, ready to issue. -/
def placedWave (now : Nat) : Wave :=
  { core := 0, slot := 0, partition := 0, quad0 := 0, width := 64, widx := 0, group := 0, launch := 0, admission := 1, allot := 256
    timeout := 65536, timeoutBy := none, pend := false, cm := false, exited := 0, helper := 0, off := 0, preds := [], vregs := [], rays := [], raysAtRegion := []
    tcopies := 0, parts := [newPart 64 0x10000 (admissionRegs placedLaunch placedKernel 0 []) now 0], latent := [], mprims := []
    pixel := none, divided := false, dirty := [], saved := false, haltedFor := 0 }

/-- Page tables of address space 1 with one page, at 0x10000, that may be read, written and executed, and the bytes at its
start. -/
def placedTables (mem : List Host.Cell) (asidt : Nat) (bytes : List Byte) : List Host.Cell :=
  let put := fun (m : List Host.Cell) (a v : Nat) => writeBytes m a (bytesOfNat 8 v)
  let m := put mem (asidt + 8) 0x40001
  let m := put m 0x40000 0x80001
  let m := put m 0x80000 0x100001
  let m := put m 0x100000 0x100101
  let m := put m 0x100108 0x11001F
  writeBytes m 0x110000 bytes

/-- The machine with one part that issues an instruction at its next step (notes/assumptions/5.md). -/
def State.withProgram (s : State) (bytes : List Byte) : State :=
  { s with
    mem := placedTables s.mem (s.die 0).asidt.toNat bytes
    launches := putT s.launches 0 placedLaunch
    groups := putT s.groups 0 placedGroup
    waves := putT s.waves 0 (placedWave s.dcc)
    cores := setT Core.reset s.cores 0 (debitBanks { s.core 0 with l1tlb := [], coreTlb := [] } ((placedWave s.dcc).banks 0 64) 256)
    clusters := setT (Cluster.reset 0) s.clusters 0 { s.cluster 0 with state := .awake }
    dies := setT Die.reset s.dies 0 { s.die 0 with llTlb := [], halted := false, selectFrom := 0 }
    nextId := max s.nextId 2
    agenda := [.issue { core := 0, slot := 0, base := 0 }] }

/-- An instruction of the opcode table stored where the next step fetches. -/
def State.placeWord (s : State) (nbits w : Nat) : State :=
  let v := w % 2 ^ nbits
  let bytes := bytesOfNat 8 v
  (s.patchFetch bytes).getD (s.withProgram bytes)

end Sys2Proof.Machine
end

