-- ==== Sys2Proof/Machine/Step.lean ====
section
/-! DEFINITION. One step of the machine: the next turn of the device cycle, or the plan of what follows. -/

namespace Sys2Proof.Machine

/-- One step: the turn at the head of the agenda runs; with none left, the plan sets the next ones or ends the cycle. -/
def step (s : State) : Host.Outcome State Fault Refusal :=
  match s.agenda with
  | [] => .next s.plan
  | t :: rest => { s with agenda := rest }.runTurn t

/-- The machine whose next step fetches and runs the instruction of a table row's bits. -/
def State.withFetchWord (s : State) (nbits w : Nat) : State := s.placeWord nbits w

end Sys2Proof.Machine
end

