-- ==== Sys2Proof/Safety.lean ====
section
/-! DEFINITION. What counts as a safe state and a safe step, in the terms the claims use. -/

namespace Sys2Proof.Machine

/-! ### States -/

/-- The memories stand in their one canonical form: rising addresses, no byte listed that an unlisted address reads as. -/
def State.MemOk (s : State) : Prop :=
  Memory.wf s.mem = true ∧ Memory.wf s.scratch = true ∧ Memory.wf s.acc = true ∧ Memory.wf s.sched.mem = true

/-! ### Steps -/

/-- A step that goes on: it ends in a next state. -/
def GoesOn (o : Out) : Prop := ∃ t, o = .next t

/-- Nothing holds an instruction back before its issue: at its S marker no load is outstanding and none is rejected (05 R116,
08 R191), no acquire holds back a memory instruction (09 R216), its counted class has room (03 R69), and at a forced-fuse
point the part holds one path and has its effective width (03 R64). -/
structure Free (c : Ctx) (sm mem : Bool) (cls : Option Cls) (eff : Option Nat) : Prop where
  marker : sm = true → c.part.ldOps = [] ∧ c.part.heldOf [.ld] = none
  acquires : mem = true → c.part.acquiring = []
  room : ∀ k, cls = some k → c.part.count k < 255
  fused : ∀ w, eff = some w → c.part.waiting = 0 ∧ w ≤ c.part.width

/-- An instruction that is no memory instruction, is not counted and is no forced-fuse point. -/
abbrev Plain (c : Ctx) (sm : Bool) : Prop := Free c sm false none none

/-- Vector operands that pass the checks of 04 R81: aligned, in their region and below ALLOT. -/
def OperandsOk (c : Ctx) (ops : List Vop) : Prop := checkVops ops c.wb c.allot = none

/-- `t` differs from `s` in one wave at most. -/
structure OnlyWave (c : Ctx) (s t : State) : Prop where
  state : t = { s with waves := t.waves }
  others : ∀ k, k ≠ c.ref.key → t.wave? k = s.wave? k

/-- The wave of `c` in `t`: `f` of the old one but for its vector registers and their save marks, and its parts, of which the
other parts are unchanged and the part of `c` is `p`. -/
structure WaveIs (c : Ctx) (t : State) (f : Wave → Wave) (p : Part) (w : Wave) : Prop where
  found : t.wave? c.ref.key = some w
  same : w = { f c.wave with vregs := w.vregs, dirty := w.dirty, parts := w.parts }
  part : w.part? c.ref.base = some p
  others : ∀ b, b ≠ c.ref.base → w.part? b = c.wave.part? b

/-- The part moves on behind an instruction of `len` bytes and may issue `d` cycles later; waiting lanes at that address join
it (03 R57). -/
def Part.pastIn (p : Part) (c : Ctx) (len d now : Nat) : Part := (p.moveTo (c.next len)).issued now d
/-- The same after one cycle. -/
abbrev Part.past (p : Part) (c : Ctx) (len now : Nat) : Part := p.pastIn c len 1 now

/-- No vector register of the wave changes. -/
def SameVregs (w w' : Wave) : Prop := w'.vregs = w.vregs ∧ w'.dirty = w.dirty

/-- Vector registers after writes of values to elements of `d` in some lanes: each element holds its value, the least
significant word first, and every other register of every lane at every gate depth is unchanged. -/
structure Wrote (c : Ctx) (act : Lanes) (d : Vop) (val : Nat → Nat → Nat → Nat) (w : Wave) : Prop where
  here : ∀ l < 64, act.getLsbD l = true → ∀ e ∈ d.elems, ∀ k < d.unit,
    w.v c.part.depth l (d.reg c.wb e.1 e.2 + k) = BitVec.ofNat 32 (val l e.1 e.2 / 2 ^ (32 * k))
  others : ∀ depth l n, l < 64 → n < 512 →
    (depth ≠ c.part.depth ∨ act.getLsbD l = false ∨ ∀ e ∈ d.elems, ∀ k < d.unit, n ≠ d.reg c.wb e.1 e.2 + k) →
    w.v depth l n = c.wave.v depth l n

/-- The sticky flags after an instruction: a bit is set when it was, or when a lane that is no helper raises it (07 R160,
20 R433). -/
def FlagsAre (c : Ctx) (act : Lanes) (raised : Nat → Nat → Bool) (fp : BitVec 5) : Prop :=
  ∀ b < 5, fp.getLsbD b = (c.part.regs.fpstat.getLsbD b
    || (lanesOf act).any (fun l => !c.wave.helper.getLsbD l && raised l b))

/-! ### Results -/

/-- A uniform instruction of `len` bytes that sets s(d): nothing else changes but the PC (22 R478-R480). -/
def UniformResult (i : Instr) (sm : Bool) (len d : Nat) (val : Ctx → W64) : Prop :=
  ∀ (s : State) (c : Ctx), s.issuing = some c → Plain c sm →
    ∃ (t : State) (w : Wave) (p : Part), exec i s = .next t ∧ OnlyWave c s t ∧ SameVregs c.wave w ∧ WaveIs c t id (p.past c len s.dcc) w
      ∧ p = { c.part with regs := { c.part.regs with sregs := p.regs.sregs } }
      ∧ ∀ n, p.regs.sreg n = if n = d then val c else c.sreg n

/-- A vector instruction of `len` bytes that sets D in its active lanes and the sticky flags: nothing else changes but the
PC. -/
def VectorResult (i : Instr) (sm : Bool) (len : Nat) (o : XaForm) (srcs : Ctx → List Src) (f : Ctx → Nat → Nat → Nat → FRes) : Prop :=
  ∀ (s : State) (c : Ctx), s.issuing = some c → Plain c sm → OperandsOk c (o.d c :: (srcs c).flatMap Src.vops) →
    ∃ (t : State) (w : Wave) (p : Part), exec i s = .next t ∧ OnlyWave c s t ∧ WaveIs c t id (p.past c len s.dcc) w
      ∧ Wrote c (c.xaActive o.x) (o.d c) (fun l a b => (f c l a b).bits) w
      ∧ p = { c.part with regs := { c.part.regs with fpstat := p.regs.fpstat }, raised := p.raised }
      ∧ FlagsAre c (c.xaActive o.x) (fun l b => (o.d c).elems.any (fun e => (f c l e.1 e.2).fl.getLsbD b)) p.regs.fpstat

/-- A compare of `len` bytes that sets predicate n in its active lanes and the sticky flags; p0 stays true (04 R84). -/
def CompareResult (i : Instr) (sm : Bool) (len n : Nat) (x : XaWord) (srcs : Ctx → List Src) (f : Ctx → Nat → Bool × Flags) : Prop :=
  ∀ (s : State) (c : Ctx), s.issuing = some c → Plain c sm → OperandsOk c ((srcs c).flatMap Src.vops) →
    ∃ (t : State) (w : Wave) (p : Part), exec i s = .next t ∧ OnlyWave c s t ∧ SameVregs c.wave w
      ∧ WaveIs c t (fun v => { v with preds := w.preds }) (p.past c len s.dcc) w
      ∧ (∀ m l, l < 64 → (w.p m).getLsbD l =
          if m = n ∧ m ≠ 0 ∧ (c.xaActive x).getLsbD l = true then (f c l).1 else (c.wave.p m).getLsbD l)
      ∧ p = { c.part with regs := { c.part.regs with fpstat := p.regs.fpstat }, raised := p.raised }
      ∧ FlagsAre c (c.xaActive x) (fun l b => (f c l).2.getLsbD b) p.regs.fpstat

/-! ### Shapes of vector instructions -/

/-- A result without flags. -/
def NoFlags (v : Nat) : FRes := { bits := v, fl := 0 }

/-- D := f(A, B) on numbers of the type, wrapped or with SAT clamped to it (07 R161). -/
def IntTwoAt (i : Instr) (r : RWord) (x : XaWord) (len : Nat) (f : Int → Int → Int) : Prop :=
  VectorResult i r.s len (intForm r x) (fun c => [(intForm r x).a c, (intForm r x).b c]) (fun c l a b =>
    NoFlags (fitInt x.ty.toNat x.sat (f (intOf x.ty.toNat (c.src (tyWidth x.ty.toNat) l ((intForm r x).a c) a b))
      (intOf x.ty.toNat (c.src (tyWidth x.ty.toNat) l ((intForm r x).b c) a b)))))

/-- The same for an instruction without and with its extension word; `ty` is the type an absent word stands for (05 R112). -/
def IntTwo (short : RWord → Instr) (ext : RWord → XaWord → Instr) (ty : Nat) (f : XaWord → Int → Int → Int) : Prop :=
  ∀ r x, IntTwoAt (short r) r (xaDefault ty) 4 (f (xaDefault ty)) ∧ IntTwoAt (ext r x) r x 8 (f x)

/-- D := f(A, B) on bit patterns of the type's width. -/
def BitTwoAt (i : Instr) (r : RWord) (x : XaWord) (len : Nat) (f : Nat → Nat → Nat → Nat) : Prop :=
  VectorResult i r.s len (intForm r x) (fun c => [(intForm r x).a c, (intForm r x).b c]) (fun c l a b =>
    NoFlags (f (tyWidth x.ty.toNat) (c.src (tyWidth x.ty.toNat) l ((intForm r x).a c) a b)
      (c.src (tyWidth x.ty.toNat) l ((intForm r x).b c) a b)))

def BitTwo (short : RWord → Instr) (ext : RWord → XaWord → Instr) (ty : Nat) (f : XaWord → Nat → Nat → Nat → Nat) : Prop :=
  ∀ r x, BitTwoAt (short r) r (xaDefault ty) 4 (f (xaDefault ty)) ∧ BitTwoAt (ext r x) r x 8 (f x)

/-- D := f(A) on bit patterns of the type's width. -/
def BitOneAt (i : Instr) (r : RWord) (x : XaWord) (len : Nat) (f : Nat → Nat → Nat) : Prop :=
  VectorResult i r.s len (intForm r x) (fun c => [(intForm r x).a c]) (fun c l a b =>
    NoFlags (f (tyWidth x.ty.toNat) (c.src (tyWidth x.ty.toNat) l ((intForm r x).a c) a b)))

def BitOne (short : RWord → Instr) (ext : RWord → XaWord → Instr) (ty : Nat) (f : XaWord → Nat → Nat → Nat) : Prop :=
  ∀ r x, BitOneAt (short r) r (xaDefault ty) 4 (f (xaDefault ty)) ∧ BitOneAt (ext r x) r x 8 (f x)

/-- D := f(A, B) and its flags, in the type's format, under the rounding mode and FTZ (20 R433). -/
def FloatTwoAt (i : Instr) (r : RWord) (x : XaWord) (len : Nat) (f : Fmt → Nat → Bool → Nat → Nat → FRes) : Prop :=
  VectorResult i r.s len (intForm r x) (fun c => [(intForm r x).a c, (intForm r x).b c]) (fun c l a b =>
    f (fmtTy x.ty.toNat) (c.rm x.rm.toNat) c.ftz (c.src (tyWidth x.ty.toNat) l ((intForm r x).a c) a b)
      (c.src (tyWidth x.ty.toNat) l ((intForm r x).b c) a b))

def FloatTwo (short : RWord → Instr) (ext : RWord → XaWord → Instr) (f : Fmt → Nat → Bool → Nat → Nat → FRes) : Prop :=
  ∀ r x, FloatTwoAt (short r) r (xaDefault 3) 4 f ∧ FloatTwoAt (ext r x) r x 8 f

/-- D := f(A) and its flags. -/
def FloatOneAt (i : Instr) (r : RWord) (x : XaWord) (len : Nat) (f : Fmt → Nat → Bool → Nat → FRes) : Prop :=
  VectorResult i r.s len (intForm r x) (fun c => [(intForm r x).a c]) (fun c l a b =>
    f (fmtTy x.ty.toNat) (c.rm x.rm.toNat) c.ftz (c.src (tyWidth x.ty.toNat) l ((intForm r x).a c) a b))

def FloatOne (short : RWord → Instr) (ext : RWord → XaWord → Instr) (f : Fmt → Nat → Bool → Nat → FRes) : Prop :=
  ∀ r x, FloatOneAt (short r) r (xaDefault 3) 4 f ∧ FloatOneAt (ext r x) r x 8 f

/-! ### Conversions and cross-lane instructions -/

/-- A conversion of eight bytes: D and the sticky flags as a vector instruction, and AMAX folded with the magnitudes of its
float sources (07 R174). -/
def ConvertResult (i : Instr) (sm : Bool) (o : XaForm) (amax : Option Fmt) (f : Ctx → Nat → Nat → Nat → FRes) : Prop :=
  ∀ (s : State) (c : Ctx), s.issuing = some c → Plain c sm → OperandsOk c (o.d c :: (o.a c).vops) →
    let mags := fun (g : Fmt) => (lanesOf (c.xaActive o.x)).flatMap (fun l =>
      (o.d c).elems.map (fun e => amaxOf g (c.src g.width l (o.a c) e.1 e.2)))
    ∃ (t : State) (w : Wave) (p : Part) (fp : BitVec 5), exec i s = .next t ∧ OnlyWave c s t ∧ WaveIs c t id (p.past c 8 s.dcc) w
      ∧ Wrote c (c.xaActive o.x) (o.d c) (fun l a b => (f c l a b).bits) w
      ∧ p = { c.part with regs := foldAmax { c.part.regs with fpstat := fp } ((amax.map mags).getD []), raised := p.raised }
      ∧ FlagsAre c (c.xaActive o.x) (fun l b => (o.d c).elems.any (fun e => (f c l e.1 e.2).fl.getLsbD b)) fp

/-- An instruction whose whole effect lies in its wave: its ready states, the wave's other fields, its vector registers, and the
part before it moves on. -/
def WaveResult (i : Instr) (len : Nat) (ready : State → Ctx → Prop) (other : Ctx → Wave → Wave → Wave) (regs : Ctx → Wave → Prop)
    (part : Ctx → Part → Prop) : Prop :=
  ∀ (s : State) (c : Ctx), s.issuing = some c → ready s c →
    ∃ (t : State) (w : Wave) (p : Part), exec i s = .next t ∧ OnlyWave c s t ∧ WaveIs c t (other c w) (p.past c len s.dcc) w
      ∧ regs c w ∧ part c p

/-- Ready to issue a cross-lane instruction at a forced-fuse point of its effective width, with operands that pass their checks. -/
def CrossReady (sm : Bool) (x : XaWord) (ops : Ctx → List Vop) (_ : State) (c : Ctx) : Prop :=
  Free c sm false none (some (c.crossWidth x.mw)) ∧ OperandsOk c (ops c)

/-- The lanes on which reductions and votes act together: the part, or each half of sixteen in compatibility mode (16 R366). -/
def InGroup (c : Ctx) (g : Lanes) : Prop :=
  if c.wave.cm then ∃ h < c.part.width / 16, g = laneRange (c.part.base + 16 * h) 16 else g = laneRange c.part.base c.part.width

/-! ### Effects on the issuing part alone -/

/-- The part parked as the effect of its instruction. -/
def Part.parkedAtOnce (p : Part) (k : Park) (now : Nat) : Part :=
  { p with park := k, parkedAt := if p.park = k then p.parkedAt else now, lastIssue := if k.beforeIssue then p.lastIssue else now }

/-- An instruction whose whole effect is its part's: the part becomes `f`, and nothing else changes. -/
def PartResult (i : Instr) (ready : State → Ctx → Prop) (f : State → Ctx → Part) : Prop :=
  ∀ (s : State) (c : Ctx), s.issuing = some c → ready s c →
    ∃ (t : State) (w : Wave), exec i s = .next t ∧ OnlyWave c s t ∧ SameVregs c.wave w ∧ WaveIs c t id (f s c) w

/-- The part of `c` has entered its trap handler from `s` (12 R275): TSTAT, TADDR and TWORD are written, the trap frame holds
the resume address, WB, IX and the lanes set aside, WB and IX are zero, the PC is the handler's, and nothing else changes. -/
structure InHandler (c : Ctx) (s t : State) (code detail : Nat) (taddr resume : W64) (w : Wave) (p : Part) : Prop where
  only : OnlyWave c s t
  vregs : SameVregs c.wave w
  wave : WaveIs c t id p w
  part : p = { c.part with
    tcodeReg := BitVec.ofNat 8 code, tdetail := BitVec.ofNat 8 detail, restart := false, taddr := taddr
    tword := c.part.pc &&& 0x01FFFFFFFFFFFFFF
    tcode := BitVec.ofNat 8 code
    tframe := some { resume := resume, wb := c.part.regs.wb, ix0 := c.part.regs.ix0, ix1 := c.part.regs.ix1
                     aside := c.part.waiting, wrote := false, watch := code == 0x0D, entered := s.dcc }
    regs := { c.part.regs with wb := 0, ix0 := 0, ix1 := 0 }
    waiting := 0, pc := c.part.regs.handler, park := .running, lastIssue := s.dcc, notBefore := s.dcc + 12, watchSkip := false, relAt := none }

/-- A part that enters its handler for a trap: it runs none, and it stands in no gate call without a handler (12 R275, 13 R307). -/
def HandlerReady (c : Ctx) : Prop := c.part.tcode = 0 ∧ (c.part.frames = [] ∨ c.part.regs.handler ≠ 0)

/-- An instruction that takes a trap into the handler. -/
def TrapsWith (i : Instr) (ready : State → Ctx → Prop) (code : Nat) (detail : State → Ctx → Nat) (taddr : State → Ctx → W64)
    (resume : Ctx → W64) : Prop :=
  ∀ (s : State) (c : Ctx), s.issuing = some c → HandlerReady c → ready s c →
    ∃ (t : State) (w : Wave) (p : Part), exec i s = .next t ∧ InHandler c s t code (detail s c) (taddr s c) (resume c) w p

/-- An event of a part whose whole effect is that part's. -/
def EventResult (i : Instr) (r : PartRef) (ready : State → Ctx → Prop) (f : State → Ctx → Part) : Prop :=
  ∀ (s : State) (c : Ctx), s.ctx? r = some c → ready s c →
    ∃ (t : State) (w : Wave), exec i s = .next t ∧ OnlyWave c s t ∧ SameVregs c.wave w ∧ WaveIs c t id (f s c) w

/-! ### Operations in flight -/

/-- What an access is when it is issued: lane, address, bytes, and the data it carries. -/
def Access.asked (a : Access) : Nat × Nat × Nat × List Byte × List Byte := (a.lane, a.va, a.size, a.data, a.data2)

/-- `t` holds a new operation of the part, which counts it and stands behind its instruction; registers, memory and every
other part's state are as before. -/
structure Started (c : Ctx) (s t : State) (cls : Cls) (kind : OpKind) (len : Nat) (asked : List (Nat × Nat × Nat × List Byte × List Byte)) : Prop where
  op : ∃ o ∈ t.ops, o.id = s.nextId ∧ o.cls = cls ∧ o.kind = kind ∧ o.core = c.ref.core ∧ o.slot = c.ref.slot ∧ o.pc = c.part.pc
    ∧ o.accs.map Access.asked = asked
  older : ∀ o, o.id ≠ s.nextId → (o ∈ t.ops ↔ o ∈ s.ops)
  part : ∃ w p, t.wave? c.ref.key = some w ∧ w.part? c.ref.base = some p ∧ SameVregs c.wave w ∧ w.preds = c.wave.preds
    ∧ p.opsOf cls = c.part.opsOf cls ++ [s.nextId] ∧ p.pc = c.next len ∧ p.park = .running
    ∧ ∀ b, (w.part? b).map (fun q => q.regs) = (c.wave.part? b).map (fun q => q.regs)
  frame : t =
    { s with cores := t.cores, dies := t.dies, walks := t.walks, ops := t.ops, nextId := t.nextId, backs := t.backs, waves := t.waves }
  others : ∀ k, k ≠ c.ref.key → t.wave? k = s.wave? k

/-- Addresses a global access may have: 57 bits, aligned to its size (19 R399, 20 R445). -/
def AddressesOk (size : Nat) (vas : List Nat) : Prop := ∀ a ∈ vas, a < 2 ^ 57 ∧ a % size = 0

/-- No core watchpoint is set, or the part is past it (12 R293). -/
def Unwatched (s : State) (c : Ctx) : Prop :=
  c.part.tcode ≠ 0 ∨ c.part.watchSkip = true ∨ ∀ k < 4, (getT 0 (s.core c.ref.core).watch k).getLsbD 0 = false

/-- A release form finds nothing of the part to wait for before it issues (08 R195). -/
def ReleaseReady (s : State) (c : Ctx) (ord : Nat) : Prop :=
  2 ≤ ord → s.partLogged c.ref.core c.part = false ∧ c.part.heldOf [.st] = none

/-- The write-backs that a release of the part asks for have performed: those sent for it, or, where none was sent yet, there is
no dirty C-page sector to send and none of the core's is under way (09 R217). -/
def BacksGone (s : State) (c : Ctx) (scope : Nat) : Prop :=
  match c.part.relAt with
  | some n => s.backsDone c.ref.core n = true
  | none => (∀ b ∈ s.backs, b.core ≠ c.ref.core) ∧ (3 ≤ scope → ∀ l ∈ (s.core c.ref.core).l1, l.kind = 0 → l.dirty = 0)

/-- A release has nothing left to wait for: every earlier access of the part has performed, and so have its write-backs (09 R217). -/
structure Released (s : State) (c : Ctx) (scope : Nat) : Prop where
  drained : s.drained c.ref.core c.part = true
  backs : BacksGone s c scope

/-- A release that performs as it issues has nothing left to wait for, and no rejected store to deliver (09 R217, 08 R195). -/
def FullReleaseReady (s : State) (c : Ctx) (ord scope : Nat) : Prop := 2 ≤ ord → Released s c scope ∧ c.part.heldOf [.st] = none

/-- The part waits before its instruction for the write-backs of its release, which are under way (09 R217). -/
def ReleaseSent (s : State) (c : Ctx) (scope : Nat) (barrier : Bool) (t : State) : Prop :=
  ∃ w, t = { s.releaseL1 c.ref.core scope with waves := t.waves } ∧ (∀ k, k ≠ c.ref.key → t.wave? k = s.wave? k) ∧ SameVregs c.wave w
    ∧ WaveIs c t id (Part.parkedAtOnce { c.part with relAt := some t.nextId } (.on (.backs barrier)) s.dcc) w

/-- The side log has room for the pages that a store's accesses fault on (08 R194). -/
def LogRoom (s : State) (c : Ctx) (vas : List Nat) : Prop :=
  (s.logPages c.ref.core c.part.regs.asid vas).length ≤ s.logFree c.ref.core

/-- Lanes that a class-M instruction acts on, with their global addresses. -/
def laneAddrs (c : Ctx) (m : MWord) (x : XmWord) : List (Nat × Nat) := (lanesOf (c.xmActive x)).map (fun l => (l, c.globalAddr m x.off l))
/-- The same with scratch offsets. -/
def laneOffs (c : Ctx) (m : MWord) (x : XmWord) : List (Nat × Nat) := (lanesOf (c.xmActive x)).map (fun l => (l, c.scratchOff m x.off l))

/-- A state in which a lane-wise global instruction issues and completes its issue. -/
structure GlobalReady (m : MWord) (x : XmWord) (cls : Cls) (data : Vop) (stored : Ctx → List Nat) (s : State) (c : Ctx) : Prop where
  free : Free c m.s true (some cls) none
  operands : OperandsOk c (data :: (mOffset m).toList)
  release : ReleaseReady s c x.ord.toNat
  addresses : AddressesOk (szBytes x.sz) ((laneAddrs c m x).map Prod.snd)
  unwatched : Unwatched s c
  room : cls = .st → LogRoom s c (stored c)

/-- A state in which a scratch instruction issues: its offsets lie in the part's scratch, aligned (07 R177). -/
structure ScratchReady (m : MWord) (x : XmWord) (cls : Cls) (data : Vop) (s : State) (c : Ctx) : Prop where
  free : Free c m.s true (some cls) none
  operands : OperandsOk c (data :: (mOffset m).toList)
  release : FullReleaseReady s c x.ord.toNat x.scope.toNat
  offsets : ∀ o ∈ (laneOffs c m x).map Prod.snd, o + szBytes x.sz ≤ c.scratchArea.2 ∧ o % szBytes x.sz = 0

/-! ### Scheduler and launches -/

/-- The scheduler's queue `n` has consumed its head command, and no other queue has changed: HEAD is one more, the queue runs as before. -/
structure Consumed (n : Nat) (s t : State) : Prop where
  head : (t.queue n).head = (s.queue n).head + 1
  rest : (t.queue n).tail = (s.queue n).tail ∧ (t.queue n).en = (s.queue n).en ∧ (t.queue n).stop = (s.queue n).stop
    ∧ (t.queue n).code = (s.queue n).code ∧ (t.queue n).qpass = (s.queue n).qpass
  others : ∀ m, m ≠ n → t.queue m = s.queue m

/-- The pins are those of before, but for the count that a refused access starts (09 R222). -/
def SamePins (s t : State) : Prop :=
  t.pins.map (fun (p : Pin) => { p with refused := none }) = s.pins.map (fun (p : Pin) => { p with refused := none })

/-- Queue `n` has stopped with a code at its head command, which is not consumed; nothing else has changed (11 R258). -/
structure StoppedWith (n code : Nat) (s t : State) : Prop where
  only : t = { s with sched := { s.sched with queues := t.sched.queues } }
  queue : t.queue n = { s.queue n with stop := true, code := BitVec.ofNat 8 code, index := (s.queue n).head }
  others : ∀ m, m ≠ n → t.queue m = s.queue m

/-- A group of a launch stands on a core, newly admitted: its waves begin at an entry 16 cycles on with s0 and s1 given, every register and
predicate zero and its scratch and tiles clear (02 R31-R33, 04 R78). -/
structure Admitted (s t : State) (lid core : Nat) (entry s0 s1 : W64) : Prop where
  group : ∃ g, t.group? s.nextId = some g ∧ g.launch = lid ∧ g.core = core ∧ g.slots.length = g.nwaves ∧ g.barriers = [] ∧ g.engineTiles = []
    ∧ (∀ slot ∈ g.slots, ∃ w p, t.wave? (core * 128 + slot) = some w ∧ w.group = s.nextId ∧ w.launch = lid ∧ w.parts = [p]
      ∧ p.pc = entry ∧ p.notBefore = s.dcc + 16 ∧ p.park = .running ∧ p.regs.sreg 0 = s0 ∧ p.regs.sreg 1 = s1
      ∧ (∀ depth l n, w.v depth l n = 0) ∧ (∀ n, n ≠ 0 → w.p n = 0))
    ∧ (∀ a, readByte t.scratch a = if scratchKey core (g.scrBase * 8192) ≤ a ∧ a < scratchKey core ((g.scrBase + g.scr) * 8192) then 0 else readByte s.scratch a)
    ∧ (∀ a, readByte t.acc a = if accKey core g.t0 0 ≤ a ∧ a < accKey core (g.t0 + g.nacc) 0 then 0 else readByte s.acc a)
  memory : t.mem = s.mem

end Sys2Proof.Machine
end

