-- ==== Sys2Proof/Certificates/Slice0/Obligations.lean ====
section
/-! DEFINITION. The statements for the provers. -/

open Sys2Proof Sys2Proof.Machine

/-! ### Uniform and vector arithmetic: results, frames and completion -/

/-- Every uniform arithmetic, move, compare and select completes: s(D) takes the value of 22 R478, R479 or R480, every other
register, flag and byte of memory stays, and the part moves on. -/
def Obligations.UniformGroup : Prop :=
  (∀ u : UWord,
    let b := fun c : Ctx => if u.k then BitVec.ofNat 64 u.b.toNat else c.sreg u.b.toNat
    let a := fun c : Ctx => c.sreg u.a.toNat
    let d := u.d.toNat
    UniformResult (.sadd u) u.s 4 d (fun c => a c + b c)
    ∧ UniformResult (.ssub u) u.s 4 d (fun c => a c - b c)
    ∧ UniformResult (.smul u) u.s 4 d (fun c => a c * b c)
    ∧ UniformResult (.smulh u) u.s 4 d (fun c => BitVec.ofNat 64 ((a c).toNat * (b c).toNat / 2 ^ 64))
    ∧ UniformResult (.sand u) u.s 4 d (fun c => a c &&& b c)
    ∧ UniformResult (.sor u) u.s 4 d (fun c => a c ||| b c)
    ∧ UniformResult (.sxor u) u.s 4 d (fun c => a c ^^^ b c)
    ∧ UniformResult (.sshl u) u.s 4 d (fun c => a c <<< ((b c).toNat % 64))
    ∧ UniformResult (.sshr u) u.s 4 d (fun c => a c >>> ((b c).toNat % 64))
    ∧ UniformResult (.ssar u) u.s 4 d (fun c => (a c).sshiftRight ((b c).toNat % 64))
    ∧ UniformResult (.smin u) u.s 4 d (fun c => if (a c).toInt < (b c).toInt then a c else b c)
    ∧ UniformResult (.smax u) u.s 4 d (fun c => if (a c).toInt < (b c).toInt then b c else a c)
    ∧ UniformResult (.smov u) u.s 4 d a)
  ∧ (∀ (u : UWord) (x : W32),
    UniformResult (.smovi u x) u.s 8 u.d.toNat (fun _ => x.signExtend 64)
    ∧ UniformResult (.smovh u x) u.s 8 u.d.toNat (fun c =>
        BitVec.ofNat 64 (x.toNat * 2 ^ 32 + (c.sreg u.d.toNat).toNat % 2 ^ 32)))
  ∧ (∀ (u : UWord) (x : XaWord),
    let b := fun c : Ctx => if u.k then BitVec.ofNat 64 u.b.toNat else c.sreg u.b.toNat
    let a := fun c : Ctx => c.sreg u.a.toNat
    (x.ty = 7 ∨ x.ty = 8 → x.sub.toNat ≤ 5 →
      UniformResult (.scmp u x) u.s 8 u.d.toNat (fun c =>
        let p : Int := if x.ty = 7 then (a c).toInt else (a c).toNat
        let q : Int := if x.ty = 7 then (b c).toInt else (b c).toNat
        if (match x.sub.toNat with
          | 0 => p == q | 1 => p != q | 2 => decide (p < q) | 3 => decide (p ≤ q) | 4 => decide (p > q) | _ => decide (p ≥ q))
        then 1 else 0))
    ∧ (x.c.toNat < 64 →
      UniformResult (.ssel u x) u.s 8 u.d.toNat (fun c => if c.sreg x.c.toNat ≠ 0 then a c else b c)))

/-- The integer arithmetic instructions complete: every element of D in every active lane is the exact integer, wrapped or with
SAT clamped once; every other register, flag and byte stays (07 R161, 20 R440). -/
def Obligations.IntegerGroup : Prop :=
  IntTwo .iadd .iaddExt 1 (fun _ a b => a + b)
  ∧ IntTwo .isub .isubExt 1 (fun _ a b => a - b)
  ∧ IntTwo .imul .imulExt 1 (fun _ a b => a * b)
  ∧ IntTwo .imulh .imulhExt 1 (fun x a b => a * b / 2 ^ tyWidth x.ty.toNat)
  ∧ IntTwo .imin .iminExt 1 (fun _ a b => if a ≤ b then a else b)
  ∧ IntTwo .imax .imaxExt 1 (fun _ a b => if a ≤ b then b else a)
  ∧ IntTwo .iscadd .iscaddExt 1 (fun x a b => a * 2 ^ x.sub.toNat + b)
  ∧ (∀ r x, VectorResult (.iabs r) r.s 4 (intForm r (xaDefault 1)) (fun c => [(intForm r (xaDefault 1)).a c]) (fun c l a b =>
        NoFlags (fitInt 1 false (intOf 1 (c.src 32 l ((intForm r (xaDefault 1)).a c) a b)).natAbs))
      ∧ VectorResult (.iabsExt r x) r.s 8 (intForm r x) (fun c => [(intForm r x).a c]) (fun c l a b =>
        NoFlags (fitInt x.ty.toNat x.sat (intOf x.ty.toNat (c.src (tyWidth x.ty.toNat) l ((intForm r x).a c) a b)).natAbs)))
  ∧ (∀ r x, let o := intForm r x
      let v := fun (c : Ctx) (l : Nat) (q : Src) (a b : Nat) => intOf x.ty.toNat (c.src (tyWidth x.ty.toNat) l q a b)
      VectorResult (.imad r x) r.s 8 o (fun c => [o.a c, o.b c, o.c c]) (fun c l a b =>
        NoFlags (fitInt x.ty.toNat x.sat (v c l (o.a c) a b * v c l (o.b c) a b + v c l (o.c c) a b))))

/-- The bit and move instructions complete: every element of D in every active lane is the pattern of 19 R397, R408, R412, 21
R451, R452, R455, R460, 22 R483, R486, R511; every other register, flag and byte stays.
What the shared bit functions are: counts, reversal, shifts and fields, bit by bit (19 R408, R412, 21 R460, 22 R483). -/
def Obligations.BitGroup : Prop :=
  (BitTwo .and .andExt 0 (fun _ _ a b => a &&& b)
  ∧ BitTwo .or .orExt 0 (fun _ _ a b => a ||| b)
  ∧ BitTwo .xor .xorExt 0 (fun _ _ a b => a ^^^ b)
  ∧ BitTwo .andn .andnExt 0 (fun _ w a b => a &&& (2 ^ w - 1 - b))
  ∧ BitTwo .shl .shlExt 0 (fun _ w a b => a * 2 ^ (b % w) % 2 ^ w)
  ∧ BitTwo .shr .shrExt 0 (fun _ w a b => a / 2 ^ (b % w))
  ∧ BitTwo .sar .sarExt 0 (fun _ w a b => sarBits w a (b % w))
  ∧ BitOne .popc .popcExt 0 (fun _ w a => popCount w a)
  ∧ BitOne .clz .clzExt 0 (fun _ w a => leadingZeros w a)
  ∧ BitOne .brev .brevExt 0 (fun _ w a => reverseBits w a)
  ∧ BitTwo .bfe .bfeExt 1 (fun x _ a b => extractField x.ty.toNat a b)
  ∧ BitOne .mov .movExt 0 (fun _ _ a => a)
  ∧ (∀ r x, VectorResult (.movi r) r.s 4 (intForm r (xaDefault 0)) (fun _ => []) (fun _ _ _ _ => NoFlags (r.b.signExtend 32).toNat)
      ∧ VectorResult (.moviXi r x) r.s 8 (intForm r (xaDefault 0)) (fun _ => []) (fun _ _ _ _ => NoFlags x.toNat))
  ∧ (∀ r x, let o := intForm r x
      let v := fun (c : Ctx) (l : Nat) (q : Src) (a b : Nat) => c.src (tyWidth x.ty.toNat) l q a b
      VectorResult (.bfi r x) r.s 8 o (fun c => [o.a c, o.b c, o.c c]) (fun c l a b =>
        NoFlags (insertField (tyWidth x.ty.toNat) (v c l (o.a c) a b) (v c l (o.b c) a b) (v c l (o.c c) a b)))
      ∧ VectorResult (.sel r x) r.s 8 o (fun c => [o.a c, o.b c]) (fun c l a b =>
        NoFlags (if ((c.wave.p (x.c.toNat % 8)).getLsbD l ^^ x.c.getLsbD 3) then v c l (o.a c) a b else v c l (o.b c) a b))))
  ∧ (∀ w a, 0 < w → a < 2 ^ w →
    popCount w a = (List.range w).countP (fun k => a.testBit k)
    ∧ (leadingZeros w a ≤ w ∧ a < 2 ^ (w - leadingZeros w a) ∧ (a ≠ 0 → 2 ^ (w - leadingZeros w a - 1) ≤ a))
    ∧ (∀ k < w, (reverseBits w a).testBit k = a.testBit (w - 1 - k))
    ∧ (∀ n < w, ∀ k < w, (sarBits w a n).testBit k = if k + n < w then a.testBit (k + n) else a.testBit (w - 1))
    ∧ (∀ b c, ∀ k < w, (insertField w a b c).testBit k =
        if min (b % 256) w ≤ k ∧ k < min (b % 256) w + min (b / 256 % 256) (w - min (b % 256) w)
        then a.testBit (k - min (b % 256) w) else c.testBit k))

/-- The float instructions complete: every element of D in every active lane takes the result of 07 R162-R165 and 20 R433 in
the type's format, its flags are ORed into FPSTAT except from helper lanes, and nothing else changes. -/
def Obligations.FloatGroup : Prop :=
  FloatTwo .fadd .faddExt Fmt.fadd
  ∧ FloatTwo .fsub .fsubExt Fmt.fsub
  ∧ FloatTwo .fmul .fmulExt Fmt.fmul
  ∧ FloatTwo .fmin .fminExt (fun f _ ftz a b => f.minMax ftz false a b)
  ∧ FloatTwo .fmax .fmaxExt (fun f _ ftz a b => f.minMax ftz true a b)
  ∧ FloatTwo .fdiv .fdivExt Fmt.fdiv
  ∧ FloatOne .frcp .frcpExt (fun f _ ftz a => special .rcp f ftz a)
  ∧ FloatOne .frsq .frsqExt (fun f _ ftz a => special .rsq f ftz a)
  ∧ FloatOne .fsqrt .fsqrtExt Fmt.fsqrt
  ∧ FloatOne .fexp2 .fexp2Ext (fun f _ ftz a => special .exp2 f ftz a)
  ∧ FloatOne .flog2 .flog2Ext (fun f _ ftz a => special .log2 f ftz a)
  ∧ FloatOne .fsin .fsinExt (fun f _ ftz a => special .sin f ftz a)
  ∧ FloatOne .fcos .fcosExt (fun f _ ftz a => special .cos f ftz a)
  ∧ FloatOne .frnd .frndExt Fmt.frnd
  ∧ (∀ r x, let o := intForm r x
      let v := fun (c : Ctx) (l : Nat) (q : Src) (a b : Nat) => c.src (tyWidth x.ty.toNat) l q a b
      VectorResult (.ffma r x) r.s 8 o (fun c => [o.a c, o.b c, o.c c]) (fun c l a b =>
        (fmtTy x.ty.toNat).ffma (c.rm x.rm.toNat) c.ftz (v c l (o.a c) a b) (v c l (o.b c) a b) (v c l (o.c c) a b)))
  ∧ (∀ r x, let k := fun (y : XaWord) => ({ r := r, x := y, dty := 0, sty := y.ty.toNat } : XaForm)
      let v := fun (y : XaWord) (c : Ctx) (l a b : Nat) =>
        NoFlags ((fmtTy y.ty.toNat).fclass (c.src (tyWidth y.ty.toNat) l ((k y).a c) a b))
      VectorResult (.fclass r) r.s 4 (k (xaDefault 3)) (fun c => [(k (xaDefault 3)).a c]) (v (xaDefault 3))
      ∧ VectorResult (.fclassExt r x) r.s 8 (k x) (fun c => [(k x).a c]) (v x))
  ∧ (∀ r x,
      let v := fun (y : XaWord) (c : Ctx) (l a b : Nat) =>
        (fmtTy y.ty.toNat).fscale (c.rm y.rm.toNat) c.ftz (c.src (tyWidth y.ty.toNat) l ((intForm r y).a c) a b)
          (intOf 1 (c.src 32 l ((intForm r y).bAs c 1) a b))
      VectorResult (.fscale r) r.s 4 (intForm r (xaDefault 3)) (fun c => [(intForm r (xaDefault 3)).a c, (intForm r (xaDefault 3)).bAs c 1])
        (v (xaDefault 3))
      ∧ VectorResult (.fscaleExt r x) r.s 8 (intForm r x) (fun c => [(intForm r x).a c, (intForm r x).bAs c 1]) (v x))

/-- `fclass` writes a 32-bit mask with exactly one of bits 9:0 set, from the sign, exponent and fraction fields of its operand as stored, and sets no flag (07 R164). -/
def Obligations.ClassMask : Prop :=
  ∀ (r : RWord) (x : XaWord), x.ty = 3 ∨ x.ty = 4 ∨ x.ty = 5 ∨ x.ty = 6 →
    let mask := fun (ty v : Nat) =>
      let eb := if ty = 4 then 5 else if ty = 6 then 11 else 8
      let fb := if ty = 4 then 10 else if ty = 5 then 7 else if ty = 6 then 52 else 23
      let e := v / 2 ^ fb % 2 ^ eb
      let frac := v % 2 ^ fb
      let bit := if e = 2 ^ eb - 1 then
          (if frac ≠ 0 then (if frac.testBit (fb - 1) then 1 else 0) else if v.testBit (eb + fb) then 2 else 9)
        else if e ≠ 0 then (if v.testBit (eb + fb) then 3 else 8)
        else if frac ≠ 0 then (if v.testBit (eb + fb) then 4 else 7)
        else if v.testBit (eb + fb) then 5 else 6
      2 ^ bit
    let k := fun (y : XaWord) => ({ r := r, x := y, dty := 0, sty := y.ty.toNat } : XaForm)
    let v := fun (y : XaWord) (c : Ctx) (l a b : Nat) => NoFlags (mask y.ty.toNat (c.src (tyWidth y.ty.toNat) l ((k y).a c) a b))
    VectorResult (.fclass r) r.s 4 (k (xaDefault 3)) (fun c => [(k (xaDefault 3)).a c]) (v (xaDefault 3))
    ∧ VectorResult (.fclassExt r x) r.s 8 (k x) (fun c => [(k x).a c]) (v x)

/-- The compares complete: p(D) takes the condition in the active lanes and no other predicate changes, p0 never; a float compare
ORs its flags into FPSTAT (05 R132, 07 R159, 20 R434, R440; 04 R84). -/
def Obligations.CompareGroup : Prop :=
  ∀ r x,
    let o := fun (y : XaWord) => ({ intForm r y with block := false } : XaForm)
    let v := fun (y : XaWord) (c : Ctx) (l : Nat) (q : Src) => c.src (tyWidth y.ty.toNat) l q 0 0
    let ints := fun (y : XaWord) (c : Ctx) (l : Nat) =>
      (condHolds y.sub.toNat (intOf y.ty.toNat (v y c l ((o y).a c))) (intOf y.ty.toNat (v y c l ((o y).b c))), (0 : Flags))
    let floats := fun (y : XaWord) (c : Ctx) (l : Nat) =>
      (fmtTy y.ty.toNat).fcmp c.ftz y.sub.toNat (v y c l ((o y).a c)) (v y c l ((o y).b c))
    let ops := fun (y : XaWord) (c : Ctx) => [(o y).a c, (o y).b c]
    CompareResult (.icmp r) r.s 4 (r.d.toNat % 8) (xaDefault 1) (ops (xaDefault 1)) (ints (xaDefault 1))
    ∧ CompareResult (.icmpExt r x) r.s 8 (r.d.toNat % 8) x (ops x) (ints x)
    ∧ CompareResult (.fcmp r) r.s 4 (r.d.toNat % 8) (xaDefault 3) (ops (xaDefault 3)) (floats (xaDefault 3))
    ∧ CompareResult (.fcmpExt r x) r.s 8 (r.d.toNat % 8) x (ops x) (floats x)

/-- The conversions complete: `cvt`, `cvtq`, `cvtd`, `pack`, `unpack` write D, `amax` writes none; AMAX is folded where the source is
a float, and nothing else changes (19 R396, R420-R423, 21 R456, 22 R506, 07 R166-R168, R174).
Folding magnitudes into AMAX takes their unsigned maximum, notes a NaN, and changes no other register (07 R174). -/
def Obligations.ConvertGroup : Prop :=
  ((∀ r x,
    ConvertResult (.cvt r x) r.s { r := r, x := x, dty := x.ty.toNat, sty := x.sub.toNat } (fmtOf x.sub.toNat) (fun c l a b =>
      convert x.sub.toNat x.ty.toNat (c.rm x.rm.toNat) x.sat c.ftz
        (c.src (tyWidth x.sub.toNat) l (({ r := r, x := x, dty := x.ty.toNat, sty := x.sub.toNat } : XaForm).a c) a b))
    ∧ ConvertResult (.cvtq r x) r.s { r := r, x := x, dty := 0, sty := x.ty.toNat } (some (fmtTy x.ty.toNat)) (fun c l a b =>
      quantise (fmtTy x.ty.toNat) (x.sub.getLsbD 0) (c.rm x.rm.toNat) c.ftz ((c.sreg (x.c.toNat % 64)).toNat % 2 ^ 16)
        ((c.sreg (x.c.toNat % 64)).toNat / 2 ^ 16 % 256)
        (c.src (fmtTy x.ty.toNat).width l (({ r := r, x := x, dty := 0, sty := x.ty.toNat } : XaForm).a c) a b))
    ∧ ConvertResult (.cvtd r x) r.s { r := r, x := x, dty := x.ty.toNat, sty := 0 } none (fun c l a b =>
      dequantise (fmtTy x.ty.toNat) (x.sub.getLsbD 0) (c.rm x.rm.toNat) c.ftz ((c.sreg (x.c.toNat % 64)).toNat % 2 ^ 16)
        ((c.sreg (x.c.toNat % 64)).toNat / 2 ^ 16 % 256)
        (c.src 32 l (({ r := r, x := x, dty := x.ty.toNat, sty := 0 } : XaForm).a c) a b)))
  ∧ BitTwo .pack .packExt 0 (fun x _ a b =>
      if x.sub = 0 then a % 2 ^ 16 + b % 2 ^ 16 * 2 ^ 16
      else a % 256 + b % 256 * 2 ^ 8 + a / 256 % 256 * 2 ^ 16 + b / 256 % 256 * 2 ^ 24)
  ∧ BitOne .unpack .unpackExt 0 (fun x _ a =>
      let n := if x.sub.getLsbD 2 then 8 else 16
      let v := a / 2 ^ (n * (x.sub.toNat % 4)) % 2 ^ n
      if x.sub.getLsbD 3 && decide (2 ^ (n - 1) ≤ v) then v + 2 ^ 32 - 2 ^ n else v)
  ∧ (∀ r x,
      let mags := fun (y : XaWord) (c : Ctx) => (lanesOf (c.xaActive y)).flatMap (fun l => ((intForm r y).d c).elems.map (fun e =>
        amaxOf (fmtTy y.ty.toNat) (c.src (fmtTy y.ty.toNat).width l ((intForm r y).a c) e.1 e.2)))
      let amaxAt := fun (i : Instr) (len : Nat) (y : XaWord) =>
        WaveResult i len (fun _ c => Plain c r.s ∧ OperandsOk c ((intForm r y).a c).vops) (fun c _ _ => c.wave) (fun c w => SameVregs c.wave w)
          (fun c p => p = { c.part with regs := foldAmax c.part.regs (mags y c) })
      amaxAt (.amax r) 4 (xaDefault 3) ∧ amaxAt (.amaxExt r x) 8 x))
  ∧ (∀ (r : PartRegs) (xs : List (Option Nat)), (∀ v, some v ∈ xs → v < 2 ^ 32) →
    (foldAmax r xs).amaxv.toNat = (xs.filterMap id).foldl max r.amaxv.toNat
    ∧ (foldAmax r xs).amaxnan = (r.amaxnan || xs.any Option.isNone)
    ∧ foldAmax r xs = { r with amaxv := (foldAmax r xs).amaxv, amaxnan := (foldAmax r xs).amaxnan })

/-- `shfl`, `qperm`, `rdlane`, `wrlane` and `vote` complete: the lane or predicate values of 22 R488, 21 R465, R470, 22 R510 and
R508 are moved, and nothing else changes. -/
def Obligations.LaneMoves : Prop :=
  ∀ r x,
    let o := fun (y : XaWord) => crossForm r y
    let shflAt := fun (i : Instr) (len : Nat) (y : XaWord) =>
      WaveResult i len (CrossReady r.s y (fun c => (o y).d c :: ([(o y).a c, (o y).bAs c 2].flatMap Src.vops))) (fun c _ _ => c.wave)
        (fun c w => Wrote c (c.xaActive y) ((o y).d c) (fun l _ _ =>
          let ew := c.crossWidth y.mw
          let q := c.part.base + (l - c.part.base) / ew * ew
          let k := c.src 32 l ((o y).bAs c 2) 0 0
          let n := l - q
          let j := match y.sub.toNat with
            | 0 => k % ew
            | 1 => if n < k then n else n - k
            | 2 => if ew ≤ n + k then n else n + k
            | _ => n ^^^ (k % ew)
          c.src (tyWidth y.ty.toNat) (q + j) ((o y).a c) 0 0) w)
        (fun c p => p = c.part)
    let qpermAt := fun (i : Instr) (len : Nat) (y : XaWord) =>
      WaveResult i len (CrossReady r.s y (fun c => (o y).d c :: ((o y).a c).vops)) (fun c _ _ => c.wave)
        (fun c w => Wrote c (c.xaActive y) ((o y).d c) (fun l _ _ =>
          c.src (tyWidth y.ty.toNat) (l / 4 * 4 + (if y.sub.toNat = 3 then r.b.toNat % 4 else (l % 4) ^^^ (y.sub.toNat + 1))) ((o y).a c) 0 0) w)
        (fun c p => p = c.part)
    let rdlaneAt := fun (i : Instr) (len : Nat) (y : XaWord) =>
      WaveResult i len (CrossReady r.s y (fun c => ((o y).a c).vops)) (fun c _ _ => c.wave) (fun c w => SameVregs c.wave w)
        (fun c p => p = c.part.setS (r.d.toNat % 64) (BitVec.ofNat 64
          (c.src (tyWidth y.ty.toNat) (c.part.base + r.b.toNat % c.crossWidth y.mw) ((o y).a c) 0 0)))
    let voteAt := fun (i : Instr) (len : Nat) (y : XaWord) =>
      (y.sub.toNat = 2 →
        WaveResult i len (CrossReady r.s y (fun _ => [])) (fun c _ _ => c.wave) (fun c w => SameVregs c.wave w)
          (fun c p => p = c.part.setS (r.d.toNat % 64)
            ((c.xaActive y &&& c.wave.pred (r.a.toNat % 8) (r.a.getLsbD 3)) >>> c.part.base)))
      ∧ (y.sub.toNat ≠ 2 →
        WaveResult i len (CrossReady r.s y (fun _ => [])) (fun c w _ => { c.wave with preds := w.preds })
          (fun c w => SameVregs c.wave w
            ∧ (∀ m l, l < 64 → m ≠ r.d.toNat % 8 ∨ m = 0 ∨ (c.xaActive y).getLsbD l = false → (w.p m).getLsbD l = (c.wave.p m).getLsbD l)
            ∧ ∀ g, InGroup c g → ∀ l < 64, g.getLsbD l = true → (c.xaActive y).getLsbD l = true → r.d.toNat % 8 ≠ 0 →
              (w.p (r.d.toNat % 8)).getLsbD l =
                (let xs := (lanesOf (c.xaActive y &&& g)).map (fun k => (c.wave.pred (r.a.toNat % 8) (r.a.getLsbD 3)).getLsbD k)
                match y.sub.toNat with
                | 0 => xs.any id
                | 1 => xs.all id
                | _ => xs.all id || xs.all (!·)))
          (fun c p => p = c.part))
    shflAt (.shfl r) 4 (xaDefault 0) ∧ shflAt (.shflExt r x) 8 x
    ∧ qpermAt (.qperm r) 4 (xaDefault 0) ∧ qpermAt (.qpermExt r x) 8 x
    ∧ rdlaneAt (.rdlane r) 4 (xaDefault 0) ∧ rdlaneAt (.rdlaneExt r x) 8 x
    ∧ voteAt (.vote r) 4 (xaDefault 0) ∧ voteAt (.voteExt r x) 8 x
    ∧ WaveResult (.wrlane r x) 8 (CrossReady r.s x (fun c => [(o x).d c])) (fun c _ _ => c.wave)
        (fun c w => Wrote c
          ((if c.wave.cm then ((List.range (c.part.width / 16)).filter (fun h =>
                (List.range 16).any (fun l => (c.xaActive x).getLsbD (c.part.base + 16 * h + l)))).foldl (fun m h =>
                  m ||| laneBit (c.part.base + 16 * h + r.b.toNat % c.crossWidth x.mw)) 0
            else laneBit (c.part.base + r.b.toNat % c.crossWidth x.mw)) &&& ~~~c.wave.exited)
          ((o x).d c) (fun _ _ _ => (c.sreg (r.a.toNat % 64)).toNat) w)
        (fun c p => p = c.part)

/-- `redu` and `scan` complete: the active lanes of each group combine in increasing lane order, one rounding a step; a reduction
gives every lane the last result, a scan each lane its own, shifted by one and started at the identity when exclusive (21 R472,
22 R485).
`ddx` and `ddy` complete: each active lane takes the rounded difference of its quad's two source lanes, an absent lane reading
as +0 and setting STATUS.DERIV (14 R332, 19 R427). -/
def Obligations.Reductions : Prop :=
  (∀ r x (scan : Bool),
    let at_ := fun (i : Instr) (len : Nat) (y : XaWord) =>
      let o := crossForm r y
      let ty := y.ty.toNat
      let op := if scan then y.sub.toNat % 8 else y.sub.toNat
      WaveResult i len (CrossReady r.s y (fun c => o.d c :: (o.a c).vops)) (fun c _ _ => c.wave)
        (fun c w =>
          let val := fun k => c.src (tyWidth ty) k (o.a c) 0 0
          let upTo := fun (ks : List Nat) => match ks with
            | [] => 0
            | k :: ks => ks.foldl (fun a j => (combine ty op c.ftz a (val j)).bits) (firstValue ty c.ftz (val k))
          (∀ g, InGroup c g → ∀ n < (lanesOf (c.xaActive y &&& g)).length, ∀ k < (o.d c).unit,
            w.v c.part.depth ((lanesOf (c.xaActive y &&& g)).getD n 0) ((o.d c).reg c.wb 0 0 + k) = BitVec.ofNat 32
              ((if !scan then upTo (lanesOf (c.xaActive y &&& g))
                else if y.sub.getLsbD 3 then (if n = 0 then identityOf ty op else upTo ((lanesOf (c.xaActive y &&& g)).take n))
                else upTo ((lanesOf (c.xaActive y &&& g)).take (n + 1))) / 2 ^ (32 * k)))
          ∧ ∀ depth l n, l < 64 → n < 512 →
            (depth ≠ c.part.depth ∨ (c.xaActive y).getLsbD l = false ∨ ∀ k < (o.d c).unit, n ≠ (o.d c).reg c.wb 0 0 + k) →
            w.v depth l n = c.wave.v depth l n)
        (fun c p => p = { c.part with regs := { c.part.regs with fpstat := p.regs.fpstat }, raised := p.raised }
          ∧ p.regs.fpstat &&& c.part.regs.fpstat = c.part.regs.fpstat)
    if scan then at_ (.scan r) 4 (xaDefault 1) ∧ at_ (.scanExt r x) 8 x else at_ (.redu r) 4 (xaDefault 1) ∧ at_ (.reduExt r x) 8 x)
  ∧ (∀ r x (isX : Bool),
    let at_ := fun (i : Instr) (len : Nat) (y : XaWord) =>
      let o := crossForm r y
      let f := fmtTy y.ty.toNat
      let there := fun (c : Ctx) (l : Nat) =>
        (c.emask ||| (c.part.cur &&& c.wave.helper &&& ~~~c.wave.exited)).getLsbD l
      let val := fun (c : Ctx) (l : Nat) => if there c l then c.src (tyWidth y.ty.toNat) l (o.a c) 0 0 else 0
      let pair := fun (l : Nat) =>
        if isX then (if y.sub = 1 ∨ l % 4 < 2 then (l / 4 * 4 + 1, l / 4 * 4) else (l / 4 * 4 + 3, l / 4 * 4 + 2))
        else if y.sub = 1 ∨ l % 2 = 0 then (l / 4 * 4 + 2, l / 4 * 4) else (l / 4 * 4 + 3, l / 4 * 4 + 1)
      let res := fun (c : Ctx) (l : Nat) => f.fsub rmRne c.ftz (val c (pair l).1) (val c (pair l).2)
      WaveResult i len (fun _ c => Plain c r.s ∧ OperandsOk c (o.d c :: (o.a c).vops)) (fun c _ _ => c.wave)
        (fun c w => Wrote c (c.xaActive y) (o.d c) (fun l _ _ => (res c l).bits) w)
        (fun c p =>
          p = { c.part with
            regs := { c.part.regs with
              fpstat := p.regs.fpstat
              status := c.part.regs.status ||| (if (lanesOf (c.xaActive y)).any (fun l => !(there c (pair l).1 && there c (pair l).2)) then 1 else 0) }
            raised := p.raised }
          ∧ FlagsAre c (c.xaActive y) (fun l b => (res c l).fl.getLsbD b) p.regs.fpstat)
    if isX then at_ (.ddx r) 4 (xaDefault 3) ∧ at_ (.ddxExt r x) 8 x else at_ (.ddy r) 4 (xaDefault 3) ∧ at_ (.ddyExt r x) 8 x)

/-! ### Control -/

/-- The control instructions that only move their part on, or park it, complete: `nop`, `winb`, `fuse`, `conf` at the nominal width
or in a handler, and where its buddy block is away for now, `sleep`, `sleepat`, `pwait`, `gentry`, `phint` with no save asked for and with one, and
`tret`; nothing but the part changes (21 R454, 22 R509, 03 R60, R64, R66, 22 R490, 09 R227, 13 R306, 12 R285, R278). That a `conf`, a `sleep` and
a `sleepat` keep the deadline that a save left their part with is the model's choice (notes/assumptions/53.md).
An instruction that carries S parks its part while a load is outstanding, before it issues and whatever else it is (05 R116). -/
def Obligations.PartControl : Prop :=
  ((∀ r : RWord,
    PartResult (.nop r) (fun _ c => Plain c r.s) (fun s c => c.part.past c 4 s.dcc)
    ∧ (∀ x, PartResult (.nopXi r x) (fun _ c => Plain c r.s) (fun s c => c.part.past c 8 s.dcc))
    ∧ PartResult (.winb r) (fun _ c => Plain c r.s) (fun s c =>
        Part.past { c.part with regs := { c.part.regs with wb := BitVec.ofNat 8 (16 * r.b.toNat) } } c 4 s.dcc)
    ∧ PartResult (.fuse r) (fun _ c => Free c r.s false none (some (c.effWidth r.b.toNat))) (fun s c => c.part.past c 4 s.dcc)
    ∧ PartResult (.conf r) (fun _ c => Plain c true ∧ c.part.waiting = 0 ∧ (c.part.tcode ≠ 0 ∨ c.part.width = c.wave.width)) (fun s c =>
        { c.part.past c 4 s.dcc with confId := r.b.toNat % 16 })
    ∧ (let buddy := fun (c : Ctx) => if c.part.base / c.part.width % 2 = 0 then c.part.base + c.part.width else c.part.base - c.part.width
      PartResult (.conf r)
        (fun _ c => Plain c true ∧ c.part.waiting = 0 ∧ c.part.tcode = 0 ∧ c.part.width ≠ c.wave.width ∧ c.wave.confHopeless c.part = false
          ∧ ∃ q ∈ c.wave.parts, q.base ≠ c.ref.base ∧ inBlock (buddy c) c.part.width q.base = true ∧ ∀ t d, q.park ≠ .conf t d)
        (fun s c => { c.part with confId := r.b.toNat % 16, lastIssue := s.dcc, confLeft := takenAt c.part.pc c.part.confLeft
                                  park := .conf s.dcc (c.part.confDeadline s.dcc ([0, 64, 1024, 16384].getD (r.b.toNat / 16 % 4) 0)) }))
    ∧ PartResult (.gentry r) (fun _ c => Plain c r.s ∧ c.part.atEntry = true) (fun s c => Part.past { c.part with gentryDue := false } c 4 s.dcc)
    ∧ (∀ f, PartResult (.tret r)
        (fun _ c => Plain c r.s ∧ c.part.tcode ≠ 0 ∧ c.part.tframe = some f ∧ c.part.waiting = 0 ∧ (f.wrote = true → c.part.tword.toNat % 4 = 0))
        (fun s c => c.part.leaveHandler f s.dcc)))
  ∧ (∀ u : UWord,
    let until_ := fun (s : State) (c : Ctx) (t : Nat) =>
      let p := { c.part with sleepLeft := takenAt c.part.pc c.part.sleepLeft }
      let t := c.part.sleepDeadline t
      if t ≤ s.dcc then p.past c 4 s.dcc else p.parkedAtOnce (.sleep t) s.dcc
    PartResult (.sleep u) (fun _ c => Plain c u.s) (fun s c => until_ s c (s.dcc + if u.k then u.b.toNat else (c.sreg u.a.toNat).toNat))
    ∧ PartResult (.sleepat u) (fun _ c => Plain c u.s) (fun s c => until_ s c (c.sreg u.a.toNat).toNat)
    ∧ PartResult (.pwait u)
        (fun s c => Plain c u.s ∧ c.part.copyFailure ((c.sreg u.a.toNat).toNat / 2 ^ 48) = none
          ∧ (s.ticketOut c.ref.core c.part ((c.sreg u.a.toNat).toNat / 2 ^ 48) = false ∨ c.part.tcode ≠ 0))
        (fun s c =>
          let v := c.sreg u.a.toNat
          if promiseDue s.dcc (v.toNat % 2 ^ 48) then c.part.past c 4 s.dcc
          else c.part.parkedAtOnce (.pwait (v.toNat % 2 ^ 48) (v.toNat / 2 ^ 48) v) s.dcc)
    ∧ (∀ x, PartResult (.phint u x)
        (fun _ c => Plain c u.s ∧ c.wave.pend = false
          ∧ ∀ r ∈ phintRanges (c.sreg u.a.toNat), r.2 ≠ 0 → (r.1 + r.2) * 256 ≤ c.scratchArea.2)
        (fun s c => c.part.past c 8 s.dcc)
      ∧ PartResult (.phint u x)
        (fun _ c => Plain c u.s ∧ c.wave.pend = true
          ∧ ∀ r ∈ phintRanges (c.sreg u.a.toNat), r.2 ≠ 0 → (r.1 + r.2) * 256 ≤ c.scratchArea.2)
        (fun s c =>
          let left := c.part.confLeft.map (fun e => (e.1, e.2 - s.dcc))
          Part.parkedAtOnce { c.part.past c 8 s.dcc with confLeft := left }
            (.saved x ((phintRanges (c.sreg u.a.toNat)).filter (fun r => r.2 != 0))) s.dcc))))
  ∧ (∀ (s : State) (c : Ctx), s.issuing = some c → c.part.ldOps ≠ [] →
    let parks := fun (i : Instr) => ∃ t w, exec i s = .next t ∧ OnlyWave c s t ∧ SameVregs c.wave w
      ∧ WaveIs c t id { c.part with park := .on .ldZero, parkedAt := if c.part.park = .on .ldZero then c.part.parkedAt else s.dcc } w
    (∀ r : RWord, r.s = true → parks (.nop r) ∧ parks (.winb r))
    ∧ (∀ u : UWord, u.s = true → parks (.sadd u) ∧ parks (.smul u))
    ∧ (∀ r x, r.s = true → OperandsOk c ((intForm r x).d c :: [(intForm r x).a c, (intForm r x).b c].flatMap Src.vops) →
        parks (.iaddExt r x) ∧ parks (.fmulExt r x)))

/-- The branches complete: `bra` and `call` transfer, `bru` when its predicate holds in an active lane, `brp` when it holds in
every active lane, `jmp` and `ret` to an aligned address below 2^57; a branch that is not taken falls through. Nothing but the
part changes, and it issues again four cycles later (19 R410, 03 R56, R57, 20 R442, 21 R475). -/
def Obligations.Branches : Prop :=
  (∀ j : JWord,
    let go := fun (c : Ctx) (p : Part) (now : Nat) => (p.jumpTo c.part.pc (jTarget c.part.pc j.off)).issued now 4
    PartResult (.bra j) (fun _ c => Plain c j.s) (fun s c => go c c.part s.dcc)
    ∧ PartResult (.call j) (fun _ c => Plain c j.s) (fun s c => go c (c.part.setS 63 (c.part.pc + 4)) s.dcc))
  ∧ (∀ w : PWord,
    let lanes := fun (c : Ctx) => c.emask &&& c.wave.pred w.pred.toNat w.neg
    let go := fun (c : Ctx) (now : Nat) => (c.part.jumpTo c.part.pc (pTarget c.part.pc w.off)).issued now 4
    PartResult (.bru w) (fun _ c => Plain c w.s) (fun s c => if lanes c = 0 then c.part.pastIn c 4 4 s.dcc else go c s.dcc)
    ∧ PartResult (.brp w) (fun _ c => Plain c w.s ∧ (lanes c = 0 ∨ lanes c = c.emask)) (fun s c =>
        if lanes c = 0 then c.part.pastIn c 4 4 s.dcc else go c s.dcc))
  ∧ (∀ u : UWord,
    let dest := fun (c : Ctx) => c.sreg u.a.toNat
    let ready := fun (_ : State) (c : Ctx) => Plain c u.s ∧ (dest c).toNat < 2 ^ 57 ∧ (dest c).toNat % 4 = 0
    let go := fun (s : State) (c : Ctx) => (c.part.jumpTo c.part.pc (dest c)).issued s.dcc 4
    PartResult (.jmp u) ready go ∧ PartResult (.ret u) ready go)

/-- For classes J and P the target of a taken branch is the instruction's address plus four times the sign-extended offset: an offset of zero names
the branch itself, and the reach is 8 MiB or 512 KiB either way (05 R100). -/
def Obligations.BranchTarget : Prop :=
  ∀ (s : State) (c : Ctx), s.issuing = some c → c.part.waiting = 0 →
    let goes := fun (i : Instr) (off : Int) => ∃ t p, exec i s = .next t ∧ t.part? c.ref = some p ∧ p.cur = c.part.cur
      ∧ (p.pc.toNat : Int) = ((c.part.pc.toNat : Int) + 4 * off) % 2 ^ 64 ∧ (off = 0 → p.pc = c.part.pc)
    (∀ j : JWord, Plain c j.s → goes (.bra j) j.off.toInt ∧ goes (.call j) j.off.toInt ∧ -8388608 ≤ 4 * j.off.toInt ∧ 4 * j.off.toInt < 8388608)
    ∧ (∀ w : PWord, Plain c w.s →
        let lanes := c.emask &&& c.wave.pred w.pred.toNat w.neg
        (lanes ≠ 0 → goes (.bru w) w.off.toInt) ∧ (lanes ≠ 0 → lanes = c.emask → goes (.brp w) w.off.toInt)
        ∧ -524288 ≤ 4 * w.off.toInt ∧ 4 * w.off.toInt < 524288)

/-- A divergent `brp` completes and every active lane goes its way: after it, each active lane whose predicate holds stands at the
target and each other one at the fall-through, on the current path of a part or waiting in one (03 R54, R55, R57). -/
def Obligations.Divergence : Prop :=
  ∀ (s : State) (c : Ctx) (w : PWord), s.issuing = some c → Plain c w.s →
    let taken := c.emask &&& c.wave.pred w.pred.toNat w.neg
    taken ≠ 0 → taken ≠ c.emask → c.part.width ∈ [4, 8, 16, 32, 64] → c.part.base + c.part.width ≤ 64 →
    (∀ l, c.part.cur.getLsbD l = true → c.part.base ≤ l ∧ l < c.part.base + c.part.width ∧ c.part.waiting.getLsbD l = false) →
    (∀ p ∈ c.wave.parts, p.base = c.ref.base → p = c.part) →
    ∃ t v, exec (.brp w) s = .next t ∧ OnlyWave c s t ∧ t.wave? c.ref.key = some v ∧ SameVregs c.wave v
      ∧ (∀ l, c.emask.getLsbD l = true →
          let dest := if taken.getLsbD l then pTarget c.part.pc w.off else c.part.pc + 4
          ∃ p ∈ v.parts, (p.cur.getLsbD l = true ∧ p.pc = dest) ∨ (p.waiting.getLsbD l = true ∧ resumeOf p l = dest))
      ∧ ∀ p ∈ v.parts, p ∈ c.wave.parts ∨ (p.regs = c.part.regs ∧ p.notBefore = s.dcc + 4)

/-- The traps that are an instruction's own effect complete: `trap` enters the handler with code SOFT and its immediate, `brk` with
BRK while BRKHALT is 0; both return behind themselves (12 R274, R275, R280).
Traps before issue: a privileged instruction or system register in a segment that is not privileged takes PRIV, a vector
register at or above ALLOT or outside its region REGBOUND with its number, an unaligned register ILLEGAL, a register jump to an
unaligned or too large target ALIGN or ACCESS, `gentry` out of place and `gret` outside a call GATE, `tret` outside a handler and a
reserved opcode ILLEGAL; each leaves everything but the trapping part as it was (05 R114, 04 R77, R81, R90, 20 R442, 13 R306, 12 R278).
The register checks: an operand passes exactly when its first register is aligned as its element needs and every effective field
it names stays in the region of the first one and names a register below ALLOT (04 R77, R79, R81). -/
def Obligations.Traps : Prop :=
  (∀ r : RWord,
    TrapsWith (.trap r) (fun _ c => Plain c r.s) 0x0F (fun _ _ => r.b.toNat) (fun _ _ => 0) (fun c => c.part.pc + 4)
    ∧ TrapsWith (.brk r) (fun s c => Plain c r.s ∧ (s.die (dieOf c.ref.core)).brkHalt = false) 0x0E (fun _ _ => 0) (fun _ _ => 0)
        (fun c => c.part.pc + 4))
  ∧ ((∀ u : UWord,
    let user := fun (_ : State) (c : Ctx) => c.part.regs.privseg = false
    let at_ := fun (c : Ctx) => c.part.pc
    TrapsWith (.tlbi u) user 0x02 (fun _ _ => 0) (fun _ _ => 0) at_
    ∧ TrapsWith (.hsig u) user 0x02 (fun _ _ => 0) (fun _ _ => 0) at_
    ∧ (privIndex u.index = true → TrapsWith (.srget u) user 0x02 (fun _ _ => 0) (fun _ _ => 0) at_
        ∧ TrapsWith (.srset u) user 0x02 (fun _ _ => 0) (fun _ _ => 0) at_)
    ∧ TrapsWith (.jmp u) (fun _ c => Plain c u.s ∧ 2 ^ 57 ≤ (c.sreg u.a.toNat).toNat) 0x05 (fun _ _ => 5) (fun _ c => c.sreg u.a.toNat) at_
    ∧ TrapsWith (.jmp u) (fun _ c => Plain c u.s ∧ (c.sreg u.a.toNat).toNat < 2 ^ 57 ∧ (c.sreg u.a.toNat).toNat % 4 ≠ 0)
        0x04 (fun _ _ => 0) (fun _ c => c.sreg u.a.toNat) at_)
  ∧ (∀ (r : RWord) (x : XaWord) (code reg : Nat),
    let bad := fun (_ : State) (c : Ctx) =>
      checkVops ((intForm r x).d c :: [(intForm r x).a c, (intForm r x).b c].flatMap Src.vops) c.wb c.allot = some (code, reg)
    TrapsWith (.iaddExt r x) bad code (fun _ _ => 0) (fun _ _ => BitVec.ofNat 64 reg) (fun c => c.part.pc)
    ∧ TrapsWith (.faddExt r x) bad code (fun _ _ => 0) (fun _ _ => BitVec.ofNat 64 reg) (fun c => c.part.pc))
  ∧ (∀ r : RWord,
    TrapsWith (.gentry r) (fun _ c => c.part.atEntry = false) 0x0B (fun _ _ => 6) (fun _ _ => 0) (fun c => c.part.pc)
    ∧ TrapsWith (.gret r) (fun _ c => c.part.frames = []) 0x0B (fun _ _ => 6) (fun _ _ => 0) (fun c => c.part.pc)
    ∧ TrapsWith (.tret r) (fun _ _ => True) 0x01 (fun _ _ => 0) (fun _ _ => 0) (fun c => c.part.pc))
  ∧ TrapsWith .reservedOpcode (fun _ _ => True) 0x01 (fun _ _ => 0) (fun _ c => c.part.pc) (fun c => c.part.pc))
  ∧ (∀ (ops : List Vop) (wb allot : Nat),
    checkVops ops wb allot = none ↔ ∀ o ∈ ops,
      regNumber wb (o.field 0 0) % o.al = 0
      ∧ ∀ e ∈ o.fields, (if o.field 0 0 < 16 then e < 16 else e ≤ 127) ∧ (if o.field 0 0 < 16 then e else wb + e) < allot)

/-- `exit` completes: with nothing outstanding and no failure pending, the lanes of the only path exit and their part is gone; a wave with
another part stays, and one without ends (20 R428-R430).
`entry` and `region` complete: the L1 drops its clean C-page sectors at sys scope; a counted region begins behind the instruction,
with the lanes' traversal states (20 R428, 09 R216, 12 R281, 15 R352). -/
def Obligations.Exits : Prop :=
  (∀ (s : State) (c : Ctx) (r : RWord), s.issuing = some c → Plain c r.s → c.part.frames = [] → s.quiet c = true →
    c.part.fails = [] → c.part.held = [] → c.part.otherLanes = 0 →
    ∃ t, exec (.exit r) s = .next t ∧ (∀ k, k ≠ c.ref.key → t.wave? k = s.wave? k) ∧ t.mem = s.mem
      ∧ ((∃ p ∈ c.wave.parts, p.base ≠ c.ref.base) → ∃ w, t.wave? c.ref.key = some w ∧ SameVregs c.wave w
          ∧ w.exited = c.wave.exited ||| (c.part.cur &&& ~~~c.wave.exited) ∧ w.parts = c.wave.parts.filter (fun p => p.base != c.ref.base)
          ∧ t.cores = s.cores)
      ∧ ((∀ p ∈ c.wave.parts, p.base = c.ref.base) → t.wave? c.ref.key = none))
  ∧ (∀ (s : State) (c : Ctx) (r : RWord), s.issuing = some c → Plain c r.s →
    (∃ t w, exec (.entry r) s = .next t ∧ t = { s with cores := t.cores, waves := t.waves }
        ∧ (∀ k, k ≠ c.ref.key → t.wave? k = s.wave? k) ∧ t.cores = (s.acquireL1 c.ref.core 6).cores
      ∧ SameVregs c.wave w ∧ WaveIs c t id (c.part.pastIn c 4 4 s.dcc) w)
    ∧ (c.part.ldOps = [] → c.part.heldOf [.ld] = none →
      ∃ t w, exec (.region r) s = .next t ∧ OnlyWave c s t ∧ SameVregs c.wave w
        ∧ WaveIs c t (fun v => { v with raysAtRegion := w.raysAtRegion })
            (Part.past { c.part with region := c.next 4, regionAt := s.dcc, regionCount := min (c.part.regionCount + 1) 127 } c 4 s.dcc) w
        ∧ ∀ e ∈ w.raysAtRegion, e ∈ c.wave.raysAtRegion ∨ e ∈ c.wave.rays))

/-! ### Gate calls and register claims -/

/-- `gcall` issues in up to three waits: while the core's cache lacks an entry that its checks need, the part waits for the read; with no read left, its
checks passed and its counts zero it parks in its claim; the grant (ClaimGrants) pushes the caller's frame and starts the callee (13 R302-R304, 02 R38).
A callee's first state: s0 holds the caller's ASID, domain and privilege, s1 the gate's index, every other uniform register is zero,
WB, IX, FPMODE, FPSTAT, STATUS, AMAX and GSTAT are zero, the ASID, domain, handler and gate table are the gate's, and the bits SPLIT and MISS stay only
where the gate allows a split (13 R302). -/
def Obligations.GateCallRuns : Prop :=
  (∀ (s : State) (c : Ctx) (r : RWord) (x : W32), s.issuing = some c →
    let g := x.toNat % 65536
    (∀ e, s.gateRead c g = none → s.gateFault c g = none → s.gateEntry c g = some e →
      OperandsOk c (spanVop r.d (fieldAt e 13 1) ++ spanVop r.a (fieldAt e 12 1)) →
      Free c r.s false none (some (c.effWidth (fieldAt e 16 1))) → s.quiet c = true →
      ∃ t w, exec (.gcall r x) s = .next t ∧ OnlyWave c s t ∧ SameVregs c.wave w
        ∧ WaveIs c t id (c.part.parkedAtOnce (.gclaim (s.gateCall c g e r) s.dcc false) s.dcc) w)
    ∧ (∀ t, s.gateRead c g = some t → ∃ w until_, exec (.gcall r x) s = .next t ∧ t.mem = s.mem ∧ t.scratch = s.scratch
        ∧ (s.dcc < until_ ∨ until_ = 0 ∧ ∃ e ∈ (t.core c.ref.core).gateCache, e.bytes ≠ [] ∧ e.ready ≤ s.dcc)
        ∧ (∀ k, k ≠ c.ref.key → t.wave? k = s.wave? k) ∧ SameVregs c.wave w
        ∧ WaveIs c t id (c.part.parkedAtOnce (.on (.time until_)) s.dcc) w))
  ∧ (∀ (p : Part) (g : GateCall),
    let r := calleeRegs p g
    (r.sreg 0).toNat = p.regs.asid.toNat + 2 ^ 16 * p.regs.domain.toNat + (if p.regs.privseg then 2 ^ 24 else 0)
    ∧ (r.sreg 1).toNat = g.gateIx.toNat ∧ (∀ n, 2 ≤ n → r.sreg n = 0)
    ∧ r.wb = 0 ∧ r.ix0 = 0 ∧ r.ix1 = 0 ∧ r.fpmode = 0 ∧ r.fpstat = 0 ∧ r.status = 0 ∧ r.amaxv = 0 ∧ r.amaxnan = false
    ∧ r.fcode = 0 ∧ r.unwound = false ∧ r.gate = 0 ∧ r.minw = p.regs.minw
    ∧ r.asid = g.tasid ∧ r.domain = g.tdom ∧ r.privseg = g.privseg ∧ r.handler.toNat = g.handler.toNat % 2 ^ 57 / 4 * 4
    ∧ r.gtable.toNat = g.gt.toNat % 2 ^ 57 / 32 * 32 ∧ r.gtlogn.toNat = g.gt.toNat % 32
    ∧ r.split = (p.regs.split && g.allowSplit) ∧ r.miss = (p.regs.miss && g.allowSplit))

/-- CLAIM_GRANT completes: when one claim of a core is pending and its banks and scratch hold enough, it is granted. A `regclm`'s registers
are added to the wave's allotment, zeroed, and taken from its banks, and its part moves on; a `gcall`'s part stands in the callee, its frame pushed over the
caller's registers and failures, its arguments in v0 to v(NARG - 1) of every lane, every other register and every predicate zero (02 R37, R38, 13 R302-R304).
Of several claims the oldest is visited first: it takes its registers before the next one is looked at, and one that cannot be granted
lets a younger one pass unless it has waited 4,096 cycles and the two share a bank (02 R38). -/
def Obligations.ClaimGrants : Prop :=
  (∀ (s : State) (core : Nat) (q : Claim) (w : Wave) (p : Part), s.claims core = [q] → s.grantable core q = true → q.ref.core = core →
    s.wave? q.ref.key = some w → w.part? q.ref.base = some p →
    (∀ n since aged, p.park = .claim n since aged →
      ∃ t w' p', exec (.claimGrant core) s = .next t ∧ t = { s with cores := t.cores, waves := t.waves }
        ∧ (∀ k, k ≠ q.ref.key → t.wave? k = s.wave? k) ∧ t.wave? q.ref.key = some w' ∧ w'.part? q.ref.base = some p' ∧ w'.allot = w.allot + q.n ∧ p'.pc = p.pc + 8 ∧ p'.park = .running
        ∧ p'.regs = p.regs ∧ (∀ depth l m, l < 64 → m < 512 → w'.v depth l m = if depth = 0 ∧ w.allot ≤ m ∧ m < w.allot + q.n then 0 else w.v depth l m)
        ∧ ∀ b, poolOf (t.core core) b = poolOf (s.core core) b - if b ∈ q.banks then q.n else 0)
    ∧ (∀ g since aged, p.park = .gclaim g since aged → p.base + p.width ≤ 64 → g.args.length ≤ 512 →
      let mine := fun (l : Nat) => p.base ≤ l ∧ l < p.base + p.width
      ∃ t w' p' f, exec (.claimGrant core) s = .next t
        ∧ t = { s with cores := t.cores, waves := t.waves, scratch := t.scratch, nextId := s.nextId + 1 }
        ∧ (∀ k, k ≠ q.ref.key → t.wave? k = s.wave? k) ∧ t.wave? q.ref.key = some w' ∧ w'.part? q.ref.base = some p' ∧ p'.pc = g.entry ∧ p'.frames = f :: p.frames ∧ p'.regs = calleeRegs p g
        ∧ p'.gentryDue = true ∧ p'.notBefore = s.dcc + 24 + g.args.length
        ∧ f.ret = p.pc + 8 ∧ f.regs = p.regs ∧ f.callot = g.n ∧ f.fails = p.fails ∧ f.held = p.held ∧ f.unwind = g.unwind
        ∧ (∀ depth l m, l < 64 → m < 512 → w'.v depth l m =
            if depth = p.frames.length + 1 ∧ mine l then (if m < g.args.length then w.v p.frames.length l (g.args.getD m 0) else 0) else w.v depth l m)
        ∧ (∀ n l, 0 < n → n < 8 → l < 64 → (w'.p n).getLsbD l = if mine l then false else (w.p n).getLsbD l)
        ∧ ∀ a, readByte t.scratch a =
            if scratchKey core (f.scrBase * 8192) ≤ a ∧ a < scratchKey core ((f.scrBase + g.units) * 8192) then 0 else readByte s.scratch a))
  ∧ (∀ (s : State) (core : Nat),
    (s.claims core).Pairwise (fun a b => a.since < b.since ∨ a.since = b.since ∧
      (a.partition < b.partition ∨ a.partition = b.partition ∧ a.ref.slot ≤ b.ref.slot))
    ∧ (∀ q, q ∈ s.claims core ↔ ∃ e ∈ s.waves, e.2.core = core ∧ ∃ p ∈ e.2.parts, claimOf e.2 p = some q)
    ∧ ∀ q r, s.claims core = [q, r] →
      let old := q.aged = true ∨ q.since + 4096 ≤ s.dcc
      let shared := ∃ b ∈ r.banks, b ∈ q.banks
      (s.grantable core q = true → exec (.claimGrant core) s = .next
        (if (s.grantClaim q).grantable core r then (s.grantClaim q).grantClaim r else s.grantClaim q))
      ∧ (s.grantable core q = false → s.grantable core r = true → ¬ (old ∧ shared) → exec (.claimGrant core) s = .next (s.grantClaim r))
      ∧ (s.grantable core q = false → old → shared → exec (.claimGrant core) s = .next s))

/-- `gret` completes: with nothing outstanding, the caller's registers, predicates and failures come back, its result block takes the callee's results in the
lanes that were active at the `gcall`, the callee's registers are zero, the part stands at the return address 16 + NRES cycles later outside the call,
GSTAT names the gate, and the frame's scratch is zero when no other part holds the frame (13 R305). -/
def Obligations.GateReturns : Prop :=
  ∀ (s : State) (c : Ctx) (r : RWord) (f : GateFrame) (fs : List GateFrame), s.issuing = some c → c.part.frames = f :: fs → c.part.tcode = 0 →
    OperandsOk c (spanVop r.a f.nres) → Free c r.s false none (some f.width) → s.quiet c = true → c.part.fails = [] → c.part.held = [] →
    c.part.base + c.part.width ≤ 64 → f.results.length = f.nres → f.results.Nodup → (∀ n ∈ f.results, n < 512) →
    let mine := fun (l : Nat) => c.part.base ≤ l ∧ l < c.part.base + c.part.width
    let back := fun (l : Nat) => f.emask.getLsbD l = true ∧ mine l
    ∃ t w p, exec (.gret r) s = .next t ∧ t = { s with cores := t.cores, waves := t.waves, scratch := t.scratch }
      ∧ (∀ k, k ≠ c.ref.key → t.wave? k = s.wave? k)
      ∧ t.wave? c.ref.key = some w ∧ w.part? c.ref.base = some p ∧ p.pc = f.ret ∧ p.park = .running ∧ p.frames = fs ∧ p.fails = f.fails
      ∧ p.held = f.held ∧ p.regs = { f.regs with gate := f.gateIx, unwound := false, fcode := 0 } ∧ p.tcode = 0
      ∧ p.notBefore = s.dcc + 16 + f.nres
      ∧ (∀ l < 64, back l → ∀ k < f.nres,
          w.v fs.length l (f.results.getD k 0) = c.wave.v (fs.length + 1) l (regNumber c.wb (r.a.toNat + k)))
      ∧ (∀ l < 64, mine l → ∀ n < 512, w.v (fs.length + 1) l n = 0)
      ∧ (∀ depth l n, l < 64 → n < 512 → (depth ≠ fs.length + 1 ∨ ¬ mine l) → (depth ≠ fs.length ∨ ¬ back l ∨ n ∉ f.results) →
          w.v depth l n = c.wave.v depth l n)
      ∧ (∀ n l, 0 < n → n < 8 → l < 64 → (mine l → (w.p n).getLsbD l = (getT 0 f.preds n).getLsbD l)
          ∧ (¬ mine l → (w.p n).getLsbD l = (c.wave.p n).getLsbD l))
      ∧ ∀ a, readByte t.scratch a =
          if (t.openFrames c.ref.core).any (fun g => g.uid == f.uid) then readByte s.scratch a
          else if scratchKey c.ref.core (f.scrBase * 8192) ≤ a ∧ a < scratchKey c.ref.core ((f.scrBase + f.cscr) * 8192) then 0
          else readByte s.scratch a

/-- `regrel` and `regclm` complete: released registers leave the wave's allotment and are credited to its banks, and the registers kept, those of open gate calls
among them, hold their values; a claim parks until its grant (02 R36, R37). R36 says that the values of released registers are lost; that they read 0
afterwards is the model's choice (notes/assumptions/49.md).
Claims age and deadlock: a claim that has waited 4,096 cycles is marked, and a younger one is not; the only claim of a group all of whose other parts
wait too, with banks that do not hold enough, takes REGDEAD with its n (02 R38, R39, 12 R517). -/
def Obligations.Claims : Prop :=
  (∀ (s : State) (c : Ctx) (r : RWord) (x : W32), s.issuing = some c → c.part.frames = [] → x.toNat % 8 = 0 →
    Free c r.s false none (some (c.effWidth 0)) →
    (x ≠ 0 → x.toNat < c.wave.allot →
      ∃ t w p, exec (.regrel r x) s = .next t ∧ t = { s with cores := t.cores, waves := t.waves }
        ∧ (∀ k, k ≠ c.ref.key → t.wave? k = s.wave? k) ∧ t.wave? c.ref.key = some w ∧ w.part? c.ref.base = some p
        ∧ w.allot = c.wave.allot - x.toNat ∧ p.regs = c.part.regs ∧ p.pc = c.part.pc + 8
        ∧ (∀ depth l n, l < 64 → n < 512 → w.v depth l n = if depth = 0 ∧ c.wave.allot - x.toNat ≤ n then 0 else c.wave.v depth l n)
        ∧ t.core c.ref.core = creditBanks (s.core c.ref.core) c.wave.allBanks x.toNat)
    ∧ (x ≠ 0 → c.wave.allot + x.toNat ≤ 256 →
      ∃ t w, exec (.regclm r x) s = .next t ∧ OnlyWave c s t ∧ SameVregs c.wave w
        ∧ WaveIs c t id (c.part.parkedAtOnce (.claim x.toNat s.dcc false) s.dcc) w))
  ∧ ((∀ (s : State) (core : Nat), ∃ t, exec (.claimAging core) s = .next t ∧ t = { s with waves := t.waves }
    ∧ (∀ (k : Nat) (w : Wave), s.wave? k = some w → ∃ w' : Wave, t.wave? k = some w' ∧ w' = { w with parts := w'.parts }
      ∧ (w.core ≠ core → w' = w) ∧ w'.parts.length = w.parts.length
      ∧ ∀ (n : Nat) (p : Part), w.parts[n]? = some p → w.core = core → ∃ q : Part, w'.parts[n]? = some q ∧ q = { p with park := q.park }
        ∧ (∀ m since, p.park = .claim m since false → q.park = .claim m since (decide (since + 4096 ≤ s.dcc)))
        ∧ (∀ g since, p.park = .gclaim g since false → q.park = .gclaim g since (decide (since + 4096 ≤ s.dcc)))
        ∧ ((∀ m since, p.park ≠ .claim m since false) → (∀ g since, p.park ≠ .gclaim g since false) → q = p)))
  ∧ (∀ (s : State) (c : Ctx) (q : Claim), s.ctx? c.ref = some c → HandlerReady c → s.groupWaves c.wave.group = [c.wave] →
    (∀ p ∈ c.wave.parts, p = c.part ∨ barrierPark p.park = true) → claimOf c.wave c.part = some q → c.wave.parts.filterMap (claimOf c.wave) = [q] →
    q.ref = c.ref → s.grantable c.ref.core q = false →
    ∃ t w p, exec (.claimDeadlock c.wave.group) s = .next t ∧ InHandler c s t 0x09 0 (BitVec.ofNat 64 q.n) c.part.pc w p))

/-! ### Memory -/

/-- `ld`, `st` and `atom` issue: with addresses of 57 bits, aligned to their size, no watchpoint and room in the side log, the part counts
one operation that asks for each active lane's bytes, and moves on; no register and no byte of memory changes yet. Helper lanes store
nothing, and get 0 from an atomic (20 R445, 22 R494, 19 R398-R401, 14 R328, 03 R69).
`sld` and `sst` issue one access for the part, at s(A) plus the offset, if a lane qualifies: an active one for a load, an active one that is
no helper for a store; the part counts the operation and moves on (22 R481, R482). The lane a load goes by is its lowest active one that is no
helper, if there is one (12 R293). -/
def Obligations.GlobalAccesses : Prop :=
  (∀ (m : MWord) (x : XmWord),
    let size := fun (y : XmWord) => szBytes y.sz
    let stored := fun (y : XmWord) (c : Ctx) => ((laneAddrs c m y).filter (fun e => !c.wave.helper.getLsbD e.1)).map Prod.snd
    let load := fun (i : Instr) (len : Nat) (y : XmWord) => ∀ (s : State) (c : Ctx), s.issuing = some c →
      GlobalReady m y .ld (mData m.d y.sz) (fun _ => []) s c →
      ∃ t, exec i s = .next t ∧ Started c s t .ld (.load c.part.depth ((mData m.d y.sz).reg c.wb 0 0) (mData m.d y.sz).unit) len
        ((laneAddrs c m y).map (fun e => (e.1, e.2, size y, [], [])))
    let store := fun (i : Instr) (len : Nat) (y : XmWord) => ∀ (s : State) (c : Ctx), s.issuing = some c →
      GlobalReady m y .st (mData m.d y.sz) (stored y) s c →
      ∃ t, exec i s = .next t ∧ Started c s t .st .store len
        (((laneAddrs c m y).filter (fun e => !c.wave.helper.getLsbD e.1)).map (fun e =>
          (e.1, e.2, size y, bytesOfNat (size y) (c.vec e.1 (mData m.d y.sz) 0 0), [])))
    let atom := fun (i : Instr) (len : Nat) (y : XmWord) => ∀ (s : State) (c : Ctx), s.issuing = some c →
      let d := atomData m.d y
      let asks := fun (e : Nat × Nat) => (e.1, e.2, size y, (atomBytes c d y e.1).1, (atomBytes c d y e.1).2)
      (m.nr = true → GlobalReady m y .st d (stored y) s c →
        ∃ t, exec i s = .next t ∧ Started c s t .st (.atom y.sub.toNat none) len
          (((laneAddrs c m y).filter (fun e => !c.wave.helper.getLsbD e.1)).map asks))
      ∧ (m.nr = false → GlobalReady m y .ld d (fun _ => []) s c →
        ∃ t, exec i s = .next t ∧ Started c s t .ld (.atom y.sub.toNat (some (c.part.depth, d.reg c.wb 0 0))) len
          ((laneAddrs c m y).map (fun e => if c.wave.helper.getLsbD e.1 then (e.1, e.2, size y, bytesOfNat (size y) 0, []) else asks e)))
    load (.ld m) 4 xmDefault ∧ load (.ldExt m x) 8 x ∧ store (.st m) 4 xmDefault ∧ store (.stExt m x) 8 x
    ∧ atom (.atom m) 4 xmDefault ∧ atom (.atomExt m x) 8 x)
  ∧ (∀ (u : UWord) (x : XmWord),
    let addr := fun (y : XmWord) (c : Ctx) => ((((c.sreg u.a.toNat).toNat : Int) + y.off.toInt) % 2 ^ 64).toNat
    let access := fun (i : Instr) (len : Nat) (y : XmWord) (load : Bool) => ∀ (s : State) (c : Ctx), s.issuing = some c →
      let cls := if load then Cls.ld else Cls.st
      let lanes := if load then c.emask else c.emask &&& ~~~c.wave.helper
      let own := lanes &&& ~~~c.wave.helper
      Free c u.s true (some cls) none → ReleaseReady s c y.ord.toNat → AddressesOk (szBytes y.sz) [addr y c] → Unwatched s c →
      (load = false → LogRoom s c [addr y c]) →
      ∃ t, exec i s = .next t ∧ Started c s t cls (if load then .sload u.d.toNat else .store) len
        (if lanes = 0 then [] else [((lanesOf (if own = 0 then lanes else own)).headD 0, addr y c, szBytes y.sz,
          if load then [] else bytesOfNat (szBytes y.sz) (c.sreg u.d.toNat).toNat, [])])
    access (.sld u) 4 xmDefault true ∧ access (.sldExt u x) 8 x true ∧ access (.sst u) 4 xmDefault false ∧ access (.sstExt u x) 8 x false)

/-- The address traps of a global access, at its first offending lane and with no effect of any lane: ACCESS 5 for bits 63:57, then ALIGN
(20 R445, 05 R106).
An access out of the part's scratch takes ACCESS 4 at the instruction with the first offending offset, and no lane has an effect. -/
def Obligations.AccessTraps : Prop :=
  (∀ (m : MWord) (x : XmWord) (a : Nat) (pre post : List Nat),
    let vas := fun (c : Ctx) => (laneAddrs c m x).map Prod.snd
    let ready := fun (s : State) (c : Ctx) (cls : Cls) => Free c m.s true (some cls) none ∧ OperandsOk c (mData m.d x.sz :: (mOffset m).toList)
      ∧ ReleaseReady s c x.ord.toNat ∧ vas c = pre ++ a :: post
    let high := (∀ b ∈ pre, b < 2 ^ 57) ∧ 2 ^ 57 ≤ a
    let odd := (∀ b ∈ pre ++ a :: post, b < 2 ^ 57) ∧ (∀ b ∈ pre, b % szBytes x.sz = 0) ∧ a % szBytes x.sz ≠ 0
    (high → TrapsWith (.ldExt m x) (fun s c => ready s c .ld) 0x05 (fun _ _ => 5) (fun _ _ => BitVec.ofNat 64 a) (fun c => c.part.pc)
      ∧ TrapsWith (.stExt m x) (fun s c => ready s c .st) 0x05 (fun _ _ => 5) (fun _ _ => BitVec.ofNat 64 a) (fun c => c.part.pc))
    ∧ (odd → TrapsWith (.ldExt m x) (fun s c => ready s c .ld) 0x04 (fun _ _ => 0) (fun _ _ => BitVec.ofNat 64 a) (fun c => c.part.pc)
      ∧ TrapsWith (.stExt m x) (fun s c => ready s c .st) 0x04 (fun _ _ => 0) (fun _ _ => BitVec.ofNat 64 a) (fun c => c.part.pc)))
  ∧ (∀ (m : MWord) (x : XmWord) (a : Nat) (pre post : List Nat),
    let ready := fun (s : State) (c : Ctx) (cls : Cls) => Free c m.s true (some cls) none ∧ OperandsOk c (mData m.d x.sz :: (mOffset m).toList)
      ∧ FullReleaseReady s c x.ord.toNat x.scope.toNat ∧ (laneOffs c m x).map Prod.snd = pre ++ a :: post
      ∧ (∀ b ∈ pre, b + szBytes x.sz ≤ c.scratchArea.2) ∧ c.scratchArea.2 < a + szBytes x.sz
    TrapsWith (.ldlExt m x) (fun s c => ready s c .ld) 0x05 (fun _ _ => 4) (fun _ _ => BitVec.ofNat 64 a) (fun c => c.part.pc)
    ∧ TrapsWith (.stlExt m x) (fun s c => ready s c .st) 0x05 (fun _ _ => 4) (fun _ _ => BitVec.ofNat 64 a) (fun c => c.part.pc))

/-- The scratch instructions complete: `ldl`, `stl` and `atoml` perform as they issue. A load's lane holds the bytes at its offset, a store's
bytes stand in the scratch of the part's core, and every other byte of scratch and all of memory is unchanged (20 R447, 22 R496, 19 R402,
07 R177). -/
def Obligations.ScratchAccesses : Prop :=
  ∀ (m : MWord) (x : XmWord),
    let size := fun (y : XmWord) => szBytes y.sz
    let key := fun (c : Ctx) (off : Nat) => scratchKey c.ref.core (c.scratchArea.1 + off)
    let frame := fun (c : Ctx) (s t : State) (cls : Cls) (len : Nat) =>
      t = { s with scratch := t.scratch, cores := t.cores, groups := t.groups, launches := t.launches, ops := t.ops, nextId := s.nextId + 1, waves := t.waves }
      ∧ ∃ w p, t.wave? c.ref.key = some w ∧ w.part? c.ref.base = some p ∧ SameVregs c.wave w ∧ p.regs = c.part.regs
        ∧ p.opsOf cls = c.part.opsOf cls ++ [s.nextId] ∧ p.pc = c.next len
    let load := fun (i : Instr) (len : Nat) (y : XmWord) => ∀ (s : State) (c : Ctx), s.issuing = some c →
      ScratchReady m y .ld (mData m.d y.sz) s c →
      ∃ t, exec i s = .next t ∧ frame c s t .ld len ∧ t.scratch = s.scratch ∧ ∃ o ∈ t.ops, o.id = s.nextId
        ∧ o.accs.map (fun a => (a.lane, a.data)) = (laneOffs c m y).map (fun e => (e.1, readBytes s.scratch (key c e.2) (size y)))
    let store := fun (i : Instr) (len : Nat) (y : XmWord) => ∀ (s : State) (c : Ctx), s.issuing = some c →
      ScratchReady m y .st (mData m.d y.sz) s c →
      let stores := (laneOffs c m y).filter (fun e => !c.wave.helper.getLsbD e.1)
      ∃ t, exec i s = .next t ∧ frame c s t .st len
        ∧ (∀ l off, stores = [(l, off)] → readBytes t.scratch (key c off) (size y) = bytesOfNat (size y) (c.vec l (mData m.d y.sz) 0 0))
        ∧ ∀ a, (∀ e ∈ stores, a < key c e.2 ∨ key c e.2 + size y ≤ a) → readByte t.scratch a = readByte s.scratch a
    let atom := fun (i : Instr) (len : Nat) (y : XmWord) => ∀ (s : State) (c : Ctx), s.issuing = some c →
      let cls := if m.nr then Cls.st else Cls.ld
      ScratchReady m y cls (atomData m.d y) s c →
      ∃ t, exec i s = .next t ∧ frame c s t cls len
        ∧ (∀ l off, laneOffs c m y = [(l, off)] → c.wave.helper.getLsbD l = false →
            let old := natOfBytes (readBytes s.scratch (key c off) (size y))
            let b := atomBytes c (atomData m.d y) y l
            readBytes t.scratch (key c off) (size y)
              = bytesOfNat (size y) (atomNew y.sub.toNat (8 * size y) old (natOfBytes b.1) (natOfBytes b.2)))
        ∧ ∀ a, (∀ e ∈ laneOffs c m y, a < key c e.2 ∨ key c e.2 + size y ≤ a) → readByte t.scratch a = readByte s.scratch a
    load (.ldl m) 4 xmDefault ∧ load (.ldlExt m x) 8 x ∧ store (.stl m) 4 xmDefault ∧ store (.stlExt m x) 8 x
    ∧ atom (.atoml m) 4 xmDefault ∧ atom (.atomlExt m x) 8 x

/-- `fence`, `cctl` and `pfetch` complete. A fence with every earlier access performed and no rejection to deliver moves on once its release's write-backs have
performed, and has invalidated for its acquire; where a release finds dirty sectors, they are sent and the part waits for them. A `cctl` sends the dirty sectors of the lines of
its lanes' mapped addresses home, drops their clean sectors, or both; SUB 3 sends back and empties the whole L1. A prefetch asks for the line of each
mapped address that is aligned to its size, at its cache policy, and for no other. All leave registers and memory alone and the part moves on (09 R217, R218, 19 R413-R415, 21 R457, R458). -/
def Obligations.CacheInstructions : Prop :=
  ∀ (m : MWord) (x : XmWord) (s : State) (c : Ctx), s.issuing = some c → Free c m.s true none none →
    let core := c.ref.core
    let asid := c.part.regs.asid
    let scope := x.scope.toNat
    let on := fun (t : State) (len : Nat) => (∀ k, k ≠ c.ref.key → t.wave? k = s.wave? k)
      ∧ ∃ w, SameVregs c.wave w ∧ WaveIs c t id (c.part.past c len s.dcc) w
    let sent := fun (t : State) (l : L1Line) => ∃ b ∈ t.backs, b.core = core ∧ b.line = l.line ∧ b.sectors = l.dirty ∧ b.data = l.data ∧ s.dcc < b.due
    (s.drained core c.part = true → c.part.heldOf [.ld, .st] = none →
      ((2 ≤ x.ord.toNat → BacksGone s c scope) →
        ∃ t, exec (.fence m x) s = .next t ∧ on t 8 ∧ t = { s with cores := t.cores, waves := t.waves }
          ∧ (x.ord.toNat % 2 = 0 → t.cores = s.cores) ∧ (x.ord.toNat % 2 = 1 → t.cores = (s.acquireL1 core scope).cores)
          ∧ (x.ord.toNat % 2 = 1 → ∀ l ∈ (t.core core).l1, l.kind = 0 → scope = 6 ∨ (3 ≤ scope ∧ l2Cached (l.line * 128) = true) → l.valid &&& ~~~l.dirty = 0))
      ∧ (2 ≤ x.ord.toNat → c.part.relAt = none → (s.releaseL1 core scope).backsDone core (s.releaseL1 core scope).nextId = false →
        ∃ t, exec (.fence m x) s = .next t ∧ ReleaseSent s c scope false t))
    ∧ (∀ i len y, (i, len, y) = (Instr.cctl m, 4, xmDefault) ∨ (i, len, y) = (Instr.cctlExt m x, 8, x) → y.sub.toNat ≠ 3 →
        OperandsOk c (mOffset m).toList →
        let addrs := (laneAddrs c m y).map Prod.snd
        (∀ a ∈ addrs, a < 2 ^ 57 ∧ s.walk (dieOf core) asid a ≠ .malformed) → s.opsBefore c false addrs = [] →
        ∃ t, exec i s = .next t ∧ on t len
          ∧ t = { s with cores := t.cores, dies := t.dies, banks := t.banks, l2 := t.l2, backs := t.backs, nextId := t.nextId, waves := t.waves }
          ∧ ∀ a ∈ addrs, ∀ pte p, s.walk (dieOf core) asid a = .leaf pte p → bitsOf pte 2 3 ≠ 0 →
            let line := paOf pte p a / 128
            (y.sub.toNat ≠ 1 → (∀ l, t.l1Line? core line = some l → l.dirty = 0) ∧ ∀ l, s.l1Line? core line = some l → l.dirty ≠ 0 → sent t l)
            ∧ (1 ≤ y.sub.toNat → ∀ l, t.l1Line? core line = some l → l.valid &&& ~~~l.dirty = 0)
            ∧ (y.sub.toNat = 1 → ∀ l, s.l1Line? core line = some l → l.valid &&& l.dirty ≠ 0 →
                t.l1Line? core line = some { l with valid := l.valid &&& l.dirty }))
    ∧ (x.sub.toNat = 3 → s.opsBefore c true [] = [] →
        ∃ t, exec (.cctlExt m x) s = .next t ∧ on t 8 ∧ t = { s with cores := t.cores, backs := t.backs, nextId := t.nextId, waves := t.waves }
          ∧ (t.core core).l1 = [] ∧ ∀ l, s.l1Line? core l.line = some l → l.dirty ≠ 0 → sent t l)
    ∧ (∀ i len y, (i, len, y) = (Instr.pfetch m, 4, xmDefault) ∨ (i, len, y) = (Instr.pfetchExt m x, 8, x) → OperandsOk c (mOffset m).toList →
        ∃ t asked, exec i s = .next t ∧ on t len ∧ t = { s with cores := t.cores, dies := t.dies, prefetches := t.prefetches, waves := t.waves }
          ∧ t.prefetches = s.prefetches ++ asked ∧ (∀ f ∈ asked, f.core = core ∧ f.asid = asid ∧ f.cp = y.cp.toNat ∧ s.dcc < f.arrival
            ∧ f.va ∈ (laneAddrs c m y).map Prod.snd ∧ f.va < 2 ^ 57 ∧ f.va % szBytes y.sz = 0)
          ∧ ∀ a ∈ (laneAddrs c m y).map Prod.snd, a < 2 ^ 57 → a % szBytes y.sz = 0 → ∀ pte p, s.walk (dieOf core) asid a = .leaf pte p → ∃ f ∈ asked, f.va = a)

/-- What performs at a slice, in the turn of its arrival: a store that does not stay in the L1 leaves its bytes at its address and every other
byte of memory unchanged; a load of an S page takes the bytes that stand there; an atomic leaves the operation's result and returns the old
bytes. In these states no slice watchpoint is armed, and the core holds no dirty sector of the line of an access that bypasses its L1: one would go back
ahead of it (08 R196, R199, 09 R209, R211, R219, 19 R399, R400). -/
def Obligations.SlicePerforms : Prop :=
  ∀ (s : State) (o : MemOp) (a : Access), s.op? o.id = some o → o.accs = [a] → s.canPerform o a = true → o.ord = 0 →
    s.pinned (some o.core) a.pa = false → (bypasses o a = true → s.lineBusy o.core (a.pa / 128) = false) → (s.die (dieOfPa a.pa)).dbgEn = false →
    let done := fun (t : State) (data : List Byte) => ∃ q b, t.op? o.id = some q ∧ q.accs = [b] ∧ b.phase = .done ∧ b.lane = a.lane ∧ b.data = data
    let rest := fun (t : State) => ∀ p, p < a.pa ∨ a.pa + a.size ≤ p → readByte t.mem p = readByte s.mem p
    (o.kind = .store → narrowStore a.kind a.cp o.scope = false → a.data.length = a.size →
      ∃ t, exec (.sliceRequest o.id) s = .next t ∧ done t a.data ∧ readBytes t.mem a.pa a.size = a.data ∧ rest t)
    ∧ (∀ d r n, o.kind = .load d r n → a.kind = 1 →
      ∃ t, exec (.sliceRequest o.id) s = .next t ∧ done t (readBytes s.mem a.pa a.size) ∧ t.mem = s.mem)
    ∧ (∀ op ret, o.kind = .atom op ret →
      let old := readBytes s.mem a.pa a.size
      ∃ t, exec (.sliceRequest o.id) s = .next t ∧ done t old
        ∧ readBytes t.mem a.pa a.size = bytesOfNat a.size (atomNew op (8 * a.size) (natOfBytes old) (natOfBytes a.data) (natOfBytes a.data2))
        ∧ rest t)

/-- LD_COMPLETION and ST_COMPLETION complete: the oldest operation of its class whose only access is back writes its destination registers in
the access's lane (a message's in its receiver's lanes), the least significant word first, or its uniform register, and no other register; an ST operation writes none; the
part counts it no longer (03 R69, 05 R117, 08 R205, 09 R223).
`waitc` completes once its class has at most n outstanding, none of the part's stores stands in the side log, and none of its class's older operations has
failed (09 R224, 08 R195). -/
def Obligations.Completions : Prop :=
  (∀ (s : State) (o : MemOp) (a : Access) (w : Wave) (p : Part), s.op? o.id = some o → o.accs = [a] → a.phase = .done → a.due ≤ s.dcc →
    o.due ≤ s.dcc → o.parked = false → (∀ q ∈ s.posted, q.op ≠ some o.id) → s.wave? o.key = some w → w.admission = o.admission → w.parts = [p] → (p.opsOf o.cls).head? = some o.id →
    let ended := fun (t : State) (w' : Wave) => t.wave? o.key = some w' ∧ t.op? o.id = none ∧ t.mem = s.mem ∧ t.scratch = s.scratch
      ∧ (∀ k, k ≠ o.key → t.wave? k = s.wave? k)
      ∧ ∃ p', w'.parts = [p'] ∧ p'.opsOf o.cls = (p.opsOf o.cls).filter (fun i => i != o.id) ∧ p'.regs.fpstat = p.regs.fpstat ∧ p'.pc = p.pc
    let uniform := fun (w' : Wave) => ∀ q ∈ w'.parts, ∀ n, q.regs.sreg n = p.regs.sreg n
    (∀ depth dst n, o.cls = .ld → dst + n ≤ 512 → depth ≠ 0 ∨ dst + n ≤ w.allot → a.lane < 64 →
      (o.kind = .load depth dst n ∨ o.kind = .scratchLoad depth dst n ∨ (∃ q, o.kind = .unit depth dst n q)
        ∨ (n = a.size / 4 ∧ ((∃ op, o.kind = .atom op (some (depth, dst))) ∨ o.kind = .scratchAtom (some (depth, dst))))) →
      ∃ t w', exec (.ldCompletion o.id) s = .next t ∧ ended t w' ∧ uniform w'
        ∧ (∀ k < n, w'.v depth a.lane (dst + k) = BitVec.ofNat 32 (natOfBytes a.data / 2 ^ (32 * k)))
        ∧ ∀ d l m, l < 64 → m < 512 → d ≠ depth ∨ l ≠ a.lane ∨ m < dst ∨ dst + n ≤ m → w'.v d l m = w.v d l m)
    ∧ (∀ key depth dst n act, o.cls = .ld → o.kind = .chrecv key depth dst n act → dst + n ≤ 512 → depth ≠ 0 ∨ dst + n ≤ w.allot →
      ∃ t w', exec (.ldCompletion o.id) s = .next t ∧ ended t w' ∧ uniform w'
        ∧ (∀ l < 64, act.getLsbD l = true → ∀ k < n,
            w'.v depth l (dst + k) = BitVec.ofNat 32 (natOfBytes ((a.data.drop (4 * (k * a.size + (l - a.lane)))).take 4)))
        ∧ ∀ d l m, l < 64 → m < 512 → d ≠ depth ∨ act.getLsbD l = false ∨ m < dst ∨ dst + n ≤ m → w'.v d l m = w.v d l m)
    ∧ (∀ d, o.cls = .ld → o.kind = .sload d ∨ o.kind = .qdeq d →
      ∃ t w', exec (.ldCompletion o.id) s = .next t ∧ ended t w' ∧ SameVregs w w'
        ∧ ∀ q ∈ w'.parts, q.regs.sreg d = BitVec.ofNat 64 (natOfBytes a.data) ∧ ∀ n, n ≠ d → q.regs.sreg n = p.regs.sreg n)
    ∧ (o.cls = .st → (o.kind = .store ∨ o.kind = .scratchStore ∨ o.kind = .meshOut ∨ (∃ op, o.kind = .atom op none) ∨ o.kind = .scratchAtom none
        ∨ (∃ v, o.kind = .qenq v) ∨ (∃ k b, o.kind = .chsend k b) ∨ ∃ ws, o.kind = .output ws) →
      ∃ t w', exec (.stCompletion o.id) s = .next t ∧ ended t w' ∧ SameVregs w w' ∧ uniform w'))
  ∧ (∀ r : RWord,
    PartResult (.waitc r)
      (fun s c => Free c r.s true none none ∧ c.part.count (clsOf r.d.toNat) ≤ r.b.toNat
        ∧ (clsOf r.d.toNat = .st → s.partLogged c.ref.core c.part = false)
        ∧ c.part.waitcFailure (clsOf r.d.toNat) r.b.toNat = none)
      (fun s c => c.part.past c 4 s.dcc))

/-- Results come back whatever their number of lanes, and what only waits or notifies goes on. An LD or ST operation whose every access is back, and that is the oldest of its class in each
part that holds it, is counted no longer, and a load's values stand in its lanes (09 R223). A `gret` with nothing outstanding stands at its return address (13 R305); a `fence`, a `cctl` and
a `pfetch` (09 R218, 21 R457, R458) and a `waitc` (09 R224) stand behind themselves; and a doorbell of a tenant that may ring it is taken (11 R252). None of them changes memory. -/
def Obligations.FormsComplete : Prop :=
  ∀ (s : State),
    (∀ (o : MemOp) (w : Wave), s.op? o.id = some o → (∀ a ∈ o.accs, a.phase = .done ∧ a.due ≤ s.dcc) → o.due ≤ s.dcc → o.parked = false →
      (∀ q ∈ s.posted, q.op ≠ some o.id) → s.wave? o.key = some w → w.admission = o.admission → (∀ p ∈ w.parts, o.id ∈ p.opsOf o.cls → (p.opsOf o.cls).head? = some o.id) →
      let back := fun (i : Instr) => ∃ t w', exec i s = .next t ∧ t.mem = s.mem ∧ t.op? o.id = none ∧ t.wave? o.key = some w'
        ∧ (∀ (n : Nat) (p : Part), w.parts[n]? = some p → ∃ q : Part, w'.parts[n]? = some q ∧ q.pc = p.pc
          ∧ q.opsOf o.cls = (p.opsOf o.cls).filter (fun i => i != o.id))
        ∧ ∀ depth dst n, o.kind = .load depth dst n → (o.accs.map (fun a => a.lane)).Nodup → dst + n ≤ 512 → depth ≠ 0 ∨ dst + n ≤ w.allot →
          ∀ a ∈ o.accs, a.lane < 64 → ∀ k < n, w'.v depth a.lane (dst + k) = BitVec.ofNat 32 (natOfBytes a.data / 2 ^ (32 * k))
      (o.cls = .ld → back (.ldCompletion o.id)) ∧ (o.cls = .st → back (.stCompletion o.id)))
    ∧ (∀ c : Ctx, s.issuing = some c →
      let at_ := fun (i : Instr) (pc : W64) => ∃ t w p, exec i s = .next t ∧ t.mem = s.mem ∧ t.wave? c.ref.key = some w ∧ w.part? c.ref.base = some p ∧ p.pc = pc
      (∀ r f fs, c.part.frames = f :: fs → c.part.tcode = 0 → OperandsOk c (spanVop r.a f.nres) → Free c r.s false none (some f.width) → s.quiet c = true →
        c.part.fails = [] → c.part.held = [] → at_ (.gret r) f.ret)
      ∧ (∀ m x, Free c m.s true none none →
        (s.drained c.ref.core c.part = true → c.part.heldOf [.ld, .st] = none → (2 ≤ x.ord.toNat → BacksGone s c x.scope.toNat) → at_ (.fence m x) (c.next 8))
        ∧ (OperandsOk c (mOffset m).toList → at_ (.pfetch m) (c.next 4) ∧ at_ (.pfetchExt m x) (c.next 8))
        ∧ (∀ i len y, (i, len, y) = (Instr.cctl m, 4, xmDefault) ∨ (i, len, y) = (Instr.cctlExt m x, 8, x) → y.sub.toNat ≠ 3 →
          OperandsOk c (mOffset m).toList → (∀ e ∈ laneAddrs c m y, e.2 < 2 ^ 57 ∧ s.walk (dieOf c.ref.core) c.part.regs.asid e.2 ≠ .malformed) →
          s.opsBefore c false ((laneAddrs c m y).map Prod.snd) = [] → at_ i (c.next len)))
      ∧ (∀ r, Free c r.s true none none → c.part.count (clsOf r.d.toNat) ≤ r.b.toNat → s.partLogged c.ref.core c.part = false →
        c.part.waitcFailure (clsOf r.d.toNat) r.b.toNat = none → at_ (.waitc r) (c.next 4)))
    ∧ (∀ (n : Nat) (v : W64) (src : Source), s.answers = true →
      (mayTenant src (s.queue n).tenant = true →
        (∃ t, exec (.qtailWrite n v src) s = .next t ∧ t.mem = s.mem ∧ (t.queue n).tail = v.extractLsb' 0 32)
        ∧ (v.getLsbD 63 = true → (s.queue n).stop = true → ∃ t, exec (.qerrStopWrite n v src) s = .next t ∧ t.mem = s.mem ∧ (t.queue n).stop = false)
        ∧ ∃ t, exec (.qpassWrite n v src) s = .next t ∧ t.mem = s.mem ∧ (t.queue n).qpass.toNat = v.toNat / 64 % 2 ^ 51 * 64)
      ∧ (mayTenant src n = true → (s.tenant n).flrAt ≠ some s.dcc →
        ∃ t, exec (.triggerWrite n v true src) s = .next t ∧ t.mem = s.mem ∧ (t.tenant n).patch = v.extractLsb' 0 48 ∧ (t.tenant n).gid = v.extractLsb' 48 16))

/-! ### Synchronisation -/

/-- The named barriers complete: `bara` adds the part's quads to the open phase and moves on, `barw` passes a phase that is over and else parks,
`bar` arrives and parks, for a barrier below NBAR outside a gate call with every earlier access performed; no register changes
(19 R403-R406).
A `barw` with no arrival record takes BARRIER 1 with the barrier's number, a barrier at or above NBAR, or a shape beyond the launch's rectangle, is ILLEGAL, and an
`rbar` whose shape differs from the open instance's takes BARRIER 2 (19 R405, 21 R466, 05 R129). That TADDR of these ILLEGAL traps holds the instruction's
address is the model's choice (notes/assumptions/8.md). -/
def Obligations.NamedBarriers : Prop :=
  (∀ (s : State) (c : Ctx) (r : RWord) (x : XaWord), s.issuing = some c → c.part.frames = [] → r.b.toNat < c.group.nbar →
    let b := r.b.toNat
    let k := barrierOf c.group b
    let lanes := getT 0 k.arrived c.ref.slot ||| laneRange c.part.base c.part.width
    let arrived := fun (t : State) (w : Wave) => t = { s with groups := t.groups, waves := t.waves }
      ∧ (∀ n, n ≠ c.ref.key → t.wave? n = s.wave? n) ∧ SameVregs c.wave w
      ∧ t.group? c.wave.group = some { c.group with barriers := putT c.group.barriers b { k with arrived := putT k.arrived c.ref.slot lanes } }
    let recorded := { c.part with arrivals := putT c.part.arrivals b k.phase }
    (Plain c r.s → openRecord c b = none → s.releaseDone c = true →
      ∃ t w, exec (.bara r) s = .next t ∧ arrived t w ∧ WaveIs c t id (Part.past recorded c 4 s.dcc) w)
    ∧ (∀ i len y, (i, len, y) = (Instr.bar r, 4, 0) ∨ (i, len, y) = (Instr.barExt r x, 8, x.mw) →
      Free c r.s false none (some (c.effWidth y)) → openRecord c b = none → s.releaseDone c = true →
      ∃ t w, exec i s = .next t ∧ arrived t w ∧ WaveIs c t id (recorded.parkedAtOnce (.barrier b k.phase) s.dcc) w)
    ∧ (∀ n, Plain c r.s → c.part.arrival? b = some n →
      ∃ t w, exec (.barw r) s = .next t ∧ OnlyWave c s t ∧ SameVregs c.wave w
        ∧ WaveIs c t id (if n < k.phase then Part.past { c.part with arrivals := delT c.part.arrivals b } c 4 s.dcc
            else c.part.parkedAtOnce (.barrier b n) s.dcc) w))
  ∧ (∀ r : RWord,
    TrapsWith (.barw r) (fun _ c => Plain c r.s ∧ r.b.toNat < c.group.nbar ∧ c.part.frames = [] ∧ c.part.arrival? r.b.toNat = none)
      0x13 (fun _ _ => 1) (fun _ _ => BitVec.ofNat 64 r.b.toNat) (fun c => c.part.pc)
    ∧ (∀ x, let beyond := fun (_ : State) (c : Ctx) => c.group.nbar ≤ r.b.toNat
      let wide := fun (_ : State) (c : Ctx) => c.launch.logw < r.b.toNat % 8 ∨ c.launch.logh < r.b.toNat / 8 % 4
      let illegal := fun (i : Instr) (bad : State → Ctx → Prop) => TrapsWith i bad 0x01 (fun _ _ => 0) (fun _ c => c.part.pc) (fun c => c.part.pc)
      illegal (.bara r) beyond ∧ illegal (.bar r) beyond ∧ illegal (.barExt r x) beyond ∧ illegal (.barw r) beyond
      ∧ illegal (.rbar r) wide ∧ illegal (.rbarExt r x) wide)
    ∧ TrapsWith (.rbar r) (fun _ c => Free c r.s false none (some (c.effWidth 0)) ∧ c.part.frames = [] ∧ r.b.toNat % 8 ≤ c.launch.logw
        ∧ r.b.toNat / 8 % 4 ≤ c.launch.logh ∧ (∃ sh, (c.launch.rbar c.ref.core).shape = some sh ∧ sh ≠ (r.b.toNat % 8, r.b.toNat / 8 % 4)))
      0x13 (fun _ _ => 2) (fun _ _ => BitVec.ofNat 64 r.b.toNat) (fun c => c.part.pc))

/-- `rbar` completes: of a shape within its launch's rectangle, with every earlier access performed, it sends the write-backs of a release at rect scope and, once
they have performed, adds its quads to the core's open instance and parks (21 R466, R468, 09 R217).
The barrier events complete: a phase whose expected quads have all arrived ends, its waiters go on behind their instruction four cycles later and the
next phase is open; a rectangle-barrier instance that a core's quads have all reached is reported and the core's next one opens, a report that names another
shape than a core of its sub-rectangle gives the waiters BARRIER, and once every core has reported the waiters acquire at rect scope and go on 88 or 130
cycles after the last report, 4 when the instance is the core's own (19 R403, 21 R466-R469). -/
def Obligations.RectangleBarriers : Prop :=
  (∀ (s : State) (c : Ctx) (r : RWord) (x : XaWord), s.issuing = some c → c.part.frames = [] →
    let sh := (r.b.toNat % 8, r.b.toNat / 8 % 4)
    let k := c.launch.rbar c.ref.core
    sh.1 ≤ c.launch.logw → sh.2 ≤ c.launch.logh → k.shape = none ∨ k.shape = some sh → s.releaseDone c = true →
    ∀ i len y, (i, len, y) = (Instr.rbar r, 4, 0) ∨ (i, len, y) = (Instr.rbarExt r x, 8, x.mw) → Free c r.s false none (some (c.effWidth y)) →
      (BacksGone s c 3 → ∃ t w l, exec i s = .next t ∧ (∀ n, n ≠ c.ref.key → t.wave? n = s.wave? n) ∧ SameVregs c.wave w
        ∧ WaveIs c t id (c.part.parkedAtOnce (.rbar k.num sh.1 sh.2) s.dcc) w
        ∧ t = { s with launches := t.launches, waves := t.waves } ∧ t.launch? c.wave.launch = some l
        ∧ (l.rbar c.ref.core).shape = some sh ∧ (l.rbar c.ref.core).num = k.num
        ∧ getT 0 (l.rbar c.ref.core).arrived c.ref.slot = getT 0 k.arrived c.ref.slot ||| laneRange c.part.base c.part.width)
      ∧ (c.part.relAt = none → (s.releaseL1 c.ref.core 3).backsDone c.ref.core (s.releaseL1 c.ref.core 3).nextId = false →
        ∃ t, exec i s = .next t ∧ ReleaseSent s c 3 true t))
  ∧ ((∀ (s : State) (g b : Nat) (v : Group), s.phaseOver g b = true → s.group? g = some v →
    let n := (barrierOf v b).phase
    ∃ t, exec (.barrierPhaseComplete g b) s = .next t ∧ t = { s with groups := t.groups, waves := t.waves }
      ∧ t.group? g = some { v with barriers := putT v.barriers b { phase := n + 1, arrived := [] } }
      ∧ ∀ (k : Nat) (w : Wave), s.wave? k = some w → ∃ w' : Wave, t.wave? k = some w' ∧ w' = { w with parts := w'.parts } ∧ (w.group ≠ g → w' = w)
        ∧ ∀ (m : Nat) (p : Part), w.parts[m]? = some p → w.group = g → ∃ q : Part, w'.parts[m]? = some q ∧ q.regs = p.regs
          ∧ (∀ n', p.park = .barrier b n' → n' ≤ n → q.park = .running ∧ (q.pc = p.pc + 4 ∨ q.pc = p.pc + 8) ∧ q.notBefore = s.dcc + 4 ∧ q.arrival? b = none)
          ∧ ((∀ n', p.park = .barrier b n' → n < n') → q.pc = p.pc ∧ q.park = p.park ∧ q.arrivals = p.arrivals))
  ∧ (∀ (s : State) (l core : Nat) (v : Launch), s.launch? l = some v →
    let k := v.rbar core
    let becomes := fun (t : State) (k' : RbarCore) => ∃ v', t.launch? l = some v' ∧ v'.rbar core = k' ∧ v' = { v with rbars := v'.rbars }
    let goes := fun (t : State) (r : PartRef) (at_ : Nat) => ∀ p, s.part? r = some p → r.core = core → ∃ q, t.part? r = some q ∧ q.park = .running
      ∧ q.regs = p.regs ∧ (q.pc = p.pc + 4 ∨ q.pc = p.pc + 8) ∧ q.notBefore = at_
    (∀ sh, k.shape = some sh → s.rbarOver l core = true →
      ∃ t, exec (.rbarLocalCompletion l core) s = .next t
        ∧ becomes t { k with num := k.num + 1, arrived := [], shape := none, report := some (k.num, sh, s.dcc) }
        ∧ (sh ≠ (0, 0) → t = { s with launches := t.launches })
        ∧ (sh = (0, 0) → t.cores = (s.acquireL1 core 3).cores ∧ t.mem = s.mem ∧ ∀ r, s.rbarWaiters l core k.num = [r] → goes t r (s.dcc + 4)))
    ∧ (∀ inst sh at_, k.report = some (inst, sh, at_) → at_ ≤ s.dcc →
      let same := ∀ c ∈ v.subRect core sh.1 sh.2, c ≠ core → ∀ x y, (v.rbar c).reported inst = some (x, y) → x = sh
      (same → ∃ t, exec (.rbarReport l core) s = .next t ∧ t = { s with launches := t.launches }
        ∧ becomes t { k with report := none, reports := (inst, sh, at_) :: k.reports })
      ∧ (¬ same → ∀ c, s.rbarWaiters l core inst = [c.ref] → s.ctx? c.ref = some c → HandlerReady c →
        ∃ t w p, exec (.rbarReport l core) s = .next t ∧ becomes t { k with report := none, num := inst, arrived := [], shape := none }
          ∧ InHandler c { s with launches := t.launches } t 0x13 2 (BitVec.ofNat 64 (sh.1 + 8 * sh.2)) c.part.pc w p))
    ∧ (∀ inst at_ last, s.rbarGlobal l core = some (inst, at_, last) →
      let home := dieOf (coreId v.x0 v.y0)
      ∃ t, exec (.rbarGlobalCompletion l core) s = .next t ∧ t.cores = (s.acquireL1 core 3).cores ∧ t.mem = s.mem
        ∧ ∀ r, s.rbarWaiters l core inst = [r] → goes t r (max (s.dcc + 1) (at_ + if dieOf core = home ∧ dieOf last = home then 88 else 130)))))

/-- `qenq` and `qdeq` issue one request for the part to the block at s(A), whatever its lanes; the part counts it in ST or LD and moves on
(21 R462, R463).
The queue at its slice: an enqueue on a queue that is not full stores its value at TAIL's place and adds 1 to TAIL, a dequeue from one that is
not empty takes the value at HEAD's place and adds 1 to HEAD, modulo 2^64, and every other byte of memory stays. In these states no line of the queue is
pinned, the core holds no dirty line and has none on its way home, and no die records debug events (08 R202, R203). -/
def Obligations.QueueInstructions : Prop :=
  (∀ (s : State) (c : Ctx) (u : UWord), s.issuing = some c →
    let q := (c.sreg u.a.toNat).toNat
    q < 2 ^ 57 →
    (Free c u.s true (some .st) none → ReleaseReady s c 2 →
      ∃ t, exec (.qenq u) s = .next t ∧ Started c s t .st (.qenq (c.sreg u.b.toNat)) 4 [(c.part.base, q, 8, [], [])])
    ∧ (Free c u.s true (some .ld) none →
      ∃ t, exec (.qdeq u) s = .next t ∧ Started c s t .ld (.qdeq u.d.toNat) 4 [(c.part.base, q, 8, [], [])]))
  ∧ (∀ (s : State) (o : MemOp) (a : Access) (head tail cap : Nat), s.op? o.id = some o → o.accs = [a] → a.kind ≠ 2 →
    (∀ o1, (s.startRelease o.id).op? o.id = some o1 → (s.startRelease o.id).canPerform o1 a = true) → s.pinnedIn (some o.core) (s.linesOfQueue o a) = [] → (∀ l ∈ (s.core o.core).l1, l.dirty = 0) → (∀ b ∈ s.backs, b.core ≠ o.core) →
    (∀ d, (s.die d).dbgEn = false) → queueBlock s.mem a.pa (s.blockPage a.pa a.logPage) = some (head, tail, cap) → queueOpen o.kind head tail cap = true → s.queuedBefore o a.pa = false →
    let done := fun (t : State) (data : List Byte) => ∃ q b, t.op? o.id = some q ∧ q.accs = [b] ∧ b.phase = .done ∧ b.data = data
    (∀ v, o.kind = .qenq v → ∃ t, exec (.queueEnqueueRequest o.id) s = .next t ∧ done t a.data
      ∧ natOfBytes (readBytes t.mem (a.pa + 64 + 8 * (tail % cap)) 8) = v.toNat
      ∧ natOfBytes (readBytes t.mem (a.pa + 8) 8) = (tail + 1) % 2 ^ 64
      ∧ ∀ p, (p < a.pa + 64 + 8 * (tail % cap) ∨ a.pa + 64 + 8 * (tail % cap) + 8 ≤ p) → (p < a.pa + 8 ∨ a.pa + 16 ≤ p) →
          readByte t.mem p = readByte s.mem p)
    ∧ (∀ d, o.kind = .qdeq d → ∃ t, exec (.queueDequeueRequest o.id) s = .next t ∧ done t (readBytes s.mem (a.pa + 64 + 8 * (head % cap)) 8)
      ∧ natOfBytes (readBytes t.mem a.pa 8) = (head + 1) % 2 ^ 64
      ∧ ∀ p, (p < a.pa ∨ a.pa + 8 ≤ p) → readByte t.mem p = readByte s.mem p))

/-- The channel instructions complete: with its release at rect scope performed, the message of `chsend`, the values of its active lanes and zero for the others by
register and then by lane, waits for a credit in an ST operation; `chrecv` asks for the oldest message in an LD operation (08 R204, R205, 19 R416, R417); each
part moves on and parks until it is served, behind its instruction, which is the model's choice (notes/assumptions/19.md). -/
def Obligations.ChannelInstructions : Prop :=
  ∀ (s : State) (c : Ctx) (r : RWord) (d : ChanDecl), s.issuing = some c → c.part.frames = [] → c.chan? r.b.toNat = some d →
    d.bytes % (4 * c.part.width) = 0 →
    let n := messageRegs d c.part.width
    let waits := fun (t : State) (cls : Cls) => ∃ w p, t.wave? c.ref.key = some w ∧ w.part? c.ref.base = some p ∧ SameVregs c.wave w
      ∧ p.opsOf cls = c.part.opsOf cls ++ [s.nextId] ∧ p.pc = c.next 4 ∧ p.park = .on (.served s.nextId) ∧ p.regs = c.part.regs
    (OperandsOk c (spanVop r.a n) → Free c r.s true (some .st) none → FullReleaseReady s c 2 3 →
      ∃ t, exec (.chsend r) s = .next t ∧ waits t .st ∧ t.mem = s.mem ∧ t.scratch = s.scratch
        ∧ ∃ o ∈ t.ops, o.id = s.nextId ∧ o.cls = .st ∧ o.parked = true
          ∧ o.kind = .chsend (instKey (c.launch.rel c.ref.core) r.b.toNat)
              ((List.range n).flatMap (fun k => (List.range c.part.width).flatMap (fun l =>
                bytesOfNat 4 (if c.emask.getLsbD (c.part.base + l)
                  then (c.wave.v c.part.depth (c.part.base + l) (regNumber c.wb (r.a.toNat + k))).toNat else 0)))))
    ∧ (OperandsOk c (spanVop r.d n) → Free c r.s true (some .ld) none →
      ∃ t, exec (.chrecv r) s = .next t ∧ waits t .ld ∧ t.mem = s.mem ∧ t.scratch = s.scratch
        ∧ ∃ o ∈ t.ops, o.id = s.nextId ∧ o.cls = .ld ∧ o.parked = true ∧ o.accs = []
          ∧ o.kind = .chrecv (instKey (c.launch.peer (c.launch.rel c.ref.core) (-d.dx) (-d.dy)) r.b.toNat) c.part.depth (regNumber c.wb r.d.toNat) n c.emask)

/-- The channel events complete: a message whose credit was granted stands last in its instance when it arrives and its `chsend` has performed; a receive
that is the oldest of its instance takes the oldest message, of which the credit is on its way back, and acquires at rect scope; a credit that comes back is
free again when no sender waits for it (08 R204, R205, 19 R417). -/
def Obligations.ChannelEvents : Prop :=
  ∀ (s : State) (o : MemOp) (v : Launch) (key : Nat), s.op? o.id = some o → s.launch? o.launch = some v →
    let i := v.inst key (v.decl key).slots
    let becomes := fun (t : State) (j : ChanInst) => ∃ v', t.launch? o.launch = some v' ∧ v' = { v with chans := v'.chans } ∧ ∀ n, v'.inst key n = j
    (∀ msg, o.kind = .chsend key msg → o.acted = true → o.parked = true → o.arrival ≤ s.dcc →
      ∃ t, exec (.channelMessageArrival o.id) s = .next t ∧ becomes t { i with msgs := i.msgs ++ [(s.dcc, msg)] }
        ∧ t.op? o.id = some { o with parked := false } ∧ t.mem = s.mem ∧ t.scratch = s.scratch)
    ∧ (∀ depth dst n act at_ bytes rest, o.kind = .chrecv key depth dst n act → s.receiveDue o = true → i.msgs = (at_, bytes) :: rest →
      ∃ t q a, exec (.sliceRequest o.id) s = .next t ∧ becomes t { i with msgs := rest, returning := i.returning ++ [s.dcc + v.chanPath key] }
        ∧ t.op? o.id = some q ∧ q.parked = false ∧ q.accs = [a] ∧ a.phase = .done ∧ a.data = bytes ∧ t.cores = (s.acquireL1 o.core 3).cores
        ∧ t.mem = s.mem ∧ t.scratch = s.scratch)
    ∧ (∀ at_ rest, i.returning = at_ :: rest → at_ ≤ s.dcc → (∀ e ∈ s.ops, ∀ m, e.kind = .chsend key m → e.launch = o.launch → e.acted = true) →
      ∃ t, exec (.channelCreditReturn o.launch key) s = .next t ∧ t = { s with launches := t.launches }
        ∧ becomes t { i with credits := i.credits + 1, returning := rest })

/-- `fork` and `join` complete: with a descriptor that passes its checks, an entry page that may be executed, and every earlier access and its release performed,
the task stands at the near end of the core's deque, a region begins and the part moves on, or the part parks where the deque has no room that no parked `fork` has been
given; a `join` on a readable aligned counter sends the core's dirty sectors of its line home and parks in its first read (02 R40, R41, R46, 20 R435, R443).
A deque keeps its tasks: a push adds one at the near end, the owner pops the newest and a thief takes the oldest (02 R41-R43). -/
def Obligations.TaskInstructions : Prop :=
  (∀ (s : State) (c : Ctx) (u : UWord), s.issuing = some c →
    (Plain c u.s → c.part.frames = [] → badTask c u.a.toNat = none → (c.sreg u.a.toNat).toNat < 2 ^ 57 → FullReleaseReady s c 2 3 →
      s.lookPins c.ref.core false c.part.regs.asid (c.sreg u.a.toNat).toNat = [] →
      ∀ s1 pte lp, s.translate c.ref.core false c.part.regs.asid (c.sreg u.a.toNat).toNat = (s1, .leaf pte lp) →
        s1.leafFault .fetch pte (paOf pte lp (c.sreg u.a.toNat).toNat) = none →
        ∃ t w p l, exec (.fork u) s = .next t ∧ t = { s1 with launches := t.launches, waves := t.waves } ∧ t.wave? c.ref.key = some w
          ∧ SameVregs c.wave w ∧ w.part? c.ref.base = some p ∧ p.regs = c.part.regs ∧ t.launch? c.wave.launch = some l
          ∧ if s.forkRoom c.wave.launch c.ref.core (c.launch.deque c.ref.core) then
              l.deque c.ref.core = (c.launch.deque c.ref.core).push (taskOf c u.a.toNat) ∧ p.pc = c.part.pc + 4 ∧ p.region = c.part.pc + 4
            else l = c.launch ∧ p.pc = c.part.pc ∧ p.park = .fork (taskOf c u.a.toNat) none)
    ∧ (let a := (c.sreg u.a.toNat).toNat
      Free c u.s true none none → a < 2 ^ 57 → a % 8 = 0 → s.lookPins c.ref.core false c.part.regs.asid a = [] →
      ∀ s1 pte lp, s.translate c.ref.core false c.part.regs.asid a = (s1, .leaf pte lp) → s1.leafFault .read pte (paOf pte lp a) = none →
        ∃ t w, exec (.join u) s = .next t ∧ t = { s1.sendBack c.ref.core (paOf pte lp a / 128) with waves := t.waves } ∧ SameVregs c.wave w
          ∧ (∀ k, k ≠ c.ref.key → t.wave? k = s.wave? k)
          ∧ WaveIs c t id (c.part.parkedAtOnce (.join a (paOf pte lp a) (.reading (s.dcc + joinPath c.ref.core (paOf pte lp a)))) s.dcc) w))
  ∧ (let all := fun (d : Deque) => d.near ++ d.far.reverse
  (∀ (d : Deque) (t : Task), d.near.length ≤ 8 → all (d.push t) = t :: all d)
  ∧ (∀ (d e : Deque) (t : Task), d.pop = some (t, e) → all d = t :: all e)
  ∧ (∀ (d e : Deque) (t : Task), d.steal = some (t, e) → all d = all e ++ [t]))

/-! ### Engines -/

/-- `tcopy` completes at issue: with operands that pass their checks and room in the queue of 32, the copy stands at the queue's end with its
record, which bits 56:0 of s(A) address, addresses and origin, and s(D) holds the ticket in bits 63:48 and the promise time in bits 47:0, no earlier than 300 cycles on
(10 R236-R238, 22 R497). -/
def Obligations.CopyIssues : Prop :=
  ∀ (s : State) (c : Ctx) (u : UWord) (x : XtWord), s.issuing = some c → (2 ≤ x.sub.toNat → c.part.frames = []) →
    Free c u.s true (some .cp) (some (c.effWidth x.mw.toNat)) →
    let record := c.sreg u.a.toNat &&& 0x01FFFFFFFFFFFFFF
    copyOperandTrap x.sub.toNat u.b.toNat (c.sreg u.a.toNat) (c.sreg u.b.toNat) (c.sreg (u.b.toNat + 1)) = none →
    (s.core c.ref.core).copyQ.length < 32 →
    ∃ t w p o, exec (.tcopy u x) s = .next t ∧ t = { s with cores := t.cores, nextId := s.nextId + 1, waves := t.waves }
      ∧ (∀ k, k ≠ c.ref.key → t.wave? k = s.wave? k)
      ∧ (t.core c.ref.core) = { s.core c.ref.core with copyQ := (s.core c.ref.core).copyQ ++ [o] }
      ∧ o.id = s.nextId ∧ o.dir = x.sub.toNat ∧ o.record = record ∧ o.scratch = (c.sreg u.b.toNat).toNat
      ∧ o.opm = (c.sreg (u.b.toNat + 1)).toNat
      ∧ o.origin = [((c.sreg (u.b.toNat + 2)).extractLsb' 0 32).toInt, ((c.sreg (u.b.toNat + 2)).extractLsb' 32 32).toInt,
          ((c.sreg (u.b.toNat + 3)).extractLsb' 0 32).toInt, ((c.sreg (u.b.toNat + 3)).extractLsb' 32 32).toInt]
      ∧ o.ticket = c.wave.tcopies % 65536 ∧ s.dcc + 300 ≤ o.promise ∧ (∀ q, (s.core c.ref.core).copyQ.getLast? = some q → q.promise + 300 ≤ o.promise)
      ∧ t.wave? c.ref.key = some w ∧ w.part? c.ref.base = some p ∧ SameVregs c.wave w ∧ w.tcopies = c.wave.tcopies + 1
      ∧ p.pc = c.next 8 ∧ p.cpOps = c.part.cpOps ++ [s.nextId]
      ∧ p.regs.sreg u.d.toNat = BitVec.ofNat 64 (o.ticket * 2 ^ 48 + o.promise % 2 ^ 48) ∧ ∀ n, n ≠ u.d.toNat → p.regs.sreg n = c.sreg n

/-- `mma` and `mmz` complete at issue: with room in the queue of 16 the operation stands at the queue's end with its shape, types and sources, the
tokens of its tiles pass to the engine, a region begins and the part counts it in MX and moves on; a co-operative `mma` takes its core's share of M and N and the group's
next instance number (10 R240-R243, R248-R250, 21 R449, R450). -/
def Obligations.ArrayIssues : Prop :=
  ∀ (s : State) (c : Ctx) (u : UWord) (x : XtWord), s.issuing = some c → c.part.frames = [] → x.tile.toNat < c.group.nacc →
    (s.core c.ref.core).matrixQ.length < 16 →
    let a := (c.sreg u.a.toNat).toNat
    let s0 := (c.sreg u.b.toNat).toNat
    let queued := fun (t : State) (o : MmaOp) (tiles : List Nat) => ∃ w p g, (t.core c.ref.core).matrixQ = (s.core c.ref.core).matrixQ ++ [o]
      ∧ o.id = s.nextId ∧ t.mem = s.mem ∧ t.acc = s.acc ∧ t.scratch = s.scratch ∧ t.wave? c.ref.key = some w ∧ SameVregs c.wave w
      ∧ w.part? c.ref.base = some p ∧ p.regs = c.part.regs ∧ p.pc = c.next 8 ∧ p.region = c.next 8 ∧ p.mxOps = c.part.mxOps ++ [s.nextId]
      ∧ t.group? c.wave.group = some g ∧ (∀ i, i ∈ g.engineTiles ↔ i ∈ c.group.engineTiles ∨ i ∈ tiles)
    (Free c u.s true (some .mx) (some (c.effWidth x.mw.toNat)) → mmaTrap c u x = none →
      ∃ t o, exec (.mma u x) s = .next t ∧ queued t o ((spanOf o.aty o.tile c.group.nacc o.m o.n).getD [])
        ∧ o.zeroOnly = false ∧ o.aty = x.aty.toNat ∧ o.bty = x.bty.toNat ∧ o.z = x.z ∧ o.tile = x.tile.toNat ∧ o.period = x.pm1.toNat + 1
        ∧ o.co = x.co ∧ o.logw = (if x.co then s0 / 2 ^ 57 % 8 else 0) ∧ o.logh = (if x.co then s0 / 2 ^ 60 % 8 else 0)
        ∧ o.m = a % 2 ^ 16 / 2 ^ o.logh ∧ o.n = a / 2 ^ 16 % 2 ^ 16 / 2 ^ o.logw ∧ o.k = a / 2 ^ 32 % 2 ^ 16
        ∧ o.inst = (if x.co then c.group.coop else 0)
        ∧ (∀ g, t.group? c.wave.group = some g → g.coop = c.group.coop + if x.co then 1 else 0)
        ∧ o.memA = x.ak ∧ o.memB = x.bk
        ∧ o.srcA.toNat = s0 % 2 ^ (if x.ak then 57 else 32) ∧ o.srcB.toNat = (c.sreg (u.b.toNat + 1)).toNat % 2 ^ (if x.bk then 57 else 32))
    ∧ (Free c u.s true (some .mx) none →
      ∃ t o, exec (.mmz u x) s = .next t ∧ queued t o [x.tile.toNat] ∧ o.zeroOnly = true ∧ o.tile = x.tile.toNat)

/-- The tokens and accumulator rows: `tkrel` gives a tile's token to the engine, `tkacq` takes it back once no queued work names the tile, and
`accrd` and `accwr` move a row between registers and a tile whose token the part holds: element j of lane i is column j·w + i of the row, w the part's width;
a tile at or above NACC is ILLEGAL, one whose token the engine holds TOKEN 2 (10 R250, R251, 19 R394, 22 R503).
What `accwr` stores: element j of an active lane's operand stands in its columns of the row (19 R394). -/
def Obligations.TokensAndRows : Prop :=
  (∀ (s : State) (c : Ctx) (u : UWord) (r : RWord) (x : XtWord), s.issuing = some c → c.part.frames = [] → x.tile.toNat < c.group.nacc →
    let tile := x.tile.toNat
    let moved := fun (t : State) (tiles : List Nat) => ∃ w, t = { s with groups := t.groups, waves := t.waves } ∧ SameVregs c.wave w
      ∧ (∀ k, k ≠ c.ref.key → t.wave? k = s.wave? k)
      ∧ WaveIs c t id (c.part.past c 8 s.dcc) w ∧ t.group? c.wave.group = some { c.group with engineTiles := tiles }
    let unit := if x.aty = 5 then 2 else 1
    let cols := 128 / unit / c.part.width
    let key := fun (l j : Nat) => accKey c.ref.core (c.group.t0 + tile) (r.b.toNat * 512 + 4 * unit * (j * c.part.width + (l - c.part.base)))
    let rowOk := fun (f : BitVec 7) => OperandsOk c [rowVop f x c]
    (Free c u.s true none none →
      (∃ t, exec (.tkrel u x) s = .next t ∧ moved t (addNew c.group.engineTiles tile))
      ∧ (s.tileBusy c.ref.core (c.group.t0 + tile) = false → c.part.fails = [] →
          ∃ t, exec (.tkacq u x) s = .next t ∧ moved t (c.group.engineTiles.filter (fun i => i != tile))))
    ∧ (Free c r.s true none none → tile ∉ c.group.engineTiles →
      (rowOk r.d → ∃ t w, exec (.accrd r x) s = .next t ∧ OnlyWave c s t ∧ WaveIs c t id (c.part.past c 8 s.dcc) w
        ∧ (∀ l < 64, c.emask.getLsbD l = true → ∀ j < cols, ∀ k < unit,
            w.v c.part.depth l ((rowVop r.d x c).reg c.wb 0 j + k) = BitVec.ofNat 32 (natOfBytes (readBytes s.acc (key l j + 4 * k) 4)))
        ∧ ∀ depth l n, l < 64 → n < 512 → depth ≠ c.part.depth ∨ c.emask.getLsbD l = false
            ∨ (∀ j < cols, ∀ k < unit, n ≠ (rowVop r.d x c).reg c.wb 0 j + k) → w.v depth l n = c.wave.v depth l n)
      ∧ (rowOk r.a → ∃ t w, exec (.accwr r x) s = .next t ∧ t = { s with acc := t.acc, waves := t.waves } ∧ SameVregs c.wave w
        ∧ (∀ k, k ≠ c.ref.key → t.wave? k = s.wave? k) ∧ WaveIs c t id (c.part.past c 8 s.dcc) w
        ∧ ∀ a, (∀ l < 64, c.emask.getLsbD l = true → ∀ j < cols, a < key l j ∨ key l j + 4 * unit ≤ a) → readByte t.acc a = readByte s.acc a))
    ∧ (x.tile.toNat ∈ c.group.engineTiles → HandlerReady c → Free c r.s true none none →
      let token := fun (i : Instr) => ∃ t w p, exec i s = .next t ∧ InHandler c s t 0x06 2 (BitVec.ofNat 64 tile) c.part.pc w p
      (rowOk r.d → token (.accrd r x)) ∧ (rowOk r.a → token (.accwr r x))))
  ∧ (∀ (u : UWord) (r : RWord) (x : XtWord),
    let beyond := fun (i : Instr) => TrapsWith i (fun _ c => c.group.nacc ≤ x.tile.toNat) 0x01 (fun _ _ => 0) (fun _ c => c.part.pc + 4) (fun c => c.part.pc)
    beyond (.tkrel u x) ∧ beyond (.tkacq u x) ∧ beyond (.accrd r x) ∧ beyond (.accwr r x))
  ∧ (∀ (s : State) (c : Ctx) (r : RWord) (x : XtWord), s.issuing = some c → c.part.frames = [] → x.tile.toNat < c.group.nacc →
    Free c r.s true none none → x.tile.toNat ∉ c.group.engineTiles → OperandsOk c [rowVop r.a x c] →
    (∀ l, c.emask.getLsbD l = true → c.part.base ≤ l ∧ l < c.part.base + c.part.width) →
    let unit := if x.aty = 5 then 2 else 1
    ∃ t, exec (.accwr r x) s = .next t ∧ ∀ l < 64, c.emask.getLsbD l = true → ∀ j < 128 / unit / c.part.width,
      natOfBytes (readBytes t.acc (accKey c.ref.core (c.group.t0 + x.tile.toNat) (r.b.toNat * 512 + 4 * unit * (j * c.part.width + (l - c.part.base)))) (4 * unit))
        = c.vec l (rowVop r.a x c) 0 j)

/-! ### Graphics and rays -/

/-- `kill`, `ipa`, `pout` complete in a pixel wave, `mvtx` and `mprim` in a mesh wave: killed lanes become helpers, an interpolation writes D, and the
outputs are counted in ST with no register changed; from a wave of another kind each is ILLEGAL (14 R313, R314, R328-R331, 21 R453, R461, 05 R114). Where outputs
of a mesh are dropped, no table on the way to their counter is pinned (09 R221). That TADDR of the ILLEGAL traps is 0 is the model's choice (notes/assumptions/8.md). -/
def Obligations.GraphicsInstructions : Prop :=
  ∀ (r : RWord) (x : XaWord),
    let killAt := fun (i : Instr) (len : Nat) (y : XaWord) => ∀ (s : State) (c : Ctx), s.issuing = some c → Plain c r.s → c.wave.pixel.isSome →
      ∃ t w, exec i s = .next t ∧ t = { s with frags := t.frags, waves := t.waves } ∧ (∀ k, k ≠ c.ref.key → t.wave? k = s.wave? k) ∧ SameVregs c.wave w
        ∧ WaveIs c t (fun v => { v with helper := c.wave.helper ||| c.xaActive y }) (c.part.past c len s.dcc) w
    let counted := fun (s : State) (c : Ctx) (i : Instr) (len : Nat) => ∃ t w p, exec i s = .next t ∧ t.wave? c.ref.key = some w
      ∧ SameVregs c.wave w ∧ w.part? c.ref.base = some p ∧ p.regs = c.part.regs ∧ p.pc = c.next len ∧ p.stOps = c.part.stOps ++ [s.nextId]
      ∧ t.scratch = s.scratch ∧ (∃ o ∈ t.ops, o.id = s.nextId ∧ o.cls = .st)
    let poutAt := fun (i : Instr) (len : Nat) => ∀ (s : State) (c : Ctx), s.issuing = some c → Free c r.s false (some .st) none → c.wave.pixel.isSome →
      c.part.frames = [] → OperandsOk c [{ f := r.a.toNat, unit := 4 }] → counted s c i len
    let ipaAt := fun (i : Instr) (len : Nat) (y : XaWord) => ∀ (s : State) (c : Ctx) (px : PixelWave), s.issuing = some c → Plain c r.s →
      c.wave.pixel = some px → OperandsOk c [{ f := r.d.toNat }, { f := r.a.toNat, unit := 2 }] →
      ∃ (t : State) (w : Wave) (p : Part), exec i s = .next t ∧ OnlyWave c s t ∧ WaveIs c t id (p.past c len s.dcc) w
        ∧ p = { c.part with regs := { c.part.regs with fpstat := p.regs.fpstat }, raised := p.raised }
        ∧ (∀ depth l n, l < 64 → n < 512 → depth ≠ c.part.depth ∨ (c.xaActive y).getLsbD l = false ∨ n ≠ regNumber c.wb r.d.toNat →
            w.v depth l n = c.wave.v depth l n)
        ∧ (y.sub.toNat ≠ 2 → ∀ l < 64, (c.xaActive y).getLsbD l = true →
            let v := fun k => (c.wave.v c.part.depth l (regNumber c.wb r.a.toNat + k)).toNat
            let b := if y.sub.toNat = 3 then centroidBary px (match c.launch.draw with | some d => d.pass.samp | none => 0) l else (v 0, v 1)
            w.v c.part.depth l (regNumber c.wb r.d.toNat) = BitVec.ofNat 32
              (interpolate rmRne c.ftz b.1 b.2 (laneAttr px l r.b.toNat 0) (laneAttr px l r.b.toNat 1) (laneAttr px l r.b.toNat 2)).bits)
        ∧ (y.sub.toNat = 2 → ∀ l < 64, (c.xaActive y).getLsbD l = true →
            w.v c.part.depth l (regNumber c.wb r.d.toNat) = BitVec.ofNat 32 (laneAttr px l r.b.toNat 0))
    let mesh := fun (s : State) (c : Ctx) (d : Draw) => s.issuing = some c ∧ Free c r.s false (some .st) none ∧ c.group.kind = .mesh ∧ c.launch.draw = some d
    killAt (.kill r) 4 (xaDefault 0) ∧ killAt (.killExt r x) 8 x ∧ poutAt (.pout r) 4 ∧ poutAt (.poutExt r x) 8
    ∧ ipaAt (.ipa r) 4 (xaDefault 3) ∧ ipaAt (.ipaExt r x) 8 x
    ∧ (∀ s c d, mesh s c d → OperandsOk c [vertexVop r d.nattr, indexVop r.b] →
      (∀ v ∈ c.meshVerts r d, v.index < d.maxv) ∨ s.dropPins c.ref.core c.launch.asid d = [] → counted s c (.mvtx r) 4)
    ∧ (∀ s c d, mesh s c d → OperandsOk c [{ f := r.a.toNat, unit := 3 }] →
      (∀ k ∈ c.meshTris { f := r.a.toNat, unit := 3 }, k.k < d.maxp ∧ k.v0 < d.maxv ∧ k.v1 < d.maxv ∧ k.v2 < d.maxv)
        ∨ s.dropPins c.ref.core c.launch.asid d = [] → counted s c (.mprim r) 4)
    ∧ (let illegal := fun (i : Instr) (bad : State → Ctx → Prop) => TrapsWith i bad 0x01 (fun _ _ => 0) (fun _ _ => 0) (fun c => c.part.pc)
      let noPixel := fun (_ : State) (c : Ctx) => c.wave.pixel = none
      let noMesh := fun (_ : State) (c : Ctx) => c.group.kind ≠ .mesh
      illegal (.kill r) noPixel ∧ illegal (.killExt r x) noPixel ∧ illegal (.ipa r) noPixel ∧ illegal (.ipaExt r x) noPixel
      ∧ illegal (.pout r) noPixel ∧ illegal (.poutExt r x) noPixel ∧ illegal (.mvtx r) noMesh ∧ illegal (.mprim r) noMesh)

/-- The texture and ray instructions issue: with addresses of 57 bits, aligned for their structure, the part counts one LD operation with one access for
each active lane, and moves on; that it stands ready for its unit 20 cycles later is the model's choice (notes/assumptions/48.md). `rtcom` records its decision in every active lane with a pending candidate that no `rtrav` in flight takes (notes/assumptions/46.md)
(14 R332, R334, 22 R498-R501, 15 R340, R341, R350, 21 R476). -/
def Obligations.UnitInstructions : Prop :=
  ∀ (m : MWord) (r : RWord) (x : XaWord) (s : State) (c : Ctx), s.issuing = some c →
    let started := fun (i : Instr) (len : Nat) (y : XaWord) (q : UnitReq → Prop) => ∃ t w p o, exec i s = .next t
      ∧ t = { s with ops := s.ops ++ [o], nextId := s.nextId + 1, waves := t.waves } ∧ (∀ k, k ≠ c.ref.key → t.wave? k = s.wave? k)
      ∧ t.wave? c.ref.key = some w ∧ SameVregs c.wave w ∧ w.part? c.ref.base = some p ∧ p.pc = c.next len ∧ p.ldOps = c.part.ldOps ++ [s.nextId]
      ∧ p.regs.fpstat = c.part.regs.fpstat ∧ (∀ n, p.regs.sreg n = c.sreg n)
      ∧ o.id = s.nextId ∧ o.accs.map (fun a => (a.lane, a.arrival)) = (lanesOf (c.xaActive y)).map (fun l => (l, s.dcc + 20))
      ∧ ∃ dst n u, o.kind = .unit c.part.depth dst n u ∧ q u
    let d := (c.sreg m.bu.toNat).toNat
    let e := (c.sreg (m.bu.toNat + 1)).toNat
    let free := Free c m.s true (some .ld) none
    let placed := d < 2 ^ 57 ∧ d % 32 = 0 ∧ e < 2 ^ 57 ∧ e % 16 = 0
    let tex := fun (i : Instr) (len : Nat) (y : XaWord) (gather : Bool) => free → placed → (∀ q ∈ s.ops, q.id ≠ s.nextId) →
      OperandsOk c (texVops m (s.texDims c m + (if y.sub.toNat = 0 then 0 else 1))) →
      started i len y (fun u => ∃ f co here, u = .tex gather f y.sub.toNat d e co here)
    let texq := fun (i : Instr) (len : Nat) (y : XaWord) => free → placed →
      OperandsOk c (if y.sub.toNat = 1 then (texVops m 1).take 1 else texVops m (if y.sub.toNat = 0 then 1 else s.texDims c m + 1)) →
      started i len y (fun u => ∃ co, u = .texq y.sub.toNat d co)
    let trav := fun (i : Instr) (len : Nat) (y : XaWord) => free →
      OperandsOk c [{ f := m.d.toNat, unit := 8, al := 2 }, { f := m.a.toNat, unit := if y.ty = 6 then 17 else 9, al := if y.ty = 6 then 2 else 1 }] →
      started i len y (fun u => ∃ rays decided, u = .trav (y.ty == 6) (y.sub == 1) d e rays c.wave.helper decided)
    let rep := fun (i : Instr) (len : Nat) (y : XaWord) => free → OperandsOk c [{ f := m.d.toNat, unit := 4, al := 4 }, { f := m.a.toNat }] →
      started i len y (fun u => ∃ ix, u = .replog d ix)
    let com := fun (i : Instr) (len : Nat) (y : XaWord) => Plain c r.s →
      OperandsOk c [{ f := r.a.toNat, unit := if y.ty = 6 then 2 else 1, al := if y.ty = 6 then 2 else 1 }] →
      ∃ t w, exec i s = .next t ∧ OnlyWave c s t ∧ SameVregs c.wave w ∧ WaveIs c t (fun v => { v with rays := w.rays }) (c.part.past c len s.dcc) w
        ∧ w.rays.length = c.wave.rays.length
        ∧ ∀ (n lane : Nat) (st : RayState), c.wave.rays[n]? = some (lane, st) → ∃ st' : RayState, w.rays[n]? = some (lane, st') ∧ st' = { st with decision := st'.decision }
          ∧ ((c.xaActive y).getLsbD lane = false ∨ st.cand = none ∨ s.rayTaken c lane = true → st' = st)
          ∧ ((c.xaActive y).getLsbD lane = true → st.cand ≠ none → s.rayTaken c lane = false → ∃ v, st'.decision = some (r.b == 1, v))
    tex (.tex m) 4 (xaDefault 3) false ∧ tex (.texExt m x) 8 x false ∧ tex (.texg m) 4 (xaDefault 3) true ∧ tex (.texgExt m x) 8 x true
    ∧ texq (.texq m) 4 (xaDefault 3) ∧ texq (.texqExt m x) 8 x ∧ trav (.rtrav m) 4 (xaDefault 3) ∧ trav (.rtravExt m x) 8 x
    ∧ rep (.rtrep m) 4 (xaDefault 0) ∧ rep (.rtrepExt m x) 8 x ∧ com (.rtcom r) 4 (xaDefault 3) ∧ com (.rtcomExt r x) 8 x

/-! ### System registers, translations and signals -/

/-- `srget` completes: s(D) holds the register's value, among them DCC, WB, FPMODE, FPSTAT, the trap registers and the handler; nothing else changes but the
PC. `srset` completes on a value its fields allow: the register of the part, the wave or the core takes the fields that may be written, a bit written 1
clears a sticky bit unless an update of the same cycle has set it, be it of an instruction that completes in it or of an event, of two parts that write PREEMPT in one cycle the lower lane base prevails (04 R91, R94), and
TWORD in a handler becomes the return address. A value that a field forbids is ILLEGAL with the number of the uniform register,
and changes nothing (22 R492, 04 R90, R92, R94, 12 R517). -/
def Obligations.SystemRegisters : Prop :=
  ∀ u : UWord,
    let may := fun (c : Ctx) => privIndex u.index = true → c.part.regs.privseg = true
    let v := fun (c : Ctx) => c.sreg u.d.toNat
    let ix := u.index
    (∀ (s : State) (c : Ctx), s.issuing = some c → Plain c u.s → may c →
      ∃ t w, exec (.srget u) s = .next t ∧ OnlyWave c s t ∧ SameVregs c.wave w
        ∧ WaveIs c t id ((c.part.setS u.d.toNat (BitVec.ofNat 64 (s.sysReg c ix))).past c 4 s.dcc) w)
    ∧ (∀ (s : State) (c : Ctx), (ix = 0x00 → s.sysReg c ix = s.dcc % 2 ^ 64) ∧ (ix = 0x05 → s.sysReg c ix = c.part.regs.wb.toNat)
      ∧ (ix = 0x08 → s.sysReg c ix = c.part.regs.fpmode.toNat) ∧ (ix = 0x09 → s.sysReg c ix = c.part.regs.fpstat.toNat)
      ∧ (ix = 0x0B → s.sysReg c ix % 256 = min c.part.ldOps.length 255 ∧ s.sysReg c ix / 2 ^ 24 = min c.part.mxOps.length 255)
      ∧ (ix = 0x0D → s.sysReg c ix % 2 ^ 8 = c.part.tcodeReg.toNat ∧ s.sysReg c ix / 2 ^ 8 % 2 ^ 8 = c.part.tdetail.toNat)
      ∧ (ix = 0x0E → s.sysReg c ix = c.part.taddr.toNat) ∧ (ix = 0x0F → s.sysReg c ix = c.part.tword.toNat)
      ∧ (ix = 0x11 → s.sysReg c ix % 2 ^ 16 = c.part.regs.asid.toNat ∧ s.sysReg c ix / 2 ^ 24 = if c.part.regs.privseg then 1 else 0)
      ∧ (ix = 0x13 → s.sysReg c ix = c.part.regs.status.toNat) ∧ (ix = 0x20 → s.sysReg c ix = c.part.regs.handler.toNat))
    ∧ (∀ (s : State) (c : Ctx), s.issuing = some c → Plain c u.s → may c → badSrset c ix (v c) = false →
      (ix ≠ 0x01 ∧ ix ≠ 0x09 ∧ ix ≠ 0x13 ∧ ix ≠ 0x22 ∧ (ix < 0x24 ∨ 0x27 < ix) →
        ∃ t w, exec (.srset u) s = .next t ∧ OnlyWave c s t ∧ SameVregs c.wave w ∧ WaveIs c t id ((c.part.srset ix (v c)).past c 4 s.dcc) w)
      ∧ (ix = 0x09 ∨ ix = 0x13 →
        let fresh := fun (b : Nat) => c.part.flags.any (fun e => e.1 == s.dcc && e.2.getLsbD b)
          || (decide (5 ≤ b) && c.part.statusAt == s.dcc && c.part.statusNew.getLsbD (b - 5))
        ∃ (t : State) (w : Wave) (p : Part), exec (.srset u) s = .next t ∧ OnlyWave c s t ∧ SameVregs c.wave w ∧ WaveIs c t id (p.past c 4 s.dcc) w
          ∧ p = { c.part with regs := { c.part.regs with fpstat := p.regs.fpstat, status := p.regs.status } }
          ∧ (∀ b < 5, p.regs.fpstat.getLsbD b = (c.part.regs.fpstat.getLsbD b && !(decide (ix = 0x09) && (v c).getLsbD b && !fresh b)))
          ∧ ∀ b < 4, p.regs.status.getLsbD b = (c.part.regs.status.getLsbD b && !(decide (ix = 0x13) && (v c).getLsbD b && !fresh (b + 5))))
      ∧ (ix = 0x22 → let lower := ∃ b, b < c.ref.base ∧ c.wave.timeoutBy = some (s.dcc, b)
        ∃ t w, exec (.srset u) s = .next t ∧ OnlyWave c s t ∧ SameVregs c.wave w
        ∧ (lower → WaveIs c t id (c.part.past c 4 s.dcc) w)
        ∧ (¬ lower → WaveIs c t (fun x => { x with timeout := (v c).toNat % 2 ^ 32, timeoutBy := some (s.dcc, c.ref.base) }) (c.part.past c 4 s.dcc) w))
      ∧ (0x24 ≤ ix ∧ ix ≤ 0x27 → ∃ t w, exec (.srset u) s = .next t ∧ t = { s with cores := t.cores, waves := t.waves }
        ∧ (∀ k, k ≠ c.ref.key → t.wave? k = s.wave? k) ∧ SameVregs c.wave w ∧ WaveIs c t id (c.part.past c 4 s.dcc) w
        ∧ ∀ k n, getT 0 (t.core k).watch n = if k = c.ref.core ∧ n = ix - 0x24 then v c &&& 0x01FFFFFFFFFFFFC7 else getT 0 (s.core k).watch n))
    ∧ (∀ (p : Part) (x : W64),
      ((p.srset 0x05 x).regs.wb.toNat = x.toNat % 256) ∧ ((p.srset 0x07 x).regs.ix0.toNat = x.toNat % 2 ^ 16)
      ∧ ((p.srset 0x07 x).regs.ix1.toNat = x.toNat / 2 ^ 16 % 2 ^ 16) ∧ ((p.srset 0x08 x).regs.fpmode.toNat = x.toNat % 16)
      ∧ (∀ b < 5, (p.srset 0x09 x).regs.fpstat.getLsbD b = (p.regs.fpstat.getLsbD b && !x.getLsbD b))
      ∧ (∀ b < 4, (p.srset 0x13 x).regs.status.getLsbD b = (p.regs.status.getLsbD b && !x.getLsbD b))
      ∧ ((p.srset 0x0A x).regs.amaxv.toNat = x.toNat % 2 ^ 31) ∧ ((p.srset 0x0A x).regs.amaxnan = x.getLsbD 32)
      ∧ (p.srset 0x0E x).taddr = x ∧ (p.srset 0x0F x).tword.toNat = x.toNat % 2 ^ 57
      ∧ (∀ f, p.tframe = some f → (p.srset 0x0F x).tframe = some { f with wrote := true })
      ∧ (p.srset 0x14 x).regs.split = x.getLsbD 0 ∧ (p.srset 0x14 x).regs.miss = x.getLsbD 1 ∧ (p.srset 0x14 x).regs.minw.toNat = x.toNat / 16 % 8
      ∧ (p.srset 0x20 x).regs.handler.toNat = x.toNat % 2 ^ 57 / 4 * 4)
    ∧ TrapsWith (.srset u) (fun _ c => Plain c u.s ∧ may c ∧ badSrset c ix (v c) = true) 0x01 (fun _ _ => 0)
        (fun _ _ => BitVec.ofNat 64 u.d.toNat) (fun c => c.part.pc)

/-- EMASK: `srget` reads bit i for lane b + i, 1 when the lane is not exited, stands on the current path and is not switched off, and zero at and above the
part's width; the part's descriptor holds the same mask by wave lane; `srset` writes the switches of the lanes that have not exited and are on the
current path, and no other (04 R88, R89). -/
def Obligations.ExecutionMask : Prop :=
  ∀ (s : State) (c : Ctx), s.ctx? c.ref = some c → c.part.base + c.part.width ≤ 64 →
    (∀ l, c.part.cur.getLsbD l = true → c.part.base ≤ l ∧ l < c.part.base + c.part.width) →
    let bit := fun (l : Nat) => c.part.cur.getLsbD l && !c.wave.exited.getLsbD l && !c.wave.off.getLsbD l
    (∀ i, (s.sysReg c 0x01).testBit i = (decide (i < c.part.width) && bit (c.part.base + i)))
    ∧ (c.part.base % 4 = 0 → ∀ l < 64, (natOfBytes (((s.descriptor c.wave (c.part.base / 4)).drop 16).take 8)).testBit l = bit l)
    ∧ (∀ u : UWord, u.index = 0x01 → s.issuing = some c → Plain c u.s →
      (∃ (t : State) (w : Wave) (p : Part), exec (.srget u) s = .next t ∧ OnlyWave c s t ∧ SameVregs c.wave w ∧ WaveIs c t id (p.past c 4 s.dcc) w
        ∧ ∀ i < 64, (p.regs.sreg u.d.toNat).getLsbD i = (decide (i < c.part.width) && bit (c.part.base + i)))
      ∧ ∃ t w, exec (.srset u) s = .next t ∧ OnlyWave c s t ∧ SameVregs c.wave w
        ∧ WaveIs c t (fun x => { x with off := w.off }) (c.part.past c 4 s.dcc) w
        ∧ ∀ l < 64, w.off.getLsbD l =
            if c.part.cur.getLsbD l && !c.wave.exited.getLsbD l then !(c.sreg u.d.toNat).getLsbD (l - c.part.base) else c.wave.off.getLsbD l)

/-- `tlbi` and `hsig` complete in a privileged segment, and a fetch that finds no instruction has its effect: `tlbi` leaves no matching translation in any TLB of
the package, discards the walks whose result it would remove and empties every gate cache; `hsig`, with every earlier access and its release performed, sends its store to
its channel of the tenant's area and waits for it; at its slice, where no other core has the line pinned, the store performs and the message of that channel is
sent, which is held pending where the host has masked it, and a region begins; where the area is not enabled it only begins the region. A fetch that
fails takes ACCESS at the word; one whose page is not present parks on the record that covers it, posting one where there is none and no line that it
writes is pinned (08 R188, R189, 20 R437, R438, 05 R97, 01 R27). -/
def Obligations.TranslationAndSignal : Prop :=
  ∀ (s : State) (c : Ctx), s.issuing = some c →
    (∀ u : UWord, c.part.regs.privseg = true → Plain c u.s →
      let va := (c.sreg u.a.toNat).toNat % 2 ^ 57
      let asid := (c.sreg u.b.toNat).extractLsb' 0 16
      let hit := fun (e : TlbEntry) => match u.d.toNat % 4 with
        | 0 => e.asid = asid ∧ va / 2 ^ e.logPage = e.page
        | 1 => e.asid = asid
        | _ => True
      let dropped := fun (x : Walk) => match u.d.toNat % 4 with
        | 0 => x.asid = asid ∧ x.va / 2 ^ s.walkExtent x = va / 2 ^ s.walkExtent x
        | 1 => x.asid = asid
        | 2 => True
        | _ => False
      ∃ t w, exec (.tlbi u) s = .next t ∧ t = { s with cores := t.cores, dies := t.dies, walks := t.walks, waves := t.waves }
        ∧ (∀ k, k ≠ c.ref.key → t.wave? k = s.wave? k) ∧ SameVregs c.wave w ∧ WaveIs c t id (c.part.past c 4 s.dcc) w
        ∧ (∀ k e, (e ∈ (t.core k).l1tlb ↔ e ∈ (s.core k).l1tlb ∧ ¬ hit e) ∧ (e ∈ (t.core k).coreTlb ↔ e ∈ (s.core k).coreTlb ∧ ¬ hit e)
          ∧ (e ∈ (t.core k).walkAhead ↔ e ∈ (s.core k).walkAhead ∧ ¬ hit e) ∧ (e ∈ (t.die k).llTlb ↔ e ∈ (s.die k).llTlb ∧ ¬ hit e))
        ∧ (∀ k, (t.core k).gateCache = []) ∧ (∀ x ∈ s.walks, dropped x → { x with discarded := true } ∈ t.walks))
    ∧ (∀ u : UWord, c.part.regs.privseg = true → Free c u.s true none none → Released s c 6 → c.part.heldOf [.ld, .st] = none →
      let h := (s.tenant c.launch.tenant).hsigBase
      let pa := h.toNat % 2 ^ 52 / 2 ^ 9 * 2 ^ 9 + 8 * u.b.toNat
      (h.getLsbD 0 = false → ∃ t w p, exec (.hsig u) s = .next t ∧ OnlyWave c s t ∧ t.wave? c.ref.key = some w ∧ SameVregs c.wave w
        ∧ w.part? c.ref.base = some p ∧ p.regs = c.part.regs ∧ p.pc = c.next 4 ∧ p.region = c.next 4 ∧ p.park = .running ∧ p.notBefore = s.dcc + 1)
      ∧ (h.getLsbD 0 = true → ∃ t w q, exec (.hsig u) s = .next t ∧ t = { s with posted := s.posted ++ [q], nextId := s.nextId + 1, waves := t.waves }
        ∧ (∀ k, k ≠ c.ref.key → t.wave? k = s.wave? k) ∧ SameVregs c.wave w ∧ WaveIs c t id (c.part.parkedAtOnce (.on (.posted s.nextId)) s.dcc) w
        ∧ q.id = s.nextId ∧ q.core = c.ref.core ∧ q.pa = pa ∧ q.part = some (c.ref, c.wave.admission)
        ∧ q.what = .signal (c.sreg u.a.toNat) (c.launch.tenant + 1) u.b.toNat (c.next 4)
        ∧ q.arrival = s.dcc + slicePath c.ref.core pa + if l2Cached pa then 0 else homeExtra pa))
    ∧ (∀ (q : Posted) (v next : W64) (fn vec : Nat), q.what = .signal v fn vec next → q.part = some (c.ref, c.wave.admission) →
      c.part.park = .on (.posted q.id) → s.pinned (some q.core) q.pa = false → s.lineBusy q.core (q.pa / 128) = false → s.bankDelay q.pa = 0 →
      (s.die (dieOfPa q.pa)).dbgEn = false →
      let t := s.landPosted q
      let message := (fn, vec)
      (∃ w p, t.wave? c.ref.key = some w ∧ SameVregs c.wave w ∧ w.part? c.ref.base = some p ∧ p.regs = c.part.regs ∧ p.pc = next ∧ p.region = next
        ∧ p.park = .running)
      ∧ (∀ k, k ≠ c.ref.key → t.wave? k = s.wave? k)
      ∧ t = { s with mem := t.mem, cores := t.cores, banks := t.banks, l2 := t.l2, dies := t.dies, pkg := t.pkg, posted := t.posted, waves := t.waves }
      ∧ (∀ x, x ∈ t.posted ↔ x ∈ s.posted ∧ x.id ≠ q.id)
      ∧ (message ∉ s.pkg.msixMask → t.pkg = { s.pkg with msix := message :: s.pkg.msix })
      ∧ (message ∈ s.pkg.msixMask → t.pkg = { s.pkg with msixPend := if message ∈ s.pkg.msixPend then s.pkg.msixPend else message :: s.pkg.msixPend })
      ∧ natOfBytes (readBytes t.mem q.pa 8) = v.toNat ∧ ∀ a, a < q.pa ∨ q.pa + 8 ≤ a → readByte t.mem a = readByte s.mem a)
    ∧ (∀ s' va d, s.fetch c.ref.core c.part.regs.asid c.part.pc = (s', .failed va d) → HandlerReady c →
      ∃ t w p, exec .instructionFetchFault s = .next t ∧ InHandler c s' t 0x05 d (BitVec.ofNat 64 va) c.part.pc w p)
    ∧ (∀ s' va x f, s.fetch c.ref.core c.part.regs.asid c.part.pc = (s', .missing va x) → s'.recordFor c.ref.core c.part.regs.asid va = some f →
      ∃ t w, exec .instructionFetchFault s = .next t ∧ OnlyWave c s' t ∧ SameVregs c.wave w
        ∧ WaveIs c t id (c.part.parkedAtOnce (.on (.ticket (dieOf c.ref.core) f.ticket va)) s.dcc) w)
    ∧ (∀ s' va x, s.fetch c.ref.core c.part.regs.asid c.part.pc = (s', .missing va x) → s'.recordFor c.ref.core c.part.regs.asid va = none →
      s'.faultRoom (dieOf c.ref.core) = true → s'.pinnedIn none (s'.postLines (dieOf c.ref.core)) = [] →
      ∃ t w f, exec .instructionFetchFault s = .next t ∧ SameVregs c.wave w
        ∧ WaveIs c t id (c.part.parkedAtOnce (.on (.ticket (dieOf c.ref.core) f.ticket va)) s.dcc) w
        ∧ (t.die (dieOf c.ref.core)).faults = (s'.die (dieOf c.ref.core)).faults ++ [f] ∧ f.va = va ∧ f.asid = c.part.regs.asid ∧ f.kind = 4
        ∧ f.core = c.ref.core ∧ f.size = 2 ^ x ∧ f.page = va / 2 ^ x * 2 ^ x ∧ f.ticket = (s'.die (dieOf c.ref.core)).ticket)

/-! ### Ends of waits -/

/-- The ends of waits complete: a `conf` wait whose deadline has come or whose buddy cannot come passes, a park at an S marker divides into parts that
run where no quad awaits data, a forced-fuse failure takes FUSEFAIL with the quad's lowest lane, a sleep ends behind its instruction, a `pwait` passes, or takes
PROMISE while its copy is outstanding, and a parked `fork` pushes once there is room (03 R58, R60, R61, R65, 22 R490, 09 R227, 02 R41).
A `join` advances: a read of the counter that finds zero ends it behind the instruction, after the acquire of its core at dev scope; one that finds another value waits
for a change there, or, for a counter on a peer or host page, for 1,024 cycles; a change starts a new read a slice path later (02 R46, 20 R443, 01 R27). -/
def Obligations.WaitsEnd : Prop :=
  (∀ r : PartRef,
    EventResult (.confTimeout r) r (fun s c => s.confDue c.wave c.part = true) (fun s c =>
      { c.part.passConf s.dcc 1 with lastIssue := c.part.lastIssue, notBefore := max (s.dcc + 1) c.part.notBefore })
    ∧ EventResult (.sleepWake r) r (fun s c => ∃ t, c.part.park = .sleep t ∧ t ≤ s.dcc) (fun s c =>
      { c.part.moveTo (c.next 4) with park := .running, notBefore := max (c.part.moveTo (c.next 4)).notBefore s.dcc })
    ∧ EventResult (.pwaitWake r) r
      (fun s c => ∃ t n v, c.part.park = .pwait t n v ∧ promiseDue s.dcc t = true ∧ c.part.copyFailure n = none
        ∧ (s.ticketOut c.ref.core c.part n = false ∨ c.part.tcode ≠ 0))
      (fun s c => c.part.past c 4 s.dcc)
    ∧ (∀ (s : State) (c : Ctx), s.ctx? r = some c →
      (∀ t n v, c.part.park = .pwait t n v → promiseDue s.dcc t = true → c.part.copyFailure n = none → s.ticketOut c.ref.core c.part n = true →
        HandlerReady c → ∃ u w p, exec (.pwaitWake r) s = .next u ∧ InHandler c s u 0x07 0 v (c.part.pc + 4) w p)
      ∧ (∀ d l, s.fuseFailDue c.wave c.part = some (d, l) → HandlerReady c →
        ∃ t w p, exec (.fusefail r) s = .next t ∧ InHandler c s t 0x08 d (BitVec.ofNat 64 (l / 4 * 4)) c.part.pc w p)
      ∧ (∀ x, s.forkDue c = some x → ∃ t w p l, exec (.forkPush r) s = .next t ∧ t = { s with launches := t.launches, waves := t.waves }
        ∧ t.launch? c.wave.launch = some l ∧ l.deque c.ref.core = (c.launch.deque c.ref.core).push x
        ∧ (∀ k, k ≠ c.ref.key → t.wave? k = s.wave? k) ∧ t.wave? c.ref.key = some w ∧ SameVregs c.wave w ∧ w.part? c.ref.base = some p
        ∧ p.regs = c.part.regs ∧ p.pc = c.next 4 ∧ p.region = c.next 4 ∧ p.park = .running)
      ∧ (s.missDue c.part = true → c.part.width ∈ [4, 8, 16, 32, 64] → c.part.base % 4 = 0 → c.part.base + c.part.width ≤ 64 →
        (∀ l, c.part.cur.getLsbD l = true → c.part.base ≤ l ∧ l < c.part.base + c.part.width) →
        (∀ p ∈ c.wave.parts, p.base = c.ref.base → p = c.part) →
        let active := fun (l : Nat) => c.emask.getLsbD l = true
        let complete := fun (l : Nat) => s.awaiting c.part &&& laneRange (l / 4 * 4) 4 = 0
        ∃ t v, exec (.missSplit r) s = .next t ∧ OnlyWave c s t ∧ t.wave? c.ref.key = some v ∧ SameVregs c.wave v
          ∧ (∀ l, active l → ∃ p ∈ v.parts, p.cur.getLsbD l = true ∧ p.pc = c.part.pc ∧ p.regs = c.part.regs
            ∧ (p.park = .running → complete l)
            ∧ (c.part.regs.minw = 1 → (∃ a, active a ∧ complete a) → (∃ b, active b ∧ ¬ complete b) → complete l → p.park = .running)))))
  ∧ (∀ (s : State) (c : Ctx) (r : PartRef) (a pa : Nat), s.ctx? r = some c →
    let value := natOfBytes (readBytes s.mem pa 8)
    let left := fun (t : State) (p : Part) => ∃ w, SameVregs c.wave w ∧ WaveIs c t id p w
    (∀ n, c.part.park = .join a pa (.reading n) → n ≤ s.dcc → s.pinned (some c.ref.core) pa = false → s.lineBusy c.ref.core (pa / 128) = false →
      ∃ t, exec (.joinWake r) s = .next t ∧ t = { s with cores := t.cores, waves := t.waves } ∧ (∀ k, k ≠ c.ref.key → t.wave? k = s.wave? k)
        ∧ (value = 0 → left t (c.part.past c 4 s.dcc)
            ∧ t.cores = ((s.dropClean c.ref.core (pa / 128) (sectorsOf pa 8)).acquireL1 c.ref.core 5).cores)
        ∧ (value ≠ 0 → paClass pa ≤ 1 → left t { c.part with park := .join a pa (.waiting value) })
        ∧ (value ≠ 0 → 1 < paClass pa → left t { c.part with park := .join a pa (.reread (s.dcc + 1024)) }))
    ∧ (∀ v, c.part.park = .join a pa (.waiting v) → natOfBytes (readBytes s.mem pa 8) ≠ v →
      ∃ t, exec (.joinWake r) s = .next t ∧ OnlyWave c s t ∧ left t { c.part with park := .join a pa (.reread (s.dcc + slicePath c.ref.core pa)) })
    ∧ (∀ n, c.part.park = .join a pa (.reread n) → n ≤ s.dcc → 1 < paClass pa →
      ∃ t, exec (.joinReread r) s = .next t ∧ OnlyWave c s t ∧ left t { c.part with park := .join a pa (.reading (s.dcc + joinPath c.ref.core pa)) }))

/-! ### Walks, faults, pins and banks -/

/-- PAGE_WALK_COMPLETE completes where no line that the walk's next step reads is pinned: a reference of the walk is made, and the next follows; after the last one a leaf fills the TLBs and the accesses that waited have their addresses; a page that is not present holds them on the ticket of the
record that covers it. FAULT_REPLY removes its record: a replay sends the held accesses to walk again, a reject fails them with DETAIL 1, and a part parked on the
ticket takes ACCESS (08 R186, R189-R191).
PIN_TIMEOUT demands the line's write-back, at whose arrival the pin goes: its dirty sectors are sent home, and SCOPEVIOL is set in every part of the wave that
pinned it; an idle bank becomes
drowsy after 4,096 cycles, and its wake ends after 12 (09 R222, 08 R200). -/
def Obligations.WalksAndReplies : Prop :=
  ((∀ (s : State) (x : Walk) (o : MemOp), s.walks.find? (fun y => y.id == x.id) = some x → s.walkReady x = true → x.discarded = false →
    s.op? o.id = some o → o.waitsFor x = true → s.pinnedIn none (s.walkNext x) = [] →
    (s.walkOn x = true → ∃ t, exec (.pageWalkComplete x.id) s = .next t ∧ t = { s with walks := t.walks, banks := t.banks, l2 := t.l2 }
      ∧ ∃ y ∈ t.walks, ∃ n, y = { x with made := x.made + 1, due := some n } ∧ s.dcc ≤ n)
    ∧ (s.walkOn x = false → ∀ pte lp, s.walk (dieOf x.core) x.asid x.va = .leaf pte lp →
      ∃ t q, exec (.pageWalkComplete x.id) s = .next t ∧ (∀ y ∈ t.walks, y.id ≠ x.id) ∧ t.mem = s.mem ∧ t.op? o.id = some q
        ∧ (∃ e ∈ (t.core x.core).l1tlb, e.asid = x.asid ∧ e.page = x.va / 2 ^ lp ∧ e.logPage = lp ∧ e.leaf = BitVec.ofNat 64 pte)
        ∧ ∀ a ∈ o.accs, inWalk x a = true → s.leafFault o.kind.need pte (paOf pte lp a.va) = none →
          ∃ a' ∈ q.accs, a'.lane = a.lane ∧ a'.va = a.va ∧ a'.size = a.size ∧ a'.data = a.data ∧ a'.phase = .ready ∧ a'.pa = paOf pte lp a.va)
    ∧ (s.walkOn x = false → (s.recordFor x.core x.asid x.va).isSome = true ∨ s.pinnedIn none (s.postLines (dieOf x.core)) = [] →
      ∀ ext, s.walk (dieOf x.core) x.asid x.va = .nonPresent ext →
      ∃ t q, exec (.pageWalkComplete x.id) s = .next t ∧ (∀ y ∈ t.walks, y.id ≠ x.id) ∧ t.op? o.id = some q
        ∧ ∃ f ∈ (t.die (dieOf x.core)).faults, f.core = x.core ∧ f.asid = x.asid ∧ f.page ≤ x.va ∧ x.va < f.page + f.size
          ∧ ∀ a ∈ o.accs, inWalk x a = true → ∃ a' ∈ q.accs, a'.lane = a.lane ∧ a'.va = a.va ∧ a'.phase = .held (dieOf x.core) f.ticket))
  ∧ (∀ (s : State) (die : Nat) (v : W64) (src : Source) (f : FaultRec), fromManagement src = true → s.answers = true →
    (s.die die).faults.find? (fun g => g.ticket == v.toNat % 2 ^ 32) = some f →
    let after := fun (g : Access → Access) (t : State) => ∀ o, s.op? o.id = some o → (∀ d n m u, o.kind ≠ .unit d n m u) →
      ∃ q, t.op? o.id = some q ∧ q.accs = o.accs.map (fun a => if a.phase = .held die f.ticket then g a else a)
    (v.getLsbD 32 = false → ∃ t, exec (.faultReply die v src) s = .next t ∧ (∀ g ∈ (t.die die).faults, g.ticket ≠ f.ticket)
      ∧ t.mem = s.mem ∧ t.scratch = s.scratch ∧ t.acc = s.acc ∧ t.waves = s.waves ∧ after (fun a => { a with phase := .walk }) t)
    ∧ (v.getLsbD 32 = true → s.ticketParts die f.ticket = [] → ∃ t, exec (.faultReply die v src) s = .next t
      ∧ (∀ g ∈ (t.die die).faults, g.ticket ≠ f.ticket) ∧ t.mem = s.mem ∧ t.scratch = s.scratch ∧ t.acc = s.acc
      ∧ after (fun a => { a with phase := .failed 1 }) t)
    ∧ (∀ c va, v.getLsbD 32 = true → s.heldOps die f.ticket = [] → s.heldCopies die f.ticket = [] → s.heldMmas die f.ticket = [] →
      s.ticketParts die f.ticket = [(c.ref, va)] → s.ctx? c.ref = some c → HandlerReady c →
      ∃ t w p, exec (.faultReply die v src) s = .next t
        ∧ InHandler c { s with dies := t.dies, joinDecs := t.joinDecs } t 0x05 1 (BitVec.ofNat 64 va) c.part.pc w p)))
  ∧ ((∀ (s : State) (p : Pin), s.pin? p.line = some p → s.pinExpired p = true →
    ∃ t, exec (.pinTimeout p.line) s = .next t
      ∧ t = { s with backs := t.backs, nextId := t.nextId, cores := t.cores, pins := t.pins, waves := t.waves }
      ∧ t.pins = s.pins.map (fun q => if q.line = p.line then { q with demanded := true } else q)
      ∧ (∀ b ∈ s.backs, b ∈ t.backs)
      ∧ (∀ l, s.l1Line? p.core p.line = some l → l.dirty ≠ 0 →
          ∃ b ∈ t.backs, b.core = p.core ∧ b.line = p.line ∧ b.sectors = l.dirty ∧ b.data = l.data ∧ s.dcc < b.due)
      ∧ ∀ w, s.wave? (p.core * 128 + p.slot) = some w → ∃ w', t.wave? (p.core * 128 + p.slot) = some w' ∧ SameVregs w w'
        ∧ (w.admission ≠ p.admission → w' = w)
        ∧ (w.admission = p.admission → ∀ (n : Nat) (q : Part), w.parts[n]? = some q →
            w'.parts[n]? = some { q with regs := { q.regs with status := q.regs.status ||| 4 }, statusAt := s.dcc
                                         statusNew := if q.statusAt = s.dcc then q.statusNew ||| 4 else 4 }))
  ∧ (∀ (s : State) (bank : Nat),
    let b := getT Bank.reset s.banks bank
    (b.wake = none → b.drowsy = false → b.last + 4096 ≤ s.dcc → ∃ t, exec (.bankDrowsy bank) s = .next t ∧ t = { s with banks := t.banks }
      ∧ ∀ k, getT Bank.reset t.banks k = if k = bank then { b with drowsy := true } else getT Bank.reset s.banks k)
    ∧ (∀ n, b.wake = some n → n ≤ s.dcc → ∃ t, exec (.bankWakeComplete bank) s = .next t ∧ t = { s with banks := t.banks }
      ∧ ∀ k, getT Bank.reset t.banks k = if k = bank then { b with drowsy := false, wake := none } else getT Bank.reset s.banks k)))

/-- The engines' steps complete: a copy into scratch whose record is well formed and whose pages are there, with no pinned line among them, leaves the record's image in
the part's scratch, where no younger copy of its core has written, and is counted no longer; every other copy ends where it wrote; the operands of a k-step arrive in an operation's images; an operation that has passed its last
pass leaves the queue and its parts, with its failure pending in one of them; and a co-operative operation with every instance issued is released
on each of its cores (10 R237, R239, R244-R246, R249, 21 R450). -/
def Obligations.EngineEvents : Prop :=
  (∀ (s : State) (core : Nat) (o : CopyOp), s.copy? o.id = some (core, o) → s.copyDue core o = true →
    let ended := fun (u t : State) => (∀ q ∈ (t.core core).copyQ, q.id ≠ o.id) ∧ ∀ w, u.wave? (core * 128 + o.slot) = some w → w.admission = o.admission →
      ∃ w', t.wave? (core * 128 + o.slot) = some w' ∧ SameVregs w w' ∧ ∀ (n : Nat) (p : Part), w.parts[n]? = some p →
        w'.parts[n]? = some { p with cpOps := p.cpOps.filter (fun i => i != o.id) }
    (∀ s' n, s.runCopy core o = (s', .wrote n) → ∃ t, exec (.tcopyComplete o.id) s = .next t ∧ ended s' t ∧ t.mem = s'.mem ∧ t.scratch = s'.scratch)
    ∧ (∀ b s0 s1 s2 m n, o.dir = 0 → o.moved = 0 → o.newer = [] → b ≠ [] →
      (o.recBytes = b ∧ s1 = s ∨ o.recBytes = [] ∧ s.recordBytes core o.asid o.record.toNat = (s0, .ok b)
        ∧ s1 = s0.updCopy core o.id (fun q => { q with recBytes := b })) →
      let tr := Tensor.ofBytes b
      tr.wellFormed b = true → tr.scaleFault o.origin = none → o.scratch + tr.image ≤ o.scrBytes →
      s1.stepsReady core o.asid false (tr.steps.map (tr.stepAddrs o.origin)) [] 0 = (s2, m, n, none) →
      let img := tr.build o.origin (fun va => s2.engineByte core (mapPa m va))
      let lo := scratchKey core (o.scrBase + o.scratch)
      ∃ t, exec (.tcopyComplete o.id) s = .next t ∧ ended s t ∧ t.mem = s.mem ∧ readBytes t.scratch lo img.length = img
        ∧ ∀ a, a < lo ∨ lo + img.length ≤ a → readByte t.scratch a = readByte s.scratch a))
  ∧ (∀ (s : State) (core : Nat) (o : MmaOp), s.mma? o.id = some (core, o) →
    let same := fun (t : State) => t.mem = s.mem ∧ t.acc = s.acc ∧ t.scratch = s.scratch
    (s.mmaOver core o = true →
      let ended := fun (t : State) => same t ∧ (t.core core).matrixQ = (s.core core).matrixQ.filter (fun q => q.id != o.id)
        ∧ ∀ w, s.wave? (core * 128 + o.slot) = some w → w.admission = o.admission → ∃ w', t.wave? (core * 128 + o.slot) = some w' ∧ SameVregs w w'
          ∧ (∀ (n : Nat) (p : Part), w.parts[n]? = some p → ∃ q : Part, w'.parts[n]? = some q ∧ q.regs = p.regs ∧ q.pc = p.pc
            ∧ q.mxOps = p.mxOps.filter (fun i => i != o.id) ∧ (o.fail = none → q.fails = p.fails))
          ∧ (∀ f, o.fail = some f → (∃ p ∈ w.parts, o.id ∈ p.mxOps) → ∃ q ∈ w'.parts, mmaDelivery o f ∈ q.fails)
      (o.zeroOnly = false → ∃ t, exec (.mmaComplete o.id) s = .next t ∧ ended t)
      ∧ (o.zeroOnly = true → ∃ t, exec (.mmzComplete o.id) s = .next t ∧ ended t))
    ∧ (s.coopReady core o = true → ∃ t, exec (.coopMmaRelease o.id) s = .next t ∧ t = { s with cores := t.cores }
      ∧ ∀ k ∈ s.coopCores core o, ∃ q, t.instanceOn o k = some q ∧ q.released = true)
    ∧ (∀ isA : Bool, risingFrom 0 s.cores = true → s.streamDue o isA = true → s.streamDue o (!isA) = false → o.co = false → o.m ≠ 0 → o.n ≠ 0 → o.k ≠ 0 →
      (o.stream isA).record ≠ [] → ∀ s2 img, s.streamStep core o isA (o.stream isA).steps = (s2, .ok img) →
      ∃ t, exec (.mmaKstepDelivery o.id) s = .next t ∧ same t
        ∧ ∀ (n : Nat) (q : MmaOp), (s.core core).matrixQ[n]? = some q → q.id = o.id → ∃ q' : MmaOp, (t.core core).matrixQ[n]? = some q'
          ∧ (q'.stream isA).record = (o.stream isA).record ∧ (q'.stream isA).image = img ∧ (q'.stream isA).steps = (o.stream isA).steps + 1
          ∧ q'.stream (!isA) = q.stream (!isA) ∧ q'.idx = q.idx ∧ q'.fail = q.fail))

/-! ### Power -/

/-- The cluster's other power steps complete. The allowance gains its refill, loses the cycle's debits and stays at or below CAP; a run of 257 cycles below zero strikes every
class; the voltage loop moves REQ by the measured slack within VMIN and VMAX + 256; gating sends the first dirty line of each core in its first cycle and keeps the
others, one a cycle, then discards L1 and TLBs, resets row, A and REQ and takes a pending rail; a wake ends after 2,400 cycles (17 R368, R369, R374-R376).
The power registers complete a write of the management controller, and ignore any other writer, as every writer in recovery and in the fatal state: PWRCFG takes REFILL and a CAP from 1 to 2^31 − 1 and ignores the write
otherwise; RAMP takes a table that rises and stays at 64 or below, which the step under way does not use; RAILSEL acts at once on a gated cluster and
at its next commit on another, and reads as written at once (17 R367, R372, R375, 00 R6, 18 R388, R390).
The slew limiter's step completes: the cluster's issues and fillers keep to the floor of the step, its row moves by one at most and only as a step ends, and the
array's clear of a tile leaves zeros in it and in nothing else; memory, scratch and every register stay (17 R371, R372, 21 R450). -/
def Obligations.PowerSteps : Prop :=
  (∀ (s : State) (c : Nat),
    let k := s.cluster c
    let becomes := fun (i : Instr) (k' : Cluster) => ∃ t, exec i s = .next t ∧ t = { s with clusters := t.clusters }
      ∧ ∀ n, t.cluster n = if n = c then k' else s.cluster n
    becomes (.allowanceUpdate c) { k with
      allow := max (-2147483648) (min (k.cap.toNat : Int) (k.allow + (max 1 k.refill.toNat : Nat) - (k.debit : Nat))), debit := 0
      negCycles := if k.allow < 0 then k.negCycles + 1 else 0
      struckAll := k.struckAll && decide (max (-2147483648) (min (k.cap.toNat : Int) (k.allow + (max 1 k.refill.toNat : Nat) - (k.debit : Nat))) < 0) }
    ∧ (k.allow < 0 → 256 ≤ k.negCycles → k.struckAll = false → becomes (.pacSustainedStrike c) { k with struckAll := true })
    ∧ (s.intervalEnds c = true → ∃ t slack, exec (.voltageInterval c) s = .next t ∧ t = { s with clusters := t.clusters, freeCount := s.freeCount + 1 }
      ∧ (t.cluster c).slack = BitVec.ofNat 8 (min slack 255)
      ∧ (t.cluster c).req = BitVec.ofNat 16 (k.clampReq ((k.req.toNat : Int)
          + if 2 * slack < k.target.toNat then 4 else if slack < k.target.toNat then 1 else if k.target.toNat < slack then -1 else 0)))
    ∧ (s.gatingDue c = true → ∃ t, exec (.gatingStart c) s = .next t
      ∧ t = { s with clusters := t.clusters, cores := t.cores, backs := t.backs, nextId := t.nextId } ∧ (∀ n, n ≠ c → t.cluster n = s.cluster n)
      ∧ t.cluster c = { k with state := .gating, since := s.dcc, lastWb := s.dcc, wbs := (s.gatingWrites c).filter (fun e => decide (s.dcc < e.2.2)), sentWbs := (t.cluster c).sentWbs }
      ∧ ∀ core ∈ clusterCores c, ∀ n r l, s.dirtyLines core = n :: r → s.l1Line? core n = some l → l.dirty ≠ 0 →
        (∀ m ∈ r, (core, m, s.dcc + 1 + r.idxOf m) ∈ s.gatingWrites c)
        ∧ ∃ b ∈ t.backs, b.core = core ∧ b.line = n ∧ b.sectors = l.dirty ∧ b.data = l.data ∧ s.dcc < b.due ∧ b.id ∈ (t.cluster c).sentWbs)
    ∧ (s.commitDue c = true → ∃ t, exec (.gatingCommit c) s = .next t ∧ t = { s with clusters := t.clusters, cores := t.cores }
      ∧ (t.cluster c).state = .gated ∧ (t.cluster c).row = 0 ∧ (t.cluster c).allow = k.cap.toNat ∧ (t.cluster c).req.toNat = k.vmax.toNat + 256
      ∧ (t.cluster c).rail = k.railPend.getD k.rail ∧ (t.cluster c).railPend = none
      ∧ (∀ core, t.core core = if core ∈ clusterCores c then { s.core core with l1 := [], l1tlb := [], coreTlb := [], walkAhead := [] } else s.core core))
    ∧ (k.state = .waking → k.since + 2400 ≤ s.dcc → becomes (.clusterAwake c) { k with state := .awake, since := s.dcc, idle := 0 }))
  ∧ (∀ (s : State) (c : Nat) (v : W64),
    let k := s.cluster c
    let becomes := fun (i : Instr) (k' : Cluster) => ∃ t, exec i s = .next t ∧ t = { s with clusters := t.clusters }
      ∧ ∀ n, t.cluster n = if n = c then k' else s.cluster n
    let cap := v.toNat / 2 ^ 16 % 2 ^ 32
    (s.answers = true → 0 < cap → cap < 2 ^ 31 → becomes (.pwrcfgWrite c v .controller) { k with refill := v.extractLsb' 0 16, cap := v.extractLsb' 16 32 })
    ∧ (cap = 0 ∨ 2 ^ 31 ≤ cap → exec (.pwrcfgWrite c v .controller) s = .next s)
    ∧ (s.answers = true → k.state = .gated → becomes (.railselWrite c v .controller) { k with rail := v.extractLsb' 0 2, railPend := none })
    ∧ (s.answers = true → k.state ≠ .gated → becomes (.railselWrite c v .controller) { k with railPend := some (v.extractLsb' 0 2) })
    ∧ (s.answers = true → ∃ t, exec (.railselWrite c v .controller) s = .next t ∧ (t.cluster c).read 0x28 % 4 = v.toNat % 4)
    ∧ (∀ upper, let k' := if upper then { k with ramp1 := v } else { k with ramp0 := v }
      (s.answers = true → (∀ n < 16, k'.ramp n ≤ 64) → (∀ n < 15, k'.ramp n ≤ k'.ramp (n + 1)) →
        ∃ t, exec (.rampWrite c upper v .controller) s = .next t ∧ t = { s with clusters := t.clusters }
          ∧ (t.cluster c).ramp0 = k'.ramp0 ∧ (t.cluster c).ramp1 = k'.ramp1 ∧ (t.cluster c).row = k.row
          ∧ (k.step = s.dcc / 4 → (t.cluster c).budget = k.budget))
      ∧ ((∃ n < 16, 64 < k'.ramp n) ∨ (∃ n < 15, k'.ramp (n + 1) < k'.ramp n) → exec (.rampWrite c upper v .controller) s = .next s))
    ∧ (∀ src, src ≠ .controller ∨ s.answers = false → exec (.pwrcfgWrite c v src) s = .next s ∧ exec (.railselWrite c v src) s = .next s
        ∧ ∀ upper, exec (.rampWrite c upper v src) s = .next s))
  ∧ (∀ (s : State) (c : Nat), s.slewBusy c = true →
    ∃ t, exec (.slewStep c) s = .next t ∧ t.mem = s.mem ∧ t.scratch = s.scratch
      ∧ (∀ k w, s.wave? k = some w → ∃ w', t.wave? k = some w' ∧ SameVregs w w' ∧ w'.parts.map (fun p => p.regs) = w.parts.map (fun p => p.regs))
      ∧ (s.dcc % 4 + 1) * (s.cluster c).rampBelow ≤ 4 * (t.cluster c).made
      ∧ (s.dcc % 4 ≠ 3 → (t.cluster c).row = (s.cluster c).row)
      ∧ ((s.cluster c).row ≤ 15 → (t.cluster c).row ≤ (s.cluster c).row + 1 ∧ (s.cluster c).row ≤ (t.cluster c).row + 1 ∧ (t.cluster c).row ≤ 15)
      ∧ (∀ core o, core ∈ clusterCores c → (∀ k ∈ clusterCores c, k ≠ core → (s.core k).served = none) → (s.core core).served = some o →
        o.zeroOnly = true → o.start ≠ 0 → o.start ≤ s.dcc →
        let lo := accKey core (o.t0 + o.tile) 0
        ∀ a, readByte t.acc a = if lo ≤ a ∧ a < lo + 65536 then 0 else readByte s.acc a))

/-! ### The scheduler -/

/-- The commands of a queue complete. A NOP is consumed; a WAIT is consumed once a poll, made at most every 1,024 cycles, has found its value, and a
poll of a pinned line is refused, which starts the pin's count; a SIGNAL stores its value
once every earlier launch has completed; a LAUNCH that passes its checks is accepted 104 cycles on with an identifier that no launch holds which has not completed, and may be placed 16
cycles later, in cycle 120; a GRAPHLOAD keeps its image, at the lowest free place of its tenant's region, and its graph; a command that breaks a rule stops the queue with its code; the prefetch behind
a consumed command changes no more than the count of a pin that refuses it (11 R253-R259, R264, R268, 09 R221, R222; the 104 and 120 cycles are the model's choice, notes/assumptions/23.md, and the
image's free place is, notes/assumptions/22.md). -/
def Obligations.QueueCommands : Prop :=
  ∀ (s : State) (n : Nat),
    let b := s.headBytes n
    let q := s.queue n
    let sched := fun (t : State) => t = { s with sched := t.sched }
    let fetched := SamePins s
    (∀ c, s.headAt n = .cmd c → fieldAt c 0 1 = 0 → ∃ t, exec (.queueNop n) s = .next t ∧ t = { s with sched := t.sched, pins := t.pins } ∧ fetched t ∧ Consumed n s t)
    ∧ (∀ code, s.headAt n = .bad code → ∃ t, exec (.queueNop n) s = .next t ∧ StoppedWith n code s t)
    ∧ (s.headKind n = some 2 → q.pollOk = true → ∃ t, exec (.wait n) s = .next t ∧ t = { s with sched := t.sched, pins := t.pins }
      ∧ fetched t ∧ Consumed n s t)
    ∧ (s.pollDue n = true → cmdAddr b % 8 = 0 → s.schedPins q.asid (cmdAddr b) 8 = [] → ∀ v, s.schedBytes q.asid .read (cmdAddr b) 8 = some v →
      ∃ t, exec (.waitPoll n) s = .next t ∧ sched t
        ∧ ∀ m, t.queue m = if m = n then { q with pollAt := s.dcc + 1024, pollOk := decide (cmdValue b ≤ natOfBytes v) } else s.queue m)
    ∧ (s.pollDue n = true → cmdAddr b % 8 = 0 → s.schedPins q.asid (cmdAddr b) 8 = [] →
      s.schedBytes q.asid .read (cmdAddr b) 8 = none → ∃ t, exec (.waitPoll n) s = .next t ∧ StoppedWith n 9 s t)
    ∧ (s.pollDue n = true → cmdAddr b % 8 = 0 → ∀ pa p, s.schedPas q.asid (cmdAddr b) = [pa] → s.pins = [p] → p.line = pa / 128 →
      ∃ t, exec (.waitPoll n) s = .next t ∧ t = { s with pins := [{ p with refused := some (p.refused.getD s.dcc) }] })
    ∧ (s.headKind n = some 3 → s.queueIdle n = true → cmdAddr b % 8 = 0 → ∀ pa, s.schedPa q.asid (cmdAddr b) = some pa →
      s.schedPins q.asid (cmdAddr b) 8 = [] → (∀ d, (s.die d).dbgEn = false) →
      ∃ t, exec (.signal n) s = .next t ∧ Consumed n s t ∧ natOfBytes (readBytes t.mem pa 8) = cmdValue b % 2 ^ 64
        ∧ ∀ a, a < pa ∨ pa + 8 ≤ a → readByte t.mem a = readByte s.mem a)
    ∧ (s.launchReady n = true → ∀ code, s.validate (s.queueOrigin n) b = .error code → ∃ t, exec (.launch n) s = .next t ∧ StoppedWith n code s t)
    ∧ (s.launchReady n = true → ∀ l, s.validate (s.queueOrigin n) b = .ok l → s.launches.length < 65536 → s.sched.nextLaunch < 65536 →
      ∃ t l', exec (.launch n) s = .next t ∧ Consumed n s t ∧ t = { s with sched := t.sched, launches := t.launches, pins := t.pins }
        ∧ fetched t ∧ t.launch? s.sched.launchSeq = some l' ∧ (∀ k, k ≠ s.sched.launchSeq → t.launch? k = s.launch? k)
        ∧ l' = { l with id := l'.id, seq := s.sched.launchSeq, acceptedAt := s.dcc + 104, placeFrom := s.dcc + 120 }
        ∧ (∀ e ∈ s.launches, e.2.at_ ≠ .completed → e.2.id ≠ l'.id) ∧ (t.queue n).draws = q.draws + (if l.draw.isSome then 1 else 0))
    ∧ (s.graphloadReady n = true → fieldAt b 2 2 ≤ 1023 → fieldAt b 16 4 ≤ 1048576 →
      s.schedPins q.asid (cmdAddr b) (fieldAt b 16 4) = [] → ∀ img off, s.schedBytes q.asid .read (cmdAddr b) (fieldAt b 16 4) = some img →
      freePlace ((s.tenant q.tenant).images.filter (fun i => i.1 != fieldAt b 2 2)) (fieldAt b 16 4) = some off →
      (badGraph img (fieldAt b 16 4) = true → ∃ t, exec (.graphload n) s = .next t ∧ StoppedWith n 8 s t)
      ∧ (badGraph img (fieldAt b 16 4) = false →
        let g := graphOf { s.queueOrigin n with qpass := 0 } (fieldAt b 2 2) img
        (∀ x ∈ g.nodes, ∃ l, s.validate g.origin (x.take 64) = .ok l) →
        ∃ t, exec (.graphload n) s = .next t ∧ t = { s with sched := t.sched, pins := t.pins } ∧ fetched t ∧ Consumed n s t ∧ t.graph? q.tenant (fieldAt b 2 2) = some g
          ∧ readBytes t.sched.mem (schedKey q.tenant off) img.length = img))

/-- The scheduler's doorbells complete a write of PF0, the controller or the tenant itself, and ignore another function's, and every one in recovery or after a fatal
error. QTAIL takes the tail, or stops a queue that it fills past its ring with code 1; a 1 in
QERR.STOP skips the stopped command and runs the queue on; QPASS begins a pass with draw 0; TRIGGER starts an instance of its graph, keeps it behind
the one that runs, or drops it with the reason's bit and a count (11 R252, R253, R258, R265, 14 R309, 18 R388, R390). -/
def Obligations.Doorbells : Prop :=
  ∀ (s : State) (n : Nat) (v : W64) (src : Source),
    let q := s.queue n
    let sched := fun (t : State) => t = { s with sched := t.sched }
    (mayTenant src q.tenant = true → s.answers = true →
      (let full := q.en = true ∧ q.stop = false ∧ 2 ^ q.logn < (v.extractLsb' 0 32 - q.head).toNat
      ∃ t, exec (.qtailWrite n v src) s = .next t ∧ t = { s with sched := t.sched, pins := t.pins } ∧ SamePins s t ∧ (∀ m, m ≠ n → t.queue m = s.queue m)
        ∧ (t.queue n).tail.toNat = v.toNat % 2 ^ 32 ∧ (t.queue n).head = q.head
        ∧ (full → (t.queue n).stop = true ∧ (t.queue n).code = 1 ∧ (t.queue n).index = q.head)
        ∧ (¬ full → (t.queue n).stop = q.stop ∧ (t.queue n).code = q.code))
      ∧ (v.getLsbD 63 = true → q.stop = true → ∃ t, exec (.qerrStopWrite n v src) s = .next t ∧ t = { s with sched := t.sched, pins := t.pins }
        ∧ SamePins s t ∧ (∀ m, m ≠ n → t.queue m = s.queue m)
        ∧ (t.queue n).stop = false ∧ (t.queue n).head = q.head + 1 ∧ (t.queue n).tail = q.tail)
      ∧ (∃ t, exec (.qpassWrite n v src) s = .next t ∧ sched t
        ∧ ∀ m, t.queue m = if m = n then { q with qpass := BitVec.ofNat 64 (v.toNat / 64 % 2 ^ 51 * 64), draws := 0 } else s.queue m))
    ∧ (mayTenant src q.tenant = false ∨ s.answers = false →
      exec (.qtailWrite n v src) s = .next s ∧ exec (.qerrStopWrite n v src) s = .next s ∧ exec (.qpassWrite n v src) s = .next s)
    ∧ (mayTenant src n = false ∨ s.answers = false → ∀ whole, exec (.triggerWrite n v whole src) s = .next s)
    ∧ (mayTenant src n = true → s.answers = true → (s.tenant n).flrAt ≠ some s.dcc →
      let gid := v.toNat / 2 ^ 48
      let waits := (s.graphInsts n gid).filter (fun x => !x.running)
      let drops := fun (t : State) (bit : Nat) => sched t ∧ t.sched.insts = s.sched.insts ∧ (t.tenant n).code = (s.tenant n).code ||| BitVec.ofNat 8 (2 ^ bit)
        ∧ (t.tenant n).drops = min ((s.tenant n).drops + 1) 65535
      (∃ t, exec (.triggerWrite n v false src) s = .next t ∧ drops t 3)
      ∧ (s.graph? n gid = none → ∃ t, exec (.triggerWrite n v true src) s = .next t ∧ drops t 0)
      ∧ (∀ g, s.graph? n gid = some g → 4 ≤ waits.length → ∃ t, exec (.triggerWrite n v true src) s = .next t ∧ drops t 1)
      ∧ (∀ g, s.graph? n gid = some g → waits.length < 4 → (∃ x ∈ s.graphInsts n gid, x.running = true) →
        ∃ t, exec (.triggerWrite n v true src) s = .next t ∧ sched t ∧ t.sched.insts = s.sched.insts ++
          [{ tenant := n, gid := gid, patch := v.toNat % 2 ^ 48, running := false, arrived := s.dcc, nodes := [], launched := [], completed := [] }])
      ∧ (∀ g, s.graph? n gid = some g → s.graphInsts n gid = [] → v.toNat % 2 ^ 48 = 0 →
        ∃ t, exec (.triggerWrite n v true src) s = .next t ∧ t.mem = s.mem
          ∧ ∃ y ∈ t.sched.insts, y.tenant = n ∧ y.gid = gid ∧ y.running = true ∧ y.nodes = g.nodes))

/-! ### Launches -/

/-- The distributor's steps complete: a launch that fits takes its rectangle and wakes its clusters, its groups offered to a core 24 cycles on, or 40 on another die than the
scheduler's; its next group, with the next number, a task popped by its owner or a task stolen from the first victim whose oldest entry fits starts on its core with
clean registers, scratch and tiles; the groups of a co-resident launch are admitted in one cycle, each to a core that accepts; a pixel wave takes its core with its helpers, its exited lanes and its
anchors; a stolen task starts once the answers of the victims up to it are back, a slice hit after the round began; a round that finds nothing is repeated 256 cycles later; an ended task takes 1 from its counter; and a launch all of whose groups
have exited completes, releases its cores' writes at sys scope once they have performed, and leaves when the release is made (11 R260-R263, R268, 02 R31-R33, R40-R45, 14 R325, R326, R328; the
scheduler's die and the cycles of a steal are the model's choices, notes/assumptions/23.md and 54.md). -/
def Obligations.LaunchesRun : Prop :=
  ∀ (s : State) (lid core : Nat) (l : Launch), s.launch? lid = some l →
    (∀ e, l.at_ = .waiting → s.placeAt lid l = some e →
      ∃ t l', exec (.launchPlacement lid) s = .next t ∧ t = { s with clusters := t.clusters, launches := t.launches } ∧ t.launch? lid = some l'
        ∧ l'.at_ = .placed ∧ (l'.x0, l'.y0) = e ∧ l'.kernel = l.kernel ∧ l'.admitted = l.admitted
        ∧ ∀ k ∈ l'.cores, l'.readyAt k = s.dcc + (if dieOf k = 0 then 24 else 40)
          ∧ ((t.cluster (clusterOf k)).state = .awake ∨ (t.cluster (clusterOf k)).state = .waking))
    ∧ (s.pixelTaken lid core = none → l.admitted < l.ngroups → l.cor = false → l.offerOrder.find? (fun k => (s.offerTaken lid k).isSome) = some core →
      ∃ t l' g, exec (.groupAdmission lid core) s = .next t ∧ Admitted s t lid core l.kernel.entry l.param l.arg ∧ t.launch? lid = some l'
        ∧ l'.admitted = l.admitted + 1 ∧ t.group? s.nextId = some g ∧ g.num = l.admitted ∧ g.kind = if l.draw.isSome then .mesh else .ordinary)
    ∧ (s.pixelTaken lid core = none → l.admitted < l.ngroups → l.cor = true → l.offerOrder.find? (fun k => (s.offerTaken lid k).isSome) = some core →
      ∃ t l', exec (.groupAdmission lid core) s = .next t ∧ t.mem = s.mem ∧ t.launch? lid = some l' ∧ l'.admitted = l.ngroups
        ∧ ∀ n, l.admitted ≤ n → n < l.ngroups → ∃ k g, t.group? k = some g ∧ g.launch = lid ∧ g.num = n ∧ g.core ∈ l.cores ∧ s.accepts l g.core = true)
    ∧ (∀ d w s', l.draw = some d → l.pixels.find? (fun w => w.die == dieOf core) = some w → s.accepts l core = true →
      s.startGroup lid core (pixelReq l d w) = some s' → (∀ e ∈ w.lanes, e.1 < 64) → w.lanes.Pairwise (fun a b => a.1 ≠ b.1) →
      ∃ t l' g v p slot, exec (.groupAdmission lid core) s = .next t ∧ t.mem = s.mem ∧ t.launch? lid = some l' ∧ l'.pixels = l.pixels.erase w ∧ l'.admitted = l.admitted
        ∧ t.group? s.nextId = some g ∧ g.launch = lid ∧ g.core = core ∧ g.kind = .pixel ∧ g.slots = [slot] ∧ t.wave? (core * 128 + slot) = some v ∧ v.group = s.nextId
        ∧ v.width = w.width ∧ v.helper = w.helpers ∧ v.exited = w.unfilled ∧ v.pixel = some w ∧ v.parts = [p] ∧ p.pc = d.pixel.entry ∧ p.notBefore = s.dcc + 16
        ∧ p.regs.sreg 0 = l.param ∧ p.regs.sreg 1 = l.arg ∧ (∀ e ∈ w.lanes, ∀ x ∈ w.anchors e, v.v 0 x.1 x.2.1 = x.2.2)
        ∧ t.frags = s.frags.map (fun f => if w.lanes.any (fun e => e.2.frag == some f.id) then { f with core := core } else f))
    ∧ (∀ x d, (l.deque core).pop = some (x, d) → (s.ownTask lid core).isSome →
      ∃ t l', exec (.taskStart lid core) s = .next t ∧ Admitted s t lid core x.entry l.param x.arg ∧ t.launch? lid = some l' ∧ l'.deque core = d)
    ∧ (s.stealDue lid core = true →
      ∃ t, exec (.taskSteal lid core) s = .next t ∧ t = { s with launches := t.launches } ∧ t.launch? lid = some (l.setRound core (some s.dcc))
        ∧ ∀ k, k ≠ lid → t.launch? k = s.launch? k)
    ∧ (∀ b, s.roundSince lid core = some b → s.wantsTask lid core = true → s.stealFrom lid core b = none →
      (∀ v ∈ l.victims core, b + sliceLatency (dieOf core) (dieOf v) ≤ s.dcc) →
      ∃ t, exec (.taskSteal lid core) s = .next t ∧ t = { s with launches := t.launches, cores := t.cores } ∧ t.launch? lid = some (l.setRound core none)
        ∧ ∀ k, t.core k = if k = core then { s.core k with stealAt := s.dcc + 256 } else s.core k)
    ∧ (∀ b before v after x d, s.roundSince lid core = some b → s.wantsTask lid core = true → l.victims core = before ++ v :: after →
      (∀ u ∈ before ++ [v], b + sliceLatency (dieOf core) (dieOf u) ≤ s.dcc) →
      (∀ u ∈ before, ∀ y e, (l.deque u).steal = some (y, e) → s.startGroup lid core (taskReq l y) = none) → (l.deque v).steal = some (x, d) →
      (s.startGroup lid core (taskReq l x)).isSome →
      ∃ t l', exec (.taskSteal lid core) s = .next t ∧ Admitted s t lid core x.entry l.param x.arg ∧ t.launch? lid = some l' ∧ l'.deque v = d)
    ∧ (∀ g e pa, s.joinDecs.find? (fun e => e.group == g) = some e → s.decAt e = .go pa → (∀ d, (s.die d).dbgEn = false) →
      ∃ t, exec (.taskJoinDecrement g) s = .next t ∧ t.joinDecs = s.joinDecs.erase e
        ∧ natOfBytes (readBytes t.mem pa 8) = (natOfBytes (readBytes s.mem pa 8) + (2 ^ 64 - 1)) % 2 ^ 64
        ∧ ∀ a, a < pa ∨ pa + 8 ≤ a → readByte t.mem a = readByte s.mem a)
    ∧ (l.at_ ≠ .completed → s.launchOver lid l = true →
      ∃ t, exec (.launchCompletion lid) s = .next t ∧ t = { s with launches := t.launches, marks := t.marks, sentMarks := t.sentMarks, dies := t.dies }
        ∧ t.launch? lid = some { l with at_ := .completed, relAt := none } ∧ ∀ k, k ≠ lid → t.launch? k = s.launch? k)
    ∧ (l.at_ = .completed → l.relAt = none → s.writesPerformed lid = true →
      ∃ t, exec (.launchCompletion lid) s = .next t ∧ t = { s with launches := t.launches, backs := t.backs, cores := t.cores, nextId := t.nextId }
        ∧ t.launch? lid = some { l with relAt := some t.nextId }
        ∧ ∀ k ∈ l.cores, ∀ x ∈ (s.core k).l1, s.l1Line? k x.line = some x → x.kind = 0 → x.dirty ≠ 0 →
          ∃ b ∈ t.backs, b.core = k ∧ b.line = x.line ∧ b.sectors = x.dirty ∧ b.data = x.data ∧ b.id < t.nextId)
    ∧ (∀ n, l.at_ = .completed → l.relAt = some n → (∀ k ∈ l.cores, ∀ b ∈ s.backs, b.core = k → n ≤ b.id) → l.channels = [] ∨ l.chanCores = [] → l.node = none →
      ∃ t, exec (.launchCompletion lid) s = .next t ∧ t = { s with launches := t.launches } ∧ t.launch? lid = none
        ∧ ∀ k, k ≠ lid → t.launch? k = s.launch? k)

/-- Pre-emption completes: the victims of the first launch that is blocked admit nothing more and PEND is set in their waves; a launch that has waited a quantum is due,
and its protection ends with its time; a part whose time is over is restarted at its region entry, or its handler, and saved whole with what is left of its `conf` wait or its sleep, and one with
an operation about to perform is stopped until then; a victim all of whose parts are saved sends its cores' dirty sectors back and, when they have performed,
leaves its cores with its image, which holds every named register; and a saved launch returns with its registers, its parts ready 16 cycles on
(11 R270-R272, 03 R74, 12 R283-R291; the 16 cycles of a restored part are the model's choice, notes/assumptions/24.md, and so is what a save keeps of a `conf` wait and of a sleep,
notes/assumptions/53.md). -/
def Obligations.PreemptionRuns : Prop :=
  ∀ (s : State) (lid : Nat) (l : Launch), s.launch? lid = some l →
    (s.firstBlocked = some (lid, l) → ∃ t, exec (.preemptVictimChoice lid) s = .next t ∧ t = { s with launches := t.launches, waves := t.waves }
      ∧ (∀ v ∈ s.victims lid l, ∃ l', t.launch? v = some l' ∧ l'.at_ = .saving s.dcc)
      ∧ ∀ k w, s.wave? k = some w → ∃ w', t.wave? k = some w' ∧ w' = { w with pend := w'.pend, haltedFor := w'.haltedFor }
        ∧ (w.launch ∈ s.victims lid l → w'.pend = true) ∧ (w.launch ∉ s.victims lid l → w' = w))
    ∧ (s.becomesDue l = true → ∃ t, exec (.launchDue lid) s = .next t ∧ t = { s with launches := t.launches } ∧ t.launch? lid = some { l with due := true })
    ∧ (s.protectionOver l = true → ∃ t, exec (.protectionEnd lid) s = .next t ∧ t = { s with launches := t.launches }
      ∧ t.launch? lid = some { l with due := false, protectedUntil := none, waited := 0 })
    ∧ (∀ r p, s.overdueParts lid = [r] → s.part? r = some p →
      (s.partOps p = [] → ∃ t q, exec (.forcedSave lid) s = .next t ∧ t.part? r = some q ∧ q.regs = p.regs
        ∧ q.pc = (if p.tcode = 0 then p.region else p.regs.handler) ∧ q.restart = true ∧ q.forcedSave = true
        ∧ q.park = .saved (BitVec.allOnes 32) [(0, 65536)] ∧ (∀ k e, p.park = .conf k e → q.confLeft = some (p.pc, e - s.dcc)) ∧ (∀ d, p.park = .sleep d → q.sleepLeft = some (p.pc, d))
        ∧ t.mem = s.mem ∧ t.scratch = s.scratch)
      ∧ (s.restartReady p = false → ∃ t, exec (.forcedSave lid) s = .next t ∧ t = { s with waves := t.waves }
        ∧ t.part? r = some { p with stopped := true }))
    ∧ (s.releaseDue lid = true → l.relAt = none →
      ∃ t, exec (.victimRelease lid) s = .next t ∧ t = { s with launches := t.launches, backs := t.backs, cores := t.cores, nextId := t.nextId }
        ∧ t.launch? lid = some { l with relAt := some t.nextId }
        ∧ ∀ k ∈ s.coresOf lid, ∀ x ∈ (s.core k).l1, s.l1Line? k x.line = some x → x.kind = 0 → x.dirty ≠ 0 →
          ∃ b ∈ t.backs, b.core = k ∧ b.line = x.line ∧ b.sectors = x.dirty ∧ b.data = x.data ∧ b.src = 6 ∧ b.id < t.nextId)
    ∧ (s.victimDue lid = true → l.relAt.isSome →
      ∃ t l' img, exec (.victimRelease lid) s = .next t ∧ t.launch? lid = some l' ∧ l'.at_ = .saved ∧ l'.image = some img
        ∧ (∀ k w, t.wave? k = some w → w.launch ≠ lid) ∧ (∀ e ∈ t.groups, e.2.launch ≠ lid)
        ∧ (∀ k, (∀ o ∈ (t.core k).copyQ, o.launch ≠ lid) ∧ ∀ o ∈ (t.core k).matrixQ, o.launch ≠ lid)
        ∧ ∀ e ∈ s.waves, e.2.launch = lid → ∃ w ∈ img.waves, w.group = e.2.group ∧ w.widx = e.2.widx ∧ w.parts = e.2.parts ∧ w.preds = e.2.preds
          ∧ ∀ depth lane n, lane < 64 → n < 512 → w.v depth lane n = if unitNamed e.2 (lane / 4) depth (n / 8) then e.2.v depth lane n else 0)
    ∧ (∀ e img s1 places, l.at_ = .saved → s.restoreAt lid l = some e → l.image = some img → s.restoredAt lid l e = some (s1, places) →
      ∃ t l', exec (.launchRestore lid) s = .next t ∧ t.launch? lid = some l' ∧ l'.at_ = .placed ∧ (l'.x0, l'.y0) = e ∧ l'.kernel = l.kernel
        ∧ (∀ k w, t.wave? k = some w → w.launch = lid → w.pend = false ∧ ∀ p ∈ w.parts, p.park = .running ∧ p.notBefore = s.dcc + 16)
        ∧ ∀ g w0, img.groups = [g] → img.waves = [w0] → w0.group = g.1 → w0.launch = lid →
          ∃ k w, t.wave? k = some w ∧ w.vregs = w0.vregs ∧ w.preds = w0.preds ∧ w.parts.map (fun p => (p.pc, p.regs)) = w0.parts.map (fun p => (p.pc, p.regs)))

/-! ### The host and the management controller -/

/-- A register write completes: a read-write field takes its bits, a bit that clears on 1 clears, and nothing but registers changes. A tenant's function changes none
beyond the scheduler block, a package in recovery or after a fatal error answers at the mailbox alone, GO starts a request on a copy of its arguments, and a tenant's
write of QCTL leaves the fields of the management function (R6, R252, R265, R367, R379, R380, R382, R383, R386, R388). -/
def Obligations.HostRegisters : Prop :=
  ∀ (s : State) (v : W64),
    let writes := fun (off : Nat) (src : Source) (t : State) => exec (.registerWrite off v src) s = .next t
      ∧ t = { s with sched := t.sched, clusters := t.clusters, dies := t.dies, pkg := t.pkg }
    let field := fun (lo n : Nat) => BitVec.ofNat 64 (v.toNat / 2 ^ lo % 2 ^ n * 2 ^ lo)
    (∀ off src, ∃ t, writes off src t)
    ∧ (∀ off tenant, 0x3000 ≤ off → exec (.registerWrite off v (.tenant tenant)) s = .next s)
    ∧ (s.pkg.fwState = 2 ∨ s.pkg.fwState = 3 → ∀ off src, off < 0x30100 ∨ 0x30200 ≤ off → exec (.registerWrite off v src) s = .next s)
    ∧ (s.pkg.fwState ≠ 2 → s.pkg.fwState ≠ 3 → ∀ src, src = .pf0 ∨ src = .controller →
      let pkg := fun (off : Nat) (p : Package) => ∃ t, writes off src t ∧ t.pkg = p ∧ t.sched = s.sched ∧ t.dies = s.dies
      (∃ t, writes 0 src t ∧ t.sched = { s.sched with quantum := v.extractLsb' 0 32 })
      ∧ (∀ d < 4, let die := fun (off : Nat) (k : Die) => ∃ t, writes off src t ∧ ∀ n, t.die n = if n = d then k else s.die n
        let system := fun (off : Nat) => die (0x20000 + 0x100 * d + off)
        system 0 { s.die d with asidt := field 19 33 } ∧ system 8 { s.die d with fring := field 15 37 } ∧ system 16 { s.die d with fqueue := field 6 46 }
        ∧ system 32 { s.die d with cecnt := (s.die d).cecnt &&& ~~~(v.extractLsb' 0 32) }
        ∧ die (0x10000 + 0x4000 * d) { s.die d with dbgEn := v.getLsbD 0, dbgBase := field 12 40 })
      ∧ pkg 0x30008 { s.pkg with dump := field 20 32 }
      ∧ pkg 0x30020 { s.pkg with apEn := v.getLsbD 0, apErr := s.pkg.apErr && !v.getLsbD 1, apStart := field 32 20 }
      ∧ (∀ k < 8, ∃ t, writes (0x30040 + 8 * k) src t ∧ ∀ n, getT Peer.reset t.pkg.peers n =
          if n = k then { getT Peer.reset s.pkg.peers k with en := v.getLsbD 0, number := v.extractLsb' 8 8 } else getT Peer.reset s.pkg.peers n)
      ∧ (∀ k < 4, ∃ t, writes (0x30080 + 8 * k) src t ∧ ∀ n, t.tenant n =
          if n = k then { s.tenant k with tapAsid := v.extractLsb' 0 16, tapEn := v.getLsbD 16 } else s.tenant n)
      ∧ (src = .controller → ∀ k < 32, (s.cluster k).state ≠ .waking → ∃ t, writes (0x3008 + 0x40 * k) src t ∧ ∀ n, t.cluster n =
          if n = k then { s.cluster k with walu := v.extractLsb' 0 8, wf64 := v.extractLsb' 8 8, wmx := v.extractLsb' 16 16, floor := v.extractLsb' 32 32 }
          else s.cluster n))
    ∧ (s.pkg.fwState ≠ 2 → s.pkg.fwState ≠ 3 → ∀ n < 64, ∀ src, mayTenant src (s.queue n).tenant = true →
      let q := s.queue n
      let queue := fun (off : Nat) (f : Queue → Prop) => ∃ t, writes (0x1000 + 0x40 * n + off) src t ∧ f (t.queue n) ∧ ∀ m, m ≠ n → t.queue m = s.queue m
      queue 0 (fun k => k = { q with base := field 12 40 })
      ∧ queue 8 (fun k => k.en = v.getLsbD 0 ∧ k.prio = v.toNat / 4 % 32 ∧ k.logn = v.toNat / 2 ^ 12 % 16 ∧ k.base = q.base
        ∧ (q.en = false → v.getLsbD 0 = true → k.head = 0 ∧ k.tail = 0)
        ∧ (∀ t, src = .tenant t → k.privq = q.privq ∧ k.tenant = q.tenant ∧ k.asid = q.asid ∧ k.domain = q.domain)))
    ∧ (s.pkg.fwState ≠ 2 → s.pkg.fwState ≠ 3 → ∀ k < 4, ∀ src, mayTenant src k = true →
      (∃ t, writes (0x120 + 8 * k) src t ∧ (∀ b < 8, (t.tenant k).code.getLsbD b = ((s.tenant k).code.getLsbD b && !v.getLsbD b)) ∧ ∀ n, n ≠ k → t.tenant n = s.tenant n)
      ∧ ∃ t, writes (0x160 + 8 * k) src t ∧ (t.tenant k).tapva = field 32 25 ∧ (t.tenant k).taperr = ((s.tenant k).taperr && !v.getLsbD 0)
        ∧ ∀ n, n ≠ k → t.tenant n = s.tenant n)
    ∧ (s.pkg.mbState ≠ 1 →
      (∀ i < 30, ∃ t, writes (0x30110 + 8 * i) .pf0 t ∧ ∀ n, getT 0 t.pkg.mbArg n = if n = i then v else getT 0 s.pkg.mbArg n)
      ∧ (v.getLsbD 63 = true → ∃ t, writes 0x30100 .pf0 t ∧ t.pkg.mbState = 1 ∧ t.pkg.mbGo = true ∧ t.pkg.mbOp.toNat = v.toNat % 256
        ∧ t.pkg.mbCopy = s.pkg.mbArg ∧ (t.pkg.mbResult = none ↔ s.pkg.fwState ≠ 3 ∧ (s.pkg.fwState = 2 → t.pkg.mbOp = 4) ∧ 1 ≤ t.pkg.mbOp.toNat ∧ t.pkg.mbOp.toNat ≤ 4)))

/-- The mailbox's requests complete. A LOAD answers what its checks find, and a segment that passes them is entered, measured and reported at STATUS; an UNLOAD removes its
segment and leaves no translation of its address space; an ATTEST writes its reply, with the nonce, the DCC and the measurements, and nothing else; a FWRELOAD
keeps a verified image and no other, whose body the fused key has signed; the end of a request reports its result and sends vector 0, which is pending while it is masked, and in recovery a
reloaded image is followed by a package reset; and DOMTAB extends M1 (R353, R383-R385, R388, R389; the order of a LOAD's checks is the model's choice, notes/assumptions/31.md). -/
def Obligations.MailboxRequests : Prop :=
  ∀ (s : State), (∀ d, (s.die d).dbgEn = false) →
    let p := s.pkg
    let answers := fun (i : Instr) (err : Nat) => exec i s = .next { s with pkg := { p with mbResult := some (BitVec.ofNat 8 err) } }
    let a := p.loadArgs
    let img := fun (o : Nat) => readByte s.mem (a.src + o)
    let size := imageNat img 8 4
    let sizeOk := 0 < size ∧ size % 256 = 0
    let fits := s.pkg.segments.length < 4096 ∧ s.segOverlap a.asid a.va size = false
    let sent := fun (t : Package) => ((0, 0) ∉ p.msixMask → t.msix = (0, 0) :: p.msix ∧ t.msixPend = p.msixPend)
      ∧ ((0, 0) ∈ p.msixMask → t.msix = p.msix ∧ t.msixPend = if (0, 0) ∈ p.msixPend then p.msixPend else (0, 0) :: p.msixPend)
    let reports := fun (stage code off : Nat) (t : State) => t.pkg.mbResult = some (if code = 0 then 0 else 4)
      ∧ readBytes t.mem a.status 8 = bytesOfNat 4 off ++ bytesOfNat 1 code ++ bytesOfNat 1 stage ++ bytesOfNat 2 0
    (s.serves 1 = true →
      (a.err ≠ 0 → answers .load a.err)
      ∧ (a.err = 0 → ¬ sizeOk → ∃ t, exec .load s = .next t ∧ reports 1 1 8 t ∧ t.pkg.segments = p.segments)
      ∧ (a.err = 0 → sizeOk → ¬ fits → answers .load 5)
      ∧ (a.err = 0 → sizeOk → fits → ∀ e, s.earlyFault a img = some e → ∃ t, exec .load s = .next t ∧ reports 1 1 e.2 t ∧ t.pkg.segments = p.segments)
      ∧ (a.err = 0 → sizeOk → fits → s.earlyFault a img = none →
        let c := s.putLong 3 0 a.dst (readBytes s.mem a.src size)
        let rd := fun (o : Nat) => readByte c.mem (a.dst + o)
        let failed := fun (stage : Nat) (e : VErr) => ∃ t, exec .load s = .next t ∧ t.pkg = { p with mbResult := some 4 }
          ∧ readBytes t.mem a.status 8 = bytesOfNat 4 e.2 ++ bytesOfNat 1 e.1 ++ bytesOfNat 1 stage ++ bytesOfNat 2 0
        (∀ e, imageFault rd (a.flags % 2 == 1) = some e → failed 1 e)
        ∧ (imageFault rd (a.flags % 2 == 1) = none → ∀ e, loadStages c.mem a.dst = .error e → failed e.1 e.2)
        ∧ (imageFault rd (a.flags % 2 == 1) = none → ∀ m, loadStages c.mem a.dst = .ok m →
        ∃ t, exec .load s = .next t ∧ reports 4 0 0 t
          ∧ t.pkg.segments = p.segments ++ [{ asid := a.asid, va := a.va, dst := a.dst, size := size, privseg := imageNat rd 6 2 % 2 == 1 }]
          ∧ getT (List.replicate 32 0) t.pkg.meas 2 = sha3_256 (getT (List.replicate 32 0) p.meas 2
              ++ readBytes c.mem (a.dst + imageNat rd 40 4) (32 * imageNat rd 32 2))
          ∧ t.waves = s.waves ∧ t.scratch = s.scratch)))
    ∧ (s.serves 2 = true →
      (∀ e, s.unloadTarget = .error e → answers .unload e)
      ∧ (∀ g, s.unloadTarget = .ok g → s.segmentQuiet g = true → ∃ t, exec .unload s = .next t ∧ t.pkg = { p with segments := p.segments.erase g, mbResult := some 0 }
        ∧ t.waves = s.waves ∧ ∀ k e, e ∈ (t.core k).l1tlb ∨ e ∈ (t.core k).coreTlb ∨ e ∈ (t.die k).llTlb → e.asid ≠ g.asid))
    ∧ (s.serves 3 = true →
      let buf := p.arg 32 8
      (goodArg buf 64 true = false → answers .attest 2)
      ∧ (goodArg buf 64 true = true → ∃ t, exec .attest s = .next t ∧ t = { s with mem := t.mem, banks := t.banks, dies := t.dies, pkg := { p with mbResult := some 0 } }
        ∧ (∀ x, x < buf ∨ buf + 8192 ≤ x → readByte t.mem x = readByte s.mem x)
        ∧ readBytes t.mem buf 40 = (List.range 32).map (fun i => BitVec.ofNat 8 (p.argByte i)) ++ bytesOfNat 8 s.dcc
        ∧ ((∀ i < 8, (getT (List.replicate 32 0) p.meas i).length = 32) →
          ∀ i < 8, readBytes t.mem (buf + 40 + 32 * i) 32 = getT (List.replicate 32 0) p.meas i)))
    ∧ (s.serves 4 = true → p.arg 8 4 ≤ 67108864 + 4096 → goodArg (p.arg 0 8) 4096 true = true →
      let image := readBytes s.mem (p.arg 0 8) (p.arg 8 4)
      (fwVerified image = (fwLayout image && sha3_256 (fwKey image) == Config.fusedKeyHash
        && Config.mlDsaVerify (fwKey image) (sha3_256 (fwBody image)) (fwSignature image)))
      ∧ (fwVerified image = false → answers .fwreload 6)
      ∧ (fwVerified image = true → exec .fwreload s = .next { s with pkg := { p with firmware := image, mbResult := some 0 } }))
    ∧ (∀ e, p.mbResult = some e → p.mbState = 1 → ¬ (p.fwState = 2 ∧ p.mbOp = 4 ∧ e = 0) →
      ∃ t, exec .mailboxRequestEnd s = .next t ∧ sent t.pkg ∧ t = { s with pkg := { p with
        mbState := if e = 0 then 2 else 3, mbErr := e, mbDone := true, mbGo := false, mbResult := none, msix := t.pkg.msix, msixPend := t.pkg.msixPend } })
    ∧ (p.mbResult = some 0 → p.mbState = 1 → p.fwState = 2 → p.mbOp = 4 →
      ∃ t, exec .mailboxRequestEnd s = .next t ∧ ((0, 0) ∉ p.msixMask → t.pkg.msix = (0, 0) :: p.msix) ∧ t.pkg.firmware = p.firmware
        ∧ t.pkg.fwState = (if fwVerified p.firmware then 1 else 2) ∧ t.waves = [] ∧ t.launches = [] ∧ t.dcc = 0)
    ∧ (∀ v src, src = .pf0 ∨ src = .controller → p.fwState ≠ 2 → p.fwState ≠ 3 →
      let base := v.toNat / 2 ^ 13 % 2 ^ 39 * 2 ^ 13
      ∃ t, exec (.domtabWrite v src) s = .next t ∧ t = { s with pkg := { p with meas := t.pkg.meas, domtab := BitVec.ofNat 64 base } }
        ∧ ∀ i, getT (List.replicate 32 0) t.pkg.meas i = if i = 1 then sha3_256 (getT (List.replicate 32 0) p.meas 1 ++ readBytes s.mem base 8192)
          else getT (List.replicate 32 0) p.meas i)

/-- Host and debug accesses complete. An aperture access within its conditions reads its bytes, or stores them and nothing else; any other reads all ones, drops its write and
sets its error bit. In recovery no aperture is answered, and after a fatal error the aperture of PF0 is for reads alone (an access that is not answered reads all ones and changes nothing: the model's
choice, notes/assumptions/59.md). A debug access reads any four bytes of the map and writes the registers, scratch and tiles of a halted die alone; a halt takes effect at its
cycle, and a write of HALTED resumes selection in the following one (R179, R221, R295, R296, R386, R388, R390). -/
def Obligations.HostAccesses : Prop :=
  ∀ (s : State), (∀ d, (s.die d).dbgEn = false) →
    let served := fun (i : Instr) (a : HostAccess) (pa : Nat) =>
      (a.write = false → a.size ≤ 8 → ∃ t, exec i s = .next t ∧ t = { s with banks := t.banks, pkg := { s.pkg with readData := t.pkg.readData } }
        ∧ t.pkg.readData.toNat = natOfBytes (readBytes s.mem pa a.size))
      ∧ (a.write = true → a.size ≤ 8 → ∃ t, exec i s = .next t ∧ t = { s with mem := t.mem, banks := t.banks, dies := t.dies }
        ∧ natOfBytes (readBytes t.mem pa a.size) = a.data.toNat % 2 ^ (8 * a.size) ∧ ∀ x, x < pa ∨ pa + a.size ≤ x → readByte t.mem x = readByte s.mem x)
    let unanswered := fun (i : Instr) (a : HostAccess) => ∃ t, exec i s = .next t ∧ t = { s with pkg := { s.pkg with readData := t.pkg.readData } }
      ∧ (a.write = false → a.size ≤ 8 → t.pkg.readData.toNat = 2 ^ (8 * a.size) - 1)
    let free := fun (a : HostAccess) (pa : Nat) => s.pinned none pa = false ∧ s.pinned none (pa + a.size - 1) = false
    let working := s.pkg.fwState ≠ 2 ∧ s.pkg.fwState ≠ 3
    (∀ a : HostAccess,
      let pa := s.pkg.apStart.toNat + a.off
      let open_ := s.pkg.apEn = true ∧ a.off < 2 ^ 32 ∧ paClass pa ≤ 1 ∧ paOk pa = true
      let answered := s.pkg.fwState ≠ 2 ∧ (s.pkg.fwState = 3 → a.write = false)
      (answered → open_ → free a pa → served (.apertureAccess a) a pa)
      ∧ (answered → ¬ open_ → ∃ t, exec (.apertureAccess a) s = .next t ∧ t = { s with pkg := { s.pkg with apErr := true, readData := t.pkg.readData } }
        ∧ (a.write = false → a.size ≤ 8 → t.pkg.readData.toNat = 2 ^ (8 * a.size) - 1))
      ∧ (¬ answered → unanswered (.apertureAccess a) a))
    ∧ (∀ n a,
      let x := s.tenant n
      let va := x.tapva.toNat + a.off
      let bad := ∃ t, exec (.tenantApertureAccess n a) s = .next t ∧ t.mem = s.mem ∧ (t.tenant n).taperr = true ∧ (∀ m, m ≠ n → t.tenant m = s.tenant m)
        ∧ (a.write = false → a.size ≤ 8 → t.pkg.readData.toNat = 2 ^ (8 * a.size) - 1)
      (¬ working → unanswered (.tenantApertureAccess n a) a)
      ∧ (x.tapEn = false ∨ 2 ^ 57 ≤ va → working → bad)
      ∧ (x.tapEn = true → va < 2 ^ 57 → working →
        (∀ pte p, s.walk 0 x.tapAsid va = .leaf pte p → s.leafFault (if a.write then .write else .read) pte (paOf pte p va) = none → free a (paOf pte p va) →
          served (.tenantApertureAccess n a) a (paOf pte p va))
        ∧ ((∀ pte p, s.walk 0 x.tapAsid va = .leaf pte p → s.leafFault (if a.write then .write else .read) pte (paOf pte p va) ≠ none) → bad)))
    ∧ (∀ opm v,
      let w := s.wave? (opmCore opm * 128 + (opmReg opm).1)
      let lane := (opmReg opm).2.2
      let n := (opmReg opm).2.1
      (working → ∃ t, exec (.debugInterfaceAccess false opm v) s = .next t ∧ t = { s with pkg := { s.pkg with readData := t.pkg.readData } }
        ∧ (opm % 4 = 0 → opmRegion opm = 0 → (opmReg opm).1 < 128 → ∀ w', w = some w' → t.pkg.readData.toNat = (w'.v 0 lane n).toNat))
      ∧ ((s.die (dieOf (opmCore opm))).halted = false ∨ opmRegion opm = 3 ∧ opm % 4 = 0 ∨ ¬ working → exec (.debugInterfaceAccess true opm v) s = .next s)
      ∧ (working → (s.die (dieOf (opmCore opm))).halted = true → opm % 4 = 0 → opmRegion opm = 0 → (opmReg opm).1 < 128 → ∀ w', w = some w' →
        ∃ t q, exec (.debugInterfaceAccess true opm v) s = .next t ∧ t = { s with waves := t.waves } ∧ t.wave? (opmCore opm * 128 + (opmReg opm).1) = some q
          ∧ q = { w' with vregs := q.vregs, dirty := q.dirty }
          ∧ ∀ d l m, l < 64 → m < 512 → q.v d l m = if d = 0 ∧ l = lane ∧ m = n then v else w'.v d l m))
    ∧ (∀ d, (∀ t, (s.die d).haltAt = some t → t ≤ s.dcc → ∃ u, exec (.dieHalt d) s = .next u ∧ u = { s with dies := u.dies }
        ∧ ∀ n, u.die n = if n = d then { s.die d with haltAt := none, halted := true } else s.die n)
      ∧ ∀ v src, src = .pf0 ∨ src = .controller → working → ∃ u, exec (.haltedWrite d v src) s = .next u ∧ u = { s with dies := u.dies }
        ∧ (∀ n, n ≠ d → u.die n = s.die n) ∧ (u.die d).brkHalt = v.getLsbD 1 ∧ (u.die d).halted = ((s.die d).halted && !v.getLsbD 0)
        ∧ ((s.die d).halted = true → v.getLsbD 0 = true → (u.die d).selectFrom = s.dcc + 1))

/-- Errors and resets complete. A fatal error halts every die in the following cycle and a second one during the dump is recorded; the dump stands at DUMP with its header and
the parts' descriptors, inside 17 MiB, and sends vector 5, which is pending while it is masked; it waits for the pins of its area, and a slice watchpoint changes nothing else of it; over a link that goes down reads on their way fail with DETAIL 3, fills are lost, and
writes on their way, write-backs among them, are fatal; a package reset leaves the reset machine with its stored image and the memory behind its links (that memory at and above 2^48 is kept is the
model's choice, notes/assumptions/34.md); a function-level reset leaves nothing of its tenant (R387, R390, R391, 09 R221, 14 R309). -/
def Obligations.ErrorsAndResets : Prop :=
  ∀ (s : State),
    let p := s.pkg
    (∀ cause pa, (p.fwState ≠ 3 → ∃ t, exec (.fatalError cause pa) s = .next t ∧ t = { s with dies := t.dies, pkg := t.pkg }
        ∧ (∀ d < 4, t.die d = { s.die d with haltAt := some (s.dcc + 1) }) ∧ t.pkg.fwState = 3 ∧ t.pkg.dumping = true ∧ t.pkg.dumpCause = cause ∧ t.pkg.dumpPa = pa ∧ t.pkg.dumpDcc = s.dcc)
      ∧ (p.fwState = 3 → p.dumping = true → exec (.fatalError cause pa) s = .next { s with pkg := { p with dumpCause := 4 } }))
    ∧ (p.dumping = true → s.dumpPins = [] → (∀ e ∈ s.dies, ∀ w ∈ e.2.swatch, w.2.getLsbD 0 = false) → (∀ e ∈ s.waves, e.2.core < 128 ∧ e.2.slot < 128 ∧ e.2.width ≤ 64) →
      let base := p.dump.toNat
      let at_ := fun (t : State) (o n : Nat) => natOfBytes (readBytes t.mem (base + o) n)
      ∃ t, exec .stateDumpComplete s = .next t ∧ t = { s with mem := t.mem, pkg := { p with dumping := false, msix := t.pkg.msix, msixPend := t.pkg.msixPend } }
        ∧ ((0, 5) ∉ p.msixMask → t.pkg.msix = (0, 5) :: p.msix ∧ t.pkg.msixPend = p.msixPend)
        ∧ ((0, 5) ∈ p.msixMask → t.pkg.msix = p.msix ∧ (0, 5) ∈ t.pkg.msixPend)
        ∧ (∀ x, x < base ∨ base + 17825792 ≤ x → readByte t.mem x = readByte s.mem x)
        ∧ at_ t 0 4 = 0x444D5039 ∧ at_ t 8 8 = p.dumpDcc % 2 ^ 64 ∧ at_ t 16 1 = p.dumpCause % 256 ∧ at_ t 24 8 = p.dumpPa % 2 ^ 64
        ∧ ∀ k w, s.waves = [(k, w)] → ∀ q < w.width / 4, readBytes t.mem (base + 0x5000 + w.core * 0x21000 + 0x1000 + w.slot * 0x400 + 64 * q) 64 = s.descriptor w q)
    ∧ (p.dumping = true → s.dumpPins ≠ [] → ∃ t, exec .stateDumpComplete s = .next t ∧ t = { s with pins := t.pins } ∧ SamePins s t)
    ∧ (∀ k st, let old := getT Peer.reset p.peers k
      let same := fun (t : State) => getT Peer.reset t.pkg.peers k = { old with link := BitVec.ofNat 2 st }
      (s.writesOver k = [] → (∀ o ∈ s.ops, ∀ a ∈ o.accs, overLink k s.dcc a = false) → (∀ f ∈ s.fills, paClass (f.line * 128) ≠ 4 + k) →
        ∃ t, exec (.peerLinkState k st) s = .next t ∧ t = { s with pkg := t.pkg } ∧ same t)
      ∧ (old.link = 2 → st ≠ 2 → s.writesOver k = [] → ∃ t, exec (.peerLinkState k st) s = .next t ∧ same t ∧ t.pkg.fwState = p.fwState
        ∧ t.fills = s.fills.filter (fun f => paClass (f.line * 128) != 4 + k)
        ∧ ∀ o, s.op? o.id = some o → o.kind.writesMemory = false → ∃ q, t.op? o.id = some q
          ∧ q.accs = o.accs.map (fun a => if overLink k s.dcc a = true then { a with phase := .failed 3, logPage := 16 } else a))
      ∧ (old.link = 2 → st ≠ 2 → p.fwState ≠ 3 → s.writesOver k ≠ [] → s.ops.Pairwise (fun a b => a.id ≠ b.id) →
        ∃ t, exec (.peerLinkState k st) s = .next t ∧ same t ∧ t.pkg.fwState = 3 ∧ t.pkg.dumpCause = 3))
    ∧ (∃ t, exec .packageReset s = .next t ∧ t = { State.reset with mem := t.mem, pkg := t.pkg, inputs := s.inputs, freeCount := s.freeCount }
      ∧ (∀ a < 2 ^ 48, readByte t.mem a = 0) ∧ (∀ a, 2 ^ 48 ≤ a → readByte t.mem a = readByte s.mem a)
      ∧ t.pkg.firmware = p.firmware ∧ t.pkg.msix = p.msix ∧ t.pkg.mbState = 0 ∧ t.pkg.segments = [] ∧ t.pkg.fwState = if fwVerified p.firmware then 1 else 2)
    ∧ (∀ n, ∃ t, exec (.functionLevelReset n) s = .next t
      ∧ (∀ e ∈ t.launches, e.2.tenant ≠ n) ∧ (∀ k w, t.wave? k = some w → ∀ e ∈ s.launches, e.2.tenant = n → w.launch ≠ e.1)
      ∧ (∀ q, (t.queue q).tenant = n → (t.queue q).en = false) ∧ (∀ g ∈ t.sched.graphs, g.tenant ≠ n) ∧ (∀ i ∈ t.sched.insts, i.tenant ≠ n)
      ∧ (∀ off < 2 ^ 20, readByte t.sched.mem (schedKey n off) = 0) ∧ t.mem = s.mem ∧ (t.tenant n).flrAt = some s.dcc)

/-! ### The rendering pipeline -/

/-- The steps of the rendering pipeline complete. Set-up sends the surviving pieces of a mesh group's triangles in increasing order, none of zero area or culled; a record and a
watermark arrive; a source sends its value to all four rasterisers; rasterising a record registers a fragment for each pixel with a covered sample; a killed
fragment writes nothing, one that fails its depth test neither, and an output at a sample without blending stands in its target; and 256 counted
waves give an adaptive pixel kernel its next width (14 R316-R321, R327; the cycles of a record or watermark on its way are the model's choice, notes/assumptions/41.md). -/
def Obligations.RenderingSteps : Prop :=
  ∀ (s : State), (∀ d, (s.die d).dbgEn = false) →
    (∀ m l d k, s.meshes.find? (fun x => x.group == m.group && decide (x.due ≤ s.dcc)) = some m → s.launch? m.launch = some l → l.draw = some d → l.passKey = some k →
      s.dropPins m.core l.asid d = [] → ∃ (t : State) (new : List PrimRec), exec (.setupBinning m.group) s = .next t ∧ t.prims = s.prims ++ new ∧ t.meshes = s.meshes.erase m ∧ t.waves = s.waves
        ∧ (new.map (fun r => r.seq)).Pairwise (fun a b => a ≤ b)
        ∧ ∀ r ∈ new, r.launch = m.launch ∧ r.pass = k ∧ r.due = s.dcc + 60 ∧ r.arrived = false
          ∧ area2 r.xs r.ys ≠ 0 ∧ (d.cull = 1 → 0 < area2 r.xs r.ys) ∧ (d.cull = 2 → area2 r.xs r.ys < 0)
          ∧ ∃ tr ∈ m.tris, r.seq = d.num * 2 ^ 32 + m.num * d.maxp + tr.k)
    ∧ (∀ r, ∃ t, exec (.primitiveRecord r) s = .next t ∧ t = { s with prims := t.prims } ∧ t.prims.length = s.prims.length
      ∧ ∀ (n : Nat) (p : PrimRec), s.prims[n]? = some p → t.prims[n]? = some (if p.id = r ∧ p.due ≤ s.dcc then { p with arrived := true } else p))
    ∧ (∀ pass src, src ≤ 4 → s.markDue pass src = true → ∃ t, exec (.watermarkSend pass src) s = .next t
      ∧ t = { s with marks := t.marks, sentMarks := t.sentMarks, nextId := s.nextId + 4 }
      ∧ t.marks = s.marks ++ (List.range 4).map (fun d => { id := s.nextId + d, pass := pass, src := src, die := d, value := s.markOf pass src, due := s.dcc + 60 }))
    ∧ (∀ x, s.marks.find? (fun y => y.id == x.id && s.markArrives y) = some x → ∃ t, exec (.watermark x.id) s = .next t ∧ t = { s with marks := t.marks, dies := t.dies }
      ∧ (∀ n, n ≠ x.die → t.die n = s.die n)
      ∧ ∀ pass, (t.die x.die).marksOf pass = if pass = x.pass then ((s.die x.die).marksOf pass).set x.src x.value else (s.die x.die).marksOf pass)
    ∧ (∀ p d, s.prims.find? (fun x => x.id == p.id && s.rasterDue x) = some p → (s.launch? p.launch).bind Launch.draw = some d →
      ∃ (t : State) (new : List Fragment), exec (.rasteriseRecord p.id) s = .next t ∧ t.prims = s.prims.erase p ∧ t.frags = s.frags ++ new ∧ t.mem = s.mem ∧ t.waves = s.waves
        ∧ new.map (fun f => (f.x, f.y, f.cover)) = (p.quads d.pass.samp d.pass.tw).flatten.filter (fun e => e.2.2 != 0)
        ∧ ∀ f ∈ new, f.launch = p.launch ∧ f.pass = p.pass ∧ f.die = p.die ∧ f.seq = p.seq ∧ f.retired = false ∧ f.pouts = []
          ∧ f.cover = p.coverage d.pass.samp f.x f.y)
    ∧ (∀ f, s.frags.find? (fun x => x.id == f.id && s.commitTurn x) = some f →
      let gone := exec (.fragmentCommit f.id) s = .next { s with frags := s.frags.erase f }
      (f.killed = true → gone)
      ∧ ∀ l d k, s.launch? f.launch = some l → l.draw = some d → f.killed = false → s.fragPinned f l.asid d.pass = [] → f.samples = [k] →
        (d.pass.depth ≠ 0 → depthPass d.pass.dtest (f.zs.getD k 0).toNat
            (natOfBytes (s.fragGet f l.asid (sampleVa d.pass.depth d.pass.dpitch 4 d.pass.samp f.x f.y k) 4)) = false →
          ∃ t, exec (.fragmentCommit f.id) s = .next t ∧ t = { s with frags := s.frags.erase f, banks := t.banks, l2 := t.l2 })
        ∧ (d.pass.depth = 0 → ∀ (w : PoutData) base pitch fmt, f.pouts = [w] → w.target < d.pass.nrt → d.pass.rts.getD w.target (0, 0, 0, 0) = (base, pitch, fmt, 0) →
          let va := sampleVa base pitch (targetBytes fmt) d.pass.samp f.x f.y k
          va % 65536 + targetBytes fmt ≤ 65536 → ∀ pa, s.unitPa f.die l.asid .write va = some pa →
          ∃ t, exec (.fragmentCommit f.id) s = .next t ∧ t = { s with frags := s.frags.erase f, mem := t.mem, banks := t.banks, l2 := t.l2, dies := t.dies }
            ∧ readBytes t.mem pa (targetBytes fmt) = bytesOfChannels fmt ((List.range 4).map (fun i => (w.values.map (toTarget fmt)).getD i 0))
            ∧ ∀ a, a < pa ∨ pa + targetBytes fmt ≤ a → readByte t.mem a = readByte s.mem a))
    ∧ (∀ die seg kidx, ∃ t, exec (.divergenceHistoryUpdate die seg kidx) s = .next t ∧ t = { s with dies := t.dies } ∧ (∀ n, n ≠ die → t.die n = s.die n)
      ∧ ∀ (n : Nat) (width waves divided : Nat), (s.die die).history[n]? = some ((seg, kidx), (width, waves, divided)) → 256 ≤ waves →
        (t.die die).history[n]? = some ((seg, kidx),
          (if 64 < divided then max 8 (width / 2) else if divided < 16 then min 64 (width * 2) else width, 0, 0)))

/-! ### Encodings -/

/-- No bit of an encoding is dropped: the bytes of every well-formed instruction that has words, whatever follows them, decode to it. -/
def Obligations.EncodeThenDecode : Prop :=
  ∀ (i : Instr), wellFormed i = true → encode i ≠ [] → ∀ post, decodeBytes ((encode i).flatMap wordBytes ++ post) = .instr i

/-- No two words stand for one instruction: what decodes is well formed, its words are the ones decoded, and the second of them is read exactly when bit 30 of the
first is set (05 R95-R97, R113). -/
def Obligations.DecodeThenEncode : Prop :=
  ∀ (a b : W32) (i : Instr), decode a b = .instr i → wellFormed i = true ∧ encode i = if a.getLsbD 30 then [a, b] else [a]

/-- Words written out from the spec's encoding tables decode to their instructions, among them its two worked encodings; a reserved opcode and a field that must be zero are
refused by name (05 R96-R131, "Worked encodings"). -/
def Obligations.DecodedWords : Prop :=
  decode 0x58C50B18 0x1A600000 = .instr (.ffma { s := false, d := 10, a := 11, b := 12, k := false }
    { c := 13, ty := 3, pr := 0, pn := false, bh := 0, bw := 0, xd := false, xa := false, xb := false, rm := 0, sat := false, cu := false, au := false, sub := 0 })
  ∧ decode 0x50182003 0x0020C000 = .instr (.iaddExt { s := false, d := 48, a := 32, b := 1, k := true }
    { c := 0, ty := 1, pr := 0, pn := false, bh := 1, bw := 2, xd := false, xa := false, xb := false, rm := 0, sat := false, cu := false, au := false, sub := 0 })
  ∧ decode 0x008FFFFE 0 = .instr (.brp { s := false, pred := 1, neg := true, off := -2 })
  ∧ decode 0x080313F8 0 = .instr (.sadd { s := false, d := 3, a := 4, b := 63, k := true, z := 0 })
  ∧ decode 0x68097F28 0xFFF13400 = .instr (.ldExt { s := false, d := 18, a := 0x7F, bu := 10, w := false, nr := false }
    { off := -4, sz := 2, ord := 1, scope := 5, cp := 0, pr := 0, pn := false, sub := 0 })
  ∧ decode 0x70401060 0x23482000 = .instr (.mma { s := false, d := 0, a := 4, b := 6, k := false, z := 0 }
    { tile := 2, pm1 := 3, aty := 2, bty := 2, mw := 0, z := true, co := false, ak := false, bk := false, z6 := 0, sub := 0 })
  ∧ decode 0x3400000B 0 = .instr (.bara { s := false, d := 0, a := 0, b := 5, k := true })
  ∧ decode 0x3C070200 0 = .instr (.srget { s := false, d := 7, a := 0, b := 32, k := false, z := 0 })
  ∧ decode 0x05C00000 0 = .bad .reserved
  ∧ decode 0x50182003 0x00C0C000 = .bad (.field 1 (.iaddExt { s := false, d := 48, a := 32, b := 1, k := true }
    { c := 0, ty := 6, pr := 0, pn := false, bh := 1, bw := 2, xd := false, xa := false, xb := false, rm := 0, sat := false, cu := false, au := false, sub := 0 }))

/-! ### Steps -/

/-- A step runs the decoded instruction: the turn of a part, whose privilege is that of the loaded segment its PC stands in, is its instruction's meaning on the state after the
fetch, which changes only translation caches and what its walk uses of L2 and its banks, and then the note of what its result makes a later instruction wait for; and when the part's page is executable, no TLB
holds it and no other core has pinned a line of the tables or the words, the instruction is the one that the eight bytes at the PC decode to. The order of turns in a cycle is the model's choice (notes/assumptions/6.md), as is the privilege of a PC
outside every loaded segment (notes/assumptions/57.md). -/
def Obligations.StepRunsDecoded : Prop :=
  ∀ (s : State) (r : PartRef) (rest : List Turn) (c : Ctx), s.agenda = .issue r :: rest →
    let now := { s with agenda := rest }.beginTurn r
    now.ctx? r = some c →
    let asid := c.part.regs.asid
    let die := dieOf r.core
    (∀ p, s.part? r = some p → c.part = { p with regs := { p.regs with privseg := c.part.regs.privseg } }
      ∧ ∀ g, s.pkg.segments.find? (fun g => g.spans asid p.pc.toNat) = some g → c.part.regs.privseg = g.privseg)
    ∧ (∀ s' i, now.fetch r.core asid c.part.pc = (s', .instr i) →
      wellFormed i = true ∧ s' = { now with cores := s'.cores, dies := s'.dies, banks := s'.banks, l2 := s'.l2 } ∧ s'.issuing = some c
      ∧ step s = thenNext (exec i s') (fun t => t.noteGives c i))
    ∧ (∀ pte lp i, c.part.pc.toNat + 8 ≤ 2 ^ 57 → c.part.pc.toNat % 2 ^ lp + 8 ≤ 2 ^ lp → s.walk die asid c.part.pc.toNat = .leaf pte lp →
      let pa := paOf pte lp c.part.pc.toNat
      s.leafFault .fetch pte pa = none → s.leafFault .fetch pte (pa + 4) = none →
      (s.core r.core).l1tlb = [] → (s.core r.core).coreTlb = [] → (s.die die).llTlb = [] →
      s.walkPins die asid c.part.pc.toNat = [] → s.pinned (some r.core) pa = false → s.pinned (some r.core) (pa + 4) = false → decodeBytes (readBytes s.mem pa 8) = .instr i →
      (now.fetch r.core asid c.part.pc).2 = .instr i)

/-- Every step ends in a next state: no instruction and no event of the machine stops a run. -/
def Obligations.NeverStops : Prop := ∀ s : State, GoesOn (step s)

/-- Every step keeps the memories' canonical form: rising addresses, and no byte listed that an unlisted address reads as. -/
def Obligations.StepKeepsMemory : Prop :=
  ∀ (s t : State), s.MemOk → step s = .next t → t.MemOk

/-- What reset leaves: the DCC at 0, every byte of memory, scratch, accumulators and scheduler memory zero, firmware ready and the mailbox idle, nothing resident, and the
queues, the power blocks and the tenants' registers at the values of their tables (11 R252, 17 R367, 18 R380-R391). That firmware is ready and that every byte of host, peer and CXL memory reads zero
are the model's choices (notes/assumptions/1.md and 2.md). -/
def Obligations.ResetState : Prop :=
  let s := State.reset
  s.MemOk ∧ s.dcc = 0 ∧ (∀ a, readByte s.mem a = 0 ∧ readByte s.scratch a = 0 ∧ readByte s.acc a = 0 ∧ readByte s.sched.mem a = 0)
  ∧ s.pkg.fwState = 1 ∧ s.pkg.mbState = 0 ∧ s.pkg.mbErr = 0 ∧ s.pkg.mbDone = false ∧ s.pkg.segments = [] ∧ s.waves = [] ∧ s.launches = [] ∧ s.groups = [] ∧ s.ops = []
  ∧ s.sched.quantum.toNat = 2400000 ∧ s.sched.tenmap = 0
  ∧ (∀ n, (s.tenant n).code = 0 ∧ (s.tenant n).drops = 0 ∧ (s.tenant n).patch = 0 ∧ (s.tenant n).gid = 0 ∧ (s.tenant n).hsigBase = 0 ∧ (s.tenant n).tapva = 0
    ∧ (s.tenant n).taperr = false ∧ (s.tenant n).tapAsid = 0 ∧ (s.tenant n).tapEn = false ∧ (s.tenant n).images = [])
  ∧ (∀ n, (s.queue n).en = false ∧ (s.queue n).base = 0 ∧ (s.queue n).logn = 4 ∧ (s.queue n).head = 0 ∧ (s.queue n).tail = 0 ∧ (s.queue n).code = 0 ∧ (s.queue n).stop = false)
  ∧ (∀ c < 32, (s.cluster c).refill.toNat = 4096 ∧ (s.cluster c).cap.toNat = 65536 ∧ (s.cluster c).walu.toNat = 2 ∧ (s.cluster c).wf64.toNat = 6
    ∧ (s.cluster c).wmx.toNat = 256 ∧ (s.cluster c).floor.toNat = 8192 ∧ (s.cluster c).target.toNat = 60 ∧ (s.cluster c).vmin.toNat = 240 ∧ (s.cluster c).vmax.toNat + 256 = 380
    ∧ (s.cluster c).req.toNat = 380 ∧ (s.cluster c).slack = 0 ∧ (s.cluster c).rail.toNat = c / 8 ∧ (s.cluster c).state = .gated
    ∧ ∀ k < 16, (s.cluster c).ramp k = if k = 15 then 64 else 4 * k)
  ∧ (∀ d, (s.die d).asidt = 0 ∧ (s.die d).fring = 0 ∧ (s.die d).fqueue = 0 ∧ (s.die d).cecnt = 0 ∧ (s.die d).uecnt = 0 ∧ (s.die d).dbgEn = false ∧ (s.die d).halted = false)
end

