-- ==== Sys2Proof/Laws/Encoding.lean ====
section
/-! SUPPORT. The fields of an encoded word: each reader gives back what the word was made of, and a word is made of its
fields. -/

namespace Sys2Proof

theorem getLsbD_bit (b : Bool) (i : Nat) : (bit b).getLsbD i = (decide (i = 0) && b) := by
  cases b <;> simp [bit]

theorem bit_getLsbD (w : W32) (n : Nat) : bit (w.getLsbD n) = w.extractLsb' n 1 := by
  ext i hi
  obtain rfl : i = 0 := by omega
  simp [bit]

theorem extract_join (w : W32) (a m n : Nat) :
    w.extractLsb' (a + n) m ++ w.extractLsb' a n = w.extractLsb' a (m + n) := by
  ext i hi
  simp only [BitVec.getElem_append, BitVec.getElem_extractLsb']
  split
  · rfl
  · congr 1; omega

theorem extract_all (w : W32) : w.extractLsb' 0 32 = w := by
  ext i hi
  simp


@[simp] theorem opOf_encR (op : BitVec 8) (e : Bool) (r : RWord) : opOf (encR op e r) = op := by
  ext i hi
  simp only [opOf, encR, BitVec.getElem_extractLsb', BitVec.getLsbD_append, getLsbD_bit]
  interval_cases i <;> simp
@[simp] theorem eOf_encR (op : BitVec 8) (e : Bool) (r : RWord) : eOf (encR op e r) = e := by
  simp only [eOf, encR, BitVec.getLsbD_append, getLsbD_bit]; simp
@[simp] theorem rOf_encR (op : BitVec 8) (e : Bool) (r : RWord) : rOf (encR op e r) = r := by
  obtain ⟨s, d, a, b, k⟩ := r
  simp only [rOf, sOf, RWord.mk.injEq]
  and_intros
  · simp only [encR, BitVec.getLsbD_append, getLsbD_bit]; simp
  · ext i hi
    simp only [encR, BitVec.getElem_extractLsb', BitVec.getLsbD_append, getLsbD_bit]
    interval_cases i <;> simp
  · ext i hi
    simp only [encR, BitVec.getElem_extractLsb', BitVec.getLsbD_append, getLsbD_bit]
    interval_cases i <;> simp
  · ext i hi
    simp only [encR, BitVec.getElem_extractLsb', BitVec.getLsbD_append, getLsbD_bit]
    interval_cases i <;> simp
  · simp only [encR, BitVec.getLsbD_append, getLsbD_bit]; simp
theorem encR_rOf (w : W32) : encR (opOf w) (eOf w) (rOf w) = w := by
  simp only [encR, rOf, sOf, eOf, opOf, bit_getLsbD]
  rw [show w.extractLsb' 31 1 ++ w.extractLsb' 30 1 = w.extractLsb' 30 2 from extract_join w 30 1 1]
  rw [show w.extractLsb' 30 2 ++ w.extractLsb' 22 8 = w.extractLsb' 22 10 from extract_join w 22 2 8]
  rw [show w.extractLsb' 22 10 ++ w.extractLsb' 15 7 = w.extractLsb' 15 17 from extract_join w 15 10 7]
  rw [show w.extractLsb' 15 17 ++ w.extractLsb' 8 7 = w.extractLsb' 8 24 from extract_join w 8 17 7]
  rw [show w.extractLsb' 8 24 ++ w.extractLsb' 1 7 = w.extractLsb' 1 31 from extract_join w 1 24 7]
  rw [show w.extractLsb' 1 31 ++ w.extractLsb' 0 1 = w.extractLsb' 0 32 from extract_join w 0 31 1]
  exact extract_all w

@[simp] theorem opOf_encJ (op : BitVec 8) (e : Bool) (r : JWord) : opOf (encJ op e r) = op := by
  ext i hi
  simp only [opOf, encJ, BitVec.getElem_extractLsb', BitVec.getLsbD_append, getLsbD_bit]
  interval_cases i <;> simp
@[simp] theorem eOf_encJ (op : BitVec 8) (e : Bool) (r : JWord) : eOf (encJ op e r) = e := by
  simp only [eOf, encJ, BitVec.getLsbD_append, getLsbD_bit]; simp
@[simp] theorem jOf_encJ (op : BitVec 8) (e : Bool) (r : JWord) : jOf (encJ op e r) = r := by
  obtain ⟨s, off⟩ := r
  simp only [jOf, sOf, JWord.mk.injEq]
  and_intros
  · simp only [encJ, BitVec.getLsbD_append, getLsbD_bit]; simp
  · ext i hi
    simp only [encJ, BitVec.getElem_extractLsb', BitVec.getLsbD_append, getLsbD_bit]
    interval_cases i <;> simp
theorem encJ_jOf (w : W32) : encJ (opOf w) (eOf w) (jOf w) = w := by
  simp only [encJ, jOf, sOf, eOf, opOf, bit_getLsbD]
  rw [show w.extractLsb' 31 1 ++ w.extractLsb' 30 1 = w.extractLsb' 30 2 from extract_join w 30 1 1]
  rw [show w.extractLsb' 30 2 ++ w.extractLsb' 22 8 = w.extractLsb' 22 10 from extract_join w 22 2 8]
  rw [show w.extractLsb' 22 10 ++ w.extractLsb' 0 22 = w.extractLsb' 0 32 from extract_join w 0 10 22]
  exact extract_all w

@[simp] theorem opOf_encP (op : BitVec 8) (e : Bool) (r : PWord) : opOf (encP op e r) = op := by
  ext i hi
  simp only [opOf, encP, BitVec.getElem_extractLsb', BitVec.getLsbD_append, getLsbD_bit]
  interval_cases i <;> simp
@[simp] theorem eOf_encP (op : BitVec 8) (e : Bool) (r : PWord) : eOf (encP op e r) = e := by
  simp only [eOf, encP, BitVec.getLsbD_append, getLsbD_bit]; simp
@[simp] theorem pOf_encP (op : BitVec 8) (e : Bool) (r : PWord) : pOf (encP op e r) = r := by
  obtain ⟨s, pred, neg, off⟩ := r
  simp only [pOf, sOf, PWord.mk.injEq]
  and_intros
  · simp only [encP, BitVec.getLsbD_append, getLsbD_bit]; simp
  · ext i hi
    simp only [encP, BitVec.getElem_extractLsb', BitVec.getLsbD_append, getLsbD_bit]
    interval_cases i <;> simp
  · simp only [encP, BitVec.getLsbD_append, getLsbD_bit]; simp
  · ext i hi
    simp only [encP, BitVec.getElem_extractLsb', BitVec.getLsbD_append, getLsbD_bit]
    interval_cases i <;> simp
theorem encP_pOf (w : W32) : encP (opOf w) (eOf w) (pOf w) = w := by
  simp only [encP, pOf, sOf, eOf, opOf, bit_getLsbD]
  rw [show w.extractLsb' 31 1 ++ w.extractLsb' 30 1 = w.extractLsb' 30 2 from extract_join w 30 1 1]
  rw [show w.extractLsb' 30 2 ++ w.extractLsb' 22 8 = w.extractLsb' 22 10 from extract_join w 22 2 8]
  rw [show w.extractLsb' 22 10 ++ w.extractLsb' 19 3 = w.extractLsb' 19 13 from extract_join w 19 10 3]
  rw [show w.extractLsb' 19 13 ++ w.extractLsb' 18 1 = w.extractLsb' 18 14 from extract_join w 18 13 1]
  rw [show w.extractLsb' 18 14 ++ w.extractLsb' 0 18 = w.extractLsb' 0 32 from extract_join w 0 14 18]
  exact extract_all w

@[simp] theorem opOf_encU (op : BitVec 8) (e : Bool) (r : UWord) : opOf (encU op e r) = op := by
  ext i hi
  simp only [opOf, encU, BitVec.getElem_extractLsb', BitVec.getLsbD_append, getLsbD_bit]
  interval_cases i <;> simp
@[simp] theorem eOf_encU (op : BitVec 8) (e : Bool) (r : UWord) : eOf (encU op e r) = e := by
  simp only [eOf, encU, BitVec.getLsbD_append, getLsbD_bit]; simp
@[simp] theorem uOf_encU (op : BitVec 8) (e : Bool) (r : UWord) : uOf (encU op e r) = r := by
  obtain ⟨s, d, a, b, k, z⟩ := r
  simp only [uOf, sOf, UWord.mk.injEq]
  and_intros
  · simp only [encU, BitVec.getLsbD_append, getLsbD_bit]; simp
  · ext i hi
    simp only [encU, BitVec.getElem_extractLsb', BitVec.getLsbD_append, getLsbD_bit]
    interval_cases i <;> simp
  · ext i hi
    simp only [encU, BitVec.getElem_extractLsb', BitVec.getLsbD_append, getLsbD_bit]
    interval_cases i <;> simp
  · ext i hi
    simp only [encU, BitVec.getElem_extractLsb', BitVec.getLsbD_append, getLsbD_bit]
    interval_cases i <;> simp
  · simp only [encU, BitVec.getLsbD_append, getLsbD_bit]; simp
  · ext i hi
    simp only [encU, BitVec.getElem_extractLsb', BitVec.getLsbD_append, getLsbD_bit]
    interval_cases i <;> simp
theorem encU_uOf (w : W32) : encU (opOf w) (eOf w) (uOf w) = w := by
  simp only [encU, uOf, sOf, eOf, opOf, bit_getLsbD]
  rw [show w.extractLsb' 31 1 ++ w.extractLsb' 30 1 = w.extractLsb' 30 2 from extract_join w 30 1 1]
  rw [show w.extractLsb' 30 2 ++ w.extractLsb' 22 8 = w.extractLsb' 22 10 from extract_join w 22 2 8]
  rw [show w.extractLsb' 22 10 ++ w.extractLsb' 16 6 = w.extractLsb' 16 16 from extract_join w 16 10 6]
  rw [show w.extractLsb' 16 16 ++ w.extractLsb' 10 6 = w.extractLsb' 10 22 from extract_join w 10 16 6]
  rw [show w.extractLsb' 10 22 ++ w.extractLsb' 4 6 = w.extractLsb' 4 28 from extract_join w 4 22 6]
  rw [show w.extractLsb' 4 28 ++ w.extractLsb' 3 1 = w.extractLsb' 3 29 from extract_join w 3 28 1]
  rw [show w.extractLsb' 3 29 ++ w.extractLsb' 0 3 = w.extractLsb' 0 32 from extract_join w 0 29 3]
  exact extract_all w

@[simp] theorem opOf_encM (op : BitVec 8) (e : Bool) (r : MWord) : opOf (encM op e r) = op := by
  ext i hi
  simp only [opOf, encM, BitVec.getElem_extractLsb', BitVec.getLsbD_append, getLsbD_bit]
  interval_cases i <;> simp
@[simp] theorem eOf_encM (op : BitVec 8) (e : Bool) (r : MWord) : eOf (encM op e r) = e := by
  simp only [eOf, encM, BitVec.getLsbD_append, getLsbD_bit]; simp
@[simp] theorem mOf_encM (op : BitVec 8) (e : Bool) (r : MWord) : mOf (encM op e r) = r := by
  obtain ⟨s, d, a, bu, w, nr⟩ := r
  simp only [mOf, sOf, MWord.mk.injEq]
  and_intros
  · simp only [encM, BitVec.getLsbD_append, getLsbD_bit]; simp
  · ext i hi
    simp only [encM, BitVec.getElem_extractLsb', BitVec.getLsbD_append, getLsbD_bit]
    interval_cases i <;> simp
  · ext i hi
    simp only [encM, BitVec.getElem_extractLsb', BitVec.getLsbD_append, getLsbD_bit]
    interval_cases i <;> simp
  · ext i hi
    simp only [encM, BitVec.getElem_extractLsb', BitVec.getLsbD_append, getLsbD_bit]
    interval_cases i <;> simp
  · simp only [encM, BitVec.getLsbD_append, getLsbD_bit]; simp
  · simp only [encM, BitVec.getLsbD_append, getLsbD_bit]; simp
theorem encM_mOf (w : W32) : encM (opOf w) (eOf w) (mOf w) = w := by
  simp only [encM, mOf, sOf, eOf, opOf, bit_getLsbD]
  rw [show w.extractLsb' 31 1 ++ w.extractLsb' 30 1 = w.extractLsb' 30 2 from extract_join w 30 1 1]
  rw [show w.extractLsb' 30 2 ++ w.extractLsb' 22 8 = w.extractLsb' 22 10 from extract_join w 22 2 8]
  rw [show w.extractLsb' 22 10 ++ w.extractLsb' 15 7 = w.extractLsb' 15 17 from extract_join w 15 10 7]
  rw [show w.extractLsb' 15 17 ++ w.extractLsb' 8 7 = w.extractLsb' 8 24 from extract_join w 8 17 7]
  rw [show w.extractLsb' 8 24 ++ w.extractLsb' 2 6 = w.extractLsb' 2 30 from extract_join w 2 24 6]
  rw [show w.extractLsb' 2 30 ++ w.extractLsb' 1 1 = w.extractLsb' 1 31 from extract_join w 1 30 1]
  rw [show w.extractLsb' 1 31 ++ w.extractLsb' 0 1 = w.extractLsb' 0 32 from extract_join w 0 31 1]
  exact extract_all w
@[simp] theorem xaOf_encXa (x : XaWord) : xaOf (encXa x) = x := by
  obtain ⟨c, ty, pr, pn, bh, bw, xd, xa, xb, rm, sat, cu, au, sub⟩ := x
  simp only [xaOf, XaWord.mk.injEq]
  and_intros
  · ext i hi
    simp only [encXa, BitVec.getElem_extractLsb', BitVec.getLsbD_append, getLsbD_bit]
    interval_cases i <;> simp
  · ext i hi
    simp only [encXa, BitVec.getElem_extractLsb', BitVec.getLsbD_append, getLsbD_bit]
    interval_cases i <;> simp
  · ext i hi
    simp only [encXa, BitVec.getElem_extractLsb', BitVec.getLsbD_append, getLsbD_bit]
    interval_cases i <;> simp
  · simp only [encXa, BitVec.getLsbD_append, getLsbD_bit]; simp
  · ext i hi
    simp only [encXa, BitVec.getElem_extractLsb', BitVec.getLsbD_append, getLsbD_bit]
    interval_cases i <;> simp
  · ext i hi
    simp only [encXa, BitVec.getElem_extractLsb', BitVec.getLsbD_append, getLsbD_bit]
    interval_cases i <;> simp
  · simp only [encXa, BitVec.getLsbD_append, getLsbD_bit]; simp
  · simp only [encXa, BitVec.getLsbD_append, getLsbD_bit]; simp
  · simp only [encXa, BitVec.getLsbD_append, getLsbD_bit]; simp
  · ext i hi
    simp only [encXa, BitVec.getElem_extractLsb', BitVec.getLsbD_append, getLsbD_bit]
    interval_cases i <;> simp
  · simp only [encXa, BitVec.getLsbD_append, getLsbD_bit]; simp
  · simp only [encXa, BitVec.getLsbD_append, getLsbD_bit]; simp
  · simp only [encXa, BitVec.getLsbD_append, getLsbD_bit]; simp
  · ext i hi
    simp only [encXa, BitVec.getElem_extractLsb', BitVec.getLsbD_append, getLsbD_bit]
    interval_cases i <;> simp
theorem encXa_xaOf (w : W32) : encXa (xaOf w) = w := by
  simp only [encXa, xaOf, bit_getLsbD]
  rw [show w.extractLsb' 25 7 ++ w.extractLsb' 21 4 = w.extractLsb' 21 11 from extract_join w 21 7 4]
  rw [show w.extractLsb' 21 11 ++ w.extractLsb' 18 3 = w.extractLsb' 18 14 from extract_join w 18 11 3]
  rw [show w.extractLsb' 18 14 ++ w.extractLsb' 17 1 = w.extractLsb' 17 15 from extract_join w 17 14 1]
  rw [show w.extractLsb' 17 15 ++ w.extractLsb' 15 2 = w.extractLsb' 15 17 from extract_join w 15 15 2]
  rw [show w.extractLsb' 15 17 ++ w.extractLsb' 13 2 = w.extractLsb' 13 19 from extract_join w 13 17 2]
  rw [show w.extractLsb' 13 19 ++ w.extractLsb' 12 1 = w.extractLsb' 12 20 from extract_join w 12 19 1]
  rw [show w.extractLsb' 12 20 ++ w.extractLsb' 11 1 = w.extractLsb' 11 21 from extract_join w 11 20 1]
  rw [show w.extractLsb' 11 21 ++ w.extractLsb' 10 1 = w.extractLsb' 10 22 from extract_join w 10 21 1]
  rw [show w.extractLsb' 10 22 ++ w.extractLsb' 7 3 = w.extractLsb' 7 25 from extract_join w 7 22 3]
  rw [show w.extractLsb' 7 25 ++ w.extractLsb' 6 1 = w.extractLsb' 6 26 from extract_join w 6 25 1]
  rw [show w.extractLsb' 6 26 ++ w.extractLsb' 5 1 = w.extractLsb' 5 27 from extract_join w 5 26 1]
  rw [show w.extractLsb' 5 27 ++ w.extractLsb' 4 1 = w.extractLsb' 4 28 from extract_join w 4 27 1]
  rw [show w.extractLsb' 4 28 ++ w.extractLsb' 0 4 = w.extractLsb' 0 32 from extract_join w 0 28 4]
  exact extract_all w
@[simp] theorem xmOf_encXm (x : XmWord) : xmOf (encXm x) = x := by
  obtain ⟨off, sz, ord, scope, cp, pr, pn, sub⟩ := x
  simp only [xmOf, XmWord.mk.injEq]
  and_intros
  · ext i hi
    simp only [encXm, BitVec.getElem_extractLsb', BitVec.getLsbD_append, getLsbD_bit]
    interval_cases i <;> simp
  · ext i hi
    simp only [encXm, BitVec.getElem_extractLsb', BitVec.getLsbD_append, getLsbD_bit]
    interval_cases i <;> simp
  · ext i hi
    simp only [encXm, BitVec.getElem_extractLsb', BitVec.getLsbD_append, getLsbD_bit]
    interval_cases i <;> simp
  · ext i hi
    simp only [encXm, BitVec.getElem_extractLsb', BitVec.getLsbD_append, getLsbD_bit]
    interval_cases i <;> simp
  · ext i hi
    simp only [encXm, BitVec.getElem_extractLsb', BitVec.getLsbD_append, getLsbD_bit]
    interval_cases i <;> simp
  · ext i hi
    simp only [encXm, BitVec.getElem_extractLsb', BitVec.getLsbD_append, getLsbD_bit]
    interval_cases i <;> simp
  · simp only [encXm, BitVec.getLsbD_append, getLsbD_bit]; simp
  · ext i hi
    simp only [encXm, BitVec.getElem_extractLsb', BitVec.getLsbD_append, getLsbD_bit]
    interval_cases i <;> simp
theorem encXm_xmOf (w : W32) : encXm (xmOf w) = w := by
  simp only [encXm, xmOf, bit_getLsbD]
  rw [show w.extractLsb' 18 14 ++ w.extractLsb' 15 3 = w.extractLsb' 15 17 from extract_join w 15 14 3]
  rw [show w.extractLsb' 15 17 ++ w.extractLsb' 13 2 = w.extractLsb' 13 19 from extract_join w 13 17 2]
  rw [show w.extractLsb' 13 19 ++ w.extractLsb' 10 3 = w.extractLsb' 10 22 from extract_join w 10 19 3]
  rw [show w.extractLsb' 10 22 ++ w.extractLsb' 8 2 = w.extractLsb' 8 24 from extract_join w 8 22 2]
  rw [show w.extractLsb' 8 24 ++ w.extractLsb' 5 3 = w.extractLsb' 5 27 from extract_join w 5 24 3]
  rw [show w.extractLsb' 5 27 ++ w.extractLsb' 4 1 = w.extractLsb' 4 28 from extract_join w 4 27 1]
  rw [show w.extractLsb' 4 28 ++ w.extractLsb' 0 4 = w.extractLsb' 0 32 from extract_join w 0 28 4]
  exact extract_all w
@[simp] theorem xtOf_encXt (x : XtWord) : xtOf (encXt x) = x := by
  obtain ⟨tile, pm1, aty, bty, mw, z, co, ak, bk, z6, sub⟩ := x
  simp only [xtOf, XtWord.mk.injEq]
  and_intros
  · ext i hi
    simp only [encXt, BitVec.getElem_extractLsb', BitVec.getLsbD_append, getLsbD_bit]
    interval_cases i <;> simp
  · ext i hi
    simp only [encXt, BitVec.getElem_extractLsb', BitVec.getLsbD_append, getLsbD_bit]
    interval_cases i <;> simp
  · ext i hi
    simp only [encXt, BitVec.getElem_extractLsb', BitVec.getLsbD_append, getLsbD_bit]
    interval_cases i <;> simp
  · ext i hi
    simp only [encXt, BitVec.getElem_extractLsb', BitVec.getLsbD_append, getLsbD_bit]
    interval_cases i <;> simp
  · ext i hi
    simp only [encXt, BitVec.getElem_extractLsb', BitVec.getLsbD_append, getLsbD_bit]
    interval_cases i <;> simp
  · simp only [encXt, BitVec.getLsbD_append, getLsbD_bit]; simp
  · simp only [encXt, BitVec.getLsbD_append, getLsbD_bit]; simp
  · simp only [encXt, BitVec.getLsbD_append, getLsbD_bit]; simp
  · simp only [encXt, BitVec.getLsbD_append, getLsbD_bit]; simp
  · ext i hi
    simp only [encXt, BitVec.getElem_extractLsb', BitVec.getLsbD_append, getLsbD_bit]
    interval_cases i <;> simp
  · ext i hi
    simp only [encXt, BitVec.getElem_extractLsb', BitVec.getLsbD_append, getLsbD_bit]
    interval_cases i <;> simp
theorem encXt_xtOf (w : W32) : encXt (xtOf w) = w := by
  simp only [encXt, xtOf, bit_getLsbD]
  rw [show w.extractLsb' 28 4 ++ w.extractLsb' 24 4 = w.extractLsb' 24 8 from extract_join w 24 4 4]
  rw [show w.extractLsb' 24 8 ++ w.extractLsb' 21 3 = w.extractLsb' 21 11 from extract_join w 21 8 3]
  rw [show w.extractLsb' 21 11 ++ w.extractLsb' 18 3 = w.extractLsb' 18 14 from extract_join w 18 11 3]
  rw [show w.extractLsb' 18 14 ++ w.extractLsb' 14 4 = w.extractLsb' 14 18 from extract_join w 14 14 4]
  rw [show w.extractLsb' 14 18 ++ w.extractLsb' 13 1 = w.extractLsb' 13 19 from extract_join w 13 18 1]
  rw [show w.extractLsb' 13 19 ++ w.extractLsb' 12 1 = w.extractLsb' 12 20 from extract_join w 12 19 1]
  rw [show w.extractLsb' 12 20 ++ w.extractLsb' 11 1 = w.extractLsb' 11 21 from extract_join w 11 20 1]
  rw [show w.extractLsb' 11 21 ++ w.extractLsb' 10 1 = w.extractLsb' 10 22 from extract_join w 10 21 1]
  rw [show w.extractLsb' 10 22 ++ w.extractLsb' 4 6 = w.extractLsb' 4 28 from extract_join w 4 22 6]
  rw [show w.extractLsb' 4 28 ++ w.extractLsb' 0 4 = w.extractLsb' 0 32 from extract_join w 0 28 4]
  exact extract_all w

end Sys2Proof
end

