-- ==== Sys2Proof/Laws/Table.lean ====
section
/-! SUPPORT. Tables and byte memories: reading after writing, and the canonical form that every memory operation keeps. -/

namespace Sys2Proof.Machine

variable {α : Type}

/-! ### Reading after writing -/

theorem lookT_delT_self (m : List (Nat × α)) (k : Nat) : lookT (delT m k) k = none := by
  induction m with
  | nil => rfl
  | cons e r ih =>
    obtain ⟨k', v⟩ := e
    by_cases h : k' = k
    · simp [delT, h, ih]
    · simp [delT, h, lookT, ih]

theorem lookT_delT_of_ne (m : List (Nat × α)) {k j : Nat} (h : j ≠ k) : lookT (delT m k) j = lookT m j := by
  induction m with
  | nil => rfl
  | cons e r ih =>
    obtain ⟨k', v⟩ := e
    by_cases hk : k' = k
    · subst hk
      have : ¬ k' = j := fun h' => h h'.symm
      simp [delT, lookT, ih, this]
    · by_cases hj : k' = j
      · simp only [delT, if_neg hk, lookT, if_pos hj]
      · simp [delT, hk, lookT, hj, ih]

theorem lookT_insT_self (m : List (Nat × α)) (k : Nat) (v : α) (h : lookT m k = none) : lookT (insT m k v) k = some v := by
  induction m with
  | nil => simp [insT, lookT]
  | cons e r ih =>
    obtain ⟨k', w⟩ := e
    by_cases hk : k' = k
    · simp [lookT, hk] at h
    · by_cases hlt : k < k'
      · simp [insT, hlt, lookT]
      · have h' : lookT r k = none := by simpa [lookT, hk] using h
        simp [insT, hlt, lookT, hk, ih h']

theorem lookT_insT_of_ne (m : List (Nat × α)) {k j : Nat} (v : α) (h : j ≠ k) : lookT (insT m k v) j = lookT m j := by
  have hn : ¬ k = j := fun h' => h h'.symm
  induction m with
  | nil => simp [insT, lookT, hn]
  | cons e r ih =>
    obtain ⟨k', w⟩ := e
    by_cases hlt : k < k'
    · simp [insT, hlt, lookT, hn]
    · by_cases hj : k' = j
      · simp only [insT, if_neg hlt, lookT, if_pos hj]
      · simp [insT, hlt, lookT, hj, ih]

/-- An entry written is found. -/
@[simp] theorem lookT_putT_self (m : List (Nat × α)) (k : Nat) (v : α) : lookT (putT m k v) k = some v :=
  lookT_insT_self _ _ _ (lookT_delT_self m k)

/-- Writing an entry leaves the others. -/
theorem lookT_putT_of_ne (m : List (Nat × α)) {k j : Nat} (v : α) (h : j ≠ k) : lookT (putT m k v) j = lookT m j := by
  rw [putT, lookT_insT_of_ne _ _ h, lookT_delT_of_ne _ h]

theorem getT_eq (d : α) (m : List (Nat × α)) (k : Nat) : getT d m k = (lookT m k).getD d := by
  induction m with
  | nil => rfl
  | cons e r ih =>
    obtain ⟨k', v⟩ := e
    by_cases h : k' = k
    · simp [getT, lookT, h]
    · simp [getT, lookT, h, ih]

/-- A value written is read back. -/
@[simp] theorem getT_setT_self [DecidableEq α] (d : α) (m : List (Nat × α)) (k : Nat) (v : α) : getT d (setT d m k v) k = v := by
  rw [getT_eq, setT]
  by_cases h : v = d
  · simp [h, lookT_delT_self]
  · simp [h]

/-- Writing a value leaves the others. -/
theorem getT_setT_of_ne [DecidableEq α] (d : α) (m : List (Nat × α)) {k j : Nat} (v : α) (h : j ≠ k) :
    getT d (setT d m k v) j = getT d m j := by
  rw [getT_eq, getT_eq, setT]
  by_cases hv : v = d
  · rw [if_pos hv, lookT_delT_of_ne _ h]
  · rw [if_neg hv, lookT_putT_of_ne _ _ h]

theorem getT_putT_self (d : α) (m : List (Nat × α)) (k : Nat) (v : α) : getT d (putT m k v) k = v := by
  simp [getT_eq]

theorem getT_putT_of_ne (d : α) (m : List (Nat × α)) {k j : Nat} (v : α) (h : j ≠ k) : getT d (putT m k v) j = getT d m j := by
  rw [getT_eq, getT_eq, lookT_putT_of_ne _ _ h]

/-! ### Byte memories -/

@[simp] theorem readByte_writeByte_self (m : List (Nat × Byte)) (a : Nat) (b : Byte) : readByte (writeByte m a b) a = b :=
  getT_setT_self 0 m a b

theorem readByte_writeByte_of_ne (m : List (Nat × Byte)) {a x : Nat} (b : Byte) (h : x ≠ a) :
    readByte (writeByte m a b) x = readByte m x :=
  getT_setT_of_ne 0 m b h

/-- A byte outside the written range reads as before. -/
theorem readByte_writeBytes_outside (m : List (Nat × Byte)) (a : Nat) (bs : List Byte) (x : Nat)
    (h : x < a ∨ a + bs.length ≤ x) : readByte (writeBytes m a bs) x = readByte m x := by
  induction bs generalizing m a with
  | nil => rfl
  | cons b r ih =>
    have hx : x ≠ a := by
      rcases h with h | h
      · omega
      · simp only [List.length_cons] at h; omega
    rw [writeBytes, ih]
    · exact readByte_writeByte_of_ne m b hx
    · simp only [List.length_cons] at h; omega

/-- A byte inside the written range is the byte written. -/
theorem readByte_writeBytes_inside (m : List (Nat × Byte)) (a : Nat) (bs : List Byte) (i : Nat) (h : i < bs.length) :
    readByte (writeBytes m a bs) (a + i) = bs[i] := by
  induction bs generalizing m a i with
  | nil => simp at h
  | cons b r ih =>
    cases i with
    | zero =>
      rw [writeBytes, readByte_writeBytes_outside _ _ _ _ (by left; omega)]
      simp
    | succ n =>
      have h' : n < r.length := by simpa using h
      rw [writeBytes, show a + (n + 1) = (a + 1) + n by omega, ih _ _ _ h']
      simp

theorem readBytes_length (m : List (Nat × Byte)) (a n : Nat) : (readBytes m a n).length = n := by
  induction n generalizing a with
  | zero => rfl
  | succ n ih => simp [readBytes, ih]

/-- Two lists of bytes read agree when every byte does. -/
theorem readBytes_eq (m : List (Nat × Byte)) (a : Nat) (bs : List Byte) (h : ∀ i (hi : i < bs.length), readByte m (a + i) = bs[i]) :
    readBytes m a bs.length = bs := by
  induction bs generalizing a with
  | nil => rfl
  | cons b r ih =>
    simp only [List.length_cons, readBytes]
    congr 1
    · exact h 0 (Nat.zero_lt_succ _)
    · refine ih (a + 1) (fun i hi => ?_)
      have := h (i + 1) (by simpa using hi)
      rw [show a + 1 + i = a + (i + 1) by omega, this]
      simp

/-- Bytes written are read back. -/
theorem readBytes_writeBytes (m : List (Nat × Byte)) (a : Nat) (bs : List Byte) :
    readBytes (writeBytes m a bs) a bs.length = bs :=
  readBytes_eq _ _ _ (fun i hi => readByte_writeBytes_inside m a bs i hi)

/-! ### The canonical form -/

theorem risingFrom_mono (m : List (Nat × α)) {a b : Nat} (h : a ≤ b) (hm : risingFrom b m = true) : risingFrom a m = true := by
  cases m with
  | nil => rfl
  | cons e r =>
    obtain ⟨k, v⟩ := e
    simp only [risingFrom, Bool.and_eq_true, decide_eq_true_eq] at hm ⊢
    exact ⟨by omega, hm.2⟩

theorem risingFrom_filter (p : Nat × α → Bool) (m : List (Nat × α)) (lo : Nat) (hm : risingFrom lo m = true) :
    risingFrom lo (m.filter p) = true := by
  induction m generalizing lo with
  | nil => rfl
  | cons e r ih =>
    obtain ⟨k, v⟩ := e
    simp only [risingFrom, Bool.and_eq_true, decide_eq_true_eq] at hm
    by_cases h : p (k, v) = true
    · simp only [List.filter_cons, h, if_true, risingFrom, Bool.and_eq_true, decide_eq_true_eq]
      exact ⟨hm.1, ih _ hm.2⟩
    · simp only [List.filter_cons, h]
      exact risingFrom_mono _ (by omega) (ih _ hm.2)

theorem delT_eq_filter (m : List (Nat × α)) (k : Nat) : delT m k = m.filter (fun e => e.1 != k) := by
  induction m with
  | nil => rfl
  | cons e r ih =>
    obtain ⟨k', v⟩ := e
    by_cases h : k' = k
    · simp [delT, h, ih]
    · simp [delT, h, ih]

theorem risingFrom_insT (m : List (Nat × α)) (k : Nat) (v : α) (lo : Nat) (hlo : lo ≤ k) (hm : risingFrom lo m = true)
    (hk : ∀ e ∈ m, e.1 ≠ k) : risingFrom lo (insT m k v) = true := by
  induction m generalizing lo with
  | nil => simp [insT, risingFrom, hlo]
  | cons e r ih =>
    obtain ⟨k', w⟩ := e
    simp only [risingFrom, Bool.and_eq_true, decide_eq_true_eq] at hm
    have hne : k' ≠ k := hk (k', w) (by simp)
    by_cases hlt : k < k'
    · simp only [insT, hlt, if_true, risingFrom, Bool.and_eq_true, decide_eq_true_eq]
      exact ⟨hlo, by omega, hm.2⟩
    · simp only [insT, hlt, if_false, risingFrom, Bool.and_eq_true, decide_eq_true_eq]
      exact ⟨hm.1, ih _ (by omega) hm.2 (fun e he => hk e (by simp [he]))⟩

theorem risingFrom_putT (m : List (Nat × α)) (k : Nat) (v : α) (hm : risingFrom 0 m = true) : risingFrom 0 (putT m k v) = true := by
  rw [putT, delT_eq_filter]
  refine risingFrom_insT _ _ _ _ (by omega) (risingFrom_filter _ _ _ hm) ?_
  intro e he
  simpa using (List.mem_filter.mp he).2

theorem insT_all (p : Nat × α → Bool) (m : List (Nat × α)) (k : Nat) (v : α) :
    (insT m k v).all p = (p (k, v) && m.all p) := by
  induction m with
  | nil => simp [insT]
  | cons e r ih =>
    obtain ⟨k', w⟩ := e
    by_cases hlt : k < k'
    · simp [insT, hlt]
    · simp [insT, hlt, ih]
      cases p (k', w) <;> cases p (k, v) <;> simp

theorem wf_filter (p : Nat × Byte → Bool) (m : List (Nat × Byte)) (h : Memory.wf m = true) : Memory.wf (m.filter p) = true := by
  simp only [Memory.wf, Bool.and_eq_true] at h ⊢
  refine ⟨risingFrom_filter _ _ _ h.1, ?_⟩
  rw [List.all_eq_true] at h ⊢
  exact fun e he => h.2 e (List.mem_filter.mp he).1

/-- Writing a byte keeps the canonical form. -/
theorem wf_writeByte (m : List (Nat × Byte)) (a : Nat) (b : Byte) (h : Memory.wf m = true) : Memory.wf (writeByte m a b) = true := by
  have hd : Memory.wf (delT m a) = true := by rw [delT_eq_filter]; exact wf_filter _ _ h
  by_cases hb : b = 0
  · simpa [writeByte, setT, hb] using hd
  · simp only [writeByte, setT, hb, if_false]
    simp only [Memory.wf, Bool.and_eq_true] at h hd ⊢
    refine ⟨risingFrom_putT _ _ _ h.1, ?_⟩
    rw [putT, insT_all, hd.2]
    simpa using hb

/-- Writing bytes keeps the canonical form. -/
theorem wf_writeBytes (m : List (Nat × Byte)) (a : Nat) (bs : List Byte) (h : Memory.wf m = true) :
    Memory.wf (writeBytes m a bs) = true := by
  induction bs generalizing m a with
  | nil => exact h
  | cons b r ih => exact ih _ _ (wf_writeByte _ _ _ h)

/-- Zeroing a range keeps the canonical form. -/
theorem wf_clearRange (m : List (Nat × Byte)) (lo hi : Nat) (h : Memory.wf m = true) : Memory.wf (clearRange m lo hi) = true :=
  wf_filter _ _ h

theorem lookT_filter (p : Nat × α → Bool) (m : List (Nat × α)) (k : Nat) (hp : ∀ v, p (k, v) = true) :
    lookT (m.filter p) k = lookT m k := by
  induction m with
  | nil => rfl
  | cons e r ih =>
    obtain ⟨k', v⟩ := e
    by_cases h : k' = k
    · subst h; simp [hp, lookT]
    · by_cases hq : p (k', v) = true
      · simp [hq, lookT, h, ih]
      · simp [hq, lookT, h, ih]

/-- Zeroing a range leaves the bytes outside it. -/
theorem readByte_clearRange_outside (m : List (Nat × Byte)) (lo hi a : Nat) (h : a < lo ∨ hi ≤ a) :
    readByte (clearRange m lo hi) a = readByte m a := by
  rw [readByte, readByte, getT_eq, getT_eq, clearRange, lookT_filter]
  intro v
  simpa using h

/-- A number survives its bytes. -/
theorem natOfBytes_bytesOfNat (n v : Nat) : natOfBytes (bytesOfNat n v) = v % 256 ^ n := by
  induction n generalizing v with
  | zero => simp [bytesOfNat, natOfBytes, Nat.mod_one]
  | succ n ih =>
    simp only [bytesOfNat, natOfBytes, ih, BitVec.toNat_ofNat]
    rw [show (256 : Nat) ^ (n + 1) = 256 * 256 ^ n by ring, Nat.mod_mul]

theorem bytesOfNat_length (n v : Nat) : (bytesOfNat n v).length = n := by
  induction n generalizing v with
  | zero => rfl
  | succ n ih => simp [bytesOfNat, ih]

end Sys2Proof.Machine
end

