-- ==== Sys2Proof/Laws/State.lean ====
section
/-! SUPPORT. What each update of the state, of a wave and of a part leaves, field by field. -/

namespace Sys2Proof.Machine


/-! ### `State.setCore` -/

@[simp] theorem State.setCore_dcc (s : State) (c : Nat) (v : Core) : (s.setCore c v).dcc = s.dcc := rfl
@[simp] theorem State.setCore_mem (s : State) (c : Nat) (v : Core) : (s.setCore c v).mem = s.mem := rfl
@[simp] theorem State.setCore_scratch (s : State) (c : Nat) (v : Core) : (s.setCore c v).scratch = s.scratch := rfl
@[simp] theorem State.setCore_acc (s : State) (c : Nat) (v : Core) : (s.setCore c v).acc = s.acc := rfl
@[simp] theorem State.setCore_clusters (s : State) (c : Nat) (v : Core) : (s.setCore c v).clusters = s.clusters := rfl
@[simp] theorem State.setCore_dies (s : State) (c : Nat) (v : Core) : (s.setCore c v).dies = s.dies := rfl
@[simp] theorem State.setCore_waves (s : State) (c : Nat) (v : Core) : (s.setCore c v).waves = s.waves := rfl
@[simp] theorem State.setCore_groups (s : State) (c : Nat) (v : Core) : (s.setCore c v).groups = s.groups := rfl
@[simp] theorem State.setCore_launches (s : State) (c : Nat) (v : Core) : (s.setCore c v).launches = s.launches := rfl
@[simp] theorem State.setCore_ops (s : State) (c : Nat) (v : Core) : (s.setCore c v).ops = s.ops := rfl
@[simp] theorem State.setCore_walks (s : State) (c : Nat) (v : Core) : (s.setCore c v).walks = s.walks := rfl
@[simp] theorem State.setCore_pins (s : State) (c : Nat) (v : Core) : (s.setCore c v).pins = s.pins := rfl
@[simp] theorem State.setCore_banks (s : State) (c : Nat) (v : Core) : (s.setCore c v).banks = s.banks := rfl
@[simp] theorem State.setCore_l2 (s : State) (c : Nat) (v : Core) : (s.setCore c v).l2 = s.l2 := rfl
@[simp] theorem State.setCore_backs (s : State) (c : Nat) (v : Core) : (s.setCore c v).backs = s.backs := rfl
@[simp] theorem State.setCore_fills (s : State) (c : Nat) (v : Core) : (s.setCore c v).fills = s.fills := rfl
@[simp] theorem State.setCore_posted (s : State) (c : Nat) (v : Core) : (s.setCore c v).posted = s.posted := rfl
@[simp] theorem State.setCore_prefetches (s : State) (c : Nat) (v : Core) : (s.setCore c v).prefetches = s.prefetches := rfl
@[simp] theorem State.setCore_sched (s : State) (c : Nat) (v : Core) : (s.setCore c v).sched = s.sched := rfl
@[simp] theorem State.setCore_pkg (s : State) (c : Nat) (v : Core) : (s.setCore c v).pkg = s.pkg := rfl
@[simp] theorem State.setCore_meshes (s : State) (c : Nat) (v : Core) : (s.setCore c v).meshes = s.meshes := rfl
@[simp] theorem State.setCore_prims (s : State) (c : Nat) (v : Core) : (s.setCore c v).prims = s.prims := rfl
@[simp] theorem State.setCore_marks (s : State) (c : Nat) (v : Core) : (s.setCore c v).marks = s.marks := rfl
@[simp] theorem State.setCore_sentMarks (s : State) (c : Nat) (v : Core) : (s.setCore c v).sentMarks = s.sentMarks := rfl
@[simp] theorem State.setCore_frags (s : State) (c : Nat) (v : Core) : (s.setCore c v).frags = s.frags := rfl
@[simp] theorem State.setCore_joinDecs (s : State) (c : Nat) (v : Core) : (s.setCore c v).joinDecs = s.joinDecs := rfl
@[simp] theorem State.setCore_cur (s : State) (c : Nat) (v : Core) : (s.setCore c v).cur = s.cur := rfl
@[simp] theorem State.setCore_agenda (s : State) (c : Nat) (v : Core) : (s.setCore c v).agenda = s.agenda := rfl
@[simp] theorem State.setCore_cyclePhase (s : State) (c : Nat) (v : Core) : (s.setCore c v).cyclePhase = s.cyclePhase := rfl
@[simp] theorem State.setCore_inputs (s : State) (c : Nat) (v : Core) : (s.setCore c v).inputs = s.inputs := rfl
@[simp] theorem State.setCore_nextId (s : State) (c : Nat) (v : Core) : (s.setCore c v).nextId = s.nextId := rfl
@[simp] theorem State.setCore_freeCount (s : State) (c : Nat) (v : Core) : (s.setCore c v).freeCount = s.freeCount := rfl

/-! ### `State.updCore` -/

@[simp] theorem State.updCore_dcc (s : State) (c : Nat) (f : Core → Core) : (s.updCore c f).dcc = s.dcc := rfl
@[simp] theorem State.updCore_mem (s : State) (c : Nat) (f : Core → Core) : (s.updCore c f).mem = s.mem := rfl
@[simp] theorem State.updCore_scratch (s : State) (c : Nat) (f : Core → Core) : (s.updCore c f).scratch = s.scratch := rfl
@[simp] theorem State.updCore_acc (s : State) (c : Nat) (f : Core → Core) : (s.updCore c f).acc = s.acc := rfl
@[simp] theorem State.updCore_clusters (s : State) (c : Nat) (f : Core → Core) : (s.updCore c f).clusters = s.clusters := rfl
@[simp] theorem State.updCore_dies (s : State) (c : Nat) (f : Core → Core) : (s.updCore c f).dies = s.dies := rfl
@[simp] theorem State.updCore_waves (s : State) (c : Nat) (f : Core → Core) : (s.updCore c f).waves = s.waves := rfl
@[simp] theorem State.updCore_groups (s : State) (c : Nat) (f : Core → Core) : (s.updCore c f).groups = s.groups := rfl
@[simp] theorem State.updCore_launches (s : State) (c : Nat) (f : Core → Core) : (s.updCore c f).launches = s.launches := rfl
@[simp] theorem State.updCore_ops (s : State) (c : Nat) (f : Core → Core) : (s.updCore c f).ops = s.ops := rfl
@[simp] theorem State.updCore_walks (s : State) (c : Nat) (f : Core → Core) : (s.updCore c f).walks = s.walks := rfl
@[simp] theorem State.updCore_pins (s : State) (c : Nat) (f : Core → Core) : (s.updCore c f).pins = s.pins := rfl
@[simp] theorem State.updCore_banks (s : State) (c : Nat) (f : Core → Core) : (s.updCore c f).banks = s.banks := rfl
@[simp] theorem State.updCore_l2 (s : State) (c : Nat) (f : Core → Core) : (s.updCore c f).l2 = s.l2 := rfl
@[simp] theorem State.updCore_backs (s : State) (c : Nat) (f : Core → Core) : (s.updCore c f).backs = s.backs := rfl
@[simp] theorem State.updCore_fills (s : State) (c : Nat) (f : Core → Core) : (s.updCore c f).fills = s.fills := rfl
@[simp] theorem State.updCore_posted (s : State) (c : Nat) (f : Core → Core) : (s.updCore c f).posted = s.posted := rfl
@[simp] theorem State.updCore_prefetches (s : State) (c : Nat) (f : Core → Core) : (s.updCore c f).prefetches = s.prefetches := rfl
@[simp] theorem State.updCore_sched (s : State) (c : Nat) (f : Core → Core) : (s.updCore c f).sched = s.sched := rfl
@[simp] theorem State.updCore_pkg (s : State) (c : Nat) (f : Core → Core) : (s.updCore c f).pkg = s.pkg := rfl
@[simp] theorem State.updCore_meshes (s : State) (c : Nat) (f : Core → Core) : (s.updCore c f).meshes = s.meshes := rfl
@[simp] theorem State.updCore_prims (s : State) (c : Nat) (f : Core → Core) : (s.updCore c f).prims = s.prims := rfl
@[simp] theorem State.updCore_marks (s : State) (c : Nat) (f : Core → Core) : (s.updCore c f).marks = s.marks := rfl
@[simp] theorem State.updCore_sentMarks (s : State) (c : Nat) (f : Core → Core) : (s.updCore c f).sentMarks = s.sentMarks := rfl
@[simp] theorem State.updCore_frags (s : State) (c : Nat) (f : Core → Core) : (s.updCore c f).frags = s.frags := rfl
@[simp] theorem State.updCore_joinDecs (s : State) (c : Nat) (f : Core → Core) : (s.updCore c f).joinDecs = s.joinDecs := rfl
@[simp] theorem State.updCore_cur (s : State) (c : Nat) (f : Core → Core) : (s.updCore c f).cur = s.cur := rfl
@[simp] theorem State.updCore_agenda (s : State) (c : Nat) (f : Core → Core) : (s.updCore c f).agenda = s.agenda := rfl
@[simp] theorem State.updCore_cyclePhase (s : State) (c : Nat) (f : Core → Core) : (s.updCore c f).cyclePhase = s.cyclePhase := rfl
@[simp] theorem State.updCore_inputs (s : State) (c : Nat) (f : Core → Core) : (s.updCore c f).inputs = s.inputs := rfl
@[simp] theorem State.updCore_nextId (s : State) (c : Nat) (f : Core → Core) : (s.updCore c f).nextId = s.nextId := rfl
@[simp] theorem State.updCore_freeCount (s : State) (c : Nat) (f : Core → Core) : (s.updCore c f).freeCount = s.freeCount := rfl

/-! ### `State.updCluster` -/

@[simp] theorem State.updCluster_dcc (s : State) (c : Nat) (f : Cluster → Cluster) : (s.updCluster c f).dcc = s.dcc := rfl
@[simp] theorem State.updCluster_mem (s : State) (c : Nat) (f : Cluster → Cluster) : (s.updCluster c f).mem = s.mem := rfl
@[simp] theorem State.updCluster_scratch (s : State) (c : Nat) (f : Cluster → Cluster) : (s.updCluster c f).scratch = s.scratch := rfl
@[simp] theorem State.updCluster_acc (s : State) (c : Nat) (f : Cluster → Cluster) : (s.updCluster c f).acc = s.acc := rfl
@[simp] theorem State.updCluster_cores (s : State) (c : Nat) (f : Cluster → Cluster) : (s.updCluster c f).cores = s.cores := rfl
@[simp] theorem State.updCluster_dies (s : State) (c : Nat) (f : Cluster → Cluster) : (s.updCluster c f).dies = s.dies := rfl
@[simp] theorem State.updCluster_waves (s : State) (c : Nat) (f : Cluster → Cluster) : (s.updCluster c f).waves = s.waves := rfl
@[simp] theorem State.updCluster_groups (s : State) (c : Nat) (f : Cluster → Cluster) : (s.updCluster c f).groups = s.groups := rfl
@[simp] theorem State.updCluster_launches (s : State) (c : Nat) (f : Cluster → Cluster) : (s.updCluster c f).launches = s.launches := rfl
@[simp] theorem State.updCluster_ops (s : State) (c : Nat) (f : Cluster → Cluster) : (s.updCluster c f).ops = s.ops := rfl
@[simp] theorem State.updCluster_walks (s : State) (c : Nat) (f : Cluster → Cluster) : (s.updCluster c f).walks = s.walks := rfl
@[simp] theorem State.updCluster_pins (s : State) (c : Nat) (f : Cluster → Cluster) : (s.updCluster c f).pins = s.pins := rfl
@[simp] theorem State.updCluster_banks (s : State) (c : Nat) (f : Cluster → Cluster) : (s.updCluster c f).banks = s.banks := rfl
@[simp] theorem State.updCluster_l2 (s : State) (c : Nat) (f : Cluster → Cluster) : (s.updCluster c f).l2 = s.l2 := rfl
@[simp] theorem State.updCluster_backs (s : State) (c : Nat) (f : Cluster → Cluster) : (s.updCluster c f).backs = s.backs := rfl
@[simp] theorem State.updCluster_fills (s : State) (c : Nat) (f : Cluster → Cluster) : (s.updCluster c f).fills = s.fills := rfl
@[simp] theorem State.updCluster_posted (s : State) (c : Nat) (f : Cluster → Cluster) : (s.updCluster c f).posted = s.posted := rfl
@[simp] theorem State.updCluster_prefetches (s : State) (c : Nat) (f : Cluster → Cluster) : (s.updCluster c f).prefetches = s.prefetches := rfl
@[simp] theorem State.updCluster_sched (s : State) (c : Nat) (f : Cluster → Cluster) : (s.updCluster c f).sched = s.sched := rfl
@[simp] theorem State.updCluster_pkg (s : State) (c : Nat) (f : Cluster → Cluster) : (s.updCluster c f).pkg = s.pkg := rfl
@[simp] theorem State.updCluster_meshes (s : State) (c : Nat) (f : Cluster → Cluster) : (s.updCluster c f).meshes = s.meshes := rfl
@[simp] theorem State.updCluster_prims (s : State) (c : Nat) (f : Cluster → Cluster) : (s.updCluster c f).prims = s.prims := rfl
@[simp] theorem State.updCluster_marks (s : State) (c : Nat) (f : Cluster → Cluster) : (s.updCluster c f).marks = s.marks := rfl
@[simp] theorem State.updCluster_sentMarks (s : State) (c : Nat) (f : Cluster → Cluster) : (s.updCluster c f).sentMarks = s.sentMarks := rfl
@[simp] theorem State.updCluster_frags (s : State) (c : Nat) (f : Cluster → Cluster) : (s.updCluster c f).frags = s.frags := rfl
@[simp] theorem State.updCluster_joinDecs (s : State) (c : Nat) (f : Cluster → Cluster) : (s.updCluster c f).joinDecs = s.joinDecs := rfl
@[simp] theorem State.updCluster_cur (s : State) (c : Nat) (f : Cluster → Cluster) : (s.updCluster c f).cur = s.cur := rfl
@[simp] theorem State.updCluster_agenda (s : State) (c : Nat) (f : Cluster → Cluster) : (s.updCluster c f).agenda = s.agenda := rfl
@[simp] theorem State.updCluster_cyclePhase (s : State) (c : Nat) (f : Cluster → Cluster) : (s.updCluster c f).cyclePhase = s.cyclePhase := rfl
@[simp] theorem State.updCluster_inputs (s : State) (c : Nat) (f : Cluster → Cluster) : (s.updCluster c f).inputs = s.inputs := rfl
@[simp] theorem State.updCluster_nextId (s : State) (c : Nat) (f : Cluster → Cluster) : (s.updCluster c f).nextId = s.nextId := rfl
@[simp] theorem State.updCluster_freeCount (s : State) (c : Nat) (f : Cluster → Cluster) : (s.updCluster c f).freeCount = s.freeCount := rfl

/-! ### `State.updDie` -/

@[simp] theorem State.updDie_dcc (s : State) (d : Nat) (f : Die → Die) : (s.updDie d f).dcc = s.dcc := rfl
@[simp] theorem State.updDie_mem (s : State) (d : Nat) (f : Die → Die) : (s.updDie d f).mem = s.mem := rfl
@[simp] theorem State.updDie_scratch (s : State) (d : Nat) (f : Die → Die) : (s.updDie d f).scratch = s.scratch := rfl
@[simp] theorem State.updDie_acc (s : State) (d : Nat) (f : Die → Die) : (s.updDie d f).acc = s.acc := rfl
@[simp] theorem State.updDie_cores (s : State) (d : Nat) (f : Die → Die) : (s.updDie d f).cores = s.cores := rfl
@[simp] theorem State.updDie_clusters (s : State) (d : Nat) (f : Die → Die) : (s.updDie d f).clusters = s.clusters := rfl
@[simp] theorem State.updDie_waves (s : State) (d : Nat) (f : Die → Die) : (s.updDie d f).waves = s.waves := rfl
@[simp] theorem State.updDie_groups (s : State) (d : Nat) (f : Die → Die) : (s.updDie d f).groups = s.groups := rfl
@[simp] theorem State.updDie_launches (s : State) (d : Nat) (f : Die → Die) : (s.updDie d f).launches = s.launches := rfl
@[simp] theorem State.updDie_ops (s : State) (d : Nat) (f : Die → Die) : (s.updDie d f).ops = s.ops := rfl
@[simp] theorem State.updDie_walks (s : State) (d : Nat) (f : Die → Die) : (s.updDie d f).walks = s.walks := rfl
@[simp] theorem State.updDie_pins (s : State) (d : Nat) (f : Die → Die) : (s.updDie d f).pins = s.pins := rfl
@[simp] theorem State.updDie_banks (s : State) (d : Nat) (f : Die → Die) : (s.updDie d f).banks = s.banks := rfl
@[simp] theorem State.updDie_l2 (s : State) (d : Nat) (f : Die → Die) : (s.updDie d f).l2 = s.l2 := rfl
@[simp] theorem State.updDie_backs (s : State) (d : Nat) (f : Die → Die) : (s.updDie d f).backs = s.backs := rfl
@[simp] theorem State.updDie_fills (s : State) (d : Nat) (f : Die → Die) : (s.updDie d f).fills = s.fills := rfl
@[simp] theorem State.updDie_posted (s : State) (d : Nat) (f : Die → Die) : (s.updDie d f).posted = s.posted := rfl
@[simp] theorem State.updDie_prefetches (s : State) (d : Nat) (f : Die → Die) : (s.updDie d f).prefetches = s.prefetches := rfl
@[simp] theorem State.updDie_sched (s : State) (d : Nat) (f : Die → Die) : (s.updDie d f).sched = s.sched := rfl
@[simp] theorem State.updDie_pkg (s : State) (d : Nat) (f : Die → Die) : (s.updDie d f).pkg = s.pkg := rfl
@[simp] theorem State.updDie_meshes (s : State) (d : Nat) (f : Die → Die) : (s.updDie d f).meshes = s.meshes := rfl
@[simp] theorem State.updDie_prims (s : State) (d : Nat) (f : Die → Die) : (s.updDie d f).prims = s.prims := rfl
@[simp] theorem State.updDie_marks (s : State) (d : Nat) (f : Die → Die) : (s.updDie d f).marks = s.marks := rfl
@[simp] theorem State.updDie_sentMarks (s : State) (d : Nat) (f : Die → Die) : (s.updDie d f).sentMarks = s.sentMarks := rfl
@[simp] theorem State.updDie_frags (s : State) (d : Nat) (f : Die → Die) : (s.updDie d f).frags = s.frags := rfl
@[simp] theorem State.updDie_joinDecs (s : State) (d : Nat) (f : Die → Die) : (s.updDie d f).joinDecs = s.joinDecs := rfl
@[simp] theorem State.updDie_cur (s : State) (d : Nat) (f : Die → Die) : (s.updDie d f).cur = s.cur := rfl
@[simp] theorem State.updDie_agenda (s : State) (d : Nat) (f : Die → Die) : (s.updDie d f).agenda = s.agenda := rfl
@[simp] theorem State.updDie_cyclePhase (s : State) (d : Nat) (f : Die → Die) : (s.updDie d f).cyclePhase = s.cyclePhase := rfl
@[simp] theorem State.updDie_inputs (s : State) (d : Nat) (f : Die → Die) : (s.updDie d f).inputs = s.inputs := rfl
@[simp] theorem State.updDie_nextId (s : State) (d : Nat) (f : Die → Die) : (s.updDie d f).nextId = s.nextId := rfl
@[simp] theorem State.updDie_freeCount (s : State) (d : Nat) (f : Die → Die) : (s.updDie d f).freeCount = s.freeCount := rfl

/-! ### `State.updQueue` -/

@[simp] theorem State.updQueue_dcc (s : State) (q : Nat) (f : Queue → Queue) : (s.updQueue q f).dcc = s.dcc := rfl
@[simp] theorem State.updQueue_mem (s : State) (q : Nat) (f : Queue → Queue) : (s.updQueue q f).mem = s.mem := rfl
@[simp] theorem State.updQueue_scratch (s : State) (q : Nat) (f : Queue → Queue) : (s.updQueue q f).scratch = s.scratch := rfl
@[simp] theorem State.updQueue_acc (s : State) (q : Nat) (f : Queue → Queue) : (s.updQueue q f).acc = s.acc := rfl
@[simp] theorem State.updQueue_cores (s : State) (q : Nat) (f : Queue → Queue) : (s.updQueue q f).cores = s.cores := rfl
@[simp] theorem State.updQueue_clusters (s : State) (q : Nat) (f : Queue → Queue) : (s.updQueue q f).clusters = s.clusters := rfl
@[simp] theorem State.updQueue_dies (s : State) (q : Nat) (f : Queue → Queue) : (s.updQueue q f).dies = s.dies := rfl
@[simp] theorem State.updQueue_waves (s : State) (q : Nat) (f : Queue → Queue) : (s.updQueue q f).waves = s.waves := rfl
@[simp] theorem State.updQueue_groups (s : State) (q : Nat) (f : Queue → Queue) : (s.updQueue q f).groups = s.groups := rfl
@[simp] theorem State.updQueue_launches (s : State) (q : Nat) (f : Queue → Queue) : (s.updQueue q f).launches = s.launches := rfl
@[simp] theorem State.updQueue_ops (s : State) (q : Nat) (f : Queue → Queue) : (s.updQueue q f).ops = s.ops := rfl
@[simp] theorem State.updQueue_walks (s : State) (q : Nat) (f : Queue → Queue) : (s.updQueue q f).walks = s.walks := rfl
@[simp] theorem State.updQueue_pins (s : State) (q : Nat) (f : Queue → Queue) : (s.updQueue q f).pins = s.pins := rfl
@[simp] theorem State.updQueue_banks (s : State) (q : Nat) (f : Queue → Queue) : (s.updQueue q f).banks = s.banks := rfl
@[simp] theorem State.updQueue_l2 (s : State) (q : Nat) (f : Queue → Queue) : (s.updQueue q f).l2 = s.l2 := rfl
@[simp] theorem State.updQueue_backs (s : State) (q : Nat) (f : Queue → Queue) : (s.updQueue q f).backs = s.backs := rfl
@[simp] theorem State.updQueue_fills (s : State) (q : Nat) (f : Queue → Queue) : (s.updQueue q f).fills = s.fills := rfl
@[simp] theorem State.updQueue_posted (s : State) (q : Nat) (f : Queue → Queue) : (s.updQueue q f).posted = s.posted := rfl
@[simp] theorem State.updQueue_prefetches (s : State) (q : Nat) (f : Queue → Queue) : (s.updQueue q f).prefetches = s.prefetches := rfl
@[simp] theorem State.updQueue_pkg (s : State) (q : Nat) (f : Queue → Queue) : (s.updQueue q f).pkg = s.pkg := rfl
@[simp] theorem State.updQueue_meshes (s : State) (q : Nat) (f : Queue → Queue) : (s.updQueue q f).meshes = s.meshes := rfl
@[simp] theorem State.updQueue_prims (s : State) (q : Nat) (f : Queue → Queue) : (s.updQueue q f).prims = s.prims := rfl
@[simp] theorem State.updQueue_marks (s : State) (q : Nat) (f : Queue → Queue) : (s.updQueue q f).marks = s.marks := rfl
@[simp] theorem State.updQueue_sentMarks (s : State) (q : Nat) (f : Queue → Queue) : (s.updQueue q f).sentMarks = s.sentMarks := rfl
@[simp] theorem State.updQueue_frags (s : State) (q : Nat) (f : Queue → Queue) : (s.updQueue q f).frags = s.frags := rfl
@[simp] theorem State.updQueue_joinDecs (s : State) (q : Nat) (f : Queue → Queue) : (s.updQueue q f).joinDecs = s.joinDecs := rfl
@[simp] theorem State.updQueue_cur (s : State) (q : Nat) (f : Queue → Queue) : (s.updQueue q f).cur = s.cur := rfl
@[simp] theorem State.updQueue_agenda (s : State) (q : Nat) (f : Queue → Queue) : (s.updQueue q f).agenda = s.agenda := rfl
@[simp] theorem State.updQueue_cyclePhase (s : State) (q : Nat) (f : Queue → Queue) : (s.updQueue q f).cyclePhase = s.cyclePhase := rfl
@[simp] theorem State.updQueue_inputs (s : State) (q : Nat) (f : Queue → Queue) : (s.updQueue q f).inputs = s.inputs := rfl
@[simp] theorem State.updQueue_nextId (s : State) (q : Nat) (f : Queue → Queue) : (s.updQueue q f).nextId = s.nextId := rfl
@[simp] theorem State.updQueue_freeCount (s : State) (q : Nat) (f : Queue → Queue) : (s.updQueue q f).freeCount = s.freeCount := rfl

/-! ### `State.updTenant` -/

@[simp] theorem State.updTenant_dcc (s : State) (t : Nat) (f : Tenant → Tenant) : (s.updTenant t f).dcc = s.dcc := rfl
@[simp] theorem State.updTenant_mem (s : State) (t : Nat) (f : Tenant → Tenant) : (s.updTenant t f).mem = s.mem := rfl
@[simp] theorem State.updTenant_scratch (s : State) (t : Nat) (f : Tenant → Tenant) : (s.updTenant t f).scratch = s.scratch := rfl
@[simp] theorem State.updTenant_acc (s : State) (t : Nat) (f : Tenant → Tenant) : (s.updTenant t f).acc = s.acc := rfl
@[simp] theorem State.updTenant_cores (s : State) (t : Nat) (f : Tenant → Tenant) : (s.updTenant t f).cores = s.cores := rfl
@[simp] theorem State.updTenant_clusters (s : State) (t : Nat) (f : Tenant → Tenant) : (s.updTenant t f).clusters = s.clusters := rfl
@[simp] theorem State.updTenant_dies (s : State) (t : Nat) (f : Tenant → Tenant) : (s.updTenant t f).dies = s.dies := rfl
@[simp] theorem State.updTenant_waves (s : State) (t : Nat) (f : Tenant → Tenant) : (s.updTenant t f).waves = s.waves := rfl
@[simp] theorem State.updTenant_groups (s : State) (t : Nat) (f : Tenant → Tenant) : (s.updTenant t f).groups = s.groups := rfl
@[simp] theorem State.updTenant_launches (s : State) (t : Nat) (f : Tenant → Tenant) : (s.updTenant t f).launches = s.launches := rfl
@[simp] theorem State.updTenant_ops (s : State) (t : Nat) (f : Tenant → Tenant) : (s.updTenant t f).ops = s.ops := rfl
@[simp] theorem State.updTenant_walks (s : State) (t : Nat) (f : Tenant → Tenant) : (s.updTenant t f).walks = s.walks := rfl
@[simp] theorem State.updTenant_pins (s : State) (t : Nat) (f : Tenant → Tenant) : (s.updTenant t f).pins = s.pins := rfl
@[simp] theorem State.updTenant_banks (s : State) (t : Nat) (f : Tenant → Tenant) : (s.updTenant t f).banks = s.banks := rfl
@[simp] theorem State.updTenant_l2 (s : State) (t : Nat) (f : Tenant → Tenant) : (s.updTenant t f).l2 = s.l2 := rfl
@[simp] theorem State.updTenant_backs (s : State) (t : Nat) (f : Tenant → Tenant) : (s.updTenant t f).backs = s.backs := rfl
@[simp] theorem State.updTenant_fills (s : State) (t : Nat) (f : Tenant → Tenant) : (s.updTenant t f).fills = s.fills := rfl
@[simp] theorem State.updTenant_posted (s : State) (t : Nat) (f : Tenant → Tenant) : (s.updTenant t f).posted = s.posted := rfl
@[simp] theorem State.updTenant_prefetches (s : State) (t : Nat) (f : Tenant → Tenant) : (s.updTenant t f).prefetches = s.prefetches := rfl
@[simp] theorem State.updTenant_pkg (s : State) (t : Nat) (f : Tenant → Tenant) : (s.updTenant t f).pkg = s.pkg := rfl
@[simp] theorem State.updTenant_meshes (s : State) (t : Nat) (f : Tenant → Tenant) : (s.updTenant t f).meshes = s.meshes := rfl
@[simp] theorem State.updTenant_prims (s : State) (t : Nat) (f : Tenant → Tenant) : (s.updTenant t f).prims = s.prims := rfl
@[simp] theorem State.updTenant_marks (s : State) (t : Nat) (f : Tenant → Tenant) : (s.updTenant t f).marks = s.marks := rfl
@[simp] theorem State.updTenant_sentMarks (s : State) (t : Nat) (f : Tenant → Tenant) : (s.updTenant t f).sentMarks = s.sentMarks := rfl
@[simp] theorem State.updTenant_frags (s : State) (t : Nat) (f : Tenant → Tenant) : (s.updTenant t f).frags = s.frags := rfl
@[simp] theorem State.updTenant_joinDecs (s : State) (t : Nat) (f : Tenant → Tenant) : (s.updTenant t f).joinDecs = s.joinDecs := rfl
@[simp] theorem State.updTenant_cur (s : State) (t : Nat) (f : Tenant → Tenant) : (s.updTenant t f).cur = s.cur := rfl
@[simp] theorem State.updTenant_agenda (s : State) (t : Nat) (f : Tenant → Tenant) : (s.updTenant t f).agenda = s.agenda := rfl
@[simp] theorem State.updTenant_cyclePhase (s : State) (t : Nat) (f : Tenant → Tenant) : (s.updTenant t f).cyclePhase = s.cyclePhase := rfl
@[simp] theorem State.updTenant_inputs (s : State) (t : Nat) (f : Tenant → Tenant) : (s.updTenant t f).inputs = s.inputs := rfl
@[simp] theorem State.updTenant_nextId (s : State) (t : Nat) (f : Tenant → Tenant) : (s.updTenant t f).nextId = s.nextId := rfl
@[simp] theorem State.updTenant_freeCount (s : State) (t : Nat) (f : Tenant → Tenant) : (s.updTenant t f).freeCount = s.freeCount := rfl

/-! ### `State.putWave` -/

@[simp] theorem State.putWave_dcc (s : State) (k : Nat) (w : Wave) : (s.putWave k w).dcc = s.dcc := rfl
@[simp] theorem State.putWave_mem (s : State) (k : Nat) (w : Wave) : (s.putWave k w).mem = s.mem := rfl
@[simp] theorem State.putWave_scratch (s : State) (k : Nat) (w : Wave) : (s.putWave k w).scratch = s.scratch := rfl
@[simp] theorem State.putWave_acc (s : State) (k : Nat) (w : Wave) : (s.putWave k w).acc = s.acc := rfl
@[simp] theorem State.putWave_cores (s : State) (k : Nat) (w : Wave) : (s.putWave k w).cores = s.cores := rfl
@[simp] theorem State.putWave_clusters (s : State) (k : Nat) (w : Wave) : (s.putWave k w).clusters = s.clusters := rfl
@[simp] theorem State.putWave_dies (s : State) (k : Nat) (w : Wave) : (s.putWave k w).dies = s.dies := rfl
@[simp] theorem State.putWave_groups (s : State) (k : Nat) (w : Wave) : (s.putWave k w).groups = s.groups := rfl
@[simp] theorem State.putWave_launches (s : State) (k : Nat) (w : Wave) : (s.putWave k w).launches = s.launches := rfl
@[simp] theorem State.putWave_ops (s : State) (k : Nat) (w : Wave) : (s.putWave k w).ops = s.ops := rfl
@[simp] theorem State.putWave_walks (s : State) (k : Nat) (w : Wave) : (s.putWave k w).walks = s.walks := rfl
@[simp] theorem State.putWave_pins (s : State) (k : Nat) (w : Wave) : (s.putWave k w).pins = s.pins := rfl
@[simp] theorem State.putWave_banks (s : State) (k : Nat) (w : Wave) : (s.putWave k w).banks = s.banks := rfl
@[simp] theorem State.putWave_l2 (s : State) (k : Nat) (w : Wave) : (s.putWave k w).l2 = s.l2 := rfl
@[simp] theorem State.putWave_backs (s : State) (k : Nat) (w : Wave) : (s.putWave k w).backs = s.backs := rfl
@[simp] theorem State.putWave_fills (s : State) (k : Nat) (w : Wave) : (s.putWave k w).fills = s.fills := rfl
@[simp] theorem State.putWave_posted (s : State) (k : Nat) (w : Wave) : (s.putWave k w).posted = s.posted := rfl
@[simp] theorem State.putWave_prefetches (s : State) (k : Nat) (w : Wave) : (s.putWave k w).prefetches = s.prefetches := rfl
@[simp] theorem State.putWave_sched (s : State) (k : Nat) (w : Wave) : (s.putWave k w).sched = s.sched := rfl
@[simp] theorem State.putWave_pkg (s : State) (k : Nat) (w : Wave) : (s.putWave k w).pkg = s.pkg := rfl
@[simp] theorem State.putWave_meshes (s : State) (k : Nat) (w : Wave) : (s.putWave k w).meshes = s.meshes := rfl
@[simp] theorem State.putWave_prims (s : State) (k : Nat) (w : Wave) : (s.putWave k w).prims = s.prims := rfl
@[simp] theorem State.putWave_marks (s : State) (k : Nat) (w : Wave) : (s.putWave k w).marks = s.marks := rfl
@[simp] theorem State.putWave_sentMarks (s : State) (k : Nat) (w : Wave) : (s.putWave k w).sentMarks = s.sentMarks := rfl
@[simp] theorem State.putWave_frags (s : State) (k : Nat) (w : Wave) : (s.putWave k w).frags = s.frags := rfl
@[simp] theorem State.putWave_joinDecs (s : State) (k : Nat) (w : Wave) : (s.putWave k w).joinDecs = s.joinDecs := rfl
@[simp] theorem State.putWave_cur (s : State) (k : Nat) (w : Wave) : (s.putWave k w).cur = s.cur := rfl
@[simp] theorem State.putWave_agenda (s : State) (k : Nat) (w : Wave) : (s.putWave k w).agenda = s.agenda := rfl
@[simp] theorem State.putWave_cyclePhase (s : State) (k : Nat) (w : Wave) : (s.putWave k w).cyclePhase = s.cyclePhase := rfl
@[simp] theorem State.putWave_inputs (s : State) (k : Nat) (w : Wave) : (s.putWave k w).inputs = s.inputs := rfl
@[simp] theorem State.putWave_nextId (s : State) (k : Nat) (w : Wave) : (s.putWave k w).nextId = s.nextId := rfl
@[simp] theorem State.putWave_freeCount (s : State) (k : Nat) (w : Wave) : (s.putWave k w).freeCount = s.freeCount := rfl

/-! ### `State.updWave` -/

@[simp] theorem State.updWave_dcc (s : State) (k : Nat) (f : Wave → Wave) : (s.updWave k f).dcc = s.dcc := by unfold State.updWave; split <;> rfl
@[simp] theorem State.updWave_mem (s : State) (k : Nat) (f : Wave → Wave) : (s.updWave k f).mem = s.mem := by unfold State.updWave; split <;> rfl
@[simp] theorem State.updWave_scratch (s : State) (k : Nat) (f : Wave → Wave) : (s.updWave k f).scratch = s.scratch := by unfold State.updWave; split <;> rfl
@[simp] theorem State.updWave_acc (s : State) (k : Nat) (f : Wave → Wave) : (s.updWave k f).acc = s.acc := by unfold State.updWave; split <;> rfl
@[simp] theorem State.updWave_cores (s : State) (k : Nat) (f : Wave → Wave) : (s.updWave k f).cores = s.cores := by unfold State.updWave; split <;> rfl
@[simp] theorem State.updWave_clusters (s : State) (k : Nat) (f : Wave → Wave) : (s.updWave k f).clusters = s.clusters := by unfold State.updWave; split <;> rfl
@[simp] theorem State.updWave_dies (s : State) (k : Nat) (f : Wave → Wave) : (s.updWave k f).dies = s.dies := by unfold State.updWave; split <;> rfl
@[simp] theorem State.updWave_groups (s : State) (k : Nat) (f : Wave → Wave) : (s.updWave k f).groups = s.groups := by unfold State.updWave; split <;> rfl
@[simp] theorem State.updWave_launches (s : State) (k : Nat) (f : Wave → Wave) : (s.updWave k f).launches = s.launches := by unfold State.updWave; split <;> rfl
@[simp] theorem State.updWave_ops (s : State) (k : Nat) (f : Wave → Wave) : (s.updWave k f).ops = s.ops := by unfold State.updWave; split <;> rfl
@[simp] theorem State.updWave_walks (s : State) (k : Nat) (f : Wave → Wave) : (s.updWave k f).walks = s.walks := by unfold State.updWave; split <;> rfl
@[simp] theorem State.updWave_pins (s : State) (k : Nat) (f : Wave → Wave) : (s.updWave k f).pins = s.pins := by unfold State.updWave; split <;> rfl
@[simp] theorem State.updWave_banks (s : State) (k : Nat) (f : Wave → Wave) : (s.updWave k f).banks = s.banks := by unfold State.updWave; split <;> rfl
@[simp] theorem State.updWave_l2 (s : State) (k : Nat) (f : Wave → Wave) : (s.updWave k f).l2 = s.l2 := by unfold State.updWave; split <;> rfl
@[simp] theorem State.updWave_backs (s : State) (k : Nat) (f : Wave → Wave) : (s.updWave k f).backs = s.backs := by unfold State.updWave; split <;> rfl
@[simp] theorem State.updWave_fills (s : State) (k : Nat) (f : Wave → Wave) : (s.updWave k f).fills = s.fills := by unfold State.updWave; split <;> rfl
@[simp] theorem State.updWave_posted (s : State) (k : Nat) (f : Wave → Wave) : (s.updWave k f).posted = s.posted := by unfold State.updWave; split <;> rfl
@[simp] theorem State.updWave_prefetches (s : State) (k : Nat) (f : Wave → Wave) : (s.updWave k f).prefetches = s.prefetches := by unfold State.updWave; split <;> rfl
@[simp] theorem State.updWave_sched (s : State) (k : Nat) (f : Wave → Wave) : (s.updWave k f).sched = s.sched := by unfold State.updWave; split <;> rfl
@[simp] theorem State.updWave_pkg (s : State) (k : Nat) (f : Wave → Wave) : (s.updWave k f).pkg = s.pkg := by unfold State.updWave; split <;> rfl
@[simp] theorem State.updWave_meshes (s : State) (k : Nat) (f : Wave → Wave) : (s.updWave k f).meshes = s.meshes := by unfold State.updWave; split <;> rfl
@[simp] theorem State.updWave_prims (s : State) (k : Nat) (f : Wave → Wave) : (s.updWave k f).prims = s.prims := by unfold State.updWave; split <;> rfl
@[simp] theorem State.updWave_marks (s : State) (k : Nat) (f : Wave → Wave) : (s.updWave k f).marks = s.marks := by unfold State.updWave; split <;> rfl
@[simp] theorem State.updWave_sentMarks (s : State) (k : Nat) (f : Wave → Wave) : (s.updWave k f).sentMarks = s.sentMarks := by unfold State.updWave; split <;> rfl
@[simp] theorem State.updWave_frags (s : State) (k : Nat) (f : Wave → Wave) : (s.updWave k f).frags = s.frags := by unfold State.updWave; split <;> rfl
@[simp] theorem State.updWave_joinDecs (s : State) (k : Nat) (f : Wave → Wave) : (s.updWave k f).joinDecs = s.joinDecs := by unfold State.updWave; split <;> rfl
@[simp] theorem State.updWave_cur (s : State) (k : Nat) (f : Wave → Wave) : (s.updWave k f).cur = s.cur := by unfold State.updWave; split <;> rfl
@[simp] theorem State.updWave_agenda (s : State) (k : Nat) (f : Wave → Wave) : (s.updWave k f).agenda = s.agenda := by unfold State.updWave; split <;> rfl
@[simp] theorem State.updWave_cyclePhase (s : State) (k : Nat) (f : Wave → Wave) : (s.updWave k f).cyclePhase = s.cyclePhase := by unfold State.updWave; split <;> rfl
@[simp] theorem State.updWave_inputs (s : State) (k : Nat) (f : Wave → Wave) : (s.updWave k f).inputs = s.inputs := by unfold State.updWave; split <;> rfl
@[simp] theorem State.updWave_nextId (s : State) (k : Nat) (f : Wave → Wave) : (s.updWave k f).nextId = s.nextId := by unfold State.updWave; split <;> rfl
@[simp] theorem State.updWave_freeCount (s : State) (k : Nat) (f : Wave → Wave) : (s.updWave k f).freeCount = s.freeCount := by unfold State.updWave; split <;> rfl

/-! ### `State.updGroup` -/

@[simp] theorem State.updGroup_dcc (s : State) (g : Nat) (f : Group → Group) : (s.updGroup g f).dcc = s.dcc := by unfold State.updGroup; split <;> rfl
@[simp] theorem State.updGroup_mem (s : State) (g : Nat) (f : Group → Group) : (s.updGroup g f).mem = s.mem := by unfold State.updGroup; split <;> rfl
@[simp] theorem State.updGroup_scratch (s : State) (g : Nat) (f : Group → Group) : (s.updGroup g f).scratch = s.scratch := by unfold State.updGroup; split <;> rfl
@[simp] theorem State.updGroup_acc (s : State) (g : Nat) (f : Group → Group) : (s.updGroup g f).acc = s.acc := by unfold State.updGroup; split <;> rfl
@[simp] theorem State.updGroup_cores (s : State) (g : Nat) (f : Group → Group) : (s.updGroup g f).cores = s.cores := by unfold State.updGroup; split <;> rfl
@[simp] theorem State.updGroup_clusters (s : State) (g : Nat) (f : Group → Group) : (s.updGroup g f).clusters = s.clusters := by unfold State.updGroup; split <;> rfl
@[simp] theorem State.updGroup_dies (s : State) (g : Nat) (f : Group → Group) : (s.updGroup g f).dies = s.dies := by unfold State.updGroup; split <;> rfl
@[simp] theorem State.updGroup_waves (s : State) (g : Nat) (f : Group → Group) : (s.updGroup g f).waves = s.waves := by unfold State.updGroup; split <;> rfl
@[simp] theorem State.updGroup_launches (s : State) (g : Nat) (f : Group → Group) : (s.updGroup g f).launches = s.launches := by unfold State.updGroup; split <;> rfl
@[simp] theorem State.updGroup_ops (s : State) (g : Nat) (f : Group → Group) : (s.updGroup g f).ops = s.ops := by unfold State.updGroup; split <;> rfl
@[simp] theorem State.updGroup_walks (s : State) (g : Nat) (f : Group → Group) : (s.updGroup g f).walks = s.walks := by unfold State.updGroup; split <;> rfl
@[simp] theorem State.updGroup_pins (s : State) (g : Nat) (f : Group → Group) : (s.updGroup g f).pins = s.pins := by unfold State.updGroup; split <;> rfl
@[simp] theorem State.updGroup_banks (s : State) (g : Nat) (f : Group → Group) : (s.updGroup g f).banks = s.banks := by unfold State.updGroup; split <;> rfl
@[simp] theorem State.updGroup_l2 (s : State) (g : Nat) (f : Group → Group) : (s.updGroup g f).l2 = s.l2 := by unfold State.updGroup; split <;> rfl
@[simp] theorem State.updGroup_backs (s : State) (g : Nat) (f : Group → Group) : (s.updGroup g f).backs = s.backs := by unfold State.updGroup; split <;> rfl
@[simp] theorem State.updGroup_fills (s : State) (g : Nat) (f : Group → Group) : (s.updGroup g f).fills = s.fills := by unfold State.updGroup; split <;> rfl
@[simp] theorem State.updGroup_posted (s : State) (g : Nat) (f : Group → Group) : (s.updGroup g f).posted = s.posted := by unfold State.updGroup; split <;> rfl
@[simp] theorem State.updGroup_prefetches (s : State) (g : Nat) (f : Group → Group) : (s.updGroup g f).prefetches = s.prefetches := by unfold State.updGroup; split <;> rfl
@[simp] theorem State.updGroup_sched (s : State) (g : Nat) (f : Group → Group) : (s.updGroup g f).sched = s.sched := by unfold State.updGroup; split <;> rfl
@[simp] theorem State.updGroup_pkg (s : State) (g : Nat) (f : Group → Group) : (s.updGroup g f).pkg = s.pkg := by unfold State.updGroup; split <;> rfl
@[simp] theorem State.updGroup_meshes (s : State) (g : Nat) (f : Group → Group) : (s.updGroup g f).meshes = s.meshes := by unfold State.updGroup; split <;> rfl
@[simp] theorem State.updGroup_prims (s : State) (g : Nat) (f : Group → Group) : (s.updGroup g f).prims = s.prims := by unfold State.updGroup; split <;> rfl
@[simp] theorem State.updGroup_marks (s : State) (g : Nat) (f : Group → Group) : (s.updGroup g f).marks = s.marks := by unfold State.updGroup; split <;> rfl
@[simp] theorem State.updGroup_sentMarks (s : State) (g : Nat) (f : Group → Group) : (s.updGroup g f).sentMarks = s.sentMarks := by unfold State.updGroup; split <;> rfl
@[simp] theorem State.updGroup_frags (s : State) (g : Nat) (f : Group → Group) : (s.updGroup g f).frags = s.frags := by unfold State.updGroup; split <;> rfl
@[simp] theorem State.updGroup_joinDecs (s : State) (g : Nat) (f : Group → Group) : (s.updGroup g f).joinDecs = s.joinDecs := by unfold State.updGroup; split <;> rfl
@[simp] theorem State.updGroup_cur (s : State) (g : Nat) (f : Group → Group) : (s.updGroup g f).cur = s.cur := by unfold State.updGroup; split <;> rfl
@[simp] theorem State.updGroup_agenda (s : State) (g : Nat) (f : Group → Group) : (s.updGroup g f).agenda = s.agenda := by unfold State.updGroup; split <;> rfl
@[simp] theorem State.updGroup_cyclePhase (s : State) (g : Nat) (f : Group → Group) : (s.updGroup g f).cyclePhase = s.cyclePhase := by unfold State.updGroup; split <;> rfl
@[simp] theorem State.updGroup_inputs (s : State) (g : Nat) (f : Group → Group) : (s.updGroup g f).inputs = s.inputs := by unfold State.updGroup; split <;> rfl
@[simp] theorem State.updGroup_nextId (s : State) (g : Nat) (f : Group → Group) : (s.updGroup g f).nextId = s.nextId := by unfold State.updGroup; split <;> rfl
@[simp] theorem State.updGroup_freeCount (s : State) (g : Nat) (f : Group → Group) : (s.updGroup g f).freeCount = s.freeCount := by unfold State.updGroup; split <;> rfl

/-! ### `State.updLaunch` -/

@[simp] theorem State.updLaunch_dcc (s : State) (l : Nat) (f : Launch → Launch) : (s.updLaunch l f).dcc = s.dcc := by unfold State.updLaunch; split <;> rfl
@[simp] theorem State.updLaunch_mem (s : State) (l : Nat) (f : Launch → Launch) : (s.updLaunch l f).mem = s.mem := by unfold State.updLaunch; split <;> rfl
@[simp] theorem State.updLaunch_scratch (s : State) (l : Nat) (f : Launch → Launch) : (s.updLaunch l f).scratch = s.scratch := by unfold State.updLaunch; split <;> rfl
@[simp] theorem State.updLaunch_acc (s : State) (l : Nat) (f : Launch → Launch) : (s.updLaunch l f).acc = s.acc := by unfold State.updLaunch; split <;> rfl
@[simp] theorem State.updLaunch_cores (s : State) (l : Nat) (f : Launch → Launch) : (s.updLaunch l f).cores = s.cores := by unfold State.updLaunch; split <;> rfl
@[simp] theorem State.updLaunch_clusters (s : State) (l : Nat) (f : Launch → Launch) : (s.updLaunch l f).clusters = s.clusters := by unfold State.updLaunch; split <;> rfl
@[simp] theorem State.updLaunch_dies (s : State) (l : Nat) (f : Launch → Launch) : (s.updLaunch l f).dies = s.dies := by unfold State.updLaunch; split <;> rfl
@[simp] theorem State.updLaunch_waves (s : State) (l : Nat) (f : Launch → Launch) : (s.updLaunch l f).waves = s.waves := by unfold State.updLaunch; split <;> rfl
@[simp] theorem State.updLaunch_groups (s : State) (l : Nat) (f : Launch → Launch) : (s.updLaunch l f).groups = s.groups := by unfold State.updLaunch; split <;> rfl
@[simp] theorem State.updLaunch_ops (s : State) (l : Nat) (f : Launch → Launch) : (s.updLaunch l f).ops = s.ops := by unfold State.updLaunch; split <;> rfl
@[simp] theorem State.updLaunch_walks (s : State) (l : Nat) (f : Launch → Launch) : (s.updLaunch l f).walks = s.walks := by unfold State.updLaunch; split <;> rfl
@[simp] theorem State.updLaunch_pins (s : State) (l : Nat) (f : Launch → Launch) : (s.updLaunch l f).pins = s.pins := by unfold State.updLaunch; split <;> rfl
@[simp] theorem State.updLaunch_banks (s : State) (l : Nat) (f : Launch → Launch) : (s.updLaunch l f).banks = s.banks := by unfold State.updLaunch; split <;> rfl
@[simp] theorem State.updLaunch_l2 (s : State) (l : Nat) (f : Launch → Launch) : (s.updLaunch l f).l2 = s.l2 := by unfold State.updLaunch; split <;> rfl
@[simp] theorem State.updLaunch_backs (s : State) (l : Nat) (f : Launch → Launch) : (s.updLaunch l f).backs = s.backs := by unfold State.updLaunch; split <;> rfl
@[simp] theorem State.updLaunch_fills (s : State) (l : Nat) (f : Launch → Launch) : (s.updLaunch l f).fills = s.fills := by unfold State.updLaunch; split <;> rfl
@[simp] theorem State.updLaunch_posted (s : State) (l : Nat) (f : Launch → Launch) : (s.updLaunch l f).posted = s.posted := by unfold State.updLaunch; split <;> rfl
@[simp] theorem State.updLaunch_prefetches (s : State) (l : Nat) (f : Launch → Launch) : (s.updLaunch l f).prefetches = s.prefetches := by unfold State.updLaunch; split <;> rfl
@[simp] theorem State.updLaunch_sched (s : State) (l : Nat) (f : Launch → Launch) : (s.updLaunch l f).sched = s.sched := by unfold State.updLaunch; split <;> rfl
@[simp] theorem State.updLaunch_pkg (s : State) (l : Nat) (f : Launch → Launch) : (s.updLaunch l f).pkg = s.pkg := by unfold State.updLaunch; split <;> rfl
@[simp] theorem State.updLaunch_meshes (s : State) (l : Nat) (f : Launch → Launch) : (s.updLaunch l f).meshes = s.meshes := by unfold State.updLaunch; split <;> rfl
@[simp] theorem State.updLaunch_prims (s : State) (l : Nat) (f : Launch → Launch) : (s.updLaunch l f).prims = s.prims := by unfold State.updLaunch; split <;> rfl
@[simp] theorem State.updLaunch_marks (s : State) (l : Nat) (f : Launch → Launch) : (s.updLaunch l f).marks = s.marks := by unfold State.updLaunch; split <;> rfl
@[simp] theorem State.updLaunch_sentMarks (s : State) (l : Nat) (f : Launch → Launch) : (s.updLaunch l f).sentMarks = s.sentMarks := by unfold State.updLaunch; split <;> rfl
@[simp] theorem State.updLaunch_frags (s : State) (l : Nat) (f : Launch → Launch) : (s.updLaunch l f).frags = s.frags := by unfold State.updLaunch; split <;> rfl
@[simp] theorem State.updLaunch_joinDecs (s : State) (l : Nat) (f : Launch → Launch) : (s.updLaunch l f).joinDecs = s.joinDecs := by unfold State.updLaunch; split <;> rfl
@[simp] theorem State.updLaunch_cur (s : State) (l : Nat) (f : Launch → Launch) : (s.updLaunch l f).cur = s.cur := by unfold State.updLaunch; split <;> rfl
@[simp] theorem State.updLaunch_agenda (s : State) (l : Nat) (f : Launch → Launch) : (s.updLaunch l f).agenda = s.agenda := by unfold State.updLaunch; split <;> rfl
@[simp] theorem State.updLaunch_cyclePhase (s : State) (l : Nat) (f : Launch → Launch) : (s.updLaunch l f).cyclePhase = s.cyclePhase := by unfold State.updLaunch; split <;> rfl
@[simp] theorem State.updLaunch_inputs (s : State) (l : Nat) (f : Launch → Launch) : (s.updLaunch l f).inputs = s.inputs := by unfold State.updLaunch; split <;> rfl
@[simp] theorem State.updLaunch_nextId (s : State) (l : Nat) (f : Launch → Launch) : (s.updLaunch l f).nextId = s.nextId := by unfold State.updLaunch; split <;> rfl
@[simp] theorem State.updLaunch_freeCount (s : State) (l : Nat) (f : Launch → Launch) : (s.updLaunch l f).freeCount = s.freeCount := by unfold State.updLaunch; split <;> rfl

/-! ### `State.updOp` -/

@[simp] theorem State.updOp_dcc (s : State) (id : Nat) (f : MemOp → MemOp) : (s.updOp id f).dcc = s.dcc := rfl
@[simp] theorem State.updOp_mem (s : State) (id : Nat) (f : MemOp → MemOp) : (s.updOp id f).mem = s.mem := rfl
@[simp] theorem State.updOp_scratch (s : State) (id : Nat) (f : MemOp → MemOp) : (s.updOp id f).scratch = s.scratch := rfl
@[simp] theorem State.updOp_acc (s : State) (id : Nat) (f : MemOp → MemOp) : (s.updOp id f).acc = s.acc := rfl
@[simp] theorem State.updOp_cores (s : State) (id : Nat) (f : MemOp → MemOp) : (s.updOp id f).cores = s.cores := rfl
@[simp] theorem State.updOp_clusters (s : State) (id : Nat) (f : MemOp → MemOp) : (s.updOp id f).clusters = s.clusters := rfl
@[simp] theorem State.updOp_dies (s : State) (id : Nat) (f : MemOp → MemOp) : (s.updOp id f).dies = s.dies := rfl
@[simp] theorem State.updOp_waves (s : State) (id : Nat) (f : MemOp → MemOp) : (s.updOp id f).waves = s.waves := rfl
@[simp] theorem State.updOp_groups (s : State) (id : Nat) (f : MemOp → MemOp) : (s.updOp id f).groups = s.groups := rfl
@[simp] theorem State.updOp_launches (s : State) (id : Nat) (f : MemOp → MemOp) : (s.updOp id f).launches = s.launches := rfl
@[simp] theorem State.updOp_walks (s : State) (id : Nat) (f : MemOp → MemOp) : (s.updOp id f).walks = s.walks := rfl
@[simp] theorem State.updOp_pins (s : State) (id : Nat) (f : MemOp → MemOp) : (s.updOp id f).pins = s.pins := rfl
@[simp] theorem State.updOp_banks (s : State) (id : Nat) (f : MemOp → MemOp) : (s.updOp id f).banks = s.banks := rfl
@[simp] theorem State.updOp_l2 (s : State) (id : Nat) (f : MemOp → MemOp) : (s.updOp id f).l2 = s.l2 := rfl
@[simp] theorem State.updOp_backs (s : State) (id : Nat) (f : MemOp → MemOp) : (s.updOp id f).backs = s.backs := rfl
@[simp] theorem State.updOp_fills (s : State) (id : Nat) (f : MemOp → MemOp) : (s.updOp id f).fills = s.fills := rfl
@[simp] theorem State.updOp_posted (s : State) (id : Nat) (f : MemOp → MemOp) : (s.updOp id f).posted = s.posted := rfl
@[simp] theorem State.updOp_prefetches (s : State) (id : Nat) (f : MemOp → MemOp) : (s.updOp id f).prefetches = s.prefetches := rfl
@[simp] theorem State.updOp_sched (s : State) (id : Nat) (f : MemOp → MemOp) : (s.updOp id f).sched = s.sched := rfl
@[simp] theorem State.updOp_pkg (s : State) (id : Nat) (f : MemOp → MemOp) : (s.updOp id f).pkg = s.pkg := rfl
@[simp] theorem State.updOp_meshes (s : State) (id : Nat) (f : MemOp → MemOp) : (s.updOp id f).meshes = s.meshes := rfl
@[simp] theorem State.updOp_prims (s : State) (id : Nat) (f : MemOp → MemOp) : (s.updOp id f).prims = s.prims := rfl
@[simp] theorem State.updOp_marks (s : State) (id : Nat) (f : MemOp → MemOp) : (s.updOp id f).marks = s.marks := rfl
@[simp] theorem State.updOp_sentMarks (s : State) (id : Nat) (f : MemOp → MemOp) : (s.updOp id f).sentMarks = s.sentMarks := rfl
@[simp] theorem State.updOp_frags (s : State) (id : Nat) (f : MemOp → MemOp) : (s.updOp id f).frags = s.frags := rfl
@[simp] theorem State.updOp_joinDecs (s : State) (id : Nat) (f : MemOp → MemOp) : (s.updOp id f).joinDecs = s.joinDecs := rfl
@[simp] theorem State.updOp_cur (s : State) (id : Nat) (f : MemOp → MemOp) : (s.updOp id f).cur = s.cur := rfl
@[simp] theorem State.updOp_agenda (s : State) (id : Nat) (f : MemOp → MemOp) : (s.updOp id f).agenda = s.agenda := rfl
@[simp] theorem State.updOp_cyclePhase (s : State) (id : Nat) (f : MemOp → MemOp) : (s.updOp id f).cyclePhase = s.cyclePhase := rfl
@[simp] theorem State.updOp_inputs (s : State) (id : Nat) (f : MemOp → MemOp) : (s.updOp id f).inputs = s.inputs := rfl
@[simp] theorem State.updOp_nextId (s : State) (id : Nat) (f : MemOp → MemOp) : (s.updOp id f).nextId = s.nextId := rfl
@[simp] theorem State.updOp_freeCount (s : State) (id : Nat) (f : MemOp → MemOp) : (s.updOp id f).freeCount = s.freeCount := rfl

/-! ### `State.dropOp` -/

@[simp] theorem State.dropOp_dcc (s : State) (id : Nat) : (s.dropOp id).dcc = s.dcc := rfl
@[simp] theorem State.dropOp_mem (s : State) (id : Nat) : (s.dropOp id).mem = s.mem := rfl
@[simp] theorem State.dropOp_scratch (s : State) (id : Nat) : (s.dropOp id).scratch = s.scratch := rfl
@[simp] theorem State.dropOp_acc (s : State) (id : Nat) : (s.dropOp id).acc = s.acc := rfl
@[simp] theorem State.dropOp_cores (s : State) (id : Nat) : (s.dropOp id).cores = s.cores := rfl
@[simp] theorem State.dropOp_clusters (s : State) (id : Nat) : (s.dropOp id).clusters = s.clusters := rfl
@[simp] theorem State.dropOp_dies (s : State) (id : Nat) : (s.dropOp id).dies = s.dies := rfl
@[simp] theorem State.dropOp_waves (s : State) (id : Nat) : (s.dropOp id).waves = s.waves := rfl
@[simp] theorem State.dropOp_groups (s : State) (id : Nat) : (s.dropOp id).groups = s.groups := rfl
@[simp] theorem State.dropOp_launches (s : State) (id : Nat) : (s.dropOp id).launches = s.launches := rfl
@[simp] theorem State.dropOp_walks (s : State) (id : Nat) : (s.dropOp id).walks = s.walks := rfl
@[simp] theorem State.dropOp_pins (s : State) (id : Nat) : (s.dropOp id).pins = s.pins := rfl
@[simp] theorem State.dropOp_banks (s : State) (id : Nat) : (s.dropOp id).banks = s.banks := rfl
@[simp] theorem State.dropOp_l2 (s : State) (id : Nat) : (s.dropOp id).l2 = s.l2 := rfl
@[simp] theorem State.dropOp_backs (s : State) (id : Nat) : (s.dropOp id).backs = s.backs := rfl
@[simp] theorem State.dropOp_fills (s : State) (id : Nat) : (s.dropOp id).fills = s.fills := rfl
@[simp] theorem State.dropOp_posted (s : State) (id : Nat) : (s.dropOp id).posted = s.posted := rfl
@[simp] theorem State.dropOp_prefetches (s : State) (id : Nat) : (s.dropOp id).prefetches = s.prefetches := rfl
@[simp] theorem State.dropOp_sched (s : State) (id : Nat) : (s.dropOp id).sched = s.sched := rfl
@[simp] theorem State.dropOp_pkg (s : State) (id : Nat) : (s.dropOp id).pkg = s.pkg := rfl
@[simp] theorem State.dropOp_meshes (s : State) (id : Nat) : (s.dropOp id).meshes = s.meshes := rfl
@[simp] theorem State.dropOp_prims (s : State) (id : Nat) : (s.dropOp id).prims = s.prims := rfl
@[simp] theorem State.dropOp_marks (s : State) (id : Nat) : (s.dropOp id).marks = s.marks := rfl
@[simp] theorem State.dropOp_sentMarks (s : State) (id : Nat) : (s.dropOp id).sentMarks = s.sentMarks := rfl
@[simp] theorem State.dropOp_frags (s : State) (id : Nat) : (s.dropOp id).frags = s.frags := rfl
@[simp] theorem State.dropOp_joinDecs (s : State) (id : Nat) : (s.dropOp id).joinDecs = s.joinDecs := rfl
@[simp] theorem State.dropOp_cur (s : State) (id : Nat) : (s.dropOp id).cur = s.cur := rfl
@[simp] theorem State.dropOp_agenda (s : State) (id : Nat) : (s.dropOp id).agenda = s.agenda := rfl
@[simp] theorem State.dropOp_cyclePhase (s : State) (id : Nat) : (s.dropOp id).cyclePhase = s.cyclePhase := rfl
@[simp] theorem State.dropOp_inputs (s : State) (id : Nat) : (s.dropOp id).inputs = s.inputs := rfl
@[simp] theorem State.dropOp_nextId (s : State) (id : Nat) : (s.dropOp id).nextId = s.nextId := rfl
@[simp] theorem State.dropOp_freeCount (s : State) (id : Nat) : (s.dropOp id).freeCount = s.freeCount := rfl

/-! ### `State.updPkg` -/

@[simp] theorem State.updPkg_dcc (s : State) (f : Package → Package) : (s.updPkg f).dcc = s.dcc := rfl
@[simp] theorem State.updPkg_mem (s : State) (f : Package → Package) : (s.updPkg f).mem = s.mem := rfl
@[simp] theorem State.updPkg_scratch (s : State) (f : Package → Package) : (s.updPkg f).scratch = s.scratch := rfl
@[simp] theorem State.updPkg_acc (s : State) (f : Package → Package) : (s.updPkg f).acc = s.acc := rfl
@[simp] theorem State.updPkg_cores (s : State) (f : Package → Package) : (s.updPkg f).cores = s.cores := rfl
@[simp] theorem State.updPkg_clusters (s : State) (f : Package → Package) : (s.updPkg f).clusters = s.clusters := rfl
@[simp] theorem State.updPkg_dies (s : State) (f : Package → Package) : (s.updPkg f).dies = s.dies := rfl
@[simp] theorem State.updPkg_waves (s : State) (f : Package → Package) : (s.updPkg f).waves = s.waves := rfl
@[simp] theorem State.updPkg_groups (s : State) (f : Package → Package) : (s.updPkg f).groups = s.groups := rfl
@[simp] theorem State.updPkg_launches (s : State) (f : Package → Package) : (s.updPkg f).launches = s.launches := rfl
@[simp] theorem State.updPkg_ops (s : State) (f : Package → Package) : (s.updPkg f).ops = s.ops := rfl
@[simp] theorem State.updPkg_walks (s : State) (f : Package → Package) : (s.updPkg f).walks = s.walks := rfl
@[simp] theorem State.updPkg_pins (s : State) (f : Package → Package) : (s.updPkg f).pins = s.pins := rfl
@[simp] theorem State.updPkg_banks (s : State) (f : Package → Package) : (s.updPkg f).banks = s.banks := rfl
@[simp] theorem State.updPkg_l2 (s : State) (f : Package → Package) : (s.updPkg f).l2 = s.l2 := rfl
@[simp] theorem State.updPkg_backs (s : State) (f : Package → Package) : (s.updPkg f).backs = s.backs := rfl
@[simp] theorem State.updPkg_fills (s : State) (f : Package → Package) : (s.updPkg f).fills = s.fills := rfl
@[simp] theorem State.updPkg_posted (s : State) (f : Package → Package) : (s.updPkg f).posted = s.posted := rfl
@[simp] theorem State.updPkg_prefetches (s : State) (f : Package → Package) : (s.updPkg f).prefetches = s.prefetches := rfl
@[simp] theorem State.updPkg_sched (s : State) (f : Package → Package) : (s.updPkg f).sched = s.sched := rfl
@[simp] theorem State.updPkg_meshes (s : State) (f : Package → Package) : (s.updPkg f).meshes = s.meshes := rfl
@[simp] theorem State.updPkg_prims (s : State) (f : Package → Package) : (s.updPkg f).prims = s.prims := rfl
@[simp] theorem State.updPkg_marks (s : State) (f : Package → Package) : (s.updPkg f).marks = s.marks := rfl
@[simp] theorem State.updPkg_sentMarks (s : State) (f : Package → Package) : (s.updPkg f).sentMarks = s.sentMarks := rfl
@[simp] theorem State.updPkg_frags (s : State) (f : Package → Package) : (s.updPkg f).frags = s.frags := rfl
@[simp] theorem State.updPkg_joinDecs (s : State) (f : Package → Package) : (s.updPkg f).joinDecs = s.joinDecs := rfl
@[simp] theorem State.updPkg_cur (s : State) (f : Package → Package) : (s.updPkg f).cur = s.cur := rfl
@[simp] theorem State.updPkg_agenda (s : State) (f : Package → Package) : (s.updPkg f).agenda = s.agenda := rfl
@[simp] theorem State.updPkg_cyclePhase (s : State) (f : Package → Package) : (s.updPkg f).cyclePhase = s.cyclePhase := rfl
@[simp] theorem State.updPkg_inputs (s : State) (f : Package → Package) : (s.updPkg f).inputs = s.inputs := rfl
@[simp] theorem State.updPkg_nextId (s : State) (f : Package → Package) : (s.updPkg f).nextId = s.nextId := rfl
@[simp] theorem State.updPkg_freeCount (s : State) (f : Package → Package) : (s.updPkg f).freeCount = s.freeCount := rfl

/-! ### `State.updPart` -/

@[simp] theorem State.updPart_dcc (s : State) (r : PartRef) (f : Part → Part) : (s.updPart r f).dcc = s.dcc := by simp [State.updPart]
@[simp] theorem State.updPart_mem (s : State) (r : PartRef) (f : Part → Part) : (s.updPart r f).mem = s.mem := by simp [State.updPart]
@[simp] theorem State.updPart_scratch (s : State) (r : PartRef) (f : Part → Part) : (s.updPart r f).scratch = s.scratch := by simp [State.updPart]
@[simp] theorem State.updPart_acc (s : State) (r : PartRef) (f : Part → Part) : (s.updPart r f).acc = s.acc := by simp [State.updPart]
@[simp] theorem State.updPart_cores (s : State) (r : PartRef) (f : Part → Part) : (s.updPart r f).cores = s.cores := by simp [State.updPart]
@[simp] theorem State.updPart_clusters (s : State) (r : PartRef) (f : Part → Part) : (s.updPart r f).clusters = s.clusters := by simp [State.updPart]
@[simp] theorem State.updPart_dies (s : State) (r : PartRef) (f : Part → Part) : (s.updPart r f).dies = s.dies := by simp [State.updPart]
@[simp] theorem State.updPart_groups (s : State) (r : PartRef) (f : Part → Part) : (s.updPart r f).groups = s.groups := by simp [State.updPart]
@[simp] theorem State.updPart_launches (s : State) (r : PartRef) (f : Part → Part) : (s.updPart r f).launches = s.launches := by simp [State.updPart]
@[simp] theorem State.updPart_ops (s : State) (r : PartRef) (f : Part → Part) : (s.updPart r f).ops = s.ops := by simp [State.updPart]
@[simp] theorem State.updPart_walks (s : State) (r : PartRef) (f : Part → Part) : (s.updPart r f).walks = s.walks := by simp [State.updPart]
@[simp] theorem State.updPart_pins (s : State) (r : PartRef) (f : Part → Part) : (s.updPart r f).pins = s.pins := by simp [State.updPart]
@[simp] theorem State.updPart_banks (s : State) (r : PartRef) (f : Part → Part) : (s.updPart r f).banks = s.banks := by simp [State.updPart]
@[simp] theorem State.updPart_l2 (s : State) (r : PartRef) (f : Part → Part) : (s.updPart r f).l2 = s.l2 := by simp [State.updPart]
@[simp] theorem State.updPart_backs (s : State) (r : PartRef) (f : Part → Part) : (s.updPart r f).backs = s.backs := by simp [State.updPart]
@[simp] theorem State.updPart_fills (s : State) (r : PartRef) (f : Part → Part) : (s.updPart r f).fills = s.fills := by simp [State.updPart]
@[simp] theorem State.updPart_posted (s : State) (r : PartRef) (f : Part → Part) : (s.updPart r f).posted = s.posted := by simp [State.updPart]
@[simp] theorem State.updPart_prefetches (s : State) (r : PartRef) (f : Part → Part) : (s.updPart r f).prefetches = s.prefetches := by simp [State.updPart]
@[simp] theorem State.updPart_sched (s : State) (r : PartRef) (f : Part → Part) : (s.updPart r f).sched = s.sched := by simp [State.updPart]
@[simp] theorem State.updPart_pkg (s : State) (r : PartRef) (f : Part → Part) : (s.updPart r f).pkg = s.pkg := by simp [State.updPart]
@[simp] theorem State.updPart_meshes (s : State) (r : PartRef) (f : Part → Part) : (s.updPart r f).meshes = s.meshes := by simp [State.updPart]
@[simp] theorem State.updPart_prims (s : State) (r : PartRef) (f : Part → Part) : (s.updPart r f).prims = s.prims := by simp [State.updPart]
@[simp] theorem State.updPart_marks (s : State) (r : PartRef) (f : Part → Part) : (s.updPart r f).marks = s.marks := by simp [State.updPart]
@[simp] theorem State.updPart_sentMarks (s : State) (r : PartRef) (f : Part → Part) : (s.updPart r f).sentMarks = s.sentMarks := by simp [State.updPart]
@[simp] theorem State.updPart_frags (s : State) (r : PartRef) (f : Part → Part) : (s.updPart r f).frags = s.frags := by simp [State.updPart]
@[simp] theorem State.updPart_joinDecs (s : State) (r : PartRef) (f : Part → Part) : (s.updPart r f).joinDecs = s.joinDecs := by simp [State.updPart]
@[simp] theorem State.updPart_cur (s : State) (r : PartRef) (f : Part → Part) : (s.updPart r f).cur = s.cur := by simp [State.updPart]
@[simp] theorem State.updPart_agenda (s : State) (r : PartRef) (f : Part → Part) : (s.updPart r f).agenda = s.agenda := by simp [State.updPart]
@[simp] theorem State.updPart_cyclePhase (s : State) (r : PartRef) (f : Part → Part) : (s.updPart r f).cyclePhase = s.cyclePhase := by simp [State.updPart]
@[simp] theorem State.updPart_inputs (s : State) (r : PartRef) (f : Part → Part) : (s.updPart r f).inputs = s.inputs := by simp [State.updPart]
@[simp] theorem State.updPart_nextId (s : State) (r : PartRef) (f : Part → Part) : (s.updPart r f).nextId = s.nextId := by simp [State.updPart]
@[simp] theorem State.updPart_freeCount (s : State) (r : PartRef) (f : Part → Part) : (s.updPart r f).freeCount = s.freeCount := by simp [State.updPart]

/-! ### `State.putV` -/

@[simp] theorem State.putV_dcc (s : State) (c : Ctx) (ws : List (Nat × Nat × W32)) : (s.putV c ws).dcc = s.dcc := by simp [State.putV]
@[simp] theorem State.putV_mem (s : State) (c : Ctx) (ws : List (Nat × Nat × W32)) : (s.putV c ws).mem = s.mem := by simp [State.putV]
@[simp] theorem State.putV_scratch (s : State) (c : Ctx) (ws : List (Nat × Nat × W32)) : (s.putV c ws).scratch = s.scratch := by simp [State.putV]
@[simp] theorem State.putV_acc (s : State) (c : Ctx) (ws : List (Nat × Nat × W32)) : (s.putV c ws).acc = s.acc := by simp [State.putV]
@[simp] theorem State.putV_cores (s : State) (c : Ctx) (ws : List (Nat × Nat × W32)) : (s.putV c ws).cores = s.cores := by simp [State.putV]
@[simp] theorem State.putV_clusters (s : State) (c : Ctx) (ws : List (Nat × Nat × W32)) : (s.putV c ws).clusters = s.clusters := by simp [State.putV]
@[simp] theorem State.putV_dies (s : State) (c : Ctx) (ws : List (Nat × Nat × W32)) : (s.putV c ws).dies = s.dies := by simp [State.putV]
@[simp] theorem State.putV_groups (s : State) (c : Ctx) (ws : List (Nat × Nat × W32)) : (s.putV c ws).groups = s.groups := by simp [State.putV]
@[simp] theorem State.putV_launches (s : State) (c : Ctx) (ws : List (Nat × Nat × W32)) : (s.putV c ws).launches = s.launches := by simp [State.putV]
@[simp] theorem State.putV_ops (s : State) (c : Ctx) (ws : List (Nat × Nat × W32)) : (s.putV c ws).ops = s.ops := by simp [State.putV]
@[simp] theorem State.putV_walks (s : State) (c : Ctx) (ws : List (Nat × Nat × W32)) : (s.putV c ws).walks = s.walks := by simp [State.putV]
@[simp] theorem State.putV_pins (s : State) (c : Ctx) (ws : List (Nat × Nat × W32)) : (s.putV c ws).pins = s.pins := by simp [State.putV]
@[simp] theorem State.putV_banks (s : State) (c : Ctx) (ws : List (Nat × Nat × W32)) : (s.putV c ws).banks = s.banks := by simp [State.putV]
@[simp] theorem State.putV_l2 (s : State) (c : Ctx) (ws : List (Nat × Nat × W32)) : (s.putV c ws).l2 = s.l2 := by simp [State.putV]
@[simp] theorem State.putV_backs (s : State) (c : Ctx) (ws : List (Nat × Nat × W32)) : (s.putV c ws).backs = s.backs := by simp [State.putV]
@[simp] theorem State.putV_fills (s : State) (c : Ctx) (ws : List (Nat × Nat × W32)) : (s.putV c ws).fills = s.fills := by simp [State.putV]
@[simp] theorem State.putV_posted (s : State) (c : Ctx) (ws : List (Nat × Nat × W32)) : (s.putV c ws).posted = s.posted := by simp [State.putV]
@[simp] theorem State.putV_prefetches (s : State) (c : Ctx) (ws : List (Nat × Nat × W32)) : (s.putV c ws).prefetches = s.prefetches := by simp [State.putV]
@[simp] theorem State.putV_sched (s : State) (c : Ctx) (ws : List (Nat × Nat × W32)) : (s.putV c ws).sched = s.sched := by simp [State.putV]
@[simp] theorem State.putV_pkg (s : State) (c : Ctx) (ws : List (Nat × Nat × W32)) : (s.putV c ws).pkg = s.pkg := by simp [State.putV]
@[simp] theorem State.putV_meshes (s : State) (c : Ctx) (ws : List (Nat × Nat × W32)) : (s.putV c ws).meshes = s.meshes := by simp [State.putV]
@[simp] theorem State.putV_prims (s : State) (c : Ctx) (ws : List (Nat × Nat × W32)) : (s.putV c ws).prims = s.prims := by simp [State.putV]
@[simp] theorem State.putV_marks (s : State) (c : Ctx) (ws : List (Nat × Nat × W32)) : (s.putV c ws).marks = s.marks := by simp [State.putV]
@[simp] theorem State.putV_sentMarks (s : State) (c : Ctx) (ws : List (Nat × Nat × W32)) : (s.putV c ws).sentMarks = s.sentMarks := by simp [State.putV]
@[simp] theorem State.putV_frags (s : State) (c : Ctx) (ws : List (Nat × Nat × W32)) : (s.putV c ws).frags = s.frags := by simp [State.putV]
@[simp] theorem State.putV_joinDecs (s : State) (c : Ctx) (ws : List (Nat × Nat × W32)) : (s.putV c ws).joinDecs = s.joinDecs := by simp [State.putV]
@[simp] theorem State.putV_cur (s : State) (c : Ctx) (ws : List (Nat × Nat × W32)) : (s.putV c ws).cur = s.cur := by simp [State.putV]
@[simp] theorem State.putV_agenda (s : State) (c : Ctx) (ws : List (Nat × Nat × W32)) : (s.putV c ws).agenda = s.agenda := by simp [State.putV]
@[simp] theorem State.putV_cyclePhase (s : State) (c : Ctx) (ws : List (Nat × Nat × W32)) : (s.putV c ws).cyclePhase = s.cyclePhase := by simp [State.putV]
@[simp] theorem State.putV_inputs (s : State) (c : Ctx) (ws : List (Nat × Nat × W32)) : (s.putV c ws).inputs = s.inputs := by simp [State.putV]
@[simp] theorem State.putV_nextId (s : State) (c : Ctx) (ws : List (Nat × Nat × W32)) : (s.putV c ws).nextId = s.nextId := by simp [State.putV]
@[simp] theorem State.putV_freeCount (s : State) (c : Ctx) (ws : List (Nat × Nat × W32)) : (s.putV c ws).freeCount = s.freeCount := by simp [State.putV]

/-! ### `State.finish` -/

@[simp] theorem State.finish_dcc (s : State) (r : PartRef) (next : W64) (d : Nat) : (s.finish r next d).dcc = s.dcc := by simp [State.finish]
@[simp] theorem State.finish_mem (s : State) (r : PartRef) (next : W64) (d : Nat) : (s.finish r next d).mem = s.mem := by simp [State.finish]
@[simp] theorem State.finish_scratch (s : State) (r : PartRef) (next : W64) (d : Nat) : (s.finish r next d).scratch = s.scratch := by simp [State.finish]
@[simp] theorem State.finish_acc (s : State) (r : PartRef) (next : W64) (d : Nat) : (s.finish r next d).acc = s.acc := by simp [State.finish]
@[simp] theorem State.finish_cores (s : State) (r : PartRef) (next : W64) (d : Nat) : (s.finish r next d).cores = s.cores := by simp [State.finish]
@[simp] theorem State.finish_clusters (s : State) (r : PartRef) (next : W64) (d : Nat) : (s.finish r next d).clusters = s.clusters := by simp [State.finish]
@[simp] theorem State.finish_dies (s : State) (r : PartRef) (next : W64) (d : Nat) : (s.finish r next d).dies = s.dies := by simp [State.finish]
@[simp] theorem State.finish_groups (s : State) (r : PartRef) (next : W64) (d : Nat) : (s.finish r next d).groups = s.groups := by simp [State.finish]
@[simp] theorem State.finish_launches (s : State) (r : PartRef) (next : W64) (d : Nat) : (s.finish r next d).launches = s.launches := by simp [State.finish]
@[simp] theorem State.finish_ops (s : State) (r : PartRef) (next : W64) (d : Nat) : (s.finish r next d).ops = s.ops := by simp [State.finish]
@[simp] theorem State.finish_walks (s : State) (r : PartRef) (next : W64) (d : Nat) : (s.finish r next d).walks = s.walks := by simp [State.finish]
@[simp] theorem State.finish_pins (s : State) (r : PartRef) (next : W64) (d : Nat) : (s.finish r next d).pins = s.pins := by simp [State.finish]
@[simp] theorem State.finish_banks (s : State) (r : PartRef) (next : W64) (d : Nat) : (s.finish r next d).banks = s.banks := by simp [State.finish]
@[simp] theorem State.finish_l2 (s : State) (r : PartRef) (next : W64) (d : Nat) : (s.finish r next d).l2 = s.l2 := by simp [State.finish]
@[simp] theorem State.finish_backs (s : State) (r : PartRef) (next : W64) (d : Nat) : (s.finish r next d).backs = s.backs := by simp [State.finish]
@[simp] theorem State.finish_fills (s : State) (r : PartRef) (next : W64) (d : Nat) : (s.finish r next d).fills = s.fills := by simp [State.finish]
@[simp] theorem State.finish_posted (s : State) (r : PartRef) (next : W64) (d : Nat) : (s.finish r next d).posted = s.posted := by simp [State.finish]
@[simp] theorem State.finish_prefetches (s : State) (r : PartRef) (next : W64) (d : Nat) : (s.finish r next d).prefetches = s.prefetches := by simp [State.finish]
@[simp] theorem State.finish_sched (s : State) (r : PartRef) (next : W64) (d : Nat) : (s.finish r next d).sched = s.sched := by simp [State.finish]
@[simp] theorem State.finish_pkg (s : State) (r : PartRef) (next : W64) (d : Nat) : (s.finish r next d).pkg = s.pkg := by simp [State.finish]
@[simp] theorem State.finish_meshes (s : State) (r : PartRef) (next : W64) (d : Nat) : (s.finish r next d).meshes = s.meshes := by simp [State.finish]
@[simp] theorem State.finish_prims (s : State) (r : PartRef) (next : W64) (d : Nat) : (s.finish r next d).prims = s.prims := by simp [State.finish]
@[simp] theorem State.finish_marks (s : State) (r : PartRef) (next : W64) (d : Nat) : (s.finish r next d).marks = s.marks := by simp [State.finish]
@[simp] theorem State.finish_sentMarks (s : State) (r : PartRef) (next : W64) (d : Nat) : (s.finish r next d).sentMarks = s.sentMarks := by simp [State.finish]
@[simp] theorem State.finish_frags (s : State) (r : PartRef) (next : W64) (d : Nat) : (s.finish r next d).frags = s.frags := by simp [State.finish]
@[simp] theorem State.finish_joinDecs (s : State) (r : PartRef) (next : W64) (d : Nat) : (s.finish r next d).joinDecs = s.joinDecs := by simp [State.finish]
@[simp] theorem State.finish_cur (s : State) (r : PartRef) (next : W64) (d : Nat) : (s.finish r next d).cur = s.cur := by simp [State.finish]
@[simp] theorem State.finish_agenda (s : State) (r : PartRef) (next : W64) (d : Nat) : (s.finish r next d).agenda = s.agenda := by simp [State.finish]
@[simp] theorem State.finish_cyclePhase (s : State) (r : PartRef) (next : W64) (d : Nat) : (s.finish r next d).cyclePhase = s.cyclePhase := by simp [State.finish]
@[simp] theorem State.finish_inputs (s : State) (r : PartRef) (next : W64) (d : Nat) : (s.finish r next d).inputs = s.inputs := by simp [State.finish]
@[simp] theorem State.finish_nextId (s : State) (r : PartRef) (next : W64) (d : Nat) : (s.finish r next d).nextId = s.nextId := by simp [State.finish]
@[simp] theorem State.finish_freeCount (s : State) (r : PartRef) (next : W64) (d : Nat) : (s.finish r next d).freeCount = s.freeCount := by simp [State.finish]

/-! ### `State.done` -/

@[simp] theorem State.done_dcc (s : State) (c : Ctx) (len : Nat) : (s.done c len).dcc = s.dcc := by simp [State.done]
@[simp] theorem State.done_mem (s : State) (c : Ctx) (len : Nat) : (s.done c len).mem = s.mem := by simp [State.done]
@[simp] theorem State.done_scratch (s : State) (c : Ctx) (len : Nat) : (s.done c len).scratch = s.scratch := by simp [State.done]
@[simp] theorem State.done_acc (s : State) (c : Ctx) (len : Nat) : (s.done c len).acc = s.acc := by simp [State.done]
@[simp] theorem State.done_cores (s : State) (c : Ctx) (len : Nat) : (s.done c len).cores = s.cores := by simp [State.done]
@[simp] theorem State.done_clusters (s : State) (c : Ctx) (len : Nat) : (s.done c len).clusters = s.clusters := by simp [State.done]
@[simp] theorem State.done_dies (s : State) (c : Ctx) (len : Nat) : (s.done c len).dies = s.dies := by simp [State.done]
@[simp] theorem State.done_groups (s : State) (c : Ctx) (len : Nat) : (s.done c len).groups = s.groups := by simp [State.done]
@[simp] theorem State.done_launches (s : State) (c : Ctx) (len : Nat) : (s.done c len).launches = s.launches := by simp [State.done]
@[simp] theorem State.done_ops (s : State) (c : Ctx) (len : Nat) : (s.done c len).ops = s.ops := by simp [State.done]
@[simp] theorem State.done_walks (s : State) (c : Ctx) (len : Nat) : (s.done c len).walks = s.walks := by simp [State.done]
@[simp] theorem State.done_pins (s : State) (c : Ctx) (len : Nat) : (s.done c len).pins = s.pins := by simp [State.done]
@[simp] theorem State.done_banks (s : State) (c : Ctx) (len : Nat) : (s.done c len).banks = s.banks := by simp [State.done]
@[simp] theorem State.done_l2 (s : State) (c : Ctx) (len : Nat) : (s.done c len).l2 = s.l2 := by simp [State.done]
@[simp] theorem State.done_backs (s : State) (c : Ctx) (len : Nat) : (s.done c len).backs = s.backs := by simp [State.done]
@[simp] theorem State.done_fills (s : State) (c : Ctx) (len : Nat) : (s.done c len).fills = s.fills := by simp [State.done]
@[simp] theorem State.done_posted (s : State) (c : Ctx) (len : Nat) : (s.done c len).posted = s.posted := by simp [State.done]
@[simp] theorem State.done_prefetches (s : State) (c : Ctx) (len : Nat) : (s.done c len).prefetches = s.prefetches := by simp [State.done]
@[simp] theorem State.done_sched (s : State) (c : Ctx) (len : Nat) : (s.done c len).sched = s.sched := by simp [State.done]
@[simp] theorem State.done_pkg (s : State) (c : Ctx) (len : Nat) : (s.done c len).pkg = s.pkg := by simp [State.done]
@[simp] theorem State.done_meshes (s : State) (c : Ctx) (len : Nat) : (s.done c len).meshes = s.meshes := by simp [State.done]
@[simp] theorem State.done_prims (s : State) (c : Ctx) (len : Nat) : (s.done c len).prims = s.prims := by simp [State.done]
@[simp] theorem State.done_marks (s : State) (c : Ctx) (len : Nat) : (s.done c len).marks = s.marks := by simp [State.done]
@[simp] theorem State.done_sentMarks (s : State) (c : Ctx) (len : Nat) : (s.done c len).sentMarks = s.sentMarks := by simp [State.done]
@[simp] theorem State.done_frags (s : State) (c : Ctx) (len : Nat) : (s.done c len).frags = s.frags := by simp [State.done]
@[simp] theorem State.done_joinDecs (s : State) (c : Ctx) (len : Nat) : (s.done c len).joinDecs = s.joinDecs := by simp [State.done]
@[simp] theorem State.done_cur (s : State) (c : Ctx) (len : Nat) : (s.done c len).cur = s.cur := by simp [State.done]
@[simp] theorem State.done_agenda (s : State) (c : Ctx) (len : Nat) : (s.done c len).agenda = s.agenda := by simp [State.done]
@[simp] theorem State.done_cyclePhase (s : State) (c : Ctx) (len : Nat) : (s.done c len).cyclePhase = s.cyclePhase := by simp [State.done]
@[simp] theorem State.done_inputs (s : State) (c : Ctx) (len : Nat) : (s.done c len).inputs = s.inputs := by simp [State.done]
@[simp] theorem State.done_nextId (s : State) (c : Ctx) (len : Nat) : (s.done c len).nextId = s.nextId := by simp [State.done]
@[simp] theorem State.done_freeCount (s : State) (c : Ctx) (len : Nat) : (s.done c len).freeCount = s.freeCount := by simp [State.done]

/-! ### `State.parkPart` -/

@[simp] theorem State.parkPart_dcc (s : State) (r : PartRef) (w : Park) : (s.parkPart r w).dcc = s.dcc := by simp [State.parkPart]
@[simp] theorem State.parkPart_mem (s : State) (r : PartRef) (w : Park) : (s.parkPart r w).mem = s.mem := by simp [State.parkPart]
@[simp] theorem State.parkPart_scratch (s : State) (r : PartRef) (w : Park) : (s.parkPart r w).scratch = s.scratch := by simp [State.parkPart]
@[simp] theorem State.parkPart_acc (s : State) (r : PartRef) (w : Park) : (s.parkPart r w).acc = s.acc := by simp [State.parkPart]
@[simp] theorem State.parkPart_cores (s : State) (r : PartRef) (w : Park) : (s.parkPart r w).cores = s.cores := by simp [State.parkPart]
@[simp] theorem State.parkPart_clusters (s : State) (r : PartRef) (w : Park) : (s.parkPart r w).clusters = s.clusters := by simp [State.parkPart]
@[simp] theorem State.parkPart_dies (s : State) (r : PartRef) (w : Park) : (s.parkPart r w).dies = s.dies := by simp [State.parkPart]
@[simp] theorem State.parkPart_groups (s : State) (r : PartRef) (w : Park) : (s.parkPart r w).groups = s.groups := by simp [State.parkPart]
@[simp] theorem State.parkPart_launches (s : State) (r : PartRef) (w : Park) : (s.parkPart r w).launches = s.launches := by simp [State.parkPart]
@[simp] theorem State.parkPart_ops (s : State) (r : PartRef) (w : Park) : (s.parkPart r w).ops = s.ops := by simp [State.parkPart]
@[simp] theorem State.parkPart_walks (s : State) (r : PartRef) (w : Park) : (s.parkPart r w).walks = s.walks := by simp [State.parkPart]
@[simp] theorem State.parkPart_pins (s : State) (r : PartRef) (w : Park) : (s.parkPart r w).pins = s.pins := by simp [State.parkPart]
@[simp] theorem State.parkPart_banks (s : State) (r : PartRef) (w : Park) : (s.parkPart r w).banks = s.banks := by simp [State.parkPart]
@[simp] theorem State.parkPart_l2 (s : State) (r : PartRef) (w : Park) : (s.parkPart r w).l2 = s.l2 := by simp [State.parkPart]
@[simp] theorem State.parkPart_backs (s : State) (r : PartRef) (w : Park) : (s.parkPart r w).backs = s.backs := by simp [State.parkPart]
@[simp] theorem State.parkPart_fills (s : State) (r : PartRef) (w : Park) : (s.parkPart r w).fills = s.fills := by simp [State.parkPart]
@[simp] theorem State.parkPart_posted (s : State) (r : PartRef) (w : Park) : (s.parkPart r w).posted = s.posted := by simp [State.parkPart]
@[simp] theorem State.parkPart_prefetches (s : State) (r : PartRef) (w : Park) : (s.parkPart r w).prefetches = s.prefetches := by simp [State.parkPart]
@[simp] theorem State.parkPart_sched (s : State) (r : PartRef) (w : Park) : (s.parkPart r w).sched = s.sched := by simp [State.parkPart]
@[simp] theorem State.parkPart_pkg (s : State) (r : PartRef) (w : Park) : (s.parkPart r w).pkg = s.pkg := by simp [State.parkPart]
@[simp] theorem State.parkPart_meshes (s : State) (r : PartRef) (w : Park) : (s.parkPart r w).meshes = s.meshes := by simp [State.parkPart]
@[simp] theorem State.parkPart_prims (s : State) (r : PartRef) (w : Park) : (s.parkPart r w).prims = s.prims := by simp [State.parkPart]
@[simp] theorem State.parkPart_marks (s : State) (r : PartRef) (w : Park) : (s.parkPart r w).marks = s.marks := by simp [State.parkPart]
@[simp] theorem State.parkPart_sentMarks (s : State) (r : PartRef) (w : Park) : (s.parkPart r w).sentMarks = s.sentMarks := by simp [State.parkPart]
@[simp] theorem State.parkPart_frags (s : State) (r : PartRef) (w : Park) : (s.parkPart r w).frags = s.frags := by simp [State.parkPart]
@[simp] theorem State.parkPart_joinDecs (s : State) (r : PartRef) (w : Park) : (s.parkPart r w).joinDecs = s.joinDecs := by simp [State.parkPart]
@[simp] theorem State.parkPart_cur (s : State) (r : PartRef) (w : Park) : (s.parkPart r w).cur = s.cur := by simp [State.parkPart]
@[simp] theorem State.parkPart_agenda (s : State) (r : PartRef) (w : Park) : (s.parkPart r w).agenda = s.agenda := by simp [State.parkPart]
@[simp] theorem State.parkPart_cyclePhase (s : State) (r : PartRef) (w : Park) : (s.parkPart r w).cyclePhase = s.cyclePhase := by simp [State.parkPart]
@[simp] theorem State.parkPart_inputs (s : State) (r : PartRef) (w : Park) : (s.parkPart r w).inputs = s.inputs := by simp [State.parkPart]
@[simp] theorem State.parkPart_nextId (s : State) (r : PartRef) (w : Park) : (s.parkPart r w).nextId = s.nextId := by simp [State.parkPart]
@[simp] theorem State.parkPart_freeCount (s : State) (r : PartRef) (w : Park) : (s.parkPart r w).freeCount = s.freeCount := by simp [State.parkPart]

/-! ### `State.parkOn` -/

@[simp] theorem State.parkOn_dcc (s : State) (c : Ctx) (w : Wait) : (s.parkOn c w).dcc = s.dcc := by simp [State.parkOn]
@[simp] theorem State.parkOn_mem (s : State) (c : Ctx) (w : Wait) : (s.parkOn c w).mem = s.mem := by simp [State.parkOn]
@[simp] theorem State.parkOn_scratch (s : State) (c : Ctx) (w : Wait) : (s.parkOn c w).scratch = s.scratch := by simp [State.parkOn]
@[simp] theorem State.parkOn_acc (s : State) (c : Ctx) (w : Wait) : (s.parkOn c w).acc = s.acc := by simp [State.parkOn]
@[simp] theorem State.parkOn_cores (s : State) (c : Ctx) (w : Wait) : (s.parkOn c w).cores = s.cores := by simp [State.parkOn]
@[simp] theorem State.parkOn_clusters (s : State) (c : Ctx) (w : Wait) : (s.parkOn c w).clusters = s.clusters := by simp [State.parkOn]
@[simp] theorem State.parkOn_dies (s : State) (c : Ctx) (w : Wait) : (s.parkOn c w).dies = s.dies := by simp [State.parkOn]
@[simp] theorem State.parkOn_groups (s : State) (c : Ctx) (w : Wait) : (s.parkOn c w).groups = s.groups := by simp [State.parkOn]
@[simp] theorem State.parkOn_launches (s : State) (c : Ctx) (w : Wait) : (s.parkOn c w).launches = s.launches := by simp [State.parkOn]
@[simp] theorem State.parkOn_ops (s : State) (c : Ctx) (w : Wait) : (s.parkOn c w).ops = s.ops := by simp [State.parkOn]
@[simp] theorem State.parkOn_walks (s : State) (c : Ctx) (w : Wait) : (s.parkOn c w).walks = s.walks := by simp [State.parkOn]
@[simp] theorem State.parkOn_pins (s : State) (c : Ctx) (w : Wait) : (s.parkOn c w).pins = s.pins := by simp [State.parkOn]
@[simp] theorem State.parkOn_banks (s : State) (c : Ctx) (w : Wait) : (s.parkOn c w).banks = s.banks := by simp [State.parkOn]
@[simp] theorem State.parkOn_l2 (s : State) (c : Ctx) (w : Wait) : (s.parkOn c w).l2 = s.l2 := by simp [State.parkOn]
@[simp] theorem State.parkOn_backs (s : State) (c : Ctx) (w : Wait) : (s.parkOn c w).backs = s.backs := by simp [State.parkOn]
@[simp] theorem State.parkOn_fills (s : State) (c : Ctx) (w : Wait) : (s.parkOn c w).fills = s.fills := by simp [State.parkOn]
@[simp] theorem State.parkOn_posted (s : State) (c : Ctx) (w : Wait) : (s.parkOn c w).posted = s.posted := by simp [State.parkOn]
@[simp] theorem State.parkOn_prefetches (s : State) (c : Ctx) (w : Wait) : (s.parkOn c w).prefetches = s.prefetches := by simp [State.parkOn]
@[simp] theorem State.parkOn_sched (s : State) (c : Ctx) (w : Wait) : (s.parkOn c w).sched = s.sched := by simp [State.parkOn]
@[simp] theorem State.parkOn_pkg (s : State) (c : Ctx) (w : Wait) : (s.parkOn c w).pkg = s.pkg := by simp [State.parkOn]
@[simp] theorem State.parkOn_meshes (s : State) (c : Ctx) (w : Wait) : (s.parkOn c w).meshes = s.meshes := by simp [State.parkOn]
@[simp] theorem State.parkOn_prims (s : State) (c : Ctx) (w : Wait) : (s.parkOn c w).prims = s.prims := by simp [State.parkOn]
@[simp] theorem State.parkOn_marks (s : State) (c : Ctx) (w : Wait) : (s.parkOn c w).marks = s.marks := by simp [State.parkOn]
@[simp] theorem State.parkOn_sentMarks (s : State) (c : Ctx) (w : Wait) : (s.parkOn c w).sentMarks = s.sentMarks := by simp [State.parkOn]
@[simp] theorem State.parkOn_frags (s : State) (c : Ctx) (w : Wait) : (s.parkOn c w).frags = s.frags := by simp [State.parkOn]
@[simp] theorem State.parkOn_joinDecs (s : State) (c : Ctx) (w : Wait) : (s.parkOn c w).joinDecs = s.joinDecs := by simp [State.parkOn]
@[simp] theorem State.parkOn_cur (s : State) (c : Ctx) (w : Wait) : (s.parkOn c w).cur = s.cur := by simp [State.parkOn]
@[simp] theorem State.parkOn_agenda (s : State) (c : Ctx) (w : Wait) : (s.parkOn c w).agenda = s.agenda := by simp [State.parkOn]
@[simp] theorem State.parkOn_cyclePhase (s : State) (c : Ctx) (w : Wait) : (s.parkOn c w).cyclePhase = s.cyclePhase := by simp [State.parkOn]
@[simp] theorem State.parkOn_inputs (s : State) (c : Ctx) (w : Wait) : (s.parkOn c w).inputs = s.inputs := by simp [State.parkOn]
@[simp] theorem State.parkOn_nextId (s : State) (c : Ctx) (w : Wait) : (s.parkOn c w).nextId = s.nextId := by simp [State.parkOn]
@[simp] theorem State.parkOn_freeCount (s : State) (c : Ctx) (w : Wait) : (s.parkOn c w).freeCount = s.freeCount := by simp [State.parkOn]

/-! ### `State.recordRays` -/

@[simp] theorem State.recordRays_dcc (s : State) (r : PartRef) : (s.recordRays r).dcc = s.dcc := by simp [State.recordRays]
@[simp] theorem State.recordRays_mem (s : State) (r : PartRef) : (s.recordRays r).mem = s.mem := by simp [State.recordRays]
@[simp] theorem State.recordRays_scratch (s : State) (r : PartRef) : (s.recordRays r).scratch = s.scratch := by simp [State.recordRays]
@[simp] theorem State.recordRays_acc (s : State) (r : PartRef) : (s.recordRays r).acc = s.acc := by simp [State.recordRays]
@[simp] theorem State.recordRays_cores (s : State) (r : PartRef) : (s.recordRays r).cores = s.cores := by simp [State.recordRays]
@[simp] theorem State.recordRays_clusters (s : State) (r : PartRef) : (s.recordRays r).clusters = s.clusters := by simp [State.recordRays]
@[simp] theorem State.recordRays_dies (s : State) (r : PartRef) : (s.recordRays r).dies = s.dies := by simp [State.recordRays]
@[simp] theorem State.recordRays_groups (s : State) (r : PartRef) : (s.recordRays r).groups = s.groups := by simp [State.recordRays]
@[simp] theorem State.recordRays_launches (s : State) (r : PartRef) : (s.recordRays r).launches = s.launches := by simp [State.recordRays]
@[simp] theorem State.recordRays_ops (s : State) (r : PartRef) : (s.recordRays r).ops = s.ops := by simp [State.recordRays]
@[simp] theorem State.recordRays_walks (s : State) (r : PartRef) : (s.recordRays r).walks = s.walks := by simp [State.recordRays]
@[simp] theorem State.recordRays_pins (s : State) (r : PartRef) : (s.recordRays r).pins = s.pins := by simp [State.recordRays]
@[simp] theorem State.recordRays_banks (s : State) (r : PartRef) : (s.recordRays r).banks = s.banks := by simp [State.recordRays]
@[simp] theorem State.recordRays_l2 (s : State) (r : PartRef) : (s.recordRays r).l2 = s.l2 := by simp [State.recordRays]
@[simp] theorem State.recordRays_backs (s : State) (r : PartRef) : (s.recordRays r).backs = s.backs := by simp [State.recordRays]
@[simp] theorem State.recordRays_fills (s : State) (r : PartRef) : (s.recordRays r).fills = s.fills := by simp [State.recordRays]
@[simp] theorem State.recordRays_posted (s : State) (r : PartRef) : (s.recordRays r).posted = s.posted := by simp [State.recordRays]
@[simp] theorem State.recordRays_prefetches (s : State) (r : PartRef) : (s.recordRays r).prefetches = s.prefetches := by simp [State.recordRays]
@[simp] theorem State.recordRays_sched (s : State) (r : PartRef) : (s.recordRays r).sched = s.sched := by simp [State.recordRays]
@[simp] theorem State.recordRays_pkg (s : State) (r : PartRef) : (s.recordRays r).pkg = s.pkg := by simp [State.recordRays]
@[simp] theorem State.recordRays_meshes (s : State) (r : PartRef) : (s.recordRays r).meshes = s.meshes := by simp [State.recordRays]
@[simp] theorem State.recordRays_prims (s : State) (r : PartRef) : (s.recordRays r).prims = s.prims := by simp [State.recordRays]
@[simp] theorem State.recordRays_marks (s : State) (r : PartRef) : (s.recordRays r).marks = s.marks := by simp [State.recordRays]
@[simp] theorem State.recordRays_sentMarks (s : State) (r : PartRef) : (s.recordRays r).sentMarks = s.sentMarks := by simp [State.recordRays]
@[simp] theorem State.recordRays_frags (s : State) (r : PartRef) : (s.recordRays r).frags = s.frags := by simp [State.recordRays]
@[simp] theorem State.recordRays_joinDecs (s : State) (r : PartRef) : (s.recordRays r).joinDecs = s.joinDecs := by simp [State.recordRays]
@[simp] theorem State.recordRays_cur (s : State) (r : PartRef) : (s.recordRays r).cur = s.cur := by simp [State.recordRays]
@[simp] theorem State.recordRays_agenda (s : State) (r : PartRef) : (s.recordRays r).agenda = s.agenda := by simp [State.recordRays]
@[simp] theorem State.recordRays_cyclePhase (s : State) (r : PartRef) : (s.recordRays r).cyclePhase = s.cyclePhase := by simp [State.recordRays]
@[simp] theorem State.recordRays_inputs (s : State) (r : PartRef) : (s.recordRays r).inputs = s.inputs := by simp [State.recordRays]
@[simp] theorem State.recordRays_nextId (s : State) (r : PartRef) : (s.recordRays r).nextId = s.nextId := by simp [State.recordRays]
@[simp] theorem State.recordRays_freeCount (s : State) (r : PartRef) : (s.recordRays r).freeCount = s.freeCount := by simp [State.recordRays]

/-! ### `State.beginRegion` -/

@[simp] theorem State.beginRegion_dcc (s : State) (r : PartRef) (a : W64) (counted : Bool) : (s.beginRegion r a counted).dcc = s.dcc := by simp [State.beginRegion]
@[simp] theorem State.beginRegion_mem (s : State) (r : PartRef) (a : W64) (counted : Bool) : (s.beginRegion r a counted).mem = s.mem := by simp [State.beginRegion]
@[simp] theorem State.beginRegion_scratch (s : State) (r : PartRef) (a : W64) (counted : Bool) : (s.beginRegion r a counted).scratch = s.scratch := by simp [State.beginRegion]
@[simp] theorem State.beginRegion_acc (s : State) (r : PartRef) (a : W64) (counted : Bool) : (s.beginRegion r a counted).acc = s.acc := by simp [State.beginRegion]
@[simp] theorem State.beginRegion_cores (s : State) (r : PartRef) (a : W64) (counted : Bool) : (s.beginRegion r a counted).cores = s.cores := by simp [State.beginRegion]
@[simp] theorem State.beginRegion_clusters (s : State) (r : PartRef) (a : W64) (counted : Bool) : (s.beginRegion r a counted).clusters = s.clusters := by simp [State.beginRegion]
@[simp] theorem State.beginRegion_dies (s : State) (r : PartRef) (a : W64) (counted : Bool) : (s.beginRegion r a counted).dies = s.dies := by simp [State.beginRegion]
@[simp] theorem State.beginRegion_groups (s : State) (r : PartRef) (a : W64) (counted : Bool) : (s.beginRegion r a counted).groups = s.groups := by simp [State.beginRegion]
@[simp] theorem State.beginRegion_launches (s : State) (r : PartRef) (a : W64) (counted : Bool) : (s.beginRegion r a counted).launches = s.launches := by simp [State.beginRegion]
@[simp] theorem State.beginRegion_ops (s : State) (r : PartRef) (a : W64) (counted : Bool) : (s.beginRegion r a counted).ops = s.ops := by simp [State.beginRegion]
@[simp] theorem State.beginRegion_walks (s : State) (r : PartRef) (a : W64) (counted : Bool) : (s.beginRegion r a counted).walks = s.walks := by simp [State.beginRegion]
@[simp] theorem State.beginRegion_pins (s : State) (r : PartRef) (a : W64) (counted : Bool) : (s.beginRegion r a counted).pins = s.pins := by simp [State.beginRegion]
@[simp] theorem State.beginRegion_banks (s : State) (r : PartRef) (a : W64) (counted : Bool) : (s.beginRegion r a counted).banks = s.banks := by simp [State.beginRegion]
@[simp] theorem State.beginRegion_l2 (s : State) (r : PartRef) (a : W64) (counted : Bool) : (s.beginRegion r a counted).l2 = s.l2 := by simp [State.beginRegion]
@[simp] theorem State.beginRegion_backs (s : State) (r : PartRef) (a : W64) (counted : Bool) : (s.beginRegion r a counted).backs = s.backs := by simp [State.beginRegion]
@[simp] theorem State.beginRegion_fills (s : State) (r : PartRef) (a : W64) (counted : Bool) : (s.beginRegion r a counted).fills = s.fills := by simp [State.beginRegion]
@[simp] theorem State.beginRegion_posted (s : State) (r : PartRef) (a : W64) (counted : Bool) : (s.beginRegion r a counted).posted = s.posted := by simp [State.beginRegion]
@[simp] theorem State.beginRegion_prefetches (s : State) (r : PartRef) (a : W64) (counted : Bool) : (s.beginRegion r a counted).prefetches = s.prefetches := by simp [State.beginRegion]
@[simp] theorem State.beginRegion_sched (s : State) (r : PartRef) (a : W64) (counted : Bool) : (s.beginRegion r a counted).sched = s.sched := by simp [State.beginRegion]
@[simp] theorem State.beginRegion_pkg (s : State) (r : PartRef) (a : W64) (counted : Bool) : (s.beginRegion r a counted).pkg = s.pkg := by simp [State.beginRegion]
@[simp] theorem State.beginRegion_meshes (s : State) (r : PartRef) (a : W64) (counted : Bool) : (s.beginRegion r a counted).meshes = s.meshes := by simp [State.beginRegion]
@[simp] theorem State.beginRegion_prims (s : State) (r : PartRef) (a : W64) (counted : Bool) : (s.beginRegion r a counted).prims = s.prims := by simp [State.beginRegion]
@[simp] theorem State.beginRegion_marks (s : State) (r : PartRef) (a : W64) (counted : Bool) : (s.beginRegion r a counted).marks = s.marks := by simp [State.beginRegion]
@[simp] theorem State.beginRegion_sentMarks (s : State) (r : PartRef) (a : W64) (counted : Bool) : (s.beginRegion r a counted).sentMarks = s.sentMarks := by simp [State.beginRegion]
@[simp] theorem State.beginRegion_frags (s : State) (r : PartRef) (a : W64) (counted : Bool) : (s.beginRegion r a counted).frags = s.frags := by simp [State.beginRegion]
@[simp] theorem State.beginRegion_joinDecs (s : State) (r : PartRef) (a : W64) (counted : Bool) : (s.beginRegion r a counted).joinDecs = s.joinDecs := by simp [State.beginRegion]
@[simp] theorem State.beginRegion_cur (s : State) (r : PartRef) (a : W64) (counted : Bool) : (s.beginRegion r a counted).cur = s.cur := by simp [State.beginRegion]
@[simp] theorem State.beginRegion_agenda (s : State) (r : PartRef) (a : W64) (counted : Bool) : (s.beginRegion r a counted).agenda = s.agenda := by simp [State.beginRegion]
@[simp] theorem State.beginRegion_cyclePhase (s : State) (r : PartRef) (a : W64) (counted : Bool) : (s.beginRegion r a counted).cyclePhase = s.cyclePhase := by simp [State.beginRegion]
@[simp] theorem State.beginRegion_inputs (s : State) (r : PartRef) (a : W64) (counted : Bool) : (s.beginRegion r a counted).inputs = s.inputs := by simp [State.beginRegion]
@[simp] theorem State.beginRegion_nextId (s : State) (r : PartRef) (a : W64) (counted : Bool) : (s.beginRegion r a counted).nextId = s.nextId := by simp [State.beginRegion]
@[simp] theorem State.beginRegion_freeCount (s : State) (r : PartRef) (a : W64) (counted : Bool) : (s.beginRegion r a counted).freeCount = s.freeCount := by simp [State.beginRegion]

/-! ### `Part.setS` -/

@[simp] theorem Part.setS_base (p : Part) (n : Nat) (v : W64) : (p.setS n v).base = p.base := rfl
@[simp] theorem Part.setS_width (p : Part) (n : Nat) (v : W64) : (p.setS n v).width = p.width := rfl
@[simp] theorem Part.setS_pc (p : Part) (n : Nat) (v : W64) : (p.setS n v).pc = p.pc := rfl
@[simp] theorem Part.setS_cur (p : Part) (n : Nat) (v : W64) : (p.setS n v).cur = p.cur := rfl
@[simp] theorem Part.setS_waiting (p : Part) (n : Nat) (v : W64) : (p.setS n v).waiting = p.waiting := rfl
@[simp] theorem Part.setS_resume (p : Part) (n : Nat) (v : W64) : (p.setS n v).resume = p.resume := rfl
@[simp] theorem Part.setS_tcodeReg (p : Part) (n : Nat) (v : W64) : (p.setS n v).tcodeReg = p.tcodeReg := rfl
@[simp] theorem Part.setS_tdetail (p : Part) (n : Nat) (v : W64) : (p.setS n v).tdetail = p.tdetail := rfl
@[simp] theorem Part.setS_restart (p : Part) (n : Nat) (v : W64) : (p.setS n v).restart = p.restart := rfl
@[simp] theorem Part.setS_taddr (p : Part) (n : Nat) (v : W64) : (p.setS n v).taddr = p.taddr := rfl
@[simp] theorem Part.setS_tword (p : Part) (n : Nat) (v : W64) : (p.setS n v).tword = p.tword := rfl
@[simp] theorem Part.setS_mxRow (p : Part) (n : Nat) (v : W64) : (p.setS n v).mxRow = p.mxRow := rfl
@[simp] theorem Part.setS_mxTile (p : Part) (n : Nat) (v : W64) : (p.setS n v).mxTile = p.mxTile := rfl
@[simp] theorem Part.setS_mxActive (p : Part) (n : Nat) (v : W64) : (p.setS n v).mxActive = p.mxActive := rfl
@[simp] theorem Part.setS_region (p : Part) (n : Nat) (v : W64) : (p.setS n v).region = p.region := rfl
@[simp] theorem Part.setS_regionCount (p : Part) (n : Nat) (v : W64) : (p.setS n v).regionCount = p.regionCount := rfl
@[simp] theorem Part.setS_regionAt (p : Part) (n : Nat) (v : W64) : (p.setS n v).regionAt = p.regionAt := rfl
@[simp] theorem Part.setS_ldOps (p : Part) (n : Nat) (v : W64) : (p.setS n v).ldOps = p.ldOps := rfl
@[simp] theorem Part.setS_stOps (p : Part) (n : Nat) (v : W64) : (p.setS n v).stOps = p.stOps := rfl
@[simp] theorem Part.setS_cpOps (p : Part) (n : Nat) (v : W64) : (p.setS n v).cpOps = p.cpOps := rfl
@[simp] theorem Part.setS_mxOps (p : Part) (n : Nat) (v : W64) : (p.setS n v).mxOps = p.mxOps := rfl
@[simp] theorem Part.setS_recent (p : Part) (n : Nat) (v : W64) : (p.setS n v).recent = p.recent := rfl
@[simp] theorem Part.setS_frames (p : Part) (n : Nat) (v : W64) : (p.setS n v).frames = p.frames := rfl
@[simp] theorem Part.setS_park (p : Part) (n : Nat) (v : W64) : (p.setS n v).park = p.park := rfl
@[simp] theorem Part.setS_confId (p : Part) (n : Nat) (v : W64) : (p.setS n v).confId = p.confId := rfl
@[simp] theorem Part.setS_arrivals (p : Part) (n : Nat) (v : W64) : (p.setS n v).arrivals = p.arrivals := rfl
@[simp] theorem Part.setS_tcode (p : Part) (n : Nat) (v : W64) : (p.setS n v).tcode = p.tcode := rfl
@[simp] theorem Part.setS_tframe (p : Part) (n : Nat) (v : W64) : (p.setS n v).tframe = p.tframe := rfl
@[simp] theorem Part.setS_fails (p : Part) (n : Nat) (v : W64) : (p.setS n v).fails = p.fails := rfl
@[simp] theorem Part.setS_held (p : Part) (n : Nat) (v : W64) : (p.setS n v).held = p.held := rfl
@[simp] theorem Part.setS_acquiring (p : Part) (n : Nat) (v : W64) : (p.setS n v).acquiring = p.acquiring := rfl
@[simp] theorem Part.setS_lastIssue (p : Part) (n : Nat) (v : W64) : (p.setS n v).lastIssue = p.lastIssue := rfl
@[simp] theorem Part.setS_notBefore (p : Part) (n : Nat) (v : W64) : (p.setS n v).notBefore = p.notBefore := rfl
@[simp] theorem Part.setS_busy (p : Part) (n : Nat) (v : W64) : (p.setS n v).busy = p.busy := rfl
@[simp] theorem Part.setS_before (p : Part) (n : Nat) (v : W64) : (p.setS n v).before = p.before := rfl
@[simp] theorem Part.setS_statusNew (p : Part) (n : Nat) (v : W64) : (p.setS n v).statusNew = p.statusNew := rfl
@[simp] theorem Part.setS_statusAt (p : Part) (n : Nat) (v : W64) : (p.setS n v).statusAt = p.statusAt := rfl
@[simp] theorem Part.setS_raised (p : Part) (n : Nat) (v : W64) : (p.setS n v).raised = p.raised := rfl
@[simp] theorem Part.setS_flags (p : Part) (n : Nat) (v : W64) : (p.setS n v).flags = p.flags := rfl
@[simp] theorem Part.setS_stopped (p : Part) (n : Nat) (v : W64) : (p.setS n v).stopped = p.stopped := rfl
@[simp] theorem Part.setS_confLeft (p : Part) (n : Nat) (v : W64) : (p.setS n v).confLeft = p.confLeft := rfl
@[simp] theorem Part.setS_sleepLeft (p : Part) (n : Nat) (v : W64) : (p.setS n v).sleepLeft = p.sleepLeft := rfl
@[simp] theorem Part.setS_parkedAt (p : Part) (n : Nat) (v : W64) : (p.setS n v).parkedAt = p.parkedAt := rfl
@[simp] theorem Part.setS_watchSkip (p : Part) (n : Nat) (v : W64) : (p.setS n v).watchSkip = p.watchSkip := rfl
@[simp] theorem Part.setS_gentryDue (p : Part) (n : Nat) (v : W64) : (p.setS n v).gentryDue = p.gentryDue := rfl
@[simp] theorem Part.setS_relAt (p : Part) (n : Nat) (v : W64) : (p.setS n v).relAt = p.relAt := rfl
@[simp] theorem Part.setS_forcedSave (p : Part) (n : Nat) (v : W64) : (p.setS n v).forcedSave = p.forcedSave := rfl

/-! ### `Part.orFp` -/

@[simp] theorem Part.orFp_base (p : Part) (f : BitVec 5) : (p.orFp f).base = p.base := rfl
@[simp] theorem Part.orFp_width (p : Part) (f : BitVec 5) : (p.orFp f).width = p.width := rfl
@[simp] theorem Part.orFp_pc (p : Part) (f : BitVec 5) : (p.orFp f).pc = p.pc := rfl
@[simp] theorem Part.orFp_cur (p : Part) (f : BitVec 5) : (p.orFp f).cur = p.cur := rfl
@[simp] theorem Part.orFp_waiting (p : Part) (f : BitVec 5) : (p.orFp f).waiting = p.waiting := rfl
@[simp] theorem Part.orFp_resume (p : Part) (f : BitVec 5) : (p.orFp f).resume = p.resume := rfl
@[simp] theorem Part.orFp_tcodeReg (p : Part) (f : BitVec 5) : (p.orFp f).tcodeReg = p.tcodeReg := rfl
@[simp] theorem Part.orFp_tdetail (p : Part) (f : BitVec 5) : (p.orFp f).tdetail = p.tdetail := rfl
@[simp] theorem Part.orFp_restart (p : Part) (f : BitVec 5) : (p.orFp f).restart = p.restart := rfl
@[simp] theorem Part.orFp_taddr (p : Part) (f : BitVec 5) : (p.orFp f).taddr = p.taddr := rfl
@[simp] theorem Part.orFp_tword (p : Part) (f : BitVec 5) : (p.orFp f).tword = p.tword := rfl
@[simp] theorem Part.orFp_mxRow (p : Part) (f : BitVec 5) : (p.orFp f).mxRow = p.mxRow := rfl
@[simp] theorem Part.orFp_mxTile (p : Part) (f : BitVec 5) : (p.orFp f).mxTile = p.mxTile := rfl
@[simp] theorem Part.orFp_mxActive (p : Part) (f : BitVec 5) : (p.orFp f).mxActive = p.mxActive := rfl
@[simp] theorem Part.orFp_region (p : Part) (f : BitVec 5) : (p.orFp f).region = p.region := rfl
@[simp] theorem Part.orFp_regionCount (p : Part) (f : BitVec 5) : (p.orFp f).regionCount = p.regionCount := rfl
@[simp] theorem Part.orFp_regionAt (p : Part) (f : BitVec 5) : (p.orFp f).regionAt = p.regionAt := rfl
@[simp] theorem Part.orFp_ldOps (p : Part) (f : BitVec 5) : (p.orFp f).ldOps = p.ldOps := rfl
@[simp] theorem Part.orFp_stOps (p : Part) (f : BitVec 5) : (p.orFp f).stOps = p.stOps := rfl
@[simp] theorem Part.orFp_cpOps (p : Part) (f : BitVec 5) : (p.orFp f).cpOps = p.cpOps := rfl
@[simp] theorem Part.orFp_mxOps (p : Part) (f : BitVec 5) : (p.orFp f).mxOps = p.mxOps := rfl
@[simp] theorem Part.orFp_recent (p : Part) (f : BitVec 5) : (p.orFp f).recent = p.recent := rfl
@[simp] theorem Part.orFp_frames (p : Part) (f : BitVec 5) : (p.orFp f).frames = p.frames := rfl
@[simp] theorem Part.orFp_park (p : Part) (f : BitVec 5) : (p.orFp f).park = p.park := rfl
@[simp] theorem Part.orFp_confId (p : Part) (f : BitVec 5) : (p.orFp f).confId = p.confId := rfl
@[simp] theorem Part.orFp_arrivals (p : Part) (f : BitVec 5) : (p.orFp f).arrivals = p.arrivals := rfl
@[simp] theorem Part.orFp_tcode (p : Part) (f : BitVec 5) : (p.orFp f).tcode = p.tcode := rfl
@[simp] theorem Part.orFp_tframe (p : Part) (f : BitVec 5) : (p.orFp f).tframe = p.tframe := rfl
@[simp] theorem Part.orFp_fails (p : Part) (f : BitVec 5) : (p.orFp f).fails = p.fails := rfl
@[simp] theorem Part.orFp_held (p : Part) (f : BitVec 5) : (p.orFp f).held = p.held := rfl
@[simp] theorem Part.orFp_acquiring (p : Part) (f : BitVec 5) : (p.orFp f).acquiring = p.acquiring := rfl
@[simp] theorem Part.orFp_lastIssue (p : Part) (f : BitVec 5) : (p.orFp f).lastIssue = p.lastIssue := rfl
@[simp] theorem Part.orFp_notBefore (p : Part) (f : BitVec 5) : (p.orFp f).notBefore = p.notBefore := rfl
@[simp] theorem Part.orFp_busy (p : Part) (f : BitVec 5) : (p.orFp f).busy = p.busy := rfl
@[simp] theorem Part.orFp_before (p : Part) (f : BitVec 5) : (p.orFp f).before = p.before := rfl
@[simp] theorem Part.orFp_statusNew (p : Part) (f : BitVec 5) : (p.orFp f).statusNew = p.statusNew := rfl
@[simp] theorem Part.orFp_statusAt (p : Part) (f : BitVec 5) : (p.orFp f).statusAt = p.statusAt := rfl
@[simp] theorem Part.orFp_flags (p : Part) (f : BitVec 5) : (p.orFp f).flags = p.flags := rfl
@[simp] theorem Part.orFp_stopped (p : Part) (f : BitVec 5) : (p.orFp f).stopped = p.stopped := rfl
@[simp] theorem Part.orFp_confLeft (p : Part) (f : BitVec 5) : (p.orFp f).confLeft = p.confLeft := rfl
@[simp] theorem Part.orFp_sleepLeft (p : Part) (f : BitVec 5) : (p.orFp f).sleepLeft = p.sleepLeft := rfl
@[simp] theorem Part.orFp_parkedAt (p : Part) (f : BitVec 5) : (p.orFp f).parkedAt = p.parkedAt := rfl
@[simp] theorem Part.orFp_watchSkip (p : Part) (f : BitVec 5) : (p.orFp f).watchSkip = p.watchSkip := rfl
@[simp] theorem Part.orFp_gentryDue (p : Part) (f : BitVec 5) : (p.orFp f).gentryDue = p.gentryDue := rfl
@[simp] theorem Part.orFp_relAt (p : Part) (f : BitVec 5) : (p.orFp f).relAt = p.relAt := rfl
@[simp] theorem Part.orFp_forcedSave (p : Part) (f : BitVec 5) : (p.orFp f).forcedSave = p.forcedSave := rfl

/-! ### `Part.orStatus` -/

@[simp] theorem Part.orStatus_base (p : Part) (f : BitVec 4) : (p.orStatus f).base = p.base := rfl
@[simp] theorem Part.orStatus_width (p : Part) (f : BitVec 4) : (p.orStatus f).width = p.width := rfl
@[simp] theorem Part.orStatus_pc (p : Part) (f : BitVec 4) : (p.orStatus f).pc = p.pc := rfl
@[simp] theorem Part.orStatus_cur (p : Part) (f : BitVec 4) : (p.orStatus f).cur = p.cur := rfl
@[simp] theorem Part.orStatus_waiting (p : Part) (f : BitVec 4) : (p.orStatus f).waiting = p.waiting := rfl
@[simp] theorem Part.orStatus_resume (p : Part) (f : BitVec 4) : (p.orStatus f).resume = p.resume := rfl
@[simp] theorem Part.orStatus_tcodeReg (p : Part) (f : BitVec 4) : (p.orStatus f).tcodeReg = p.tcodeReg := rfl
@[simp] theorem Part.orStatus_tdetail (p : Part) (f : BitVec 4) : (p.orStatus f).tdetail = p.tdetail := rfl
@[simp] theorem Part.orStatus_restart (p : Part) (f : BitVec 4) : (p.orStatus f).restart = p.restart := rfl
@[simp] theorem Part.orStatus_taddr (p : Part) (f : BitVec 4) : (p.orStatus f).taddr = p.taddr := rfl
@[simp] theorem Part.orStatus_tword (p : Part) (f : BitVec 4) : (p.orStatus f).tword = p.tword := rfl
@[simp] theorem Part.orStatus_mxRow (p : Part) (f : BitVec 4) : (p.orStatus f).mxRow = p.mxRow := rfl
@[simp] theorem Part.orStatus_mxTile (p : Part) (f : BitVec 4) : (p.orStatus f).mxTile = p.mxTile := rfl
@[simp] theorem Part.orStatus_mxActive (p : Part) (f : BitVec 4) : (p.orStatus f).mxActive = p.mxActive := rfl
@[simp] theorem Part.orStatus_region (p : Part) (f : BitVec 4) : (p.orStatus f).region = p.region := rfl
@[simp] theorem Part.orStatus_regionCount (p : Part) (f : BitVec 4) : (p.orStatus f).regionCount = p.regionCount := rfl
@[simp] theorem Part.orStatus_regionAt (p : Part) (f : BitVec 4) : (p.orStatus f).regionAt = p.regionAt := rfl
@[simp] theorem Part.orStatus_ldOps (p : Part) (f : BitVec 4) : (p.orStatus f).ldOps = p.ldOps := rfl
@[simp] theorem Part.orStatus_stOps (p : Part) (f : BitVec 4) : (p.orStatus f).stOps = p.stOps := rfl
@[simp] theorem Part.orStatus_cpOps (p : Part) (f : BitVec 4) : (p.orStatus f).cpOps = p.cpOps := rfl
@[simp] theorem Part.orStatus_mxOps (p : Part) (f : BitVec 4) : (p.orStatus f).mxOps = p.mxOps := rfl
@[simp] theorem Part.orStatus_recent (p : Part) (f : BitVec 4) : (p.orStatus f).recent = p.recent := rfl
@[simp] theorem Part.orStatus_frames (p : Part) (f : BitVec 4) : (p.orStatus f).frames = p.frames := rfl
@[simp] theorem Part.orStatus_park (p : Part) (f : BitVec 4) : (p.orStatus f).park = p.park := rfl
@[simp] theorem Part.orStatus_confId (p : Part) (f : BitVec 4) : (p.orStatus f).confId = p.confId := rfl
@[simp] theorem Part.orStatus_arrivals (p : Part) (f : BitVec 4) : (p.orStatus f).arrivals = p.arrivals := rfl
@[simp] theorem Part.orStatus_tcode (p : Part) (f : BitVec 4) : (p.orStatus f).tcode = p.tcode := rfl
@[simp] theorem Part.orStatus_tframe (p : Part) (f : BitVec 4) : (p.orStatus f).tframe = p.tframe := rfl
@[simp] theorem Part.orStatus_fails (p : Part) (f : BitVec 4) : (p.orStatus f).fails = p.fails := rfl
@[simp] theorem Part.orStatus_held (p : Part) (f : BitVec 4) : (p.orStatus f).held = p.held := rfl
@[simp] theorem Part.orStatus_acquiring (p : Part) (f : BitVec 4) : (p.orStatus f).acquiring = p.acquiring := rfl
@[simp] theorem Part.orStatus_lastIssue (p : Part) (f : BitVec 4) : (p.orStatus f).lastIssue = p.lastIssue := rfl
@[simp] theorem Part.orStatus_notBefore (p : Part) (f : BitVec 4) : (p.orStatus f).notBefore = p.notBefore := rfl
@[simp] theorem Part.orStatus_busy (p : Part) (f : BitVec 4) : (p.orStatus f).busy = p.busy := rfl
@[simp] theorem Part.orStatus_before (p : Part) (f : BitVec 4) : (p.orStatus f).before = p.before := rfl
@[simp] theorem Part.orStatus_statusNew (p : Part) (f : BitVec 4) : (p.orStatus f).statusNew = p.statusNew := rfl
@[simp] theorem Part.orStatus_statusAt (p : Part) (f : BitVec 4) : (p.orStatus f).statusAt = p.statusAt := rfl
@[simp] theorem Part.orStatus_raised (p : Part) (f : BitVec 4) : (p.orStatus f).raised = p.raised := rfl
@[simp] theorem Part.orStatus_flags (p : Part) (f : BitVec 4) : (p.orStatus f).flags = p.flags := rfl
@[simp] theorem Part.orStatus_stopped (p : Part) (f : BitVec 4) : (p.orStatus f).stopped = p.stopped := rfl
@[simp] theorem Part.orStatus_confLeft (p : Part) (f : BitVec 4) : (p.orStatus f).confLeft = p.confLeft := rfl
@[simp] theorem Part.orStatus_sleepLeft (p : Part) (f : BitVec 4) : (p.orStatus f).sleepLeft = p.sleepLeft := rfl
@[simp] theorem Part.orStatus_parkedAt (p : Part) (f : BitVec 4) : (p.orStatus f).parkedAt = p.parkedAt := rfl
@[simp] theorem Part.orStatus_watchSkip (p : Part) (f : BitVec 4) : (p.orStatus f).watchSkip = p.watchSkip := rfl
@[simp] theorem Part.orStatus_gentryDue (p : Part) (f : BitVec 4) : (p.orStatus f).gentryDue = p.gentryDue := rfl
@[simp] theorem Part.orStatus_relAt (p : Part) (f : BitVec 4) : (p.orStatus f).relAt = p.relAt := rfl
@[simp] theorem Part.orStatus_forcedSave (p : Part) (f : BitVec 4) : (p.orStatus f).forcedSave = p.forcedSave := rfl

/-! ### `Part.raiseStatus` -/

@[simp] theorem Part.raiseStatus_base (p : Part) (f : BitVec 4) : (p.raiseStatus f).base = p.base := rfl
@[simp] theorem Part.raiseStatus_width (p : Part) (f : BitVec 4) : (p.raiseStatus f).width = p.width := rfl
@[simp] theorem Part.raiseStatus_pc (p : Part) (f : BitVec 4) : (p.raiseStatus f).pc = p.pc := rfl
@[simp] theorem Part.raiseStatus_cur (p : Part) (f : BitVec 4) : (p.raiseStatus f).cur = p.cur := rfl
@[simp] theorem Part.raiseStatus_waiting (p : Part) (f : BitVec 4) : (p.raiseStatus f).waiting = p.waiting := rfl
@[simp] theorem Part.raiseStatus_resume (p : Part) (f : BitVec 4) : (p.raiseStatus f).resume = p.resume := rfl
@[simp] theorem Part.raiseStatus_tcodeReg (p : Part) (f : BitVec 4) : (p.raiseStatus f).tcodeReg = p.tcodeReg := rfl
@[simp] theorem Part.raiseStatus_tdetail (p : Part) (f : BitVec 4) : (p.raiseStatus f).tdetail = p.tdetail := rfl
@[simp] theorem Part.raiseStatus_restart (p : Part) (f : BitVec 4) : (p.raiseStatus f).restart = p.restart := rfl
@[simp] theorem Part.raiseStatus_taddr (p : Part) (f : BitVec 4) : (p.raiseStatus f).taddr = p.taddr := rfl
@[simp] theorem Part.raiseStatus_tword (p : Part) (f : BitVec 4) : (p.raiseStatus f).tword = p.tword := rfl
@[simp] theorem Part.raiseStatus_mxRow (p : Part) (f : BitVec 4) : (p.raiseStatus f).mxRow = p.mxRow := rfl
@[simp] theorem Part.raiseStatus_mxTile (p : Part) (f : BitVec 4) : (p.raiseStatus f).mxTile = p.mxTile := rfl
@[simp] theorem Part.raiseStatus_mxActive (p : Part) (f : BitVec 4) : (p.raiseStatus f).mxActive = p.mxActive := rfl
@[simp] theorem Part.raiseStatus_region (p : Part) (f : BitVec 4) : (p.raiseStatus f).region = p.region := rfl
@[simp] theorem Part.raiseStatus_regionCount (p : Part) (f : BitVec 4) : (p.raiseStatus f).regionCount = p.regionCount := rfl
@[simp] theorem Part.raiseStatus_regionAt (p : Part) (f : BitVec 4) : (p.raiseStatus f).regionAt = p.regionAt := rfl
@[simp] theorem Part.raiseStatus_ldOps (p : Part) (f : BitVec 4) : (p.raiseStatus f).ldOps = p.ldOps := rfl
@[simp] theorem Part.raiseStatus_stOps (p : Part) (f : BitVec 4) : (p.raiseStatus f).stOps = p.stOps := rfl
@[simp] theorem Part.raiseStatus_cpOps (p : Part) (f : BitVec 4) : (p.raiseStatus f).cpOps = p.cpOps := rfl
@[simp] theorem Part.raiseStatus_mxOps (p : Part) (f : BitVec 4) : (p.raiseStatus f).mxOps = p.mxOps := rfl
@[simp] theorem Part.raiseStatus_recent (p : Part) (f : BitVec 4) : (p.raiseStatus f).recent = p.recent := rfl
@[simp] theorem Part.raiseStatus_frames (p : Part) (f : BitVec 4) : (p.raiseStatus f).frames = p.frames := rfl
@[simp] theorem Part.raiseStatus_park (p : Part) (f : BitVec 4) : (p.raiseStatus f).park = p.park := rfl
@[simp] theorem Part.raiseStatus_confId (p : Part) (f : BitVec 4) : (p.raiseStatus f).confId = p.confId := rfl
@[simp] theorem Part.raiseStatus_arrivals (p : Part) (f : BitVec 4) : (p.raiseStatus f).arrivals = p.arrivals := rfl
@[simp] theorem Part.raiseStatus_tcode (p : Part) (f : BitVec 4) : (p.raiseStatus f).tcode = p.tcode := rfl
@[simp] theorem Part.raiseStatus_tframe (p : Part) (f : BitVec 4) : (p.raiseStatus f).tframe = p.tframe := rfl
@[simp] theorem Part.raiseStatus_fails (p : Part) (f : BitVec 4) : (p.raiseStatus f).fails = p.fails := rfl
@[simp] theorem Part.raiseStatus_held (p : Part) (f : BitVec 4) : (p.raiseStatus f).held = p.held := rfl
@[simp] theorem Part.raiseStatus_acquiring (p : Part) (f : BitVec 4) : (p.raiseStatus f).acquiring = p.acquiring := rfl
@[simp] theorem Part.raiseStatus_lastIssue (p : Part) (f : BitVec 4) : (p.raiseStatus f).lastIssue = p.lastIssue := rfl
@[simp] theorem Part.raiseStatus_notBefore (p : Part) (f : BitVec 4) : (p.raiseStatus f).notBefore = p.notBefore := rfl
@[simp] theorem Part.raiseStatus_busy (p : Part) (f : BitVec 4) : (p.raiseStatus f).busy = p.busy := rfl
@[simp] theorem Part.raiseStatus_before (p : Part) (f : BitVec 4) : (p.raiseStatus f).before = p.before := rfl
@[simp] theorem Part.raiseStatus_statusNew (p : Part) (f : BitVec 4) : (p.raiseStatus f).statusNew = p.statusNew := rfl
@[simp] theorem Part.raiseStatus_statusAt (p : Part) (f : BitVec 4) : (p.raiseStatus f).statusAt = p.statusAt := rfl
@[simp] theorem Part.raiseStatus_flags (p : Part) (f : BitVec 4) : (p.raiseStatus f).flags = p.flags := rfl
@[simp] theorem Part.raiseStatus_stopped (p : Part) (f : BitVec 4) : (p.raiseStatus f).stopped = p.stopped := rfl
@[simp] theorem Part.raiseStatus_confLeft (p : Part) (f : BitVec 4) : (p.raiseStatus f).confLeft = p.confLeft := rfl
@[simp] theorem Part.raiseStatus_sleepLeft (p : Part) (f : BitVec 4) : (p.raiseStatus f).sleepLeft = p.sleepLeft := rfl
@[simp] theorem Part.raiseStatus_parkedAt (p : Part) (f : BitVec 4) : (p.raiseStatus f).parkedAt = p.parkedAt := rfl
@[simp] theorem Part.raiseStatus_watchSkip (p : Part) (f : BitVec 4) : (p.raiseStatus f).watchSkip = p.watchSkip := rfl
@[simp] theorem Part.raiseStatus_gentryDue (p : Part) (f : BitVec 4) : (p.raiseStatus f).gentryDue = p.gentryDue := rfl
@[simp] theorem Part.raiseStatus_relAt (p : Part) (f : BitVec 4) : (p.raiseStatus f).relAt = p.relAt := rfl
@[simp] theorem Part.raiseStatus_forcedSave (p : Part) (f : BitVec 4) : (p.raiseStatus f).forcedSave = p.forcedSave := rfl

/-! ### `Part.issued` -/

@[simp] theorem Part.issued_base (p : Part) (now d : Nat) : (p.issued now d).base = p.base := rfl
@[simp] theorem Part.issued_width (p : Part) (now d : Nat) : (p.issued now d).width = p.width := rfl
@[simp] theorem Part.issued_pc (p : Part) (now d : Nat) : (p.issued now d).pc = p.pc := rfl
@[simp] theorem Part.issued_cur (p : Part) (now d : Nat) : (p.issued now d).cur = p.cur := rfl
@[simp] theorem Part.issued_waiting (p : Part) (now d : Nat) : (p.issued now d).waiting = p.waiting := rfl
@[simp] theorem Part.issued_resume (p : Part) (now d : Nat) : (p.issued now d).resume = p.resume := rfl
@[simp] theorem Part.issued_regs (p : Part) (now d : Nat) : (p.issued now d).regs = p.regs := rfl
@[simp] theorem Part.issued_tcodeReg (p : Part) (now d : Nat) : (p.issued now d).tcodeReg = p.tcodeReg := rfl
@[simp] theorem Part.issued_tdetail (p : Part) (now d : Nat) : (p.issued now d).tdetail = p.tdetail := rfl
@[simp] theorem Part.issued_restart (p : Part) (now d : Nat) : (p.issued now d).restart = p.restart := rfl
@[simp] theorem Part.issued_taddr (p : Part) (now d : Nat) : (p.issued now d).taddr = p.taddr := rfl
@[simp] theorem Part.issued_tword (p : Part) (now d : Nat) : (p.issued now d).tword = p.tword := rfl
@[simp] theorem Part.issued_mxRow (p : Part) (now d : Nat) : (p.issued now d).mxRow = p.mxRow := rfl
@[simp] theorem Part.issued_mxTile (p : Part) (now d : Nat) : (p.issued now d).mxTile = p.mxTile := rfl
@[simp] theorem Part.issued_mxActive (p : Part) (now d : Nat) : (p.issued now d).mxActive = p.mxActive := rfl
@[simp] theorem Part.issued_region (p : Part) (now d : Nat) : (p.issued now d).region = p.region := rfl
@[simp] theorem Part.issued_regionCount (p : Part) (now d : Nat) : (p.issued now d).regionCount = p.regionCount := rfl
@[simp] theorem Part.issued_regionAt (p : Part) (now d : Nat) : (p.issued now d).regionAt = p.regionAt := rfl
@[simp] theorem Part.issued_ldOps (p : Part) (now d : Nat) : (p.issued now d).ldOps = p.ldOps := rfl
@[simp] theorem Part.issued_stOps (p : Part) (now d : Nat) : (p.issued now d).stOps = p.stOps := rfl
@[simp] theorem Part.issued_cpOps (p : Part) (now d : Nat) : (p.issued now d).cpOps = p.cpOps := rfl
@[simp] theorem Part.issued_mxOps (p : Part) (now d : Nat) : (p.issued now d).mxOps = p.mxOps := rfl
@[simp] theorem Part.issued_recent (p : Part) (now d : Nat) : (p.issued now d).recent = p.recent := rfl
@[simp] theorem Part.issued_frames (p : Part) (now d : Nat) : (p.issued now d).frames = p.frames := rfl
@[simp] theorem Part.issued_confId (p : Part) (now d : Nat) : (p.issued now d).confId = p.confId := rfl
@[simp] theorem Part.issued_arrivals (p : Part) (now d : Nat) : (p.issued now d).arrivals = p.arrivals := rfl
@[simp] theorem Part.issued_tcode (p : Part) (now d : Nat) : (p.issued now d).tcode = p.tcode := rfl
@[simp] theorem Part.issued_tframe (p : Part) (now d : Nat) : (p.issued now d).tframe = p.tframe := rfl
@[simp] theorem Part.issued_fails (p : Part) (now d : Nat) : (p.issued now d).fails = p.fails := rfl
@[simp] theorem Part.issued_held (p : Part) (now d : Nat) : (p.issued now d).held = p.held := rfl
@[simp] theorem Part.issued_acquiring (p : Part) (now d : Nat) : (p.issued now d).acquiring = p.acquiring := rfl
@[simp] theorem Part.issued_busy (p : Part) (now d : Nat) : (p.issued now d).busy = p.busy := rfl
@[simp] theorem Part.issued_before (p : Part) (now d : Nat) : (p.issued now d).before = p.before := rfl
@[simp] theorem Part.issued_statusNew (p : Part) (now d : Nat) : (p.issued now d).statusNew = p.statusNew := rfl
@[simp] theorem Part.issued_statusAt (p : Part) (now d : Nat) : (p.issued now d).statusAt = p.statusAt := rfl
@[simp] theorem Part.issued_raised (p : Part) (now d : Nat) : (p.issued now d).raised = p.raised := rfl
@[simp] theorem Part.issued_flags (p : Part) (now d : Nat) : (p.issued now d).flags = p.flags := rfl
@[simp] theorem Part.issued_stopped (p : Part) (now d : Nat) : (p.issued now d).stopped = p.stopped := rfl
@[simp] theorem Part.issued_confLeft (p : Part) (now d : Nat) : (p.issued now d).confLeft = p.confLeft := rfl
@[simp] theorem Part.issued_sleepLeft (p : Part) (now d : Nat) : (p.issued now d).sleepLeft = p.sleepLeft := rfl
@[simp] theorem Part.issued_parkedAt (p : Part) (now d : Nat) : (p.issued now d).parkedAt = p.parkedAt := rfl
@[simp] theorem Part.issued_forcedSave (p : Part) (now d : Nat) : (p.issued now d).forcedSave = p.forcedSave := rfl

/-! ### `Part.moveTo` -/

@[simp] theorem Part.moveTo_base (p : Part) (a : W64) : (p.moveTo a).base = p.base := rfl
@[simp] theorem Part.moveTo_width (p : Part) (a : W64) : (p.moveTo a).width = p.width := rfl
@[simp] theorem Part.moveTo_regs (p : Part) (a : W64) : (p.moveTo a).regs = p.regs := rfl
@[simp] theorem Part.moveTo_tcodeReg (p : Part) (a : W64) : (p.moveTo a).tcodeReg = p.tcodeReg := rfl
@[simp] theorem Part.moveTo_tdetail (p : Part) (a : W64) : (p.moveTo a).tdetail = p.tdetail := rfl
@[simp] theorem Part.moveTo_restart (p : Part) (a : W64) : (p.moveTo a).restart = p.restart := rfl
@[simp] theorem Part.moveTo_taddr (p : Part) (a : W64) : (p.moveTo a).taddr = p.taddr := rfl
@[simp] theorem Part.moveTo_tword (p : Part) (a : W64) : (p.moveTo a).tword = p.tword := rfl
@[simp] theorem Part.moveTo_mxRow (p : Part) (a : W64) : (p.moveTo a).mxRow = p.mxRow := rfl
@[simp] theorem Part.moveTo_mxTile (p : Part) (a : W64) : (p.moveTo a).mxTile = p.mxTile := rfl
@[simp] theorem Part.moveTo_mxActive (p : Part) (a : W64) : (p.moveTo a).mxActive = p.mxActive := rfl
@[simp] theorem Part.moveTo_region (p : Part) (a : W64) : (p.moveTo a).region = p.region := rfl
@[simp] theorem Part.moveTo_regionCount (p : Part) (a : W64) : (p.moveTo a).regionCount = p.regionCount := rfl
@[simp] theorem Part.moveTo_regionAt (p : Part) (a : W64) : (p.moveTo a).regionAt = p.regionAt := rfl
@[simp] theorem Part.moveTo_ldOps (p : Part) (a : W64) : (p.moveTo a).ldOps = p.ldOps := rfl
@[simp] theorem Part.moveTo_stOps (p : Part) (a : W64) : (p.moveTo a).stOps = p.stOps := rfl
@[simp] theorem Part.moveTo_cpOps (p : Part) (a : W64) : (p.moveTo a).cpOps = p.cpOps := rfl
@[simp] theorem Part.moveTo_mxOps (p : Part) (a : W64) : (p.moveTo a).mxOps = p.mxOps := rfl
@[simp] theorem Part.moveTo_recent (p : Part) (a : W64) : (p.moveTo a).recent = p.recent := rfl
@[simp] theorem Part.moveTo_frames (p : Part) (a : W64) : (p.moveTo a).frames = p.frames := rfl
@[simp] theorem Part.moveTo_park (p : Part) (a : W64) : (p.moveTo a).park = p.park := rfl
@[simp] theorem Part.moveTo_confId (p : Part) (a : W64) : (p.moveTo a).confId = p.confId := rfl
@[simp] theorem Part.moveTo_arrivals (p : Part) (a : W64) : (p.moveTo a).arrivals = p.arrivals := rfl
@[simp] theorem Part.moveTo_tcode (p : Part) (a : W64) : (p.moveTo a).tcode = p.tcode := rfl
@[simp] theorem Part.moveTo_tframe (p : Part) (a : W64) : (p.moveTo a).tframe = p.tframe := rfl
@[simp] theorem Part.moveTo_fails (p : Part) (a : W64) : (p.moveTo a).fails = p.fails := rfl
@[simp] theorem Part.moveTo_held (p : Part) (a : W64) : (p.moveTo a).held = p.held := rfl
@[simp] theorem Part.moveTo_acquiring (p : Part) (a : W64) : (p.moveTo a).acquiring = p.acquiring := rfl
@[simp] theorem Part.moveTo_lastIssue (p : Part) (a : W64) : (p.moveTo a).lastIssue = p.lastIssue := rfl
@[simp] theorem Part.moveTo_notBefore (p : Part) (a : W64) : (p.moveTo a).notBefore = p.notBefore := rfl
@[simp] theorem Part.moveTo_busy (p : Part) (a : W64) : (p.moveTo a).busy = p.busy := rfl
@[simp] theorem Part.moveTo_before (p : Part) (a : W64) : (p.moveTo a).before = p.before := rfl
@[simp] theorem Part.moveTo_statusNew (p : Part) (a : W64) : (p.moveTo a).statusNew = p.statusNew := rfl
@[simp] theorem Part.moveTo_statusAt (p : Part) (a : W64) : (p.moveTo a).statusAt = p.statusAt := rfl
@[simp] theorem Part.moveTo_raised (p : Part) (a : W64) : (p.moveTo a).raised = p.raised := rfl
@[simp] theorem Part.moveTo_flags (p : Part) (a : W64) : (p.moveTo a).flags = p.flags := rfl
@[simp] theorem Part.moveTo_stopped (p : Part) (a : W64) : (p.moveTo a).stopped = p.stopped := rfl
@[simp] theorem Part.moveTo_confLeft (p : Part) (a : W64) : (p.moveTo a).confLeft = p.confLeft := rfl
@[simp] theorem Part.moveTo_sleepLeft (p : Part) (a : W64) : (p.moveTo a).sleepLeft = p.sleepLeft := rfl
@[simp] theorem Part.moveTo_parkedAt (p : Part) (a : W64) : (p.moveTo a).parkedAt = p.parkedAt := rfl
@[simp] theorem Part.moveTo_watchSkip (p : Part) (a : W64) : (p.moveTo a).watchSkip = p.watchSkip := rfl
@[simp] theorem Part.moveTo_gentryDue (p : Part) (a : W64) : (p.moveTo a).gentryDue = p.gentryDue := rfl
@[simp] theorem Part.moveTo_relAt (p : Part) (a : W64) : (p.moveTo a).relAt = p.relAt := rfl
@[simp] theorem Part.moveTo_forcedSave (p : Part) (a : W64) : (p.moveTo a).forcedSave = p.forcedSave := rfl

/-! ### `Part.writeTstat` -/

@[simp] theorem Part.writeTstat_base (p : Part) (t : Trap) : (p.writeTstat t).base = p.base := rfl
@[simp] theorem Part.writeTstat_width (p : Part) (t : Trap) : (p.writeTstat t).width = p.width := rfl
@[simp] theorem Part.writeTstat_pc (p : Part) (t : Trap) : (p.writeTstat t).pc = p.pc := rfl
@[simp] theorem Part.writeTstat_cur (p : Part) (t : Trap) : (p.writeTstat t).cur = p.cur := rfl
@[simp] theorem Part.writeTstat_waiting (p : Part) (t : Trap) : (p.writeTstat t).waiting = p.waiting := rfl
@[simp] theorem Part.writeTstat_resume (p : Part) (t : Trap) : (p.writeTstat t).resume = p.resume := rfl
@[simp] theorem Part.writeTstat_regs (p : Part) (t : Trap) : (p.writeTstat t).regs = p.regs := rfl
@[simp] theorem Part.writeTstat_mxRow (p : Part) (t : Trap) : (p.writeTstat t).mxRow = p.mxRow := rfl
@[simp] theorem Part.writeTstat_mxTile (p : Part) (t : Trap) : (p.writeTstat t).mxTile = p.mxTile := rfl
@[simp] theorem Part.writeTstat_mxActive (p : Part) (t : Trap) : (p.writeTstat t).mxActive = p.mxActive := rfl
@[simp] theorem Part.writeTstat_region (p : Part) (t : Trap) : (p.writeTstat t).region = p.region := rfl
@[simp] theorem Part.writeTstat_regionCount (p : Part) (t : Trap) : (p.writeTstat t).regionCount = p.regionCount := rfl
@[simp] theorem Part.writeTstat_regionAt (p : Part) (t : Trap) : (p.writeTstat t).regionAt = p.regionAt := rfl
@[simp] theorem Part.writeTstat_ldOps (p : Part) (t : Trap) : (p.writeTstat t).ldOps = p.ldOps := rfl
@[simp] theorem Part.writeTstat_stOps (p : Part) (t : Trap) : (p.writeTstat t).stOps = p.stOps := rfl
@[simp] theorem Part.writeTstat_cpOps (p : Part) (t : Trap) : (p.writeTstat t).cpOps = p.cpOps := rfl
@[simp] theorem Part.writeTstat_mxOps (p : Part) (t : Trap) : (p.writeTstat t).mxOps = p.mxOps := rfl
@[simp] theorem Part.writeTstat_recent (p : Part) (t : Trap) : (p.writeTstat t).recent = p.recent := rfl
@[simp] theorem Part.writeTstat_frames (p : Part) (t : Trap) : (p.writeTstat t).frames = p.frames := rfl
@[simp] theorem Part.writeTstat_park (p : Part) (t : Trap) : (p.writeTstat t).park = p.park := rfl
@[simp] theorem Part.writeTstat_confId (p : Part) (t : Trap) : (p.writeTstat t).confId = p.confId := rfl
@[simp] theorem Part.writeTstat_arrivals (p : Part) (t : Trap) : (p.writeTstat t).arrivals = p.arrivals := rfl
@[simp] theorem Part.writeTstat_tcode (p : Part) (t : Trap) : (p.writeTstat t).tcode = p.tcode := rfl
@[simp] theorem Part.writeTstat_tframe (p : Part) (t : Trap) : (p.writeTstat t).tframe = p.tframe := rfl
@[simp] theorem Part.writeTstat_fails (p : Part) (t : Trap) : (p.writeTstat t).fails = p.fails := rfl
@[simp] theorem Part.writeTstat_held (p : Part) (t : Trap) : (p.writeTstat t).held = p.held := rfl
@[simp] theorem Part.writeTstat_acquiring (p : Part) (t : Trap) : (p.writeTstat t).acquiring = p.acquiring := rfl
@[simp] theorem Part.writeTstat_lastIssue (p : Part) (t : Trap) : (p.writeTstat t).lastIssue = p.lastIssue := rfl
@[simp] theorem Part.writeTstat_notBefore (p : Part) (t : Trap) : (p.writeTstat t).notBefore = p.notBefore := rfl
@[simp] theorem Part.writeTstat_busy (p : Part) (t : Trap) : (p.writeTstat t).busy = p.busy := rfl
@[simp] theorem Part.writeTstat_before (p : Part) (t : Trap) : (p.writeTstat t).before = p.before := rfl
@[simp] theorem Part.writeTstat_statusNew (p : Part) (t : Trap) : (p.writeTstat t).statusNew = p.statusNew := rfl
@[simp] theorem Part.writeTstat_statusAt (p : Part) (t : Trap) : (p.writeTstat t).statusAt = p.statusAt := rfl
@[simp] theorem Part.writeTstat_raised (p : Part) (t : Trap) : (p.writeTstat t).raised = p.raised := rfl
@[simp] theorem Part.writeTstat_flags (p : Part) (t : Trap) : (p.writeTstat t).flags = p.flags := rfl
@[simp] theorem Part.writeTstat_stopped (p : Part) (t : Trap) : (p.writeTstat t).stopped = p.stopped := rfl
@[simp] theorem Part.writeTstat_confLeft (p : Part) (t : Trap) : (p.writeTstat t).confLeft = p.confLeft := rfl
@[simp] theorem Part.writeTstat_sleepLeft (p : Part) (t : Trap) : (p.writeTstat t).sleepLeft = p.sleepLeft := rfl
@[simp] theorem Part.writeTstat_parkedAt (p : Part) (t : Trap) : (p.writeTstat t).parkedAt = p.parkedAt := rfl
@[simp] theorem Part.writeTstat_watchSkip (p : Part) (t : Trap) : (p.writeTstat t).watchSkip = p.watchSkip := rfl
@[simp] theorem Part.writeTstat_gentryDue (p : Part) (t : Trap) : (p.writeTstat t).gentryDue = p.gentryDue := rfl
@[simp] theorem Part.writeTstat_relAt (p : Part) (t : Trap) : (p.writeTstat t).relAt = p.relAt := rfl
@[simp] theorem Part.writeTstat_forcedSave (p : Part) (t : Trap) : (p.writeTstat t).forcedSave = p.forcedSave := rfl

/-! ### `Part.enterHandler` -/

@[simp] theorem Part.enterHandler_base (p : Part) (t : Trap) (now : Nat) : (p.enterHandler t now).base = p.base := rfl
@[simp] theorem Part.enterHandler_width (p : Part) (t : Trap) (now : Nat) : (p.enterHandler t now).width = p.width := rfl
@[simp] theorem Part.enterHandler_cur (p : Part) (t : Trap) (now : Nat) : (p.enterHandler t now).cur = p.cur := rfl
@[simp] theorem Part.enterHandler_resume (p : Part) (t : Trap) (now : Nat) : (p.enterHandler t now).resume = p.resume := rfl
@[simp] theorem Part.enterHandler_mxRow (p : Part) (t : Trap) (now : Nat) : (p.enterHandler t now).mxRow = p.mxRow := rfl
@[simp] theorem Part.enterHandler_mxTile (p : Part) (t : Trap) (now : Nat) : (p.enterHandler t now).mxTile = p.mxTile := rfl
@[simp] theorem Part.enterHandler_mxActive (p : Part) (t : Trap) (now : Nat) : (p.enterHandler t now).mxActive = p.mxActive := rfl
@[simp] theorem Part.enterHandler_region (p : Part) (t : Trap) (now : Nat) : (p.enterHandler t now).region = p.region := rfl
@[simp] theorem Part.enterHandler_regionCount (p : Part) (t : Trap) (now : Nat) : (p.enterHandler t now).regionCount = p.regionCount := rfl
@[simp] theorem Part.enterHandler_regionAt (p : Part) (t : Trap) (now : Nat) : (p.enterHandler t now).regionAt = p.regionAt := rfl
@[simp] theorem Part.enterHandler_ldOps (p : Part) (t : Trap) (now : Nat) : (p.enterHandler t now).ldOps = p.ldOps := rfl
@[simp] theorem Part.enterHandler_stOps (p : Part) (t : Trap) (now : Nat) : (p.enterHandler t now).stOps = p.stOps := rfl
@[simp] theorem Part.enterHandler_cpOps (p : Part) (t : Trap) (now : Nat) : (p.enterHandler t now).cpOps = p.cpOps := rfl
@[simp] theorem Part.enterHandler_mxOps (p : Part) (t : Trap) (now : Nat) : (p.enterHandler t now).mxOps = p.mxOps := rfl
@[simp] theorem Part.enterHandler_recent (p : Part) (t : Trap) (now : Nat) : (p.enterHandler t now).recent = p.recent := rfl
@[simp] theorem Part.enterHandler_frames (p : Part) (t : Trap) (now : Nat) : (p.enterHandler t now).frames = p.frames := rfl
@[simp] theorem Part.enterHandler_confId (p : Part) (t : Trap) (now : Nat) : (p.enterHandler t now).confId = p.confId := rfl
@[simp] theorem Part.enterHandler_arrivals (p : Part) (t : Trap) (now : Nat) : (p.enterHandler t now).arrivals = p.arrivals := rfl
@[simp] theorem Part.enterHandler_fails (p : Part) (t : Trap) (now : Nat) : (p.enterHandler t now).fails = p.fails := rfl
@[simp] theorem Part.enterHandler_held (p : Part) (t : Trap) (now : Nat) : (p.enterHandler t now).held = p.held := rfl
@[simp] theorem Part.enterHandler_acquiring (p : Part) (t : Trap) (now : Nat) : (p.enterHandler t now).acquiring = p.acquiring := rfl
@[simp] theorem Part.enterHandler_busy (p : Part) (t : Trap) (now : Nat) : (p.enterHandler t now).busy = p.busy := rfl
@[simp] theorem Part.enterHandler_before (p : Part) (t : Trap) (now : Nat) : (p.enterHandler t now).before = p.before := rfl
@[simp] theorem Part.enterHandler_statusNew (p : Part) (t : Trap) (now : Nat) : (p.enterHandler t now).statusNew = p.statusNew := rfl
@[simp] theorem Part.enterHandler_statusAt (p : Part) (t : Trap) (now : Nat) : (p.enterHandler t now).statusAt = p.statusAt := rfl
@[simp] theorem Part.enterHandler_raised (p : Part) (t : Trap) (now : Nat) : (p.enterHandler t now).raised = p.raised := rfl
@[simp] theorem Part.enterHandler_flags (p : Part) (t : Trap) (now : Nat) : (p.enterHandler t now).flags = p.flags := rfl
@[simp] theorem Part.enterHandler_stopped (p : Part) (t : Trap) (now : Nat) : (p.enterHandler t now).stopped = p.stopped := rfl
@[simp] theorem Part.enterHandler_confLeft (p : Part) (t : Trap) (now : Nat) : (p.enterHandler t now).confLeft = p.confLeft := rfl
@[simp] theorem Part.enterHandler_sleepLeft (p : Part) (t : Trap) (now : Nat) : (p.enterHandler t now).sleepLeft = p.sleepLeft := rfl
@[simp] theorem Part.enterHandler_parkedAt (p : Part) (t : Trap) (now : Nat) : (p.enterHandler t now).parkedAt = p.parkedAt := rfl
@[simp] theorem Part.enterHandler_forcedSave (p : Part) (t : Trap) (now : Nat) : (p.enterHandler t now).forcedSave = p.forcedSave := rfl

/-! ### `Part.enterRegion` -/

@[simp] theorem Part.enterRegion_base (p : Part) (a : W64) (counted : Bool) (now : Nat) : (p.enterRegion a counted now).base = p.base := rfl
@[simp] theorem Part.enterRegion_width (p : Part) (a : W64) (counted : Bool) (now : Nat) : (p.enterRegion a counted now).width = p.width := rfl
@[simp] theorem Part.enterRegion_pc (p : Part) (a : W64) (counted : Bool) (now : Nat) : (p.enterRegion a counted now).pc = p.pc := rfl
@[simp] theorem Part.enterRegion_cur (p : Part) (a : W64) (counted : Bool) (now : Nat) : (p.enterRegion a counted now).cur = p.cur := rfl
@[simp] theorem Part.enterRegion_waiting (p : Part) (a : W64) (counted : Bool) (now : Nat) : (p.enterRegion a counted now).waiting = p.waiting := rfl
@[simp] theorem Part.enterRegion_resume (p : Part) (a : W64) (counted : Bool) (now : Nat) : (p.enterRegion a counted now).resume = p.resume := rfl
@[simp] theorem Part.enterRegion_regs (p : Part) (a : W64) (counted : Bool) (now : Nat) : (p.enterRegion a counted now).regs = p.regs := rfl
@[simp] theorem Part.enterRegion_tcodeReg (p : Part) (a : W64) (counted : Bool) (now : Nat) : (p.enterRegion a counted now).tcodeReg = p.tcodeReg := rfl
@[simp] theorem Part.enterRegion_tdetail (p : Part) (a : W64) (counted : Bool) (now : Nat) : (p.enterRegion a counted now).tdetail = p.tdetail := rfl
@[simp] theorem Part.enterRegion_restart (p : Part) (a : W64) (counted : Bool) (now : Nat) : (p.enterRegion a counted now).restart = p.restart := rfl
@[simp] theorem Part.enterRegion_taddr (p : Part) (a : W64) (counted : Bool) (now : Nat) : (p.enterRegion a counted now).taddr = p.taddr := rfl
@[simp] theorem Part.enterRegion_tword (p : Part) (a : W64) (counted : Bool) (now : Nat) : (p.enterRegion a counted now).tword = p.tword := rfl
@[simp] theorem Part.enterRegion_mxRow (p : Part) (a : W64) (counted : Bool) (now : Nat) : (p.enterRegion a counted now).mxRow = p.mxRow := rfl
@[simp] theorem Part.enterRegion_mxTile (p : Part) (a : W64) (counted : Bool) (now : Nat) : (p.enterRegion a counted now).mxTile = p.mxTile := rfl
@[simp] theorem Part.enterRegion_mxActive (p : Part) (a : W64) (counted : Bool) (now : Nat) : (p.enterRegion a counted now).mxActive = p.mxActive := rfl
@[simp] theorem Part.enterRegion_ldOps (p : Part) (a : W64) (counted : Bool) (now : Nat) : (p.enterRegion a counted now).ldOps = p.ldOps := rfl
@[simp] theorem Part.enterRegion_stOps (p : Part) (a : W64) (counted : Bool) (now : Nat) : (p.enterRegion a counted now).stOps = p.stOps := rfl
@[simp] theorem Part.enterRegion_cpOps (p : Part) (a : W64) (counted : Bool) (now : Nat) : (p.enterRegion a counted now).cpOps = p.cpOps := rfl
@[simp] theorem Part.enterRegion_mxOps (p : Part) (a : W64) (counted : Bool) (now : Nat) : (p.enterRegion a counted now).mxOps = p.mxOps := rfl
@[simp] theorem Part.enterRegion_recent (p : Part) (a : W64) (counted : Bool) (now : Nat) : (p.enterRegion a counted now).recent = p.recent := rfl
@[simp] theorem Part.enterRegion_frames (p : Part) (a : W64) (counted : Bool) (now : Nat) : (p.enterRegion a counted now).frames = p.frames := rfl
@[simp] theorem Part.enterRegion_park (p : Part) (a : W64) (counted : Bool) (now : Nat) : (p.enterRegion a counted now).park = p.park := rfl
@[simp] theorem Part.enterRegion_confId (p : Part) (a : W64) (counted : Bool) (now : Nat) : (p.enterRegion a counted now).confId = p.confId := rfl
@[simp] theorem Part.enterRegion_arrivals (p : Part) (a : W64) (counted : Bool) (now : Nat) : (p.enterRegion a counted now).arrivals = p.arrivals := rfl
@[simp] theorem Part.enterRegion_tcode (p : Part) (a : W64) (counted : Bool) (now : Nat) : (p.enterRegion a counted now).tcode = p.tcode := rfl
@[simp] theorem Part.enterRegion_tframe (p : Part) (a : W64) (counted : Bool) (now : Nat) : (p.enterRegion a counted now).tframe = p.tframe := rfl
@[simp] theorem Part.enterRegion_fails (p : Part) (a : W64) (counted : Bool) (now : Nat) : (p.enterRegion a counted now).fails = p.fails := rfl
@[simp] theorem Part.enterRegion_held (p : Part) (a : W64) (counted : Bool) (now : Nat) : (p.enterRegion a counted now).held = p.held := rfl
@[simp] theorem Part.enterRegion_acquiring (p : Part) (a : W64) (counted : Bool) (now : Nat) : (p.enterRegion a counted now).acquiring = p.acquiring := rfl
@[simp] theorem Part.enterRegion_lastIssue (p : Part) (a : W64) (counted : Bool) (now : Nat) : (p.enterRegion a counted now).lastIssue = p.lastIssue := rfl
@[simp] theorem Part.enterRegion_notBefore (p : Part) (a : W64) (counted : Bool) (now : Nat) : (p.enterRegion a counted now).notBefore = p.notBefore := rfl
@[simp] theorem Part.enterRegion_busy (p : Part) (a : W64) (counted : Bool) (now : Nat) : (p.enterRegion a counted now).busy = p.busy := rfl
@[simp] theorem Part.enterRegion_before (p : Part) (a : W64) (counted : Bool) (now : Nat) : (p.enterRegion a counted now).before = p.before := rfl
@[simp] theorem Part.enterRegion_statusNew (p : Part) (a : W64) (counted : Bool) (now : Nat) : (p.enterRegion a counted now).statusNew = p.statusNew := rfl
@[simp] theorem Part.enterRegion_statusAt (p : Part) (a : W64) (counted : Bool) (now : Nat) : (p.enterRegion a counted now).statusAt = p.statusAt := rfl
@[simp] theorem Part.enterRegion_raised (p : Part) (a : W64) (counted : Bool) (now : Nat) : (p.enterRegion a counted now).raised = p.raised := rfl
@[simp] theorem Part.enterRegion_flags (p : Part) (a : W64) (counted : Bool) (now : Nat) : (p.enterRegion a counted now).flags = p.flags := rfl
@[simp] theorem Part.enterRegion_stopped (p : Part) (a : W64) (counted : Bool) (now : Nat) : (p.enterRegion a counted now).stopped = p.stopped := rfl
@[simp] theorem Part.enterRegion_confLeft (p : Part) (a : W64) (counted : Bool) (now : Nat) : (p.enterRegion a counted now).confLeft = p.confLeft := rfl
@[simp] theorem Part.enterRegion_sleepLeft (p : Part) (a : W64) (counted : Bool) (now : Nat) : (p.enterRegion a counted now).sleepLeft = p.sleepLeft := rfl
@[simp] theorem Part.enterRegion_parkedAt (p : Part) (a : W64) (counted : Bool) (now : Nat) : (p.enterRegion a counted now).parkedAt = p.parkedAt := rfl
@[simp] theorem Part.enterRegion_watchSkip (p : Part) (a : W64) (counted : Bool) (now : Nat) : (p.enterRegion a counted now).watchSkip = p.watchSkip := rfl
@[simp] theorem Part.enterRegion_gentryDue (p : Part) (a : W64) (counted : Bool) (now : Nat) : (p.enterRegion a counted now).gentryDue = p.gentryDue := rfl
@[simp] theorem Part.enterRegion_relAt (p : Part) (a : W64) (counted : Bool) (now : Nat) : (p.enterRegion a counted now).relAt = p.relAt := rfl
@[simp] theorem Part.enterRegion_forcedSave (p : Part) (a : W64) (counted : Bool) (now : Nat) : (p.enterRegion a counted now).forcedSave = p.forcedSave := rfl

/-! ### `Part.amaxIn` -/

@[simp] theorem Part.amaxIn_base (p : Part) (xs : List (Option Nat)) : (p.amaxIn xs).base = p.base := rfl
@[simp] theorem Part.amaxIn_width (p : Part) (xs : List (Option Nat)) : (p.amaxIn xs).width = p.width := rfl
@[simp] theorem Part.amaxIn_pc (p : Part) (xs : List (Option Nat)) : (p.amaxIn xs).pc = p.pc := rfl
@[simp] theorem Part.amaxIn_cur (p : Part) (xs : List (Option Nat)) : (p.amaxIn xs).cur = p.cur := rfl
@[simp] theorem Part.amaxIn_waiting (p : Part) (xs : List (Option Nat)) : (p.amaxIn xs).waiting = p.waiting := rfl
@[simp] theorem Part.amaxIn_resume (p : Part) (xs : List (Option Nat)) : (p.amaxIn xs).resume = p.resume := rfl
@[simp] theorem Part.amaxIn_tcodeReg (p : Part) (xs : List (Option Nat)) : (p.amaxIn xs).tcodeReg = p.tcodeReg := rfl
@[simp] theorem Part.amaxIn_tdetail (p : Part) (xs : List (Option Nat)) : (p.amaxIn xs).tdetail = p.tdetail := rfl
@[simp] theorem Part.amaxIn_restart (p : Part) (xs : List (Option Nat)) : (p.amaxIn xs).restart = p.restart := rfl
@[simp] theorem Part.amaxIn_taddr (p : Part) (xs : List (Option Nat)) : (p.amaxIn xs).taddr = p.taddr := rfl
@[simp] theorem Part.amaxIn_tword (p : Part) (xs : List (Option Nat)) : (p.amaxIn xs).tword = p.tword := rfl
@[simp] theorem Part.amaxIn_mxRow (p : Part) (xs : List (Option Nat)) : (p.amaxIn xs).mxRow = p.mxRow := rfl
@[simp] theorem Part.amaxIn_mxTile (p : Part) (xs : List (Option Nat)) : (p.amaxIn xs).mxTile = p.mxTile := rfl
@[simp] theorem Part.amaxIn_mxActive (p : Part) (xs : List (Option Nat)) : (p.amaxIn xs).mxActive = p.mxActive := rfl
@[simp] theorem Part.amaxIn_region (p : Part) (xs : List (Option Nat)) : (p.amaxIn xs).region = p.region := rfl
@[simp] theorem Part.amaxIn_regionCount (p : Part) (xs : List (Option Nat)) : (p.amaxIn xs).regionCount = p.regionCount := rfl
@[simp] theorem Part.amaxIn_regionAt (p : Part) (xs : List (Option Nat)) : (p.amaxIn xs).regionAt = p.regionAt := rfl
@[simp] theorem Part.amaxIn_ldOps (p : Part) (xs : List (Option Nat)) : (p.amaxIn xs).ldOps = p.ldOps := rfl
@[simp] theorem Part.amaxIn_stOps (p : Part) (xs : List (Option Nat)) : (p.amaxIn xs).stOps = p.stOps := rfl
@[simp] theorem Part.amaxIn_cpOps (p : Part) (xs : List (Option Nat)) : (p.amaxIn xs).cpOps = p.cpOps := rfl
@[simp] theorem Part.amaxIn_mxOps (p : Part) (xs : List (Option Nat)) : (p.amaxIn xs).mxOps = p.mxOps := rfl
@[simp] theorem Part.amaxIn_recent (p : Part) (xs : List (Option Nat)) : (p.amaxIn xs).recent = p.recent := rfl
@[simp] theorem Part.amaxIn_frames (p : Part) (xs : List (Option Nat)) : (p.amaxIn xs).frames = p.frames := rfl
@[simp] theorem Part.amaxIn_park (p : Part) (xs : List (Option Nat)) : (p.amaxIn xs).park = p.park := rfl
@[simp] theorem Part.amaxIn_confId (p : Part) (xs : List (Option Nat)) : (p.amaxIn xs).confId = p.confId := rfl
@[simp] theorem Part.amaxIn_arrivals (p : Part) (xs : List (Option Nat)) : (p.amaxIn xs).arrivals = p.arrivals := rfl
@[simp] theorem Part.amaxIn_tcode (p : Part) (xs : List (Option Nat)) : (p.amaxIn xs).tcode = p.tcode := rfl
@[simp] theorem Part.amaxIn_tframe (p : Part) (xs : List (Option Nat)) : (p.amaxIn xs).tframe = p.tframe := rfl
@[simp] theorem Part.amaxIn_fails (p : Part) (xs : List (Option Nat)) : (p.amaxIn xs).fails = p.fails := rfl
@[simp] theorem Part.amaxIn_held (p : Part) (xs : List (Option Nat)) : (p.amaxIn xs).held = p.held := rfl
@[simp] theorem Part.amaxIn_acquiring (p : Part) (xs : List (Option Nat)) : (p.amaxIn xs).acquiring = p.acquiring := rfl
@[simp] theorem Part.amaxIn_lastIssue (p : Part) (xs : List (Option Nat)) : (p.amaxIn xs).lastIssue = p.lastIssue := rfl
@[simp] theorem Part.amaxIn_notBefore (p : Part) (xs : List (Option Nat)) : (p.amaxIn xs).notBefore = p.notBefore := rfl
@[simp] theorem Part.amaxIn_busy (p : Part) (xs : List (Option Nat)) : (p.amaxIn xs).busy = p.busy := rfl
@[simp] theorem Part.amaxIn_before (p : Part) (xs : List (Option Nat)) : (p.amaxIn xs).before = p.before := rfl
@[simp] theorem Part.amaxIn_statusNew (p : Part) (xs : List (Option Nat)) : (p.amaxIn xs).statusNew = p.statusNew := rfl
@[simp] theorem Part.amaxIn_statusAt (p : Part) (xs : List (Option Nat)) : (p.amaxIn xs).statusAt = p.statusAt := rfl
@[simp] theorem Part.amaxIn_raised (p : Part) (xs : List (Option Nat)) : (p.amaxIn xs).raised = p.raised := rfl
@[simp] theorem Part.amaxIn_flags (p : Part) (xs : List (Option Nat)) : (p.amaxIn xs).flags = p.flags := rfl
@[simp] theorem Part.amaxIn_stopped (p : Part) (xs : List (Option Nat)) : (p.amaxIn xs).stopped = p.stopped := rfl
@[simp] theorem Part.amaxIn_confLeft (p : Part) (xs : List (Option Nat)) : (p.amaxIn xs).confLeft = p.confLeft := rfl
@[simp] theorem Part.amaxIn_sleepLeft (p : Part) (xs : List (Option Nat)) : (p.amaxIn xs).sleepLeft = p.sleepLeft := rfl
@[simp] theorem Part.amaxIn_parkedAt (p : Part) (xs : List (Option Nat)) : (p.amaxIn xs).parkedAt = p.parkedAt := rfl
@[simp] theorem Part.amaxIn_watchSkip (p : Part) (xs : List (Option Nat)) : (p.amaxIn xs).watchSkip = p.watchSkip := rfl
@[simp] theorem Part.amaxIn_gentryDue (p : Part) (xs : List (Option Nat)) : (p.amaxIn xs).gentryDue = p.gentryDue := rfl
@[simp] theorem Part.amaxIn_relAt (p : Part) (xs : List (Option Nat)) : (p.amaxIn xs).relAt = p.relAt := rfl
@[simp] theorem Part.amaxIn_forcedSave (p : Part) (xs : List (Option Nat)) : (p.amaxIn xs).forcedSave = p.forcedSave := rfl

/-! ### `Part.issued`, `Part.moveTo`, `Part.enterHandler`: what they write -/

@[simp] theorem Part.issued_park (p : Part) (now d : Nat) : (p.issued now d).park = .running := rfl
@[simp] theorem Part.issued_lastIssue (p : Part) (now d : Nat) : (p.issued now d).lastIssue = now := rfl
@[simp] theorem Part.issued_notBefore (p : Part) (now d : Nat) : (p.issued now d).notBefore = now + d := rfl
@[simp] theorem Part.moveTo_pc (p : Part) (a : W64) : (p.moveTo a).pc = a := rfl
@[simp] theorem Part.enterHandler_pc (p : Part) (t : Trap) (now : Nat) : (p.enterHandler t now).pc = p.regs.handler := rfl
@[simp] theorem Part.enterHandler_tcode (p : Part) (t : Trap) (now : Nat) : (p.enterHandler t now).tcode = BitVec.ofNat 8 t.code := rfl

/-! ### `PartRegs.setS` -/

@[simp] theorem PartRegs.setS_wb (r : PartRegs) (n : Nat) (v : W64) : (r.setS n v).wb = r.wb := rfl
@[simp] theorem PartRegs.setS_ix0 (r : PartRegs) (n : Nat) (v : W64) : (r.setS n v).ix0 = r.ix0 := rfl
@[simp] theorem PartRegs.setS_ix1 (r : PartRegs) (n : Nat) (v : W64) : (r.setS n v).ix1 = r.ix1 := rfl
@[simp] theorem PartRegs.setS_fpmode (r : PartRegs) (n : Nat) (v : W64) : (r.setS n v).fpmode = r.fpmode := rfl
@[simp] theorem PartRegs.setS_fpstat (r : PartRegs) (n : Nat) (v : W64) : (r.setS n v).fpstat = r.fpstat := rfl
@[simp] theorem PartRegs.setS_status (r : PartRegs) (n : Nat) (v : W64) : (r.setS n v).status = r.status := rfl
@[simp] theorem PartRegs.setS_amaxv (r : PartRegs) (n : Nat) (v : W64) : (r.setS n v).amaxv = r.amaxv := rfl
@[simp] theorem PartRegs.setS_amaxnan (r : PartRegs) (n : Nat) (v : W64) : (r.setS n v).amaxnan = r.amaxnan := rfl
@[simp] theorem PartRegs.setS_fcode (r : PartRegs) (n : Nat) (v : W64) : (r.setS n v).fcode = r.fcode := rfl
@[simp] theorem PartRegs.setS_unwound (r : PartRegs) (n : Nat) (v : W64) : (r.setS n v).unwound = r.unwound := rfl
@[simp] theorem PartRegs.setS_gate (r : PartRegs) (n : Nat) (v : W64) : (r.setS n v).gate = r.gate := rfl
@[simp] theorem PartRegs.setS_split (r : PartRegs) (n : Nat) (v : W64) : (r.setS n v).split = r.split := rfl
@[simp] theorem PartRegs.setS_miss (r : PartRegs) (n : Nat) (v : W64) : (r.setS n v).miss = r.miss := rfl
@[simp] theorem PartRegs.setS_minw (r : PartRegs) (n : Nat) (v : W64) : (r.setS n v).minw = r.minw := rfl
@[simp] theorem PartRegs.setS_asid (r : PartRegs) (n : Nat) (v : W64) : (r.setS n v).asid = r.asid := rfl
@[simp] theorem PartRegs.setS_domain (r : PartRegs) (n : Nat) (v : W64) : (r.setS n v).domain = r.domain := rfl
@[simp] theorem PartRegs.setS_privseg (r : PartRegs) (n : Nat) (v : W64) : (r.setS n v).privseg = r.privseg := rfl
@[simp] theorem PartRegs.setS_handler (r : PartRegs) (n : Nat) (v : W64) : (r.setS n v).handler = r.handler := rfl
@[simp] theorem PartRegs.setS_gtable (r : PartRegs) (n : Nat) (v : W64) : (r.setS n v).gtable = r.gtable := rfl
@[simp] theorem PartRegs.setS_gtlogn (r : PartRegs) (n : Nat) (v : W64) : (r.setS n v).gtlogn = r.gtlogn := rfl

/-! ### Registers: reading after writing -/

@[simp] theorem PartRegs.sreg_setS_self (r : PartRegs) (n : Nat) (v : W64) : (r.setS n v).sreg n = v := by
  simp [PartRegs.sreg, PartRegs.setS]
theorem PartRegs.sreg_setS_of_ne (r : PartRegs) {n m : Nat} (v : W64) (h : m ≠ n) : (r.setS n v).sreg m = r.sreg m := by
  simp [PartRegs.sreg, PartRegs.setS, getT_setT_of_ne _ _ _ h]
@[simp] theorem Part.setS_regs (p : Part) (n : Nat) (v : W64) : (p.setS n v).regs = p.regs.setS n v := rfl
@[simp] theorem Part.orFp_sregs (p : Part) (f : BitVec 5) : (p.orFp f).regs.sregs = p.regs.sregs := rfl
@[simp] theorem Part.orFp_fpstat (p : Part) (f : BitVec 5) : (p.orFp f).regs.fpstat = p.regs.fpstat ||| f := rfl
@[simp] theorem Part.orStatus_status (p : Part) (f : BitVec 4) : (p.orStatus f).regs.status = p.regs.status ||| f := rfl

/-! ### `Wave.setV` -/

@[simp] theorem Wave.setV_core (w : Wave) (depth lane n : Nat) (v : W32) : (w.setV depth lane n v).core = w.core := rfl
@[simp] theorem Wave.setV_slot (w : Wave) (depth lane n : Nat) (v : W32) : (w.setV depth lane n v).slot = w.slot := rfl
@[simp] theorem Wave.setV_partition (w : Wave) (depth lane n : Nat) (v : W32) : (w.setV depth lane n v).partition = w.partition := rfl
@[simp] theorem Wave.setV_quad0 (w : Wave) (depth lane n : Nat) (v : W32) : (w.setV depth lane n v).quad0 = w.quad0 := rfl
@[simp] theorem Wave.setV_width (w : Wave) (depth lane n : Nat) (v : W32) : (w.setV depth lane n v).width = w.width := rfl
@[simp] theorem Wave.setV_widx (w : Wave) (depth lane n : Nat) (v : W32) : (w.setV depth lane n v).widx = w.widx := rfl
@[simp] theorem Wave.setV_group (w : Wave) (depth lane n : Nat) (v : W32) : (w.setV depth lane n v).group = w.group := rfl
@[simp] theorem Wave.setV_launch (w : Wave) (depth lane n : Nat) (v : W32) : (w.setV depth lane n v).launch = w.launch := rfl
@[simp] theorem Wave.setV_admission (w : Wave) (depth lane n : Nat) (v : W32) : (w.setV depth lane n v).admission = w.admission := rfl
@[simp] theorem Wave.setV_allot (w : Wave) (depth lane n : Nat) (v : W32) : (w.setV depth lane n v).allot = w.allot := rfl
@[simp] theorem Wave.setV_timeout (w : Wave) (depth lane n : Nat) (v : W32) : (w.setV depth lane n v).timeout = w.timeout := rfl
@[simp] theorem Wave.setV_timeoutBy (w : Wave) (depth lane n : Nat) (v : W32) : (w.setV depth lane n v).timeoutBy = w.timeoutBy := rfl
@[simp] theorem Wave.setV_pend (w : Wave) (depth lane n : Nat) (v : W32) : (w.setV depth lane n v).pend = w.pend := rfl
@[simp] theorem Wave.setV_cm (w : Wave) (depth lane n : Nat) (v : W32) : (w.setV depth lane n v).cm = w.cm := rfl
@[simp] theorem Wave.setV_exited (w : Wave) (depth lane n : Nat) (v : W32) : (w.setV depth lane n v).exited = w.exited := rfl
@[simp] theorem Wave.setV_helper (w : Wave) (depth lane n : Nat) (v : W32) : (w.setV depth lane n v).helper = w.helper := rfl
@[simp] theorem Wave.setV_off (w : Wave) (depth lane n : Nat) (v : W32) : (w.setV depth lane n v).off = w.off := rfl
@[simp] theorem Wave.setV_preds (w : Wave) (depth lane n : Nat) (v : W32) : (w.setV depth lane n v).preds = w.preds := rfl
@[simp] theorem Wave.setV_rays (w : Wave) (depth lane n : Nat) (v : W32) : (w.setV depth lane n v).rays = w.rays := rfl
@[simp] theorem Wave.setV_raysAtRegion (w : Wave) (depth lane n : Nat) (v : W32) : (w.setV depth lane n v).raysAtRegion = w.raysAtRegion := rfl
@[simp] theorem Wave.setV_tcopies (w : Wave) (depth lane n : Nat) (v : W32) : (w.setV depth lane n v).tcopies = w.tcopies := rfl
@[simp] theorem Wave.setV_parts (w : Wave) (depth lane n : Nat) (v : W32) : (w.setV depth lane n v).parts = w.parts := rfl
@[simp] theorem Wave.setV_latent (w : Wave) (depth lane n : Nat) (v : W32) : (w.setV depth lane n v).latent = w.latent := rfl
@[simp] theorem Wave.setV_mprims (w : Wave) (depth lane n : Nat) (v : W32) : (w.setV depth lane n v).mprims = w.mprims := rfl
@[simp] theorem Wave.setV_pixel (w : Wave) (depth lane n : Nat) (v : W32) : (w.setV depth lane n v).pixel = w.pixel := rfl
@[simp] theorem Wave.setV_divided (w : Wave) (depth lane n : Nat) (v : W32) : (w.setV depth lane n v).divided = w.divided := rfl
@[simp] theorem Wave.setV_saved (w : Wave) (depth lane n : Nat) (v : W32) : (w.setV depth lane n v).saved = w.saved := rfl
@[simp] theorem Wave.setV_haltedFor (w : Wave) (depth lane n : Nat) (v : W32) : (w.setV depth lane n v).haltedFor = w.haltedFor := rfl

/-! ### `Wave.setVs` -/

@[simp] theorem Wave.setVs_core (w : Wave) (depth : Nat) (ws : List (Nat × Nat × W32)) : (w.setVs depth ws).core = w.core := by
  induction ws generalizing w with
  | nil => rfl
  | cons e r ih => obtain ⟨l, n, v⟩ := e; simp [Wave.setVs, ih]
@[simp] theorem Wave.setVs_slot (w : Wave) (depth : Nat) (ws : List (Nat × Nat × W32)) : (w.setVs depth ws).slot = w.slot := by
  induction ws generalizing w with
  | nil => rfl
  | cons e r ih => obtain ⟨l, n, v⟩ := e; simp [Wave.setVs, ih]
@[simp] theorem Wave.setVs_partition (w : Wave) (depth : Nat) (ws : List (Nat × Nat × W32)) : (w.setVs depth ws).partition = w.partition := by
  induction ws generalizing w with
  | nil => rfl
  | cons e r ih => obtain ⟨l, n, v⟩ := e; simp [Wave.setVs, ih]
@[simp] theorem Wave.setVs_quad0 (w : Wave) (depth : Nat) (ws : List (Nat × Nat × W32)) : (w.setVs depth ws).quad0 = w.quad0 := by
  induction ws generalizing w with
  | nil => rfl
  | cons e r ih => obtain ⟨l, n, v⟩ := e; simp [Wave.setVs, ih]
@[simp] theorem Wave.setVs_width (w : Wave) (depth : Nat) (ws : List (Nat × Nat × W32)) : (w.setVs depth ws).width = w.width := by
  induction ws generalizing w with
  | nil => rfl
  | cons e r ih => obtain ⟨l, n, v⟩ := e; simp [Wave.setVs, ih]
@[simp] theorem Wave.setVs_widx (w : Wave) (depth : Nat) (ws : List (Nat × Nat × W32)) : (w.setVs depth ws).widx = w.widx := by
  induction ws generalizing w with
  | nil => rfl
  | cons e r ih => obtain ⟨l, n, v⟩ := e; simp [Wave.setVs, ih]
@[simp] theorem Wave.setVs_group (w : Wave) (depth : Nat) (ws : List (Nat × Nat × W32)) : (w.setVs depth ws).group = w.group := by
  induction ws generalizing w with
  | nil => rfl
  | cons e r ih => obtain ⟨l, n, v⟩ := e; simp [Wave.setVs, ih]
@[simp] theorem Wave.setVs_launch (w : Wave) (depth : Nat) (ws : List (Nat × Nat × W32)) : (w.setVs depth ws).launch = w.launch := by
  induction ws generalizing w with
  | nil => rfl
  | cons e r ih => obtain ⟨l, n, v⟩ := e; simp [Wave.setVs, ih]
@[simp] theorem Wave.setVs_admission (w : Wave) (depth : Nat) (ws : List (Nat × Nat × W32)) : (w.setVs depth ws).admission = w.admission := by
  induction ws generalizing w with
  | nil => rfl
  | cons e r ih => obtain ⟨l, n, v⟩ := e; simp [Wave.setVs, ih]
@[simp] theorem Wave.setVs_allot (w : Wave) (depth : Nat) (ws : List (Nat × Nat × W32)) : (w.setVs depth ws).allot = w.allot := by
  induction ws generalizing w with
  | nil => rfl
  | cons e r ih => obtain ⟨l, n, v⟩ := e; simp [Wave.setVs, ih]
@[simp] theorem Wave.setVs_timeout (w : Wave) (depth : Nat) (ws : List (Nat × Nat × W32)) : (w.setVs depth ws).timeout = w.timeout := by
  induction ws generalizing w with
  | nil => rfl
  | cons e r ih => obtain ⟨l, n, v⟩ := e; simp [Wave.setVs, ih]
@[simp] theorem Wave.setVs_timeoutBy (w : Wave) (depth : Nat) (ws : List (Nat × Nat × W32)) : (w.setVs depth ws).timeoutBy = w.timeoutBy := by
  induction ws generalizing w with
  | nil => rfl
  | cons e r ih => obtain ⟨l, n, v⟩ := e; simp [Wave.setVs, ih]
@[simp] theorem Wave.setVs_pend (w : Wave) (depth : Nat) (ws : List (Nat × Nat × W32)) : (w.setVs depth ws).pend = w.pend := by
  induction ws generalizing w with
  | nil => rfl
  | cons e r ih => obtain ⟨l, n, v⟩ := e; simp [Wave.setVs, ih]
@[simp] theorem Wave.setVs_cm (w : Wave) (depth : Nat) (ws : List (Nat × Nat × W32)) : (w.setVs depth ws).cm = w.cm := by
  induction ws generalizing w with
  | nil => rfl
  | cons e r ih => obtain ⟨l, n, v⟩ := e; simp [Wave.setVs, ih]
@[simp] theorem Wave.setVs_exited (w : Wave) (depth : Nat) (ws : List (Nat × Nat × W32)) : (w.setVs depth ws).exited = w.exited := by
  induction ws generalizing w with
  | nil => rfl
  | cons e r ih => obtain ⟨l, n, v⟩ := e; simp [Wave.setVs, ih]
@[simp] theorem Wave.setVs_helper (w : Wave) (depth : Nat) (ws : List (Nat × Nat × W32)) : (w.setVs depth ws).helper = w.helper := by
  induction ws generalizing w with
  | nil => rfl
  | cons e r ih => obtain ⟨l, n, v⟩ := e; simp [Wave.setVs, ih]
@[simp] theorem Wave.setVs_off (w : Wave) (depth : Nat) (ws : List (Nat × Nat × W32)) : (w.setVs depth ws).off = w.off := by
  induction ws generalizing w with
  | nil => rfl
  | cons e r ih => obtain ⟨l, n, v⟩ := e; simp [Wave.setVs, ih]
@[simp] theorem Wave.setVs_preds (w : Wave) (depth : Nat) (ws : List (Nat × Nat × W32)) : (w.setVs depth ws).preds = w.preds := by
  induction ws generalizing w with
  | nil => rfl
  | cons e r ih => obtain ⟨l, n, v⟩ := e; simp [Wave.setVs, ih]
@[simp] theorem Wave.setVs_rays (w : Wave) (depth : Nat) (ws : List (Nat × Nat × W32)) : (w.setVs depth ws).rays = w.rays := by
  induction ws generalizing w with
  | nil => rfl
  | cons e r ih => obtain ⟨l, n, v⟩ := e; simp [Wave.setVs, ih]
@[simp] theorem Wave.setVs_raysAtRegion (w : Wave) (depth : Nat) (ws : List (Nat × Nat × W32)) : (w.setVs depth ws).raysAtRegion = w.raysAtRegion := by
  induction ws generalizing w with
  | nil => rfl
  | cons e r ih => obtain ⟨l, n, v⟩ := e; simp [Wave.setVs, ih]
@[simp] theorem Wave.setVs_tcopies (w : Wave) (depth : Nat) (ws : List (Nat × Nat × W32)) : (w.setVs depth ws).tcopies = w.tcopies := by
  induction ws generalizing w with
  | nil => rfl
  | cons e r ih => obtain ⟨l, n, v⟩ := e; simp [Wave.setVs, ih]
@[simp] theorem Wave.setVs_parts (w : Wave) (depth : Nat) (ws : List (Nat × Nat × W32)) : (w.setVs depth ws).parts = w.parts := by
  induction ws generalizing w with
  | nil => rfl
  | cons e r ih => obtain ⟨l, n, v⟩ := e; simp [Wave.setVs, ih]
@[simp] theorem Wave.setVs_latent (w : Wave) (depth : Nat) (ws : List (Nat × Nat × W32)) : (w.setVs depth ws).latent = w.latent := by
  induction ws generalizing w with
  | nil => rfl
  | cons e r ih => obtain ⟨l, n, v⟩ := e; simp [Wave.setVs, ih]
@[simp] theorem Wave.setVs_mprims (w : Wave) (depth : Nat) (ws : List (Nat × Nat × W32)) : (w.setVs depth ws).mprims = w.mprims := by
  induction ws generalizing w with
  | nil => rfl
  | cons e r ih => obtain ⟨l, n, v⟩ := e; simp [Wave.setVs, ih]
@[simp] theorem Wave.setVs_pixel (w : Wave) (depth : Nat) (ws : List (Nat × Nat × W32)) : (w.setVs depth ws).pixel = w.pixel := by
  induction ws generalizing w with
  | nil => rfl
  | cons e r ih => obtain ⟨l, n, v⟩ := e; simp [Wave.setVs, ih]
@[simp] theorem Wave.setVs_divided (w : Wave) (depth : Nat) (ws : List (Nat × Nat × W32)) : (w.setVs depth ws).divided = w.divided := by
  induction ws generalizing w with
  | nil => rfl
  | cons e r ih => obtain ⟨l, n, v⟩ := e; simp [Wave.setVs, ih]
@[simp] theorem Wave.setVs_saved (w : Wave) (depth : Nat) (ws : List (Nat × Nat × W32)) : (w.setVs depth ws).saved = w.saved := by
  induction ws generalizing w with
  | nil => rfl
  | cons e r ih => obtain ⟨l, n, v⟩ := e; simp [Wave.setVs, ih]
@[simp] theorem Wave.setVs_haltedFor (w : Wave) (depth : Nat) (ws : List (Nat × Nat × W32)) : (w.setVs depth ws).haltedFor = w.haltedFor := by
  induction ws generalizing w with
  | nil => rfl
  | cons e r ih => obtain ⟨l, n, v⟩ := e; simp [Wave.setVs, ih]

/-! ### `Wave.setP` -/

@[simp] theorem Wave.setP_core (w : Wave) (n : Nat) (lanes v : Lanes) : (w.setP n lanes v).core = w.core := by unfold Wave.setP; split <;> rfl
@[simp] theorem Wave.setP_slot (w : Wave) (n : Nat) (lanes v : Lanes) : (w.setP n lanes v).slot = w.slot := by unfold Wave.setP; split <;> rfl
@[simp] theorem Wave.setP_partition (w : Wave) (n : Nat) (lanes v : Lanes) : (w.setP n lanes v).partition = w.partition := by unfold Wave.setP; split <;> rfl
@[simp] theorem Wave.setP_quad0 (w : Wave) (n : Nat) (lanes v : Lanes) : (w.setP n lanes v).quad0 = w.quad0 := by unfold Wave.setP; split <;> rfl
@[simp] theorem Wave.setP_width (w : Wave) (n : Nat) (lanes v : Lanes) : (w.setP n lanes v).width = w.width := by unfold Wave.setP; split <;> rfl
@[simp] theorem Wave.setP_widx (w : Wave) (n : Nat) (lanes v : Lanes) : (w.setP n lanes v).widx = w.widx := by unfold Wave.setP; split <;> rfl
@[simp] theorem Wave.setP_group (w : Wave) (n : Nat) (lanes v : Lanes) : (w.setP n lanes v).group = w.group := by unfold Wave.setP; split <;> rfl
@[simp] theorem Wave.setP_launch (w : Wave) (n : Nat) (lanes v : Lanes) : (w.setP n lanes v).launch = w.launch := by unfold Wave.setP; split <;> rfl
@[simp] theorem Wave.setP_admission (w : Wave) (n : Nat) (lanes v : Lanes) : (w.setP n lanes v).admission = w.admission := by unfold Wave.setP; split <;> rfl
@[simp] theorem Wave.setP_allot (w : Wave) (n : Nat) (lanes v : Lanes) : (w.setP n lanes v).allot = w.allot := by unfold Wave.setP; split <;> rfl
@[simp] theorem Wave.setP_timeout (w : Wave) (n : Nat) (lanes v : Lanes) : (w.setP n lanes v).timeout = w.timeout := by unfold Wave.setP; split <;> rfl
@[simp] theorem Wave.setP_timeoutBy (w : Wave) (n : Nat) (lanes v : Lanes) : (w.setP n lanes v).timeoutBy = w.timeoutBy := by unfold Wave.setP; split <;> rfl
@[simp] theorem Wave.setP_pend (w : Wave) (n : Nat) (lanes v : Lanes) : (w.setP n lanes v).pend = w.pend := by unfold Wave.setP; split <;> rfl
@[simp] theorem Wave.setP_cm (w : Wave) (n : Nat) (lanes v : Lanes) : (w.setP n lanes v).cm = w.cm := by unfold Wave.setP; split <;> rfl
@[simp] theorem Wave.setP_exited (w : Wave) (n : Nat) (lanes v : Lanes) : (w.setP n lanes v).exited = w.exited := by unfold Wave.setP; split <;> rfl
@[simp] theorem Wave.setP_helper (w : Wave) (n : Nat) (lanes v : Lanes) : (w.setP n lanes v).helper = w.helper := by unfold Wave.setP; split <;> rfl
@[simp] theorem Wave.setP_off (w : Wave) (n : Nat) (lanes v : Lanes) : (w.setP n lanes v).off = w.off := by unfold Wave.setP; split <;> rfl
@[simp] theorem Wave.setP_vregs (w : Wave) (n : Nat) (lanes v : Lanes) : (w.setP n lanes v).vregs = w.vregs := by unfold Wave.setP; split <;> rfl
@[simp] theorem Wave.setP_rays (w : Wave) (n : Nat) (lanes v : Lanes) : (w.setP n lanes v).rays = w.rays := by unfold Wave.setP; split <;> rfl
@[simp] theorem Wave.setP_raysAtRegion (w : Wave) (n : Nat) (lanes v : Lanes) : (w.setP n lanes v).raysAtRegion = w.raysAtRegion := by unfold Wave.setP; split <;> rfl
@[simp] theorem Wave.setP_tcopies (w : Wave) (n : Nat) (lanes v : Lanes) : (w.setP n lanes v).tcopies = w.tcopies := by unfold Wave.setP; split <;> rfl
@[simp] theorem Wave.setP_parts (w : Wave) (n : Nat) (lanes v : Lanes) : (w.setP n lanes v).parts = w.parts := by unfold Wave.setP; split <;> rfl
@[simp] theorem Wave.setP_latent (w : Wave) (n : Nat) (lanes v : Lanes) : (w.setP n lanes v).latent = w.latent := by unfold Wave.setP; split <;> rfl
@[simp] theorem Wave.setP_mprims (w : Wave) (n : Nat) (lanes v : Lanes) : (w.setP n lanes v).mprims = w.mprims := by unfold Wave.setP; split <;> rfl
@[simp] theorem Wave.setP_pixel (w : Wave) (n : Nat) (lanes v : Lanes) : (w.setP n lanes v).pixel = w.pixel := by unfold Wave.setP; split <;> rfl
@[simp] theorem Wave.setP_divided (w : Wave) (n : Nat) (lanes v : Lanes) : (w.setP n lanes v).divided = w.divided := by unfold Wave.setP; split <;> rfl
@[simp] theorem Wave.setP_dirty (w : Wave) (n : Nat) (lanes v : Lanes) : (w.setP n lanes v).dirty = w.dirty := by unfold Wave.setP; split <;> rfl
@[simp] theorem Wave.setP_saved (w : Wave) (n : Nat) (lanes v : Lanes) : (w.setP n lanes v).saved = w.saved := by unfold Wave.setP; split <;> rfl
@[simp] theorem Wave.setP_haltedFor (w : Wave) (n : Nat) (lanes v : Lanes) : (w.setP n lanes v).haltedFor = w.haltedFor := by unfold Wave.setP; split <;> rfl

/-! ### `Wave.updPart` -/

@[simp] theorem Wave.updPart_core (w : Wave) (base : Nat) (f : Part → Part) : (w.updPart base f).core = w.core := rfl
@[simp] theorem Wave.updPart_slot (w : Wave) (base : Nat) (f : Part → Part) : (w.updPart base f).slot = w.slot := rfl
@[simp] theorem Wave.updPart_partition (w : Wave) (base : Nat) (f : Part → Part) : (w.updPart base f).partition = w.partition := rfl
@[simp] theorem Wave.updPart_quad0 (w : Wave) (base : Nat) (f : Part → Part) : (w.updPart base f).quad0 = w.quad0 := rfl
@[simp] theorem Wave.updPart_width (w : Wave) (base : Nat) (f : Part → Part) : (w.updPart base f).width = w.width := rfl
@[simp] theorem Wave.updPart_widx (w : Wave) (base : Nat) (f : Part → Part) : (w.updPart base f).widx = w.widx := rfl
@[simp] theorem Wave.updPart_group (w : Wave) (base : Nat) (f : Part → Part) : (w.updPart base f).group = w.group := rfl
@[simp] theorem Wave.updPart_launch (w : Wave) (base : Nat) (f : Part → Part) : (w.updPart base f).launch = w.launch := rfl
@[simp] theorem Wave.updPart_admission (w : Wave) (base : Nat) (f : Part → Part) : (w.updPart base f).admission = w.admission := rfl
@[simp] theorem Wave.updPart_allot (w : Wave) (base : Nat) (f : Part → Part) : (w.updPart base f).allot = w.allot := rfl
@[simp] theorem Wave.updPart_timeout (w : Wave) (base : Nat) (f : Part → Part) : (w.updPart base f).timeout = w.timeout := rfl
@[simp] theorem Wave.updPart_timeoutBy (w : Wave) (base : Nat) (f : Part → Part) : (w.updPart base f).timeoutBy = w.timeoutBy := rfl
@[simp] theorem Wave.updPart_pend (w : Wave) (base : Nat) (f : Part → Part) : (w.updPart base f).pend = w.pend := rfl
@[simp] theorem Wave.updPart_cm (w : Wave) (base : Nat) (f : Part → Part) : (w.updPart base f).cm = w.cm := rfl
@[simp] theorem Wave.updPart_exited (w : Wave) (base : Nat) (f : Part → Part) : (w.updPart base f).exited = w.exited := rfl
@[simp] theorem Wave.updPart_helper (w : Wave) (base : Nat) (f : Part → Part) : (w.updPart base f).helper = w.helper := rfl
@[simp] theorem Wave.updPart_off (w : Wave) (base : Nat) (f : Part → Part) : (w.updPart base f).off = w.off := rfl
@[simp] theorem Wave.updPart_preds (w : Wave) (base : Nat) (f : Part → Part) : (w.updPart base f).preds = w.preds := rfl
@[simp] theorem Wave.updPart_vregs (w : Wave) (base : Nat) (f : Part → Part) : (w.updPart base f).vregs = w.vregs := rfl
@[simp] theorem Wave.updPart_rays (w : Wave) (base : Nat) (f : Part → Part) : (w.updPart base f).rays = w.rays := rfl
@[simp] theorem Wave.updPart_raysAtRegion (w : Wave) (base : Nat) (f : Part → Part) : (w.updPart base f).raysAtRegion = w.raysAtRegion := rfl
@[simp] theorem Wave.updPart_tcopies (w : Wave) (base : Nat) (f : Part → Part) : (w.updPart base f).tcopies = w.tcopies := rfl
@[simp] theorem Wave.updPart_latent (w : Wave) (base : Nat) (f : Part → Part) : (w.updPart base f).latent = w.latent := rfl
@[simp] theorem Wave.updPart_mprims (w : Wave) (base : Nat) (f : Part → Part) : (w.updPart base f).mprims = w.mprims := rfl
@[simp] theorem Wave.updPart_pixel (w : Wave) (base : Nat) (f : Part → Part) : (w.updPart base f).pixel = w.pixel := rfl
@[simp] theorem Wave.updPart_divided (w : Wave) (base : Nat) (f : Part → Part) : (w.updPart base f).divided = w.divided := rfl
@[simp] theorem Wave.updPart_dirty (w : Wave) (base : Nat) (f : Part → Part) : (w.updPart base f).dirty = w.dirty := rfl
@[simp] theorem Wave.updPart_saved (w : Wave) (base : Nat) (f : Part → Part) : (w.updPart base f).saved = w.saved := rfl
@[simp] theorem Wave.updPart_haltedFor (w : Wave) (base : Nat) (f : Part → Part) : (w.updPart base f).haltedFor = w.haltedFor := rfl

/-! ### Waves, groups and launches: reading after writing -/

@[simp] theorem State.wave?_putWave_self (s : State) (k : Nat) (w : Wave) : (s.putWave k w).wave? k = some w := by
  simp [State.wave?, State.putWave]
theorem State.wave?_putWave_of_ne (s : State) {k j : Nat} (w : Wave) (h : j ≠ k) : (s.putWave k w).wave? j = s.wave? j := by
  simp [State.wave?, State.putWave, lookT_putT_of_ne _ _ h]
theorem State.wave?_updWave_self (s : State) (k : Nat) (f : Wave → Wave) : (s.updWave k f).wave? k = (s.wave? k).map f := by
  unfold State.updWave
  cases h : s.wave? k with
  | none => simp [h]
  | some w => simp
theorem State.wave?_updWave_of_ne (s : State) {k j : Nat} (f : Wave → Wave) (h : j ≠ k) : (s.updWave k f).wave? j = s.wave? j := by
  unfold State.updWave
  cases s.wave? k with
  | none => rfl
  | some w => exact s.wave?_putWave_of_ne _ h
theorem State.updWave_eq (s : State) (k : Nat) (f : Wave → Wave) : s.updWave k f = { s with waves := (s.updWave k f).waves } := by
  unfold State.updWave
  cases s.wave? k <;> rfl
theorem State.updPart_eq (s : State) (r : PartRef) (f : Part → Part) : s.updPart r f = { s with waves := (s.updPart r f).waves } :=
  s.updWave_eq _ _
theorem State.putV_eq (s : State) (c : Ctx) (ws : List (Nat × Nat × W32)) : s.putV c ws = { s with waves := (s.putV c ws).waves } :=
  s.updWave_eq _ _
@[simp] theorem State.group?_updWave (s : State) (k g : Nat) (f : Wave → Wave) : (s.updWave k f).group? g = s.group? g := by
  simp [State.group?]
@[simp] theorem State.launch?_updWave (s : State) (k l : Nat) (f : Wave → Wave) : (s.updWave k f).launch? l = s.launch? l := by
  simp [State.launch?]
theorem State.core_updCore_self (s : State) (c : Nat) (f : Core → Core) : (s.updCore c f).core c = f (s.core c) := by
  simp [State.core, State.updCore, State.setCore]
theorem State.core_updCore_of_ne (s : State) {c d : Nat} (f : Core → Core) (h : d ≠ c) : (s.updCore c f).core d = s.core d := by
  simp [State.core, State.updCore, State.setCore, getT_setT_of_ne _ _ _ h]
theorem State.die_updDie_self (s : State) (c : Nat) (f : Die → Die) : (s.updDie c f).die c = f (s.die c) := by
  simp [State.die, State.updDie]
theorem State.cluster_updCluster_self (s : State) (c : Nat) (f : Cluster → Cluster) : (s.updCluster c f).cluster c = f (s.cluster c) := by
  simp [State.cluster, State.updCluster]
theorem State.queue_updQueue_self (s : State) (q : Nat) (f : Queue → Queue) : (s.updQueue q f).queue q = f (s.queue q) := by
  simp [State.queue, State.updQueue]
theorem State.tenant_updTenant_self (s : State) (t : Nat) (f : Tenant → Tenant) : (s.updTenant t f).tenant t = f (s.tenant t) := by
  simp [State.tenant, State.updTenant]
theorem State.updLaunch_self (s : State) (l : Nat) (f : Launch → Launch) : (s.updLaunch l f).launch? l = (s.launch? l).map f := by
  unfold State.updLaunch
  cases h : s.launch? l with
  | none => simp [h]
  | some v => simp [State.launch?]
theorem State.updGroup_self (s : State) (g : Nat) (f : Group → Group) : (s.updGroup g f).group? g = (s.group? g).map f := by
  unfold State.updGroup
  cases h : s.group? g with
  | none => simp [h]
  | some v => simp [State.group?]

/-! ### Parts -/

theorem Wave.part?_updPart_self (w : Wave) (b : Nat) (f : Part → Part) (hf : ∀ p, (f p).base = p.base) :
    (w.updPart b f).part? b = (w.part? b).map f := by
  unfold Wave.part? Wave.updPart
  simp only
  induction w.parts with
  | nil => rfl
  | cons p r ih =>
    by_cases h : p.base = b
    · simp [h, hf]
    · simp [h, ih]
theorem Wave.part?_updPart_of_ne (w : Wave) {b d : Nat} (f : Part → Part) (hf : ∀ p, (f p).base = p.base) (h : d ≠ b) :
    (w.updPart b f).part? d = w.part? d := by
  unfold Wave.part? Wave.updPart
  simp only
  induction w.parts with
  | nil => rfl
  | cons p r ih =>
    by_cases hb : p.base = b
    · have hd : ¬ b = d := fun e => h e.symm
      simp [hb, hf, hd, ih]
    · by_cases hd : p.base = d
      · simp [hd, h]
      · simp [hb, hd, ih]

/-! ### Vector registers -/

theorem Wave.v_setV_self (w : Wave) (depth lane n : Nat) (v : W32) : (w.setV depth lane n v).v depth lane n = v := by
  simp [Wave.v, Wave.setV]
theorem Wave.v_setV_of_ne (w : Wave) (v : W32) {d l n d' l' n' : Nat} (h : vKey d' l' n' ≠ vKey d l n) :
    (w.setV d l n v).v d' l' n' = w.v d' l' n' := by
  simp [Wave.v, Wave.setV, getT_setT_of_ne _ _ _ h]
/-- A register that a list of writes does not name keeps its value. -/
theorem Wave.v_setVs_of_ne (w : Wave) (depth : Nat) (ws : List (Nat × Nat × W32)) {d' l' n' : Nat}
    (h : ∀ e ∈ ws, vKey d' l' n' ≠ vKey depth e.1 e.2.1) : (w.setVs depth ws).v d' l' n' = w.v d' l' n' := by
  induction ws generalizing w with
  | nil => rfl
  | cons e r ih =>
    obtain ⟨l, n, v⟩ := e
    rw [Wave.setVs, ih _ (fun e he => h e (by simp [he])), Wave.v_setV_of_ne]
    exact h (l, n, v) (by simp)

end Sys2Proof.Machine
end

