-- ==== Sys2Proof/Laws/Issue.lean ====
section
/-! SUPPORT. The issue of an instruction that nothing holds back is its own effect (05 R114). -/

namespace Sys2Proof.Machine

theorem issueIn_eff (h : Hdr) (eff : Ctx → State → State) (c : Ctx) (s : State)
    (priv : h.priv = true → c.part.regs.privseg = true) (pre : h.pre c s = none)
    (regs : checkVops (h.regs c s) c.wb c.allot = none)
    (free : Free c h.s h.mem h.cls (h.ff.map (fun w => w c s))) : issueIn h eff c s = eff c s := by
  have hp : (h.priv && !c.part.regs.privseg) = false := by
    cases hh : h.priv
    · simp
    · simp [priv hh]
  have hs : (h.s && c.part.ldOps != []) = false := by
    cases hh : h.s
    · simp
    · simp [(free.marker hh).1]
  have hd : (if h.s then c.part.heldOf [.ld] else none) = none := by
    cases hh : h.s
    · simp
    · simp [(free.marker hh).2]
  have hf : (h.ff.bind (fun w => s.forcedFuse c (w c s))) = none := by
    cases hh : h.ff with
    | none => simp
    | some w =>
      have := free.fused (w c s) (by simp [hh])
      simp [State.forcedFuse, this.1, this.2]
  have hm : (h.mem && c.part.acquiring != []) = false := by
    cases hh : h.mem
    · simp
    · simp [free.acquires hh]
  unfold issueIn
  rw [hp, pre, regs, hs, hd, hf, hm]
  cases hc : h.cls with
  | none => simp
  | some k =>
    have := free.room k hc
    have hn : ¬ 255 ≤ c.part.count k := by omega
    simp [hn]

/-- An issue that nothing holds back answers the state of the instruction's own effect. -/
theorem issue_next (h : Hdr) (eff : Ctx → State → State) (c : Ctx) (s : State) (hi : s.issuing = some c)
    (priv : h.priv = true → c.part.regs.privseg = true) (pre : h.pre c s = none)
    (regs : checkVops (h.regs c s) c.wb c.allot = none)
    (free : Free c h.s h.mem h.cls (h.ff.map (fun w => w c s))) : issue h eff s = .next (eff c s) := by
  rw [issue, hi]
  exact congrArg _ (issueIn_eff h eff c s priv pre regs free)

/-- An issue always goes on while a part is issuing. -/
theorem issue_goesOn (h : Hdr) (eff : Ctx → State → State) (s : State) (c : Ctx) (hi : s.issuing = some c) : GoesOn (issue h eff s) :=
  ⟨_, by rw [issue, hi]⟩

theorem issue_not_refused (h : Hdr) (eff : Ctx → State → State) (s : State) (r : Refusal) : issue h eff s ≠ .refused r := by
  rw [issue]; split <;> simp

/-! ### The context of the issuing part -/

theorem issuing_ctx {s : State} {c : Ctx} (h : s.issuing = some c) : s.ctx? c.ref = some c := by
  unfold State.issuing at h
  cases hc : s.cur with
  | none => simp [hc] at h
  | some r =>
    rw [hc] at h
    have h' := h
    simp only [State.ctx?] at h
    split at h
    · simp at h
    · split at h
      · simp only [Option.some.injEq] at h
        have : c.ref = r := by rw [← h]
        rw [this]; exact h'
      · simp at h

theorem ctx_parts {s : State} {r : PartRef} {c : Ctx} (h : s.ctx? r = some c) :
    c.ref = r ∧ s.wave? r.key = some c.wave ∧ c.wave.part? r.base = some c.part ∧ s.group? c.wave.group = some c.group
      ∧ s.launch? c.wave.launch = some c.launch := by
  simp only [State.ctx?] at h
  split at h
  · simp at h
  · rename_i w hw
    split at h
    · rename_i p g l hp hg hl
      simp only [Option.some.injEq] at h
      subst h
      exact ⟨rfl, hw, hp, hg, hl⟩
    · simp at h

theorem issuing_wave {s : State} {c : Ctx} (h : s.issuing = some c) : s.wave? c.ref.key = some c.wave :=
  (ctx_parts (issuing_ctx h)).2.1
theorem issuing_part {s : State} {c : Ctx} (h : s.issuing = some c) : c.wave.part? c.ref.base = some c.part :=
  (ctx_parts (issuing_ctx h)).2.2.1

/-! ### Updates of the issuing part and its wave -/

theorem State.updWave_some {s : State} {k : Nat} {w : Wave} (h : s.wave? k = some w) (f : Wave → Wave) :
    s.updWave k f = s.putWave k (f w) := by
  simp [State.updWave, h]

theorem State.putWave_putWave (s : State) (k : Nat) (v w : Wave) : (s.putWave k v).updWave k (fun _ => w) = (s.putWave k v).putWave k w := by
  simp [State.updWave]

theorem onlyWave_putWave (c : Ctx) (s : State) (w : Wave) : OnlyWave c s (s.putWave c.ref.key w) :=
  ⟨rfl, fun _ hk => s.wave?_putWave_of_ne w hk⟩

theorem OnlyWave.refl (c : Ctx) (s : State) : OnlyWave c s s := ⟨rfl, fun _ _ => rfl⟩

theorem OnlyWave.trans {c : Ctx} {s t u : State} (h : OnlyWave c s t) (k : OnlyWave c t u) : OnlyWave c s u :=
  ⟨by rw [k.state, h.state], fun j hj => (k.others j hj).trans (h.others j hj)⟩

theorem onlyWave_updWave (c : Ctx) (s : State) (f : Wave → Wave) : OnlyWave c s (s.updWave c.ref.key f) :=
  ⟨s.updWave_eq _ f, fun _ hk => s.wave?_updWave_of_ne f hk⟩

theorem onlyWave_updPart (c : Ctx) (s : State) (f : Part → Part) : OnlyWave c s (s.updPart c.ref f) := onlyWave_updWave c s _

theorem onlyWave_putV (c : Ctx) (s : State) (ws : List (Nat × Nat × W32)) : OnlyWave c s (s.putV c ws) := onlyWave_updWave c s _

theorem onlyWave_done (c : Ctx) (s : State) (len : Nat) : OnlyWave c s (s.done c len) := onlyWave_updPart c s _

theorem OnlyWave.dcc {c : Ctx} {s t : State} (h : OnlyWave c s t) : t.dcc = s.dcc := by rw [h.state]

end Sys2Proof.Machine
end

