-- ==== Sys2Proof/Laws/PerInstr.lean ====
section
/-! SUPPORT. One lemma per instruction: decoding its words gives it back (family RoundTrip of LAWS.json). -/

namespace Sys2Proof.Laws.RoundTrip

/-- Decoding the words of a well-formed instruction gives it back; a one-word instruction whatever word follows it. A step
that is not fetched has no words. -/
def Statement (i : Instr) : Prop :=
  wellFormed i = true → ∀ w, match encode i with
    | [] => True
    | [a] => decode a w = .instr i
    | a :: b :: _ => decode a b = .instr i

theorem badWord_none {i : Instr} (h : wellFormed i = true) : badWord i = none := by
  simpa [wellFormed] using h

theorem decode_of_form {i : Instr} {a b : W32} (h : wellFormed i = true) (hf : formOf (opOf a) (eOf a) a b = .instr i) :
    decode a b = .instr i := by
  simp only [decode, hf, badWord_none h]

theorem nop (r : RWord) : Statement (.nop r) := by
  intro h w
  refine decode_of_form h ?_
  rw [opOf_encR, eOf_encR]
  show Decoded.instr _ = _
  simp
theorem nopXi (r : RWord) (x : W32) : Statement (.nopXi r x) := by
  intro h w
  refine decode_of_form h ?_
  rw [opOf_encR, eOf_encR]
  show Decoded.instr _ = _
  simp
theorem bra (j : JWord) : Statement (.bra j) := by
  intro h w
  refine decode_of_form h ?_
  rw [opOf_encJ, eOf_encJ]
  show Decoded.instr _ = _
  simp
theorem brp (p : PWord) : Statement (.brp p) := by
  intro h w
  refine decode_of_form h ?_
  rw [opOf_encP, eOf_encP]
  show Decoded.instr _ = _
  simp
theorem bru (p : PWord) : Statement (.bru p) := by
  intro h w
  refine decode_of_form h ?_
  rw [opOf_encP, eOf_encP]
  show Decoded.instr _ = _
  simp
theorem jmp (u : UWord) : Statement (.jmp u) := by
  intro h w
  refine decode_of_form h ?_
  rw [opOf_encU, eOf_encU]
  show Decoded.instr _ = _
  simp
theorem call (j : JWord) : Statement (.call j) := by
  intro h w
  refine decode_of_form h ?_
  rw [opOf_encJ, eOf_encJ]
  show Decoded.instr _ = _
  simp
theorem ret (u : UWord) : Statement (.ret u) := by
  intro h w
  refine decode_of_form h ?_
  rw [opOf_encU, eOf_encU]
  show Decoded.instr _ = _
  simp
theorem conf (r : RWord) : Statement (.conf r) := by
  intro h w
  refine decode_of_form h ?_
  rw [opOf_encR, eOf_encR]
  show Decoded.instr _ = _
  simp
theorem fuse (r : RWord) : Statement (.fuse r) := by
  intro h w
  refine decode_of_form h ?_
  rw [opOf_encR, eOf_encR]
  show Decoded.instr _ = _
  simp
theorem exit (r : RWord) : Statement (.exit r) := by
  intro h w
  refine decode_of_form h ?_
  rw [opOf_encR, eOf_encR]
  show Decoded.instr _ = _
  simp
theorem entry (r : RWord) : Statement (.entry r) := by
  intro h w
  refine decode_of_form h ?_
  rw [opOf_encR, eOf_encR]
  show Decoded.instr _ = _
  simp
theorem gcall (r : RWord) (x : W32) : Statement (.gcall r x) := by
  intro h w
  refine decode_of_form h ?_
  rw [opOf_encR, eOf_encR]
  show Decoded.instr _ = _
  simp
theorem gret (r : RWord) : Statement (.gret r) := by
  intro h w
  refine decode_of_form h ?_
  rw [opOf_encR, eOf_encR]
  show Decoded.instr _ = _
  simp
theorem gentry (r : RWord) : Statement (.gentry r) := by
  intro h w
  refine decode_of_form h ?_
  rw [opOf_encR, eOf_encR]
  show Decoded.instr _ = _
  simp
theorem trap (r : RWord) : Statement (.trap r) := by
  intro h w
  refine decode_of_form h ?_
  rw [opOf_encR, eOf_encR]
  show Decoded.instr _ = _
  simp
theorem brk (r : RWord) : Statement (.brk r) := by
  intro h w
  refine decode_of_form h ?_
  rw [opOf_encR, eOf_encR]
  show Decoded.instr _ = _
  simp
theorem sleep (u : UWord) : Statement (.sleep u) := by
  intro h w
  refine decode_of_form h ?_
  rw [opOf_encU, eOf_encU]
  show Decoded.instr _ = _
  simp
theorem sleepat (u : UWord) : Statement (.sleepat u) := by
  intro h w
  refine decode_of_form h ?_
  rw [opOf_encU, eOf_encU]
  show Decoded.instr _ = _
  simp
theorem pwait (u : UWord) : Statement (.pwait u) := by
  intro h w
  refine decode_of_form h ?_
  rw [opOf_encU, eOf_encU]
  show Decoded.instr _ = _
  simp
theorem winb (r : RWord) : Statement (.winb r) := by
  intro h w
  refine decode_of_form h ?_
  rw [opOf_encR, eOf_encR]
  show Decoded.instr _ = _
  simp
theorem phint (u : UWord) (x : W32) : Statement (.phint u x) := by
  intro h w
  refine decode_of_form h ?_
  rw [opOf_encU, eOf_encU]
  show Decoded.instr _ = _
  simp
theorem region (r : RWord) : Statement (.region r) := by
  intro h w
  refine decode_of_form h ?_
  rw [opOf_encR, eOf_encR]
  show Decoded.instr _ = _
  simp
theorem tret (r : RWord) : Statement (.tret r) := by
  intro h w
  refine decode_of_form h ?_
  rw [opOf_encR, eOf_encR]
  show Decoded.instr _ = _
  simp
theorem sadd (u : UWord) : Statement (.sadd u) := by
  intro h w
  refine decode_of_form h ?_
  rw [opOf_encU, eOf_encU]
  show Decoded.instr _ = _
  simp
theorem ssub (u : UWord) : Statement (.ssub u) := by
  intro h w
  refine decode_of_form h ?_
  rw [opOf_encU, eOf_encU]
  show Decoded.instr _ = _
  simp
theorem smul (u : UWord) : Statement (.smul u) := by
  intro h w
  refine decode_of_form h ?_
  rw [opOf_encU, eOf_encU]
  show Decoded.instr _ = _
  simp
theorem smulh (u : UWord) : Statement (.smulh u) := by
  intro h w
  refine decode_of_form h ?_
  rw [opOf_encU, eOf_encU]
  show Decoded.instr _ = _
  simp
theorem sand (u : UWord) : Statement (.sand u) := by
  intro h w
  refine decode_of_form h ?_
  rw [opOf_encU, eOf_encU]
  show Decoded.instr _ = _
  simp
theorem sor (u : UWord) : Statement (.sor u) := by
  intro h w
  refine decode_of_form h ?_
  rw [opOf_encU, eOf_encU]
  show Decoded.instr _ = _
  simp
theorem sxor (u : UWord) : Statement (.sxor u) := by
  intro h w
  refine decode_of_form h ?_
  rw [opOf_encU, eOf_encU]
  show Decoded.instr _ = _
  simp
theorem sshl (u : UWord) : Statement (.sshl u) := by
  intro h w
  refine decode_of_form h ?_
  rw [opOf_encU, eOf_encU]
  show Decoded.instr _ = _
  simp
theorem sshr (u : UWord) : Statement (.sshr u) := by
  intro h w
  refine decode_of_form h ?_
  rw [opOf_encU, eOf_encU]
  show Decoded.instr _ = _
  simp
theorem ssar (u : UWord) : Statement (.ssar u) := by
  intro h w
  refine decode_of_form h ?_
  rw [opOf_encU, eOf_encU]
  show Decoded.instr _ = _
  simp
theorem smin (u : UWord) : Statement (.smin u) := by
  intro h w
  refine decode_of_form h ?_
  rw [opOf_encU, eOf_encU]
  show Decoded.instr _ = _
  simp
theorem smax (u : UWord) : Statement (.smax u) := by
  intro h w
  refine decode_of_form h ?_
  rw [opOf_encU, eOf_encU]
  show Decoded.instr _ = _
  simp
theorem smov (u : UWord) : Statement (.smov u) := by
  intro h w
  refine decode_of_form h ?_
  rw [opOf_encU, eOf_encU]
  show Decoded.instr _ = _
  simp
theorem smovi (u : UWord) (x : W32) : Statement (.smovi u x) := by
  intro h w
  refine decode_of_form h ?_
  rw [opOf_encU, eOf_encU]
  show Decoded.instr _ = _
  simp
theorem smovh (u : UWord) (x : W32) : Statement (.smovh u x) := by
  intro h w
  refine decode_of_form h ?_
  rw [opOf_encU, eOf_encU]
  show Decoded.instr _ = _
  simp
theorem scmp (u : UWord) (x : XaWord) : Statement (.scmp u x) := by
  intro h w
  refine decode_of_form h ?_
  rw [opOf_encU, eOf_encU]
  show Decoded.instr _ = _
  simp
theorem ssel (u : UWord) (x : XaWord) : Statement (.ssel u x) := by
  intro h w
  refine decode_of_form h ?_
  rw [opOf_encU, eOf_encU]
  show Decoded.instr _ = _
  simp
theorem sld (u : UWord) : Statement (.sld u) := by
  intro h w
  refine decode_of_form h ?_
  rw [opOf_encU, eOf_encU]
  show Decoded.instr _ = _
  simp
theorem sldExt (u : UWord) (x : XmWord) : Statement (.sldExt u x) := by
  intro h w
  refine decode_of_form h ?_
  rw [opOf_encU, eOf_encU]
  show Decoded.instr _ = _
  simp
theorem sst (u : UWord) : Statement (.sst u) := by
  intro h w
  refine decode_of_form h ?_
  rw [opOf_encU, eOf_encU]
  show Decoded.instr _ = _
  simp
theorem sstExt (u : UWord) (x : XmWord) : Statement (.sstExt u x) := by
  intro h w
  refine decode_of_form h ?_
  rw [opOf_encU, eOf_encU]
  show Decoded.instr _ = _
  simp
theorem iadd (r : RWord) : Statement (.iadd r) := by
  intro h w
  refine decode_of_form h ?_
  rw [opOf_encR, eOf_encR]
  show Decoded.instr _ = _
  simp
theorem iaddExt (r : RWord) (x : XaWord) : Statement (.iaddExt r x) := by
  intro h w
  refine decode_of_form h ?_
  rw [opOf_encR, eOf_encR]
  show Decoded.instr _ = _
  simp
theorem isub (r : RWord) : Statement (.isub r) := by
  intro h w
  refine decode_of_form h ?_
  rw [opOf_encR, eOf_encR]
  show Decoded.instr _ = _
  simp
theorem isubExt (r : RWord) (x : XaWord) : Statement (.isubExt r x) := by
  intro h w
  refine decode_of_form h ?_
  rw [opOf_encR, eOf_encR]
  show Decoded.instr _ = _
  simp
theorem imul (r : RWord) : Statement (.imul r) := by
  intro h w
  refine decode_of_form h ?_
  rw [opOf_encR, eOf_encR]
  show Decoded.instr _ = _
  simp
theorem imulExt (r : RWord) (x : XaWord) : Statement (.imulExt r x) := by
  intro h w
  refine decode_of_form h ?_
  rw [opOf_encR, eOf_encR]
  show Decoded.instr _ = _
  simp
theorem imulh (r : RWord) : Statement (.imulh r) := by
  intro h w
  refine decode_of_form h ?_
  rw [opOf_encR, eOf_encR]
  show Decoded.instr _ = _
  simp
theorem imulhExt (r : RWord) (x : XaWord) : Statement (.imulhExt r x) := by
  intro h w
  refine decode_of_form h ?_
  rw [opOf_encR, eOf_encR]
  show Decoded.instr _ = _
  simp
theorem imad (r : RWord) (x : XaWord) : Statement (.imad r x) := by
  intro h w
  refine decode_of_form h ?_
  rw [opOf_encR, eOf_encR]
  show Decoded.instr _ = _
  simp
theorem imin (r : RWord) : Statement (.imin r) := by
  intro h w
  refine decode_of_form h ?_
  rw [opOf_encR, eOf_encR]
  show Decoded.instr _ = _
  simp
theorem iminExt (r : RWord) (x : XaWord) : Statement (.iminExt r x) := by
  intro h w
  refine decode_of_form h ?_
  rw [opOf_encR, eOf_encR]
  show Decoded.instr _ = _
  simp
theorem imax (r : RWord) : Statement (.imax r) := by
  intro h w
  refine decode_of_form h ?_
  rw [opOf_encR, eOf_encR]
  show Decoded.instr _ = _
  simp
theorem imaxExt (r : RWord) (x : XaWord) : Statement (.imaxExt r x) := by
  intro h w
  refine decode_of_form h ?_
  rw [opOf_encR, eOf_encR]
  show Decoded.instr _ = _
  simp
theorem iabs (r : RWord) : Statement (.iabs r) := by
  intro h w
  refine decode_of_form h ?_
  rw [opOf_encR, eOf_encR]
  show Decoded.instr _ = _
  simp
theorem iabsExt (r : RWord) (x : XaWord) : Statement (.iabsExt r x) := by
  intro h w
  refine decode_of_form h ?_
  rw [opOf_encR, eOf_encR]
  show Decoded.instr _ = _
  simp
theorem and (r : RWord) : Statement (.and r) := by
  intro h w
  refine decode_of_form h ?_
  rw [opOf_encR, eOf_encR]
  show Decoded.instr _ = _
  simp
theorem andExt (r : RWord) (x : XaWord) : Statement (.andExt r x) := by
  intro h w
  refine decode_of_form h ?_
  rw [opOf_encR, eOf_encR]
  show Decoded.instr _ = _
  simp
theorem or (r : RWord) : Statement (.or r) := by
  intro h w
  refine decode_of_form h ?_
  rw [opOf_encR, eOf_encR]
  show Decoded.instr _ = _
  simp
theorem orExt (r : RWord) (x : XaWord) : Statement (.orExt r x) := by
  intro h w
  refine decode_of_form h ?_
  rw [opOf_encR, eOf_encR]
  show Decoded.instr _ = _
  simp
theorem xor (r : RWord) : Statement (.xor r) := by
  intro h w
  refine decode_of_form h ?_
  rw [opOf_encR, eOf_encR]
  show Decoded.instr _ = _
  simp
theorem xorExt (r : RWord) (x : XaWord) : Statement (.xorExt r x) := by
  intro h w
  refine decode_of_form h ?_
  rw [opOf_encR, eOf_encR]
  show Decoded.instr _ = _
  simp
theorem andn (r : RWord) : Statement (.andn r) := by
  intro h w
  refine decode_of_form h ?_
  rw [opOf_encR, eOf_encR]
  show Decoded.instr _ = _
  simp
theorem andnExt (r : RWord) (x : XaWord) : Statement (.andnExt r x) := by
  intro h w
  refine decode_of_form h ?_
  rw [opOf_encR, eOf_encR]
  show Decoded.instr _ = _
  simp
theorem shl (r : RWord) : Statement (.shl r) := by
  intro h w
  refine decode_of_form h ?_
  rw [opOf_encR, eOf_encR]
  show Decoded.instr _ = _
  simp
theorem shlExt (r : RWord) (x : XaWord) : Statement (.shlExt r x) := by
  intro h w
  refine decode_of_form h ?_
  rw [opOf_encR, eOf_encR]
  show Decoded.instr _ = _
  simp
theorem shr (r : RWord) : Statement (.shr r) := by
  intro h w
  refine decode_of_form h ?_
  rw [opOf_encR, eOf_encR]
  show Decoded.instr _ = _
  simp
theorem shrExt (r : RWord) (x : XaWord) : Statement (.shrExt r x) := by
  intro h w
  refine decode_of_form h ?_
  rw [opOf_encR, eOf_encR]
  show Decoded.instr _ = _
  simp
theorem sar (r : RWord) : Statement (.sar r) := by
  intro h w
  refine decode_of_form h ?_
  rw [opOf_encR, eOf_encR]
  show Decoded.instr _ = _
  simp
theorem sarExt (r : RWord) (x : XaWord) : Statement (.sarExt r x) := by
  intro h w
  refine decode_of_form h ?_
  rw [opOf_encR, eOf_encR]
  show Decoded.instr _ = _
  simp
theorem popc (r : RWord) : Statement (.popc r) := by
  intro h w
  refine decode_of_form h ?_
  rw [opOf_encR, eOf_encR]
  show Decoded.instr _ = _
  simp
theorem popcExt (r : RWord) (x : XaWord) : Statement (.popcExt r x) := by
  intro h w
  refine decode_of_form h ?_
  rw [opOf_encR, eOf_encR]
  show Decoded.instr _ = _
  simp
theorem clz (r : RWord) : Statement (.clz r) := by
  intro h w
  refine decode_of_form h ?_
  rw [opOf_encR, eOf_encR]
  show Decoded.instr _ = _
  simp
theorem clzExt (r : RWord) (x : XaWord) : Statement (.clzExt r x) := by
  intro h w
  refine decode_of_form h ?_
  rw [opOf_encR, eOf_encR]
  show Decoded.instr _ = _
  simp
theorem brev (r : RWord) : Statement (.brev r) := by
  intro h w
  refine decode_of_form h ?_
  rw [opOf_encR, eOf_encR]
  show Decoded.instr _ = _
  simp
theorem brevExt (r : RWord) (x : XaWord) : Statement (.brevExt r x) := by
  intro h w
  refine decode_of_form h ?_
  rw [opOf_encR, eOf_encR]
  show Decoded.instr _ = _
  simp
theorem bfe (r : RWord) : Statement (.bfe r) := by
  intro h w
  refine decode_of_form h ?_
  rw [opOf_encR, eOf_encR]
  show Decoded.instr _ = _
  simp
theorem bfeExt (r : RWord) (x : XaWord) : Statement (.bfeExt r x) := by
  intro h w
  refine decode_of_form h ?_
  rw [opOf_encR, eOf_encR]
  show Decoded.instr _ = _
  simp
theorem bfi (r : RWord) (x : XaWord) : Statement (.bfi r x) := by
  intro h w
  refine decode_of_form h ?_
  rw [opOf_encR, eOf_encR]
  show Decoded.instr _ = _
  simp
theorem sel (r : RWord) (x : XaWord) : Statement (.sel r x) := by
  intro h w
  refine decode_of_form h ?_
  rw [opOf_encR, eOf_encR]
  show Decoded.instr _ = _
  simp
theorem mov (r : RWord) : Statement (.mov r) := by
  intro h w
  refine decode_of_form h ?_
  rw [opOf_encR, eOf_encR]
  show Decoded.instr _ = _
  simp
theorem movExt (r : RWord) (x : XaWord) : Statement (.movExt r x) := by
  intro h w
  refine decode_of_form h ?_
  rw [opOf_encR, eOf_encR]
  show Decoded.instr _ = _
  simp
theorem movi (r : RWord) : Statement (.movi r) := by
  intro h w
  refine decode_of_form h ?_
  rw [opOf_encR, eOf_encR]
  show Decoded.instr _ = _
  simp
theorem moviXi (r : RWord) (x : W32) : Statement (.moviXi r x) := by
  intro h w
  refine decode_of_form h ?_
  rw [opOf_encR, eOf_encR]
  show Decoded.instr _ = _
  simp
theorem icmp (r : RWord) : Statement (.icmp r) := by
  intro h w
  refine decode_of_form h ?_
  rw [opOf_encR, eOf_encR]
  show Decoded.instr _ = _
  simp
theorem icmpExt (r : RWord) (x : XaWord) : Statement (.icmpExt r x) := by
  intro h w
  refine decode_of_form h ?_
  rw [opOf_encR, eOf_encR]
  show Decoded.instr _ = _
  simp
theorem iscadd (r : RWord) : Statement (.iscadd r) := by
  intro h w
  refine decode_of_form h ?_
  rw [opOf_encR, eOf_encR]
  show Decoded.instr _ = _
  simp
theorem iscaddExt (r : RWord) (x : XaWord) : Statement (.iscaddExt r x) := by
  intro h w
  refine decode_of_form h ?_
  rw [opOf_encR, eOf_encR]
  show Decoded.instr _ = _
  simp
theorem fadd (r : RWord) : Statement (.fadd r) := by
  intro h w
  refine decode_of_form h ?_
  rw [opOf_encR, eOf_encR]
  show Decoded.instr _ = _
  simp
theorem faddExt (r : RWord) (x : XaWord) : Statement (.faddExt r x) := by
  intro h w
  refine decode_of_form h ?_
  rw [opOf_encR, eOf_encR]
  show Decoded.instr _ = _
  simp
theorem fsub (r : RWord) : Statement (.fsub r) := by
  intro h w
  refine decode_of_form h ?_
  rw [opOf_encR, eOf_encR]
  show Decoded.instr _ = _
  simp
theorem fsubExt (r : RWord) (x : XaWord) : Statement (.fsubExt r x) := by
  intro h w
  refine decode_of_form h ?_
  rw [opOf_encR, eOf_encR]
  show Decoded.instr _ = _
  simp
theorem fmul (r : RWord) : Statement (.fmul r) := by
  intro h w
  refine decode_of_form h ?_
  rw [opOf_encR, eOf_encR]
  show Decoded.instr _ = _
  simp
theorem fmulExt (r : RWord) (x : XaWord) : Statement (.fmulExt r x) := by
  intro h w
  refine decode_of_form h ?_
  rw [opOf_encR, eOf_encR]
  show Decoded.instr _ = _
  simp
theorem ffma (r : RWord) (x : XaWord) : Statement (.ffma r x) := by
  intro h w
  refine decode_of_form h ?_
  rw [opOf_encR, eOf_encR]
  show Decoded.instr _ = _
  simp
theorem fmin (r : RWord) : Statement (.fmin r) := by
  intro h w
  refine decode_of_form h ?_
  rw [opOf_encR, eOf_encR]
  show Decoded.instr _ = _
  simp
theorem fminExt (r : RWord) (x : XaWord) : Statement (.fminExt r x) := by
  intro h w
  refine decode_of_form h ?_
  rw [opOf_encR, eOf_encR]
  show Decoded.instr _ = _
  simp
theorem fmax (r : RWord) : Statement (.fmax r) := by
  intro h w
  refine decode_of_form h ?_
  rw [opOf_encR, eOf_encR]
  show Decoded.instr _ = _
  simp
theorem fmaxExt (r : RWord) (x : XaWord) : Statement (.fmaxExt r x) := by
  intro h w
  refine decode_of_form h ?_
  rw [opOf_encR, eOf_encR]
  show Decoded.instr _ = _
  simp
theorem fcmp (r : RWord) : Statement (.fcmp r) := by
  intro h w
  refine decode_of_form h ?_
  rw [opOf_encR, eOf_encR]
  show Decoded.instr _ = _
  simp
theorem fcmpExt (r : RWord) (x : XaWord) : Statement (.fcmpExt r x) := by
  intro h w
  refine decode_of_form h ?_
  rw [opOf_encR, eOf_encR]
  show Decoded.instr _ = _
  simp
theorem frcp (r : RWord) : Statement (.frcp r) := by
  intro h w
  refine decode_of_form h ?_
  rw [opOf_encR, eOf_encR]
  show Decoded.instr _ = _
  simp
theorem frcpExt (r : RWord) (x : XaWord) : Statement (.frcpExt r x) := by
  intro h w
  refine decode_of_form h ?_
  rw [opOf_encR, eOf_encR]
  show Decoded.instr _ = _
  simp
theorem frsq (r : RWord) : Statement (.frsq r) := by
  intro h w
  refine decode_of_form h ?_
  rw [opOf_encR, eOf_encR]
  show Decoded.instr _ = _
  simp
theorem frsqExt (r : RWord) (x : XaWord) : Statement (.frsqExt r x) := by
  intro h w
  refine decode_of_form h ?_
  rw [opOf_encR, eOf_encR]
  show Decoded.instr _ = _
  simp
theorem fsqrt (r : RWord) : Statement (.fsqrt r) := by
  intro h w
  refine decode_of_form h ?_
  rw [opOf_encR, eOf_encR]
  show Decoded.instr _ = _
  simp
theorem fsqrtExt (r : RWord) (x : XaWord) : Statement (.fsqrtExt r x) := by
  intro h w
  refine decode_of_form h ?_
  rw [opOf_encR, eOf_encR]
  show Decoded.instr _ = _
  simp
theorem fdiv (r : RWord) : Statement (.fdiv r) := by
  intro h w
  refine decode_of_form h ?_
  rw [opOf_encR, eOf_encR]
  show Decoded.instr _ = _
  simp
theorem fdivExt (r : RWord) (x : XaWord) : Statement (.fdivExt r x) := by
  intro h w
  refine decode_of_form h ?_
  rw [opOf_encR, eOf_encR]
  show Decoded.instr _ = _
  simp
theorem fexp2 (r : RWord) : Statement (.fexp2 r) := by
  intro h w
  refine decode_of_form h ?_
  rw [opOf_encR, eOf_encR]
  show Decoded.instr _ = _
  simp
theorem fexp2Ext (r : RWord) (x : XaWord) : Statement (.fexp2Ext r x) := by
  intro h w
  refine decode_of_form h ?_
  rw [opOf_encR, eOf_encR]
  show Decoded.instr _ = _
  simp
theorem flog2 (r : RWord) : Statement (.flog2 r) := by
  intro h w
  refine decode_of_form h ?_
  rw [opOf_encR, eOf_encR]
  show Decoded.instr _ = _
  simp
theorem flog2Ext (r : RWord) (x : XaWord) : Statement (.flog2Ext r x) := by
  intro h w
  refine decode_of_form h ?_
  rw [opOf_encR, eOf_encR]
  show Decoded.instr _ = _
  simp
theorem fsin (r : RWord) : Statement (.fsin r) := by
  intro h w
  refine decode_of_form h ?_
  rw [opOf_encR, eOf_encR]
  show Decoded.instr _ = _
  simp
theorem fsinExt (r : RWord) (x : XaWord) : Statement (.fsinExt r x) := by
  intro h w
  refine decode_of_form h ?_
  rw [opOf_encR, eOf_encR]
  show Decoded.instr _ = _
  simp
theorem fcos (r : RWord) : Statement (.fcos r) := by
  intro h w
  refine decode_of_form h ?_
  rw [opOf_encR, eOf_encR]
  show Decoded.instr _ = _
  simp
theorem fcosExt (r : RWord) (x : XaWord) : Statement (.fcosExt r x) := by
  intro h w
  refine decode_of_form h ?_
  rw [opOf_encR, eOf_encR]
  show Decoded.instr _ = _
  simp
theorem frnd (r : RWord) : Statement (.frnd r) := by
  intro h w
  refine decode_of_form h ?_
  rw [opOf_encR, eOf_encR]
  show Decoded.instr _ = _
  simp
theorem frndExt (r : RWord) (x : XaWord) : Statement (.frndExt r x) := by
  intro h w
  refine decode_of_form h ?_
  rw [opOf_encR, eOf_encR]
  show Decoded.instr _ = _
  simp
theorem fclass (r : RWord) : Statement (.fclass r) := by
  intro h w
  refine decode_of_form h ?_
  rw [opOf_encR, eOf_encR]
  show Decoded.instr _ = _
  simp
theorem fclassExt (r : RWord) (x : XaWord) : Statement (.fclassExt r x) := by
  intro h w
  refine decode_of_form h ?_
  rw [opOf_encR, eOf_encR]
  show Decoded.instr _ = _
  simp
theorem fscale (r : RWord) : Statement (.fscale r) := by
  intro h w
  refine decode_of_form h ?_
  rw [opOf_encR, eOf_encR]
  show Decoded.instr _ = _
  simp
theorem fscaleExt (r : RWord) (x : XaWord) : Statement (.fscaleExt r x) := by
  intro h w
  refine decode_of_form h ?_
  rw [opOf_encR, eOf_encR]
  show Decoded.instr _ = _
  simp
theorem cvt (r : RWord) (x : XaWord) : Statement (.cvt r x) := by
  intro h w
  refine decode_of_form h ?_
  rw [opOf_encR, eOf_encR]
  show Decoded.instr _ = _
  simp
theorem cvtq (r : RWord) (x : XaWord) : Statement (.cvtq r x) := by
  intro h w
  refine decode_of_form h ?_
  rw [opOf_encR, eOf_encR]
  show Decoded.instr _ = _
  simp
theorem cvtd (r : RWord) (x : XaWord) : Statement (.cvtd r x) := by
  intro h w
  refine decode_of_form h ?_
  rw [opOf_encR, eOf_encR]
  show Decoded.instr _ = _
  simp
theorem pack (r : RWord) : Statement (.pack r) := by
  intro h w
  refine decode_of_form h ?_
  rw [opOf_encR, eOf_encR]
  show Decoded.instr _ = _
  simp
theorem packExt (r : RWord) (x : XaWord) : Statement (.packExt r x) := by
  intro h w
  refine decode_of_form h ?_
  rw [opOf_encR, eOf_encR]
  show Decoded.instr _ = _
  simp
theorem unpack (r : RWord) : Statement (.unpack r) := by
  intro h w
  refine decode_of_form h ?_
  rw [opOf_encR, eOf_encR]
  show Decoded.instr _ = _
  simp
theorem unpackExt (r : RWord) (x : XaWord) : Statement (.unpackExt r x) := by
  intro h w
  refine decode_of_form h ?_
  rw [opOf_encR, eOf_encR]
  show Decoded.instr _ = _
  simp
theorem amax (r : RWord) : Statement (.amax r) := by
  intro h w
  refine decode_of_form h ?_
  rw [opOf_encR, eOf_encR]
  show Decoded.instr _ = _
  simp
theorem amaxExt (r : RWord) (x : XaWord) : Statement (.amaxExt r x) := by
  intro h w
  refine decode_of_form h ?_
  rw [opOf_encR, eOf_encR]
  show Decoded.instr _ = _
  simp
theorem shfl (r : RWord) : Statement (.shfl r) := by
  intro h w
  refine decode_of_form h ?_
  rw [opOf_encR, eOf_encR]
  show Decoded.instr _ = _
  simp
theorem shflExt (r : RWord) (x : XaWord) : Statement (.shflExt r x) := by
  intro h w
  refine decode_of_form h ?_
  rw [opOf_encR, eOf_encR]
  show Decoded.instr _ = _
  simp
theorem vote (r : RWord) : Statement (.vote r) := by
  intro h w
  refine decode_of_form h ?_
  rw [opOf_encR, eOf_encR]
  show Decoded.instr _ = _
  simp
theorem voteExt (r : RWord) (x : XaWord) : Statement (.voteExt r x) := by
  intro h w
  refine decode_of_form h ?_
  rw [opOf_encR, eOf_encR]
  show Decoded.instr _ = _
  simp
theorem redu (r : RWord) : Statement (.redu r) := by
  intro h w
  refine decode_of_form h ?_
  rw [opOf_encR, eOf_encR]
  show Decoded.instr _ = _
  simp
theorem reduExt (r : RWord) (x : XaWord) : Statement (.reduExt r x) := by
  intro h w
  refine decode_of_form h ?_
  rw [opOf_encR, eOf_encR]
  show Decoded.instr _ = _
  simp
theorem scan (r : RWord) : Statement (.scan r) := by
  intro h w
  refine decode_of_form h ?_
  rw [opOf_encR, eOf_encR]
  show Decoded.instr _ = _
  simp
theorem scanExt (r : RWord) (x : XaWord) : Statement (.scanExt r x) := by
  intro h w
  refine decode_of_form h ?_
  rw [opOf_encR, eOf_encR]
  show Decoded.instr _ = _
  simp
theorem rdlane (r : RWord) : Statement (.rdlane r) := by
  intro h w
  refine decode_of_form h ?_
  rw [opOf_encR, eOf_encR]
  show Decoded.instr _ = _
  simp
theorem rdlaneExt (r : RWord) (x : XaWord) : Statement (.rdlaneExt r x) := by
  intro h w
  refine decode_of_form h ?_
  rw [opOf_encR, eOf_encR]
  show Decoded.instr _ = _
  simp
theorem wrlane (r : RWord) (x : XaWord) : Statement (.wrlane r x) := by
  intro h w
  refine decode_of_form h ?_
  rw [opOf_encR, eOf_encR]
  show Decoded.instr _ = _
  simp
theorem ddx (r : RWord) : Statement (.ddx r) := by
  intro h w
  refine decode_of_form h ?_
  rw [opOf_encR, eOf_encR]
  show Decoded.instr _ = _
  simp
theorem ddxExt (r : RWord) (x : XaWord) : Statement (.ddxExt r x) := by
  intro h w
  refine decode_of_form h ?_
  rw [opOf_encR, eOf_encR]
  show Decoded.instr _ = _
  simp
theorem ddy (r : RWord) : Statement (.ddy r) := by
  intro h w
  refine decode_of_form h ?_
  rw [opOf_encR, eOf_encR]
  show Decoded.instr _ = _
  simp
theorem ddyExt (r : RWord) (x : XaWord) : Statement (.ddyExt r x) := by
  intro h w
  refine decode_of_form h ?_
  rw [opOf_encR, eOf_encR]
  show Decoded.instr _ = _
  simp
theorem qperm (r : RWord) : Statement (.qperm r) := by
  intro h w
  refine decode_of_form h ?_
  rw [opOf_encR, eOf_encR]
  show Decoded.instr _ = _
  simp
theorem qpermExt (r : RWord) (x : XaWord) : Statement (.qpermExt r x) := by
  intro h w
  refine decode_of_form h ?_
  rw [opOf_encR, eOf_encR]
  show Decoded.instr _ = _
  simp
theorem ld (m : MWord) : Statement (.ld m) := by
  intro h w
  refine decode_of_form h ?_
  rw [opOf_encM, eOf_encM]
  show Decoded.instr _ = _
  simp
theorem ldExt (m : MWord) (x : XmWord) : Statement (.ldExt m x) := by
  intro h w
  refine decode_of_form h ?_
  rw [opOf_encM, eOf_encM]
  show Decoded.instr _ = _
  simp
theorem st (m : MWord) : Statement (.st m) := by
  intro h w
  refine decode_of_form h ?_
  rw [opOf_encM, eOf_encM]
  show Decoded.instr _ = _
  simp
theorem stExt (m : MWord) (x : XmWord) : Statement (.stExt m x) := by
  intro h w
  refine decode_of_form h ?_
  rw [opOf_encM, eOf_encM]
  show Decoded.instr _ = _
  simp
theorem ldl (m : MWord) : Statement (.ldl m) := by
  intro h w
  refine decode_of_form h ?_
  rw [opOf_encM, eOf_encM]
  show Decoded.instr _ = _
  simp
theorem ldlExt (m : MWord) (x : XmWord) : Statement (.ldlExt m x) := by
  intro h w
  refine decode_of_form h ?_
  rw [opOf_encM, eOf_encM]
  show Decoded.instr _ = _
  simp
theorem stl (m : MWord) : Statement (.stl m) := by
  intro h w
  refine decode_of_form h ?_
  rw [opOf_encM, eOf_encM]
  show Decoded.instr _ = _
  simp
theorem stlExt (m : MWord) (x : XmWord) : Statement (.stlExt m x) := by
  intro h w
  refine decode_of_form h ?_
  rw [opOf_encM, eOf_encM]
  show Decoded.instr _ = _
  simp
theorem atom (m : MWord) : Statement (.atom m) := by
  intro h w
  refine decode_of_form h ?_
  rw [opOf_encM, eOf_encM]
  show Decoded.instr _ = _
  simp
theorem atomExt (m : MWord) (x : XmWord) : Statement (.atomExt m x) := by
  intro h w
  refine decode_of_form h ?_
  rw [opOf_encM, eOf_encM]
  show Decoded.instr _ = _
  simp
theorem atoml (m : MWord) : Statement (.atoml m) := by
  intro h w
  refine decode_of_form h ?_
  rw [opOf_encM, eOf_encM]
  show Decoded.instr _ = _
  simp
theorem atomlExt (m : MWord) (x : XmWord) : Statement (.atomlExt m x) := by
  intro h w
  refine decode_of_form h ?_
  rw [opOf_encM, eOf_encM]
  show Decoded.instr _ = _
  simp
theorem fence (m : MWord) (x : XmWord) : Statement (.fence m x) := by
  intro h w
  refine decode_of_form h ?_
  rw [opOf_encM, eOf_encM]
  show Decoded.instr _ = _
  simp
theorem cctl (m : MWord) : Statement (.cctl m) := by
  intro h w
  refine decode_of_form h ?_
  rw [opOf_encM, eOf_encM]
  show Decoded.instr _ = _
  simp
theorem cctlExt (m : MWord) (x : XmWord) : Statement (.cctlExt m x) := by
  intro h w
  refine decode_of_form h ?_
  rw [opOf_encM, eOf_encM]
  show Decoded.instr _ = _
  simp
theorem pfetch (m : MWord) : Statement (.pfetch m) := by
  intro h w
  refine decode_of_form h ?_
  rw [opOf_encM, eOf_encM]
  show Decoded.instr _ = _
  simp
theorem pfetchExt (m : MWord) (x : XmWord) : Statement (.pfetchExt m x) := by
  intro h w
  refine decode_of_form h ?_
  rw [opOf_encM, eOf_encM]
  show Decoded.instr _ = _
  simp
theorem tcopy (u : UWord) (x : XtWord) : Statement (.tcopy u x) := by
  intro h w
  refine decode_of_form h ?_
  rw [opOf_encU, eOf_encU]
  show Decoded.instr _ = _
  simp
theorem mma (u : UWord) (x : XtWord) : Statement (.mma u x) := by
  intro h w
  refine decode_of_form h ?_
  rw [opOf_encU, eOf_encU]
  show Decoded.instr _ = _
  simp
theorem mmz (u : UWord) (x : XtWord) : Statement (.mmz u x) := by
  intro h w
  refine decode_of_form h ?_
  rw [opOf_encU, eOf_encU]
  show Decoded.instr _ = _
  simp
theorem tkacq (u : UWord) (x : XtWord) : Statement (.tkacq u x) := by
  intro h w
  refine decode_of_form h ?_
  rw [opOf_encU, eOf_encU]
  show Decoded.instr _ = _
  simp
theorem tkrel (u : UWord) (x : XtWord) : Statement (.tkrel u x) := by
  intro h w
  refine decode_of_form h ?_
  rw [opOf_encU, eOf_encU]
  show Decoded.instr _ = _
  simp
theorem accrd (r : RWord) (x : XtWord) : Statement (.accrd r x) := by
  intro h w
  refine decode_of_form h ?_
  rw [opOf_encR, eOf_encR]
  show Decoded.instr _ = _
  simp
theorem accwr (r : RWord) (x : XtWord) : Statement (.accwr r x) := by
  intro h w
  refine decode_of_form h ?_
  rw [opOf_encR, eOf_encR]
  show Decoded.instr _ = _
  simp
theorem waitc (r : RWord) : Statement (.waitc r) := by
  intro h w
  refine decode_of_form h ?_
  rw [opOf_encR, eOf_encR]
  show Decoded.instr _ = _
  simp
theorem bara (r : RWord) : Statement (.bara r) := by
  intro h w
  refine decode_of_form h ?_
  rw [opOf_encR, eOf_encR]
  show Decoded.instr _ = _
  simp
theorem barw (r : RWord) : Statement (.barw r) := by
  intro h w
  refine decode_of_form h ?_
  rw [opOf_encR, eOf_encR]
  show Decoded.instr _ = _
  simp
theorem bar (r : RWord) : Statement (.bar r) := by
  intro h w
  refine decode_of_form h ?_
  rw [opOf_encR, eOf_encR]
  show Decoded.instr _ = _
  simp
theorem barExt (r : RWord) (x : XaWord) : Statement (.barExt r x) := by
  intro h w
  refine decode_of_form h ?_
  rw [opOf_encR, eOf_encR]
  show Decoded.instr _ = _
  simp
theorem rbar (r : RWord) : Statement (.rbar r) := by
  intro h w
  refine decode_of_form h ?_
  rw [opOf_encR, eOf_encR]
  show Decoded.instr _ = _
  simp
theorem rbarExt (r : RWord) (x : XaWord) : Statement (.rbarExt r x) := by
  intro h w
  refine decode_of_form h ?_
  rw [opOf_encR, eOf_encR]
  show Decoded.instr _ = _
  simp
theorem regrel (r : RWord) (x : W32) : Statement (.regrel r x) := by
  intro h w
  refine decode_of_form h ?_
  rw [opOf_encR, eOf_encR]
  show Decoded.instr _ = _
  simp
theorem regclm (r : RWord) (x : W32) : Statement (.regclm r x) := by
  intro h w
  refine decode_of_form h ?_
  rw [opOf_encR, eOf_encR]
  show Decoded.instr _ = _
  simp
theorem chsend (r : RWord) : Statement (.chsend r) := by
  intro h w
  refine decode_of_form h ?_
  rw [opOf_encR, eOf_encR]
  show Decoded.instr _ = _
  simp
theorem chrecv (r : RWord) : Statement (.chrecv r) := by
  intro h w
  refine decode_of_form h ?_
  rw [opOf_encR, eOf_encR]
  show Decoded.instr _ = _
  simp
theorem qenq (u : UWord) : Statement (.qenq u) := by
  intro h w
  refine decode_of_form h ?_
  rw [opOf_encU, eOf_encU]
  show Decoded.instr _ = _
  simp
theorem qdeq (u : UWord) : Statement (.qdeq u) := by
  intro h w
  refine decode_of_form h ?_
  rw [opOf_encU, eOf_encU]
  show Decoded.instr _ = _
  simp
theorem fork (u : UWord) : Statement (.fork u) := by
  intro h w
  refine decode_of_form h ?_
  rw [opOf_encU, eOf_encU]
  show Decoded.instr _ = _
  simp
theorem join (u : UWord) : Statement (.join u) := by
  intro h w
  refine decode_of_form h ?_
  rw [opOf_encU, eOf_encU]
  show Decoded.instr _ = _
  simp
theorem tex (m : MWord) : Statement (.tex m) := by
  intro h w
  refine decode_of_form h ?_
  rw [opOf_encM, eOf_encM]
  show Decoded.instr _ = _
  simp
theorem texExt (m : MWord) (x : XaWord) : Statement (.texExt m x) := by
  intro h w
  refine decode_of_form h ?_
  rw [opOf_encM, eOf_encM]
  show Decoded.instr _ = _
  simp
theorem texg (m : MWord) : Statement (.texg m) := by
  intro h w
  refine decode_of_form h ?_
  rw [opOf_encM, eOf_encM]
  show Decoded.instr _ = _
  simp
theorem texgExt (m : MWord) (x : XaWord) : Statement (.texgExt m x) := by
  intro h w
  refine decode_of_form h ?_
  rw [opOf_encM, eOf_encM]
  show Decoded.instr _ = _
  simp
theorem texq (m : MWord) : Statement (.texq m) := by
  intro h w
  refine decode_of_form h ?_
  rw [opOf_encM, eOf_encM]
  show Decoded.instr _ = _
  simp
theorem texqExt (m : MWord) (x : XaWord) : Statement (.texqExt m x) := by
  intro h w
  refine decode_of_form h ?_
  rw [opOf_encM, eOf_encM]
  show Decoded.instr _ = _
  simp
theorem ipa (r : RWord) : Statement (.ipa r) := by
  intro h w
  refine decode_of_form h ?_
  rw [opOf_encR, eOf_encR]
  show Decoded.instr _ = _
  simp
theorem ipaExt (r : RWord) (x : XaWord) : Statement (.ipaExt r x) := by
  intro h w
  refine decode_of_form h ?_
  rw [opOf_encR, eOf_encR]
  show Decoded.instr _ = _
  simp
theorem kill (r : RWord) : Statement (.kill r) := by
  intro h w
  refine decode_of_form h ?_
  rw [opOf_encR, eOf_encR]
  show Decoded.instr _ = _
  simp
theorem killExt (r : RWord) (x : XaWord) : Statement (.killExt r x) := by
  intro h w
  refine decode_of_form h ?_
  rw [opOf_encR, eOf_encR]
  show Decoded.instr _ = _
  simp
theorem pout (r : RWord) : Statement (.pout r) := by
  intro h w
  refine decode_of_form h ?_
  rw [opOf_encR, eOf_encR]
  show Decoded.instr _ = _
  simp
theorem poutExt (r : RWord) (x : XaWord) : Statement (.poutExt r x) := by
  intro h w
  refine decode_of_form h ?_
  rw [opOf_encR, eOf_encR]
  show Decoded.instr _ = _
  simp
theorem mvtx (r : RWord) : Statement (.mvtx r) := by
  intro h w
  refine decode_of_form h ?_
  rw [opOf_encR, eOf_encR]
  show Decoded.instr _ = _
  simp
theorem mprim (r : RWord) : Statement (.mprim r) := by
  intro h w
  refine decode_of_form h ?_
  rw [opOf_encR, eOf_encR]
  show Decoded.instr _ = _
  simp
theorem rtrav (m : MWord) : Statement (.rtrav m) := by
  intro h w
  refine decode_of_form h ?_
  rw [opOf_encM, eOf_encM]
  show Decoded.instr _ = _
  simp
theorem rtravExt (m : MWord) (x : XaWord) : Statement (.rtravExt m x) := by
  intro h w
  refine decode_of_form h ?_
  rw [opOf_encM, eOf_encM]
  show Decoded.instr _ = _
  simp
theorem rtcom (r : RWord) : Statement (.rtcom r) := by
  intro h w
  refine decode_of_form h ?_
  rw [opOf_encR, eOf_encR]
  show Decoded.instr _ = _
  simp
theorem rtcomExt (r : RWord) (x : XaWord) : Statement (.rtcomExt r x) := by
  intro h w
  refine decode_of_form h ?_
  rw [opOf_encR, eOf_encR]
  show Decoded.instr _ = _
  simp
theorem rtrep (m : MWord) : Statement (.rtrep m) := by
  intro h w
  refine decode_of_form h ?_
  rw [opOf_encM, eOf_encM]
  show Decoded.instr _ = _
  simp
theorem rtrepExt (m : MWord) (x : XaWord) : Statement (.rtrepExt m x) := by
  intro h w
  refine decode_of_form h ?_
  rw [opOf_encM, eOf_encM]
  show Decoded.instr _ = _
  simp
theorem srget (u : UWord) : Statement (.srget u) := by
  intro h w
  refine decode_of_form h ?_
  rw [opOf_encU, eOf_encU]
  show Decoded.instr _ = _
  simp
theorem srset (u : UWord) : Statement (.srset u) := by
  intro h w
  refine decode_of_form h ?_
  rw [opOf_encU, eOf_encU]
  show Decoded.instr _ = _
  simp
theorem tlbi (u : UWord) : Statement (.tlbi u) := by
  intro h w
  refine decode_of_form h ?_
  rw [opOf_encU, eOf_encU]
  show Decoded.instr _ = _
  simp
theorem hsig (u : UWord) : Statement (.hsig u) := by
  intro h w
  refine decode_of_form h ?_
  rw [opOf_encU, eOf_encU]
  show Decoded.instr _ = _
  simp
theorem queueNop (q : Nat) : Statement (.queueNop q) := fun _ _ => trivial
theorem launch (q : Nat) : Statement (.launch q) := fun _ _ => trivial
theorem wait (q : Nat) : Statement (.wait q) := fun _ _ => trivial
theorem waitPoll (q : Nat) : Statement (.waitPoll q) := fun _ _ => trivial
theorem signal (q : Nat) : Statement (.signal q) := fun _ _ => trivial
theorem graphload (q : Nat) : Statement (.graphload q) := fun _ _ => trivial
theorem qtailWrite (q : Nat) (v : W64) (src : Source) : Statement (.qtailWrite q v src) := fun _ _ => trivial
theorem qerrStopWrite (q : Nat) (v : W64) (src : Source) : Statement (.qerrStopWrite q v src) := fun _ _ => trivial
theorem qpassWrite (q : Nat) (v : W64) (src : Source) : Statement (.qpassWrite q v src) := fun _ _ => trivial
theorem triggerWrite (t : Nat) (v : W64) (whole : Bool) (src : Source) : Statement (.triggerWrite t v whole src) := fun _ _ => trivial
theorem registerWrite (off : Nat) (v : W64) (src : Source) : Statement (.registerWrite off v src) := fun _ _ => trivial
theorem load : Statement .load := fun _ _ => trivial
theorem unload : Statement .unload := fun _ _ => trivial
theorem attest : Statement .attest := fun _ _ => trivial
theorem fwreload : Statement .fwreload := fun _ _ => trivial
theorem mailboxRequestEnd : Statement .mailboxRequestEnd := fun _ _ => trivial
theorem faultReply (die : Nat) (v : W64) (src : Source) : Statement (.faultReply die v src) := fun _ _ => trivial
theorem haltedWrite (die : Nat) (v : W64) (src : Source) : Statement (.haltedWrite die v src) := fun _ _ => trivial
theorem pwrcfgWrite (c : Nat) (v : W64) (src : Source) : Statement (.pwrcfgWrite c v src) := fun _ _ => trivial
theorem rampWrite (c : Nat) (upper : Bool) (v : W64) (src : Source) : Statement (.rampWrite c upper v src) := fun _ _ => trivial
theorem railselWrite (c : Nat) (v : W64) (src : Source) : Statement (.railselWrite c v src) := fun _ _ => trivial
theorem domtabWrite (v : W64) (src : Source) : Statement (.domtabWrite v src) := fun _ _ => trivial
theorem apertureAccess (a : HostAccess) : Statement (.apertureAccess a) := fun _ _ => trivial
theorem tenantApertureAccess (t : Nat) (a : HostAccess) : Statement (.tenantApertureAccess t a) := fun _ _ => trivial
theorem packageReset : Statement .packageReset := fun _ _ => trivial
theorem functionLevelReset (t : Nat) : Statement (.functionLevelReset t) := fun _ _ => trivial
theorem fatalError (cause : Nat) (pa : Nat) : Statement (.fatalError cause pa) := fun _ _ => trivial
theorem stateDumpComplete : Statement .stateDumpComplete := fun _ _ => trivial
theorem peerLinkState (k : Nat) (st : Nat) : Statement (.peerLinkState k st) := fun _ _ => trivial
theorem dieHalt (die : Nat) : Statement (.dieHalt die) := fun _ _ => trivial
theorem launchPlacement (l : Nat) : Statement (.launchPlacement l) := fun _ _ => trivial
theorem groupAdmission (l : Nat) (core : Nat) : Statement (.groupAdmission l core) := fun _ _ => trivial
theorem taskStart (l : Nat) (core : Nat) : Statement (.taskStart l core) := fun _ _ => trivial
theorem taskSteal (l : Nat) (core : Nat) : Statement (.taskSteal l core) := fun _ _ => trivial
theorem forkPush (p : PartRef) : Statement (.forkPush p) := fun _ _ => trivial
theorem taskJoinDecrement (g : Nat) : Statement (.taskJoinDecrement g) := fun _ _ => trivial
theorem joinWake (p : PartRef) : Statement (.joinWake p) := fun _ _ => trivial
theorem launchCompletion (l : Nat) : Statement (.launchCompletion l) := fun _ _ => trivial
theorem preemptVictimChoice (l : Nat) : Statement (.preemptVictimChoice l) := fun _ _ => trivial
theorem launchDue (l : Nat) : Statement (.launchDue l) := fun _ _ => trivial
theorem protectionEnd (l : Nat) : Statement (.protectionEnd l) := fun _ _ => trivial
theorem forcedSave (l : Nat) : Statement (.forcedSave l) := fun _ _ => trivial
theorem victimRelease (l : Nat) : Statement (.victimRelease l) := fun _ _ => trivial
theorem launchRestore (l : Nat) : Statement (.launchRestore l) := fun _ _ => trivial
theorem claimGrant (core : Nat) : Statement (.claimGrant core) := fun _ _ => trivial
theorem claimAging (core : Nat) : Statement (.claimAging core) := fun _ _ => trivial
theorem claimDeadlock (g : Nat) : Statement (.claimDeadlock g) := fun _ _ => trivial
theorem confTimeout (p : PartRef) : Statement (.confTimeout p) := fun _ _ => trivial
theorem missSplit (p : PartRef) : Statement (.missSplit p) := fun _ _ => trivial
theorem fusefail (p : PartRef) : Statement (.fusefail p) := fun _ _ => trivial
theorem barrierPhaseComplete (g : Nat) (b : Nat) : Statement (.barrierPhaseComplete g b) := fun _ _ => trivial
theorem rbarLocalCompletion (l : Nat) (core : Nat) : Statement (.rbarLocalCompletion l core) := fun _ _ => trivial
theorem rbarReport (l : Nat) (core : Nat) : Statement (.rbarReport l core) := fun _ _ => trivial
theorem rbarGlobalCompletion (l : Nat) (core : Nat) : Statement (.rbarGlobalCompletion l core) := fun _ _ => trivial
theorem sleepWake (p : PartRef) : Statement (.sleepWake p) := fun _ _ => trivial
theorem pwaitWake (p : PartRef) : Statement (.pwaitWake p) := fun _ _ => trivial
theorem pageWalkComplete (w : Nat) : Statement (.pageWalkComplete w) := fun _ _ => trivial
theorem ldCompletion (op : Nat) : Statement (.ldCompletion op) := fun _ _ => trivial
theorem stCompletion (op : Nat) : Statement (.stCompletion op) := fun _ _ => trivial
theorem sliceRequest (op : Nat) : Statement (.sliceRequest op) := fun _ _ => trivial
theorem pinTimeout (line : Nat) : Statement (.pinTimeout line) := fun _ _ => trivial
theorem queueEnqueueRequest (op : Nat) : Statement (.queueEnqueueRequest op) := fun _ _ => trivial
theorem queueDequeueRequest (op : Nat) : Statement (.queueDequeueRequest op) := fun _ _ => trivial
theorem channelMessageArrival (op : Nat) : Statement (.channelMessageArrival op) := fun _ _ => trivial
theorem channelCreditReturn (l : Nat) (inst : Nat) : Statement (.channelCreditReturn l inst) := fun _ _ => trivial
theorem bankDrowsy (bank : Nat) : Statement (.bankDrowsy bank) := fun _ _ => trivial
theorem bankWakeComplete (bank : Nat) : Statement (.bankWakeComplete bank) := fun _ _ => trivial
theorem tcopyComplete (op : Nat) : Statement (.tcopyComplete op) := fun _ _ => trivial
theorem coopMmaRelease (op : Nat) : Statement (.coopMmaRelease op) := fun _ _ => trivial
theorem mmaKstepDelivery (op : Nat) : Statement (.mmaKstepDelivery op) := fun _ _ => trivial
theorem mmaComplete (op : Nat) : Statement (.mmaComplete op) := fun _ _ => trivial
theorem mmzComplete (op : Nat) : Statement (.mmzComplete op) := fun _ _ => trivial
theorem slewStep (c : Nat) : Statement (.slewStep c) := fun _ _ => trivial
theorem pacSustainedStrike (c : Nat) : Statement (.pacSustainedStrike c) := fun _ _ => trivial
theorem voltageInterval (c : Nat) : Statement (.voltageInterval c) := fun _ _ => trivial
theorem gatingStart (c : Nat) : Statement (.gatingStart c) := fun _ _ => trivial
theorem gatingCommit (c : Nat) : Statement (.gatingCommit c) := fun _ _ => trivial
theorem clusterAwake (c : Nat) : Statement (.clusterAwake c) := fun _ _ => trivial
theorem setupBinning (g : Nat) : Statement (.setupBinning g) := fun _ _ => trivial
theorem primitiveRecord (r : Nat) : Statement (.primitiveRecord r) := fun _ _ => trivial
theorem watermark (m : Nat) : Statement (.watermark m) := fun _ _ => trivial
theorem watermarkSend (l : Nat) (src : Nat) : Statement (.watermarkSend l src) := fun _ _ => trivial
theorem rasteriseRecord (r : Nat) : Statement (.rasteriseRecord r) := fun _ _ => trivial
theorem fragmentCommit (f : Nat) : Statement (.fragmentCommit f) := fun _ _ => trivial
theorem divergenceHistoryUpdate (die : Nat) (seg : W64) (kidx : Nat) : Statement (.divergenceHistoryUpdate die seg kidx) := fun _ _ => trivial
theorem reservedOpcode : Statement .reservedOpcode := fun _ _ => trivial
theorem instructionFetchFault : Statement .instructionFetchFault := fun _ _ => trivial
theorem allowanceUpdate (c : Nat) : Statement (.allowanceUpdate c) := fun _ _ => trivial
theorem joinReread (p : PartRef) : Statement (.joinReread p) := fun _ _ => trivial
theorem debugInterfaceAccess (write : Bool) (opm : Nat) (v : W32) : Statement (.debugInterfaceAccess write opm v) := fun _ _ => trivial

end Sys2Proof.Laws.RoundTrip
end

