-- ==== Sys2Proof/Laws/Results.lean ====
section
/-! SUPPORT. What the shared operations over registers do: uniform, vector and predicate instructions. -/

namespace Sys2Proof.Machine

/-! ### A wave after an update and the move of its part -/

@[simp] theorem Part.pastIn_base (p : Part) (c : Ctx) (len d now : Nat) : (p.pastIn c len d now).base = p.base := rfl

theorem wave?_updWave_some {s : State} {k : Nat} {w : Wave} (h : s.wave? k = some w) (f : Wave → Wave) :
    (s.updWave k f).wave? k = some (f w) := by rw [State.wave?_updWave_self, h]; rfl

theorem wave?_done {s : State} {c : Ctx} {w : Wave} (h : s.wave? c.ref.key = some w) (len : Nat) :
    (s.done c len).wave? c.ref.key = some (w.updPart c.ref.base (fun p => p.past c len s.dcc)) :=
  wave?_updWave_some h _

/-- The wave of `c` once a part updated by `g` has moved on, the wave itself being `v` by then. -/
theorem waveIs_done {s : State} {c : Ctx} {v : Wave} (hw : s.wave? c.ref.key = some (v.updPart c.ref.base g)) (f : Wave → Wave)
    (hv : v = { f c.wave with vregs := v.vregs, dirty := v.dirty, parts := v.parts }) (hp : v.parts = c.wave.parts)
    (hc : c.wave.part? c.ref.base = some c.part) (hg : ∀ p, (g p).base = p.base) (len : Nat) :
    WaveIs c (s.done c len) f ((g c.part).past c len s.dcc)
      ((v.updPart c.ref.base g).updPart c.ref.base (fun p => p.past c len s.dcc)) where
  found := wave?_done hw len
  same := by
    rw [hv]
    rfl
  part := by
    have h : v.part? c.ref.base = some c.part := by rw [Wave.part?, hp]; exact hc
    rw [Wave.part?_updPart_self _ _ _ (by intro _; rfl), Wave.part?_updPart_self _ _ _ hg, h]
    rfl
  others := by
    intro b hb
    rw [Wave.part?_updPart_of_ne _ _ (by intro _; rfl) hb, Wave.part?_updPart_of_ne _ _ hg hb, Wave.part?, hp]
    rfl

/-! ### Uniform instructions -/

/-- A uniform instruction sets its register and moves on. -/
theorem uniformOp_next (sm : Bool) (len d : Nat) (f : Ctx → W64) (s : State) (c : Ctx) (hi : s.issuing = some c) (free : Plain c sm) :
    uniformOp sm len d f s = .next ((s.updPart c.ref (fun p => p.setS d (f c))).done c len) :=
  issue_next _ _ c s hi (by simp) rfl rfl free

theorem uniformResult_of (i : Instr) (sm : Bool) (len d : Nat) (f : Ctx → W64) (he : ∀ s, exec i s = uniformOp sm len d f s) :
    UniformResult i sm len d f := by
  intro s c hi free
  have hw := issuing_wave hi
  have hp := issuing_part hi
  refine ⟨_, (c.wave.updPart c.ref.base (fun p => p.setS d (f c))).updPart c.ref.base (fun p => p.past c len s.dcc), c.part.setS d (f c), (he s).trans (uniformOp_next sm len d f s c hi free), ?_, ⟨rfl, rfl⟩, ?_, rfl, ?_⟩
  · exact (onlyWave_updPart c s _).trans (onlyWave_done c _ len)
  · have h1 : (s.updPart c.ref (fun p => p.setS d (f c))).wave? c.ref.key = some (c.wave.updPart c.ref.base (fun p => p.setS d (f c))) :=
      wave?_updWave_some hw _
    have h := waveIs_done (g := fun p => p.setS d (f c)) h1 id rfl rfl hp (fun _ => rfl) len
    rwa [State.updPart_dcc] at h
  · intro n
    by_cases h : n = d
    · subst h; simp
    · simp [h, PartRegs.sreg_setS_of_ne _ _ h, Ctx.sreg]

/-! ### Writes of vector registers -/

theorem vKey_inj {d l n d' l' n' : Nat} (hl : l < 64) (hl' : l' < 64) (hn : n < 512) (hn' : n' < 512)
    (h : vKey d l n = vKey d' l' n') : d = d' ∧ l = l' ∧ n = n' := by
  unfold vKey at h
  omega

/-- A register that a list of writes names once holds the value written. -/
theorem v_setVs_mem (w : Wave) (depth : Nat) (ws : List (Nat × Nat × W32)) (hn : (ws.map (fun e => vKey depth e.1 e.2.1)).Nodup)
    {l n : Nat} {v : W32} (h : (l, n, v) ∈ ws) : (w.setVs depth ws).v depth l n = v := by
  induction ws generalizing w with
  | nil => simp at h
  | cons e r ih =>
    obtain ⟨l', n', v'⟩ := e
    simp only [List.map_cons, List.nodup_cons] at hn
    rw [Wave.setVs]
    rcases List.mem_cons.mp h with h | h
    · simp only [Prod.mk.injEq] at h
      obtain ⟨rfl, rfl, rfl⟩ := h
      rw [Wave.v_setVs_of_ne, Wave.v_setV_self]
      intro e he hk
      exact hn.1 (List.mem_map.mpr ⟨e, he, hk.symm⟩)
    · exact ih _ hn.2 h

theorem regWrites_eq (lane n v k : Nat) :
    regWrites lane n v k = (List.range k).map (fun j => (lane, n + j, BitVec.ofNat 32 (v / 2 ^ (32 * j)))) := by
  induction k generalizing n v with
  | zero => rfl
  | succ k ih =>
    rw [regWrites, ih, List.range_succ_eq_map, List.map_cons, List.map_map]
    simp only [Nat.add_zero, Nat.mul_zero, Nat.pow_zero, Nat.div_one, List.cons.injEq, true_and]
    apply List.map_congr_left
    intro j _
    simp only [Function.comp, Prod.mk.injEq, true_and]
    refine ⟨by omega, ?_⟩
    rw [Nat.div_div_eq_div_mul, ← Nat.pow_add, show 32 + 32 * j = 32 * j.succ by rw [Nat.succ_eq_add_one]; ring]

/-- The writes of an instruction over its active lanes and the elements of D. -/
def blockWrites (c : Ctx) (act : Lanes) (d : Vop) (val : Nat → Nat → Nat → Nat) : List (Nat × Nat × W32) :=
  (lanesOf act).flatMap (fun l => d.elems.flatMap (fun p => c.wr l d p.1 p.2 (val l p.1 p.2)))

theorem elementWrites_inner (c : Ctx) (d : Vop) (f : Nat → Nat → Nat → FRes) (l : Nat) (es : List (Nat × Nat))
    (acc : List (Nat × Nat × W32) × Flags) :
    es.foldl (fun acc p =>
      (acc.1 ++ c.wr l d p.1 p.2 (f l p.1 p.2).bits, if c.wave.helper.getLsbD l then acc.2 else acc.2 ||| (f l p.1 p.2).fl)) acc
    = (acc.1 ++ es.flatMap (fun p => c.wr l d p.1 p.2 (f l p.1 p.2).bits),
       if c.wave.helper.getLsbD l then acc.2 else es.foldl (fun a p => a ||| (f l p.1 p.2).fl) acc.2) := by
  induction es generalizing acc with
  | nil => simp
  | cons e r ih =>
    rw [List.foldl_cons, ih]
    by_cases h : c.wave.helper.getLsbD l = true <;> simp [h]

theorem elementWrites_fst (c : Ctx) (act : Lanes) (d : Vop) (f : Nat → Nat → Nat → FRes) :
    (elementWrites c act d f).1 = blockWrites c act d (fun l a b => (f l a b).bits) := by
  unfold elementWrites blockWrites
  suffices h : ∀ (ls : List Nat) (acc : List (Nat × Nat × W32) × Flags),
      (ls.foldl (fun acc l => d.elems.foldl (fun acc p =>
        (acc.1 ++ c.wr l d p.1 p.2 (f l p.1 p.2).bits, if c.wave.helper.getLsbD l then acc.2 else acc.2 ||| (f l p.1 p.2).fl)) acc) acc).1
      = acc.1 ++ ls.flatMap (fun l => d.elems.flatMap (fun p => c.wr l d p.1 p.2 (f l p.1 p.2).bits)) by
    simpa using h (lanesOf act) ([], 0)
  intro ls
  induction ls with
  | nil => simp
  | cons l r ih =>
    intro acc
    rw [List.foldl_cons, elementWrites_inner, ih]
    simp

theorem foldl_or_getLsbD {α : Type} (es : List α) (g : α → Flags) (a : Flags) (b : Nat) :
    (es.foldl (fun a p => a ||| g p) a).getLsbD b = (a.getLsbD b || es.any (fun p => (g p).getLsbD b)) := by
  induction es generalizing a with
  | nil => simp
  | cons e r ih => rw [List.foldl_cons, ih]; simp [Bool.or_assoc]

theorem elementWrites_snd (c : Ctx) (act : Lanes) (d : Vop) (f : Nat → Nat → Nat → FRes) (b : Nat) :
    (elementWrites c act d f).2.getLsbD b
      = (lanesOf act).any (fun l => !c.wave.helper.getLsbD l && d.elems.any (fun e => (f l e.1 e.2).fl.getLsbD b)) := by
  unfold elementWrites
  suffices h : ∀ (ls : List Nat) (acc : List (Nat × Nat × W32) × Flags),
      (ls.foldl (fun acc l => d.elems.foldl (fun acc p =>
        (acc.1 ++ c.wr l d p.1 p.2 (f l p.1 p.2).bits, if c.wave.helper.getLsbD l then acc.2 else acc.2 ||| (f l p.1 p.2).fl)) acc) acc).2.getLsbD b
      = (acc.2.getLsbD b || ls.any (fun l => !c.wave.helper.getLsbD l && d.elems.any (fun e => (f l e.1 e.2).fl.getLsbD b))) by
    simpa using h (lanesOf act) ([], 0)
  intro ls
  induction ls with
  | nil => simp
  | cons l r ih =>
    intro acc
    rw [List.foldl_cons, elementWrites_inner, ih]
    by_cases h : c.wave.helper.getLsbD l = true
    · simp [h]
    · simp [h, foldl_or_getLsbD, Bool.or_assoc]

theorem mem_lanesOf {m : Lanes} {l : Nat} : l ∈ lanesOf m ↔ l < 64 ∧ m.getLsbD l = true := by
  simp [lanesOf]

theorem nodup_lanesOf (m : Lanes) : (lanesOf m).Nodup := List.nodup_range.filter _

/-! ### The registers of a block -/

theorem mem_elems {o : Vop} {e : Nat × Nat} : e ∈ o.elems ↔ e.1 < o.rows ∧ e.2 < o.cols := by
  obtain ⟨i, j⟩ := e
  simp [Vop.elems]

theorem nodup_elems (o : Vop) : o.elems.Nodup := by
  unfold Vop.elems
  rw [List.nodup_flatMap]
  refine ⟨fun i _ => List.nodup_range.map (fun a b h => by simpa using h), ?_⟩
  refine List.nodup_range.imp ?_
  intro a b hab
  simp only [Function.onFun, List.disjoint_left, List.mem_map, List.mem_range, not_exists, not_and]
  rintro _ ⟨j, _, rfl⟩ k _ h
  exact hab (by simpa using (congrArg Prod.fst h).symm)

/-- An operand whose row fits in sixteen fields: every block of an XA word. -/
def Vop.narrow (o : Vop) : Prop := (o.unit = 1 ∨ o.unit = 2) ∧ o.cols * o.unit ≤ 16

theorem field_inj {o : Vop} (hn : o.narrow) {e e' : Nat × Nat} {k k' : Nat} (he : e ∈ o.elems) (he' : e' ∈ o.elems) (hk : k < o.unit)
    (hk' : k' < o.unit) (h : o.field e.1 e.2 + k = o.field e'.1 e'.2 + k') : e = e' ∧ k = k' := by
  rw [mem_elems] at he he'
  obtain ⟨i, j⟩ := e
  obtain ⟨i', j'⟩ := e'
  obtain ⟨hu, hw⟩ := hn
  simp only [Vop.field, Prod.mk.injEq] at *
  rcases hu with hu | hu
  · rw [hu] at h hw hk hk'
    simp only [show ((1 : Nat) = 2) = False by simp, if_false] at h
    omega
  · rw [hu] at h hw hk hk'
    simp only [if_true] at h
    omega

theorem check_fields {ops : List Vop} {wb allot : Nat} (h : checkVops ops wb allot = none) {o : Vop} (ho : o ∈ ops) {e : Nat × Nat}
    (he : e ∈ o.elems) {k : Nat} (hk : k < o.unit) : badField (o.field 0 0) wb allot (o.field e.1 e.2 + k) = false := by
  unfold checkVops at h
  have h1 : o.check wb allot = none := List.findSome?_eq_none_iff.mp h o ho
  unfold Vop.check at h1
  simp only at h1
  split at h1
  · simp at h1
  · rw [Option.map_eq_none_iff, List.find?_eq_none] at h1
    have := h1 (o.field e.1 e.2 + k) (by
      simp only [Vop.fields, List.mem_flatMap, List.mem_map, List.mem_range]
      exact ⟨e, he, k, hk, rfl⟩)
    simpa using this

theorem reg_add {o : Vop} {wb allot : Nat} {e : Nat × Nat} {k : Nat} (hk : k < o.unit)
    (h : ∀ k < o.unit, badField (o.field 0 0) wb allot (o.field e.1 e.2 + k) = false) :
    o.reg wb e.1 e.2 + k = regNumber wb (o.field e.1 e.2 + k) := by
  have h0 := h 0 (by omega)
  have h1 := h k hk
  unfold badField at h0 h1
  unfold Vop.reg regNumber
  by_cases hlow : o.field 0 0 < 16
  · simp only [hlow, if_true, Bool.or_eq_false_iff, decide_eq_false_iff_not] at h0 h1
    rw [if_pos (by omega), if_pos (by omega)]
  · by_cases hf : o.field e.1 e.2 < 16
    · exfalso
      unfold Vop.field at hlow hf
      simp at hlow
      omega
    · rw [if_neg hf, if_neg (by omega)]
      omega

theorem reg_inj {o : Vop} {wb allot : Nat} (hn : o.narrow) {e e' : Nat × Nat} {k k' : Nat} (he : e ∈ o.elems) (he' : e' ∈ o.elems)
    (hk : k < o.unit) (hk' : k' < o.unit)
    (h : ∀ e ∈ o.elems, ∀ k < o.unit, badField (o.field 0 0) wb allot (o.field e.1 e.2 + k) = false)
    (heq : o.reg wb e.1 e.2 + k = o.reg wb e'.1 e'.2 + k') : e = e' ∧ k = k' := by
  rw [reg_add hk (h e he), reg_add hk' (h e' he')] at heq
  refine field_inj hn he he' hk hk' ?_
  have h0 := h e he k hk
  have h1 := h e' he' k' hk'
  unfold badField at h0 h1
  unfold regNumber at heq
  have hge : ∀ i j : Nat, o.field 0 0 ≤ o.field i j := by intro i j; unfold Vop.field; simp; omega
  have g := hge e.1 e.2
  have g' := hge e'.1 e'.2
  by_cases hlow : o.field 0 0 < 16
  · simp only [hlow, if_true, Bool.or_eq_false_iff, decide_eq_false_iff_not] at h0 h1
    rw [if_pos (by omega), if_pos (by omega)] at heq
    exact heq
  · rw [if_neg (by omega), if_neg (by omega)] at heq
    omega

theorem reg_lt {o : Vop} {wb allot : Nat} (hwb : wb < 256) {e : Nat × Nat} {k : Nat} (hk : k < o.unit)
    (h : ∀ k < o.unit, badField (o.field 0 0) wb allot (o.field e.1 e.2 + k) = false) : o.reg wb e.1 e.2 + k < 512 := by
  rw [reg_add hk h]
  have h1 := h k hk
  unfold badField at h1
  unfold regNumber
  by_cases hlow : o.field 0 0 < 16
  · simp only [hlow, if_true, Bool.or_eq_false_iff, decide_eq_false_iff_not] at h1
    rw [if_pos (by omega)]; omega
  · simp only [hlow, if_false, Bool.or_eq_false_iff, decide_eq_false_iff_not] at h1
    split <;> omega

theorem mem_blockWrites {c : Ctx} {act : Lanes} {d : Vop} {val : Nat → Nat → Nat → Nat} {x : Nat × Nat × W32} :
    x ∈ blockWrites c act d val ↔ ∃ l < 64, act.getLsbD l = true ∧ ∃ e ∈ d.elems, ∃ k < d.unit,
      x = (l, d.reg c.wb e.1 e.2 + k, BitVec.ofNat 32 (val l e.1 e.2 / 2 ^ (32 * k))) := by
  simp only [blockWrites, List.mem_flatMap, mem_lanesOf, Ctx.wr, regWrites_eq, List.mem_map, List.mem_range]
  constructor
  · rintro ⟨l, ⟨hl, ha⟩, e, he, k, hk, rfl⟩
    exact ⟨l, hl, ha, e, he, k, hk, rfl⟩
  · rintro ⟨l, hl, ha, e, he, k, hk, rfl⟩
    exact ⟨l, ⟨hl, ha⟩, e, he, k, hk, rfl⟩

theorem nodup_blockWrites {c : Ctx} {act : Lanes} {d : Vop} {val : Nat → Nat → Nat → Nat} (depth : Nat) (hn : d.narrow)
    
    (h : ∀ e ∈ d.elems, ∀ k < d.unit, badField (d.field 0 0) c.wb c.allot (d.field e.1 e.2 + k) = false) :
    ((blockWrites c act d val).map (fun e => vKey depth e.1 e.2.1)).Nodup := by
  unfold blockWrites
  rw [List.map_flatMap, List.nodup_flatMap]
  refine ⟨fun l hl => ?_, (nodup_lanesOf act).imp_of_mem ?_⟩
  · rw [mem_lanesOf] at hl
    rw [List.map_flatMap, List.nodup_flatMap]
    refine ⟨fun e he => ?_, (nodup_elems d).imp_of_mem ?_⟩
    · rw [Ctx.wr, regWrites_eq, List.map_map]
      refine List.nodup_range.map_on ?_
      intro a ha b hb hab
      simp only [Function.comp] at hab
      have ha' := List.mem_range.mp ha
      have hb' := List.mem_range.mp hb
      have := vKey_inj hl.1 hl.1 (reg_lt c.part.regs.wb.isLt ha' (h e he)) (reg_lt c.part.regs.wb.isLt hb' (h e he)) hab
      omega
    · intro e e' he he' hne
      simp only [Function.onFun, List.disjoint_left, Ctx.wr, regWrites_eq, List.map_map, List.mem_map, List.mem_range, Function.comp]
      rintro _ ⟨k, hk, rfl⟩ ⟨k', hk', heq⟩
      have := vKey_inj hl.1 hl.1 (reg_lt c.part.regs.wb.isLt hk' (h e' he')) (reg_lt c.part.regs.wb.isLt hk (h e he)) heq
      exact hne (reg_inj hn he he' hk hk' h this.2.2.symm).1
  · intro l l' hl hl' hne
    rw [mem_lanesOf] at hl hl'
    simp only [Function.onFun, List.disjoint_left, List.mem_map, List.mem_flatMap, Ctx.wr, regWrites_eq, List.mem_range]
    rintro _ ⟨_, ⟨e, he, k, hk, rfl⟩, rfl⟩ ⟨_, ⟨e', he', k', hk', rfl⟩, heq⟩
    exact hne (vKey_inj hl'.1 hl.1 (reg_lt c.part.regs.wb.isLt hk' (h e' he')) (reg_lt c.part.regs.wb.isLt hk (h e he)) heq).2.1.symm

/-- The registers after the writes of a block. -/
theorem wrote_setVs {c : Ctx} {act : Lanes} {d : Vop} {val : Nat → Nat → Nat → Nat} (hn : d.narrow) 
    (h : ∀ e ∈ d.elems, ∀ k < d.unit, badField (d.field 0 0) c.wb c.allot (d.field e.1 e.2 + k) = false) (w : Wave)
    (hw : ∀ depth l n, w.v depth l n = (c.wave.setVs c.part.depth (blockWrites c act d val)).v depth l n) :
    Wrote c act d val w where
  here := by
    intro l hl ha e he k hk
    rw [hw]
    exact v_setVs_mem _ _ _ (nodup_blockWrites _ hn h) (mem_blockWrites.mpr ⟨l, hl, ha, e, he, k, hk, rfl⟩)
  others := by
    intro depth l n hl hn' hor
    rw [hw, Wave.v_setVs_of_ne]
    intro x hx hkey
    obtain ⟨l', hl', ha, e, he, k, hk, rfl⟩ := mem_blockWrites.mp hx
    have := vKey_inj hl hl' hn' (reg_lt c.part.regs.wb.isLt hk (h e he)) hkey
    rcases hor with h1 | h1 | h1
    · exact h1 this.1
    · rw [this.2.1] at h1; simp [h1] at ha
    · exact h1 e he k hk this.2.2

theorem narrow_vop (o : XaForm) (f : BitVec 7) (ind : Bool) (ix : BitVec 16) (ty : Nat) : (o.vop f ind ix ty).narrow := by
  have hc : blockCols o ≤ 8 := by
    unfold blockCols
    split
    · have := o.x.bw.isLt
      calc 2 ^ o.x.bw.toNat ≤ 2 ^ 3 := Nat.pow_le_pow_right (by omega) (by omega)
        _ = 8 := rfl
    · omega
  unfold Vop.narrow XaForm.vop unitOf
  simp only
  split <;> omega

theorem narrow_d (o : XaForm) (c : Ctx) : (o.d c).narrow := narrow_vop _ _ _ _ _

/-! ### Vector and predicate instructions -/

theorem orFp_bits (a b : BitVec 5) (i : Nat) : (a ||| b).getLsbD i = (a.getLsbD i || b.getLsbD i) := BitVec.getLsbD_or

/-- A vector instruction writes its block, ORs its flags and moves on. -/
theorem vectorOp_next (sm : Bool) (len : Nat) (o : XaForm) (srcs : Ctx → List Src) (f : Ctx → Nat → Nat → Nat → FRes) (s : State) (c : Ctx)
    (hi : s.issuing = some c) (free : Plain c sm) (ops : checkVops (o.d c :: (srcs c).flatMap Src.vops) c.wb c.allot = none) :
    vectorOp sm len o srcs f s = .next
      (((s.putV c (elementWrites c (c.xaActive o.x) (o.d c) (f c)).1).updPart c.ref
        (fun p => p.orFp (elementWrites c (c.xaActive o.x) (o.d c) (f c)).2)).done c len) :=
  issue_next _ _ c s hi (by simp) rfl ops free

theorem vectorResult_of (i : Instr) (sm : Bool) (len : Nat) (o : XaForm) (srcs : Ctx → List Src) (f : Ctx → Nat → Nat → Nat → FRes)
    (he : ∀ s, exec i s = vectorOp sm len o srcs f s) : VectorResult i sm len o srcs f := by
  intro s c hi free ops
  have hw := issuing_wave hi
  have hp := issuing_part hi
  have hd : o.d c ∈ o.d c :: (srcs c).flatMap Src.vops := List.mem_cons_self
  let act := c.xaActive o.x
  let ew := elementWrites c act (o.d c) (f c)
  let v := c.wave.setVs c.part.depth ew.1
  let g := fun p : Part => p.orFp ew.2
  have h1 : (s.putV c ew.1).wave? c.ref.key = some v := wave?_updWave_some hw _
  have h2 : ((s.putV c ew.1).updPart c.ref g).wave? c.ref.key = some (v.updPart c.ref.base g) := wave?_updWave_some h1 _
  have h3 := waveIs_done (g := g) h2 id (by
    show v = { c.wave with vregs := v.vregs, dirty := v.dirty, parts := v.parts }
    have hf : ∀ (ws : List (Nat × Nat × W32)) (u : Wave), u.setVs c.part.depth ws
        = { u with vregs := (u.setVs c.part.depth ws).vregs, dirty := (u.setVs c.part.depth ws).dirty
                   parts := (u.setVs c.part.depth ws).parts } := by
      intro ws
      induction ws with
      | nil => intro u; rfl
      | cons e r ih =>
        intro u
        obtain ⟨l, n, x⟩ := e
        rw [Wave.setVs, ih]
        rfl
    exact hf _ _) (by simp [v]) hp (fun _ => rfl) len
  refine ⟨_, (v.updPart c.ref.base g).updPart c.ref.base (fun p => p.past c len s.dcc), g c.part, (he s).trans (vectorOp_next sm len o srcs f s c hi free ops), ?_, ?_, ?_, rfl, ?_⟩
  · exact ((onlyWave_putV c s _).trans (onlyWave_updPart c _ _)).trans (onlyWave_done c _ len)
  · have hdcc : ((s.putV c ew.1).updPart c.ref g).dcc = s.dcc := by simp
    rwa [hdcc] at h3
  · refine wrote_setVs (narrow_d o c) (fun e he k hk => check_fields ops hd he hk) _ ?_
    intro depth l n
    rw [← elementWrites_fst]
    rfl
  · intro b _
    show (c.part.regs.fpstat ||| ew.2).getLsbD b = _
    rw [BitVec.getLsbD_or, elementWrites_snd]

theorem foldl_pred (c : Ctx) (f : Nat → Bool × Flags) (ls : List Nat) (acc : Lanes × Flags) :
    (ls.foldl (fun acc l =>
      ((if (f l).1 then acc.1 ||| laneBit l else acc.1), (if c.wave.helper.getLsbD l then acc.2 else acc.2 ||| (f l).2))) acc)
    = (ls.foldl (fun m l => if (f l).1 then m ||| laneBit l else m) acc.1,
       ls.foldl (fun a l => if c.wave.helper.getLsbD l then a else a ||| (f l).2) acc.2) := by
  induction ls generalizing acc with
  | nil => rfl
  | cons l r ih => rw [List.foldl_cons, ih]; rfl

theorem getLsbD_laneBit (l k : Nat) (hk : k < 64) : (laneBit l).getLsbD k = decide (k = l) := by
  unfold laneBit
  rw [BitVec.getLsbD_shiftLeft]
  by_cases h : k < l
  · simp [h]; omega
  · by_cases hkl : k = l
    · subst hkl; simp [hk]
    · have : k - l ≠ 0 := by omega
      simp [hkl, this]

theorem foldl_lanes_getLsbD (f : Nat → Bool) (ls : List Nat) (m : Lanes) (k : Nat) (hk : k < 64) :
    (ls.foldl (fun m l => if f l then m ||| laneBit l else m) m).getLsbD k = (m.getLsbD k || (ls.contains k && f k)) := by
  induction ls generalizing m with
  | nil => simp
  | cons l r ih =>
    rw [List.foldl_cons, ih]
    by_cases h : k = l
    · subst h
      by_cases hf : f k = true
      · simp [hf, getLsbD_laneBit _ _ hk]
      · simp [hf]
    · by_cases hf : f l = true
      · simp [hf, getLsbD_laneBit _ _ hk, h]
      · simp [hf, h]

theorem foldl_flags_getLsbD (c : Ctx) (f : Nat → Flags) (ls : List Nat) (a : Flags) (b : Nat) :
    (ls.foldl (fun a l => if c.wave.helper.getLsbD l then a else a ||| f l) a).getLsbD b
      = (a.getLsbD b || ls.any (fun l => !c.wave.helper.getLsbD l && (f l).getLsbD b)) := by
  induction ls generalizing a with
  | nil => simp
  | cons l r ih =>
    rw [List.foldl_cons, ih]
    by_cases h : c.wave.helper.getLsbD l = true <;> simp [h, Bool.or_assoc]

theorem Wave.p_setP (w : Wave) (n : Nat) (lanes v : Lanes) (m l : Nat) (hl : l < 64) :
    ((w.setP n lanes v).p m).getLsbD l =
      if m = n ∧ m ≠ 0 ∧ lanes.getLsbD l = true then v.getLsbD l else (w.p m).getLsbD l := by
  unfold Wave.setP
  by_cases hn : n = 0
  · subst hn
    have : ¬ (m = 0 ∧ m ≠ 0 ∧ lanes.getLsbD l = true) := by tauto
    simp only [if_true, if_neg this]
  · simp only [if_neg hn]
    by_cases hm : m = n
    · subst hm
      simp only [Wave.p, hn, if_false, getT_setT_self, BitVec.getLsbD_or, BitVec.getLsbD_and, BitVec.getLsbD_not, hl, decide_true,
        Bool.true_and, ne_eq, not_false_eq_true, true_and]
      by_cases h : lanes.getLsbD l = true <;> simp [h]
    · have : ¬ (m = n ∧ m ≠ 0 ∧ lanes.getLsbD l = true) := by tauto
      simp only [if_neg this]
      by_cases hm0 : m = 0
      · simp [Wave.p, hm0]
      · simp [Wave.p, hm0, getT_setT_of_ne _ _ _ hm]

theorem setP_parts (w : Wave) (n : Nat) (lanes v : Lanes) : (w.setP n lanes v).parts = w.parts := by simp

theorem compareResult_of (i : Instr) (sm : Bool) (len : Nat) (o : XaForm) (srcs : Ctx → List Src) (f : Ctx → Nat → Bool × Flags)
    (he : ∀ s, exec i s = predicateOp sm len o srcs f s) : CompareResult i sm len (o.r.d.toNat % 8) o.x srcs f := by
  intro s c hi free ops
  have hw := issuing_wave hi
  have hp := issuing_part hi
  let act := c.xaActive o.x
  let t := (lanesOf act).foldl (fun m l => if (f c l).1 then m ||| laneBit l else m) (0 : Lanes)
  let fl := (lanesOf act).foldl (fun a l => if c.wave.helper.getLsbD l then a else a ||| (f c l).2) (0 : Flags)
  let v := c.wave.setP (o.r.d.toNat % 8) act t
  let g := fun p : Part => p.orFp fl
  have hx : predicateOp sm len o srcs f s = .next
      (((s.updWave c.ref.key (fun w => w.setP (o.r.d.toNat % 8) act t)).updPart c.ref g).done c len) := by
    unfold predicateOp
    refine (issue_next _ _ c s hi (by simp) rfl ?_ free).trans ?_
    · exact ops
    simp only [foldl_pred]
    rfl
  have h1 : (s.updWave c.ref.key (fun w => w.setP (o.r.d.toNat % 8) act t)).wave? c.ref.key = some v := wave?_updWave_some hw _
  have h2 : ((s.updWave c.ref.key (fun w => w.setP (o.r.d.toNat % 8) act t)).updPart c.ref g).wave? c.ref.key
      = some (v.updPart c.ref.base g) := wave?_updWave_some h1 _
  have h3 := waveIs_done (g := g) h2 (fun u => { u with preds := v.preds }) (by
    show v = { c.wave with preds := v.preds, vregs := v.vregs, dirty := v.dirty, parts := v.parts }
    have hset : ∀ (w : Wave) n a b, w.setP n a b = { w with preds := (w.setP n a b).preds } := by
      intro w n a b; unfold Wave.setP; split <;> rfl
    show c.wave.setP _ _ _ = _
    conv => lhs; rw [hset]
    simp [v]) (by simp [v]) hp (fun _ => rfl) len
  refine ⟨_, (v.updPart c.ref.base g).updPart c.ref.base (fun p => p.past c len s.dcc), g c.part, (he s).trans hx, ?_, ?_, ?_, ?_, rfl, ?_⟩
  · exact ((onlyWave_updWave c s _).trans (onlyWave_updPart c _ _)).trans (onlyWave_done c _ len)
  · exact ⟨by simp [v], by simp [v]⟩
  · have hdcc : ((s.updWave c.ref.key (fun w => w.setP (o.r.d.toNat % 8) act t)).updPart c.ref g).dcc = s.dcc := by simp
    rwa [hdcc] at h3
  · intro m l hl
    show ((v.updPart c.ref.base g).updPart c.ref.base _ |>.p m).getLsbD l = _
    have hpp : ∀ (u : Wave) b (k : Part → Part), (u.updPart b k).p m = u.p m := fun _ _ _ => rfl
    rw [hpp, hpp, Wave.p_setP _ _ _ _ _ _ hl]
    by_cases hc : m = o.r.d.toNat % 8 ∧ m ≠ 0 ∧ act.getLsbD l = true
    · rw [if_pos hc, if_pos hc, foldl_lanes_getLsbD _ _ _ _ hl]
      have : l ∈ lanesOf act := mem_lanesOf.mpr ⟨hl, hc.2.2⟩
      simp [this]
    · rw [if_neg hc, if_neg hc]
  · intro b _
    show (c.part.regs.fpstat ||| fl).getLsbD b = _
    rw [BitVec.getLsbD_or, foldl_flags_getLsbD]
    simp [act]

end Sys2Proof.Machine
end

