-- ==== Sys2Proof/Laws/Walks.lean ====
section
/-! SUPPORT. A walk depends on the page of its address alone, and so a read of the scheduler within one page is one read of memory. -/

namespace Sys2Proof.Laws
open Sys2Proof Sys2Proof.Machine

theorem bitsOf_page {va va' : Nat} (h : va / 2 ^ 16 = va' / 2 ^ 16) (k n : Nat) : bitsOf va (16 + k) n = bitsOf va' (16 + k) n := by
  simp only [bitsOf, Nat.pow_add, ← Nat.div_div_eq_div_mul, h]

theorem walkFrom_page (mem : List (Nat × Byte)) {va va' : Nat} (h : va / 2 ^ 16 = va' / 2 ^ 16) :
    ∀ lvl table, walkFrom mem va lvl table = walkFrom mem va' lvl table
  | 0, table => by simp only [walkFrom, bitsOf_page h 0]
  | lvl + 1, table => by
    simp only [walkFrom, bitsOf_page h 5, bitsOf_page h 10, bitsOf_page h 26, walkFrom_page mem h lvl]

/-- A walk depends on the page of its address alone (08 R182). -/
theorem walk_page (s : State) (die : Nat) (asid : BitVec 16) {va va' : Nat} (h : va / 2 ^ 16 = va' / 2 ^ 16) : s.walk die asid va = s.walk die asid va' := by
  simp only [State.walk, walkFrom_page s.mem h]

theorem schedBytes_succ (s : State) (asid : BitVec 16) (need : Need) (va n : Nat) :
    s.schedBytes asid need va (n + 1) = if 2 ^ 57 ≤ va then none else
      match s.schedBytes asid need (va + 1) n, s.quietRead 0 asid need va 1 with
      | some bs, some b => some (b ++ bs)
      | _, _ => none := by
  simp only [State.schedBytes, List.range_succ_eq_map, List.foldr_cons, List.foldr_map, Nat.add_zero, Nat.succ_eq_add_one, Nat.add_assoc, Nat.add_comm 1] <;> rfl

theorem quietRead_one (s : State) (asid : BitVec 16) (need : Need) (pte p va : Nat) (hw : s.walk 0 asid va = .leaf pte p)
    (hf : s.leafFault need pte (paOf pte p va) = none) : s.quietRead 0 asid need va 1 = some [readByte s.mem (paOf pte p va)] := by
  simp only [State.quietRead, show dieOf 0 = 0 from rfl, hw, hf, Option.isNone_none, if_true, readBytes]

/-- The scheduler reads the bytes of a page that translates. -/
theorem schedBytes_page (s : State) (asid : BitVec 16) (need : Need) (pte p : Nat) (n : Nat) : ∀ (va : Nat), s.walk 0 asid va = .leaf pte p →
    (∀ i < n, va + i < 2 ^ 57 ∧ (va + i) / 2 ^ 16 = va / 2 ^ 16 ∧ s.leafFault need pte (paOf pte p (va + i)) = none ∧ paOf pte p (va + i) = paOf pte p va + i) →
    s.schedBytes asid need va n = some (readBytes s.mem (paOf pte p va) n) := by
  induction n with
  | zero => intro va _ _; simp only [State.schedBytes, List.range_zero, List.foldr_nil, readBytes]
  | succ n ih =>
    intro va hw h
    have h0 := h 0 (Nat.succ_pos n)
    rw [schedBytes_succ, if_neg (by rw [Nat.add_zero] at h0; exact Nat.not_le.mpr h0.1)]
    rw [quietRead_one s asid need pte p va hw h0.2.2.1]
    cases n with
    | zero => simp only [State.schedBytes, List.range_zero, List.foldr_nil, readBytes, List.append_nil]
    | succ m =>
      have h1 := h 1 (Nat.succ_lt_succ (Nat.succ_pos m))
      rw [ih (va + 1) (by rw [walk_page s 0 asid h1.2.1, hw]) (fun i hi => by
        have hi1 := h (i + 1) (Nat.succ_lt_succ hi)
        rw [show va + 1 + i = va + (i + 1) by rw [Nat.add_assoc, Nat.add_comm 1]]
        exact ⟨hi1.1, by rw [hi1.2.1, h1.2.1], hi1.2.2.1, by rw [hi1.2.2.2, h1.2.2.2, Nat.add_assoc, Nat.add_comm 1]⟩), h1.2.2.2]
      simp only [readBytes, List.cons_append, List.nil_append]

end Sys2Proof.Laws
end

