-- ==== Sys2Proof/Tests/Slice0.lean ====
section
/-! SUPPORT. The model's own tests: ill-formed terms that the checks refuse, words of the spec's encodings, worked examples of the spec, and a
witness for the hypotheses of every statement. -/

namespace Sys2Proof.Tests

open Sys2Proof Sys2Proof.Machine

/-! ### Well-formedness -/

def r0 : RWord := { s := false, d := 0, a := 0, b := 0, k := false }
def u0 : UWord := { s := false, d := 0, a := 0, b := 0, k := false, z := 0 }
def m0 : MWord := { s := false, d := 0, a := 0, bu := 0, w := false, nr := false }
def x0 : XaWord := xaDefault 0
def t0 : XtWord :=
  { tile := 0, pm1 := 0, aty := 0, bty := 0, mw := 0, z := false, co := false, ak := false, bk := false, z6 := 0, sub := 0 }
def j0 : JWord := { s := false, off := 0 }
def w0 : PWord := { s := false, pred := 0, neg := false, off := 0 }

/-- Every term is refused at the word. -/
def refusedAt (n : Nat) (is : List Instr) : Bool := is.all (fun i => badWord i == some n && !wellFormed i)

/-- Zero fields and operand limits of class R (R99, R113, R121, R129). -/
theorem test_wf_class_r : refusedAt 0
    [.nop { r0 with d := 1 }, .nopXi { r0 with k := true } 0, .conf { r0 with b := 64, k := true }, .fuse { r0 with b := 6, k := true }, .exit { r0 with a := 1 },
     .gcall { r0 with b := 1 } 0, .gret { r0 with d := 1 }, .trap { r0 with b := 5 }, .winb { r0 with b := 9, k := true }, .iabs { r0 with k := true },
     .movi { r0 with k := false }, .moviXi { r0 with b := 1 } 0, .icmp { r0 with d := 8 }, .vote { r0 with a := 16 }, .rdlane { r0 with d := 64, k := true },
     .waitc { r0 with d := 4, k := true }, .bar { r0 with b := 16, k := true }, .rbar { r0 with b := 5, k := true }, .regrel { r0 with a := 1 } 8,
     .chsend { r0 with b := 16, k := true }, .ipa { r0 with b := 32, k := true }, .pout { r0 with b := 8, k := true }, .mvtx { r0 with k := true },
     .mprim { r0 with b := 1 }, .rtcom { r0 with b := 2, k := true }, .qpermExt { r0 with b := 4, k := true } { x0 with sub := 3 }] = true := by decide

/-- Classes U and M (R98, R101, R131, R133). -/
theorem test_wf_classes_u_m : refusedAt 0
    [.jmp { u0 with d := 1 }, .sleep { u0 with k := true, a := 1 }, .sadd { u0 with z := 1 }, .smov { u0 with b := 1 }, .smovi { u0 with a := 1 } 0,
     .sld { u0 with b := 1 }, .qenq { u0 with d := 1 }, .qdeq { u0 with b := 1 }, .fork { u0 with a := 4 }, .srget { u0 with a := 4 }, .srget { u0 with b := 0x15 },
     .srset { u0 with b := 0x0B }, .tlbi { u0 with d := 3 }, .hsig u0, .ld { m0 with a := 0x7F, w := true }, .ld { m0 with nr := true },
     .ldl { m0 with w := true }, .fence { m0 with bu := 1 } { xmDefault with ord := 1 }, .cctl { m0 with d := 1 }, .pfetch { m0 with nr := true },
     .tex { m0 with bu := 63 }, .rtrep { m0 with w := true }, .tcopy { u0 with b := 61 } t0, .mma { u0 with b := 63 } t0, .mmz { u0 with a := 1 } t0,
     .accrd { r0 with a := 1, k := true } { t0 with aty := 4 }] = true := by decide

/-- Fields of the extension words (R102-R108, R132). -/
theorem test_wf_extensions : refusedAt 1
    [.iaddExt r0 { x0 with ty := 3 }, .iaddExt r0 { x0 with ty := 1, rm := 1 }, .iaddExt r0 { x0 with ty := 1, sub := 1 }, .imulhExt r0 { x0 with ty := 1, sat := true },
     .andExt r0 { x0 with au := true }, .iaddExt r0 { x0 with ty := 1, au := true, xa := true }, .iaddExt { r0 with k := true } { x0 with ty := 1, xb := true },
     .iaddExt r0 { x0 with ty := 1, c := 1 }, .icmpExt r0 { x0 with ty := 1, bh := 1 }, .icmpExt r0 { x0 with ty := 1, sub := 6 }, .faddExt r0 { x0 with ty := 3, rm := 4 },
     .sel r0 { x0 with c := 16 }, .ffma r0 { x0 with ty := 3, cu := true, c := 64 }, .scmp u0 { x0 with ty := 7, pr := 1 }, .ssel u0 x0,
     .shflExt r0 { x0 with bh := 1, bw := 2 }, .reduExt r0 { x0 with ty := 3, sub := 3 }, .ddxExt r0 { x0 with ty := 3, bw := 1 }, .wrlane { r0 with k := true } x0,
     .unpackExt r0 { x0 with sub := 2 }, .cvtq r0 { x0 with ty := 3 }, .barExt { r0 with k := true } { x0 with sat := true },
     .ldExt m0 { xmDefault with sz := 5 }, .ldExt m0 { xmDefault with ord := 2 }, .stExt m0 { xmDefault with ord := 1 }, .ldExt m0 { xmDefault with scope := 7 },
     .ldlExt m0 { xmDefault with scope := 3 }, .ldlExt m0 { xmDefault with cp := 1 }, .atomExt m0 { xmDefault with sz := 1 }, .atomExt m0 { xmDefault with sz := 2, sub := 14 },
     .fence m0 { xmDefault with ord := 1, off := 4 }, .sldExt u0 { xmDefault with sz := 4 }, .pfetchExt m0 { xmDefault with scope := 1 },
     .mma u0 { t0 with aty := 2, bty := 3 }, .mma u0 { t0 with aty := 4, bty := 4, pm1 := 1 }, .mma u0 { t0 with z6 := 1 }, .tcopy u0 { t0 with sub := 4 },
     .tkacq u0 { t0 with mw := 1 }, .accrd { r0 with k := true } t0, .gcall r0 65536, .ipaExt { r0 with k := true } { x0 with ty := 4 }] = true := by decide

/-! ### Words -/

/-- One word of every family, written out from R98-R107 and the opcode tables of R121-R131: bytes in little-endian order (R95). -/
theorem test_words :
    decodeBytes [0xFF, 0xFF, 0x7F, 0x00] = .instr (.bra { s := false, off := 0x3FFFFF })
    ∧ decodeBytes [0xF8, 0x13, 0x03, 0x08] = .instr (.sadd { s := false, d := 3, a := 4, b := 63, k := true, z := 0 })
    ∧ decodeBytes [0x03, 0x20, 0x18, 0x50, 0x00, 0xC0, 0x20, 0x00]
      = .instr (.iaddExt { s := false, d := 48, a := 32, b := 1, k := true } { xaDefault 1 with bh := 1, bw := 2 })
    ∧ decodeBytes [0x18, 0x0B, 0xC5, 0x58, 0x00, 0x00, 0x60, 0x1A]
      = .instr (.ffma { s := false, d := 10, a := 11, b := 12, k := false } { xaDefault 3 with c := 13 })
    ∧ decodeBytes [0x00, 0x15, 0x0A, 0x60, 0x01, 0x00, 0x60, 0x00]
      = .instr (.cvt { s := false, d := 20, a := 21, b := 0, k := false } { xaDefault 3 with sub := 1 })
    ∧ decodeBytes [0x03, 0x11, 0x08, 0x24] = .instr (.shfl { s := false, d := 16, a := 17, b := 1, k := true })
    ∧ decodeBytes [0x28, 0x7F, 0x09, 0x68, 0x00, 0x34, 0xF1, 0xFF]
      = .instr (.ldExt { s := false, d := 18, a := 0x7F, bu := 10, w := false, nr := false } { xmDefault with off := -4, sz := 2, ord := 1, scope := 5 })
    ∧ decodeBytes [0x60, 0x10, 0x40, 0x70, 0x00, 0x20, 0x48, 0x23]
      = .instr (.mma { u0 with a := 4, b := 6 } { t0 with tile := 2, pm1 := 3, aty := 2, bty := 2, z := true })
    ∧ decodeBytes [0x0B, 0x00, 0x00, 0xB4] = .instr (.bara { r0 with s := true, b := 5, k := true })
    ∧ decodeBytes [0x30, 0x14, 0x0C, 0x38] = .instr (.tex { m0 with d := 24, a := 20, bu := 12 })
    ∧ decodeBytes [0x00, 0x02, 0x07, 0x3C] = .instr (.srget { u0 with d := 7, b := 32 }) := by decide

/-- A table row's bits are given from the least significant one of word 0, an absent extension word as zeros. -/
theorem test_table_words :
    decodeTableWord 32 0x00000000 = some (.nop r0) ∧ decodeTableWord 64 0x40000000 = some (.nopXi r0 0) ∧ decodeTableWord 32 0x05C00000 = none := by decide

/-! ### A small state: one wave on core 0 -/

def ref0 : PartRef := { core := 0, slot := 0, base := 0 }

/-- A part at 0x10000 of a wave of 64 lanes whose turn it is. -/
def part0 : Part := newPart 64 0x10000 (admissionRegs placedLaunch placedKernel 0 []) 0 0
def wave0 : Wave := placedWave 0

def mk (p : Part) (w : Wave) (g : Group) (l : Launch) : State :=
  { State.reset with waves := [(0, { w with parts := [p] })], groups := [(0, g)], launches := [(0, l)], cur := some ref0, nextId := 100 }
def mkCtx (p : Part) (w : Wave) (g : Group) (l : Launch) : Ctx := { ref := ref0, part := p, wave := { w with parts := [p] }, group := g, launch := l }

theorem mk_issuing (p : Part) (w : Wave) (g : Group) (l : Launch) (hp : p.base = 0) (hg : w.group = 0) (hl : w.launch = 0) :
    (mk p w g l).issuing = some (mkCtx p w g l) := by
  simp [State.issuing, State.ctx?, State.wave?, State.group?, State.launch?, mk, mkCtx, lookT, PartRef.key, ref0, Wave.part?, hp, hg, hl]

def s0 : State := mk part0 wave0 placedGroup placedLaunch
def c0 : Ctx := mkCtx part0 wave0 placedGroup placedLaunch
/-- The same with another part. -/
def sp (p : Part) : State := mk p wave0 placedGroup placedLaunch
def cp (p : Part) : Ctx := mkCtx p wave0 placedGroup placedLaunch

theorem issuing0 : s0.issuing = some c0 := mk_issuing _ _ _ _ rfl rfl rfl
theorem issuing_sp (p : Part) (h : p.base = 0) : (sp p).issuing = some (cp p) := mk_issuing _ _ _ _ h rfl rfl

/-- A part with nothing outstanding and one path is free to issue. -/
theorem free_of (c : Ctx) (sm mem : Bool) (cls : Option Cls) (eff : Option Nat) (h1 : c.part.ldOps = []) (h2 : c.part.stOps = []) (h3 : c.part.cpOps = [])
    (h4 : c.part.mxOps = []) (h5 : c.part.held = []) (h6 : c.part.acquiring = []) (h7 : c.part.waiting = 0) (h8 : ∀ w, eff = some w → w ≤ c.part.width) :
    Free c sm mem cls eff :=
  ⟨fun _ => ⟨h1, by simp [Part.heldOf, oldestOf, h5]⟩, fun _ => h6,
    fun k _ => by cases k <;> simp [Part.count, Part.opsOf, h1, h2, h3, h4], fun w hw => ⟨h7, h8 w hw⟩⟩

/-- A release of a part whose core has nothing to send back and nothing under way. -/
theorem fullReady (s : State) (c : Ctx) (ord scope : Nat) (h1 : s.drained c.ref.core c.part = true) (h2 : c.part.relAt = none) (h3 : ∀ b ∈ s.backs, b.core ≠ c.ref.core)
    (h4 : (s.core c.ref.core).l1 = []) (h5 : c.part.heldOf [.st] = none) : FullReleaseReady s c ord scope :=
  fun _ => ⟨⟨h1, by unfold BacksGone; rw [h2]; exact ⟨h3, fun _ => by simp [h4]⟩⟩, h5⟩

theorem free0 (sm mem : Bool) (cls : Option Cls) : Free c0 sm mem cls none := free_of _ _ _ _ _ rfl rfl rfl rfl rfl rfl rfl (by simp)
theorem free0w (sm mem : Bool) (cls : Option Cls) (w : Nat) (h : w ≤ 64) : Free c0 sm mem cls (some w) :=
  free_of _ _ _ _ _ rfl rfl rfl rfl rfl rfl rfl (by intro v hv; cases hv; exact h)
theorem ready0 : HandlerReady c0 := ⟨rfl, .inl rfl⟩


/-! ### Witnesses: arithmetic -/

def rv : RWord := { s := true, d := 48, a := 32, b := 40, k := false }
def xv : XaWord := { xaDefault 1 with c := 64, bh := 1, bw := 2 }

/-- UniformGroup: an S marker with nothing outstanding; the last comparison code; the last uniform register. -/
theorem witness_uniform : s0.issuing = some c0 ∧ Plain c0 true
    ∧ ((8 : BitVec 4) = 7 ∨ (8 : BitVec 4) = 8) ∧ (5 : BitVec 4).toNat ≤ 5 ∧ (63 : BitVec 7).toNat < 64 :=
  ⟨issuing0, free0 _ _ _, by decide⟩

/-- IntegerGroup, BitGroup, FloatGroup, ConvertGroup, Reductions: blocks of registers below ALLOT, and the short forms' single ones. -/
theorem witness_vector : s0.issuing = some c0 ∧ Plain c0 rv.s
    ∧ OperandsOk c0 ((intForm rv xv).d c0 :: [(intForm rv xv).a c0, (intForm rv xv).b c0, (intForm rv xv).c c0].flatMap Src.vops)
    ∧ OperandsOk c0 ((intForm rv (xaDefault 6)).d c0 :: [(intForm rv (xaDefault 6)).a c0, (intForm rv (xaDefault 6)).b c0].flatMap Src.vops)
    ∧ OperandsOk c0 [] :=
  ⟨issuing0, free0 _ _ _, show checkVops _ _ _ = none by decide, show checkVops _ _ _ = none by decide, show checkVops _ _ _ = none by decide⟩

/-- ClassMask: a block of binary64 operands. -/
theorem witness_class : s0.issuing = some c0 ∧ Plain c0 rv.s ∧ ((xaDefault 6).ty = 3 ∨ (xaDefault 6).ty = 4 ∨ (xaDefault 6).ty = 5 ∨ (xaDefault 6).ty = 6)
    ∧ OperandsOk c0 (({ r := rv, x := xaDefault 6, dty := 0, sty := 6 } : XaForm).d c0
        :: [({ r := rv, x := xaDefault 6, dty := 0, sty := 6 } : XaForm).a c0].flatMap Src.vops) :=
  ⟨issuing0, free0 _ _ _, by decide, show checkVops _ _ _ = none by decide⟩

/-- BitGroup's functions at the whole width, and AMAX's fold with a NaN. -/
theorem witness_bit_functions : 0 < 32 ∧ 0xFFFFFFFF < 2 ^ 32 ∧ 31 < 32 ∧ ∀ v, some v ∈ [none, some 0x7F800000] → v < 2 ^ 32 := by
  refine ⟨by decide, by decide, by decide, ?_⟩
  intro v hv; simp at hv; omega

/-- CompareGroup: operands of a 64-bit compare. -/
theorem witness_compare : s0.issuing = some c0 ∧ Plain c0 rv.s
    ∧ OperandsOk c0 ([({ intForm rv (xaDefault 8) with block := false } : XaForm).a c0, ({ intForm rv (xaDefault 8) with block := false } : XaForm).b c0].flatMap Src.vops) :=
  ⟨issuing0, free0 _ _ _, show checkVops _ _ _ = none by decide⟩

/-- LaneMoves, Reductions: at the full width of a part. -/
theorem witness_cross : s0.issuing = some c0
    ∧ CrossReady rv.s (xaDefault 0) (fun c => (crossForm rv (xaDefault 0)).d c
        :: ([(crossForm rv (xaDefault 0)).a c, (crossForm rv (xaDefault 0)).bAs c 2].flatMap Src.vops)) s0 c0
    ∧ InGroup c0 (laneRange 0 64) :=
  ⟨issuing0, ⟨free0w _ _ _ _ (by decide), show checkVops _ _ _ = none by decide⟩, by simp [InGroup, c0, mkCtx, wave0, placedWave, part0, newPart]⟩

/-! ### Witnesses: control -/

def calleeFrame : GateFrame :=
  { uid := 1, ret := 0x10008, entry := 0x10000, gateIx := 0, nres := 1, unwind := false, allowSplit := true, results := [48], emask := laneRange 0 64, base := 0, width := 64
    regs := part0.regs, preds := [], fails := [], held := [], callot := 16, scrBase := 16, cscr := 1 }
def gentryPart : Part := { part0 with gentryDue := true, frames := [calleeFrame] }
/-- A part of half its wave's width, whose buddy is running. -/
def narrowPart : Part := { part0 with width := 32, cur := laneRange 0 32 }
def narrowBuddy : Part := { narrowPart with base := 32, cur := laneRange 32 32 }
def narrowWave : Wave := { wave0 with parts := [narrowPart, narrowBuddy] }
def narrowState : State := { s0 with waves := [(0, narrowWave)] }
def narrowCtx : Ctx := { c0 with part := narrowPart, wave := narrowWave }
def frameOf0 : TrapFrame := { resume := 0x10000, wb := 0, ix0 := 0, ix1 := 0, aside := 0, wrote := true, watch := false, entered := 0 }
def handlerPart : Part := { part0 with tcode := 0x0F, tframe := some frameOf0, tword := 0x10004 }
def loadingPart : Part := { part0 with ldOps := [7] }

/-- PartControl: a part at its nominal width, one of half of it, one that owes a `gentry`, one in its handler, one with a load outstanding, one whose wave a save waits for. -/
theorem witness_part_control :
    (s0.issuing = some c0 ∧ Plain c0 true ∧ c0.part.waiting = 0 ∧ c0.part.width = c0.wave.width ∧ c0.wave.pend = false
      ∧ c0.part.copyFailure 0 = none ∧ s0.ticketOut 0 c0.part 0 = false ∧ ∀ r ∈ phintRanges (c0.sreg 0), r.2 ≠ 0 → (r.1 + r.2) * 256 ≤ c0.scratchArea.2)
    ∧ (narrowState.issuing = some narrowCtx ∧ Plain narrowCtx true ∧ narrowCtx.part.waiting = 0 ∧ narrowCtx.part.tcode = 0
      ∧ narrowCtx.part.width ≠ narrowCtx.wave.width ∧ narrowCtx.wave.confHopeless narrowCtx.part = false
      ∧ ∃ q ∈ narrowCtx.wave.parts, q.base ≠ narrowCtx.ref.base ∧ inBlock (0 + 32) 32 q.base = true ∧ ∀ t d, q.park ≠ .conf t d)
    ∧ (mkCtx part0 { wave0 with pend := true } placedGroup placedLaunch).wave.pend = true
    ∧ Free c0 true false none (some (c0.effWidth 0))
    ∧ ((sp gentryPart).issuing = some (cp gentryPart) ∧ Plain (cp gentryPart) true ∧ (cp gentryPart).part.atEntry = true)
    ∧ ((sp handlerPart).issuing = some (cp handlerPart) ∧ Plain (cp handlerPart) true ∧ (cp handlerPart).part.tcode ≠ 0
      ∧ (cp handlerPart).part.tframe = some frameOf0 ∧ (cp handlerPart).part.waiting = 0 ∧ (cp handlerPart).part.tword.toNat % 4 = 0)
    ∧ ((sp loadingPart).issuing = some (cp loadingPart) ∧ (cp loadingPart).part.ldOps ≠ []
      ∧ OperandsOk (cp loadingPart) ((intForm rv xv).d c0 :: [(intForm rv xv).a c0, (intForm rv xv).b c0].flatMap Src.vops)) := by
  refine ⟨⟨issuing0, free0 _ _ _, rfl, rfl, rfl, by decide, by decide, by decide⟩,
    ⟨rfl, free_of _ _ _ _ _ rfl rfl rfl rfl rfl rfl rfl (by simp), rfl, rfl, by decide, by decide, narrowBuddy, by decide, by decide, by decide, ?_⟩, rfl,
    free0w _ _ _ _ (by decide), ⟨issuing_sp _ rfl, ?_, by decide⟩,
    ⟨issuing_sp _ rfl, ?_, by decide, rfl, rfl, by decide⟩, issuing_sp _ rfl, by decide, show checkVops _ _ _ = none by decide⟩
  · intro t d h; cases h
  · exact free_of _ _ _ _ _ rfl rfl rfl rfl rfl rfl rfl (by simp)
  · exact free_of _ _ _ _ _ rfl rfl rfl rfl rfl rfl rfl (by simp)

def targetPart : Part := { part0 with regs := { part0.regs with sregs := [(4, 0x10100)] } }
def oddPart : Part := { part0 with regs := { part0.regs with sregs := [(4, 0x10101)], privseg := false } }
def highPart : Part := { part0 with regs := { part0.regs with sregs := [(4, 0x200000000000000)], privseg := false } }
theorem free_sp (p : Part) (sm mem : Bool) (cls : Option Cls) (h1 : p.ldOps = []) (h2 : p.stOps = []) (h3 : p.cpOps = [])
    (h4 : p.mxOps = []) (h5 : p.held = []) (h6 : p.acquiring = []) (h7 : p.waiting = 0) : Free (cp p) sm mem cls none :=
  free_of _ _ _ _ _ h1 h2 h3 h4 h5 h6 h7 (by simp)

/-- Branches, BranchTarget: a branch to itself, taken by every lane; a register jump. -/
theorem witness_branches : s0.issuing = some c0 ∧ c0.part.waiting = 0 ∧ Plain c0 false
    ∧ c0.emask &&& c0.wave.pred 0 false ≠ 0 ∧ c0.emask &&& c0.wave.pred 0 false = c0.emask ∧ c0.emask &&& c0.wave.pred 0 true = 0
    ∧ (sp targetPart).issuing = some (cp targetPart) ∧ ((cp targetPart).sreg 4).toNat < 2 ^ 57 ∧ ((cp targetPart).sreg 4).toNat % 4 = 0 :=
  ⟨issuing0, rfl, free0 _ _ _, by decide, by decide, by decide, issuing_sp _ rfl, by decide, by decide⟩

def halfWave : Wave := { wave0 with preds := [(1, 0x0F)] }
/-- Divergence: four lanes of 64 are taken. -/
theorem witness_divergence :
    let c := mkCtx part0 halfWave placedGroup placedLaunch
    (mk part0 halfWave placedGroup placedLaunch).issuing = some c ∧ Plain c false ∧ c.emask &&& c.wave.pred 1 false ≠ 0 ∧ c.emask &&& c.wave.pred 1 false ≠ c.emask
    ∧ c.part.width ∈ [4, 8, 16, 32, 64] ∧ c.part.base + c.part.width ≤ 64
    ∧ (∀ l, c.part.cur.getLsbD l = true → c.part.base ≤ l ∧ l < c.part.base + c.part.width ∧ c.part.waiting.getLsbD l = false)
    ∧ ∀ p ∈ c.wave.parts, p.base = c.ref.base → p = c.part := by
  refine ⟨mk_issuing _ _ _ _ rfl rfl rfl, free_of _ _ _ _ _ rfl rfl rfl rfl rfl rfl rfl (by simp), by decide, by decide, by decide, by decide, ?_, ?_⟩
  · intro l h
    refine ⟨Nat.zero_le _, ?_, by simp [mkCtx, part0, newPart]⟩
    exact BitVec.lt_of_getLsbD h
  · intro p hp _; simpa [mkCtx] using hp

/-- Traps: each cause, with a part outside a handler. -/
theorem witness_traps : HandlerReady c0 ∧ Plain c0 true ∧ (s0.die (dieOf c0.ref.core)).brkHalt = false
    ∧ (HandlerReady (cp oddPart) ∧ (cp oddPart).part.regs.privseg = false ∧ privIndex 0x20 = true ∧ ((cp oddPart).sreg 4).toNat < 2 ^ 57 ∧ ((cp oddPart).sreg 4).toNat % 4 ≠ 0)
    ∧ 2 ^ 57 ≤ ((cp highPart).sreg 4).toNat ∧ c0.part.atEntry = false ∧ c0.part.frames = []
    ∧ checkVops ((intForm { rv with d := 49 } (xaDefault 7)).d c0 :: [(intForm rv (xaDefault 7)).a c0].flatMap Src.vops) c0.wb c0.allot = some (0x01, 49)
    ∧ checkVops ((intForm rv (xaDefault 1)).d c0 :: [(intForm rv (xaDefault 1)).a c0].flatMap Src.vops) c0.wb 48 = some (0x03, 48) :=
  ⟨ready0, free0 _ _ _, by decide, ⟨⟨rfl, .inl rfl⟩, rfl, by decide⟩, by decide, rfl, rfl, by decide, by decide⟩

/-- Exits: the only part of a wave, and one of two. -/
theorem witness_exits : s0.issuing = some c0 ∧ Plain c0 true ∧ c0.part.frames = [] ∧ s0.quiet c0 = true ∧ c0.part.fails = [] ∧ c0.part.held = [] ∧ c0.part.otherLanes = 0
    ∧ (∀ p ∈ c0.wave.parts, p.base = c0.ref.base) ∧ c0.part.heldOf [.ld] = none
    ∧ ∃ p ∈ ({ wave0 with parts := [{ part0 with width := 32 }, { part0 with base := 32, width := 32 }] } : Wave).parts, p.base ≠ ref0.base :=
  ⟨issuing0, free0 _ _ _, rfl, by decide, rfl, rfl, rfl, by decide, by decide, by decide⟩

/-- The page tables of a placed instruction, byte by byte. -/
def tables : List Host.Cell :=
  [(8, 0x01), (10, 0x04), (0x40000, 0x01), (0x40002, 0x08), (0x80000, 0x01), (0x80002, 0x10), (0x100000, 0x01), (0x100001, 0x01), (0x100002, 0x10),
   (0x100108, 0x1F), (0x10010A, 0x11)]
theorem tables_placed : placedTables [] 0 [] = tables := by decide
def mem0 (p : Part) : State := { sp p with mem := tables }
theorem issuing_mem (p : Part) (h : p.base = 0) : (mem0 p).issuing = some (cp p) := by
  rw [show (mem0 p).issuing = (sp p).issuing from rfl]; exact issuing_sp p h

/-! ### Witnesses: gate calls and claims -/

/-- A gate entry for domain 0: ENTRY 0x10000, two arguments, one result, 16 registers, 8 KiB of scratch. -/
def gateBytes : List Byte := bytesOfNat 8 0x10000 ++ [1, 0, 0, 1, 2, 1, 2, 1, 0] ++ bytesOfNat 7 0 ++ bytesOfNat 8 1
def domainBytes : List Byte := bytesOfNat 8 0x10040 ++ bytesOfNat 8 0 ++ [1] ++ bytesOfNat 15 0
def callerPart : Part := { part0 with regs := { part0.regs with gtable := 0x20000, gtlogn := 1 } }
def gateCore : Core := { Core.reset with gateCache := [
  { domain := false, asid := 1, addr := 0x20000, bytes := gateBytes, ready := 0 }, { domain := true, asid := 0, addr := 0, bytes := domainBytes, ready := 0 },
  { domain := false, asid := 1, addr := 0x10000, bytes := [0, 0, 0x40, 0x03], ready := 0 }] }
def gateState : State := { sp callerPart with cores := [(0, gateCore)], mem := placedTables [] 0 [0, 0, 0x40, 0x03] }
def coldPart : Part := { part0 with regs := { part0.regs with gtable := 0x10100, gtlogn := 1 } }

/-- GateCallRuns: a gate in the core's cache, called with v48 up as arguments and results, and one that the cache lacks. -/
theorem witness_gcall : gateState.issuing = some (cp callerPart) ∧ gateState.gateRead (cp callerPart) 0 = none ∧ gateState.gateFault (cp callerPart) 0 = none
    ∧ gateState.gateEntry (cp callerPart) 0 = some gateBytes ∧ OperandsOk (cp callerPart) (spanVop 48 (fieldAt gateBytes 13 1) ++ spanVop 32 (fieldAt gateBytes 12 1))
    ∧ Free (cp callerPart) true false none (some ((cp callerPart).effWidth (fieldAt gateBytes 16 1)))
    ∧ gateState.quiet (cp callerPart) = true ∧ ((mem0 coldPart).gateRead (cp coldPart) 0).isSome = true :=
  ⟨by rfl, by decide, by decide, by decide, show checkVops _ _ _ = none by decide,
    free_of _ _ _ _ _ rfl rfl rfl rfl rfl rfl rfl (by decide), by decide, by decide⟩

def callOf : GateCall :=
  { n := 16, units := 1, gateIx := 0, entry := 0x10000, tasid := 1, tdom := 0, unwind := true, allowSplit := true, handler := 0x10040, gt := 0, privseg := false
    args := [32, 33], results := [48] }
def smallWave : Wave := { wave0 with allot := 64 }
def claimState (k : Park) : State := mk { part0 with park := k } smallWave placedGroup placedLaunch
def claimQ (n units : Nat) : Claim := { ref := ref0, since := 0, aged := false, n := n, units := units, banks := List.range 16, partition := 0 }

/-- ClaimGrants: the only claim of a core, of either kind; Claims: one that the pools cannot grant, with the group's other parts at barriers. -/
theorem witness_claims :
    ((claimState (.claim 8 0 false)).claims 0 = [claimQ 8 0] ∧ (claimState (.claim 8 0 false)).grantable 0 (claimQ 8 0) = true)
    ∧ ((claimState (.gclaim callOf 0 false)).claims 0 = [claimQ 16 1] ∧ (claimState (.gclaim callOf 0 false)).grantable 0 (claimQ 16 1) = true)
    ∧ (claimState (.gclaim callOf 0 false)).wave? 0 = some { smallWave with parts := [{ part0 with park := .gclaim callOf 0 false }] }
    ∧ HandlerReady (mkCtx { part0 with park := .claim 2048 0 false } smallWave placedGroup placedLaunch)
    ∧ (claimState (.claim 2048 0 false)).groupWaves 0 = [{ smallWave with parts := [{ part0 with park := .claim 2048 0 false }] }]
    ∧ claimOf smallWave { part0 with park := .claim 2048 0 false } = some (claimQ 2048 0)
    ∧ (claimState (.claim 2048 0 false)).grantable 0 (claimQ 2048 0) = false :=
  ⟨by decide, by decide, rfl, ⟨rfl, .inl rfl⟩, by decide, by decide, by decide⟩

/-- Two waves of a core with a claim each, in their turn. -/
def twoClaims (m n dcc : Nat) : State :=
  { s0 with dcc := dcc, waves := [(0, { smallWave with parts := [{ part0 with park := .claim m 0 false }] }),
                                  (1, { smallWave with slot := 1, parts := [{ part0 with park := .claim n 1 false }] })] }
def secondQ (n : Nat) : Claim := { claimQ n 0 with ref := { ref0 with slot := 1 }, since := 1 }
/-- ClaimGrants: two claims, of which the older can be granted, the younger alone, and neither because the older has waited for 4,096 cycles. -/
theorem witness_two_claims :
    ((twoClaims 8 8 1).claims 0 = [claimQ 8 0, secondQ 8] ∧ (twoClaims 8 8 1).grantable 0 (claimQ 8 0) = true)
    ∧ ((twoClaims 2048 8 4095).claims 0 = [claimQ 2048 0, secondQ 8] ∧ (twoClaims 2048 8 4095).grantable 0 (claimQ 2048 0) = false
      ∧ (twoClaims 2048 8 4095).grantable 0 (secondQ 8) = true ∧ ¬ ((claimQ 2048 0).aged = true ∨ (claimQ 2048 0).since + 4096 ≤ 4095))
    ∧ ((twoClaims 2048 8 4096).claims 0 = [claimQ 2048 0, secondQ 8] ∧ (twoClaims 2048 8 4096).grantable 0 (claimQ 2048 0) = false
      ∧ (claimQ 2048 0).since + 4096 ≤ 4096 ∧ ∃ b ∈ (secondQ 8).banks, b ∈ (claimQ 2048 0).banks) := by decide

/-- Claims: the largest release and the largest claim of a wave of 64 registers. -/
theorem witness_regrel : (mk part0 smallWave placedGroup placedLaunch).issuing = some (mkCtx part0 smallWave placedGroup placedLaunch)
    ∧ (56 : W32).toNat % 8 = 0 ∧ (56 : W32).toNat < smallWave.allot ∧ smallWave.allot + (192 : W32).toNat ≤ 256 ∧ (192 : W32).toNat % 8 = 0
    ∧ Free (mkCtx part0 smallWave placedGroup placedLaunch) true false none (some ((mkCtx part0 smallWave placedGroup placedLaunch).effWidth 0)) :=
  ⟨mk_issuing _ _ _ _ rfl rfl rfl, by decide, by decide, by decide, by decide, free_of _ _ _ _ _ rfl rfl rfl rfl rfl rfl rfl (by decide)⟩

def calleePart : Part := { part0 with frames := [calleeFrame] }
/-- GateReturns, FormsComplete: a part inside one gate call, of one result. -/
theorem witness_gret : (sp calleePart).issuing = some (cp calleePart) ∧ (cp calleePart).part.frames = [calleeFrame] ∧ (cp calleePart).part.tcode = 0
    ∧ OperandsOk (cp calleePart) (spanVop 2 calleeFrame.nres) ∧ Free (cp calleePart) true false none (some calleeFrame.width)
    ∧ (sp calleePart).quiet (cp calleePart) = true ∧ (cp calleePart).part.fails = [] ∧ (cp calleePart).part.held = []
    ∧ (cp calleePart).part.base + (cp calleePart).part.width ≤ 64 ∧ calleeFrame.results.length = calleeFrame.nres ∧ calleeFrame.results.Nodup
    ∧ ∀ n ∈ calleeFrame.results, n < 512 :=
  ⟨issuing_sp _ rfl, rfl, rfl, show checkVops _ _ _ = none by decide, free_of _ _ _ _ _ rfl rfl rfl rfl rfl rfl rfl (by decide), by decide, rfl, rfl,
    by decide, by decide, by decide, by decide⟩

/-! ### Witnesses: memory -/

def mv : MWord := { s := true, d := 48, a := 0x7F, bu := 4, w := false, nr := false }
def xw : XmWord := { xmDefault with sz := 2 }
def dataPart : Part := { part0 with regs := { part0.regs with sregs := [(4, 0x10100)] } }
theorem freeData (sm mem : Bool) (cls : Option Cls) : Free (cp dataPart) sm mem cls none := free_sp _ _ _ _ rfl rfl rfl rfl rfl rfl rfl

set_option maxRecDepth 8000 in
/-- GlobalAccesses: a word of every lane at an aligned address, with no watchpoint; a uniform access of it. -/
theorem witness_global : (mem0 dataPart).issuing = some (cp dataPart)
    ∧ GlobalReady mv xw .ld (mData 48 2) (fun _ => []) (mem0 dataPart) (cp dataPart)
    ∧ GlobalReady mv xw .st (mData 48 2) (fun c => ((laneAddrs c mv xw).filter (fun e => !c.wave.helper.getLsbD e.1)).map Prod.snd) (mem0 dataPart) (cp dataPart)
    ∧ ReleaseReady (mem0 dataPart) (cp dataPart) 2
    ∧ AddressesOk 8 [((((cp dataPart).sreg 4).toNat : Int) % 2 ^ 64).toNat] ∧ Unwatched (mem0 dataPart) (cp dataPart) ∧ LogRoom (mem0 dataPart) (cp dataPart) [0x10100] := by
  have a : AddressesOk (szBytes xw.sz) ((laneAddrs (cp dataPart) mv xw).map Prod.snd) := by unfold AddressesOk; decide
  have w : Unwatched (mem0 dataPart) (cp dataPart) := .inr (.inr (by decide))
  refine ⟨issuing_mem _ rfl, ⟨freeData _ _ _, show checkVops _ _ _ = none by decide, fun h => absurd h (by decide), a, w, fun h => by cases h⟩,
    ⟨freeData _ _ _, show checkVops _ _ _ = none by decide, fun h => absurd h (by decide), a, w, fun _ => ?_⟩, fun _ => by decide, ?_, w, ?_⟩
  · unfold LogRoom; decide
  · unfold AddressesOk; decide
  · unfold LogRoom; decide

/-- AccessTraps: the first lane at 2^57, the first lane off its alignment, and a scratch offset one byte too high. -/
theorem witness_access_traps :
    ((laneAddrs (cp highPart) mv xw).map Prod.snd = [] ++ 2 ^ 57 :: List.replicate 63 (2 ^ 57))
    ∧ (laneAddrs (cp oddPart) mv xw).map Prod.snd = [] ++ 0x10101 :: List.replicate 63 0x10101
    ∧ (∀ b ∈ [] ++ 0x10101 :: List.replicate 63 0x10101, b < 2 ^ 57) ∧ 0x10101 % szBytes xw.sz ≠ 0 ∧ HandlerReady (cp oddPart)
    ∧ (let p := { part0 with regs := { part0.regs with sregs := [(4, 131069)] } }
      (laneOffs (cp p) mv xw).map Prod.snd = [] ++ 131069 :: List.replicate 63 131069 ∧ (cp p).scratchArea.2 < 131069 + szBytes xw.sz) :=
  ⟨by decide, by decide, by decide, by decide, ⟨rfl, .inl rfl⟩, by decide, by decide⟩

/-- ScratchAccesses: the last word of the part's scratch. -/
def scratchPart : Part := { part0 with regs := { part0.regs with sregs := [(4, 131068)] } }
theorem witness_scratch : (sp scratchPart).issuing = some (cp scratchPart) ∧ ScratchReady mv xw .st (mData 48 2) (sp scratchPart) (cp scratchPart)
    ∧ ScratchReady mv xw .ld (atomData 48 xw) (sp scratchPart) (cp scratchPart) :=
  ⟨issuing_sp _ rfl,
    ⟨free_sp _ _ _ _ rfl rfl rfl rfl rfl rfl rfl, show checkVops _ _ _ = none by decide, fun h => absurd h (by decide), by decide⟩,
    ⟨free_sp _ _ _ _ rfl rfl rfl rfl rfl rfl rfl, show checkVops _ _ _ = none by decide, fun h => absurd h (by decide), by decide⟩⟩

/-- A dirty line of a core: sector 0 of a C page. -/
def dirtyLine (line : Nat) : L1Line :=
  { line := line, data := [(0, 9)], valid := 1, dirty := 1, kind := 0, asid := 1, way := 0, ready := [], slot := 0, admission := 1, written := 1 }
/-- The same states with that line in core 0's L1. -/
def withDirty (s : State) (line : Nat) : State := { s with cores := [(0, { Core.reset with l1 := [dirtyLine line] })] }
/-- CacheInstructions: an executable page's lines with nothing in flight, where a release has nothing to send, and where it has. -/
theorem witness_cache : (mem0 dataPart).issuing = some (cp dataPart) ∧ Free (cp dataPart) true true none none ∧ (cp dataPart).part.ldOps = [] ∧ (cp dataPart).part.stOps = []
    ∧ (mem0 dataPart).partLogged 0 (cp dataPart).part = false ∧ (cp dataPart).part.heldOf [.ld, .st] = none ∧ OperandsOk (cp dataPart) (mOffset mv).toList
    ∧ (∀ a ∈ (laneAddrs (cp dataPart) mv xmDefault).map Prod.snd, a < 2 ^ 57 ∧ (mem0 dataPart).walk 0 1 a ≠ .malformed)
    ∧ (mem0 dataPart).opsBefore (cp dataPart) false ((laneAddrs (cp dataPart) mv xmDefault).map Prod.snd) = []
    ∧ (mem0 dataPart).opsBefore (cp dataPart) true [] = []
    ∧ (mem0 dataPart).drained 0 (cp dataPart).part = true ∧ BacksGone (mem0 dataPart) (cp dataPart) 6
    ∧ (withDirty (mem0 dataPart) 0x2202).drained 0 (cp dataPart).part = true ∧ (cp dataPart).part.relAt = none
    ∧ ((withDirty (mem0 dataPart) 0x2202).releaseL1 0 6).backsDone 0 ((withDirty (mem0 dataPart) 0x2202).releaseL1 0 6).nextId = false
    ∧ (∃ l, (withDirty (mem0 dataPart) 0x2202).l1Line? 0 0x2202 = some l ∧ l.dirty ≠ 0) :=
  ⟨issuing_mem _ rfl, freeData _ _ _, rfl, rfl, by decide, by decide, show checkVops _ _ _ = none by decide, by decide, by decide, by decide, by decide,
    ⟨fun b h => (nomatch h), fun _ l h => (nomatch h)⟩, by decide, rfl, by decide, ⟨_, rfl, by decide⟩⟩

def access (size : Nat) (data : List Byte) (kind : Nat) (phase : Phase) : Access :=
  { lane := 63, va := 0x10100, size := size, data := data, data2 := [], phase := phase, pa := 0x110100, kind := kind, cp := 0, logPage := 16, arrival := 0, due := 0, l1 := false }
def opOf0 (cls : Cls) (kind : OpKind) (a : List Access) : MemOp :=
  { id := 7, core := 0, slot := 0, admission := 1, group := 0, launch := 0, asid := 1, cls := cls, pc := 0x10000, next := 0x10004, kind := kind, ord := 0, scope := 5
    sub := 0, accs := a, issued := 0, due := 0, parked := false, arrival := 0, acted := false, status := 0, lane := 0, reads := [], relAt := none }
def opState (p : Part) (o : MemOp) : State := { mem0 p with ops := [o] }

/-- SlicePerforms: a store, a load of an S page and an atomic that have reached their slice. -/
theorem witness_slice :
    (let o := opOf0 .st .store [access 4 [1, 2, 3, 4] 1 .ready]
      let s := opState { part0 with stOps := [7] } o
      s.op? 7 = some o ∧ s.canPerform o (access 4 [1, 2, 3, 4] 1 .ready) = true ∧ s.pinned (some 0) 0x110100 = false ∧ (s.die (dieOfPa 0x110100)).dbgEn = false
      ∧ bypasses o (access 4 [1, 2, 3, 4] 1 .ready) = true ∧ s.lineBusy 0 (0x110100 / 128) = false
      ∧ narrowStore 1 0 5 = false ∧ ([1, 2, 3, 4] : List Byte).length = 4)
    ∧ (let o := opOf0 .ld (.load 0 48 1) [access 4 [] 1 .ready]
      let s := opState { part0 with ldOps := [7] } o
      s.op? 7 = some o ∧ s.canPerform o (access 4 [] 1 .ready) = true)
    ∧ (let o := opOf0 .ld (.atom 2 (some (0, 48))) [access 4 [1, 0, 0, 0] 0 .ready]
      let s := opState { part0 with ldOps := [7] } o
      s.op? 7 = some o ∧ s.canPerform o (access 4 [1, 0, 0, 0] 0 .ready) = true ∧ s.l1Line? 0 (0x110100 / 128) = none) := by decide

/-- Completions: a load of a register quad at the last lane, a uniform load and a store, each back; a counted wait at its limit. -/
theorem witness_completions :
    (let a := access 16 (List.replicate 16 5) 1 .done
      let o := opOf0 .ld (.load 0 252 4) [a]
      let p := { part0 with ldOps := [7] }
      let s := opState p o
      s.op? 7 = some o ∧ a.due ≤ s.dcc ∧ s.wave? 0 = some { wave0 with parts := [p] } ∧ wave0.admission = o.admission ∧ (p.opsOf .ld).head? = some 7
      ∧ 252 + 4 ≤ wave0.allot ∧ a.lane < 64)
    ∧ (let o := opOf0 .st .store [access 4 [1, 2, 3, 4] 1 .done]
      let p := { part0 with stOps := [7] }
      (opState p o).op? 7 = some o ∧ (p.opsOf .st).head? = some 7)
    ∧ (cp loadingPart).part.count .ld ≤ 1 ∧ (cp loadingPart).part.waitcFailure .ld 1 = none ∧ (sp loadingPart).partLogged 0 (cp loadingPart).part = false := by decide

/-- FormsComplete: a load of two lanes and a store of two lanes, each back; what a `fence`, a `cctl`, a `pfetch` and a `waitc` find; a tenant's doorbells. -/
theorem witness_forms :
    (∀ cls kind, (cls, kind) = (Cls.ld, OpKind.load 0 252 4) ∨ (cls, kind) = (Cls.st, OpKind.store) →
      let a := access 16 (List.replicate 16 5) 1 .done
      let o := opOf0 cls kind [{ a with lane := 0 }, a]
      let p := if cls = .ld then { part0 with ldOps := [7] } else { part0 with stOps := [7] }
      let s := opState p o
      s.op? 7 = some o ∧ (∀ b ∈ o.accs, b.phase = .done ∧ b.due ≤ s.dcc) ∧ o.due ≤ s.dcc ∧ o.parked = false ∧ s.wave? 0 = some { wave0 with parts := [p] }
      ∧ wave0.admission = o.admission ∧ (p.opsOf cls).head? = some 7 ∧ (o.accs.map (fun b => b.lane)).Nodup)
    ∧ (cp dataPart).part.count .mx ≤ 0 ∧ (mem0 dataPart).partLogged 0 (cp dataPart).part = false ∧ (cp dataPart).part.waitcFailure .mx 0 = none
    ∧ (∀ e ∈ laneAddrs (cp dataPart) mv xmDefault, e.2 < 2 ^ 57 ∧ (mem0 dataPart).walk 0 1 e.2 ≠ .malformed)
    ∧ s0.answers = true ∧ mayTenant (.tenant 0) (s0.queue 63).tenant = true ∧ (s0.tenant 0).flrAt ≠ some s0.dcc := by
  refine ⟨?_, by decide⟩
  rintro cls kind (h | h) <;> (cases h; decide)

/-! ### Witnesses: synchronisation -/

def bv : RWord := { s := true, d := 0, a := 0, b := 15, k := true }
def waitPart (n : Nat) : Part := { part0 with arrivals := [(15, n)] }
def overGroup (n : Nat) : Group := { placedGroup with barriers := [(15, { phase := n, arrived := [] })] }
def arrivedGroup : Group := { placedGroup with barriers := [(15, { phase := 3, arrived := [(0, laneRange 0 64)] })] }

/-- NamedBarriers: the last barrier, with and without a record; a barrier that the kernel does not declare, a shape beyond the rectangle in either direction. -/
theorem witness_barriers : s0.issuing = some c0 ∧ c0.part.frames = [] ∧ bv.b.toNat < c0.group.nbar ∧ Plain c0 true ∧ Free c0 true false none (some (c0.effWidth 0))
    ∧ openRecord c0 15 = none ∧ s0.releaseDone c0 = true ∧ c0.part.arrival? 15 = none ∧ HandlerReady c0
    ∧ (cp (waitPart 0)).part.arrival? 15 = some 0 ∧ (barrierOf (cp (waitPart 0)).group 15).phase = 0
    ∧ (barrierOf (mkCtx (waitPart 0) wave0 (overGroup 1) placedLaunch).group 15).phase = 1
    ∧ (mkCtx part0 wave0 { placedGroup with nbar := 15 } placedLaunch).group.nbar ≤ bv.b.toNat
    ∧ c0.launch.logw < (1 : BitVec 7).toNat % 8 ∧ c0.launch.logh < (8 : BitVec 7).toNat / 8 % 4 :=
  ⟨issuing0, rfl, by decide, free0 _ _ _, free0w _ _ _ _ (by decide), by decide, by decide, by decide, ready0, by decide, by decide, by decide, by decide,
    by decide, by decide⟩

/-- A launch of sixteen by eight cores whose core 0 has an open instance, a report or a record. -/
def rectLaunch (k : RbarCore) : Launch := { placedLaunch with logw := 4, logh := 3, rbars := [(0, k)] }
def rv44 : RWord := { bv with b := 28 }
def opened : RbarCore := { num := 0, arrived := [(0, laneRange 0 64)], shape := some (0, 0), report := none, reports := [] }
def rbarState (k : RbarCore) : State := mk { part0 with park := .rbar 0 4 3 } wave0 placedGroup (rectLaunch k)

set_option maxRecDepth 8000 in
/-- RectangleBarriers: the whole rectangle; a phase that is over; an open instance that every quad has reached; a report without and with a clash; an
instance of one core that has been recorded. -/
theorem witness_rectangle :
    (let c := mkCtx part0 wave0 placedGroup (rectLaunch RbarCore.fresh);
      (mk part0 wave0 placedGroup (rectLaunch RbarCore.fresh)).issuing = some c ∧ rv44.b.toNat % 8 ≤ c.launch.logw ∧ rv44.b.toNat / 8 % 4 ≤ c.launch.logh
      ∧ (c.launch.rbar c.ref.core).shape = none ∧ (mk part0 wave0 placedGroup (rectLaunch RbarCore.fresh)).releaseDone c = true ∧ Free c true false none (some (c.effWidth 0)))
    ∧ (let c := mkCtx part0 wave0 placedGroup (rectLaunch RbarCore.fresh)
      let s := mk part0 wave0 placedGroup (rectLaunch RbarCore.fresh)
      s.backs = [] ∧ (s.core 0).l1 = [] ∧ c.part.relAt = none ∧ ((withDirty s 0x2202).releaseL1 0 3).backsDone 0 ((withDirty s 0x2202).releaseL1 0 3).nextId = false)
    ∧ ((mk (waitPart 3) wave0 arrivedGroup placedLaunch).phaseOver 0 15 = true ∧ (mk (waitPart 3) wave0 arrivedGroup placedLaunch).group? 0 = some arrivedGroup)
    ∧ ((rbarState opened).rbarOver 0 0 = true ∧ (rbarState opened).rbarWaiters 0 0 0 = [ref0])
    ∧ (∀ c ∈ (rectLaunch { opened with report := some (0, (4, 3), 0) }).subRect 0 4 3, c ≠ 0 →
        ((rectLaunch { opened with report := some (0, (4, 3), 0) }).rbar c).reported 0 = none)
    ∧ (let l := { placedLaunch with logw := 1, rbars := [(0, { opened with report := some (0, (1, 0), 0) }), (1, { opened with reports := [(1, (1, 0), 9), (0, (0, 0), 0)] })] }
      (l.rbar 1).reported 0 = some ((0, 0), 0) ∧ 1 ∈ l.subRect 0 1 0
      ∧ (mk { part0 with park := .rbar 0 1 0 } wave0 placedGroup l).rbarWaiters 0 0 0 = [ref0])
    ∧ (rbarState { opened with reports := [(0, (0, 0), 7)] }).rbarGlobal 0 0 = some (0, 7, 0) := by
  refine ⟨⟨mk_issuing _ _ _ _ rfl rfl rfl, by decide, by decide, by decide, by decide, free_of _ _ _ _ _ rfl rfl rfl rfl rfl rfl rfl (by decide)⟩, ?_⟩
  exact ⟨by decide, by decide, by decide, by decide, by decide, by decide⟩

def qblock (head tail : Nat) : List Byte := bytesOfNat 8 head ++ bytesOfNat 8 tail ++ [9]
def queueAccess : Access := { access 8 [] 1 .ready with va := 0x10100, pa := 0x110100 }
def queueState (head tail : Nat) (o : MemOp) : State := { opState part0 o with mem := writeBytes tables 0x110100 (qblock head tail) }

/-- QueueInstructions: an issue; an enqueue that fills the queue at the last value of TAIL, and a dequeue of its last entry. -/
theorem witness_queues :
    (mem0 dataPart).issuing = some (cp dataPart) ∧ ((cp dataPart).sreg 4).toNat < 2 ^ 57 ∧ Free (cp dataPart) true true (some .st) none
    ∧ Free (cp dataPart) true true (some .ld) none ∧ ReleaseReady (mem0 dataPart) (cp dataPart) 2
    ∧ (let o := { opOf0 .st (.qenq 9) [queueAccess] with ord := 2 }
      let s := queueState (2 ^ 64 - 512) (2 ^ 64 - 1) o
      s.op? o.id = some o ∧ queueAccess.kind ≠ 2 ∧ ((s.startRelease 7).op? 7).all (fun q => (s.startRelease 7).canPerform q queueAccess) = true
      ∧ s.pinnedIn (some o.core) (s.linesOfQueue o queueAccess) = [] ∧ (s.core o.core).l1 = [] ∧ s.backs = [] ∧ queueBlock s.mem queueAccess.pa (s.blockPage queueAccess.pa queueAccess.logPage) = some (2 ^ 64 - 512, 2 ^ 64 - 1, 512)
      ∧ queueOpen o.kind (2 ^ 64 - 512) (2 ^ 64 - 1) 512 = true ∧ s.queuedBefore o queueAccess.pa = false)
    ∧ (let o := { opOf0 .ld (.qdeq 5) [queueAccess] with ord := 1 }
      let s := queueState 3 4 o
      queueBlock s.mem queueAccess.pa (s.blockPage queueAccess.pa queueAccess.logPage) = some (3, 4, 512) ∧ queueOpen o.kind 3 4 512 = true ∧ s.queuedBefore o queueAccess.pa = false)
    ∧ ∀ d, ((queueState 3 4 (opOf0 .ld (.qdeq 5) [queueAccess])).die d).dbgEn = false := by
  refine ⟨issuing_mem _ rfl, by decide, freeData _ _ _, freeData _ _ _, fun _ => by decide, by decide, by decide, fun _ => rfl⟩

def chan : ChanDecl := { dx := 1, dy := 0, slots := 1, bytes := 256 }
def chanLaunch (chans : List (Nat × ChanInst)) : Launch := { placedLaunch with kernel := { placedKernel with chans := [chan] }, logw := 1, chans := chans }
def cv : RWord := { bv with d := 48, a := 48, b := 0 }
def chanState (o : MemOp) (i : ChanInst) : State := { mk part0 wave0 placedGroup (chanLaunch [(0, i)]) with ops := [o] }

/-- ChannelInstructions: a message of one register for each lane. -/
theorem witness_channels : let c := mkCtx part0 wave0 placedGroup (chanLaunch [])
    (mk part0 wave0 placedGroup (chanLaunch [])).issuing = some c ∧ c.part.frames = [] ∧ c.chan? cv.b.toNat = some chan ∧ chan.bytes % (4 * c.part.width) = 0
    ∧ OperandsOk c (spanVop cv.a (messageRegs chan c.part.width)) ∧ Free c true true (some .st) none ∧ Free c true true (some .ld) none
    ∧ FullReleaseReady (mk part0 wave0 placedGroup (chanLaunch [])) c 2 3 :=
  ⟨mk_issuing _ _ _ _ rfl rfl rfl, rfl, rfl, by decide, show checkVops _ _ _ = none by decide, free_of _ _ _ _ _ rfl rfl rfl rfl rfl rfl rfl (by simp),
    free_of _ _ _ _ _ rfl rfl rfl rfl rfl rfl rfl (by simp), fullReady _ _ _ _ (by decide) rfl (by decide) rfl (by decide)⟩

/-- ChannelEvents: a message on its way with its credit, a receive at its slice, and a credit that has come back. -/
theorem witness_channel_events :
    (let o := { opOf0 .st (.chsend 0 [1, 2, 3, 4]) [] with acted := true, parked := true }
      let s := chanState o { msgs := [], credits := 0, returning := [] }
      s.op? o.id = some o ∧ (s.launch? o.launch).isSome ∧ o.arrival ≤ s.dcc)
    ∧ (let o := { opOf0 .ld (.chrecv 0 0 48 1 (laneRange 0 64)) [] with parked := true }
      let s := chanState o { msgs := [(0, [1, 2, 3, 4])], credits := 0, returning := [] }
      s.op? o.id = some o ∧ s.receiveDue o = true)
    ∧ (let o := { opOf0 .st (.chsend 0 []) [] with acted := true }
      let s := chanState o { msgs := [], credits := 0, returning := [0] }
      s.op? o.id = some o ∧ 0 ≤ s.dcc ∧ ∀ e ∈ s.ops, e.acted = true) := by decide

def forkPart : Part := { part0 with regs := { part0.regs with sregs := [(8, 0x10000), (9, 7), (10, 0x10100)] } }
def forkLaunch (d : Deque) : Launch := { placedLaunch with classes := [(0, placedKernel)], deques := [(0, d)] }
def fullDeque : Deque := { near := List.replicate 8 (taskOf (cp forkPart) 8), far := List.replicate 64 (taskOf (cp forkPart) 8) }
def forkCtx (d : Deque) : Ctx := mkCtx forkPart wave0 placedGroup (forkLaunch d)
def forkState (d : Deque) : State := { mk forkPart wave0 placedGroup (forkLaunch d) with mem := tables }

/-- TaskInstructions: a descriptor that passes, a deque with and without room, a join on a readable counter; a pop and a theft from one entry. -/
theorem witness_tasks : (forkState fullDeque).issuing = some (forkCtx fullDeque) ∧ Plain (forkCtx fullDeque) true ∧ badTask (forkCtx fullDeque) 8 = none
    ∧ FullReleaseReady (forkState fullDeque) (forkCtx fullDeque) 2 3 ∧ (forkState fullDeque).forkRoom 0 0 fullDeque = false ∧ (forkState fullDeque).forkRoom 0 0 { near := fullDeque.near, far := [] } = true
    ∧ (∃ s1 pte lp, (forkState fullDeque).translate 0 false 1 0x10000 = (s1, .leaf pte lp) ∧ s1.leafFault .fetch pte (paOf pte lp 0x10000) = none)
    ∧ (∃ s1 pte lp, (forkState fullDeque).translate 0 false 1 0x10100 = (s1, .leaf pte lp) ∧ s1.leafFault .read pte (paOf pte lp 0x10100) = none)
    ∧ (forkState fullDeque).lookPins 0 false 1 0x10000 = [] ∧ (forkState fullDeque).lookPins 0 false 1 0x10100 = []
    ∧ ({ near := [taskOf (cp forkPart) 8], far := [] } : Deque).pop = some (taskOf (cp forkPart) 8, { near := [], far := [] })
    ∧ ({ near := [taskOf (cp forkPart) 8], far := [] } : Deque).steal = some (taskOf (cp forkPart) 8, { near := [], far := [] }) := by
  refine ⟨?_, free_of _ _ _ _ _ rfl rfl rfl rfl rfl rfl rfl (by simp), by decide, fullReady _ _ _ _ (by decide) rfl (by decide) rfl (by decide), by decide, by decide,
    ⟨_, _, _, rfl, by decide⟩, ⟨_, _, _, rfl, by decide⟩, by decide, by decide, by decide, by decide⟩
  rw [show (forkState fullDeque).issuing = (mk forkPart wave0 placedGroup (forkLaunch fullDeque)).issuing from rfl]; exact mk_issuing _ _ _ _ rfl rfl rfl

/-! ### Witnesses: engines, graphics and rays -/

def enginePart : Part :=
  { part0 with regs := { part0.regs with sregs := [(4, 0x10100), (5, 0x0000000101000100), (7, 0x10000)] } }
def uv : UWord := { u0 with s := true, d := 5, a := 4, b := 60 }
def coopPart : Part := { part0 with regs := { part0.regs with sregs := [(5, 0x0000000101000100), (8, 0x0200000000000000)] } }
def uw : UWord := { u0 with s := true, a := 5, b := 6 }
def xt : XtWord := { t0 with tile := 12 }

theorem free_ffp (p : Part) (sm mem : Bool) (cls : Option Cls) (w : Nat) (h1 : p.ldOps = []) (h2 : p.stOps = []) (h3 : p.cpOps = [])
    (h4 : p.mxOps = []) (h5 : p.held = []) (h6 : p.acquiring = []) (h7 : p.waiting = 0) (h8 : w ≤ p.width) : Free (cp p) sm mem cls (some w) :=
  free_of _ _ _ _ _ h1 h2 h3 h4 h5 h6 h7 (by intro v hv; cases hv; exact h8)

/-- CopyIssues: the last four uniform registers as operands; ArrayIssues: the widest span, from tile 12, a co-operative operation of two cores, and a tile to clear. -/
theorem witness_engines : (sp enginePart).issuing = some (cp enginePart) ∧ Free (cp enginePart) true true (some .cp) (some ((cp enginePart).effWidth 0))
    ∧ copyOperandTrap 0 60 ((cp enginePart).sreg 4) ((cp enginePart).sreg 60) ((cp enginePart).sreg 61) = none
    ∧ ((sp enginePart).core 0).copyQ.length < 32 ∧ ((sp enginePart).core 0).matrixQ.length < 16 ∧ xt.tile.toNat < (cp enginePart).group.nacc
    ∧ Free (cp enginePart) true true (some .mx) (some ((cp enginePart).effWidth 0)) ∧ Free (cp enginePart) true true (some .mx) none
    ∧ mmaTrap (cp enginePart) uw xt = none ∧ xt.co = false
    ∧ (let l := { placedLaunch with logw := 1 }
      let c := mkCtx coopPart wave0 placedGroup l
      (mk coopPart wave0 placedGroup l).issuing = some c ∧ mmaTrap c { u0 with a := 5, b := 8 } { t0 with co := true, aty := 2, bty := 2 } = none
      ∧ (c.sreg 8).toNat / 2 ^ 57 % 8 = 1 ∧ Free c true true (some .mx) (some (c.effWidth 0))) :=
  ⟨issuing_sp _ rfl, free_ffp _ _ _ _ _ rfl rfl rfl rfl rfl rfl rfl (by decide), by decide, by decide, by decide, by decide,
    free_ffp _ _ _ _ _ rfl rfl rfl rfl rfl rfl rfl (by decide), free_sp _ _ _ _ rfl rfl rfl rfl rfl rfl rfl, by decide, rfl,
    mk_issuing _ _ _ _ rfl rfl rfl, by decide, by decide, free_of _ _ _ _ _ rfl rfl rfl rfl rfl rfl rfl (by decide)⟩

def rowR : RWord := { rv with a := 48, b := 127 }
def x15 : XtWord := { t0 with tile := 15 }
/-- TokensAndRows: the last row of the last tile, in each of its widths; a tile whose token the engine holds; a tile at NACC. -/
theorem witness_rows : s0.issuing = some c0 ∧ x15.tile.toNat < c0.group.nacc ∧ Free c0 true true none none ∧ s0.tileBusy 0 (c0.group.t0 + 15) = false ∧ c0.part.fails = []
    ∧ x15.tile.toNat ∉ c0.group.engineTiles ∧ OperandsOk c0 [rowVop rowR.d x15 c0] ∧ OperandsOk c0 [rowVop rowR.a { x15 with aty := 5 } c0]
    ∧ (∀ l, c0.emask.getLsbD l = true → c0.part.base ≤ l ∧ l < c0.part.base + c0.part.width)
    ∧ (let c := mkCtx part0 wave0 { placedGroup with engineTiles := [15] } placedLaunch
      x15.tile.toNat ∈ c.group.engineTiles ∧ HandlerReady c ∧ Free c true true none none ∧ OperandsOk c [rowVop rowR.d x15 c] ∧ OperandsOk c [rowVop rowR.a x15 c])
    ∧ (mkCtx part0 wave0 { placedGroup with nacc := 15 } placedLaunch).group.nacc ≤ x15.tile.toNat ∧ HandlerReady c0 :=
  ⟨issuing0, by decide, free0 _ _ _, by decide, rfl, by decide, show checkVops _ _ _ = none by decide, show checkVops _ _ _ = none by decide,
    fun l h => ⟨Nat.zero_le _, BitVec.lt_of_getLsbD h⟩,
    ⟨by decide, ⟨rfl, .inl rfl⟩, free_of _ _ _ _ _ rfl rfl rfl rfl rfl rfl rfl (by simp), show checkVops _ _ _ = none by decide,
      show checkVops _ _ _ = none by decide⟩, by decide, ready0⟩

def pass0 : Pass :=
  { addr := 0x10000, tw := 4, th := 4, samp := 1, nrt := 1, dtest := 1, dwrite := true, owntab := 0, reshade := 0, resq := 0, depth := 0, dpitch := 0
    rts := [(0x10000, 64, 0, 0)] }
def draw0 : Draw := { num := 1, pass := pass0, maxv := 3, maxp := 1, nattr := 32, cull := 0, vx := 0, vy := 0, vw := 4, vh := 4, pixel := placedKernel }
def corners : PrimRec :=
  { id := 9, launch := 0, pass := 0, seq := 0, tile := 0, xs := [0, 1024, 0], ys := [0, 0, 1024], zs := [0, 0, 0], ws := [0, 0, 0], attrs := [], die := 0, due := 0, arrived := true }
def pixels0 : PixelWave := { pass := 0, width := 64, die := 0, tile := 0, prims := [corners], lanes := [(0, { x := 0, y := 0, cover := 1, prim := 0, frag := none })] }
def pixelWave : Wave := { wave0 with pixel := some pixels0 }
def meshGroup : Group := { placedGroup with kind := .mesh }
def drawLaunch : Launch := { placedLaunch with draw := some draw0 }
def gv : RWord := { s := true, d := 48, a := 32, b := 31, k := true }

/-- GraphicsInstructions: a pixel wave and the last attribute, a mesh group with the longest vertex, and a wave of neither kind. -/
theorem witness_graphics :
    (let c := mkCtx part0 pixelWave placedGroup placedLaunch;
      (mk part0 pixelWave placedGroup placedLaunch).issuing = some c ∧ Plain c true ∧ Free c true false (some .st) none ∧ c.wave.pixel = some pixels0 ∧ c.part.frames = []
      ∧ OperandsOk c [{ f := gv.a.toNat, unit := 4 }] ∧ OperandsOk c [{ f := gv.d.toNat }, { f := gv.a.toNat, unit := 2 }])
    ∧ (let c := mkCtx part0 wave0 meshGroup drawLaunch;
      (mk part0 wave0 meshGroup drawLaunch).issuing = some c ∧ Free c true false (some .st) none ∧ c.group.kind = .mesh ∧ c.launch.draw = some draw0
      ∧ OperandsOk c [vertexVop gv draw0.nattr, indexVop gv.b] ∧ OperandsOk c [{ f := gv.a.toNat, unit := 3 }]
      ∧ (∀ v ∈ c.meshVerts gv draw0, v.index < draw0.maxv) ∧ (∀ k ∈ c.meshTris { f := gv.a.toNat, unit := 3 }, k.k < 64 ∧ k.v0 < draw0.maxv ∧ k.v1 < draw0.maxv ∧ k.v2 < draw0.maxv)
      ∧ (mk part0 wave0 meshGroup drawLaunch).dropPins 0 1 draw0 = [])
    ∧ c0.wave.pixel = none ∧ c0.group.kind ≠ .mesh ∧ HandlerReady c0 := by
  refine ⟨⟨mk_issuing _ _ _ _ rfl rfl rfl, free_of _ _ _ _ _ rfl rfl rfl rfl rfl rfl rfl (by simp), free_of _ _ _ _ _ rfl rfl rfl rfl rfl rfl rfl (by simp), rfl, rfl,
    show checkVops _ _ _ = none by decide, show checkVops _ _ _ = none by decide⟩,
    ⟨mk_issuing _ _ _ _ rfl rfl rfl, free_of _ _ _ _ _ rfl rfl rfl rfl rfl rfl rfl (by simp), rfl, rfl,
      show checkVops _ _ _ = none by decide, show checkVops _ _ _ = none by decide, by decide, by decide, by decide⟩, rfl, by decide, ready0⟩

def unitM : MWord := { s := true, d := 64, a := 32, bu := 4, w := false, nr := false }
def unitPart : Part := { part0 with regs := { part0.regs with sregs := [(4, 0x01FFFFFFFFFFFFE0), (5, 0x01FFFFFFFFFFFFF0)] } }
/-- UnitInstructions: the last aligned descriptor addresses of the address space, and the widest operands. -/
theorem witness_units : (sp unitPart).issuing = some (cp unitPart) ∧ (sp unitPart).ops = [] ∧ Free (cp unitPart) true true (some .ld) none ∧ Plain (cp unitPart) true
    ∧ ((cp unitPart).sreg 4).toNat < 2 ^ 57 ∧ ((cp unitPart).sreg 4).toNat % 32 = 0 ∧ ((cp unitPart).sreg 5).toNat < 2 ^ 57 ∧ ((cp unitPart).sreg 5).toNat % 16 = 0
    ∧ OperandsOk (cp unitPart) (texVops unitM ((sp unitPart).texDims (cp unitPart) unitM + 1)) ∧ OperandsOk (cp unitPart) (texVops unitM 3) ∧ OperandsOk (cp unitPart) ((texVops unitM 1).take 1)
    ∧ OperandsOk (cp unitPart) [{ f := unitM.d.toNat, unit := 8, al := 2 }, { f := unitM.a.toNat, unit := 17, al := 2 }]
    ∧ OperandsOk (cp unitPart) [{ f := unitM.d.toNat, unit := 4, al := 4 }, { f := unitM.a.toNat }]
    ∧ OperandsOk (cp unitPart) [{ f := rv.a.toNat, unit := 2, al := 2 }] :=
  ⟨issuing_sp _ rfl, rfl, free_sp _ _ _ _ rfl rfl rfl rfl rfl rfl rfl, free_sp _ _ _ _ rfl rfl rfl rfl rfl rfl rfl, by decide, by decide, by decide, by decide,
    show checkVops _ _ _ = none by decide, show checkVops _ _ _ = none by decide, show checkVops _ _ _ = none by decide, show checkVops _ _ _ = none by decide, show checkVops _ _ _ = none by decide,
    show checkVops _ _ _ = none by decide⟩

/-! ### Witnesses: system registers, translations and signals -/

def wbPart (v : W64) : Part := { part0 with regs := { part0.regs with sregs := [(4, v)] } }
/-- SystemRegisters, ExecutionMask: a privileged part; the greatest window base and the first one too great. -/
theorem witness_system : (sp (wbPart 128)).issuing = some (cp (wbPart 128)) ∧ Plain (cp (wbPart 128)) true ∧ (cp (wbPart 128)).part.regs.privseg = true
    ∧ badSrset (cp (wbPart 128)) 0x05 ((cp (wbPart 128)).sreg 4) = false ∧ badSrset (cp (wbPart 144)) 0x05 ((cp (wbPart 144)).sreg 4) = true
    ∧ HandlerReady (cp (wbPart 144)) ∧ Plain (cp (wbPart 144)) true
    ∧ (sp (wbPart 128)).ctx? (cp (wbPart 128)).ref = some (cp (wbPart 128)) ∧ (cp (wbPart 128)).part.base + (cp (wbPart 128)).part.width ≤ 64
    ∧ (∀ l, (cp (wbPart 128)).part.cur.getLsbD l = true → (cp (wbPart 128)).part.base ≤ l ∧ l < (cp (wbPart 128)).part.base + (cp (wbPart 128)).part.width) := by
  have h := issuing_sp (wbPart 128) rfl
  refine ⟨h, free_sp _ _ _ _ rfl rfl rfl rfl rfl rfl rfl, rfl, by decide, by decide, ⟨rfl, .inl rfl⟩, free_sp _ _ _ _ rfl rfl rfl rfl rfl rfl rfl, h, by decide, ?_⟩
  exact fun l h => ⟨Nat.zero_le _, BitVec.lt_of_getLsbD h⟩

/-- SystemRegisters: STATUS with an update of the same cycle, a PREEMPT that a lower part of the wave has written in this cycle, and a watch register. -/
theorem witness_system_writes :
    (∀ ix, ix = 0x13 ∨ ix = 0x22 ∨ ix = 0x24 → badSrset (cp (wbPart 128)) ix ((cp (wbPart 128)).sreg 4) = false)
    ∧ badSrset (cp (wbPart 3)) 0x09 ((cp (wbPart 3)).sreg 4) = false ∧ (3 : W64).getLsbD 1 = true
    ∧ ({ part0 with statusAt := 0, statusNew := 4 } : Part).statusAt = s0.dcc ∧ (4 : BitVec 4).getLsbD (7 - 5) = true
    ∧ (({ part0 with flags := [(0, 2)] } : Part).flags.any (fun e => e.1 == s0.dcc && e.2.getLsbD 1)) = true
    ∧ (∃ b, b < ({ ref0 with base := 32 } : PartRef).base ∧ ({ wave0 with timeoutBy := some (0, 0) } : Wave).timeoutBy = some (s0.dcc, b))
    ∧ ¬ ∃ b, b < ref0.base ∧ wave0.timeoutBy = some (s0.dcc, b) := by
  refine ⟨by rintro ix (rfl | rfl | rfl) <;> decide, by decide, by decide, rfl, by decide, by decide, ⟨0, by decide, rfl⟩, ?_⟩
  rintro ⟨b, h, _⟩; exact absurd h (Nat.not_lt_zero b)

def signalState (base : W64) : State := { s0 with sched := { s0.sched with tenants := [(0, { Tenant.reset with hsigBase := base })] } }
def record (va : Nat) : FaultRec := { ticket := 3, va := va, asid := 1, kind := 4, core := 0, slot := 0, stamp := 0, page := 0, size := 2 ^ 57 }
/-- An address space with a root table and nothing in it. -/
def emptySpace : State := { s0 with mem := writeBytes [] 8 (bytesOfNat 8 0x40001) }
def faultyState : State := { emptySpace with dies := [(0, { Die.reset with faults := [record 0] })] }
/-- A signal on its way to its slice, and the part that waits for it. -/
def post0 : Posted :=
  { id := 7, core := 0, launch := 0, op := none, part := some (ref0, wave0.admission), src := 0, pa := 0x200000 + 8 * 63, what := .signal 5 1 63 0x10004, arrival := 0 }
def postState : State := { sp { part0 with park := .on (.posted 7) } with posted := [post0] }
/-- TranslationAndSignal: a signal with and without an area, and at its slice; a fetch at the end of the address space, from a page that is not there, with and without a record. -/
theorem witness_translation : s0.issuing = some c0 ∧ c0.part.regs.privseg = true ∧ Free c0 true true none none ∧ Plain c0 true ∧ c0.part.ldOps = [] ∧ c0.part.stOps = []
    ∧ s0.partLogged 0 c0.part = false ∧ c0.part.heldOf [.ld, .st] = none
    ∧ Released s0 c0 6 ∧ ((s0.tenant 0).hsigBase).getLsbD 0 = false ∧ (((signalState 0x200001).tenant 0).hsigBase).getLsbD 0 = true
    ∧ (signalState 0x200001).pinned none (0x200000 + 8 * 63) = false ∧ ((signalState 0x200001).die 0).dbgEn = false
    ∧ (postState.part? ref0).map (fun p => p.park) = some (.on (.posted post0.id)) ∧ post0.part = some (ref0, wave0.admission)
    ∧ postState.pinned (some 0) post0.pa = false ∧ postState.lineBusy 0 (post0.pa / 128) = false ∧ postState.bankDelay post0.pa = 0 ∧ (postState.die (dieOfPa post0.pa)).dbgEn = false
    ∧ (1, 63) ∉ (signalState 0x200001).pkg.msixMask ∧ (1, 63) ∈ ({ Package.reset with msixMask := [(1, 63)] } : Package).msixMask
    ∧ (∃ s', s0.fetch 0 1 (0x200000000000000 : W64) = (s', .failed (2 ^ 57) 5)) ∧ HandlerReady c0
    ∧ (let f := emptySpace.fetch 0 1 c0.part.pc; f.2 = .missing 0x10000 42 ∧ f.1.recordFor 0 1 0x10000 = none ∧ f.1.faultRoom 0 = true
      ∧ f.1.pinnedIn none (f.1.postLines 0) = [])
    ∧ (let f := faultyState.fetch 0 1 c0.part.pc; f.2 = .missing 0x10000 42 ∧ f.1.recordFor 0 1 0x10000 = some (record 0)) :=
  ⟨issuing0, rfl, free0 _ _ _, free0 _ _ _, rfl, rfl, by decide, by decide, (fullReady s0 c0 2 6 (by decide) rfl (by decide) rfl (by decide) (by decide)).1,
    by decide, by decide, by decide, by decide, by decide, rfl, by decide, by decide, by decide, by decide, by decide, by decide, ⟨_, rfl⟩, ready0, by decide, by decide⟩

/-! ### Witnesses: waits, walks, engines' events and power -/

def parkedPart (k : Park) : Part := { part0 with park := k }
def failedCopy : Delivery := { engine := true, cls := .cp, code := 9, detail := 1, taddr := 0, tword := 0, op := 7, ticket := 3, tiles := [] }
def copyOp (n : Nat) : CopyOp :=
  { id := 7, slot := 0, admission := 1, group := 0, launch := 0, pc := 0x10000, asid := 1, dir := 0, record := 0x10100, scratch := 0, opm := 0, origin := [0, 0, 0, 0]
    scrBase := 0, scrBytes := 131072, ticket := n, promise := 300, issued := 0, due := 0, recBytes := [], moved := 0, newer := [], status := .running }
def withCopy (s : State) : State := { s with cores := [(0, { Core.reset with copyQ := [copyOp 3] })] }
def missPart : Part := { part0 with ldOps := [7], park := .on .ldZero }
def missState : State := { opState missPart (opOf0 .ld (.load 0 48 1) [access 4 [] 1 .ready]) with dcc := 31 }
def joinPart (j : JoinAt) : Part := parkedPart (.join 0x10100 0x110100 j)

set_option maxRecDepth 8000 in
/-- WaitsEnd: each wait at the cycle that ends it; a miss of the last lane; a join in each of its states, at a local and at a host page's counter. -/
theorem witness_waits :
    (sp (parkedPart (.conf 0 0))).confDue wave0 (parkedPart (.conf 0 0)) = true
    ∧ (∃ t, (parkedPart (.sleep 0)).park = .sleep t ∧ t ≤ (0 : Nat))
    ∧ (promiseDue 300 300 = true ∧ (parkedPart (.pwait 300 3 9)).copyFailure 3 = none
      ∧ (sp (parkedPart (.pwait 300 3 9))).ticketOut 0 (parkedPart (.pwait 300 3 9)) 3 = false
      ∧ (withCopy (sp { parkedPart (.pwait 300 3 9) with cpOps := [7] })).ticketOut 0 { parkedPart (.pwait 300 3 9) with cpOps := [7] } 3 = true)
    ∧ (let p := { parkedPart (.forced 64) with width := 32, cur := laneRange 0 32 }
      let w := { wave0 with parts := [p, { part0 with base := 32, width := 32, park := .barrier 0 0 }] }
      (mk p w placedGroup placedLaunch).fuseFailDue w p = some (3, 32))
    ∧ (forkState { near := [], far := [] }).forkDue { forkCtx { near := [], far := [] } with part := parkedPart (.fork (taskOf (cp forkPart) 8) (some 0)) }
      = some (taskOf (cp forkPart) 8)
    ∧ (missState.missDue missPart = true ∧ missPart.regs.minw = 1 ∧ missState.awaiting missPart &&& laneRange 0 4 = 0 ∧ missState.awaiting missPart &&& laneRange 60 4 ≠ 0)
    ∧ (mem0 (joinPart (.reading 0))).pinned (some 0) 0x110100 = false ∧ (mem0 (joinPart (.reading 0))).lineBusy 0 (0x110100 / 128) = false ∧ natOfBytes (readBytes (mem0 (joinPart (.reading 0))).mem 0x110100 8) = 0
    ∧ natOfBytes (readBytes (mem0 (joinPart (.waiting 1))).mem 0x110100 8) ≠ 1 ∧ paClass 0x110100 ≤ 1 ∧ 1 < paClass (2 ^ 51) := by
  refine ⟨by decide, ⟨0, rfl, Nat.le_refl _⟩, ?_⟩
  decide

def walkAccess : Access := { access 4 [] 1 .walk with pa := 0 }
def walk1 : Walk := { id := 5, core := 0, asid := 1, va := 0x10100, since := 0, made := 0, due := some 0, discarded := false }
/-- The same walk after some of its references. -/
def walkAt (made : Nat) : Walk := { walk1 with made := made }
def walkState (m : List Host.Cell) (w : Walk) : State := { opState { part0 with ldOps := [7] } (opOf0 .ld (.load 0 48 1) [walkAccess]) with mem := m, walks := [w] }
def ticketPart : Part := parkedPart (.on (.ticket 0 3 0x10000))
def pin1 : Pin := { line := 0x2202, core := 0, slot := 0, admission := 1, refused := some 0, demanded := false }

set_option maxRecDepth 8000 in
/-- WalksAndReplies: a walk before its first and its last reference, one that ends at a leaf and one at a page that is not there; a ticket of a load, of a part and of nothing; an expired pin; an idle and
a waking bank. -/
theorem witness_walks :
    (∀ n < 4, (walkState tables (walkAt n)).walkReady (walkAt n) = true ∧ (walkState tables (walkAt n)).walkOn (walkAt n) = true
      ∧ (walkState tables (walkAt n)).pinnedIn none ((walkState tables (walkAt n)).walkNext (walkAt n)) = [])
    ∧ (let s := walkState tables (walkAt 4)
      s.walks.find? (fun y => y.id == 5) = some (walkAt 4) ∧ s.walkReady (walkAt 4) = true ∧ s.walkOn (walkAt 4) = false
      ∧ (s.op? 7).map (fun o => o.waitsFor (walkAt 4)) = some true ∧ s.walk 0 1 0x10100 = .leaf 0x11001F 16
      ∧ s.leafFault .read 0x11001F (paOf 0x11001F 16 0x10100) = none ∧ inWalk (walkAt 4) walkAccess = true
      ∧ s.pinnedIn none (s.walkNext (walkAt 4)) = [])
    ∧ (let s := walkState emptySpace.mem (walkAt 1)
      s.walkReady (walkAt 1) = true ∧ s.walkOn (walkAt 1) = false ∧ s.pinnedIn none (s.walkNext (walkAt 1)) = [] ∧ s.walk 0 1 0x10100 = .nonPresent 42
      ∧ s.recordFor 0 1 0x10100 = none ∧ s.pinnedIn none (s.postLines 0) = [])
    ∧ (faultyState.answers = true ∧ (faultyState.die 0).faults.find? (fun g => g.ticket == (3 : W64).toNat % 2 ^ 32) = some (record 0) ∧ (3 : W64).getLsbD 32 = false
      ∧ (0x100000003 : W64).getLsbD 32 = true ∧ faultyState.ticketParts 0 3 = []
      ∧ (sp ticketPart).ticketParts 0 3 = [(ref0, 0x10000)] ∧ (sp ticketPart).heldOps 0 3 = [] ∧ (sp ticketPart).heldCopies 0 3 = [] ∧ (sp ticketPart).heldMmas 0 3 = [])
    ∧ (let s := { s0 with pins := [pin1], dcc := 65536 }
      s.pin? 0x2202 = some pin1 ∧ s.pinExpired pin1 = true ∧ (s.wave? 0).map (fun w => w.admission) = some pin1.admission)
    ∧ (let b := getT Bank.reset ({ s0 with dcc := 4096 } : State).banks 5
      b.wake = none ∧ b.drowsy = false ∧ b.last + 4096 ≤ 4096)
    ∧ (getT Bank.reset ({ s0 with banks := [(5, { Bank.reset with drowsy := true, wake := some 12 })], dcc := 12 } : State).banks 5).wake = some 12 := by
  decide

/-- A record of one row of eight 16-bit elements at 0x10200. -/
def recordBytes : List Byte :=
  [0, 1, 2, 0, 0, 0, 0, 0] ++ bytesOfNat 8 0x10200 ++ List.replicate 16 0 ++ [8, 0, 0, 0] ++ List.replicate 140 0 ++ [8, 0] ++ List.replicate 78 0
def engineMem : List Host.Cell := writeBytes (writeBytes tables 0x110100 recordBytes) 0x110200 [1, 2, 3]
def copyState : State := withCopy { sp { part0 with cpOps := [7] } with mem := engineMem }
def mmaOp0 : MmaOp :=
  { id := 7, slot := 0, admission := 1, group := 0, launch := 0, pc := 0x10000, asid := 1, zeroOnly := false, aty := 2, bty := 2, m := 1, n := 1, k := 8, z := true
    period := 1, tile := 15, t0 := 0, srcA := 0, srcB := 0x10100, memA := false, memB := true, gcode := 0, scrBase := 0, scrBytes := 131072, co := false, logw := 0
    logh := 0, inst := 0, released := true, idx := 0, row := 0, partials := [], streamA := Stream.idle
    streamB := { Stream.idle with record := recordBytes, next := some 0 }, issued := 0, start := 1, finish := none, status := .running, fail := none, badTile := none }
def mmaState (o : MmaOp) : State :=
  { sp { part0 with mxOps := [7] } with mem := engineMem, cores := [(0, { Core.reset with matrixQ := [o] })] }
def coopOp : MmaOp := { mmaOp0 with co := true, logw := 1, released := false, memB := false, streamB := Stream.idle }
def coopState : State :=
  { mk { part0 with mxOps := [7] } wave0 placedGroup { placedLaunch with logw := 1 } with cores := [(0, { Core.reset with matrixQ := [coopOp] }), (1, { Core.reset with matrixQ := [coopOp] })], groups := [(0, placedGroup), (1, { placedGroup with core := 1, num := 1 })], dcc := 88 }

set_option maxRecDepth 40000 in
/-- EngineEvents: a copy of one row, a matrix operation that is over, with a failure and without, an instance of two cores, and the first step of a stream. -/
theorem witness_engine_events :
    (copyState.copy? 7 = some (0, copyOp 3) ∧ copyState.copyDue 0 (copyOp 3) = true ∧ (copyOp 3).dir = 0
      ∧ (copyOp 3).moved = 0 ∧ (copyOp 3).recBytes = [] ∧ (copyState.recordBytes 0 1 0x10100).2.toOption = some recordBytes
      ∧ (Tensor.ofBytes recordBytes).wellFormed recordBytes = true ∧ (Tensor.ofBytes recordBytes).scaleFault [0, 0, 0, 0] = none
      ∧ 0 + (Tensor.ofBytes recordBytes).image ≤ (copyOp 3).scrBytes
      ∧ (let tr := Tensor.ofBytes recordBytes
        let s1 := (copyState.recordBytes 0 1 0x10100).1.updCopy 0 7 (fun q => { q with recBytes := recordBytes })
        let r := s1.stepsReady 0 1 false (tr.steps.map (tr.stepAddrs [0, 0, 0, 0])) [] 0
        r.2.1 = [(1, 0x110000)] ∧ r.2.2.2.isNone = true))
    ∧ (let o := { mmaOp0 with finish := some 0 };
      (mmaState o).mma? 7 = some (0, o) ∧ (mmaState o).mmaOver 0 o = true ∧ o.fail = none)
    ∧ (let o := { mmaOp0 with finish := some 0, fail := some (0x0B, 3), zeroOnly := true };
      (mmaState o).mma? 7 = some (0, o) ∧ (mmaState o).mmaOver 0 o = true)
    ∧ (coopState.mma? 7 = some (0, coopOp) ∧ coopState.coopReady 0 coopOp = true)
    ∧ ((mmaState mmaOp0).mma? 7 = some (0, mmaOp0) ∧ risingFrom 0 (mmaState mmaOp0).cores = true ∧ (mmaState mmaOp0).streamDue mmaOp0 false = true ∧ (mmaState mmaOp0).streamDue mmaOp0 true = false
      ∧ mmaOp0.co = false ∧ (mmaOp0.stream false).record ≠ []
      ∧ ((mmaState mmaOp0).streamStep 0 mmaOp0 false 0).2.toOption = some [(0, 1), (1, 2), (2, 3)]) := by
  and_intros <;> first | decide +kernel | rfl

def clusterState (k : Cluster) : State := { State.reset with clusters := [(0, k)] }
def back1 : Back := { id := 7, core := 0, line := 0x2202, kind := 0, sectors := 1, data := [(0, 9)], written := 1, whole := true, src := 0, due := 100 }
def awake0 : Cluster := { Cluster.reset 0 with state := .awake }
set_option maxRecDepth 8000 in
/-- PowerSteps: a cluster below zero for 256 cycles, the end of an interval, an idle cluster at its 64th cycle, a commit 16 cycles after the last write-back, which waits
for those of gating alone, the end of a wake; the limits of CAP and of a table; a tile to clear. -/
theorem witness_power :
    (let k := { awake0 with allow := -1, negCycles := 256 };
      (clusterState k).cluster 0 = k ∧ k.allow < 0 ∧ 256 ≤ k.negCycles ∧ k.struckAll = false)
    ∧ ({ clusterState awake0 with dcc := 1200 } : State).intervalEnds 0 = true
    ∧ (clusterState { awake0 with idle := 64 }).gatingDue 0 = true
    ∧ (let s := withDirty (clusterState { awake0 with idle := 64 }) 0x2202;
      s.gatingDue 0 = true ∧ 0 ∈ clusterCores 0 ∧ s.dirtyLines 0 = 0x2202 :: [] ∧ ∃ l, s.l1Line? 0 0x2202 = some l ∧ l.dirty ≠ 0)
    ∧ ((clusterState awake0).answers = true ∧ ({ clusterState awake0 with pkg := { Package.reset with fwState := 2 } } : State).answers = false)
    ∧ ({ clusterState { awake0 with state := .gating, railPend := some 3 } with dcc := 16 } : State).commitDue 0 = true
    ∧ (let k := { awake0 with state := .gating, sentWbs := [7] };
      ({ clusterState k with dcc := 16, backs := [{ back1 with id := 7 }] } : State).commitDue 0 = false
      ∧ ({ clusterState k with dcc := 16, backs := [{ back1 with id := 6 }] } : State).commitDue 0 = true)
    ∧ (let k := { awake0 with state := .waking };
      ({ clusterState k with dcc := 2400 } : State).cluster 0 = k ∧ k.since + 2400 ≤ 2400)
    ∧ (0 < (0x7FFFFFFF0001 : W64).toNat / 2 ^ 16 % 2 ^ 32 ∧ (0x7FFFFFFF0001 : W64).toNat / 2 ^ 16 % 2 ^ 32 < 2 ^ 31)
    ∧ 2 ^ 31 ≤ (0x800000000001 : W64).toNat / 2 ^ 16 % 2 ^ 32
    ∧ ((∀ n < 16, (Cluster.reset 0).ramp n ≤ 64) ∧ ∀ n < 15, (Cluster.reset 0).ramp n ≤ (Cluster.reset 0).ramp (n + 1))
    ∧ (∃ n < 16, 64 < ({ Cluster.reset 0 with ramp1 := 0x4138343030282420 } : Cluster).ramp n)
    ∧ (let o := { mmaOp0 with zeroOnly := true };
      ({ mmaState o with dcc := 1 } : State).slewBusy 0 = true ∧ (({ mmaState o with dcc := 1 } : State).core 0).served = some o ∧ o.start ≠ 0 ∧ o.start ≤ 1
      ∧ 0 ∈ clusterCores 0 ∧ ∀ k ∈ clusterCores 0, k ≠ 0 → ((mmaState o).core k).served = none) := by decide

/-! ### Witnesses: the scheduler and launches -/

/-- A segment of one kernel: one group of 64 lanes, entered 256 bytes in. -/
def segmentMem : List Host.Cell :=
  tables ++ [(0x11041C, 64), (0x110420, 1), (0x110440, 128), (0x110482, 0x10), (0x110483, 5), (0x110485, 1), (0x110488, 64)]
def segment0 : Segment := { asid := 1, va := 0x10400, dst := 0x110400, size := 512, privseg := false }
/-- LAUNCH of that kernel in one core, and the other commands. -/
def launchCmd (ngroups : Nat) : List Byte := [1, 0, 0, 0, 0, 0, 0, 0] ++ bytesOfNat 8 0x10400 ++ bytesOfNat 4 ngroups ++ bytesOfNat 20 0 ++ List.replicate 16 0xFF ++ bytesOfNat 8 0
def nopCmd : List Byte := List.replicate 64 0
def wordCmd (kind : Byte) (va v : Nat) : List Byte := [kind, 0, 0, 0, 0, 0, 0, 0] ++ bytesOfNat 8 va ++ bytesOfNat 8 v ++ List.replicate 40 0
def loadCmd : List Byte := [4, 0, 5, 0, 0, 0, 0, 0] ++ bytesOfNat 8 0x10800 ++ bytesOfNat 4 192 ++ List.replicate 44 0
/-- An image of one node that launches the kernel, as bytes and as memory holds it. -/
def graphImage (nodes : Nat) : List Byte := bytesOfNat 8 nodes ++ List.replicate 56 0 ++ launchCmd 1 ++ List.replicate 64 0
def graphMem : List Host.Cell :=
  segmentMem ++ [(0x110800, 1), (0x110840, 1), (0x110849, 4), (0x11084A, 1), (0x110850, 1)] ++ (List.range 16).map (fun i => (0x110868 + i, 0xFF))
def queue0 (b : List Byte) : Queue := { Queue.reset with en := true, tail := 1, asid := 1, buffer := [b] }
def queueOf (q : Queue) (graphs : List Graph) (insts : List GraphInst) : State :=
  { State.reset with mem := graphMem, pkg := { Package.reset with segments := [segment0] }
                     sched := { Sched.reset with queues := [(3, q)], graphs := graphs, insts := insts } }
def cmdState (b : List Byte) : State := queueOf (queue0 b) [] []

theorem graph_read : (cmdState loadCmd).schedBytes 1 .read 0x10800 192 = some (graphImage 1) := by
  rw [Laws.schedBytes_page (cmdState loadCmd) 1 .read 0x11001F 16 192 0x10800 (by decide +kernel) (by decide +kernel)]
  decide +kernel

/-- QueueCommands: each command at a queue's head, an error of each kind, and the loaded graph. -/
theorem witness_queue_commands :
    (cmdState nopCmd).headAt 3 = .cmd nopCmd ∧ (cmdState (wordCmd 5 0 0)).headAt 3 = .bad 1
    ∧ ((queueOf { queue0 (wordCmd 2 0x10100 0) with pollOk := true } [] []).headKind 3 = some 2)
    ∧ ((cmdState (wordCmd 2 0x10100 9)).pollDue 3 = true ∧ (cmdState (wordCmd 2 0x10100 9)).schedBytes 1 .read 0x10100 8 = some (bytesOfNat 8 0)
      ∧ (cmdState (wordCmd 2 0x10100 9)).schedPins 1 0x10100 8 = [] ∧ (cmdState (wordCmd 2 0x20000 9)).schedPins 1 0x20000 8 = []
      ∧ (cmdState (wordCmd 2 0x20000 9)).schedBytes 1 .read 0x20000 8 = none ∧ (cmdState (wordCmd 2 0x20000 9)).pollDue 3 = true
      ∧ (let s := { cmdState (wordCmd 2 0x10100 9) with pins := [{ pin1 with refused := none }] };
        s.pollDue 3 = true ∧ s.schedPas 1 0x10100 = [0x110100] ∧ pin1.line = 0x110100 / 128))
    ∧ ((cmdState (wordCmd 3 0x10100 9)).headKind 3 = some 3 ∧ (cmdState (wordCmd 3 0x10100 9)).queueIdle 3 = true
      ∧ (cmdState (wordCmd 3 0x10100 9)).schedPa 1 0x10100 = some 0x110100 ∧ (cmdState (wordCmd 3 0x10100 9)).schedPins 1 0x10100 8 = [])
    ∧ ((cmdState (launchCmd 0)).launchReady 3 = true ∧ (cmdState (launchCmd 0)).validate ((cmdState (launchCmd 0)).queueOrigin 3) (launchCmd 0) = .error 1)
    ∧ ((cmdState (launchCmd 1)).launchReady 3 = true
      ∧ ((cmdState (launchCmd 1)).validate ((cmdState (launchCmd 1)).queueOrigin 3) (launchCmd 1)).toOption.map (fun l => l.kernel.entry) = some 0x10500)
    ∧ ((cmdState loadCmd).graphloadReady 3 = true ∧ (cmdState loadCmd).schedPins 1 0x10800 192 = [] ∧ (cmdState loadCmd).schedBytes 1 .read 0x10800 192 = some (graphImage 1) ∧ freePlace [] 192 = some 0
      ∧ badGraph (graphImage 1) 192 = false ∧ badGraph (graphImage 0) 192 = true
      ∧ ((cmdState loadCmd).validate (graphOf ((cmdState loadCmd).queueOrigin 3) 5 (graphImage 1)).origin (launchCmd 1)).toOption.isSome = true) := by
  and_intros <;> first | with_reducible exact graph_read | decide +kernel | rfl

def graph0 : Graph :=
  { tenant := 0, gid := 5, queue := 3, prio := 0, asid := 1, domain := 0, privq := false, nodes := [launchCmd 1 ++ List.replicate 64 0], npred := [0], succs := [[]]
    doneAddr := 0x10100, doneVal := 1 }
def inst0 (running : Bool) : GraphInst :=
  { tenant := 0, gid := 5, patch := 0, running := running, arrived := 0, nodes := graph0.nodes, launched := [], completed := [] }
/-- Doorbells: a tail at and past the ring's capacity, a stopped queue; a trigger with and without its graph, of an idle graph, behind one instance and behind five. -/
theorem witness_doorbells : mayTenant (.tenant 0) 0 = true ∧ mayTenant (.tenant 1) 0 = false ∧ (cmdState nopCmd).answers = true
    ∧ (let q := queue0 nopCmd; 2 ^ q.logn < ((17 : W64).extractLsb' 0 32 - q.head).toNat ∧ ¬ 2 ^ q.logn < ((16 : W64).extractLsb' 0 32 - q.head).toNat)
    ∧ (queueOf { queue0 nopCmd with stop := true } [] []).queue 3 = { queue0 nopCmd with stop := true }
    ∧ (((cmdState nopCmd).tenant 0).flrAt ≠ some 0 ∧ (cmdState nopCmd).graph? 0 5 = none)
    ∧ ((queueOf (queue0 nopCmd) [graph0] []).graph? 0 5 = some graph0 ∧ (queueOf (queue0 nopCmd) [graph0] []).graphInsts 0 5 = [])
    ∧ (let s := queueOf (queue0 nopCmd) [graph0] [inst0 true];
      (s.graphInsts 0 5).filter (fun x => !x.running) = [] ∧ ∃ x ∈ s.graphInsts 0 5, x.running = true)
    ∧ (let s := queueOf (queue0 nopCmd) [graph0] [inst0 true, inst0 false, inst0 false, inst0 false, inst0 false];
      4 ≤ ((s.graphInsts 0 5).filter (fun x => !x.running)).length) := by decide

def tinyKernel : Kernel := { placedKernel with width := 4, allot := 8, nbar := 0, nacc := 0, scr := 0, lanes := 4 }
def waiting0 : Launch := { placedLaunch with kernel := tinyKernel, at_ := .waiting, admitted := 0, chanCores := [], numbered := 0 }
def dequeOf (near : List Task) : Deque := { near := near, far := [] }
def taskLaunch (ds : List (Nat × Deque)) : Launch :=
  { placedLaunch with kernel := tinyKernel, classes := [(0, tinyKernel)], logw := 1, admitted := 1, deques := ds }
def emptyState (l : Launch) : State := { State.reset with launches := [(0, l)], mem := tables, clusters := [(0, awake0)] }
def task0 : Task := taskOf (cp forkPart) 8
/-- A steal round of core 0 whose answers are back. -/
def roundState (ds : List (Nat × Deque)) : State := { emptyState { taskLaunch ds with stealing := [(0, 0)] } with dcc := 88 }

/-- A draw whose pixel kernel is small, with a pixel wave to admit. -/
def shadeDraw : Draw := { draw0 with pixel := tinyKernel }
def shadeLaunch : Launch := { waiting0 with at_ := .placed, draw := some shadeDraw, pixels := [pixels0], admitted := 1 }
/-- LaunchesRun: a launch that fits, its first group, the groups of a co-resident launch, a pixel wave, a task of its own core and of a neighbour, a round without one, a counter, and a launch in each of its last stages. -/
theorem witness_launches :
    (emptyState waiting0).placeAt 0 waiting0 = some (0, 0)
    ∧ (let l := { waiting0 with at_ := .placed }
      let s := { emptyState l with dcc := 24 };
      s.launch? 0 = some l ∧ (s.pixelTaken 0 0).isNone = true ∧ l.admitted < l.ngroups ∧ l.cor = false
      ∧ l.offerOrder.find? (fun k => (s.offerTaken 0 k).isSome) = some 0)
    ∧ (let l := taskLaunch [(0, dequeOf [task0])]; (l.deque 0).pop = some (task0, dequeOf []) ∧ ((emptyState l).ownTask 0 0).isSome = true)
    ∧ (emptyState (taskLaunch [])).stealDue 0 0 = true
    ∧ (let s := roundState []; s.roundSince 0 0 = some 0 ∧ s.wantsTask 0 0 = true ∧ (s.stealFrom 0 0 0).isNone = true ∧ 0 + sliceLatency (dieOf 0) (dieOf 1) ≤ s.dcc)
    ∧ (let l := taskLaunch [(1, dequeOf [task0])]
      let s := roundState [(1, dequeOf [task0])];
      s.roundSince 0 0 = some 0 ∧ s.wantsTask 0 0 = true ∧ l.victims 0 = [] ++ 1 :: [] ∧ (l.deque 1).steal = some (task0, dequeOf [])
      ∧ (s.startGroup 0 0 (taskReq l task0)).isSome = true)
    ∧ (let e : JoinDec := { group := 7, launch := 0, addr := 0x10100, asid := 1, core := 0, relAt := some 0, arrival := some 0 }
      (match ({ emptyState placedLaunch with joinDecs := [e] } : State).decAt e with | .go pa => pa | _ => 0) = 0x110100)
    ∧ (let l := { waiting0 with at_ := .placed, cor := true, logw := 1, ngroups := 2 }
      let s := { emptyState l with dcc := 24 };
      s.launch? 0 = some l ∧ (s.pixelTaken 0 0).isNone = true ∧ l.admitted < l.ngroups ∧ l.offerOrder.find? (fun k => (s.offerTaken 0 k).isSome) = some 0)
    ∧ (let s := { emptyState shadeLaunch with dcc := 24 };
      s.launch? 0 = some shadeLaunch ∧ shadeLaunch.draw = some shadeDraw ∧ shadeLaunch.pixels.find? (fun w => w.die == dieOf 0) = some pixels0
      ∧ s.accepts shadeLaunch 0 = true ∧ (s.startGroup 0 0 (pixelReq shadeLaunch shadeDraw pixels0)).isSome = true
      ∧ (∀ e ∈ pixels0.lanes, e.1 < 64) ∧ pixels0.lanes.Pairwise (fun a b => a.1 ≠ b.1))
    ∧ (placedLaunch.channels = [] ∨ placedLaunch.chanCores = [])
    ∧ (let l := { placedLaunch with exitedGroups := 1 }; l.at_ ≠ .completed ∧ (emptyState l).launchOver 0 l = true)
    ∧ (let l := { placedLaunch with exitedGroups := 1, at_ := .completed }; (emptyState l).writesPerformed 0 = true ∧ l.relAt = none ∧ l.node = none) := by decide +kernel

/-- A victim of lower priority on core 0, and a launch that needs the core. -/
def victimLaunch : Launch := { placedLaunch with at_ := .saving 0 }
def blocker : Launch := { waiting0 with kernel := placedKernel, prio := 1 }
def saveState (k : Park) : State := { mk { part0 with park := k } wave0 placedGroup victimLaunch with dcc := 65536 }
def savedImage : SaveImage :=
  { waves := [{ wave0 with parts := [{ part0 with park := .saved 0 [] }] }], groups := [(0, placedGroup)], scratch := [], acc := [], copies := [], matrix := [], validRegs := []
    validLines := [], written := 0 }
def savedLaunch : Launch := { placedLaunch with at_ := .saved, image := some savedImage, chanCores := [] }
def blockedState : State :=
  { sp part0 with launches := [(0, placedLaunch), (1, blocker)], cores := [(0, debitBanks Core.reset (wave0.banks 0 64) 256)], clusters := [(0, awake0)] }

/-- A part with an atomic that is about to perform. -/
def busyState : State := { saveState .running with ops := [{ opOf0 .ld (.atom 2 (some (0, 48))) [{ access 4 [] 1 .done with due := 90000 }, access 4 [] 1 .walk] with id := 7 }] }
/-- PreemptionRuns: a victim for a blocked launch; a wait of a quantum and the end of protection; a part whose time is over, one at a `conf` and one with an operation that
is partly performed; a victim that is saved, before and after its release; a saved launch whose core is free. -/
theorem witness_preemption :
    blockedState.firstBlocked = some (1, blocker) ∧ blockedState.victims 1 blocker = [0]
    ∧ ({ emptyState waiting0 with dcc := 2400000 } : State).becomesDue waiting0 = true
    ∧ ({ emptyState { placedLaunch with protectedUntil := some 5 } with dcc := 5 } : State).protectionOver { placedLaunch with protectedUntil := some 5 } = true
    ∧ ((saveState .running).overdueParts 0 = [ref0] ∧ (saveState .running).part? ref0 = some part0 ∧ (saveState .running).partOps part0 = [])
    ∧ (saveState (.conf 3 70000)).overdueParts 0 = [ref0] ∧ (saveState (.sleep 70000)).overdueParts 0 = [ref0] ∧ busyState.restartReady { part0 with ldOps := [7] } = false
    ∧ ((saveState (.saved 0 [])).releaseDue 0 = true ∧ victimLaunch.relAt = none)
    ∧ ({ saveState (.saved 0 []) with launches := [(0, { victimLaunch with relAt := some 100 })] } : State).victimDue 0 = true
    ∧ ((emptyState savedLaunch).restoreAt 0 savedLaunch = some (0, 0) ∧ savedLaunch.image = some savedImage
      ∧ ((emptyState savedLaunch).restoredAt 0 savedLaunch (0, 0)).isSome = true) := by decide +kernel

/-! ### Witnesses: the host and the management controller -/

/-- A segment image of 512 bytes at 0x120000: one kernel of one wave whose code is `entry` and `exit`; its digest is the SHA3-256 of its header and code. -/
def imageMem : List Host.Cell :=
  tables ++ [(0x120000, 0x46), (0x120001, 0x4B), (0x120002, 0x33), (0x120003, 0x53), (0x120004, 0x01), (0x120009, 0x02), (0x12000D, 0x01), (0x120010, 0x08), (0x12001C, 0x40),
    (0x120020, 0x01), (0x120028, 0x80), (0x120040, 0x60), (0x120060, 0x03), (0x120062, 0x08), (0x120063, 0xA5), (0x120065, 0x01), (0x120068, 0x40), (0x12006C, 0x01),
    (0x120080, 0x77), (0x120081, 0x4F), (0x120082, 0xAC), (0x120083, 0x8E), (0x120084, 0x04), (0x120085, 0xB9), (0x120086, 0x37), (0x120087, 0x40), (0x120088, 0x59),
    (0x120089, 0xC3), (0x12008A, 0x5B), (0x12008B, 0x9E), (0x12008C, 0x9A), (0x12008D, 0xE9), (0x12008E, 0xFA), (0x12008F, 0x5A), (0x120090, 0xA5), (0x120091, 0x55),
    (0x120092, 0xD3), (0x120093, 0xFB), (0x120094, 0xED), (0x120095, 0xAE), (0x120096, 0xC1), (0x120097, 0x0D), (0x120098, 0x37), (0x120099, 0xED), (0x12009A, 0xA4),
    (0x12009B, 0x28), (0x12009C, 0x0B), (0x12009D, 0x1A), (0x12009E, 0x80), (0x12009F, 0x9D), (0x120102, 0x80), (0x120103, 0x02), (0x120106, 0x40), (0x120107, 0x02)]
/-- A request under way: OP and arguments. -/
def requestState (op : BitVec 8) (args : List (Nat × W64)) : State :=
  { State.reset with mem := imageMem, pkg := { Package.reset with mbState := 1, mbOp := op, mbArg := args, mbCopy := args } }
/-- LOAD from a place to 0x120000, for ASID 1 at an address, reporting at 0x140000. -/
def loadArgsAt (src va : W64) : List (Nat × W64) := [(0, src), (1, 0x120000), (2, 1), (3, va), (4, 0x140000)]
def loadState : State := requestState 1 (loadArgsAt 0x120000 0x20000)
theorem load_copy : (loadState.putLong 3 0 0x120000 (readBytes loadState.mem 0x120000 512)).mem = imageMem := by decide +kernel

/-- HostRegisters: a package that answers, one in recovery and one after a fatal error; PF0 and a tenant at its own queue. -/
theorem witness_host_registers : State.reset.pkg.fwState ≠ 2 ∧ State.reset.pkg.fwState ≠ 3 ∧ State.reset.pkg.mbState ≠ 1
    ∧ ({ Package.reset with fwState := 2 } : Package).fwState = 2 ∧ (.pf0 : Source) = .pf0 ∧ mayTenant (.tenant 0) (State.reset.queue 63).tenant = true
    ∧ mayTenant (.tenant 3) 3 = true ∧ (0x8000000000000001 : W64).getLsbD 63 = true := by decide

/-- MailboxRequests: a LOAD with a bad address, of an empty image, over a loaded segment, without page tables and of a sound image; each of the other requests. -/
theorem witness_mailbox :
    (loadState.serves 1 = true ∧ (requestState 1 (loadArgsAt 0x120080 0x20000)).pkg.loadArgs.err ≠ 0)
    ∧ ((requestState 1 (loadArgsAt 0x121000 0x20000)).pkg.loadArgs.err = 0 ∧ imageNat (fun o => readByte imageMem (0x121000 + o)) 8 4 = 0)
    ∧ (let s := { loadState with pkg := { loadState.pkg with segments := [{ segment0 with va := 0x20000 }] } }; s.segOverlap 1 0x20000 512 = true)
    ∧ (let s := requestState 1 (loadArgsAt 0x120000 0x40000000000);
      s.pkg.loadArgs.err = 0 ∧ s.earlyFault s.pkg.loadArgs (fun o => readByte s.mem (0x120000 + o)) = some (1, 0))
    ∧ (loadState.pkg.loadArgs.err = 0 ∧ loadState.segOverlap 1 0x20000 512 = false
      ∧ loadState.earlyFault loadState.pkg.loadArgs (fun o => readByte loadState.mem (0x120000 + o)) = none
      ∧ imageFault (fun o => readByte imageMem (0x120000 + o)) false = none ∧ (loadStages imageMem 0x120000).toOption.isSome = true)
    ∧ (let s := { requestState 2 [(2, 1), (3, 0x20000)] with pkg := { (requestState 2 [(2, 1), (3, 0x20000)]).pkg with segments := [{ segment0 with va := 0x20000 }] } };
      s.serves 2 = true ∧ s.unloadTarget.toOption = some { segment0 with va := 0x20000 } ∧ s.segmentQuiet { segment0 with va := 0x20000 } = true)
    ∧ ((requestState 2 [(3, 0x20000)]).serves 2 = true ∧ (requestState 2 [(3, 0x20000)]).unloadTarget.toOption = none)
    ∧ ((requestState 3 [(4, 0x140000)]).serves 3 = true ∧ goodArg ((requestState 3 [(4, 0x140000)]).pkg.arg 32 8) 64 true = true
      ∧ goodArg ((requestState 3 [(4, 0x140008)]).pkg.arg 32 8) 64 true = false ∧ ∀ i < 8, (getT (List.replicate 32 0) (requestState 3 []).pkg.meas i).length = 32)
    ∧ ((requestState 4 [(0, 0x121000), (1, 4)]).serves 4 = true ∧ (requestState 4 [(0, 0x121000), (1, 4)]).pkg.arg 8 4 ≤ 67108864 + 4096
      ∧ goodArg ((requestState 4 [(0, 0x121000), (1, 4)]).pkg.arg 0 8) 4096 true = true ∧ fwLayout (readBytes imageMem 0x121000 4) = false)
    ∧ ({ Package.reset with mbState := 1, mbResult := some 4 } : Package).fwState ≠ 2
    ∧ (let p := { Package.reset with mbState := 1, mbResult := some 0, mbOp := 4, fwState := 2, msixMask := [(0, 0)] };
      p.mbResult = some 0 ∧ p.mbState = 1 ∧ p.fwState = 2 ∧ p.mbOp = 4 ∧ (0, 0) ∈ p.msixMask) := by
  and_intros <;> decide +kernel

/-- The image with one byte of its code changed. -/
def changedMem (a : Nat) (b : Byte) : List Host.Cell := writeByte imageMem a b
/-- MailboxRequests: an image whose header names more than there is, and one whose digest is not its code's, both after the early checks. -/
theorem witness_mailbox_images :
    (let rd := fun (o : Nat) => readByte (changedMem 0x120060 4) (0x120000 + o)
      let s := { loadState with mem := changedMem 0x120060 4 }
      s.earlyFault s.pkg.loadArgs rd = none ∧ (imageFault rd false).isSome = true)
    ∧ (let rd := fun (o : Nat) => readByte (changedMem 0x120102 0x81) (0x120000 + o)
      let s := { loadState with mem := changedMem 0x120102 0x81 }
      s.earlyFault s.pkg.loadArgs rd = none ∧ imageFault rd false = none ∧ (loadStages (changedMem 0x120102 0x81) 0x120000).toOption.isSome = false) := by decide +kernel

def openPkg : Package := { Package.reset with apEn := true, apStart := 0 }
def tapTenant : Tenant := { Tenant.reset with tapEn := true, tapAsid := 1 }
def hostState : State := { s0 with mem := tables, pkg := openPkg, sched := { Sched.reset with tenants := [(2, tapTenant)] }, dies := [(0, { Die.reset with halted := true, haltAt := some 0 })] }
/-- HostAccesses: both apertures open, at their last offsets and past them; a register of a halted die and a descriptor; a halt that is due; a package after a fatal error and
one in recovery. -/
theorem witness_host_accesses :
    (hostState.pkg.apEn = true ∧ 2 ^ 32 - 8 < 2 ^ 32 ∧ paClass (2 ^ 32 - 8) ≤ 1 ∧ paOk (2 ^ 32 - 8) = true ∧ hostState.pkg.fwState ≠ 2 ∧ hostState.pkg.fwState ≠ 3
      ∧ hostState.pinned none (2 ^ 32 - 8) = false ∧ hostState.pinned none (2 ^ 32 - 8 + 8 - 1) = false ∧ ¬ 2 ^ 32 < 2 ^ 32)
    ∧ ((hostState.tenant 2).tapEn = true ∧ (hostState.tenant 2).tapva.toNat + 0x1FFF8 < 2 ^ 57 ∧ hostState.walk 0 1 0x1FFF8 = .leaf 0x11001F 16
      ∧ hostState.leafFault .write 0x11001F (paOf 0x11001F 16 0x1FFF8) = none ∧ hostState.walk 0 1 0x20000 = .nonPresent 16 ∧ (hostState.tenant 1).tapEn = false)
    ∧ (opmRegion (0xFC : Nat) = 0 ∧ 0xFC % 4 = 0 ∧ (hostState.wave? (opmCore 0xFC * 128 + (opmReg 0xFC).1)).isSome = true
      ∧ (opmReg 0xFC).1 < 128 ∧ (hostState.die (dieOf (opmCore 0xFC))).halted = true ∧ (State.reset.die (dieOf (opmCore 0xFC))).halted = false ∧ opmRegion (3 * 2 ^ 30 : Nat) = 3)
    ∧ ((hostState.die 0).haltAt = some 0 ∧ (1 : W64).getLsbD 0 = true)
    ∧ (({ openPkg with fwState := 3 } : Package).fwState ≠ 2 ∧ ({ openPkg with fwState := 2 } : Package).fwState = 2) := by decide +kernel

def overOp : MemOp := opOf0 .st .store [{ access 4 [1, 2, 3, 4] 1 .ready with pa := 4 * 2 ^ 48 }]
def overRead : MemOp := opOf0 .ld (.load 0 48 1) [{ access 4 [] 1 .ready with pa := 4 * 2 ^ 48 }]
/-- Operations, with the link of peer 0 up. -/
def linkState (os : List MemOp) : State := { s0 with ops := os, pkg := { Package.reset with peers := [(0, { Peer.reset with link := 2 })] } }
/-- ErrorsAndResets: a first error, one during the dump of one wave, a link that goes down with nothing, a read, a store and a write-back on its way, and a dump's
area with and without a pin. -/
theorem witness_errors : s0.pkg.fwState ≠ 3
    ∧ ({ Package.reset with fwState := 3, dumping := true } : Package).dumping = true ∧ (0, 5) ∈ ({ Package.reset with msixMask := [(0, 5)] } : Package).msixMask ∧ (∀ e ∈ s0.waves, e.2.core < 128 ∧ e.2.slot < 128 ∧ e.2.width ≤ 64)
    ∧ s0.waves = [(0, { wave0 with parts := [part0] })] ∧ 15 < wave0.width / 4
    ∧ (s0.writesOver 0 = [] ∧ s0.ops.all (fun o => o.accs.all (fun a => !overLink 0 s0.dcc a)) = true ∧ ∀ f ∈ s0.fills, paClass (f.line * 128) ≠ 4 + 0)
    ∧ ((getT Peer.reset (linkState [overRead]).pkg.peers 0).link = 2 ∧ (linkState [overRead]).writesOver 0 = [] ∧ overRead.kind.writesMemory = false
      ∧ (overRead.accs.any (overLink 0 0)) = true)
    ∧ ((getT Peer.reset (linkState [overOp]).pkg.peers 0).link = 2 ∧ (linkState [overOp]).pkg.fwState ≠ 3 ∧ (linkState [overOp]).writesOver 0 ≠ []
      ∧ (linkState [overOp]).ops.Pairwise (fun a b => a.id ≠ b.id))
    ∧ ({ linkState [] with backs := [{ back1 with line := 2 ^ 43 }] } : State).writesOver 0 ≠ []
    ∧ (s0.dumpPins = [] ∧ (∀ e ∈ s0.dies, ∀ w ∈ e.2.swatch, w.2.getLsbD 0 = false)
      ∧ ({ s0 with pkg := { Package.reset with dump := 0x100000 }, pins := [pin1] } : State).dumpPins ≠ []) := by decide +kernel

/-! ### Witnesses: the rendering pipeline -/

def mesh1 : MeshDone :=
  { group := 4, launch := 0, num := 0, core := 0, verts := [{ index := 0, clip := [0, 0, 0, 0x3F800000], attrs := [] }, { index := 1, clip := [0x3F800000, 0, 0, 0x3F800000], attrs := [] },
      { index := 2, clip := [0, 0x3F800000, 0, 0x3F800000], attrs := [] }], tris := [{ k := 0, v0 := 0, v1 := 1, v2 := 2 }], due := 0 }
def fragment1 : Fragment :=
  { id := 6, order := 0, launch := 0, pass := 0x400000, die := 0, core := 0, seq := 0, x := 1, y := 2, cover := 1, zs := [0x3F000000], retired := true, killed := false
    pouts := [{ target := 0, values := [0x3F800000, 0, 0, 0], issued := 0, stale := false }] }
def renderPass : Pass := { pass0 with samp := 0, rts := [(0x10100, 64, 0, 0)] }
def renderLaunch : Launch := { placedLaunch with draw := some { draw0 with num := 0, pass := renderPass } }
def deepLaunch : Launch := { placedLaunch with draw := some { draw0 with num := 0, pass := { renderPass with depth := 0x10200, dpitch := 64 } } }
def record1 : PrimRec := { corners with pass := 0x400000 }
def renderState (l : Launch) : State :=
  { State.reset with mem := tables, launches := [(0, l)], meshes := [mesh1], prims := [record1], frags := [fragment1]
                     marks := [{ id := 8, pass := 0x400000, src := 4, die := 1, value := 5, due := 0 }]
                     dies := [(0, { Die.reset with marks := [(0x400000, [9, 9, 9, 9, 9])], history := [((0x10000, 0), (64, 256, 65))] })] }

/-- RenderingSteps: a triangle to set up, a record and a watermark on arrival, a record to rasterise, a fragment whose output is written, one that fails its
depth test, one that was killed, and a history at its 256th wave. -/
theorem witness_rendering :
    (let s := renderState renderLaunch;
      s.meshes.find? (fun x => x.group == 4 && decide (x.due ≤ s.dcc)) = some mesh1 ∧ s.launch? 0 = some renderLaunch ∧ renderLaunch.passKey = some 0x400000
      ∧ s.dropPins mesh1.core 1 draw0 = [] ∧ s.markDue 0x400000 4 = true
      ∧ (s.marks.find? (fun y => y.id == 8 && s.markArrives y)).isSome = true
      ∧ s.prims.find? (fun x => x.id == 9 && s.rasterDue x) = some record1 ∧ ((s.launch? record1.launch).bind Launch.draw).isSome = true
      ∧ s.frags.find? (fun x => x.id == 6 && s.commitTurn x) = some fragment1 ∧ s.fragPinned fragment1 1 renderPass = [] ∧ fragment1.samples = [0]
      ∧ renderPass.depth = 0 ∧ 0 < renderPass.nrt ∧ renderPass.rts.getD 0 (0, 0, 0, 0) = (0x10100, 64, 0, 0)
      ∧ sampleVa 0x10100 64 (targetBytes 0) 0 1 2 0 % 65536 + targetBytes 0 ≤ 65536 ∧ s.unitPa 0 1 .write (sampleVa 0x10100 64 (targetBytes 0) 0 1 2 0) = some 0x110184
      ∧ (s.die 0).history[0]? = some ((0x10000, 0), (64, 256, 65)))
    ∧ (let s := renderState deepLaunch;
      depthPass 1 0x3F000000 (natOfBytes (s.fragGet fragment1 1 (sampleVa 0x10200 64 4 0 1 2 0) 4)) = false)
    ∧ (let s := { renderState renderLaunch with frags := [{ fragment1 with killed := true }] };
      s.frags.find? (fun x => x.id == 6 && s.commitTurn x) = some { fragment1 with killed := true }) := by decide +kernel

/-! ### Witnesses: encodings and steps -/

/-- EncodeThenDecode, DecodeThenEncode: instructions of one word and of two. -/
theorem witness_encodings : wellFormed (.iadd r0) = true ∧ encode (.iadd r0) ≠ [] ∧ wellFormed (.iaddExt r0 (xaDefault 1)) = true ∧ (encode (.iaddExt r0 (xaDefault 1))).length = 2
    ∧ (encode (.iadd r0)).length = 1 ∧ decode 0x0B031000 0 = .instr (.smov { u0 with d := 3, a := 4 }) := by decide

def fetchState : State := State.reset.withFetchWord 32 0x0B031000
/-- StepRunsDecoded: the state in which `smov s3, s4` is fetched next, as it stands and with its segment loaded. -/
theorem witness_step :
    fetchState.agenda = [.issue ref0] ∧ ((({ fetchState with agenda := [] } : State).beginTurn ref0).ctx? ref0).map (fun c => c.part.pc) = some 0x10000
    ∧ (let s := { fetchState with pkg := { Package.reset with segments := [{ segment0 with va := 0x10000 }] } };
      ((s.pkg.segments.find? (fun g => g.spans 1 0x10000)).map (fun g => g.privseg)) = some false)
    ∧ fetchState.walkPins 0 1 0x10000 = [] ∧ fetchState.pinned (some 0) (paOf 0x11001F 16 0x10000) = false
    ∧ fetchState.pinned (some 0) (paOf 0x11001F 16 0x10000 + 4) = false ∧ fetchState.walk 0 1 0x10000 = .leaf 0x11001F 16 ∧ fetchState.leafFault .fetch 0x11001F (paOf 0x11001F 16 0x10000) = none
    ∧ fetchState.leafFault .fetch 0x11001F (paOf 0x11001F 16 0x10000 + 4) = none ∧ 0x10000 % 2 ^ 16 + 8 ≤ 2 ^ 16
    ∧ (fetchState.core 0).l1tlb = [] ∧ (fetchState.core 0).coreTlb = [] ∧ (fetchState.die 0).llTlb = []
    ∧ decodeBytes (readBytes fetchState.mem (paOf 0x11001F 16 0x10000) 8) = .instr (.smov { u0 with d := 3, a := 4 }) := by decide +kernel

/-- StepKeepsMemory: the reset memory is in its form, and a step goes on from reset. -/
theorem witness_memory : State.reset.MemOk ∧ ∃ t, step State.reset = .next t := ⟨⟨rfl, rfl, rfl, rfl⟩, ⟨_, rfl⟩⟩

/-! ### Worked examples of the spec -/

/-- One lane of the small wave, with some of its vector registers. -/
def laneState (regs : List (Nat × W32)) (p : Part) : State := mk p { wave0 with off := laneRange 1 63, vregs := regs } placedGroup placedLaunch
/-- A vector register of lane 0 after an instruction. -/
def regAfter (i : Instr) (s : State) (n : Nat) : Option W32 :=
  match exec i s with
  | .next t => (t.wave? 0).map (fun w => w.v 0 0 n)
  | _ => none

/-- 05, "Worked encodings": a block whose destination overlaps its source. -/
theorem test_block_overlap :
    [48, 49, 50, 51, 64, 65, 66, 67].map (regAfter (.iaddExt { s := false, d := 48, a := 32, b := 1, k := true } { xaDefault 1 with bh := 1, bw := 2 })
      (laneState [(32, 1), (33, 2), (34, 3), (35, 4), (48, 10), (49, 11), (50, 12), (51, 13)] part0))
    = [2, 3, 4, 5, 11, 12, 13, 14].map some := by decide +kernel

/-- 04, "Example: window, indirection and a block": the three values of IX0, and the last one with ALLOT at 144. -/
theorem test_window_block :
    let d := fun (ix : Nat) => ({ f := 20, x := ix, rows := 2, cols := 4 } : Vop)
    let a : Vop := { f := 48, rows := 2, cols := 4 }
    checkVops [d 3, a] 32 160 = none ∧ (d 3).reg 32 0 0 = 55 ∧ (d 3).reg 32 1 3 = 74 ∧ a.reg 32 1 3 = 99
    ∧ checkVops [d 100, a] 32 160 = some (0x03, 168) ∧ checkVops [d 90, a] 32 160 = some (0x03, 160) ∧ checkVops [d 90, a] 32 144 = some (0x03, 144) := by decide

/-- 07 R167: conversions from f32 to e4m3, their results and flags (IO 1, DZ 2, OF 4, UF 8, IX 16). -/
theorem test_cvt_e4m3 :
    [(0x43E60000, 0, false), (0x43FA0000, 0, false), (0x43FA0000, 0, true), (0x43FA0000, 1, false), (0xFF800000, 0, true), (0x3A800000, 0, false)].map
      (fun (e : Nat × Nat × Bool) => let r := convert 3 13 e.2.1 e.2.2 false e.1; (r.bits, r.fl))
    = [(0x7E, 16), (0x7F, 20), (0x7E, 20), (0x7E, 20), (0xFE, 0), (0x00, 24)] := by decide +kernel

/-- 20, "one rounding against two". -/
theorem test_fused :
    (fmtF32.ffma 0 false 0x3F800800 0x3F800800 0xBF801000).bits = 0x33800000 ∧ (fmtF32.ffma 0 false 0x3F800800 0x3F800800 0xBF801000).fl = 0
    ∧ (fmtF32.fmul 0 false 0x3F800800 0x3F800800).bits = 0x3F801000 ∧ (fmtF32.fmul 0 false 0x3F800800 0x3F800800).fl = 16
    ∧ (fmtF32.fadd 0 false 0x3F801000 0xBF801000).bits = 0 ∧ (fmtF32.fadd 3 false 0x3F801000 0xBF801000).bits = 0x80000000 := by decide +kernel

/-- 19 R408: `bfe` and `bfi`. -/
theorem test_bit_fields : extractField 1 0xF00 0x408 = 0xFFFFFFFF ∧ extractField 2 0xF00 0x408 = 0xF ∧ insertField 32 0xF00 0x408 0 = 0 := by decide +kernel

/-- 19 R424: q4 codes with s = 0.5 and z = 8, and the value of the first. -/
theorem test_quantise :
    [0x4180, 0x4500, 0xC500, 0x7E00].map (fun x => (quantise fmtF16 true 0 false 0x3800 8 x).bits) = [14, 15, 0, 8]
    ∧ (dequantise fmtF32 true 0 false 0x3800 8 14).bits = 0x40400000 := by decide +kernel

/-- 22 R479: `smov`, and the words of `smovi` and `smovh` as the step fetches and runs them. -/
theorem test_smovi :
    (match exec (.smovi { u0 with d := 7, k := true } 0xFFFFFFFF) s0 with
      | .next t => (match exec (.smovh { u0 with d := 7, k := true } 0) { t with cur := some ref0 } with
        | .next u => (u.part? ref0).map (fun p => p.regs.sreg 7)
        | _ => none)
      | _ => none) = some 0x00000000FFFFFFFF := by decide +kernel

end Sys2Proof.Tests
end

section
/-! SUPPORT. Reading after writing: the parts of the state that registers and the power controls write, keyed by their numbers. -/

namespace Sys2Proof.Machine

theorem lookT_setT_of_ne {α : Type} [DecidableEq α] (d : α) (m : List (Nat × α)) {k j : Nat} (v : α) (h : j ≠ k) :
    lookT (setT d m k v) j = lookT m j := by
  unfold setT
  split
  · exact lookT_delT_of_ne m h
  · exact lookT_putT_of_ne m v h

theorem getT_setT {α : Type} [DecidableEq α] (d : α) (m : List (Nat × α)) (k j : Nat) (v : α) :
    getT d (setT d m k v) j = if j = k then v else getT d m j := by
  split
  · next h => rw [h, getT_setT_self]
  · next h => exact getT_setT_of_ne d m v h

theorem State.cluster_updCluster_of_ne (s : State) {c n : Nat} (f : Cluster → Cluster) (h : n ≠ c) :
    (s.updCluster c f).cluster n = s.cluster n := by
  simp only [State.cluster, State.updCluster, getT_eq, lookT_setT_of_ne _ _ _ h]

theorem State.cluster_updCluster (s : State) (c n : Nat) (f : Cluster → Cluster) :
    (s.updCluster c f).cluster n = if n = c then f (s.cluster c) else s.cluster n := by
  split
  · next h => rw [h, State.cluster_updCluster_self]
  · next h => exact s.cluster_updCluster_of_ne f h

theorem State.core_updCore (s : State) (c n : Nat) (f : Core → Core) :
    (s.updCore c f).core n = if n = c then f (s.core c) else s.core n := by
  split
  · next h => rw [h, State.core_updCore_self]
  · next h => exact s.core_updCore_of_ne f h

theorem State.die_updDie (s : State) (d n : Nat) (f : Die → Die) :
    (s.updDie d f).die n = if n = d then f (s.die d) else s.die n := getT_setT ..

theorem State.queue_updQueue (s : State) (q n : Nat) (f : Queue → Queue) :
    (s.updQueue q f).queue n = if n = q then f (s.queue q) else s.queue n := getT_setT ..

theorem State.tenant_updTenant (s : State) (t n : Nat) (f : Tenant → Tenant) :
    (s.updTenant t f).tenant n = if n = t then f (s.tenant t) else s.tenant n := getT_setT ..

theorem readByte_clearRange_inside (m : List (Nat × Byte)) {lo hi a : Nat} (h : lo ≤ a ∧ a < hi) :
    readByte (clearRange m lo hi) a = 0 := by
  suffices hl : lookT (clearRange m lo hi) a = none by rw [readByte, getT_eq, hl]; rfl
  unfold clearRange
  induction m with
  | nil => rfl
  | cons e r ih =>
    obtain ⟨k, v⟩ := e
    by_cases hk : k < lo ∨ hi ≤ k
    · have hne : k ≠ a := by omega
      simp [hk, lookT, hne, ih]
    · simp [hk, ih]

theorem readByte_clearRange (m : List (Nat × Byte)) (lo hi a : Nat) :
    readByte (clearRange m lo hi) a = if lo ≤ a ∧ a < hi then 0 else readByte m a := by
  split
  · next h => exact readByte_clearRange_inside m h
  · next h => exact readByte_clearRange_outside m lo hi a (by omega)

end Sys2Proof.Machine
end

section
/-! SUPPORT. What a turn of the matrix array and of the slew limiter leaves: memory, scratch, every register of every part, and the
table and row of every limiter (17 R371, R372). -/

namespace Sys2Proof.Machine

/-! ### The frame -/

/-- Every wave stays, with its vector registers and the registers of its parts. -/
def KeepsRegs (s t : State) : Prop :=
  ∀ k w, s.wave? k = some w → ∃ w', t.wave? k = some w' ∧ SameVregs w w' ∧ w'.parts.map (fun p => p.regs) = w.parts.map (fun p => p.regs)

theorem KeepsRegs.of_waves {s t : State} (h : t.waves = s.waves) : KeepsRegs s t :=
  fun _ w hw => ⟨w, by rwa [State.wave?, h], ⟨rfl, rfl⟩, rfl⟩

theorem KeepsRegs.trans {s t u : State} (h : KeepsRegs s t) (h' : KeepsRegs t u) : KeepsRegs s u := by
  intro k w hw
  obtain ⟨w₁, hw₁, ⟨hv, hd⟩, hr⟩ := h k w hw
  obtain ⟨w₂, hw₂, ⟨hv', hd'⟩, hr'⟩ := h' k w₁ hw₁
  exact ⟨w₂, hw₂, ⟨hv'.trans hv, hd'.trans hd⟩, hr'.trans hr⟩

theorem keepsRegs_updWave (s : State) (k : Nat) (f : Wave → Wave)
    (hf : ∀ w, SameVregs w (f w) ∧ (f w).parts.map (fun p => p.regs) = w.parts.map (fun p => p.regs)) : KeepsRegs s (s.updWave k f) := by
  intro j w hw
  by_cases hj : j = k
  · subst hj
    exact ⟨f w, wave?_updWave_some hw f, hf w⟩
  · exact ⟨w, by rw [State.wave?_updWave_of_ne _ _ hj, hw], ⟨rfl, rfl⟩, rfl⟩

/-- The table and the row of a limiter are those of before. -/
def Cluster.SameTable (k k' : Cluster) : Prop := k'.row = k.row ∧ k'.ramp0 = k.ramp0 ∧ k'.ramp1 = k.ramp1

theorem Cluster.SameTable.trans {k l m : Cluster} (h : k.SameTable l) (h' : l.SameTable m) : k.SameTable m :=
  ⟨h'.1.trans h.1, h'.2.1.trans h.2.1, h'.2.2.trans h.2.2⟩

theorem Cluster.SameTable.ramp {k k' : Cluster} (h : k.SameTable k') (n : Nat) : k'.ramp n = k.ramp n := by
  obtain ⟨_, h0, h1⟩ := h
  simp only [Cluster.ramp, h0, h1]

theorem Cluster.SameTable.rampBelow {k k' : Cluster} (h : k.SameTable k') : k'.rampBelow = k.rampBelow := by
  simp only [Cluster.rampBelow, h.1, h.ramp]

/-- What a turn of the array keeps. -/
structure SlewFrame (s t : State) : Prop where
  dcc : t.dcc = s.dcc
  mem : t.mem = s.mem
  scratch : t.scratch = s.scratch
  regs : KeepsRegs s t
  table : ∀ n, (s.cluster n).SameTable (t.cluster n)

theorem SlewFrame.trans {s t u : State} (h : SlewFrame s t) (h' : SlewFrame t u) : SlewFrame s u where
  dcc := h'.dcc.trans h.dcc
  mem := h'.mem.trans h.mem
  scratch := h'.scratch.trans h.scratch
  regs := h.regs.trans h'.regs
  table n := (h.table n).trans (h'.table n)

theorem SlewFrame.of_fields {s t : State} (hd : t.dcc = s.dcc) (hm : t.mem = s.mem) (hs : t.scratch = s.scratch) (hw : t.waves = s.waves)
    (hc : t.clusters = s.clusters) : SlewFrame s t where
  dcc := hd
  mem := hm
  scratch := hs
  regs := .of_waves hw
  table n := by simp only [State.cluster, hc]; exact ⟨rfl, rfl, rfl⟩

theorem SlewFrame.refl (s : State) : SlewFrame s s := .of_fields rfl rfl rfl rfl rfl

/-- A loop of turns keeps what each of them keeps. -/
theorem SlewFrame.foldl {α : Type} {f : State → α → State} (h : ∀ s a, SlewFrame s (f s a)) (l : List α) (s : State) :
    SlewFrame s (l.foldl f s) :=
  List.foldlRecOn l f (.refl s) (fun _ hb a _ => hb.trans (h _ a))

theorem slewFrame_updCluster (s : State) (c : Nat) (f : Cluster → Cluster) (hf : (s.cluster c).SameTable (f (s.cluster c))) :
    SlewFrame s (s.updCluster c f) where
  dcc := rfl
  mem := rfl
  scratch := rfl
  regs := .of_waves rfl
  table n := by
    rw [State.cluster_updCluster]
    split
    · next h => exact h ▸ hf
    · exact ⟨rfl, rfl, rfl⟩

/-! ### The array's turn -/

theorem slewFrame_updMma (s : State) (core id : Nat) (f : MmaOp → MmaOp) : SlewFrame s (s.updMma core id f) :=
  .of_fields rfl rfl rfl rfl rfl

theorem slewFrame_startNext (s : State) (core : Nat) : SlewFrame s (s.startNext core) := by
  unfold State.startNext
  split
  · exact slewFrame_updMma ..
  · exact .refl s

theorem slewFrame_arrayDone (s : State) (core : Nat) (o : MmaOp) (d : Nat) : SlewFrame s (s.arrayDone core o d) :=
  (slewFrame_updMma ..).trans (slewFrame_startNext ..)

theorem slewFrame_updLaunch (s : State) (l : Nat) (f : Launch → Launch) : SlewFrame s (s.updLaunch l f) :=
  .of_fields (by simp) (by simp) (by simp) (by simp) (by simp)

theorem slewFrame_putAcc (s : State) (core : Nat) (o : MmaOp) (m n v : Nat) : SlewFrame s (s.putAcc core o m n v) :=
  .of_fields rfl rfl rfl rfl rfl

theorem slewFrame_showProgress (s : State) (core : Nat) (o : MmaOp) (active : Bool) : SlewFrame s (s.showProgress core o active) where
  dcc := State.updWave_dcc ..
  mem := State.updWave_mem ..
  scratch := State.updWave_scratch ..
  regs := by
    refine keepsRegs_updWave _ _ _ (fun w => ?_)
    split
    · exact ⟨⟨rfl, rfl⟩, rfl⟩
    · refine ⟨⟨rfl, rfl⟩, ?_⟩
      rw [List.map_map]
      refine List.map_congr_left (fun p _ => ?_)
      simp only [Function.comp]
      split <;> rfl
  table n := by
    simp only [State.cluster, State.showProgress, State.updWave_clusters]
    exact ⟨rfl, rfl, rfl⟩

theorem slewFrame_failMma (s : State) (core : Nat) (o : MmaOp) (code detail : Nat) : SlewFrame s (s.failMma core o code detail) := by
  have hfail := slewFrame_updMma s core o.id (fun o => { o with fail := some (code, detail) })
  unfold State.failMma
  dsimp only
  split
  · exact hfail
  · exact hfail.trans (.foldl (fun _ _ => slewFrame_updLaunch ..) _ _)

theorem slewFrame_outputStep (s : State) (core : Nat) (o : MmaOp) (j : Nat) (q : MmaOp) (m n : Nat) :
    SlewFrame s (s.outputStep core o j q m n).1 := by
  unfold State.outputStep
  split
  · exact slewFrame_putAcc ..
  · dsimp only
    split
    · exact slewFrame_putAcc ..
    · exact .refl s

theorem slewFrame_outputSteps (s : State) (core : Nat) (o : MmaOp) (j : Nat) (l : List (Nat × Nat)) (q : MmaOp) :
    SlewFrame s (l.foldl (fun (a : State × MmaOp) e => a.1.outputStep core o j a.2 e.1 e.2) (s, q)).1 :=
  List.foldlRecOn (motive := fun (a : State × MmaOp) => SlewFrame s a.1) l _ (.refl s) (fun _ hb _ _ => hb.trans (slewFrame_outputStep ..))

theorem slewFrame_kstep (s : State) (core : Nat) (o : MmaOp) (j : Nat) : SlewFrame s (s.kstep core o j) := by
  have hsum := slewFrame_outputSteps s core o j o.outputs o
  unfold State.kstep
  dsimp only
  split
  · exact (hsum.trans (slewFrame_updMma ..)).trans (slewFrame_showProgress ..)
  · exact hsum.trans (slewFrame_updMma ..)

/-- The array has cleared the tile of an operation, which completes 16 cycles later (21 R450). -/
def State.cleared (s : State) (core : Nat) (o : MmaOp) : State :=
  ({ s with acc := clearRange s.acc (accKey core (o.t0 + o.tile) 0) (accKey core (o.t0 + o.tile) 0 + 65536) }).arrayDone core o 16

theorem slewFrame_cleared (s : State) (core : Nat) (o : MmaOp) : SlewFrame s (s.cleared core o) := by
  refine SlewFrame.trans ?_ (slewFrame_arrayDone ..)
  exact .of_fields rfl rfl rfl rfl rfl

theorem slewFrame_reach (s : State) (core : Nat) : SlewFrame s (s.reach core) := by
  unfold State.reach
  split
  · exact .refl s
  · next o _ =>
    split
    · exact .refl s
    split
    · exact slewFrame_cleared s core o
    split
    · exact slewFrame_arrayDone ..
    split
    · exact slewFrame_arrayDone ..
    split
    · refine SlewFrame.trans ?_ (slewFrame_arrayDone ..)
      split
      · exact .foldl (fun _ _ => slewFrame_putAcc ..) _ _
      · exact .refl s
    split
    · exact (slewFrame_failMma ..).trans (slewFrame_arrayDone ..)
    split
    · exact (slewFrame_failMma ..).trans (slewFrame_arrayDone ..)
    split
    · exact (slewFrame_updMma ..).trans (slewFrame_showProgress ..)
    · exact .refl s

theorem slewFrame_passCycle (s : State) (core : Nat) (o : MmaOp) : SlewFrame s (s.passCycle core o) := by
  unfold State.passCycle
  dsimp only
  have hstep : SlewFrame s (if (o.idx + 1) % o.perStep = 0 then
      (s.updMma core o.id (fun o => { o with idx := o.idx + 1 })).kstep core { o with idx := o.idx + 1 } (o.idx / o.perStep)
      else s.updMma core o.id (fun o => { o with idx := o.idx + 1 })) := by
    split
    · exact (slewFrame_updMma ..).trans (slewFrame_kstep ..)
    · exact slewFrame_updMma ..
  split
  · exact hstep.trans (slewFrame_arrayDone ..)
  · exact hstep

theorem slewFrame_grant (s : State) (c core : Nat) : SlewFrame s (s.grant c core) := by
  unfold State.grant
  refine (slewFrame_reach s core).trans ?_
  dsimp only
  split
  · exact .refl _
  · split
    · exact .refl _
    · exact (slewFrame_updCluster _ c _ ⟨rfl, rfl, rfl⟩).trans (slewFrame_passCycle ..)

/-! ### The limiter's step -/

theorem Cluster.enterStep_sameTable (k : Cluster) (dcc demand : Nat) : k.SameTable (k.enterStep dcc demand) := by
  unfold Cluster.enterStep
  split
  · exact ⟨rfl, rfl, rfl⟩
  · split <;> exact ⟨rfl, rfl, rfl⟩

@[simp] theorem Cluster.fill_row (k : Cluster) (j : Nat) : (k.fill j).row = k.row := rfl

/-- The fillers of a cycle bring the issues of the step to its floor (R372). -/
theorem Cluster.floor_le_fill_made (k : Cluster) (j : Nat) : j * k.rampBelow ≤ 4 * (k.fill j).made := by
  have hmade : (k.fill j).made = k.made + (ceilDiv (j * k.rampBelow) 4 - k.made) := rfl
  rw [hmade, ceilDiv]
  omega

/-- The first row whose budget covers a demand below row `r`'s is at or below `r`. -/
theorem Cluster.find_row_le (k : Cluster) {r : Nat} (hr : r ≤ 15) (h : k.demand ≤ k.ramp r) :
    ((List.range 16).find? (fun n => decide (k.demand ≤ k.ramp n))).getD 15 ≤ r := by
  cases hf : (List.range 16).find? (fun n => decide (k.demand ≤ k.ramp n)) with
  | none => exact absurd (by simpa using h) (List.find?_eq_none.mp hf r (List.mem_range.mpr (by omega)))
  | some n =>
    rw [List.find?_range_eq_some] at hf
    by_contra hlt
    exact absurd (hf.2.2 r (by simpa using hlt)) (by simpa using h)

/-- The row moves by one at most, within the table (R372). -/
theorem Cluster.nextRow_bounds (k : Cluster) (h : k.row ≤ 15) : k.nextRow ≤ k.row + 1 ∧ k.row ≤ k.nextRow + 1 ∧ k.nextRow ≤ 15 := by
  unfold Cluster.nextRow
  dsimp only
  split
  · omega
  · split
    · next hlt =>
      have := k.find_row_le h hlt.le
      omega
    · omega

/-- The end of a cycle of the limiter: its fillers, and at the end of a step its next row. -/
def Cluster.endCycle (k : Cluster) (dcc : Nat) : Cluster :=
  if dcc % 4 = 3 then { k.fill (dcc % 4 + 1) with row := (k.fill (dcc % 4 + 1)).nextRow } else k.fill (dcc % 4 + 1)

theorem Cluster.endCycle_made (k : Cluster) (dcc : Nat) : (k.endCycle dcc).made = (k.fill (dcc % 4 + 1)).made := by
  unfold Cluster.endCycle; split <;> rfl

theorem Cluster.endCycle_row_of_ne (k : Cluster) {dcc : Nat} (h : dcc % 4 ≠ 3) : (k.endCycle dcc).row = k.row := by
  rw [Cluster.endCycle, if_neg h, Cluster.fill_row]

theorem Cluster.endCycle_row_bounds (k : Cluster) (dcc : Nat) (h : k.row ≤ 15) :
    (k.endCycle dcc).row ≤ k.row + 1 ∧ k.row ≤ (k.endCycle dcc).row + 1 ∧ (k.endCycle dcc).row ≤ 15 := by
  by_cases hlast : dcc % 4 = 3
  · rw [Cluster.endCycle, if_pos hlast]
    exact (k.fill (dcc % 4 + 1)).nextRow_bounds h
  · rw [k.endCycle_row_of_ne hlast]
    omega

/-- The grants of a cycle: the cluster's limiter enters its step, and each core's array has its turn. -/
def State.grants (s : State) (c : Nat) : State :=
  (clusterCores c).foldl (fun s core => s.grant c core) (s.updCluster c (fun k => k.enterStep s.dcc (s.demand c)))

theorem slewFrame_grants (s : State) (c : Nat) : SlewFrame s (s.grants c) :=
  (slewFrame_updCluster s c _ (Cluster.enterStep_sameTable ..)).trans (.foldl (fun _ _ => slewFrame_grant ..) _ _)

theorem execSlewStep_busy (s : State) (c : Nat) (h : s.slewBusy c = true) :
    exec (.slewStep c) s = .next ((s.grants c).updCluster c (fun k => k.endCycle (s.grants c).dcc)) := by
  show execSlewStep c s = _
  rw [execSlewStep, if_neg (by simp [h])]
  rfl

/-! ### A clear at the head of an array (21 R450) -/

/-- The array serves nothing that it could reach in this cycle. -/
def State.Waits (s : State) (core : Nat) : Prop := ∀ o, (s.core core).served = some o → s.dcc < o.start

theorem reach_of_waits {s : State} {core : Nat} (h : s.Waits core) : s.reach core = s := by
  unfold State.reach
  split
  · rfl
  · next o ho => rw [if_pos (Or.inr (h o ho))]

theorem wants_of_waits {s : State} {core : Nat} (h : s.Waits core) : s.wants core = none := by
  unfold State.wants
  split
  · rfl
  · next o ho => rw [if_pos (Or.inr (Or.inl (h o ho)))]

theorem grant_of_reach {s t : State} {core : Nat} (c : Nat) (hr : s.reach core = t) (ht : t.Waits core) : s.grant c core = t := by
  simp only [State.grant, hr, wants_of_waits ht]

theorem grant_of_waits {s : State} {core : Nat} (c : Nat) (h : s.Waits core) : s.grant c core = s :=
  grant_of_reach c (reach_of_waits h) h

theorem grants_of_waits {s : State} (c : Nat) {l : List Nat} (h : ∀ k ∈ l, s.Waits k) : l.foldl (fun s core => s.grant c core) s = s := by
  induction l with
  | nil => rfl
  | cons k r ih =>
    rw [List.foldl_cons, grant_of_waits c (h k (by simp))]
    exact ih (fun j hj => h j (by simp [hj]))

theorem core_updMma (s : State) (core id n : Nat) (f : MmaOp → MmaOp) : (s.updMma core id f).core n =
    if n = core then { s.core core with matrixQ := (s.core core).matrixQ.map (fun o => if o.id = id then f o else o) } else s.core n :=
  s.core_updCore ..

/-- The operation that comes next has its start in a later cycle. -/
theorem waits_startNext (s : State) (core : Nat) : (s.startNext core).Waits core := by
  intro o ho
  rw [(slewFrame_startNext s core).dcc]
  unfold State.startNext at ho
  split at ho
  · next q hq =>
    rw [core_updMma, if_pos rfl] at ho
    have hp : (MmaOp.unfinished ∘ fun o : MmaOp => if o.id = q.id then { o with start := max o.start (s.dcc + 1) } else o) = MmaOp.unfinished := by
      funext o
      simp only [Function.comp]
      split <;> rfl
    rw [Core.served, List.find?_map, hp, show (s.core core).matrixQ.find? MmaOp.unfinished = some q from hq] at ho
    simp only [Option.map_some, if_true, Option.some.injEq] at ho
    rw [← ho]
    exact lt_of_lt_of_le (Nat.lt_succ_self _) (le_max_right _ _)
  · next hn => rw [hn] at ho; contradiction

theorem served_arrayDone_of_ne (s : State) {core n : Nat} (o : MmaOp) (d : Nat) (h : n ≠ core) :
    ((s.arrayDone core o d).core n).served = (s.core n).served := by
  unfold State.arrayDone State.startNext
  split
  · rw [core_updMma, if_neg h, core_updMma, if_neg h]
  · rw [core_updMma, if_neg h]

theorem acc_arrayDone (s : State) (core : Nat) (o : MmaOp) (d : Nat) : (s.arrayDone core o d).acc = s.acc := by
  unfold State.arrayDone State.startNext
  split <;> rfl

/-- A core whose array reaches a clear of tile `o` in this cycle. -/
structure State.Clears (s : State) (core : Nat) (o : MmaOp) : Prop where
  served : (s.core core).served = some o
  zero : o.zeroOnly = true
  started : o.start ≠ 0
  due : o.start ≤ s.dcc

theorem waits_cleared (s : State) (core : Nat) (o : MmaOp) : (s.cleared core o).Waits core :=
  waits_startNext _ core

theorem waits_cleared_of_ne {s : State} {core n : Nat} (o : MmaOp) (hn : n ≠ core) (h : (s.core n).served = none) :
    (s.cleared core o).Waits n := by
  intro q hq
  rw [State.cleared, served_arrayDone_of_ne _ _ _ hn] at hq
  exact absurd (hq.symm.trans h) (by simp)

theorem grant_of_clears {s : State} {core : Nat} {o : MmaOp} (c : Nat) (h : s.Clears core o) : s.grant c core = s.cleared core o := by
  refine grant_of_reach c ?_ (waits_cleared s core o)
  have hdue : ¬ (o.start = 0 ∨ s.dcc < o.start) := not_or.mpr ⟨h.started, not_lt.mpr h.due⟩
  simp only [State.reach, h.served, if_neg hdue, h.zero, if_true]
  rfl

/-- Where one core's array reaches a clear and the others of the list serve nothing, the clear is all that the grants do. -/
theorem grants_of_clears {s : State} {core : Nat} {o : MmaOp} (c : Nat) (h : s.Clears core o) {l : List Nat} (hmem : core ∈ l)
    (hothers : ∀ k ∈ l, k ≠ core → (s.core k).served = none) : l.foldl (fun s core => s.grant c core) s = s.cleared core o := by
  induction l with
  | nil => contradiction
  | cons k r ih =>
    have hr : ∀ j ∈ r, j ≠ core → (s.core j).served = none := fun j hj => hothers j (by simp [hj])
    rw [List.foldl_cons]
    by_cases hk : k = core
    · rw [hk, grant_of_clears c h]
      refine grants_of_waits c (fun j hj => ?_)
      by_cases hjc : j = core
      · rw [hjc]
        exact waits_cleared s core o
      · exact waits_cleared_of_ne o hjc (hr j hj hjc)
    · rw [grant_of_waits c (fun q hq => by rw [hothers k (by simp) hk] at hq; contradiction)]
      exact ih ((List.mem_cons.mp hmem).resolve_left (Ne.symm hk)) hr

/-! ### The step as a whole -/

theorem State.cluster_grants_row (s : State) (c : Nat) : ((s.grants c).cluster c).row = (s.cluster c).row :=
  ((slewFrame_grants s c).table c).1

/-- The slew limiter's step keeps memory, scratch and registers, its floor, and its row but for one step (17 R371, R372). -/
theorem slewStep_limits (s : State) (c : Nat) (h : s.slewBusy c = true) :
    ∃ t, exec (.slewStep c) s = .next t ∧ t.acc = (s.grants c).acc ∧ t.mem = s.mem ∧ t.scratch = s.scratch ∧ KeepsRegs s t
      ∧ (s.dcc % 4 + 1) * (s.cluster c).rampBelow ≤ 4 * (t.cluster c).made
      ∧ (s.dcc % 4 ≠ 3 → (t.cluster c).row = (s.cluster c).row)
      ∧ ((s.cluster c).row ≤ 15 → (t.cluster c).row ≤ (s.cluster c).row + 1 ∧ (s.cluster c).row ≤ (t.cluster c).row + 1 ∧ (t.cluster c).row ≤ 15) := by
  have hf := slewFrame_grants s c
  have hrow := s.cluster_grants_row c
  refine ⟨_, execSlewStep_busy s c h, State.updCluster_acc .., (State.updCluster_mem ..).trans hf.mem, (State.updCluster_scratch ..).trans hf.scratch,
    hf.regs.trans (.of_waves (State.updCluster_waves ..)), ?_, ?_, ?_⟩
  all_goals rw [State.cluster_updCluster_self, hf.dcc]
  · rw [Cluster.endCycle_made, ← (hf.table c).rampBelow]
    exact Cluster.floor_le_fill_made ..
  · intro hlast
    rw [Cluster.endCycle_row_of_ne _ hlast, hrow]
  · rw [← hrow]
    exact Cluster.endCycle_row_bounds _ _

/-- The accumulators after the grants of a cluster in which one array reaches a clear and the others serve nothing (21 R450). -/
theorem acc_grants_of_clears {s : State} {c core : Nat} {o : MmaOp} (h : s.Clears core o) (hmem : core ∈ clusterCores c)
    (hothers : ∀ k ∈ clusterCores c, k ≠ core → (s.core k).served = none) :
    (s.grants c).acc = clearRange s.acc (accKey core (o.t0 + o.tile) 0) (accKey core (o.t0 + o.tile) 0 + 65536) := by
  have hc : (s.updCluster c (fun k => k.enterStep s.dcc (s.demand c))).Clears core o := ⟨h.served, h.zero, h.started, h.due⟩
  rw [State.grants, grants_of_clears c hc hmem hothers]
  exact acc_arrayDone ..

/-- The slew limiter's step, as PowerSteps states it. -/
theorem slewStep_completes (s : State) (c : Nat) (h : s.slewBusy c = true) :
    ∃ t, exec (.slewStep c) s = .next t ∧ t.mem = s.mem ∧ t.scratch = s.scratch ∧ KeepsRegs s t
      ∧ (s.dcc % 4 + 1) * (s.cluster c).rampBelow ≤ 4 * (t.cluster c).made
      ∧ (s.dcc % 4 ≠ 3 → (t.cluster c).row = (s.cluster c).row)
      ∧ ((s.cluster c).row ≤ 15 → (t.cluster c).row ≤ (s.cluster c).row + 1 ∧ (s.cluster c).row ≤ (t.cluster c).row + 1 ∧ (t.cluster c).row ≤ 15)
      ∧ (∀ core o, core ∈ clusterCores c → (∀ k ∈ clusterCores c, k ≠ core → (s.core k).served = none) → (s.core core).served = some o →
        o.zeroOnly = true → o.start ≠ 0 → o.start ≤ s.dcc →
        let lo := accKey core (o.t0 + o.tile) 0
        ∀ a, readByte t.acc a = if lo ≤ a ∧ a < lo + 65536 then 0 else readByte s.acc a) := by
  obtain ⟨t, ht, hacc, hmem, hscratch, hregs, hfloor, hsame, hrow⟩ := slewStep_limits s c h
  refine ⟨t, ht, hmem, hscratch, hregs, hfloor, hsame, hrow, ?_⟩
  intro core o hcore hothers hserved hzero hstart hdue lo a
  rw [hacc, acc_grants_of_clears ⟨hserved, hzero, hstart, hdue⟩ hcore hothers, readByte_clearRange]

end Sys2Proof.Machine
end
section
/-! SUPPORT. The power steps of a cluster: allowance and strike, voltage, gating and its commit, wake, and the writes of its registers
(17 R367-R369, R374-R376). -/

namespace Sys2Proof.Machine

/-- An instruction completes with one cluster changed to `k` and nothing else. -/
def ClusterBecomes (i : Instr) (s : State) (c : Nat) (k : Cluster) : Prop :=
  ∃ t, exec i s = .next t ∧ t = { s with clusters := t.clusters } ∧ ∀ n, t.cluster n = if n = c then k else s.cluster n

theorem clusterBecomes_of_updCluster {i : Instr} {s : State} {c : Nat} {f : Cluster → Cluster} (h : exec i s = .next (s.updCluster c f)) :
    ClusterBecomes i s c (f (s.cluster c)) :=
  ⟨_, h, rfl, fun n => s.cluster_updCluster c n f⟩

/-! ### Allowance, strike, wake (R368, R369, R376) -/

theorem allowanceUpdate_completes (s : State) (c : Nat) : ClusterBecomes (.allowanceUpdate c) s c (s.cluster c).nextAllowance :=
  clusterBecomes_of_updCluster rfl

theorem pacSustainedStrike_completes (s : State) (c : Nat) (h : (s.cluster c).sustained = true) :
    ClusterBecomes (.pacSustainedStrike c) s c { s.cluster c with struckAll := true } := by
  have hb := clusterBecomes_of_updCluster (i := .pacSustainedStrike c) (s := s) (c := c) rfl
  rwa [if_pos h] at hb

theorem clusterAwake_completes (s : State) (c : Nat) (h : s.wakeDue c = true) :
    ClusterBecomes (.clusterAwake c) s c { s.cluster c with state := .awake, since := s.dcc, idle := 0 } := by
  refine clusterBecomes_of_updCluster (f := fun k => { k with state := .awake, since := s.dcc, idle := 0 }) ?_
  show execClusterAwake c s = _
  rw [execClusterAwake, if_pos h]

/-! ### Voltage (R374) -/

theorem voltageInterval_completes (s : State) (c : Nat) (h : s.intervalEnds c = true) :
    ∃ t slack, exec (.voltageInterval c) s = .next t ∧ t = { s with clusters := t.clusters, freeCount := s.freeCount + 1 }
      ∧ t.cluster c = (s.cluster c).nextReq slack := by
  have he : exec (.voltageInterval c) s
      = .next ({ s with freeCount := s.freeCount + 1 }.updCluster c (fun k => k.nextReq (Config.replicaSlack c s.freeCount))) :=
    if_neg (by simp [h])
  exact ⟨_, _, he, rfl, State.cluster_updCluster_self ..⟩

/-! ### Write-backs sent (R196) -/

/-- `t` comes from `s` by sending dirty lines: the write-backs of before are still under way, and new ones have later identities. -/
structure SendsLines (s t : State) : Prop where
  only : t = { s with cores := t.cores, backs := t.backs, nextId := t.nextId }
  backs : ∀ b ∈ s.backs, b ∈ t.backs
  ids : s.nextId ≤ t.nextId

theorem SendsLines.refl (s : State) : SendsLines s s := ⟨rfl, fun _ h => h, le_rfl⟩

theorem SendsLines.trans {s t u : State} (h : SendsLines s t) (h' : SendsLines t u) : SendsLines s u :=
  ⟨by rw [h'.only, h.only], fun b hb => h'.backs b (h.backs b hb), h.ids.trans h'.ids⟩

theorem sendsLines_sendBack (s : State) (core line : Nat) : SendsLines s (s.sendBack core line) := by
  unfold State.sendBack State.sendBackAs State.sendSectors
  split
  · exact .refl s
  · dsimp only
    split
    · exact .refl s
    · exact ⟨rfl, fun b hb => List.mem_append_left _ hb, Nat.le_succ _⟩

theorem sendBack_core_of_ne (s : State) {core n : Nat} (line : Nat) (h : n ≠ core) : (s.sendBack core line).core n = s.core n := by
  unfold State.sendBack State.sendBackAs State.sendSectors
  split
  · rfl
  · dsimp only
    split
    · rfl
    · exact State.core_updCore_of_ne _ _ h

/-- A line's write-back: it carries the line's dirty sectors and its bytes, and arrives in a later cycle. -/
structure LineSent (s t : State) (core line : Nat) (l : L1Line) (b : Back) : Prop where
  found : b ∈ t.backs
  core : b.core = core
  line : b.line = line
  sectors : b.sectors = l.dirty
  data : b.data = l.data
  due : s.dcc < b.due
  id : s.nextId ≤ b.id

theorem LineSent.trans {s t u : State} {core line : Nat} {l : L1Line} {b : Back} (h : LineSent s t core line l b) (h' : SendsLines t u) :
    LineSent s u core line l b := { h with found := h'.backs b h.found }

theorem LineSent.after {s t u : State} {core line : Nat} {l : L1Line} {b : Back} (h : SendsLines s t) (h' : LineSent t u core line l b) :
    LineSent s u core line l b := { h' with due := by have := h'.due; rwa [h.only] at this, id := h.ids.trans h'.id }

theorem slicePath_pos (core pa : Nat) : 0 < slicePath core pa := by
  unfold slicePath sliceLatency
  split <;> omega

theorem sendBack_sends {s : State} {core line : Nat} {l : L1Line} (hl : s.l1Line? core line = some l) (hd : l.dirty ≠ 0) :
    ∃ b, LineSent s (s.sendBack core line) core line l b := by
  have hgo : l.dirty &&& 0xF = l.dirty := BitVec.and_allOnes
  have hpath := slicePath_pos core (line * 128)
  simp only [State.sendBack, State.sendBackAs, State.sendSectors, hl, hgo, if_neg hd]
  exact ⟨_, List.mem_append_right _ (List.mem_singleton_self _), rfl, rfl, rfl, rfl, by dsimp only; omega, le_rfl⟩

/-- Sends a list of lines, each given with its core. -/
def State.sendLines (s : State) (es : List (Nat × Nat × Nat)) : State := es.foldl (fun s e => s.sendBack e.1 e.2.1) s

theorem sendsLines_sendLines (s : State) (es : List (Nat × Nat × Nat)) : SendsLines s (s.sendLines es) :=
  List.foldlRecOn es _ (.refl s) (fun _ hb _ _ => hb.trans (sendsLines_sendBack ..))

/-- A dirty line of a core of which the list names no other line is sent. -/
theorem sendLines_sends {s : State} {es : List (Nat × Nat × Nat)} {core line : Nat} {l : L1Line} (hl : s.l1Line? core line = some l)
    (hd : l.dirty ≠ 0) (hmem : ∃ e ∈ es, e.1 = core) (hone : ∀ e ∈ es, e.1 = core → e.2.1 = line) :
    ∃ b, LineSent s (s.sendLines es) core line l b := by
  induction es generalizing s with
  | nil => simp at hmem
  | cons e r ih =>
    show ∃ b, LineSent s ((s.sendBack e.1 e.2.1).sendLines r) core line l b
    by_cases he : e.1 = core
    · rw [he, hone e (by simp) he]
      obtain ⟨b, hb⟩ := sendBack_sends hl hd
      exact ⟨b, hb.trans (sendsLines_sendLines ..)⟩
    · obtain ⟨b, hb⟩ := ih (s := s.sendBack e.1 e.2.1) (by rwa [State.l1Line?, sendBack_core_of_ne s _ (Ne.symm he)])
        (by simpa [he] using hmem) (fun x hx => hone x (by simp [hx]))
      exact ⟨b, hb.after (sendsLines_sendBack ..)⟩

/-! ### Gating (R376-R378) -/

theorem mem_gatingWrites {s : State} {c : Nat} {e : Nat × Nat × Nat} :
    e ∈ s.gatingWrites c ↔ e.1 ∈ clusterCores c ∧ ∃ i, (s.dirtyLines e.1)[i]? = some e.2.1 ∧ e.2.2 = s.dcc + i := by
  obtain ⟨core, line, due⟩ := e
  simp only [State.gatingWrites, List.mem_flatMap, List.mem_map, Prod.exists, List.mem_zipIdx_iff_getElem?, Prod.mk.injEq]
  constructor
  · rintro ⟨_, hc, _, i, hi, rfl, rfl, rfl⟩
    exact ⟨hc, i, hi, rfl⟩
  · rintro ⟨hc, i, hi, rfl⟩
    exact ⟨core, hc, line, i, hi, rfl, rfl, rfl⟩

/-- The first dirty line of a core is sent in the first cycle, those behind it one a cycle. -/
theorem gatingWrites_behind {s : State} {c core n m : Nat} {r : List Nat} (hcore : core ∈ clusterCores c) (hlines : s.dirtyLines core = n :: r)
    (hm : m ∈ r) : (core, m, s.dcc + 1 + r.idxOf m) ∈ s.gatingWrites c := by
  refine mem_gatingWrites.mpr ⟨hcore, r.idxOf m + 1, ?_, by dsimp only; omega⟩
  rw [hlines, List.getElem?_cons_succ]
  exact List.getElem?_idxOf hm

/-- The write-backs of a cluster's gating whose cycle has come. -/
def State.gatingSends (s : State) (c : Nat) : List (Nat × Nat × Nat) := (s.cluster c).wbs.filter (fun e => decide (e.2.2 ≤ s.dcc))

/-- The state of the cluster once a gating cycle has sent its lines. -/
def Cluster.sentLines (k : Cluster) (now : Nat) (sent : List Nat) : Cluster :=
  { k with wbs := k.wbs.filter (fun e => !decide (e.2.2 ≤ now)), sentWbs := k.sentWbs ++ sent }

theorem gatingTick_of_sends (s : State) (c : Nat) (h : s.gatingSends c ≠ []) :
    s.gatingTick c = (s.sendLines (s.gatingSends c)).updCluster c (fun k => k.sentLines (s.sendLines (s.gatingSends c)).dcc
      (((s.sendLines (s.gatingSends c)).backs.filter (fun b => decide (s.nextId ≤ b.id))).map (fun b => b.id))) := by
  unfold State.gatingTick
  exact if_neg h

theorem gatingTick_of_none (s : State) (c : Nat) (h : s.gatingSends c = []) : s.gatingTick c = s := by
  unfold State.gatingTick
  exact if_pos h

theorem gatingTick_only (s : State) (c : Nat) :
    s.gatingTick c = { s with clusters := (s.gatingTick c).clusters, cores := (s.gatingTick c).cores, backs := (s.gatingTick c).backs
                              nextId := (s.gatingTick c).nextId } := by
  by_cases h : s.gatingSends c = []
  · rw [gatingTick_of_none s c h]
  · rw [gatingTick_of_sends s c h]
    have hs := (sendsLines_sendLines s (s.gatingSends c)).only
    generalize s.sendLines (s.gatingSends c) = u at hs
    rw [hs]
    rfl

theorem gatingTick_cluster_of_ne (s : State) {c n : Nat} (h : n ≠ c) : (s.gatingTick c).cluster n = s.cluster n := by
  by_cases hn : s.gatingSends c = []
  · rw [gatingTick_of_none s c hn]
  · rw [gatingTick_of_sends s c hn, State.cluster_updCluster_of_ne _ _ h, (sendsLines_sendLines ..).only]
    rfl

theorem gatingTick_cluster_self (s : State) (c : Nat) :
    (s.gatingTick c).cluster c = { s.cluster c with wbs := (s.cluster c).wbs.filter (fun e => decide (s.dcc < e.2.2))
                                                    sentWbs := ((s.gatingTick c).cluster c).sentWbs } := by
  by_cases h : s.gatingSends c = []
  · rw [gatingTick_of_none s c h]
    have hall : (s.cluster c).wbs.filter (fun e => decide (s.dcc < e.2.2)) = (s.cluster c).wbs :=
      List.filter_eq_self.mpr (fun e he => by simpa using List.filter_eq_nil_iff.mp h e he)
    rw [hall]
  · have hu := (sendsLines_sendLines s (s.gatingSends c)).only
    rw [gatingTick_of_sends s c h, State.cluster_updCluster_self]
    generalize s.sendLines (s.gatingSends c) = u at hu
    have hk : u.cluster c = s.cluster c := by rw [hu]; rfl
    have hd : u.dcc = s.dcc := by rw [hu]
    simp only [hk, hd, Cluster.sentLines, ← decide_not, not_le]

/-- A dirty line whose cycle has come, the only one of its core, is sent and is one that the commit waits for. -/
theorem gatingTick_sends {s : State} {c core line : Nat} {l : L1Line} (hl : s.l1Line? core line = some l) (hd : l.dirty ≠ 0)
    (hmem : ∃ e ∈ s.gatingSends c, e.1 = core) (hone : ∀ e ∈ s.gatingSends c, e.1 = core → e.2.1 = line) :
    ∃ b, LineSent s (s.gatingTick c) core line l b ∧ b.id ∈ ((s.gatingTick c).cluster c).sentWbs := by
  have hne : s.gatingSends c ≠ [] := by
    obtain ⟨e, he, _⟩ := hmem
    exact List.ne_nil_of_mem he
  obtain ⟨b, hb⟩ := sendLines_sends hl hd hmem hone
  rw [gatingTick_of_sends s c hne, State.cluster_updCluster_self]
  refine ⟨b, { hb with found := hb.found }, List.mem_append_right _ (List.mem_map.mpr ⟨b, ?_, rfl⟩)⟩
  exact List.mem_filter.mpr ⟨hb.found, decide_eq_true hb.id⟩

/-- The cluster as its gating begins. -/
def State.gatingBegins (s : State) (c : Nat) : State :=
  s.updCluster c (fun k => { k with state := .gating, since := s.dcc, lastWb := s.dcc, wbs := s.gatingWrites c, sentWbs := [] })

theorem execGatingStart_due (s : State) (c : Nat) (h : s.gatingDue c = true) :
    exec (.gatingStart c) s = .next ((s.gatingBegins c).gatingTick c) := by
  show execGatingStart c s = _
  rw [execGatingStart, if_neg (by simp [h])]
  rfl

theorem gatingSends_gatingBegins (s : State) (c : Nat) :
    (s.gatingBegins c).gatingSends c = (s.gatingWrites c).filter (fun e => decide (e.2.2 ≤ s.dcc)) := by
  rw [State.gatingSends, State.gatingBegins, State.cluster_updCluster_self]
  rfl

/-- In the first cycle of its gating a cluster sends, of each core, the first dirty line alone. -/
theorem mem_gatingSends_begins {s : State} {c core n : Nat} {r : List Nat} (hlines : s.dirtyLines core = n :: r) {e : Nat × Nat × Nat}
    (he : e.1 = core) : e ∈ (s.gatingBegins c).gatingSends c ↔ core ∈ clusterCores c ∧ e.2 = (n, s.dcc) := by
  obtain ⟨_, line, due⟩ := e
  obtain rfl : _ = core := he
  rw [gatingSends_gatingBegins, List.mem_filter, mem_gatingWrites, decide_eq_true_eq]
  dsimp only
  rw [hlines, Prod.mk.injEq]
  constructor
  · rintro ⟨⟨hc, i, hi, rfl⟩, hle⟩
    obtain rfl : i = 0 := by omega
    exact ⟨hc, (Option.some.inj hi).symm, rfl⟩
  · rintro ⟨hc, rfl, rfl⟩
    exact ⟨⟨hc, 0, rfl, rfl⟩, le_rfl⟩

theorem gatingStart_completes (s : State) (c : Nat) (h : s.gatingDue c = true) :
    ∃ t, exec (.gatingStart c) s = .next t
      ∧ t = { s with clusters := t.clusters, cores := t.cores, backs := t.backs, nextId := t.nextId } ∧ (∀ n, n ≠ c → t.cluster n = s.cluster n)
      ∧ t.cluster c = { s.cluster c with state := .gating, since := s.dcc, lastWb := s.dcc
                                         wbs := (s.gatingWrites c).filter (fun e => decide (s.dcc < e.2.2)), sentWbs := (t.cluster c).sentWbs }
      ∧ ∀ core ∈ clusterCores c, ∀ n r l, s.dirtyLines core = n :: r → s.l1Line? core n = some l → l.dirty ≠ 0 →
        (∀ m ∈ r, (core, m, s.dcc + 1 + r.idxOf m) ∈ s.gatingWrites c)
        ∧ ∃ b ∈ t.backs, b.core = core ∧ b.line = n ∧ b.sectors = l.dirty ∧ b.data = l.data ∧ s.dcc < b.due ∧ b.id ∈ (t.cluster c).sentWbs := by
  refine ⟨_, execGatingStart_due s c h, gatingTick_only (s.gatingBegins c) c, fun n hn => ?_, ?_, ?_⟩
  · rw [gatingTick_cluster_of_ne _ hn, State.gatingBegins, State.cluster_updCluster_of_ne _ _ hn]
  · have hk : (s.gatingBegins c).cluster c = { s.cluster c with
        state := .gating, since := s.dcc, lastWb := s.dcc, wbs := s.gatingWrites c, sentWbs := [] } := State.cluster_updCluster_self ..
    have hd : (s.gatingBegins c).dcc = s.dcc := rfl
    have ht := gatingTick_cluster_self (s.gatingBegins c) c
    rwa [hk, hd] at ht
  · intro core hcore n r l hlines hl hd
    obtain ⟨b, hb, hid⟩ := gatingTick_sends (s := s.gatingBegins c) (c := c) hl hd
      ⟨(core, n, s.dcc), (mem_gatingSends_begins hlines rfl).mpr ⟨hcore, rfl⟩, rfl⟩
      (fun e he hec => by rw [((mem_gatingSends_begins hlines hec).mp he).2])
    exact ⟨fun m hm => gatingWrites_behind hcore hlines hm, b, hb.found, hb.core, hb.line, hb.sectors, hb.data, hb.due, hid⟩

/-! ### The commit (R375, R377) -/

/-- A core whose L1 and TLBs are discarded. -/
def Core.discarded (k : Core) : Core := { k with l1 := [], l1tlb := [], coreTlb := [], walkAhead := [] }

theorem core_discards (s : State) (l : List Nat) (n : Nat) :
    (l.foldl (fun s core => s.updCore core Core.discarded) s).core n = if n ∈ l then (s.core n).discarded else s.core n := by
  induction l generalizing s with
  | nil => rfl
  | cons k r ih =>
    rw [List.foldl_cons, ih, State.core_updCore]
    by_cases hk : n = k
    · subst hk
      simp [Core.discarded]
    · simp [hk]

theorem discards_only (s : State) (l : List Nat) :
    l.foldl (fun s core => s.updCore core Core.discarded) s
      = { s with cores := (l.foldl (fun s core => s.updCore core Core.discarded) s).cores } :=
  List.foldlRecOn (motive := fun t : State => t = { s with cores := t.cores }) l _ rfl
    (fun t ht core _ => by rw [ht]; rfl)

/-- A cluster once its gating has committed. -/
def Cluster.committed (k : Cluster) (now : Nat) : Cluster :=
  { k with state := .gated, since := now, row := 0, allow := (k.cap.toNat : Int), negCycles := 0, struckAll := false
           req := BitVec.ofNat 16 (k.vmax.toNat + 256), rail := k.railPend.getD k.rail, railPend := none, idle := 0, sentWbs := [] }

theorem Cluster.committed_req (k : Cluster) (now : Nat) : (k.committed now).req.toNat = k.vmax.toNat + 256 := by
  have := k.vmax.isLt
  show (BitVec.ofNat 16 (k.vmax.toNat + 256)).toNat = _
  rw [BitVec.toNat_ofNat]
  omega

theorem execGatingCommit_due (s : State) (c : Nat) (h : s.commitDue c = true) :
    exec (.gatingCommit c) s = .next ((clusterCores c).foldl (fun s core => s.updCore core Core.discarded)
      (s.updCluster c (fun k => k.committed s.dcc))) := by
  show execGatingCommit c s = _
  rw [execGatingCommit, if_neg (by simp [h])]
  rfl

theorem gatingCommit_completes (s : State) (c : Nat) (h : s.commitDue c = true) :
    ∃ t, exec (.gatingCommit c) s = .next t ∧ t = { s with clusters := t.clusters, cores := t.cores }
      ∧ t.cluster c = (s.cluster c).committed s.dcc
      ∧ ∀ core, t.core core = if core ∈ clusterCores c then (s.core core).discarded else s.core core := by
  have honly := discards_only (s.updCluster c (fun k => k.committed s.dcc)) (clusterCores c)
  have hcore := core_discards (s.updCluster c (fun k => k.committed s.dcc)) (clusterCores c)
  refine ⟨_, execGatingCommit_due s c h, ?_, ?_, hcore⟩
  · rw [honly]
    rfl
  · rw [honly]
    exact s.cluster_updCluster_self c (fun k => k.committed s.dcc)

/-! ### Register writes (R367, R372, R375) -/

/-- A power register ignores a write that is not the controller's, and every write in recovery and in the fatal state (R388, R390). -/
theorem power_writes_ignored (s : State) (c : Nat) (v : W64) {src : Source} (h : src ≠ .controller ∨ s.answers = false) :
    exec (.pwrcfgWrite c v src) s = .next s ∧ exec (.railselWrite c v src) s = .next s ∧ ∀ upper, exec (.rampWrite c upper v src) s = .next s := by
  have hsrc : (!fromController src) = true ∨ (!s.answers) = true := by
    rcases h with h | h
    · exact Or.inl (by simpa [fromController] using h)
    · exact Or.inr (by simp [h])
  refine ⟨if_pos ?_, if_pos hsrc, fun _ => if_pos hsrc⟩
  exact hsrc.elim Or.inl (fun ha => Or.inr (Or.inl ha))

theorem toNat_capField (v : W64) : (v.extractLsb' 16 32).toNat = v.toNat / 2 ^ 16 % 2 ^ 32 := by
  rw [BitVec.extractLsb'_toNat, Nat.shiftRight_eq_div_pow]

theorem pwrcfgWrite_completes (s : State) (c : Nat) (v : W64) (ha : s.answers = true) (hpos : 0 < v.toNat / 2 ^ 16 % 2 ^ 32)
    (hlt : v.toNat / 2 ^ 16 % 2 ^ 32 < 2 ^ 31) :
    ClusterBecomes (.pwrcfgWrite c v .controller) s c { s.cluster c with refill := v.extractLsb' 0 16, cap := v.extractLsb' 16 32 } := by
  refine clusterBecomes_of_updCluster (f := fun k => { k with refill := v.extractLsb' 0 16, cap := v.extractLsb' 16 32 }) (if_neg ?_)
  rw [← toNat_capField] at hpos hlt
  have hne : v.extractLsb' 16 32 ≠ 0 := fun h0 => by rw [h0] at hpos; exact absurd hpos (by decide)
  simp only [fromController, ha, beq_self_eq_true, Bool.not_true, Bool.false_eq_true, false_or, hne]
  omega

theorem pwrcfgWrite_ignores_cap (s : State) (c : Nat) (v : W64) (h : v.toNat / 2 ^ 16 % 2 ^ 32 = 0 ∨ 2 ^ 31 ≤ v.toNat / 2 ^ 16 % 2 ^ 32) :
    exec (.pwrcfgWrite c v .controller) s = .next s := by
  rw [← toNat_capField] at h
  exact if_pos (Or.inr (Or.inr (h.imp (fun h0 => BitVec.eq_of_toNat_eq h0) id)))

/-- The cluster once a write of RAILSEL has acted. -/
def Cluster.selectRail (k : Cluster) (r : BitVec 2) : Cluster :=
  if k.state = .gated then { k with rail := r, railPend := none } else { k with railPend := some r }

theorem railselWrite_completes (s : State) (c : Nat) (v : W64) (ha : s.answers = true) :
    ClusterBecomes (.railselWrite c v .controller) s c ((s.cluster c).selectRail (v.extractLsb' 0 2)) :=
  clusterBecomes_of_updCluster (f := fun k => k.selectRail (v.extractLsb' 0 2)) (if_neg (by simp [fromController, ha]))

/-- RAIL reads as written at once (00 R6). -/
theorem Cluster.read_selectRail (k : Cluster) (v : W64) : (k.selectRail (v.extractLsb' 0 2)).read 0x28 % 4 = v.toNat % 4 := by
  have hfield : (v.extractLsb' 0 2).toNat = v.toNat % 4 := by rw [BitVec.extractLsb'_toNat]; rfl
  have hrail : ((k.selectRail (v.extractLsb' 0 2)).railPend.getD (k.selectRail (v.extractLsb' 0 2)).rail) = v.extractLsb' 0 2 := by
    unfold Cluster.selectRail
    split <;> rfl
  simp only [Cluster.read, hrail, at_, hfield]
  omega

/-! ### RAMP (R372) -/

/-- A cluster's limiter in the step of a cycle; a step that it has not entered begins with nothing made. -/
def Cluster.stepAt (k : Cluster) (dcc : Nat) : Cluster :=
  if k.step = dcc / 4 then k else { k with step := dcc / 4, budget := k.ramp k.row, demand := 0, made := 0, fillers := 0 }
/-- A cluster with one half of its table written. -/
def Cluster.setRamp (k : Cluster) (upper : Bool) (v : W64) : Cluster := if upper then { k with ramp1 := v } else { k with ramp0 := v }

theorem Cluster.stepAt_sameTable (k : Cluster) (dcc : Nat) : k.SameTable (k.stepAt dcc) := by
  unfold Cluster.stepAt
  split <;> exact ⟨rfl, rfl, rfl⟩

theorem Cluster.SameTable.setRamp {k k' : Cluster} (h : k.SameTable k') (upper : Bool) (v : W64) :
    (k.setRamp upper v).SameTable (k'.setRamp upper v) := by
  obtain ⟨hr, h0, h1⟩ := h
  cases upper
  · exact ⟨hr, rfl, h1⟩
  · exact ⟨hr, h0, rfl⟩

@[simp] theorem Cluster.setRamp_row (k : Cluster) (upper : Bool) (v : W64) : (k.setRamp upper v).row = k.row := by
  unfold Cluster.setRamp; split <;> rfl
@[simp] theorem Cluster.setRamp_budget (k : Cluster) (upper : Bool) (v : W64) : (k.setRamp upper v).budget = k.budget := by
  unfold Cluster.setRamp; split <;> rfl

/-- The table's entries stay at 64 or below and rise. -/
theorem Cluster.rampOk_iff (k : Cluster) : k.rampOk = true ↔ (∀ n < 16, k.ramp n ≤ 64) ∧ ∀ n < 15, k.ramp n ≤ k.ramp (n + 1) := by
  simp [Cluster.rampOk]

theorem Cluster.SameTable.rampOk {k k' : Cluster} (h : k.SameTable k') : k'.rampOk = k.rampOk := by
  rw [Bool.eq_iff_iff, Cluster.rampOk_iff, Cluster.rampOk_iff]
  simp only [h.ramp]

theorem execRampWrite_controller (s : State) (c : Nat) (upper : Bool) (v : W64) (ha : s.answers = true) :
    exec (.rampWrite c upper v .controller) s = .next (if ((s.cluster c).setRamp upper v).rampOk
      then s.updCluster c (fun _ => ((s.cluster c).stepAt s.dcc).setRamp upper v) else s) := by
  rw [← (((s.cluster c).stepAt_sameTable s.dcc).setRamp upper v).rampOk]
  exact if_neg (by simp [fromController, ha])

theorem rampWrite_completes (s : State) (c : Nat) (upper : Bool) (v : W64) (ha : s.answers = true)
    (hok : ((s.cluster c).setRamp upper v).rampOk = true) :
    ∃ t, exec (.rampWrite c upper v .controller) s = .next t ∧ t = { s with clusters := t.clusters }
      ∧ (t.cluster c).ramp0 = ((s.cluster c).setRamp upper v).ramp0 ∧ (t.cluster c).ramp1 = ((s.cluster c).setRamp upper v).ramp1
      ∧ (t.cluster c).row = (s.cluster c).row ∧ ((s.cluster c).step = s.dcc / 4 → (t.cluster c).budget = (s.cluster c).budget) := by
  have he := execRampWrite_controller s c upper v ha
  rw [if_pos hok] at he
  obtain ⟨hrow, h0, h1⟩ := ((s.cluster c).stepAt_sameTable s.dcc).setRamp upper v
  refine ⟨_, he, rfl, ?_⟩
  rw [State.cluster_updCluster_self]
  refine ⟨h0, h1, hrow.trans (Cluster.setRamp_row ..), fun hstep => ?_⟩
  rw [Cluster.setRamp_budget, Cluster.stepAt, if_pos hstep]

/-- A write of the controller that would leave a table that does not rise, or has an entry above 64, is ignored. -/
theorem rampWrite_ignores_table (s : State) (c : Nat) (upper : Bool) (v : W64) (hbad : ¬ ((s.cluster c).setRamp upper v).rampOk = true) :
    exec (.rampWrite c upper v .controller) s = .next s := by
  by_cases ha : s.answers = true
  · rw [execRampWrite_controller s c upper v ha, if_neg hbad]
  · exact (power_writes_ignored s c v (Or.inr (by simpa using ha))).2.2 upper

end Sys2Proof.Machine
end

section
/-! SUPPORT. The statement about the power controls. -/

open Sys2Proof Sys2Proof.Machine

/-- Settles O44, from the completion lemma of each power step. -/
theorem powerSteps : Obligations.PowerSteps := by
  unfold Obligations.PowerSteps
  refine ⟨fun s c => ?_, fun s c v => ?_, fun s c => slewStep_completes s c⟩
  · refine ⟨allowanceUpdate_completes s c, fun hneg hrun hstruck => pacSustainedStrike_completes s c ?_,
      fun h => ?_, gatingStart_completes s c, fun h => ?_,
      fun hstate hsince => clusterAwake_completes s c ?_⟩
    · simp [Cluster.sustained, hneg, hrun, hstruck]
    · obtain ⟨t, slack, ht, honly, hk⟩ := voltageInterval_completes s c h
      refine ⟨t, slack, ht, honly, ?_⟩
      rw [hk]
      exact ⟨rfl, rfl⟩
    · obtain ⟨t, ht, honly, hk, hcores⟩ := gatingCommit_completes s c h
      refine ⟨t, ht, honly, ?_⟩
      rw [hk]
      exact ⟨rfl, rfl, rfl, Cluster.committed_req .., rfl, rfl, hcores⟩
    · simp [State.wakeDue, hstate, hsince]
  · refine ⟨pwrcfgWrite_completes s c v, pwrcfgWrite_ignores_cap s c v, fun ha hg => ?_, fun ha hg => ?_, fun ha => ?_,
      fun upper => ⟨fun ha h64 hrise => ?_, fun hbad => ?_⟩,
      fun src => power_writes_ignored s c v⟩
    · have h := railselWrite_completes s c v ha
      rwa [Cluster.selectRail, if_pos hg] at h
    · have h := railselWrite_completes s c v ha
      rwa [Cluster.selectRail, if_neg hg] at h
    · obtain ⟨t, ht, _, hk⟩ := railselWrite_completes s c v ha
      refine ⟨t, ht, ?_⟩
      rw [hk c, if_pos rfl]
      exact Cluster.read_selectRail ..
    · exact rampWrite_completes s c upper v ha ((Cluster.rampOk_iff _).mpr ⟨h64, hrise⟩)
    · refine rampWrite_ignores_table s c upper v (fun hok => ?_)
      obtain ⟨h64, hrise⟩ := (Cluster.rampOk_iff _).mp hok
      rcases hbad with ⟨n, hn, h⟩ | ⟨n, hn, h⟩
      · exact absurd (h64 n hn) (not_le.mpr h)
      · exact absurd (hrise n hn) (not_le.mpr h)

end

section
/-! SUPPORT. Writes of the host's and the controller's registers: the block that takes a write, what each register's write leaves in it, and
that nothing but registers changes (R6, 11 R252, 18 R379-R388). -/

namespace Sys2Proof.Machine

/-! ### The frame -/

/-- Nothing but registers differs. -/
def RegistersOnly (s t : State) : Prop := t = { s with sched := t.sched, clusters := t.clusters, dies := t.dies, pkg := t.pkg }

theorem RegistersOnly.refl (s : State) : RegistersOnly s s := rfl

theorem registersOnly_updPkg (s : State) (f : Package → Package) : RegistersOnly s (s.updPkg f) := rfl
theorem registersOnly_updTenant (s : State) (t : Nat) (f : Tenant → Tenant) : RegistersOnly s (s.updTenant t f) := rfl
theorem registersOnly_updQueue (s : State) (q : Nat) (f : Queue → Queue) : RegistersOnly s (s.updQueue q f) := rfl
theorem registersOnly_updCluster (s : State) (c : Nat) (f : Cluster → Cluster) : RegistersOnly s (s.updCluster c f) := rfl
theorem registersOnly_updDie (s : State) (d : Nat) (f : Die → Die) : RegistersOnly s (s.updDie d f) := rfl

/-- A write that its condition may hold back keeps what the write keeps. -/
theorem RegistersOnly.ite {s t : State} {p : Prop} [Decidable p] (h : RegistersOnly s t) : RegistersOnly s (if p then t else s) := by
  split
  · exact h
  · exact .refl s

theorem registersOnly_writeSched (s : State) (off : Nat) (v : W64) (src : Source) : RegistersOnly s (s.writeSched off v src) := by
  unfold State.writeSched
  dsimp only
  split
  · exact .ite rfl
  split
  · exact .ite rfl
  split
  · exact .ite (registersOnly_updTenant ..)
  split
  · exact .ite (registersOnly_updTenant ..)
  split
  · exact .ite (registersOnly_updTenant ..)
  split
  · split
    · exact .refl s
    · split
      · exact registersOnly_updQueue ..
      · exact registersOnly_updQueue ..
      · exact .refl s
  · exact .refl s

theorem registersOnly_writePackage (s : State) (off : Nat) (v : W64) (src : Source) : RegistersOnly s (s.writePackage off v src) := by
  unfold State.writePackage
  split
  · exact .ite (registersOnly_updPkg ..)
  split
  · exact .refl s
  split
  · exact registersOnly_updPkg ..
  split
  · exact registersOnly_updPkg ..
  split
  · exact registersOnly_updPkg ..
  · exact .ite (registersOnly_updTenant ..)

/-- A register write answers a next state in which nothing but registers has changed. -/
theorem registerWrite_completes (s : State) (off : Nat) (v : W64) (src : Source) :
    ∃ t, exec (.registerWrite off v src) s = .next t ∧ RegistersOnly s t := by
  refine ⟨_, rfl, ?_⟩
  split
  · exact .ite (registersOnly_writePackage ..)
  split
  · exact .refl s
  split
  · exact registersOnly_writeSched ..
  split
  · exact .ite (registersOnly_updCluster ..)
  split
  · exact .refl s
  split
  · exact registersOnly_updDie ..
  · exact .ite (registersOnly_updDie ..)

theorem registersOnly_of_write {s t : State} {off : Nat} {v : W64} {src : Source} (h : exec (.registerWrite off v src) s = .next t) :
    RegistersOnly s t := by
  obtain ⟨u, hu, honly⟩ := registerWrite_completes s off v src
  obtain rfl : t = u := by rw [h] at hu; exact Host.Outcome.next.inj hu
  exact honly

/-! ### The block that takes a write -/

theorem State.answers_iff (s : State) : s.answers = true ↔ s.pkg.fwState ≠ 2 ∧ s.pkg.fwState ≠ 3 := by
  simp [State.answers]

theorem registerWrite_package {s : State} {off r : Nat} {v : W64} {src : Source} (hoff : off = 0x30000 + r) (hr : r < 0x200)
    (hsrc : fromManagement src = true) : exec (.registerWrite off v src) s = .next (s.writePackage r v src) := by
  subst hoff
  show execRegisterWrite _ v src s = _
  rw [execRegisterWrite, if_pos (by omega), if_pos hsrc, Nat.add_sub_cancel_left]

theorem registerWrite_sched {s : State} {off : Nat} {v : W64} {src : Source} (ha : s.answers = true) (hoff : off < 0x2000) :
    exec (.registerWrite off v src) s = .next (s.writeSched off v src) := by
  show execRegisterWrite _ v src s = _
  rw [execRegisterWrite, if_neg (by omega), if_neg (by simp [ha]), if_pos hoff]

theorem registerWrite_cluster {s : State} {off k r : Nat} {v : W64} (ha : s.answers = true) (hoff : off = 0x3000 + 0x40 * k + r) (hk : k < 32)
    (hr : r < 0x40) :
    exec (.registerWrite off v .controller) s = .next (s.updCluster k (fun c => (c.write r v).wakingReq s.dcc)) := by
  have hblock : (off - 0x3000) / 0x40 = k := by omega
  have hreg : off % 0x40 = r := by omega
  show execRegisterWrite _ v .controller s = _
  rw [execRegisterWrite, if_neg (by omega), if_neg (by simp [ha]), if_neg (by omega), if_pos (by omega), if_pos rfl, hblock, hreg]

theorem registerWrite_debug {s : State} {off d r : Nat} {v : W64} {src : Source} (ha : s.answers = true) (hsrc : fromManagement src = true)
    (hoff : off = 0x10000 + 0x4000 * d + r) (hd : d < 4) (hr : r < 0x4000) :
    exec (.registerWrite off v src) s = .next (s.updDie d (fun k => k.writeDebug r v)) := by
  have hblock : off / 0x4000 % 4 = d := by omega
  have hreg : off % 0x4000 = r := by omega
  show execRegisterWrite _ v src s = _
  rw [execRegisterWrite, if_neg (by omega), if_neg (by simp [ha]), if_neg (by omega), if_neg (by omega), if_neg (by simp [hsrc]), if_pos (by omega),
    hblock, hreg]

theorem registerWrite_system {s : State} {off d r : Nat} {v : W64} {src : Source} (ha : s.answers = true) (hsrc : fromManagement src = true)
    (hoff : off = 0x20000 + 0x100 * d + r) (hd : d < 4) (hr : r < 0x100) :
    exec (.registerWrite off v src) s = .next (s.updDie d (fun k => k.writeSystem r v)) := by
  have hblock : off / 0x100 % 4 = d := by omega
  have hreg : off % 0x100 = r := by omega
  show execRegisterWrite _ v src s = _
  rw [execRegisterWrite, if_neg (by omega), if_neg (by simp [ha]), if_neg (by omega), if_neg (by omega), if_neg (by simp [hsrc]), if_neg (by omega),
    if_pos (by omega), hblock, hreg]

/-! ### Writes that are ignored -/

/-- A tenant's function writes nothing beyond the scheduler block (R379). -/
theorem registerWrite_tenant_beyond (s : State) {off : Nat} (v : W64) (tenant : Nat) (h : 0x3000 ≤ off) :
    exec (.registerWrite off v (.tenant tenant)) s = .next s := by
  show execRegisterWrite _ v _ s = _
  rw [execRegisterWrite]
  congr 1
  split
  · rfl
  split
  · rfl
  rw [if_neg (by omega)]
  split <;> rfl

/-- A package that does not answer takes no write but of its mailbox (R388, R390). -/
theorem registerWrite_unanswered {s : State} (ha : s.answers = false) {off : Nat} (v : W64) (src : Source) (h : off < 0x30100 ∨ 0x30200 ≤ off) :
    exec (.registerWrite off v src) s = .next s := by
  have hna : (!s.answers) = true := by simp [ha]
  show execRegisterWrite _ v _ s = _
  rw [execRegisterWrite, if_pos hna]
  congr 1
  split
  · split
    · rw [State.writePackage, if_neg (by omega), if_pos hna]
    · rfl
  · rfl

/-! ### The package block -/

theorem writePackage_dump {s : State} (ha : s.answers = true) (v : W64) (src : Source) :
    s.writePackage 8 v src = s.updPkg (fun p => { p with dump := keepBits v 20 32 }) := by
  rw [State.writePackage, if_neg (by decide), if_neg (by simp [ha]), if_pos rfl]

theorem writePackage_aperture {s : State} (ha : s.answers = true) (v : W64) (src : Source) : s.writePackage 0x20 v src
    = s.updPkg (fun p => { p with apEn := v.getLsbD 0, apErr := p.apErr && !v.getLsbD 1, apStart := keepBits v 32 20 }) := by
  rw [State.writePackage, if_neg (by decide), if_neg (by simp [ha]), if_neg (by decide), if_pos rfl]

theorem writePackage_peer {s : State} (ha : s.answers = true) {k : Nat} (hk : k < 8) (v : W64) (src : Source) :
    s.writePackage (0x40 + 8 * k) v src = s.updPkg (fun p => { p with
      peers := setT Peer.reset p.peers k { getT Peer.reset p.peers k with en := v.getLsbD 0, number := v.extractLsb' 8 8 } }) := by
  have hindex : (0x40 + 8 * k - 0x40) / 8 = k := by omega
  rw [State.writePackage, if_neg (by omega), if_neg (by simp [ha]), if_neg (by omega), if_neg (by omega), if_pos (by omega), hindex]

theorem writePackage_tapcfg {s : State} (ha : s.answers = true) {k : Nat} (hk : k < 4) (v : W64) (src : Source) :
    s.writePackage (0x80 + 8 * k) v src = s.updTenant k (fun t => { t with tapAsid := v.extractLsb' 0 16, tapEn := v.getLsbD 16 }) := by
  have hindex : (0x80 + 8 * k - 0x80) / 8 = k := by omega
  rw [State.writePackage, if_neg (by omega), if_neg (by simp [ha]), if_neg (by omega), if_neg (by omega), if_neg (by omega), if_pos (by omega),
    hindex]

/-! ### The mailbox (R383) -/

theorem writePackage_mailbox (s : State) {r : Nat} (hr : 0x100 ≤ r) (v : W64) :
    s.writePackage r v .pf0 = s.updPkg (fun p => p.writeMailbox r v) := by
  rw [State.writePackage, if_pos hr, if_pos rfl]

theorem Package.writeMailbox_arg {p : Package} (hp : p.mbState ≠ 1) {i : Nat} (v : W64) :
    p.writeMailbox (0x110 + 8 * i) v = { p with mbArg := setT 0 p.mbArg i v } := by
  have hindex : (0x110 + 8 * i - 0x110) / 8 = i := by omega
  rw [Package.writeMailbox, if_neg (by omega), if_neg hp, if_neg (by omega), hindex]

theorem Package.writeMailbox_go {p : Package} (hp : p.mbState ≠ 1) {v : W64} (hv : v.getLsbD 63 = true) :
    p.writeMailbox 0x100 v = { p with mbOp := v.extractLsb' 0 8, mbGo := true, mbState := 1, mbCopy := p.mbArg
                                      mbResult := p.refusal (v.extractLsb' 0 8).toNat } := by
  rw [Package.writeMailbox, if_neg (by decide), if_neg hp, if_pos rfl, if_pos hv]
  rfl

/-- The requests that are served: any of the four, and in recovery a FWRELOAD alone (R383, R388). -/
theorem Package.refusal_eq_none_iff (p : Package) (op : Nat) :
    p.refusal op = none ↔ p.fwState ≠ 3 ∧ (p.fwState = 2 → op = 4) ∧ 1 ≤ op ∧ op ≤ 4 := by
  unfold Package.refusal
  split
  · next h =>
    refine iff_of_false (by simp) (fun ⟨h3, h2, _⟩ => ?_)
    rcases h with h | ⟨h, hop⟩
    · exact h3 h
    · exact hop (h2 h)
  · next h =>
    obtain ⟨h3, h2⟩ := not_or.mp h
    have h2' : p.fwState = 2 → op = 4 := fun hf => not_not.mp (fun hop => h2 ⟨hf, hop⟩)
    split
    · next hop => exact iff_of_false (by simp) (by omega)
    · next hop => exact iff_of_true rfl ⟨h3, h2', by omega, by omega⟩

/-! ### The scheduler block -/

theorem writeSched_quantum (s : State) (v : W64) {src : Source} (hsrc : fromManagement src = true) :
    s.writeSched 0 v src = { s with sched := { s.sched with quantum := v.extractLsb' 0 32 } } := by
  rw [State.writeSched, if_pos rfl, if_pos hsrc]

theorem writeSched_code (s : State) {k : Nat} (hk : k < 4) (v : W64) {src : Source} (hsrc : mayTenant src k = true) :
    s.writeSched (0x120 + 8 * k) v src = s.updTenant k (fun x =>
      { x with code := x.code &&& ~~~(v.extractLsb' 0 8), drops := if x.code &&& ~~~(v.extractLsb' 0 8) = 0 then 0 else x.drops }) := by
  have hindex : (0x120 + 8 * k) / 8 % 4 = k := by omega
  rw [State.writeSched, if_neg (by omega), if_neg (by omega), if_pos (by omega), hindex, if_pos hsrc]

theorem writeSched_tapva (s : State) {k : Nat} (hk : k < 4) (v : W64) {src : Source} (hsrc : mayTenant src k = true) :
    s.writeSched (0x160 + 8 * k) v src = s.updTenant k (fun x => { x with tapva := keepBits v 32 25, taperr := x.taperr && !v.getLsbD 0 }) := by
  have hindex : (0x160 + 8 * k) / 8 % 4 = k := by omega
  rw [State.writeSched, if_neg (by omega), if_neg (by omega), if_neg (by omega), if_neg (by omega), if_pos (by omega), hindex, if_pos hsrc]

theorem writeSched_qbase (s : State) {n : Nat} (hn : n < 64) (v : W64) {src : Source} (hsrc : mayTenant src (s.queue n).tenant = true) :
    s.writeSched (0x1000 + 0x40 * n) v src = s.updQueue n (fun q => { q with base := keepBits v 12 40 }) := by
  have hindex : (0x1000 + 0x40 * n - 0x1000) / 0x40 = n := by omega
  have hreg : (0x1000 + 0x40 * n) % 0x40 = 0 := by omega
  rw [State.writeSched, if_neg (by omega), if_neg (by omega), if_neg (by omega), if_neg (by omega), if_neg (by omega), if_pos (by omega), hindex,
    if_neg (by simp [hsrc]), hreg]
  rfl

theorem writeSched_qctl (s : State) {n : Nat} (hn : n < 64) (v : W64) {src : Source} (hsrc : mayTenant src (s.queue n).tenant = true) :
    s.writeSched (0x1000 + 0x40 * n + 8) v src = s.updQueue n (fun q => Queue.enable q (q.writeCtl v (fromManagement src))) := by
  have hindex : (0x1000 + 0x40 * n + 8 - 0x1000) / 0x40 = n := by omega
  have hreg : (0x1000 + 0x40 * n + 8) % 0x40 = 8 := by omega
  rw [State.writeSched, if_neg (by omega), if_neg (by omega), if_neg (by omega), if_neg (by omega), if_neg (by omega), if_pos (by omega), hindex,
    if_neg (by simp [hsrc]), hreg]
  rfl

/-- Setting EN leaves the fields of QCTL as written. -/
theorem Queue.enable_only (old q : Queue) : Queue.enable old q = { q with
    tail := (Queue.enable old q).tail, head := (Queue.enable old q).head, buffer := (Queue.enable old q).buffer
    pollAt := (Queue.enable old q).pollAt, pollOk := (Queue.enable old q).pollOk } := by
  unfold Queue.enable
  split
  · rfl
  · split <;> rfl

/-- TAIL and HEAD count from the write that sets EN (R252). -/
theorem Queue.enable_starts {old q : Queue} (hold : old.en = false) (hq : q.en = true) :
    (Queue.enable old q).head = 0 ∧ (Queue.enable old q).tail = 0 := by
  rw [Queue.enable, if_pos (by simp [hold, hq])]
  exact ⟨rfl, rfl⟩

/-- A write of QCTL sets EN, PRIO and LOGN whoever makes it, and not the ring's base. -/
theorem Queue.writeCtl_shared (q : Queue) (v : W64) (full : Bool) : (q.writeCtl v full).en = v.getLsbD 0
    ∧ (q.writeCtl v full).prio = v.toNat / 4 % 32 ∧ (q.writeCtl v full).logn = v.toNat / 2 ^ 12 % 16 ∧ (q.writeCtl v full).base = q.base := by
  cases full <;> exact ⟨rfl, rfl, rfl, rfl⟩

/-- A tenant's write of QCTL leaves the fields of the management function (R252). -/
theorem Queue.writeCtl_tenant (q : Queue) (v : W64) : (q.writeCtl v false).privq = q.privq ∧ (q.writeCtl v false).tenant = q.tenant
    ∧ (q.writeCtl v false).asid = q.asid ∧ (q.writeCtl v false).domain = q.domain := ⟨rfl, rfl, rfl, rfl⟩

end Sys2Proof.Machine
end

section
/-! SUPPORT. The statement about the registers of the host: what each register's write leads to, and the statement assembled. -/

namespace Sys2Proof.Machine

/-- A register write takes `s` to `t`, and nothing but registers changes. -/
def WritesTo (s : State) (v : W64) (off : Nat) (src : Source) (t : State) : Prop :=
  exec (.registerWrite off v src) s = .next t ∧ RegistersOnly s t

theorem writesTo_of_exec {s t : State} {v : W64} {off : Nat} {src : Source} (h : exec (.registerWrite off v src) s = .next t) :
    WritesTo s v off src t := ⟨h, registersOnly_of_write h⟩

variable {s : State} {v : W64} {src : Source}

/-! ### Registers of the management function -/

theorem write_quantum (ha : s.answers = true) (hsrc : fromManagement src = true) :
    ∃ t, WritesTo s v 0 src t ∧ t.sched = { s.sched with quantum := v.extractLsb' 0 32 } :=
  ⟨_, writesTo_of_exec (registerWrite_sched ha (by decide)), by rw [writeSched_quantum s v hsrc]⟩

theorem write_system (ha : s.answers = true) (hsrc : fromManagement src = true) {off d : Nat} (r : Nat) (hoff : off = 0x20000 + 0x100 * d + r)
    (hd : d < 4) (hr : r < 0x100) :
    ∃ t, WritesTo s v off src t ∧ ∀ n, t.die n = if n = d then (s.die d).writeSystem r v else s.die n :=
  ⟨_, writesTo_of_exec (registerWrite_system ha hsrc hoff hd hr), fun n => s.die_updDie d n _⟩

theorem write_debug (ha : s.answers = true) (hsrc : fromManagement src = true) {off d : Nat} (r : Nat) (hoff : off = 0x10000 + 0x4000 * d + r)
    (hd : d < 4) (hr : r < 0x4000) :
    ∃ t, WritesTo s v off src t ∧ ∀ n, t.die n = if n = d then (s.die d).writeDebug r v else s.die n :=
  ⟨_, writesTo_of_exec (registerWrite_debug ha hsrc hoff hd hr), fun n => s.die_updDie d n _⟩

/-- A write that the package block takes as an update of the package leaves the scheduler and the dies. -/
theorem write_package (hsrc : fromManagement src = true) {off r : Nat} (hoff : off = 0x30000 + r) (hr : r < 0x200) {f : Package → Package}
    (hf : s.writePackage r v src = s.updPkg f) : ∃ t, WritesTo s v off src t ∧ t.pkg = f s.pkg ∧ t.sched = s.sched ∧ t.dies = s.dies :=
  ⟨_, writesTo_of_exec ((registerWrite_package hoff hr hsrc).trans (congrArg _ hf)), rfl, rfl, rfl⟩

theorem write_peer (ha : s.answers = true) (hsrc : fromManagement src = true) {k : Nat} (hk : k < 8) :
    ∃ t, WritesTo s v (0x30040 + 8 * k) src t ∧ ∀ n, getT Peer.reset t.pkg.peers n
      = if n = k then { getT Peer.reset s.pkg.peers k with en := v.getLsbD 0, number := v.extractLsb' 8 8 } else getT Peer.reset s.pkg.peers n := by
  obtain ⟨t, ht, hpkg, _⟩ := write_package hsrc (Nat.add_assoc 0x30000 0x40 _) (by omega) (writePackage_peer ha hk v src)
  refine ⟨t, ht, fun n => ?_⟩
  rw [hpkg]
  exact getT_setT ..

theorem write_tapcfg (ha : s.answers = true) (hsrc : fromManagement src = true) {k : Nat} (hk : k < 4) :
    ∃ t, WritesTo s v (0x30080 + 8 * k) src t
      ∧ ∀ n, t.tenant n = if n = k then { s.tenant k with tapAsid := v.extractLsb' 0 16, tapEn := v.getLsbD 16 } else s.tenant n :=
  ⟨_, writesTo_of_exec ((registerWrite_package (Nat.add_assoc 0x30000 0x80 _) (by omega) hsrc).trans (congrArg _ (writePackage_tapcfg ha hk v src))),
    fun n => s.tenant_updTenant k n _⟩

/-- REQ of a cluster that is not waking is not held at its highest. -/
theorem Cluster.wakingReq_of_ne {k : Cluster} (h : k.state ≠ .waking) (now : Nat) : k.wakingReq now = k :=
  if_neg (fun hw => h hw.1)

theorem write_weights (ha : s.answers = true) {k : Nat} (hk : k < 32) (hstate : (s.cluster k).state ≠ .waking) :
    ∃ t, WritesTo s v (0x3008 + 0x40 * k) .controller t
      ∧ ∀ n, t.cluster n = if n = k then (s.cluster k).write 8 v else s.cluster n := by
  refine ⟨_, writesTo_of_exec (registerWrite_cluster (k := k) (r := 8) ha (by omega) hk (by decide)), fun n => ?_⟩
  have hkeep : ((s.cluster k).write 8 v).wakingReq s.dcc = (s.cluster k).write 8 v :=
    Cluster.wakingReq_of_ne (k := (s.cluster k).write 8 v) hstate _
  rw [State.cluster_updCluster, hkeep]

/-! ### Registers of a queue and of a tenant -/

theorem write_qbase (ha : s.answers = true) {n : Nat} (hn : n < 64) (hsrc : mayTenant src (s.queue n).tenant = true) :
    ∃ t, WritesTo s v (0x1000 + 0x40 * n) src t ∧ t.queue n = { s.queue n with base := keepBits v 12 40 } ∧ ∀ m, m ≠ n → t.queue m = s.queue m := by
  have he := registerWrite_sched (off := 0x1000 + 0x40 * n) (v := v) (src := src) ha (by omega)
  rw [writeSched_qbase s hn v hsrc] at he
  exact ⟨_, writesTo_of_exec he, s.queue_updQueue_self n _, fun m hm => (s.queue_updQueue n m _).trans (if_neg hm)⟩

theorem write_qctl (ha : s.answers = true) {n : Nat} (hn : n < 64) (hsrc : mayTenant src (s.queue n).tenant = true) :
    ∃ t, WritesTo s v (0x1000 + 0x40 * n + 8) src t
      ∧ t.queue n = Queue.enable (s.queue n) ((s.queue n).writeCtl v (fromManagement src)) ∧ ∀ m, m ≠ n → t.queue m = s.queue m := by
  have he := registerWrite_sched (off := 0x1000 + 0x40 * n + 8) (v := v) (src := src) ha (by omega)
  rw [writeSched_qctl s hn v hsrc] at he
  exact ⟨_, writesTo_of_exec he, s.queue_updQueue_self n _, fun m hm => (s.queue_updQueue n m _).trans (if_neg hm)⟩

/-- A bit of a tenant's code that a 1 is written to clears, and no other (R6). -/
theorem getLsbD_clearCode (code : BitVec 8) (v : W64) {b : Nat} (hb : b < 8) :
    (code &&& ~~~(v.extractLsb' 0 8)).getLsbD b = (code.getLsbD b && !v.getLsbD b) := by
  simp [hb]

theorem write_code (ha : s.answers = true) {k : Nat} (hk : k < 4) (hsrc : mayTenant src k = true) :
    ∃ t, WritesTo s v (0x120 + 8 * k) src t ∧ (t.tenant k).code = (s.tenant k).code &&& ~~~(v.extractLsb' 0 8)
      ∧ ∀ n, n ≠ k → t.tenant n = s.tenant n := by
  have he := registerWrite_sched (off := 0x120 + 8 * k) (v := v) (src := src) ha (by omega)
  rw [writeSched_code s hk v hsrc] at he
  exact ⟨_, writesTo_of_exec he, by rw [State.tenant_updTenant_self], fun n hn => (s.tenant_updTenant k n _).trans (if_neg hn)⟩

theorem write_tapva (ha : s.answers = true) {k : Nat} (hk : k < 4) (hsrc : mayTenant src k = true) :
    ∃ t, WritesTo s v (0x160 + 8 * k) src t ∧ t.tenant k = { s.tenant k with tapva := keepBits v 32 25, taperr := (s.tenant k).taperr && !v.getLsbD 0 }
      ∧ ∀ n, n ≠ k → t.tenant n = s.tenant n := by
  have he := registerWrite_sched (off := 0x160 + 8 * k) (v := v) (src := src) ha (by omega)
  rw [writeSched_tapva s hk v hsrc] at he
  exact ⟨_, writesTo_of_exec he, s.tenant_updTenant_self k _, fun n hn => (s.tenant_updTenant k n _).trans (if_neg hn)⟩

/-! ### The mailbox -/

theorem write_mbarg (hp : s.pkg.mbState ≠ 1) {i : Nat} (hi : i < 30) :
    ∃ t, WritesTo s v (0x30110 + 8 * i) .pf0 t ∧ ∀ n, getT 0 t.pkg.mbArg n = if n = i then v else getT 0 s.pkg.mbArg n := by
  obtain ⟨t, ht, hpkg, _⟩ := write_package rfl (Nat.add_assoc 0x30000 0x110 _) (by omega) (writePackage_mailbox s (r := 0x110 + 8 * i) (by omega) v)
  refine ⟨t, ht, fun n => ?_⟩
  rw [hpkg, Package.writeMailbox_arg hp]
  exact getT_setT ..

/-- GO starts a request on a copy of its arguments; one that is refused has its result at once (R383). -/
theorem write_go (hp : s.pkg.mbState ≠ 1) (hv : v.getLsbD 63 = true) :
    ∃ t, WritesTo s v 0x30100 .pf0 t ∧ t.pkg.mbState = 1 ∧ t.pkg.mbGo = true ∧ t.pkg.mbOp.toNat = v.toNat % 256 ∧ t.pkg.mbCopy = s.pkg.mbArg
      ∧ (t.pkg.mbResult = none ↔ s.pkg.fwState ≠ 3 ∧ (s.pkg.fwState = 2 → t.pkg.mbOp = 4) ∧ 1 ≤ t.pkg.mbOp.toNat ∧ t.pkg.mbOp.toNat ≤ 4) := by
  obtain ⟨t, ht, hpkg, _⟩ := write_package rfl (Nat.add_zero 0x30100) (by decide) (writePackage_mailbox s (r := 0x100) le_rfl v)
  refine ⟨t, ht, ?_⟩
  rw [hpkg, Package.writeMailbox_go hp hv]
  have hop : v.extractLsb' 0 8 = 4 ↔ (v.extractLsb' 0 8).toNat = 4 := BitVec.toNat_inj.symm
  refine ⟨rfl, rfl, BitVec.extractLsb'_toNat .., rfl, ?_⟩
  rw [hop]
  exact Package.refusal_eq_none_iff ..

end Sys2Proof.Machine

open Sys2Proof Sys2Proof.Machine

/-- Settles O49, from what each register's write leads to. -/
theorem hostRegisters : Obligations.HostRegisters := by
  unfold Obligations.HostRegisters
  intro s v
  refine ⟨fun off src => registerWrite_completes s off v src, fun off tenant => registerWrite_tenant_beyond s v tenant,
    fun hstate off src => registerWrite_unanswered ?_ v src, fun h2 h3 src hsrc => ?_, fun h2 h3 n hn src hsrc => ⟨?_, ?_⟩,
    fun h2 h3 k hk src hsrc => ⟨?_, ?_⟩, fun hp => ⟨fun i => write_mbarg hp, write_go hp⟩⟩
  · rw [← Bool.not_eq_true, State.answers_iff]
    tauto
  · have ha := s.answers_iff.mpr ⟨h2, h3⟩
    have hm : fromManagement src = true := by rcases hsrc with rfl | rfl <;> rfl
    refine ⟨write_quantum ha hm, fun d hd => ?_, write_package hm rfl (by decide) (writePackage_dump ha v src),
      write_package hm rfl (by decide) (writePackage_aperture ha v src), fun k => write_peer ha hm, fun k => write_tapcfg ha hm, ?_⟩
    · exact ⟨write_system ha hm 0 rfl hd (by decide), write_system ha hm 8 rfl hd (by decide), write_system ha hm 16 rfl hd (by decide),
        write_system ha hm 32 rfl hd (by decide), write_debug ha hm 0 rfl hd (by decide)⟩
    · rintro rfl k hk hstate
      exact write_weights ha hk hstate
  · exact write_qbase (s.answers_iff.mpr ⟨h2, h3⟩) hn hsrc
  · obtain ⟨t, ht, hq, hothers⟩ := write_qctl (v := v) (s.answers_iff.mpr ⟨h2, h3⟩) hn hsrc
    obtain ⟨hen, hprio, hlogn, hbase⟩ := (s.queue n).writeCtl_shared v (fromManagement src)
    refine ⟨t, ht, ?_, hothers⟩
    rw [hq]
    refine ⟨?_, ?_, ?_, ?_, fun hold hset => Queue.enable_starts hold (hen.trans hset), ?_⟩
    all_goals rw [Queue.enable_only]
    · exact hen
    · exact hprio
    · exact hlogn
    · exact hbase
    · rintro tenant rfl
      exact (s.queue n).writeCtl_tenant v
  · obtain ⟨t, ht, hcode, hothers⟩ := write_code (v := v) (s.answers_iff.mpr ⟨h2, h3⟩) hk hsrc
    exact ⟨t, ht, fun b hb => by rw [hcode, getLsbD_clearCode _ _ hb], hothers⟩
  · obtain ⟨t, ht, htenant, hothers⟩ := write_tapva (v := v) (s.answers_iff.mpr ⟨h2, h3⟩) hk hsrc
    exact ⟨t, ht, by rw [htenant]; rfl, by rw [htenant], hothers⟩

end

section
/-! SUPPORT. What an event of one part leaves: its part updated, or in its trap handler, or moved on after changes in its core alone. -/

namespace Sys2Proof.Machine

/-! ### An update of one part -/

/-- An update of a resident part leaves every other part, the wave's other fields and the rest of the state. -/
theorem updPart_effect {s : State} {r : PartRef} {c : Ctx} (h : s.ctx? r = some c) (f : Part → Part) (hf : ∀ p, (f p).base = p.base) :
    ∃ w, OnlyWave c s (s.updPart r f) ∧ SameVregs c.wave w ∧ WaveIs c (s.updPart r f) id (f c.part) w := by
  obtain ⟨rfl, hw, hp, -, -⟩ := ctx_parts h
  refine ⟨c.wave.updPart c.ref.base f, onlyWave_updPart c s f, ⟨rfl, rfl⟩, wave?_updWave_some hw _, rfl, ?_, fun b hb => ?_⟩
  · rw [Wave.part?_updPart_self _ _ _ hf, hp]
    rfl
  · exact Wave.part?_updPart_of_ne _ _ hf hb

/-- An event that answers an update of its part has that update as its whole effect. -/
theorem eventResult_of_updPart {i : Instr} {r : PartRef} {ready : State → Ctx → Prop} (g : State → Ctx → Part → Part)
    (hg : ∀ s c p, (g s c p).base = p.base)
    (he : ∀ s c, s.ctx? r = some c → ready s c → exec i s = .next (s.updPart r (g s c))) :
    EventResult i r ready (fun s c => g s c c.part) := by
  intro s c h hready
  obtain ⟨w, hw⟩ := updPart_effect h (g s c) (hg s c)
  exact ⟨_, w, he s c h hready, hw⟩

/-! ### The trap handler (12 R275) -/

theorem part?_of_ctx {s : State} {r : PartRef} {c : Ctx} (h : s.ctx? r = some c) : s.part? r = some c.part := by
  obtain ⟨-, hw, hp, -, -⟩ := ctx_parts h
  rw [State.part?, hw, Option.bind_some, hp]

theorem takeTrap_of_ready {s : State} {r : PartRef} {c : Ctx} (h : s.ctx? r = some c) (ready : HandlerReady c) (t : Trap) :
    s.takeTrap r t = s.updPart r (fun q => q.enterHandler t s.dcc) := by
  obtain ⟨hcode, hframes⟩ := ready
  rw [State.takeTrap, part?_of_ctx h]
  dsimp only
  rw [if_neg (fun hh => hh.1 hcode)]
  cases hf : c.part.frames with
  | nil => rfl
  | cons f r => exact if_neg (hframes.resolve_left (by simp [hf]))

/-- A trap at the part's own instruction enters the handler of a part that is ready for it. -/
theorem takeTrap_inHandler {s : State} {r : PartRef} {c : Ctx} (h : s.ctx? r = some c) (ready : HandlerReady c) (code detail : Nat)
    (taddr resume : W64) :
    ∃ w p, InHandler c s (s.takeTrap r { code := code, detail := detail, taddr := taddr, tword := c.part.pc, resume := resume })
      code detail taddr resume w p := by
  rw [takeTrap_of_ready h ready]
  obtain ⟨w, honly, hsame, hwave⟩ := updPart_effect h (fun q => q.enterHandler _ s.dcc) (fun _ => rfl)
  exact ⟨w, _, honly, hsame, hwave, rfl⟩

/-! ### Changes in cores alone -/

/-- Nothing but cores differs. -/
def CoresOnly (s t : State) : Prop := t = { s with cores := t.cores }

theorem CoresOnly.trans {s t u : State} (h : CoresOnly s t) (k : CoresOnly t u) : CoresOnly s u := by
  unfold CoresOnly at *
  rw [k, h]

theorem coresOnly_dropClean (s : State) (core line : Nat) (mask : BitVec 4) : CoresOnly s (s.dropClean core line mask) := by
  unfold State.dropClean
  split <;> rfl

theorem coresOnly_acquireL1 (s : State) (core scope : Nat) : CoresOnly s (s.acquireL1 core scope) := by
  unfold State.acquireL1
  split <;> rfl

theorem CoresOnly.ctx? {s t : State} (h : CoresOnly s t) (r : PartRef) : t.ctx? r = s.ctx? r := by rw [h]; rfl
theorem CoresOnly.wave? {s t : State} (h : CoresOnly s t) (k : Nat) : t.wave? k = s.wave? k := by rw [h]; rfl
theorem CoresOnly.mem {s t : State} (h : CoresOnly s t) : t.mem = s.mem := by rw [h]
theorem CoresOnly.dcc {s t : State} (h : CoresOnly s t) : t.dcc = s.dcc := by rw [h]

/-- A part updated after changes in cores: those changes and the part are all that differs. -/
theorem CoresOnly.updPart_effect {s u : State} (hu : CoresOnly s u) {r : PartRef} {c : Ctx} (h : s.ctx? r = some c) (f : Part → Part)
    (hf : ∀ p, (f p).base = p.base) :
    u.updPart r f = { s with cores := (u.updPart r f).cores, waves := (u.updPart r f).waves }
      ∧ (∀ k, k ≠ c.ref.key → (u.updPart r f).wave? k = s.wave? k)
      ∧ ∃ w, SameVregs c.wave w ∧ WaveIs c (u.updPart r f) id (f c.part) w := by
  obtain ⟨w, honly, hw⟩ := Machine.updPart_effect ((hu.ctx? r).trans h) f hf
  refine ⟨?_, fun k hk => (honly.others k hk).trans (hu.wave? k), w, hw⟩
  rw [State.updPart_cores, honly.state, hu]

end Sys2Proof.Machine
end

section
/-! SUPPORT. The division of a part by the classes of its quads (03 R54), and the one by what its quads await (03 R58). -/

namespace Sys2Proof.Machine

/-! ### Lane sets -/

theorem getLsbD_laneRange (base width i : Nat) : (laneRange base width).getLsbD i = decide (i < 64 ∧ base ≤ i ∧ i < base + width) := by
  rw [laneRange, lowLanes, BitVec.getLsbD_shiftLeft, BitVec.getLsbD_ofNat, Nat.testBit_two_pow_sub_one, Bool.eq_iff_iff]
  simp only [Bool.and_eq_true, decide_eq_true_eq, Bool.not_eq_true', decide_eq_false_iff_not]
  omega

theorem getLsbD_quad {l i : Nat} (hl : l % 4 = 0) : (laneRange l 4).getLsbD i = true ↔ i < 64 ∧ i / 4 * 4 = l := by
  rw [getLsbD_laneRange, decide_eq_true_eq]
  omega

theorem lanes_disjoint_iff {m n : Lanes} : m &&& n = 0 ↔ ∀ i, m.getLsbD i = true → n.getLsbD i = false := by
  constructor
  · intro h i hi
    have hbit : (m &&& n).getLsbD i = false := by rw [h]; exact BitVec.getLsbD_zero
    rwa [BitVec.getLsbD_and, hi, Bool.true_and] at hbit
  · intro h
    refine BitVec.eq_of_getLsbD_eq (fun i _ => ?_)
    rw [BitVec.getLsbD_and]
    cases hi : m.getLsbD i
    · exact BitVec.getLsbD_zero.symm
    · rw [h i hi]
      exact BitVec.getLsbD_zero.symm

/-- A lane is in the union of the sets of some entries of a list if it is in the set of one of them. -/
theorem getLsbD_foldl_or (ls : List Nat) (keep : Nat → Prop) [DecidablePred keep] (f : Nat → Lanes) (i : Nat) :
    (ls.foldl (fun m l => if keep l then m ||| f l else m) 0).getLsbD i = true ↔ ∃ l ∈ ls, keep l ∧ (f l).getLsbD i = true := by
  suffices h : ∀ m : Lanes, (ls.foldl (fun m l => if keep l then m ||| f l else m) m).getLsbD i = true
      ↔ m.getLsbD i = true ∨ ∃ l ∈ ls, keep l ∧ (f l).getLsbD i = true by simpa using h 0
  induction ls with
  | nil => simp
  | cons l r ih =>
    intro m
    rw [List.foldl_cons, ih]
    by_cases h : keep l <;> simp [h, or_assoc]

/-! ### Classes of blocks (R54) -/

/-- A quad is taken, or not, where its active lanes all are. -/
theorem quadClass_of_agree {active taken : Lanes} {l i : Nat} {b : Bool} (hi : (laneRange l 4 &&& active).getLsbD i = true)
    (hagree : ∀ j, (laneRange l 4 &&& active).getLsbD j = true → taken.getLsbD j = b) :
    quadClass active taken l = if b then .taken else .notTaken := by
  have hne : laneRange l 4 &&& active ≠ 0 := fun h0 => by simp [h0] at hi
  have hnot : ∀ j, (laneRange l 4 &&& active).getLsbD j = true → (~~~taken).getLsbD j = !b := by
    intro j hj
    rw [BitVec.getLsbD_not, hagree j hj, decide_eq_true (BitVec.lt_of_getLsbD hj), Bool.true_and]
  unfold quadClass
  dsimp only
  rw [if_neg hne]
  cases b
  · have hmeet : ¬ (laneRange l 4 &&& active) &&& ~~~taken = 0 := fun h0 => by
      have h := lanes_disjoint_iff.mp h0 i hi
      rw [hnot i hi] at h
      cases h
    rw [if_neg hmeet, if_pos (lanes_disjoint_iff.mpr hagree)]
    rfl
  · rw [if_pos (lanes_disjoint_iff.mpr hnot)]
    rfl

/-- A block has the class of each of its quads that is not empty, or its quads are of different classes. -/
theorem blockClass_eq_quadClass {active taken : Lanes} {base width n : Nat} (hn : n < width / 4)
    (hq : quadClass active taken (base + 4 * n) ≠ .empty) :
    blockClass active taken base width = quadClass active taken (base + 4 * n)
      ∨ blockClass active taken base width = .mixed ∧ uniformBlock active taken base width = false := by
  have hmem : quadClass active taken (base + 4 * n) ∈
      ((List.range (width / 4)).map (fun q => quadClass active taken (base + 4 * q))).filter (fun c => c != .empty) := by
    simp only [List.mem_filter, List.mem_map, List.mem_range, bne_iff_ne]
    exact ⟨⟨n, hn, rfl⟩, hq⟩
  unfold blockClass uniformBlock
  revert hmem
  generalize ((List.range (width / 4)).map (fun q => quadClass active taken (base + 4 * q))).filter (fun c => c != .empty) = cs
  intro hmem
  cases cs with
  | nil => simp at hmem
  | cons c r =>
    by_cases hall : r.all (fun d => d == c) = true
    · refine .inl ((if_pos hall).trans ?_)
      rcases List.mem_cons.mp hmem with h | h
      · exact h.symm
      · exact (beq_iff_eq.mp (List.all_eq_true.mp hall _ h)).symm
    · exact .inr ⟨if_neg hall, Bool.eq_false_iff.mpr hall⟩

theorem uniformBlock_quad (active taken : Lanes) (base : Nat) : uniformBlock active taken base 4 = true := by
  unfold uniformBlock
  by_cases h : quadClass active taken base = .empty <;> simp [h]

/-- A block of a division holds the quad at lane `q` and shows its class, unless it is one wider than a quad that MINW keeps whole. -/
structure Block.Shows (active taken : Lanes) (minw : Nat) (b : Block) (q : Nat) : Prop where
  low : b.base ≤ q
  high : q + 4 ≤ b.base + b.width
  cls : b.cls = quadClass active taken q ∨ b.cls = .mixed ∧ 4 < minw

/-- A block that divides no further has the class of its quads, unless MINW keeps it whole. -/
theorem blockClass_of_final {active taken : Lanes} {minw base k n : Nat} (hfinal : finalBlock active taken minw base (4 * 2 ^ k) = true)
    (hn : n < 2 ^ k) (hq : quadClass active taken (base + 4 * n) ≠ .empty) :
    blockClass active taken base (4 * 2 ^ k) = quadClass active taken (base + 4 * n)
      ∨ blockClass active taken base (4 * 2 ^ k) = .mixed ∧ 4 < minw := by
  refine (blockClass_eq_quadClass (by omega) hq).imp_right (fun ⟨hmixed, hmany⟩ => ⟨hmixed, ?_⟩)
  have hwide : 4 * 2 ^ k ≤ minw := by simpa [finalBlock, hmany] using hfinal
  have hk : 2 ^ k ≠ 1 := fun h1 => by simp [h1, uniformBlock_quad] at hmany
  have := Nat.one_le_two_pow (n := k)
  omega

theorem blockClass_ne_empty_of_final {active taken : Lanes} {minw base k n : Nat} (hfinal : finalBlock active taken minw base (4 * 2 ^ k) = true)
    (hn : n < 2 ^ k) (hq : quadClass active taken (base + 4 * n) ≠ .empty) : blockClass active taken base (4 * 2 ^ k) ≠ .empty := by
  rcases blockClass_of_final hfinal hn hq with h | ⟨h, -⟩
  · rwa [h]
  · simp [h]

/-- A division leaves each quad that is not empty in a block that shows its class (R54). -/
theorem divide_shows (active taken : Lanes) (minw : Nat) {fuel k base n : Nat} (hk : k < fuel) (hn : n < 2 ^ k)
    (hq : quadClass active taken (base + 4 * n) ≠ .empty) :
    ∃ b ∈ divide active taken minw fuel base (4 * 2 ^ k), b.Shows active taken minw (base + 4 * n) := by
  induction fuel generalizing k base n with
  | zero => omega
  | succ fuel ih =>
    unfold divide
    by_cases hfinal : finalBlock active taken minw base (4 * 2 ^ k) = true
    · rw [if_pos hfinal]
      exact ⟨_, List.mem_singleton_self _, by dsimp only; omega, by dsimp only; omega, blockClass_of_final hfinal hn hq⟩
    · rw [if_neg hfinal]
      cases k with
      | zero => exact absurd (by simp [finalBlock, uniformBlock_quad]) hfinal
      | succ k =>
        have hhalf : 4 * 2 ^ (k + 1) / 2 = 4 * 2 ^ k := by omega
        have hpow : 2 ^ (k + 1) = 2 * 2 ^ k := by omega
        dsimp only
        rw [hhalf]
        have hhigh : ¬ n < 2 ^ k → base + 4 * n = base + 4 * 2 ^ k + 4 * (n - 2 ^ k) := by omega
        split
        · next hfold =>
          simp only [Bool.and_eq_true, Bool.or_eq_true, beq_iff_eq] at hfold
          obtain ⟨⟨hlo, hhi⟩, hempty⟩ := hfold
          refine ⟨_, List.mem_singleton_self _, by dsimp only; omega, by dsimp only; omega, ?_⟩
          dsimp only
          by_cases hlow : n < 2 ^ k
          · rw [if_neg (blockClass_ne_empty_of_final hlo hlow hq)]
            exact blockClass_of_final hlo hlow hq
          · rw [hhigh hlow] at hq ⊢
            rw [if_pos (hempty.resolve_right (blockClass_ne_empty_of_final hhi (by omega) hq))]
            exact blockClass_of_final hhi (by omega) hq
        · simp only [List.mem_append]
          by_cases hlow : n < 2 ^ k
          · obtain ⟨b, hb, hs⟩ := ih (k := k) (by omega) hlow hq
            exact ⟨b, .inl hb, hs⟩
          · rw [hhigh hlow] at hq ⊢
            obtain ⟨b, hb, hs⟩ := ih (k := k) (by omega) (by omega) hq
            exact ⟨b, .inr hb, hs⟩

/-! ### The division of a part that awaits data (R58) -/

/-- No lane of the quad of lane `l` awaits data. -/
abbrev State.QuadComplete (s : State) (p : Part) (l : Nat) : Prop := s.awaiting p &&& laneRange (l / 4 * 4) 4 = 0

/-- The lanes of a part whose quads are complete. -/
def State.completeLanes (s : State) (p : Part) : Lanes :=
  (blockQuads p.base p.width).foldl (fun m l => if s.awaiting p &&& laneRange l 4 = 0 then m ||| laneRange l 4 else m) 0

/-- The blocks into which a miss divides a part with active lanes `active`. -/
def State.missBlocks (s : State) (p : Part) (active : Lanes) : List Block :=
  divide active (s.completeLanes p) (minWidth p) 5 p.base p.width

/-- The part that stands in a block after a miss. -/
def State.missPart (s : State) (p : Part) (first : Nat) (b : Block) : Part :=
  if b.cls = .taken then { s.childPart p first b with park := .running, notBefore := s.dcc + 1 }
  else { s.childPart p first b with parkedAt := s.dcc + 1 }

theorem divideOnMiss_of_one {s : State} {r : PartRef} {w : Wave} {p : Part} {b : Block}
    (h : s.missBlocks p (p.cur &&& ~~~w.off &&& ~~~w.exited) = [b]) :
    s.divideOnMiss r w p = s.updPart r (fun p => { p with parkedAt := s.dcc + 1 }) := by
  unfold State.missBlocks State.completeLanes at h
  unfold State.divideOnMiss
  dsimp only
  rw [h]

theorem divideOnMiss_of_many {s : State} {r : PartRef} {w : Wave} {p : Part}
    (h : ∀ b, s.missBlocks p (p.cur &&& ~~~w.off &&& ~~~w.exited) ≠ [b]) :
    ∃ first latent, s.divideOnMiss r w p = s.updWave r.key (fun v => v.replacePart p.base
      (((s.missBlocks p (p.cur &&& ~~~w.off &&& ~~~w.exited)).filter (fun b => b.cls != .empty)).map (s.missPart p first)) latent) := by
  unfold State.missBlocks State.completeLanes at *
  unfold State.divideOnMiss
  dsimp only
  split
  · next b hb => exact absurd hb (h b)
  · exact ⟨_, _, rfl⟩

theorem getLsbD_completeLanes {s : State} {p : Part} (hbase : p.base % 4 = 0) (hwidth : p.width % 4 = 0) (i : Nat) :
    (s.completeLanes p).getLsbD i = true ↔ i < 64 ∧ (p.base ≤ i ∧ i < p.base + p.width) ∧ s.QuadComplete p i := by
  rw [State.completeLanes, getLsbD_foldl_or]
  simp only [blockQuads, List.mem_map, List.mem_range]
  constructor
  · rintro ⟨_, ⟨n, hn, rfl⟩, hcomplete, hi⟩
    obtain ⟨h64, hquad⟩ := (getLsbD_quad (by omega)).mp hi
    refine ⟨h64, by omega, ?_⟩
    rwa [State.QuadComplete, hquad]
  · rintro ⟨h64, hin, hcomplete⟩
    exact ⟨i / 4 * 4, ⟨(i / 4 * 4 - p.base) / 4, by omega, by omega⟩, hcomplete, (getLsbD_quad (by omega)).mpr ⟨h64, rfl⟩⟩

/-- The class of the quad of an active lane: whether it is complete. -/
theorem quadClass_completeLanes {s : State} {p : Part} {active : Lanes} {l : Nat} (hbase : p.base % 4 = 0) (hwidth : p.width % 4 = 0)
    (hin : p.base ≤ l ∧ l < p.base + p.width) (hl : active.getLsbD l = true) :
    quadClass active (s.completeLanes p) (l / 4 * 4) = if s.QuadComplete p l then .taken else .notTaken := by
  have h64 : l < 64 := BitVec.lt_of_getLsbD hl
  have hself : (laneRange (l / 4 * 4) 4 &&& active).getLsbD l = true := by
    rw [BitVec.getLsbD_and, (getLsbD_quad (by omega)).mpr ⟨h64, rfl⟩, hl]
    rfl
  have hagree : ∀ i, (laneRange (l / 4 * 4) 4 &&& active).getLsbD i = true → (s.completeLanes p).getLsbD i = decide (s.QuadComplete p l) := by
    intro i hi
    rw [BitVec.getLsbD_and, Bool.and_eq_true, getLsbD_quad (by omega)] at hi
    obtain ⟨⟨hi64, hsame⟩, -⟩ := hi
    have hiff := getLsbD_completeLanes (s := s) hbase hwidth i
    rw [State.QuadComplete, hsame] at hiff
    rw [Bool.eq_iff_iff, hiff, decide_eq_true_eq]
    exact ⟨fun ⟨_, _, h⟩ => h, fun h => ⟨hi64, by omega, h⟩⟩
  rw [quadClass_of_agree hself hagree]
  simp only [decide_eq_true_eq]

/-- What the division of R58 needs of a part: its block is whole quads, a power of two of them, and its path lies in it. -/
structure Part.WholeQuads (p : Part) : Prop where
  width : p.width ∈ [4, 8, 16, 32, 64]
  base : p.base % 4 = 0
  path : ∀ l, p.cur.getLsbD l = true → p.base ≤ l ∧ l < p.base + p.width

/-- A block of a miss that holds an active lane shows whether the lane's quad is complete. -/
structure Block.ShowsMiss (s : State) (p : Part) (b : Block) (l : Nat) : Prop where
  lane : (laneRange b.base b.width).getLsbD l = true
  cls : b.cls = (if s.QuadComplete p l then QuadClass.taken else .notTaken) ∨ b.cls = .mixed ∧ 4 < minWidth p

theorem missBlocks_show {s : State} {p : Part} (hp : p.WholeQuads) {active : Lanes} (hpath : ∀ l, active.getLsbD l = true → p.cur.getLsbD l = true)
    {l : Nat} (hl : active.getLsbD l = true) : ∃ b ∈ s.missBlocks p active, b.ShowsMiss s p l := by
  obtain ⟨hwidth, hbase, hin⟩ := hp
  have hin := hin l (hpath l hl)
  obtain ⟨k, hk, hw⟩ : ∃ k < 5, p.width = 4 * 2 ^ k := by
    simp only [List.mem_cons, List.not_mem_nil, or_false] at hwidth
    rcases hwidth with h | h | h | h | h
    exacts [⟨0, by omega, h⟩, ⟨1, by omega, h⟩, ⟨2, by omega, h⟩, ⟨3, by omega, h⟩, ⟨4, by omega, h⟩]
  have hclass := quadClass_completeLanes (s := s) hbase (by omega) hin hl
  have hat : l / 4 * 4 = p.base + 4 * ((l - p.base) / 4) := by omega
  obtain ⟨b, hb, hlow, hhigh, hcls⟩ := divide_shows active (s.completeLanes p) (minWidth p) (fuel := 5) (base := p.base) hk
    (n := (l - p.base) / 4) (by omega) (by rw [← hat, hclass]; split <;> decide)
  rw [← hat] at hlow hhigh hcls
  rw [hclass] at hcls
  refine ⟨b, by rwa [State.missBlocks, hw], ?_, hcls⟩
  rw [getLsbD_laneRange, decide_eq_true_eq]
  have := BitVec.lt_of_getLsbD hl
  omega

theorem Block.ShowsMiss.cls_ne_empty {s : State} {p : Part} {b : Block} {l : Nat} (h : b.ShowsMiss s p l) : b.cls ≠ .empty := by
  rcases h.cls with h | ⟨h, -⟩ <;> rw [h]
  · split <;> decide
  · decide

theorem Block.ShowsMiss.complete {s : State} {p : Part} {b : Block} {l : Nat} (h : b.ShowsMiss s p l) (ht : b.cls = .taken) :
    s.QuadComplete p l := by
  by_contra hc
  rcases h.cls with h | ⟨h, -⟩
  · rw [if_neg hc, ht] at h
    cases h
  · rw [ht] at h
    cases h

/-- At a MINW of four lanes every block has the class of its quads. -/
theorem Block.ShowsMiss.cls_of_quads {s : State} {p : Part} {b : Block} {l : Nat} (h : b.ShowsMiss s p l) (hm : p.regs.minw = 1) :
    b.cls = if s.QuadComplete p l then .taken else .notTaken :=
  h.cls.resolve_right (fun hmixed => by simp [minWidth, hm] at hmixed)

/-- Two active lanes of quads of both classes stand in different blocks at a MINW of four lanes. -/
theorem missBlocks_ne_one {s : State} {p : Part} (hp : p.WholeQuads) {active : Lanes} (hpath : ∀ l, active.getLsbD l = true → p.cur.getLsbD l = true)
    (hm : p.regs.minw = 1) (hc : ∃ a, active.getLsbD a = true ∧ s.QuadComplete p a) (hw : ∃ a, active.getLsbD a = true ∧ ¬ s.QuadComplete p a)
    (b : Block) : s.missBlocks p active ≠ [b] := by
  intro hone
  obtain ⟨l, hl, hcomplete⟩ := hc
  obtain ⟨m, hma, hwaits⟩ := hw
  obtain ⟨b₁, hb₁, h₁⟩ := missBlocks_show (s := s) hp hpath hl
  obtain ⟨b₂, hb₂, h₂⟩ := missBlocks_show (s := s) hp hpath hma
  rw [hone, List.mem_singleton] at hb₁ hb₂
  subst hb₁ hb₂
  have h := h₁.cls_of_quads hm
  rw [h₂.cls_of_quads hm, if_pos hcomplete, if_neg hwaits] at h
  cases h

theorem missPart_park_running {s : State} {p : Part} {first : Nat} {b : Block} (hpark : p.park ≠ .running) :
    (s.missPart p first b).park = .running ↔ b.cls = .taken := by
  unfold State.missPart
  split
  · next h => simp [h]
  · next h => exact ⟨fun hr => absurd hr hpark, fun ht => absurd ht h⟩

theorem missPart_keeps (s : State) (p : Part) (first : Nat) (b : Block) :
    (s.missPart p first b).pc = p.pc ∧ (s.missPart p first b).regs = p.regs
      ∧ (s.missPart p first b).cur = p.cur &&& laneRange b.base b.width := by
  unfold State.missPart
  split <;> exact ⟨rfl, rfl, rfl⟩

theorem missDue_park {s : State} {p : Part} (h : s.missDue p = true) : p.park = .on .ldZero := by
  simp only [State.missDue, Bool.and_eq_true, beq_iff_eq] at h
  obtain ⟨⟨⟨⟨⟨hpark, -⟩, -⟩, -⟩, -⟩, -⟩ := h
  exact hpark

theorem execMissSplit_due {s : State} {r : PartRef} {c : Ctx} (h : s.ctx? r = some c) (hdue : s.missDue c.part = true) :
    exec (.missSplit r) s = .next (s.divideOnMiss r c.wave c.part) := by
  show execMissSplit r s = _
  rw [execMissSplit, h]
  dsimp only
  rw [if_pos hdue]

/-- What stands for an active lane after a miss: a part on its path, which runs only if the lane's quad is complete, and runs if
quads of both classes divide the part and MINW keeps no quad with another. -/
structure MissStands (s : State) (c : Ctx) (l : Nat) (q : Part) : Prop where
  path : q.cur.getLsbD l = true
  pc : q.pc = c.part.pc
  regs : q.regs = c.part.regs
  running : q.park = .running → s.QuadComplete c.part l
  runs : c.part.regs.minw = 1 → (∃ a, c.emask.getLsbD a = true ∧ s.QuadComplete c.part a) →
    (∃ b, c.emask.getLsbD b = true ∧ ¬ s.QuadComplete c.part b) → s.QuadComplete c.part l → q.park = .running

/-- An active lane is on the current path (04 R88). -/
theorem Ctx.path_of_emask {c : Ctx} {l : Nat} (h : c.emask.getLsbD l = true) : c.part.cur.getLsbD l = true := by
  simp only [Ctx.emask, BitVec.getLsbD_and, Bool.and_eq_true] at h
  obtain ⟨⟨hcur, -⟩, -⟩ := h
  exact hcur

theorem missSplit_completes {s : State} {r : PartRef} {c : Ctx} (h : s.ctx? r = some c) (hdue : s.missDue c.part = true)
    (hp : c.part.WholeQuads) :
    ∃ t v, exec (.missSplit r) s = .next t ∧ OnlyWave c s t ∧ t.wave? c.ref.key = some v ∧ SameVregs c.wave v
      ∧ ∀ l, c.emask.getLsbD l = true → ∃ q ∈ v.parts, MissStands s c l q := by
  have hpark : c.part.park ≠ .running := by rw [missDue_park hdue]; simp
  rw [execMissSplit_due h hdue]
  by_cases hone : ∃ b, s.missBlocks c.part c.emask = [b]
  · obtain ⟨b, hb⟩ := hone
    rw [divideOnMiss_of_one hb]
    obtain ⟨w, honly, hsame, hfound, -, hpart, -⟩ := updPart_effect h (fun p => { p with parkedAt := s.dcc + 1 }) (fun _ => rfl)
    exact ⟨_, w, rfl, honly, hfound, hsame, fun l hl => ⟨_, List.mem_of_find?_eq_some hpart, Ctx.path_of_emask hl, rfl, rfl,
      fun hr => absurd hr hpark, fun hm hc hw => absurd hb (missBlocks_ne_one hp (fun _ => Ctx.path_of_emask) hm hc hw b)⟩⟩
  · obtain ⟨first, latent, hmany⟩ := divideOnMiss_of_many (r := r) (not_exists.mp hone)
    obtain ⟨rfl, hwave, hpart, -, -⟩ := ctx_parts h
    rw [hmany]
    refine ⟨_, _, rfl, onlyWave_updWave c s _, wave?_updWave_some hwave _, ⟨rfl, rfl⟩, fun l hl => ?_⟩
    obtain ⟨b, hb, hshow⟩ := missBlocks_show (s := s) hp (fun _ => Ctx.path_of_emask) hl
    obtain ⟨hpc, hregs, hcur⟩ := missPart_keeps s c.part first b
    refine ⟨s.missPart c.part first b, ?_, ?_, hpc, hregs, ?_, ?_⟩
    · refine List.mem_flatMap.mpr ⟨c.part, List.mem_of_find?_eq_some hpart, ?_⟩
      rw [if_pos rfl]
      exact List.mem_map_of_mem (List.mem_filter.mpr ⟨hb, by simpa using hshow.cls_ne_empty⟩)
    · rw [hcur, BitVec.getLsbD_and, Ctx.path_of_emask hl, hshow.lane]
      rfl
    · exact fun hr => hshow.complete ((missPart_park_running hpark).mp hr)
    · intro hm _ _ hcomplete
      rw [missPart_park_running hpark, hshow.cls_of_quads hm, if_pos hcomplete]

end Sys2Proof.Machine
end

section
/-! SUPPORT. The steps that end a part's wait: at `conf`, in a sleep, at a promise, at a forced-fuse point, in a `fork` and in a `join`. -/

namespace Sys2Proof.Machine

/-! ### Waits that end by the part going on (03 R60, R61; 09 R227; 22 R490) -/

/-- A part that has passed its `conf` after a fusion keeps its last issue and the fusion's cycles. -/
def Part.confOver (p : Part) (now : Nat) : Part :=
  { p.passConf now 1 with lastIssue := p.lastIssue, notBefore := max (now + 1) p.notBefore }

theorem confTimeout_passes (r : PartRef) :
    EventResult (.confTimeout r) r (fun s c => s.confDue c.wave c.part = true) (fun s c => c.part.confOver s.dcc) := by
  refine eventResult_of_updPart (fun s _ p => p.confOver s.dcc) (fun _ _ _ => rfl) (fun s c h hdue => ?_)
  show execConfTimeout r s = _
  rw [execConfTimeout, h]
  exact congrArg _ (if_pos hdue)

/-- A part awake behind its sleep. -/
def Part.awakeAt (p : Part) (c : Ctx) (now : Nat) : Part :=
  { p.moveTo (c.next 4) with park := .running, notBefore := max (p.moveTo (c.next 4)).notBefore now }

theorem sleepWake_wakes (r : PartRef) :
    EventResult (.sleepWake r) r (fun s c => ∃ t, c.part.park = .sleep t ∧ t ≤ s.dcc) (fun s c => c.part.awakeAt c s.dcc) := by
  refine eventResult_of_updPart (fun s c p => p.awakeAt c s.dcc) (fun _ _ _ => rfl) (fun s c h hdue => ?_)
  obtain ⟨t, hpark, ht⟩ := hdue
  show execSleepWake r s = _
  rw [execSleepWake, h]
  exact congrArg _ (if_pos (by simp [State.sleepDue, hpark, ht]))

theorem execPwaitWake_due {s : State} {r : PartRef} {c : Ctx} (h : s.ctx? r = some c) {t n : Nat} {v : W64} (hpark : c.part.park = .pwait t n v)
    (hdue : promiseDue s.dcc t = true) (hfail : c.part.copyFailure n = none) : exec (.pwaitWake r) s = .next (s.endPwait c n v) := by
  have hready : s.pwaitDue c.part = true := by rw [State.pwaitDue, hpark]; exact hdue
  show execPwaitWake r s = _
  rw [execPwaitWake, h]
  simp only [hpark, hready, hfail, Bool.not_true, Bool.false_eq_true, if_false]

theorem pwaitWake_passes (r : PartRef) :
    EventResult (.pwaitWake r) r
      (fun s c => ∃ t n v, c.part.park = .pwait t n v ∧ promiseDue s.dcc t = true ∧ c.part.copyFailure n = none
        ∧ (s.ticketOut c.ref.core c.part n = false ∨ c.part.tcode ≠ 0))
      (fun s c => c.part.past c 4 s.dcc) := by
  refine eventResult_of_updPart (fun s c p => p.past c 4 s.dcc) (fun _ _ _ => rfl) (fun s c h hdue => ?_)
  obtain ⟨t, n, v, hpark, hpromise, hfail, hpass⟩ := hdue
  have hno : ¬ (s.ticketOut c.ref.core c.part n = true ∧ c.part.tcode = 0) := fun ⟨hout, hcode⟩ =>
    hpass.elim (fun hin => by simp [hin] at hout) (fun hin => hin hcode)
  obtain ⟨rfl, -⟩ := ctx_parts h
  rw [execPwaitWake_due h hpark hpromise hfail, State.endPwait, if_neg hno]
  rfl

/-! ### Waits that end in a trap (03 R65; 09 R227) -/

/-- A `pwait` whose copy is still outstanding takes PROMISE and resumes behind itself. -/
theorem pwaitWake_traps {s : State} {r : PartRef} {c : Ctx} (h : s.ctx? r = some c) {t n : Nat} {v : W64} (hpark : c.part.park = .pwait t n v)
    (hdue : promiseDue s.dcc t = true) (hfail : c.part.copyFailure n = none) (hout : s.ticketOut c.ref.core c.part n = true)
    (ready : HandlerReady c) :
    ∃ u w p, exec (.pwaitWake r) s = .next u ∧ InHandler c s u tcPromise 0 v (c.part.pc + 4) w p := by
  obtain ⟨w, p, hin⟩ := takeTrap_inHandler h ready tcPromise 0 v (c.part.pc + 4)
  obtain ⟨rfl, -⟩ := ctx_parts h
  refine ⟨_, w, p, ?_, hin⟩
  rw [execPwaitWake_due h hpark hdue hfail, State.endPwait, if_pos ⟨hout, ready.1⟩]
  rfl

theorem fusefail_traps {s : State} {r : PartRef} {c : Ctx} (h : s.ctx? r = some c) {d l : Nat} (hdue : s.fuseFailDue c.wave c.part = some (d, l))
    (ready : HandlerReady c) :
    ∃ t w p, exec (.fusefail r) s = .next t ∧ InHandler c s t tcFusefail d (BitVec.ofNat 64 (l / 4 * 4)) c.part.pc w p := by
  obtain ⟨w, p, hin⟩ := takeTrap_inHandler h ready tcFusefail d (BitVec.ofNat 64 (l / 4 * 4)) c.part.pc
  obtain ⟨rfl, -⟩ := ctx_parts h
  refine ⟨_, w, p, ?_, hin⟩
  show execFusefail c.ref s = _
  rw [execFusefail, h]
  dsimp only
  rw [hdue]
  rfl

/-! ### The push of a parked `fork` (02 R41; 12 R281) -/

theorem Launch.deque_setDeque (l : Launch) (core : Nat) (d : Deque) : (l.setDeque core d).deque core = d :=
  getT_setT_self _ _ _ d

/-- The traversal states of a wave recorded for a region of one of its parts: no part changes. -/
theorem recordRays_wave {s : State} {r : PartRef} {w : Wave} (h : s.wave? r.key = some w) :
    ∃ v, (s.recordRays r).wave? r.key = some v ∧ v = { w with raysAtRegion := v.raysAtRegion } := by
  refine ⟨_, wave?_updWave_some h _, ?_⟩
  split <;> rfl

theorem execForkPush_due {s : State} {r : PartRef} {c : Ctx} (h : s.ctx? r = some c) {x : Task} (hdue : s.forkDue c = some x) :
    exec (.forkPush r) s = .next (s.pushTask c x) := by
  show execForkPush r s = _
  rw [execForkPush, h]
  dsimp only
  rw [hdue]

theorem part?_updPart_some {w : Wave} {b : Nat} {p : Part} (h : w.part? b = some p) (f : Part → Part) (hf : ∀ p, (f p).base = p.base) :
    (w.updPart b f).part? b = some (f p) := by
  rw [Wave.part?_updPart_self _ _ _ hf, h]
  rfl

/-- A region begins in a part: its entry is written, and no vector register changes. -/
theorem beginRegion_wave {s : State} {r : PartRef} {w : Wave} {p : Part} (hw : s.wave? r.key = some w) (hp : w.part? r.base = some p) (a : W64)
    (counted : Bool) :
    ∃ v, (s.beginRegion r a counted).wave? r.key = some v ∧ SameVregs w v ∧ v.part? r.base = some (p.enterRegion a counted s.dcc) := by
  obtain ⟨v, hv, heq⟩ := recordRays_wave (wave?_updWave_some hw (fun w => w.updPart r.base (fun p => p.enterRegion a counted s.dcc)))
  refine ⟨v, hv, ?_⟩
  rw [heq]
  exact ⟨⟨rfl, rfl⟩, part?_updPart_some hp _ (fun _ => rfl)⟩

theorem onlyWave_beginRegion (c : Ctx) (s : State) (a : W64) (counted : Bool) : OnlyWave c s (s.beginRegion c.ref a counted) :=
  (onlyWave_updPart c s _).trans (onlyWave_updWave c _ _)

/-- The state with a task pushed at the near end of the core's deque. -/
def State.queueTask (s : State) (c : Ctx) (x : Task) : State :=
  s.updLaunch c.wave.launch (fun l => l.setDeque c.ref.core ((l.deque c.ref.core).push x))

theorem queueTask_eq (s : State) (c : Ctx) (x : Task) : s.queueTask c x = { s with launches := (s.queueTask c x).launches } := by
  unfold State.queueTask State.updLaunch
  split <;> rfl

/-- A push queues the task, begins a region behind the `fork`, and lets the part go on (20 R435). -/
theorem pushTask_eq (s : State) (c : Ctx) (x : Task) :
    s.pushTask c x = ((s.queueTask c x).beginRegion c.ref (c.next 4) true).done c 4 := rfl

theorem onlyWave_pushTask (s : State) (c : Ctx) (x : Task) : OnlyWave c (s.queueTask c x) (s.pushTask c x) := by
  rw [pushTask_eq]
  exact (onlyWave_beginRegion c _ _ _).trans (onlyWave_done c _ 4)

theorem launch?_pushTask {s : State} {c : Ctx} (h : s.launch? c.wave.launch = some c.launch) (x : Task) :
    (s.pushTask c x).launch? c.wave.launch = some (c.launch.setDeque c.ref.core ((c.launch.deque c.ref.core).push x)) := by
  have hq := s.updLaunch_self c.wave.launch (fun l => l.setDeque c.ref.core ((l.deque c.ref.core).push x))
  rw [h] at hq
  rw [State.launch?, (onlyWave_pushTask s c x).state]
  exact hq

/-- A push leaves its part running behind its `fork`, where a region has begun. -/
theorem wave?_pushTask {s : State} {c : Ctx} (hw : s.wave? c.ref.key = some c.wave) (hp : c.wave.part? c.ref.base = some c.part) (x : Task) :
    ∃ w, (s.pushTask c x).wave? c.ref.key = some w ∧ SameVregs c.wave w
      ∧ w.part? c.ref.base = some ((c.part.enterRegion (c.next 4) true s.dcc).past c 4 s.dcc) := by
  have hwave : (s.queueTask c x).wave? c.ref.key = some c.wave := by rw [queueTask_eq]; exact hw
  have hdcc : (s.queueTask c x).dcc = s.dcc := by rw [queueTask_eq]
  obtain ⟨v, hv, hsame, hpart⟩ := beginRegion_wave hwave hp (c.next 4) true
  refine ⟨_, wave?_done hv 4, hsame, ?_⟩
  rw [State.beginRegion_dcc, hdcc, part?_updPart_some hpart (fun p => p.past c 4 s.dcc) (fun _ => rfl), hdcc]

theorem forkPush_completes {s : State} {r : PartRef} {c : Ctx} (h : s.ctx? r = some c) {x : Task} (hdue : s.forkDue c = some x) :
    ∃ t w p l, exec (.forkPush r) s = .next t ∧ t = { s with launches := t.launches, waves := t.waves }
      ∧ t.launch? c.wave.launch = some l ∧ l.deque c.ref.core = (c.launch.deque c.ref.core).push x
      ∧ (∀ k, k ≠ c.ref.key → t.wave? k = s.wave? k) ∧ t.wave? c.ref.key = some w ∧ SameVregs c.wave w ∧ w.part? c.ref.base = some p
      ∧ p.regs = c.part.regs ∧ p.pc = c.next 4 ∧ p.region = c.next 4 ∧ p.park = .running := by
  obtain ⟨rfl, hw, hp, -, hl⟩ := ctx_parts h
  have honly := onlyWave_pushTask s c x
  have hframe := honly.state
  rw [queueTask_eq] at hframe
  obtain ⟨w, hwave, hsame, hpart⟩ := wave?_pushTask hw hp x
  refine ⟨_, w, _, _, execForkPush_due h hdue, ?_, launch?_pushTask hl x, Launch.deque_setDeque .., fun k hk => ?_, hwave, hsame, hpart,
    rfl, rfl, rfl, rfl⟩
  · rw [hframe]
  · exact (honly.others k hk).trans (by rw [queueTask_eq]; rfl)

/-! ### A `join` (02 R46; 20 R443) -/

theorem execJoinWake_due {s : State} {r : PartRef} {c : Ctx} (h : s.ctx? r = some c) (hdue : s.joinDue c true = true) :
    exec (.joinWake r) s = .next (s.joinStep c) := by
  show execJoinWake r s = _
  rw [execJoinWake, h]
  exact congrArg _ (if_pos hdue)

theorem execJoinReread_due {s : State} {r : PartRef} {c : Ctx} (h : s.ctx? r = some c) (hdue : s.joinDue c false = true) :
    exec (.joinReread r) s = .next (s.joinStep c) := by
  show execJoinReread r s = _
  rw [execJoinReread, h]
  exact congrArg _ (if_pos hdue)

theorem joinWake_reads {s : State} {r : PartRef} {c : Ctx} (h : s.ctx? r = some c) {a pa n : Nat} (hpark : c.part.park = .join a pa (.reading n))
    (hn : n ≤ s.dcc) : exec (.joinWake r) s = .next (s.joinRead c a pa) := by
  rw [execJoinWake_due h (by simp [State.joinDue, hpark, hn]), State.joinStep, hpark]

theorem joinWake_changed {s : State} {r : PartRef} {c : Ctx} (h : s.ctx? r = some c) {a pa v : Nat} (hpark : c.part.park = .join a pa (.waiting v))
    (hv : natOfBytes (readBytes s.mem pa 8) ≠ v) :
    exec (.joinWake r) s = .next (s.setJoin c a pa (.reread (s.dcc + slicePath c.ref.core pa))) := by
  rw [execJoinWake_due h (by simp [State.joinDue, hpark, hv]), State.joinStep, hpark]

theorem joinReread_rereads {s : State} {r : PartRef} {c : Ctx} (h : s.ctx? r = some c) {a pa n : Nat} (hpark : c.part.park = .join a pa (.reread n))
    (hn : n ≤ s.dcc) (hfar : 1 < paClass pa) :
    exec (.joinReread r) s = .next (s.setJoin c a pa (.reading (s.dcc + joinPath c.ref.core pa))) := by
  have hremote : wakesJoin pa = false := decide_eq_false (by omega)
  rw [execJoinReread_due h (by simp [State.joinDue, hpark, hn, hremote]), State.joinStep, hpark]

/-- The part of `c` has become `p`; nothing else of its wave has changed. -/
def LeavesPart (c : Ctx) (t : State) (p : Part) : Prop := ∃ w, SameVregs c.wave w ∧ WaveIs c t id p w

theorem setJoin_effect {s : State} {r : PartRef} {c : Ctx} (h : s.ctx? r = some c) (a pa : Nat) (j : JoinAt) :
    OnlyWave c s (s.setJoin c a pa j) ∧ LeavesPart c (s.setJoin c a pa j) { c.part with park := .join a pa j } := by
  obtain ⟨w, honly, hw⟩ := updPart_effect h (fun p => { p with park := .join a pa j }) (fun _ => rfl)
  obtain ⟨rfl, -⟩ := ctx_parts h
  exact ⟨honly, w, hw⟩

/-- Where a read of the counter leaves a `join` that does not end: its slice reports the change, or it reads again in 1,024 cycles. -/
def joinAfter (pa value now : Nat) : JoinAt := if paClass pa ≤ 1 then .waiting value else .reread (now + 1024)

/-- A read that nothing holds up: zero ends the `join` after the core's acquire, and another value makes it wait. -/
theorem joinRead_of_free {s : State} {c : Ctx} {a pa : Nat} (hpin : s.pinned (some c.ref.core) pa = false)
    (hbusy : s.lineBusy c.ref.core (pa / 128) = false) :
    s.joinRead c a pa = if natOfBytes (readBytes s.mem pa 8) = 0
      then ((s.dropClean c.ref.core (pa / 128) (sectorsOf pa 8)).acquireL1 c.ref.core 5).done c 4
      else (s.dropClean c.ref.core (pa / 128) (sectorsOf pa 8)).setJoin c a pa (joinAfter pa (natOfBytes (readBytes s.mem pa 8)) s.dcc) := by
  have hclean := coresOnly_dropClean s c.ref.core (pa / 128) (sectorsOf pa 8)
  rw [State.joinRead, if_neg (by simp [hpin]), if_neg (by simp [hbusy]), joinAfter, wakesJoin]
  dsimp only
  rw [hclean.mem, hclean.dcc]
  split
  · rfl
  · by_cases hnear : paClass pa ≤ 1 <;> simp [hnear]

theorem joinRead_effect {s : State} {r : PartRef} {c : Ctx} (h : s.ctx? r = some c) {a pa : Nat} (hpin : s.pinned (some c.ref.core) pa = false)
    (hbusy : s.lineBusy c.ref.core (pa / 128) = false) :
    s.joinRead c a pa = { s with cores := (s.joinRead c a pa).cores, waves := (s.joinRead c a pa).waves }
      ∧ (∀ k, k ≠ c.ref.key → (s.joinRead c a pa).wave? k = s.wave? k)
      ∧ (natOfBytes (readBytes s.mem pa 8) = 0 → LeavesPart c (s.joinRead c a pa) (c.part.past c 4 s.dcc)
        ∧ (s.joinRead c a pa).cores = ((s.dropClean c.ref.core (pa / 128) (sectorsOf pa 8)).acquireL1 c.ref.core 5).cores)
      ∧ (natOfBytes (readBytes s.mem pa 8) ≠ 0 → LeavesPart c (s.joinRead c a pa)
        { c.part with park := .join a pa (joinAfter pa (natOfBytes (readBytes s.mem pa 8)) s.dcc) }) := by
  obtain ⟨rfl, -⟩ := ctx_parts h
  have hclean := coresOnly_dropClean s c.ref.core (pa / 128) (sectorsOf pa 8)
  rw [joinRead_of_free hpin hbusy]
  by_cases hv : natOfBytes (readBytes s.mem pa 8) = 0
  · rw [if_pos hv]
    have hall := hclean.trans (coresOnly_acquireL1 _ c.ref.core 5)
    obtain ⟨hframe, hothers, hleft⟩ := hall.updPart_effect h (fun p => p.past c 4 s.dcc) (fun _ => rfl)
    rw [State.done, State.finish, hall.dcc]
    exact ⟨hframe, hothers, fun _ => ⟨hleft, State.updPart_cores ..⟩, fun hne => absurd hv hne⟩
  · rw [if_neg hv]
    obtain ⟨hframe, hothers, hleft⟩ := hclean.updPart_effect h
      (fun p => { p with park := .join a pa (joinAfter pa (natOfBytes (readBytes s.mem pa 8)) s.dcc) }) (fun _ => rfl)
    exact ⟨hframe, hothers, fun h0 => absurd h0 hv, fun _ => hleft⟩

end Sys2Proof.Machine
end

section
/-! SUPPORT. The statement about the ends of waits. -/

open Sys2Proof Sys2Proof.Machine

/-- Settles O41, from the lemma of each event that ends a wait: the part's update, its handler, the push of its task, the division of its block
and the read of its counter. -/
theorem waitsEnd : Obligations.WaitsEnd := by
  unfold Obligations.WaitsEnd
  refine ⟨fun r => ⟨confTimeout_passes r, sleepWake_wakes r, pwaitWake_passes r, fun s c h => ⟨?_, ?_, ?_, ?_⟩⟩, fun s c r a pa h => ⟨?_, ?_, ?_⟩⟩
  · exact fun _ _ _ hpark hdue hfail hout ready => pwaitWake_traps h hpark hdue hfail hout ready
  · exact fun _ _ hdue ready => fusefail_traps h hdue ready
  · exact fun _ hdue => forkPush_completes h hdue
  · intro hdue hwidth hbase _ hpath _
    obtain ⟨t, v, ht, honly, hv, hsame, hstands⟩ := missSplit_completes h hdue ⟨hwidth, hbase, hpath⟩
    refine ⟨t, v, ht, honly, hv, hsame, fun l hl => ?_⟩
    obtain ⟨q, hq, hs⟩ := hstands l hl
    exact ⟨q, hq, hs.path, hs.pc, hs.regs, hs.running, hs.runs⟩
  · intro n hpark hn hpin hbusy
    obtain ⟨hframe, hothers, hzero, hother⟩ := joinRead_effect (a := a) h hpin hbusy
    refine ⟨_, joinWake_reads h hpark hn, hframe, hothers, hzero, fun hne hnear => ?_, fun hne hfar => ?_⟩
    · have hleft := hother hne
      rwa [joinAfter, if_pos hnear] at hleft
    · have hleft := hother hne
      rwa [joinAfter, if_neg (not_le.mpr hfar)] at hleft
  · exact fun _ hpark hv => ⟨_, joinWake_changed h hpark hv, setJoin_effect h ..⟩
  · exact fun _ hpark hn hfar => ⟨_, joinReread_rereads h hpark hn hfar, setJoin_effect h ..⟩

end

section
/-! SUPPORT. Tables after a filter or a fold of writes, and the order of a sorted list. -/

namespace Sys2Proof.Machine

/-! ### Tables -/

theorem getT_filter_key {α : Type} (d : α) (m : List (Nat × α)) (q : Nat → Bool) (k : Nat) :
    getT d (m.filter (fun e => q e.1)) k = if q k = true then getT d m k else d := by
  rw [getT_eq, getT_eq]
  split
  · next h => rw [lookT_filter _ _ _ (fun _ => h)]
  · next h =>
    suffices hnone : lookT (m.filter (fun e => q e.1)) k = none by rw [hnone]; rfl
    induction m with
    | nil => rfl
    | cons e r ih =>
      rw [List.filter_cons]
      split
      · next he =>
        have hne : e.1 ≠ k := fun hk => h (hk ▸ he)
        rw [lookT, if_neg hne, ih]
      · exact ih

/-- Writes to distinct keys, each of a value that depends on what the key held. -/
theorem getT_foldl_setT {α : Type} [DecidableEq α] (d : α) (f : Nat → α → α) (ks : List Nat) (hks : ks.Nodup) (m : List (Nat × α)) (j : Nat) :
    getT d (ks.foldl (fun t k => setT d t k (f k (getT d t k))) m) j = if j ∈ ks then f j (getT d m j) else getT d m j := by
  induction ks generalizing m with
  | nil => simp
  | cons k r ih =>
    obtain ⟨hk, hr⟩ := List.nodup_cons.mp hks
    rw [List.foldl_cons, ih hr, getT_setT]
    by_cases hj : j = k
    · subst hj
      simp [hk]
    · simp [hj]

theorem lookT_map_snd {α β : Type} (f : α → β) (m : List (Nat × α)) (k : Nat) :
    lookT (m.map (fun e => (e.1, f e.2))) k = (lookT m k).map f := by
  induction m with
  | nil => rfl
  | cons e r ih =>
    rw [List.map_cons, lookT, lookT, ih]
    split <;> rfl

/-! ### Sorted lists -/

theorem insertBy_eq_orderedInsert {α : Type} (le : α → α → Bool) (x : α) (l : List α) :
    insertBy le x l = l.orderedInsert (fun a b => le a b = true) x := by
  induction l with
  | nil => rfl
  | cons y r ih => rw [insertBy, ih, List.orderedInsert_cons]

theorem sortBy_eq_insertionSort {α : Type} (le : α → α → Bool) (l : List α) :
    sortBy le l = l.insertionSort (fun a b => le a b = true) := by
  induction l with
  | nil => rfl
  | cons x r ih => rw [sortBy, ih, insertBy_eq_orderedInsert, List.insertionSort_cons]

theorem mem_sortBy {α : Type} (le : α → α → Bool) (l : List α) (x : α) : x ∈ sortBy le l ↔ x ∈ l := by
  rw [sortBy_eq_insertionSort]
  exact (List.perm_insertionSort _ l).mem_iff

theorem pairwise_sortBy {α : Type} (le : α → α → Bool) (total : ∀ a b, le a b = true ∨ le b a = true)
    (trans : ∀ a b c, le a b = true → le b c = true → le a c = true) (l : List α) :
    (sortBy le l).Pairwise (fun a b => le a b = true) := by
  rw [sortBy_eq_insertionSort]
  have : Std.Total (fun a b => le a b = true) := ⟨total⟩
  have : IsTrans α (fun a b => le a b = true) := ⟨trans⟩
  exact List.pairwise_insertionSort _ l

end Sys2Proof.Machine
end

section
/-! SUPPORT. A wave's vector registers, predicates and quad banks after a release, a claim and the start of a call. -/

namespace Sys2Proof.Machine

/-! ### Quad banks -/

theorem nodup_banks (w : Wave) (base width : Nat) : (w.banks base width).Nodup :=
  List.nodup_range.map (fun a b h => by simpa using h)

theorem poolOf_debitBanks (k : Core) {banks : List Nat} (hb : banks.Nodup) (n b : Nat) :
    poolOf (debitBanks k banks n) b = poolOf k b - if b ∈ banks then n else 0 := by
  rw [poolOf, poolOf, debitBanks, getT_foldl_setT 1024 (fun _ v => v - n) banks hb]
  split <;> rfl

/-! ### Vector registers -/

theorem vKey_depth {depth l m : Nat} (hl : l < 64) (hm : m < 512) : vKey 1 0 0 ≤ vKey depth l m ↔ depth ≠ 0 := by
  unfold vKey
  omega

theorem vKey_register {depth l m : Nat} (hm : m < 512) : vKey depth l m % 512 = m := by
  unfold vKey
  omega

/-- The wave without its uppermost registers outside gate calls, which read 0 (02 R36, notes/assumptions/49.md). -/
def Wave.releaseRegs (w : Wave) (n : Nat) : Wave :=
  { w with allot := w.allot - n, vregs := w.vregs.filter (fun e => decide (vKey 1 0 0 ≤ e.1) || decide (e.1 % 512 < w.allot - n)) }

theorem Wave.v_releaseRegs (w : Wave) (n : Nat) {depth l m : Nat} (hl : l < 64) (hm : m < 512) :
    (w.releaseRegs n).v depth l m = if depth = 0 ∧ w.allot - n ≤ m then 0 else w.v depth l m := by
  rw [Wave.v, Wave.releaseRegs]
  dsimp only
  rw [getT_filter_key 0 _ (fun k => decide (vKey 1 0 0 ≤ k) || decide (k % 512 < w.allot - n))]
  have hkeep : (decide (vKey 1 0 0 ≤ vKey depth l m) || decide (vKey depth l m % 512 < w.allot - n)) = true
      ↔ ¬ (depth = 0 ∧ w.allot - n ≤ m) := by
    rw [Bool.or_eq_true, decide_eq_true_eq, decide_eq_true_eq, vKey_depth hl hm, vKey_register hm]
    omega
  rw [if_congr hkeep rfl rfl, ite_not]
  rfl

/-- The wave with registers added above its allotment, zeroed (02 R37). -/
def Wave.claimRegs (w : Wave) (n : Nat) : Wave :=
  { w with
    vregs := w.vregs.filter (fun e => decide (vKey 1 0 0 ≤ e.1) || !(decide (w.allot ≤ e.1 % 512) && decide (e.1 % 512 < w.allot + n)))
    dirty := (unitsOf 0 0 w.width w.allot (w.allot + n)).foldl addNew w.dirty
    allot := w.allot + n }

theorem Wave.v_claimRegs (w : Wave) (n : Nat) {depth l m : Nat} (hl : l < 64) (hm : m < 512) :
    (w.claimRegs n).v depth l m = if depth = 0 ∧ w.allot ≤ m ∧ m < w.allot + n then 0 else w.v depth l m := by
  rw [Wave.v, Wave.claimRegs]
  dsimp only
  rw [getT_filter_key 0 _ (fun k => decide (vKey 1 0 0 ≤ k) || !(decide (w.allot ≤ k % 512) && decide (k % 512 < w.allot + n)))]
  have hkeep : (decide (vKey 1 0 0 ≤ vKey depth l m)
      || !(decide (w.allot ≤ vKey depth l m % 512) && decide (vKey depth l m % 512 < w.allot + n))) = true
      ↔ ¬ (depth = 0 ∧ w.allot ≤ m ∧ m < w.allot + n) := by
    rw [← Bool.decide_and, ← decide_not, Bool.or_eq_true, decide_eq_true_eq, decide_eq_true_eq, vKey_depth hl hm, vKey_register hm]
    omega
  rw [if_congr hkeep rfl rfl, ite_not]
  rfl

/-- A part's registers at a gate depth are zero; others stay. -/
theorem Wave.v_dropRegs (w : Wave) (depth : Nat) {p : Part} (hp : p.base + p.width ≤ 64) {d l m : Nat} (hl : l < 64) (hm : m < 512) :
    (w.dropRegs depth p).v d l m = if d = depth ∧ p.base ≤ l ∧ l < p.base + p.width then 0 else w.v d l m := by
  rw [Wave.v, Wave.dropRegs]
  dsimp only
  rw [getT_filter_key 0 _ (fun k => !(decide (vKey depth p.base 0 ≤ k) && decide (k < vKey depth (p.base + p.width) 0)))]
  have hin : (vKey depth p.base 0 ≤ vKey d l m ∧ vKey d l m < vKey depth (p.base + p.width) 0)
      ↔ d = depth ∧ p.base ≤ l ∧ l < p.base + p.width := by
    unfold vKey
    omega
  simp only [← Bool.decide_and, hin, Bool.not_eq_true', decide_eq_false_iff_not, ite_not]
  rfl

end Sys2Proof.Machine
end

section
/-! SUPPORT. Register release and claims (02 R36-R39): what a granted claim leaves, which claims a core visits in which order, and the claims that age or can
never be granted. -/

namespace Sys2Proof.Machine

/-! ### A part that goes on in a new region -/

/-- Nothing but the wave of a key differs. -/
structure WaveChange (k : Nat) (s t : State) : Prop where
  state : t = { s with waves := t.waves }
  others : ∀ j, j ≠ k → t.wave? j = s.wave? j

theorem WaveChange.trans {k : Nat} {s t u : State} (h : WaveChange k s t) (h' : WaveChange k t u) : WaveChange k s u :=
  ⟨by rw [h'.state, h.state], fun j hj => (h'.others j hj).trans (h.others j hj)⟩

theorem WaveChange.core {k : Nat} {s t : State} (h : WaveChange k s t) (n : Nat) : t.core n = s.core n := by
  rw [h.state]
  rfl

theorem waveChange_updWave (s : State) (k : Nat) (f : Wave → Wave) : WaveChange k s (s.updWave k f) :=
  ⟨s.updWave_eq k f, fun _ hj => s.wave?_updWave_of_ne f hj⟩

theorem waveChange_updPart (s : State) (r : PartRef) (f : Part → Part) : WaveChange r.key s (s.updPart r f) := waveChange_updWave ..

theorem waveChange_beginRegion (s : State) (r : PartRef) (a : W64) (counted : Bool) : WaveChange r.key s (s.beginRegion r a counted) :=
  (waveChange_updPart ..).trans (waveChange_updWave ..)

/-- A region begins in a part: its entry is written in the part, and of its wave nothing else but the traversal states recorded. -/
theorem beginRegion_part {s : State} {r : PartRef} {w : Wave} {p : Part} (hw : s.wave? r.key = some w) (hp : w.part? r.base = some p) (a : W64)
    (counted : Bool) :
    ∃ v, (s.beginRegion r a counted).wave? r.key = some v ∧ v = { w with parts := v.parts, raysAtRegion := v.raysAtRegion }
      ∧ v.part? r.base = some (p.enterRegion a counted s.dcc) := by
  obtain ⟨v, hv, heq⟩ := recordRays_wave (wave?_updWave_some hw (fun w => w.updPart r.base (fun p => p.enterRegion a counted s.dcc)))
  refine ⟨v, hv, ?_⟩
  rw [heq]
  exact ⟨rfl, part?_updPart_some hp _ (fun _ => rfl)⟩

/-- The part goes on at an address, where a region begins. -/
def State.goesOnAt (s : State) (r : PartRef) (a : W64) : State := (s.beginRegion r a true).finish r a 1

theorem waveChange_goesOnAt (s : State) (r : PartRef) (a : W64) : WaveChange r.key s (s.goesOnAt r a) :=
  (waveChange_beginRegion ..).trans (waveChange_updPart ..)

theorem goesOnAt_part {s : State} {r : PartRef} {w : Wave} {p : Part} (hw : s.wave? r.key = some w) (hp : w.part? r.base = some p) (a : W64) :
    ∃ v, (s.goesOnAt r a).wave? r.key = some v ∧ v = { w with parts := v.parts, raysAtRegion := v.raysAtRegion }
      ∧ v.part? r.base = some (((p.enterRegion a true s.dcc).moveTo a).issued s.dcc 1) := by
  obtain ⟨v, hv, heq, hpart⟩ := beginRegion_part hw hp a true
  refine ⟨_, wave?_updWave_some hv _, ?_, ?_⟩
  · rw [heq]
    rfl
  · rw [part?_updPart_some hpart (fun p => (p.moveTo a).issued _ 1) (fun _ => rfl), State.beginRegion_dcc]

theorem updWave_updCore (s : State) (k core : Nat) (f : Wave → Wave) (g : Core → Core) :
    (s.updCore core g).updWave k f = (s.updWave k f).updCore core g := by
  have hwave : (s.updCore core g).wave? k = s.wave? k := rfl
  unfold State.updWave
  rw [hwave]
  split <;> rfl

/-- A part's core and wave change, and the part goes on in a new region. -/
def State.changeAndGoOn (s : State) (r : PartRef) (f : Wave → Wave) (g : Core → Core) (a : W64) : State :=
  ((s.updCore r.core g).updWave r.key f).goesOnAt r a

theorem changeAndGoOn_effect {s : State} {r : PartRef} {w : Wave} {p : Part} (hw : s.wave? r.key = some w) {f : Wave → Wave}
    (hp : (f w).part? r.base = some p) (g : Core → Core) (a : W64) :
    (s.changeAndGoOn r f g a) = { s with cores := (s.changeAndGoOn r f g a).cores, waves := (s.changeAndGoOn r f g a).waves }
      ∧ (∀ k, k ≠ r.key → (s.changeAndGoOn r f g a).wave? k = s.wave? k)
      ∧ (s.changeAndGoOn r f g a).core r.core = g (s.core r.core)
      ∧ ∃ v, (s.changeAndGoOn r f g a).wave? r.key = some v ∧ v = { f w with parts := v.parts, raysAtRegion := v.raysAtRegion }
        ∧ v.part? r.base = some (((p.enterRegion a true s.dcc).moveTo a).issued s.dcc 1) := by
  have hw' : (s.updCore r.core g).wave? r.key = some w := hw
  have hchange := (waveChange_updWave (s.updCore r.core g) r.key f).trans (waveChange_goesOnAt _ r a)
  obtain ⟨v, hv, heq, hpart⟩ := goesOnAt_part (wave?_updWave_some hw' f) hp a
  rw [State.updWave_dcc] at hpart
  refine ⟨?_, hchange.others, ?_, v, hv, heq, hpart⟩
  · rw [State.changeAndGoOn, hchange.state]
    rfl
  · rw [State.changeAndGoOn, hchange.core, State.core_updCore_self]

/-! ### `regrel` and `regclm` (02 R36, R37) -/

theorem claimPre_none {c : Ctx} (hframes : c.part.frames = []) : claimPre c false = none := by
  simp [claimPre, illegalAt, gateBan, hframes]

theorem execRegrel_next {s : State} {c : Ctx} {r : RWord} {x : W32} (hi : s.issuing = some c) (hframes : c.part.frames = []) (h8 : x.toNat % 8 = 0)
    (free : Free c r.s false none (some (c.effWidth 0))) (h0 : x ≠ 0) (hlt : x.toNat < c.wave.allot) :
    exec (.regrel r x) s
      = .next (s.changeAndGoOn c.ref (fun w => w.releaseRegs x.toNat) (fun k => creditBanks k c.wave.allBanks x.toNat) (c.next 8)) := by
  have hn : x.toNat ≠ 0 := fun h => h0 (BitVec.eq_of_toNat_eq h)
  have hpre : claimPre c (x.toNat % 8 != 0) = none := by rw [h8]; exact claimPre_none hframes
  rw [State.changeAndGoOn, updWave_updCore]
  refine (issue_next _ _ c s hi (by simp) ?_ rfl free).trans (congrArg _ (if_neg hn))
  dsimp only
  rw [hpre]
  exact if_neg (by omega)

theorem regrel_completes {s : State} {c : Ctx} {r : RWord} {x : W32} (hi : s.issuing = some c) (hframes : c.part.frames = []) (h8 : x.toNat % 8 = 0)
    (free : Free c r.s false none (some (c.effWidth 0))) (h0 : x ≠ 0) (hlt : x.toNat < c.wave.allot) :
    ∃ t w p, exec (.regrel r x) s = .next t ∧ t = { s with cores := t.cores, waves := t.waves }
      ∧ (∀ k, k ≠ c.ref.key → t.wave? k = s.wave? k) ∧ t.wave? c.ref.key = some w ∧ w.part? c.ref.base = some p
      ∧ w.allot = c.wave.allot - x.toNat ∧ p.regs = c.part.regs ∧ p.pc = c.part.pc + 8
      ∧ (∀ depth l n, l < 64 → n < 512 → w.v depth l n = if depth = 0 ∧ c.wave.allot - x.toNat ≤ n then 0 else c.wave.v depth l n)
      ∧ t.core c.ref.core = creditBanks (s.core c.ref.core) c.wave.allBanks x.toNat := by
  obtain ⟨hstate, hothers, hcore, v, hv, heq, hpart⟩ := changeAndGoOn_effect (issuing_wave hi) (f := fun w => w.releaseRegs x.toNat)
    (issuing_part hi) (fun k => creditBanks k c.wave.allBanks x.toNat) (c.next 8)
  refine ⟨_, v, _, execRegrel_next hi hframes h8 free h0 hlt, hstate, hothers, hv, hpart, ?_, rfl, rfl, fun depth l n hl hn => ?_, hcore⟩
  · rw [heq]
    rfl
  · rw [heq]
    exact Wave.v_releaseRegs c.wave x.toNat hl hn

/-- A part that parks: nothing else changes. -/
theorem parkPart_effect {s : State} {c : Ctx} (h : s.ctx? c.ref = some c) (k : Park) :
    ∃ w, OnlyWave c s (s.parkPart c.ref k) ∧ SameVregs c.wave w ∧ WaveIs c (s.parkPart c.ref k) id (c.part.parkedAtOnce k s.dcc) w :=
  updPart_effect h (fun p => p.parkedAtOnce k s.dcc) (fun _ => rfl)

theorem regclm_parks {s : State} {c : Ctx} {r : RWord} {x : W32} (hi : s.issuing = some c) (hframes : c.part.frames = []) (h8 : x.toNat % 8 = 0)
    (free : Free c r.s false none (some (c.effWidth 0))) (h0 : x ≠ 0) (hle : c.wave.allot + x.toNat ≤ 256) :
    ∃ t w, exec (.regclm r x) s = .next t ∧ OnlyWave c s t ∧ SameVregs c.wave w
      ∧ WaveIs c t id (c.part.parkedAtOnce (.claim x.toNat s.dcc false) s.dcc) w := by
  have hn : x.toNat ≠ 0 := fun h => h0 (BitVec.eq_of_toNat_eq h)
  have hpre : claimPre c (x.toNat % 8 != 0 || x.toNat == 0) = none := by
    rw [h8, beq_eq_false_iff_ne.mpr hn]
    exact claimPre_none hframes
  obtain ⟨w, hw⟩ := parkPart_effect (issuing_ctx hi) (.claim x.toNat s.dcc false)
  refine ⟨_, w, issue_next _ _ c s hi (by simp) ?_ rfl free, hw⟩
  dsimp only
  rw [hpre]
  exact if_neg (by omega)

/-! ### Ageing and deadlock (02 R38, R39) -/

theorem agePart_claim {p : Part} {n since : Nat} (h : p.park = .claim n since false) (now : Nat) :
    agePart now p = { p with park := .claim n since (decide (since + 4096 ≤ now)) } := by
  unfold agePart
  rw [h]
  dsimp only
  split
  · next hle => rw [decide_eq_true hle]
  · next hlt => rw [decide_eq_false hlt, ← h]

theorem agePart_gclaim {p : Part} {g : GateCall} {since : Nat} (h : p.park = .gclaim g since false) (now : Nat) :
    agePart now p = { p with park := .gclaim g since (decide (since + 4096 ≤ now)) } := by
  unfold agePart
  rw [h]
  dsimp only
  split
  · next hle => rw [decide_eq_true hle]
  · next hlt => rw [decide_eq_false hlt, ← h]

theorem agePart_other {p : Part} (hc : ∀ n since, p.park ≠ .claim n since false) (hg : ∀ g since, p.park ≠ .gclaim g since false) (now : Nat) :
    agePart now p = p := by
  unfold agePart
  split
  · next n since h => exact absurd h (hc n since)
  · next g since h => exact absurd h (hg g since)
  · rfl

theorem agePart_park (now : Nat) (p : Part) : agePart now p = { p with park := (agePart now p).park } := by
  by_cases hc : ∃ n since, p.park = .claim n since false
  · obtain ⟨n, since, h⟩ := hc
    rw [agePart_claim h]
  by_cases hg : ∃ g since, p.park = .gclaim g since false
  · obtain ⟨g, since, h⟩ := hg
    rw [agePart_gclaim h]
  · push Not at hc hg
    rw [agePart_other hc hg]

/-- A wave of a core whose claims have aged. -/
def ageWave (now core : Nat) (w : Wave) : Wave := if w.core = core then { w with parts := w.parts.map (agePart now) } else w

theorem execClaimAging_eq (s : State) (core : Nat) :
    exec (.claimAging core) s = .next { s with waves := s.waves.map (fun e => (e.1, ageWave s.dcc core e.2)) } := by
  show execClaimAging core s = _
  rw [execClaimAging]
  congr 3
  funext e
  unfold ageWave
  split <;> rfl

theorem claimAging_completes (s : State) (core : Nat) :
    ∃ t, exec (.claimAging core) s = .next t ∧ t = { s with waves := t.waves }
      ∧ ∀ (k : Nat) (w : Wave), s.wave? k = some w → ∃ w' : Wave, t.wave? k = some w' ∧ w' = { w with parts := w'.parts }
        ∧ (w.core ≠ core → w' = w) ∧ w'.parts.length = w.parts.length
        ∧ ∀ (n : Nat) (p : Part), w.parts[n]? = some p → w.core = core → ∃ q : Part, w'.parts[n]? = some q ∧ q = { p with park := q.park }
          ∧ (∀ m since, p.park = .claim m since false → q.park = .claim m since (decide (since + 4096 ≤ s.dcc)))
          ∧ (∀ g since, p.park = .gclaim g since false → q.park = .gclaim g since (decide (since + 4096 ≤ s.dcc)))
          ∧ ((∀ m since, p.park ≠ .claim m since false) → (∀ g since, p.park ≠ .gclaim g since false) → q = p) := by
  refine ⟨_, execClaimAging_eq s core, rfl, fun k w hw => ⟨ageWave s.dcc core w, ?_, ?_, fun h => if_neg h, ?_, fun n p hp hcore => ?_⟩⟩
  · show lookT (s.waves.map _) k = _
    rw [lookT_map_snd, show lookT s.waves k = some w from hw]
    rfl
  · unfold ageWave
    split <;> rfl
  · unfold ageWave
    split
    · exact List.length_map ..
    · rfl
  · refine ⟨agePart s.dcc p, ?_, agePart_park s.dcc p, fun m since h => ?_, fun g since h => ?_, fun hc hg => agePart_other hc hg s.dcc⟩
    · rw [ageWave, if_pos hcore, List.getElem?_map, hp]
      rfl
    · rw [agePart_claim h]
    · rw [agePart_gclaim h]

theorem claimOf_some {w : Wave} {p : Part} {q : Claim} (h : claimOf w p = some q) :
    claimPark p.park = true ∧ q.ref = { core := w.core, slot := w.slot, base := p.base } ∧ q.banks.Nodup := by
  unfold claimOf at h
  split at h
  · exact absurd h (by simp)
  · split at h
    · next n since aged hpark =>
      obtain rfl := Option.some.inj h
      exact ⟨by rw [hpark]; rfl, rfl, nodup_banks ..⟩
    · next g since aged hpark =>
      obtain rfl := Option.some.inj h
      exact ⟨by rw [hpark]; rfl, rfl, nodup_banks ..⟩
    · exact absurd h (by simp)

theorem claimDeadlock_traps {s : State} {c : Ctx} {q : Claim} (h : s.ctx? c.ref = some c) (ready : HandlerReady c)
    (hgroup : s.groupWaves c.wave.group = [c.wave]) (hwait : ∀ p ∈ c.wave.parts, p = c.part ∨ barrierPark p.park = true)
    (hq : claimOf c.wave c.part = some q) (hone : c.wave.parts.filterMap (claimOf c.wave) = [q]) (href : q.ref = c.ref)
    (hlack : s.grantable c.ref.core q = false) :
    ∃ t w p, exec (.claimDeadlock c.wave.group) s = .next t ∧ InHandler c s t 0x09 0 (BitVec.ofNat 64 q.n) c.part.pc w p := by
  obtain ⟨hpark, hself, -⟩ := claimOf_some hq
  obtain ⟨-, -, hp, -, -⟩ := ctx_parts h
  have hmem : c.part ∈ c.wave.parts := List.mem_of_find?_eq_some hp
  have hcore : c.wave.core = c.ref.core := by rw [← href, hself]
  have hdead : s.claimDeadlocked c.wave.group = true := by
    simp only [State.claimDeadlocked, hgroup, List.all_cons, List.all_nil, List.any_cons, List.any_nil, Bool.and_true, Bool.or_false,
      Bool.and_eq_true, hone, hcore, hlack, Bool.not_false]
    refine ⟨List.all_eq_true.mpr fun p hin => ?_, List.any_eq_true.mpr ⟨c.part, hmem, hpark⟩⟩
    rcases hwait p hin with rfl | hb
    · rw [hpark, Bool.true_or]
    · rw [hb, Bool.or_true]
  obtain ⟨w, p, hin⟩ := takeTrap_inHandler h ready tcRegdead 0 (BitVec.ofNat 64 q.n) c.part.pc
  refine ⟨_, w, p, ?_, hin⟩
  show execClaimDeadlock _ s = _
  rw [execClaimDeadlock, if_pos hdead, hgroup, List.flatMap_singleton, hone, List.foldl_cons, List.foldl_nil, State.regdead, href, part?_of_ctx h]

end Sys2Proof.Machine
end

section
/-! SUPPORT. The statement about register release and claims. -/

open Sys2Proof Sys2Proof.Machine

/-- Settles O19, from the completion of `regrel` and of `regclm`, the marks that age gives, and the trap of a claim that can never be granted. -/
theorem claims : Obligations.Claims := by
  unfold Obligations.Claims
  refine ⟨fun s c r x hi hframes h8 free => ⟨?_, ?_⟩, claimAging_completes, ?_⟩
  · exact fun h0 hlt => regrel_completes hi hframes h8 free h0 hlt
  · exact fun h0 hle => regclm_parks hi hframes h8 free h0 hle
  · exact fun s c q h ready hgroup hwait hq hone href hlack => claimDeadlock_traps h ready hgroup hwait hq hone href hlack

end

section
/-! SUPPORT. The grants of a core's claims (02 R38; 13 R302-R304): what a granted `regclm` and a granted `gcall` leave, and the order in which claims are
visited. -/

namespace Sys2Proof.Machine

/-! ### The order of claims -/

theorem olderClaim_iff (a b : Claim) : olderClaim a b = true ↔ a.since < b.since ∨ a.since = b.since ∧ (a.partition < b.partition
    ∨ a.partition = b.partition ∧ (a.ref.slot < b.ref.slot ∨ a.ref.slot = b.ref.slot ∧ a.ref.base ≤ b.ref.base)) := by
  unfold olderClaim
  split
  · next h => simp [h]
  · next h =>
    have hs := not_not.mp h
    split
    · next hp => simp [hs, hp]
    · next hp =>
      have hp := not_not.mp hp
      split
      · next hr => simp [hs, hp, hr]
      · next hr => simp [hs, hp, not_not.mp hr]

theorem claims_pairwise (s : State) (core : Nat) :
    (s.claims core).Pairwise (fun a b => a.since < b.since ∨ a.since = b.since ∧
      (a.partition < b.partition ∨ a.partition = b.partition ∧ a.ref.slot ≤ b.ref.slot)) := by
  refine (pairwise_sortBy olderClaim (fun a b => ?_) (fun a b c => ?_) _).imp (fun {a b} hab => ?_)
  · simp only [olderClaim_iff]
    omega
  · simp only [olderClaim_iff]
    omega
  · rw [olderClaim_iff] at hab
    omega

theorem mem_claims {s : State} {core : Nat} {q : Claim} :
    q ∈ s.claims core ↔ ∃ e ∈ s.waves, e.2.core = core ∧ ∃ p ∈ e.2.parts, claimOf e.2 p = some q := by
  simp only [State.claims, mem_sortBy, List.mem_flatMap, List.mem_filter, beq_iff_eq, List.mem_filterMap, and_assoc]

theorem nodup_claim_banks {s : State} {core : Nat} {q : Claim} (h : q ∈ s.claims core) : q.banks.Nodup := by
  obtain ⟨e, -, -, p, -, hq⟩ := mem_claims.mp h
  exact (claimOf_some hq).2.2

/-! ### The visit of claims -/

/-- A claim that has waited 4,096 cycles, marked or not. -/
abbrev Claim.old (q : Claim) (now : Nat) : Prop := q.aged = true ∨ q.since + 4096 ≤ now

theorem grantClaims_grant {s : State} {core : Nat} {q : Claim} (hg : s.grantable core q = true) (rest : List Claim) :
    s.grantClaims core (q :: rest) [] = (s.grantClaim q).grantClaims core rest [] := by
  rw [State.grantClaims, if_pos (by simp [hg])]

/-- A claim that is not granted blocks its banks once it is old (02 R38). -/
theorem grantClaims_skip {s : State} {core : Nat} {q : Claim} (hg : s.grantable core q = false) (rest : List Claim) :
    s.grantClaims core (q :: rest) [] = s.grantClaims core rest (if q.old s.dcc then q.banks else []) := by
  rw [State.grantClaims, if_neg (by simp [hg]), List.append_nil]
  congr 1
  exact if_congr (by rw [Bool.or_eq_true, decide_eq_true_eq]) rfl rfl

theorem grantClaims_last (s : State) (core : Nat) (r : Claim) (blocked : List Nat) :
    s.grantClaims core [r] blocked = if (∀ b ∈ r.banks, b ∉ blocked) ∧ s.grantable core r = true then s.grantClaim r else s := by
  rw [State.grantClaims]
  exact if_congr (by simp) rfl rfl

theorem claimGrant_one {s : State} {core : Nat} {q : Claim} (hq : s.claims core = [q]) (hg : s.grantable core q = true) :
    exec (.claimGrant core) s = .next (s.grantClaim q) := by
  show execClaimGrant core s = _
  rw [execClaimGrant, hq, grantClaims_grant hg, State.grantClaims]

theorem claimGrant_older {s : State} {core : Nat} {q r : Claim} (hq : s.claims core = [q, r]) (hg : s.grantable core q = true) :
    exec (.claimGrant core) s
      = .next (if (s.grantClaim q).grantable core r then (s.grantClaim q).grantClaim r else s.grantClaim q) := by
  show execClaimGrant core s = _
  rw [execClaimGrant, hq, grantClaims_grant hg, grantClaims_last]
  simp

theorem claimGrant_passes {s : State} {core : Nat} {q r : Claim} (hq : s.claims core = [q, r]) (hg : s.grantable core q = false)
    (hr : s.grantable core r = true) (hpass : ¬ (q.old s.dcc ∧ ∃ b ∈ r.banks, b ∈ q.banks)) :
    exec (.claimGrant core) s = .next (s.grantClaim r) := by
  have hfree : ∀ b ∈ r.banks, b ∉ if q.old s.dcc then q.banks else [] := by
    intro b hb
    split
    · next hold => exact fun hin => hpass ⟨hold, b, hb, hin⟩
    · exact List.not_mem_nil
  show execClaimGrant core s = _
  rw [execClaimGrant, hq, grantClaims_skip hg, grantClaims_last, if_pos ⟨hfree, hr⟩]

theorem claimGrant_blocks {s : State} {core : Nat} {q r : Claim} (hq : s.claims core = [q, r]) (hg : s.grantable core q = false)
    (hold : q.old s.dcc) (hshared : ∃ b ∈ r.banks, b ∈ q.banks) : exec (.claimGrant core) s = .next s := by
  obtain ⟨b, hb, hin⟩ := hshared
  show execClaimGrant core s = _
  rw [execClaimGrant, hq, grantClaims_skip hg, grantClaims_last, if_pos hold, if_neg (fun h => h.1 b hb hin)]

/-! ### A granted `regclm` (02 R37) -/

theorem enterClaim_eq {s : State} {q : Claim} {w : Wave} {p : Part} (hw : s.wave? q.ref.key = some w) (hp : w.part? q.ref.base = some p) :
    s.enterClaim q = s.changeAndGoOn q.ref (fun w => w.claimRegs q.n) (fun k => debitBanks k q.banks q.n) (p.pc + 8) := by
  have hpart : ((s.updCore q.ref.core (fun k => debitBanks k q.banks q.n)).updWave q.ref.key (fun w => w.claimRegs q.n)).part? q.ref = some p := by
    have hw' : (s.updCore q.ref.core (fun k => debitBanks k q.banks q.n)).wave? q.ref.key = some w := hw
    rw [State.part?, wave?_updWave_some hw']
    exact hp
  show (match State.part? (State.updWave _ _ (fun w => w.claimRegs q.n)) _ with | none => _ | some p => _) = _
  rw [hpart]
  rfl

theorem grantClaim_claim {s : State} {q : Claim} {w : Wave} {p : Part} (hw : s.wave? q.ref.key = some w) (hp : w.part? q.ref.base = some p)
    {n since : Nat} {aged : Bool} (hpark : p.park = .claim n since aged) : s.grantClaim q = s.enterClaim q := by
  rw [State.grantClaim, State.part?, hw, Option.bind_some, hp]
  dsimp only
  rw [hpark]

theorem enterClaim_effect {s : State} {q : Claim} {w : Wave} {p : Part} (hb : q.banks.Nodup) (hw : s.wave? q.ref.key = some w)
    (hp : w.part? q.ref.base = some p) :
    ∃ w' p', s.enterClaim q = { s with cores := (s.enterClaim q).cores, waves := (s.enterClaim q).waves }
      ∧ (∀ k, k ≠ q.ref.key → (s.enterClaim q).wave? k = s.wave? k) ∧ (s.enterClaim q).wave? q.ref.key = some w' ∧ w'.part? q.ref.base = some p'
      ∧ w'.allot = w.allot + q.n ∧ p'.pc = p.pc + 8 ∧ p'.park = .running ∧ p'.regs = p.regs
      ∧ (∀ depth l m, l < 64 → m < 512 → w'.v depth l m = if depth = 0 ∧ w.allot ≤ m ∧ m < w.allot + q.n then 0 else w.v depth l m)
      ∧ ∀ b, poolOf ((s.enterClaim q).core q.ref.core) b = poolOf (s.core q.ref.core) b - if b ∈ q.banks then q.n else 0 := by
  rw [enterClaim_eq hw hp]
  obtain ⟨hstate, hothers, hcore, v, hv, heq, hpart⟩ := changeAndGoOn_effect hw (f := fun w => w.claimRegs q.n) hp
    (fun k => debitBanks k q.banks q.n) (p.pc + 8)
  refine ⟨v, _, hstate, hothers, hv, hpart, ?_, rfl, rfl, rfl, fun depth l m hl hm => ?_, fun b => ?_⟩
  · rw [heq]
    rfl
  · rw [heq]
    exact Wave.v_claimRegs w q.n hl hm
  · rw [hcore, poolOf_debitBanks _ hb]

/-! ### A granted `gcall` (13 R302-R304) -/

/-- A register that some writes of a list name, all with one value, holds that value. -/
theorem v_setVs_agree (w : Wave) (depth : Nat) (ws : List (Nat × Nat × W32)) {l n : Nat} {v : W32}
    (hmem : ∃ e ∈ ws, vKey depth e.1 e.2.1 = vKey depth l n) (hall : ∀ e ∈ ws, vKey depth e.1 e.2.1 = vKey depth l n → e.2.2 = v) :
    (w.setVs depth ws).v depth l n = v := by
  induction ws generalizing w with
  | nil => simp at hmem
  | cons e r ih =>
    obtain ⟨l', n', v'⟩ := e
    rw [Wave.setVs]
    by_cases hr : ∃ e ∈ r, vKey depth e.1 e.2.1 = vKey depth l n
    · exact ih _ hr (fun e he => hall e (List.mem_cons_of_mem _ he))
    · obtain ⟨e, he, hk⟩ := hmem
      obtain rfl | he := List.mem_cons.mp he
      · rw [Wave.v_setVs_of_ne _ _ _ (fun e he h => hr ⟨e, he, h.symm⟩), ← hall _ List.mem_cons_self hk, Wave.v, ← hk]
        exact Wave.v_setV_self ..
      · exact absurd ⟨e, he, hk⟩ hr

/-- The arguments of a call, for the callee's registers of each lane of the part: lane, register, value. -/
def calleeArgs (w : Wave) (p : Part) (g : GateCall) : List (Nat × Nat × W32) :=
  ((List.range p.width).map (fun l => p.base + l)).flatMap (fun l =>
    (List.range g.args.length).map (fun k => (l, k, w.v p.frames.length l (g.args.getD k 0))))

/-- A wave in which a part has entered a callee with some argument values. -/
def Wave.enterCallee (w : Wave) (p : Part) (g : GateCall) (args : List (Nat × Nat × W32)) : Wave :=
  { (w.dropRegs (p.frames.length + 1) p).setVs (p.frames.length + 1) args with
    dirty := (unitsOf (p.frames.length + 1) p.base p.width 0 g.n).foldl addNew w.dirty
    preds := (List.range 8).foldl (fun t n => setT 0 t n (getT 0 t n &&& ~~~laneRange p.base p.width)) w.preds }

theorem Wave.p_enterCallee (w : Wave) (p : Part) (g : GateCall) (args : List (Nat × Nat × W32)) {n l : Nat} (h0 : 0 < n) (h8 : n < 8)
    (hl : l < 64) :
    ((w.enterCallee p g args).p n).getLsbD l = if p.base ≤ l ∧ l < p.base + p.width then false else (w.p n).getLsbD l := by
  have hn : n ≠ 0 := by omega
  rw [Wave.p, Wave.p, if_neg hn, if_neg hn, Wave.enterCallee]
  dsimp only
  rw [getT_foldl_setT 0 (fun _ m => m &&& ~~~laneRange p.base p.width) _ List.nodup_range, if_pos (List.mem_range.mpr h8), BitVec.getLsbD_and,
    BitVec.getLsbD_not, getLsbD_laneRange]
  by_cases hmine : p.base ≤ l ∧ l < p.base + p.width <;> simp [hmine, hl]

theorem mem_calleeArgs {w : Wave} {p : Part} {g : GateCall} {e : Nat × Nat × W32} :
    e ∈ calleeArgs w p g ↔ ∃ l k, (p.base ≤ l ∧ l < p.base + p.width) ∧ k < g.args.length ∧ e = (l, k, w.v p.frames.length l (g.args.getD k 0)) := by
  simp only [calleeArgs, List.mem_flatMap, List.mem_map, List.mem_range]
  constructor
  · rintro ⟨_, ⟨i, hi, rfl⟩, k, hk, rfl⟩
    exact ⟨p.base + i, k, by omega, hk, rfl⟩
  · rintro ⟨l, k, hl, hk, rfl⟩
    exact ⟨l, ⟨l - p.base, by omega, by omega⟩, k, hk, rfl⟩

/-- A callee's registers: its arguments, then zeros; every other register stays (13 R302). -/
theorem Wave.v_enterCallee (w : Wave) {p : Part} (g : GateCall) (hp : p.base + p.width ≤ 64) (ha : g.args.length ≤ 512) {depth l m : Nat}
    (hl : l < 64) (hm : m < 512) :
    (w.enterCallee p g (calleeArgs w p g)).v depth l m =
      if depth = p.frames.length + 1 ∧ p.base ≤ l ∧ l < p.base + p.width
      then (if m < g.args.length then w.v p.frames.length l (g.args.getD m 0) else 0) else w.v depth l m := by
  have hkey : ∀ e ∈ calleeArgs w p g, vKey depth l m = vKey (p.frames.length + 1) e.1 e.2.1 → (depth = p.frames.length + 1
      ∧ p.base ≤ l ∧ l < p.base + p.width) ∧ m < g.args.length ∧ e = (l, m, w.v p.frames.length l (g.args.getD m 0)) := by
    intro e he hk
    obtain ⟨l', k', hl', hk', rfl⟩ := mem_calleeArgs.mp he
    have hl64 : l' < 64 := by omega
    obtain ⟨rfl, rfl, rfl⟩ := vKey_inj hl hl64 hm (hk'.trans_le ha) hk
    exact ⟨⟨rfl, hl'⟩, hk', rfl⟩
  show ((w.dropRegs (p.frames.length + 1) p).setVs (p.frames.length + 1) (calleeArgs w p g)).v depth l m = _
  by_cases hin : (depth = p.frames.length + 1 ∧ p.base ≤ l ∧ l < p.base + p.width) ∧ m < g.args.length
  · obtain ⟨⟨rfl, hmine⟩, hk⟩ := hin
    rw [if_pos ⟨rfl, hmine⟩, if_pos hk]
    refine v_setVs_agree _ _ _ ⟨_, mem_calleeArgs.mpr ⟨l, m, hmine, hk, rfl⟩, rfl⟩ (fun e he h => ?_)
    rw [(hkey e he h.symm).2.2]
  · rw [Wave.v_setVs_of_ne _ _ _ (fun e he h => hin ⟨(hkey e he h).1, (hkey e he h).2.1⟩), Wave.v_dropRegs w _ hp hl hm]
    split
    · next hd => rw [if_neg (fun hk => hin ⟨hd, hk⟩)]
    · rfl

/-- The part that has entered a callee. -/
def Part.enterCallee (p : Part) (g : GateCall) (f : GateFrame) (now : Nat) : Part :=
  { p with regs := calleeRegs p g, frames := f :: p.frames, fails := [], held := [], pc := g.entry, gentryDue := true, park := .running
           notBefore := now + 24 + g.args.length }

/-- The core and the wave of a granted call, whose frame takes the next identity. -/
def State.callGranted (s : State) (r : PartRef) (w : Wave) (p : Part) (g : GateCall) : State :=
  (({ s with nextId := s.nextId + 1 } : State).updCore r.core (fun k => debitBanks k (w.banks p.base p.width) g.n)).updWave r.key
    (fun v => v.enterCallee p g (calleeArgs w p g))

/-- The scratch of a callee is cleared. -/
def State.clearUnits (s : State) (core scr n : Nat) : State :=
  { s with scratch := clearRange s.scratch (scratchKey core (scr * 8192)) (scratchKey core ((scr + n) * 8192)) }

theorem enterCallee_eq {s : State} {r : PartRef} {w : Wave} {p : Part} (hw : s.wave? r.key = some w) (hp : w.part? r.base = some p)
    (g : GateCall) (scr : Nat) :
    s.enterCallee r g scr = ((((s.callGranted r w p g).clearUnits r.core scr g.units)).updPart r
      (fun q => q.enterCallee g (frameOf w p g s.nextId scr) (s.callGranted r w p g).dcc)).beginRegion r (g.entry + 4) true := by
  rw [State.enterCallee, hw]
  dsimp only
  rw [hp]
  rfl

theorem grantClaim_gclaim {s : State} {q : Claim} {w : Wave} {p : Part} (hw : s.wave? q.ref.key = some w) (hp : w.part? q.ref.base = some p)
    {g : GateCall} {since scr : Nat} {aged : Bool} (hpark : p.park = .gclaim g since aged) (hscr : s.scratchRun q.ref.core q.units = some scr) :
    s.grantClaim q = s.enterCallee q.ref g scr := by
  rw [State.grantClaim, State.part?, hw, Option.bind_some, hp]
  dsimp only
  rw [hpark]
  dsimp only
  rw [hscr]

theorem enterCallee_effect {s : State} {r : PartRef} {w : Wave} {p : Part} (hw : s.wave? r.key = some w) (hp : w.part? r.base = some p)
    (g : GateCall) (scr : Nat) :
    ∃ v, s.enterCallee r g scr = { s with
        cores := (s.enterCallee r g scr).cores, waves := (s.enterCallee r g scr).waves
        scratch := clearRange s.scratch (scratchKey r.core (scr * 8192)) (scratchKey r.core ((scr + g.units) * 8192)), nextId := s.nextId + 1 }
      ∧ (∀ k, k ≠ r.key → (s.enterCallee r g scr).wave? k = s.wave? k) ∧ (s.enterCallee r g scr).wave? r.key = some v
      ∧ v = { w.enterCallee p g (calleeArgs w p g) with parts := v.parts, raysAtRegion := v.raysAtRegion }
      ∧ v.part? r.base = some ((p.enterCallee g (frameOf w p g s.nextId scr) s.dcc).enterRegion (g.entry + 4) true s.dcc) := by
  have hcall := waveChange_updWave (({ s with nextId := s.nextId + 1 } : State).updCore r.core (fun k => debitBanks k (w.banks p.base p.width) g.n))
    r.key (fun v => v.enterCallee p g (calleeArgs w p g))
  have hdcc : (s.callGranted r w p g).dcc = s.dcc := by rw [State.callGranted, State.updWave_dcc]; rfl
  have hwave : ((s.callGranted r w p g).clearUnits r.core scr g.units).wave? r.key = some (w.enterCallee p g (calleeArgs w p g)) :=
    wave?_updWave_some (s := ({ s with nextId := s.nextId + 1 } : State).updCore r.core (fun k => debitBanks k (w.banks p.base p.width) g.n)) hw
      (fun v => v.enterCallee p g (calleeArgs w p g))
  have hgo := (waveChange_updPart ((s.callGranted r w p g).clearUnits r.core scr g.units) r
    (fun q => q.enterCallee g (frameOf w p g s.nextId scr) s.dcc)).trans (waveChange_beginRegion _ r (g.entry + 4) true)
  have hpart : (w.enterCallee p g (calleeArgs w p g)).part? r.base = some p := by
    simpa [Wave.part?, Wave.enterCallee, Wave.dropRegs] using hp
  obtain ⟨v, hv, heq, hvpart⟩ := beginRegion_part (wave?_updWave_some hwave
    (fun v => v.updPart r.base (fun q => q.enterCallee g (frameOf w p g s.nextId scr) s.dcc))) (part?_updPart_some hpart _ (fun _ => rfl))
    (g.entry + 4) true
  rw [enterCallee_eq hw hp, hdcc]
  refine ⟨v, ?_, fun k hk => (hgo.others k hk).trans (hcall.others k hk), hv, ?_, ?_⟩
  · rw [hgo.state, State.clearUnits, State.callGranted, hcall.state]
    rfl
  · rw [heq]
    rfl
  · rw [hvpart, State.updWave_dcc]
    exact congrArg (fun n => some (Part.enterRegion _ _ _ n)) hdcc

end Sys2Proof.Machine
end

section
/-! SUPPORT. The statement about the grants of claims. -/

open Sys2Proof Sys2Proof.Machine

/-- Settles O17, from what a granted claim of either kind leaves, and the order in which the claims of a core are visited. -/
theorem claimGrants : Obligations.ClaimGrants := by
  unfold Obligations.ClaimGrants
  refine ⟨fun s core q w p hq hg href hw hp => ⟨fun n since aged hpark => ?_, fun g since aged hpark hwidth hargs => ?_⟩,
    fun s core => ⟨claims_pairwise s core, fun q => mem_claims, fun q r hqr => ⟨?_, ?_, ?_⟩⟩⟩
  · have hbanks : q.banks.Nodup := nodup_claim_banks (s := s) (core := core) (by rw [hq]; exact List.mem_singleton_self q)
    obtain ⟨w', p', hframe⟩ := enterClaim_effect hbanks hw hp
    rw [href] at hframe
    exact ⟨_, w', p', (claimGrant_one hq hg).trans (congrArg _ (grantClaim_claim hw hp hpark)), hframe⟩
  · have hrun : (s.scratchRun q.ref.core q.units).isSome = true := by
      rw [href]
      exact (Bool.and_eq_true_iff.mp hg).2
    obtain ⟨scr, hscr⟩ := Option.isSome_iff_exists.mp hrun
    obtain ⟨v, hstate, hothers, hv, heq, hpart⟩ := enterCallee_effect hw hp g scr
    refine ⟨_, v, _, frameOf w p g s.nextId scr, (claimGrant_one hq hg).trans (congrArg _ (grantClaim_gclaim hw hp hpark hscr)), ?_, hothers, hv,
      hpart, rfl, rfl, rfl, rfl, rfl, rfl, rfl, rfl, rfl, rfl, rfl, fun depth l m hl hm => ?_, fun n l h0 h8 hl => ?_, fun a => ?_⟩
    · rw [hstate]
    · rw [heq]
      exact Wave.v_enterCallee w g hwidth hargs hl hm
    · rw [heq]
      exact Wave.p_enterCallee w p g (calleeArgs w p g) h0 h8 hl
    · rw [hstate, ← href]
      exact readByte_clearRange ..
  · exact claimGrant_older hqr
  · exact claimGrant_passes hqr
  · exact claimGrant_blocks hqr

end

section
/-! SUPPORT. `gcall` before its grant (13 R302): the reads that its checks need, its wait for the claim, and the registers a callee starts with. -/

namespace Sys2Proof.Machine

/-! ### What a read at a slice changes -/

/-- Nothing differs but caches, pins and banks: what a translation and a read at a slice may change. -/
structure CachesOnly (s t : State) : Prop where
  eq : t = { s with cores := t.cores, dies := t.dies, pins := t.pins, banks := t.banks, l2 := t.l2 }

theorem CachesOnly.refl (s : State) : CachesOnly s s := ⟨rfl⟩

theorem CachesOnly.trans {s t u : State} (h : CachesOnly s t) (h' : CachesOnly t u) : CachesOnly s u :=
  ⟨by rw [h'.eq, h.eq]⟩

theorem CachesOnly.dcc {s t : State} (h : CachesOnly s t) : t.dcc = s.dcc := by rw [h.eq]
theorem CachesOnly.mem {s t : State} (h : CachesOnly s t) : t.mem = s.mem := by rw [h.eq]
theorem CachesOnly.scratch {s t : State} (h : CachesOnly s t) : t.scratch = s.scratch := by rw [h.eq]
theorem CachesOnly.wave? {s t : State} (h : CachesOnly s t) (k : Nat) : t.wave? k = s.wave? k := by rw [h.eq]; rfl
theorem CachesOnly.ctx? {s t : State} (h : CachesOnly s t) (r : PartRef) : t.ctx? r = s.ctx? r := by rw [h.eq]; rfl

theorem cachesOnly_updCore (s : State) (core : Nat) (f : Core → Core) : CachesOnly s (s.updCore core f) := ⟨rfl⟩
theorem cachesOnly_updDie (s : State) (d : Nat) (f : Die → Die) : CachesOnly s (s.updDie d f) := ⟨rfl⟩
theorem cachesOnly_refuse (s : State) (pa : Nat) : CachesOnly s (s.refuse pa) := ⟨rfl⟩
theorem cachesOnly_touchBank (s : State) (pa : Nat) : CachesOnly s (s.touchBank pa) := ⟨rfl⟩

theorem CachesOnly.foldl {α : Type} {f : State → α → State} (h : ∀ s a, CachesOnly s (f s a)) (l : List α) (s : State) :
    CachesOnly s (l.foldl f s) :=
  List.foldlRecOn l _ (.refl s) (fun _ hb _ _ => hb.trans (h ..))

theorem cachesOnly_refuseAll (s : State) (pas : List Nat) : CachesOnly s (s.refuseAll pas) := .foldl cachesOnly_refuse pas s

theorem cachesOnly_l2Use (s : State) (pa cp ready : Nat) : CachesOnly s (s.l2Use pa cp ready) := by
  unfold State.l2Use
  split
  · exact .refl s
  · dsimp only
    split
    · split
      · exact .refl s
      · split <;> exact ⟨rfl⟩
    · exact ⟨rfl⟩

theorem cachesOnly_useLine (s : State) (pa cp : Nat) : CachesOnly s (s.useLine pa cp) :=
  (cachesOnly_touchBank s pa).trans (cachesOnly_l2Use ..)

theorem useLine_cores (s : State) (pa cp : Nat) : (s.useLine pa cp).cores = s.cores := by
  unfold State.useLine State.l2Use
  split
  · rfl
  · dsimp only
    split
    · split
      · rfl
      · split <;> rfl
    · rfl

theorem cachesOnly_useRefs (s : State) (die : Nat) (asid : BitVec 16) (va : Nat) : CachesOnly s (s.useRefs die asid va) :=
  .foldl (fun s pa => cachesOnly_useLine s pa 0) _ s

theorem cachesOnly_fillTlbs (s : State) (core : Nat) (copy : Bool) (e : TlbEntry) : CachesOnly s (s.fillTlbs core copy e) := by
  unfold State.fillTlbs
  dsimp only
  split <;> exact ⟨rfl⟩

theorem cachesOnly_tlbLook (s : State) (core : Nat) (copy : Bool) (asid : BitVec 16) (va : Nat) :
    CachesOnly s (s.tlbLook core copy asid va).1 := by
  unfold State.tlbLook
  dsimp only
  split
  · split <;> exact ⟨rfl⟩
  · split
    · exact ⟨rfl⟩
    · split
      · exact ⟨rfl⟩
      · split <;> exact ⟨rfl⟩

theorem cachesOnly_translate (s : State) (core : Nat) (copy : Bool) (asid : BitVec 16) (va : Nat) :
    CachesOnly s (s.translate core copy asid va).1 := by
  have hlook := cachesOnly_tlbLook s core copy asid va
  unfold State.translate
  generalize s.tlbLook core copy asid va = look at hlook ⊢
  obtain ⟨u, found, d⟩ := look
  cases found with
  | some e => exact hlook
  | none =>
    have hrefs : CachesOnly s (u.useRefs (dieOf core) asid va) := hlook.trans (cachesOnly_useRefs ..)
    dsimp only
    split
    · exact hrefs.trans (cachesOnly_fillTlbs ..)
    · dsimp only
      exact hrefs

/-! ### The reads of a gate call (13 R299, R302) -/

/-- The part waits before its instruction for a read: to a later cycle, or no longer, its bytes being in the core's cache. -/
def WaitsForRead (s : State) (c : Ctx) (t : State) : Prop :=
  ∃ u n, t = u.parkOn c (.time n) ∧ CachesOnly s u
    ∧ (s.dcc < n ∨ n = 0 ∧ ∃ e ∈ (u.core c.ref.core).gateCache, e.bytes ≠ [] ∧ e.ready ≤ s.dcc)

theorem WaitsForRead.after {s t u : State} {c : Ctx} (h : CachesOnly s t) (h' : WaitsForRead t c u) : WaitsForRead s c u := by
  obtain ⟨v, n, rfl, hv, hn⟩ := h'
  rw [h.dcc] at hn
  exact ⟨v, n, rfl, h.trans hv, hn⟩

theorem readGate_waits (s : State) (c : Ctx) (dom : Bool) (asid : BitVec 16) (addr pa first : Nat) {n : Nat} (hn : 0 < n) :
    WaitsForRead s c (s.readGate c dom asid addr n pa first) := by
  unfold State.readGate
  dsimp only
  split
  · have hpath := slicePath_pos c.ref.core pa
    exact ⟨_, _, rfl, cachesOnly_updCore .., .inl (by omega)⟩
  · next e he =>
    split
    · next hlt => exact ⟨_, _, rfl, .refl s, .inl hlt⟩
    · split
      · exact ⟨_, _, rfl, cachesOnly_refuse .., .inl (Nat.lt_succ_self _)⟩
      · refine ⟨_, _, rfl, (cachesOnly_useLine s pa 0).trans (cachesOnly_updCore ..), ?_⟩
        split
        · next hzero =>
          have hmem := List.mem_of_find?_eq_some he
          have hmine := List.find?_some he
          have hbytes : readBytes s.mem pa n ≠ [] := List.ne_nil_of_length_pos (by rwa [readBytes_length])
          refine .inr ⟨rfl, { e with bytes := readBytes s.mem pa n, ready := s.dcc + s.beyondSlice pa }, ?_, hbytes, by simp [hzero]⟩
          rw [State.core_updCore_self]
          refine List.mem_map.mpr ⟨e, ?_, if_pos hmine⟩
          rwa [State.core, useLine_cores]
        · next hpos => exact .inl (by omega)

theorem readGateVa_waits {s t : State} {c : Ctx} {asid : BitVec 16} {need : Need} {va n : Nat} (hn : 0 < n)
    (h : s.readGateVa c asid need va n = some t) : WaitsForRead s c t := by
  unfold State.readGateVa at h
  split at h
  · exact absurd h (by simp)
  · split at h
    · obtain rfl := Option.some.inj h
      exact ⟨_, _, rfl, cachesOnly_refuseAll .., .inl (Nat.lt_succ_self _)⟩
    · split at h
      · next u pte p hlook =>
        obtain rfl := Option.some.inj h
        have hu := cachesOnly_translate s c.ref.core false asid va
        rw [hlook] at hu
        exact .after hu (readGate_waits u c false asid va _ _ hn)
      · exact absurd h (by simp)

theorem gateRead_waits {s t : State} {c : Ctx} {g : Nat} (h : s.gateRead c g = some t) : WaitsForRead s c t := by
  unfold State.gateRead at h
  dsimp only at h
  split at h
  · exact absurd h (by simp)
  · split at h
    · exact readGateVa_waits (by decide) h
    · split at h
      · exact absurd h (by simp)
      · split at h
        · obtain rfl := Option.some.inj h
          exact readGate_waits s c true 0 _ _ 0 (by decide)
        · split at h
          · exact absurd h (by simp)
          · exact readGateVa_waits (by decide) h

theorem gcall_reads {s t : State} {c : Ctx} (r : RWord) {x : W32} (hi : s.issuing = some c) (h : s.gateRead c (x.toNat % 65536) = some t) :
    ∃ w until_, exec (.gcall r x) s = .next t ∧ t.mem = s.mem ∧ t.scratch = s.scratch
      ∧ (s.dcc < until_ ∨ until_ = 0 ∧ ∃ e ∈ (t.core c.ref.core).gateCache, e.bytes ≠ [] ∧ e.ready ≤ s.dcc)
      ∧ (∀ k, k ≠ c.ref.key → t.wave? k = s.wave? k) ∧ SameVregs c.wave w
      ∧ WaveIs c t id (c.part.parkedAtOnce (.on (.time until_)) s.dcc) w := by
  have hexec : exec (.gcall r x) s = .next t := by
    show execGcall r x s = _
    simp only [execGcall, hi, Option.bind_some, h]
  obtain ⟨u, n, rfl, hu, hn⟩ := gateRead_waits h
  obtain ⟨w, honly, hsame, hwave⟩ := parkPart_effect ((hu.ctx? c.ref).trans (issuing_ctx hi)) (.on (.time n))
  rw [hu.dcc] at hwave
  refine ⟨w, n, hexec, ?_, ?_, ?_, fun k hk => (honly.others k hk).trans (hu.wave? k), hsame, hwave⟩
  · rw [State.parkOn_mem, hu.mem]
  · rw [State.parkOn_scratch, hu.scratch]
  · rwa [State.core, State.parkOn_cores]

theorem gcall_parks {s : State} {c : Ctx} {r : RWord} {x : W32} {e : List Byte} (hi : s.issuing = some c)
    (hread : s.gateRead c (x.toNat % 65536) = none) (hfault : s.gateFault c (x.toNat % 65536) = none)
    (hentry : s.gateEntry c (x.toNat % 65536) = some e)
    (hops : OperandsOk c (spanVop r.d (fieldAt e 13 1) ++ spanVop r.a (fieldAt e 12 1)))
    (free : Free c r.s false none (some (c.effWidth (fieldAt e 16 1)))) (hquiet : s.quiet c = true) :
    ∃ t w, exec (.gcall r x) s = .next t ∧ OnlyWave c s t ∧ SameVregs c.wave w
      ∧ WaveIs c t id (c.part.parkedAtOnce (.gclaim (s.gateCall c (x.toNat % 65536) e r) s.dcc false) s.dcc) w := by
  obtain ⟨w, hw⟩ := parkPart_effect (issuing_ctx hi) (.gclaim (s.gateCall c (x.toNat % 65536) e r) s.dcc false)
  have hget : (s.gateEntry c (x.toNat % 65536)).getD [] = e := by rw [hentry]; rfl
  refine ⟨_, w, ?_, hw⟩
  show execGcall r x s = _
  simp only [execGcall, hi, Option.bind_some, hread]
  refine (issue_next _ _ c s hi (by simp) (by simp [hfault]) (by dsimp only; rw [hget]; exact hops) (by dsimp only [Option.map_some]; rw [hget]; exact free)).trans ?_
  simp only [hquiet, Bool.not_true, Bool.false_eq_true, if_false, hget]

/-! ### The registers a callee starts with (13 R302) -/

/-- A field of a number between two bit positions. -/
theorem and_mask (x n k : Nat) : x &&& ((2 ^ n - 1) * 2 ^ k) = x % 2 ^ (n + k) / 2 ^ k * 2 ^ k := by
  refine Nat.eq_of_testBit_eq (fun i => ?_)
  rw [Nat.testBit_and, Nat.testBit_mul_two_pow, Nat.testBit_mul_two_pow, Nat.testBit_div_two_pow, Nat.testBit_mod_two_pow,
    Nat.testBit_two_pow_sub_one]
  by_cases hk : k ≤ i
  · have hi : i - k + k = i := by omega
    have hlt : i - k < n ↔ i < n + k := by omega
    simp [hk, hi, hlt, Bool.and_comm]
  · simp [hk]

theorem toNat_callee_handler (h : W64) : (h &&& 0x01FFFFFFFFFFFFFC).toNat = h.toNat % 2 ^ 57 / 4 * 4 :=
  (BitVec.toNat_and ..).trans (and_mask h.toNat 55 2)

theorem toNat_callee_table (h : W64) : (h &&& 0x01FFFFFFFFFFFFE0).toNat = h.toNat % 2 ^ 57 / 32 * 32 :=
  (BitVec.toNat_and ..).trans (and_mask h.toNat 52 5)

theorem calleeRegs_s0 (p : Part) (g : GateCall) : ((calleeRegs p g).sreg 0).toNat
    = p.regs.asid.toNat + 2 ^ 16 * p.regs.domain.toNat + (if p.regs.privseg then 2 ^ 24 else 0) := by
  rw [PartRegs.sreg, calleeRegs]
  dsimp only
  rw [getT_setT_of_ne 0 _ _ (by decide : (0 : Nat) ≠ 1), getT_setT_self]
  have ha := p.regs.asid.isLt
  have hd := p.regs.domain.isLt
  rw [BitVec.toNat_append, BitVec.toNat_append, BitVec.toNat_append, ← Nat.shiftLeft_add_eq_or_of_lt ha, ← Nat.shiftLeft_add_eq_or_of_lt hd,
    ← Nat.shiftLeft_add_eq_or_of_lt (BitVec.isLt _), Nat.shiftLeft_eq, Nat.shiftLeft_eq]
  cases p.regs.privseg <;> simp <;> omega

theorem calleeRegs_s1 (p : Part) (g : GateCall) : ((calleeRegs p g).sreg 1).toNat = g.gateIx.toNat := by
  rw [PartRegs.sreg, calleeRegs]
  dsimp only
  rw [getT_setT_self, BitVec.toNat_setWidth]
  have := g.gateIx.isLt
  omega

theorem calleeRegs_other (p : Part) (g : GateCall) {n : Nat} (hn : 2 ≤ n) : (calleeRegs p g).sreg n = 0 := by
  rw [PartRegs.sreg, calleeRegs]
  dsimp only
  rw [getT_setT_of_ne 0 _ _ (by omega : n ≠ 1), getT_setT_of_ne 0 _ _ (by omega : n ≠ 0)]
  rfl

end Sys2Proof.Machine
end

section
/-! SUPPORT. The statement about gate calls. -/

open Sys2Proof Sys2Proof.Machine

/-- Settles O16, from the waits of `gcall` and the registers that a callee starts with. -/
theorem gateCallRuns : Obligations.GateCallRuns := by
  unfold Obligations.GateCallRuns
  refine ⟨fun s c r x hi => ⟨?_, ?_⟩, fun p g => ?_⟩
  · exact fun e hread hfault hentry hops free hquiet => gcall_parks hi hread hfault hentry hops free hquiet
  · exact fun t hread => gcall_reads r hi hread
  · refine ⟨calleeRegs_s0 p g, calleeRegs_s1 p g, fun n hn => calleeRegs_other p g hn, rfl, rfl, rfl, rfl, rfl, rfl, rfl, rfl, rfl, rfl, rfl, rfl,
      rfl, rfl, rfl, toNat_callee_handler g.handler, toNat_callee_table g.gt, ?_, rfl, rfl⟩
    exact BitVec.extractLsb'_toNat ..

end

section
/-! SUPPORT. `fork` and `join` as they issue, and what a deque keeps (02 R40-R43, R46; 20 R435, R443). -/

namespace Sys2Proof.Machine

/-! ### A translation keeps what a release looks at -/

/-- No L1 line and no entry of a side log differs. -/
def KeepsL1 (s t : State) : Prop := ∀ n, (t.core n).l1 = (s.core n).l1 ∧ (t.core n).sideLog = (s.core n).sideLog

theorem KeepsL1.trans {s t u : State} (h : KeepsL1 s t) (h' : KeepsL1 t u) : KeepsL1 s u :=
  fun n => ⟨(h' n).1.trans (h n).1, (h' n).2.trans (h n).2⟩

theorem KeepsL1.of_cores {s t : State} (h : t.cores = s.cores) : KeepsL1 s t := by
  intro n
  rw [State.core, State.core, h]
  exact ⟨rfl, rfl⟩

theorem keepsL1_updCore (s : State) (core : Nat) (f : Core → Core) (hf : ∀ k, (f k).l1 = k.l1 ∧ (f k).sideLog = k.sideLog) :
    KeepsL1 s (s.updCore core f) := by
  intro n
  rw [State.core_updCore]
  split
  · next h => rw [h]; exact hf _
  · exact ⟨rfl, rfl⟩

theorem useRefs_cores (s : State) (die : Nat) (asid : BitVec 16) (va : Nat) : (s.useRefs die asid va).cores = s.cores :=
  List.foldlRecOn (motive := fun t : State => t.cores = s.cores) _ _ rfl (fun _ hb _ _ => (useLine_cores ..).trans hb)

theorem keepsL1_fillTlbs (s : State) (core : Nat) (copy : Bool) (e : TlbEntry) : KeepsL1 s (s.fillTlbs core copy e) := by
  unfold State.fillTlbs
  dsimp only
  split
  · exact keepsL1_updCore _ core _ (fun _ => ⟨rfl, rfl⟩)
  · exact keepsL1_updCore _ core _ (fun _ => ⟨rfl, rfl⟩)

theorem keepsL1_tlbLook (s : State) (core : Nat) (copy : Bool) (asid : BitVec 16) (va : Nat) : KeepsL1 s (s.tlbLook core copy asid va).1 := by
  unfold State.tlbLook
  dsimp only
  split
  · split
    · exact keepsL1_updCore _ core _ (fun _ => ⟨rfl, rfl⟩)
    · exact .of_cores rfl
  · split
    · exact keepsL1_updCore _ core _ (fun _ => ⟨rfl, rfl⟩)
    · split
      · exact keepsL1_updCore _ core _ (fun _ => ⟨rfl, rfl⟩)
      · split
        · exact keepsL1_updCore _ core _ (fun _ => ⟨rfl, rfl⟩)
        · exact .of_cores rfl

theorem keepsL1_translate (s : State) (core : Nat) (copy : Bool) (asid : BitVec 16) (va : Nat) :
    KeepsL1 s (s.translate core copy asid va).1 := by
  have hlook := keepsL1_tlbLook s core copy asid va
  unfold State.translate
  generalize s.tlbLook core copy asid va = look at hlook ⊢
  obtain ⟨u, found, d⟩ := look
  cases found with
  | some e => exact hlook
  | none =>
    have hrefs : KeepsL1 s (u.useRefs (dieOf core) asid va) := hlook.trans (.of_cores (useRefs_cores ..))
    dsimp only
    split
    · exact hrefs.trans (keepsL1_fillTlbs _ _ _ _)
    · dsimp only
      exact hrefs

theorem fullReleaseReady_of_keeps {s t : State} {c : Ctx} {ord scope : Nat} (h : CachesOnly s t) (hl : KeepsL1 s t)
    (ready : FullReleaseReady s c ord scope) : FullReleaseReady t c ord scope := by
  intro hord
  obtain ⟨⟨hdrained, hbacks⟩, hheld⟩ := ready hord
  obtain ⟨hl1, hlog⟩ := hl c.ref.core
  have hops : t.op? = s.op? := by rw [h.eq]; rfl
  have hsent : t.backs = s.backs := by rw [h.eq]
  refine ⟨⟨?_, ?_⟩, hheld⟩
  · rw [State.drained, State.partLogged, hlog, hops]
    exact hdrained
  · unfold BacksGone State.backsDone at *
    rw [hl1, hsent]
    exact hbacks

/-! ### A release with nothing to wait for (09 R217) -/

theorem releaseL1_of_clean {s : State} {core scope : Nat} (h : 3 ≤ scope → ∀ l ∈ (s.core core).l1, l.kind = 0 → l.dirty = 0) :
    s.releaseL1 core scope = s := by
  unfold State.releaseL1
  split
  · rfl
  · next hscope =>
    have hnone : (s.core core).l1.filter (fun l => l.kind == 0 && l.dirty != 0) = [] := by
      refine List.filter_eq_nil_iff.mpr (fun l hl hcond => ?_)
      rw [Bool.and_eq_true, beq_iff_eq, bne_iff_ne] at hcond
      exact hcond.2 (h (by omega) l hl hcond.1)
    rw [hnone]
    rfl

theorem releaseAt_none {s : State} {c : Ctx} {scope : Nat} (barrier : Bool) (h : BacksGone s c scope) : s.releaseAt c scope barrier = none := by
  unfold BacksGone at h
  unfold State.releaseAt
  split
  · next n hn =>
    rw [hn] at h
    exact if_pos h
  · next hn =>
    rw [hn] at h
    obtain ⟨hbacks, hclean⟩ := h
    rw [releaseL1_of_clean hclean]
    refine if_pos ?_
    rw [State.backsDone, Bool.not_eq_true', List.any_eq_false]
    intro b hb
    simp [hbacks b hb]

theorem fullReleaseWait_none {s : State} {c : Ctx} {ord scope : Nat} (h : FullReleaseReady s c ord scope) (hord : 2 ≤ ord) :
    s.fullReleaseWait c ord scope = none := by
  obtain ⟨⟨hdrained, hbacks⟩, hheld⟩ := h hord
  unfold State.fullReleaseWait State.releaseFirst State.drainFirst
  simp only [hdrained, hheld, Bool.not_true, Bool.false_eq_true, if_false, Option.map_none, releaseAt_none false hbacks, ite_self]

/-! ### `fork` (02 R40, R41; 20 R435) -/

theorem heldOr_ok {s t : State} {c : Ctx} {kind : Nat} {need : Need} {va pte lp : Nat} {ok : Nat → State → State}
    (hpins : s.lookPins c.ref.core false c.part.regs.asid va = []) (ht : s.translate c.ref.core false c.part.regs.asid va = (t, .leaf pte lp))
    (hleaf : t.leafFault need pte (paOf pte lp va) = none) : s.heldOr c kind need va ok = ok (paOf pte lp va) t := by
  unfold State.heldOr
  rw [hpins, ht]
  simp only [ne_eq, not_true_eq_false, if_false, hleaf]

theorem translate_cachesOnly {s t : State} {core : Nat} {copy : Bool} {asid : BitVec 16} {va : Nat} {found : WalkRes}
    (h : s.translate core copy asid va = (t, found)) : CachesOnly s t ∧ KeepsL1 s t := by
  have hc := cachesOnly_translate s core copy asid va
  have hl := keepsL1_translate s core copy asid va
  rw [h] at hc hl
  exact ⟨hc, hl⟩

/-- A `fork` that nothing holds up pushes its task, or parks for room (20 R435). -/
theorem execFork_next {s t : State} {c : Ctx} {u : UWord} (hi : s.issuing = some c) (free : Plain c u.s) (hframes : c.part.frames = [])
    (htask : badTask c u.a.toNat = none) (hentry : (c.sreg u.a.toNat).toNat < 2 ^ 57) (hrel : FullReleaseReady s c 2 3)
    (hpins : s.lookPins c.ref.core false c.part.regs.asid (c.sreg u.a.toNat).toNat = []) {pte lp : Nat}
    (ht : s.translate c.ref.core false c.part.regs.asid (c.sreg u.a.toNat).toNat = (t, .leaf pte lp))
    (hleaf : t.leafFault .fetch pte (paOf pte lp (c.sreg u.a.toNat).toNat) = none) :
    exec (.fork u) s = .next (if s.forkRoom c.wave.launch c.ref.core (c.launch.deque c.ref.core) then t.pushTask c (taskOf c u.a.toNat)
      else t.parkPart c.ref (.fork (taskOf c u.a.toNat) none)) := by
  obtain ⟨hcaches, hl1⟩ := translate_cachesOnly ht
  have hroom : t.forkRoom c.wave.launch c.ref.core (c.launch.deque c.ref.core) = s.forkRoom c.wave.launch c.ref.core (c.launch.deque c.ref.core) := by
    rw [hcaches.eq]
    rfl
  refine (issue_next _ _ c s hi (by simp) (by simp [gateBan, hframes]) rfl free).trans (congrArg _ ?_)
  dsimp only
  rw [htask]
  dsimp only
  have hbelow : ¬ 2 ^ 57 ≤ (taskOf c u.a.toNat).entry.toNat := not_le.mpr hentry
  rw [if_neg hbelow]
  refine (heldOr_ok hpins ht hleaf).trans ?_
  rw [fullReleaseWait_none (fullReleaseReady_of_keeps hcaches hl1 hrel) le_rfl]
  dsimp only
  rw [hroom]

theorem fork_completes {s s1 : State} {c : Ctx} {u : UWord} (hi : s.issuing = some c) (free : Plain c u.s) (hframes : c.part.frames = [])
    (htask : badTask c u.a.toNat = none) (hentry : (c.sreg u.a.toNat).toNat < 2 ^ 57) (hrel : FullReleaseReady s c 2 3)
    (hpins : s.lookPins c.ref.core false c.part.regs.asid (c.sreg u.a.toNat).toNat = []) {pte lp : Nat}
    (ht : s.translate c.ref.core false c.part.regs.asid (c.sreg u.a.toNat).toNat = (s1, .leaf pte lp))
    (hleaf : s1.leafFault .fetch pte (paOf pte lp (c.sreg u.a.toNat).toNat) = none) :
    ∃ t w p l, exec (.fork u) s = .next t ∧ t = { s1 with launches := t.launches, waves := t.waves } ∧ t.wave? c.ref.key = some w
      ∧ SameVregs c.wave w ∧ w.part? c.ref.base = some p ∧ p.regs = c.part.regs ∧ t.launch? c.wave.launch = some l
      ∧ if s.forkRoom c.wave.launch c.ref.core (c.launch.deque c.ref.core) then
          l.deque c.ref.core = (c.launch.deque c.ref.core).push (taskOf c u.a.toNat) ∧ p.pc = c.part.pc + 4 ∧ p.region = c.part.pc + 4
        else l = c.launch ∧ p.pc = c.part.pc ∧ p.park = .fork (taskOf c u.a.toNat) none := by
  have hctx := ((translate_cachesOnly ht).1.ctx? c.ref).trans (issuing_ctx hi)
  obtain ⟨-, hw, hp, -, hl⟩ := ctx_parts hctx
  have hexec := execFork_next hi free hframes htask hentry hrel hpins ht hleaf
  split at hexec
  · next hroom =>
    obtain ⟨w, hwave, hsame, hpart⟩ := wave?_pushTask hw hp (taskOf c u.a.toNat)
    refine ⟨_, w, _, _, hexec, ?_, hwave, hsame, hpart, rfl, launch?_pushTask hl _, ?_⟩
    · rw [(onlyWave_pushTask s1 c _).state, queueTask_eq]
    · rw [if_pos hroom]
      exact ⟨Launch.deque_setDeque .., rfl, rfl⟩
  · next hroom =>
    obtain ⟨w, honly, hsame, hwave⟩ := parkPart_effect hctx (.fork (taskOf c u.a.toNat) none)
    refine ⟨_, w, _, c.launch, hexec, ?_, hwave.found, hsame, hwave.part, rfl, ?_, ?_⟩
    · rw [State.parkPart, State.updPart_eq]
    · rw [State.parkPart, State.updPart, State.launch?_updWave, hl]
    · rw [if_neg hroom]
      exact ⟨rfl, rfl, rfl⟩

/-! ### `join` (02 R46; 20 R443) -/

theorem join_parks {s s1 : State} {c : Ctx} {u : UWord} (hi : s.issuing = some c) (free : Free c u.s true none none)
    (haddr : (c.sreg u.a.toNat).toNat < 2 ^ 57) (halign : (c.sreg u.a.toNat).toNat % 8 = 0)
    (hpins : s.lookPins c.ref.core false c.part.regs.asid (c.sreg u.a.toNat).toNat = []) {pte lp : Nat}
    (ht : s.translate c.ref.core false c.part.regs.asid (c.sreg u.a.toNat).toNat = (s1, .leaf pte lp))
    (hleaf : s1.leafFault .read pte (paOf pte lp (c.sreg u.a.toNat).toNat) = none) :
    ∃ t w, exec (.join u) s = .next t
      ∧ t = { s1.sendBack c.ref.core (paOf pte lp (c.sreg u.a.toNat).toNat / 128) with waves := t.waves } ∧ SameVregs c.wave w
      ∧ (∀ k, k ≠ c.ref.key → t.wave? k = s.wave? k)
      ∧ WaveIs c t id (c.part.parkedAtOnce (.join (c.sreg u.a.toNat).toNat (paOf pte lp (c.sreg u.a.toNat).toNat)
        (.reading (s.dcc + joinPath c.ref.core (paOf pte lp (c.sreg u.a.toNat).toNat)))) s.dcc) w := by
  obtain ⟨hcaches, -⟩ := translate_cachesOnly ht
  have hsend := (sendsLines_sendBack s1 c.ref.core (paOf pte lp (c.sreg u.a.toNat).toNat / 128)).only
  have hctx : (s1.sendBack c.ref.core (paOf pte lp (c.sreg u.a.toNat).toNat / 128)).ctx? c.ref = some c := by
    rw [hsend]
    exact (hcaches.ctx? c.ref).trans (issuing_ctx hi)
  have hdcc : (s1.sendBack c.ref.core (paOf pte lp (c.sreg u.a.toNat).toNat / 128)).dcc = s.dcc := by
    rw [hsend]
    exact hcaches.dcc
  obtain ⟨w, honly, hsame, hwave⟩ := parkPart_effect hctx (.join (c.sreg u.a.toNat).toNat (paOf pte lp (c.sreg u.a.toNat).toNat)
    (.reading (s.dcc + joinPath c.ref.core (paOf pte lp (c.sreg u.a.toNat).toNat))))
  rw [hdcc] at hwave
  refine ⟨_, w, ?_, honly.state, hsame, fun k hk => ?_, hwave⟩
  · refine (issue_next _ _ c s hi (by simp) rfl rfl free).trans (congrArg _ ?_)
    dsimp only
    rw [if_neg (not_le.mpr haddr), if_neg (by omega)]
    rw [← hcaches.dcc]
    exact heldOr_ok hpins ht hleaf
  · refine (honly.others k hk).trans ?_
    rw [hsend]
    exact hcaches.wave? k

/-! ### Deques (02 R41-R43) -/

/-- The tasks of a deque, newest first. -/
abbrev Deque.all (d : Deque) : List Task := d.near ++ d.far.reverse

theorem Deque.all_push (d : Deque) (t : Task) (h : d.near.length ≤ 8) : (d.push t).all = t :: d.all := by
  unfold Deque.push
  split
  · rfl
  · have hlast : (d.near.drop 7).length = 1 := by
      rw [List.length_drop]
      omega
    obtain ⟨x, hx⟩ := List.length_eq_one_iff.mp hlast
    have hnear : d.near.take 7 ++ [x] = d.near := by rw [← hx, List.take_append_drop]
    rw [Deque.all, Deque.all, hx]
    conv_rhs => rw [← hnear]
    simp

theorem Deque.all_pop {d e : Deque} {t : Task} (h : d.pop = some (t, e)) : d.all = t :: e.all := by
  unfold Deque.pop at h
  split at h
  · next x r hnear =>
    obtain ⟨rfl, rfl⟩ := Prod.mk.inj (Option.some.inj h)
    rw [Deque.all, hnear]
    rfl
  · next hnear =>
    obtain ⟨x, hx, hxe⟩ := Option.map_eq_some_iff.mp h
    obtain ⟨rfl, rfl⟩ := Prod.mk.inj hxe
    have hfar : d.far.dropLast ++ [x] = d.far := List.dropLast_append_getLast? x hx
    rw [Deque.all, Deque.all, hnear, ← hfar]
    simp

theorem Deque.all_steal {d e : Deque} {t : Task} (h : d.steal = some (t, e)) : d.all = e.all ++ [t] := by
  unfold Deque.steal at h
  split at h
  · next x r hfar =>
    obtain ⟨rfl, rfl⟩ := Prod.mk.inj (Option.some.inj h)
    simp [Deque.all, hfar]
  · next hfar =>
    obtain ⟨x, hx, hxe⟩ := Option.map_eq_some_iff.mp h
    obtain ⟨rfl, rfl⟩ := Prod.mk.inj hxe
    have hnear : d.near.dropLast ++ [x] = d.near := List.dropLast_append_getLast? x hx
    simp [Deque.all, hfar, hnear]

end Sys2Proof.Machine
end

section
/-! SUPPORT. The statement about `fork`, `join` and deques. -/

open Sys2Proof Sys2Proof.Machine

/-- Settles O32, from the issue of `fork` and `join` and the order of a deque's tasks. -/
theorem taskInstructions : Obligations.TaskInstructions := by
  unfold Obligations.TaskInstructions
  refine ⟨fun s c u hi => ⟨?_, ?_⟩, Deque.all_push, fun d e t => Deque.all_pop, fun d e t => Deque.all_steal⟩
  · exact fun free hframes htask hentry hrel hpins s1 pte lp ht hleaf => fork_completes hi free hframes htask hentry hrel hpins ht hleaf
  · exact fun free haddr halign hpins s1 pte lp ht hleaf => join_parks hi free haddr halign hpins ht hleaf

end

section
/-! SUPPORT. What the start of a group leaves (02 R31-R33; 04 R78): its record, its waves with the registers given, cleared scratch and tiles. -/

namespace Sys2Proof.Machine

/-! ### Tables and registers written in turn -/

theorem lookT_foldl_putT {α : Type} (es : List (Nat × α)) (m : List (Nat × α)) {k : Nat} (h : k ∈ es.map Prod.fst) :
    ∃ e ∈ es, e.1 = k ∧ lookT (es.foldl (fun t e => putT t e.1 e.2) m) k = some e.2 := by
  induction es generalizing m with
  | nil => exact absurd h List.not_mem_nil
  | cons e r ih =>
    by_cases hr : k ∈ r.map Prod.fst
    · obtain ⟨x, hx, hk, hlook⟩ := ih (putT m e.1 e.2) hr
      exact ⟨x, List.mem_cons_of_mem _ hx, hk, hlook⟩
    · have hk : e.1 = k := by
        rw [List.map_cons, List.mem_cons] at h
        exact (h.resolve_right hr).symm
      refine ⟨e, List.mem_cons_self, hk, ?_⟩
      have hkeep : ∀ (r : List (Nat × α)) (m : List (Nat × α)), k ∉ r.map Prod.fst → lookT (r.foldl (fun t e => putT t e.1 e.2) m) k = lookT m k := by
        intro r
        induction r with
        | nil => exact fun _ _ => rfl
        | cons x y ihy =>
          intro m hn
          rw [List.map_cons, List.mem_cons, not_or] at hn
          rw [List.foldl_cons, ihy _ hn.2, lookT_putT_of_ne _ _ hn.1]
      rw [List.foldl_cons, hkeep r _ hr, hk, lookT_putT_self]

/-- Uniform registers given at admission: one that the list names once, first, keeps its value. -/
theorem getT_foldl_setT_list (es : List (Nat × W64)) (m : List (Nat × W64)) {n : Nat} (h : ∀ e ∈ es, e.1 ≠ n) :
    getT 0 (es.foldl (fun t e => setT 0 t e.1 e.2) m) n = getT 0 m n := by
  induction es generalizing m with
  | nil => rfl
  | cons e r ih =>
    rw [List.foldl_cons, ih _ (fun x hx => h x (List.mem_cons_of_mem _ hx)), getT_setT_of_ne _ _ _ (h e List.mem_cons_self).symm]

/-! ### The waves of a group (02 R33) -/

theorem placeWaves_length {ns : List (List Nat)} {k k' : Core} {claimed resident used : List Nat} {ws : List (Nat × Nat × Nat)}
    (h : placeWaves k claimed resident used ns = some (k', ws)) : ws.length = ns.length := by
  induction ns generalizing k k' resident used ws with
  | nil =>
    obtain ⟨-, rfl⟩ := Prod.mk.inj (Option.some.inj h)
    rfl
  | cons n r ih =>
    unfold placeWaves at h
    split at h
    · exact absurd h (by simp)
    · obtain ⟨x, hx, hxe⟩ := Option.map_eq_some_iff.mp h
      obtain ⟨-, rfl⟩ := Prod.mk.inj hxe
      rw [List.length_cons, List.length_cons, ih hx]

/-- The registers of a part at admission: s0 is the launch's parameter, s1 the first argument (04 R78). -/
theorem sreg_admissionRegs (l : Launch) (k : Kernel) (gt : Nat) (a : W64) (as : List W64) :
    (admissionRegs l k gt ((0, l.param) :: ((a :: as).zipIdx.map (fun e => (e.2 + 1, e.1))))).sreg 0 = l.param
      ∧ (admissionRegs l k gt ((0, l.param) :: ((a :: as).zipIdx.map (fun e => (e.2 + 1, e.1))))).sreg 1 = a := by
  have hrest : ∀ e ∈ (as.zipIdx 1).map (fun e => (e.2 + 1, e.1)), 2 ≤ e.1 := by
    intro e he
    obtain ⟨x, hx, rfl⟩ := List.mem_map.mp he
    exact Nat.succ_le_succ (List.le_snd_of_mem_zipIdx hx)
  have hregs : ∀ n < 2, (admissionRegs l k gt ((0, l.param) :: ((a :: as).zipIdx.map (fun e => (e.2 + 1, e.1))))).sreg n
      = getT 0 (setT 0 (setT 0 [] 0 l.param) 1 a) n := by
    intro n hn
    exact getT_foldl_setT_list ((as.zipIdx 1).map (fun e : W64 × Nat => (e.2 + 1, e.1))) (setT 0 (setT 0 [] 0 l.param) 1 a)
      (n := n) (fun e he => by have := hrest e he; omega)
  rw [hregs 0 (by decide), hregs 1 (by decide), getT_setT_self, getT_setT_of_ne 0 _ _ (by decide : (0 : Nat) ≠ 1), getT_setT_self]
  exact ⟨rfl, rfl⟩

/-! ### The group (02 R31) -/

/-- A group with its record `g` has started on a core: what has changed, and its waves. -/
structure GroupStarted (s t : State) (l : Launch) (lid core : Nat) (q : GroupReq) (g : Group) : Prop where
  frame : t = { s with
    cores := t.cores, nextId := t.nextId, groups := putT s.groups s.nextId g, waves := t.waves, launches := t.launches
    scratch := clearRange s.scratch (scratchKey core (g.scrBase * 8192)) (scratchKey core ((g.scrBase + g.scr) * 8192))
    acc := clearRange s.acc (accKey core g.t0 0) (accKey core (g.t0 + g.nacc) 0) }
  ids : s.nextId < t.nextId
  launch : ∃ l', t.launch? lid = some l' ∧ l' = { l with numbered := l'.numbered, chanCores := l'.chanCores }
  owner : g.launch = lid ∧ g.core = core ∧ g.num = l.groupNumber q.kind ∧ g.kind = q.kind
  slots : g.slots.length = q.nwaves ∧ g.nwaves = q.nwaves
  empty : g.barriers = [] ∧ g.engineTiles = []
  waves : ∀ slot ∈ g.slots, ∃ i at_ id, t.wave? (core * 128 + slot) = some (s.newWave l lid core s.nextId q i at_ id)

/-- The record of a group that starts with its scratch, its tiles and its waves placed. -/
def GroupReq.group (q : GroupReq) (l : Launch) (lid core scr t0 : Nat) (ws : List (Nat × Nat × Nat)) : Group :=
  { launch := lid, num := l.groupNumber q.kind, core := core, kind := q.kind, cls := q.cls, scrBase := scr, scr := q.kernel.scr, t0 := t0
    nacc := q.kernel.nacc, nbar := q.kernel.nbar, nwaves := q.nwaves, slots := ws.map (fun w => w.2.2), barriers := []
    engineTiles := [], coop := 0, mesh := l.admitted, verts := [], tris := [], dirtyLines := [] }

/-- The waves of a group that starts, with their keys. -/
def State.groupStartWaves (s : State) (l : Launch) (lid core : Nat) (q : GroupReq) (ws : List (Nat × Nat × Nat)) : List (Nat × Wave) :=
  ws.zipIdx.map (fun w => (core * 128 + w.1.2.2, s.newWave l lid core s.nextId q w.2 w.1 (s.nextId + 1 + w.2)))

/-- The state with a group's record and waves, its scratch and tiles cleared. -/
def State.putGroup (s : State) (l : Launch) (lid core : Nat) (q : GroupReq) (scr t0 : Nat) (k : Core) (ws : List (Nat × Nat × Nat)) : State :=
  { s.setCore core k with
    nextId := s.nextId + 1 + q.nwaves
    groups := putT s.groups s.nextId (q.group l lid core scr t0 ws)
    waves := (s.groupStartWaves l lid core q ws).foldl (fun t (e : Nat × Wave) => putT t e.1 e.2) s.waves
    scratch := clearRange s.scratch (scratchKey core (scr * 8192)) (scratchKey core ((scr + q.kernel.scr) * 8192))
    acc := clearRange s.acc (accKey core t0 0) (accKey core (t0 + q.kernel.nacc) 0) }

/-- The launch of a group that has started on a core. -/
def Launch.holdsGroup (l : Launch) (core : Nat) (q : GroupReq) : Launch :=
  { l with numbered := if q.kind.offered then l.numbered else l.numbered + 1
           chanCores := if l.chanCores.contains core then l.chanCores else core :: l.chanCores }

theorem startGroup_some {s t : State} {l : Launch} {lid core : Nat} {q : GroupReq} (hl : s.launch? lid = some l)
    (h : s.startGroup lid core q = some t) :
    ∃ scr t0 k ws, ws.length = q.nwaves ∧ t = (s.putGroup l lid core q scr t0 k ws).updLaunch lid (fun l => l.holdsGroup core q) := by
  unfold State.startGroup at h
  rw [hl] at h
  dsimp only at h
  split at h
  · next scr t0 k ws hscr htile hplace =>
    split at h
    · exact absurd h (by simp)
    · exact ⟨scr, t0, k, ws, by rw [placeWaves_length hplace, List.length_replicate], (Option.some.inj h).symm⟩
  · exact absurd h (by simp)

theorem State.updLaunch_eq (s : State) (lid : Nat) (f : Launch → Launch) : s.updLaunch lid f = { s with launches := (s.updLaunch lid f).launches } := by
  unfold State.updLaunch
  split <;> rfl

theorem State.launch?_updLaunch_some {s : State} {lid : Nat} {l : Launch} (h : s.launch? lid = some l) (f : Launch → Launch) :
    (s.updLaunch lid f).launch? lid = some (f l) := by
  rw [State.updLaunch_self, h]
  rfl

theorem State.launch?_updLaunch_of_ne (s : State) {lid k : Nat} (f : Launch → Launch) (h : k ≠ lid) :
    (s.updLaunch lid f).launch? k = s.launch? k := by
  unfold State.updLaunch
  split
  · exact lookT_putT_of_ne _ _ h
  · rfl

theorem startGroup_starts {s t : State} {l : Launch} {lid core : Nat} {q : GroupReq} (hl : s.launch? lid = some l)
    (h : s.startGroup lid core q = some t) : ∃ g, GroupStarted s t l lid core q g := by
  obtain ⟨scr, t0, k, ws, hlen, rfl⟩ := startGroup_some hl h
  have hl' : (s.putGroup l lid core q scr t0 k ws).launch? lid = some l := hl
  have hupd := State.updLaunch_eq (s.putGroup l lid core q scr t0 k ws) lid (fun l => l.holdsGroup core q)
  refine ⟨q.group l lid core scr t0 ws, ?_, ?_, ⟨_, State.launch?_updLaunch_some hl' _, rfl⟩, ⟨rfl, rfl, rfl, rfl⟩, ⟨?_, rfl⟩, ⟨rfl, rfl⟩,
    fun slot hslot => ?_⟩
  · rw [hupd]
    rfl
  · rw [State.updLaunch_nextId]
    show s.nextId < s.nextId + 1 + q.nwaves
    omega
  · rw [← hlen]
    exact List.length_map ..
  · have hkey : core * 128 + slot ∈ (s.groupStartWaves l lid core q ws).map Prod.fst := by
      obtain ⟨a, ha, rfl⟩ := List.mem_map.mp hslot
      obtain ⟨i, hi, rfl⟩ := List.getElem_of_mem ha
      refine List.mem_map.mpr ⟨_, List.mem_map.mpr ⟨(ws[i], i), ?_, rfl⟩, rfl⟩
      exact List.mem_zipIdx_iff_getElem?.mpr (List.getElem?_eq_getElem hi)
    obtain ⟨e, he, -, hlook⟩ := lookT_foldl_putT _ s.waves hkey
    obtain ⟨a, -, rfl⟩ := List.mem_map.mp he
    refine ⟨a.2, a.1, s.nextId + 1 + a.2, ?_⟩
    rw [hupd]
    exact hlook

/-! ### A wave at admission (02 R33; 04 R78) -/

/-- The part of a wave at admission. -/
def State.admittedPart (s : State) (l : Launch) (q : GroupReq) : Part :=
  newPart q.width q.entry (admissionRegs l q.kernel (s.domainGt l.domain.toNat) ((0, l.param) :: (q.args.zipIdx.map (fun e => (e.2 + 1, e.1)))))
    s.dcc 16

section
variable (s : State) (l : Launch) (lid core gid : Nat) (q : GroupReq) (i : Nat) (at_ : Nat × Nat × Nat) (id : Nat)

@[simp] theorem newWave_group : (s.newWave l lid core gid q i at_ id).group = gid := by simp [State.newWave]
@[simp] theorem newWave_launch : (s.newWave l lid core gid q i at_ id).launch = lid := by simp [State.newWave]
@[simp] theorem newWave_width : (s.newWave l lid core gid q i at_ id).width = q.width := by simp [State.newWave]
@[simp] theorem newWave_helper : (s.newWave l lid core gid q i at_ id).helper = q.helper := by simp [State.newWave]
@[simp] theorem newWave_exited : (s.newWave l lid core gid q i at_ id).exited = q.exited := by simp [State.newWave]
@[simp] theorem newWave_pixel : (s.newWave l lid core gid q i at_ id).pixel = q.pixel := by simp [State.newWave]
@[simp] theorem newWave_preds : (s.newWave l lid core gid q i at_ id).preds = [] := by simp [State.newWave]
@[simp] theorem newWave_parts : (s.newWave l lid core gid q i at_ id).parts = [s.admittedPart l q] := by
  simp [State.newWave, State.admittedPart]

theorem newWave_p {n : Nat} (hn : n ≠ 0) : (s.newWave l lid core gid q i at_ id).p n = 0 := by
  rw [Wave.p, if_neg hn, newWave_preds]
  rfl

/-- The registers given at admission are the only ones that are not zero. -/
theorem newWave_v_zero (h : q.vregs = []) (depth lane n : Nat) : (s.newWave l lid core gid q i at_ id).v depth lane n = 0 := by
  rw [Wave.v, State.newWave, h]
  rfl

theorem newWave_v_given {lane n : Nat} {v : W32} (hmem : (lane, n, v) ∈ q.vregs)
    (hall : ∀ e ∈ q.vregs, vKey 0 e.1 e.2.1 = vKey 0 lane n → e.2.2 = v) : (s.newWave l lid core gid q i at_ id).v 0 lane n = v :=
  v_setVs_agree _ 0 q.vregs ⟨_, hmem, rfl⟩ hall

end

/-- The groups, waves and memories of `u` are those of `t`, at the slots of a group of a core. -/
structure SameGroup (core : Nat) (g : Group) (t u : State) : Prop where
  groups : u.groups = t.groups
  waves : ∀ slot ∈ g.slots, u.wave? (core * 128 + slot) = t.wave? (core * 128 + slot)
  mem : u.mem = t.mem
  scratch : u.scratch = t.scratch
  acc : u.acc = t.acc

theorem SameGroup.refl (core : Nat) (g : Group) (t : State) : SameGroup core g t t := ⟨rfl, fun _ _ => rfl, rfl, rfl, rfl⟩

theorem SameGroup.updLaunch {core : Nat} {g : Group} {t u : State} (h : SameGroup core g t u) (lid : Nat) (f : Launch → Launch) :
    SameGroup core g t (u.updLaunch lid f) := by
  rw [State.updLaunch_eq]
  exact ⟨h.groups, h.waves, h.mem, h.scratch, h.acc⟩

theorem GroupStarted.group? {s t : State} {l : Launch} {lid core : Nat} {q : GroupReq} {g : Group} (h : GroupStarted s t l lid core q g) :
    t.group? s.nextId = some g := by
  rw [State.group?, h.frame]
  exact lookT_putT_self ..

/-- A group without registers given beyond s0 and s1 is newly admitted, whatever is done to the rest of the state. -/
theorem GroupStarted.admitted {s t u : State} {l : Launch} {lid core : Nat} {q : GroupReq} {g : Group} (h : GroupStarted s t l lid core q g)
    (hu : SameGroup core g t u) {a : W64} {as : List W64} (hargs : q.args = a :: as) (hv : q.vregs = []) :
    u.group? s.nextId = some g ∧ Admitted s u lid core q.entry l.param a := by
  have hgroup : u.group? s.nextId = some g := by
    rw [State.group?, hu.groups]
    exact h.group?
  obtain ⟨hlaunch, hcore, -, -⟩ := h.owner
  obtain ⟨hslots, hn⟩ := h.slots
  have hmem : t.mem = s.mem := by rw [h.frame]
  have hscratch : t.scratch = clearRange s.scratch (scratchKey core (g.scrBase * 8192)) (scratchKey core ((g.scrBase + g.scr) * 8192)) := by
    rw [h.frame]
  have hacc : t.acc = clearRange s.acc (accKey core g.t0 0) (accKey core (g.t0 + g.nacc) 0) := by rw [h.frame]
  refine ⟨hgroup, ⟨g, hgroup, hlaunch, hcore, hslots.trans hn.symm, h.empty.1, h.empty.2, fun slot hslot => ?_, fun b => ?_, fun b => ?_⟩,
    hu.mem.trans hmem⟩
  · obtain ⟨i, at_, id, hwave⟩ := h.waves slot hslot
    have hregs := sreg_admissionRegs l q.kernel (s.domainGt l.domain.toNat) a as
    rw [← hargs] at hregs
    exact ⟨_, s.admittedPart l q, (hu.waves slot hslot).trans hwave, newWave_group .., newWave_launch .., newWave_parts .., rfl, rfl, rfl,
      hregs.1, hregs.2, newWave_v_zero _ _ _ _ _ _ _ _ _ hv, fun n hn => newWave_p _ _ _ _ _ _ _ _ _ hn⟩
  · rw [hu.scratch, hscratch]
    exact readByte_clearRange ..
  · rw [hu.acc, hacc]
    exact readByte_clearRange ..

end Sys2Proof.Machine
end

section
/-! SUPPORT. What placing a launch leaves (11 R260, R268, 17 R376): its origin, and the clusters of its cores awake or waking. -/

namespace Sys2Proof.Machine

/-- A cluster that a reserved core has: awake, or on its way. -/
def State.clusterUp (s : State) (c : Nat) : Prop := (s.cluster c).state = .awake ∨ (s.cluster c).state = .waking

/-- The state with the clusters and the launches of another. -/
structure ReservesOnly (s t : State) : Prop where
  eq : t = { s with clusters := t.clusters }
  up : ∀ c, s.clusterUp c → t.clusterUp c

theorem ReservesOnly.refl (s : State) : ReservesOnly s s := ⟨rfl, fun _ h => h⟩

theorem ReservesOnly.trans {s t u : State} (h : ReservesOnly s t) (g : ReservesOnly t u) : ReservesOnly s u :=
  ⟨by rw [g.eq, h.eq], fun c hc => g.up c (h.up c hc)⟩

theorem reserveCore_up (s : State) (core : Nat) : (s.reserveCore core).clusterUp (clusterOf core) := by
  unfold State.clusterUp State.reserveCore
  rw [State.cluster_updCluster_self]
  split
  · exact .inl ‹_›
  · exact .inl rfl
  · exact .inr rfl
  · exact .inr ‹_›

theorem reserveCore_reserves (s : State) (core : Nat) : ReservesOnly s (s.reserveCore core) := by
  refine ⟨rfl, fun c hc => ?_⟩
  by_cases h : c = clusterOf core
  · rw [h]
    exact reserveCore_up s core
  · unfold State.clusterUp State.reserveCore
    rw [State.cluster_updCluster_of_ne _ _ h]
    exact hc

theorem reserveCores_reserves (ks : List Nat) (s : State) :
    ReservesOnly s (ks.foldl State.reserveCore s) ∧ ∀ k ∈ ks, (ks.foldl State.reserveCore s).clusterUp (clusterOf k) := by
  induction ks generalizing s with
  | nil => exact ⟨.refl s, fun _ h => absurd h List.not_mem_nil⟩
  | cons k r ih =>
    obtain ⟨hr, hup⟩ := ih (s.reserveCore k)
    refine ⟨(reserveCore_reserves s k).trans hr, fun c hc => ?_⟩
    rcases List.mem_cons.mp hc with rfl | hc
    · exact hr.up _ (reserveCore_up s c)
    · exact hup c hc

/-- A launch at its origin, placed. -/
def State.placedAt (s t : State) (l : Launch) (e : Nat × Nat) : Launch :=
  { l.atOrigin e.1 e.2 with
    at_ := .placed, waited := t.waitedOf (l.atOrigin e.1 e.2), acceptedAt := s.dcc
    protectedUntil := if l.due then some (s.dcc + s.quantum / 8) else none, ready := s.dcc }

theorem takeCores_places {s : State} {lid : Nat} {l : Launch} (e : Nat × Nat) (hl : s.launch? lid = some l) :
    ∃ u, ReservesOnly (s.withOrigin lid e.1 e.2) u ∧ (∀ k ∈ (l.atOrigin e.1 e.2).cores, u.clusterUp (clusterOf k))
      ∧ (s.takeCores lid e).clusters = u.clusters ∧ s.takeCores lid e = { u with launches := (s.takeCores lid e).launches }
      ∧ (s.takeCores lid e).launch? lid = some (s.placedAt u l e) := by
  have hat : (s.withOrigin lid e.1 e.2).launch? lid = some (l.atOrigin e.1 e.2) := State.launch?_updLaunch_some hl _
  obtain ⟨hr, hup⟩ := reserveCores_reserves (l.atOrigin e.1 e.2).cores (s.withOrigin lid e.1 e.2)
  have hat' : ((l.atOrigin e.1 e.2).cores.foldl State.reserveCore (s.withOrigin lid e.1 e.2)).launch? lid = some (l.atOrigin e.1 e.2) := by
    rw [hr.eq]
    exact hat
  refine ⟨_, hr, hup, ?_⟩
  have htake : s.takeCores lid e = ((l.atOrigin e.1 e.2).cores.foldl State.reserveCore (s.withOrigin lid e.1 e.2)).updLaunch lid (fun v =>
      { v with at_ := .placed
               waited := ((l.atOrigin e.1 e.2).cores.foldl State.reserveCore (s.withOrigin lid e.1 e.2)).waitedOf v
               acceptedAt := s.dcc, protectedUntil := if l.due then some (s.dcc + s.quantum / 8) else none, ready := s.dcc }) := by
    have hdcc : ((l.atOrigin e.1 e.2).cores.foldl State.reserveCore (s.withOrigin lid e.1 e.2)).dcc = s.dcc := by
      rw [hr.eq]
      exact State.updLaunch_dcc ..
    have hsched : ((l.atOrigin e.1 e.2).cores.foldl State.reserveCore (s.withOrigin lid e.1 e.2)).sched = s.sched := by
      rw [hr.eq]
      exact State.updLaunch_sched ..
    have hq : ((l.atOrigin e.1 e.2).cores.foldl State.reserveCore (s.withOrigin lid e.1 e.2)).quantum = s.quantum := by
      rw [State.quantum, hsched, State.quantum]
    unfold State.takeCores
    simp only [hat, hdcc, hq]
    rfl
  rw [htake]
  exact ⟨State.updLaunch_clusters .., State.updLaunch_eq .., State.launch?_updLaunch_some hat' _⟩

theorem launchPlacement_places {s : State} {lid : Nat} {l : Launch} {e : Nat × Nat} (hl : s.launch? lid = some l)
    (hwait : l.at_ = .waiting) (he : s.placeAt lid l = some e) :
    ∃ t l', exec (.launchPlacement lid) s = .next t ∧ t = { s with clusters := t.clusters, launches := t.launches } ∧ t.launch? lid = some l'
      ∧ l'.at_ = .placed ∧ (l'.x0, l'.y0) = e ∧ l'.kernel = l.kernel ∧ l'.admitted = l.admitted
      ∧ ∀ k ∈ l'.cores, l'.readyAt k = s.dcc + (if dieOf k = 0 then 24 else 40)
        ∧ ((t.cluster (clusterOf k)).state = .awake ∨ (t.cluster (clusterOf k)).state = .waking) := by
  obtain ⟨u, hr, hup, hclusters, heq, hlaunch⟩ := takeCores_places e hl
  refine ⟨_, _, ?_, ?_, hlaunch, rfl, rfl, rfl, rfl, fun k hk => ⟨rfl, ?_⟩⟩
  · show execLaunchPlacement lid s = _
    simp [execLaunchPlacement, hl, hwait, he]
  · rw [heq, hr.eq, State.withOrigin, State.updLaunch_eq]
  · have hk' := hup k hk
    unfold State.clusterUp State.cluster at hk'
    rw [← hclusters] at hk'
    exact hk'

end Sys2Proof.Machine
end

section
/-! SUPPORT. The end of a launch (11 R263): its hold, its release at sys scope, and its leaving. -/

namespace Sys2Proof.Machine

/-! ### A launch is over -/

theorem endPass_eq (s : State) (l : Launch) :
    s.endPass l = { s with marks := (s.endPass l).marks, sentMarks := (s.endPass l).sentMarks, dies := (s.endPass l).dies } := by
  unfold State.endPass
  split
  · rfl
  · split <;> rfl

theorem launchCompletion_ends {s : State} {lid : Nat} {l : Launch} (hl : s.launch? lid = some l) (hat : l.at_ ≠ .completed)
    (hover : s.launchOver lid l = true) :
    ∃ t, exec (.launchCompletion lid) s = .next t
      ∧ t = { s with launches := t.launches, marks := t.marks, sentMarks := t.sentMarks, dies := t.dies }
      ∧ t.launch? lid = some { l with at_ := .completed, relAt := none } ∧ ∀ k, k ≠ lid → t.launch? k = s.launch? k := by
  have hend : s.endAt lid l = .ended := by simp [State.endAt, hat, hover]
  have hexec : exec (.launchCompletion lid) s
      = .next ((s.updLaunch lid (fun l => { l with at_ := .completed, relAt := none })).endPass { l with at_ := .completed }) := by
    show execLaunchCompletion lid s = _
    simp only [execLaunchCompletion, hl, hend]
  have hpass := endPass_eq (s.updLaunch lid (fun l => { l with at_ := .completed, relAt := none })) { l with at_ := .completed }
  have hlaunches : ∀ k, ((s.updLaunch lid (fun l => { l with at_ := .completed, relAt := none })).endPass { l with at_ := .completed }).launch? k
      = (s.updLaunch lid (fun l => { l with at_ := .completed, relAt := none })).launch? k := by
    intro k
    rw [hpass]
    rfl
  refine ⟨_, hexec, ?_, ?_, fun k hk => ?_⟩
  · rw [hpass, State.updLaunch_eq]
  · rw [hlaunches]
    exact State.launch?_updLaunch_some hl _
  · rw [hlaunches]
    exact State.launch?_updLaunch_of_ne s _ hk

/-! ### A launch leaves -/

theorem backsDone_of_later {s : State} {core n : Nat} (h : ∀ b ∈ s.backs, b.core = core → n ≤ b.id) : s.backsDone core n = true := by
  rw [State.backsDone, Bool.not_eq_true', List.any_eq_false]
  intro b hb
  rw [Bool.and_eq_true, beq_iff_eq, decide_eq_true_eq]
  exact fun ⟨hcore, hid⟩ => absurd (h b hb hcore) (Nat.not_le.mpr hid)

theorem launchCompletion_leaves {s : State} {lid n : Nat} {l : Launch} (hl : s.launch? lid = some l) (hat : l.at_ = .completed)
    (hrel : l.relAt = some n) (hbacks : ∀ k ∈ l.cores, ∀ b ∈ s.backs, b.core = k → n ≤ b.id) (hchan : l.channels = [] ∨ l.chanCores = [])
    (hnode : l.node = none) :
    ∃ t, exec (.launchCompletion lid) s = .next t ∧ t = { s with launches := t.launches } ∧ t.launch? lid = none
      ∧ ∀ k, k ≠ lid → t.launch? k = s.launch? k := by
  have hdone : l.cores.all (fun c => s.backsDone c n) = true := List.all_eq_true.mpr (fun k hk => backsDone_of_later (hbacks k hk))
  have hfree : ¬ (l.channels ≠ [] ∧ l.chanCores ≠ []) := by tauto
  have hend : s.endAt lid l = .done := by simp [State.endAt, hat, hrel, hdone, hfree, hnode]
  have hexec : exec (.launchCompletion lid) s = .next { s with launches := delT s.launches lid } := by
    show execLaunchCompletion lid s = _
    simp only [execLaunchCompletion, hl, hend, hnode]
  exact ⟨_, hexec, rfl, lookT_delT_self .., fun k hk => lookT_delT_of_ne _ hk⟩

/-! ### The release of a launch's writes -/

theorem find?_putLine_of_ne (t : List L1Line) (l : L1Line) {line : Nat} (h : line ≠ l.line) :
    (putLine t l).find? (fun o => o.line == line) = t.find? (fun o => o.line == line) := by
  unfold putLine
  split
  · rw [List.find?_filter]
    refine List.find?_congr (fun o _ => ?_)
    by_cases ho : o.line = line
    · simp [ho, h]
    · simp [ho]
  · induction t with
    | nil => rfl
    | cons o r ih =>
      rw [List.map_cons, List.find?_cons, List.find?_cons, ih]
      by_cases ho : o.line = l.line
      · rw [if_pos ho, ho]
        rw [beq_false_of_ne h.symm]
      · rw [if_neg ho]

theorem sendBack_l1Line?_of_ne (s : State) {core line other : Nat} (h : other ≠ line) :
    (s.sendBack core line).l1Line? core other = s.l1Line? core other := by
  unfold State.sendBack State.sendBackAs State.sendSectors
  split
  · rfl
  · next l hl =>
    dsimp only
    split
    · rfl
    · have hline : l.line = line := by simpa using List.find?_some hl
      unfold State.l1Line? State.setL1
      rw [State.core_updCore_self]
      exact find?_putLine_of_ne _ _ (by rw [← hline] at h; exact h)

/-- A line has been sent, with an identity below those still to be given. -/
def SentBefore (s t : State) (core line : Nat) (l : L1Line) : Prop := ∃ b, LineSent s t core line l b ∧ b.id < t.nextId

theorem SentBefore.trans {s t u : State} {core line : Nat} {l : L1Line} (h : SentBefore s t core line l) (h' : SendsLines t u) :
    SentBefore s u core line l := by
  obtain ⟨b, hb, hid⟩ := h
  exact ⟨b, hb.trans h', hid.trans_le h'.ids⟩

theorem SentBefore.after {s t u : State} {core line : Nat} {l : L1Line} (h : SendsLines s t) (h' : SentBefore t u core line l) :
    SentBefore s u core line l := by
  obtain ⟨b, hb, hid⟩ := h'
  exact ⟨b, hb.after h, hid⟩

theorem sendBack_sentBefore {s : State} {core line : Nat} {l : L1Line} (hl : s.l1Line? core line = some l) (hd : l.dirty ≠ 0) :
    SentBefore s (s.sendBack core line) core line l := by
  have hgo : l.dirty &&& 0xF = l.dirty := BitVec.and_allOnes
  have hpath := slicePath_pos core (line * 128)
  simp only [SentBefore, State.sendBack, State.sendBackAs, State.sendSectors, hl, hgo, if_neg hd]
  exact ⟨_, ⟨List.mem_append_right _ (List.mem_singleton_self _), rfl, rfl, rfl, rfl, by dsimp only; omega, le_rfl⟩, Nat.lt_succ_self _⟩

/-- Sends lines of a core in turn. -/
def State.sendCoreLines (s : State) (core : Nat) (lines : List Nat) : State := lines.foldl (fun s l => s.sendBack core l) s

theorem sendsLines_sendCoreLines (s : State) (core : Nat) (lines : List Nat) : SendsLines s (s.sendCoreLines core lines) :=
  List.foldlRecOn lines _ (.refl s) (fun _ hb _ _ => hb.trans (sendsLines_sendBack ..))

theorem sendCoreLines_core_of_ne (s : State) {core n : Nat} (lines : List Nat) (h : n ≠ core) :
    (s.sendCoreLines core lines).core n = s.core n :=
  List.foldlRecOn (motive := fun t : State => t.core n = s.core n) lines _ rfl (fun _ hb _ _ => (sendBack_core_of_ne _ _ h).trans hb)

theorem sendCoreLines_sends {s : State} {core line : Nat} {lines : List Nat} {l : L1Line} (hmem : line ∈ lines)
    (hl : s.l1Line? core line = some l) (hd : l.dirty ≠ 0) : SentBefore s (s.sendCoreLines core lines) core line l := by
  induction lines generalizing s with
  | nil => exact absurd hmem List.not_mem_nil
  | cons x r ih =>
    show SentBefore s ((s.sendBack core x).sendCoreLines core r) core line l
    by_cases hx : line = x
    · subst hx
      exact (sendBack_sentBefore hl hd).trans (sendsLines_sendCoreLines ..)
    · have hrest := (List.mem_cons.mp hmem).resolve_left hx
      exact .after (sendsLines_sendBack ..) (ih hrest ((sendBack_l1Line?_of_ne s hx).trans hl))

/-- The lines of a core with dirty C-page sectors. -/
def State.dirtyCLines (s : State) (core : Nat) : List Nat :=
  ((s.core core).l1.filter (fun l => l.kind == 0 && l.dirty != 0)).map (fun l => l.line)

theorem releaseL1_sys (s : State) (core : Nat) : s.releaseL1 core 6 = s.sendCoreLines core (s.dirtyCLines core) := rfl

theorem sendsLines_releaseCores (s : State) (ks : List Nat) : SendsLines s (s.releaseCores ks) :=
  List.foldlRecOn ks _ (.refl s) (fun b hb k _ => hb.trans (by rw [releaseL1_sys b k]; exact sendsLines_sendCoreLines ..))

theorem releaseCores_sends {s : State} {ks : List Nat} {core : Nat} {l : L1Line} (hmem : core ∈ ks) (hin : l ∈ (s.core core).l1)
    (hl : s.l1Line? core l.line = some l) (hkind : l.kind = 0) (hd : l.dirty ≠ 0) : SentBefore s (s.releaseCores ks) core l.line l := by
  induction ks generalizing s with
  | nil => exact absurd hmem List.not_mem_nil
  | cons k r ih =>
    show SentBefore s ((s.releaseL1 k 6).releaseCores r) core l.line l
    rw [releaseL1_sys]
    by_cases hk : core = k
    · subst hk
      have hdirty : l.line ∈ s.dirtyCLines core := List.mem_map.mpr ⟨l, List.mem_filter.mpr ⟨hin, by rw [hkind]; simpa using hd⟩, rfl⟩
      exact (sendCoreLines_sends hdirty hl hd).trans (sendsLines_releaseCores ..)
    · have hcore := sendCoreLines_core_of_ne s (s.dirtyCLines k) hk
      refine .after (sendsLines_sendCoreLines ..) (ih ((List.mem_cons.mp hmem).resolve_left hk) ?_ ?_)
      · rw [hcore]
        exact hin
      · rw [State.l1Line?, hcore]
        exact hl

theorem launchCompletion_releases {s : State} {lid : Nat} {l : Launch} (hl : s.launch? lid = some l) (hat : l.at_ = .completed)
    (hrel : l.relAt = none) (hperf : s.writesPerformed lid = true) :
    ∃ t, exec (.launchCompletion lid) s = .next t
      ∧ t = { s with launches := t.launches, backs := t.backs, cores := t.cores, nextId := t.nextId }
      ∧ t.launch? lid = some { l with relAt := some t.nextId }
      ∧ ∀ k ∈ l.cores, ∀ x ∈ (s.core k).l1, s.l1Line? k x.line = some x → x.kind = 0 → x.dirty ≠ 0 →
        ∃ b ∈ t.backs, b.core = k ∧ b.line = x.line ∧ b.sectors = x.dirty ∧ b.data = x.data ∧ b.id < t.nextId := by
  have hend : s.endAt lid l = .release := by simp [State.endAt, hat, hrel, hperf]
  have hexec : exec (.launchCompletion lid) s
      = .next ((s.releaseCores l.cores).updLaunch lid (fun v => { v with relAt := some (s.releaseCores l.cores).nextId })) := by
    show execLaunchCompletion lid s = _
    simp only [execLaunchCompletion, hl, hend]
  have hsends := sendsLines_releaseCores s l.cores
  have hl' : (s.releaseCores l.cores).launch? lid = some l := by
    rw [State.launch?, hsends.only]
    exact hl
  refine ⟨_, hexec, ?_, ?_, fun k hk x hx hline hkind hd => ?_⟩
  · rw [State.updLaunch_eq, hsends.only]
  · rw [State.updLaunch_nextId]
    exact State.launch?_updLaunch_some hl' _
  · obtain ⟨b, hb, hid⟩ := releaseCores_sends hk hx hline hkind hd
    refine ⟨b, ?_, hb.core, hb.line, hb.sectors, hb.data, ?_⟩
    · rw [State.updLaunch_backs]
      exact hb.found
    · rw [State.updLaunch_nextId]
      exact hid

end Sys2Proof.Machine
end

section
/-! SUPPORT. Tasks started by their owner and by a neighbour, and the rounds of a steal (02 R42, R43). -/

namespace Sys2Proof.Machine

/-! ### A parked fork is given room (02 R41) -/

/-- A fork that has not been given room is told when it pushes; another part stays as it is. -/
def Part.givenRoom (t : Nat) (p : Part) : Part :=
  match p.park with
  | .fork d _ => { p with park := .fork d (some t) }
  | _ => p

theorem Part.givenRoom_running (t : Nat) {p : Part} (h : p.park = .running) : p.givenRoom t = p := by
  rw [Part.givenRoom, h]

theorem departed_cases (s : State) (lid core t : Nat) :
    s.departed lid core t = s ∨ ∃ r, s.departed lid core t = s.updPart r (fun p => p.givenRoom t) := by
  unfold State.departed
  dsimp only
  split
  · exact .inl rfl
  · exact .inr ⟨_, rfl⟩

theorem updPart_eq (s : State) (r : PartRef) (f : Part → Part) : s.updPart r f = { s with waves := (s.updPart r f).waves } := by
  unfold State.updPart State.updWave
  split <;> rfl

theorem departed_eq (s : State) (lid core t : Nat) : s.departed lid core t = { s with waves := (s.departed lid core t).waves } := by
  obtain h | ⟨r, h⟩ := departed_cases s lid core t
  · rw [h]
  · rw [h]
    exact updPart_eq ..

theorem Wave.updPart_givenRoom_running {w : Wave} (base t : Nat) (h : ∀ p ∈ w.parts, p.park = .running) :
    w.updPart base (fun p => p.givenRoom t) = w := by
  have hparts : w.parts.map (fun p => if p.base = base then p.givenRoom t else p) = w.parts := by
    refine (List.map_congr_left (fun p hp => ?_)).trans (List.map_id _)
    rw [Part.givenRoom_running t (h p hp), ite_self]
    rfl
  rw [Wave.updPart, hparts]

/-- A wave whose parts all run is left alone. -/
theorem wave?_departed {s : State} {key : Nat} {w : Wave} (lid core t : Nat) (hw : s.wave? key = some w)
    (hrun : ∀ p ∈ w.parts, p.park = .running) : (s.departed lid core t).wave? key = some w := by
  obtain h | ⟨r, h⟩ := departed_cases s lid core t
  · rw [h, hw]
  · rw [h, State.updPart]
    by_cases hkey : key = r.key
    · subst hkey
      rw [wave?_updWave_some hw, Wave.updPart_givenRoom_running _ _ hrun]
    · rw [State.wave?_updWave_of_ne _ _ hkey, hw]

/-! ### A task's group starts (02 R42) -/

/-- A task has left a core's deque. -/
def State.leaveDeque (s : State) (lid core t : Nat) (d : Deque) : State :=
  (s.updLaunch lid (fun l => l.setDeque core d)).departed lid core t

theorem leaveDeque_sameGroup {s u : State} {l : Launch} {lid core : Nat} {q : GroupReq} {g : Group} (h : GroupStarted s u l lid core q g)
    (from_ t : Nat) (d : Deque) : SameGroup core g u (u.leaveDeque lid from_ t d) := by
  have heq := departed_eq (u.updLaunch lid (fun l => l.setDeque from_ d)) lid from_ t
  refine ⟨?_, fun slot hslot => ?_, ?_, ?_, ?_⟩
  · rw [State.leaveDeque, heq, State.updLaunch_groups]
  · obtain ⟨i, at_, id, hwave⟩ := h.waves slot hslot
    have hupd : (u.updLaunch lid (fun l => l.setDeque from_ d)).wave? (core * 128 + slot) = some (s.newWave l lid core s.nextId q i at_ id) := by
      rw [State.wave?, State.updLaunch_waves]
      exact hwave
    rw [hwave]
    refine wave?_departed lid from_ t hupd (fun p hp => ?_)
    rw [newWave_parts, List.mem_singleton] at hp
    rw [hp]
    rfl
  · rw [State.leaveDeque, heq, State.updLaunch_mem]
  · rw [State.leaveDeque, heq, State.updLaunch_scratch]
  · rw [State.leaveDeque, heq, State.updLaunch_acc]

theorem leaveDeque_launch? {u : State} {lid : Nat} {l : Launch} (from_ t : Nat) (d : Deque) (hl : u.launch? lid = some l) :
    (u.leaveDeque lid from_ t d).launch? lid = some (l.setDeque from_ d) := by
  rw [State.leaveDeque, departed_eq]
  exact State.launch?_updLaunch_some hl _

theorem taskStart_starts {s : State} {lid core : Nat} {l : Launch} {x : Task} {d : Deque} (hl : s.launch? lid = some l)
    (hpop : (l.deque core).pop = some (x, d)) (hown : (s.ownTask lid core).isSome) :
    ∃ t l', exec (.taskStart lid core) s = .next t ∧ Admitted s t lid core x.entry l.param x.arg ∧ t.launch? lid = some l' ∧ l'.deque core = d := by
  obtain ⟨t, ht⟩ := Option.isSome_iff_exists.mp hown
  have hexec : exec (.taskStart lid core) s = .next t := by
    show execTaskStart lid core s = _
    rw [execTaskStart, ht, Option.getD_some]
  unfold State.ownTask at ht
  simp only [hl, hpop] at ht
  split at ht
  · exact absurd ht (by simp)
  · obtain ⟨u, hu, rfl⟩ := Option.map_eq_some_iff.mp ht
    obtain ⟨g, hg⟩ := startGroup_starts hl hu
    obtain ⟨l1, hl1, -⟩ := hg.launch
    exact ⟨_, _, hexec, (hg.admitted (leaveDeque_sameGroup hg core (u.dcc + 1) d) rfl rfl).2, leaveDeque_launch? core (u.dcc + 1) d hl1,
      Launch.deque_setDeque ..⟩

/-! ### Steal rounds (02 R43) -/

theorem taskSteal_begins {s : State} {lid core : Nat} {l : Launch} (hl : s.launch? lid = some l) (hdue : s.stealDue lid core = true) :
    ∃ t, exec (.taskSteal lid core) s = .next t ∧ t = { s with launches := t.launches } ∧ t.launch? lid = some (l.setRound core (some s.dcc))
      ∧ ∀ k, k ≠ lid → t.launch? k = s.launch? k := by
  have hround : s.roundSince lid core = none := by
    unfold State.stealDue at hdue
    rw [Bool.and_eq_true, Option.isNone_iff_eq_none] at hdue
    exact hdue.2
  have hexec : exec (.taskSteal lid core) s = .next (s.updLaunch lid (fun l => l.setRound core (some s.dcc))) := by
    show execTaskSteal lid core s = _
    simp only [execTaskSteal, hround, hdue, if_true]
  exact ⟨_, hexec, State.updLaunch_eq .., State.launch?_updLaunch_some hl _, fun k hk => State.launch?_updLaunch_of_ne s _ hk⟩

theorem taskSteal_ends {s : State} {lid core b : Nat} {l : Launch} (hl : s.launch? lid = some l) (hround : s.roundSince lid core = some b)
    (hwant : s.wantsTask lid core = true) (hnone : s.stealFrom lid core b = none)
    (hback : ∀ v ∈ l.victims core, b + sliceLatency (dieOf core) (dieOf v) ≤ s.dcc) :
    ∃ t, exec (.taskSteal lid core) s = .next t ∧ t = { s with launches := t.launches, cores := t.cores }
      ∧ t.launch? lid = some (l.setRound core none)
      ∧ ∀ k, t.core k = if k = core then { s.core k with stealAt := s.dcc + 256 } else s.core k := by
  have hover : s.roundOver lid core b = true := by
    simp only [State.roundOver, hl, List.all_eq_true, stealBack, decide_eq_true_eq]
    exact hback
  have hexec : exec (.taskSteal lid core) s
      = .next ((s.updLaunch lid (fun l => l.setRound core none)).updCore core (fun k => { k with stealAt := s.dcc + 256 })) := by
    show execTaskSteal lid core s = _
    simp only [execTaskSteal, hround, hwant, hnone, hover, Bool.not_true, Bool.false_eq_true, if_false, if_true]
  have hcore : ∀ k, (s.updLaunch lid (fun l => l.setRound core none)).core k = s.core k := fun k => by
    rw [State.core, State.updLaunch_cores, State.core]
  refine ⟨_, hexec, ?_, State.launch?_updLaunch_some hl _, fun k => ?_⟩
  · rw [State.updLaunch_eq]
    rfl
  · rw [State.core_updCore]
    split
    · next h => rw [h, hcore]
    · exact hcore k

/-- What a thief does with a victim's oldest entry. -/
def State.stealOf (s : State) (l : Launch) (lid core v : Nat) : Option State :=
  (l.deque v).steal.bind (fun e => (s.startGroup lid core (taskReq l e.1)).map (fun u => u.leaveDeque lid v (u.dcc + 88) e.2))

theorem stealFrom_eq {s : State} {l : Launch} {lid core b : Nat} (hl : s.launch? lid = some l) :
    s.stealFrom lid core b = ((l.victims core).takeWhile (stealBack s.dcc b core)).findSome? (s.stealOf l lid core) := by
  simp only [State.stealFrom, hl]
  rfl

/-- The first victim whose answer is back and whose oldest entry fits gives its entry. -/
theorem stealFrom_first {s : State} {l : Launch} {lid core b v : Nat} {before after : List Nat} {x : Task} {d : Deque}
    (hl : s.launch? lid = some l) (hvictims : l.victims core = before ++ v :: after)
    (hback : ∀ u ∈ before ++ [v], b + sliceLatency (dieOf core) (dieOf u) ≤ s.dcc)
    (hbefore : ∀ u ∈ before, ∀ y e, (l.deque u).steal = some (y, e) → s.startGroup lid core (taskReq l y) = none)
    (hsteal : (l.deque v).steal = some (x, d)) :
    s.stealFrom lid core b = ((s.startGroup lid core (taskReq l x)).map (fun u => u.leaveDeque lid v (u.dcc + 88) d)).or
      ((after.takeWhile (stealBack s.dcc b core)).findSome? (s.stealOf l lid core)) := by
  have hall : ∀ u ∈ before ++ [v], stealBack s.dcc b core u = true := fun u hu => decide_eq_true (hback u hu)
  have hfails : before.findSome? (s.stealOf l lid core) = none := by
    refine List.findSome?_eq_none_iff.mpr (fun u hu => ?_)
    rw [State.stealOf, Option.bind_eq_none_iff]
    rintro ⟨y, e⟩ hy
    rw [hbefore u hu y e hy]
    rfl
  rw [stealFrom_eq hl, hvictims, List.append_cons, List.takeWhile_append_of_pos hall, List.findSome?_append, List.findSome?_append, hfails,
    Option.none_or, List.findSome?_singleton, State.stealOf, hsteal]
  rfl

theorem taskSteal_takes {s : State} {lid core b v : Nat} {l : Launch} {before after : List Nat} {x : Task} {d : Deque}
    (hl : s.launch? lid = some l) (hround : s.roundSince lid core = some b) (hwant : s.wantsTask lid core = true)
    (hvictims : l.victims core = before ++ v :: after)
    (hback : ∀ u ∈ before ++ [v], b + sliceLatency (dieOf core) (dieOf u) ≤ s.dcc)
    (hbefore : ∀ u ∈ before, ∀ y e, (l.deque u).steal = some (y, e) → s.startGroup lid core (taskReq l y) = none)
    (hsteal : (l.deque v).steal = some (x, d)) (hstart : (s.startGroup lid core (taskReq l x)).isSome) :
    ∃ t l', exec (.taskSteal lid core) s = .next t ∧ Admitted s t lid core x.entry l.param x.arg ∧ t.launch? lid = some l' ∧ l'.deque v = d := by
  obtain ⟨u, hu⟩ := Option.isSome_iff_exists.mp hstart
  have htake : s.stealFrom lid core b = some (u.leaveDeque lid v (u.dcc + 88) d) := by
    rw [stealFrom_first hl hvictims hback hbefore hsteal, hu, Option.map_some, Option.some_or]
  have hexec : exec (.taskSteal lid core) s = .next ((u.leaveDeque lid v (u.dcc + 88) d).updLaunch lid (fun l => l.setRound core none)) := by
    show execTaskSteal lid core s = _
    simp only [execTaskSteal, hround, hwant, htake, Bool.not_true, Bool.false_eq_true, if_false]
  obtain ⟨g, hg⟩ := startGroup_starts hl hu
  obtain ⟨l1, hl1, -⟩ := hg.launch
  have hsame := (leaveDeque_sameGroup hg v (u.dcc + 88) d).updLaunch lid (fun l => l.setRound core none)
  exact ⟨_, _, hexec, (hg.admitted hsame rfl rfl).2,
    State.launch?_updLaunch_some (leaveDeque_launch? v (u.dcc + 88) d hl1) _, Launch.deque_setDeque ..⟩

end Sys2Proof.Machine
end

section
/-! SUPPORT. A store at a slice (12 R294), and the decrement of a task's counter (02 R45). -/

namespace Sys2Proof.Machine

/-! ### A write at a slice while no die records -/

/-- No die's debug ring takes records. -/
def State.debugOff (s : State) : Prop := ∀ d, (s.die d).dbgEn = false

theorem debugOff_updDie {s : State} (h : s.debugOff) (d : Nat) {f : Die → Die} (hf : ∀ x : Die, (f x).dbgEn = x.dbgEn) :
    (s.updDie d f).debugOff := by
  intro n
  rw [State.die_updDie]
  split
  · rw [hf, h d]
  · exact h n

theorem postDebug_off {s : State} (h : s.debugOff) (die kind index src unit info : Nat) (addr : W64) :
    s.postDebug die kind index src unit info addr = s := by
  simp [State.postDebug, h die]

theorem swatch_cachesOnly {s : State} (h : s.debugOff) (src unit pa n : Nat) : CachesOnly s (s.swatch src unit pa n) := by
  refine (List.foldlRecOn (motive := fun t : State => CachesOnly s t ∧ t.debugOff) _ _ ⟨.refl s, h⟩ (fun t ht k _ => ?_)).1
  obtain ⟨hsame, hoff⟩ := ht
  dsimp only
  split
  · rw [postDebug_off hoff]
    split
    · exact ⟨hsame.trans (cachesOnly_updDie ..), debugOff_updDie hoff _ (fun _ => rfl)⟩
    · exact ⟨hsame, hoff⟩
  · exact ⟨hsame, hoff⟩

/-- A write at a slice leaves its bytes; beside them only caches, banks and halts differ. -/
theorem slicePut_writes {s : State} (h : s.debugOff) (src unit pa : Nat) (bytes : List Byte) :
    CachesOnly { s with mem := writeBytes s.mem pa bytes } (s.slicePut src unit pa bytes) :=
  (cachesOnly_touchBank _ pa).trans (swatch_cachesOnly (s := State.touchBank { s with mem := writeBytes s.mem pa bytes } pa) h ..)

/-! ### The decrement (02 R45) -/

/-- The counter of an ended task with 1 taken from it. -/
def countedDown (m : List (Nat × Byte)) (pa : Nat) : List Byte := bytesOfNat 8 ((natOfBytes (readBytes m pa 8) + 2 ^ 64 - 1) % 2 ^ 64)

/-- The counter's slice takes 1 from it. -/
def State.countDown (s : State) (core pa : Nat) : State :=
  ((s.dropClean core (pa / 128) (sectorsOf pa 8)).slicePut 0 core pa (countedDown s.mem pa)).useLine pa 0

theorem countDown_writes {s : State} (h : s.debugOff) (core pa : Nat) :
    CachesOnly { s with mem := writeBytes s.mem pa (countedDown s.mem pa) } (s.countDown core pa) := by
  have hclean := coresOnly_dropClean s core (pa / 128) (sectorsOf pa 8)
  have hoff : (s.dropClean core (pa / 128) (sectorsOf pa 8)).debugOff := by
    rw [hclean]
    exact h
  refine .trans ?_ ((slicePut_writes hoff 0 core pa (countedDown s.mem pa)).trans (cachesOnly_useLine _ pa 0))
  rw [hclean]
  exact ⟨rfl⟩

theorem taskJoinDecrement_go {s : State} {g pa : Nat} {e : JoinDec} (he : s.joinDecs.find? (fun e => e.group == g) = some e)
    (hgo : s.decAt e = .go pa) :
    exec (.taskJoinDecrement g) s = .next { s.countDown e.core pa with joinDecs := (s.countDown e.core pa).joinDecs.erase e } := by
  show execTaskJoinDecrement g s = _
  simp only [execTaskJoinDecrement, he, hgo]
  rfl

theorem natOfBytes_countedDown (m : List (Nat × Byte)) (pa : Nat) :
    natOfBytes (countedDown m pa) = (natOfBytes (readBytes m pa 8) + (2 ^ 64 - 1)) % 2 ^ 64 := by
  rw [countedDown, natOfBytes_bytesOfNat]
  omega

theorem taskJoinDecrement_counts {s : State} {g pa : Nat} {e : JoinDec} (he : s.joinDecs.find? (fun e => e.group == g) = some e)
    (hgo : s.decAt e = .go pa) (hoff : s.debugOff) :
    ∃ t, exec (.taskJoinDecrement g) s = .next t ∧ t.joinDecs = s.joinDecs.erase e
      ∧ natOfBytes (readBytes t.mem pa 8) = (natOfBytes (readBytes s.mem pa 8) + (2 ^ 64 - 1)) % 2 ^ 64
      ∧ ∀ a, a < pa ∨ pa + 8 ≤ a → readByte t.mem a = readByte s.mem a := by
  have hsame := countDown_writes hoff e.core pa
  have hmem : (s.countDown e.core pa).mem = writeBytes s.mem pa (countedDown s.mem pa) := hsame.mem
  have hlen : (countedDown s.mem pa).length = 8 := bytesOfNat_length ..
  have hread : readBytes (s.countDown e.core pa).mem pa 8 = countedDown s.mem pa := by
    have h := readBytes_writeBytes s.mem pa (countedDown s.mem pa)
    rwa [hlen, ← hmem] at h
  refine ⟨_, taskJoinDecrement_go he hgo, ?_, ?_, fun a ha => ?_⟩
  · rw [hsame.eq]
  · dsimp only
    rw [hread]
    exact natOfBytes_countedDown ..
  · dsimp only
    rw [hmem]
    exact readByte_writeBytes_outside _ _ _ _ (by rwa [hlen])

end Sys2Proof.Machine
end

section
/-! SUPPORT. The groups that a launch's offers start (11 R261, R262), and a pixel wave's (14 R325, R326, R328). -/

namespace Sys2Proof.Machine

/-! ### The next group (11 R261) -/

/-- A launch one of whose groups has been admitted to a core. -/
def Launch.admits (l : Launch) (core : Nat) : Launch := { l with admitted := l.admitted + 1, offerAt := (l.place core + 1) % l.size }

theorem admitNext_some {s t : State} {lid core : Nat} {l : Launch} (hl : s.launch? lid = some l) (h : s.admitNext lid core = some t) :
    l.admitted < l.ngroups ∧ ∃ u g, GroupStarted s u l lid core (groupReq l) g ∧ t = u.updLaunch lid (fun v => v.admits core) := by
  unfold State.admitNext at h
  simp only [hl] at h
  split at h
  · exact absurd h (by simp)
  · next hmore =>
    obtain ⟨u, hu, rfl⟩ := Option.map_eq_some_iff.mp h
    obtain ⟨g, hg⟩ := startGroup_starts hl hu
    exact ⟨Nat.lt_of_not_le hmore, u, g, hg, rfl⟩

theorem groupReq_offered (l : Launch) : (groupReq l).kind.offered = true := by
  unfold groupReq
  dsimp only
  split <;> rfl

theorem GroupStarted.offered_num {s u : State} {l : Launch} {lid core : Nat} {g : Group} (h : GroupStarted s u l lid core (groupReq l) g) :
    g.num = l.admitted := by
  rw [h.owner.2.2.1, Launch.groupNumber, if_pos (groupReq_offered l)]

theorem execGroupAdmission_offer {s : State} {lid core : Nat} {l : Launch} (hl : s.launch? lid = some l) (hpixel : s.pixelTaken lid core = none)
    (hmore : l.admitted < l.ngroups) (hfirst : l.offerOrder.find? (fun k => (s.offerTaken lid k).isSome) = some core) :
    ∃ t, s.offerTaken lid core = some t ∧ exec (.groupAdmission lid core) s = .next t := by
  have hsome : (s.offerTaken lid core).isSome = true := List.find?_some (p := fun k => (s.offerTaken lid k).isSome) hfirst
  obtain ⟨t, ht⟩ := Option.isSome_iff_exists.mp hsome
  refine ⟨t, ht, ?_⟩
  show execGroupAdmission lid core s = _
  simp only [execGroupAdmission, hl, hpixel, Nat.not_le.mpr hmore, hfirst, ht, if_true, if_false, Option.getD_some]

theorem groupAdmission_admits {s : State} {lid core : Nat} {l : Launch} (hl : s.launch? lid = some l) (hpixel : s.pixelTaken lid core = none)
    (hmore : l.admitted < l.ngroups) (hcor : l.cor = false)
    (hfirst : l.offerOrder.find? (fun k => (s.offerTaken lid k).isSome) = some core) :
    ∃ t l' g, exec (.groupAdmission lid core) s = .next t ∧ Admitted s t lid core l.kernel.entry l.param l.arg ∧ t.launch? lid = some l'
      ∧ l'.admitted = l.admitted + 1 ∧ t.group? s.nextId = some g ∧ g.num = l.admitted
      ∧ g.kind = if l.draw.isSome then .mesh else .ordinary := by
  obtain ⟨t, ht, hexec⟩ := execGroupAdmission_offer hl hpixel hmore hfirst
  unfold State.offerTaken at ht
  simp only [hl, hcor] at ht
  split at ht
  · exact absurd ht (by simp)
  · obtain ⟨-, u, g, hg, rfl⟩ := admitNext_some hl ht
    obtain ⟨l1, hl1, hsame⟩ := hg.launch
    obtain ⟨hgroup, hadmitted⟩ := hg.admitted ((SameGroup.refl core g u).updLaunch lid (fun v => v.admits core)) rfl rfl
    refine ⟨_, _, g, hexec, hadmitted, State.launch?_updLaunch_some hl1 _, ?_, hgroup, hg.offered_num, hg.owner.2.2.2⟩
    rw [hsame]
    rfl

/-! ### Every group at once (11 R262) -/

/-- The launch `l` has become `l'`: the groups from its next one on have been admitted to cores that may take them. -/
structure GroupsAdmitted (may : Nat → Bool) (lid : Nat) (s t : State) (l l' : Launch) : Prop where
  mem : t.mem = s.mem
  ids : s.nextId ≤ t.nextId
  launch : t.launch? lid = some l'
  ngroups : l'.ngroups = l.ngroups
  old : ∀ k < s.nextId, t.group? k = s.group? k
  new : ∀ n, l.admitted ≤ n → n < l'.admitted → ∃ k g, k < t.nextId ∧ t.group? k = some g ∧ g.launch = lid ∧ g.num = n ∧ may g.core = true

theorem GroupsAdmitted.refl {may : Nat → Bool} {lid : Nat} {s : State} {l : Launch} (hl : s.launch? lid = some l) :
    GroupsAdmitted may lid s s l l :=
  ⟨rfl, le_rfl, hl, rfl, fun _ _ => rfl, fun _ h h' => absurd h' (Nat.not_lt.mpr h)⟩

theorem GroupsAdmitted.trans {may : Nat → Bool} {lid : Nat} {s t u : State} {l m n : Launch} (h : GroupsAdmitted may lid s t l m)
    (h' : GroupsAdmitted may lid t u m n) : GroupsAdmitted may lid s u l n := by
  refine ⟨h'.mem.trans h.mem, h.ids.trans h'.ids, h'.launch, h'.ngroups.trans h.ngroups,
    fun k hk => (h'.old k (hk.trans_le h.ids)).trans (h.old k hk), fun i hi hi' => ?_⟩
  rcases Nat.lt_or_ge i m.admitted with him | him
  · obtain ⟨k, g, hk, hgroup, hg⟩ := h.new i hi him
    exact ⟨k, g, hk.trans_le h'.ids, (h'.old k hk).trans hgroup, hg⟩
  · exact h'.new i him hi'

/-- The next offer goes on. -/
def Launch.offerNext (l : Launch) : Launch := { l with offerAt := (l.offerAt + 1) % l.size }

theorem groupsAdmitted_offerNext {may : Nat → Bool} {lid : Nat} {s : State} {l : Launch} (hl : s.launch? lid = some l) :
    GroupsAdmitted may lid s (s.updLaunch lid Launch.offerNext) l l.offerNext := by
  have hnew := State.launch?_updLaunch_some hl Launch.offerNext
  rw [State.updLaunch_eq] at hnew ⊢
  exact ⟨rfl, le_rfl, hnew, rfl, fun _ _ => rfl, fun _ h h' => absurd h' (Nat.not_lt.mpr h)⟩

theorem groupsAdmitted_admitNext {may : Nat → Bool} {lid core : Nat} {s t : State} {l : Launch} (hl : s.launch? lid = some l)
    (hmay : may core = true) (h : s.admitNext lid core = some t) :
    l.admitted < l.ngroups ∧ ∃ l', GroupsAdmitted may lid s t l l' ∧ l'.admitted = l.admitted + 1 := by
  obtain ⟨hmore, u, g, hg, rfl⟩ := admitNext_some hl h
  obtain ⟨l1, hl1, hsame⟩ := hg.launch
  have hadmitted : l1.admitted = l.admitted := by rw [hsame]
  have hngroups : l1.ngroups = l.ngroups := by rw [hsame]
  have hgroups : ∀ k, (u.updLaunch lid (fun v => v.admits core)).group? k = u.group? k := fun k => by
    rw [State.group?, State.updLaunch_groups, State.group?]
  have hids := hg.ids
  refine ⟨hmore, l1.admits core, ⟨?_, ?_, State.launch?_updLaunch_some hl1 _, hngroups, fun k hk => ?_, fun n hn hn' => ?_⟩,
    congrArg (· + 1) hadmitted⟩
  · rw [State.updLaunch_mem, hg.frame]
  · rw [State.updLaunch_nextId]
    exact hids.le
  · rw [hgroups, State.group?, hg.frame]
    exact lookT_putT_of_ne _ _ hk.ne
  · have hnum : n = l.admitted := Nat.le_antisymm (Nat.le_of_lt_succ (hn'.trans_eq (congrArg (· + 1) hadmitted))) hn
    obtain ⟨hlaunch, hcore, -, -⟩ := hg.owner
    refine ⟨s.nextId, g, by rw [State.updLaunch_nextId]; exact hids, (hgroups _).trans hg.group?, hlaunch, ?_, by rw [hcore, hmay]⟩
    rw [hg.offered_num, hnum]

/-- Offers to every core in turn that succeed have admitted every group of the launch. -/
theorem admitAll_admits {may : Nat → Bool} {lid fuel misses : Nat} {s t : State} {l : Launch} (hl : s.launch? lid = some l)
    (hle : l.admitted ≤ l.ngroups) (h : s.admitAll lid may fuel misses = some t) :
    ∃ l', GroupsAdmitted may lid s t l l' ∧ l'.admitted = l'.ngroups := by
  induction fuel generalizing s misses l with
  | zero => exact absurd h (by simp [State.admitAll])
  | succ fuel ih =>
    unfold State.admitAll at h
    simp only [hl] at h
    split at h
    · next hall =>
      obtain rfl := Option.some.inj h
      exact ⟨l, .refl hl, Nat.le_antisymm hle hall⟩
    · next hmore =>
      split at h
      · exact absurd h (by simp)
      · split at h
        · next s' hoffer =>
          split at hoffer
          · next hmay =>
            obtain ⟨hlt, m, hm, hadm⟩ := groupsAdmitted_admitNext hl hmay hoffer
            obtain ⟨l', hl', hdone⟩ := ih hm.launch (by rw [hadm, hm.ngroups]; exact hlt) h
            exact ⟨l', hm.trans hl', hdone⟩
          · exact absurd hoffer (by simp)
        · have hnext := groupsAdmitted_offerNext (may := may) hl
          obtain ⟨l', hl', hdone⟩ := ih hnext.launch hle h
          exact ⟨l', hnext.trans hl', hdone⟩

theorem rectCore_place {l : Launch} {core : Nat} (h : l.holds core = true) : l.rectCore (l.place core) = core ∧ l.place core < l.size := by
  simp only [Launch.holds, Bool.and_eq_true, decide_eq_true_eq] at h
  obtain ⟨⟨⟨hx0, hx⟩, hy0⟩, hy⟩ := h
  have hdx : coreX core - l.x0 < 2 ^ l.logw := by omega
  have hdy : coreY core - l.y0 < 2 ^ l.logh := by omega
  have hmod : l.place core % 2 ^ l.logw = coreX core - l.x0 := by
    rw [Launch.place, Nat.add_comm, Nat.add_mul_mod_self_right, Nat.mod_eq_of_lt hdx]
  have hdiv : l.place core / 2 ^ l.logw = coreY core - l.y0 := by
    rw [Launch.place, Nat.add_comm, Nat.add_mul_div_right _ _ (Nat.two_pow_pos _), Nat.div_eq_of_lt hdx, Nat.zero_add]
  constructor
  · rw [Launch.rectCore, hmod, hdiv, Nat.add_sub_cancel' hx0, Nat.add_sub_cancel' hy0, coreId, coreX, coreY]
    omega
  · rw [Launch.size, Nat.mul_comm]
    exact (Nat.div_lt_iff_lt_mul (Nat.two_pow_pos _)).mp (hdiv.trans_lt hdy)

theorem mem_cores_of_holds {l : Launch} {core : Nat} (h : l.holds core = true) : core ∈ l.cores := by
  obtain ⟨hcore, hlt⟩ := rectCore_place h
  exact List.mem_map.mpr ⟨l.place core, List.mem_range.mpr hlt, hcore⟩

theorem holds_of_accepts {s : State} {l : Launch} {core : Nat} (h : s.accepts l core = true) : l.holds core = true := by
  simp only [State.accepts, Bool.and_eq_true] at h
  exact h.1.1.2

theorem groupAdmission_admitsAll {s : State} {lid core : Nat} {l : Launch} (hl : s.launch? lid = some l) (hpixel : s.pixelTaken lid core = none)
    (hmore : l.admitted < l.ngroups) (hcor : l.cor = true)
    (hfirst : l.offerOrder.find? (fun k => (s.offerTaken lid k).isSome) = some core) :
    ∃ t l', exec (.groupAdmission lid core) s = .next t ∧ t.mem = s.mem ∧ t.launch? lid = some l' ∧ l'.admitted = l.ngroups
      ∧ ∀ n, l.admitted ≤ n → n < l.ngroups →
        ∃ k g, t.group? k = some g ∧ g.launch = lid ∧ g.num = n ∧ g.core ∈ l.cores ∧ s.accepts l g.core = true := by
  obtain ⟨t, ht, hexec⟩ := execGroupAdmission_offer hl hpixel hmore hfirst
  unfold State.offerTaken at ht
  simp only [hl, hcor, if_true] at ht
  split at ht
  · exact absurd ht (by simp)
  · obtain ⟨l', hall, hdone⟩ := admitAll_admits hl hmore.le ht
    have hadmitted : l'.admitted = l.ngroups := hdone.trans hall.ngroups
    refine ⟨t, l', hexec, hall.mem, hall.launch, hadmitted, fun n hn hn' => ?_⟩
    obtain ⟨k, g, -, hgroup, hlaunch, hnum, hmay⟩ := hall.new n hn (hn'.trans_eq hadmitted.symm)
    exact ⟨k, g, hgroup, hlaunch, hnum, mem_cores_of_holds (holds_of_accepts hmay), hmay⟩

/-! ### A pixel wave (14 R325, R326, R328) -/

theorem anchors_lane {w : PixelWave} {e : Nat × PixelLane} {x : Nat × Nat × W32} (h : x ∈ w.anchors e) : x.1 = e.1 ∧ x.2.1 < 8 := by
  unfold PixelWave.anchors at h
  split at h
  · exact absurd h List.not_mem_nil
  · obtain ⟨v, hv, rfl⟩ := List.mem_map.mp h
    exact ⟨rfl, (List.snd_lt_of_mem_zipIdx hv).trans_eq rfl⟩

theorem anchors_agree {w : PixelWave} {e : Nat × PixelLane} {x y : Nat × Nat × W32} (hx : x ∈ w.anchors e) (hy : y ∈ w.anchors e)
    (h : y.2.1 = x.2.1) : y.2.2 = x.2.2 := by
  unfold PixelWave.anchors at hx hy
  cases hprim : w.primOf e.2 with
  | none =>
    rw [hprim] at hx
    exact absurd hx List.not_mem_nil
  | some p =>
    rw [hprim] at hx hy
    obtain ⟨a, ha, rfl⟩ := List.mem_map.mp hx
    obtain ⟨b, hb, rfl⟩ := List.mem_map.mp hy
    have ha' := List.mem_zipIdx_iff_getElem?.mp ha
    have hb' := List.mem_zipIdx_iff_getElem?.mp hb
    have hab : b.2 = a.2 := h
    rw [hab, ha'] at hb'
    exact congrArg (BitVec.ofNat 32) (Option.some.inj hb').symm

theorem pixelReq_vregs_agree {w : PixelWave} (hlt : ∀ e ∈ w.lanes, e.1 < 64) (hne : w.lanes.Pairwise (fun a b => a.1 ≠ b.1))
    {e : Nat × PixelLane} {x y : Nat × Nat × W32} (he : e ∈ w.lanes) (hx : x ∈ w.anchors e) (hy : y ∈ w.lanes.flatMap w.anchors)
    (hkey : vKey 0 y.1 y.2.1 = vKey 0 x.1 x.2.1) : y.2.2 = x.2.2 := by
  obtain ⟨f, hf, hyf⟩ := List.mem_flatMap.mp hy
  obtain ⟨hxl, hxr⟩ := anchors_lane hx
  obtain ⟨hyl, hyr⟩ := anchors_lane hyf
  have hxlt := hlt e he
  have hylt := hlt f hf
  simp only [vKey] at hkey
  have hlane : f.1 = e.1 := by omega
  have hreg : y.2.1 = x.2.1 := by omega
  have hnodup : (w.lanes.map Prod.fst).Nodup := List.pairwise_map.mpr hne
  obtain rfl : f = e := List.inj_on_of_nodup_map hnodup hf he hlane
  exact anchors_agree hx hyf hreg

theorem contains_frags (lanes : List (Nat × PixelLane)) (id : Nat) :
    (lanes.filterMap (fun e => e.2.frag)).contains id = lanes.any (fun e => e.2.frag == some id) := by
  rw [Bool.eq_iff_iff, List.contains_iff_mem, List.mem_filterMap, List.any_eq_true]
  simp only [beq_iff_eq]

theorem settleFrags_frags (s : State) (core : Nat) (w : PixelWave) :
    (s.settleFrags core w).frags
      = s.frags.map (fun f => if w.lanes.any (fun e => e.2.frag == some f.id) then { f with core := core } else f) := by
  unfold State.settleFrags
  simp only [contains_frags]

/-- A launch one of whose pixel waves has left its list. -/
def Launch.takesPixel (w : PixelWave) (l : Launch) : Launch := { l with pixels := l.pixels.erase w }

theorem pixelTaken_some {s u : State} {lid core : Nat} {l : Launch} {d : Draw} {w : PixelWave} (hl : s.launch? lid = some l)
    (hdraw : l.draw = some d) (hfind : l.pixels.find? (fun w => w.die == dieOf core) = some w) (hacc : s.accepts l core = true)
    (hstart : s.startGroup lid core (pixelReq l d w) = some u) :
    s.pixelTaken lid core = some ((u.updLaunch lid (Launch.takesPixel w)).settleFrags core w) := by
  simp only [State.pixelTaken, hl, hdraw, hfind, hacc, hstart, Bool.not_true, Bool.false_eq_true, if_false, Option.map_some]
  rfl

theorem groupAdmission_pixel {s u : State} {lid core : Nat} {l : Launch} {d : Draw} {w : PixelWave} (hl : s.launch? lid = some l)
    (hdraw : l.draw = some d) (hfind : l.pixels.find? (fun w => w.die == dieOf core) = some w) (hacc : s.accepts l core = true)
    (hstart : s.startGroup lid core (pixelReq l d w) = some u) (hlt : ∀ e ∈ w.lanes, e.1 < 64)
    (hne : w.lanes.Pairwise (fun a b => a.1 ≠ b.1)) :
    ∃ t l' g v p slot, exec (.groupAdmission lid core) s = .next t ∧ t.mem = s.mem ∧ t.launch? lid = some l' ∧ l'.pixels = l.pixels.erase w
      ∧ l'.admitted = l.admitted ∧ t.group? s.nextId = some g ∧ g.launch = lid ∧ g.core = core ∧ g.kind = .pixel ∧ g.slots = [slot]
      ∧ t.wave? (core * 128 + slot) = some v ∧ v.group = s.nextId ∧ v.width = w.width ∧ v.helper = w.helpers ∧ v.exited = w.unfilled
      ∧ v.pixel = some w ∧ v.parts = [p] ∧ p.pc = d.pixel.entry ∧ p.notBefore = s.dcc + 16 ∧ p.regs.sreg 0 = l.param
      ∧ p.regs.sreg 1 = l.arg ∧ (∀ e ∈ w.lanes, ∀ x ∈ w.anchors e, v.v 0 x.1 x.2.1 = x.2.2)
      ∧ t.frags = s.frags.map (fun f => if w.lanes.any (fun e => e.2.frag == some f.id) then { f with core := core } else f) := by
  have hexec : exec (.groupAdmission lid core) s = .next ((u.updLaunch lid (Launch.takesPixel w)).settleFrags core w) := by
    show execGroupAdmission lid core s = _
    simp only [execGroupAdmission, hl, pixelTaken_some hl hdraw hfind hacc hstart]
  obtain ⟨g, hg⟩ := startGroup_starts hl hstart
  obtain ⟨l1, hl1, hsame⟩ := hg.launch
  obtain ⟨hlaunch, hcore, -, hkind⟩ := hg.owner
  obtain ⟨slot, hslot⟩ := List.length_eq_one_iff.mp hg.slots.1
  obtain ⟨i, at_, id, hwave⟩ := hg.waves slot (by rw [hslot]; exact List.mem_singleton_self _)
  have hmem : u.mem = s.mem := by rw [hg.frame]
  have hfrags : u.frags = s.frags := by rw [hg.frame]
  have hregs := sreg_admissionRegs l d.pixel (s.domainGt l.domain.toNat) l.arg []
  refine ⟨_, l1.takesPixel w, g, s.newWave l lid core s.nextId (pixelReq l d w) i at_ id, s.admittedPart l (pixelReq l d w), slot, hexec, ?_,
    State.launch?_updLaunch_some hl1 _, ?_, ?_, ?_, hlaunch, hcore, hkind, hslot, ?_, newWave_group .., newWave_width ..,
    newWave_helper .., newWave_exited .., newWave_pixel .., newWave_parts .., rfl, rfl, hregs.1, hregs.2, fun e he x hx => ?_, ?_⟩
  · exact (State.updLaunch_mem ..).trans hmem
  · rw [hsame]
    rfl
  · rw [hsame]
    rfl
  · exact (congrArg (lookT · s.nextId) (State.updLaunch_groups ..)).trans hg.group?
  · exact (congrArg (lookT · (core * 128 + slot)) (State.updLaunch_waves ..)).trans hwave
  · exact newWave_v_given _ _ _ _ _ _ _ _ _ (List.mem_flatMap.mpr ⟨e, he, hx⟩) (fun y hy hkey => pixelReq_vregs_agree hlt hne he hx hy hkey)
  · rw [settleFrags_frags, State.updLaunch_frags, hfrags]

end Sys2Proof.Machine
end

section
/-! SUPPORT. The statement about the distributor's steps. -/

open Sys2Proof Sys2Proof.Machine

/-- Settles O47, from what each step of the distributor leaves: a launch placed with its clusters up (reserveCores_reserves), a group newly
admitted whatever starts it (GroupStarted.admitted), every group of a co-resident launch (admitAll_admits), the anchors of a pixel wave
(pixelReq_vregs_agree), the first victim whose entry fits (stealFrom_first), a counter's store (countDown_writes), and the three steps of
a launch's end. -/
theorem launchesRun : Obligations.LaunchesRun := by
  intro s lid core l hl
  refine ⟨fun e hwait he => launchPlacement_places hl hwait he, groupAdmission_admits hl, groupAdmission_admitsAll hl, ?_,
    fun x d hpop hown => taskStart_starts hl hpop hown, taskSteal_begins hl, fun b => taskSteal_ends hl, ?_, ?_,
    launchCompletion_ends hl, launchCompletion_releases hl, fun n => launchCompletion_leaves hl⟩
  · exact fun d w s' hdraw hfind hacc hstart hlt hne => groupAdmission_pixel hl hdraw hfind hacc hstart hlt hne
  · exact fun b before v after x d hround hwant hvictims hback hbefore hsteal hstart =>
      taskSteal_takes hl hround hwant hvictims hback hbefore hsteal hstart
  · exact fun g e pa he hgo hoff => taskJoinDecrement_counts he hgo hoff

end

section
/-! SUPPORT. An instruction whose whole effect is its part's: the updates of the issuing part, the park at an S marker, and the branches. -/

namespace Sys2Proof.Machine

/-! ### Updates of the issuing part -/

/-- The part of `c` has become `p`, and nothing else differs. -/
def PartBecomes (c : Ctx) (s t : State) (p : Part) : Prop := ∃ w, OnlyWave c s t ∧ SameVregs c.wave w ∧ WaveIs c t id p w

theorem partBecomes_refl {s : State} {c : Ctx} (hi : s.issuing = some c) : PartBecomes c s s c.part :=
  ⟨c.wave, OnlyWave.refl c s, ⟨rfl, rfl⟩, issuing_wave hi, rfl, issuing_part hi, fun _ _ => rfl⟩

theorem PartBecomes.dcc {c : Ctx} {s t : State} {p : Part} (h : PartBecomes c s t p) : t.dcc = s.dcc := by
  obtain ⟨w, honly, -⟩ := h
  exact honly.dcc

theorem PartBecomes.updPart {c : Ctx} {s t : State} {p : Part} (h : PartBecomes c s t p) (f : Part → Part) (hf : ∀ p, (f p).base = p.base) :
    PartBecomes c s (t.updPart c.ref f) (f p) := by
  obtain ⟨w, honly, hsame, hfound, heq, hpart, hothers⟩ := h
  refine ⟨w.updPart c.ref.base f, honly.trans (onlyWave_updPart c t f), hsame, wave?_updWave_some hfound _, ?_,
    part?_updPart_some hpart f hf, fun b hb => (Wave.part?_updPart_of_ne _ _ hf hb).trans (hothers b hb)⟩
  rw [heq]
  rfl

theorem PartBecomes.finish {c : Ctx} {s t : State} {p : Part} (h : PartBecomes c s t p) (len d : Nat) :
    PartBecomes c s (t.finish c.ref (c.next len) d) (p.pastIn c len d s.dcc) := by
  rw [← h.dcc]
  exact h.updPart _ (fun _ => rfl)

theorem PartBecomes.done {c : Ctx} {s t : State} {p : Part} (h : PartBecomes c s t p) (len : Nat) :
    PartBecomes c s (t.done c len) (p.past c len s.dcc) := h.finish len 1

theorem PartBecomes.parkPart {c : Ctx} {s t : State} {p : Part} (h : PartBecomes c s t p) (k : Park) :
    PartBecomes c s (t.parkPart c.ref k) (p.parkedAtOnce k s.dcc) := by
  rw [← h.dcc]
  exact h.updPart _ (fun _ => rfl)

theorem Part.switchPath_base (p : Part) : p.switchPath.base = p.base := by
  unfold Part.switchPath
  split <;> rfl

theorem Part.jumpTo_base (p : Part) (own target : W64) : (p.jumpTo own target).base = p.base := by
  unfold Part.jumpTo
  dsimp only
  split
  · exact Part.switchPath_base _
  · rfl

theorem PartBecomes.branchTo {c : Ctx} {s t : State} {p : Part} (h : PartBecomes c s t p) (target : W64) :
    PartBecomes c s (t.branchTo c target) ((p.jumpTo c.part.pc target).issued s.dcc 4) := by
  rw [← h.dcc]
  exact h.updPart _ (fun p => Part.jumpTo_base p _ _)

/-- An instruction that a part issues has its whole effect on that part when its answer does. -/
theorem partResult_of {i : Instr} {ready : State → Ctx → Prop} {f : State → Ctx → Part}
    (h : ∀ s c, s.issuing = some c → ready s c → ∃ t, exec i s = .next t ∧ PartBecomes c s t (f s c)) : PartResult i ready f := by
  intro s c hi hready
  obtain ⟨t, ht, w, hw⟩ := h s c hi hready
  exact ⟨t, w, ht, hw⟩

/-! ### The branches (19 R410) -/

theorem bra_completes (j : JWord) : PartResult (.bra j) (fun _ c => Plain c j.s)
    (fun s c => (c.part.jumpTo c.part.pc (jTarget c.part.pc j.off)).issued s.dcc 4) :=
  partResult_of (fun _ c hi free => ⟨_, issue_next _ _ c _ hi (by simp) rfl rfl free, (partBecomes_refl hi).branchTo _⟩)

theorem call_completes (j : JWord) : PartResult (.call j) (fun _ c => Plain c j.s)
    (fun s c => ((c.part.setS 63 (c.part.pc + 4)).jumpTo c.part.pc (jTarget c.part.pc j.off)).issued s.dcc 4) :=
  partResult_of (fun _ c hi free => ⟨_, issue_next _ _ c _ hi (by simp) rfl rfl free,
    ((partBecomes_refl hi).updPart (fun p => p.setS 63 (c.next 4)) (fun _ => rfl)).branchTo _⟩)

theorem bru_completes (w : PWord) : PartResult (.bru w) (fun _ c => Plain c w.s) (fun s c =>
    if c.emask &&& c.wave.pred w.pred.toNat w.neg = 0 then c.part.pastIn c 4 4 s.dcc
    else (c.part.jumpTo c.part.pc (pTarget c.part.pc w.off)).issued s.dcc 4) := by
  refine partResult_of (fun s c hi free => ⟨_, issue_next _ _ c s hi (by simp) rfl rfl free, ?_⟩)
  by_cases h : c.emask &&& c.wave.pred w.pred.toNat w.neg = 0
  · rw [if_pos h, Ctx.active, if_neg (not_not.mpr h)]
    exact (partBecomes_refl hi).finish 4 4
  · rw [if_neg h, Ctx.active, if_pos h]
    exact (partBecomes_refl hi).branchTo _

theorem brp_completes (w : PWord) : PartResult (.brp w)
    (fun _ c => Plain c w.s ∧ (c.emask &&& c.wave.pred w.pred.toNat w.neg = 0 ∨ c.emask &&& c.wave.pred w.pred.toNat w.neg = c.emask))
    (fun s c => if c.emask &&& c.wave.pred w.pred.toNat w.neg = 0 then c.part.pastIn c 4 4 s.dcc
      else (c.part.jumpTo c.part.pc (pTarget c.part.pc w.off)).issued s.dcc 4) := by
  refine partResult_of (fun s c hi hready => ⟨_, issue_next _ _ c s hi (by simp) rfl rfl hready.1, ?_⟩)
  have hactive : c.active w.pred.toNat w.neg = c.emask &&& c.wave.pred w.pred.toNat w.neg := rfl
  dsimp only
  rw [hactive]
  by_cases h : c.emask &&& c.wave.pred w.pred.toNat w.neg = 0
  · rw [if_pos h, if_pos h]
    exact (partBecomes_refl hi).finish 4 4
  · rw [if_neg h, if_neg h, if_pos (hready.2.resolve_left h)]
    exact (partBecomes_refl hi).branchTo _

/-- A transfer to a register's address completes when that lies below 2^57 and is aligned (20 R442, 21 R475). -/
theorem registerJump_completes {i : Instr} (u : UWord) (he : ∀ s, exec i s = registerJump u s) : PartResult i
    (fun _ c => Plain c u.s ∧ (c.sreg u.a.toNat).toNat < 2 ^ 57 ∧ (c.sreg u.a.toNat).toNat % 4 = 0)
    (fun s c => (c.part.jumpTo c.part.pc (c.sreg u.a.toNat)).issued s.dcc 4) := by
  refine partResult_of (fun s c hi hready => ?_)
  obtain ⟨free, hlow, haligned⟩ := hready
  refine ⟨_, (he s).trans (issue_next _ _ c s hi (by simp) rfl rfl free), ?_⟩
  dsimp only
  rw [if_neg (not_not.mpr (Nat.div_eq_of_lt hlow)), if_neg (not_not.mpr haligned)]
  exact (partBecomes_refl hi).branchTo _

end Sys2Proof.Machine
end

section
/-! SUPPORT. The statement about branches. -/

open Sys2Proof Sys2Proof.Machine

/-- Settles O11, from the completion of each branch: a transfer is one update of its part, and so is a fall-through. -/
theorem branches : Obligations.Branches := by
  unfold Obligations.Branches
  exact ⟨fun j => ⟨bra_completes j, call_completes j⟩, fun w => ⟨bru_completes w, brp_completes w⟩,
    fun u => ⟨registerJump_completes u (fun _ => rfl), registerJump_completes u (fun _ => rfl)⟩⟩

end

section
/-! SUPPORT. The control instructions that move their part on or park it, and the park of an instruction at its S marker. -/

namespace Sys2Proof.Machine

/-! ### Instructions that move their part on (21 R454, 22 R509, 03 R64, 13 R306) -/

/-- An update of the part before it moves on, with nothing to check. -/
theorem partOp_completes {i : Instr} (sm : Bool) (len : Nat) (f : Ctx → Part → Part) (hf : ∀ c p, (f c p).base = p.base)
    (he : ∀ s, exec i s = partOp sm len f s) : PartResult i (fun _ c => Plain c sm) (fun s c => (f c c.part).past c len s.dcc) :=
  partResult_of (fun s c hi free => ⟨_, (he s).trans (issue_next _ _ c s hi (by simp) rfl rfl free),
    ((partBecomes_refl hi).updPart (f c) (hf c)).done len⟩)

theorem fuse_completes (r : RWord) : PartResult (.fuse r) (fun _ c => Free c r.s false none (some (c.effWidth r.b.toNat)))
    (fun s c => c.part.past c 4 s.dcc) :=
  partResult_of (fun s c hi free => ⟨_, issue_next _ _ c s hi (by simp) rfl rfl free, (partBecomes_refl hi).done 4⟩)

theorem gentry_completes (r : RWord) : PartResult (.gentry r) (fun _ c => Plain c r.s ∧ c.part.atEntry = true)
    (fun s c => Part.past { c.part with gentryDue := false } c 4 s.dcc) := by
  refine partResult_of (fun s c hi hready => ?_)
  obtain ⟨free, hentry⟩ := hready
  refine ⟨_, issue_next _ _ c s hi (by simp) (if_pos hentry) rfl free, ?_⟩
  have hpast : c.part.past c 4 s.dcc = Part.past { c.part with gentryDue := false } c 4 s.dcc := by
    simp only [Part.atEntry, Bool.and_eq_true, beq_iff_eq] at hentry
    simp only [Part.past, Part.pastIn, Part.issued, Part.moveTo, hentry.1.2, bne_self_eq_false, Bool.and_false]
    rfl
  rw [← hpast]
  exact (partBecomes_refl hi).done 4

theorem tret_completes (r : RWord) (f : TrapFrame) : PartResult (.tret r)
    (fun _ c => Plain c r.s ∧ c.part.tcode ≠ 0 ∧ c.part.tframe = some f ∧ c.part.waiting = 0 ∧ (f.wrote = true → c.part.tword.toNat % 4 = 0))
    (fun s c => c.part.leaveHandler f s.dcc) := by
  refine partResult_of (fun s c hi hready => ?_)
  obtain ⟨free, hcode, hframe, hpath, haligned⟩ := hready
  refine ⟨_, issue_next _ _ c s hi (by simp) (if_neg hcode) rfl free, ?_⟩
  simp only [hframe]
  rw [if_neg (not_not.mpr hpath), if_neg (fun h => h.2 (haligned h.1))]
  exact (partBecomes_refl hi).updPart (fun p => p.leaveHandler f s.dcc) (fun _ => rfl)

/-! ### `conf` (03 R60, R61) -/

theorem conf_passes (r : RWord) : PartResult (.conf r)
    (fun _ c => Plain c true ∧ c.part.waiting = 0 ∧ (c.part.tcode ≠ 0 ∨ c.part.width = c.wave.width))
    (fun s c => { c.part.past c 4 s.dcc with confId := r.b.toNat % 16 }) := by
  refine partResult_of (fun s c hi hready => ?_)
  obtain ⟨free, hpath, hpass⟩ := hready
  refine ⟨_, issue_next _ _ c s hi (by simp) rfl rfl free, ?_⟩
  dsimp only
  rw [if_neg (not_not.mpr hpath), if_pos hpass]
  exact (partBecomes_refl hi).updPart (fun p => { p.passConf s.dcc 1 with confId := r.b.toNat % 16 }) (fun _ => rfl)

theorem confTimeout_eq {n : Nat} (h : n < 4) : confTimeout n = [0, 64, 1024, 16384].getD n 0 := by
  interval_cases n <;> rfl

/-- A wave in which nothing can fuse with a part stays as it is. -/
theorem fuseClimb_of_fuseOnce_none {w : Wave} {now base : Nat} (h : w.fuseOnce now base = none) (upTo fuel : Nat) :
    w.fuseClimb now base upTo fuel = (w, base, false) := by
  cases fuel with
  | zero => rfl
  | succ fuel =>
    unfold Wave.fuseClimb
    rw [h]
    split
    · rfl
    · split <;> rfl

/-- The buddy block of a part (03 R54). -/
abbrev Part.buddy (p : Part) : Nat := if p.base / p.width % 2 = 0 then p.base + p.width else p.base - p.width

/-- Nothing fuses with a part at `conf` while some part of its buddy block does not wait at a `conf`. -/
theorem fuseOnce_none_of_away {w : Wave} {base arrival due : Nat} {p q : Part} (hp : w.part? base = some p) (hpark : p.park = .conf arrival due)
    (hq : q ∈ w.parts) (hin : inBlock p.buddy p.width q.base = true) (haway : ∀ t d, q.park ≠ .conf t d) (now : Nat) :
    w.fuseOnce now base = none := by
  have hnot : standsWith p q = false := by
    unfold standsWith
    rw [hpark]
    cases hpq : q.park with
    | conf t d => exact absurd hpq (haway t d)
    | _ => exact Bool.and_false _
  have hmem : q ∈ w.parts.filter (fun q => inBlock p.buddy p.width q.base) := List.mem_filter.mpr ⟨hq, hin⟩
  have hbuddy : w.buddyPart p = none := by
    unfold Wave.buddyPart
    dsimp only
    split
    · next hnil => simp [hnil] at hmem
    · next q' hone =>
      rw [hone, List.mem_singleton] at hmem
      subst hmem
      rw [hnot, Bool.and_false]
      rfl
    · rfl
  unfold Wave.fuseOnce
  rw [hp]
  dsimp only
  rw [hbuddy]
  exact ite_self _

theorem quadPart_updPart (w : Wave) (base l : Nat) (f : Part → Part) (hf : ∀ p, (f p).base = p.base ∧ (f p).width = p.width) :
    (w.updPart base f).quadPart l = (w.quadPart l).map (fun p => if p.base = base then f p else p) := by
  have hin : (fun p => inBlock p.base p.width l) ∘ (fun p => if p.base = base then f p else p) = fun p => inBlock p.base p.width l := by
    funext p
    dsimp only [Function.comp]
    split
    · rw [(hf p).1, (hf p).2]
    · rfl
  unfold Wave.quadPart Wave.updPart
  rw [List.find?_map, hin]

/-- The part that waits at `conf` from `now` on. -/
def Part.atConf (p : Part) (id now due : Nat) : Part :=
  { p with confId := id, lastIssue := now, park := .conf now due, confLeft := takenAt p.pc p.confLeft }

/-- A wait at `conf` does not become hopeless by its own part's park. -/
theorem confHopeless_atConf {w : Wave} {base id now due : Nat} {p : Part} (h : w.confHopeless p = false) :
    (w.updPart base (fun p => p.atConf id now due)).confHopeless (p.atConf id now due) = false := by
  unfold Wave.confHopeless at *
  refine List.any_eq_false.mpr (fun l hl hbad => List.any_eq_false.mp h l hl ?_)
  rw [quadPart_updPart w base l (fun p => p.atConf id now due) (fun _ => ⟨rfl, rfl⟩)] at hbad
  cases hq : w.quadPart l with
  | none => simpa [hq, Wave.quadExited] using hbad
  | some q =>
    rw [hq] at hbad
    by_cases hb : q.base = base
    · simp only [Option.map_some, if_pos hb] at hbad
      simp only [Bool.or_eq_true] at hbad ⊢
      exact hbad.imp_right (fun h => .inr (h.resolve_left (by simp [Part.atConf, forcedPark, barrierPark])))
    · simp only [Option.map_some, if_neg hb] at hbad
      exact hbad

theorem arriveConf_waits {s : State} {c : Ctx} (hi : s.issuing = some c) (id t : Nat) (hhope : c.wave.confHopeless c.part = false)
    (haway : ∃ q ∈ c.wave.parts, q.base ≠ c.ref.base ∧ inBlock c.part.buddy c.part.width q.base = true ∧ ∀ t d, q.park ≠ .conf t d) :
    s.arriveConf c id t = s.updPart c.ref (fun p => p.atConf id s.dcc (c.part.confDeadline s.dcc t)) := by
  obtain ⟨q, hq, hne, hin, hnot⟩ := haway
  have hwave : (s.updPart c.ref (fun p => p.atConf id s.dcc (c.part.confDeadline s.dcc t))).wave? c.ref.key
      = some (c.wave.updPart c.ref.base (fun p => p.atConf id s.dcc (c.part.confDeadline s.dcc t))) := wave?_updWave_some (issuing_wave hi) _
  have hpart := part?_updPart_some (issuing_part hi) (fun p => p.atConf id s.dcc (c.part.confDeadline s.dcc t)) (fun _ => rfl)
  have hstill := fuseOnce_none_of_away hpart rfl (List.mem_map.mpr ⟨q, hq, if_neg hne⟩) hin hnot s.dcc
  have hgo := confHopeless_atConf (base := c.ref.base) (id := id) (now := s.dcc) (due := c.part.confDeadline s.dcc t) hhope
  unfold Part.atConf at *
  unfold State.arriveConf
  dsimp only
  rw [hwave]
  dsimp only
  rw [State.updPart_dcc, fuseClimb_of_fuseOnce_none hstill]
  dsimp only
  rw [hpart]
  dsimp only
  rw [hgo]
  rfl

theorem conf_waits (r : RWord) : PartResult (.conf r)
    (fun _ c => Plain c true ∧ c.part.waiting = 0 ∧ c.part.tcode = 0 ∧ c.part.width ≠ c.wave.width ∧ c.wave.confHopeless c.part = false
      ∧ ∃ q ∈ c.wave.parts, q.base ≠ c.ref.base ∧ inBlock c.part.buddy c.part.width q.base = true ∧ ∀ t d, q.park ≠ .conf t d)
    (fun s c => c.part.atConf (r.b.toNat % 16) s.dcc (c.part.confDeadline s.dcc ([0, 64, 1024, 16384].getD (r.b.toNat / 16 % 4) 0))) := by
  refine partResult_of (fun s c hi hready => ?_)
  obtain ⟨free, hpath, hcode, hwidth, hhope, haway⟩ := hready
  refine ⟨_, issue_next _ _ c s hi (by simp) rfl rfl free, ?_⟩
  dsimp only
  rw [if_neg (not_not.mpr hpath), if_neg (by simp [hcode, hwidth]), arriveConf_waits hi _ _ hhope haway,
    confTimeout_eq (Nat.mod_lt _ (by decide))]
  exact (partBecomes_refl hi).updPart (fun p => p.atConf _ s.dcc _) (fun _ => rfl)

/-! ### Sleeps and promises (22 R490, 09 R227) -/

/-- A part that sleeps until `t`, or goes on where that has passed. -/
def Part.sleepsUntil (p : Part) (c : Ctx) (t now : Nat) : Part :=
  let q := { p with sleepLeft := takenAt p.pc p.sleepLeft }
  let t := p.sleepDeadline t
  if t ≤ now then q.past c 4 now else q.parkedAtOnce (.sleep t) now

theorem sleepUntil_becomes {s : State} {c : Ctx} (hi : s.issuing = some c) (t : Nat) :
    PartBecomes c s (sleepUntil t c s) (c.part.sleepsUntil c t s.dcc) := by
  have hleft := (partBecomes_refl hi).updPart (fun p => { p with sleepLeft := takenAt p.pc p.sleepLeft }) (fun _ => rfl)
  unfold sleepUntil Part.sleepsUntil
  dsimp only
  rw [State.updPart_dcc]
  split
  · exact hleft.done 4
  · exact hleft.parkPart _

theorem sleep_completes {i : Instr} (u : UWord) (deadline : State → Ctx → Nat)
    (he : ∀ s, exec i s = issue { s := u.s, len := 4 } (fun c st => sleepUntil (deadline st c) c st) s) :
    PartResult i (fun _ c => Plain c u.s) (fun s c => c.part.sleepsUntil c (deadline s c) s.dcc) :=
  partResult_of (fun s c hi free => ⟨_, (he s).trans (issue_next _ _ c s hi (by simp) rfl rfl free), sleepUntil_becomes hi _⟩)

theorem pwait_completes (u : UWord) : PartResult (.pwait u)
    (fun s c => Plain c u.s ∧ c.part.copyFailure ((c.sreg u.a.toNat).toNat / 2 ^ 48) = none
      ∧ (s.ticketOut c.ref.core c.part ((c.sreg u.a.toNat).toNat / 2 ^ 48) = false ∨ c.part.tcode ≠ 0))
    (fun s c =>
      let v := c.sreg u.a.toNat
      if promiseDue s.dcc (v.toNat % 2 ^ 48) then c.part.past c 4 s.dcc
      else c.part.parkedAtOnce (.pwait (v.toNat % 2 ^ 48) (v.toNat / 2 ^ 48) v) s.dcc) := by
  refine partResult_of (fun s c hi hready => ?_)
  obtain ⟨free, hfail, hpass⟩ := hready
  have hno : ¬ (s.ticketOut c.ref.core c.part ((c.sreg u.a.toNat).toNat / 2 ^ 48) = true ∧ c.part.tcode = 0) := fun ⟨hout, hcode⟩ =>
    hpass.elim (fun hin => Bool.false_ne_true (hin.symm.trans hout)) (fun hin => hin hcode)
  refine ⟨_, issue_next _ _ c s hi (by simp) rfl rfl free, ?_⟩
  dsimp only
  rw [hfail]
  dsimp only
  split
  · rw [State.endPwait, if_neg hno]
    exact (partBecomes_refl hi).done 4
  · exact (partBecomes_refl hi).parkPart _

/-! ### `phint` (12 R285) -/

/-- No range that `phint` names passes the end of the part's scratch. -/
def PhintRangesOk (c : Ctx) (v : W64) : Prop := ∀ r ∈ phintRanges v, r.2 ≠ 0 → (r.1 + r.2) * 256 ≤ c.scratchArea.2

theorem PhintRangesOk.none_bad {c : Ctx} {v : W64} (h : PhintRangesOk c v) : (phintRanges v).any (badRange c) = false := by
  refine List.any_eq_false.mpr (fun r hr hbad => ?_)
  simp only [badRange, Bool.and_eq_true, bne_iff_ne, decide_eq_true_eq] at hbad
  have := h r hr hbad.1
  omega

theorem phint_passes (u : UWord) (x : W32) : PartResult (.phint u x)
    (fun _ c => Plain c u.s ∧ c.wave.pend = false ∧ PhintRangesOk c (c.sreg u.a.toNat)) (fun s c => c.part.past c 8 s.dcc) := by
  refine partResult_of (fun s c hi hready => ?_)
  obtain ⟨free, hpend, hranges⟩ := hready
  refine ⟨_, issue_next _ _ c s hi (by simp) rfl rfl free, ?_⟩
  simp only [hranges.none_bad, hpend, Bool.false_eq_true, if_false, Bool.not_false, if_true]
  exact (partBecomes_refl hi).done 8

theorem phint_saves (u : UWord) (x : W32) : PartResult (.phint u x)
    (fun _ c => Plain c u.s ∧ c.wave.pend = true ∧ PhintRangesOk c (c.sreg u.a.toNat))
    (fun s c =>
      let left := c.part.confLeft.map (fun e => (e.1, e.2 - s.dcc))
      Part.parkedAtOnce { c.part.past c 8 s.dcc with confLeft := left }
        (.saved x ((phintRanges (c.sreg u.a.toNat)).filter (fun r => r.2 != 0))) s.dcc) := by
  refine partResult_of (fun s c hi hready => ?_)
  obtain ⟨free, hpend, hranges⟩ := hready
  refine ⟨_, issue_next _ _ c s hi (by simp) rfl rfl free, ?_⟩
  simp only [hranges.none_bad, hpend, Bool.false_eq_true, if_false, Bool.not_true]
  exact (((partBecomes_refl hi).done 8).updPart (fun p => { p with confLeft := p.confRest s.dcc }) (fun _ => rfl)).parkPart _

/-! ### The park at an S marker (05 R116) -/

/-- An instruction that carries S, and is no `conf` and no forced-fuse point, parks while a load is outstanding. -/
theorem issue_parks_at_marker {s : State} {c : Ctx} (hi : s.issuing = some c) (hld : c.part.ldOps ≠ []) {h : Hdr} (eff : Ctx → State → State)
    (hs : h.s = true) (hpriv : h.priv = false) (hpre : h.pre c s = none) (hops : checkVops (h.regs c s) c.wb c.allot = none)
    (hff : h.ff = none) (hpoint : h.point = false) : issue h eff s = .next (s.parkOn c .ldZero) := by
  have hmark : (h.s && c.part.ldOps != []) = true := by simp [hs, hld]
  rw [issue, hi]
  dsimp only
  rw [issueIn, hpriv, hpre, hops, if_neg (by simp)]
  dsimp only
  rw [if_pos hmark, hff, hpoint]
  rfl

/-- The part of `c` parks before an instruction until no load is outstanding. -/
def ParksAtMarker (s : State) (c : Ctx) (i : Instr) : Prop :=
  ∃ t w, exec i s = .next t ∧ OnlyWave c s t ∧ SameVregs c.wave w
    ∧ WaveIs c t id { c.part with park := .on .ldZero, parkedAt := if c.part.park = .on .ldZero then c.part.parkedAt else s.dcc } w

theorem parksAtMarker_of {s : State} {c : Ctx} (hi : s.issuing = some c) {i : Instr} (h : exec i s = .next (s.parkOn c .ldZero)) :
    ParksAtMarker s c i := by
  obtain ⟨w, hw⟩ := (partBecomes_refl hi).parkPart (.on .ldZero)
  exact ⟨_, w, h, hw⟩

end Sys2Proof.Machine
end

section
/-! SUPPORT. The statement about the control instructions that move or park their part. -/

open Sys2Proof Sys2Proof.Machine

/-- Settles O10, from the completion of each control instruction, and the park of an instruction at its S marker. -/
theorem partControl : Obligations.PartControl := by
  unfold Obligations.PartControl
  refine ⟨⟨fun r => ⟨?_, fun _ => ?_, ?_, fuse_completes r, conf_passes r, conf_waits r, gentry_completes r, tret_completes r⟩,
    fun u => ⟨sleep_completes u _ (fun _ => rfl), sleep_completes u _ (fun _ => rfl), pwait_completes u,
      fun x => ⟨phint_passes u x, phint_saves u x⟩⟩⟩, fun s c hi hld => ⟨fun r hs => ?_, fun u hs => ?_, fun r x hs hops => ?_⟩⟩
  · exact partOp_completes r.s 4 (fun _ p => p) (fun _ _ => rfl) (fun _ => rfl)
  · exact partOp_completes r.s 8 (fun _ p => p) (fun _ _ => rfl) (fun _ => rfl)
  · exact partOp_completes r.s 4 (fun _ p => { p with regs := { p.regs with wb := BitVec.ofNat 8 (16 * r.b.toNat) } }) (fun _ _ => rfl) (fun _ => rfl)
  · exact ⟨parksAtMarker_of hi (issue_parks_at_marker hi hld _ hs rfl rfl rfl rfl rfl),
      parksAtMarker_of hi (issue_parks_at_marker hi hld _ hs rfl rfl rfl rfl rfl)⟩
  · exact ⟨parksAtMarker_of hi (issue_parks_at_marker hi hld _ hs rfl rfl rfl rfl rfl),
      parksAtMarker_of hi (issue_parks_at_marker hi hld _ hs rfl rfl rfl rfl rfl)⟩
  · exact ⟨parksAtMarker_of hi (issue_parks_at_marker hi hld _ hs rfl rfl hops rfl rfl),
      parksAtMarker_of hi (issue_parks_at_marker hi hld _ hs rfl rfl hops rfl rfl)⟩

end

section
/-! SUPPORT. Where the lanes of a part stand after a branch that parts them: under a mask, or in the parts of a division (03 R54, R55, R57). -/

namespace Sys2Proof.Machine

/-! ### Where a lane stands -/

/-- A lane of a part stands at an address: on the current path, or waiting in the part. -/
def Part.StandsAt (p : Part) (l : Nat) (a : W64) : Prop :=
  (p.cur.getLsbD l = true ∧ p.waiting.getLsbD l = false ∧ p.pc = a)
    ∨ (p.cur.getLsbD l = false ∧ p.waiting.getLsbD l = true ∧ resumeOf p l = a)

theorem getT_foldl_putT_const {α : Type} (d a : α) (ls : List Nat) (m : List (Nat × α)) (k : Nat) :
    getT d (ls.foldl (fun t l => putT t l a) m) k = if k ∈ ls then a else getT d m k := by
  induction ls generalizing m with
  | nil => rfl
  | cons l r ih =>
    rw [List.foldl_cons, ih]
    by_cases hk : k = l
    · simp [hk, getT_putT_self]
    · simp [hk, getT_putT_of_ne]

theorem resumeOf_setResume (p : Part) (m : Lanes) (a : W64) (l : Nat) :
    resumeOf (setResume p m a) l = if m.getLsbD l = true then a else resumeOf p l := by
  refine (getT_foldl_putT_const 0 a (lanesOf m) p.resume l).trans ?_
  by_cases hl : m.getLsbD l = true
  · rw [if_pos hl, if_pos (mem_lanesOf.mpr ⟨BitVec.lt_of_getLsbD hl, hl⟩)]
  · rw [if_neg hl, if_neg (fun h => hl (mem_lanesOf.mp h).2)]
    rfl

theorem getLsbD_lanesAt (p : Part) (m : Lanes) (a : W64) (l : Nat) :
    (lanesAt p m a).getLsbD l = true ↔ m.getLsbD l = true ∧ resumeOf p l = a := by
  unfold lanesAt
  rw [getLsbD_foldl_or (keep := fun l => resumeOf p l = a)]
  constructor
  · rintro ⟨k, hk, ha, hbit⟩
    rw [getLsbD_laneBit k l (BitVec.lt_of_getLsbD hbit), decide_eq_true_eq] at hbit
    rw [hbit]
    exact ⟨(mem_lanesOf.mp hk).2, ha⟩
  · rintro ⟨hm, ha⟩
    have hl := BitVec.lt_of_getLsbD hm
    exact ⟨l, mem_lanesOf.mpr ⟨hl, hm⟩, ha, by simp [getLsbD_laneBit l l hl]⟩

/-- A lane of the current path goes with it. -/
theorem Part.moveTo_path {p : Part} {l : Nat} (hc : p.cur.getLsbD l = true) (hw : p.waiting.getLsbD l = false) (x : W64) :
    (p.moveTo x).StandsAt l x := by
  refine .inl ⟨?_, ?_, rfl⟩
  · simp [Part.moveTo, hc]
  · simp [Part.moveTo, hw]

/-- A waiting lane stays where it stands, and joins a path that comes there. -/
theorem Part.moveTo_waiting {p : Part} {l : Nat} (hc : p.cur.getLsbD l = false) (hw : p.waiting.getLsbD l = true) (x : W64) :
    (p.moveTo x).StandsAt l (resumeOf p l) := by
  by_cases hx : resumeOf p l = x
  · have hj : (lanesAt p p.waiting x).getLsbD l = true := (getLsbD_lanesAt ..).mpr ⟨hw, hx⟩
    refine .inl ⟨?_, ?_, hx.symm⟩
    · simp [Part.moveTo, hj]
    · simp [Part.moveTo, hj]
  · have hj : (lanesAt p p.waiting x).getLsbD l = false := Bool.eq_false_iff.mpr (fun h => hx ((getLsbD_lanesAt ..).mp h).2)
    refine .inr ⟨?_, ?_, ?_⟩
    · simp [Part.moveTo, hj, hc]
    · simp only [Part.moveTo, BitVec.getLsbD_and, BitVec.getLsbD_not, hw, hj, BitVec.lt_of_getLsbD hw, decide_true, Bool.not_false, Bool.and_self]
    · refine (getT_filter_key 0 p.resume (fun k => !(lanesAt p p.waiting x).getLsbD k) l).trans ?_
      rw [hj]
      rfl

/-- A switch of paths moves no lane. -/
theorem Part.StandsAt.switchPath {p : Part} {l : Nat} {a : W64} (h : p.StandsAt l a) : p.switchPath.StandsAt l a := by
  unfold Part.switchPath
  split
  · exact h
  · next x _ =>
    dsimp only
    have hmove := Part.moveTo_waiting (p := { setResume { p with waiting := p.waiting ||| p.cur } p.cur p.pc with cur := 0 }) (l := l)
      BitVec.getLsbD_zero ((BitVec.getLsbD_or ..).trans (by rcases h with ⟨hc, -⟩ | ⟨-, hw, -⟩ <;> simp [*])) x
    have hresume : resumeOf (setResume { p with waiting := p.waiting ||| p.cur } p.cur p.pc) l = a := by
      rw [resumeOf_setResume]
      rcases h with ⟨hc, -, hpc⟩ | ⟨hc, -, hr⟩
      · rw [if_pos hc, hpc]
      · rw [if_neg (by simp [hc])]
        exact hr
    rw [← hresume]
    exact hmove

/-! ### A part under a mask (R57) -/

/-- The part goes on at `first` with the lanes of `now`, and those of `later` wait at `second`. -/
def Part.twoPaths (p : Part) (now later : Lanes) (first second : W64) : Part :=
  (setResume { p with waiting := p.waiting ||| later, cur := now } later second).moveTo first

theorem Part.twoPaths_stands {p : Part} {now later : Lanes} {l : Nat} (hw : p.waiting.getLsbD l = false)
    (hother : later.getLsbD l = !now.getLsbD l) (first second : W64) :
    (p.twoPaths now later first second).StandsAt l (if now.getLsbD l = true then first else second) := by
  cases hn : now.getLsbD l
  · rw [hn, Bool.not_false] at hother
    have hmove := Part.moveTo_waiting (p := setResume { p with waiting := p.waiting ||| later, cur := now } later second) hn
      ((BitVec.getLsbD_or ..).trans (by simp [hother])) first
    rwa [resumeOf_setResume, if_pos hother] at hmove
  · rw [hn, Bool.not_true] at hother
    exact Part.moveTo_path hn ((BitVec.getLsbD_or ..).trans (by simp [hother, hw])) first

theorem maskPaths_cases (p : Part) (taken : Lanes) (own target fall : W64) :
    (∃ q, (q = p.twoPaths (p.cur &&& taken) (p.cur &&& ~~~taken) target fall ∨ q = p.twoPaths (p.cur &&& ~~~taken) (p.cur &&& taken) fall target)
      ∧ (p.maskPaths taken own target fall = q ∨ p.maskPaths taken own target fall = q.switchPath)) := by
  by_cases hfirst : target.toNat < fall.toNat
  · refine ⟨_, .inl rfl, ?_⟩
    simp only [Part.maskPaths, hfirst, decide_true, if_true]
    split
    · exact .inr rfl
    · exact .inl rfl
  · refine ⟨_, .inr rfl, .inl ?_⟩
    simp only [Part.maskPaths, hfirst, decide_false, Bool.false_eq_true, if_false, false_and]
    rfl

/-- Every lane of a path under a mask stands where the branch sends it. -/
theorem maskPaths_stands {p : Part} {l : Nat} (hc : p.cur.getLsbD l = true) (hw : p.waiting.getLsbD l = false) (taken : Lanes)
    (own target fall : W64) : (p.maskPaths taken own target fall).StandsAt l (if taken.getLsbD l = true then target else fall) := by
  have hl := BitVec.lt_of_getLsbD hc
  obtain ⟨q, hq, hmask⟩ := maskPaths_cases p taken own target fall
  have hstands : q.StandsAt l (if taken.getLsbD l = true then target else fall) := by
    rcases hq with rfl | rfl
    · have hnot : (p.cur &&& ~~~taken).getLsbD l = !(p.cur &&& taken).getLsbD l := by
        simp only [BitVec.getLsbD_and, BitVec.getLsbD_not, hc, hl, decide_true, Bool.true_and]
      have h := Part.twoPaths_stands (now := p.cur &&& taken) (later := p.cur &&& ~~~taken) hw hnot target fall
      rwa [BitVec.getLsbD_and, hc, Bool.true_and] at h
    · have hnot : (p.cur &&& taken).getLsbD l = !(p.cur &&& ~~~taken).getLsbD l := by
        simp only [BitVec.getLsbD_and, BitVec.getLsbD_not, hc, hl, decide_true, Bool.true_and, Bool.not_not]
      have h := Part.twoPaths_stands (now := p.cur &&& ~~~taken) (later := p.cur &&& taken) hw hnot fall target
      rw [BitVec.getLsbD_and, hc, Bool.true_and, BitVec.getLsbD_not, decide_eq_true hl, Bool.true_and] at h
      cases ht : taken.getLsbD l <;> simpa [ht] using h
  rcases hmask with h | h <;> rw [h]
  · exact hstands
  · exact hstands.switchPath

theorem Part.switchPath_regs (p : Part) : p.switchPath.regs = p.regs := by
  unfold Part.switchPath
  split <;> rfl

theorem maskPaths_keeps (p : Part) (taken : Lanes) (own target fall : W64) :
    (p.maskPaths taken own target fall).base = p.base ∧ (p.maskPaths taken own target fall).regs = p.regs := by
  obtain ⟨q, hq, hmask⟩ := maskPaths_cases p taken own target fall
  have hkeep : q.base = p.base ∧ q.regs = p.regs := by
    rcases hq with rfl | rfl <;> exact ⟨rfl, rfl⟩
  rcases hmask with h | h <;> rw [h]
  · exact hkeep
  · exact ⟨(Part.switchPath_base q).trans hkeep.1, (Part.switchPath_regs q).trans hkeep.2⟩

/-! ### The parts of a division (R54, R55) -/

/-- A quad with an active lane is not empty, and where it is of one class the lane is of that class. -/
theorem quadClass_of_lane {active taken : Lanes} {l i : Nat} (hi : (laneRange l 4 &&& active).getLsbD i = true) :
    quadClass active taken l ≠ .empty ∧ (quadClass active taken l = .taken → taken.getLsbD i = true)
      ∧ (quadClass active taken l = .notTaken → taken.getLsbD i = false) := by
  have hne : laneRange l 4 &&& active ≠ 0 := fun h0 => by simp [h0] at hi
  unfold quadClass
  dsimp only
  rw [if_neg hne]
  by_cases hall : laneRange l 4 &&& active &&& ~~~taken = 0
  · rw [if_pos hall]
    have hnot := lanes_disjoint_iff.mp hall i hi
    rw [BitVec.getLsbD_not, decide_eq_true (BitVec.lt_of_getLsbD hi), Bool.true_and, Bool.not_eq_false'] at hnot
    exact ⟨by decide, fun _ => hnot, fun h => absurd h (by decide)⟩
  · rw [if_neg hall]
    by_cases hnone : laneRange l 4 &&& active &&& taken = 0
    · rw [if_pos hnone]
      exact ⟨by decide, fun h => absurd h (by decide), fun _ => lanes_disjoint_iff.mp hnone i hi⟩
    · rw [if_neg hnone]
      exact ⟨by decide, fun h => absurd h (by decide), fun h => absurd h (by decide)⟩

/-- A block of a branch's division that holds an active lane shows where the lane goes, unless it is mixed. -/
structure Block.ShowsBranch (taken : Lanes) (b : Block) (l : Nat) : Prop where
  lane : (laneRange b.base b.width).getLsbD l = true
  some : b.cls ≠ .empty
  takes : b.cls = .taken → taken.getLsbD l = true
  falls : b.cls = .notTaken → taken.getLsbD l = false

theorem quads_of_width : ∀ w ∈ [4, 8, 16, 32, 64], ∃ k < 5, w = 4 * 2 ^ k := by decide

theorem divide_shows_branch {active taken : Lanes} {base width l : Nat} (minw : Nat) (hwidth : width ∈ [4, 8, 16, 32, 64])
    (hl : active.getLsbD l = true) (hin : base ≤ l ∧ l < base + width) :
    ∃ b ∈ divide active taken minw 5 base width, b.ShowsBranch taken l := by
  obtain ⟨k, hk, rfl⟩ := quads_of_width width hwidth
  have hl64 := BitVec.lt_of_getLsbD hl
  have hquad : (laneRange (base + 4 * ((l - base) / 4)) 4 &&& active).getLsbD l = true := by
    rw [BitVec.getLsbD_and, hl, Bool.and_true, getLsbD_laneRange, decide_eq_true_eq]
    omega
  obtain ⟨hne, htaken, hnot⟩ := quadClass_of_lane (taken := taken) hquad
  obtain ⟨b, hb, hlow, hhigh, hcls⟩ := divide_shows active taken minw (base := base) hk (n := (l - base) / 4) (by omega) hne
  refine ⟨b, hb, ?_, ?_, fun h => ?_, fun h => ?_⟩
  · rw [getLsbD_laneRange, decide_eq_true_eq]
    omega
  · rcases hcls with h | ⟨h, -⟩ <;> rw [h]
    · exact hne
    · decide
  · rcases hcls with h' | ⟨h', -⟩
    · exact htaken (h'.symm.trans h)
    · cases h'.symm.trans h
  · rcases hcls with h' | ⟨h', -⟩
    · exact hnot (h'.symm.trans h)
    · cases h'.symm.trans h

/-- The part that stands in a block after a divergent branch. -/
def State.branchPart (s : State) (c : Ctx) (first : Nat) (taken : Lanes) (target fall : W64) (b : Block) : Part :=
  let q := s.childPart c.part first b
  match b.cls with
  | .taken => Part.issued { q with pc := target } s.dcc 4
  | .mixed => Part.issued (Part.maskPaths { q with pc := c.part.pc } (taken &&& c.emask) c.part.pc target fall) s.dcc 4
  | _ => Part.issued { q with pc := fall } s.dcc 4

theorem branchPart_keeps (s : State) (c : Ctx) (first : Nat) (taken : Lanes) (target fall : W64) (b : Block) :
    (s.branchPart c first taken target fall b).regs = c.part.regs ∧ (s.branchPart c first taken target fall b).notBefore = s.dcc + 4 := by
  unfold State.branchPart
  dsimp only
  split
  · exact ⟨rfl, rfl⟩
  · exact ⟨(maskPaths_keeps _ _ _ _ _).2, rfl⟩
  · exact ⟨rfl, rfl⟩

theorem branchPart_stands {s : State} {c : Ctx} {b : Block} {taken : Lanes} {l : Nat} (hl : c.emask.getLsbD l = true)
    (hb : b.ShowsBranch taken l) (first : Nat) (target fall : W64) :
    (s.branchPart c first taken target fall b).StandsAt l (if taken.getLsbD l = true then target else fall) := by
  have hcur : (s.childPart c.part first b).cur.getLsbD l = true :=
    (BitVec.getLsbD_and ..).trans (by rw [Ctx.path_of_emask hl, hb.lane]; rfl)
  have hwait : (s.childPart c.part first b).waiting.getLsbD l = false := BitVec.getLsbD_zero
  unfold State.branchPart
  cases hcls : b.cls with
  | empty => exact absurd hcls hb.some
  | taken =>
    rw [if_pos (hb.takes hcls)]
    exact .inl ⟨hcur, hwait, rfl⟩
  | notTaken =>
    rw [if_neg (by simp [hb.falls hcls])]
    exact .inl ⟨hcur, hwait, rfl⟩
  | mixed =>
    have hmask := maskPaths_stands (p := { s.childPart c.part first b with pc := c.part.pc }) hcur hwait (taken &&& c.emask) c.part.pc target fall
    rw [BitVec.getLsbD_and, hl, Bool.and_true] at hmask
    exact hmask

/-! ### A divergent branch (R55, R57) -/

theorem diverge_masks {s : State} {c : Ctx} (h : c.part.waiting ≠ 0 ∨ (!policyOn c.part c.part.regs.split) = true) (taken : Lanes)
    (target fall : W64) :
    s.diverge c taken target fall = s.updPart c.ref (fun q => (q.maskPaths taken c.part.pc target fall).issued s.dcc 4) := if_pos h

theorem diverge_divides {s : State} {c : Ctx} (h : ¬ (c.part.waiting ≠ 0 ∨ (!policyOn c.part c.part.regs.split) = true)) (taken : Lanes)
    (target fall : W64) :
    ∃ first latent, s.diverge c taken target fall = s.updWave c.ref.key (fun w => w.replacePart c.part.base
      (((divide c.emask taken (minWidth c.part) 5 c.part.base c.part.width).filter (fun b => b.cls != .empty)).map
        (s.branchPart c first taken target fall)) latent) :=
  ⟨_, _, if_neg h⟩

/-- Where a divergent branch leaves the wave of its part: every active lane stands where it is sent, and every part of the wave is of before or
came of the branch. -/
structure Parted (s : State) (c : Ctx) (taken : Lanes) (target fall : W64) (v : Wave) : Prop where
  stands : ∀ l, c.emask.getLsbD l = true → ∃ p ∈ v.parts, p.StandsAt l (if taken.getLsbD l = true then target else fall)
  parts : ∀ p ∈ v.parts, p ∈ c.wave.parts ∨ (p.regs = c.part.regs ∧ p.notBefore = s.dcc + 4)

/-- What the division of a branch needs of its part: a block of whole quads, and a path in it that waits nowhere. -/
structure BranchReady (c : Ctx) : Prop where
  width : c.part.width ∈ [4, 8, 16, 32, 64]
  path : ∀ l, c.part.cur.getLsbD l = true → c.part.base ≤ l ∧ l < c.part.base + c.part.width ∧ c.part.waiting.getLsbD l = false
  alone : ∀ p ∈ c.wave.parts, p.base = c.ref.base → p = c.part

theorem diverge_parts {s : State} {c : Ctx} (hi : s.issuing = some c) (ready : BranchReady c) (taken : Lanes) (target fall : W64) :
    ∃ v, OnlyWave c s (s.diverge c taken target fall) ∧ (s.diverge c taken target fall).wave? c.ref.key = some v ∧ SameVregs c.wave v
      ∧ Parted s c taken target fall v := by
  have hpart := issuing_part hi
  have hmem : c.part ∈ c.wave.parts := List.mem_of_find?_eq_some hpart
  by_cases hmask : c.part.waiting ≠ 0 ∨ (!policyOn c.part c.part.regs.split) = true
  · rw [diverge_masks hmask]
    obtain ⟨w, honly, hsame, hfound, -, hat, -⟩ := updPart_effect (issuing_ctx hi)
      (fun q => (q.maskPaths taken c.part.pc target fall).issued s.dcc 4) (fun p => (maskPaths_keeps p _ _ _ _).1)
    obtain rfl := Option.some.inj (hfound.symm.trans (wave?_updWave_some (issuing_wave hi) _))
    refine ⟨_, honly, hfound, hsame, fun l hl => ?_, fun p hp => ?_⟩
    · have hc := Ctx.path_of_emask hl
      exact ⟨_, List.mem_of_find?_eq_some hat, maskPaths_stands hc (ready.path l hc).2.2 taken c.part.pc target fall⟩
    · obtain ⟨q, hq, rfl⟩ := List.mem_map.mp hp
      by_cases hb : q.base = c.ref.base
      · obtain rfl := ready.alone q hq hb
        rw [if_pos hb]
        exact .inr ⟨(maskPaths_keeps _ _ _ _ _).2, rfl⟩
      · rw [if_neg hb]
        exact .inl hq
  · obtain ⟨first, latent, hdiv⟩ := diverge_divides (s := s) hmask taken target fall
    rw [hdiv]
    refine ⟨_, onlyWave_updWave c s _, wave?_updWave_some (issuing_wave hi) _, ⟨rfl, rfl⟩, fun l hl => ?_, fun p hp => ?_⟩
    · obtain ⟨hlow, hhigh, -⟩ := ready.path l (Ctx.path_of_emask hl)
      obtain ⟨b, hb, hshow⟩ := divide_shows_branch (taken := taken) (minWidth c.part) ready.width hl ⟨hlow, hhigh⟩
      refine ⟨_, List.mem_flatMap.mpr ⟨c.part, hmem, ?_⟩, branchPart_stands (s := s) hl hshow first target fall⟩
      rw [if_pos rfl]
      exact List.mem_map_of_mem (List.mem_filter.mpr ⟨hb, by simpa using hshow.some⟩)
    · obtain ⟨q, hq, hin⟩ := List.mem_flatMap.mp hp
      by_cases hb : q.base = c.part.base
      · rw [if_pos hb] at hin
        obtain ⟨b, -, rfl⟩ := List.mem_map.mp hin
        exact .inr (branchPart_keeps ..)
      · rw [if_neg hb, List.mem_singleton] at hin
        exact .inl (hin ▸ hq)

end Sys2Proof.Machine
end

section
/-! SUPPORT. The statement about divergent branches. -/

open Sys2Proof Sys2Proof.Machine

/-- Settles O13: a part under a mask keeps each lane at its address (maskPaths_stands), and each block of a division holds the lanes that its
class sends one way (divide_shows_branch). -/
theorem divergence : Obligations.Divergence := by
  unfold Obligations.Divergence
  intro s c w hi free taken hsome hall hwidth _ hpath halone
  obtain ⟨v, honly, hv, hsame, hparted⟩ := diverge_parts hi ⟨hwidth, hpath, halone⟩ taken (pTarget c.part.pc w.off) (c.part.pc + 4)
  refine ⟨_, v, ?_, honly, hv, hsame, fun l hl => ?_, hparted.parts⟩
  · refine (issue_next _ _ c s hi (by simp) rfl rfl free).trans ?_
    exact congrArg _ ((if_neg hsome).trans (if_neg hall))
  · obtain ⟨p, hp, hstands⟩ := hparted.stands l hl
    exact ⟨p, hp, hstands.imp (fun ⟨hc, _, hpc⟩ => ⟨hc, hpc⟩) (fun ⟨_, hwait, hresume⟩ => ⟨hwait, hresume⟩)⟩

end

section
/-! SUPPORT. The completion of an operation whose only access is back: what is left of its performance, the write of its destination, and its count
(05 R117, 09 R223). -/

namespace Sys2Proof.Machine

/-! ### Operations and waves of one part -/

theorem WaveChange.mem {k : Nat} {s t : State} (h : WaveChange k s t) : t.mem = s.mem := by rw [h.state]
theorem WaveChange.scratch {k : Nat} {s t : State} (h : WaveChange k s t) : t.scratch = s.scratch := by rw [h.state]
theorem WaveChange.dcc {k : Nat} {s t : State} (h : WaveChange k s t) : t.dcc = s.dcc := by rw [h.state]
theorem WaveChange.posted {k : Nat} {s t : State} (h : WaveChange k s t) : t.posted = s.posted := by rw [h.state]
theorem WaveChange.op? {k : Nat} {s t : State} (h : WaveChange k s t) (id : Nat) : t.op? id = s.op? id := by
  rw [h.state]
  rfl

theorem op?_updOp {s : State} {id : Nat} {o : MemOp} (h : s.op? id = some o) (f : MemOp → MemOp) (hf : ∀ o, (f o).id = o.id) :
    (s.updOp id f).op? id = some (f o) := by
  have hid : o.id = id := by simpa using List.find?_some h
  have hsame : (fun o : MemOp => o.id == id) ∘ (fun o => if o.id = id then f o else o) = fun o => o.id == id := by
    funext x
    dsimp only [Function.comp]
    split
    · rw [hf]
    · rfl
  unfold State.op? State.updOp at *
  rw [List.find?_map, hsame, h, Option.map_some, if_pos hid]

theorem op?_dropOp (s : State) (id : Nat) : (s.dropOp id).op? id = none := by
  refine List.find?_eq_none.mpr (fun o ho => ?_)
  have hne := (List.mem_filter.mp ho).2
  simpa using hne

theorem updPart_parts_of_one {w : Wave} {p : Part} (h : w.parts = [p]) (f : Part → Part) : (w.updPart p.base f).parts = [f p] := by
  simp [Wave.updPart, h]

/-- An operation of class LD or ST whose only access is back: the oldest of its class in its wave's one part. -/
structure Returning (s : State) (o : MemOp) (a : Access) (w : Wave) (p : Part) : Prop where
  found : s.op? o.id = some o
  accs : o.accs = [a]
  phase : a.phase = .done
  back : a.due ≤ s.dcc
  due : o.due ≤ s.dcc
  parked : o.parked = false
  posted : ∀ q ∈ s.posted, q.op ≠ some o.id
  wave : s.wave? o.key = some w
  admission : w.admission = o.admission
  parts : w.parts = [p]
  oldest : (p.opsOf o.cls).head? = some o.id
  cls : o.cls = .ld ∨ o.cls = .st

theorem Returning.opWave {s : State} {o : MemOp} {a : Access} {w : Wave} {p : Part} (h : Returning s o a w p) : s.opWave o = some w := by
  rw [State.opWave, h.wave, Option.bind_some, if_pos h.admission]

theorem Returning.mem_opsOf {s : State} {o : MemOp} {a : Access} {w : Wave} {p : Part} (h : Returning s o a w p) : o.id ∈ p.opsOf o.cls :=
  List.mem_of_mem_head? h.oldest

theorem Returning.holdsOp {s : State} {o : MemOp} {a : Access} {w : Wave} {p : Part} (h : Returning s o a w p) : p.holdsOp o.id = true := by
  have hmem := h.mem_opsOf
  unfold Part.holdsOp
  rcases h.cls with hc | hc <;> rw [hc] at hmem <;> simp only [Part.opsOf] at hmem <;> simp [hmem]

/-! ### What is left of its performance (09 R216, 12 R281) -/

/-- A step before the write of the results: the operation may be marked, a region may have begun in its part and cores may have changed; nothing else
that a completion looks at differs. -/
structure Prepared (s u : State) (o : MemOp) (a : Access) (w : Wave) (p : Part) (o' : MemOp) (w' : Wave) (p' : Part) : Prop where
  returning : Returning u o' a w' p'
  op : o' = { o with acted := o'.acted }
  wave : w' = { w with parts := [p'], raysAtRegion := w'.raysAtRegion }
  part : p' = { p with region := p'.region, regionAt := p'.regionAt, regionCount := p'.regionCount }
  mem : u.mem = s.mem
  scratch : u.scratch = s.scratch
  dcc : u.dcc = s.dcc
  others : ∀ k, k ≠ o.key → u.wave? k = s.wave? k

/-- The steps before the write of the results leave an operation ready for it. -/
def Prepares (s u : State) (o : MemOp) (a : Access) (w : Wave) (p : Part) : Prop := ∃ o' w' p', Prepared s u o a w p o' w' p'

section
variable {s : State} {o : MemOp} {a : Access} {w : Wave} {p : Part}

theorem Returning.prepares_self (h : Returning s o a w p) : Prepares s s o a w p := by
  refine ⟨o, w, p, h, rfl, ?_, rfl, rfl, rfl, rfl, fun _ _ => rfl⟩
  rw [← h.parts]

/-- The operation once it has acted. -/
def MemOp.marked (o : MemOp) : MemOp := { o with acted := true }

/-- A state in which an operation is marked, and cores and fragments at most have changed. -/
def Acted (s u : State) (o : MemOp) : Prop := u = { s.updOp o.id MemOp.marked with cores := u.cores, frags := u.frags }

theorem Acted.of_coresOnly {t u : State} (ht : CoresOnly s t) (hu : CoresOnly (t.updOp o.id MemOp.marked) u) : Acted s u o := by
  rw [Acted, hu, ht]
  rfl

/-- Changes in cores and fragments and the mark of an operation that has acted. -/
theorem Returning.prepares_acted (h : Returning s o a w p) {u : State} (hu : Acted s u o) : Prepared s u o a w p o.marked w p where
  returning :=
    { h with
      found := by
        have hop := op?_updOp h.found MemOp.marked (fun _ => rfl)
        rwa [hu]
      back := by rw [hu]; exact h.back
      due := by rw [hu]; exact h.due
      posted := by rw [hu]; exact h.posted
      wave := by rw [hu]; exact h.wave }
  op := rfl
  wave := by rw [← h.parts]
  part := rfl
  mem := by rw [hu]; rfl
  scratch := by rw [hu]; rfl
  dcc := by rw [hu]; rfl
  others := fun k _ => by rw [hu]; rfl

/-- The part of an operation in the region behind it. -/
def MemOp.partBehind (o : MemOp) (p : Part) (now : Nat) : Part := { p.enterRegion o.next true now with regionAt := o.issued }

/-- The part that holds an operation begins a region behind it. -/
theorem Returning.regionBehind (h : Returning s o a w p) :
    ∃ w', WaveChange o.key s (s.regionBehind o) ∧ (s.regionBehind o).wave? o.key = some w'
      ∧ w' = { w with parts := [o.partBehind p s.dcc], raysAtRegion := w'.raysAtRegion } := by
  let r : PartRef := { core := o.core, slot := o.slot, base := p.base }
  have hkey : o.key = r.key := rfl
  have hone : w.parts.filter (fun p => p.holdsOp o.id) = [p] := by
    rw [h.parts]
    exact List.filter_cons_of_pos h.holdsOp
  have hbehind : s.regionBehind o = (s.beginRegion r o.next true).updPart r (fun q => { q with regionAt := o.issued }) := by
    rw [State.regionBehind, h.opWave]
    dsimp only
    rw [hone]
    rfl
  obtain ⟨v, hv, heq⟩ := recordRays_wave (s := s.updPart r (fun p => p.enterRegion o.next true s.dcc)) (wave?_updWave_some (k := r.key) h.wave _)
  generalize v.raysAtRegion = rays at heq
  subst heq
  have hparts : (w.updPart r.base (fun p => p.enterRegion o.next true s.dcc)).parts = [p.enterRegion o.next true s.dcc] :=
    updPart_parts_of_one h.parts _
  have hlast : ((w.updPart r.base (fun p => p.enterRegion o.next true s.dcc)).updPart r.base (fun q => { q with regionAt := o.issued })).parts
      = [o.partBehind p s.dcc] := updPart_parts_of_one (p := p.enterRegion o.next true s.dcc) hparts _
  rw [hbehind, hkey]
  refine ⟨_, (waveChange_beginRegion ..).trans (waveChange_updPart ..), wave?_updWave_some hv _, ?_⟩
  rw [← hlast]
  rfl

/-- An operation that is marked, and behind which a region begins. -/
theorem Returning.prepares_region (h : Returning s o a w p) {u : State} (hu : Acted s u o) :
    Prepares s (u.regionBehind o) o a w p := by
  have hacted := h.prepares_acted hu
  have hr := hacted.returning
  obtain ⟨w', hchange, hwave, hw'⟩ := hr.regionBehind
  refine ⟨o.marked, w', o.marked.partBehind p u.dcc, ?_, rfl, hw', rfl, ?_, ?_, ?_, fun k hk => (hchange.others k hk).trans (hacted.others k hk)⟩
  · exact
      { found := (hchange.op? _).trans hr.found
        accs := hr.accs
        phase := hr.phase
        back := hchange.dcc.symm ▸ hr.back
        due := hchange.dcc.symm ▸ hr.due
        parked := hr.parked
        posted := hchange.posted.symm ▸ hr.posted
        wave := hwave
        admission := by rw [hw']; exact hr.admission
        parts := by rw [hw']
        oldest := by
          have hold := hr.oldest
          rcases hr.cls with hc | hc <;> rw [hc] at hold ⊢ <;> exact hold
        cls := hr.cls }
  · exact hchange.mem.trans hacted.mem
  · exact hchange.scratch.trans hacted.scratch
  · exact hchange.dcc.trans hacted.dcc

theorem coresOnly_freeLog (s : State) (id : Nat) : CoresOnly s (s.freeLog id) := by
  unfold State.freeLog
  split <;> rfl

theorem Returning.none_open (h : Returning s o a w p) : o.accs.any Access.isOpen = false := by
  simp [h.accs, Access.isOpen, h.phase]

/-- Nothing of it is left to perform. -/
theorem Returning.performLanes (h : Returning s o a w p) : (s.startRelease o.id).performLanes o.id (o.accs.map (fun a => a.lane)) = s := by
  have hno : s.releaseDueAt o = false := by simp [State.releaseDueAt, h.none_open]
  have hcan : s.canPerform o a = false := by simp [State.canPerform, h.phase]
  have hfind : [a].find? (fun b => b.lane == a.lane) = some a := List.find?_cons_of_pos (beq_self_eq_true a.lane)
  have hstart : s.startRelease o.id = s := by
    rw [State.startRelease, h.found]
    exact if_neg (by simp [hno])
  rw [hstart, h.accs, List.map_singleton, State.performLanes, h.found]
  dsimp only
  rw [h.accs, hfind]
  dsimp only
  rw [hcan]
  rfl

theorem Returning.performOp (h : Returning s o a w p) : Prepares s (s.performOp o.id) o a w p := by
  rw [State.performOp, h.found]
  dsimp only
  rw [h.performLanes]
  split
  · have hfree := coresOnly_freeLog s o.id
    have hstill : (s.freeLog o.id).op? o.id = some o := by rw [hfree]; exact h.found
    rw [State.afterPerform, hstill]
    dsimp only
    split
    · refine ⟨o, w, p, ?_, rfl, by rw [← h.parts], rfl, hfree.mem, by rw [hfree], hfree.dcc, fun k _ => hfree.wave? k⟩
      exact
        { h with
          found := hstill
          back := by rw [hfree.dcc]; exact h.back
          due := by rw [hfree.dcc]; exact h.due
          posted := by rw [hfree]; exact h.posted
          wave := (hfree.wave? _).trans h.wave }
    · have hcores : CoresOnly ((s.freeLog o.id).updOp o.id MemOp.marked) (if o.ord % 2 = 1
          then ((s.freeLog o.id).updOp o.id MemOp.marked).acquireL1 o.core o.scope
          else (s.freeLog o.id).updOp o.id MemOp.marked) := by
        split
        · exact coresOnly_acquireL1 ..
        · rfl
      have hacted := Acted.of_coresOnly hfree hcores
      split
      · exact h.prepares_region hacted
      · exact ⟨_, _, _, h.prepares_acted hacted⟩
  · exact h.prepares_self

/-! ### The write of its results (09 R223) -/

/-- The operation with its results taken. -/
def MemOp.taken (now : Nat) (o : MemOp) : MemOp := { o with accs := o.accs.map (fun a => if a.returned now then { a with phase := .back } else a) }

/-- The wave's vector registers after the results of an operation that are back. -/
def MemOp.written (o : MemOp) (w : Wave) (now : Nat) : Wave :=
  w.setVs (o.writes now).1 (keepHeldRegs w (o.writes now).1 (o.writes now).2)

/-- A part after the uniform results that are back. -/
def MemOp.setUniform (o : MemOp) (now : Nat) (p : Part) : Part := (o.uniformWrites now).foldl (fun p e => p.setS e.1 e.2) p

theorem setUniform_eq (o : MemOp) (now : Nat) (p : Part) :
    o.setUniform now p = { p with regs := { p.regs with sregs := (o.setUniform now p).regs.sregs } } := by
  unfold MemOp.setUniform
  generalize o.uniformWrites now = us
  induction us generalizing p with
  | nil => rfl
  | cons e r ih =>
    rw [List.foldl_cons, ih]
    rfl

theorem Returning.taken_accs (h : Returning s o a w p) : (o.taken s.dcc).accs = [{ a with phase := .back }] := by
  have hback : a.returned s.dcc = true := by simp [Access.returned, h.phase, h.back]
  rw [MemOp.taken, h.accs, List.map_singleton, if_pos hback]

/-- A wave in which the results of an operation land, `w` being the operation's as they come back. -/
def MemOp.landIn (o : MemOp) (now : Nat) (w v : Wave) : Wave :=
  let u := v.setVs (o.writes now).1 (keepHeldRegs w (o.writes now).1 (o.writes now).2)
  { u with parts := u.parts.map (fun p => if p.holdsOp o.id then o.setUniform now p else p) }

theorem Returning.writeBack_eq (h : Returning s o a w p) :
    s.writeBack o.id = (s.updOp o.id (MemOp.taken s.dcc)).updWave o.key (o.landIn s.dcc w) := by
  have hwave : (s.updOp o.id (MemOp.taken s.dcc)).opWave o = some w := h.opWave
  unfold MemOp.taken at *
  rw [State.writeBack, h.found]
  dsimp only
  rw [hwave]
  rfl

theorem Returning.landIn (h : Returning s o a w p) : o.landIn s.dcc w w = { o.written w s.dcc with parts := [o.setUniform s.dcc p] } := by
  simp only [MemOp.landIn, MemOp.written, Wave.setVs_parts, h.parts, List.map_singleton, h.holdsOp, if_true]

/-- What a completion makes of an operation that stands in a state: nothing, or the end of it. -/
def State.endOp (s : State) (id : Nat) : State :=
  match s.op? id with
  | none => s
  | some o => if s.opOver o then s.retire o else s

theorem advanceOp_eq (s : State) (id : Nat) : s.advanceOp id = ((s.performOp id).writeBack id).endOp id := rfl

/-- The part of an operation that has completed. -/
def MemOp.partAfter (o : MemOp) (now : Nat) (p : Part) : Part := ((o.setUniform now p).arriveStatus now o.status).dropOp o.id

/-- The results of an operation are written, and it is counted no longer; nothing else differs. -/
structure Completed (s t : State) (o : MemOp) (w : Wave) (p : Part) : Prop where
  wave : t.wave? o.key = some { o.written w s.dcc with parts := [o.partAfter s.dcc p] }
  gone : t.op? o.id = none
  mem : t.mem = s.mem
  scratch : t.scratch = s.scratch
  others : ∀ k, k ≠ o.key → t.wave? k = s.wave? k

/-- A wave without an operation that has ended. -/
def MemOp.leave (o : MemOp) (now : Nat) (w : Wave) : Wave :=
  { w with parts := w.parts.map (fun (p : Part) => (if p.holdsOp o.id then p.arriveStatus now o.status else p).dropOp o.id) }

theorem Returning.writeBack_change (h : Returning s o a w p) : WaveChange o.key (s.updOp o.id (MemOp.taken s.dcc)) (s.writeBack o.id) := by
  rw [h.writeBack_eq]
  exact waveChange_updWave ..

theorem Returning.writeBack_op (h : Returning s o a w p) : (s.writeBack o.id).op? o.id = some (o.taken s.dcc) :=
  (h.writeBack_change.op? _).trans (op?_updOp h.found (MemOp.taken s.dcc) (fun _ => rfl))

theorem Returning.writeBack_wave (h : Returning s o a w p) :
    (s.writeBack o.id).wave? o.key = some { o.written w s.dcc with parts := [o.setUniform s.dcc p] } := by
  have hwave : (s.updOp o.id (MemOp.taken s.dcc)).wave? o.key = some w := h.wave
  rw [h.writeBack_eq, wave?_updWave_some hwave, h.landIn]

theorem Returning.writeBack_opWave (h : Returning s o a w p) :
    (s.writeBack o.id).opWave (o.taken s.dcc) = some { o.written w s.dcc with parts := [o.setUniform s.dcc p] } := by
  have hkey : (o.taken s.dcc).key = o.key := rfl
  rw [State.opWave, hkey, h.writeBack_wave]
  exact if_pos ((Wave.setVs_admission ..).trans h.admission)

theorem setUniform_opsOf (o : MemOp) (now : Nat) (p : Part) (k : Cls) : (o.setUniform now p).opsOf k = p.opsOf k := by
  rw [setUniform_eq]
  cases k <;> rfl

theorem setUniform_holdsOp (o : MemOp) (now : Nat) (p : Part) (id : Nat) : (o.setUniform now p).holdsOp id = p.holdsOp id := by
  rw [setUniform_eq]
  rfl

/-- Once its results are written, nothing of it is left to do. -/
theorem Returning.over (h : Returning s o a w p) : (s.writeBack o.id).opOver (o.taken s.dcc) = true := by
  have hnone : s.posted.any (fun q => q.op == some o.id) = false := List.any_eq_false.mpr (fun q hq => by simpa using h.posted q hq)
  have hhead : headOfClass { o.written w s.dcc with parts := [o.setUniform s.dcc p] } (o.taken s.dcc) = true := by
    simp [headOfClass, MemOp.taken, setUniform_opsOf, h.oldest]
  rw [State.opOver, h.taken_accs, h.writeBack_opWave]
  dsimp only
  rw [hhead, h.writeBack_change.posted, h.writeBack_change.dcc]
  simp [Access.ended, MemOp.taken, h.due, h.parked, hnone]

theorem Returning.endOp_eq (h : Returning s o a w p) :
    (s.writeBack o.id).endOp o.id = ((s.writeBack o.id).updWave o.key (o.leave s.dcc)).dropOp o.id := by
  rw [State.endOp, h.writeBack_op]
  dsimp only
  rw [if_pos h.over, State.retire, h.writeBack_opWave, h.writeBack_change.dcc]
  rfl

theorem Returning.completes (h : Returning s o a w p) : Completed s ((s.writeBack o.id).endOp o.id) o w p := by
  have hall := h.writeBack_change.trans (waveChange_updWave (s.writeBack o.id) o.key (o.leave s.dcc))
  rw [h.endOp_eq]
  refine ⟨(wave?_updWave_some h.writeBack_wave _).trans ?_, op?_dropOp .., hall.mem, hall.scratch, fun k hk => hall.others k hk⟩
  simp only [MemOp.leave, List.map_singleton, setUniform_holdsOp, h.holdsOp, if_true]
  rfl

end

end Sys2Proof.Machine
end

section
/-! SUPPORT. The registers that a completion leaves: the destination's in the lanes of the result, or the uniform one, and every other as before
(05 R117, 08 R205, 09 R223, R224). -/

namespace Sys2Proof.Machine

/-! ### What a completion leaves -/

theorem setUniform_regs (o : MemOp) (now : Nat) (p : Part) :
    (o.setUniform now p).regs = (o.uniformWrites now).foldl (fun r e => r.setS e.1 e.2) p.regs := by
  unfold MemOp.setUniform
  generalize o.uniformWrites now = us
  induction us generalizing p with
  | nil => rfl
  | cons e r ih => exact ih _

/-- Writes of vector registers go by the registers of a wave alone. -/
theorem setVs_congr {w v : Wave} (hregs : w.vregs = v.vregs) (hdirty : w.dirty = v.dirty) (depth : Nat) (ws : List (Nat × Nat × W32)) :
    (w.setVs depth ws).vregs = (v.setVs depth ws).vregs ∧ (w.setVs depth ws).dirty = (v.setVs depth ws).dirty := by
  induction ws generalizing w v with
  | nil => exact ⟨hregs, hdirty⟩
  | cons e r ih =>
    obtain ⟨l, n, x⟩ := e
    exact ih (by simp only [Wave.setV, hregs]) (by simp only [Wave.setV, hdirty])

/-- An operation has ended: its results stand in the wave, whose one part counts it no longer. -/
structure EndedIn (s t : State) (o : MemOp) (w : Wave) (p : Part) (w' : Wave) (p' : Part) : Prop where
  wave : t.wave? o.key = some w'
  gone : t.op? o.id = none
  mem : t.mem = s.mem
  scratch : t.scratch = s.scratch
  others : ∀ k, k ≠ o.key → t.wave? k = s.wave? k
  parts : w'.parts = [p']
  counted : p'.opsOf o.cls = (p.opsOf o.cls).filter (fun i => i != o.id)
  fpstat : p'.regs.fpstat = p.regs.fpstat
  pc : p'.pc = p.pc
  vregs : w'.vregs = (o.written w s.dcc).vregs
  dirty : w'.dirty = (o.written w s.dcc).dirty
  sregs : p'.regs.sregs = (o.setUniform s.dcc p).regs.sregs

theorem Prepared.ends {s u : State} {o o' : MemOp} {a : Access} {w w' : Wave} {p p' : Part} (h : Prepared s u o a w p o' w' p') :
    EndedIn s ((u.writeBack o.id).endOp o.id) o w p { o'.written w' u.dcc with parts := [o'.partAfter u.dcc p'] } (o'.partAfter u.dcc p') := by
  obtain ⟨hr, ho, hw, hp, hmem, hscratch, hdcc, hothers⟩ := h
  have hid : o'.id = o.id := by rw [ho]
  have hkey : o'.key = o.key := by rw [ho]; rfl
  have hcls : o'.cls = o.cls := by rw [ho]
  have hwrites : o'.writes u.dcc = o.writes s.dcc := by rw [ho, hdcc]; rfl
  have hus : o'.uniformWrites u.dcc = o.uniformWrites s.dcc := by rw [ho, hdcc]; rfl
  have hallot : keepHeldRegs w' = keepHeldRegs w := by rw [hw]; rfl
  have hcomplete := hr.completes
  have hset := setUniform_eq o' u.dcc p'
  have hregs : (o'.setUniform u.dcc p').regs = (o.setUniform s.dcc p).regs := by
    rw [setUniform_regs, setUniform_regs, hus, hp]
  have hvregs := setVs_congr (w := w') (v := w) (by rw [hw]) (by rw [hw]) (o.writes s.dcc).1 (keepHeldRegs w (o.writes s.dcc).1 (o.writes s.dcc).2)
  rw [hid] at hcomplete
  refine ⟨hkey ▸ hcomplete.wave, hid ▸ hcomplete.gone, hcomplete.mem.trans hmem, hcomplete.scratch.trans hscratch,
    fun k hk => (hcomplete.others k (hkey.symm ▸ hk)).trans (hothers k hk), rfl, ?_, ?_, ?_, ?_, ?_, ?_⟩
  · have hops : ∀ k, (o'.setUniform u.dcc p').opsOf k = p.opsOf k := by
      intro k
      rw [setUniform_opsOf, hp]
      cases k <;> rfl
    have hkind := hcls ▸ hr.cls
    rw [← hops, ← hid]
    rcases hkind with hc | hc <;> rw [hc] <;> rfl
  · show (o'.setUniform u.dcc p').regs.fpstat = _
    rw [hset, hp]
  · show (o'.setUniform u.dcc p').pc = _
    rw [hset, hp]
  · show (o'.written w' u.dcc).vregs = _
    rw [MemOp.written, hwrites, hallot]
    exact hvregs.1
  · show (o'.written w' u.dcc).dirty = _
    rw [MemOp.written, hwrites, hallot]
    exact hvregs.2
  · show (o'.setUniform u.dcc p').regs.sregs = _
    exact congrArg PartRegs.sregs hregs

section
variable {s : State} {o : MemOp} {a : Access} {w : Wave} {p : Part}

/-- No lane of a unit's operation is left to evaluate. -/
theorem Returning.runUnit (h : Returning s o a w p) : s.runUnit o.id (o.accs.map (fun a => a.lane)) = s := by
  have hdue : s.laneDue o a = false := by simp [State.laneDue, h.phase]
  have hfind : [a].find? (fun b => b.lane == a.lane && s.laneDue o b) = none := by simp [hdue]
  rw [h.accs, List.map_singleton, State.runUnit, h.found]
  dsimp only
  rw [h.accs, hfind]
  rfl

theorem Returning.ld_ends (h : Returning s o a w p) (hc : o.cls = .ld) :
    ∃ t w' p', exec (.ldCompletion o.id) s = .next t ∧ EndedIn s t o w p w' p' := by
  obtain ⟨o', w', p', hprep⟩ := h.performOp
  refine ⟨_, _, _, ?_, hprep.ends⟩
  show execLdCompletion o.id s = _
  rw [execLdCompletion, h.found]
  dsimp only
  rw [if_pos hc, h.runUnit, ite_self]
  rfl

/-- An operation that is no access of plain memory has nothing to perform. -/
theorem Prepared.performOp_idle {u : State} {o' : MemOp} {w' : Wave} {p' : Part} (h : Prepared s u o a w p o' w' p') (hkind : o.kind.plain = false) :
    u.performOp o.id = u := by
  have hid : o'.id = o.id := by rw [h.op]
  have hkind' : o'.kind.plain = false := by rw [h.op]; exact hkind
  rw [State.performOp, ← hid, h.returning.found]
  exact if_neg (by simp [hkind'])

/-- The outputs of an operation are queued, if it has any, before the rest of its completion. -/
theorem Returning.queueOutput (h : Returning s o a w p) : Prepares s ((s.queueOutput o.id).performOp o.id) o a w p := by
  have hqueue : s.queueOutput o.id = s ∨ o.kind.plain = false ∧ Prepares s (s.queueOutput o.id) o a w p := by
    rw [State.queueOutput, h.found]
    dsimp only
    split
    · exact .inl rfl
    · split
      · next ws hkind => exact .inr ⟨by rw [hkind]; rfl, h.prepares_region rfl⟩
      · exact .inl rfl
  rcases hqueue with hsame | ⟨hplain, o', w', p', hprep⟩
  · rw [hsame]
    exact h.performOp
  · rw [hprep.performOp_idle hplain]
    exact ⟨o', w', p', hprep⟩

theorem Returning.st_ends (h : Returning s o a w p) (hc : o.cls = .st) :
    ∃ t w' p', exec (.stCompletion o.id) s = .next t ∧ EndedIn s t o w p w' p' := by
  obtain ⟨o', w', p', hprep⟩ := h.queueOutput
  refine ⟨_, _, _, ?_, hprep.ends⟩
  show execStCompletion o.id s = _
  rw [execStCompletion, h.found]
  exact if_pos hc

end

end Sys2Proof.Machine
end

section
/-! SUPPORT. The registers that a completion writes: the destination's in the lanes of the result, or the uniform one, and no other
(05 R117, 08 R205, 09 R223), and `waitc` (09 R224). -/

namespace Sys2Proof.Machine

/-! ### Values in lanes -/

/-- Writes of `n` registers from `dst` on in some lanes. -/
def laneWrites (lanes : List Nat) (dst n : Nat) (val : Nat → Nat → W32) : List (Nat × Nat × W32) :=
  lanes.flatMap (fun l => (List.range n).map (fun k => (l, dst + k, val l k)))

theorem mem_laneWrites {lanes : List Nat} {dst n : Nat} {val : Nat → Nat → W32} {e : Nat × Nat × W32} :
    e ∈ laneWrites lanes dst n val ↔ ∃ l ∈ lanes, ∃ k < n, e = (l, dst + k, val l k) := by
  simp [laneWrites, eq_comm]

theorem loadWrites_eq (lane dst n : Nat) (data : List Byte) :
    loadWrites lane dst n data = laneWrites [lane] dst n (fun _ k => BitVec.ofNat 32 (natOfBytes data / 2 ^ (32 * k))) := by
  simp [loadWrites, regWrites_eq, laneWrites]

/-- No write goes to a register that the wave has released. -/
theorem keepHeldRegs_laneWrites {w : Wave} {depth dst n : Nat} (h : depth ≠ 0 ∨ dst + n ≤ w.allot) (lanes : List Nat) (val : Nat → Nat → W32) :
    keepHeldRegs w depth (laneWrites lanes dst n val) = laneWrites lanes dst n val := by
  unfold keepHeldRegs
  split
  · next hzero =>
    refine List.filter_eq_self.mpr (fun e he => ?_)
    obtain ⟨l, -, k, hk, rfl⟩ := mem_laneWrites.mp he
    refine decide_eq_true ?_
    dsimp only
    omega
  · rfl

/-- Each register of each lane holds its value after writes in some lanes. -/
theorem v_setVs_laneWrites {lanes : List Nat} (hlanes : ∀ l ∈ lanes, l < 64) {dst n : Nat} (hn : dst + n ≤ 512) (val : Nat → Nat → W32) (w : Wave)
    (depth : Nat) {l k : Nat} (hl : l ∈ lanes) (hk : k < n) : (w.setVs depth (laneWrites lanes dst n val)).v depth l (dst + k) = val l k := by
  refine v_setVs_agree w depth _ ⟨_, mem_laneWrites.mpr ⟨l, hl, k, hk, rfl⟩, rfl⟩ (fun e he hkey => ?_)
  obtain ⟨l', hl', k', hk', rfl⟩ := mem_laneWrites.mp he
  obtain ⟨-, hlane, hreg⟩ := vKey_inj (hlanes l' hl') (hlanes l hl) (Nat.lt_of_lt_of_le (Nat.add_lt_add_left hk' dst) hn) (by omega) hkey
  dsimp only at hlane hreg ⊢
  rw [hlane, Nat.add_left_cancel hreg]

/-- Every other register is as before. -/
theorem v_setVs_laneWrites_other {lanes : List Nat} (hlanes : ∀ l ∈ lanes, l < 64) {dst n : Nat} (hn : dst + n ≤ 512) (val : Nat → Nat → W32) (w : Wave)
    {depth d l m : Nat} (hl : l < 64) (hm : m < 512) (hne : d ≠ depth ∨ l ∉ lanes ∨ m < dst ∨ dst + n ≤ m) :
    (w.setVs depth (laneWrites lanes dst n val)).v d l m = w.v d l m := by
  refine Wave.v_setVs_of_ne _ _ _ (fun e he hkey => ?_)
  obtain ⟨l', hl', k, hk, rfl⟩ := mem_laneWrites.mp he
  obtain ⟨hdepth, hlane, hreg⟩ := vKey_inj hl (hlanes l' hl') hm (Nat.lt_of_lt_of_le (Nat.add_lt_add_left hk dst) hn) hkey
  subst hlane
  rcases hne with hne | hne | hne
  · exact hne hdepth
  · exact hne hl'
  · omega

/-! ### What an operation that has ended leaves in the registers -/

section
variable {s t : State} {o : MemOp} {a : Access} {w w' : Wave} {p p' : Part}

theorem Returning.back_accs (h : Returning s o a w p) : o.accs.filter (Access.returned s.dcc) = [a] := by
  have hback : a.returned s.dcc = true := by simp [Access.returned, h.phase, h.back]
  rw [h.accs]
  exact List.filter_cons_of_pos hback

theorem v_congr {w v : Wave} (h : w.vregs = v.vregs) (d l n : Nat) : w.v d l n = v.v d l n := by
  rw [Wave.v, Wave.v, h]

/-- Results in lanes. -/
theorem EndedIn.v_laneWrites (h : EndedIn s t o w p w' p') {lanes : List Nat} (hlanes : ∀ l ∈ lanes, l < 64) {depth dst n : Nat} (hn : dst + n ≤ 512)
    (hheld : depth ≠ 0 ∨ dst + n ≤ w.allot) {val : Nat → Nat → W32} (hwrites : o.writes s.dcc = (depth, laneWrites lanes dst n val)) :
    (∀ l ∈ lanes, ∀ k < n, w'.v depth l (dst + k) = val l k)
    ∧ ∀ d l m, l < 64 → m < 512 → d ≠ depth ∨ l ∉ lanes ∨ m < dst ∨ dst + n ≤ m → w'.v d l m = w.v d l m := by
  have hv := v_congr h.vregs
  rw [MemOp.written, hwrites, keepHeldRegs_laneWrites hheld] at hv
  exact ⟨fun l hl k hk => (hv ..).trans (v_setVs_laneWrites hlanes hn val w depth hl hk),
    fun d l m hl hm hne => (hv ..).trans (v_setVs_laneWrites_other hlanes hn val w hl hm hne)⟩

/-- No result in a lane. -/
theorem EndedIn.sameVregs (h : EndedIn s t o w p w' p') (hwrites : o.writes s.dcc = (0, [])) : SameVregs w w' := by
  have hsame : o.written w s.dcc = w := by
    rw [MemOp.written, hwrites]
    rfl
  exact ⟨hsame ▸ h.vregs, hsame ▸ h.dirty⟩

/-- No uniform result. -/
theorem EndedIn.sameSregs (h : EndedIn s t o w p w' p') (hus : o.uniformWrites s.dcc = []) : ∀ q ∈ w'.parts, ∀ n, q.regs.sreg n = p.regs.sreg n := by
  intro q hq n
  rw [h.parts, List.mem_singleton] at hq
  subst hq
  rw [PartRegs.sreg, PartRegs.sreg, h.sregs, MemOp.setUniform, hus]
  rfl

/-- A uniform result. -/
theorem EndedIn.sreg_written (h : EndedIn s t o w p w' p') {d : Nat} {v : W64} (hus : o.uniformWrites s.dcc = [(d, v)]) :
    ∀ q ∈ w'.parts, q.regs.sreg d = v ∧ ∀ n, n ≠ d → q.regs.sreg n = p.regs.sreg n := by
  intro q hq
  rw [h.parts, List.mem_singleton] at hq
  subst hq
  have hset : q.regs.sregs = setT 0 p.regs.sregs d v := by
    rw [h.sregs, MemOp.setUniform, hus]
    rfl
  refine ⟨?_, fun n hn => ?_⟩
  · rw [PartRegs.sreg, hset, getT_setT_self]
  · rw [PartRegs.sreg, hset, getT_setT_of_ne _ _ _ hn]
    rfl

/-- What a statement about a completion says of every operation. -/
theorem EndedIn.says (h : EndedIn s t o w p w' p') : t.wave? o.key = some w' ∧ t.op? o.id = none ∧ t.mem = s.mem ∧ t.scratch = s.scratch
    ∧ (∀ k, k ≠ o.key → t.wave? k = s.wave? k)
    ∧ ∃ p', w'.parts = [p'] ∧ p'.opsOf o.cls = (p.opsOf o.cls).filter (fun i => i != o.id) ∧ p'.regs.fpstat = p.regs.fpstat ∧ p'.pc = p.pc :=
  ⟨h.wave, h.gone, h.mem, h.scratch, h.others, p', h.parts, h.counted, h.fpstat, h.pc⟩

/-- The kinds of operation whose result goes to registers of the access's lane. -/
def MemOp.ToLane (o : MemOp) (depth dst n : Nat) (a : Access) : Prop :=
  o.kind = .load depth dst n ∨ o.kind = .scratchLoad depth dst n ∨ (∃ q, o.kind = .unit depth dst n q)
    ∨ (n = a.size / 4 ∧ ((∃ op, o.kind = .atom op (some (depth, dst))) ∨ o.kind = .scratchAtom (some (depth, dst))))

theorem Returning.writes_toLane (h : Returning s o a w p) {depth dst n : Nat} (hkind : o.ToLane depth dst n a) :
    o.writes s.dcc = (depth, laneWrites [a.lane] dst n (fun _ k => BitVec.ofNat 32 (natOfBytes a.data / 2 ^ (32 * k)))) ∧ o.uniformWrites s.dcc = [] := by
  have hback := h.back_accs
  rcases hkind with hk | hk | ⟨q, hk⟩ | ⟨rfl, ⟨op, hk⟩ | hk⟩ <;>
    exact ⟨by rw [MemOp.writes, hk, ← loadWrites_eq]; simp [hback], by rw [MemOp.uniformWrites, hk]⟩

/-- The kinds of operation without a result. -/
def MemOp.NoResult (o : MemOp) : Prop :=
  o.kind = .store ∨ o.kind = .scratchStore ∨ o.kind = .meshOut ∨ (∃ op, o.kind = .atom op none) ∨ o.kind = .scratchAtom none
    ∨ (∃ v, o.kind = .qenq v) ∨ (∃ k b, o.kind = .chsend k b) ∨ ∃ ws, o.kind = .output ws

theorem MemOp.NoResult.writes (hkind : o.NoResult) (now : Nat) : o.writes now = (0, []) ∧ o.uniformWrites now = [] := by
  rcases hkind with hk | hk | hk | ⟨op, hk⟩ | hk | ⟨v, hk⟩ | ⟨k, b, hk⟩ | ⟨ws, hk⟩ <;>
    exact ⟨by rw [MemOp.writes, hk], by rw [MemOp.uniformWrites, hk]⟩

end

/-! ### `waitc` (09 R224) -/

theorem waitc_completes (r : RWord) : PartResult (.waitc r)
    (fun s c => Free c r.s true none none ∧ c.part.count (clsOf r.d.toNat) ≤ r.b.toNat
      ∧ (clsOf r.d.toNat = .st → s.partLogged c.ref.core c.part = false)
      ∧ c.part.waitcFailure (clsOf r.d.toNat) r.b.toNat = none)
    (fun s c => c.part.past c 4 s.dcc) := by
  refine partResult_of (fun s c hi hready => ?_)
  obtain ⟨free, hcount, hlogged, hfail⟩ := hready
  refine ⟨_, issue_next _ _ c s hi (by simp) rfl rfl free, ?_⟩
  have hst : ¬ (clsOf r.d.toNat = .st ∧ s.partLogged c.ref.core c.part = true) := fun h => by simp [hlogged h.1] at h
  dsimp only
  rw [if_neg (by omega), if_neg hst, hfail]
  exact (partBecomes_refl hi).done 4

end Sys2Proof.Machine
end

section
/-! SUPPORT. The statement about the completion of operations. -/

open Sys2Proof Sys2Proof.Machine

/-- Settles O25, from the end of an operation whose only access is back, and what its kind writes. -/
theorem completions : Obligations.Completions := by
  unfold Obligations.Completions
  refine ⟨fun s o a w p hfound haccs hphase hback hdue hparked hposted hwave hadmission hparts holdest => ?_, waitc_completes⟩
  have hr := fun hcls => Returning.mk hfound haccs hphase hback hdue hparked hposted hwave hadmission hparts holdest hcls
  refine ⟨fun depth dst n hc hn hheld hlane hkind => ?_, fun key depth dst n act hc hkind hn hheld => ?_, fun d hc hkind => ?_, fun hc hkind => ?_⟩
  · obtain ⟨t, w', p', ht, hend⟩ := (hr (.inl hc)).ld_ends hc
    obtain ⟨hwrites, hus⟩ := (hr (.inl hc)).writes_toLane hkind
    obtain ⟨hhere, hother⟩ := hend.v_laneWrites (by simpa using hlane) hn hheld hwrites
    exact ⟨t, w', ht, hend.says, hend.sameSregs hus, hhere a.lane List.mem_cons_self,
      fun d l m hl hm hne => hother d l m hl hm (by simpa using hne)⟩
  · obtain ⟨t, w', p', ht, hend⟩ := (hr (.inl hc)).ld_ends hc
    have hwrites : o.writes s.dcc = (depth, laneWrites (lanesOf act) dst n
        (fun l k => BitVec.ofNat 32 (natOfBytes ((a.data.drop (4 * (k * a.size + (l - a.lane)))).take 4)))) := by
      rw [MemOp.writes, hkind]
      simp [(hr (.inl hc)).back_accs, laneWrites]
    have hus : o.uniformWrites s.dcc = [] := by rw [MemOp.uniformWrites, hkind]
    have hmem : ∀ l, l ∈ lanesOf act ↔ l < 64 ∧ act.getLsbD l = true := by simp [lanesOf]
    obtain ⟨hhere, hother⟩ := hend.v_laneWrites (fun l hl => ((hmem l).mp hl).1) hn hheld hwrites
    exact ⟨t, w', ht, hend.says, hend.sameSregs hus, fun l hl hact => hhere l ((hmem l).mpr ⟨hl, hact⟩),
      fun d l m hl hm hne => hother d l m hl hm (by simpa [hmem, hl] using hne)⟩
  · obtain ⟨t, w', p', ht, hend⟩ := (hr (.inl hc)).ld_ends hc
    have hwrites : o.writes s.dcc = (0, []) := by rcases hkind with hk | hk <;> rw [MemOp.writes, hk]
    have hus : o.uniformWrites s.dcc = [(d, BitVec.ofNat 64 (natOfBytes a.data))] := by
      rcases hkind with hk | hk <;> rw [MemOp.uniformWrites, hk] <;> simp [(hr (.inl hc)).back_accs]
    exact ⟨t, w', ht, hend.says, hend.sameVregs hwrites, hend.sreg_written hus⟩
  · obtain ⟨t, w', p', ht, hend⟩ := (hr (.inr hc)).st_ends hc
    obtain ⟨hwrites, hus⟩ := MemOp.NoResult.writes hkind s.dcc
    exact ⟨t, w', ht, hend.says, hend.sameVregs hwrites, hend.sameSregs hus⟩

end

section
/-! SUPPORT. The issue of a global access: what the memory unit changes as it takes an operation, and the operation that the part counts from then on
(20 R445, 22 R481, R494, 19 R398-R401). -/

namespace Sys2Proof.Machine

/-! ### What the memory unit's lookups change -/

/-- Nothing differs but caches, walks and write-backs under way: what the lookups of a new operation may change. -/
structure UnitOnly (s t : State) : Prop where
  eq : t = { s with cores := t.cores, dies := t.dies, walks := t.walks, nextId := t.nextId, backs := t.backs }

theorem UnitOnly.refl (s : State) : UnitOnly s s := ⟨rfl⟩
theorem UnitOnly.trans {s t u : State} (h : UnitOnly s t) (h' : UnitOnly t u) : UnitOnly s u := ⟨by rw [h'.eq, h.eq]⟩
theorem UnitOnly.ops {s t : State} (h : UnitOnly s t) : t.ops = s.ops := by rw [h.eq]
theorem UnitOnly.wave? {s t : State} (h : UnitOnly s t) (k : Nat) : t.wave? k = s.wave? k := by rw [h.eq]; rfl

theorem CoresOnly.unitOnly {s t : State} (h : CoresOnly s t) : UnitOnly s t := ⟨by rw [h]⟩
theorem unitOnly_updCore (s : State) (core : Nat) (f : Core → Core) : UnitOnly s (s.updCore core f) := ⟨rfl⟩

theorem unitOnly_sendSectors (s : State) (src core line : Nat) (mask : BitVec 4) : UnitOnly s (s.sendSectors src core line mask) := by
  unfold State.sendSectors
  split
  · exact .refl s
  · dsimp only
    split <;> exact ⟨rfl⟩

theorem unitOnly_releaseL1 (s : State) (core scope : Nat) : UnitOnly s (s.releaseL1 core scope) := by
  unfold State.releaseL1
  split
  · exact .refl s
  · exact List.foldlRecOn (motive := UnitOnly s) _ _ (.refl s) (fun _ h _ _ => h.trans (unitOnly_sendSectors ..))

theorem unitOnly_acquireL1 (s : State) (core scope : Nat) : UnitOnly s (s.acquireL1 core scope) := (coresOnly_acquireL1 ..).unitOnly

theorem unitOnly_tlbLook (s : State) (core : Nat) (copy : Bool) (asid : BitVec 16) (va : Nat) : UnitOnly s (s.tlbLook core copy asid va).1 := by
  unfold State.tlbLook
  dsimp only
  split
  · split <;> exact ⟨rfl⟩
  · split
    · exact ⟨rfl⟩
    · split
      · exact ⟨rfl⟩
      · split <;> exact ⟨rfl⟩

theorem unitOnly_takeWalk (s : State) (die : Nat) : UnitOnly s (s.takeWalk die) := by
  unfold State.takeWalk
  split
  · exact .refl s
  · split <;> exact ⟨rfl⟩

theorem unitOnly_startWalk (s : State) (core : Nat) (asid : BitVec 16) (va : Nat) : UnitOnly s (s.startWalk core asid va) := by
  unfold State.startWalk
  split
  · exact .refl s
  · exact UnitOnly.trans ⟨rfl⟩ (unitOnly_takeWalk ..)

theorem unitOnly_sendAhead (s : State) (o : MemOp) (a : Access) : UnitOnly s (s.sendAhead o a) := by
  unfold State.sendAhead
  split
  · exact unitOnly_sendSectors ..
  · exact .refl s

theorem resolved_asked (s : State) (o : MemOp) (a : Access) (cp : Nat) (pte logPage delay : Nat) :
    (s.resolved o a cp pte logPage delay).asked = a.asked := by
  unfold State.resolved
  dsimp only
  split <;> rfl

theorem lookAccess_asked (s : State) (o : MemOp) (a : Access) : UnitOnly s (s.lookAccess o a).1 ∧ (s.lookAccess o a).2.asked = a.asked := by
  have hlook := unitOnly_tlbLook s o.core false o.asid a.va
  unfold State.lookAccess
  generalize s.tlbLook o.core false o.asid a.va = look at hlook ⊢
  obtain ⟨u, found, d⟩ := look
  cases found with
  | some e => exact ⟨hlook.trans (unitOnly_sendAhead ..), resolved_asked ..⟩
  | none => exact ⟨hlook.trans (unitOnly_startWalk ..), rfl⟩

/-- The lookups change no access but for its translation. -/
theorem lookAll_asked (s : State) (o : MemOp) (accs : List Access) :
    UnitOnly s (s.lookAll o accs).1 ∧ (s.lookAll o accs).2.map Access.asked = accs.map Access.asked := by
  induction accs generalizing s with
  | nil => exact ⟨.refl s, rfl⟩
  | cons a r ih =>
    rw [State.lookAll]
    split
    · obtain ⟨hone, hasked⟩ := lookAccess_asked s o a
      obtain ⟨hrest, hmap⟩ := ih (s.lookAccess o a).1
      exact ⟨hone.trans hrest, by rw [List.map_cons, List.map_cons, hasked, hmap]⟩
    · obtain ⟨hrest, hmap⟩ := ih s
      exact ⟨hrest, by rw [List.map_cons, List.map_cons, hmap]⟩

/-! ### An operation that is being taken -/

/-- `t` holds the new operation `o` of the part of `c`, and the part counts it; registers, memory and every other part are as before. -/
structure Taking (c : Ctx) (s t : State) (cls : Cls) (o : MemOp) : Prop where
  op : o ∈ t.ops
  older : ∀ q : MemOp, q.id ≠ s.nextId → (q ∈ t.ops ↔ q ∈ s.ops)
  part : ∃ w p, t.wave? c.ref.key = some w ∧ w.part? c.ref.base = some p ∧ SameVregs c.wave w ∧ w.preds = c.wave.preds
    ∧ p.opsOf cls = c.part.opsOf cls ++ [s.nextId] ∧ ∀ b, (w.part? b).map (fun q => q.regs) = (c.wave.part? b).map (fun q => q.regs)
  frame : t =
    { s with cores := t.cores, dies := t.dies, walks := t.walks, ops := t.ops, nextId := t.nextId, backs := t.backs, waves := t.waves }
  others : ∀ k, k ≠ c.ref.key → t.wave? k = s.wave? k

section
variable {c : Ctx} {s t : State} {cls : Cls} {o : MemOp}

theorem Taking.unitOnly (h : Taking c s t cls o) {u : State} (hu : UnitOnly t u) : Taking c s u cls o := by
  obtain ⟨hop, holder, ⟨w, p, hw, hrest⟩, hframe, hothers⟩ := h
  refine ⟨hu.ops ▸ hop, by rwa [hu.ops], ⟨w, p, (hu.wave? _).trans hw, hrest⟩, ?_, fun k hk => (hu.wave? k).trans (hothers k hk)⟩
  rw [hu.eq, hframe]

theorem Taking.updOp (h : Taking c s t cls o) (hid : o.id = s.nextId) (f : MemOp → MemOp) (hf : ∀ o, (f o).id = o.id) :
    Taking c s (t.updOp s.nextId f) cls (f o) := by
  obtain ⟨hop, holder, hpart, hframe, hothers⟩ := h
  refine ⟨List.mem_map.mpr ⟨o, hop, if_pos hid⟩, fun q hq => ?_, hpart, ?_, hothers⟩
  · rw [← holder q hq]
    constructor
    · intro hmem
      obtain ⟨x, hx, hxq⟩ := List.mem_map.mp hmem
      split at hxq
      · next hsame => exact absurd (hxq ▸ (hf x).trans hsame) hq
      · exact hxq ▸ hx
    · exact fun hmem => List.mem_map.mpr ⟨q, hmem, if_neg hq⟩
  · rw [hframe]
    rfl

/-- A change in a part of the wave that leaves its registers and its operations. -/
theorem Taking.updPart (h : Taking c s t cls o) {r : PartRef} (hr : r.key = c.ref.key) {f : Part → Part} (hbase : ∀ p, (f p).base = p.base)
    (hregs : ∀ p, (f p).regs = p.regs) (hops : ∀ p, (f p).opsOf cls = p.opsOf cls) : Taking c s (t.updPart r f) cls o := by
  obtain ⟨hop, holder, ⟨w, p, hw, hp, hsame, hpreds, hcount, hall⟩, hframe, hothers⟩ := h
  have hchange := waveChange_updPart t r f
  have hset : ∀ b, (w.updPart r.base f).part? b = if b = r.base then (w.part? b).map f else w.part? b := by
    intro b
    split
    · next hb => rw [hb, Wave.part?_updPart_self _ _ _ hbase]
    · next hb => exact Wave.part?_updPart_of_ne _ _ hbase hb
  refine ⟨by rw [State.updPart_ops]; exact hop, by rw [State.updPart_ops]; exact holder,
    ⟨w.updPart r.base f, if c.ref.base = r.base then f p else p, ?_, ?_, hsame, hpreds, ?_, fun b => ?_⟩, ?_,
    fun k hk => (hchange.others k (hr ▸ hk)).trans (hothers k hk)⟩
  · exact hr ▸ wave?_updWave_some (hr ▸ hw) _
  · rw [hset, hp]
    split <;> rfl
  · rw [apply_ite (fun p : Part => p.opsOf cls), hops, ite_self, hcount]
  · rw [hset, ← hall b]
    split
    · rw [Option.map_map]
      exact congrArg (Option.map · _) (funext hregs)
    · rfl
  · rw [State.updPart_eq, hframe]

theorem Taking.holdFailure (h : Taking c s t cls o) {q : MemOp} (hq : q.key = c.ref.key) (detail va logPage : Nat) :
    Taking c s (t.holdFailure q detail va logPage) cls o := by
  unfold State.holdFailure
  split
  · exact h
  · split
    · exact h
    · split
      · exact h
      · next p _ _ =>
        have hr : PartRef.key { core := q.core, slot := q.slot, base := p.base } = c.ref.key := hq
        exact h.updPart hr (fun _ => rfl) (fun _ => rfl) (fun _ => by cases cls <;> rfl)

theorem Taking.holdFailures (h : Taking c s t cls o) {q : MemOp} (hq : q.key = c.ref.key) (accs : List Access) :
    Taking c s (t.holdFailures q accs) cls o := by
  refine List.foldlRecOn (motive := fun t => Taking c s t cls o) _ _ h (fun t ht a _ => ?_)
  split
  · exact ht.holdFailure hq ..
  · exact ht

/-- The operation once its release's write-backs are on their way, if it has begun one. -/
theorem Taking.startRelease (h : Taking c s t cls o) (hid : o.id = s.nextId) :
    ∃ o', Taking c s (t.startRelease s.nextId) cls o' ∧ o' = { o with relAt := o'.relAt } := by
  unfold State.startRelease
  split
  · exact ⟨o, h, rfl⟩
  · dsimp only
    split
    · exact ⟨_, (h.unitOnly (unitOnly_releaseL1 ..)).updOp hid _ (fun _ => rfl), rfl⟩
    · exact ⟨o, h, rfl⟩

theorem addOp_opsOf (p : Part) (k : Cls) (id : Nat) : (p.addOp k id).opsOf k = p.opsOf k ++ [id] := by cases k <;> rfl
theorem addOp_keeps (p : Part) (k : Cls) (id : Nat) : (p.addOp k id).base = p.base ∧ (p.addOp k id).regs = p.regs := by
  cases k <;> exact ⟨rfl, rfl⟩

/-- The part once it counts the new operation. -/
def countOp (cls : Cls) (id ord : Nat) (p : Part) : Part :=
  { p.addOp cls id with acquiring := if ord % 2 = 1 then p.acquiring ++ [id] else p.acquiring }

theorem newOp_taking (hi : s.issuing = some c) {u : State} (hu : UnitOnly s u) (hnext : u.nextId = s.nextId) (kind : OpKind)
    (len ord scope sub : Nat) (accs : List Access) (due : Nat) :
    Taking c s (u.newOp c cls kind len ord scope sub accs due).1 cls (u.newOp c cls kind len ord scope sub accs due).2 := by
  set o := (u.newOp c cls kind len ord scope sub accs due).2 with ho
  have hid : o.id = s.nextId := hnext
  have hstate : (u.newOp c cls kind len ord scope sub accs due).1
      = { u with ops := u.ops ++ [o], nextId := u.nextId + 1 }.updPart c.ref (countOp cls o.id ord) := rfl
  have hbase : ∀ p, (countOp cls o.id ord p).base = p.base := fun p => (addOp_keeps p cls o.id).1
  have hregs : ∀ p, (countOp cls o.id ord p).regs = p.regs := fun p => (addOp_keeps p cls o.id).2
  have hwave : { u with ops := u.ops ++ [o], nextId := u.nextId + 1 }.wave? c.ref.key = some c.wave := (hu.wave? _).trans (issuing_wave hi)
  have hchange := waveChange_updPart { u with ops := u.ops ++ [o], nextId := u.nextId + 1 } c.ref (countOp cls o.id ord)
  rw [hstate]
  refine ⟨by rw [State.updPart_ops]; exact List.mem_append_right _ (List.mem_singleton_self _), fun q hq => ?_,
    ⟨_, _, wave?_updWave_some hwave _, part?_updPart_some (issuing_part hi) _ hbase, ⟨rfl, rfl⟩, rfl, ?_, fun b => ?_⟩, ?_,
    fun k hk => (hchange.others k hk).trans (hu.wave? k)⟩
  · rw [State.updPart_ops, List.mem_append, List.mem_singleton, hu.ops]
    exact or_iff_left (fun hqo => hq (hqo ▸ hid))
  · rw [← hid]
    exact (by cases cls <;> rfl : (countOp cls o.id ord c.part).opsOf cls = (c.part.addOp cls o.id).opsOf cls).trans (addOp_opsOf ..)
  · by_cases hb : b = c.ref.base
    · rw [hb, Wave.part?_updPart_self _ _ _ hbase, Option.map_map]
      exact congrArg (Option.map · _) (funext hregs)
    · rw [Wave.part?_updPart_of_ne _ _ hbase hb]
  · rw [hchange.state, hu.eq]

/-- The part moves on behind its instruction, which starts the operation. -/
theorem Taking.done (h : Taking c s t cls o) (len : Nat) :
    Taking c s (t.done c len) cls o ∧ ∃ w p, (t.done c len).wave? c.ref.key = some w ∧ w.part? c.ref.base = some p ∧ p.pc = c.next len ∧ p.park = .running := by
  refine ⟨h.updPart rfl (fun _ => rfl) (fun _ => rfl) (fun _ => by cases cls <;> rfl), ?_⟩
  obtain ⟨w, p, hw, hp, -⟩ := h.part
  exact ⟨_, _, wave?_updWave_some hw _, part?_updPart_some hp _ (fun _ => rfl), rfl, rfl⟩

end

/-! ### The start of an operation -/

/-- A new operation of the part of `c`. -/
structure NewOp (c : Ctx) (s : State) (cls : Cls) (kind : OpKind) (o : MemOp) : Prop where
  id : o.id = s.nextId
  cls : o.cls = cls
  kind : o.kind = kind
  core : o.core = c.ref.core
  slot : o.slot = c.ref.slot
  pc : o.pc = c.part.pc

/-- An operation that the part counts takes its side-log entries, is looked up, and is started. -/
theorem Taking.starts {c : Ctx} {s v : State} {cls : Cls} {kind : OpKind} {o : MemOp} (h : Taking c s v cls o) (hnew : NewOp c s cls kind o)
    (len lines : Nat) (pages : List (Nat × Nat)) (accs : List Access) :
    let looked := (v.takeLog c.ref.core s.nextId o.asid pages).lookAll o accs
    Started c s (((((looked.1.updOp s.nextId (fun o => { o with accs := looked.2 })).holdFailures o looked.2).startRelease s.nextId).holdPipe c lines).done c len)
      cls kind len (accs.map Access.asked) := by
  intro looked
  have hkey : o.key = c.ref.key := by rw [MemOp.key, PartRef.key, hnew.core, hnew.slot]
  obtain ⟨hlook, hasked⟩ := lookAll_asked (v.takeLog c.ref.core s.nextId o.asid pages) o accs
  have hlooked := (h.unitOnly (UnitOnly.trans ⟨rfl⟩ hlook)).updOp hnew.id (fun o => { o with accs := looked.2 }) (fun _ => rfl)
  obtain ⟨o', hreleased, ho'⟩ := (hlooked.holdFailures hkey looked.2).startRelease hnew.id
  obtain ⟨hdone, w', p', hw', hp', hpc, hpark⟩ := (hreleased.unitOnly (unitOnly_updCore ..)).done len
  obtain ⟨hop, holder, ⟨w, p, hw, hp, hsame, hpreds, hcount, hregs⟩, hframe, hothers⟩ := hdone
  obtain rfl : w' = w := Option.some.inj (hw'.symm.trans hw)
  obtain rfl : p' = p := Option.some.inj (hp'.symm.trans hp)
  refine ⟨⟨o', hop, ?_, ?_, ?_, ?_, ?_, ?_, ?_⟩, holder, ⟨w', p', hw, hp, hsame, hpreds, hcount, hpc, hpark, hregs⟩, hframe, hothers⟩
  all_goals rw [ho']
  exacts [hnew.id, hnew.cls, hnew.kind, hnew.core, hnew.slot, hnew.pc, hasked]

theorem startOp_starts {s : State} {c : Ctx} (hi : s.issuing = some c) (cls : Cls) (kind : OpKind) (len ord scope sub : Nat) (accs : List Access)
    (hroom : kind.logged = true → LogRoom s c ((accs.filter (fun a => a.phase == .walk)).map (fun a => a.va))) :
    Started c s (s.startOp c cls kind len ord scope sub accs) cls kind len (accs.map Access.asked) := by
  have hlog : ¬ s.logFree c.ref.core < (if kind.logged
      then s.logPages c.ref.core c.part.regs.asid ((accs.filter (fun a => a.phase == .walk)).map (fun a => a.va)) else []).length := by
    split
    · next hk => exact Nat.not_lt.mpr (hroom hk)
    · exact Nat.not_lt_zero _
  have hacquire : UnitOnly s (if isAcquire ord then s.acquireL1 c.ref.core scope else s)
      ∧ (if isAcquire ord then s.acquireL1 c.ref.core scope else s).nextId = s.nextId := by
    split
    · exact ⟨unitOnly_acquireL1 .., by rw [coresOnly_acquireL1 s c.ref.core scope]⟩
    · exact ⟨.refl s, rfl⟩
  rw [State.startOp]
  dsimp only
  rw [if_neg hlog]
  generalize (if isAcquire ord then s.acquireL1 c.ref.core scope else s) = u at hacquire ⊢
  obtain ⟨hu, hnext⟩ := hacquire
  have htaking := newOp_taking hi hu hnext (cls := cls) kind len ord scope sub accs (u.dcc + 1)
  have hnew : NewOp c s cls kind (u.newOp c cls kind len ord scope sub accs (u.dcc + 1)).2 := ⟨hnext, rfl, rfl, rfl, rfl, rfl⟩
  generalize u.newOp c cls kind len ord scope sub accs (u.dcc + 1) = new at htaking hnew ⊢
  rw [hnew.id]
  exact htaking.starts hnew len _ _ accs

end Sys2Proof.Machine
end

section
/-! SUPPORT. The checks of a global access that find nothing, and its accesses (19 R399, 20 R445, 22 R481, R494, 12 R293). -/

namespace Sys2Proof.Machine

/-! ### Checks that find nothing -/

theorem releaseWait_of_ready {s : State} {c : Ctx} {ord : Nat} (h : ReleaseReady s c ord) : s.releaseWait c ord = none := by
  unfold State.releaseWait
  split
  · rfl
  · next hrel =>
    have hord : 2 ≤ ord := by simpa [isRelease, Nat.succ_le_iff] using hrel
    obtain ⟨hlog, hheld⟩ := h hord
    rw [if_neg (by simp [hlog]), hheld]
    rfl

theorem addressTrap_of_ok {size : Nat} {vas : List Nat} (h : AddressesOk size vas) : addressTrap size vas = none := by
  have hhigh : vas.find? (fun a => decide (2 ^ 57 ≤ a)) = none :=
    List.find?_eq_none.mpr (fun a ha => by simpa using (h a ha).1)
  have hodd : vas.find? (fun a => a % size != 0) = none :=
    List.find?_eq_none.mpr (fun a ha => by simpa using (h a ha).2)
  rw [addressTrap, hhigh]
  dsimp only
  rw [hodd]

theorem watchHit_of_unwatched {s : State} {c : Ctx} (h : Unwatched s c) (rd wr : Bool) (accs : List Access) : s.watchHit c rd wr accs = none := by
  unfold State.watchHit
  split
  · rfl
  · next hwatch =>
    have hoff : ∀ k < 4, (getT 0 (s.core c.ref.core).watch k).getLsbD 0 = false := by
      rcases h with h | h | h
      · exact absurd (.inl h) hwatch
      · exact absurd (.inr h) hwatch
      · exact h
    refine List.findSome?_eq_none_iff.mpr (fun k hk => ?_)
    rw [Option.map_eq_none_iff]
    refine List.find?_eq_none.mpr (fun a _ => ?_)
    rw [watchMatches, hoff k (List.mem_range.mp hk), Bool.false_and, Bool.false_and, Bool.and_false]
    exact Bool.false_ne_true

/-! ### Lane-wise accesses -/

section
variable {m : MWord} {x : XmWord} {cls : Cls} {data : Vop} {stored : Ctx → List Nat} {s : State} {c : Ctx}

/-- The accesses of a lane-wise instruction. -/
def laneAccs (c : Ctx) (m : MWord) (x : XmWord) (access : Ctx → Nat → Nat → Nat → Option Access) : List Access :=
  (laneAddrs c m x).filterMap (fun e => access c e.1 e.2 ((lineCount ((laneAddrs c m x).map Prod.snd) + 3) / 4 - 1))

theorem globalOp_starts (hi : s.issuing = some c) (h : GlobalReady m x cls data stored s c) (len : Nat) (rd wr : Bool) (kind : Ctx → OpKind)
    (access : Ctx → Nat → Nat → Nat → Option Access)
    (hroom : (kind c).logged = true → LogRoom s c (((laneAccs c m x access).filter (fun a => a.phase == .walk)).map (fun a => a.va))) :
    ∃ t, globalOp m x len cls data rd wr kind access s = .next t
      ∧ Started c s t cls (kind c) len ((laneAccs c m x access).map Access.asked) := by
  refine ⟨_, issue_next _ _ c s hi (by simp) rfl h.operands h.free, ?_⟩
  have haddr : addressTrap (szBytes x.sz) ((((lanesOf (c.xmActive x)).map (fun l => (l, c.globalAddr m x.off l))).map Prod.snd)) = none :=
    addressTrap_of_ok h.addresses
  dsimp only
  rw [releaseWait_of_ready h.release]
  dsimp only
  rw [haddr]
  dsimp only
  rw [watchHit_of_unwatched h.unwatched]
  exact startOp_starts hi cls (kind c) len _ _ _ (laneAccs c m x access) hroom

/-- A filter of a list of lanes, each with an access of its own. -/
theorem filterMap_unless {α β : Type} (p : α → Bool) (f : α → β) (l : List α) :
    l.filterMap (fun e => if p e then none else some (f e)) = (l.filter (fun e => !p e)).map f := by
  induction l with
  | nil => rfl
  | cons e r ih => cases hp : p e <;> simp [hp, ih]

/-- An instruction with an access in each lane. -/
theorem globalOp_starts_all (hi : s.issuing = some c) (h : GlobalReady m x cls data stored s c) (len : Nat) (rd wr : Bool) (kind : Ctx → OpKind)
    (access : Ctx → Nat → Nat → Nat → Access) (asks : Nat × Nat → Nat × Nat × Nat × List Byte × List Byte)
    (hasks : ∀ e extra, (access c e.1 e.2 extra).asked = asks e) (hkind : (kind c).logged = false) :
    ∃ t, globalOp m x len cls data rd wr kind (fun c l a extra => some (access c l a extra)) s = .next t
      ∧ Started c s t cls (kind c) len ((laneAddrs c m x).map asks) := by
  obtain ⟨t, ht, hstart⟩ := globalOp_starts hi h len rd wr kind _ (fun hk => by simp [hkind] at hk)
  refine ⟨t, ht, ?_⟩
  have haccs : (laneAccs c m x (fun c l a extra => some (access c l a extra))).map Access.asked = (laneAddrs c m x).map asks := by
    rw [laneAccs, List.filterMap_eq_map', List.map_map]
    exact List.map_congr_left (fun e _ => hasks e _)
  rwa [haccs] at hstart

/-- An instruction with a lookup in each lane that is no helper. -/
theorem globalOp_starts_lookups (hi : s.issuing = some c)
    (h : GlobalReady m x .st data (fun c => ((laneAddrs c m x).filter (fun e => !c.wave.helper.getLsbD e.1)).map Prod.snd) s c) (len : Nat)
    (rd wr : Bool) (kind : Ctx → OpKind) (bytes : Ctx → Nat → List Byte × List Byte) :
    ∃ t, globalOp m x len .st data rd wr kind (fun c l a extra => if c.wave.helper.getLsbD l then none
        else some (newAccess l a (szBytes x.sz) x.cp.toNat extra (bytes c l).1 (bytes c l).2)) s = .next t
      ∧ Started c s t .st (kind c) len (((laneAddrs c m x).filter (fun e => !c.wave.helper.getLsbD e.1)).map
        (fun e => (e.1, e.2, szBytes x.sz, (bytes c e.1).1, (bytes c e.1).2))) := by
  have haccs := filterMap_unless (fun e : Nat × Nat => c.wave.helper.getLsbD e.1) (fun e => newAccess e.1 e.2 (szBytes x.sz) x.cp.toNat
    ((lineCount ((laneAddrs c m x).map Prod.snd) + 3) / 4 - 1) (bytes c e.1).1 (bytes c e.1).2) (laneAddrs c m x)
  obtain ⟨t, ht, hstart⟩ := globalOp_starts hi h len rd wr kind (fun c l a extra => if c.wave.helper.getLsbD l then none
      else some (newAccess l a (szBytes x.sz) x.cp.toNat extra (bytes c l).1 (bytes c l).2)) (fun _ => by
    rw [laneAccs, haccs, List.filter_eq_self.mpr (by rintro a ha; obtain ⟨e, -, rfl⟩ := List.mem_map.mp ha; rfl), List.map_map]
    exact h.room rfl)
  refine ⟨t, ht, ?_⟩
  rw [laneAccs, haccs, List.map_map] at hstart
  exact hstart

theorem load_starts (hi : s.issuing = some c) (h : GlobalReady m x .ld (mData m.d x.sz) stored s c) (len : Nat) :
    ∃ t, loadGlobal m x len s = .next t ∧ Started c s t .ld (.load c.part.depth ((mData m.d x.sz).reg c.wb 0 0) (mData m.d x.sz).unit) len
      ((laneAddrs c m x).map (fun e => (e.1, e.2, szBytes x.sz, [], []))) :=
  globalOp_starts_all hi h len true false (fun c => .load c.part.depth ((mData m.d x.sz).reg c.wb 0 0) (mData m.d x.sz).unit)
    (fun _ l a extra => newAccess l a (szBytes x.sz) x.cp.toNat extra [] []) (fun e => (e.1, e.2, szBytes x.sz, [], [])) (fun _ _ => rfl) rfl

theorem store_starts (hi : s.issuing = some c)
    (h : GlobalReady m x .st (mData m.d x.sz) (fun c => ((laneAddrs c m x).filter (fun e => !c.wave.helper.getLsbD e.1)).map Prod.snd) s c) (len : Nat) :
    ∃ t, storeGlobal m x len s = .next t ∧ Started c s t .st .store len
      (((laneAddrs c m x).filter (fun e => !c.wave.helper.getLsbD e.1)).map (fun e =>
        (e.1, e.2, szBytes x.sz, bytesOfNat (szBytes x.sz) (c.vec e.1 (mData m.d x.sz) 0 0), []))) :=
  globalOp_starts_lookups hi h len false true (fun _ => .store) (fun c l => (bytesOfNat (szBytes x.sz) (c.vec l (mData m.d x.sz) 0 0), []))

/-- What an atomic asks for in a lane. -/
def atomAsks (c : Ctx) (m : MWord) (x : XmWord) (e : Nat × Nat) : Nat × Nat × Nat × List Byte × List Byte :=
  (e.1, e.2, szBytes x.sz, (atomBytes c (atomData m.d x) x e.1).1, (atomBytes c (atomData m.d x) x e.1).2)

/-- The access of a lane of an atomic with return. -/
def atomAccess (m : MWord) (x : XmWord) (c : Ctx) (l a extra : Nat) : Access :=
  if c.wave.helper.getLsbD l then { newAccess l a (szBytes x.sz) 0 0 (bytesOfNat (szBytes x.sz) 0) [] with phase := .done }
  else newAccess l a (szBytes x.sz) x.cp.toNat extra (atomBytes c (atomData m.d x) x l).1 (atomBytes c (atomData m.d x) x l).2

theorem atom_starts_noReturn (hi : s.issuing = some c) (hnr : m.nr = true)
    (h : GlobalReady m x .st (atomData m.d x) (fun c => ((laneAddrs c m x).filter (fun e => !c.wave.helper.getLsbD e.1)).map Prod.snd) s c) (len : Nat) :
    ∃ t, atomGlobal m x len s = .next t ∧ Started c s t .st (.atom x.sub.toNat none) len
      (((laneAddrs c m x).filter (fun e => !c.wave.helper.getLsbD e.1)).map (atomAsks c m x)) := by
  rw [atomGlobal, hnr]
  exact globalOp_starts_lookups hi h len false true _ (fun c l => atomBytes c (atomData m.d x) x l)

theorem atom_starts_return (hi : s.issuing = some c) (hnr : m.nr = false) (h : GlobalReady m x .ld (atomData m.d x) stored s c) (len : Nat) :
    ∃ t, atomGlobal m x len s = .next t
      ∧ Started c s t .ld (.atom x.sub.toNat (some (c.part.depth, (atomData m.d x).reg c.wb 0 0))) len
        ((laneAddrs c m x).map (fun e =>
          if c.wave.helper.getLsbD e.1 then (e.1, e.2, szBytes x.sz, bytesOfNat (szBytes x.sz) 0, []) else atomAsks c m x e)) := by
  have haccess : ∀ c l a extra, (if c.wave.helper.getLsbD l = true then
      if m.nr = true then none else some { newAccess l a (szBytes x.sz) 0 0 (bytesOfNat (szBytes x.sz) 0) [] with phase := .done }
      else some (newAccess l a (szBytes x.sz) x.cp.toNat extra (atomBytes c (atomData m.d x) x l).1 (atomBytes c (atomData m.d x) x l).2))
      = some (atomAccess m x c l a extra) := by
    intro c l a extra
    rw [hnr, if_neg Bool.false_ne_true, atomAccess, apply_ite some]
  rw [atomGlobal]
  simp only [haccess]
  rw [hnr]
  refine globalOp_starts_all hi h len true true (fun c => .atom x.sub.toNat (some (c.part.depth, (atomData m.d x).reg c.wb 0 0))) (atomAccess m x) _
    (fun e extra => ?_) rfl
  rw [atomAccess, apply_ite Access.asked]
  rfl

/-! ### Uniform accesses -/

/-- The lane that the access of a uniform instruction goes by. -/
def uniformLane (lanes helper : Lanes) : Nat :=
  (lanesOf (if lanes &&& ~~~helper = 0 then lanes else lanes &&& ~~~helper)).headD 0

theorem uniformAccess_starts {u : UWord} {x : XmWord} (hi : s.issuing = some c) (len : Nat) (load : Bool) (addr : Nat)
    (haddr : addr = ((((c.sreg u.a.toNat).toNat : Int) + x.off.toInt) % 2 ^ 64).toNat) (cls : Cls) (hcls : cls = if load then Cls.ld else Cls.st)
    (free : Free c u.s true (some cls) none) (release : ReleaseReady s c x.ord.toNat) (haddress : AddressesOk (szBytes x.sz) [addr])
    (hwatch : Unwatched s c) (hroom : load = false → LogRoom s c [addr]) :
    ∃ t, uniformAccess u x len load s = .next t ∧ Started c s t cls (if load then .sload u.d.toNat else .store) len
      (if (if load then c.emask else c.emask &&& ~~~c.wave.helper) = 0 then []
        else [(uniformLane (if load then c.emask else c.emask &&& ~~~c.wave.helper) c.wave.helper, addr, szBytes x.sz,
          if load then [] else bytesOfNat (szBytes x.sz) (c.sreg u.d.toNat).toNat, [])]) := by
  subst hcls
  refine ⟨_, issue_next _ _ c s hi (by simp) rfl rfl free, ?_⟩
  dsimp only
  rw [releaseWait_of_ready release, ← haddr]
  dsimp only
  rw [addressTrap_of_ok haddress]
  dsimp only
  rw [watchHit_of_unwatched hwatch]
  dsimp only
  set lanes := if load then c.emask else c.emask &&& ~~~c.wave.helper with hlanes
  set access := newAccess (uniformLane lanes c.wave.helper) addr (szBytes x.sz) x.cp.toNat 0
    (if load then [] else bytesOfNat (szBytes x.sz) (c.sreg u.d.toNat).toNat) [] with haccess
  have hstart := startOp_starts hi (if load then Cls.ld else Cls.st) (if load then .sload u.d.toNat else .store) len x.ord.toNat x.scope.toNat 0
    (if lanes = 0 then [] else [access]) (fun hk => by
      have hload : load = false := by
        cases load with
        | false => rfl
        | true => simp [OpKind.logged] at hk
      split
      · exact Nat.zero_le _
      · exact hroom hload)
  rw [apply_ite (List.map Access.asked)] at hstart
  exact hstart

end

end Sys2Proof.Machine
end

section
/-! SUPPORT. The statement about global accesses. -/

open Sys2Proof Sys2Proof.Machine

/-- Settles O20, from the checks that find nothing and the start of an operation. -/
theorem globalAccesses : Obligations.GlobalAccesses := by
  unfold Obligations.GlobalAccesses
  refine ⟨fun m x => ⟨fun s c hi h => load_starts hi h 4, fun s c hi h => load_starts hi h 8, fun s c hi h => store_starts hi h 4,
    fun s c hi h => store_starts hi h 8, fun s c hi => ⟨fun hnr h => atom_starts_noReturn hi hnr h 4, fun hnr h => atom_starts_return hi hnr h 4⟩,
    fun s c hi => ⟨fun hnr h => atom_starts_noReturn hi hnr h 8, fun hnr h => atom_starts_return hi hnr h 8⟩⟩,
    fun u x => ⟨fun s c hi free release haddress hwatch hroom => uniformAccess_starts hi 4 true _ rfl _ rfl free release haddress hwatch hroom,
      fun s c hi free release haddress hwatch hroom => uniformAccess_starts hi 8 true _ rfl _ rfl free release haddress hwatch hroom,
      fun s c hi free release haddress hwatch hroom => uniformAccess_starts hi 4 false _ rfl _ rfl free release haddress hwatch hroom,
      fun s c hi free release haddress hwatch hroom => uniformAccess_starts hi 8 false _ rfl _ rfl free release haddress hwatch hroom⟩⟩

end

section
/-! SUPPORT. Pre-emption: the choice of victims, a launch that becomes due, the end of its protection, and the forced save of a part (11 R270-R272, 12 R283-R287). -/

namespace Sys2Proof.Machine

/-! ### The choice of victims (11 R270, R271) -/

theorem lookT_of_mem {α : Type} {m : List (Nat × α)} {e : Nat × α} (h : e ∈ m) : ∃ v, lookT m e.1 = some v := by
  induction m with
  | nil => exact absurd h List.not_mem_nil
  | cons x r ih =>
    rw [lookT]
    split
    · exact ⟨_, rfl⟩
    · next hne => exact ih ((List.mem_cons.mp h).resolve_left (fun heq => hne (by rw [heq])))

theorem mem_of_lookT {α : Type} {m : List (Nat × α)} {k : Nat} {v : α} (h : lookT m k = some v) : (k, v) ∈ m := by
  induction m with
  | nil => exact absurd h (by simp [lookT])
  | cons x r ih =>
    rw [lookT] at h
    split at h
    · next hk => exact hk ▸ Option.some.inj h ▸ List.mem_cons_self
    · exact List.mem_cons_of_mem _ (ih h)

/-- The entries of a table that a test picks, changed. -/
theorem lookT_map_if {α : Type} (p : α → Prop) [DecidablePred p] (f : α → α) (m : List (Nat × α)) (k : Nat) :
    lookT (m.map (fun e => if p e.2 then (e.1, f e.2) else e)) k = (lookT m k).map (fun v => if p v then f v else v) := by
  rw [← lookT_map_snd]
  refine congrArg (lookT · k) (List.map_congr_left (fun e _ => ?_))
  split <;> rfl

theorem launch?_of_mem_victims {s : State} {lid v : Nat} {l : Launch} (h : v ∈ s.victims lid l) : ∃ x, s.launch? v = some x := by
  unfold State.victims at h
  dsimp only at h
  split at h
  · exact absurd h List.not_mem_nil
  · obtain ⟨e, he, rfl⟩ := List.mem_map.mp (List.mem_filter.mp h).1
    exact lookT_of_mem (List.mem_filter.mp he).1

/-- A wave with PEND set. -/
def Wave.pended (w : Wave) : Wave := { w with pend := true, haltedFor := 0 }

/-- One launch becomes a victim. -/
def State.chooseVictim (s : State) (v : Nat) : State :=
  let u := s.updLaunch v (fun l => { l with at_ := .saving s.dcc })
  { u with waves := u.waves.map (fun (e : Nat × Wave) => if e.2.launch = v then (e.1, e.2.pended) else e) }

/-- Launches have become victims: they are being saved, and PEND is set in their waves. -/
structure Chosen (vs : List Nat) (s t : State) : Prop where
  frame : t = { s with launches := t.launches, waves := t.waves }
  launches : ∀ v l, s.launch? v = some l → ∃ l', t.launch? v = some l' ∧ (v ∈ vs ∨ l.at_ = .saving s.dcc → l'.at_ = .saving s.dcc)
  waves : ∀ k w, s.wave? k = some w → t.wave? k = some (if w.launch ∈ vs then w.pended else w)

theorem chooseVictim_wave? (s : State) (v k : Nat) :
    (s.chooseVictim v).wave? k = (s.wave? k).map (fun w => if w.launch = v then w.pended else w) := by
  rw [State.chooseVictim, State.updLaunch_eq]
  exact lookT_map_if (fun w : Wave => w.launch = v) Wave.pended s.waves k

theorem chooseVictims_chosen (vs : List Nat) (s : State) : Chosen vs s (vs.foldl State.chooseVictim s) := by
  induction vs generalizing s with
  | nil => exact ⟨rfl, fun v l hl => ⟨l, hl, fun h => h.resolve_left List.not_mem_nil⟩, fun k w hw => hw⟩
  | cons v r ih =>
    obtain ⟨hframe, hlaunches, hwaves⟩ := ih (s.chooseVictim v)
    have hone : s.chooseVictim v = { s with launches := (s.chooseVictim v).launches, waves := (s.chooseVictim v).waves } := by
      rw [State.chooseVictim, State.updLaunch_eq]
    have hdcc : (s.chooseVictim v).dcc = s.dcc := by rw [hone]
    refine ⟨by rw [List.foldl_cons, hframe, hone], fun x l hl => ?_, fun k w hw => ?_⟩
    · have hx : ∃ l', (s.chooseVictim v).launch? x = some l' ∧ (x = v ∨ l.at_ = .saving s.dcc → l'.at_ = .saving s.dcc) := by
        by_cases hv : x = v
        · subst hv
          exact ⟨_, State.launch?_updLaunch_some hl _, fun _ => rfl⟩
        · exact ⟨l, (State.launch?_updLaunch_of_ne s _ hv).trans hl, fun h => h.resolve_left hv⟩
      obtain ⟨l', hl', hsaving⟩ := hx
      obtain ⟨l'', hl'', hlast⟩ := hlaunches x l' hl'
      rw [hdcc] at hlast
      refine ⟨l'', hl'', fun h => hlast ?_⟩
      rcases h with h | h
      · rcases List.mem_cons.mp h with h | h
        · exact .inr (hsaving (.inl h))
        · exact .inl h
      · exact .inr (hsaving (.inr h))
    · have hfirst := chooseVictim_wave? s v k
      rw [hw, Option.map_some] at hfirst
      rw [List.foldl_cons, hwaves k _ hfirst]
      by_cases hv : w.launch = v
      · have hin : w.launch ∈ v :: r := by rw [hv]; exact List.mem_cons_self
        rw [if_pos hv, if_pos hin]
        exact congrArg some (ite_self _)
      · rw [if_neg hv]
        simp only [List.mem_cons, hv, false_or]

theorem preemptVictimChoice_chooses {s : State} {lid : Nat} {l : Launch} (h : s.firstBlocked = some (lid, l)) :
    ∃ t, exec (.preemptVictimChoice lid) s = .next t ∧ t = { s with launches := t.launches, waves := t.waves }
      ∧ (∀ v ∈ s.victims lid l, ∃ l', t.launch? v = some l' ∧ l'.at_ = .saving s.dcc)
      ∧ ∀ k w, s.wave? k = some w → ∃ w', t.wave? k = some w' ∧ w' = { w with pend := w'.pend, haltedFor := w'.haltedFor }
        ∧ (w.launch ∈ s.victims lid l → w'.pend = true) ∧ (w.launch ∉ s.victims lid l → w' = w) := by
  have hexec : exec (.preemptVictimChoice lid) s = .next ((s.victims lid l).foldl State.chooseVictim s) := by
    show execPreemptVictimChoice lid s = _
    rw [execPreemptVictimChoice, h]
    exact if_neg (fun hne => hne rfl)
  obtain ⟨hframe, hlaunches, hwaves⟩ := chooseVictims_chosen (s.victims lid l) s
  refine ⟨_, hexec, hframe, fun v hv => ?_, fun k w hw => ⟨_, hwaves k w hw, ?_⟩⟩
  · obtain ⟨x, hx⟩ := launch?_of_mem_victims hv
    obtain ⟨l', hl', hsaving⟩ := hlaunches v x hx
    exact ⟨l', hl', hsaving (.inl hv)⟩
  · split
    · next hin => exact ⟨rfl, fun _ => rfl, fun hout => absurd hin hout⟩
    · next hout => exact ⟨rfl, fun hin => absurd hin hout, fun _ => rfl⟩

/-! ### A launch that is due, and the end of its protection (11 R272) -/

theorem launchDue_due {s : State} {lid : Nat} {l : Launch} (hl : s.launch? lid = some l) (h : s.becomesDue l = true) :
    ∃ t, exec (.launchDue lid) s = .next t ∧ t = { s with launches := t.launches } ∧ t.launch? lid = some { l with due := true } := by
  refine ⟨_, rfl, State.updLaunch_eq .., ?_⟩
  rw [State.launch?_updLaunch_some hl, if_pos h]

theorem protectionEnd_ends {s : State} {lid : Nat} {l : Launch} (hl : s.launch? lid = some l) (h : s.protectionOver l = true) :
    ∃ t, exec (.protectionEnd lid) s = .next t ∧ t = { s with launches := t.launches }
      ∧ t.launch? lid = some { l with due := false, protectedUntil := none, waited := 0 } := by
  refine ⟨_, rfl, State.updLaunch_eq .., ?_⟩
  rw [State.launch?_updLaunch_some hl, if_pos h]

/-! ### The forced save of a part (12 R283, R287) -/

theorem part?_some {s : State} {r : PartRef} {p : Part} (h : s.part? r = some p) : ∃ w, s.wave? r.key = some w ∧ w.part? r.base = some p :=
  Option.bind_eq_some_iff.mp h

theorem State.part?_updPart {s : State} {r : PartRef} {p : Part} (h : s.part? r = some p) (f : Part → Part) (hf : ∀ p, (f p).base = p.base) :
    (s.updPart r f).part? r = some (f p) := by
  obtain ⟨w, hw, hp⟩ := part?_some h
  rw [State.part?, State.updPart, wave?_updWave_some hw, Option.bind_some]
  exact part?_updPart_some hp f hf

/-- A part at its restart point. -/
def Part.restarted (now : Nat) (p : Part) : Part :=
  ({ p with acquiring := [], stopped := false, relAt := none, gentryDue := p.gentryDue && p.tcode != 0 }.moveTo
    (if p.tcode = 0 then p.region else p.regs.handler)).issued now 1

/-- What a restart puts back beside the part: its rays, the marks of its outputs, and the stores of its `hsig` that have not performed. -/
def State.rewound (s : State) (r : PartRef) (p : Part) : State :=
  let u := (s.updWave r.key (fun w => w.restoreRays p)).staleOutputs r p
  { u with posted := u.posted.filter (fun q => match q.part with | some (x, _) => x != r | none => true) }

theorem rewound_eq (s : State) (r : PartRef) (p : Part) :
    s.rewound r p = { s with waves := (s.updWave r.key (fun w => w.restoreRays p)).waves, frags := (s.rewound r p).frags, posted := (s.rewound r p).posted } := by
  have hchange := waveChange_updWave s r.key (fun w => w.restoreRays p)
  dsimp only [State.rewound, State.staleOutputs]
  rw [hchange.state]

/-- A part without operations stands at its restart point; no memory changes. -/
theorem restartPart_restarts {s : State} {r : PartRef} {p : Part} (h : s.part? r = some p) (hnone : s.partOps p = []) :
    (s.restartPart r).part? r = some (p.restarted s.dcc) ∧ (s.restartPart r).mem = s.mem ∧ (s.restartPart r).scratch = s.scratch := by
  obtain ⟨w, hw, hp⟩ := part?_some h
  have hrewound := rewound_eq s r p
  have hpart : (s.rewound r p).part? r = some p := by
    have hwave : (s.rewound r p).wave? r.key = some (w.restoreRays p) := by
      rw [hrewound]
      exact wave?_updWave_some hw _
    rw [State.part?, hwave]
    exact hp
  have hrestart : s.restartPart r = (s.rewound r p).updPart r (Part.restarted s.dcc) := by
    rw [State.restartPart, h]
    dsimp only
    rw [hnone]
    show (s.rewound r p).updPart r (Part.restarted (s.rewound r p).dcc) = _
    rw [show (s.rewound r p).dcc = s.dcc by rw [hrewound]]
  rw [hrestart]
  exact ⟨State.part?_updPart hpart _ (fun _ => rfl), by rw [State.updPart_mem, hrewound], by rw [State.updPart_scratch, hrewound]⟩

/-- The part of a forced save. -/
def Part.forced (p q : Part) (now : Nat) : Part :=
  { q with restart := true, forcedSave := true, confLeft := p.confRest now, sleepLeft := p.sleepRest, park := .saved (BitVec.allOnes 32) [(0, 65536)] }

theorem forcedSave_saves {s : State} {lid : Nat} {r : PartRef} {p : Part} (hone : s.overdueParts lid = [r]) (hp : s.part? r = some p)
    (hnone : s.partOps p = []) : ∃ t, exec (.forcedSave lid) s = .next t ∧ t.part? r = some (p.forced (p.restarted s.dcc) s.dcc)
      ∧ t.mem = s.mem ∧ t.scratch = s.scratch := by
  have hready : s.restartReady p = true := by simp [State.restartReady, hnone]
  have hexec : exec (.forcedSave lid) s = .next ((s.restartPart r).updPart r (fun q => p.forced q s.dcc)) := by
    show execForcedSave lid s = _
    rw [execForcedSave, hone, List.foldl_cons, List.foldl_nil, State.forceSave, hp]
    dsimp only
    rw [hready]
    rfl
  obtain ⟨hpart, hmem, hscratch⟩ := restartPart_restarts hp hnone
  exact ⟨_, hexec, State.part?_updPart hpart _ (fun _ => rfl), by rw [State.updPart_mem, hmem], by rw [State.updPart_scratch, hscratch]⟩

theorem forcedSave_stops {s : State} {lid : Nat} {r : PartRef} {p : Part} (hone : s.overdueParts lid = [r]) (hp : s.part? r = some p)
    (hready : s.restartReady p = false) : ∃ t, exec (.forcedSave lid) s = .next t ∧ t = { s with waves := t.waves }
      ∧ t.part? r = some { p with stopped := true } := by
  have hexec : exec (.forcedSave lid) s = .next (s.updPart r (fun p => { p with stopped := true })) := by
    show execForcedSave lid s = _
    rw [execForcedSave, hone, List.foldl_cons, List.foldl_nil, State.forceSave, hp]
    dsimp only
    rw [hready]
    rfl
  exact ⟨_, hexec, State.updPart_eq .., State.part?_updPart hp _ (fun _ => rfl)⟩

end Sys2Proof.Machine
end

section
/-! SUPPORT. The release of a victim: its cores' dirty sectors go back, and it leaves its cores with its image (11 R271, 12 R286-R290). -/

namespace Sys2Proof.Machine

/-! ### The write-backs of a save (12 R290) -/

theorem sendsLines_sendBackAs (s : State) (src core line : Nat) : SendsLines s (s.sendBackAs src core line) := by
  unfold State.sendBackAs State.sendSectors
  split
  · exact .refl s
  · dsimp only
    split
    · exact .refl s
    · exact ⟨rfl, fun b hb => List.mem_append_left _ hb, Nat.le_succ _⟩

theorem sendBackAs_core_of_ne (s : State) (src : Nat) {core n : Nat} (line : Nat) (h : n ≠ core) : (s.sendBackAs src core line).core n = s.core n := by
  unfold State.sendBackAs State.sendSectors
  split
  · rfl
  · dsimp only
    split
    · rfl
    · exact State.core_updCore_of_ne _ _ h

theorem sendBackAs_l1Line?_of_ne (s : State) (src : Nat) {core line other : Nat} (h : other ≠ line) :
    (s.sendBackAs src core line).l1Line? core other = s.l1Line? core other := by
  unfold State.sendBackAs State.sendSectors
  split
  · rfl
  · next l hl =>
    dsimp only
    split
    · rfl
    · have hline : l.line = line := by simpa using List.find?_some hl
      unfold State.l1Line? State.setL1
      rw [State.core_updCore_self]
      exact find?_putLine_of_ne _ _ (by rw [← hline] at h; exact h)

/-- A line has been sent as a save's, with an identity below those still to be given. -/
def SavedBefore (s t : State) (core line : Nat) (l : L1Line) : Prop := ∃ b, LineSent s t core line l b ∧ b.src = 6 ∧ b.id < t.nextId

theorem SavedBefore.trans {s t u : State} {core line : Nat} {l : L1Line} (h : SavedBefore s t core line l) (h' : SendsLines t u) :
    SavedBefore s u core line l := by
  obtain ⟨b, hb, hsrc, hid⟩ := h
  exact ⟨b, hb.trans h', hsrc, hid.trans_le h'.ids⟩

theorem SavedBefore.after {s t u : State} {core line : Nat} {l : L1Line} (h : SendsLines s t) (h' : SavedBefore t u core line l) :
    SavedBefore s u core line l := by
  obtain ⟨b, hb, hsrc, hid⟩ := h'
  exact ⟨b, hb.after h, hsrc, hid⟩

theorem sendBackAs_savedBefore {s : State} {core line : Nat} {l : L1Line} (hl : s.l1Line? core line = some l) (hd : l.dirty ≠ 0) :
    SavedBefore s (s.sendBackAs 6 core line) core line l := by
  have hgo : l.dirty &&& 0xF = l.dirty := BitVec.and_allOnes
  have hpath := slicePath_pos core (line * 128)
  simp only [SavedBefore, State.sendBackAs, State.sendSectors, hl, hgo, if_neg hd]
  exact ⟨_, ⟨List.mem_append_right _ (List.mem_singleton_self _), rfl, rfl, rfl, rfl, by dsimp only; omega, le_rfl⟩, rfl, Nat.lt_succ_self _⟩

/-- Sends lines of a core for a save. -/
def State.saveLines (s : State) (core : Nat) (lines : List Nat) : State := lines.foldl (fun s l => s.sendBackAs 6 core l) s

theorem sendsLines_saveLines (s : State) (core : Nat) (lines : List Nat) : SendsLines s (s.saveLines core lines) :=
  List.foldlRecOn lines _ (.refl s) (fun _ hb _ _ => hb.trans (sendsLines_sendBackAs ..))

theorem saveLines_core_of_ne (s : State) {core n : Nat} (lines : List Nat) (h : n ≠ core) : (s.saveLines core lines).core n = s.core n :=
  List.foldlRecOn (motive := fun t : State => t.core n = s.core n) lines _ rfl (fun _ hb _ _ => (sendBackAs_core_of_ne _ _ _ h).trans hb)

theorem saveLines_saves {s : State} {core line : Nat} {lines : List Nat} {l : L1Line} (hmem : line ∈ lines)
    (hl : s.l1Line? core line = some l) (hd : l.dirty ≠ 0) : SavedBefore s (s.saveLines core lines) core line l := by
  induction lines generalizing s with
  | nil => exact absurd hmem List.not_mem_nil
  | cons x r ih =>
    show SavedBefore s ((s.sendBackAs 6 core x).saveLines core r) core line l
    by_cases hx : line = x
    · subst hx
      exact (sendBackAs_savedBefore hl hd).trans (sendsLines_saveLines ..)
    · have hrest := (List.mem_cons.mp hmem).resolve_left hx
      exact .after (sendsLines_sendBackAs ..) (ih hrest ((sendBackAs_l1Line?_of_ne s 6 hx).trans hl))

/-- The lines of a core that a save of an ASID sends back. -/
def State.savedLines (s : State) (core : Nat) (asid : BitVec 16) : List Nat :=
  ((s.core core).l1.filter (fun l => (l.kind == 0 || (l.kind == 2 && l.asid == asid)) && l.dirty != 0)).map (fun l => l.line)

theorem saveRelease_eq (s : State) (core : Nat) (asid : BitVec 16) : s.saveRelease core asid = s.saveLines core (s.savedLines core asid) := rfl

/-- The saves of some cores. -/
def State.saveCores (s : State) (asid : BitVec 16) (ks : List Nat) : State := ks.foldl (fun s c => s.saveRelease c asid) s

theorem sendsLines_saveCores (s : State) (asid : BitVec 16) (ks : List Nat) : SendsLines s (s.saveCores asid ks) :=
  List.foldlRecOn ks _ (.refl s) (fun b hb k _ => hb.trans (by rw [saveRelease_eq b k]; exact sendsLines_saveLines ..))

theorem saveCores_saves {s : State} {asid : BitVec 16} {ks : List Nat} {core : Nat} {l : L1Line} (hmem : core ∈ ks) (hin : l ∈ (s.core core).l1)
    (hl : s.l1Line? core l.line = some l) (hkind : l.kind = 0) (hd : l.dirty ≠ 0) : SavedBefore s (s.saveCores asid ks) core l.line l := by
  induction ks generalizing s with
  | nil => exact absurd hmem List.not_mem_nil
  | cons k r ih =>
    show SavedBefore s ((s.saveRelease k asid).saveCores asid r) core l.line l
    rw [saveRelease_eq]
    by_cases hk : core = k
    · subst hk
      have hdirty : l.line ∈ s.savedLines core asid := List.mem_map.mpr ⟨l, List.mem_filter.mpr ⟨hin, by rw [hkind]; simpa using hd⟩, rfl⟩
      exact (saveLines_saves hdirty hl hd).trans (sendsLines_saveCores ..)
    · have hcore := saveLines_core_of_ne s (s.savedLines k asid) hk
      refine .after (sendsLines_saveLines ..) (ih ((List.mem_cons.mp hmem).resolve_left hk) ?_ ?_)
      · rw [hcore]
        exact hin
      · rw [State.l1Line?, hcore]
        exact hl

theorem victimRelease_sends {s : State} {lid : Nat} {l : Launch} (hl : s.launch? lid = some l) (hdue : s.releaseDue lid = true) (hrel : l.relAt = none) :
    ∃ t, exec (.victimRelease lid) s = .next t ∧ t = { s with launches := t.launches, backs := t.backs, cores := t.cores, nextId := t.nextId }
      ∧ t.launch? lid = some { l with relAt := some t.nextId }
      ∧ ∀ k ∈ s.coresOf lid, ∀ x ∈ (s.core k).l1, s.l1Line? k x.line = some x → x.kind = 0 → x.dirty ≠ 0 →
        ∃ b ∈ t.backs, b.core = k ∧ b.line = x.line ∧ b.sectors = x.dirty ∧ b.data = x.data ∧ b.src = 6 ∧ b.id < t.nextId := by
  set u := s.saveCores l.asid (s.coresOf lid) with hu
  have hvictim : s.victimDue lid = true := by simp [State.victimDue, hdue, hl, hrel]
  have hexec : exec (.victimRelease lid) s = .next (u.updLaunch lid (fun l => { l with relAt := some u.nextId })) := by
    show execVictimRelease lid s = _
    rw [execVictimRelease, hvictim, hl]
    exact if_pos hrel
  have hsends : SendsLines s u := sendsLines_saveCores ..
  have hl' : u.launch? lid = some l := by
    rw [State.launch?, hsends.only]
    exact hl
  have hupd := State.updLaunch_eq u lid (fun l => { l with relAt := some u.nextId })
  have hnext : (u.updLaunch lid (fun l => { l with relAt := some u.nextId })).nextId = u.nextId := by rw [hupd]
  have hbacks : (u.updLaunch lid (fun l => { l with relAt := some u.nextId })).backs = u.backs := by rw [hupd]
  refine ⟨_, hexec, by rw [hupd, hsends.only], ?_, fun k hk x hx hline hkind hd => ?_⟩
  · rw [State.launch?_updLaunch_some hl', hnext]
  · obtain ⟨b, hb, hsrc, hid⟩ := saveCores_saves (asid := l.asid) hk hx hline hkind hd
    rw [hbacks, hnext]
    exact ⟨b, hb.found, hb.core, hb.line, hb.sectors, hb.data, hsrc, hid⟩

/-! ### A victim leaves its cores (11 R271, 10 R247) -/

/-- No engine operation of a launch is queued on a core. -/
def Core.NoneOf (lid : Nat) (k : Core) : Prop := (∀ o ∈ k.copyQ, o.launch ≠ lid) ∧ ∀ o ∈ k.matrixQ, o.launch ≠ lid

theorem noneOf_updMma {s : State} {lid : Nat} (h : ∀ k, (s.core k).NoneOf lid) (core id : Nat) (f : MmaOp → MmaOp) (hf : ∀ o, (f o).launch = o.launch) :
    ∀ k, ((s.updMma core id f).core k).NoneOf lid := by
  intro k
  by_cases hk : k = core
  · subst hk
    rw [State.updMma, State.core_updCore_self]
    refine ⟨(h k).1, fun o ho => ?_⟩
    obtain ⟨q, hq, rfl⟩ := List.mem_map.mp ho
    rw [apply_ite MmaOp.launch, hf, ite_self]
    exact (h k).2 q hq
  · rw [State.updMma, State.core_updCore_of_ne _ _ hk]
    exact h k

theorem noneOf_startNext {s : State} {lid : Nat} (h : ∀ k, (s.core k).NoneOf lid) (core : Nat) : ∀ k, ((s.startNext core).core k).NoneOf lid := by
  unfold State.startNext
  split
  · exact noneOf_updMma h _ _ _ (fun _ => rfl)
  · exact h

theorem coresOnly_startNext (s : State) (core : Nat) : CoresOnly s (s.startNext core) := by
  unfold State.startNext
  split <;> rfl

/-- A core without the engine operations of a launch. -/
def Core.without (lid : Nat) (k : Core) : Core :=
  { k with copyQ := k.copyQ.filter (fun o => !(o.launch == lid)), matrixQ := k.matrixQ.filter (fun o => !(o.launch == lid)) }

/-- The engine operations of a launch are dropped. -/
theorem dropEngines_drops (s : State) (lid : Nat) :
    CoresOnly s (s.dropEngines (fun l => l == lid)) ∧ ∀ k, ((s.dropEngines (fun l => l == lid)).core k).NoneOf lid := by
  refine List.foldlRecOn (motive := fun t : State => CoresOnly s t ∧ ∀ k, (t.core k).NoneOf lid) _ _ ⟨rfl, fun k => ?_⟩
    (fun t ht core _ => ⟨ht.1.trans (coresOnly_startNext ..), noneOf_startNext ht.2 core⟩)
  show Core.NoneOf lid (getT Core.reset (s.cores.map (fun e => (e.1, e.2.without lid))) k)
  rw [getT_eq, lookT_map_snd]
  cases lookT s.cores k with
  | none => exact ⟨fun _ h => absurd h List.not_mem_nil, fun _ h => absurd h List.not_mem_nil⟩
  | some v =>
    refine ⟨fun o ho => ?_, fun o ho => ?_⟩
    · simpa using (List.mem_filter.mp ho).2
    · simpa using (List.mem_filter.mp ho).2

theorem coresOnly_freeWaves (s : State) (ws : List (Nat × Wave)) : CoresOnly s (ws.foldl (fun s e => s.freeWaveRegs e.2) s) :=
  List.foldlRecOn (motive := CoresOnly s) _ _ rfl (fun _ hb _ _ => hb.trans rfl)

/-- A launch's waves and groups leave. -/
theorem removeLaunch_eq (s : State) (lid : Nat) :
    s.removeLaunch lid = { s with cores := (s.removeLaunch lid).cores, launches := (s.removeLaunch lid).launches
                                  waves := s.waves.filter (fun e => e.2.launch != lid), groups := s.groups.filter (fun e => e.2.launch != lid) } := by
  have hfree := coresOnly_freeWaves s (s.wavesOf lid)
  unfold State.removeLaunch
  dsimp only
  generalize (s.wavesOf lid).foldl (fun s e => s.freeWaveRegs e.2) s = u at hfree ⊢
  rw [State.updLaunch_eq, hfree]

theorem removeLaunch_launch? {s : State} {lid : Nat} {l : Launch} (hl : s.launch? lid = some l) :
    (s.removeLaunch lid).launch? lid = some { l with chanCores := [] } := by
  have hfree := coresOnly_freeWaves s (s.wavesOf lid)
  refine State.launch?_updLaunch_some ?_ _
  rw [hfree]
  exact hl

/-! ### The image (12 R286) -/

theorem lookT_filter_key {α : Type} (p : Nat → Bool) (m : List (Nat × α)) (k : Nat) :
    lookT (m.filter (fun e => p e.1)) k = if p k then lookT m k else none := by
  split
  · next hp => exact lookT_filter _ m k (fun _ => hp)
  · next hp =>
    cases h : lookT (m.filter (fun e => p e.1)) k with
    | none => rfl
    | some v => exact absurd (List.mem_filter.mp (mem_of_lookT h)).2 hp

/-- An image's wave holds every named register, and 0 elsewhere. -/
theorem onlyNamed_v (w : Wave) {depth lane n : Nat} (hlane : lane < 64) (hn : n < 512) :
    w.onlyNamed.v depth lane n = if unitNamed w (lane / 4) depth (n / 8) then w.v depth lane n else 0 := by
  have hl : vKey depth lane n / 512 % 64 = lane := by unfold vKey; omega
  have hd : vKey depth lane n / 32768 = depth := by unfold vKey; omega
  have hr : vKey depth lane n % 512 = n := by unfold vKey; omega
  rw [Wave.v, Wave.v, Wave.onlyNamed, getT_eq, getT_eq, lookT_filter_key (fun k => unitNamed w (k / 512 % 64 / 4) (k / 32768) (k % 512 / 8)), hl, hd, hr]
  split <;> rfl

theorem victimRelease_leaves {s : State} {lid : Nat} {l : Launch} (hl : s.launch? lid = some l) (hdue : s.victimDue lid = true) (hrel : l.relAt.isSome) :
    ∃ t l' img, exec (.victimRelease lid) s = .next t ∧ t.launch? lid = some l' ∧ l'.at_ = .saved ∧ l'.image = some img
      ∧ (∀ k w, t.wave? k = some w → w.launch ≠ lid) ∧ (∀ e ∈ t.groups, e.2.launch ≠ lid)
      ∧ (∀ k, (∀ o ∈ (t.core k).copyQ, o.launch ≠ lid) ∧ ∀ o ∈ (t.core k).matrixQ, o.launch ≠ lid)
      ∧ ∀ e ∈ s.waves, e.2.launch = lid → ∃ w ∈ img.waves, w.group = e.2.group ∧ w.widx = e.2.widx ∧ w.parts = e.2.parts ∧ w.preds = e.2.preds
        ∧ ∀ depth lane n, lane < 64 → n < 512 → w.v depth lane n = if unitNamed e.2 (lane / 4) depth (n / 8) then e.2.v depth lane n else 0 := by
  set img := s.imageOf lid (l.image.getD SaveImage.empty) with himg
  set u := (s.removeLaunch lid).dropEngines (fun l => l == lid) with hu
  obtain ⟨hcores, hnone⟩ := dropEngines_drops (s.removeLaunch lid) lid
  have hupd := State.updLaunch_eq u lid (fun l => { l with at_ := .saved, acceptedAt := u.dcc, image := some img, relAt := none })
  have hexec : exec (.victimRelease lid) s
      = .next (u.updLaunch lid (fun l => { l with at_ := .saved, acceptedAt := u.dcc, image := some img, relAt := none })) := by
    have hsent : l.relAt ≠ none := by simpa [Option.isSome_iff_ne_none] using hrel
    show execVictimRelease lid s = _
    rw [execVictimRelease, hdue, hl]
    exact if_neg hsent
  have hl' : u.launch? lid = some { l with chanCores := [] } := by
    rw [hu, State.launch?, hcores]
    exact removeLaunch_launch? hl
  have hwaves : u.waves = s.waves.filter (fun e => e.2.launch != lid) := by rw [hu, hcores, removeLaunch_eq]
  have hgroups : u.groups = s.groups.filter (fun e => e.2.launch != lid) := by rw [hu, hcores, removeLaunch_eq]
  refine ⟨_, _, img, hexec, State.launch?_updLaunch_some hl' _, rfl, rfl, fun k w hw => ?_, fun e he => ?_, fun k => ?_, fun e he hlaunch => ?_⟩
  · rw [State.wave?, hupd, hwaves] at hw
    simpa using (List.mem_filter.mp (mem_of_lookT hw)).2
  · rw [hupd, hgroups] at he
    simpa using (List.mem_filter.mp he).2
  · rw [State.core, hupd]
    exact hnone k
  · have hin : e ∈ s.wavesOf lid := List.mem_filter.mpr ⟨he, by simpa using hlaunch⟩
    exact ⟨{ e.2.onlyNamed with saved := true }, List.mem_map.mpr ⟨e.2, List.mem_map.mpr ⟨e, hin, rfl⟩, rfl⟩, rfl, rfl, rfl, rfl,
      fun depth lane n hlane hn => onlyNamed_v e.2 hlane hn⟩

end Sys2Proof.Machine
end

section
/-! SUPPORT. The return of a saved launch (11 R271, 12 R289, R291). -/

namespace Sys2Proof.Machine

/-! ### The groups go back to their cores -/

/-- A saved wave in its new place: its key and the wave. -/
def backWave (core : Nat) (runs : List (Nat × Nat)) (z : Wave × Nat × Nat × Nat) : Nat × Wave :=
  (core * 128 + z.2.2.2,
    { z.1 with core := core, partition := z.2.1, quad0 := z.2.2.1, slot := z.2.2.2, parts := z.1.parts.map (moveFrames runs) })

/-- What a group that is put back changes in its launch and among the waves. -/
structure GroupBack (s t : State) (lid : Nat) (ws : List Wave) : Prop where
  dcc : t.dcc = s.dcc
  launch : ∀ l, s.launch? lid = some l → ∃ l', t.launch? lid = some l' ∧ l' = { l with chanCores := l'.chanCores }
  waves : ∃ core runs at_, at_.length = ws.length ∧ t.waves = ((ws.zip at_).map (backWave core runs)).foldl (fun m z => putT m z.1 z.2) s.waves

theorem restoreGroup_back {s t : State} {lid core : Nat} {img : SaveImage} {e : Nat × Group} {pl : Place}
    (h : s.restoreGroup lid img core e = some (t, pl)) : GroupBack s t lid (img.waves.filter (fun w => w.group == e.1)) := by
  unfold State.restoreGroup at h
  dsimp only at h
  split at h
  · next l scr t0 k at_ hl hscr ht0 hplace =>
    split at h
    · exact absurd h (by simp)
    · split at h
      · exact absurd h (by simp)
      · next runs _ _ =>
        obtain ⟨rfl, -⟩ := Prod.mk.inj (Option.some.inj h)
        refine ⟨by rw [State.updLaunch_eq]; rfl, fun x hx => ⟨_, State.launch?_updLaunch_some (by exact hx) _, rfl⟩, core, runs, at_, ?_, by rw [State.updLaunch_eq]; rfl⟩
        rw [placeWaves_length hplace, List.length_map]
  · exact absurd h (by simp)

/-- A launch that is being put back at its origin. -/
def BackAt (s t : State) (lid : Nat) (l : Launch) (e : Nat × Nat) : Prop :=
  t.dcc = s.dcc ∧ ∃ l', t.launch? lid = some l' ∧ l' = { l with x0 := e.1, y0 := e.2, chanCores := l'.chanCores }

theorem BackAt.group {s t u : State} {lid : Nat} {l : Launch} {e : Nat × Nat} {ws : List Wave} (h : BackAt s t lid l e) (hu : GroupBack t u lid ws) :
    BackAt s u lid l e := by
  obtain ⟨hdcc, l', hl', heq⟩ := h
  obtain ⟨l'', hl'', heq'⟩ := hu.launch l' hl'
  refine ⟨hu.dcc.trans hdcc, l'', hl'', ?_⟩
  rw [heq', heq]

theorem restoreGroups_back {s t u : State} {lid : Nat} {l : Launch} {e : Nat × Nat} {img : SaveImage} {dx dy : Int} {gs : List (Nat × Group)}
    {acc places : List (Nat × Place)} (h : BackAt s t lid l e) (hu : t.restoreGroups lid img dx dy gs acc = some (u, places)) : BackAt s u lid l e := by
  induction gs generalizing t acc with
  | nil =>
    obtain ⟨rfl, -⟩ := Prod.mk.inj (Option.some.inj hu)
    exact h
  | cons g r ih =>
    rw [State.restoreGroups] at hu
    split at hu
    · exact absurd hu (by simp)
    · next hgroup => exact ih (h.group (restoreGroup_back hgroup)) hu

/-- The state with the launch at its new origin. -/
def State.movedTo (s : State) (lid : Nat) (e : Nat × Nat) : State := s.updLaunch lid (fun l => { l with x0 := e.1, y0 := e.2 })

section
variable {s s1 : State} {lid : Nat} {l : Launch} {e : Nat × Nat} {img : SaveImage} {places : List (Nat × Place)}

theorem restoredAt_groups (himg : l.image = some img) (h : s.restoredAt lid l e = some (s1, places)) :
    (s.movedTo lid e).restoreGroups lid img ((e.1 : Int) - l.x0) ((e.2 : Int) - l.y0) img.groups [] = some (s1, places) := by
  rw [State.restoredAt, himg] at h
  exact h

theorem movedTo_back (hl : s.launch? lid = some l) (e : Nat × Nat) : BackAt s (s.movedTo lid e) lid l e :=
  ⟨by rw [State.movedTo, State.updLaunch_eq], _, State.launch?_updLaunch_some hl _, rfl⟩

/-- A launch of one group of one wave stands in its new place with it. -/
theorem restoredAt_wave (himg : l.image = some img) (h : s.restoredAt lid l e = some (s1, places)) {g : Nat × Group} {w0 : Wave}
    (hg : img.groups = [g]) (hw : img.waves = [w0]) (hgroup : w0.group = g.1) :
    ∃ core runs z, s1.wave? (backWave core runs (w0, z)).1 = some (backWave core runs (w0, z)).2 := by
  have hgroups := restoredAt_groups himg h
  rw [hg, State.restoreGroups] at hgroups
  split at hgroups
  · exact absurd hgroups (by simp)
  · next u pl hone =>
    obtain ⟨rfl, -⟩ := Prod.mk.inj (Option.some.inj hgroups)
    obtain ⟨core, runs, at_, hlen, hwaves⟩ := (restoreGroup_back hone).waves
    have hws : img.waves.filter (fun w => w.group == g.1) = [w0] := by rw [hw]; exact List.filter_cons_of_pos (by simpa using hgroup)
    rw [hws] at hlen hwaves
    obtain ⟨z, rfl⟩ := List.length_eq_one_iff.mp hlen
    refine ⟨core, runs, z, ?_⟩
    rw [State.wave?, hwaves]
    exact lookT_putT_self ..

end

/-! ### What else a return writes -/

/-- Launches, waves and the time are those of before. -/
structure KeepsWaves (s t : State) : Prop where
  launches : t.launches = s.launches
  waves : t.waves = s.waves
  dcc : t.dcc = s.dcc

theorem KeepsWaves.refl (s : State) : KeepsWaves s s := ⟨rfl, rfl, rfl⟩
theorem KeepsWaves.trans {s t u : State} (h : KeepsWaves s t) (h' : KeepsWaves t u) : KeepsWaves s u :=
  ⟨h'.launches.trans h.launches, h'.waves.trans h.waves, h'.dcc.trans h.dcc⟩

theorem KeepsWaves.foldl {α : Type} {f : State → α → State} (h : ∀ s a, KeepsWaves s (f s a)) (xs : List α) (s : State) : KeepsWaves s (xs.foldl f s) :=
  List.foldlRecOn xs _ (.refl s) (fun _ hb _ _ => hb.trans (h ..))

theorem keepsWaves_updCore (s : State) (core : Nat) (f : Core → Core) : KeepsWaves s (s.updCore core f) := ⟨rfl, rfl, rfl⟩

theorem keepsWaves_updGroup (s : State) (g : Nat) (f : Group → Group) : KeepsWaves s (s.updGroup g f) := by
  unfold State.updGroup
  split <;> exact ⟨rfl, rfl, rfl⟩

theorem keepsWaves_fillGroup (s : State) (img : SaveImage) (e : Nat × Place) : KeepsWaves s (s.fillGroup img e) := by
  unfold State.fillGroup
  split
  · exact .refl s
  · refine KeepsWaves.trans ?_ (keepsWaves_updGroup ..)
    have hputs := KeepsWaves.foldl (f := fun (t : State) (r : Nat × Nat) => t.putScratch e.2.core (getT 0 e.2.frames r.1 * 8192) (r.2 * 8192)
      (getT [] img.scratch (2 * r.1 + 1))) (fun _ _ => ⟨rfl, rfl, rfl⟩) (frameRuns (img.waves.filter (fun w => w.group == e.1)))
    exact ⟨(hputs _).launches, (hputs _).waves, (hputs _).dcc⟩

theorem keepsWaves_requeueStream (s : State) (core : Nat) (o : MmaOp) (isA : Bool) : KeepsWaves s (s.requeueStream core o isA).1 := by
  unfold State.requeueStream
  dsimp only
  split
  · exact .refl s
  · exact KeepsWaves.foldl (f := fun (t : State) (x : Nat × MmaOp) => t.updStream x.1 x.2.id isA
      (fun x => { x with steps := min x.steps (o.stream isA).steps })) (fun _ _ => ⟨rfl, rfl, rfl⟩) _ _

theorem keepsWaves_requeueMma (s : State) (places : List (Nat × Place)) (o : MmaOp) : KeepsWaves s (s.requeueMma places o) := by
  unfold State.requeueMma
  dsimp only
  refine KeepsWaves.trans ?_ (keepsWaves_updCore _ _ _)
  exact (keepsWaves_requeueStream ..).trans (keepsWaves_requeueStream ..)

/-- The waves of a launch go on. -/
def State.resumed (s : State) (lid : Nat) : State :=
  { s with waves := s.waves.map (fun (w : Nat × Wave) => if w.2.launch = lid then (w.1, resumeWave s.dcc w.2) else w) }

/-- Its engine operations are issued again, and its cores are reserved. -/
def State.requeued (s : State) (img : SaveImage) (places : List (Nat × Place)) (cores : List Nat) : State :=
  cores.foldl (fun s c => (s.reserveCore c).invalidateClean c)
    (img.matrix.foldl (fun s o => s.requeueMma places o.2) (img.copies.foldl (fun s o => s.reissueCopy img places o.1 o.2) s))

theorem keepsWaves_requeued (s : State) (img : SaveImage) (places : List (Nat × Place)) (cores : List Nat) :
    KeepsWaves s (s.requeued img places cores) := by
  have hcopies := KeepsWaves.foldl (f := fun (t : State) (o : Nat × CopyOp) => t.reissueCopy img places o.1 o.2) (fun _ _ => ⟨rfl, rfl, rfl⟩) img.copies s
  have hmatrix := KeepsWaves.foldl (f := fun (t : State) (o : Nat × MmaOp) => t.requeueMma places o.2) (fun _ _ => keepsWaves_requeueMma ..) img.matrix
  have hcores := KeepsWaves.foldl (f := fun (t : State) c => (t.reserveCore c).invalidateClean c) (fun _ _ => ⟨rfl, rfl, rfl⟩) cores
  exact (hcopies.trans (hmatrix _)).trans (hcores _)

/-- A state that a launch has returned to, before its record is written. -/
def State.returned (s1 : State) (lid : Nat) (l : Launch) (e : Nat × Nat) (img : SaveImage) (places : List (Nat × Place)) : State :=
  ((places.foldl (fun s p => s.fillGroup img p) s1).resumed lid).requeued img places (rectCores e.1 e.2 l.logw l.logh)

theorem returned_launches (s1 : State) (lid : Nat) (l : Launch) (e : Nat × Nat) (img : SaveImage) (places : List (Nat × Place)) :
    (s1.returned lid l e img places).launches = s1.launches := by
  have hfill : KeepsWaves s1 (places.foldl (fun s p => s.fillGroup img p) s1) := .foldl (fun _ _ => keepsWaves_fillGroup ..) _ _
  exact (keepsWaves_requeued ..).launches.trans hfill.launches

theorem returned_wave? (s1 : State) (lid : Nat) (l : Launch) (e : Nat × Nat) (img : SaveImage) (places : List (Nat × Place)) (k : Nat) :
    (s1.returned lid l e img places).wave? k = (s1.wave? k).map (fun w => if w.launch = lid then resumeWave s1.dcc w else w) := by
  have hfill : KeepsWaves s1 (places.foldl (fun s p => s.fillGroup img p) s1) := .foldl (fun _ _ => keepsWaves_fillGroup ..) _ _
  have hwaves : (s1.returned lid l e img places).waves = ((places.foldl (fun s p => s.fillGroup img p) s1).resumed lid).waves :=
    (keepsWaves_requeued ..).waves
  rw [State.wave?, hwaves, State.resumed, hfill.waves, hfill.dcc]
  exact lookT_map_if (fun w : Wave => w.launch = lid) (resumeWave s1.dcc) s1.waves k

/-- The record of a launch that has returned. -/
def Launch.returned (v l : Launch) (now quantum : Nat) (places : List (Nat × Place)) : Launch :=
  { v with
    at_ := .placed
    waited := l.waited + (now - l.acceptedAt)
    acceptedAt := now
    protectedUntil := if l.due then some (now + quantum / 8) else none
    ready := now
    stealing := []
    rbars := v.rbars.map (fun (r : Nat × RbarCore) =>
      (r.1, { r.2 with arrived := remap ((places.filter (fun p => v.rel p.2.core == r.1)).flatMap (fun p => p.2.slots)) r.2.arrived }))
    deques := v.deques }

theorem launchRestore_returns {s s1 : State} {lid : Nat} {l : Launch} {e : Nat × Nat} {img : SaveImage} {places : List (Nat × Place)}
    (hl : s.launch? lid = some l) (hat : l.at_ = .saved) (hplace : s.restoreAt lid l = some e) (himg : l.image = some img)
    (h : s.restoredAt lid l e = some (s1, places)) :
    ∃ t l', exec (.launchRestore lid) s = .next t ∧ t.launch? lid = some l' ∧ l'.at_ = .placed ∧ (l'.x0, l'.y0) = e ∧ l'.kernel = l.kernel
      ∧ (∀ k w, t.wave? k = some w → w.launch = lid → w.pend = false ∧ ∀ p ∈ w.parts, p.park = .running ∧ p.notBefore = s.dcc + 16)
      ∧ ∀ g w0, img.groups = [g] → img.waves = [w0] → w0.group = g.1 → w0.launch = lid →
        ∃ k w, t.wave? k = some w ∧ w.vregs = w0.vregs ∧ w.preds = w0.preds ∧ w.parts.map (fun p => (p.pc, p.regs)) = w0.parts.map (fun p => (p.pc, p.regs)) := by
  set u := s1.returned lid l e img places with hu
  obtain ⟨hdcc, v, hv, hveq⟩ := restoreGroups_back (movedTo_back hl e) (restoredAt_groups himg h)
  have hexec : exec (.launchRestore lid) s = .next (u.updLaunch lid (fun v => v.returned l u.dcc u.quantum places)) := by
    show execLaunchRestore lid s = _
    rw [execLaunchRestore, hl]
    dsimp only
    rw [if_neg (not_not.mpr hat), hplace, himg]
    dsimp only
    rw [h]
    rfl
  have hlu : u.launch? lid = some v := by
    rw [State.launch?, hu, returned_launches]
    exact hv
  have hwave : ∀ k, (u.updLaunch lid (fun v => v.returned l u.dcc u.quantum places)).wave? k
      = (s1.wave? k).map (fun w => if w.launch = lid then resumeWave s1.dcc w else w) := by
    intro k
    rw [← returned_wave? s1 lid l e img places k, State.updLaunch_eq]
    rfl
  refine ⟨_, _, hexec, State.launch?_updLaunch_some hlu _, rfl, ?_, ?_, fun k w hw hlaunch => ?_, fun g w0 hg hw0 hgroup hlaunch => ?_⟩
  · rw [hveq]
    rfl
  · rw [hveq]
    rfl
  · rw [hwave] at hw
    obtain ⟨w1, -, hw1⟩ := Option.map_eq_some_iff.mp hw
    split at hw1
    · subst hw1
      refine ⟨rfl, fun p hp => ?_⟩
      obtain ⟨q, -, rfl⟩ := List.mem_map.mp hp
      exact ⟨rfl, by rw [← hdcc]; rfl⟩
    · next hne => exact absurd (hw1 ▸ hlaunch) hne
  · obtain ⟨core, runs, z, hback⟩ := restoredAt_wave himg h hg hw0 hgroup
    have hsame : (backWave core runs (w0, z)).2.launch = lid := hlaunch
    refine ⟨(backWave core runs (w0, z)).1, resumeWave s1.dcc (backWave core runs (w0, z)).2, ?_, rfl, rfl, ?_⟩
    · rw [hwave, hback, Option.map_some, if_pos hsame]
    · simp only [resumeWave, backWave, List.map_map]
      rfl

end Sys2Proof.Machine
end

section
/-! SUPPORT. The statement about pre-emption. -/

open Sys2Proof Sys2Proof.Machine

/-- Settles O48, from the choice of victims, the forced save of a part, the two steps of a victim's release, and its return. -/
theorem preemptionRuns : Obligations.PreemptionRuns := by
  unfold Obligations.PreemptionRuns
  intro s lid l hl
  refine ⟨preemptVictimChoice_chooses, launchDue_due hl, protectionEnd_ends hl, fun r p hone hp => ⟨fun hnone => ?_, forcedSave_stops hone hp⟩,
    victimRelease_sends hl, victimRelease_leaves hl, fun e img s1 places hat hplace himg h => launchRestore_returns hl hat hplace himg h⟩
  obtain ⟨t, ht, hpart, hmem, hscratch⟩ := forcedSave_saves hone hp hnone
  refine ⟨t, _, ht, hpart, rfl, rfl, rfl, rfl, rfl, fun k n hpark => ?_, fun d hpark => ?_, hmem, hscratch⟩
  · show p.confRest s.dcc = _
    rw [Part.confRest, hpark]
  · show p.sleepRest = _
    rw [Part.sleepRest, hpark]

end

section
/-! SUPPORT. The compares: each is the model's operation on a predicate (20 R434, R440). -/

namespace Sys2Proof.Machine

/-- The operands of a compare: one element a lane (04 R84). -/
abbrev compareForm (r : RWord) (x : XaWord) : XaForm := { intForm r x with block := false }

theorem intCompare_result {i : Instr} {r : RWord} {x : XaWord} {len : Nat} (he : ∀ s, exec i s = intCompare r x len s) :
    CompareResult i r.s len (r.d.toNat % 8) x (fun c => [(compareForm r x).a c, (compareForm r x).b c]) (fun c l =>
      (condHolds x.sub.toNat (intOf x.ty.toNat (c.src (tyWidth x.ty.toNat) l ((compareForm r x).a c) 0 0))
        (intOf x.ty.toNat (c.src (tyWidth x.ty.toNat) l ((compareForm r x).b c) 0 0)), 0)) :=
  compareResult_of i r.s len (compareForm r x) _ _ he

theorem floatCompare_result {i : Instr} {r : RWord} {x : XaWord} {len : Nat} (he : ∀ s, exec i s = floatCompare r x len s) :
    CompareResult i r.s len (r.d.toNat % 8) x (fun c => [(compareForm r x).a c, (compareForm r x).b c]) (fun c l =>
      (fmtTy x.ty.toNat).fcmp c.ftz x.sub.toNat (c.src (tyWidth x.ty.toNat) l ((compareForm r x).a c) 0 0)
        (c.src (tyWidth x.ty.toNat) l ((compareForm r x).b c) 0 0)) :=
  compareResult_of i r.s len (compareForm r x) _ _ he

end Sys2Proof.Machine
end

section
/-! SUPPORT. The statement about compares. -/

open Sys2Proof Sys2Proof.Machine

/-- Settles O6: every compare is the model's operation on a predicate, whose result `compareResult_of` states. -/
theorem compareGroup : Obligations.CompareGroup := by
  unfold Obligations.CompareGroup
  exact fun r x => ⟨intCompare_result (fun _ => rfl), intCompare_result (fun _ => rfl), floatCompare_result (fun _ => rfl),
    floatCompare_result (fun _ => rfl)⟩

end

section
/-! SUPPORT. Traps before an instruction's effect and as its effect (05 R114, 12 R274, R275), and the register checks (04 R77-R81). -/

namespace Sys2Proof.Machine

/-! ### The checks before issue (05 R114) -/

theorem issue_of_user {h : Hdr} {s : State} {c : Ctx} (hi : s.issuing = some c) (hpriv : h.priv = true) (huser : c.part.regs.privseg = false)
    (eff : Ctx → State → State) : issue h eff s = .next (s.precise c tcPriv 0 0) := by
  rw [issue, hi]
  dsimp only
  rw [issueIn, if_pos (by simp [hpriv, huser])]

theorem issue_of_pre {h : Hdr} {s : State} {c : Ctx} {code detail : Nat} {taddr : W64} (hi : s.issuing = some c) (hpriv : h.priv = false)
    (hpre : h.pre c s = some (code, detail, taddr)) (eff : Ctx → State → State) : issue h eff s = .next (s.precise c code detail taddr) := by
  rw [issue, hi]
  dsimp only
  rw [issueIn, hpriv, hpre]
  rfl

theorem issue_of_badRegs {h : Hdr} {s : State} {c : Ctx} {code reg : Nat} (hi : s.issuing = some c) (hpriv : h.priv = false)
    (hpre : h.pre c s = none) (hregs : checkVops (h.regs c s) c.wb c.allot = some (code, reg)) (eff : Ctx → State → State) :
    issue h eff s = .next (s.precise c code 0 (BitVec.ofNat 64 reg)) := by
  rw [issue, hi]
  dsimp only
  rw [issueIn, hpriv, hpre]
  dsimp only
  rw [hregs]
  rfl

/-! ### Instructions that trap -/

/-- An instruction that answers a trap at its own word enters the handler of a part that is ready for it. -/
theorem trapsWith_of {i : Instr} {ready : State → Ctx → Prop} {code : Nat} {detail : State → Ctx → Nat} {taddr : State → Ctx → W64}
    {resume : Ctx → W64}
    (h : ∀ s c, s.issuing = some c → HandlerReady c → ready s c → exec i s = .next
      (s.takeTrap c.ref { code := code, detail := detail s c, taddr := taddr s c, tword := c.part.pc, resume := resume c })) :
    TrapsWith i ready code detail taddr resume := by
  intro s c hi handler hready
  obtain ⟨w, p, hin⟩ := takeTrap_inHandler (issuing_ctx hi) handler code (detail s c) (taddr s c) (resume c)
  exact ⟨_, w, p, h s c hi handler hready, hin⟩

/-- A privileged instruction in a segment that is not privileged takes PRIV (04 R90). -/
theorem privileged_traps {i : Instr} {h : Hdr} {eff : Ctx → State → State} (he : ∀ s, exec i s = issue h eff s) (hpriv : h.priv = true) :
    TrapsWith i (fun _ c => c.part.regs.privseg = false) tcPriv (fun _ _ => 0) (fun _ _ => 0) (fun c => c.part.pc) :=
  trapsWith_of (fun s _ hi _ huser => (he s).trans (issue_of_user hi hpriv huser eff))

/-- An instruction out of its place traps by the checks of its header. -/
theorem misplaced_traps {i : Instr} {h : Hdr} {eff : Ctx → State → State} {ready : Ctx → Prop} {code detail : Nat}
    (he : ∀ s, exec i s = issue h eff s) (hpriv : h.priv = false) (hpre : ∀ s c, HandlerReady c → ready c → h.pre c s = some (code, detail, 0)) :
    TrapsWith i (fun _ c => ready c) code (fun _ _ => detail) (fun _ _ => 0) (fun c => c.part.pc) :=
  trapsWith_of (fun s c hi handler hready => (he s).trans (issue_of_pre hi hpriv (hpre s c handler hready) eff))

/-- A vector instruction takes the trap of the first register check that fails (04 R77, R81). -/
theorem vectorOp_traps {i : Instr} {sm : Bool} {len : Nat} {o : XaForm} {srcs : Ctx → List Src} {f : Ctx → Nat → Nat → Nat → FRes}
    (he : ∀ s, exec i s = vectorOp sm len o srcs f s) (code reg : Nat) :
    TrapsWith i (fun _ c => checkVops (o.d c :: (srcs c).flatMap Src.vops) c.wb c.allot = some (code, reg)) code (fun _ _ => 0)
      (fun _ _ => BitVec.ofNat 64 reg) (fun c => c.part.pc) :=
  trapsWith_of (fun s _ hi _ hbad => (he s).trans (issue_of_badRegs hi rfl rfl hbad _))

theorem trap_traps (r : RWord) : TrapsWith (.trap r) (fun _ c => Plain c r.s) tcSoft (fun _ _ => r.b.toNat) (fun _ _ => 0)
    (fun c => c.part.pc + 4) :=
  trapsWith_of (fun s c hi _ free => issue_next _ _ c s hi (by simp) rfl rfl free)

theorem brk_traps (r : RWord) : TrapsWith (.brk r) (fun s c => Plain c r.s ∧ (s.die (dieOf c.ref.core)).brkHalt = false) tcBrk (fun _ _ => 0)
    (fun _ _ => 0) (fun c => c.part.pc + 4) := by
  refine trapsWith_of (fun s c hi _ hready => ?_)
  obtain ⟨free, hhalt⟩ := hready
  refine (issue_next _ _ c s hi (by simp) rfl rfl free).trans (congrArg _ (if_neg ?_))
  simp [hhalt]

/-- A register jump to 2^57 or above takes ACCESS 5 (20 R442). -/
theorem jmp_traps_high (u : UWord) : TrapsWith (.jmp u) (fun _ c => Plain c u.s ∧ 2 ^ 57 ≤ (c.sreg u.a.toNat).toNat) tcAccess (fun _ _ => 5)
    (fun _ c => c.sreg u.a.toNat) (fun c => c.part.pc) := by
  refine trapsWith_of (fun s c hi _ hready => ?_)
  obtain ⟨free, hhigh⟩ := hready
  refine (issue_next _ _ c s hi (by simp) rfl rfl free).trans (congrArg _ (if_pos ?_))
  have := Nat.div_pos hhigh (by decide)
  omega

/-- A register jump to an address that is not a multiple of four takes ALIGN (20 R442). -/
theorem jmp_traps_unaligned (u : UWord) :
    TrapsWith (.jmp u) (fun _ c => Plain c u.s ∧ (c.sreg u.a.toNat).toNat < 2 ^ 57 ∧ (c.sreg u.a.toNat).toNat % 4 ≠ 0) tcAlign (fun _ _ => 0)
      (fun _ c => c.sreg u.a.toNat) (fun c => c.part.pc) := by
  refine trapsWith_of (fun s c hi _ hready => ?_)
  obtain ⟨free, hlow, hunaligned⟩ := hready
  exact (issue_next _ _ c s hi (by simp) rfl rfl free).trans
    (congrArg _ ((if_neg (not_not.mpr (Nat.div_eq_of_lt hlow))).trans (if_pos hunaligned)))

theorem reservedOpcode_traps : TrapsWith .reservedOpcode (fun _ _ => True) tcIllegal (fun _ _ => 0) (fun _ c => c.part.pc) (fun c => c.part.pc) := by
  refine trapsWith_of (fun s c hi _ _ => ?_)
  have hword : wordAddr c 0 = c.part.pc := BitVec.add_zero _
  rw [show exec .reservedOpcode s = execReservedOpcode s from rfl, execReservedOpcode, hi]
  dsimp only
  rw [hword]
  rfl

/-! ### The register checks (04 R77, R79, R81) -/

/-- A field passes when it stays in the region of its operand's first field and names a register below ALLOT. -/
theorem badField_eq_false_iff {e0 wb allot e : Nat} :
    badField e0 wb allot e = false ↔ (if e0 < 16 then e < 16 else e ≤ 127) ∧ (if e0 < 16 then e else wb + e) < allot := by
  unfold badField
  split <;> simp

theorem check_eq_none_iff {o : Vop} {wb allot : Nat} :
    o.check wb allot = none ↔ regNumber wb (o.field 0 0) % o.al = 0 ∧ ∀ e ∈ o.fields, badField (o.field 0 0) wb allot e = false := by
  unfold Vop.check
  dsimp only
  split
  · next h => simp [h]
  · next h => simp [not_not.mp h]

theorem checkVops_eq_none_iff {ops : List Vop} {wb allot : Nat} :
    checkVops ops wb allot = none ↔ ∀ o ∈ ops, regNumber wb (o.field 0 0) % o.al = 0
      ∧ ∀ e ∈ o.fields, (if o.field 0 0 < 16 then e < 16 else e ≤ 127) ∧ (if o.field 0 0 < 16 then e else wb + e) < allot := by
  simp only [checkVops, List.findSome?_eq_none_iff, check_eq_none_iff, badField_eq_false_iff]

end Sys2Proof.Machine
end

section
/-! SUPPORT. The statement about traps. -/

open Sys2Proof Sys2Proof.Machine

/-- Settles O14: each check before issue answers a trap that leaves the part at its word, `trap` and `brk` one behind it. -/
theorem traps : Obligations.Traps := by
  unfold Obligations.Traps
  refine ⟨fun r => ⟨trap_traps r, brk_traps r⟩, ⟨fun u => ?_, fun r x code reg => ?_, fun r => ?_, reservedOpcode_traps⟩,
    fun _ _ _ => checkVops_eq_none_iff⟩
  · exact ⟨privileged_traps (fun _ => rfl) rfl, privileged_traps (fun _ => rfl) rfl,
      fun hpriv => ⟨privileged_traps (fun _ => rfl) hpriv, privileged_traps (fun _ => rfl) hpriv⟩, jmp_traps_high u, jmp_traps_unaligned u⟩
  · exact ⟨vectorOp_traps (fun _ => rfl) code reg, vectorOp_traps (fun _ => rfl) code reg⟩
  · exact ⟨misplaced_traps (fun _ => rfl) rfl (fun _ _ _ hentry => if_neg (by simp [hentry])),
      misplaced_traps (fun _ => rfl) rfl (fun _ _ _ hframes => if_pos hframes),
      misplaced_traps (ready := fun _ => True) (fun _ => rfl) rfl (fun _ _ ⟨hcode, _⟩ _ => if_pos hcode)⟩

end

section
/-! SUPPORT. System registers: what `srget` reads and what a write leaves in the part, the wave or the core (04 R88-R94, 22 R492). -/

namespace Sys2Proof.Machine

/-! ### A wave updated as its part moves on -/

theorem WaveIs.congr {c : Ctx} {t : State} {f g : Wave → Wave} {p : Part} {w : Wave} (h : WaveIs c t f p w) (hfg : f c.wave = g c.wave) :
    WaveIs c t g p w := ⟨h.found, hfg ▸ h.same, h.part, h.others⟩

/-- An update of the wave that leaves its parts and vector registers, before its part moves on. -/
theorem updWave_done_effect {s : State} {c : Ctx} (hi : s.issuing = some c) {f : Wave → Wave} (hparts : (f c.wave).parts = c.wave.parts)
    (hvregs : SameVregs c.wave (f c.wave)) (len : Nat) :
    ∃ w, OnlyWave c s ((s.updWave c.ref.key f).done c len) ∧ SameVregs c.wave w
      ∧ WaveIs c ((s.updWave c.ref.key f).done c len) f (c.part.past c len s.dcc) w := by
  have hpart : ∀ b, (f c.wave).part? b = c.wave.part? b := fun b => by rw [Wave.part?, hparts]; rfl
  refine ⟨(f c.wave).updPart c.ref.base (fun p => p.past c len s.dcc), (onlyWave_updWave c s f).trans (onlyWave_done c _ len), hvregs,
    ?_, rfl, part?_updPart_some ((hpart _).trans (issuing_part hi)) _ (fun _ => rfl), fun b hb => ?_⟩
  · rw [wave?_done (wave?_updWave_some (issuing_wave hi) f), State.updWave_dcc]
  · rw [Wave.part?_updPart_of_ne _ (fun p => p.past c len s.dcc) (fun _ => rfl) hb, hpart]

/-! ### `srget` (22 R492) -/

theorem srget_becomes {s : State} {c : Ctx} {u : UWord} (hi : s.issuing = some c) (free : Plain c u.s)
    (may : privIndex u.index = true → c.part.regs.privseg = true) :
    ∃ t, exec (.srget u) s = .next t
      ∧ PartBecomes c s t ((c.part.setS u.d.toNat (BitVec.ofNat 64 (s.sysReg c u.index))).past c 4 s.dcc) :=
  ⟨_, issue_next _ _ c s hi may rfl rfl free, ((partBecomes_refl hi).updPart (fun p => p.setS u.d.toNat _) (fun _ => rfl)).done 4⟩

theorem sysReg_dcc (s : State) (c : Ctx) : s.sysReg c 0x00 = s.dcc % 2 ^ 64 := rfl
theorem sysReg_emask (s : State) (c : Ctx) : s.sysReg c 0x01 = c.emaskReg.toNat := rfl
theorem sysReg_wb (s : State) (c : Ctx) : s.sysReg c 0x05 = c.part.regs.wb.toNat := rfl
theorem sysReg_fpmode (s : State) (c : Ctx) : s.sysReg c 0x08 = c.part.regs.fpmode.toNat := rfl
theorem sysReg_fpstat (s : State) (c : Ctx) : s.sysReg c 0x09 = c.part.regs.fpstat.toNat := rfl
theorem sysReg_taddr (s : State) (c : Ctx) : s.sysReg c 0x0E = c.part.taddr.toNat := rfl
theorem sysReg_tword (s : State) (c : Ctx) : s.sysReg c 0x0F = c.part.tword.toNat := rfl
theorem sysReg_status (s : State) (c : Ctx) : s.sysReg c 0x13 = c.part.regs.status.toNat := rfl
theorem sysReg_handler (s : State) (c : Ctx) : s.sysReg c 0x20 = c.part.regs.handler.toNat := rfl

theorem bool1_eq (b : Bool) : bool1 b = if b then 1 else 0 := rfl

/-- The lowest and the highest of the four counts (03 R69). -/
theorem sysReg_counts (s : State) (c : Ctx) :
    s.sysReg c 0x0B % 256 = min c.part.ldOps.length 255 ∧ s.sysReg c 0x0B / 2 ^ 24 = min c.part.mxOps.length 255 := by
  have h : s.sysReg c 0x0B = min c.part.ldOps.length 255 + min c.part.stOps.length 255 * 2 ^ 8 + min c.part.cpOps.length 255 * 2 ^ 16
      + min c.part.mxOps.length 255 * 2 ^ 24 := rfl
  omega

theorem sysReg_tstat (s : State) (c : Ctx) :
    s.sysReg c 0x0D % 2 ^ 8 = c.part.tcodeReg.toNat ∧ s.sysReg c 0x0D / 2 ^ 8 % 2 ^ 8 = c.part.tdetail.toNat := by
  have h : s.sysReg c 0x0D = c.part.tcodeReg.toNat + c.part.tdetail.toNat * 2 ^ 8 + bool1 c.part.restart * 2 ^ 16 := rfl
  have hcode := c.part.tcodeReg.isLt
  have hdetail := c.part.tdetail.isLt
  omega

theorem sysReg_dom (s : State) (c : Ctx) :
    s.sysReg c 0x11 % 2 ^ 16 = c.part.regs.asid.toNat ∧ s.sysReg c 0x11 / 2 ^ 24 = if c.part.regs.privseg then 1 else 0 := by
  have h : s.sysReg c 0x11 = c.part.regs.asid.toNat + c.part.regs.domain.toNat * 2 ^ 16 + bool1 c.part.regs.privseg * 2 ^ 24 := rfl
  have hasid := c.part.regs.asid.isLt
  have hdomain := c.part.regs.domain.isLt
  rw [← bool1_eq]
  omega

/-! ### The fields of a write to a part's register (04 R92) -/

theorem Part.srset_base (p : Part) (idx : Nat) (v : W64) : (p.srset idx v).base = p.base := by
  simp only [Part.srset, apply_ite Part.base, ite_self]

/-- A bit written 1 clears a bit of a sticky register. -/
theorem getLsbD_clear {n b : Nat} (r : BitVec n) (v : W64) (hb : b < n) :
    (r &&& ~~~(v.extractLsb' 0 n)).getLsbD b = (r.getLsbD b && !v.getLsbD b) := by
  simp [hb]

theorem srset_fpstat_bit (p : Part) (v : W64) {b : Nat} (hb : b < 5) :
    (p.srset 0x09 v).regs.fpstat.getLsbD b = (p.regs.fpstat.getLsbD b && !v.getLsbD b) := getLsbD_clear _ v hb

theorem srset_status_bit (p : Part) (v : W64) {b : Nat} (hb : b < 4) :
    (p.srset 0x13 v).regs.status.getLsbD b = (p.regs.status.getLsbD b && !v.getLsbD b) := getLsbD_clear _ v hb

theorem srset_tword (p : Part) (v : W64) : (p.srset 0x0F v).tword.toNat = v.toNat % 2 ^ 57 :=
  (BitVec.toNat_and ..).trans ((and_mask v.toNat 57 0).trans (by simp))

theorem srset_handler (p : Part) (v : W64) : (p.srset 0x20 v).regs.handler.toNat = v.toNat % 2 ^ 57 / 4 * 4 := toNat_callee_handler v

theorem toNat_field (v : W64) (lo len : Nat) : (v.extractLsb' lo len).toNat = v.toNat / 2 ^ lo % 2 ^ len := by
  rw [BitVec.extractLsb'_toNat, Nat.shiftRight_eq_div_pow]

theorem toNat_low_field (v : W64) (len : Nat) : (v.extractLsb' 0 len).toNat = v.toNat % 2 ^ len := by
  rw [toNat_field, Nat.pow_zero, Nat.div_one]

theorem srset_amax (p : Part) (v : W64) : (p.srset 0x0A v).regs.amaxv.toNat = v.toNat % 2 ^ 31 := by
  have h : (p.srset 0x0A v).regs.amaxv = (v.extractLsb' 0 31).setWidth 32 := rfl
  rw [h, BitVec.toNat_setWidth, toNat_low_field]
  omega

/-! ### Sticky bits that an update of the same cycle sets (04 R91) -/

/-- A sticky bit that an update of cycle `now` sets, FPSTAT in bits 4:0 and STATUS in bits 8:5. -/
abbrev Part.raisedNow (p : Part) (now b : Nat) : Bool :=
  p.flags.any (fun e => e.1 == now && e.2.getLsbD b) || (decide (5 ≤ b) && p.statusAt == now && p.statusNew.getLsbD (b - 5))

theorem getLsbD_foldl_of_cycle (es : List (Nat × BitVec 9)) (now : Nat) (a : BitVec 9) (b : Nat) :
    (es.foldl (fun a e => if e.1 = now then a ||| e.2 else a) a).getLsbD b
      = (a.getLsbD b || es.any (fun e => e.1 == now && e.2.getLsbD b)) := by
  induction es generalizing a with
  | nil => simp
  | cons e r ih =>
    rw [List.foldl_cons, ih, List.any_cons]
    by_cases h : e.1 = now
    · simp [h, Bool.or_assoc]
    · rw [if_neg h, beq_false_of_ne h, Bool.false_and, Bool.false_or]

theorem getLsbD_freshFlags (p : Part) (now : Nat) {b : Nat} (hb : b < 9) : (p.freshFlags now).getLsbD b = p.raisedNow now b := by
  have hstatus : (if p.statusAt = now then p.statusNew else 0).getLsbD (b - 5) = (p.statusAt == now && p.statusNew.getLsbD (b - 5)) := by
    by_cases h : p.statusAt = now
    · simp [h]
    · rw [if_neg h, beq_false_of_ne h, Bool.false_and]
      exact BitVec.getLsbD_zero
  have hlow : (!decide (b < 5)) = decide (5 ≤ b) := by rw [← decide_not, decide_eq_decide, Nat.not_lt]
  rw [Part.freshFlags, getLsbD_foldl_of_cycle, BitVec.getLsbD_shiftLeft, BitVec.getLsbD_setWidth, hstatus, decide_eq_true hb,
    decide_eq_true (by omega : b - 5 < 9), hlow, Bool.true_and, Bool.true_and, Part.raisedNow, Bool.or_comm, Bool.and_assoc]

/-! ### `srset` (22 R492) -/

theorem srset_next {s : State} {c : Ctx} {u : UWord} (hi : s.issuing = some c) (free : Plain c u.s)
    (may : privIndex u.index = true → c.part.regs.privseg = true) (hok : badSrset c u.index (c.sreg u.d.toNat) = false) :
    exec (.srset u) s = .next ((s.srset c u.index (c.sreg u.d.toNat)).done c 4) :=
  (issue_next _ _ c s hi may rfl rfl free).trans (congrArg _ (if_neg (by simp [hok])))

theorem State.srset_part {s : State} {c : Ctx} {ix : Nat} (v : W64)
    (h : ix ≠ 0x01 ∧ ix ≠ 0x09 ∧ ix ≠ 0x13 ∧ ix ≠ 0x22 ∧ (ix < 0x24 ∨ 0x27 < ix)) :
    s.srset c ix v = s.updPart c.ref (fun p => p.srset ix v) := by
  obtain ⟨hemask, hfpstat, hstatus, hpreempt, hwatch⟩ := h
  rw [State.srset, if_neg hemask, if_neg hpreempt, if_neg (by omega), if_neg hfpstat, if_neg hstatus]

/-- A write of FPSTAT or STATUS clears the bits written 1 that no update of the cycle sets. -/
theorem srset_clears {s : State} {c : Ctx} {ix : Nat} (hi : s.issuing = some c) (v : W64) (hix : ix = 0x09 ∨ ix = 0x13) :
    ∃ p : Part, PartBecomes c s ((s.srset c ix v).done c 4) (p.past c 4 s.dcc)
      ∧ p = { c.part with regs := { c.part.regs with fpstat := p.regs.fpstat, status := p.regs.status } }
      ∧ (∀ b < 5, p.regs.fpstat.getLsbD b
          = (c.part.regs.fpstat.getLsbD b && !(decide (ix = 0x09) && v.getLsbD b && !c.part.raisedNow s.dcc b)))
      ∧ ∀ b < 4, p.regs.status.getLsbD b
          = (c.part.regs.status.getLsbD b && !(decide (ix = 0x13) && v.getLsbD b && !c.part.raisedNow s.dcc (b + 5))) := by
  rcases hix with rfl | rfl
  · refine ⟨_, ((partBecomes_refl hi).updPart (fun p => p.srset 0x09 (v &&& ~~~((p.freshFlags s.dcc).setWidth 64)))
      (fun _ => Part.srset_base ..)).done 4, rfl, fun b hb => ?_, fun b _ => (Bool.and_true _).symm⟩
    rw [srset_fpstat_bit _ _ hb, BitVec.getLsbD_and, BitVec.getLsbD_not, BitVec.getLsbD_setWidth,
      getLsbD_freshFlags _ _ (by omega : b < 9)]
    simp [show b < 64 by omega]
  · refine ⟨_, ((partBecomes_refl hi).updPart (fun p => p.srset 0x13 (v &&& ~~~((p.freshFlags s.dcc >>> 5).setWidth 64)))
      (fun _ => Part.srset_base ..)).done 4, rfl, fun b _ => (Bool.and_true _).symm, fun b hb => ?_⟩
    rw [srset_status_bit _ _ hb, BitVec.getLsbD_and, BitVec.getLsbD_not, BitVec.getLsbD_setWidth, BitVec.getLsbD_ushiftRight,
      Nat.add_comm 5 b, getLsbD_freshFlags _ _ (by omega : b + 5 < 9)]
    simp [show b < 64 by omega]

/-! ### PREEMPT and the watchpoints (04 R94, 12 R293) -/

/-- A part of a lower lane base has written PREEMPT in cycle `now` (04 R94). -/
def Wave.LowerWrote (w : Wave) (now base : Nat) : Prop := ∃ b, b < base ∧ w.timeoutBy = some (now, b)

theorem writeTimeout_of_lower {w : Wave} {now base : Nat} (v : W64) (h : w.LowerWrote now base) : w.writeTimeout now base v = w := by
  obtain ⟨b, hb, hby⟩ := h
  rw [Wave.writeTimeout, hby]
  exact if_pos (by simp [hb])

theorem writeTimeout_of_not_lower {w : Wave} {now base : Nat} (v : W64) (h : ¬ w.LowerWrote now base) :
    w.writeTimeout now base v = { w with timeout := v.toNat % 2 ^ 32, timeoutBy := some (now, base) } := by
  refine if_neg (fun hwrote => h ?_)
  cases hby : w.timeoutBy with
  | none => simp [hby] at hwrote
  | some e =>
    obtain ⟨t, b⟩ := e
    simp only [hby, Bool.and_eq_true, beq_iff_eq, decide_eq_true_eq] at hwrote
    exact ⟨b, hwrote.2, by rw [hby, hwrote.1]⟩

theorem writeTimeout_keeps (w : Wave) (now base : Nat) (v : W64) :
    (w.writeTimeout now base v).parts = w.parts ∧ SameVregs w (w.writeTimeout now base v) := by
  by_cases h : w.LowerWrote now base
  · rw [writeTimeout_of_lower v h]
    exact ⟨rfl, rfl, rfl⟩
  · rw [writeTimeout_of_not_lower v h]
    exact ⟨rfl, rfl, rfl⟩

theorem srset_preempt {s : State} {c : Ctx} (hi : s.issuing = some c) (v : W64) :
    ∃ w, OnlyWave c s ((s.srset c 0x22 v).done c 4) ∧ SameVregs c.wave w
      ∧ WaveIs c ((s.srset c 0x22 v).done c 4) (fun w => w.writeTimeout s.dcc c.ref.base v) (c.part.past c 4 s.dcc) w := by
  obtain ⟨hparts, hvregs⟩ := writeTimeout_keeps c.wave s.dcc c.ref.base v
  exact updWave_done_effect (f := fun w => w.writeTimeout s.dcc c.ref.base v) hi hparts hvregs 4

theorem srset_watch {s : State} {c : Ctx} {ix : Nat} (hi : s.issuing = some c) (v : W64) (hix : 0x24 ≤ ix ∧ ix ≤ 0x27) :
    (s.srset c ix v).done c 4 = { s with cores := ((s.srset c ix v).done c 4).cores, waves := ((s.srset c ix v).done c 4).waves }
      ∧ (∀ k, k ≠ c.ref.key → ((s.srset c ix v).done c 4).wave? k = s.wave? k)
      ∧ (∃ w, SameVregs c.wave w ∧ WaveIs c ((s.srset c ix v).done c 4) id (c.part.past c 4 s.dcc) w)
      ∧ ∀ k n, getT 0 (((s.srset c ix v).done c 4).core k).watch n
          = if k = c.ref.core ∧ n = ix - 0x24 then v &&& 0x01FFFFFFFFFFFFC7 else getT 0 (s.core k).watch n := by
  have hwrite : s.srset c ix v = s.updCore c.ref.core (fun k => { k with watch := setT 0 k.watch (ix - 0x24) (v &&& 0x01FFFFFFFFFFFFC7) }) := by
    rw [State.srset, if_neg (by omega), if_neg (by omega), if_pos hix]
  have honly : CoresOnly s (s.srset c ix v) := by
    rw [hwrite]
    rfl
  obtain ⟨hstate, hothers, w, hsame, hwave⟩ := honly.updPart_effect (issuing_ctx hi) (fun p => p.past c 4 (s.srset c ix v).dcc) (fun _ => rfl)
  refine ⟨hstate, hothers, ⟨w, hsame, by rw [← honly.dcc]; exact hwave⟩, fun k n => ?_⟩
  have hcore : ((s.srset c ix v).done c 4).core k = (s.srset c ix v).core k := congrArg (getT Core.reset · k) (State.updPart_cores ..)
  rw [hcore, hwrite]
  by_cases hk : k = c.ref.core
  · subst hk
    rw [State.core_updCore_self]
    by_cases hn : n = ix - 0x24
    · rw [hn, getT_setT_self, if_pos ⟨rfl, rfl⟩]
    · rw [getT_setT_of_ne _ _ _ hn, if_neg (fun h => hn h.2)]
  · rw [State.core_updCore_of_ne _ _ hk, if_neg (fun h => hk h.1)]

/-- A value that a field forbids is ILLEGAL with the number of the uniform register (12 R517). -/
theorem srset_traps (u : UWord) :
    TrapsWith (.srset u)
      (fun _ c => Plain c u.s ∧ (privIndex u.index = true → c.part.regs.privseg = true) ∧ badSrset c u.index (c.sreg u.d.toNat) = true)
      tcIllegal (fun _ _ => 0) (fun _ _ => BitVec.ofNat 64 u.d.toNat) (fun c => c.part.pc) := by
  refine trapsWith_of (fun s c hi _ hready => ?_)
  obtain ⟨free, may, hbad⟩ := hready
  exact (issue_next _ _ c s hi may rfl rfl free).trans (congrArg _ (if_pos hbad))

end Sys2Proof.Machine
end

section
/-! SUPPORT. The statement about system registers. -/

open Sys2Proof Sys2Proof.Machine

/-- Settles O38, from the registers that `srget` reads, the writes of `srset` by the kind of their register, and the fields of a write. -/
theorem systemRegisters : Obligations.SystemRegisters := by
  unfold Obligations.SystemRegisters
  intro u
  refine ⟨fun s c hi free may => ?_, fun s c => ?_, fun s c hi free may hok => ⟨fun hpart => ?_, fun hsticky => ?_, fun hpreempt => ?_, fun hwatch => ?_⟩,
    fun p x => ?_, srset_traps u⟩
  · obtain ⟨t, ht, w, hw⟩ := srget_becomes hi free may
    exact ⟨t, w, ht, hw⟩
  · exact ⟨fun h => h ▸ sysReg_dcc s c, fun h => h ▸ sysReg_wb s c, fun h => h ▸ sysReg_fpmode s c, fun h => h ▸ sysReg_fpstat s c,
      fun h => h ▸ sysReg_counts s c, fun h => h ▸ sysReg_tstat s c, fun h => h ▸ sysReg_taddr s c, fun h => h ▸ sysReg_tword s c,
      fun h => h ▸ sysReg_dom s c, fun h => h ▸ sysReg_status s c, fun h => h ▸ sysReg_handler s c⟩
  · obtain ⟨w, hw⟩ := ((partBecomes_refl hi).updPart (fun p => p.srset u.index (c.sreg u.d.toNat)) (fun _ => Part.srset_base ..)).done 4
    rw [← State.srset_part _ hpart] at hw
    exact ⟨_, w, srset_next hi free may hok, hw⟩
  · obtain ⟨p, ⟨w, honly, hsame, hwave⟩, hp⟩ := srset_clears hi (c.sreg u.d.toNat) hsticky
    exact ⟨_, w, p, srset_next hi free may hok, honly, hsame, hwave, hp⟩
  · have hnext := srset_next hi free may hok
    rw [hpreempt] at hnext
    obtain ⟨w, honly, hsame, hwave⟩ := srset_preempt hi (c.sreg u.d.toNat)
    exact ⟨_, w, hnext, honly, hsame, fun hlower => hwave.congr (writeTimeout_of_lower _ hlower),
      fun hnot => hwave.congr (writeTimeout_of_not_lower _ hnot)⟩
  · obtain ⟨hstate, hothers, ⟨w, hsame, hwave⟩, hregs⟩ := srset_watch hi (c.sreg u.d.toNat) hwatch
    exact ⟨_, w, srset_next hi free may hok, hstate, hothers, hsame, hwave, hregs⟩
  · exact ⟨toNat_low_field x 8, toNat_low_field x 16, toNat_field x 16 16, toNat_low_field x 4, fun _ hb => srset_fpstat_bit p x hb,
      fun _ hb => srset_status_bit p x hb, srset_amax p x, rfl, rfl, srset_tword p x, fun _ hf => congrArg (Option.map _) hf, rfl, rfl,
      toNat_field x 4 3, srset_handler p x⟩

end

section
/-! SUPPORT. The execution mask: its bits as `srget` reads them and as a descriptor holds them, and the switches that `srset` writes (04 R88, R89). -/

namespace Sys2Proof.Machine

theorem getLsbD_emask (c : Ctx) (l : Nat) :
    c.emask.getLsbD l = (c.part.cur.getLsbD l && !c.wave.exited.getLsbD l && !c.wave.off.getLsbD l) := by
  rw [Ctx.emask, BitVec.getLsbD_and, BitVec.getLsbD_and, BitVec.getLsbD_not, BitVec.getLsbD_not, Bool.and_right_comm]
  cases hc : c.part.cur.getLsbD l
  · simp only [Bool.false_and]
  · simp only [decide_eq_true (BitVec.lt_of_getLsbD hc), Bool.true_and]

/-- EMASK holds the mask of the part's lanes from bit 0 up, and zero at and above its width. -/
theorem getLsbD_emaskReg {c : Ctx} (hin : c.part.base + c.part.width ≤ 64) (i : Nat) :
    c.emaskReg.getLsbD i = (decide (i < c.part.width) && c.emask.getLsbD (c.part.base + i)) := by
  rw [Ctx.emaskReg, BitVec.getLsbD_ushiftRight, BitVec.getLsbD_and, getLsbD_laneRange, Bool.and_comm]
  congr 1
  rw [decide_eq_decide]
  omega

/-- The part that a context names starts at the lane base of its reference. -/
theorem base_of_ctx {s : State} {c : Ctx} (h : s.ctx? c.ref = some c) : c.part.base = c.ref.base := by
  obtain ⟨-, -, hp, -, -⟩ := ctx_parts h
  simpa using List.find?_some hp

/-- Bytes 16 to 23 of a part's descriptor hold its mask by wave lane (03 R75). -/
theorem descriptor_mask {s : State} {c : Ctx} (h : s.ctx? c.ref = some c) (hquad : c.part.base % 4 = 0) :
    natOfBytes (((s.descriptor c.wave (c.part.base / 4)).drop 16).take 8) = c.emask.toNat := by
  obtain ⟨-, -, hp, -, -⟩ := ctx_parts h
  have hfind : c.wave.parts.find? (fun p => p.base == 4 * (c.part.base / 4)) = some c.part := by
    rw [show 4 * (c.part.base / 4) = c.ref.base by rw [← base_of_ctx h]; omega]
    exact hp
  have hbytes : ((s.descriptor c.wave (c.part.base / 4)).drop 16).take 8 = bytesOfNat 8 c.emask.toNat := by
    unfold State.descriptor
    dsimp only
    rw [hfind]
    simp only [List.append_assoc]
    rw [← List.append_assoc, ← List.append_assoc, List.drop_left' (by simp [bytesOfNat_length]), List.take_left' (bytesOfNat_length 8 _)]
    rfl
  rw [hbytes, natOfBytes_bytesOfNat]
  exact Nat.mod_eq_of_lt c.emask.isLt

/-! ### The switches that `srset` writes (04 R89) -/

/-- The wave with the switches of some lanes as a value has them, from bit 0 at lane `base`. -/
def Wave.writeSwitches (w : Wave) (lanes : Lanes) (base : Nat) (v : W64) : Wave :=
  { w with off := (w.off &&& ~~~lanes) ||| (lanes &&& ~~~(v <<< base)) }

theorem getLsbD_writeSwitches (w : Wave) {lanes : Lanes} {base l : Nat} (v : W64) (hl : l < 64) (hbase : lanes.getLsbD l = true → base ≤ l) :
    (w.writeSwitches lanes base v).off.getLsbD l = if lanes.getLsbD l then !v.getLsbD (l - base) else w.off.getLsbD l := by
  have hbit : (w.writeSwitches lanes base v).off.getLsbD l
      = (w.off.getLsbD l && !lanes.getLsbD l || lanes.getLsbD l && !(!decide (l < base) && v.getLsbD (l - base))) := by
    simp only [Wave.writeSwitches, BitVec.getLsbD_or, BitVec.getLsbD_and, BitVec.getLsbD_not, BitVec.getLsbD_shiftLeft, hl, decide_true, Bool.true_and]
  rw [hbit]
  cases hc : lanes.getLsbD l
  · simp
  · simp [Nat.not_lt.mpr (hbase hc)]

theorem srset_emask {s : State} {c : Ctx} (hi : s.issuing = some c) (v : W64) :
    ∃ w, OnlyWave c s ((s.srset c 0x01 v).done c 4) ∧ SameVregs c.wave w
      ∧ WaveIs c ((s.srset c 0x01 v).done c 4) (fun x => x.writeSwitches (c.part.cur &&& ~~~c.wave.exited) c.part.base v)
        (c.part.past c 4 s.dcc) w :=
  updWave_done_effect (f := fun w => w.writeSwitches (c.part.cur &&& ~~~c.wave.exited) c.part.base v) hi rfl ⟨rfl, rfl⟩ 4

end Sys2Proof.Machine
end

section
/-! SUPPORT. The statement about the execution mask. -/

open Sys2Proof Sys2Proof.Machine

/-- Settles O39, from the bits of EMASK, the mask in the descriptor, and the switches of the lanes on the path. -/
theorem executionMask : Obligations.ExecutionMask := by
  unfold Obligations.ExecutionMask
  intro s c hctx hin hpath bit
  have hbits : ∀ i, c.emaskReg.getLsbD i = (decide (i < c.part.width) && bit (c.part.base + i)) := fun i => by
    rw [getLsbD_emaskReg hin, getLsbD_emask]
  refine ⟨hbits, fun hquad l _ => ?_, fun u hu hi free => ⟨?_, ?_⟩⟩
  · rw [descriptor_mask hctx hquad]
    exact getLsbD_emask c l
  · obtain ⟨t, ht, w, honly, hsame, hwave⟩ := srget_becomes (u := u) hi free (by simp [hu, privIndex])
    refine ⟨t, w, _, ht, honly, hsame, hwave, fun i hi => ?_⟩
    rw [Part.setS, PartRegs.sreg_setS_self, hu, sysReg_emask, BitVec.ofNat_toNat, BitVec.setWidth_eq]
    exact hbits i
  · have hnext := srset_next (u := u) hi free (by simp [hu, privIndex]) (by simp [hu, badSrset])
    rw [hu] at hnext
    obtain ⟨w, honly, hsame, hwave⟩ := srset_emask hi (c.sreg u.d.toNat)
    have hoff : w.off = (c.wave.writeSwitches (c.part.cur &&& ~~~c.wave.exited) c.part.base (c.sreg u.d.toNat)).off :=
      (congrArg Wave.off hwave.same).trans rfl
    refine ⟨_, w, hnext, honly, hsame, hwave.congr (by rw [hoff]; rfl), fun l hl => ?_⟩
    have hcan : (c.part.cur &&& ~~~c.wave.exited).getLsbD l = (c.part.cur.getLsbD l && !c.wave.exited.getLsbD l) := by
      simp [hl]
    rw [hoff, getLsbD_writeSwitches _ _ hl, hcan]
    intro hlane
    rw [hcan, Bool.and_eq_true] at hlane
    exact (hpath l hlane.1).1

end

section
/-! SUPPORT. The words of an instruction and the decoder (05 R95-R98): each form of the opcode table gives back its words, and a word gives
back its bytes. -/

namespace Sys2Proof

/-! ### What the decoder accepts -/

/-- The decoder answers the form that the opcode and the E bit name, no word of which breaks a rule. -/
theorem decode_eq_instr {a b : W32} {i : Instr} (h : decode a b = .instr i) : formOf (opOf a) (eOf a) a b = .instr i ∧ badWord i = none := by
  unfold decode at h
  split at h
  · cases h
  · next j hform =>
    split at h
    · cases h
    · next hbad =>
      cases h
      exact ⟨hform, hbad⟩

/-! ### The words of a form -/

section
variable {w : W32} {op : BitVec 8} {e : Bool} (hop : opOf w = op) (he : eOf w = e)
include hop he

theorem encR_rOf_of : encR op e (rOf w) = w := hop ▸ he ▸ encR_rOf w
theorem encJ_jOf_of : encJ op e (jOf w) = w := hop ▸ he ▸ encJ_jOf w
theorem encP_pOf_of : encP op e (pOf w) = w := hop ▸ he ▸ encP_pOf w
theorem encU_uOf_of : encU op e (uOf w) = w := hop ▸ he ▸ encU_uOf w
theorem encM_mOf_of : encM op e (mOf w) = w := hop ▸ he ▸ encM_mOf w

/-- The words of what an opcode and an E bit name are the words read, and the second of them belongs to it when E is set (05 R95, R96): by the
opcodes of the table. -/
theorem encode_formOf {w1 : W32} {i : Instr} (h : formOf op e w w1 = .instr i) : encode i = if e then [w, w1] else [w] := by
  obtain ⟨n, hn, rfl⟩ : ∃ n < 256, op = BitVec.ofNat 8 n := ⟨op.toNat, op.isLt, BitVec.eq_of_toNat_eq (by simp)⟩
  interval_cases n
  all_goals cases e
  all_goals cases h
  all_goals simp only [encode, BitVec.ofNat_eq_ofNat, encR_rOf_of hop he, encJ_jOf_of hop he, encP_pOf_of hop he, encU_uOf_of hop he,
    encM_mOf_of hop he, encXa_xaOf, encXm_xmOf, encXt_xtOf, if_true, Bool.false_eq_true, if_false]

end

/-- What decodes is well formed, and its words are those decoded. -/
theorem encode_of_decode {a b : W32} {i : Instr} (h : decode a b = .instr i) :
    wellFormed i = true ∧ encode i = if a.getLsbD 30 then [a, b] else [a] := by
  obtain ⟨hform, hbad⟩ := decode_eq_instr h
  exact ⟨by simp [wellFormed, hbad], encode_formOf rfl rfl hform⟩

/-! ### Bytes -/

theorem wordBytes_length (w : W32) : (wordBytes w).length = 4 := rfl

theorem ofNat_leNat_wordBytes (w : W32) : BitVec.ofNat 32 (leNat (wordBytes w)) = w := by
  refine BitVec.eq_of_toNat_eq ?_
  simp only [wordBytes, leNat, BitVec.extractLsb'_toNat, BitVec.toNat_ofNat, Nat.shiftRight_eq_div_pow]
  have := w.isLt
  omega

/-- The bytes of a word decode as that word before what its followers hold. -/
theorem decodeBytes_wordBytes (a : W32) (post : List Byte) :
    decodeBytes (wordBytes a ++ post) = decode a (BitVec.ofNat 32 (leNat (post.take 4))) := by
  rw [decodeBytes, List.take_left' (wordBytes_length a), List.drop_left' (wordBytes_length a), ofNat_leNat_wordBytes]

/-- The bytes of two words decode as these. -/
theorem decodeBytes_two_words (a b : W32) (post : List Byte) : decodeBytes (wordBytes a ++ (wordBytes b ++ post)) = decode a b := by
  rw [decodeBytes_wordBytes, List.take_left' (wordBytes_length b), ofNat_leNat_wordBytes]

/-! ### The words of an instruction -/

namespace Laws.RoundTrip

/-- Every form of the table gives its instruction back. -/
theorem statement_all (i : Instr) : Statement i := by
  cases i with
  | nop r => exact nop r | nopXi r x => exact nopXi r x | bra j => exact bra j | brp p => exact brp p | bru p => exact bru p | jmp u => exact jmp u
  | call j => exact call j | ret u => exact ret u | conf r => exact conf r | fuse r => exact fuse r | exit r => exact exit r
  | entry r => exact entry r | gcall r x => exact gcall r x | gret r => exact gret r | gentry r => exact gentry r | trap r => exact trap r
  | brk r => exact brk r | sleep u => exact sleep u | sleepat u => exact sleepat u | pwait u => exact pwait u | winb r => exact winb r
  | phint u x => exact phint u x | region r => exact region r | tret r => exact tret r | sadd u => exact sadd u | ssub u => exact ssub u
  | smul u => exact smul u | smulh u => exact smulh u | sand u => exact sand u | sor u => exact sor u | sxor u => exact sxor u
  | sshl u => exact sshl u | sshr u => exact sshr u | ssar u => exact ssar u | smin u => exact smin u | smax u => exact smax u
  | smov u => exact smov u | smovi u x => exact smovi u x | smovh u x => exact smovh u x | scmp u x => exact scmp u x | ssel u x => exact ssel u x
  | sld u => exact sld u | sldExt u x => exact sldExt u x | sst u => exact sst u | sstExt u x => exact sstExt u x | iadd r => exact iadd r
  | iaddExt r x => exact iaddExt r x | isub r => exact isub r | isubExt r x => exact isubExt r x | imul r => exact imul r
  | imulExt r x => exact imulExt r x | imulh r => exact imulh r | imulhExt r x => exact imulhExt r x | imad r x => exact imad r x
  | imin r => exact imin r | iminExt r x => exact iminExt r x | imax r => exact imax r | imaxExt r x => exact imaxExt r x | iabs r => exact iabs r
  | iabsExt r x => exact iabsExt r x | and r => exact and r | andExt r x => exact andExt r x | or r => exact or r | orExt r x => exact orExt r x
  | xor r => exact xor r | xorExt r x => exact xorExt r x | andn r => exact andn r | andnExt r x => exact andnExt r x | shl r => exact shl r
  | shlExt r x => exact shlExt r x | shr r => exact shr r | shrExt r x => exact shrExt r x | sar r => exact sar r | sarExt r x => exact sarExt r x
  | popc r => exact popc r | popcExt r x => exact popcExt r x | clz r => exact clz r | clzExt r x => exact clzExt r x | brev r => exact brev r
  | brevExt r x => exact brevExt r x | bfe r => exact bfe r | bfeExt r x => exact bfeExt r x | bfi r x => exact bfi r x | sel r x => exact sel r x
  | mov r => exact mov r | movExt r x => exact movExt r x | movi r => exact movi r | moviXi r x => exact moviXi r x | icmp r => exact icmp r
  | icmpExt r x => exact icmpExt r x | iscadd r => exact iscadd r | iscaddExt r x => exact iscaddExt r x | fadd r => exact fadd r
  | faddExt r x => exact faddExt r x | fsub r => exact fsub r | fsubExt r x => exact fsubExt r x | fmul r => exact fmul r
  | fmulExt r x => exact fmulExt r x | ffma r x => exact ffma r x | fmin r => exact fmin r | fminExt r x => exact fminExt r x | fmax r => exact fmax r
  | fmaxExt r x => exact fmaxExt r x | fcmp r => exact fcmp r | fcmpExt r x => exact fcmpExt r x | frcp r => exact frcp r
  | frcpExt r x => exact frcpExt r x | frsq r => exact frsq r | frsqExt r x => exact frsqExt r x | fsqrt r => exact fsqrt r
  | fsqrtExt r x => exact fsqrtExt r x | fdiv r => exact fdiv r | fdivExt r x => exact fdivExt r x | fexp2 r => exact fexp2 r
  | fexp2Ext r x => exact fexp2Ext r x | flog2 r => exact flog2 r | flog2Ext r x => exact flog2Ext r x | fsin r => exact fsin r
  | fsinExt r x => exact fsinExt r x | fcos r => exact fcos r | fcosExt r x => exact fcosExt r x | frnd r => exact frnd r
  | frndExt r x => exact frndExt r x | fclass r => exact fclass r | fclassExt r x => exact fclassExt r x | fscale r => exact fscale r
  | fscaleExt r x => exact fscaleExt r x | cvt r x => exact cvt r x | cvtq r x => exact cvtq r x | cvtd r x => exact cvtd r x | pack r => exact pack r
  | packExt r x => exact packExt r x | unpack r => exact unpack r | unpackExt r x => exact unpackExt r x | amax r => exact amax r
  | amaxExt r x => exact amaxExt r x | shfl r => exact shfl r | shflExt r x => exact shflExt r x | vote r => exact vote r
  | voteExt r x => exact voteExt r x | redu r => exact redu r | reduExt r x => exact reduExt r x | scan r => exact scan r
  | scanExt r x => exact scanExt r x | rdlane r => exact rdlane r | rdlaneExt r x => exact rdlaneExt r x | wrlane r x => exact wrlane r x
  | ddx r => exact ddx r | ddxExt r x => exact ddxExt r x | ddy r => exact ddy r | ddyExt r x => exact ddyExt r x | qperm r => exact qperm r
  | qpermExt r x => exact qpermExt r x | ld m => exact ld m | ldExt m x => exact ldExt m x | st m => exact st m | stExt m x => exact stExt m x
  | ldl m => exact ldl m | ldlExt m x => exact ldlExt m x | stl m => exact stl m | stlExt m x => exact stlExt m x | atom m => exact atom m
  | atomExt m x => exact atomExt m x | atoml m => exact atoml m | atomlExt m x => exact atomlExt m x | fence m x => exact fence m x
  | cctl m => exact cctl m | cctlExt m x => exact cctlExt m x | pfetch m => exact pfetch m | pfetchExt m x => exact pfetchExt m x
  | tcopy u x => exact tcopy u x | mma u x => exact mma u x | mmz u x => exact mmz u x | tkacq u x => exact tkacq u x | tkrel u x => exact tkrel u x
  | accrd r x => exact accrd r x | accwr r x => exact accwr r x | waitc r => exact waitc r | bara r => exact bara r | barw r => exact barw r
  | bar r => exact bar r | barExt r x => exact barExt r x | rbar r => exact rbar r | rbarExt r x => exact rbarExt r x | regrel r x => exact regrel r x
  | regclm r x => exact regclm r x | chsend r => exact chsend r | chrecv r => exact chrecv r | qenq u => exact qenq u | qdeq u => exact qdeq u
  | fork u => exact fork u | join u => exact join u | tex m => exact tex m | texExt m x => exact texExt m x | texg m => exact texg m
  | texgExt m x => exact texgExt m x | texq m => exact texq m | texqExt m x => exact texqExt m x | ipa r => exact ipa r
  | ipaExt r x => exact ipaExt r x | kill r => exact kill r | killExt r x => exact killExt r x | pout r => exact pout r
  | poutExt r x => exact poutExt r x | mvtx r => exact mvtx r | mprim r => exact mprim r | rtrav m => exact rtrav m
  | rtravExt m x => exact rtravExt m x | rtcom r => exact rtcom r | rtcomExt r x => exact rtcomExt r x | rtrep m => exact rtrep m
  | rtrepExt m x => exact rtrepExt m x | srget u => exact srget u | srset u => exact srset u | tlbi u => exact tlbi u | hsig u => exact hsig u
  | _ => exact fun _ _ => trivial

end Laws.RoundTrip

/-- The bytes of a well-formed instruction that has words decode to it, whatever follows them. -/
theorem decodeBytes_encode {i : Instr} (hwf : wellFormed i = true) (hwords : encode i ≠ []) (post : List Byte) :
    decodeBytes ((encode i).flatMap wordBytes ++ post) = .instr i := by
  have hround := Laws.RoundTrip.statement_all i hwf
  cases hwords' : encode i with
  | nil => exact absurd hwords' hwords
  | cons a rest =>
    cases rest with
    | nil =>
      rw [List.flatMap_cons, List.flatMap_nil, List.append_nil, decodeBytes_wordBytes]
      simpa only [hwords'] using hround (BitVec.ofNat 32 (leNat (post.take 4)))
    | cons b rest =>
      rw [List.flatMap_cons, List.flatMap_cons, List.append_assoc, List.append_assoc, decodeBytes_two_words]
      simpa only [hwords'] using hround 0

end Sys2Proof
end

section
/-! SUPPORT. The statements about encodings. -/

open Sys2Proof Sys2Proof.Machine

/-- Settles O54, from the round trip of each form and the bytes of a word. -/
theorem encodeThenDecode : Obligations.EncodeThenDecode := by
  unfold Obligations.EncodeThenDecode
  exact fun _ hwf hwords => decodeBytes_encode hwf hwords

/-- Settles O55, from the forms that the decoder accepts and their words. -/
theorem decodeThenEncode : Obligations.DecodeThenEncode := by
  unfold Obligations.DecodeThenEncode
  exact fun _ _ _ => encode_of_decode

/-- Settles O56, by the decoder's evaluation of each word. -/
theorem decodedWords : Obligations.DecodedWords := by
  unfold Obligations.DecodedWords
  decide

end

section
/-! SUPPORT. The fetch of an instruction (05 R97): what it changes, and what it finds on a page that translates. -/

namespace Sys2Proof.Machine

/-! ### What a fetch changes -/

theorem cachesOnly_fetchWord (s : State) (core : Nat) (asid : BitVec 16) (va : Nat) : CachesOnly s (s.fetchWord core asid va).1 := by
  have htranslate := cachesOnly_translate s core false asid va
  unfold State.fetchWord
  split
  · exact .refl s
  · split
    · exact cachesOnly_refuseAll ..
    · generalize s.translate core false asid va = look at htranslate ⊢
      obtain ⟨t, found⟩ := look
      cases found with
      | leaf pte p =>
        dsimp only
        split
        · exact htranslate
        · split
          · exact htranslate.trans (cachesOnly_refuse ..)
          · exact htranslate
      | nonPresent x => exact htranslate
      | malformed => exact htranslate

theorem cachesOnly_fetch (s : State) (core : Nat) (asid : BitVec 16) (pc : W64) : CachesOnly s (s.fetch core asid pc).1 := by
  have hfirst := cachesOnly_fetchWord s core asid pc.toNat
  unfold State.fetch
  generalize s.fetchWord core asid pc.toNat = word at hfirst ⊢
  obtain ⟨t, e | b⟩ := word
  · exact hfirst
  · dsimp only
    split
    · exact hfirst
    · have hsecond := cachesOnly_fetchWord t core asid (pc.toNat + 4)
      generalize t.fetchWord core asid (pc.toNat + 4) = word at hsecond ⊢
      obtain ⟨u, e | b'⟩ := word <;> exact hfirst.trans hsecond

/-! ### A fetch that finds an instruction refuses no access -/

theorem useLine_pins (s : State) (pa cp : Nat) : (s.useLine pa cp).pins = s.pins := by
  unfold State.useLine State.l2Use
  split
  · rfl
  · dsimp only
    split
    · split
      · rfl
      · split <;> rfl
    · rfl

theorem useRefs_pins (s : State) (die : Nat) (asid : BitVec 16) (va : Nat) : (s.useRefs die asid va).pins = s.pins :=
  List.foldlRecOn (motive := fun t : State => t.pins = s.pins) _ _ rfl (fun _ hb _ _ => (useLine_pins ..).trans hb)

theorem fillTlbs_pins (s : State) (core : Nat) (copy : Bool) (e : TlbEntry) : (s.fillTlbs core copy e).pins = s.pins := by
  unfold State.fillTlbs
  split <;> rfl

theorem UnitOnly.pins {s t : State} (h : UnitOnly s t) : t.pins = s.pins := by rw [h.eq]

theorem translate_pins (s : State) (core : Nat) (copy : Bool) (asid : BitVec 16) (va : Nat) :
    (s.translate core copy asid va).1.pins = s.pins := by
  have hlook := (unitOnly_tlbLook s core copy asid va).pins
  unfold State.translate
  generalize s.tlbLook core copy asid va = look at hlook ⊢
  obtain ⟨u, found, d⟩ := look
  cases found with
  | some e => exact hlook
  | none =>
    have hrefs := (useRefs_pins u (dieOf core) asid va).trans hlook
    dsimp only
    split
    · exact (fillTlbs_pins ..).trans hrefs
    · exact hrefs

/-- A word that is fetched is read after its translation alone; else the fetch finds no instruction. -/
theorem fetchWord_eq {s t : State} {core : Nat} {asid : BitVec 16} {va : Nat} {r : Except Fetched (List Byte)}
    (h : s.fetchWord core asid va = (t, r)) :
    (∃ bs, r = .ok bs ∧ t.pins = s.pins) ∨ ∃ e, r = .error e ∧ ∀ i, e ≠ .instr i := by
  have htranslate := translate_pins s core false asid va
  unfold State.fetchWord at h
  split at h
  · obtain ⟨-, rfl⟩ := Prod.mk.inj h
    exact .inr ⟨_, rfl, by simp⟩
  · split at h
    · obtain ⟨-, rfl⟩ := Prod.mk.inj h
      exact .inr ⟨_, rfl, by simp⟩
    · generalize s.translate core false asid va = look at htranslate h
      obtain ⟨u, found⟩ := look
      cases found with
      | leaf pte p =>
        dsimp only at h
        split at h
        · obtain ⟨-, rfl⟩ := Prod.mk.inj h
          exact .inr ⟨_, rfl, by simp⟩
        · split at h
          · obtain ⟨-, rfl⟩ := Prod.mk.inj h
            exact .inr ⟨_, rfl, by simp⟩
          · obtain ⟨rfl, rfl⟩ := Prod.mk.inj h
            exact .inl ⟨_, rfl, htranslate⟩
      | nonPresent x =>
        obtain ⟨-, rfl⟩ := Prod.mk.inj h
        exact .inr ⟨_, rfl, by simp⟩
      | malformed =>
        obtain ⟨-, rfl⟩ := Prod.mk.inj h
        exact .inr ⟨_, rfl, by simp⟩

theorem fetchedOf_eq_instr_iff {bs : List Byte} {i : Instr} : fetchedOf bs = .instr i ↔ decodeBytes bs = .instr i := by
  unfold fetchedOf
  split <;> simp_all

/-- A fetch that finds an instruction has read it after translations alone. -/
theorem fetch_eq_instr {s t : State} {core : Nat} {asid : BitVec 16} {pc : W64} {i : Instr} (h : s.fetch core asid pc = (t, .instr i)) :
    t.pins = s.pins ∧ ∃ bs, decodeBytes bs = .instr i := by
  unfold State.fetch at h
  split at h
  · next u e hword =>
    obtain ⟨rfl, rfl⟩ := Prod.mk.inj h
    obtain ⟨_, hok, -⟩ | ⟨e, he, hne⟩ := fetchWord_eq hword
    · cases hok
    · cases he
      exact absurd rfl (hne i)
  · next u b hword =>
    have hfirst : u.pins = s.pins := by
      obtain ⟨_, -, hpins⟩ | ⟨_, herr, -⟩ := fetchWord_eq hword
      · exact hpins
      · cases herr
    split at h
    · obtain ⟨rfl, hbytes⟩ := Prod.mk.inj h
      exact ⟨hfirst, _, fetchedOf_eq_instr_iff.mp hbytes⟩
    · split at h
      · next v e hword' =>
        obtain ⟨rfl, rfl⟩ := Prod.mk.inj h
        obtain ⟨_, hok, -⟩ | ⟨e, he, hne⟩ := fetchWord_eq hword'
        · cases hok
        · cases he
          exact absurd rfl (hne i)
      · next v b' hword' =>
        obtain ⟨rfl, hbytes⟩ := Prod.mk.inj h
        obtain ⟨_, -, hpins⟩ | ⟨_, herr, -⟩ := fetchWord_eq hword'
        · exact ⟨hpins.trans hfirst, _, fetchedOf_eq_instr_iff.mp hbytes⟩
        · cases herr

/-! ### A word on a page that translates -/

theorem natOfBytes_lt (bs : List Byte) : natOfBytes bs < 256 ^ bs.length := by
  induction bs with
  | nil => exact Nat.one_pos
  | cons b r ih =>
    rw [natOfBytes, List.length_cons, Nat.pow_succ]
    have := b.isLt
    omega

theorem entryAt_lt (mem : List (Nat × Byte)) (pa : Nat) : entryAt mem pa < 2 ^ 64 := by
  have h := natOfBytes_lt (readBytes mem pa 8)
  rwa [readBytes_length] at h

theorem walkFrom_leaf_lt {mem : List (Nat × Byte)} {va pte lp : Nat} (lvl table : Nat) (h : walkFrom mem va lvl table = .leaf pte lp) :
    pte < 2 ^ 64 := by
  induction lvl generalizing table with
  | zero =>
    rw [walkFrom] at h
    split_ifs at h
    obtain ⟨rfl, -⟩ := WalkRes.leaf.inj h
    exact entryAt_lt ..
  | succ lvl ih =>
    rw [walkFrom] at h
    generalize (if lvl = 0 then bitsOf va 21 5 else if lvl = 1 then bitsOf va 26 16 else bitsOf va 42 15) = idx at h
    generalize (if lvl = 0 then 21 else if lvl = 1 then 26 else 42) = ext at h
    generalize (if lvl = 2 then 19 else 8) = size at h
    split_ifs at h
    · obtain ⟨rfl, -⟩ := WalkRes.leaf.inj h
      exact entryAt_lt ..
    · exact ih _ h

theorem walk_leaf_lt {s : State} {die : Nat} {asid : BitVec 16} {va pte lp : Nat} (h : s.walk die asid va = .leaf pte lp) : pte < 2 ^ 64 := by
  rw [State.walk] at h
  split_ifs at h
  exact walkFrom_leaf_lt _ _ h

/-- No TLB that a core's fetch looks at holds an entry. -/
structure NoTlbs (s : State) (core : Nat) : Prop where
  l1 : (s.core core).l1tlb = []
  l2 : (s.core core).coreTlb = []
  lastLevel : (s.die (dieOf core)).llTlb = []

theorem tlbLook_of_noTlbs {s : State} {core : Nat} (h : NoTlbs s core) (asid : BitVec 16) (va : Nat) :
    s.tlbLook core false asid va = (s, none, 40) := by
  simp [State.tlbLook, h.l1, h.l2, h.lastLevel]

/-- The state after the walk of a fetch that no TLB answers. -/
def State.walked (s : State) (core : Nat) (asid : BitVec 16) (va : Nat) (e : TlbEntry) : State :=
  (s.useRefs (dieOf core) asid va).fillTlbs core false e

theorem cachesOnly_walked (s : State) (core : Nat) (asid : BitVec 16) (va : Nat) (e : TlbEntry) : CachesOnly s (s.walked core asid va e) :=
  (cachesOnly_useRefs ..).trans (cachesOnly_fillTlbs ..)

theorem walked_pins (s : State) (core : Nat) (asid : BitVec 16) (va : Nat) (e : TlbEntry) : (s.walked core asid va e).pins = s.pins :=
  (fillTlbs_pins ..).trans (useRefs_pins ..)

theorem tlbFill_nil (ways : Nat) (hways : 0 < ways) (e : TlbEntry) : tlbFill 1 ways [] e = [e] := by
  simp [tlbFill, tlbTrim, hways]

theorem walked_l1tlb {s : State} {core : Nat} (h : NoTlbs s core) (asid : BitVec 16) (va : Nat) (e : TlbEntry) :
    ((s.walked core asid va e).core core).l1tlb = [e] := by
  have hwalked : s.walked core asid va e
      = ((s.useRefs (dieOf core) asid va).updDie (dieOf core) (fun d => { d with llTlb := tlbFill 1024 12 d.llTlb e })).updCore core
        (fun k => fillCore k e) := by
    simp only [State.walked, State.fillTlbs, Bool.false_eq_true, if_false]
  rw [hwalked, State.core_updCore_self, fillCore, State.core, State.updDie_cores, useRefs_cores, ← State.core, h.l1]
  exact tlbFill_nil 128 (by decide) e

theorem CachesOnly.leafFault {s t : State} (h : CachesOnly s t) : t.leafFault = s.leafFault := by rw [h.eq]; rfl

theorem pinned_of_pins {s t : State} (h : t.pins = s.pins) : t.pinned = s.pinned := by
  unfold State.pinned State.pin?
  rw [h]

theorem fetchWord_of_walk {s : State} {core : Nat} {asid : BitVec 16} {va pte lp : Nat} (hva : va < 2 ^ 57) (htlbs : NoTlbs s core)
    (hwalk : s.walk (dieOf core) asid va = .leaf pte lp) (hpins : s.walkPins (dieOf core) asid va = [])
    (hleaf : s.leafFault .fetch pte (paOf pte lp va) = none) (hpin : s.pinned (some core) (paOf pte lp va) = false) :
    s.fetchWord core asid va = (s.walked core asid va { asid := asid, page := va / 2 ^ lp, logPage := lp, leaf := BitVec.ofNat 64 pte },
      .ok (readBytes s.mem (paOf pte lp va) 4)) := by
  have hlook := tlbLook_of_noTlbs htlbs asid va
  have htranslate : s.translate core false asid va
      = (s.walked core asid va { asid := asid, page := va / 2 ^ lp, logPage := lp, leaf := BitVec.ofNat 64 pte }, .leaf pte lp) := by
    simp only [State.translate, hlook, hwalk, State.walked]
  have hcaches := cachesOnly_walked s core asid va { asid := asid, page := va / 2 ^ lp, logPage := lp, leaf := BitVec.ofNat 64 pte }
  have hsame := walked_pins s core asid va { asid := asid, page := va / 2 ^ lp, logPage := lp, leaf := BitVec.ofNat 64 pte }
  unfold State.fetchWord State.lookPins
  rw [if_neg (Nat.not_le.mpr hva), hlook, hpins, htranslate]
  simp only [Option.isSome_none, Bool.false_eq_true, if_false, ne_eq, not_true_eq_false, hcaches.leafFault, hleaf, pinned_of_pins hsame, hpin,
    hcaches.mem]

/-- A word whose page the core's first TLB holds is fetched. -/
theorem fetchWord_of_hit {s : State} {core : Nat} {asid : BitVec 16} {va : Nat} {e : TlbEntry} (hva : va < 2 ^ 57)
    (htlb : (s.core core).l1tlb = [e]) (hmatch : tlbMatch asid va e = true)
    (hleaf : s.leafFault .fetch e.leaf.toNat (paOf e.leaf.toNat e.logPage va) = none)
    (hpin : s.pinned (some core) (paOf e.leaf.toNat e.logPage va) = false) :
    (s.fetchWord core asid va).2 = .ok (readBytes s.mem (paOf e.leaf.toNat e.logPage va) 4) := by
  have hlook : s.tlbLook core false asid va = (s.updCore core (fun k => { k with l1tlb := tlbTouch k.l1tlb e }), some e, 0) := by
    simp [State.tlbLook, htlb, hmatch]
  have hcaches := cachesOnly_updCore s core (fun k => { k with l1tlb := tlbTouch k.l1tlb e })
  have hpins : (s.updCore core (fun k => { k with l1tlb := tlbTouch k.l1tlb e })).pins = s.pins := rfl
  unfold State.fetchWord State.lookPins State.translate
  rw [if_neg (Nat.not_le.mpr hva), hlook]
  simp only [Option.isSome_some, if_true, ne_eq, not_true_eq_false, if_false, hcaches.leafFault, hleaf, pinned_of_pins hpins, hpin,
    Bool.false_eq_true, State.updCore_mem]

/-! ### The words of an instruction in memory -/

theorem leNat_eq_natOfBytes (bs : List Byte) : leNat bs = natOfBytes bs := by
  induction bs with
  | nil => rfl
  | cons b r ih => rw [leNat, natOfBytes, ih]

theorem readBytes_four (m : List (Nat × Byte)) (a : Nat) : ∃ w, readBytes m a 4 = wordBytes w ∧ natOfBytes (readBytes m a 4) = w.toNat := by
  have hlen := readBytes_length m a 4
  generalize readBytes m a 4 = bs at hlen
  have hlt := natOfBytes_lt bs
  rw [hlen] at hlt
  refine ⟨BitVec.ofNat 32 (natOfBytes bs), ?_, ((BitVec.toNat_ofNat ..).trans (Nat.mod_eq_of_lt hlt)).symm⟩
  obtain ⟨b0, b1, b2, b3, rfl⟩ := List.length_eq_four.mp hlen
  simp only [natOfBytes, wordBytes, List.cons.injEq, and_true] at hlt ⊢
  have := b0.isLt
  have := b1.isLt
  have := b2.isLt
  have := b3.isLt
  and_intros <;>
    refine BitVec.eq_of_toNat_eq ?_ <;>
    simp only [BitVec.extractLsb'_toNat, BitVec.toNat_ofNat, Nat.shiftRight_eq_div_pow] <;>
    omega

/-- The bytes behind a word whose bit 30 is clear have no part in its instruction. -/
theorem decodeBytes_of_one_word {w : W32} {post : List Byte} {i : Instr} (hext : w.getLsbD 30 = false)
    (h : decodeBytes (wordBytes w ++ post) = .instr i) (post' : List Byte) : decodeBytes (wordBytes w ++ post') = .instr i := by
  rw [decodeBytes_wordBytes] at h
  obtain ⟨hwf, hwords⟩ := encode_of_decode h
  rw [hext, if_neg Bool.false_ne_true] at hwords
  have := decodeBytes_encode hwf (by simp [hwords]) post'
  simpa [hwords] using this

theorem wellFormed_of_decodeBytes {bs : List Byte} {i : Instr} (h : decodeBytes bs = .instr i) : wellFormed i = true ∧ encode i ≠ [] := by
  obtain ⟨hwf, hwords⟩ := encode_of_decode h
  exact ⟨hwf, by rw [hwords]; split <;> simp⟩

theorem testBit_extension (w : W32) : w.toNat / 2 ^ 30 % 2 = 0 ↔ w.getLsbD 30 = false := by
  rw [← BitVec.testBit_toNat, Nat.testBit_eq_decide_div_mod_eq]
  simp

/-- A fetch from a page that no TLB holds, and of which nothing is pinned, finds the instruction of its eight bytes. -/
theorem fetch_of_walk {s : State} {core : Nat} {asid : BitVec 16} {pc : W64} {pte lp : Nat} {i : Instr} (hva : pc.toNat + 8 ≤ 2 ^ 57)
    (hpage : pc.toNat % 2 ^ lp + 8 ≤ 2 ^ lp) (htlbs : NoTlbs s core) (hwalk : s.walk (dieOf core) asid pc.toNat = .leaf pte lp)
    (hpins : s.walkPins (dieOf core) asid pc.toNat = [])
    (hleaf : s.leafFault .fetch pte (paOf pte lp pc.toNat) = none) (hleaf' : s.leafFault .fetch pte (paOf pte lp pc.toNat + 4) = none)
    (hpin : s.pinned (some core) (paOf pte lp pc.toNat) = false) (hpin' : s.pinned (some core) (paOf pte lp pc.toNat + 4) = false)
    (hdec : decodeBytes (readBytes s.mem (paOf pte lp pc.toNat) 8) = .instr i) : (s.fetch core asid pc).2 = .instr i := by
  set pa := paOf pte lp pc.toNat with hpa
  set e : TlbEntry := { asid := asid, page := pc.toNat / 2 ^ lp, logPage := lp, leaf := BitVec.ofNat 64 pte } with he
  have hfirst : s.fetchWord core asid pc.toNat = (s.walked core asid pc.toNat e, .ok (readBytes s.mem pa 4)) :=
    fetchWord_of_walk (by omega) htlbs hwalk hpins hleaf hpin
  obtain ⟨w, hword, hnat⟩ := readBytes_four s.mem pa
  rw [show readBytes s.mem pa 8 = readBytes s.mem pa 4 ++ readBytes s.mem (pa + 4) 4 from rfl, hword] at hdec
  unfold State.fetch
  rw [hfirst]
  dsimp only
  rw [hnat]
  by_cases hext : w.toNat / 2 ^ 30 % 2 = 0
  · rw [if_pos hext, hword, fetchedOf_eq_instr_iff]
    have := decodeBytes_of_one_word ((testBit_extension w).mp hext) hdec []
    rwa [List.append_nil] at this
  · rw [if_neg hext]
    have hleafNat : e.leaf.toNat = pte := by
      rw [he, BitVec.toNat_ofNat]
      exact Nat.mod_eq_of_lt (walk_leaf_lt hwalk)
    have hsplit : pc.toNat + 4 = pc.toNat % 2 ^ lp + 4 + 2 ^ lp * (pc.toNat / 2 ^ lp) := by
      have := Nat.mod_add_div pc.toNat (2 ^ lp)
      omega
    have hlt : pc.toNat % 2 ^ lp + 4 < 2 ^ lp := by omega
    have hnext : paOf pte lp (pc.toNat + 4) = pa + 4 := by
      rw [paOf, hsplit, Nat.add_mul_mod_self_left, Nat.mod_eq_of_lt hlt, hpa, paOf, Nat.add_assoc]
    have hmatch : tlbMatch asid (pc.toNat + 4) e = true := by
      rw [tlbMatch, he, hsplit, Nat.add_mul_div_left _ _ (Nat.two_pow_pos lp), Nat.div_eq_of_lt hlt, Nat.zero_add]
      simp
    have hcaches := cachesOnly_walked s core asid pc.toNat e
    have hsecond : ((s.walked core asid pc.toNat e).fetchWord core asid (pc.toNat + 4)).2 = .ok (readBytes s.mem (pa + 4) 4) := by
      rw [← hcaches.mem, ← hnext, ← hleafNat]
      refine fetchWord_of_hit (by omega) (walked_l1tlb htlbs ..) hmatch ?_ ?_
      · rw [hleafNat, hcaches.leafFault]
        exact hnext ▸ hleaf'
      · rw [hleafNat, pinned_of_pins (walked_pins ..)]
        exact hnext ▸ hpin'
    generalize (s.walked core asid pc.toNat e).fetchWord core asid (pc.toNat + 4) = second at hsecond
    obtain ⟨u, r⟩ := second
    obtain rfl : r = _ := hsecond
    dsimp only
    rw [fetchedOf_eq_instr_iff, hword]
    exact hdec

end Sys2Proof.Machine
end

section
/-! SUPPORT. The turn of a part (05 R95, R97, R114, R120): the privilege of its segment, its fetch, and the meaning of what it fetches. -/

namespace Sys2Proof.Machine

theorem beginTurn_eq (s : State) (r : PartRef) : s.beginTurn r = { s with cur := some r, waves := (s.beginTurn r).waves } :=
  State.updPart_eq ..

theorem beginTurn_issuing {s : State} {r : PartRef} {c : Ctx} (h : (s.beginTurn r).ctx? r = some c) : (s.beginTurn r).issuing = some c := by
  have hcur : (s.beginTurn r).cur = some r := by rw [beginTurn_eq]
  rw [State.issuing, hcur]
  exact h

theorem CachesOnly.issuing {s t : State} (h : CachesOnly s t) : t.issuing = s.issuing := by rw [h.eq]; rfl

/-- The part whose turn begins is the one that stood there, at the privilege of the loaded segment of its PC (04 R90). -/
theorem beginTurn_part {s : State} {r : PartRef} {c : Ctx} (h : (s.beginTurn r).ctx? r = some c) {p : Part} (hp : s.part? r = some p) :
    c.part = { p with regs := { p.regs with privseg := s.segPriv p } } := by
  obtain ⟨-, hw, hpart, -⟩ := ctx_parts h
  obtain ⟨w, hwave, hp⟩ := Option.bind_eq_some_iff.mp hp
  have hnow : (s.beginTurn r).wave? r.key = some (w.updPart r.base (fun p => { p with regs := { p.regs with privseg := s.segPriv p } })) :=
    wave?_updWave_some (s := { s with cur := some r }) hwave _
  rw [Option.some.inj (hw.symm.trans hnow)] at hpart
  exact Option.some.inj (hpart.symm.trans (part?_updPart_some hp _ (fun _ => rfl)))

theorem segPriv_of_found {s : State} {p : Part} {g : Segment} (h : s.pkg.segments.find? (fun g => g.spans p.regs.asid p.pc.toNat) = some g) :
    s.segPriv p = g.privseg := by rw [State.segPriv, h]

/-- The step of a turn that finds an instruction is that instruction's meaning, and the note of what its result makes wait. -/
theorem step_issue {s t : State} {r : PartRef} {rest : List Turn} {c : Ctx} {i : Instr} (hagenda : s.agenda = .issue r :: rest)
    (hctx : ({ s with agenda := rest }.beginTurn r).ctx? r = some c)
    (hfetch : ({ s with agenda := rest }.beginTurn r).fetch r.core c.part.regs.asid c.part.pc = (t, .instr i)) :
    step s = thenNext (exec i t) (fun t => t.noteGives c i) := by
  simp only [step, hagenda, State.runTurn, State.issueTurn, hctx, hfetch]

/-! ### Every turn ends in a next state -/

theorem goesOn_next (s : State) : GoesOn (.next s) := ⟨s, rfl⟩

theorem goesOn_thenNext {o : Out} (h : GoesOn o) (f : State → State) : GoesOn (thenNext o f) := by
  obtain ⟨t, rfl⟩ := h
  exact goesOn_next (f t)

theorem gcall_goesOn {s : State} {c : Ctx} (hi : s.issuing = some c) (r : RWord) (x : W32) : GoesOn (execGcall r x s) := by
  simp only [execGcall, hi, Option.bind_some]
  split
  · exact goesOn_next _
  · exact issue_goesOn _ _ s c hi

/-- An instruction goes on while a part issues: it is the issue of its own effect, but for the reads of a `gcall`. -/
theorem exec_goesOn {s : State} {c : Ctx} (hi : s.issuing = some c) {i : Instr} (hwords : encode i ≠ []) : GoesOn (exec i s) := by
  cases i
  all_goals try exact absurd rfl hwords -- an event has no words
  case gcall r x => exact gcall_goesOn hi r x
  all_goals exact issue_goesOn _ _ s c hi

theorem reservedOpcode_goesOn {s : State} {c : Ctx} (hi : s.issuing = some c) : GoesOn (exec .reservedOpcode s) := by
  show GoesOn (execReservedOpcode s)
  rw [execReservedOpcode, hi]
  exact goesOn_next _

theorem instructionFetchFault_goesOn {s : State} {c : Ctx} (hi : s.issuing = some c) : GoesOn (exec .instructionFetchFault s) := by
  show GoesOn (execInstructionFetchFault s)
  rw [execInstructionFetchFault, hi]
  dsimp only
  split
  · split <;> exact goesOn_next _
  · exact goesOn_next _
  · exact goesOn_next _

theorem issueTurn_goesOn (s : State) (r : PartRef) : GoesOn (s.issueTurn r) := by
  rw [State.issueTurn]
  cases hctx : (s.beginTurn r).ctx? r with
  | none => exact goesOn_next _
  | some c =>
    have hi := beginTurn_issuing hctx
    have hcaches := cachesOnly_fetch (s.beginTurn r) r.core c.part.regs.asid c.part.pc
    obtain ⟨⟨t, found⟩, hfetch⟩ : ∃ f, (s.beginTurn r).fetch r.core c.part.regs.asid c.part.pc = f := ⟨_, rfl⟩
    rw [hfetch] at hcaches
    dsimp only
    rw [hfetch]
    cases found with
    | instr i =>
      obtain ⟨-, bs, hdec⟩ := fetch_eq_instr hfetch
      exact goesOn_thenNext (exec_goesOn (hcaches.issuing.trans hi) (wellFormed_of_decodeBytes hdec).2) _
    | reserved => exact reservedOpcode_goesOn (hcaches.issuing.trans hi)
    | illegal n w => exact goesOn_next _
    | again => exact goesOn_next _
    | missing va x => exact instructionFetchFault_goesOn hi
    | failed va d => exact instructionFetchFault_goesOn hi

/-- An event goes on: each branch of each event's meaning answers a next state. -/
theorem event_goesOn (e : Event) (s : State) : GoesOn (e.run s) := by
  cases e
  all_goals dsimp only [
    Event.run, execQueueNop, execLaunch, execWait, execWaitPoll, execSignal, execGraphload, execQtailWrite, execQerrStopWrite, execQpassWrite,
    execTriggerWrite, execRegisterWrite, execLoad, execUnload, execAttest, execFwreload, execMailboxRequestEnd, execFaultReply, execHaltedWrite,
    execPwrcfgWrite, execRampWrite, execRailselWrite, execDomtabWrite, execApertureAccess, execTenantApertureAccess, execPackageReset,
    execFunctionLevelReset, execFatalError, execStateDumpComplete, execPeerLinkState, execDieHalt, execLaunchPlacement, execGroupAdmission,
    execTaskStart, execTaskSteal, execForkPush, execTaskJoinDecrement, execJoinWake, execLaunchCompletion, execPreemptVictimChoice, execLaunchDue,
    execProtectionEnd, execForcedSave, execVictimRelease, execLaunchRestore, execClaimGrant, execClaimAging, execClaimDeadlock, execConfTimeout,
    execMissSplit, execFusefail, execBarrierPhaseComplete, execRbarLocalCompletion, execRbarReport, execRbarGlobalCompletion, execSleepWake,
    execPwaitWake, execPageWalkComplete, execLdCompletion, execStCompletion, execSliceRequest, execPinTimeout, execQueueEnqueueRequest,
    execQueueDequeueRequest, execChannelMessageArrival, execChannelCreditReturn, execBankDrowsy, execBankWakeComplete, execTcopyComplete,
    execCoopMmaRelease, execMmaKstepDelivery, execMmaComplete, execMmzComplete, execSlewStep, execPacSustainedStrike, execVoltageInterval,
    execGatingStart, execGatingCommit, execClusterAwake, execSetupBinning, execPrimitiveRecord, execWatermark, execWatermarkSend, execRasteriseRecord,
    execFragmentCommit, execDivergenceHistoryUpdate, execAllowanceUpdate, execJoinReread, execDebugInterfaceAccess]
  all_goals repeat' split
  all_goals exact goesOn_next _

theorem takeInput_goesOn (s : State) (i : Input) : GoesOn (s.takeInput i) := by
  cases i with
  | event e => exact event_goesOn e s
  | _ => exact goesOn_next _

theorem runTurn_goesOn (s : State) (t : Turn) : GoesOn (s.runTurn t) := by
  cases t with
  | issue r => exact issueTurn_goesOn s r
  | event e => exact event_goesOn e s
  | input i => exact takeInput_goesOn s i

end Sys2Proof.Machine
end

section
/-! SUPPORT. The statement about steps. -/

open Sys2Proof Sys2Proof.Machine

/-- Settles O57, from what a fetch changes and what it finds on a page that no TLB holds. -/
theorem stepRunsDecoded : Obligations.StepRunsDecoded := by
  unfold Obligations.StepRunsDecoded
  intro s r rest c hagenda now hctx asid die
  refine ⟨fun p hp => ?_, fun s' i hfetch => ?_, fun pte lp i hva hpage hwalk => ?_⟩
  · have hpart := beginTurn_part hctx hp
    have hasid : c.part.regs.asid = p.regs.asid := by rw [hpart]
    rw [hpart]
    exact ⟨rfl, fun g hg => segPriv_of_found (hasid ▸ hg)⟩
  · obtain ⟨hpins, bs, hdec⟩ := fetch_eq_instr hfetch
    have hcaches := cachesOnly_fetch now r.core asid c.part.pc
    rw [hfetch] at hcaches
    refine ⟨(wellFormed_of_decodeBytes hdec).1, hpins ▸ hcaches.eq, hcaches.issuing.trans (beginTurn_issuing hctx), ?_⟩
    exact step_issue hagenda hctx hfetch
  · intro pa hleaf hleaf' hl1 hl2 hll hpins hpin hpin' hdec
    show ((({ s with agenda := rest }).beginTurn r).fetch r.core asid c.part.pc).2 = _
    rw [beginTurn_eq]
    exact fetch_of_walk hva hpage ⟨hl1, hl2, hll⟩ hwalk hpins hleaf hleaf' hpin hpin' hdec

/-- Settles O58: a plan is a next state, and so is what each turn answers. -/
theorem neverStops : Obligations.NeverStops := by
  unfold Obligations.NeverStops
  intro s
  rw [step]
  split
  · exact goesOn_next _
  · exact runTurn_goesOn _ _

end

section
/-! SUPPORT. Where a branch of class J or P goes (05 R100). -/

namespace Sys2Proof.Machine

/-- Four times a signed offset from an address, modulo 2^64. -/
theorem toNat_add_four_mul_signExtend {n : Nat} (pc : W64) (off : BitVec n) :
    ((pc + 4 * off.signExtend 64).toNat : Int) = ((pc.toNat : Int) + 4 * off.toInt) % 2 ^ 64 := by
  have htarget : pc + 4 * off.signExtend 64 = BitVec.ofInt 64 (pc.toNat + 4 * off.toInt) := by
    rw [BitVec.ofInt_add, BitVec.ofInt_mul, BitVec.ofInt_natCast, BitVec.ofNat_toNat, BitVec.setWidth_eq]
    rfl
  rw [htarget, BitVec.toNat_ofInt]
  exact Int.toNat_of_nonneg (Int.emod_nonneg _ (by decide))

theorem lanesAt_zero (p : Part) (a : W64) : lanesAt p 0#64 a = 0#64 := by
  refine BitVec.eq_of_getLsbD_eq (fun l _ => ?_)
  rw [BitVec.getLsbD_zero, Bool.eq_false_iff, ne_eq, getLsbD_lanesAt, BitVec.getLsbD_zero]
  exact fun h => Bool.false_ne_true h.1

/-- A part of one path that transfers stands at its target with the same lanes. -/
theorem jumpTo_of_one_path {p : Part} (h : p.waiting = 0) (own target : W64) :
    (p.jumpTo own target).pc = target ∧ (p.jumpTo own target).cur = p.cur := by
  have hnone : (p.moveTo target).waiting = 0 ∧ (p.moveTo target).cur = p.cur := by
    simp [Part.moveTo, h, lanesAt_zero]
  rw [Part.jumpTo, if_neg (fun hyield => hyield.2 hnone.1)]
  exact ⟨rfl, hnone.2⟩

/-- The part of `c` goes from its instruction by four times an offset. -/
def GoesBy (s : State) (c : Ctx) (i : Instr) (off : Int) : Prop :=
  ∃ t p, exec i s = .next t ∧ t.part? c.ref = some p ∧ p.cur = c.part.cur
    ∧ (p.pc.toNat : Int) = ((c.part.pc.toNat : Int) + 4 * off) % 2 ^ 64 ∧ (off = 0 → p.pc = c.part.pc)

/-- An instruction whose whole effect is its part's transfer goes to the transfer's target. -/
theorem goesBy_of_jump {i : Instr} {ready : State → Ctx → Prop} {f : State → Ctx → Part} (h : PartResult i ready f) {s : State} {c : Ctx}
    (hi : s.issuing = some c) (hready : ready s c) {n : Nat} (off : BitVec n) {q : Part} (hone : q.waiting = 0) (hcur : q.cur = c.part.cur)
    (hf : f s c = (q.jumpTo c.part.pc (c.part.pc + 4 * off.signExtend 64)).issued s.dcc 4) : GoesBy s c i off.toInt := by
  obtain ⟨t, w, ht, -, -, hwave⟩ := h s c hi hready
  obtain ⟨hpc, hcur'⟩ := jumpTo_of_one_path hone c.part.pc (c.part.pc + 4 * off.signExtend 64)
  have htarget := toNat_add_four_mul_signExtend c.part.pc off
  rw [hf] at hwave
  have hfound : t.part? c.ref = some ((q.jumpTo c.part.pc (c.part.pc + 4 * off.signExtend 64)).issued s.dcc 4) := by
    rw [State.part?, hwave.found]
    exact hwave.part
  refine ⟨t, _, ht, hfound, hcur'.trans hcur, (congrArg (fun a : W64 => (a.toNat : Int)) hpc).trans htarget, fun hzero => ?_⟩
  rw [hzero, Int.mul_zero, Int.add_zero, Int.emod_eq_of_lt (Int.natCast_nonneg _) (by exact_mod_cast c.part.pc.isLt)] at htarget
  exact hpc.trans (BitVec.eq_of_toNat_eq (by exact_mod_cast htarget))

/-- The reach of an offset field. -/
theorem four_mul_toInt_bounds {n : Nat} (off : BitVec n) : -(4 * 2 ^ (n - 1)) ≤ 4 * off.toInt ∧ 4 * off.toInt < 4 * 2 ^ (n - 1) := by
  have hlow := BitVec.le_toInt off
  have hhigh := BitVec.toInt_lt (x := off)
  omega

end Sys2Proof.Machine
end

section
/-! SUPPORT. The statement about branch targets. -/

open Sys2Proof Sys2Proof.Machine

/-- Settles O12: a branch's effect is its part's transfer, of a part of one path, by its signed offset. -/
theorem branchTarget : Obligations.BranchTarget := by
  unfold Obligations.BranchTarget
  intro s c hi hone goes
  refine ⟨fun j free => ⟨?_, ?_, four_mul_toInt_bounds j.off⟩, fun w free => ⟨?_, ?_, four_mul_toInt_bounds w.off⟩⟩
  · exact goesBy_of_jump (bra_completes j) hi free j.off hone rfl rfl
  · exact goesBy_of_jump (call_completes j) hi free j.off (q := c.part.setS 63 (c.part.pc + 4)) hone rfl rfl
  · exact fun hlanes => goesBy_of_jump (bru_completes w) hi free w.off hone rfl (if_neg hlanes)
  · exact fun hlanes hall => goesBy_of_jump (brp_completes w) hi ⟨free, .inr hall⟩ w.off hone rfl (if_neg hlanes)

end

section
/-! SUPPORT. The traps of an access at its first offending lane (20 R445, R447, 05 R106, 07 R177). -/

namespace Sys2Proof.Machine

/-! ### The first offender -/

/-- The first element with a property stands behind those without it. -/
theorem find?_append_cons {α : Type} {p : α → Bool} {pre post : List α} {a : α} (hpre : ∀ b ∈ pre, p b = false) (ha : p a = true) :
    (pre ++ a :: post).find? p = some a := by
  have hnone : pre.find? p = none := List.find?_eq_none.mpr (fun b hb => by simp [hpre b hb])
  rw [List.find?_append, hnone, Option.none_or, List.find?_cons_of_pos ha]

theorem addressTrap_of_high {size a : Nat} {pre post : List Nat} (hpre : ∀ b ∈ pre, b < 2 ^ 57) (ha : 2 ^ 57 ≤ a) :
    addressTrap size (pre ++ a :: post) = some (tcAccess, 5, BitVec.ofNat 64 a) := by
  rw [addressTrap, find?_append_cons (fun b hb => decide_eq_false (not_le.mpr (hpre b hb))) (decide_eq_true ha)]

theorem addressTrap_of_odd {size a : Nat} {pre post : List Nat} (hlow : ∀ b ∈ pre ++ a :: post, b < 2 ^ 57) (hpre : ∀ b ∈ pre, b % size = 0)
    (ha : a % size ≠ 0) : addressTrap size (pre ++ a :: post) = some (tcAlign, 0, BitVec.ofNat 64 a) := by
  have hhigh : (pre ++ a :: post).find? (fun b => decide (2 ^ 57 ≤ b)) = none :=
    List.find?_eq_none.mpr (fun b hb => by simpa using hlow b hb)
  rw [addressTrap, hhigh]
  dsimp only
  rw [find?_append_cons (fun b hb => by simp [hpre b hb]) (by simp [ha])]

theorem scratchTrap_of_outside {area size a : Nat} {pre post : List Nat} (hpre : ∀ b ∈ pre, b + size ≤ area) (ha : area < a + size) :
    scratchTrap area size (pre ++ a :: post) = some (tcAccess, 4, BitVec.ofNat 64 a) := by
  rw [scratchTrap, find?_append_cons (fun b hb => decide_eq_false (not_lt.mpr (hpre b hb))) (decide_eq_true ha)]

/-! ### Instructions that trap -/

theorem fullReleaseWait_of_ready {s : State} {c : Ctx} {ord scope : Nat} (h : FullReleaseReady s c ord scope) :
    s.fullReleaseWait c ord scope = none := by
  rcases Nat.lt_or_ge ord 2 with hord | hord
  · have hrel : isRelease ord = false := by simpa [isRelease] using hord
    simp [State.fullReleaseWait, hrel]
  · exact fullReleaseWait_none h hord

/-- A lane-wise global instruction whose addresses trap. -/
theorem globalOp_traps {i : Instr} {m : MWord} {x : XmWord} {len : Nat} {cls : Cls} {data : Vop} {rd wr : Bool} {kind : Ctx → OpKind}
    {access : Ctx → Nat → Nat → Nat → Option Access} {vas : List Nat} {code detail : Nat} {taddr : W64}
    (he : ∀ s, exec i s = globalOp m x len cls data rd wr kind access s) (htrap : addressTrap (szBytes x.sz) vas = some (code, detail, taddr)) :
    TrapsWith i (fun s c => Free c m.s true (some cls) none ∧ OperandsOk c (data :: (mOffset m).toList) ∧ ReleaseReady s c x.ord.toNat
      ∧ (laneAddrs c m x).map Prod.snd = vas) code (fun _ _ => detail) (fun _ _ => taddr) (fun c => c.part.pc) := by
  refine trapsWith_of (fun s c hi _ ⟨free, operands, release, haddrs⟩ => ?_)
  rw [he]
  refine Eq.trans (issue_next _ _ c s hi (by simp) rfl operands free) ?_
  subst haddrs
  dsimp only
  rw [releaseWait_of_ready release]
  dsimp only
  rw [show ((lanesOf (c.xmActive x)).map (fun l => (l, c.globalAddr m x.off l))) = laneAddrs c m x from rfl, htrap]
  rfl

/-- A scratch instruction whose offsets trap in the part's scratch area. -/
theorem scratchOp_traps {i : Instr} {m : MWord} {x : XmWord} {len : Nat} {cls : Cls} {data : Vop} {kind : Ctx → OpKind}
    {lane : Ctx → Nat → Nat → State → State × Option Access} {after : Ctx → State → State} {a : Nat} {pre post : List Nat}
    (he : ∀ s, exec i s = scratchOp m x len cls data kind lane after s) :
    TrapsWith i (fun s c => Free c m.s true (some cls) none ∧ OperandsOk c (data :: (mOffset m).toList)
      ∧ FullReleaseReady s c x.ord.toNat x.scope.toNat ∧ (laneOffs c m x).map Prod.snd = pre ++ a :: post
      ∧ (∀ b ∈ pre, b + szBytes x.sz ≤ c.scratchArea.2) ∧ c.scratchArea.2 < a + szBytes x.sz)
      tcAccess (fun _ _ => 4) (fun _ _ => BitVec.ofNat 64 a) (fun c => c.part.pc) := by
  refine trapsWith_of (fun s c hi _ ⟨free, operands, release, hoffs, hpre, ha⟩ => ?_)
  rw [he]
  refine Eq.trans (issue_next _ _ c s hi (by simp) rfl operands free) ?_
  dsimp only
  rw [fullReleaseWait_of_ready release]
  dsimp only
  rw [show ((lanesOf (c.xmActive x)).map (fun l => (l, c.scratchOff m x.off l))) = laneOffs c m x from rfl, hoffs,
    scratchTrap_of_outside hpre ha]
  rfl

/-! ### The instructions by name -/

theorem exec_ldExt (m : MWord) (x : XmWord) (s : State) : exec (.ldExt m x) s = globalOp m x 8 .ld (mData m.d x.sz) true false
    (fun c => .load c.part.depth ((mData m.d x.sz).reg c.wb 0 0) (mData m.d x.sz).unit)
    (fun _ l a extra => some (newAccess l a (szBytes x.sz) x.cp.toNat extra [] [])) s := rfl

theorem exec_stExt (m : MWord) (x : XmWord) (s : State) : exec (.stExt m x) s = globalOp m x 8 .st (mData m.d x.sz) false true
    (fun _ => .store) (fun c l a extra => if c.wave.helper.getLsbD l then none
      else some (newAccess l a (szBytes x.sz) x.cp.toNat extra (bytesOfNat (szBytes x.sz) (c.vec l (mData m.d x.sz) 0 0)) [])) s := rfl

theorem exec_ldlExt (m : MWord) (x : XmWord) (s : State) : exec (.ldlExt m x) s = scratchOp m x 8 .ld (mData m.d x.sz)
    (fun c => .scratchLoad c.part.depth ((mData m.d x.sz).reg c.wb 0 0) (mData m.d x.sz).unit)
    (fun c l off s => (s, some (newAccess l off (szBytes x.sz) 0 0 (s.scratchRead c off (szBytes x.sz)) []))) (fun _ s => s) s := rfl

theorem exec_stlExt (m : MWord) (x : XmWord) (s : State) : exec (.stlExt m x) s = scratchOp m x 8 .st (mData m.d x.sz)
    (fun _ => .scratchStore) (fun c l off s => if c.wave.helper.getLsbD l then (s, none)
      else (s.scratchWrite c off (bytesOfNat (szBytes x.sz) (c.vec l (mData m.d x.sz) 0 0)), none)) (fun _ s => s) s := rfl

end Sys2Proof.Machine
end

section
/-! SUPPORT. The statement about the traps of accesses. -/

open Sys2Proof Sys2Proof.Machine

/-- Settles O21, from the first offender among the addresses or offsets of the lanes. -/
theorem accessTraps : Obligations.AccessTraps := by
  unfold Obligations.AccessTraps
  refine ⟨fun m x a pre post => ⟨fun ⟨hpre, ha⟩ => ?_, fun ⟨hlow, hpre, ha⟩ => ?_⟩, fun m x a pre post => ?_⟩
  · have htrap := addressTrap_of_high (size := szBytes x.sz) (post := post) hpre ha
    exact ⟨globalOp_traps (exec_ldExt m x) htrap, globalOp_traps (exec_stExt m x) htrap⟩
  · have htrap := addressTrap_of_odd hlow hpre ha
    exact ⟨globalOp_traps (exec_ldExt m x) htrap, globalOp_traps (exec_stExt m x) htrap⟩
  · exact ⟨scratchOp_traps (exec_ldlExt m x), scratchOp_traps (exec_stlExt m x)⟩

end

section
/-! SUPPORT. The named barriers' arrivals and waits, and the traps of their misuse (19 R403-R406, 21 R466, 05 R129). -/

namespace Sys2Proof.Machine

/-! ### Checks before issue -/

theorem barrierPre_of_below {r : RWord} {c : Ctx} (hframes : c.part.frames = []) (hb : r.b.toNat < c.group.nbar) (s : State) :
    barrierPre r c s = none := by
  simp [barrierPre, illegalAt, gateBan, hframes, not_le.mpr hb]

theorem barrierPre_of_beyond {r : RWord} {c : Ctx} (hb : c.group.nbar ≤ r.b.toNat) (s : State) :
    barrierPre r c s = some (tcIllegal, 0, wordAddr c 0) := by
  simp [barrierPre, illegalAt, hb]

theorem wordAddr_zero (c : Ctx) : wordAddr c 0 = c.part.pc := BitVec.add_zero _

/-- An instruction whose first word is refused before issue takes ILLEGAL at that word. -/
theorem illegal_traps {i : Instr} {h : Hdr} {eff : Ctx → State → State} {ready : State → Ctx → Prop} (he : ∀ s, exec i s = issue h eff s)
    (hpriv : h.priv = false) (hpre : ∀ s c, ready s c → h.pre c s = some (tcIllegal, 0, wordAddr c 0)) :
    TrapsWith i ready tcIllegal (fun _ _ => 0) (fun _ c => c.part.pc) (fun c => c.part.pc) := by
  refine trapsWith_of (fun s c hi _ hready => ?_)
  rw [he, issue_of_pre hi hpriv (hpre s c hready) eff, wordAddr_zero]
  rfl

/-! ### Arrivals -/

section
variable {s : State} {c : Ctx} {r : RWord}

/-- The part of `c` with its arrival recorded for a barrier's open phase. -/
def recordedPart (c : Ctx) (b : Nat) : Part := { c.part with arrivals := putT c.part.arrivals b (barrierOf c.group b).phase }

/-- The group of `c` with its part's quads arrived at a barrier. -/
def arrivedGroup (c : Ctx) (b : Nat) : Group :=
  let k := barrierOf c.group b
  let lanes := getT 0 k.arrived c.ref.slot ||| laneRange c.part.base c.part.width
  { c.group with barriers := putT c.group.barriers b { k with arrived := putT k.arrived c.ref.slot lanes } }

/-- The part of `c` has become `p`, its group has its arrival, and nothing else differs. -/
def Arrived (c : Ctx) (b : Nat) (s t : State) (p : Part) : Prop :=
  ∃ s', KeepsWaves s s' ∧ s' = { s with groups := s'.groups } ∧ s'.group? c.wave.group = some (arrivedGroup c b) ∧ PartBecomes c s' t p

theorem State.updGroup_eq (s : State) (g : Nat) (f : Group → Group) : s.updGroup g f = { s with groups := (s.updGroup g f).groups } := by
  unfold State.updGroup
  split <;> rfl

/-- A state that has the wave of `c` as it was has its part. -/
theorem partBecomes_of_wave {u : State} (hw : u.wave? c.ref.key = some c.wave) (hp : c.wave.part? c.ref.base = some c.part) :
    PartBecomes c u u c.part :=
  ⟨c.wave, .refl c u, ⟨rfl, rfl⟩, hw, rfl, hp, fun _ _ => rfl⟩

theorem arrived_arrive (hi : s.issuing = some c) (b : Nat) : Arrived c b s (s.arrive c b) (recordedPart c b) := by
  obtain ⟨-, hw, hp, hg, -⟩ := ctx_parts (issuing_ctx hi)
  let k := barrierOf c.group b
  let lanes := getT 0 k.arrived c.ref.slot ||| laneRange c.part.base c.part.width
  set s' := s.updGroup c.wave.group (fun g =>
    { g with barriers := putT g.barriers b { k with arrived := putT k.arrived c.ref.slot lanes } }) with hs'
  have hkeeps : KeepsWaves s s' := keepsWaves_updGroup s _ _
  have hwave : s'.wave? c.ref.key = some c.wave := (congrArg (fun l => lookT l c.ref.key) hkeeps.waves).trans hw
  refine ⟨s', hkeeps, s.updGroup_eq _ _, ?_, ?_⟩
  · rw [hs', State.updGroup_self, hg]
    rfl
  · exact (partBecomes_of_wave hwave hp).updPart (fun p => { p with arrivals := putT p.arrivals b (barrierOf c.group b).phase }) (fun _ => rfl)

theorem Arrived.done {b : Nat} {t : State} {p : Part} (h : Arrived c b s t p) (len : Nat) : Arrived c b s (t.done c len) (p.past c len s.dcc) := by
  obtain ⟨s', hkeeps, hstate, hgroup, hpart⟩ := h
  rw [← hkeeps.dcc]
  exact ⟨s', hkeeps, hstate, hgroup, hpart.done len⟩

theorem Arrived.parkPart {b : Nat} {t : State} {p : Part} (h : Arrived c b s t p) (k : Park) :
    Arrived c b s (t.parkPart c.ref k) (p.parkedAtOnce k s.dcc) := by
  obtain ⟨s', hkeeps, hstate, hgroup, hpart⟩ := h
  rw [← hkeeps.dcc]
  exact ⟨s', hkeeps, hstate, hgroup, hpart.parkPart k⟩

/-- What an arrival changes, field by field. -/
theorem Arrived.effect {b : Nat} {t : State} {p : Part} (h : Arrived c b s t p) :
    ∃ w, (t = { s with groups := t.groups, waves := t.waves } ∧ (∀ n, n ≠ c.ref.key → t.wave? n = s.wave? n) ∧ SameVregs c.wave w
      ∧ t.group? c.wave.group = some (arrivedGroup c b)) ∧ WaveIs c t id p w := by
  obtain ⟨s', hkeeps, hstate, hgroup, w, honly, hsame, hwave⟩ := h
  refine ⟨w, ⟨?_, fun n hn => ?_, hsame, ?_⟩, hwave⟩
  · rw [honly.state, hstate]
  · exact (honly.others n hn).trans (congrArg (fun l => lookT l n) hkeeps.waves)
  · rw [honly.state]
    exact hgroup

/-! ### The instructions -/

theorem bara_arrives (hi : s.issuing = some c) (hframes : c.part.frames = []) (hb : r.b.toNat < c.group.nbar) (free : Plain c r.s)
    (hopen : openRecord c r.b.toNat = none) (hdone : s.releaseDone c = true) :
    ∃ t, exec (.bara r) s = .next t ∧ Arrived c r.b.toNat s t ((recordedPart c r.b.toNat).past c 4 s.dcc) := by
  refine ⟨_, (issue_next _ _ c s hi (by simp) (barrierPre_of_below hframes hb s) rfl free).trans (congrArg _ ?_), (arrived_arrive hi _).done 4⟩
  rw [hopen]
  exact if_pos hdone

theorem fullBarrier_arrives (hi : s.issuing = some c) (hframes : c.part.frames = []) (hb : r.b.toNat < c.group.nbar) {mw : Nat}
    (free : Free c r.s false none (some (c.effWidth mw))) (hopen : openRecord c r.b.toNat = none) (hdone : s.releaseDone c = true) (len : Nat) :
    ∃ t, fullBarrier r len mw s = .next t ∧ Arrived c r.b.toNat s t
      ((recordedPart c r.b.toNat).parkedAtOnce (.barrier r.b.toNat (barrierOf c.group r.b.toNat).phase) s.dcc) := by
  refine ⟨_, (issue_next _ _ c s hi (by simp) (barrierPre_of_below hframes hb s) rfl free).trans (congrArg _ ?_),
    (arrived_arrive hi _).parkPart _⟩
  dsimp only
  rw [hopen]
  exact if_pos hdone

theorem barw_waits (hi : s.issuing = some c) (hframes : c.part.frames = []) (hb : r.b.toNat < c.group.nbar) (free : Plain c r.s) {n : Nat}
    (hrecord : c.part.arrival? r.b.toNat = some n) :
    ∃ t, exec (.barw r) s = .next t ∧ PartBecomes c s t (if n < (barrierOf c.group r.b.toNat).phase
      then Part.past { c.part with arrivals := delT c.part.arrivals r.b.toNat } c 4 s.dcc
      else c.part.parkedAtOnce (.barrier r.b.toNat n) s.dcc) := by
  refine ⟨_, issue_next _ _ c s hi (by simp) (barrierPre_of_below hframes hb s) rfl free, ?_⟩
  dsimp only
  rw [hrecord]
  dsimp only
  split
  · exact ((partBecomes_refl hi).updPart (fun p => { p with arrivals := delT p.arrivals r.b.toNat }) (fun _ => rfl)).done 4
  · exact (partBecomes_refl hi).parkPart _

end

/-! ### Misuse -/

/-- A wait without an arrival (19 R405). -/
theorem barw_traps (r : RWord) :
    TrapsWith (.barw r) (fun _ c => Plain c r.s ∧ r.b.toNat < c.group.nbar ∧ c.part.frames = [] ∧ c.part.arrival? r.b.toNat = none)
      tcBarrier (fun _ _ => 1) (fun _ _ => BitVec.ofNat 64 r.b.toNat) (fun c => c.part.pc) := by
  refine trapsWith_of (fun s c hi _ ⟨free, hb, hframes, hrecord⟩ => ?_)
  refine (issue_next _ _ c s hi (by simp) (barrierPre_of_below hframes hb s) rfl free).trans (congrArg _ ?_)
  dsimp only
  rw [hrecord]
  rfl

/-- A shape beyond the launch's rectangle (21 R466). -/
theorem rectBarrier_traps_wide {i : Instr} {r : RWord} {len mw : Nat} (he : ∀ s, exec i s = rectBarrier r len mw s) :
    TrapsWith i (fun _ c => c.launch.logw < r.b.toNat % 8 ∨ c.launch.logh < r.b.toNat / 8 % 4) tcIllegal (fun _ _ => 0) (fun _ c => c.part.pc)
      (fun c => c.part.pc) :=
  illegal_traps he rfl (fun s c hwide => by
    have hbad : (decide (c.launch.logw < r.b.toNat % 8) || decide (c.launch.logh < r.b.toNat / 8 % 4)) = true := by simpa using hwide
    dsimp only
    rw [hbad]
    rfl)

/-- A shape that differs from the one that the core's barrier is open with (21 R466). -/
theorem rbar_traps_clash (r : RWord) :
    TrapsWith (.rbar r) (fun _ c => Free c r.s false none (some (c.effWidth 0)) ∧ c.part.frames = [] ∧ r.b.toNat % 8 ≤ c.launch.logw
        ∧ r.b.toNat / 8 % 4 ≤ c.launch.logh
        ∧ (∃ sh, (c.launch.rbar c.ref.core).shape = some sh ∧ sh ≠ (r.b.toNat % 8, r.b.toNat / 8 % 4)))
      tcBarrier (fun _ _ => 2) (fun _ _ => BitVec.ofNat 64 r.b.toNat) (fun c => c.part.pc) := by
  refine trapsWith_of (fun s c hi _ ⟨free, hframes, hw, hh, sh, hshape, hne⟩ => ?_)
  have hpre : (match illegalAt c 0 (decide (c.launch.logw < r.b.toNat % 8) || decide (c.launch.logh < r.b.toNat / 8 % 4)) with
      | some t => some t
      | none => gateBan c) = none := by
    simp [illegalAt, gateBan, hframes, not_lt.mpr hw, not_lt.mpr hh]
  refine (issue_next _ _ c s hi (by simp) hpre rfl free).trans (congrArg _ (if_pos ?_))
  rw [hshape]
  exact ⟨rfl, fun h => hne (Option.some.inj h)⟩

end Sys2Proof.Machine
end

section
/-! SUPPORT. The statement about named barriers. -/

open Sys2Proof Sys2Proof.Machine

/-- Settles O27, from the arrival of each instruction and its checks before issue. -/
theorem namedBarriers : Obligations.NamedBarriers := by
  unfold Obligations.NamedBarriers
  refine ⟨fun s c r x hi hframes hb => ⟨fun free hopen hdone => ?_, fun i len y hform free hopen hdone => ?_, fun n free hrecord => ?_⟩,
    fun r => ⟨barw_traps r, fun x => ?_, rbar_traps_clash r⟩⟩
  · obtain ⟨t, ht, harrived⟩ := bara_arrives hi hframes hb free hopen hdone
    obtain ⟨w, heffect, hwave⟩ := harrived.effect
    exact ⟨t, w, ht, heffect, hwave⟩
  · have hexec : exec i s = fullBarrier r len y s := by
      rcases hform with hform | hform <;> cases hform <;> rfl
    obtain ⟨t, ht, harrived⟩ := fullBarrier_arrives hi hframes hb free hopen hdone len
    obtain ⟨w, heffect, hwave⟩ := harrived.effect
    exact ⟨t, w, hexec.trans ht, heffect, hwave⟩
  · obtain ⟨t, ht, w, hbecomes⟩ := barw_waits hi hframes hb free hrecord
    exact ⟨t, w, ht, hbecomes⟩
  · have hbeyond : ∀ s c, c.group.nbar ≤ r.b.toNat → barrierPre r c s = some (tcIllegal, 0, wordAddr c 0) :=
      fun s _ h => barrierPre_of_beyond h s
    exact ⟨illegal_traps (fun _ => rfl) rfl hbeyond, illegal_traps (fun _ => rfl) rfl hbeyond, illegal_traps (fun _ => rfl) rfl hbeyond,
      illegal_traps (fun _ => rfl) rfl hbeyond, rectBarrier_traps_wide (fun _ => rfl), rectBarrier_traps_wide (fun _ => rfl)⟩

end

section
/-! SUPPORT. `tlbi` (08 R188), `hsig` and its store at the slice (20 R437, R438), and the failures of a fetch (05 R97, 08 R189). -/

namespace Sys2Proof.Machine

/-! ### `tlbi` -/

theorem getT_map_snd {α : Type} {d : α} {f : α → α} (hd : f d = d) (m : List (Nat × α)) (k : Nat) :
    getT d (m.map (fun e => (e.1, f e.2))) k = f (getT d m k) := by
  rw [getT_eq, getT_eq, lookT_map_snd]
  cases lookT m k with
  | none => exact hd.symm
  | some v => rfl

/-- The entries of a TLB that a `tlbi` leaves. -/
def tlbiKeeps (kind : Nat) (asid : BitVec 16) (va : Nat) (t : List TlbEntry) : List TlbEntry := t.filter (fun e => !tlbiHits kind asid va e)

/-- A translation that a `tlbi` removes. -/
def TlbiHit (kind : Nat) (asid : BitVec 16) (va : Nat) (e : TlbEntry) : Prop :=
  match kind with
  | 0 => e.asid = asid ∧ va / 2 ^ e.logPage = e.page
  | 1 => e.asid = asid
  | _ => True

theorem tlbiHits_iff {kind : Nat} {asid : BitVec 16} {va : Nat} {e : TlbEntry} : tlbiHits kind asid va e = true ↔ TlbiHit kind asid va e := by
  unfold TlbiHit
  split
  · simp [tlbiHits, tlbMatch]
  · simp [tlbiHits]
  · next h0 h1 =>
    rw [tlbiHits, if_neg h0, if_neg h1]
    simp

theorem mem_tlbiKeeps {kind : Nat} {asid : BitVec 16} {va : Nat} {t : List TlbEntry} {e : TlbEntry} :
    e ∈ tlbiKeeps kind asid va t ↔ e ∈ t ∧ ¬ TlbiHit kind asid va e := by
  simp [tlbiKeeps, ← tlbiHits_iff]

/-- A core after a `tlbi`. -/
def Core.afterTlbi (kind : Nat) (asid : BitVec 16) (va : Nat) (k : Core) : Core :=
  { k with l1tlb := tlbiKeeps kind asid va k.l1tlb, coreTlb := tlbiKeeps kind asid va k.coreTlb, walkAhead := tlbiKeeps kind asid va k.walkAhead
           gateCache := [] }

/-- A die after a `tlbi`. -/
def Die.afterTlbi (kind : Nat) (asid : BitVec 16) (va : Nat) (d : Die) : Die := { d with llTlb := tlbiKeeps kind asid va d.llTlb }

/-- The state that a `tlbi` leaves before its part moves on. -/
def State.afterTlbi (s : State) (kind : Nat) (asid : BitVec 16) (va : Nat) : State :=
  let t := s.tlbInvalidate kind asid va
  { t with cores := t.cores.map (fun (e : Nat × Core) => (e.1, { e.2 with gateCache := [] })) }

theorem afterTlbi_core (s : State) (kind : Nat) (asid : BitVec 16) (va k : Nat) :
    (s.afterTlbi kind asid va).core k = (s.core k).afterTlbi kind asid va := by
  have hcores : (s.afterTlbi kind asid va).cores = s.cores.map (fun e => (e.1, e.2.afterTlbi kind asid va)) := List.map_map
  rw [State.core, hcores]
  exact getT_map_snd rfl s.cores k

theorem afterTlbi_die (s : State) (kind : Nat) (asid : BitVec 16) (va d : Nat) :
    (s.afterTlbi kind asid va).die d = (s.die d).afterTlbi kind asid va :=
  getT_map_snd (f := Die.afterTlbi kind asid va) rfl s.dies d

/-- A walk in flight whose result a `tlbi` would remove. -/
def State.TlbiDrops (s : State) (kind : Nat) (asid : BitVec 16) (va : Nat) (x : Walk) : Prop :=
  match kind with
  | 0 => x.asid = asid ∧ x.va / 2 ^ s.walkExtent x = va / 2 ^ s.walkExtent x
  | 1 => x.asid = asid
  | 2 => True
  | _ => False

theorem afterTlbi_walks {s : State} {kind : Nat} {asid : BitVec 16} {va : Nat} {x : Walk} (hx : x ∈ s.walks) (hdrop : s.TlbiDrops kind asid va x) :
    { x with discarded := true } ∈ (s.afterTlbi kind asid va).walks := by
  refine List.mem_map.mpr ⟨x, hx, if_pos ?_⟩
  unfold State.TlbiDrops at hdrop
  split at hdrop
  · exact .inr (.inr ⟨rfl, hdrop⟩)
  · exact .inr (.inl ⟨rfl, hdrop⟩)
  · exact .inl rfl
  · exact hdrop.elim

theorem afterTlbi_effect {s t : State} {c : Ctx} {kind : Nat} {asid : BitVec 16} {va : Nat} (h : OnlyWave c (s.afterTlbi kind asid va) t) :
    t = { s with cores := t.cores, dies := t.dies, walks := t.walks, waves := t.waves }
      ∧ (∀ k e, (e ∈ (t.core k).l1tlb ↔ e ∈ (s.core k).l1tlb ∧ ¬ TlbiHit kind asid va e)
        ∧ (e ∈ (t.core k).coreTlb ↔ e ∈ (s.core k).coreTlb ∧ ¬ TlbiHit kind asid va e)
        ∧ (e ∈ (t.core k).walkAhead ↔ e ∈ (s.core k).walkAhead ∧ ¬ TlbiHit kind asid va e)
        ∧ (e ∈ (t.die k).llTlb ↔ e ∈ (s.die k).llTlb ∧ ¬ TlbiHit kind asid va e))
      ∧ (∀ k, (t.core k).gateCache = [])
      ∧ ∀ x ∈ s.walks, s.TlbiDrops kind asid va x → { x with discarded := true } ∈ t.walks := by
  have hcore : ∀ k, t.core k = (s.core k).afterTlbi kind asid va := by
    intro k
    rw [h.state]
    exact afterTlbi_core ..
  have hdie : ∀ k, t.die k = (s.die k).afterTlbi kind asid va := by
    intro k
    rw [h.state]
    exact afterTlbi_die ..
  refine ⟨?_, fun k e => ?_, fun k => ?_, fun x hx hdrop => ?_⟩
  · rw [h.state]
    rfl
  · rw [hcore, hdie]
    exact ⟨mem_tlbiKeeps, mem_tlbiKeeps, mem_tlbiKeeps, mem_tlbiKeeps⟩
  · rw [hcore]
    rfl
  · rw [h.state]
    exact afterTlbi_walks hx hdrop

theorem tlbi_completes {s : State} {c : Ctx} {u : UWord} (hi : s.issuing = some c) (hpriv : c.part.regs.privseg = true) (free : Plain c u.s) :
    ∃ t, exec (.tlbi u) s = .next t ∧ PartBecomes c
      (s.afterTlbi (u.d.toNat % 4) ((c.sreg u.b.toNat).extractLsb' 0 16) ((c.sreg u.a.toNat).toNat % 2 ^ 57)) t (c.part.past c 4 s.dcc) := by
  have hpart := partBecomes_of_wave (u := s.afterTlbi (u.d.toNat % 4) ((c.sreg u.b.toNat).extractLsb' 0 16) ((c.sreg u.a.toNat).toNat % 2 ^ 57))
    (issuing_wave hi) (issuing_part hi)
  exact ⟨_, issue_next _ _ c s hi (fun _ => hpriv) rfl rfl free, hpart.done 4⟩

/-! ### `hsig` as it issues -/

theorem releaseFirst_none {s : State} {c : Ctx} {scope : Nat} {ks : List Cls} (hrel : Released s c scope) (hheld : c.part.heldOf ks = none) :
    s.releaseFirst c scope ks = none := by
  obtain ⟨hdrained, hbacks⟩ := hrel
  simp only [State.releaseFirst, State.drainFirst, hdrained, hheld, Bool.not_true, Bool.false_eq_true, if_false, Option.map_none,
    releaseAt_none false hbacks]

/-- The store of an `hsig`. -/
def signalPosted (s : State) (c : Ctx) (u : UWord) : Posted :=
  let pa := (keepBits (s.tenant c.launch.tenant).hsigBase 9 43).toNat + 8 * u.b.toNat
  { id := s.nextId, core := c.ref.core, launch := c.wave.launch, op := none, part := some (c.ref, c.wave.admission), src := 0, pa := pa
    what := .signal (c.sreg u.a.toNat) (c.launch.tenant + 1) u.b.toNat (c.next 4)
    arrival := s.dcc + slicePath c.ref.core pa + (if l2Cached pa then 0 else homeExtra pa) }

theorem execHsig_next {s : State} {c : Ctx} {u : UWord} (hi : s.issuing = some c) (hpriv : c.part.regs.privseg = true)
    (free : Free c u.s true none none) (hrel : Released s c 6) (hheld : c.part.heldOf [.ld, .st] = none) :
    exec (.hsig u) s = .next (if (s.tenant c.launch.tenant).hsigBase.getLsbD 0 = false then s.goesOnAt c.ref (c.next 4)
      else State.parkPart { s with posted := s.posted ++ [signalPosted s c u], nextId := s.nextId + 1 } c.ref (.on (.posted s.nextId))) := by
  refine (issue_next _ _ c s hi (fun _ => hpriv) rfl rfl free).trans (congrArg _ ?_)
  dsimp only
  rw [releaseFirst_none hrel hheld]
  simp only [Bool.not_eq_true']
  rfl

theorem keepBits_toNat (h : W64) : (keepBits h 9 43).toNat = h.toNat % 2 ^ 52 / 2 ^ 9 * 2 ^ 9 := by
  have hlt := h.isLt
  rw [keepBits, BitVec.toNat_ofNat]
  omega

theorem goesOnAt_effect {s : State} {c : Ctx} (hi : s.issuing = some c) (a : W64) :
    ∃ w p, OnlyWave c s (s.goesOnAt c.ref a) ∧ (s.goesOnAt c.ref a).wave? c.ref.key = some w ∧ SameVregs c.wave w
      ∧ w.part? c.ref.base = some p ∧ p.regs = c.part.regs ∧ p.pc = a ∧ p.region = a ∧ p.park = .running ∧ p.notBefore = s.dcc + 1 := by
  have hchange := waveChange_goesOnAt s c.ref a
  obtain ⟨w, hw, heq, hpart⟩ := goesOnAt_part (issuing_wave hi) (issuing_part hi) a
  refine ⟨w, _, ⟨hchange.state, hchange.others⟩, hw, ?_, hpart, rfl, rfl, rfl, rfl, rfl⟩
  rw [heq]
  exact ⟨rfl, rfl⟩

/-! ### Writes at a slice -/

/-- Nothing differs but memory, caches and banks: what a write at a slice may change. -/
structure StoreOnly (s t : State) : Prop where
  eq : t = { s with mem := t.mem, cores := t.cores, banks := t.banks, l2 := t.l2, dies := t.dies }

theorem StoreOnly.refl (s : State) : StoreOnly s s := ⟨rfl⟩
theorem StoreOnly.trans {s t u : State} (h : StoreOnly s t) (h' : StoreOnly t u) : StoreOnly s u := ⟨by rw [h'.eq, h.eq]⟩
theorem StoreOnly.keepsWaves {s t : State} (h : StoreOnly s t) : KeepsWaves s t := by
  rw [h.eq]
  exact ⟨rfl, rfl, rfl⟩
theorem StoreOnly.wave? {s t : State} (h : StoreOnly s t) (k : Nat) : t.wave? k = s.wave? k := congrArg (fun l => lookT l k) h.keepsWaves.waves

theorem storeOnly_postDebug (s : State) (die kind index src unit info : Nat) (addr : W64) :
    StoreOnly s (s.postDebug die kind index src unit info addr) := by
  unfold State.postDebug
  dsimp only
  split
  · exact .refl s
  · split <;> exact ⟨rfl⟩

theorem storeOnly_swatch (s : State) (src unit pa n : Nat) : StoreOnly s (s.swatch src unit pa n) := by
  refine List.foldlRecOn (motive := StoreOnly s) _ _ (.refl s) (fun t ht k _ => ht.trans ?_)
  dsimp only
  split
  · split
    · exact (storeOnly_postDebug t ..).trans ⟨rfl⟩
    · exact storeOnly_postDebug t ..
  · exact .refl t

theorem storeOnly_slicePut (s : State) (src unit pa : Nat) (bytes : List Byte) : StoreOnly s (s.slicePut src unit pa bytes) :=
  StoreOnly.trans ⟨rfl⟩ (storeOnly_swatch (State.touchBank { s with mem := writeBytes s.mem pa bytes } pa) ..)

theorem storeOnly_useLine (s : State) (pa cp : Nat) : StoreOnly s (s.useLine pa cp) := by
  have hpins := useLine_pins s pa cp
  refine ⟨?_⟩
  rw [(cachesOnly_useLine s pa cp).eq, hpins]

theorem storeOnly_postedPut (s : State) (p : Posted) (pa : Nat) (b : List Byte) : StoreOnly s (s.postedPut p pa b) := by
  have hclean : StoreOnly s (s.dropClean p.core (pa / 128) (sectorsOf pa b.length)) := ⟨by rw [coresOnly_dropClean]⟩
  exact hclean.trans ((storeOnly_slicePut ..).trans (storeOnly_useLine ..))

/-- A die whose debug ring takes no records writes none. -/
theorem swatch_mem {s : State} {pa : Nat} (h : (s.die (dieOfPa pa)).dbgEn = false) (src unit n : Nat) : (s.swatch src unit pa n).mem = s.mem := by
  refine (List.foldlRecOn (motive := fun t : State => t.mem = s.mem ∧ (t.die (dieOfPa pa)).dbgEn = false) _ _ ⟨rfl, h⟩ (fun t ht k _ => ?_)).1
  obtain ⟨hmem, hoff⟩ := ht
  have hpost : ∀ kind index src unit info addr, t.postDebug (dieOfPa pa) kind index src unit info addr = t := by simp [State.postDebug, hoff]
  dsimp only
  split
  · rw [hpost]
    split
    · exact ⟨hmem, by rw [State.die_updDie_self]; exact hoff⟩
    · exact ⟨hmem, hoff⟩
  · exact ⟨hmem, hoff⟩

theorem postedPut_mem {s : State} {pa : Nat} (h : (s.die (dieOfPa pa)).dbgEn = false) (p : Posted) (b : List Byte) :
    (s.postedPut p pa b).mem = writeBytes s.mem pa b := by
  have hclean := coresOnly_dropClean s p.core (pa / 128) (sectorsOf pa b.length)
  refine (cachesOnly_useLine ..).mem.trans ((swatch_mem ?_ p.src p.core b.length).trans ?_)
  · rw [hclean]
    exact h
  · rw [hclean]
    rfl

/-! ### The signal at its slice -/

theorem sendMsix_of_open {p : Package} {fn vec : Nat} (h : (fn, vec) ∉ p.msixMask) :
    p.sendMsix fn vec = { p with msix := (fn, vec) :: p.msix } := by
  simp [Package.sendMsix, h]

theorem sendMsix_of_masked {p : Package} {fn vec : Nat} (h : (fn, vec) ∈ p.msixMask) :
    p.sendMsix fn vec = { p with msixPend := if (fn, vec) ∈ p.msixPend then p.msixPend else (fn, vec) :: p.msixPend } := by
  simp [Package.sendMsix, h]

theorem postedLines_signal {s : State} {q : Posted} {v next : W64} {fn vec : Nat} (hwhat : q.what = .signal v fn vec next) :
    s.postedLines q = [q.pa] := by
  rw [State.postedLines, hwhat]

/-- A write to one line that nothing holds up performs. -/
theorem landPosted_performs {s : State} {q : Posted} (hlines : s.postedLines q = [q.pa]) (hpin : s.pinned (some q.core) q.pa = false)
    (hbusy : s.lineBusy q.core (q.pa / 128) = false) (hdelay : s.bankDelay q.pa = 0) : s.landPosted q = s.performPosted q := by
  have hpins : s.pinnedIn (some q.core) [q.pa] = [] := by simp [State.pinnedIn, hpin]
  simp only [State.landPosted, hlines, hpins, List.any_cons, hbusy, List.any_nil, Bool.or_self, Bool.false_eq_true, if_false, List.map_cons, hdelay,
    List.map_nil, List.foldl_cons, List.foldl_nil, Nat.max_self, ne_eq, not_true_eq_false]

/-- The state in which a signal's store has performed and its message has been sent. -/
def State.signalled (s : State) (q : Posted) (v : W64) (fn vec : Nat) : State :=
  (State.postedPut { s with posted := s.posted.filter (fun x => x.id != q.id) } q q.pa (bytesOfNat 8 v.toNat)).sendMsix fn vec

theorem performPosted_signal {s : State} {q : Posted} {v next : W64} {fn vec : Nat} (hwhat : q.what = .signal v fn vec next) :
    s.performPosted q = (s.signalled q v fn vec).endSignal q next := by
  rw [State.performPosted, hwhat]
  rfl

theorem signalled_eq (s : State) (q : Posted) (v : W64) (fn vec : Nat) :
    s.signalled q v fn vec = { s with
      mem := (s.signalled q v fn vec).mem, cores := (s.signalled q v fn vec).cores, banks := (s.signalled q v fn vec).banks
      l2 := (s.signalled q v fn vec).l2, dies := (s.signalled q v fn vec).dies, pkg := s.pkg.sendMsix fn vec
      posted := s.posted.filter (fun x => x.id != q.id) } := by
  have hput := (storeOnly_postedPut { s with posted := s.posted.filter (fun x => x.id != q.id) } q q.pa (bytesOfNat 8 v.toNat)).eq
  rw [State.signalled, State.sendMsix, State.updPkg, hput]

theorem signalled_wave? (s : State) (q : Posted) (v : W64) (fn vec k : Nat) : (s.signalled q v fn vec).wave? k = s.wave? k := by
  rw [signalled_eq]
  rfl

theorem signalled_mem {s : State} {q : Posted} (h : (s.die (dieOfPa q.pa)).dbgEn = false) (v : W64) (fn vec : Nat) :
    (s.signalled q v fn vec).mem = writeBytes s.mem q.pa (bytesOfNat 8 v.toNat) :=
  postedPut_mem (s := { s with posted := s.posted.filter (fun x => x.id != q.id) }) h q _

/-- The part that waits for its signal goes on behind its `hsig`, where a region begins. -/
theorem endSignal_effect {s : State} {c : Ctx} {q : Posted} (hw : s.wave? c.ref.key = some c.wave) (hp : c.wave.part? c.ref.base = some c.part)
    (hpart : q.part = some (c.ref, c.wave.admission)) (hpark : c.part.park = .on (.posted q.id)) (next : W64) :
    WaveChange c.ref.key s (s.endSignal q next)
      ∧ ∃ w p, (s.endSignal q next).wave? c.ref.key = some w ∧ SameVregs c.wave w ∧ w.part? c.ref.base = some p ∧ p.regs = c.part.regs
        ∧ p.pc = next ∧ p.region = next ∧ p.park = .running := by
  have hend : s.endSignal q next = (s.beginRegion c.ref next true).updPart c.ref (fun x =>
      if x.park = .on (.posted q.id) then { (x.moveTo next).issued s.dcc 0 with lastIssue := x.lastIssue } else x) := by
    rw [State.endSignal, hpart]
    dsimp only
    rw [hw]
    exact if_neg (not_not.mpr rfl)
  rw [hend]
  obtain ⟨v, hv, heq, hregion⟩ := beginRegion_part hw hp next true
  refine ⟨(waveChange_beginRegion s c.ref next true).trans (waveChange_updPart ..), _, _, wave?_updWave_some hv _, ?_,
    part?_updPart_some hregion _ (fun x => ?_), ?_⟩
  · rw [heq]
    exact ⟨rfl, rfl⟩
  · split <;> rfl
  · rw [if_pos (show (c.part.enterRegion next true s.dcc).park = _ from hpark)]
    exact ⟨rfl, rfl, rfl, rfl⟩

/-! ### A fetch that fails (05 R97) -/

section
variable {s s' : State} {c : Ctx} (hi : s.issuing = some c)
include hi

theorem fetch_keepsWave {f : Fetched} (h : s.fetch c.ref.core c.part.regs.asid c.part.pc = (s', f)) :
    s'.ctx? c.ref = some c ∧ s'.dcc = s.dcc := by
  have hcaches := cachesOnly_fetch s c.ref.core c.part.regs.asid c.part.pc
  rw [h] at hcaches
  exact ⟨(hcaches.ctx? c.ref).trans (issuing_ctx hi), hcaches.dcc⟩

theorem fetchFault_failed {va d : Nat} (h : s.fetch c.ref.core c.part.regs.asid c.part.pc = (s', .failed va d)) :
    exec .instructionFetchFault s = .next (s'.precise c tcAccess d (BitVec.ofNat 64 va)) := by
  show execInstructionFetchFault s = _
  rw [execInstructionFetchFault, hi]
  dsimp only
  rw [h]

/-- A page that is not present parks the part on the record posted for it. -/
theorem fetchFault_missing {va x : Nat} (h : s.fetch c.ref.core c.part.regs.asid c.part.pc = (s', .missing va x)) {u : State} {die ticket : Nat}
    (hpost : s'.postFault c.ref.core c.part.regs.asid va x 4 c.ref.slot = (u, some (die, ticket))) :
    exec .instructionFetchFault s = .next (u.parkPart c.ref (.on (.ticket die ticket va))) := by
  show execInstructionFetchFault s = _
  rw [execInstructionFetchFault, hi]
  dsimp only
  rw [h]
  dsimp only
  rw [hpost]
  rfl

end

/-! ### Posting a record (08 R189) -/

theorem keepsWaves_slicePut (s : State) (src unit pa : Nat) (bytes : List Byte) : KeepsWaves s (s.slicePut src unit pa bytes) :=
  (storeOnly_slicePut s src unit pa bytes).keepsWaves
theorem keepsWaves_sendMsix (s : State) (fn vec : Nat) : KeepsWaves s (s.sendMsix fn vec) := ⟨rfl, rfl, rfl⟩
theorem keepsWaves_updDie (s : State) (d : Nat) (f : Die → Die) : KeepsWaves s (s.updDie d f) := ⟨rfl, rfl, rfl⟩

theorem keepsWaves_enqueueFault (s : State) (die v : Nat) : KeepsWaves s (s.enqueueFault die v) := by
  unfold State.enqueueFault
  dsimp only
  split
  · exact .refl s
  · next head tail cap _ =>
    have hputs := (keepsWaves_slicePut s 2 0 ((s.die die).fqueue.toNat + 64 + 8 * (tail % cap)) (bytesOfNat 8 v)).trans
      (keepsWaves_slicePut _ 2 0 ((s.die die).fqueue.toNat + 8) (bytesOfNat 8 (tail + 1)))
    split
    · exact hputs.trans (keepsWaves_sendMsix ..)
    · exact hputs

/-- Every die holds the records and the next ticket that it held. -/
structure KeepsFaults (s t : State) : Prop where
  faults : ∀ d, (t.die d).faults = (s.die d).faults
  ticket : ∀ d, (t.die d).ticket = (s.die d).ticket

theorem KeepsFaults.refl (s : State) : KeepsFaults s s := ⟨fun _ => rfl, fun _ => rfl⟩
theorem KeepsFaults.trans {s t u : State} (h : KeepsFaults s t) (h' : KeepsFaults t u) : KeepsFaults s u :=
  ⟨fun d => (h'.faults d).trans (h.faults d), fun d => (h'.ticket d).trans (h.ticket d)⟩
theorem keepsFaults_of_dies {s t : State} (h : t.dies = s.dies) : KeepsFaults s t := by
  refine ⟨fun d => ?_, fun d => ?_⟩ <;> rw [State.die, h, State.die]
theorem keepsFaults_sendMsix (s : State) (fn vec : Nat) : KeepsFaults s (s.sendMsix fn vec) := keepsFaults_of_dies rfl

theorem keepsFaults_updDie (s : State) (d : Nat) {f : Die → Die} (hfaults : ∀ x, (f x).faults = x.faults)
    (hticket : ∀ x, (f x).ticket = x.ticket) :
    KeepsFaults s (s.updDie d f) := by
  refine ⟨fun n => ?_, fun n => ?_⟩ <;> rw [State.die_updDie] <;> split
  · next h => rw [h, hfaults]
  · rfl
  · next h => rw [h, hticket]
  · rfl

theorem keepsFaults_postDebug (s : State) (die kind index src unit info : Nat) (addr : W64) :
    KeepsFaults s (s.postDebug die kind index src unit info addr) := by
  unfold State.postDebug
  dsimp only
  split
  · exact .refl s
  · split
    · refine KeepsFaults.trans ?_ (keepsFaults_updDie _ die ?_ ?_)
      · exact keepsFaults_of_dies rfl
      · exact fun _ => rfl
      · exact fun _ => rfl
    · exact keepsFaults_updDie s die (fun _ => rfl) (fun _ => rfl)

theorem keepsFaults_slicePut (s : State) (src unit pa : Nat) (bytes : List Byte) : KeepsFaults s (s.slicePut src unit pa bytes) := by
  refine List.foldlRecOn (motive := KeepsFaults s) _ _ (keepsFaults_of_dies rfl) (fun t ht k _ => ht.trans ?_)
  dsimp only
  split
  · split
    · exact (keepsFaults_postDebug t ..).trans (keepsFaults_updDie _ _ (fun _ => rfl) (fun _ => rfl))
    · exact keepsFaults_postDebug t ..
  · exact .refl t

theorem keepsFaults_enqueueFault (s : State) (die v : Nat) : KeepsFaults s (s.enqueueFault die v) := by
  unfold State.enqueueFault
  dsimp only
  split
  · exact .refl s
  · next head tail cap _ =>
    have hputs := (keepsFaults_slicePut s 2 0 ((s.die die).fqueue.toNat + 64 + 8 * (tail % cap)) (bytesOfNat 8 v)).trans
      (keepsFaults_slicePut _ 2 0 ((s.die die).fqueue.toNat + 8) (bytesOfNat 8 (tail + 1)))
    split
    · exact hputs.trans (keepsFaults_sendMsix ..)
    · exact hputs

/-- The record that a die's next ticket stands for. -/
def State.nextFault (s : State) (core : Nat) (asid : BitVec 16) (va logExt kind slot : Nat) : FaultRec :=
  { ticket := (s.die (dieOf core)).ticket, va := va, asid := asid, kind := kind, core := core, slot := slot, stamp := s.dcc
    page := va / 2 ^ logExt * 2 ^ logExt, size := 2 ^ logExt }

theorem postFault_posts {s : State} {core : Nat} {asid : BitVec 16} {va : Nat} (hnone : s.recordFor core asid va = none)
    (hroom : s.faultRoom (dieOf core) = true) (hpins : s.pinnedIn none (s.postLines (dieOf core)) = []) (logExt kind slot : Nat) :
    ∃ u, s.postFault core asid va logExt kind slot = (u, some (dieOf core, (s.die (dieOf core)).ticket)) ∧ KeepsWaves s u
      ∧ (u.die (dieOf core)).faults = (s.die (dieOf core)).faults ++ [s.nextFault core asid va logExt kind slot] := by
  unfold State.postFault
  dsimp only
  rw [hnone]
  dsimp only
  rw [hroom, hpins]
  set d := s.die (dieOf core) with hd
  set record := bytesOfNat 8 va ++ bytesOfNat 2 asid.toNat ++ bytesOfNat 1 kind ++ bytesOfNat 1 core ++ bytesOfNat 1 slot
        ++ bytesOfNat 3 0 ++ bytesOfNat 8 s.dcc ++ bytesOfNat 4 d.ticket ++ bytesOfNat 4 0
  have hwaves := (keepsWaves_slicePut s 2 0 d.ringSlot record).trans (keepsWaves_enqueueFault _ (dieOf core) d.ticket)
  have hrecords := (keepsFaults_slicePut s 2 0 d.ringSlot record).trans (keepsFaults_enqueueFault _ (dieOf core) d.ticket)
  refine ⟨_, rfl, hwaves.trans (keepsWaves_updDie ..), ?_⟩
  rw [State.die_updDie_self]
  dsimp only
  rw [hrecords.faults, hrecords.ticket, hwaves.dcc]
  rfl

end Sys2Proof.Machine
end

section
/-! SUPPORT. The statement about translations, signals and failing fetches. -/

open Sys2Proof Sys2Proof.Machine

/-- Settles O40, from the state a `tlbi` leaves, the two halves of an `hsig`, and the answer of a fetch that finds no instruction. -/
theorem translationAndSignal : Obligations.TranslationAndSignal := by
  unfold Obligations.TranslationAndSignal
  refine fun s c hi => ⟨fun u hpriv free => ?_, fun u hpriv free hrel hheld => ⟨fun hoff => ?_, fun hon => ?_⟩,
    fun q v next fn vec hwhat hpart hpark hpin hbusy hdelay hdbg => ?_, fun s' va d hfetch handler => ?_, fun s' va x f hfetch hrecord => ?_,
    fun s' va x hfetch hrecord hroom hpins => ?_⟩
  · obtain ⟨t, ht, w, honly, hsame, hwave⟩ := tlbi_completes hi hpriv free
    obtain ⟨hstate, hentries, hgates, hwalks⟩ := afterTlbi_effect honly
    exact ⟨t, w, ht, hstate, honly.others, hsame, hwave, hentries, hgates, hwalks⟩
  · obtain ⟨w, p, honly, hw, hsame, hp, hregs, hpc, hregion, hrun, hnext⟩ := goesOnAt_effect hi (c.next 4)
    refine ⟨_, w, p, (execHsig_next hi hpriv free hrel hheld).trans (congrArg _ (if_pos hoff)), honly, hw, hsame, hp,
      hregs, hpc, hregion, hrun, hnext⟩
  · have hon' : ¬ (s.tenant c.launch.tenant).hsigBase.getLsbD 0 = false := by simp [hon]
    obtain ⟨w, honly, hsame, hwave⟩ := (partBecomes_of_wave
      (u := { s with posted := s.posted ++ [signalPosted s c u], nextId := s.nextId + 1 }) (issuing_wave hi) (issuing_part hi)).parkPart
        (.on (.posted s.nextId))
    have hpa := congrArg (· + 8 * u.b.toNat) (keepBits_toNat (s.tenant c.launch.tenant).hsigBase)
    refine ⟨_, w, signalPosted s c u, (execHsig_next hi hpriv free hrel hheld).trans (congrArg _ (if_neg hon')), honly.state, honly.others,
      hsame, hwave, rfl, rfl, hpa, rfl, rfl, ?_⟩
    rw [← hpa]
    rfl
  · have hland : s.landPosted q = (s.signalled q v fn vec).endSignal q next :=
      (landPosted_performs (postedLines_signal hwhat) hpin hbusy hdelay).trans (performPosted_signal hwhat)
    obtain ⟨hchange, hgoes⟩ := endSignal_effect ((signalled_wave? s q v fn vec _).trans (issuing_wave hi)) (issuing_part hi) hpart hpark next
    rw [← hland] at hchange hgoes
    have hstate := hchange.state
    rw [signalled_eq] at hstate
    have hpkg : (s.landPosted q).pkg = s.pkg.sendMsix fn vec := by rw [hstate]
    have hmem : (s.landPosted q).mem = writeBytes s.mem q.pa (bytesOfNat 8 v.toNat) := hchange.mem.trans (signalled_mem hdbg v fn vec)
    have hlen : (bytesOfNat 8 v.toNat).length = 8 := bytesOfNat_length ..
    refine ⟨hgoes, fun k hk => (hchange.others k hk).trans (signalled_wave? ..), ?_, fun x => ?_, fun hopen => ?_,
      fun hmasked => ?_, ?_, fun a ha => ?_⟩
    · rw [hstate]
    · rw [hstate]
      simp [List.mem_filter]
    · exact hpkg.trans (sendMsix_of_open hopen)
    · exact hpkg.trans (sendMsix_of_masked hmasked)
    · have hread := readBytes_writeBytes s.mem q.pa (bytesOfNat 8 v.toNat)
      rw [hlen, ← hmem] at hread
      rw [hread, natOfBytes_bytesOfNat]
      exact Nat.mod_eq_of_lt v.isLt
    · rw [hmem]
      exact readByte_writeBytes_outside _ _ _ _ (by rwa [hlen])
  · obtain ⟨hctx, -⟩ := fetch_keepsWave hi hfetch
    obtain ⟨w, p, hin⟩ := takeTrap_inHandler hctx handler tcAccess d (BitVec.ofNat 64 va) c.part.pc
    exact ⟨_, w, p, fetchFault_failed hi hfetch, hin⟩
  · obtain ⟨hctx, hdcc⟩ := fetch_keepsWave hi hfetch
    obtain ⟨w, honly, hsame, hwave⟩ := parkPart_effect hctx (.on (.ticket (dieOf c.ref.core) f.ticket va))
    rw [hdcc] at hwave
    refine ⟨_, w, fetchFault_missing hi hfetch (die := dieOf c.ref.core) (ticket := f.ticket) (u := s') ?_, honly, hsame, hwave⟩
    rw [State.postFault, hrecord]
  · obtain ⟨hctx, hdcc⟩ := fetch_keepsWave hi hfetch
    obtain ⟨u, hpost, hkeeps, hfaults⟩ := postFault_posts hrecord hroom hpins x 4 c.ref.slot
    obtain ⟨-, hw, hp, -⟩ := ctx_parts hctx
    obtain ⟨w, honly, hsame, hwave⟩ := (partBecomes_of_wave ((congrArg (fun l => lookT l c.ref.key) hkeeps.waves).trans hw) hp).parkPart
      (.on (.ticket (dieOf c.ref.core) (s'.die (dieOf c.ref.core)).ticket va))
    rw [hkeeps.dcc, hdcc] at hwave
    refine ⟨_, w, s'.nextFault c.ref.core c.part.regs.asid va x 4 c.ref.slot, fetchFault_missing hi hfetch hpost, hsame, hwave, ?_,
      rfl, rfl, rfl, rfl, rfl, rfl, rfl⟩
    rw [honly.state]
    exact hfaults

end

section
/-! SUPPORT. The vector instructions on numbers and on bit patterns, for an instruction without and with its extension word (07 R161, 20 R440). -/

namespace Sys2Proof.Machine

theorem intTwoAt_of {i : Instr} {r : RWord} {x : XaWord} {len : Nat} {f : Int → Int → Int} (he : ∀ s, exec i s = intTwo r x len f s) :
    IntTwoAt i r x len f :=
  vectorResult_of i r.s len (intForm r x) _ _ he

theorem intTwo_of {short : RWord → Instr} {ext : RWord → XaWord → Instr} {ty : Nat} {f : XaWord → Int → Int → Int}
    (hshort : ∀ r s, exec (short r) s = intTwo r (xaDefault ty) 4 (f (xaDefault ty)) s)
    (hext : ∀ r x s, exec (ext r x) s = intTwo r x 8 (f x) s) : IntTwo short ext ty f :=
  fun r x => ⟨intTwoAt_of (hshort r), intTwoAt_of (hext r x)⟩

theorem intOne_result {i : Instr} {r : RWord} {x : XaWord} {len : Nat} {f : Int → Int} (he : ∀ s, exec i s = intOne r x len f s) :
    VectorResult i r.s len (intForm r x) (fun c => [(intForm r x).a c]) (fun c l a b =>
      NoFlags (fitInt x.ty.toNat x.sat (f (intOf x.ty.toNat (c.src (tyWidth x.ty.toNat) l ((intForm r x).a c) a b))))) :=
  vectorResult_of i r.s len (intForm r x) _ _ he

theorem bitTwoAt_of {i : Instr} {r : RWord} {x : XaWord} {len : Nat} {f : Nat → Nat → Nat → Nat} (he : ∀ s, exec i s = bitTwo r x len f s) :
    BitTwoAt i r x len f :=
  vectorResult_of i r.s len (intForm r x) _ _ he

theorem bitTwo_of {short : RWord → Instr} {ext : RWord → XaWord → Instr} {ty : Nat} {f : XaWord → Nat → Nat → Nat → Nat}
    (hshort : ∀ r s, exec (short r) s = bitTwo r (xaDefault ty) 4 (f (xaDefault ty)) s)
    (hext : ∀ r x s, exec (ext r x) s = bitTwo r x 8 (f x) s) : BitTwo short ext ty f :=
  fun r x => ⟨bitTwoAt_of (hshort r), bitTwoAt_of (hext r x)⟩

theorem bitOneAt_of {i : Instr} {r : RWord} {x : XaWord} {len : Nat} {f : Nat → Nat → Nat} (he : ∀ s, exec i s = bitOne r x len f s) :
    BitOneAt i r x len f :=
  vectorResult_of i r.s len (intForm r x) _ _ he

theorem bitOne_of {short : RWord → Instr} {ext : RWord → XaWord → Instr} {ty : Nat} {f : XaWord → Nat → Nat → Nat}
    (hshort : ∀ r s, exec (short r) s = bitOne r (xaDefault ty) 4 (f (xaDefault ty)) s)
    (hext : ∀ r x s, exec (ext r x) s = bitOne r x 8 (f x) s) : BitOne short ext ty f :=
  fun r x => ⟨bitOneAt_of (hshort r), bitOneAt_of (hext r x)⟩

end Sys2Proof.Machine
end

section
/-! SUPPORT. The statement about integer arithmetic. -/

open Sys2Proof Sys2Proof.Machine

/-- Settles O2: each instruction is the model's integer operation of one or two sources, and `imad` the one of three. -/
theorem integerGroup : Obligations.IntegerGroup := by
  unfold Obligations.IntegerGroup
  refine ⟨?iadd, ?isub, ?imul, ?imulh, ?imin, ?imax, ?iscadd, ?iabs, ?imad⟩
  case iabs => exact fun r x => ⟨intOne_result (f := fun a => a.natAbs) (fun _ => rfl), intOne_result (f := fun a => a.natAbs) (fun _ => rfl)⟩
  case imad => exact fun r x => vectorResult_of (.imad r x) r.s 8 (intForm r x) _ _ (fun _ => rfl)
  all_goals exact intTwo_of (fun _ _ => rfl) (fun _ _ _ => rfl)

end

section
/-! SUPPORT. The float instructions, for an instruction without and with its extension word (07 R162-R165, 20 R433). -/

namespace Sys2Proof.Machine

theorem floatTwoAt_of {i : Instr} {r : RWord} {x : XaWord} {len : Nat} {f : Fmt → Nat → Bool → Nat → Nat → FRes}
    (he : ∀ s, exec i s = floatTwo r x len f s) : FloatTwoAt i r x len f :=
  vectorResult_of i r.s len (intForm r x) _ _ he

theorem floatTwo_of {short : RWord → Instr} {ext : RWord → XaWord → Instr} {f : Fmt → Nat → Bool → Nat → Nat → FRes}
    (hshort : ∀ r s, exec (short r) s = floatTwo r (xaDefault 3) 4 f s) (hext : ∀ r x s, exec (ext r x) s = floatTwo r x 8 f s) :
    FloatTwo short ext f :=
  fun r x => ⟨floatTwoAt_of (hshort r), floatTwoAt_of (hext r x)⟩

theorem floatOneAt_of {i : Instr} {r : RWord} {x : XaWord} {len : Nat} {f : Fmt → Nat → Bool → Nat → FRes}
    (he : ∀ s, exec i s = floatOne r x len f s) : FloatOneAt i r x len f :=
  vectorResult_of i r.s len (intForm r x) _ _ he

theorem floatOne_of {short : RWord → Instr} {ext : RWord → XaWord → Instr} {f : Fmt → Nat → Bool → Nat → FRes}
    (hshort : ∀ r s, exec (short r) s = floatOne r (xaDefault 3) 4 f s) (hext : ∀ r x s, exec (ext r x) s = floatOne r x 8 f s) :
    FloatOne short ext f :=
  fun r x => ⟨floatOneAt_of (hshort r), floatOneAt_of (hext r x)⟩

/-- The operands of `fclass`: a mask of 32 bits from elements of the type (07 R164). -/
abbrev classForm (r : RWord) (x : XaWord) : XaForm := { r := r, x := x, dty := 0, sty := x.ty.toNat }

theorem floatClass_result {i : Instr} {r : RWord} {x : XaWord} {len : Nat} (he : ∀ s, exec i s = floatClass r x len s) :
    VectorResult i r.s len (classForm r x) (fun c => [(classForm r x).a c]) (fun c l a b =>
      NoFlags ((fmtTy x.ty.toNat).fclass (c.src (tyWidth x.ty.toNat) l ((classForm r x).a c) a b))) :=
  vectorResult_of i r.s len (classForm r x) _ _ he

theorem floatScale_result {i : Instr} {r : RWord} {x : XaWord} {len : Nat} (he : ∀ s, exec i s = floatScale r x len s) :
    VectorResult i r.s len (intForm r x) (fun c => [(intForm r x).a c, (intForm r x).bAs c 1]) (fun c l a b =>
      (fmtTy x.ty.toNat).fscale (c.rm x.rm.toNat) c.ftz (c.src (tyWidth x.ty.toNat) l ((intForm r x).a c) a b)
        (intOf 1 (c.src 32 l ((intForm r x).bAs c 1) a b))) :=
  vectorResult_of i r.s len (intForm r x) _ _ he

end Sys2Proof.Machine
end

section
/-! SUPPORT. The statement about float arithmetic. -/

open Sys2Proof Sys2Proof.Machine

/-- Settles O4: each instruction is the model's float operation of one or two sources; `ffma`, `fclass` and `fscale` have operands of their own. -/
theorem floatGroup : Obligations.FloatGroup := by
  unfold Obligations.FloatGroup
  refine ⟨?fadd, ?fsub, ?fmul, ?fmin, ?fmax, ?fdiv, ?frcp, ?frsq, ?fsqrt, ?fexp2, ?flog2, ?fsin, ?fcos, ?frnd, ?ffma, ?fclass, ?fscale⟩
  case ffma => exact fun r x => vectorResult_of (.ffma r x) r.s 8 (intForm r x) _ _ (fun _ => rfl)
  case fclass => exact fun r x => ⟨floatClass_result (fun _ => rfl), floatClass_result (fun _ => rfl)⟩
  case fscale => exact fun r x => ⟨floatScale_result (fun _ => rfl), floatScale_result (fun _ => rfl)⟩
  case fadd | fsub | fmul | fmin | fmax | fdiv => exact floatTwo_of (fun _ _ => rfl) (fun _ _ _ => rfl)
  all_goals exact floatOne_of (fun _ _ => rfl) (fun _ _ _ => rfl)

end

section
/-! SUPPORT. The class of a float pattern from its sign, exponent and fraction fields (07 R164). -/

namespace Sys2Proof.Machine

/-- The bit of the class mask that the fields of a pattern name (07 R164). -/
def classBit (eb fb v : Nat) : Nat :=
  if v / 2 ^ fb % 2 ^ eb = 2 ^ eb - 1 then
    (if v % 2 ^ fb ≠ 0 then (if (v % 2 ^ fb).testBit (fb - 1) then 1 else 0) else if v.testBit (eb + fb) then 2 else 9)
  else if v / 2 ^ fb % 2 ^ eb ≠ 0 then (if v.testBit (eb + fb) then 3 else 8)
  else if v % 2 ^ fb ≠ 0 then (if v.testBit (eb + fb) then 4 else 7)
  else if v.testBit (eb + fb) then 5 else 6

/-- The value of a pattern of a format with infinities and subnormals, by its exponent field (07 R152). -/
theorem Fmt.value_of_top {f : Fmt} (hinf : f.inf = true) {x : Nat} (he : x / 2 ^ f.fb % 2 ^ f.eb = 2 ^ f.eb - 1) :
    f.value x = if x % 2 ^ f.fb = 0 then .inf (x.testBit (f.eb + f.fb)) else .nan := by
  simp [Fmt.value, hinf, he, Nat.testBit_eq_decide_div_mod_eq]

theorem Fmt.value_of_normal {f : Fmt} (hinf : f.inf = true) {x : Nat} (he : x / 2 ^ f.fb % 2 ^ f.eb ≠ 2 ^ f.eb - 1)
    (h0 : x / 2 ^ f.fb % 2 ^ f.eb ≠ 0) :
    f.value x = .fin (x.testBit (f.eb + f.fb)) (x % 2 ^ f.fb + 2 ^ f.fb) (f.emin - f.fb + ((x / 2 ^ f.fb % 2 ^ f.eb : Nat) - 1)) := by
  simp [Fmt.value, hinf, he, h0, Nat.testBit_eq_decide_div_mod_eq]

theorem Fmt.value_of_low {f : Fmt} (hinf : f.inf = true) (hsub : f.sub = true) {x : Nat} (he : x / 2 ^ f.fb % 2 ^ f.eb ≠ 2 ^ f.eb - 1)
    (h0 : x / 2 ^ f.fb % 2 ^ f.eb = 0) : f.value x = .fin (x.testBit (f.eb + f.fb)) (x % 2 ^ f.fb) (f.emin - f.fb) := by
  simp [Fmt.value, hinf, hsub, h0, Nat.testBit_eq_decide_div_mod_eq, h0 ▸ he]

theorem Fmt.snan_of_top {f : Fmt} (hinf : f.inf = true) (hfb : 0 < f.fb) {x : Nat} (he : x / 2 ^ f.fb % 2 ^ f.eb = 2 ^ f.eb - 1)
    (hm : x % 2 ^ f.fb ≠ 0) : f.snan x = !(x % 2 ^ f.fb).testBit (f.fb - 1) := by
  have hquiet : (x % 2 ^ f.fb).testBit (f.fb - 1) = x.testBit (f.fb - 1) := by
    rw [Nat.testBit_mod_two_pow, decide_eq_true (by omega), Bool.true_and]
  rw [hquiet, Nat.testBit_eq_decide_div_mod_eq]
  rcases Nat.mod_two_eq_zero_or_one (x / 2 ^ (f.fb - 1)) with h | h <;> simp [Fmt.snan, hinf, he, hm, h]

/-- `fclass` sets the one bit that the fields name. -/
theorem Fmt.fclass_eq_classBit {f : Fmt} (hinf : f.inf = true) (hsub : f.sub = true) (hfb : 0 < f.fb) (x : Nat) :
    f.fclass x = 2 ^ classBit f.eb f.fb x := by
  unfold Fmt.fclass classBit
  by_cases htop : x / 2 ^ f.fb % 2 ^ f.eb = 2 ^ f.eb - 1
  · rw [value_of_top hinf htop, if_pos htop]
    by_cases hm : x % 2 ^ f.fb = 0
    · cases x.testBit (f.eb + f.fb) <;> simp [hm]
    · rw [if_neg hm, if_pos hm]
      dsimp only
      rw [snan_of_top hinf hfb htop hm]
      cases (x % 2 ^ f.fb).testBit (f.fb - 1) <;> rfl
  · rw [if_neg htop]
    by_cases h0 : x / 2 ^ f.fb % 2 ^ f.eb = 0
    · rw [value_of_low hinf hsub htop h0]
      by_cases hm : x % 2 ^ f.fb = 0
      · cases x.testBit (f.eb + f.fb) <;> simp [hm, h0]
      · have hsubnormal : f.subnormal x = true := by simp [Fmt.subnormal, h0, hm]
        cases x.testBit (f.eb + f.fb) <;> simp [hm, h0, hsubnormal]
    · have hsubnormal : f.subnormal x = false := by simp [Fmt.subnormal, h0]
      rw [value_of_normal hinf htop h0]
      cases x.testBit (f.eb + f.fb) <;> simp [h0, hsubnormal]

/-- The same for the float types of `fclass`, by the widths of their fields (07 R152). -/
theorem fclass_fmtTy {ty : Nat} (hty : ty = 3 ∨ ty = 4 ∨ ty = 5 ∨ ty = 6) (v : Nat) :
    (fmtTy ty).fclass v = 2 ^ classBit (if ty = 4 then 5 else if ty = 6 then 11 else 8)
      (if ty = 4 then 10 else if ty = 5 then 7 else if ty = 6 then 52 else 23) v := by
  rcases hty with rfl | rfl | rfl | rfl <;> exact Fmt.fclass_eq_classBit rfl rfl (by decide) v

theorem classMask_result {i : Instr} {r : RWord} {x : XaWord} {len : Nat} (hty : x.ty = 3 ∨ x.ty = 4 ∨ x.ty = 5 ∨ x.ty = 6)
    (he : ∀ s, exec i s = floatClass r x len s) :
    VectorResult i r.s len (classForm r x) (fun c => [(classForm r x).a c]) (fun c l a b =>
      NoFlags (2 ^ classBit (if x.ty.toNat = 4 then 5 else if x.ty.toNat = 6 then 11 else 8)
        (if x.ty.toNat = 4 then 10 else if x.ty.toNat = 5 then 7 else if x.ty.toNat = 6 then 52 else 23)
        (c.src (tyWidth x.ty.toNat) l ((classForm r x).a c) a b))) := by
  have hnat : x.ty.toNat = 3 ∨ x.ty.toNat = 4 ∨ x.ty.toNat = 5 ∨ x.ty.toNat = 6 := by
    rcases hty with h | h | h | h <;> simp [h]
  simp only [← fclass_fmtTy hnat]
  exact floatClass_result he

end Sys2Proof.Machine
end

section
/-! SUPPORT. The statement about `fclass`. -/

open Sys2Proof Sys2Proof.Machine

/-- Settles O5: the mask of `fclass` is the bit that the operand's fields name (`Fmt.fclass_eq_classBit`), and no flag comes with it. -/
theorem classMask : Obligations.ClassMask := by
  unfold Obligations.ClassMask
  exact fun r x hty => ⟨classMask_result (.inl rfl) (fun _ => rfl), classMask_result hty (fun _ => rfl)⟩

end

section
/-! SUPPORT. The conversions and packs, and AMAX (19 R396, R420-R423, 21 R456, 22 R506, 07 R166-R168, R174). -/

namespace Sys2Proof.Machine

/-! ### A block of registers written, and its part updated -/

theorem Wrote.of_vregs {c : Ctx} {act : Lanes} {d : Vop} {val : Nat → Nat → Nat → Nat} {w w' : Wave} (h : Wrote c act d val w)
    (hv : w'.vregs = w.vregs) : Wrote c act d val w' := by
  have hreg : ∀ depth l n, w'.v depth l n = w.v depth l n := fun depth l n => by rw [Wave.v, hv, Wave.v]
  exact ⟨fun l hl ha e he k hk => (hreg ..).trans (h.here l hl ha e he k hk),
    fun depth l n hl hn hout => (hreg ..).trans (h.others depth l n hl hn hout)⟩

theorem Wave.setVs_eq (w : Wave) (depth : Nat) (ws : List (Nat × Nat × W32)) :
    w.setVs depth ws = { w with vregs := (w.setVs depth ws).vregs, dirty := (w.setVs depth ws).dirty } := by
  induction ws generalizing w with
  | nil => rfl
  | cons e ws ih =>
    rw [Wave.setVs, ih]
    rfl

/-- The wave of `c` holds the values in its block, its part has become `p`, and nothing else differs. -/
def BlockWritten (c : Ctx) (s t : State) (act : Lanes) (d : Vop) (val : Nat → Nat → Nat → Nat) (p : Part) : Prop :=
  ∃ w, OnlyWave c s t ∧ WaveIs c t id p w ∧ Wrote c act d val w

section
variable {c : Ctx} {s t : State} {act : Lanes} {d : Vop} {val : Nat → Nat → Nat → Nat} {p : Part}

theorem BlockWritten.dcc (h : BlockWritten c s t act d val p) : t.dcc = s.dcc := by
  obtain ⟨w, honly, -⟩ := h
  exact honly.dcc

theorem BlockWritten.updPart (h : BlockWritten c s t act d val p) (f : Part → Part) (hf : ∀ p, (f p).base = p.base) :
    BlockWritten c s (t.updPart c.ref f) act d val (f p) := by
  obtain ⟨w, honly, ⟨hfound, hsame, hpart, hothers⟩, hwrote⟩ := h
  refine ⟨w.updPart c.ref.base f, honly.trans (onlyWave_updPart c t f), ⟨wave?_updWave_some hfound _, ?_,
    part?_updPart_some hpart f hf, fun b hb => (Wave.part?_updPart_of_ne _ _ hf hb).trans (hothers b hb)⟩, hwrote.of_vregs rfl⟩
  rw [hsame]
  rfl

theorem BlockWritten.done (h : BlockWritten c s t act d val p) (len : Nat) :
    BlockWritten c s (t.done c len) act d val (p.past c len s.dcc) := by
  rw [← h.dcc]
  exact h.updPart _ (fun _ => rfl)

/-- The writes of a block whose registers pass their checks. -/
theorem blockWritten_putV (hi : s.issuing = some c) (hn : d.narrow) {ops : List Vop} (hops : OperandsOk c ops) (hd : d ∈ ops) :
    BlockWritten c s (s.putV c (blockWrites c act d val)) act d val c.part := by
  refine ⟨_, onlyWave_putV c s _, ⟨wave?_updWave_some (issuing_wave hi) _, ?_, ?_, fun b _ => ?_⟩,
    wrote_setVs hn (fun e he k hk => check_fields hops hd he hk) _ (fun _ _ _ => rfl)⟩
  · conv_lhs => rw [Wave.setVs_eq]
    simp
  · rw [Wave.part?, Wave.setVs_parts]
    exact issuing_part hi
  · rw [Wave.part?, Wave.setVs_parts]
    rfl

end

/-! ### The conversions -/

/-- A conversion writes its block, ORs its flags and then folds its sources into AMAX (07 R160, R174). -/
theorem convertResult_of {i : Instr} {r : RWord} {o : XaForm} {amax : Option Fmt} {f : Ctx → Nat → Nat → Nat → FRes}
    (he : ∀ s, exec i s = convertOp r o (fun c => [o.a c]) amax f s) : ConvertResult i r.s o amax f := by
  intro s c hi free hops mags
  have hregs : OperandsOk c (o.d c :: [o.a c].flatMap Src.vops) := by simpa using hops
  let ew := elementWrites c (c.xaActive o.x) (o.d c) (f c)
  have hflags : BlockWritten c s ((s.putV c ew.1).updPart c.ref (fun p => p.orFp ew.2)) (c.xaActive o.x) (o.d c)
      (fun l a b => (f c l a b).bits) (c.part.orFp ew.2) := by
    have hput := blockWritten_putV (act := c.xaActive o.x) (val := fun l a b => (f c l a b).bits) hi (narrow_d o c) hregs List.mem_cons_self
    rw [← elementWrites_fst] at hput
    exact hput.updPart _ (fun _ => rfl)
  have hwhole : ∃ t, exec i s = .next t ∧ BlockWritten c s t (c.xaActive o.x) (o.d c) (fun l a b => (f c l a b).bits)
      (((c.part.orFp ew.2).amaxIn ((amax.map mags).getD [])).past c 8 s.dcc) := by
    have hnext := (he s).trans (issue_next _ _ c s hi (by simp) rfl hregs free)
    cases amax with
    | none => exact ⟨_, hnext, hflags.done 8⟩
    | some g => exact ⟨_, hnext, (hflags.updPart (fun p => p.amaxIn (mags g)) (fun _ => rfl)).done 8⟩
  obtain ⟨t, ht, w, honly, hwave, hwrote⟩ := hwhole
  refine ⟨t, w, _, c.part.regs.fpstat ||| ew.2, ht, honly, hwave, hwrote, rfl, fun b _ => ?_⟩
  rw [BitVec.getLsbD_or, elementWrites_snd]

/-- The halves or bytes of `pack`, its code read as a bit vector or as a number. -/
theorem packBits_toNat (sub : BitVec 4) (a b : Nat) : packBits sub.toNat a b =
    if sub = 0 then a % 2 ^ 16 + b % 2 ^ 16 * 2 ^ 16
    else a % 256 + b % 256 * 2 ^ 8 + a / 256 % 256 * 2 ^ 16 + b / 256 % 256 * 2 ^ 24 := by
  rw [packBits]
  exact if_congr (BitVec.toNat_inj (y := 0)) rfl rfl

/-! ### AMAX -/

theorem amaxOp_result {i : Instr} {r : RWord} {x : XaWord} {len : Nat} (he : ∀ s, exec i s = amaxOp r x len s) :
    WaveResult i len (fun _ c => Plain c r.s ∧ OperandsOk c ((intForm r x).a c).vops) (fun c _ _ => c.wave) (fun c w => SameVregs c.wave w)
      (fun c p => p = { c.part with
        regs := foldAmax c.part.regs (amaxSources c (c.xaActive x) (intForm r x) (fmtTy x.ty.toNat)) }) := by
  intro s c hi ⟨free, hops⟩
  obtain ⟨w, honly, hregs, hfound, hsame, hpart, hothers⟩ := ((partBecomes_refl hi).updPart
    (fun p => p.amaxIn (amaxSources c (c.xaActive x) (intForm r x) (fmtTy x.ty.toNat))) (fun _ => rfl)).done len
  exact ⟨_, w, _, (he s).trans (issue_next _ _ c s hi (by simp) rfl hops free), honly, ⟨hfound, hsame, hpart, hothers⟩, hregs, rfl⟩

theorem foldAmax_amaxv (r : PartRegs) (xs : List (Option Nat)) (hxs : ∀ v, some v ∈ xs → v < 2 ^ 32) :
    (foldAmax r xs).amaxv.toNat = (xs.filterMap id).foldl max r.amaxv.toNat := by
  induction xs generalizing r with
  | nil => rfl
  | cons x xs ih =>
    have htail : ∀ v, some v ∈ xs → v < 2 ^ 32 := fun v hv => hxs v (List.mem_cons_of_mem _ hv)
    cases x with
    | none => exact ih _ htail
    | some v =>
      have hv : v < 2 ^ 32 := hxs v List.mem_cons_self
      have hmax : (if r.amaxv.toNat < v then BitVec.ofNat 32 v else r.amaxv).toNat = max r.amaxv.toNat v := by
        split
        · next hlt => rw [BitVec.toNat_ofNat, Nat.mod_eq_of_lt hv, max_eq_right hlt.le]
        · next hge => rw [max_eq_left (not_lt.mp hge)]
      rw [foldAmax, ih _ htail, hmax]
      rfl

theorem foldAmax_amaxnan (r : PartRegs) (xs : List (Option Nat)) : (foldAmax r xs).amaxnan = (r.amaxnan || xs.any Option.isNone) := by
  induction xs generalizing r with
  | nil => simp [foldAmax]
  | cons x xs ih => cases x <;> simp [foldAmax, ih]

theorem foldAmax_frame (r : PartRegs) (xs : List (Option Nat)) :
    foldAmax r xs = { r with amaxv := (foldAmax r xs).amaxv, amaxnan := (foldAmax r xs).amaxnan } := by
  induction xs generalizing r with
  | nil => rfl
  | cons x xs ih => cases x <;> exact ih _

end Sys2Proof.Machine
end

section
/-! SUPPORT. The statement about conversions. -/

open Sys2Proof Sys2Proof.Machine

/-- Settles O7: each conversion writes its block, then folds its sources (`convertResult_of`); the packs are operations on patterns. -/
theorem convertGroup : Obligations.ConvertGroup := by
  unfold Obligations.ConvertGroup
  refine ⟨⟨?conversions, ?pack, ?unpack, ?amax⟩, ?fold⟩
  case conversions => exact fun r x => ⟨convertResult_of (fun _ => rfl), convertResult_of (fun _ => rfl), convertResult_of (fun _ => rfl)⟩
  case pack =>
    simp only [← packBits_toNat]
    exact bitTwo_of (fun _ _ => rfl) (fun _ _ _ => rfl)
  case unpack => exact bitOne_of (f := fun x _ a => unpackBits x.sub a) (fun _ _ => rfl) (fun _ _ _ => rfl)
  case amax => exact fun r x => ⟨amaxOp_result (fun _ => rfl), amaxOp_result (fun _ => rfl)⟩
  case fold => exact fun r xs hxs => ⟨foldAmax_amaxv r xs hxs, foldAmax_amaxnan r xs, foldAmax_frame r xs⟩

end

section
/-! SUPPORT. The canonical form of the memories (07 R177, 08 R180): what keeps it, whatever the operation that writes. -/

namespace Sys2Proof.Machine

/-- An operation that may have no result: the state of every result has canonical memories. -/
def SomeMemOk (o : Option State) : Prop := ∀ t, o = some t → t.MemOk

/-- A step, or the part of one: the next state has canonical memories. -/
def EndsMemOk (o : Out) : Prop := ∀ t, o = .next t → t.MemOk

theorem wf_foldl {α : Type} {f : List (Nat × Byte) → α → List (Nat × Byte)} {m : List (Nat × Byte)} (h : Memory.wf m = true)
    (hf : ∀ m a, Memory.wf m = true → Memory.wf (f m a) = true) {l : List α} : Memory.wf (l.foldl f m) = true :=
  List.foldlRecOn (motive := fun m => Memory.wf m = true) l f h (fun m hm a _ => hf m a hm)

namespace State.MemOk

variable {s t : State}

theorem mem (h : s.MemOk) : Memory.wf s.mem = true := h.1
theorem scratch (h : s.MemOk) : Memory.wf s.scratch = true := h.2.1
theorem acc (h : s.MemOk) : Memory.wf s.acc = true := h.2.2.1
theorem sched (h : s.MemOk) : Memory.wf s.sched.mem = true := h.2.2.2

theorem setMem (h : s.MemOk) {m : List (Nat × Byte)} (hm : Memory.wf m = true) : ({ s with mem := m } : State).MemOk :=
  ⟨hm, h.scratch, h.acc, h.sched⟩
theorem setScratch (h : s.MemOk) {m : List (Nat × Byte)} (hm : Memory.wf m = true) : ({ s with scratch := m } : State).MemOk :=
  ⟨h.mem, hm, h.acc, h.sched⟩
theorem setAcc (h : s.MemOk) {m : List (Nat × Byte)} (hm : Memory.wf m = true) : ({ s with acc := m } : State).MemOk :=
  ⟨h.mem, h.scratch, hm, h.sched⟩
theorem setSched (h : s.MemOk) {q : Sched} (hm : Memory.wf q.mem = true) : ({ s with sched := q } : State).MemOk :=
  ⟨h.mem, h.scratch, h.acc, hm⟩

theorem ite {c : Prop} [Decidable c] (hs : s.MemOk) (ht : t.MemOk) : (if c then s else t).MemOk := by
  split
  · exact hs
  · exact ht

theorem foldl {α : Type} {f : State → α → State} (h : s.MemOk) (hf : ∀ t a, t.MemOk → (f t a).MemOk) {l : List α} : (l.foldl f s).MemOk :=
  List.foldlRecOn l f h (fun t ht a _ => hf t a ht)

theorem iteFst {β : Type} {c : Prop} [Decidable c] {x y : State × β} (hx : x.1.MemOk) (hy : y.1.MemOk) : (if c then x else y).1.MemOk := by
  split
  · exact hx
  · exact hy

theorem foldlFst {α β : Type} {f : State × β → α → State × β} {x : State × β} (h : x.1.MemOk) (hf : ∀ y a, y.1.MemOk → (f y a).1.MemOk)
    {l : List α} : (l.foldl f x).1.MemOk :=
  List.foldlRecOn (motive := fun y => y.1.MemOk) l f h (fun y hy a _ => hf y a hy)

theorem pair {β : Type} {b : β} (h : s.MemOk) : ((s, b) : State × β).1.MemOk := h

/-- The state of a pair that a match has taken apart. -/
theorem of_eq {β : Type} {x : State × β} {b : β} (h : x.1.MemOk) (hx : x = (t, b)) : t.MemOk := by
  rw [hx] at h
  exact h

end State.MemOk

theorem someMemOk_none : SomeMemOk none := fun _ h => nomatch h
theorem someMemOk_some {s : State} (h : s.MemOk) : SomeMemOk (some s) := fun _ hs => Option.some.inj hs ▸ h

theorem SomeMemOk.map {o : Option State} {f : State → State} (h : SomeMemOk o) (hf : ∀ t, t.MemOk → (f t).MemOk) : SomeMemOk (o.map f) := by
  intro t ht
  obtain ⟨u, hu, rfl⟩ := Option.map_eq_some_iff.mp ht
  exact hf u (h u hu)

theorem someMemOk_map {α : Type} {o : Option α} {f : α → State} (hf : ∀ a, (f a).MemOk) : SomeMemOk (o.map f) := by
  intro t ht
  obtain ⟨a, -, rfl⟩ := Option.map_eq_some_iff.mp ht
  exact hf a

theorem someMemOk_bind {α : Type} {o : Option α} {f : α → Option State} (hf : ∀ a, SomeMemOk (f a)) : SomeMemOk (o.bind f) := by
  intro t ht
  obtain ⟨a, -, ha⟩ := Option.bind_eq_some_iff.mp ht
  exact hf a t ha

theorem someMemOk_findSome {α : Type} {l : List α} {f : α → Option State} (hf : ∀ a, SomeMemOk (f a)) : SomeMemOk (l.findSome? f) := by
  intro t ht
  obtain ⟨a, -, ha⟩ := List.exists_of_findSome?_eq_some ht
  exact hf a t ha

theorem SomeMemOk.getD {o : Option State} {t : State} (ho : SomeMemOk o) (h : t.MemOk) : (o.getD t).MemOk := by
  cases o with
  | none => exact h
  | some u => exact ho u rfl

theorem endsMemOk_next {s : State} (h : s.MemOk) : EndsMemOk (.next s) := fun _ hs => Host.Outcome.next.inj hs ▸ h
theorem endsMemOk_fault (r : Fault) : EndsMemOk (.fault r) := fun _ h => nomatch h

end Sys2Proof.Machine
end

section
/-! SUPPORT. What keeps the canonical form of the memories: the accessors of the state, the traps and the address translation. -/

open Sys2Proof

namespace Sys2Proof.Machine

variable {s : State}

/-! ### `State` -/

theorem State.MemOk.reset : State.reset.MemOk := ⟨rfl, rfl, rfl, rfl⟩

/-! ### `Ops` -/

theorem State.MemOk.setCore {c : Nat} {v : Core} (h : s.MemOk) : (s.setCore c v).MemOk := h

theorem State.MemOk.updCore {c : Nat} {f : Core → Core} (h : s.MemOk) : (s.updCore c f).MemOk := h.setCore

theorem State.MemOk.updCluster {c : Nat} {f : Cluster → Cluster} (h : s.MemOk) : (s.updCluster c f).MemOk := h

theorem State.MemOk.updDie {d : Nat} {f : Die → Die} (h : s.MemOk) : (s.updDie d f).MemOk := h

theorem State.MemOk.updQueue {q : Nat} {f : Queue → Queue} (h : s.MemOk) : (s.updQueue q f).MemOk := h

theorem State.MemOk.updTenant {t : Nat} {f : Tenant → Tenant} (h : s.MemOk) : (s.updTenant t f).MemOk := h

theorem State.MemOk.putWave {k : Nat} {w : Wave} (h : s.MemOk) : (s.putWave k w).MemOk := h

theorem State.MemOk.updWave {k : Nat} {f : Wave → Wave} (h : s.MemOk) : (s.updWave k f).MemOk := by
  unfold State.updWave
  split
  · exact h.putWave
  · exact h

theorem State.MemOk.updGroup {g : Nat} {f : Group → Group} (h : s.MemOk) : (s.updGroup g f).MemOk := by
  unfold State.updGroup
  split <;> exact h

theorem State.MemOk.updLaunch {l : Nat} {f : Launch → Launch} (h : s.MemOk) : (s.updLaunch l f).MemOk := by
  unfold State.updLaunch
  split <;> exact h

theorem State.MemOk.updOp {id : Nat} {f : MemOp → MemOp} (h : s.MemOk) : (s.updOp id f).MemOk := h

theorem State.MemOk.dropOp {id : Nat} (h : s.MemOk) : (s.dropOp id).MemOk := h

theorem State.MemOk.updPkg {f : Package → Package} (h : s.MemOk) : (s.updPkg f).MemOk := h

theorem State.MemOk.sendMsix {fn vec : Nat} (h : s.MemOk) : (s.sendMsix fn vec).MemOk := h.updPkg

theorem State.MemOk.updPart {r : PartRef} {f : Part → Part} (h : s.MemOk) : (s.updPart r f).MemOk := h.updWave

theorem State.MemOk.putV {c : Ctx} {ws : List (Nat × Nat × W32)} (h : s.MemOk) : (s.putV c ws).MemOk := h.updWave

theorem State.MemOk.finish {r : PartRef} {next : W64} {d : Nat} (h : s.MemOk) : (s.finish r next d).MemOk := h.updPart

theorem State.MemOk.parkPart {r : PartRef} {w : Park} (h : s.MemOk) : (s.parkPart r w).MemOk := h.updPart

theorem State.MemOk.recordRays {r : PartRef} (h : s.MemOk) : (s.recordRays r).MemOk := h.updWave

theorem State.MemOk.beginRegion {r : PartRef} {a : W64} {counted : Bool} (h : s.MemOk) : (s.beginRegion r a counted).MemOk := h.updPart.recordRays

theorem State.MemOk.creditWave {old new : Wave} (h : s.MemOk) : (s.creditWave old new).MemOk := h.updCore

theorem State.MemOk.freeWaveRegs {w : Wave} (h : s.MemOk) : (s.freeWaveRegs w).MemOk := h.creditWave

theorem State.MemOk.retireFrags {w : Wave} {lanes : Lanes} {killed : Bool} (h : s.MemOk) : (s.retireFrags w lanes killed).MemOk := by
  unfold State.retireFrags
  dsimp only
  split <;> exact h

theorem State.MemOk.endGroup {g : Nat} {v : Group} (h : s.MemOk) : (s.endGroup g v).MemOk := by
  unfold State.endGroup
  extract_lets s1 done s2 last
  have h0 : ({ s with groups := delT s.groups g } : State).MemOk := h
  have h1 : s1.MemOk := h0.updCore
  clear_value s1
  have h2 : s2.MemOk := by
    unfold s2
    cases v.kind with
    | task j =>
      dsimp only
      split
      · split <;> exact h1
      · exact h1
    | _ => exact h1
  exact h2.updLaunch

theorem State.MemOk.returnLate (h : s.MemOk) : s.returnLate.MemOk := h.foldl (fun _ _ ht => ht.updLaunch)

theorem State.MemOk.countPixelWave {w : Wave} (h : s.MemOk) : (s.countPixelWave w).MemOk := by
  unfold State.countPixelWave
  dsimp only
  split
  · split
    · exact h
    · exact h.updDie
  · exact h

theorem State.MemOk.endWave {key : Nat} (h : s.MemOk) : (s.endWave key).MemOk := by
  unfold State.endWave
  split
  · exact h
  · extract_lets u1 u2 u3 u4
    have h1 : u1.MemOk := h.retireFrags.countPixelWave
    have h2 : u2.MemOk := h1.freeWaveRegs
    have h3 : u3.MemOk := h2
    have h4 : u4.MemOk := h3.updGroup
    split
    · exact h4.endGroup.ite h4
    · exact h4

theorem State.MemOk.postDebug {die kind index src unit info : Nat} {addr : W64} (h : s.MemOk) :
    (s.postDebug die kind index src unit info addr).MemOk :=
  h.ite ((h.setMem (wf_writeBytes _ _ _ h.mem)).updDie.ite h.updDie)

theorem State.MemOk.dropCallee {r : PartRef} {p : Part} {f : GateFrame} (h : s.MemOk) : (s.dropCallee r p f).MemOk := h.updWave

theorem State.MemOk.creditPopped {r : PartRef} {old : Wave} (h : s.MemOk) : (s.creditPopped r old).MemOk := by
  unfold State.creditPopped
  split
  · exact h
  · exact h.creditWave

theorem State.MemOk.dropScratch {core : Nat} {f : GateFrame} (h : s.MemOk) : (s.dropScratch core f).MemOk :=
  h.ite (h.setScratch (wf_clearRange _ _ _ h.scratch))

theorem State.MemOk.discardResult {r : PartRef} {p : Part} {id : Nat} (h : s.MemOk) : (s.discardResult r p id).MemOk := by
  unfold State.discardResult
  dsimp only
  split
  · split
    · split
      · exact h
      · split <;> exact h.updOp.ite h.dropOp
    · split
      · exact h
      · split <;> exact h.updOp.ite h.dropOp
    · split
      · exact h
      · split <;> exact h.updOp.ite h.dropOp
  · exact h

theorem State.MemOk.discardCopies {r : PartRef} {p : Part} (h : s.MemOk) : (s.discardCopies r p).MemOk := h.updCore

theorem State.MemOk.unwind {r : PartRef} {p : Part} {f : GateFrame} {fcode : Nat} (h : s.MemOk) : (s.unwind r p f fcode).MemOk := by
  unfold State.unwind
  dsimp only
  split
  · exact (h.foldl (fun _ _ ht => ht.discardResult)).discardCopies.dropCallee.updWave.updPart.creditPopped.beginRegion.dropScratch
  · exact (h.foldl (fun _ _ ht => ht.discardResult)).discardCopies.dropCallee.updWave.updPart.beginRegion.dropScratch

theorem State.MemOk.takeTrap {r : PartRef} {t : Trap} (h : s.MemOk) : (s.takeTrap r t).MemOk := by
  unfold State.takeTrap
  dsimp only
  split
  · exact h
  · split
    · split
      · exact h.updPart.unwind.ite h.updPart.endWave.postDebug
      · exact h.updPart.endWave.postDebug
    · split
      · exact (h.updPart.unwind.ite h.updPart.endWave.postDebug).ite h.updPart
      · exact h.updPart

theorem State.MemOk.precise {c : Ctx} {code detail : Nat} {taddr : W64} (h : s.MemOk) : (s.precise c code detail taddr).MemOk := h.takeTrap

theorem State.MemOk.deliver {c : Ctx} {d : Delivery} (h : s.MemOk) : (s.deliver c d).MemOk := h.takeTrap

/-! ### `Trans` -/

theorem State.MemOk.touchBank {pa : Nat} (h : s.MemOk) : (s.touchBank pa).MemOk := h

theorem State.MemOk.swatch {src unit pa n : Nat} (h : s.MemOk) : (s.swatch src unit pa n).MemOk :=
  h.foldl (fun _ _ ht => (ht.postDebug.updDie.ite ht.postDebug).ite ht)

theorem State.MemOk.slicePut {src unit pa : Nat} {bytes : List Byte} (h : s.MemOk) : (s.slicePut src unit pa bytes).MemOk :=
  (h.setMem (wf_writeBytes _ _ _ h.mem)).touchBank.swatch

theorem State.MemOk.slicePutAll {src unit fuel pa : Nat} {bytes : List Byte} (h : s.MemOk) : (s.slicePutAll src unit fuel pa bytes).MemOk := by
  induction fuel generalizing s pa bytes with
  | zero => exact h
  | succ fuel ih =>
    unfold State.slicePutAll
    split
    · exact h
    · exact ih h.slicePut

theorem State.MemOk.putLong {src unit pa : Nat} {bytes : List Byte} (h : s.MemOk) : (s.putLong src unit pa bytes).MemOk := h.slicePutAll

theorem State.MemOk.fillTlbs {core : Nat} {copy : Bool} {e : TlbEntry} (h : s.MemOk) : (s.fillTlbs core copy e).MemOk :=
  h.updDie.updCore.ite h.updDie.updCore

theorem State.MemOk.tlbLook {core : Nat} {copy : Bool} {asid : BitVec 16} {va : Nat} (h : s.MemOk) : (s.tlbLook core copy asid va).1.MemOk := by
  unfold State.tlbLook
  dsimp only
  split
  · split
    · exact h.updCore.pair
    · exact h.pair
  · split
    · exact h.updCore.pair
    · split
      · exact h.updCore.pair
      · split
        · exact h.updDie.updCore.pair
        · exact h.pair

theorem State.MemOk.tlbDiscard {level unit : Nat} {asid : BitVec 16} {page : Nat} (h : s.MemOk) : (s.tlbDiscard level unit asid page).MemOk := by
  unfold State.tlbDiscard
  dsimp only
  split
  · exact h.updCore
  · exact h.updCore
  · exact h.updCore
  · exact h.updDie

theorem State.MemOk.tlbInvalidate {kind : Nat} {asid : BitVec 16} {va : Nat} (h : s.MemOk) : (s.tlbInvalidate kind asid va).MemOk := h

end Sys2Proof.Machine
end

section
/-! SUPPORT. What keeps the canonical form of the memories: the caches and the slices. -/

open Sys2Proof

namespace Sys2Proof.Machine

variable {s : State}

/-! ### `Cache` -/

theorem State.MemOk.l2Use {pa cp ready : Nat} (h : s.MemOk) : (s.l2Use pa cp ready).MemOk := by
  unfold State.l2Use
  dsimp only
  split
  · exact h
  · split
    · exact .ite h (.ite h h)
    · exact h

theorem State.MemOk.useLine {pa cp : Nat} (h : s.MemOk) : (s.useLine pa cp).MemOk := h.touchBank.l2Use

theorem State.MemOk.useRefs {die : Nat} {asid : BitVec 16} {va : Nat} (h : s.MemOk) : (s.useRefs die asid va).MemOk :=
  h.foldl (fun _ _ ht => ht.useLine)

theorem State.MemOk.translate {core : Nat} {copy : Bool} {asid : BitVec 16} {va : Nat} (h : s.MemOk) : (s.translate core copy asid va).1.MemOk := by
  unfold State.translate
  dsimp only
  split
  · rename_i hx
    exact (h.tlbLook.of_eq hx).pair
  · split
    · rename_i hx _ _ _ _
      exact (h.tlbLook.of_eq hx).useRefs.fillTlbs.pair
    · rename_i hx _ _
      exact (h.tlbLook.of_eq hx).useRefs.pair

theorem State.MemOk.setL1 {core : Nat} {f : List L1Line → List L1Line} (h : s.MemOk) : (s.setL1 core f).MemOk := h.updCore

theorem State.MemOk.refuse {pa : Nat} (h : s.MemOk) : (s.refuse pa).MemOk := h

theorem State.MemOk.refuseAll {pas : List Nat} (h : s.MemOk) : (s.refuseAll pas).MemOk := h.foldl (fun _ _ ht => ht.refuse)

theorem State.MemOk.enqueueFault {die v : Nat} (h : s.MemOk) : (s.enqueueFault die v).MemOk := by
  unfold State.enqueueFault
  dsimp only
  split
  · exact h
  · exact h.slicePut.slicePut.sendMsix.ite h.slicePut.slicePut

theorem State.MemOk.postFault {core : Nat} {asid : BitVec 16} {va logExt kind slot : Nat} (h : s.MemOk) :
    (s.postFault core asid va logExt kind slot).1.MemOk := by
  unfold State.postFault
  dsimp only
  split
  · exact h.pair
  · split
    · exact h.pair
    · split
      · exact h.refuseAll.pair
      · exact h.slicePut.enqueueFault.updDie.pair

theorem State.MemOk.sendSectors {src core line : Nat} {mask : BitVec 4} (h : s.MemOk) : (s.sendSectors src core line mask).MemOk := by
  unfold State.sendSectors
  dsimp only
  split
  · exact h
  · exact .ite h (.setL1 h)

theorem State.MemOk.sendBackAs {src core line : Nat} (h : s.MemOk) : (s.sendBackAs src core line).MemOk := h.sendSectors

theorem State.MemOk.sendBack {core line : Nat} (h : s.MemOk) : (s.sendBack core line).MemOk := h.sendBackAs

theorem State.MemOk.unpin {core line : Nat} {whole : Bool} (h : s.MemOk) : (s.unpin core line whole).MemOk := by
  unfold State.unpin
  dsimp only
  split
  · exact .ite (.ite h h) (.ite h h)
  · exact .ite h h

theorem State.MemOk.fatal {cause pa : Nat} (h : s.MemOk) : (s.fatal cause pa).MemOk := h.updPkg.ite (h.foldl (fun _ _ ht => ht.updDie)).updPkg

theorem State.MemOk.landBack {b : Back} (h : s.MemOk) : (s.landBack b).MemOk := by
  unfold State.landBack
  extract_lets u u2
  have hu : u.MemOk := h
  have h2 : u2.MemOk := hu.useLine.foldl fun _ _ ht => ht.slicePut.ite ht
  split
  · exact hu.fatal.unpin
  · exact h2.unpin

theorem State.MemOk.backArrives {b : Back} (h : s.MemOk) : (s.backArrives b).MemOk := by
  unfold State.backArrives
  extract_lets d
  split
  · exact h.landBack
  · exact h.touchBank (pa := b.line * 128)

theorem State.MemOk.landBacks (h : s.MemOk) : s.landBacks.MemOk := h.foldl (fun _ _ ht => ht.backArrives)

theorem State.MemOk.dropClean {core line : Nat} {mask : BitVec 4} (h : s.MemOk) : (s.dropClean core line mask).MemOk := by
  unfold State.dropClean
  split
  · exact h
  · exact h.setL1

theorem State.MemOk.patchL1 {core pa : Nat} {bytes : List Byte} (h : s.MemOk) : (s.patchL1 core pa bytes).MemOk := by
  unfold State.patchL1
  dsimp only
  split
  · exact h
  · exact .setL1 h

theorem State.MemOk.l1Install {core line kind : Nat} {asid : BitVec 16} {stream : Bool} (h : s.MemOk) :
    (s.l1Install core line kind asid stream).MemOk := by
  unfold State.l1Install
  dsimp only
  split
  · exact h.setL1
  · split
    · exact (h.sendBack.setL1.ite h).setL1
    · exact h.setL1

theorem State.MemOk.fillSectors {core line : Nat} {sectors : BitVec 4} {ready : Nat} (h : s.MemOk) :
    (s.fillSectors core line sectors ready).MemOk := by
  unfold State.fillSectors
  dsimp only
  split
  · exact h
  · exact h.setL1

theorem State.MemOk.l1Fill {core pa n kind : Nat} {asid : BitVec 16} {stream : Bool} {ready : Nat} (h : s.MemOk) :
    (s.l1Fill core pa n kind asid stream ready).MemOk :=
  h.l1Install.fillSectors

theorem State.MemOk.askFill {core line : Nat} {sectors : BitVec 4} {cp : Nat} (h : s.MemOk) : (s.askFill core line sectors cp).MemOk := h.ite h

theorem State.MemOk.landFill {f : Fill} (h : s.MemOk) : (s.landFill f).MemOk := h.touchBank.l2Use.fillSectors

theorem State.MemOk.landFills (h : s.MemOk) : s.landFills.MemOk := by
  unfold State.landFills
  refine .foldl ?_ fun _ _ ht => ht.landFill
  exact h

theorem State.MemOk.l1Store {core slot admission pa : Nat} {bytes : List Byte} {kind : Nat} {asid : BitVec 16} {cp : Nat} (h : s.MemOk) :
    (s.l1Store core slot admission pa bytes kind asid cp).MemOk := by
  unfold State.l1Store
  dsimp only
  split
  · exact .l1Install h
  · exact .setL1 (.askFill (.ite (.l1Install h) (.l1Install h)))

theorem State.MemOk.acquireL1 {core scope : Nat} (h : s.MemOk) : (s.acquireL1 core scope).MemOk := h.ite h.setL1

theorem State.MemOk.invalidateClean {core : Nat} (h : s.MemOk) : (s.invalidateClean core).MemOk := h.setL1

theorem State.MemOk.releaseL1 {core scope : Nat} (h : s.MemOk) : (s.releaseL1 core scope).MemOk := h.ite (h.foldl (fun _ _ ht => ht.sendBack))

theorem State.MemOk.releaseAt {c : Ctx} {scope : Nat} {barrier : Bool} (h : s.MemOk) : SomeMemOk (s.releaseAt c scope barrier) := by
  unfold State.releaseAt
  dsimp only
  split
  · split
    · exact someMemOk_none
    · exact someMemOk_some h.parkPart
  · split
    · exact someMemOk_none
    · exact someMemOk_some h.releaseL1.updPart.parkPart

theorem State.MemOk.landPrefetch {f : Prefetch} (h : s.MemOk) : (s.landPrefetch f).MemOk := by
  unfold State.landPrefetch
  dsimp only
  split
  · rename_i hx
    exact (h.translate.of_eq hx).ite ((h.translate.of_eq hx).touchBank.l2Use.ite (h.translate.of_eq hx).touchBank.l2Use.l1Fill)
  · rename_i hx
    exact h.translate.of_eq hx

theorem State.MemOk.landPrefetches (h : s.MemOk) : s.landPrefetches.MemOk := by
  unfold State.landPrefetches
  refine .foldl ?_ fun _ _ ht => ht.landPrefetch
  exact h

theorem State.MemOk.post {p : Posted} (h : s.MemOk) : (s.post p).MemOk := h

theorem State.MemOk.unitPost {core launch : Nat} {op : Option Nat} {src pa : Nat} {what : PostedKind} (h : s.MemOk) :
    (s.unitPost core launch op src pa what).MemOk :=
  h.post

theorem State.MemOk.postedPut {p : Posted} {pa : Nat} {b : List Byte} (h : s.MemOk) : (s.postedPut p pa b).MemOk := h.dropClean.slicePut.useLine

theorem State.MemOk.enterMissing {p : Posted} {v : W64} {logPage : Nat} {drops : Option Nat} (h : s.MemOk) :
    (s.enterMissing p v logPage drops).MemOk := by
  unfold State.enterMissing
  split
  · exact h
  · split
    · exact h
    · split
      · split
        · exact h.unitPost
        · exact h
      · exact h.postedPut.postedPut.updDie

theorem State.MemOk.endSignal {p : Posted} {next : W64} (h : s.MemOk) : (s.endSignal p next).MemOk := by
  unfold State.endSignal
  dsimp only
  split
  · exact h
  · split
    · exact h
    · exact h.ite h.beginRegion.updPart

theorem State.MemOk.performPosted {p : Posted} (h : s.MemOk) : (s.performPosted p).MemOk := by
  unfold State.performPosted
  dsimp only
  split
  · exact .postedPut h
  · exact .postedPut h
  · exact .postedPut h
  · exact .enterMissing h
  · exact .endSignal (.sendMsix (.postedPut h))

theorem State.MemOk.landPosted {p : Posted} (h : s.MemOk) : (s.landPosted p).MemOk :=
  .ite (.refuseAll h) (.ite (.foldl h (fun _ _ ht => .sendBack ht)) (.ite (.foldl h (fun _ _ ht => .touchBank ht)) (.performPosted h)))

theorem State.MemOk.landPosts (h : s.MemOk) : s.landPosts.MemOk := h.foldl (fun _ _ ht => ht.landPosted)

end Sys2Proof.Machine
end

section
/-! SUPPORT. What keeps the canonical form of the memories: the parts and the issue of an instruction. -/

open Sys2Proof

namespace Sys2Proof.Machine

variable {s : State}

/-! ### `Parts` -/

theorem State.MemOk.diverge {c : Ctx} {taken : Lanes} {target fall : W64} (h : s.MemOk) : (s.diverge c taken target fall).MemOk :=
  h.updPart.ite h.updWave

theorem State.MemOk.settlePaths (h : s.MemOk) : s.settlePaths.MemOk := h

theorem State.MemOk.arriveConf {c : Ctx} {id t : Nat} (h : s.MemOk) : (s.arriveConf c id t).MemOk := by
  unfold State.arriveConf
  dsimp only
  split
  · exact h.updPart
  · split
    · exact h.updPart.putWave.updPart.creditPopped.recordRays
    · split
      · exact h.updPart
      · exact h.updPart.updPart.ite h.updPart

theorem State.MemOk.arriveForced {c : Ctx} {eff : Nat} (h : s.MemOk) : (s.arriveForced c eff).MemOk := by
  unfold State.arriveForced
  dsimp only
  split
  · exact h.parkPart
  · split
    · exact h.parkPart.putWave.updPart.creditPopped.recordRays
    · exact h.parkPart

theorem State.MemOk.divideOnMiss {r : PartRef} {w : Wave} {p : Part} (h : s.MemOk) : (s.divideOnMiss r w p).MemOk := by
  unfold State.divideOnMiss
  dsimp only
  split
  · exact h.updPart
  · exact h.updWave

/-! ### `Issue` -/

theorem State.MemOk.deliverHeld {c : Ctx} {d : Delivery} (h : s.MemOk) : (s.deliverHeld c d).MemOk := h.updPart.deliver

theorem State.MemOk.parkOn {c : Ctx} {w : Wait} (h : s.MemOk) : (s.parkOn c w).MemOk := h.parkPart

theorem State.MemOk.forcedFuse {c : Ctx} {eff : Nat} (h : s.MemOk) : SomeMemOk (s.forcedFuse c eff) := by
  unfold State.forcedFuse
  split
  · split
    · exact someMemOk_some h.parkPart
    · exact someMemOk_some h.updPart
  · split
    · exact someMemOk_some h.arriveForced
    · exact someMemOk_none

theorem State.MemOk.issueIn {hd : Hdr} {eff : Ctx → State → State} {c : Ctx} (h : s.MemOk) (heff : ∀ c t, t.MemOk → (eff c t).MemOk) :
    (issueIn hd eff c s).MemOk := by
  unfold Machine.issueIn
  split
  · exact h.precise
  · split
    · exact h.precise
    · split
      · exact h.precise
      · split
        · exact h.parkOn
        · split
          · exact h.deliverHeld
          · split
            next s' hs => exact someMemOk_bind (fun _ => h.forcedFuse) s' hs
            next =>
              split
              · exact h.parkOn
              · split
                · exact h.parkOn.ite (heff c s h)
                · exact heff c s h

theorem endsMemOk_issue {hd : Hdr} {eff : Ctx → State → State} (h : s.MemOk) (heff : ∀ c t, t.MemOk → (eff c t).MemOk) : EndsMemOk (issue hd eff s)
    := by
  unfold issue
  split
  · exact endsMemOk_fault _
  · exact endsMemOk_next (h.issueIn heff)

theorem State.MemOk.done {c : Ctx} {len : Nat} (h : s.MemOk) : (s.done c len).MemOk := h.finish

theorem endsMemOk_vectorOp {b : Bool} {len : Nat} {o : XaForm} {srcs : Ctx → List Src} {f : Ctx → Nat → Nat → Nat → FRes} (h : s.MemOk) :
    EndsMemOk (vectorOp b len o srcs f s) :=
  endsMemOk_issue h (fun _ _ ht => ht.putV.updPart.done)

theorem endsMemOk_predicateOp {b : Bool} {len : Nat} {o : XaForm} {srcs : Ctx → List Src} {f : Ctx → Nat → Bool × Flags} (h : s.MemOk) :
    EndsMemOk (predicateOp b len o srcs f s) :=
  endsMemOk_issue h (fun _ _ ht => ht.updWave.updPart.done)

theorem endsMemOk_uniformOp {b : Bool} {len d : Nat} {f : Ctx → W64} (h : s.MemOk) : EndsMemOk (uniformOp b len d f s) :=
  endsMemOk_issue h (fun _ _ ht => ht.updPart.done)

/-! ### `Control` -/

theorem endsMemOk_partOp {sBit : Bool} {len : Nat} {f : Ctx → Part → Part} (h : s.MemOk) : EndsMemOk (partOp sBit len f s) :=
  endsMemOk_issue h (fun _ _ ht => ht.updPart.done)

theorem State.MemOk.branchTo {c : Ctx} {target : W64} (h : s.MemOk) : (s.branchTo c target).MemOk := h.updPart

theorem State.MemOk.fallThrough {c : Ctx} (h : s.MemOk) : (s.fallThrough c).MemOk := h.finish

theorem endsMemOk_execBra {j : JWord} (h : s.MemOk) : EndsMemOk (execBra j s) := endsMemOk_issue h (fun _ _ ht => ht.branchTo)

theorem endsMemOk_execCall {j : JWord} (h : s.MemOk) : EndsMemOk (execCall j s) := endsMemOk_issue h (fun _ _ ht => ht.updPart.branchTo)

theorem endsMemOk_execBru {w : PWord} (h : s.MemOk) : EndsMemOk (execBru w s) := endsMemOk_issue h (fun _ _ ht => ht.branchTo.ite ht.fallThrough)

theorem endsMemOk_execBrp {w : PWord} (h : s.MemOk) : EndsMemOk (execBrp w s) :=
  endsMemOk_issue h (fun _ _ ht => ht.fallThrough.ite (ht.branchTo.ite ht.diverge))

theorem endsMemOk_registerJump {u : UWord} (h : s.MemOk) : EndsMemOk (registerJump u s) :=
  endsMemOk_issue h (fun _ _ ht => ht.precise.ite (ht.precise.ite ht.branchTo))

theorem endsMemOk_execConf {r : RWord} (h : s.MemOk) : EndsMemOk (execConf r s) :=
  endsMemOk_issue h (fun _ _ ht => (ht.updPart.ite ht.updPart).ite (ht.updPart.ite ht.arriveConf))

theorem endsMemOk_execFuse {r : RWord} (h : s.MemOk) : EndsMemOk (execFuse r s) := endsMemOk_issue h (fun _ _ ht => ht.done)

theorem State.MemOk.deliverAny {c : Ctx} {d : Delivery} (h : s.MemOk) : (s.deliverAny c d).MemOk := h.updPart.deliver

theorem State.MemOk.exitLanes {c : Ctx} (h : s.MemOk) : (s.exitLanes c).MemOk := by
  unfold State.exitLanes
  dsimp only
  split
  · exact h.retireFrags.updWave.updPart
  · split
    · exact h.retireFrags.updWave.updWave
    · exact h.retireFrags.updWave.updWave.endWave.ite h.retireFrags.updWave.updWave

theorem endsMemOk_execExit {r : RWord} (h : s.MemOk) : EndsMemOk (execExit r s) := by
  unfold execExit
  refine endsMemOk_issue h (fun c t ht => ?_)
  dsimp only
  split
  · exact ht.parkOn
  · split
    · exact ht.deliverAny
    · exact ht.updPart.exitLanes

theorem endsMemOk_execEntry {r : RWord} (h : s.MemOk) : EndsMemOk (execEntry r s) := endsMemOk_issue h (fun _ _ ht => ht.acquireL1.finish)

theorem State.MemOk.afterTrap {c : Ctx} {code detail : Nat} {taddr : W64} {len : Nat} (h : s.MemOk) : (s.afterTrap c code detail taddr len).MemOk :=
  h.takeTrap

theorem endsMemOk_execTrap {r : RWord} (h : s.MemOk) : EndsMemOk (execTrap r s) := endsMemOk_issue h (fun _ _ ht => ht.afterTrap)

theorem State.MemOk.requestHalt {d : Nat} (h : s.MemOk) : (s.requestHalt d).MemOk := h.updDie

theorem endsMemOk_execBrk {r : RWord} (h : s.MemOk) : EndsMemOk (execBrk r s) :=
  endsMemOk_issue h (fun _ _ ht => ht.postDebug.requestHalt.finish.ite ht.afterTrap)

theorem State.MemOk.sleepUntil {t : Nat} {c : Ctx} (h : s.MemOk) : (sleepUntil t c s).MemOk := h.updPart.done.ite h.updPart.parkPart

theorem endsMemOk_execSleep {u : UWord} (h : s.MemOk) : EndsMemOk (execSleep u s) := endsMemOk_issue h (fun _ _ ht => ht.sleepUntil)

theorem endsMemOk_execSleepat {u : UWord} (h : s.MemOk) : EndsMemOk (execSleepat u s) := endsMemOk_issue h (fun _ _ ht => ht.sleepUntil)

theorem State.MemOk.endPwait {c : Ctx} {ticket : Nat} {value : W64} (h : s.MemOk) : (s.endPwait c ticket value).MemOk := h.afterTrap.ite h.done

theorem endsMemOk_execPwait {u : UWord} (h : s.MemOk) : EndsMemOk (execPwait u s) := by
  unfold execPwait
  refine endsMemOk_issue h (fun c t ht => ?_)
  dsimp only
  split
  · exact ht.deliverAny
  · exact ht.endPwait.ite ht.parkPart

theorem endsMemOk_execRegion {r : RWord} (h : s.MemOk) : EndsMemOk (execRegion r s) := by
  unfold execRegion
  refine endsMemOk_issue h (fun c t ht => ?_)
  split
  · exact ht.parkOn
  · split
    · exact ht.deliverHeld
    · exact ht.beginRegion.done

theorem endsMemOk_execTret {r : RWord} (h : s.MemOk) : EndsMemOk (execTret r s) := by
  unfold execTret
  refine endsMemOk_issue h (fun c t ht => ?_)
  split
  · exact ht.precise
  · exact ht.updPart.ite (ht.precise.ite ht.updPart)

end Sys2Proof.Machine
end

section
/-! SUPPORT. What keeps the canonical form of the memories: the gate calls and the register claims. -/

open Sys2Proof

namespace Sys2Proof.Machine

variable {s : State}

/-! ### `Gate` -/

theorem State.MemOk.readGate {c : Ctx} {dom : Bool} {asid : BitVec 16} {addr n pa first : Nat} (h : s.MemOk) :
    (s.readGate c dom asid addr n pa first).MemOk := by
  unfold State.readGate
  dsimp only
  split
  · exact h.updCore.parkOn
  · exact h.parkOn.ite (h.refuse.parkOn.ite h.useLine.updCore.parkOn)

theorem State.MemOk.readGateVa {c : Ctx} {asid : BitVec 16} {need : Need} {va n : Nat} (h : s.MemOk) : SomeMemOk (s.readGateVa c asid need va n) := by
  unfold State.readGateVa
  split
  · exact someMemOk_none
  · split
    · exact someMemOk_some h.refuseAll.parkOn
    · split
      · rename_i hx
        exact someMemOk_some (h.translate.of_eq hx).readGate
      · exact someMemOk_none

theorem State.MemOk.gateRead {c : Ctx} {g : Nat} (h : s.MemOk) : SomeMemOk (s.gateRead c g) := by
  unfold State.gateRead
  dsimp only
  split
  · exact someMemOk_none
  · split
    · exact h.readGateVa
    · split
      · exact someMemOk_none
      · split
        · exact someMemOk_some h.readGate
        · split
          · exact someMemOk_none
          · exact h.readGateVa

theorem endsMemOk_execGcall {r : RWord} {x : W32} (h : s.MemOk) : EndsMemOk (execGcall r x s) := by
  unfold execGcall
  dsimp only
  split
  · rename_i hx
    exact endsMemOk_next (someMemOk_bind (fun _ => h.gateRead) _ hx)
  · exact endsMemOk_issue h (fun _ _ ht => ht.parkOn.ite ht.parkPart)

theorem State.MemOk.enterCallee {r : PartRef} {g : GateCall} {scr : Nat} (h : s.MemOk) : (s.enterCallee r g scr).MemOk := by
  unfold State.enterCallee
  split
  · exact h
  · split
    · exact h
    · extract_lets f u1 u2 depth lanes args m u3 u4 u5
      have h1 : u1.MemOk := h
      have h3 : u3.MemOk := h1.updCore.updWave
      have h4 : u4.MemOk := h3.setScratch (wf_clearRange _ _ _ h3.scratch)
      exact h4.updPart.beginRegion

theorem State.MemOk.calleeFault {c : Ctx} {f : GateFrame} (h : s.MemOk) : (s.calleeFault c f).MemOk := h.unwind.ite h.endWave.postDebug

theorem State.MemOk.leaveCallee {c : Ctx} {f : GateFrame} {a : BitVec 7} (h : s.MemOk) : (s.leaveCallee c f a).MemOk :=
  h.dropCallee.updWave.updPart.creditPopped.dropScratch.beginRegion

theorem endsMemOk_execGret {r : RWord} (h : s.MemOk) : EndsMemOk (execGret r s) := by
  unfold execGret
  refine endsMemOk_issue h (fun c t ht => ?_)
  split
  · exact ht.precise
  · split
    · exact ht.calleeFault
    · split
      · exact ht.parkOn
      · split
        · exact ht.deliverAny
        · exact ht.leaveCallee

theorem endsMemOk_execGentry {r : RWord} (h : s.MemOk) : EndsMemOk (execGentry r s) := endsMemOk_issue h (fun _ _ ht => ht.done)

/-! ### `Claims` -/

theorem endsMemOk_execRegrel {r : RWord} {x : W32} (h : s.MemOk) : EndsMemOk (execRegrel r x s) :=
  endsMemOk_issue h (fun _ _ ht => ht.beginRegion.done.ite ht.updWave.updCore.beginRegion.done)

theorem endsMemOk_execRegclm {r : RWord} {x : W32} (h : s.MemOk) : EndsMemOk (execRegclm r x s) := endsMemOk_issue h (fun _ _ ht => ht.parkPart)

theorem State.MemOk.enterClaim {q : Claim} (h : s.MemOk) : (s.enterClaim q).MemOk := by
  unfold State.enterClaim
  dsimp only
  split
  · exact h.updCore.updWave
  · exact h.updCore.updWave.beginRegion.finish

theorem State.MemOk.grantClaim {q : Claim} (h : s.MemOk) : (s.grantClaim q).MemOk := by
  unfold State.grantClaim
  split
  · exact h
  · split
    · split
      · exact h.enterCallee
      · exact h
    · exact h.enterClaim

theorem State.MemOk.grantClaims {core : Nat} {l : List Claim} {blocked : List Nat} (h : s.MemOk) : (s.grantClaims core l blocked).MemOk := by
  induction l generalizing s blocked with
  | nil => exact h
  | cons q rest ih =>
    unfold State.grantClaims
    exact (ih h.grantClaim).ite (ih h)

theorem endsMemOk_execClaimGrant {core : Nat} (h : s.MemOk) : EndsMemOk (execClaimGrant core s) := endsMemOk_next h.grantClaims

theorem endsMemOk_execClaimAging {core : Nat} (h : s.MemOk) : EndsMemOk (execClaimAging core s) := endsMemOk_next h

theorem State.MemOk.regdead {q : Claim} (h : s.MemOk) : (s.regdead q).MemOk := by
  unfold State.regdead
  split
  · exact h
  · exact h.takeTrap

theorem endsMemOk_execClaimDeadlock {g : Nat} (h : s.MemOk) : EndsMemOk (execClaimDeadlock g s) := by
  unfold execClaimDeadlock
  split
  · exact endsMemOk_next (h.foldl (fun _ _ ht => ht.regdead))
  · exact endsMemOk_next h

end Sys2Proof.Machine
end

section
/-! SUPPORT. What keeps the canonical form of the memories: the memory unit and its instructions. -/

open Sys2Proof

namespace Sys2Proof.Machine

variable {s : State}

/-! ### `MemUnit` -/

theorem State.MemOk.startRelease {id : Nat} (h : s.MemOk) : (s.startRelease id).MemOk := by
  unfold State.startRelease
  dsimp only
  split
  · exact h
  · exact h.releaseL1.updOp.ite h

theorem State.MemOk.holdFailure {o : MemOp} {detail va logPage : Nat} (h : s.MemOk) : (s.holdFailure o detail va logPage).MemOk := by
  unfold State.holdFailure
  dsimp only
  split
  · exact h
  · split
    · exact h
    · exact h.ite h.updPart

theorem State.MemOk.holdFailures {o : MemOp} {accs : List Access} (h : s.MemOk) : (s.holdFailures o accs).MemOk := by
  unfold State.holdFailures
  refine h.foldl (fun t a ht => ?_)
  split
  · exact ht.holdFailure
  · exact ht

theorem State.MemOk.freeLog {id : Nat} (h : s.MemOk) : (s.freeLog id).MemOk := by
  unfold State.freeLog
  split
  · exact h
  · exact h.updCore

theorem State.MemOk.failAccesses {id detail logPage : Nat} {pick : Access → Bool} (h : s.MemOk) : (s.failAccesses id detail logPage pick).MemOk := by
  unfold State.failAccesses
  dsimp only
  split
  · exact h
  · exact h.updOp.holdFailures.freeLog

theorem State.MemOk.takeWalk {die : Nat} (h : s.MemOk) : (s.takeWalk die).MemOk := by
  unfold State.takeWalk
  split
  · exact h
  · exact .ite h h

theorem State.MemOk.startWalk {core : Nat} {asid : BitVec 16} {va : Nat} (h : s.MemOk) : (s.startWalk core asid va).MemOk := .ite h (.takeWalk h)

theorem State.MemOk.sendAhead {o : MemOp} {a : Access} (h : s.MemOk) : (s.sendAhead o a).MemOk := h.sendSectors.ite h

theorem State.MemOk.lookAccess {o : MemOp} {a : Access} (h : s.MemOk) : (s.lookAccess o a).1.MemOk := by
  unfold State.lookAccess
  dsimp only
  split
  · rename_i hx
    exact (h.tlbLook.of_eq hx).sendAhead.pair
  · rename_i hx
    exact (h.tlbLook.of_eq hx).startWalk.pair

theorem State.MemOk.lookAll {o : MemOp} {l : List Access} (h : s.MemOk) : (s.lookAll o l).1.MemOk := by
  induction l generalizing s with
  | nil => exact h
  | cons a r ih =>
    unfold State.lookAll
    split
    · exact ih h.lookAccess
    · exact ih h

theorem State.MemOk.takeLog {core id : Nat} {asid : BitVec 16} {pages : List (Nat × Nat)} (h : s.MemOk) : (s.takeLog core id asid pages).MemOk :=
  h.updCore

theorem State.MemOk.loadL1 {o : MemOp} {a : Access} (h : s.MemOk) : (s.loadL1 o a).1.MemOk := by
  unfold State.loadL1
  dsimp only
  split
  · exact h.l1Install.pair
  · exact h.pair

theorem State.MemOk.loadSlice {o : MemOp} {a : Access} {path : Nat} (h : s.MemOk) : (s.loadSlice o a path).1.MemOk := by
  unfold State.loadSlice
  dsimp only
  split
  · exact h.touchBank.l2Use.dropClean.pair
  · exact h.touchBank.l2Use.l1Fill.pair

theorem State.MemOk.performLoad {o : MemOp} {a : Access} (h : s.MemOk) : (s.performLoad o a).1.MemOk := by
  unfold State.performLoad
  split
  · exact h.loadL1
  · split
    · exact h.refuse.pair
    · exact h.loadSlice

theorem State.MemOk.performStore {o : MemOp} {a : Access} (h : s.MemOk) : (s.performStore o a).1.MemOk := by
  unfold State.performStore
  dsimp only
  split
  · exact h.l1Store.pair
  · split
    · exact h.refuse.pair
    · exact (h.dropClean.ite h.patchL1).slicePut.l2Use.pair

theorem State.MemOk.performAtom {o : MemOp} {op : Nat} {a : Access} (h : s.MemOk) : (s.performAtom o op a).1.MemOk := by
  unfold State.performAtom
  dsimp only
  split
  · exact h.refuse.pair
  · exact h.dropClean.slicePut.l2Use.pair

theorem State.MemOk.performAccess {o : MemOp} {a : Access} (h : s.MemOk) : (s.performAccess o a).1.MemOk := by
  unfold State.performAccess
  split
  · exact h.sendSectors.pair
  · split
    · exact h.performLoad
    · exact h.performLoad
    · exact h.performStore
    · exact h.performAtom
    · exact h.pair

theorem State.MemOk.performLanes {id : Nat} {l : List Nat} (h : s.MemOk) : (s.performLanes id l).MemOk := by
  induction l generalizing s with
  | nil => exact h
  | cons l r ih =>
    unfold State.performLanes
    split
    · exact h
    · split
      · exact ih h
      · exact (ih h.performAccess.updOp).ite (ih h)

theorem State.MemOk.regionBehind {o : MemOp} (h : s.MemOk) : (s.regionBehind o).MemOk := by
  unfold State.regionBehind
  dsimp only
  split
  · exact h
  · exact h.foldl (fun _ _ ht => ht.beginRegion.updPart)

theorem State.MemOk.afterPerform {id : Nat} (h : s.MemOk) : (s.afterPerform id).MemOk := by
  unfold State.afterPerform
  dsimp only
  split
  · exact h
  · split
    · exact h
    · split
      · exact (h.updOp.acquireL1.ite h.updOp).regionBehind
      · exact h.updOp.acquireL1.ite h.updOp

theorem State.MemOk.performOp {id : Nat} (h : s.MemOk) : (s.performOp id).MemOk := by
  unfold State.performOp
  split
  · exact h
  · exact h.startRelease.performLanes.freeLog.afterPerform.ite h

theorem State.MemOk.writeBack {id : Nat} (h : s.MemOk) : (s.writeBack id).MemOk := by
  unfold State.writeBack
  dsimp only
  split
  · exact h
  · split
    · exact h.updOp
    · exact h.updOp.updWave

theorem State.MemOk.retire {o : MemOp} (h : s.MemOk) : (s.retire o).MemOk := by
  unfold State.retire
  dsimp only
  split
  · exact h.dropOp
  · exact h.updWave.dropOp

theorem State.MemOk.advanceOp {id : Nat} (h : s.MemOk) : (s.advanceOp id).MemOk := by
  unfold State.advanceOp
  dsimp only
  split
  · exact h.performOp.writeBack
  · exact h.performOp.writeBack.retire.ite h.performOp.writeBack

theorem State.MemOk.newOp {c : Ctx} {cls : Cls} {kind : OpKind} {len ord scope sub : Nat} {accs : List Access} {due : Nat} (h : s.MemOk) :
    (s.newOp c cls kind len ord scope sub accs due).1.MemOk :=
  .pair (.updPart h)

theorem State.MemOk.holdPipe {c : Ctx} {lines : Nat} (h : s.MemOk) : (s.holdPipe c lines).MemOk := h.updCore

/-! ### `SysRegs` -/

theorem endsMemOk_execSrget {u : UWord} (h : s.MemOk) : EndsMemOk (execSrget u s) := endsMemOk_issue h (fun _ _ ht => ht.updPart.done)

theorem State.MemOk.srset {c : Ctx} {idx : Nat} {v : W64} (h : s.MemOk) : (s.srset c idx v).MemOk :=
  h.updWave.ite (h.updWave.ite (h.updCore.ite (h.updPart.ite (h.updPart.ite h.updPart))))

theorem endsMemOk_execSrset {u : UWord} (h : s.MemOk) : EndsMemOk (execSrset u s) := endsMemOk_issue h (fun _ _ ht => ht.precise.ite ht.srset.done)

theorem endsMemOk_execTlbi {u : UWord} (h : s.MemOk) : EndsMemOk (execTlbi u s) := by
  unfold execTlbi
  refine endsMemOk_issue h fun c t ht => ?_
  extract_lets a t1 t2
  have h1 : t1.MemOk := ht.tlbInvalidate
  have h2 : t2.MemOk := h1
  exact h2.done

/-! ### `MemOps` -/

theorem State.MemOk.releaseWait {c : Ctx} {ord : Nat} (h : s.MemOk) : SomeMemOk (s.releaseWait c ord) := by
  unfold State.releaseWait
  split
  · exact someMemOk_none
  · split
    · exact someMemOk_some h.parkOn
    · exact someMemOk_map (fun _ => h.deliverHeld)

theorem State.MemOk.drainFirst {c : Ctx} {ks : List Cls} (h : s.MemOk) : SomeMemOk (s.drainFirst c ks) := by
  unfold State.drainFirst
  split
  · exact someMemOk_some h.parkOn
  · exact someMemOk_map (fun _ => h.deliverHeld)

theorem State.MemOk.releaseFirst {c : Ctx} {scope : Nat} {ks : List Cls} (h : s.MemOk) : SomeMemOk (s.releaseFirst c scope ks) := by
  unfold State.releaseFirst
  split
  · rename_i hx
    exact someMemOk_some (h.drainFirst _ hx)
  · exact h.releaseAt

theorem State.MemOk.fullReleaseWait {c : Ctx} {ord scope : Nat} (h : s.MemOk) : SomeMemOk (s.fullReleaseWait c ord scope) := by
  unfold State.fullReleaseWait
  split
  · exact someMemOk_none
  · exact h.releaseFirst

theorem State.MemOk.startOp {c : Ctx} {cls : Cls} {kind : OpKind} {len ord scope sub : Nat} {accs : List Access} (h : s.MemOk) :
    (s.startOp c cls kind len ord scope sub accs).MemOk := by
  unfold State.startOp
  dsimp only
  exact h.parkOn.ite (h.acquireL1.ite h).newOp.takeLog.lookAll.updOp.holdFailures.startRelease.holdPipe.done

theorem endsMemOk_globalOp {m : MWord} {x : XmWord} {len : Nat} {cls : Cls} {data : Vop} {rd wr : Bool} {kind : Ctx → OpKind}
    {access : Ctx → Nat → Nat → Nat → Option Access} (h : s.MemOk) : EndsMemOk (globalOp m x len cls data rd wr kind access s) := by
  unfold globalOp
  refine endsMemOk_issue h (fun c t ht => ?_)
  dsimp only
  split
  · rename_i hx
    exact ht.releaseWait _ hx
  · split
    · exact ht.precise
    · split
      · exact ht.precise
      · exact ht.startOp

theorem endsMemOk_loadGlobal {m : MWord} {x : XmWord} {len : Nat} (h : s.MemOk) : EndsMemOk (loadGlobal m x len s) := by
  unfold loadGlobal
  exact endsMemOk_globalOp h

theorem endsMemOk_storeGlobal {m : MWord} {x : XmWord} {len : Nat} (h : s.MemOk) : EndsMemOk (storeGlobal m x len s) := by
  unfold storeGlobal
  exact endsMemOk_globalOp h

theorem endsMemOk_atomGlobal {m : MWord} {x : XmWord} {len : Nat} (h : s.MemOk) : EndsMemOk (atomGlobal m x len s) := by
  unfold atomGlobal
  exact endsMemOk_globalOp h

theorem endsMemOk_uniformAccess {u : UWord} {x : XmWord} {len : Nat} {load : Bool} (h : s.MemOk) : EndsMemOk (uniformAccess u x len load s) := by
  unfold uniformAccess
  refine endsMemOk_issue h (fun c t ht => ?_)
  dsimp only
  split
  · rename_i hx
    exact ht.releaseWait _ hx
  · split
    · exact ht.precise
    · split
      · exact ht.precise
      · exact ht.startOp

theorem endsMemOk_execSld {u : UWord} (h : s.MemOk) : EndsMemOk (execSld u s) := endsMemOk_uniformAccess h

theorem endsMemOk_execSst {u : UWord} (h : s.MemOk) : EndsMemOk (execSst u s) := endsMemOk_uniformAccess h

theorem State.MemOk.writeScratch {core g abs : Nat} {bytes : List Byte} (h : s.MemOk) : (s.writeScratch core g abs bytes).MemOk :=
  (h.setScratch (wf_writeBytes _ _ _ h.scratch)).updGroup

theorem State.MemOk.scratchWrite {c : Ctx} {off : Nat} {bytes : List Byte} (h : s.MemOk) : (s.scratchWrite c off bytes).MemOk := h.writeScratch

theorem endsMemOk_scratchOp {m : MWord} {x : XmWord} {len : Nat} {cls : Cls} {data : Vop} {kind : Ctx → OpKind}
    {lane : Ctx → Nat → Nat → State → State × Option Access} {after : Ctx → State → State} (h : s.MemOk)
    (hlane : ∀ c l a t, t.MemOk → (lane c l a t).1.MemOk) (hafter : ∀ c t, t.MemOk → (after c t).MemOk) :
    EndsMemOk (scratchOp m x len cls data kind lane after s) := by
  unfold scratchOp
  refine endsMemOk_issue h fun c t ht => ?_
  split
  next hx => exact ht.fullReleaseWait _ hx
  next =>
    extract_lets at_
    split
    · exact ht.precise
    · rename_i r due accs _ _
      have hr : r.1.MemOk := by
        refine ht.pair.foldlFst fun y e hy => ?_
        have hl := hlane c e.1 e.2 y.1 hy
        split
        next hx => exact (hl.of_eq hx).pair
        next hx => exact (hl.of_eq hx).pair
      exact (hafter c _ hr.newOp).done

theorem endsMemOk_loadScratch {m : MWord} {x : XmWord} {len : Nat} (h : s.MemOk) : EndsMemOk (loadScratch m x len s) := by
  unfold loadScratch
  exact endsMemOk_scratchOp h (fun _ _ _ _ ht => ht) (fun _ _ ht => ht)

theorem endsMemOk_storeScratch {m : MWord} {x : XmWord} {len : Nat} (h : s.MemOk) : EndsMemOk (storeScratch m x len s) := by
  unfold storeScratch
  exact endsMemOk_scratchOp h (fun _ _ _ _ ht => ht.pair.iteFst ht.scratchWrite.pair) (fun _ _ ht => ht)

theorem endsMemOk_atomScratch {m : MWord} {x : XmWord} {len : Nat} (h : s.MemOk) : EndsMemOk (atomScratch m x len s) := by
  unfold atomScratch
  exact endsMemOk_scratchOp h (fun _ _ _ _ ht => ht.pair.iteFst ht.scratchWrite.pair) (fun _ _ ht => ht.beginRegion)

theorem endsMemOk_execFence {m : MWord} {x : XmWord} (h : s.MemOk) : EndsMemOk (execFence m x s) := by
  unfold execFence
  refine endsMemOk_issue h fun c t ht => ?_
  split
  next u hx =>
    split at hx
    · exact ht.releaseFirst u hx
    · exact ht.drainFirst u hx
  next => exact (ht.acquireL1.ite ht).done

theorem State.MemOk.cctlLine {core sub pa : Nat} (h : s.MemOk) : (s.cctlLine core sub pa).MemOk := by
  unfold State.cctlLine
  split
  · exact h.sendBack
  · exact h.dropClean
  · exact h.sendBack.dropClean

theorem endsMemOk_cacheControl {m : MWord} {x : XmWord} {len : Nat} (h : s.MemOk) : EndsMemOk (cacheControl m x len s) := by
  unfold cacheControl
  refine endsMemOk_issue h fun c t ht => ?_
  dsimp only
  split
  · split
    · exact ht.parkOn
    · exact (ht.foldl fun _ _ hu => hu.cctlLine).done
  · split
    · exact ht.precise
    · split
      · exact ht.precise
      · split
        · exact ht.parkOn
        · refine (State.MemOk.holdPipe (ht.foldl fun u a hu => ?_)).done
          split
          · exact hu.ite hu.translate.cctlLine
          · exact hu

theorem State.MemOk.prefetchLine {core : Nat} {asid : BitVec 16} {cp va : Nat} (h : s.MemOk) : (s.prefetchLine core asid cp va).MemOk := by
  unfold State.prefetchLine
  dsimp only
  split
  · exact h
  · split
    · exact h.tlbLook
    · exact h

theorem endsMemOk_prefetch {m : MWord} {x : XmWord} {len : Nat} (h : s.MemOk) : EndsMemOk (prefetch m x len s) :=
  endsMemOk_issue h (fun _ _ ht => (ht.foldl (fun _ _ ht => ht.prefetchLine)).holdPipe.done)

/-! ### `Opm` -/

theorem State.MemOk.opmPut {a : Nat} {b : Byte} (h : s.MemOk) : (s.opmPut a b).MemOk := by
  unfold State.opmPut
  dsimp only
  split
  · split
    · exact h
    · exact h.updWave
  · split
    · exact h
    · exact h.writeScratch.ite h
  · exact (h.setAcc (wf_writeByte _ _ _ h.acc)).ite h
  · exact h

theorem State.MemOk.opmWrite {a : Nat} {l : List Byte} (h : s.MemOk) : (s.opmWrite a l).MemOk := by
  induction l generalizing s a with
  | nil => exact h
  | cons b bs ih => exact ih h.opmPut

/-! ### `Sync` -/

theorem State.MemOk.arrive {c : Ctx} {b : Nat} (h : s.MemOk) : (s.arrive c b).MemOk := h.updGroup.updPart

theorem endsMemOk_execBara {r : RWord} (h : s.MemOk) : EndsMemOk (execBara r s) := by
  unfold execBara
  refine endsMemOk_issue h (fun c t ht => ?_)
  split
  · exact ht.parkOn
  · exact ht.arrive.done.ite ht.parkOn

theorem endsMemOk_execBarw {r : RWord} (h : s.MemOk) : EndsMemOk (execBarw r s) := by
  unfold execBarw
  refine endsMemOk_issue h (fun c t ht => ?_)
  dsimp only
  split
  · exact ht.precise
  · exact ht.updPart.done.ite ht.parkPart

theorem endsMemOk_fullBarrier {r : RWord} {len mw : Nat} (h : s.MemOk) : EndsMemOk (fullBarrier r len mw s) := by
  unfold fullBarrier
  refine endsMemOk_issue h (fun c t ht => ?_)
  dsimp only
  split
  · exact ht.parkOn
  · exact ht.arrive.parkPart.ite ht.parkOn

theorem endsMemOk_execBarrierPhaseComplete {g b : Nat} (h : s.MemOk) : EndsMemOk (execBarrierPhaseComplete g b s) := by
  unfold execBarrierPhaseComplete
  dsimp only
  split
  · exact endsMemOk_next h
  · split
    · exact endsMemOk_next h
    · exact endsMemOk_next h.updGroup

theorem endsMemOk_rectBarrier {r : RWord} {len mw : Nat} (h : s.MemOk) : EndsMemOk (rectBarrier r len mw s) := by
  unfold rectBarrier
  refine endsMemOk_issue h (fun c t ht => ?_)
  dsimp only
  split
  · exact ht.precise
  · split
    · exact ht.parkOn
    · split
      · rename_i hx
        exact ht.releaseAt _ hx
      · exact ht.updLaunch.parkPart

theorem State.MemOk.passRbar {t d : Nat} {r : PartRef} (h : s.MemOk) : (s.passRbar t d r).MemOk := h.updPart

theorem endsMemOk_execRbarLocalCompletion {l core : Nat} (h : s.MemOk) : EndsMemOk (execRbarLocalCompletion l core s) := by
  unfold execRbarLocalCompletion
  dsimp only
  split
  · exact endsMemOk_next h
  · split
    · exact endsMemOk_next h
    · split
      · exact endsMemOk_next h
      · split
        · exact endsMemOk_next (h.updLaunch.acquireL1.foldl (fun _ _ ht => ht.passRbar))
        · exact endsMemOk_next h.updLaunch

theorem endsMemOk_execRbarReport {l core : Nat} (h : s.MemOk) : EndsMemOk (execRbarReport l core s) := by
  unfold execRbarReport
  dsimp only
  split
  · exact endsMemOk_next h
  · split
    · exact endsMemOk_next h
    · split
      · exact endsMemOk_next h
      · split
        · refine endsMemOk_next (h.updLaunch.foldl (fun t a ht => ?_))
          split
          · exact ht
          · exact ht.takeTrap
        · exact endsMemOk_next h.updLaunch

theorem endsMemOk_execRbarGlobalCompletion {l core : Nat} (h : s.MemOk) : EndsMemOk (execRbarGlobalCompletion l core s) := by
  unfold execRbarGlobalCompletion
  dsimp only
  split
  · exact endsMemOk_next (h.acquireL1.foldl (fun _ _ ht => ht.passRbar))
  · exact endsMemOk_next h

end Sys2Proof.Machine
end

section
/-! SUPPORT. What keeps the canonical form of the memories: the copy engine, the matrix engine and the power blocks. -/

open Sys2Proof

namespace Sys2Proof.Machine

variable {s : State}

/-! ### `Engine` -/

theorem State.MemOk.endEngine {core slot admission : Nat} {k : Cls} {id : Nat} {fail : Option Delivery} (h : s.MemOk) :
    (s.endEngine core slot admission k id fail).MemOk :=
  h.updWave

theorem endsMemOk_execTcopy {u : UWord} {x : XtWord} (h : s.MemOk) : EndsMemOk (execTcopy u x s) := by
  unfold execTcopy
  refine endsMemOk_issue h (fun c t ht => ?_)
  dsimp only
  split
  · exact .precise ht
  · exact .ite (.parkOn ht) (.done (.updPart (.updWave (.updCore ht))))

theorem State.MemOk.mapPages {core : Nat} {asid : BitVec 16} {need : Need} {l : List Nat} {m : List (Nat × Nat)} (h : s.MemOk) :
    (s.mapPages core asid need l m).1.MemOk := by
  induction l generalizing s m with
  | nil => exact h
  | cons va r ih =>
    unfold State.mapPages
    split
    · exact ih h
    · split
      · exact h.pair
      · split
        · exact h.refuseAll.pair
        · split
          next hs =>
            have ht := h.translate.of_eq hs
            exact ht.pair.iteFst (ih ht)
          next hs => exact (h.translate.of_eq hs).pair
          next hs => exact (h.translate.of_eq hs).pair

theorem State.MemOk.engineWrite {core pa : Nat} {bytes : List Byte} (h : s.MemOk) : (s.engineWrite core pa bytes).MemOk :=
  h.dropClean.slicePut.useLine

theorem State.MemOk.useLines {m : List (Nat × Nat)} {vas : List Nat} (h : s.MemOk) : (s.useLines m vas).MemOk := h.foldl (fun _ _ ht => ht.useLine)

theorem State.MemOk.recordBytes {core : Nat} {asid : BitVec 16} {va : Nat} (h : s.MemOk) : (s.recordBytes core asid va).1.MemOk := by
  unfold State.recordBytes
  dsimp only
  split
  · rename_i hx
    exact (h.mapPages.of_eq hx).pair
  · rename_i hx
    exact (h.mapPages.of_eq hx).refuseAll.pair.iteFst (h.mapPages.of_eq hx).useLines.pair

theorem State.MemOk.stepReady {core : Nat} {asid : BitVec 16} {write : Bool} {vas : List Nat} {m : List (Nat × Nat)} (h : s.MemOk) :
    (s.stepReady core asid write vas m).1.MemOk := by
  unfold State.stepReady
  dsimp only
  split
  · rename_i hx
    exact (h.mapPages.of_eq hx).pair
  · rename_i hx
    exact (h.mapPages.of_eq hx).refuseAll.pair.iteFst (((h.mapPages.of_eq hx).foldl (fun _ _ ht => ht.sendBack)).pair.iteFst (h.mapPages.of_eq hx).pair)

theorem State.MemOk.stepsReady {core n : Nat} {asid : BitVec 16} {write : Bool} {l : List (List Nat)} {m : List (Nat × Nat)} (h : s.MemOk) :
    (s.stepsReady core asid write l m n).1.MemOk := by
  induction l generalizing s m n with
  | nil => exact h
  | cons vas r ih =>
    unfold State.stepsReady
    split
    next hs => exact (h.stepReady.of_eq hs).pair
    next hs => exact ih (h.stepReady.of_eq hs)

theorem State.MemOk.markOver {core : Nat} {o : CopyOp} {space half n : Nat} (h : s.MemOk) : (s.markOver core o space half n).MemOk := h.updCore

theorem State.MemOk.engineWrites {core : Nat} {o : CopyOp} {m : List (Nat × Nat)} {ws : List (Nat × Option Nat × List Byte)} (h : s.MemOk) :
    (s.engineWrites core o m ws).MemOk := by
  unfold State.engineWrites
  refine h.foldl (fun t a ht => ?_)
  dsimp only
  split <;> exact ht.markOver.engineWrite

theorem State.MemOk.engineOpm {core : Nat} {o : CopyOp} {a : Nat} {bs : List Byte} (h : s.MemOk) : (s.engineOpm core o a bs).MemOk :=
  h.foldl (fun _ _ ht => ht.markOver.opmPut)

theorem State.MemOk.imageWrites {core : Nat} {o : CopyOp} {ws : List (Nat × List Byte)} (h : s.MemOk) : (s.imageWrites core o ws).MemOk :=
  h.foldl (fun _ _ ht => ht.markOver.writeScratch.ite ht.engineOpm)

theorem State.MemOk.updCopy {core id : Nat} {f : CopyOp → CopyOp} (h : s.MemOk) : (s.updCopy core id f).MemOk := h.updCore

theorem State.MemOk.dropCopy {core id : Nat} (h : s.MemOk) : (s.dropCopy core id).MemOk := h.updCore

theorem State.MemOk.copyBox {core : Nat} {o : CopyOp} {t : Tensor} (h : s.MemOk) : (s.copyBox core o t).1.MemOk := by
  unfold State.copyBox
  extract_lets todo x m now rd scr whole used u
  have hx : x.1.MemOk := h.stepsReady
  have hused : (used ()).MemOk := hx.useLines
  have hu : u.MemOk := hx.engineWrites.ite (hused.imageWrites.ite hused.imageWrites)
  split
  · exact hu.updCopy.pair
  · exact (hu.ite hu.imageWrites).pair

theorem State.MemOk.runRecord {core : Nat} {o : CopyOp} (h : s.MemOk) : (s.runRecord core o).1.MemOk := by
  unfold State.runRecord
  dsimp only
  split
  · exact h.pair
  · split
    · exact h.pair
    · split
      · exact h.pair
      · split
        · exact h.imageWrites.pair
        · exact h.copyBox

theorem State.MemOk.runCopy {core : Nat} {o : CopyOp} (h : s.MemOk) : (s.runCopy core o).1.MemOk := by
  unfold State.runCopy
  split
  · exact h.runRecord
  · split
    · rename_i hx
      exact (h.recordBytes.of_eq hx).pair
    · rename_i hx
      exact (h.recordBytes.of_eq hx).updCopy.runRecord

theorem endsMemOk_execTcopyComplete {op : Nat} (h : s.MemOk) : EndsMemOk (execTcopyComplete op s) := by
  unfold execTcopyComplete
  dsimp only
  split
  · exact endsMemOk_next h
  · split
    · exact endsMemOk_next h
    · split
      · rename_i hx
        exact endsMemOk_next (h.runCopy.of_eq hx).updCore.dropCopy.endEngine
      · rename_i hx
        exact endsMemOk_next (h.runCopy.of_eq hx).dropCopy.endEngine
      · split
        · rename_i hx _ _ _ _ hy
          exact endsMemOk_next ((h.runCopy.of_eq hx).postFault.of_eq hy).updCopy
        · rename_i hx _ _ hy
          exact endsMemOk_next ((h.runCopy.of_eq hx).postFault.of_eq hy).updCopy
      · rename_i hx
        exact endsMemOk_next (h.runCopy.of_eq hx).updCopy

theorem State.MemOk.queueMatrix {c : Ctx} {o : MmaOp} {tiles : List Nat} {idle : Nat} (h : s.MemOk) : (s.queueMatrix c o tiles idle).MemOk :=
  .updPart (.updGroup (.updCore h))

theorem State.MemOk.updMma {core id : Nat} {f : MmaOp → MmaOp} (h : s.MemOk) : (s.updMma core id f).MemOk := h.updCore

theorem endsMemOk_execMma {u : UWord} {x : XtWord} (h : s.MemOk) : EndsMemOk (execMma u x s) := by
  unfold execMma
  refine endsMemOk_issue h (fun c t ht => ?_)
  dsimp only
  split
  · exact ht.precise
  · exact ht.parkOn.ite (ht.queueMatrix.updGroup.ite ht.queueMatrix).beginRegion.done

theorem endsMemOk_execMmz {u : UWord} {x : XtWord} (h : s.MemOk) : EndsMemOk (execMmz u x s) :=
  endsMemOk_issue h (fun _ _ ht => ht.parkOn.ite ht.queueMatrix.beginRegion.done)

theorem endsMemOk_execTkacq {u : UWord} {x : XtWord} (h : s.MemOk) : EndsMemOk (execTkacq u x s) := by
  unfold execTkacq
  refine endsMemOk_issue h (fun c t ht => ?_)
  dsimp only
  split
  · exact ht.parkOn
  · split
    · exact ht.deliverAny
    · exact ht.updGroup.done

theorem endsMemOk_execTkrel {u : UWord} {x : XtWord} (h : s.MemOk) : EndsMemOk (execTkrel u x s) := endsMemOk_issue h (fun _ _ ht => ht.updGroup.done)

theorem endsMemOk_execAccrd {r : RWord} {x : XtWord} (h : s.MemOk) : EndsMemOk (execAccrd r x s) :=
  endsMemOk_issue h (fun _ _ ht => ht.precise.ite ht.putV.done)

theorem endsMemOk_execAccwr {r : RWord} {x : XtWord} (h : s.MemOk) : EndsMemOk (execAccwr r x s) :=
  endsMemOk_issue h (fun _ _ ht => ht.precise.ite (ht.setAcc (wf_foldl ht.acc (fun _ _ hm => wf_foldl hm (fun _ _ hm => wf_writeBytes _ _ _ hm)))).done)

theorem endsMemOk_execWaitc {r : RWord} (h : s.MemOk) : EndsMemOk (execWaitc r s) := by
  unfold execWaitc
  refine endsMemOk_issue h (fun c t ht => ?_)
  dsimp only
  split
  · exact ht.parkOn
  · split
    · exact ht.parkOn
    · split
      · exact ht.deliverAny
      · exact ht.done

/-! ### `Matrix` -/

theorem State.MemOk.putAcc {core : Nat} {o : MmaOp} {m n v : Nat} (h : s.MemOk) : (s.putAcc core o m n v).MemOk :=
  h.setAcc (wf_writeBytes _ _ _ h.acc)

theorem State.MemOk.outputStep {core : Nat} {o : MmaOp} {j : Nat} {q : MmaOp} {m n : Nat} (h : s.MemOk) : (s.outputStep core o j q m n).1.MemOk := by
  unfold State.outputStep
  dsimp only
  split
  · exact h.putAcc.pair
  · split
    · exact h.putAcc.pair
    · exact h.pair

theorem State.MemOk.showProgress {core : Nat} {o : MmaOp} {active : Bool} (h : s.MemOk) : (s.showProgress core o active).MemOk := h.updWave

theorem State.MemOk.kstep {core : Nat} {o : MmaOp} {j : Nat} (h : s.MemOk) : (s.kstep core o j).MemOk :=
  (h.pair.foldlFst (fun _ _ ht => ht.outputStep)).updMma.showProgress.ite (h.pair.foldlFst (fun _ _ ht => ht.outputStep)).updMma

theorem State.MemOk.startNext {core : Nat} (h : s.MemOk) : (s.startNext core).MemOk := by
  unfold State.startNext
  split
  · exact h.updMma
  · exact h

theorem State.MemOk.dropEngines {gone : Nat → Bool} (h : s.MemOk) : (s.dropEngines gone).MemOk := by
  unfold State.dropEngines
  refine .foldl ?_ fun _ _ ht => ht.startNext
  exact h

theorem State.MemOk.arrayDone {core : Nat} {o : MmaOp} {d : Nat} (h : s.MemOk) : (s.arrayDone core o d).MemOk := h.updMma.startNext

theorem State.MemOk.failMma {core : Nat} {o : MmaOp} {code detail : Nat} (h : s.MemOk) : (s.failMma core o code detail).MemOk :=
  h.updMma.ite (h.updMma.foldl (fun _ _ ht => ht.updLaunch))

theorem State.MemOk.landFailure {lid core inst detail : Nat} (h : s.MemOk) : (s.landFailure lid core inst detail).MemOk := h.updCore

theorem State.MemOk.landFailures (h : s.MemOk) : s.landFailures.MemOk := h.foldl (fun _ _ ht => ht.foldl (fun _ _ ht => ht.landFailure))

theorem State.MemOk.reach {core : Nat} (h : s.MemOk) : (s.reach core).MemOk := by
  unfold State.reach
  split
  · exact h
  · next o _ =>
    have hzero : ∀ lo hi, ({ s with acc := clearRange s.acc lo hi } : State).MemOk := fun _ _ => h.setAcc (wf_clearRange _ _ _ h.acc)
    have hput : (o.outputs.foldl (fun t e => t.putAcc core o e.1 e.2 0) s).MemOk := h.foldl fun _ _ ht => ht.putAcc
    refine h.ite (.ite (hzero _ _).arrayDone (h.arrayDone.ite (h.arrayDone.ite (.ite (hput.ite h).arrayDone ?_))))
    exact h.failMma.arrayDone.ite (h.failMma.arrayDone.ite (h.updMma.showProgress.ite h))

theorem State.MemOk.passCycle {core : Nat} {o : MmaOp} (h : s.MemOk) : (s.passCycle core o).MemOk :=
  (h.updMma.kstep.ite h.updMma).arrayDone.ite (h.updMma.kstep.ite h.updMma)

theorem State.MemOk.grant {c core : Nat} (h : s.MemOk) : (s.grant c core).MemOk := by
  unfold State.grant
  dsimp only
  split
  · exact h.reach
  · exact h.reach.ite h.reach.updCluster.passCycle

theorem endsMemOk_execSlewStep {c : Nat} (h : s.MemOk) : EndsMemOk (execSlewStep c s) := by
  unfold execSlewStep
  dsimp only
  split
  · exact endsMemOk_next h
  · exact endsMemOk_next (h.updCluster.foldl (fun _ _ ht => ht.grant)).updCluster

theorem State.MemOk.showEnd {core : Nat} {o : MmaOp} (h : s.MemOk) : (s.showEnd core o).MemOk := h.updWave

theorem State.MemOk.completeMatrix {core : Nat} {o : MmaOp} (h : s.MemOk) : (s.completeMatrix core o).MemOk := (h.ite h.showEnd).updCore.endEngine

theorem endsMemOk_execMmaComplete {op : Nat} (h : s.MemOk) : EndsMemOk (execMmaComplete op s) := by
  unfold execMmaComplete
  split
  · exact endsMemOk_next h
  · exact endsMemOk_next (h.completeMatrix.ite h)

theorem endsMemOk_execMmzComplete {op : Nat} (h : s.MemOk) : EndsMemOk (execMmzComplete op s) := by
  unfold execMmzComplete
  split
  · exact endsMemOk_next h
  · exact endsMemOk_next (h.completeMatrix.ite h)

theorem endsMemOk_execCoopMmaRelease {op : Nat} (h : s.MemOk) : EndsMemOk (execCoopMmaRelease op s) := by
  unfold execCoopMmaRelease
  split
  · exact endsMemOk_next h
  · split
    · exact endsMemOk_next h
    · refine endsMemOk_next (h.foldl (fun t a ht => ?_))
      split
      · exact ht.updMma
      · exact ht

theorem State.MemOk.streamStep {core : Nat} {o : MmaOp} {isA : Bool} {j : Nat} (h : s.MemOk) : (s.streamStep core o isA j).1.MemOk := by
  unfold State.streamStep
  dsimp only
  split
  · rename_i hx
    exact (h.mapPages.of_eq hx).pair
  · rename_i hx
    exact (h.mapPages.of_eq hx).refuseAll.pair.iteFst (h.mapPages.of_eq hx).useLines.pair

theorem State.MemOk.updStream {core id : Nat} {isA : Bool} {f : Stream → Stream} (h : s.MemOk) : (s.updStream core id isA f).MemOk := h.updMma

theorem State.MemOk.streamStop {core : Nat} {o : MmaOp} {isA : Bool} {a : CopyEnd} (h : s.MemOk) : (s.streamStop core o isA a).MemOk := by
  unfold State.streamStop
  split
  · split
    · rename_i hx
      exact (h.postFault.of_eq hx).updStream
    · rename_i hx
      exact (h.postFault.of_eq hx).updStream
  · exact h.updStream
  · exact h.failMma

theorem State.MemOk.pushStream {core : Nat} {o : MmaOp} {isA : Bool} {x : Stream} (h : s.MemOk) : (s.pushStream core o isA x).MemOk :=
  h.updMma.foldl (fun _ _ ht => ht.updMma)

theorem State.MemOk.deliverStream {core : Nat} {o : MmaOp} {isA : Bool} (h : s.MemOk) : (s.deliverStream core o isA).MemOk := by
  unfold State.deliverStream
  dsimp only
  split
  · exact h
  · split
    · exact h.updStream
    · split
      · split
        · rename_i hx
          exact (h.recordBytes.of_eq hx).streamStop
        · split
          · rename_i hx _ _
            exact (h.recordBytes.of_eq hx).pushStream
          · split
            · rename_i hx _ _ _ _ _ _
              exact (h.recordBytes.of_eq hx).pushStream.failMma
            · rename_i hx _ _ _ _ _
              exact (h.recordBytes.of_eq hx).pushStream.updStream
      · split
        · rename_i hx
          exact (h.streamStep.of_eq hx).streamStop
        · rename_i hx
          exact (h.streamStep.of_eq hx).pushStream.updStream

theorem endsMemOk_execMmaKstepDelivery {op : Nat} (h : s.MemOk) : EndsMemOk (execMmaKstepDelivery op s) := by
  unfold execMmaKstepDelivery
  dsimp only
  split
  · exact endsMemOk_next h
  · split
    · exact endsMemOk_next h.deliverStream
    · exact endsMemOk_next h.deliverStream.deliverStream

/-! ### `Power` -/

theorem endsMemOk_execAllowanceUpdate {c : Nat} (h : s.MemOk) : EndsMemOk (execAllowanceUpdate c s) := endsMemOk_next h.updCluster

theorem endsMemOk_execPacSustainedStrike {c : Nat} (h : s.MemOk) : EndsMemOk (execPacSustainedStrike c s) := endsMemOk_next h.updCluster

theorem endsMemOk_execPwrcfgWrite {c : Nat} {v : W64} {src : Source} (h : s.MemOk) : EndsMemOk (execPwrcfgWrite c v src s) := by
  unfold execPwrcfgWrite
  dsimp only
  split
  · exact endsMemOk_next h
  · exact endsMemOk_next h.updCluster

theorem endsMemOk_execRampWrite {c : Nat} {upper : Bool} {v : W64} {src : Source} (h : s.MemOk) : EndsMemOk (execRampWrite c upper v src s) := by
  unfold execRampWrite
  dsimp only
  split
  · exact endsMemOk_next h
  · exact endsMemOk_next (h.updCluster.ite h)

theorem endsMemOk_execRailselWrite {c : Nat} {v : W64} {src : Source} (h : s.MemOk) : EndsMemOk (execRailselWrite c v src s) := by
  unfold execRailselWrite
  dsimp only
  split
  · exact endsMemOk_next h
  · exact endsMemOk_next h.updCluster

theorem endsMemOk_execVoltageInterval {c : Nat} (h : s.MemOk) : EndsMemOk (execVoltageInterval c s) := by
  unfold execVoltageInterval
  dsimp only
  split
  · exact endsMemOk_next h
  · exact endsMemOk_next (.updCluster h)

theorem State.MemOk.gatingTick {c : Nat} (h : s.MemOk) : (s.gatingTick c).MemOk := h.ite (h.foldl (fun _ _ ht => ht.sendBack)).updCluster

theorem endsMemOk_execGatingStart {c : Nat} (h : s.MemOk) : EndsMemOk (execGatingStart c s) := by
  unfold execGatingStart
  dsimp only
  split
  · exact endsMemOk_next h
  · exact endsMemOk_next h.updCluster.gatingTick

theorem State.MemOk.noteGating (h : s.MemOk) : s.noteGating.MemOk := h

theorem endsMemOk_execGatingCommit {c : Nat} (h : s.MemOk) : EndsMemOk (execGatingCommit c s) := by
  unfold execGatingCommit
  dsimp only
  split
  · exact endsMemOk_next h
  · exact endsMemOk_next (h.updCluster.foldl (fun _ _ ht => ht.updCore))

theorem endsMemOk_execClusterAwake {c : Nat} (h : s.MemOk) : EndsMemOk (execClusterAwake c s) := endsMemOk_next (h.updCluster.ite h)

theorem State.MemOk.reserveCore {core : Nat} (h : s.MemOk) : (s.reserveCore core).MemOk := h.updCluster

end Sys2Proof.Machine
end

section
/-! SUPPORT. What keeps the canonical form of the memories: the scheduler. -/

open Sys2Proof

namespace Sys2Proof.Machine

variable {s : State}

/-! ### `Queues` -/

theorem endsMemOk_queueOp {u : UWord} {cls : Cls} {kind : Ctx → OpKind} {ord : Nat} (h : s.MemOk) : EndsMemOk (queueOp u cls kind ord s) := by
  unfold queueOp
  refine endsMemOk_issue h (fun c t ht => ?_)
  dsimp only
  split
  · rename_i hx
    exact ht.releaseWait _ hx
  · exact ht.precise.ite ht.startOp

theorem endsMemOk_execQdeq {u : UWord} (h : s.MemOk) : EndsMemOk (execQdeq u s) := endsMemOk_queueOp h

theorem State.MemOk.queueMove {o : MemOp} {a : Access} {head tail cap : Nat} (h : s.MemOk) : (s.queueMove o a head tail cap).1.MemOk := by
  unfold State.queueMove
  dsimp only
  split
  · exact h.slicePut.slicePut.pair
  · exact h.slicePut.acquireL1.pair

theorem State.MemOk.queueRequest {id : Nat} (h : s.MemOk) : (s.queueRequest id).MemOk := by
  unfold State.queueRequest
  dsimp only
  split
  · exact h.startRelease
  · split
    · exact h.startRelease
    · split
      · exact h.startRelease
      · split
        · exact h.startRelease.failAccesses
        · split
          · exact h.startRelease.refuseAll.updOp
          · split
            · exact h.startRelease.foldl (fun _ _ ht => ht.sendBack)
            · split
              · exact h.startRelease.failAccesses
              · exact h.startRelease.queueMove.useLine.updOp.freeLog.regionBehind.ite (h.startRelease.ite h.startRelease.updOp)

theorem endsMemOk_execQueueEnqueueRequest {op : Nat} (h : s.MemOk) : EndsMemOk (execQueueEnqueueRequest op s) := by
  unfold execQueueEnqueueRequest
  split
  · split
    · exact endsMemOk_next h.queueRequest
    · exact endsMemOk_next h
  · exact endsMemOk_next h

theorem endsMemOk_execQueueDequeueRequest {op : Nat} (h : s.MemOk) : EndsMemOk (execQueueDequeueRequest op s) := by
  unfold execQueueDequeueRequest
  split
  · split
    · exact endsMemOk_next h
    · exact endsMemOk_next h.queueRequest
  · exact endsMemOk_next h

theorem State.MemOk.grantCredits {l key fuel : Nat} (h : s.MemOk) : (s.grantCredits l key fuel).MemOk := by
  induction fuel generalizing s with
  | zero => exact h
  | succ fuel ih =>
    unfold State.grantCredits
    split
    · exact h
    · dsimp only
      split
      · split
        · exact h
        · exact ih h.updOp.updLaunch
      · exact h

theorem endsMemOk_execChsend {r : RWord} (h : s.MemOk) : EndsMemOk (execChsend r s) := by
  unfold execChsend
  refine endsMemOk_issue h (fun c t ht => ?_)
  dsimp only
  split
  · rename_i hx
    exact ht.fullReleaseWait _ hx
  · exact ht.newOp.updOp.done.grantCredits.parkPart

theorem State.MemOk.receive {o : MemOp} {key w base : Nat} (h : s.MemOk) : (s.receive o key w base).MemOk := by
  unfold State.receive
  dsimp only
  split
  · exact h
  · split
    · exact h.ite h.updLaunch.updOp.acquireL1.regionBehind
    · exact h

theorem endsMemOk_execChrecv {r : RWord} (h : s.MemOk) : EndsMemOk (execChrecv r s) := by
  unfold execChrecv
  refine endsMemOk_issue h (fun c t ht => ?_)
  dsimp only
  split
  · exact ht.precise
  · exact ht.newOp.updOp.done.parkPart

theorem endsMemOk_execChannelMessageArrival {op : Nat} (h : s.MemOk) : EndsMemOk (execChannelMessageArrival op s) := by
  unfold execChannelMessageArrival
  dsimp only
  split
  · exact endsMemOk_next h
  · split
    · split
      · exact endsMemOk_next h
      · exact endsMemOk_next h.updLaunch.updOp.regionBehind
    · exact endsMemOk_next h

theorem endsMemOk_execChannelCreditReturn {l inst : Nat} (h : s.MemOk) : EndsMemOk (execChannelCreditReturn l inst s) := by
  unfold execChannelCreditReturn
  dsimp only
  split
  · exact endsMemOk_next h
  · split
    · split
      · exact endsMemOk_next h
      · exact endsMemOk_next h.updLaunch.grantCredits
    · exact endsMemOk_next h

theorem endsMemOk_execSliceRequest {op : Nat} (h : s.MemOk) : EndsMemOk (execSliceRequest op s) := by
  unfold execSliceRequest
  split
  · exact endsMemOk_next h
  · split
    · split
      · exact endsMemOk_next h.receive
      · exact endsMemOk_next h
    · exact endsMemOk_next h.performOp

/-! ### `Admit` -/

theorem State.MemOk.startGroup {lid core : Nat} {q : GroupReq} (h : s.MemOk) : SomeMemOk (s.startGroup lid core q) := by
  unfold State.startGroup
  split
  · exact someMemOk_none
  · split
    · split
      · exact someMemOk_none
      · refine someMemOk_some (.updLaunch ⟨?_, ?_, ?_, ?_⟩)
        · exact h.mem
        · exact wf_clearRange _ _ _ h.scratch
        · exact wf_clearRange _ _ _ h.acc
        · exact h.sched
    · exact someMemOk_none

theorem State.MemOk.admitNext {lid core : Nat} (h : s.MemOk) : SomeMemOk (s.admitNext lid core) := by
  unfold State.admitNext
  split
  · exact someMemOk_none
  · split
    · exact someMemOk_none
    · exact h.startGroup.map (fun _ ht => ht.updLaunch)

theorem State.MemOk.admitAll {lid fuel misses : Nat} {may : Nat → Bool} (h : s.MemOk) : SomeMemOk (s.admitAll lid may fuel misses) := by
  induction fuel generalizing s misses with
  | zero => exact someMemOk_none
  | succ fuel ih =>
    unfold State.admitAll
    split
    · exact someMemOk_none
    · split
      · exact someMemOk_some h
      · split
        · exact someMemOk_none
        · split
          next s' hs =>
            split at hs
            · exact ih (h.admitNext s' hs)
            · nomatch hs
          next => exact ih h.updLaunch

theorem State.MemOk.withOrigin {lid x0 y0 : Nat} (h : s.MemOk) : (s.withOrigin lid x0 y0).MemOk := h.updLaunch

theorem State.MemOk.admitMost {lid fuel misses : Nat} (h : s.MemOk) : (s.admitMost lid fuel misses).MemOk := by
  induction fuel generalizing s misses with
  | zero => exact h
  | succ fuel ih =>
    unfold State.admitMost
    split
    · exact h
    · split
      · exact h
      · split
        next s' hs => exact ih (h.admitNext s' hs)
        next => exact ih h.updLaunch

theorem State.MemOk.withOffers {lid : Nat} (h : s.MemOk) : (s.withOffers lid).MemOk := h.foldl (fun _ _ ht => ht.admitMost)

/-! ### `Tasks` -/

theorem State.MemOk.departed {lid core t : Nat} (h : s.MemOk) : (s.departed lid core t).MemOk := by
  unfold State.departed
  dsimp only
  split
  · exact h
  · exact h.updPart

theorem State.MemOk.pushTask {c : Ctx} {t : Task} (h : s.MemOk) : (s.pushTask c t).MemOk := h.updLaunch.beginRegion.done

theorem State.MemOk.heldOr {c : Ctx} {kind : Nat} {need : Need} {va : Nat} {ok : Nat → State → State} (h : s.MemOk)
    (hok : ∀ pa t, t.MemOk → (ok pa t).MemOk) : (s.heldOr c kind need va ok).MemOk := by
  unfold State.heldOr
  extract_lets pins
  split
  · exact h.refuseAll.parkOn
  · split
    next hx =>
      have ht := h.translate.of_eq hx
      extract_lets pa
      split
      · exact ht.precise
      · exact hok _ _ ht
    next hx =>
      have ht := h.translate.of_eq hx
      split
      next hy => exact (ht.postFault.of_eq hy).parkOn
      next hy => exact (ht.postFault.of_eq hy).parkOn
    next hx => exact (h.translate.of_eq hx).precise

theorem endsMemOk_execFork {u : UWord} (h : s.MemOk) : EndsMemOk (execFork u s) := by
  unfold execFork
  refine endsMemOk_issue h (fun c t ht => ?_)
  dsimp only
  split
  · exact ht.precise
  · refine ht.precise.ite (ht.heldOr (fun pa t ht => ?_))
    split
    · rename_i hx
      exact ht.fullReleaseWait _ hx
    · exact ht.pushTask.ite ht.parkPart

theorem endsMemOk_execForkPush {p : PartRef} (h : s.MemOk) : EndsMemOk (execForkPush p s) := by
  unfold execForkPush
  split
  · exact endsMemOk_next h
  · split
    · exact endsMemOk_next h.pushTask
    · exact endsMemOk_next h

theorem State.MemOk.ownTask {lid core : Nat} (h : s.MemOk) : SomeMemOk (s.ownTask lid core) := by
  unfold State.ownTask
  split
  · exact someMemOk_none
  · split
    · exact someMemOk_none
    · split
      · exact someMemOk_none
      · exact h.startGroup.map (fun _ ht => ht.updLaunch.departed)

theorem endsMemOk_execTaskStart {l core : Nat} (h : s.MemOk) : EndsMemOk (execTaskStart l core s) := endsMemOk_next (h.ownTask.getD h)

theorem State.MemOk.stealFrom {lid core since : Nat} (h : s.MemOk) : SomeMemOk (s.stealFrom lid core since) := by
  unfold State.stealFrom
  split
  · exact someMemOk_none
  · exact someMemOk_findSome (fun _ => someMemOk_bind (fun _ => h.startGroup.map (fun _ ht => ht.updLaunch.departed)))

theorem endsMemOk_execTaskSteal {lid core : Nat} (h : s.MemOk) : EndsMemOk (execTaskSteal lid core s) := by
  unfold execTaskSteal
  dsimp only
  split
  · exact endsMemOk_next (h.updLaunch.ite h)
  · split
    · exact endsMemOk_next h.updLaunch
    · split
      · rename_i hx
        exact endsMemOk_next (h.stealFrom _ hx).updLaunch
      · exact endsMemOk_next (h.updLaunch.updCore.ite h)

theorem State.MemOk.updDec {g : Nat} {f : JoinDec → JoinDec} (h : s.MemOk) : (s.updDec g f).MemOk := h

theorem endsMemOk_execTaskJoinDecrement {g : Nat} (h : s.MemOk) : EndsMemOk (execTaskJoinDecrement g s) := by
  unfold execTaskJoinDecrement
  dsimp only
  split
  · exact endsMemOk_next h
  · split
    · exact endsMemOk_next h
    · exact endsMemOk_next h.releaseL1.updDec
    · exact endsMemOk_next h.updDec
    · exact endsMemOk_next h.refuseAll
    · exact endsMemOk_next h.sendBack
    · exact endsMemOk_next h
    · exact endsMemOk_next h.postFault
    · exact endsMemOk_next h.dropClean.slicePut.useLine

theorem endsMemOk_execJoin {u : UWord} (h : s.MemOk) : EndsMemOk (execJoin u s) :=
  endsMemOk_issue h (fun _ _ ht => ht.precise.ite (ht.precise.ite (ht.heldOr (fun _ _ ht => ht.sendBack.parkPart))))

theorem State.MemOk.setJoin {c : Ctx} {addr pa : Nat} {j : JoinAt} (h : s.MemOk) : (s.setJoin c addr pa j).MemOk := h.updPart

theorem State.MemOk.joinRead {c : Ctx} {addr pa : Nat} (h : s.MemOk) : (s.joinRead c addr pa).MemOk :=
  h.refuse.setJoin.ite (h.sendBack.setJoin.ite (h.dropClean.acquireL1.done.ite (h.dropClean.setJoin.ite h.dropClean.setJoin)))

theorem State.MemOk.joinStep {c : Ctx} (h : s.MemOk) : (s.joinStep c).MemOk := by
  unfold State.joinStep
  split
  · exact h.joinRead
  · exact h.setJoin
  · exact h.setJoin
  · exact h

theorem endsMemOk_execJoinWake {p : PartRef} (h : s.MemOk) : EndsMemOk (execJoinWake p s) := by
  unfold execJoinWake
  split
  · exact endsMemOk_next h
  · exact endsMemOk_next (h.joinStep.ite h)

theorem endsMemOk_execJoinReread {p : PartRef} (h : s.MemOk) : EndsMemOk (execJoinReread p s) := by
  unfold execJoinReread
  split
  · exact endsMemOk_next h
  · exact endsMemOk_next (h.joinStep.ite h)

/-! ### `Launches` -/

theorem State.MemOk.releaseCores {cores : List Nat} (h : s.MemOk) : (s.releaseCores cores).MemOk := h.foldl (fun _ _ ht => ht.releaseL1)

theorem State.MemOk.accept {l : Launch} {decode : Nat} (h : s.MemOk) : (s.accept l decode).MemOk := h

theorem State.MemOk.takeCores {lid : Nat} {e : Nat × Nat} (h : s.MemOk) : (s.takeCores lid e).MemOk := by
  unfold State.takeCores
  dsimp only
  split
  · exact h.withOrigin
  · exact (h.withOrigin.foldl (fun _ _ ht => ht.reserveCore)).updLaunch

theorem endsMemOk_execLaunchPlacement {lid : Nat} (h : s.MemOk) : EndsMemOk (execLaunchPlacement lid s) := by
  unfold execLaunchPlacement
  split
  · exact endsMemOk_next h
  · split
    · exact endsMemOk_next h
    · split
      · exact endsMemOk_next h.takeCores
      · exact endsMemOk_next h

theorem endsMemOk_execLaunchDue {lid : Nat} (h : s.MemOk) : EndsMemOk (execLaunchDue lid s) := endsMemOk_next h.updLaunch

theorem endsMemOk_execProtectionEnd {lid : Nat} (h : s.MemOk) : EndsMemOk (execProtectionEnd lid s) := endsMemOk_next h.updLaunch

theorem State.MemOk.offerTaken {lid core : Nat} (h : s.MemOk) : SomeMemOk (s.offerTaken lid core) := by
  unfold State.offerTaken
  split
  · exact someMemOk_none
  · split
    · exact someMemOk_none
    · split
      · exact h.admitAll
      · exact h.admitNext

theorem State.MemOk.settleFrags {core : Nat} {w : PixelWave} (h : s.MemOk) : (s.settleFrags core w).MemOk := h

theorem State.MemOk.pixelTaken {lid core : Nat} (h : s.MemOk) : SomeMemOk (s.pixelTaken lid core) := by
  unfold State.pixelTaken
  split
  · exact someMemOk_none
  · split
    · split
      · exact someMemOk_none
      · exact h.startGroup.map (fun _ ht => ht.updLaunch.settleFrags)
    · exact someMemOk_none

theorem endsMemOk_execGroupAdmission {lid core : Nat} (h : s.MemOk) : EndsMemOk (execGroupAdmission lid core s) := by
  unfold execGroupAdmission
  split
  · exact endsMemOk_next h
  · split
    · rename_i hx
      exact endsMemOk_next (h.pixelTaken _ hx)
    · split
      · exact endsMemOk_next h
      · split
        · exact endsMemOk_next (h.offerTaken.getD h)
        · exact endsMemOk_next h

/-! ### `Sched` -/

theorem State.MemOk.refill {n : Nat} (h : s.MemOk) : (s.refill n).MemOk := h.updQueue.refuseAll.ite h

theorem State.MemOk.refillAll (h : s.MemOk) : s.refillAll.MemOk := h.foldl (fun _ _ ht => ht.refill.ite ht)

theorem State.MemOk.stopQueue {n code : Nat} (h : s.MemOk) : (s.stopQueue n code).MemOk := h.updQueue

theorem State.MemOk.consume {n : Nat} (h : s.MemOk) : (s.consume n).MemOk := h.updQueue.refill

theorem endsMemOk_execQueueNop {n : Nat} (h : s.MemOk) : EndsMemOk (execQueueNop n s) := by
  unfold execQueueNop
  split
  · exact endsMemOk_next h.stopQueue
  · exact endsMemOk_next (h.consume.ite h)
  · exact endsMemOk_next h

theorem endsMemOk_execWaitPoll {n : Nat} (h : s.MemOk) : EndsMemOk (execWaitPoll n s) := by
  unfold execWaitPoll
  dsimp only
  split
  · exact endsMemOk_next h
  · split
    · exact endsMemOk_next h.stopQueue
    · split
      · exact endsMemOk_next h.refuseAll
      · split
        · exact endsMemOk_next h.stopQueue
        · exact endsMemOk_next h.updQueue

theorem endsMemOk_execWait {n : Nat} (h : s.MemOk) : EndsMemOk (execWait n s) := endsMemOk_next (h.consume.ite h)

theorem endsMemOk_execSignal {n : Nat} (h : s.MemOk) : EndsMemOk (execSignal n s) := by
  unfold execSignal
  dsimp only
  split
  · exact endsMemOk_next h
  · split
    · exact endsMemOk_next h.stopQueue
    · split
      · exact endsMemOk_next h.stopQueue
      · split
        · exact endsMemOk_next h.refuseAll
        · exact endsMemOk_next h.slicePut.consume

theorem endsMemOk_execLaunch {n : Nat} (h : s.MemOk) : EndsMemOk (execLaunch n s) := by
  unfold execLaunch
  dsimp only
  split
  · exact endsMemOk_next h
  · split
    · exact endsMemOk_next h.stopQueue
    · exact endsMemOk_next (h.accept.consume.updQueue.ite h.accept.consume)

theorem endsMemOk_execGraphload {n : Nat} (h : s.MemOk) : EndsMemOk (execGraphload n s) := by
  unfold execGraphload
  dsimp only
  split
  · exact endsMemOk_next h
  · split
    · exact endsMemOk_next h.stopQueue
    · split
      · exact endsMemOk_next h.refuseAll
      · split
        · exact endsMemOk_next h.stopQueue
        · split
          · exact endsMemOk_next h.stopQueue
          · split
            · exact endsMemOk_next h.stopQueue
            · split
              · exact endsMemOk_next h.stopQueue
              · refine endsMemOk_next (.consume ⟨h.mem, h.scratch, h.acc, ?_⟩)
                exact wf_writeBytes _ _ _ h.sched

theorem State.MemOk.updInst {t gid : Nat} {f : GraphInst → GraphInst} (h : s.MemOk) : (s.updInst t gid f).MemOk := h

theorem State.MemOk.dropTrigger {t k : Nat} (h : s.MemOk) : (s.dropTrigger t k).MemOk := h.updTenant

theorem State.MemOk.launchNode {g : Graph} {i decode : Nat} (h : s.MemOk) : (s.launchNode g i decode).MemOk := by
  unfold State.launchNode
  split
  · exact h
  · split
    · exact h.stopQueue
    · exact h.accept.updInst

theorem State.MemOk.startInstance {g : Graph} {fuel : Nat} (h : s.MemOk) : (s.startInstance g fuel).MemOk := by
  induction fuel generalizing s with
  | zero => exact h
  | succ fuel ih =>
    unfold State.startInstance
    dsimp only
    split
    · exact h
    · split
      · exact h
      · split
        · exact ih (.dropTrigger (h.setSched h.sched))
        · refine .foldl ?_ fun _ _ ht => ht.launchNode
          exact h

theorem endsMemOk_execTriggerWrite {t : Nat} {v : W64} {whole : Bool} {src : Source} (h : s.MemOk) : EndsMemOk (execTriggerWrite t v whole src s)
    := by
  unfold execTriggerWrite
  split
  · exact endsMemOk_next h
  · split
    · exact endsMemOk_next h.dropTrigger
    · extract_lets patch gid u
      have hu : u.MemOk := h.updTenant
      split
      · exact endsMemOk_next hu.dropTrigger
      · split
        · exact endsMemOk_next hu.dropTrigger
        · exact endsMemOk_next (.startInstance (s := { u with sched := _ }) hu)

theorem State.MemOk.nodeDone {t gid i : Nat} (h : s.MemOk) : (s.nodeDone t gid i).MemOk := by
  unfold State.nodeDone
  split
  · exact h
  · extract_lets u
    have hu : u.MemOk := h.updInst
    split
    · exact hu
    · split
      · rename_i u2 q _ _ _ _ _
        have h2 : u2.MemOk := by
          dsimp only [u2]
          split
          · exact hu.slicePut
          · exact hu
        exact .startInstance (s := { u2 with sched := _ }) h2
      · exact hu.foldl fun _ _ ht => ht.launchNode

theorem State.MemOk.endPass {l : Launch} (h : s.MemOk) : (s.endPass l).MemOk := by
  unfold State.endPass
  dsimp only
  split
  · exact h
  · exact h.ite h

theorem endsMemOk_execLaunchCompletion {lid : Nat} (h : s.MemOk) : EndsMemOk (execLaunchCompletion lid s) := by
  unfold execLaunchCompletion
  dsimp only
  split
  · exact endsMemOk_next h
  · split
    · exact endsMemOk_next h
    · exact endsMemOk_next (.endPass (.updLaunch h))
    · exact endsMemOk_next (.updLaunch (.releaseCores h))
    · exact endsMemOk_next (.refuseAll h)
    · split
      · exact endsMemOk_next h
      · exact endsMemOk_next (.nodeDone h)

theorem endsMemOk_execQtailWrite {n : Nat} {v : W64} {src : Source} (h : s.MemOk) : EndsMemOk (execQtailWrite n v src s) := by
  unfold execQtailWrite
  dsimp only
  split
  · exact endsMemOk_next h
  · split
    · exact endsMemOk_next h.updQueue.stopQueue
    · exact endsMemOk_next h.updQueue.refill

theorem endsMemOk_execQerrStopWrite {n : Nat} {v : W64} {src : Source} (h : s.MemOk) : EndsMemOk (execQerrStopWrite n v src s) := by
  unfold execQerrStopWrite
  split
  · exact endsMemOk_next h
  · exact endsMemOk_next h.updQueue.consume

theorem endsMemOk_execQpassWrite {n : Nat} {v : W64} {src : Source} (h : s.MemOk) : EndsMemOk (execQpassWrite n v src s) := by
  unfold execQpassWrite
  split
  · exact endsMemOk_next h
  · exact endsMemOk_next h.updQueue

/-! ### `Preempt` -/

theorem endsMemOk_execPhint {u : UWord} {x : W32} (h : s.MemOk) : EndsMemOk (execPhint u x s) :=
  endsMemOk_issue h (fun _ _ ht => ht.precise.ite (ht.done.ite ht.done.updPart.parkPart))

theorem State.MemOk.settleOp {id : Nat} (h : s.MemOk) : (s.settleOp id).MemOk := by
  unfold State.settleOp
  dsimp only
  split
  · exact h.updOp.writeBack.retire
  · exact h.updOp.writeBack

theorem State.MemOk.withdraw {r : PartRef} {o : MemOp} (h : s.MemOk) : (s.withdraw r o).MemOk := h.updPart.ite h.updPart.dropOp.updCore

theorem State.MemOk.staleOutputs {r : PartRef} {p : Part} (h : s.MemOk) : (s.staleOutputs r p).MemOk := h

theorem State.MemOk.restartPart {r : PartRef} (h : s.MemOk) : (s.restartPart r).MemOk := by
  unfold State.restartPart
  split
  · exact h
  · extract_lets u1 u2 u3
    have h1 : u1.MemOk := by
      refine h.foldl fun u o hu => ?_
      split
      · exact hu.settleOp
      · exact hu.withdraw
      · exact hu
    have h2 : u2.MemOk := h1.updWave.staleOutputs
    have h3 : u3.MemOk := h2
    exact h3.updPart

theorem State.MemOk.forceSave {r : PartRef} (h : s.MemOk) : (s.forceSave r).MemOk := by
  unfold State.forceSave
  split
  · exact h
  · exact h.updPart.ite h.restartPart.updPart

theorem endsMemOk_execForcedSave {lid : Nat} (h : s.MemOk) : EndsMemOk (execForcedSave lid s) := endsMemOk_next (h.foldl (fun _ _ ht => ht.forceSave))

theorem State.MemOk.removeLaunch {lid : Nat} (h : s.MemOk) : (s.removeLaunch lid).MemOk := .updLaunch (.foldl h (fun _ _ ht => .freeWaveRegs ht))

theorem State.MemOk.restoreGroup {lid core : Nat} {img : SaveImage} {e : Nat × Group} (h : s.MemOk) {x : State × Place}
    (hx : s.restoreGroup lid img core e = some x) : x.1.MemOk := by
  unfold State.restoreGroup at hx
  dsimp only at hx
  split at hx
  · split at hx
    · nomatch hx
    · split at hx
      · nomatch hx
      · obtain rfl := Option.some.inj hx
        exact .updLaunch h
  · nomatch hx
theorem State.MemOk.restoreGroups {lid : Nat} {img : SaveImage} {dx dy : Int} {l : List (Nat × Group)} {acc : List (Nat × Place)} (h : s.MemOk)
    {x : State × List (Nat × Place)} (hx : s.restoreGroups lid img dx dy l acc = some x) : x.1.MemOk := by
  induction l generalizing s acc with
  | nil => exact Option.some.inj hx ▸ h
  | cons e r ih =>
    unfold State.restoreGroups at hx
    dsimp only at hx
    split at hx
    · nomatch hx
    · next hr => exact ih (h.restoreGroup hr) hx
theorem State.MemOk.restoredAt {lid : Nat} {l : Launch} {e : Nat × Nat} (h : s.MemOk) {x : State × List (Nat × Place)}
    (hx : s.restoredAt lid l e = some x) : x.1.MemOk := by
  unfold State.restoredAt at hx
  split at hx
  · nomatch hx
  · exact h.updLaunch.restoreGroups hx

theorem endsMemOk_execPreemptVictimChoice {lid : Nat} (h : s.MemOk) : EndsMemOk (execPreemptVictimChoice lid s) := by
  unfold execPreemptVictimChoice
  split
  · exact endsMemOk_next h
  · split
    · exact endsMemOk_next h
    · refine endsMemOk_next (h.foldl fun u v hu => ?_)
      have h1 : (u.updLaunch v fun l => { l with at_ := .saving u.dcc }).MemOk := hu.updLaunch
      exact h1

theorem State.MemOk.saveRelease {core : Nat} {asid : BitVec 16} (h : s.MemOk) : (s.saveRelease core asid).MemOk :=
  h.foldl (fun _ _ ht => ht.sendBackAs)

theorem endsMemOk_execVictimRelease {lid : Nat} (h : s.MemOk) : EndsMemOk (execVictimRelease lid s) := by
  unfold execVictimRelease
  dsimp only
  split
  · exact endsMemOk_next h
  · split
    · exact endsMemOk_next h
    · split
      · exact endsMemOk_next (h.foldl (fun _ _ ht => ht.saveRelease)).updLaunch
      · exact endsMemOk_next h.removeLaunch.dropEngines.updLaunch

theorem State.MemOk.putScratch {core base bytes : Nat} {vals : List (Nat × Byte)} (h : s.MemOk) : (s.putScratch core base bytes vals).MemOk :=
  h.setScratch (wf_foldl (wf_clearRange _ _ _ h.scratch) (fun _ _ hm => wf_writeByte _ _ _ hm))

theorem State.MemOk.fillGroup {img : SaveImage} {e : Nat × Place} (h : s.MemOk) : (s.fillGroup img e).MemOk := by
  unfold State.fillGroup
  split
  · exact h
  · extract_lets p core u1 runs u2 lo acc zeroed
    have h1 : u1.MemOk := h.putScratch
    have h2 : u2.MemOk := h1.foldl fun _ _ ht => ht.putScratch
    have hacc : Memory.wf acc = true := wf_foldl (wf_clearRange _ _ _ h2.acc) fun _ _ hm => wf_writeByte _ _ _ hm
    exact (h2.setAcc hacc).updGroup

theorem State.MemOk.reissueCopy {img : SaveImage} {places : List (Nat × Place)} {core : Nat} {o : CopyOp} (h : s.MemOk) :
    (s.reissueCopy img places core o).MemOk :=
  h.updCore

theorem State.MemOk.requeueStream {core : Nat} {o : MmaOp} {isA : Bool} (h : s.MemOk) : (s.requeueStream core o isA).1.MemOk := by
  unfold State.requeueStream
  dsimp only
  split
  · exact h.pair
  · exact (h.foldl (fun _ _ ht => ht.updStream)).pair

theorem State.MemOk.requeueMma {places : List (Nat × Place)} {o : MmaOp} (h : s.MemOk) : (s.requeueMma places o).MemOk :=
  h.requeueStream.requeueStream.updCore

theorem endsMemOk_execLaunchRestore {lid : Nat} (h : s.MemOk) : EndsMemOk (execLaunchRestore lid s) := by
  unfold execLaunchRestore
  split
  · exact endsMemOk_next h
  · split
    · exact endsMemOk_next h
    · split
      · split
        · exact endsMemOk_next h
        · next hx =>
          extract_lets u1 u2 u3 u4 u5
          have h1 : u1.MemOk := (h.restoredAt hx).foldl fun _ _ ht => ht.fillGroup
          have h2 : u2.MemOk := h1
          have h4 : u4.MemOk := .foldl (h2.foldl fun _ _ ht => ht.reissueCopy) fun _ _ ht => ht.requeueMma
          have h5 : u5.MemOk := h4.foldl fun _ _ ht => ht.reserveCore.invalidateClean
          exact endsMemOk_next h5.updLaunch
      · exact endsMemOk_next h

/-! ### `Waits` -/

theorem State.MemOk.fetchWord {core : Nat} {asid : BitVec 16} {va : Nat} (h : s.MemOk) : (s.fetchWord core asid va).1.MemOk := by
  unfold State.fetchWord
  dsimp only
  split
  · exact h.pair
  · split
    · exact h.refuseAll.pair
    · split
      · split
        · rename_i hx _ _ _
          exact (h.translate.of_eq hx).pair
        · split
          · rename_i hx _ _ _
            exact (h.translate.of_eq hx).refuse.pair
          · rename_i hx _ _ _
            exact (h.translate.of_eq hx).pair
      · rename_i hx
        exact (h.translate.of_eq hx).pair
      · rename_i hx
        exact (h.translate.of_eq hx).pair

theorem State.MemOk.fetch {core : Nat} {asid : BitVec 16} {pc : W64} (h : s.MemOk) : (s.fetch core asid pc).1.MemOk := by
  unfold State.fetch
  split
  · rename_i hx
    exact (h.fetchWord.of_eq hx).pair
  · split
    · rename_i hx _
      exact (h.fetchWord.of_eq hx).pair
    · split
      · rename_i hx _ _ _ _ hy
        exact ((h.fetchWord.of_eq hx).fetchWord.of_eq hy).pair
      · rename_i hx _ _ _ _ hy
        exact ((h.fetchWord.of_eq hx).fetchWord.of_eq hy).pair

theorem State.MemOk.illegalWord {c : Ctx} {i w0 : Nat} (h : s.MemOk) : (s.illegalWord c i w0).MemOk := h.precise.ite h.precise

theorem State.MemOk.beginTurn {r : PartRef} (h : s.MemOk) : (s.beginTurn r).MemOk := .updPart h

theorem endsMemOk_execReservedOpcode (h : s.MemOk) : EndsMemOk (execReservedOpcode s) := by
  unfold execReservedOpcode
  split
  · exact endsMemOk_fault _
  · exact endsMemOk_next h.precise

theorem endsMemOk_execInstructionFetchFault (h : s.MemOk) : EndsMemOk (execInstructionFetchFault s) := by
  unfold execInstructionFetchFault
  dsimp only
  split
  · exact endsMemOk_fault _
  · split
    · split
      · rename_i hx _ _ _ _ hy
        exact endsMemOk_next ((h.fetch.of_eq hx).postFault.of_eq hy).parkOn
      · rename_i hx _ _ hy
        exact endsMemOk_next ((h.fetch.of_eq hx).postFault.of_eq hy).parkOn
    · rename_i hx
      exact endsMemOk_next (h.fetch.of_eq hx).precise
    · exact endsMemOk_next h

theorem endsMemOk_execConfTimeout {p : PartRef} (h : s.MemOk) : EndsMemOk (execConfTimeout p s) := by
  unfold execConfTimeout
  dsimp only
  split
  · exact endsMemOk_next h
  · exact endsMemOk_next (h.updPart.ite h)

theorem endsMemOk_execMissSplit {p : PartRef} (h : s.MemOk) : EndsMemOk (execMissSplit p s) := by
  unfold execMissSplit
  split
  · exact endsMemOk_next h
  · exact endsMemOk_next (h.divideOnMiss.ite h)

theorem endsMemOk_execFusefail {p : PartRef} (h : s.MemOk) : EndsMemOk (execFusefail p s) := by
  unfold execFusefail
  split
  · exact endsMemOk_next h
  · split
    · exact endsMemOk_next h.precise
    · exact endsMemOk_next h

theorem endsMemOk_execSleepWake {p : PartRef} (h : s.MemOk) : EndsMemOk (execSleepWake p s) := by
  unfold execSleepWake
  dsimp only
  split
  · exact endsMemOk_next h
  · exact endsMemOk_next (h.updPart.ite h)

theorem endsMemOk_execPwaitWake {p : PartRef} (h : s.MemOk) : EndsMemOk (execPwaitWake p s) := by
  unfold execPwaitWake
  split
  · exact endsMemOk_next h
  · split
    · split
      · exact endsMemOk_next h
      · split
        · exact endsMemOk_next h.deliverAny
        · exact endsMemOk_next h.endPwait
    · exact endsMemOk_next h

end Sys2Proof.Machine
end

section
/-! SUPPORT. What keeps the canonical form of the memories: the host and the memory's events. -/

open Sys2Proof

namespace Sys2Proof.Machine

variable {s : State}

/-! ### `Ecc` -/

theorem State.MemOk.countUncorrected {core : Nat} (h : s.MemOk) : (s.countUncorrected core).MemOk := h.updDie

theorem State.MemOk.countCorrected {die : Nat} (h : s.MemOk) : (s.countCorrected die).MemOk := h.updDie

theorem State.MemOk.eccOperand {r : PartRef} {detail : Nat} {taddr : W64} (h : s.MemOk) : (s.eccOperand r detail taddr).MemOk := by
  unfold State.eccOperand
  dsimp only
  split
  · exact h
  · split
    · split
      · split
        · exact h.updPart
        · split
          · exact h.restartPart
          · exact h.restartPart.countUncorrected.takeTrap
      · exact h.countUncorrected.precise
    · split
      · split
        · exact h.updPart
        · split
          · exact h.restartPart
          · exact h.restartPart.countUncorrected.takeTrap
      · exact h.countUncorrected.precise

theorem State.MemOk.eccTile {r : PartRef} {tile : Nat} (h : s.MemOk) : (s.eccTile r tile).MemOk := by
  unfold State.eccTile
  dsimp only
  split
  · exact h
  · split
    · exact h
    · exact h.countUncorrected.failMma.updMma.arrayDone.ite h.countUncorrected.failMma.updMma

theorem State.MemOk.eccLoad {r : PartRef} {va : Nat} (h : s.MemOk) : (s.eccLoad r va).MemOk := by
  unfold State.eccLoad
  dsimp only
  split
  · exact h
  · split
    · exact h
    · exact h.countUncorrected.failAccesses.ite h.countUncorrected.failAccesses.updWave

theorem State.MemOk.eccHit {r : PartRef} {detail : Nat} {taddr : W64} (h : s.MemOk) : (s.eccHit r detail taddr).MemOk :=
  h.eccOperand.ite (h.eccTile.ite h.eccLoad)

/-! ### `Loader` -/

theorem State.MemOk.putLeaf {asid : BitVec 16} {va pte : Nat} (h : s.MemOk) : (s.putLeaf asid va pte).MemOk := h.foldl (fun _ _ ht => ht.slicePut)

theorem State.MemOk.invalidateAsid {asid : BitVec 16} (h : s.MemOk) : (s.invalidateAsid asid).MemOk :=
  h.tlbInvalidate (kind := 1) (asid := asid) (va := 0)

theorem wf_placeRanges {mem : List (Nat × Byte)} {dst : Nat} {rs : Ranges} (h : Memory.wf mem = true) : Memory.wf (placeRanges mem dst rs) = true :=
  wf_foldl (wf_foldl h fun _ _ hm => wf_clearRange _ _ _ hm) fun _ _ hm => wf_writeBytes _ _ _ (wf_writeBytes _ _ _ hm)
theorem wf_moveExports {mem m : List (Nat × Byte)} {dst : Nat} {rs : Ranges} {gates : List (Nat × Nat)} (h : Memory.wf mem = true)
    (hm : moveExports mem dst rs gates = .ok m) : Memory.wf m = true := by
  unfold moveExports at hm
  refine List.foldlRecOn (motive := fun r => ∀ m, r = Except.ok m → Memory.wf m = true) gates _ ?_ ?_ m hm
  · exact fun _ hx => Except.ok.inj hx ▸ h
  · intro r hr g _ m' hx
    split at hx
    · nomatch hx
    · split at hx
      · nomatch hx
      · exact Except.ok.inj hx ▸ wf_writeBytes _ _ _ (hr _ rfl)
theorem wf_loadStages {mem m : List (Nat × Byte)} {dst : Nat} (h : Memory.wf mem = true) (hm : loadStages mem dst = .ok m) : Memory.wf m = true := by
  unfold loadStages at hm
  dsimp only at hm
  split at hm
  · nomatch hm
  · split at hm
    · split at hm
      · nomatch hm
      · exact Except.ok.inj hm ▸ h
    · split at hm
      · nomatch hm
      · split at hm
        · nomatch hm
        · next hx =>
          split at hm
          · nomatch hm
          · exact Except.ok.inj hm ▸ wf_moveExports (wf_placeRanges h) hx
theorem State.MemOk.loadSegment {a : LoadArgs} (h : s.MemOk) : (s.loadSegment a).1.MemOk := by
  unfold State.loadSegment
  extract_lets img size fail
  have hfail : ∀ t n e, t.MemOk → (fail t n e).1.MemOk := fun t n e ht => ht.putLong.pair
  split
  · exact hfail _ _ _ h
  · split
    · exact h.pair
    · split
      · exact hfail _ _ _ h
      · rename_i u rd g ids _ _ _ _
        have hu : u.MemOk := h.putLong
        split
        · exact hfail _ _ _ hu
        · split
          · exact hfail _ _ _ hu
          · next m hm =>
            extract_lets u1 u2 u3 u4
            have h1 : u1.MemOk := hu.setMem (wf_loadStages hu.mem hm)
            have h2 : u2.MemOk := h1.foldl fun _ _ ht => ht.putLeaf
            have h3 : u3.MemOk := h2.invalidateAsid
            have h4 : u4.MemOk := h3.updPkg
            exact h4.putLong.pair

theorem State.MemOk.unloadSegment {g : Segment} (h : s.MemOk) : (s.unloadSegment g).MemOk :=
  (h.foldl (fun _ _ ht => ht.putLeaf)).invalidateAsid.updPkg

/-! ### `Host` -/

theorem State.MemOk.writeSched {off : Nat} {v : W64} {src : Source} (h : s.MemOk) : (s.writeSched off v src).MemOk := by
  unfold State.writeSched
  dsimp only
  split
  · exact .ite h h
  · split
    · exact .ite h h
    · split
      · exact .ite (.updTenant h) h
      · split
        · exact .ite (.updTenant h) h
        · split
          · exact .ite (.updTenant h) h
          · split
            · split
              · exact h
              · split
                · exact .updQueue h
                · exact .updQueue h
                · exact h
            · exact h

theorem State.MemOk.writePackage {off : Nat} {v : W64} {src : Source} (h : s.MemOk) : (s.writePackage off v src).MemOk :=
  (h.updPkg.ite h).ite (h.ite (h.updPkg.ite (h.updPkg.ite (h.updPkg.ite (h.updTenant.ite h)))))

theorem endsMemOk_execRegisterWrite {off : Nat} {v : W64} {src : Source} (h : s.MemOk) : EndsMemOk (execRegisterWrite off v src s) :=
  endsMemOk_next ((h.writePackage.ite h).ite (h.ite (h.writeSched.ite ((h.updCluster.ite h).ite (h.ite (h.updDie.ite (h.updDie.ite h)))))))

theorem State.MemOk.packageReset (h : s.MemOk) : s.packageReset.MemOk := ⟨wf_clearRange _ _ _ h.mem, reset.scratch, reset.acc, reset.sched⟩

theorem endsMemOk_execPackageReset (h : s.MemOk) : EndsMemOk (execPackageReset s) := endsMemOk_next h.packageReset

theorem State.MemOk.endWaves {lids : List Nat} (h : s.MemOk) : (s.endWaves lids).MemOk := h.foldl (fun _ _ ht => ht.endWave)

theorem endsMemOk_execFunctionLevelReset {t : Nat} (h : s.MemOk) : EndsMemOk (execFunctionLevelReset t s) := by
  unfold execFunctionLevelReset
  extract_lets old mine u1 gone u2 q u3 u4
  have h2 : u2.MemOk := h.endWaves.dropEngines
  have h3 : u3.MemOk := ⟨h2.mem, h2.scratch, h2.acc, wf_clearRange _ _ _ h2.sched⟩
  have h4 : u4.MemOk := h3.foldl fun _ _ ht => ht.endPass
  exact endsMemOk_next h4.updTenant

theorem State.MemOk.answer {err : Nat} (h : s.MemOk) : (s.answer err).MemOk := h.updPkg

theorem endsMemOk_execLoad (h : s.MemOk) : EndsMemOk (execLoad s) := by
  unfold execLoad
  dsimp only
  split
  · exact endsMemOk_next h
  · split
    · exact endsMemOk_next h.answer
    · exact endsMemOk_next h.loadSegment.answer

theorem endsMemOk_execUnload (h : s.MemOk) : EndsMemOk (execUnload s) := by
  unfold execUnload
  split
  · exact endsMemOk_next h
  · split
    · exact endsMemOk_next h.answer
    · exact endsMemOk_next h.unloadSegment.answer

theorem endsMemOk_execAttest (h : s.MemOk) : EndsMemOk (execAttest s) := by
  unfold execAttest
  dsimp only
  split
  · exact endsMemOk_next h
  · split
    · exact endsMemOk_next h.answer
    · exact endsMemOk_next h.putLong.answer

theorem endsMemOk_execFwreload (h : s.MemOk) : EndsMemOk (execFwreload s) := by
  unfold execFwreload
  dsimp only
  split
  · exact endsMemOk_next h
  · split
    · exact endsMemOk_next h.answer
    · split
      · exact endsMemOk_next h.answer
      · split
        · exact endsMemOk_next h.updPkg.answer
        · exact endsMemOk_next h.answer

theorem endsMemOk_execMailboxRequestEnd (h : s.MemOk) : EndsMemOk (execMailboxRequestEnd s) := by
  unfold execMailboxRequestEnd
  dsimp only
  split
  · exact endsMemOk_next h
  · split
    · exact endsMemOk_next h
    · exact endsMemOk_next (h.updPkg.packageReset.ite h.updPkg)

theorem endsMemOk_execDomtabWrite {v : W64} {src : Source} (h : s.MemOk) : EndsMemOk (execDomtabWrite v src s) := by
  unfold execDomtabWrite
  dsimp only
  split
  · exact endsMemOk_next h
  · exact endsMemOk_next h.updPkg

theorem State.MemOk.replayOp {die ticket id : Nat} (h : s.MemOk) : (s.replayOp die ticket id).MemOk := by
  unfold State.replayOp
  dsimp only
  split
  · exact h
  · split
    · exact h.updOp
    · exact (h.foldl (fun _ _ ht => ht.startWalk)).updOp

theorem State.MemOk.replay {f : FaultRec} {die : Nat} (h : s.MemOk) : (s.replay f die).MemOk :=
  ((h.foldl (fun _ _ ht => ht.replayOp)).foldl (fun _ _ ht => ht.updCopy)).foldl (fun _ _ ht => ht.updMma)

theorem State.MemOk.reject {f : FaultRec} {die : Nat} (h : s.MemOk) : (s.reject f die).MemOk := by
  unfold State.reject
  refine (((h.foldl (fun _ _ ht => ht.failAccesses)).foldl (fun _ _ ht => ht.dropCopy.endEngine)).foldl (fun _ _ ht => ht.failMma)).foldl (fun t a ht => ?_)
  split
  · exact ht.precise
  · exact ht

theorem endsMemOk_execFaultReply {die : Nat} {v : W64} {src : Source} (h : s.MemOk) : EndsMemOk (execFaultReply die v src s) := by
  unfold execFaultReply
  dsimp only
  split
  · exact endsMemOk_next h
  · split
    · exact endsMemOk_next h.updDie
    · exact endsMemOk_next (h.updDie.updDie.reject.ite h.updDie.updDie.replay)

theorem endsMemOk_execDieHalt {die : Nat} (h : s.MemOk) : EndsMemOk (execDieHalt die s) := by
  unfold execDieHalt
  split
  · exact endsMemOk_next (h.updDie.ite h)
  · exact endsMemOk_next h

theorem endsMemOk_execHaltedWrite {die : Nat} {v : W64} {src : Source} (h : s.MemOk) : EndsMemOk (execHaltedWrite die v src s) := by
  unfold execHaltedWrite
  split
  · exact endsMemOk_next h
  · exact endsMemOk_next h.updDie

theorem endsMemOk_execDebugInterfaceAccess {write : Bool} {opm : Nat} {v : W32} (h : s.MemOk) : EndsMemOk (execDebugInterfaceAccess write opm v s)
    := by
  unfold execDebugInterfaceAccess
  split
  · exact endsMemOk_next h
  · split
    · exact endsMemOk_next (h.opmWrite.ite h)
    · exact endsMemOk_next h.updPkg

theorem State.MemOk.hostData {v : W64} (h : s.MemOk) : (s.hostData v).MemOk := h.updPkg

theorem State.MemOk.again {pa : Nat} {e : Event} (h : s.MemOk) : (s.again pa e).MemOk := h.refuse (pa := pa)

theorem State.MemOk.hostAccess {a : HostAccess} {pa : Nat} {e : Event} (h : s.MemOk) : (s.hostAccess a pa e).MemOk :=
  h.again.ite (h.putLong.ite h.touchBank.hostData)

theorem State.MemOk.unanswered {a : HostAccess} (h : s.MemOk) : (s.unanswered a).MemOk := h.ite h.hostData

theorem endsMemOk_execApertureAccess {a : HostAccess} (h : s.MemOk) : EndsMemOk (execApertureAccess a s) := by
  unfold execApertureAccess
  dsimp only
  split
  · exact endsMemOk_next h.unanswered
  · split
    · exact endsMemOk_next h.hostAccess
    · exact endsMemOk_next (h.updPkg.ite h.updPkg.hostData)

theorem endsMemOk_execTenantApertureAccess {t : Nat} {a : HostAccess} (h : s.MemOk) : EndsMemOk (execTenantApertureAccess t a s) := by
  unfold execTenantApertureAccess
  dsimp only
  split
  · exact endsMemOk_next h.unanswered
  · split
    · exact endsMemOk_next h.hostAccess
    · exact endsMemOk_next (h.updTenant.ite h.updTenant.hostData)

theorem endsMemOk_execFatalError {cause pa : Nat} (h : s.MemOk) : EndsMemOk (execFatalError cause pa s) := endsMemOk_next h.fatal

theorem State.MemOk.putDump {m : List (Nat × Byte)} (h : s.MemOk) (hm : Memory.wf m = true) : (s.putDump m).MemOk := by
  unfold State.putDump
  exact .ite (h.setMem hm) (h.foldl fun _ _ ht => ht.slicePut)

theorem endsMemOk_execStateDumpComplete (h : s.MemOk) : EndsMemOk (execStateDumpComplete s) := by
  unfold execStateDumpComplete
  split
  · exact endsMemOk_next h
  · split
    · exact endsMemOk_next h.refuseAll
    · extract_lets base m1 m2 m3 m4
      have h2 : Memory.wf m2 = true := wf_writeBytes _ _ _ (wf_clearRange _ _ _ h.mem)
      have h3 : Memory.wf m3 = true := wf_foldl h2 fun _ _ hm => wf_writeBytes _ _ _ hm
      have h4 : Memory.wf m4 = true := wf_foldl h3 fun _ _ hm => wf_foldl (wf_writeBytes _ _ _ hm) fun _ _ hm => wf_writeBytes _ _ _ hm
      exact endsMemOk_next (h.putDump h4).updPkg.sendMsix

theorem endsMemOk_execPeerLinkState {k st : Nat} (h : s.MemOk) : EndsMemOk (execPeerLinkState k st s) := by
  unfold execPeerLinkState
  extract_lets old u reads u2
  have hu : u.MemOk := h.updPkg
  have h2 : u2.MemOk := by
    refine .foldl ?_ fun _ _ ht => ht.failAccesses
    exact hu
  split
  · refine endsMemOk_next ?_
    split
    · exact h2.fatal
    · exact h2
  · exact endsMemOk_next hu

theorem endsMemOk_execHsig {u : UWord} (h : s.MemOk) : EndsMemOk (execHsig u s) := by
  unfold execHsig
  refine endsMemOk_issue h (fun c t ht => ?_)
  dsimp only
  split
  · rename_i hx
    exact ht.releaseFirst _ hx
  · exact ht.beginRegion.done.ite ht.post.parkPart

/-! ### `MemEvents` -/

theorem State.MemOk.walkFound {w : Walk} {pte logPage id : Nat} (h : s.MemOk) : (s.walkFound w pte logPage id).MemOk := by
  unfold State.walkFound
  dsimp only
  split
  · exact h
  · exact (h.foldl (fun _ _ ht => ht.sendAhead)).updOp.holdFailures.freeLog

theorem State.MemOk.walkHeld {w : Walk} {die ticket page size id : Nat} (h : s.MemOk) : (s.walkHeld w die ticket page size id).MemOk := by
  unfold State.walkHeld
  dsimp only
  split
  · exact h
  · exact h.updOp.takeLog.ite h.updOp

theorem State.MemOk.stepWalk {w : Walk} {pa : Nat} (h : s.MemOk) : (s.stepWalk w pa).MemOk := h.useLine

theorem State.MemOk.dropWalk {w : Walk} (h : s.MemOk) : (s.dropWalk w).MemOk := .takeWalk h

theorem State.MemOk.endWalk {x : Walk} (h : s.MemOk) : (s.endWalk x).MemOk := by
  unfold State.endWalk
  dsimp only
  split
  · exact h.dropWalk.ite h.dropWalk.startWalk
  · split
    · exact h.dropWalk.fillTlbs.foldl (fun _ _ ht => ht.walkFound)
    · exact h.dropWalk.foldl (fun _ _ ht => ht.failAccesses)
    · split
      · exact h.dropWalk
      · split
        · rename_i hx
          exact h.postFault.of_eq hx
        · rename_i hx
          exact (h.postFault.of_eq hx).dropWalk.foldl (fun _ _ ht => ht.walkHeld)

theorem endsMemOk_execPageWalkComplete {w : Nat} (h : s.MemOk) : EndsMemOk (execPageWalkComplete w s) := by
  unfold execPageWalkComplete
  split
  · exact endsMemOk_next h
  · split
    · exact endsMemOk_next h
    · split
      · exact endsMemOk_next h.refuseAll
      · split
        · exact endsMemOk_next h.stepWalk
        · exact endsMemOk_next h.endWalk

theorem endsMemOk_execPinTimeout {line : Nat} (h : s.MemOk) : EndsMemOk (execPinTimeout line s) := by
  unfold execPinTimeout
  dsimp only
  split
  · exact endsMemOk_next h
  · split
    · exact endsMemOk_next h
    · exact endsMemOk_next (.updWave (.sendBack h))

theorem endsMemOk_execBankDrowsy {bank : Nat} (h : s.MemOk) : EndsMemOk (execBankDrowsy bank s) := by
  unfold execBankDrowsy
  dsimp only
  split <;> exact endsMemOk_next h

theorem endsMemOk_execBankWakeComplete {bank : Nat} (h : s.MemOk) : EndsMemOk (execBankWakeComplete bank s) := by
  unfold execBankWakeComplete
  dsimp only
  split
  · split <;> exact endsMemOk_next h
  · exact endsMemOk_next h

end Sys2Proof.Machine
end

section
/-! SUPPORT. What keeps the canonical form of the memories: the vector groups and the graphics pipeline. -/

open Sys2Proof

namespace Sys2Proof.Machine

variable {s : State}

/-! ### `Mesh` -/

theorem State.MemOk.dropPrims {core launch : Nat} {asid : BitVec 16} {d : Draw} {n : Nat} (h : s.MemOk) :
    (s.dropPrims core launch asid d n).MemOk := by
  unfold State.dropPrims
  dsimp only
  split
  · exact h
  · split
    · exact h.useRefs.unitPost
    · exact h

theorem endsMemOk_meshOp {r : RWord} {regs : Ctx → List Vop} {drops : Ctx → Draw → Nat} {eff : Ctx → Draw → State → State} (h : s.MemOk)
    (heff : ∀ c d t, t.MemOk → (eff c d t).MemOk) : EndsMemOk (meshOp r regs drops eff s) := by
  unfold meshOp
  refine endsMemOk_issue h fun c t ht => ?_
  split
  · exact ht.done
  · dsimp only
    split
    · exact (heff c _ t ht).newOp.dropPrims.done
    · exact ht.refuseAll.parkOn

theorem endsMemOk_execMvtx {r : RWord} (h : s.MemOk) : EndsMemOk (execMvtx r s) := endsMemOk_meshOp h (fun _ _ _ ht => ht.updGroup)

theorem endsMemOk_execMprim {r : RWord} (h : s.MemOk) : EndsMemOk (execMprim r s) := endsMemOk_meshOp h (fun _ _ _ ht => ht.updGroup.updWave)

theorem endsMemOk_killOp {r : RWord} {x : XaWord} {len : Nat} (h : s.MemOk) : EndsMemOk (killOp r x len s) :=
  endsMemOk_issue h (fun _ _ ht => ht.retireFrags.updWave.done)

theorem endsMemOk_poutOp {r : RWord} {x : XaWord} {len : Nat} (h : s.MemOk) : EndsMemOk (poutOp r x len s) :=
  endsMemOk_issue h (fun _ _ ht => ht.newOp.done)

theorem State.MemOk.queueOutput {id : Nat} (h : s.MemOk) : (s.queueOutput id).MemOk := by
  unfold State.queueOutput
  dsimp only
  split
  · exact h
  · split
    · exact h
    · split
      · exact .regionBehind (.updOp h)
      · exact h

theorem endsMemOk_execStCompletion {op : Nat} (h : s.MemOk) : EndsMemOk (execStCompletion op s) := by
  unfold execStCompletion
  split
  · split
    · exact endsMemOk_next h.queueOutput.advanceOp
    · exact endsMemOk_next h
  · exact endsMemOk_next h

theorem endsMemOk_ipaOp {r : RWord} {x : XaWord} {len : Nat} (h : s.MemOk) : EndsMemOk (ipaOp r x len s) := by
  unfold ipaOp
  refine endsMemOk_issue h (fun c t ht => ?_)
  dsimp only
  split
  · exact ht
  · exact ht.putV.updPart.done

/-! ### `Setup` -/

theorem State.MemOk.sendRecord {asid : BitVec 16} {p : Pass} {r : PrimRec} (h : s.MemOk) : (s.sendRecord asid p r).MemOk := by
  unfold State.sendRecord
  refine h.foldl fun _ _ ht => ?_
  exact ht

theorem State.MemOk.setupGroup {m : MeshDone} {l : Launch} {d : Draw} {pass : Nat} (h : s.MemOk) : (s.setupGroup m l d pass).MemOk :=
  h.dropPrims.foldl (fun _ _ ht => ht.sendRecord)

theorem endsMemOk_execSetupBinning {g : Nat} (h : s.MemOk) : EndsMemOk (execSetupBinning g s) := by
  unfold execSetupBinning
  dsimp only
  split
  · exact endsMemOk_next h
  · split
    · exact endsMemOk_next h
    · split
      · split
        · exact endsMemOk_next (.setupGroup h)
        · exact endsMemOk_next (.refuseAll h)
      · exact endsMemOk_next h

theorem endsMemOk_execPrimitiveRecord {r : Nat} (h : s.MemOk) : EndsMemOk (execPrimitiveRecord r s) := endsMemOk_next h

theorem endsMemOk_execWatermarkSend {pass src : Nat} (h : s.MemOk) : EndsMemOk (execWatermarkSend pass src s) := by
  unfold execWatermarkSend
  dsimp only
  split <;> exact endsMemOk_next h

theorem endsMemOk_execWatermark {m : Nat} (h : s.MemOk) : EndsMemOk (execWatermark m s) := by
  unfold execWatermark
  split
  · exact endsMemOk_next h
  · extract_lets u
    have hu : u.MemOk := h.updDie
    exact endsMemOk_next hu

/-! ### `Raster` -/

theorem State.MemOk.addFrags {p : PrimRec} {samp : Nat} {l : List (Nat × Nat × Nat)} {acc : List (Nat × Nat × Nat × Option Nat)} (h : s.MemOk) :
    (s.addFrags p samp l acc).1.MemOk := by
  induction l generalizing s acc with
  | nil => exact h
  | cons e r ih =>
    obtain ⟨x, y, c⟩ := e
    unfold State.addFrags
    split
    · exact ih h
    · exact ih (s := { s with frags := _, nextId := _ }) h

theorem State.MemOk.placeQuad {p : PrimRec} {d : Draw} {q : List (Nat × Nat × Nat × Option Nat)} (h : s.MemOk) : (s.placeQuad p d q).MemOk := by
  unfold State.placeQuad
  dsimp only
  split
  · exact h
  · split
    · exact h.updLaunch
    · exact h.updDie.updLaunch

theorem endsMemOk_execRasteriseRecord {r : Nat} (h : s.MemOk) : EndsMemOk (execRasteriseRecord r s) := by
  unfold execRasteriseRecord
  split
  · exact endsMemOk_next h
  · extract_lets u
    have hu : u.MemOk := h
    split
    · exact endsMemOk_next hu
    · exact endsMemOk_next (hu.foldl fun _ _ ht => ht.addFrags.placeQuad)

theorem State.MemOk.fragPut {f : Fragment} {asid : BitVec 16} {va : Nat} {b : List Byte} (h : s.MemOk) : (s.fragPut f asid va b).MemOk := by
  unfold State.fragPut
  dsimp only
  split
  · split
    · exact h.putLong.putLong
    · exact h.putLong
  · split
    · exact h.putLong
    · exact h

theorem State.MemOk.commitOutput {f : Fragment} {asid : BitVec 16} {p : Pass} {k : Nat} {w : Nat × List W32} (h : s.MemOk) :
    (s.commitOutput f asid p k w).MemOk :=
  h.ite h.fragPut

theorem State.MemOk.commitSample {f : Fragment} {asid : BitVec 16} {p : Pass} {k : Nat} (h : s.MemOk) : (s.commitSample f asid p k).MemOk :=
  h.ite ((h.fragPut.ite h).foldl (fun _ _ ht => ht.commitOutput))

theorem endsMemOk_execFragmentCommit {id : Nat} (h : s.MemOk) : EndsMemOk (execFragmentCommit id s) := by
  unfold execFragmentCommit
  split
  · exact endsMemOk_next h
  · split
    · exact endsMemOk_next h
    · split
      · exact endsMemOk_next h
      · split
        · extract_lets u u2
          have hu : u.MemOk := h
          have h2 : u2.MemOk := hu.foldl fun _ _ ht => ht.useRefs
          split
          · exact endsMemOk_next hu
          · exact endsMemOk_next (h2.foldl fun _ _ ht => ht.commitSample)
        · exact endsMemOk_next (h.foldl fun _ _ ht => ht.refuse)

theorem endsMemOk_execDivergenceHistoryUpdate {die : Nat} {seg : W64} {kidx : Nat} (h : s.MemOk) :
    EndsMemOk (execDivergenceHistoryUpdate die seg kidx s) :=
  endsMemOk_next h.updDie

/-! ### `CrossLane` -/

theorem endsMemOk_crossOp {r : RWord} {x : XaWord} {len : Nat} {fused : Bool} {regs : Ctx → List Vop} {eff : Ctx → State → State} (h : s.MemOk)
    (heff : ∀ c t, t.MemOk → (eff c t).MemOk) : EndsMemOk (crossOp r x len fused regs eff s) := by
  unfold crossOp
  exact endsMemOk_issue h fun c t ht => (heff c t ht).done

theorem endsMemOk_shuffle {r : RWord} {x : XaWord} {len : Nat} (h : s.MemOk) : EndsMemOk (shuffle r x len s) :=
  endsMemOk_crossOp h (fun _ _ ht => ht.putV)

theorem endsMemOk_voteOp {r : RWord} {x : XaWord} {len : Nat} (h : s.MemOk) : EndsMemOk (voteOp r x len s) :=
  endsMemOk_crossOp h (fun _ _ ht => ht.updPart.ite ht.updWave)

theorem endsMemOk_reduceOp {r : RWord} {x : XaWord} {len : Nat} {scan : Bool} (h : s.MemOk) : EndsMemOk (reduceOp r x len scan s) :=
  endsMemOk_crossOp h (fun _ _ ht => ht.putV.updPart)

theorem endsMemOk_readLane {r : RWord} {x : XaWord} {len : Nat} (h : s.MemOk) : EndsMemOk (readLane r x len s) :=
  endsMemOk_crossOp h (fun _ _ ht => ht.updPart)

theorem endsMemOk_execWrlane {r : RWord} {x : XaWord} (h : s.MemOk) : EndsMemOk (execWrlane r x s) := endsMemOk_crossOp h (fun _ _ ht => ht.putV)

theorem endsMemOk_derivative {r : RWord} {x : XaWord} {len : Nat} {isX : Bool} (h : s.MemOk) : EndsMemOk (derivative r x len isX s) :=
  endsMemOk_crossOp h (fun _ _ ht => ht.putV.updPart)

theorem endsMemOk_quadPermute {r : RWord} {x : XaWord} {len : Nat} (h : s.MemOk) : EndsMemOk (quadPermute r x len s) :=
  endsMemOk_crossOp h (fun _ _ ht => ht.putV)

/-! ### `Convert` -/

theorem endsMemOk_convertOp {r : RWord} {o : XaForm} {srcs : Ctx → List Src} {amax : Option Fmt} {f : Ctx → Nat → Nat → Nat → FRes} (h : s.MemOk) :
    EndsMemOk (convertOp r o srcs amax f s) := by
  unfold convertOp
  refine endsMemOk_issue h (fun c t ht => ?_)
  dsimp only
  split
  · exact ht.putV.updPart.updPart.done
  · exact ht.putV.updPart.done

theorem endsMemOk_execCvtq {r : RWord} {x : XaWord} (h : s.MemOk) : EndsMemOk (execCvtq r x s) := by
  unfold execCvtq
  exact endsMemOk_convertOp h

theorem endsMemOk_execCvtd {r : RWord} {x : XaWord} (h : s.MemOk) : EndsMemOk (execCvtd r x s) := by
  unfold execCvtd
  exact endsMemOk_convertOp h

theorem endsMemOk_amaxOp {r : RWord} {x : XaWord} {len : Nat} (h : s.MemOk) : EndsMemOk (amaxOp r x len s) :=
  endsMemOk_issue h (fun _ _ ht => ht.updPart.done)

end Sys2Proof.Machine
end

section
/-! SUPPORT. What keeps the canonical form of the memories: the texture and ray units. -/

open Sys2Proof

namespace Sys2Proof.Machine

variable {s : State}

/-! ### `Units` -/

theorem State.MemOk.unitWalk {o : MemOp} {need : Need} {va n : Nat} (h : s.MemOk) : (s.unitWalk o need va n).1.MemOk := by
  unfold State.unitWalk
  dsimp only
  split
  · exact h.pair
  · split
    · exact h.refuseAll.pair
    · split
      · split
        · rename_i hx _ _ _
          exact (h.translate.of_eq hx).pair
        · rename_i hx _ _
          exact (h.translate.of_eq hx).pair
      · rename_i hx
        exact (h.translate.of_eq hx).pair
      · rename_i hx
        exact (h.translate.of_eq hx).pair

theorem State.MemOk.unitRead {o : MemOp} {cp va n : Nat} (h : s.MemOk) : (s.unitRead o cp va n).1.MemOk := by
  unfold State.unitRead
  dsimp only
  split
  · rename_i hx
    exact (h.updOp.unitWalk.of_eq hx).pair
  · split
    · rename_i hx _
      exact (h.updOp.unitWalk.of_eq hx).pair
    · split
      · rename_i hx _ _
        exact (h.updOp.unitWalk.of_eq hx).sendBack.pair
      · split
        · rename_i hx _ _ _
          exact (h.updOp.unitWalk.of_eq hx).loadL1.pair
        · split
          · rename_i hx _ _ _ _
            exact (h.updOp.unitWalk.of_eq hx).refuse.pair
          · rename_i hx _ _ _ _
            exact (h.updOp.unitWalk.of_eq hx).loadSlice.pair

theorem State.MemOk.unitReads {o : MemOp} {cp fuel va n : Nat} (h : s.MemOk) : (s.unitReads o cp fuel va n).1.MemOk := by
  induction fuel generalizing s va n with
  | zero => exact h
  | succ fuel ih =>
    unfold State.unitReads
    split
    · exact h
    · dsimp only
      split
      next s' c b hs =>
        have hr : (s'.unitReads o cp fuel (va + min n (128 - va % 128)) (n - min n (128 - va % 128))).1.MemOk := ih (h.unitRead.of_eq hs)
        split
        next hq => exact (hr.of_eq hq).pair
        next => exact hr
      next => exact h.unitRead

theorem State.MemOk.unitBytes {o : MemOp} {cp va n : Nat} (h : s.MemOk) : (s.unitBytes o cp va n).1.MemOk := h.unitReads

theorem State.MemOk.unitPlaces {o : MemOp} {l : List (Nat × List Byte)} (h : s.MemOk) : (s.unitPlaces o l).1.MemOk := by
  induction l generalizing s with
  | nil => exact h
  | cons e r ih =>
    unfold State.unitPlaces
    split
    next hs => exact (h.unitWalk.of_eq hs).pair
    next hs =>
      have hw := h.unitWalk.of_eq hs
      split
      · exact hw.pair
      · split
        next hr => exact ((ih hw).of_eq hr).pair
        next => exact ih hw

theorem State.MemOk.unitWrites {o : MemOp} {delay : Nat} {ws : List (Nat × List Byte)} (h : s.MemOk) : (s.unitWrites o delay ws).1.MemOk := by
  unfold State.unitWrites
  split
  · rename_i hx
    exact (h.unitPlaces.of_eq hx).pair
  · rename_i hx
    exact ((h.unitPlaces.of_eq hx).foldl (fun _ _ ht => ht.post)).pair

theorem State.MemOk.orOpStatus {id : Nat} {f : BitVec 4} (h : s.MemOk) : (s.orOpStatus id f).MemOk := h.updOp

theorem State.MemOk.laneLater {id lane d : Nat} (h : s.MemOk) : (s.laneLater id lane d).MemOk := h.updOp

theorem State.MemOk.landLane {id lane : Nat} {r : LaneRes} (h : s.MemOk) : (s.landLane id lane r).MemOk := by
  unfold State.landLane
  split
  · exact h
  · split
    · exact h.updOp
    · exact h.updOp.failAccesses
    · split
      · rename_i hx
        exact (h.postFault.of_eq hx).updOp
      · rename_i hx
        exact (h.postFault.of_eq hx).updOp
    · exact h.updOp
    · exact h.laneLater

theorem State.MemOk.startUnit {c : Ctx} {len dst n : Nat} {lanes : List Nat} {q : UnitReq} (h : s.MemOk) : (s.startUnit c len dst n lanes q).MemOk :=
  h.newOp.done

/-! ### `Texture` -/

theorem State.MemOk.reshade {o : MemOp} {l : Launch} {d : Draw} {tile : Option Nat} (h : s.MemOk) : (s.reshade o l d tile).MemOk := by
  unfold State.reshade
  dsimp only
  split
  · exact h
  · split
    · exact h
    · split
      · exact h.useRefs.unitPost
      · exact h

theorem State.MemOk.noteMissing {o : MemOp} {l : Launch} {d : Draw} {va : Nat} (h : s.MemOk) : (s.noteMissing o l d va).MemOk := by
  unfold State.noteMissing
  dsimp only
  split
  · exact h
  · split
    · exact h
    · exact h.useRefs.unitPost

theorem State.MemOk.sparseMiss {o : MemOp} {va : Nat} (h : s.MemOk) : (s.sparseMiss o va).1.MemOk := by
  unfold State.sparseMiss
  dsimp only
  split
  · exact h.orOpStatus.pair
  · split
    · exact h.orOpStatus.reshade.noteMissing.pair
    · exact h.refuseAll.pair

theorem State.MemOk.readTaps {o : MemOp} {t : TexDesc} {sm : Sampler} {level : Nat} {l : List Tap} (h : s.MemOk) :
    (s.readTaps o t sm level l).1.MemOk := by
  induction l generalizing s with
  | nil => exact h
  | cons tap r ih =>
    unfold State.readTaps
    extract_lets one
    have hone : one.1.MemOk := by
      dsimp only [one]
      split
      · exact h
      · split
        next hs => exact (h.unitBytes.of_eq hs).pair
        next hs =>
          split
          · exact (h.unitBytes.of_eq hs).pair
          · split
            next hm => exact ((h.unitBytes.of_eq hs).sparseMiss.of_eq hm).pair
            next hm => exact ((h.unitBytes.of_eq hs).sparseMiss.of_eq hm).pair
        next hs => exact (h.unitBytes.of_eq hs).pair
    clear_value one
    split
    · exact hone
    · split
      next hr => exact ((ih hone).of_eq hr).pair
      next hr => exact ((ih hone).of_eq hr).pair

theorem State.MemOk.sampleLevel {o : MemOp} {t : TexDesc} {sm : Sampler} {sub : Nat} {uvw : List Nat} {level : Nat} (h : s.MemOk) :
    (s.sampleLevel o t sm sub uvw level).1.MemOk := by
  unfold State.sampleLevel
  dsimp only
  split
  · rename_i hx
    exact (h.readTaps.of_eq hx).pair
  · rename_i hx
    exact (h.readTaps.of_eq hx).pair

theorem State.MemOk.sampleTex {o : MemOp} {t : TexDesc} {sm : Sampler} {sub : Nat} {uvw : List Nat} {lod : Nat} (h : s.MemOk) :
    (s.sampleTex o t sm sub uvw lod).1.MemOk := by
  unfold State.sampleTex
  split
  · exact h.sampleLevel
  · split
    · rename_i hx
      exact (h.sampleLevel.of_eq hx).pair
    · split
      · rename_i hx _ _ _ _ hy
        exact ((h.sampleLevel.of_eq hx).sampleLevel.of_eq hy).pair
      · rename_i hx _ _ _ _ hy
        exact ((h.sampleLevel.of_eq hx).sampleLevel.of_eq hy).pair

theorem State.MemOk.gatherTex {o : MemOp} {t : TexDesc} {sm : Sampler} {sub : Nat} {uvw : List Nat} {lod : Nat} (h : s.MemOk) :
    (s.gatherTex o t sm sub uvw lod).1.MemOk := by
  unfold State.gatherTex
  dsimp only
  split
  · rename_i hx
    exact (h.readTaps.of_eq hx).pair
  · rename_i hx
    exact (h.readTaps.of_eq hx).pair

theorem State.MemOk.texLane {o : MemOp} {gather f16 : Bool} {sub desc samp : Nat} {coords : List (Nat × List Nat)} {here : Lanes} {lane : Nat}
    (h : s.MemOk) : (s.texLane o gather f16 sub desc samp coords here lane).1.MemOk := by
  unfold State.texLane
  dsimp only
  split
  · split
    · split
      · split
        · rename_i hx _ _ _ _ hy _ _ _ _ _ _ _ _ _ _ hz
          exact ((((h.unitBytes.of_eq hx).unitBytes.of_eq hy).gatherTex.iteFst ((h.unitBytes.of_eq hx).unitBytes.of_eq hy).sampleTex).of_eq hz).pair
        · rename_i hx _ _ _ _ hy _ _ _ _ _ _ _ _ _ _ hz
          exact ((((h.unitBytes.of_eq hx).unitBytes.of_eq hy).gatherTex.iteFst ((h.unitBytes.of_eq hx).unitBytes.of_eq hy).sampleTex).of_eq hz).pair
      · rename_i hx _ _ _ _ hy _ _ _
        exact ((h.unitBytes.of_eq hx).unitBytes.of_eq hy).pair
    · rename_i hx _ _ _ _ _ hy
      exact ((h.unitBytes.of_eq hx).unitBytes.of_eq hy).pair
  · rename_i hx
    exact (h.unitBytes.of_eq hx).pair

theorem State.MemOk.texqLane {o : MemOp} {sub desc : Nat} {coords : List (Nat × List Nat)} {lane : Nat} (h : s.MemOk) :
    (s.texqLane o sub desc coords lane).1.MemOk := by
  unfold State.texqLane
  dsimp only
  split
  · split
    · rename_i hx _ _
      exact (h.unitBytes.of_eq hx).pair
    · split
      · rename_i hx _ _ _ _
        exact (h.unitBytes.of_eq hx).pair
      · rename_i hx _ _ _ _
        exact (h.unitBytes.of_eq hx).pair
      · split
        · rename_i hx _ _ _ _ _ _ _ _
          exact (h.unitBytes.of_eq hx).pair
        · split
          · rename_i hx _ _ _ _ _ _ _ _ _ _ _ _ hy
            exact ((h.unitBytes.of_eq hx).unitWalk.of_eq hy).pair
          · rename_i hx _ _ _ _ _ _ _ _ _ _ _ _ _ hy
            exact ((h.unitBytes.of_eq hx).unitWalk.of_eq hy).pair
          · rename_i hx _ _ _ _ _ _ _ _ _ _ _ hy
            exact ((h.unitBytes.of_eq hx).unitWalk.of_eq hy).pair
          · split
            · rename_i hx _ _ _ _ _ _ _ _ _ _ _ _ _ _ hy _ _ _ _
              exact ((h.unitBytes.of_eq hx).unitWalk.of_eq hy).pair
            · rename_i hx _ _ _ _ _ _ _ _ _ _ _ _ _ _ hy _ _
              exact ((h.unitBytes.of_eq hx).unitWalk.of_eq hy).pair
  · rename_i hx
    exact (h.unitBytes.of_eq hx).pair

theorem endsMemOk_texOp {m : MWord} {x : XaWord} {len : Nat} {gather : Bool} (h : s.MemOk) : EndsMemOk (texOp m x len gather s) := by
  unfold texOp
  refine endsMemOk_issue h (fun c t ht => ?_)
  dsimp only
  split
  · exact ht.precise
  · exact ht.startUnit.orOpStatus.ite ht.startUnit

theorem endsMemOk_texqOp {m : MWord} {x : XaWord} {len : Nat} (h : s.MemOk) : EndsMemOk (texqOp m x len s) := by
  unfold texqOp
  refine endsMemOk_issue h (fun c t ht => ?_)
  dsimp only
  split
  · exact ht.precise
  · exact ht.startUnit

/-! ### `Rays` -/

theorem State.MemOk.rayRead {o : MemOp} {w : Walker} {va n : Nat} (h : s.MemOk) : (s.rayRead o w va n).1.MemOk := by
  unfold State.rayRead
  split
  · rename_i hx
    exact (h.unitBytes.of_eq hx).pair

theorem State.MemOk.rayNode {o : MemOp} {w : Walker} {e : RayEntry} {r : Ray} (h : s.MemOk) : (s.rayNode o w e r).1.MemOk := by
  unfold State.rayNode
  dsimp only
  split
  · split
    · rename_i hx _ _
      exact (h.rayRead.of_eq hx).pair
    · rename_i hx _ _ _
      exact (h.rayRead.of_eq hx).pair
  · rename_i hx
    exact (h.rayRead.of_eq hx).pair

theorem State.MemOk.rayTris {o : MemOp} {w : Walker} {e : RayEntry} {r : Ray} {n : Nat} {hit : Bool} (h : s.MemOk) :
    (s.rayTris o w e r n hit).1.MemOk := by
  induction n generalizing s w hit with
  | zero => exact h
  | succ n ih =>
    unfold State.rayTris
    split
    next hs =>
      have hr := h.rayRead.of_eq hs
      split
      · exact hr.pair
      · exact hr.pair.iteFst (ih hr)
    next hs => exact (h.rayRead.of_eq hs).pair

theorem State.MemOk.rayUser {o : MemOp} {w : Walker} {e : RayEntry} {fuel idx : Nat} (h : s.MemOk) : (s.rayUser o w e fuel idx).1.MemOk := by
  induction fuel generalizing s w idx with
  | zero => exact h
  | succ fuel ih =>
    unfold State.rayUser
    split
    · exact h.pair
    · split
      next hs =>
        have hr := h.rayRead.of_eq hs
        split
        · exact hr.pair
        · split
          · exact ih hr
          · exact hr.pair.iteFst hr.pair
      next hs => exact (h.rayRead.of_eq hs).pair

theorem State.MemOk.rayInstance {o : MemOp} {w : Walker} {e : RayEntry} (h : s.MemOk) : (s.rayInstance o w e).1.MemOk := by
  unfold State.rayInstance
  split
  · split
    · rename_i hx _ _
      exact (h.rayRead.of_eq hx).pair
    · split
      · rename_i hx _ _ _ _ _ _
        exact (h.rayRead.of_eq hx).pair
      · split
        · split
          · rename_i hx _ _ _ _ _ _ _ _ _ _ hy _ _ _ _
            exact ((h.rayRead.of_eq hx).rayRead.of_eq hy).pair
          · rename_i hx _ _ _ _ _ _ _ _ _ _ hy _ _
            exact ((h.rayRead.of_eq hx).rayRead.of_eq hy).pair
        · rename_i hx _ _ _ _ _ _ _ _ _ _ _ hy
          exact ((h.rayRead.of_eq hx).rayRead.of_eq hy).pair
  · rename_i hx
    exact (h.rayRead.of_eq hx).pair

theorem State.MemOk.rayStep {o : MemOp} {w : Walker} (h : s.MemOk) : (s.rayStep o w).1.MemOk := by
  unfold State.rayStep
  dsimp only
  split
  · exact h.pair
  · split
    · exact h.pair
    · split
      · exact h.rayNode
      · split
        · rename_i hx
          exact (h.rayTris.of_eq hx).pair
        · rename_i hx
          exact (h.rayTris.of_eq hx).pair
      · exact h.pair.iteFst h.rayUser
      · exact h.rayInstance

theorem State.MemOk.rayRun {o : MemOp} {w : Walker} {fuel : Nat} (h : s.MemOk) : (s.rayRun o w fuel).1.MemOk := by
  induction fuel generalizing s w with
  | zero => exact h
  | succ fuel ih =>
    unfold State.rayRun
    split
    · exact h.pair
    · split
      next hs => exact ih (h.rayStep.of_eq hs)
      next => exact h.rayStep

theorem State.MemOk.rayStart {o : MemOp} {f64 cont begun : Bool} {hdr : Nat} {regs : List Nat} {old : Option RayState}
    {decision : Option (Bool × W64)} {log : Option LogDesc} {cost : Nat} (h : s.MemOk) :
    (s.rayStart o f64 cont begun hdr regs old decision log cost).1.MemOk := by
  unfold State.rayStart
  dsimp only
  split
  · split <;> exact h.pair
  · split
    · exact h.pair
    · split
      · split
        · rename_i hx _ _
          exact (h.rayRead.of_eq hx).pair
        · rename_i hx _ _ _ _ _
          exact (h.rayRead.of_eq hx).pair
      · rename_i hx
        exact (h.rayRead.of_eq hx).pair

theorem State.MemOk.rayEnd {o : MemOp} {lane : Nat} {w : Walker} (h : s.MemOk) : (s.rayEnd o lane w).1.MemOk := by
  unfold State.rayEnd
  dsimp only
  split
  · split
    · rename_i hx _ _ _ _
      exact ((h.unitWrites.of_eq hx).updWave.orOpStatus.ite (h.unitWrites.of_eq hx).updWave).pair
    · rename_i hx _ _ _ _ _
      exact ((h.unitWrites.of_eq hx).updWave.orOpStatus.ite (h.unitWrites.of_eq hx).updWave).pair
    · rename_i hx _ _ _ _
      exact ((h.unitWrites.of_eq hx).updWave.orOpStatus.ite (h.unitWrites.of_eq hx).updWave).pair
  · rename_i hx
    exact (h.unitWrites.of_eq hx).pair

theorem State.MemOk.rayLog {o : MemOp} {log : Nat} (h : s.MemOk) : (s.rayLog o log).1.MemOk := by
  unfold State.rayLog
  split
  · exact h.pair
  · split
    · rename_i hx
      exact (h.unitBytes.of_eq hx).pair
    · rename_i hx
      exact (h.unitBytes.of_eq hx).pair

theorem State.MemOk.travLane {o : MemOp} {f64 cont begun : Bool} {hdr log : Nat} {regs : List Nat} {helper : Bool} {decision : Option (Bool × W64)}
    {lane : Nat} (h : s.MemOk) : (s.travLane o f64 cont begun hdr log regs helper decision lane).1.MemOk := by
  unfold State.travLane
  dsimp only
  split
  · rename_i hx
    exact ((h.ite h.updWave).rayLog.of_eq hx).pair
  · split
    · rename_i hx _
      exact ((h.ite h.updWave).rayLog.of_eq hx).rayEnd
    · split
      · split
        · rename_i hx _ _ _
          exact ((h.ite h.updWave).rayLog.of_eq hx).rayEnd
        · split
          · rename_i hx
            exact ((h.ite h.updWave).rayLog.of_eq hx).rayEnd
          · split
            · rename_i hx _ _ _ hy
              exact (((h.ite h.updWave).rayLog.of_eq hx).rayStart.of_eq hy).pair
            · split
              · rename_i hx _ _ _ hy _ _ _ hz
                exact ((((h.ite h.updWave).rayLog.of_eq hx).rayStart.of_eq hy).rayRun.of_eq hz).pair
              · rename_i hx _ _ _ hy _ _ _ hz
                exact ((((h.ite h.updWave).rayLog.of_eq hx).rayStart.of_eq hy).rayRun.of_eq hz).rayEnd
      · split
        · rename_i hx _ _ _
          exact ((h.ite h.updWave).rayLog.of_eq hx).rayEnd
        · split
          · rename_i hx
            exact ((h.ite h.updWave).rayLog.of_eq hx).rayEnd
          · split
            · rename_i hx _ _ _ hy
              exact (((h.ite h.updWave).rayLog.of_eq hx).rayStart.of_eq hy).pair
            · split
              · rename_i hx _ _ _ hy _ _ _ hz
                exact ((((h.ite h.updWave).rayLog.of_eq hx).rayStart.of_eq hy).rayRun.of_eq hz).pair
              · rename_i hx _ _ _ hy _ _ _ hz
                exact ((((h.ite h.updWave).rayLog.of_eq hx).rayStart.of_eq hy).rayRun.of_eq hz).rayEnd

theorem State.MemOk.repLane {o : MemOp} {log idx lane : Nat} (h : s.MemOk) : (s.repLane o log idx lane).1.MemOk := by
  unfold State.repLane
  split
  · split
    · rename_i hx _ _
      exact (h.unitBytes.of_eq hx).pair
    · split
      · split
        · rename_i hx _ _ _ _ _ _ _ hy _
          exact ((h.unitBytes.of_eq hx).unitBytes.of_eq hy).pair
        · split
          · rename_i hx _ _ _ _ _ _ _ hy _ _ _ _ _ hz
            exact (((h.unitBytes.of_eq hx).unitBytes.of_eq hy).unitBytes.of_eq hz).pair
          · rename_i hx _ _ _ _ _ _ _ hy _ _ _ _ _ _ hz
            exact (((h.unitBytes.of_eq hx).unitBytes.of_eq hy).unitBytes.of_eq hz).pair
      · rename_i hx _ _ _ _ _ _ _ _ hy
        exact ((h.unitBytes.of_eq hx).unitBytes.of_eq hy).pair
  · rename_i hx
    exact (h.unitBytes.of_eq hx).pair

theorem endsMemOk_travOp {m : MWord} {x : XaWord} {len : Nat} (h : s.MemOk) : EndsMemOk (travOp m x len s) :=
  endsMemOk_issue h (fun _ _ ht => ht.startUnit)

theorem endsMemOk_comOp {r : RWord} {x : XaWord} {len : Nat} (h : s.MemOk) : EndsMemOk (comOp r x len s) :=
  endsMemOk_issue h (fun _ _ ht => ht.updWave.done)

theorem endsMemOk_repOp {m : MWord} {x : XaWord} {len : Nat} (h : s.MemOk) : EndsMemOk (repOp m x len s) :=
  endsMemOk_issue h (fun _ _ ht => ht.startUnit)

theorem State.MemOk.unitLane {o : MemOp} {a : Access} (h : s.MemOk) : (s.unitLane o a).1.MemOk := by
  unfold State.unitLane
  split
  · exact h.texLane
  · exact h.texqLane
  · exact h.travLane
  · exact h.repLane
  · exact h.pair

theorem State.MemOk.runUnit {id : Nat} {l : List Nat} (h : s.MemOk) : (s.runUnit id l).MemOk := by
  induction l generalizing s with
  | nil => exact h
  | cons l r ih =>
    unfold State.runUnit
    split
    · exact h
    · split
      · exact ih h
      · exact ih h.unitLane.landLane

theorem endsMemOk_execLdCompletion {op : Nat} (h : s.MemOk) : EndsMemOk (execLdCompletion op s) := by
  unfold execLdCompletion
  dsimp only
  split
  · split
    · exact endsMemOk_next (h.runUnit.ite h).advanceOp
    · exact endsMemOk_next h
  · exact endsMemOk_next h

end Sys2Proof.Machine
end

section
/-! SUPPORT. What keeps the canonical form of the memories: every instruction, every event, and the plan of a cycle. -/

open Sys2Proof

namespace Sys2Proof.Machine

variable {s : State}

/-- An event. -/
theorem endsMemOk_run {e : Event} (h : s.MemOk) : EndsMemOk (e.run s) := by
  unfold Event.run
  cases e with
  | queueNop => exact endsMemOk_execQueueNop h
  | launch => exact endsMemOk_execLaunch h
  | wait => exact endsMemOk_execWait h
  | waitPoll => exact endsMemOk_execWaitPoll h
  | signal => exact endsMemOk_execSignal h
  | graphload => exact endsMemOk_execGraphload h
  | qtailWrite => exact endsMemOk_execQtailWrite h
  | qerrStopWrite => exact endsMemOk_execQerrStopWrite h
  | qpassWrite => exact endsMemOk_execQpassWrite h
  | triggerWrite => exact endsMemOk_execTriggerWrite h
  | registerWrite => exact endsMemOk_execRegisterWrite h
  | load => exact endsMemOk_execLoad h
  | unload => exact endsMemOk_execUnload h
  | attest => exact endsMemOk_execAttest h
  | fwreload => exact endsMemOk_execFwreload h
  | mailboxRequestEnd => exact endsMemOk_execMailboxRequestEnd h
  | faultReply => exact endsMemOk_execFaultReply h
  | haltedWrite => exact endsMemOk_execHaltedWrite h
  | pwrcfgWrite => exact endsMemOk_execPwrcfgWrite h
  | rampWrite => exact endsMemOk_execRampWrite h
  | railselWrite => exact endsMemOk_execRailselWrite h
  | domtabWrite => exact endsMemOk_execDomtabWrite h
  | apertureAccess => exact endsMemOk_execApertureAccess h
  | tenantApertureAccess => exact endsMemOk_execTenantApertureAccess h
  | packageReset => exact endsMemOk_execPackageReset h
  | functionLevelReset => exact endsMemOk_execFunctionLevelReset h
  | fatalError => exact endsMemOk_execFatalError h
  | stateDumpComplete => exact endsMemOk_execStateDumpComplete h
  | peerLinkState => exact endsMemOk_execPeerLinkState h
  | dieHalt => exact endsMemOk_execDieHalt h
  | launchPlacement => exact endsMemOk_execLaunchPlacement h
  | groupAdmission => exact endsMemOk_execGroupAdmission h
  | taskStart => exact endsMemOk_execTaskStart h
  | taskSteal => exact endsMemOk_execTaskSteal h
  | forkPush => exact endsMemOk_execForkPush h
  | taskJoinDecrement => exact endsMemOk_execTaskJoinDecrement h
  | joinWake => exact endsMemOk_execJoinWake h
  | launchCompletion => exact endsMemOk_execLaunchCompletion h
  | preemptVictimChoice => exact endsMemOk_execPreemptVictimChoice h
  | launchDue => exact endsMemOk_execLaunchDue h
  | protectionEnd => exact endsMemOk_execProtectionEnd h
  | forcedSave => exact endsMemOk_execForcedSave h
  | victimRelease => exact endsMemOk_execVictimRelease h
  | launchRestore => exact endsMemOk_execLaunchRestore h
  | claimGrant => exact endsMemOk_execClaimGrant h
  | claimAging => exact endsMemOk_execClaimAging h
  | claimDeadlock => exact endsMemOk_execClaimDeadlock h
  | confTimeout => exact endsMemOk_execConfTimeout h
  | missSplit => exact endsMemOk_execMissSplit h
  | fusefail => exact endsMemOk_execFusefail h
  | barrierPhaseComplete => exact endsMemOk_execBarrierPhaseComplete h
  | rbarLocalCompletion => exact endsMemOk_execRbarLocalCompletion h
  | rbarReport => exact endsMemOk_execRbarReport h
  | rbarGlobalCompletion => exact endsMemOk_execRbarGlobalCompletion h
  | sleepWake => exact endsMemOk_execSleepWake h
  | pwaitWake => exact endsMemOk_execPwaitWake h
  | pageWalkComplete => exact endsMemOk_execPageWalkComplete h
  | ldCompletion => exact endsMemOk_execLdCompletion h
  | stCompletion => exact endsMemOk_execStCompletion h
  | sliceRequest => exact endsMemOk_execSliceRequest h
  | pinTimeout => exact endsMemOk_execPinTimeout h
  | queueEnqueueRequest => exact endsMemOk_execQueueEnqueueRequest h
  | queueDequeueRequest => exact endsMemOk_execQueueDequeueRequest h
  | channelMessageArrival => exact endsMemOk_execChannelMessageArrival h
  | channelCreditReturn => exact endsMemOk_execChannelCreditReturn h
  | bankDrowsy => exact endsMemOk_execBankDrowsy h
  | bankWakeComplete => exact endsMemOk_execBankWakeComplete h
  | tcopyComplete => exact endsMemOk_execTcopyComplete h
  | coopMmaRelease => exact endsMemOk_execCoopMmaRelease h
  | mmaKstepDelivery => exact endsMemOk_execMmaKstepDelivery h
  | mmaComplete => exact endsMemOk_execMmaComplete h
  | mmzComplete => exact endsMemOk_execMmzComplete h
  | slewStep => exact endsMemOk_execSlewStep h
  | pacSustainedStrike => exact endsMemOk_execPacSustainedStrike h
  | voltageInterval => exact endsMemOk_execVoltageInterval h
  | gatingStart => exact endsMemOk_execGatingStart h
  | gatingCommit => exact endsMemOk_execGatingCommit h
  | clusterAwake => exact endsMemOk_execClusterAwake h
  | setupBinning => exact endsMemOk_execSetupBinning h
  | primitiveRecord => exact endsMemOk_execPrimitiveRecord h
  | watermark => exact endsMemOk_execWatermark h
  | watermarkSend => exact endsMemOk_execWatermarkSend h
  | rasteriseRecord => exact endsMemOk_execRasteriseRecord h
  | fragmentCommit => exact endsMemOk_execFragmentCommit h
  | divergenceHistoryUpdate => exact endsMemOk_execDivergenceHistoryUpdate h
  | allowanceUpdate => exact endsMemOk_execAllowanceUpdate h
  | joinReread => exact endsMemOk_execJoinReread h
  | debugInterfaceAccess => exact endsMemOk_execDebugInterfaceAccess h

/-- An instruction: each is the issue of an effect that keeps the memories, by itself or by the shape of its group. -/
theorem endsMemOk_exec {i : Instr} (h : s.MemOk) (hwords : encode i ≠ []) : EndsMemOk (exec i s) := by
  cases i
  case nop | nopXi | winb => exact endsMemOk_partOp h
  case jmp | ret => exact endsMemOk_registerJump h
  case sadd | ssub | smul | smulh | sand | sor | sxor | sshl | sshr | ssar | smin | smax | smov | smovi | smovh | scmp | ssel =>
    exact endsMemOk_uniformOp h
  case sldExt | sstExt => exact endsMemOk_uniformAccess h
  case iadd | iaddExt | isub | isubExt | imul | imulExt | imulh | imulhExt | imad | imin | iminExt | imax | imaxExt | iabs | iabsExt | and |
      andExt | or | orExt | xor | xorExt | andn | andnExt | shl | shlExt | shr | shrExt | sar | sarExt | popc | popcExt | clz | clzExt |
      brev | brevExt | bfe | bfeExt | bfi | sel | mov | movExt | movi | moviXi | iscadd | iscaddExt | fadd | faddExt | fsub | fsubExt |
      fmul | fmulExt | ffma | fmin | fminExt | fmax | fmaxExt | frcp | frcpExt | frsq | frsqExt | fsqrt | fsqrtExt | fdiv | fdivExt |
      fexp2 | fexp2Ext | flog2 | flog2Ext | fsin | fsinExt | fcos | fcosExt | frnd | frndExt | fclass | fclassExt | fscale | fscaleExt |
      pack | packExt | unpack | unpackExt =>
    exact endsMemOk_vectorOp h
  case icmp | icmpExt | fcmp | fcmpExt => exact endsMemOk_predicateOp h
  case amax | amaxExt => exact endsMemOk_amaxOp h
  case shfl | shflExt => exact endsMemOk_shuffle h
  case vote | voteExt => exact endsMemOk_voteOp h
  case redu | reduExt | scan | scanExt => exact endsMemOk_reduceOp h
  case rdlane | rdlaneExt => exact endsMemOk_readLane h
  case ddx | ddxExt | ddy | ddyExt => exact endsMemOk_derivative h
  case qperm | qpermExt => exact endsMemOk_quadPermute h
  case ld | ldExt => exact endsMemOk_loadGlobal h
  case st | stExt => exact endsMemOk_storeGlobal h
  case ldl | ldlExt => exact endsMemOk_loadScratch h
  case stl | stlExt => exact endsMemOk_storeScratch h
  case atom | atomExt => exact endsMemOk_atomGlobal h
  case atoml | atomlExt => exact endsMemOk_atomScratch h
  case cctl | cctlExt => exact endsMemOk_cacheControl h
  case pfetch | pfetchExt => exact endsMemOk_prefetch h
  case bar | barExt => exact endsMemOk_fullBarrier h
  case rbar | rbarExt => exact endsMemOk_rectBarrier h
  case tex | texExt | texg | texgExt => exact endsMemOk_texOp h
  case texq | texqExt => exact endsMemOk_texqOp h
  case ipa | ipaExt => exact endsMemOk_ipaOp h
  case kill | killExt => exact endsMemOk_killOp h
  case pout | poutExt => exact endsMemOk_poutOp h
  case rtrav | rtravExt => exact endsMemOk_travOp h
  case rtcom | rtcomExt => exact endsMemOk_comOp h
  case rtrep | rtrepExt => exact endsMemOk_repOp h
  case bra => exact endsMemOk_execBra h
  case brp => exact endsMemOk_execBrp h
  case bru => exact endsMemOk_execBru h
  case call => exact endsMemOk_execCall h
  case conf => exact endsMemOk_execConf h
  case fuse => exact endsMemOk_execFuse h
  case exit => exact endsMemOk_execExit h
  case entry => exact endsMemOk_execEntry h
  case gcall => exact endsMemOk_execGcall h
  case gret => exact endsMemOk_execGret h
  case gentry => exact endsMemOk_execGentry h
  case trap => exact endsMemOk_execTrap h
  case brk => exact endsMemOk_execBrk h
  case sleep => exact endsMemOk_execSleep h
  case sleepat => exact endsMemOk_execSleepat h
  case pwait => exact endsMemOk_execPwait h
  case phint => exact endsMemOk_execPhint h
  case region => exact endsMemOk_execRegion h
  case tret => exact endsMemOk_execTret h
  case sld => exact endsMemOk_execSld h
  case sst => exact endsMemOk_execSst h
  case cvt => exact endsMemOk_convertOp h
  case cvtq => exact endsMemOk_execCvtq h
  case cvtd => exact endsMemOk_execCvtd h
  case wrlane => exact endsMemOk_execWrlane h
  case fence => exact endsMemOk_execFence h
  case tcopy => exact endsMemOk_execTcopy h
  case mma => exact endsMemOk_execMma h
  case mmz => exact endsMemOk_execMmz h
  case tkacq => exact endsMemOk_execTkacq h
  case tkrel => exact endsMemOk_execTkrel h
  case accrd => exact endsMemOk_execAccrd h
  case accwr => exact endsMemOk_execAccwr h
  case waitc => exact endsMemOk_execWaitc h
  case bara => exact endsMemOk_execBara h
  case barw => exact endsMemOk_execBarw h
  case regrel => exact endsMemOk_execRegrel h
  case regclm => exact endsMemOk_execRegclm h
  case chsend => exact endsMemOk_execChsend h
  case chrecv => exact endsMemOk_execChrecv h
  case qenq => exact endsMemOk_queueOp h
  case qdeq => exact endsMemOk_execQdeq h
  case fork => exact endsMemOk_execFork h
  case join => exact endsMemOk_execJoin h
  case mvtx => exact endsMemOk_execMvtx h
  case mprim => exact endsMemOk_execMprim h
  case srget => exact endsMemOk_execSrget h
  case srset => exact endsMemOk_execSrset h
  case tlbi => exact endsMemOk_execTlbi h
  case hsig => exact endsMemOk_execHsig h
  all_goals exact absurd rfl hwords -- an event has no words

theorem State.MemOk.noteGives {c : Ctx} {i : Instr} (h : s.MemOk) : (s.noteGives c i).MemOk := by
  unfold State.noteGives
  dsimp only
  split
  · exact h
  · split
    · split
      · exact h
      · exact h.updPart
    · exact h

theorem EndsMemOk.thenNext {o : Out} {f : State → State} (ho : EndsMemOk o) (hf : ∀ t, t.MemOk → (f t).MemOk) : EndsMemOk (thenNext o f) := by
  cases o with
  | next t => exact endsMemOk_next (hf t (ho t rfl))
  | fault r => exact endsMemOk_fault r
  | refused r => exact fun _ ht => nomatch ht

theorem endsMemOk_issueTurn {r : PartRef} (h : s.MemOk) : EndsMemOk (s.issueTurn r) := by
  unfold State.issueTurn
  extract_lets u
  have hu : u.MemOk := h.beginTurn
  split
  · exact endsMemOk_next hu
  · split
    next hx =>
      obtain ⟨-, bs, hdec⟩ := fetch_eq_instr hx
      exact (endsMemOk_exec (hu.fetch.of_eq hx) (wellFormed_of_decodeBytes hdec).2).thenNext fun _ ht => ht.noteGives
    next hx => exact endsMemOk_execReservedOpcode (hu.fetch.of_eq hx)
    next hx => exact endsMemOk_next (hu.fetch.of_eq hx).illegalWord
    next hx => exact endsMemOk_next (hu.fetch.of_eq hx).parkOn
    · exact endsMemOk_execInstructionFetchFault hu
    · exact endsMemOk_execInstructionFetchFault hu

theorem State.MemOk.takePipe {c : Cand} (h : s.MemOk) : (s.takePipe c).MemOk := by
  unfold State.takePipe
  dsimp only
  split
  · exact h.updCluster.updCore
  · exact h.updCluster.updCore
  · exact h.updCluster

theorem State.MemOk.noteServed (h : s.MemOk) : s.noteServed.MemOk := by
  unfold State.noteServed
  dsimp only
  split <;> exact h

theorem State.MemOk.nextCycle (h : s.MemOk) : s.nextCycle.MemOk := by
  unfold State.nextCycle
  extract_lets u1 u2 u3 u4
  have h1 : u1.MemOk := h.returnLate
  have h3 : u3.MemOk := h1
  have h4 : u4.MemOk := h3.foldl fun _ _ ht => ht.gatingTick
  exact h4.landBacks.noteGating.landFills.landPosts.landPrefetches.landFailures.refillAll

theorem State.MemOk.withEvents {es : List Event} (h : s.MemOk) : (s.withEvents es).MemOk := h

theorem State.MemOk.plan (h : s.MemOk) : s.plan.MemOk := by
  unfold State.plan
  split
  · split
    · exact h
    · split
      · extract_lets u
        have hu : u.MemOk := h.settlePaths
        split
        · exact (hu.withEvents (es := u.limitEvents)).noteServed
        · exact hu
      · exact h.withEvents
      · exact h.withEvents
  · extract_lets cs
    exact h.foldl (l := cs) (f := State.takePipe) fun _ _ ht => ht.takePipe
  · exact h.settlePaths
  · split
    · extract_lets u
      have hu : u.MemOk := h.settlePaths
      exact hu.withEvents (es := u.closeEvents)
    · exact h.withEvents
    · exact h.withEvents
    · exact h.withEvents
  · exact h.nextCycle

theorem State.MemOk.agentWrite {src unit pa : Nat} {bytes : List Byte} (h : s.MemOk) : (s.agentWrite src unit pa bytes).MemOk := by
  unfold State.agentWrite
  dsimp only
  split
  · exact h.putLong
  · exact h.refuseAll

theorem endsMemOk_takeInput {i : Input} (h : s.MemOk) : EndsMemOk (s.takeInput i) := by
  unfold State.takeInput
  split
  · exact endsMemOk_run h
  · exact endsMemOk_next h.agentWrite
  · exact endsMemOk_next h.countCorrected
  · exact endsMemOk_next h.tlbDiscard
  · exact endsMemOk_next (h.updPkg.ite h)
  · exact endsMemOk_next (.ite (h.setSched (wf_writeBytes _ _ _ h.sched)) h)
  · exact endsMemOk_next h.eccHit

theorem endsMemOk_runTurn {u : Turn} (h : s.MemOk) : EndsMemOk (s.runTurn u) := by
  unfold State.runTurn
  split
  · exact endsMemOk_issueTurn h
  · exact endsMemOk_run h
  · exact endsMemOk_takeInput h

theorem endsMemOk_step (h : s.MemOk) : EndsMemOk (step s) := by
  unfold step
  split
  · exact endsMemOk_next h.plan
  · exact endsMemOk_runTurn h

end Sys2Proof.Machine
end

section
/-! SUPPORT. The statement about the memories' canonical form. -/

open Sys2Proof Sys2Proof.Machine

/-- Settles O59: the turn of a step and the plan that follows the last one write the memories by `writeBytes` and `clearRange` alone. -/
theorem stepKeepsMemory : Obligations.StepKeepsMemory := by
  unfold Obligations.StepKeepsMemory
  exact fun s t h hstep => endsMemOk_step h t hstep

end

section
/-! SUPPORT. The scratch instructions (07 R177; 19 R402; 20 R447; 22 R496): what the run of their lanes changes, and the operation that the part counts. -/

open Sys2Proof

namespace Sys2Proof.Machine

/-! ### The lanes of a scratch instruction -/

theorem scratchTrap_of_ok {area size : Nat} {offs : List Nat} (h : ∀ o ∈ offs, o + size ≤ area ∧ o % size = 0) : scratchTrap area size offs = none := by
  have hbound : offs.find? (fun o => decide (area < o + size)) = none :=
    List.find?_eq_none.mpr (fun o ho => by simpa using (h o ho).1)
  have halign : offs.find? (fun o => o % size != 0) = none :=
    List.find?_eq_none.mpr (fun o ho => by simpa using (h o ho).2)
  rw [scratchTrap, hbound]
  dsimp only
  rw [halign]

/-- Nothing differs but scratch, and the lines of it that groups count as written. -/
structure ScratchOnly (s t : State) : Prop where
  eq : t = { s with scratch := t.scratch, groups := t.groups }

theorem ScratchOnly.refl (s : State) : ScratchOnly s s := ⟨rfl⟩
theorem ScratchOnly.trans {s t u : State} (h : ScratchOnly s t) (h' : ScratchOnly t u) : ScratchOnly s u := ⟨by rw [h'.eq, h.eq]⟩
theorem ScratchOnly.wave? {s t : State} (h : ScratchOnly s t) (k : Nat) : t.wave? k = s.wave? k := by rw [h.eq]; rfl

theorem scratchWrite_scratch (s : State) (c : Ctx) (off : Nat) (bytes : List Byte) :
    (s.scratchWrite c off bytes).scratch = writeBytes s.scratch (scratchKey c.ref.core (c.scratchArea.1 + off)) bytes := by
  rw [State.scratchWrite, State.writeScratch, State.updGroup_scratch]

theorem scratchOnly_scratchWrite (s : State) (c : Ctx) (off : Nat) (bytes : List Byte) : ScratchOnly s (s.scratchWrite c off bytes) := by
  refine ⟨?_⟩
  unfold State.scratchWrite State.writeScratch
  dsimp only
  rw [State.updGroup_eq]

/-- One lane of a scratch instruction, and what the lanes before it have done. -/
def scratchStep (c : Ctx) (lane : Ctx → Nat → Nat → State → State × Option Access) (acc : State × List Access) (e : Nat × Nat) : State × List Access :=
  match lane c e.1 e.2 acc.1 with
  | (s, some a) => (s, acc.2 ++ [a])
  | (s, none) => (s, acc.2)

theorem scratchStep_state (c : Ctx) (lane : Ctx → Nat → Nat → State → State × Option Access) (acc : State × List Access) (e : Nat × Nat) :
    (scratchStep c lane acc e).1 = (lane c e.1 e.2 acc.1).1 := by
  unfold scratchStep
  split
  next hl => rw [hl]
  next hl => rw [hl]

theorem scratchSteps_only {c : Ctx} {lane : Ctx → Nat → Nat → State → State × Option Access} (honly : ∀ l off t, ScratchOnly t (lane c l off t).1)
    (offs : List (Nat × Nat)) (s : State) : ScratchOnly s (offs.foldl (scratchStep c lane) (s, [])).1 := by
  refine List.foldlRecOn (motive := fun (y : State × List Access) => ScratchOnly s y.1) offs _ (.refl s) (fun y hy e _ => ?_)
  exact scratchStep_state c lane y e ▸ hy.trans (honly ..)

/-- Scratch bytes that no lane writes stay. -/
theorem scratchSteps_readByte {c : Ctx} {lane : Ctx → Nat → Nat → State → State × Option Access} {offs : List (Nat × Nat)} {a : Nat}
    (hlane : ∀ e ∈ offs, ∀ t, readByte (lane c e.1 e.2 t).1.scratch a = readByte t.scratch a) (s : State) :
    readByte (offs.foldl (scratchStep c lane) (s, [])).1.scratch a = readByte s.scratch a := by
  refine List.foldlRecOn (motive := fun (y : State × List Access) => readByte y.1.scratch a = readByte s.scratch a) offs _ rfl (fun y hy e he => ?_)
  rw [scratchStep_state, hlane e he, hy]

/-- A lane that is not live changes no state: the run is that of the live ones. -/
theorem scratchSteps_live {c : Ctx} {lane : Ctx → Nat → Nat → State → State × Option Access} {live : Nat → Bool}
    (hidle : ∀ l off t, live l = false → (lane c l off t).1 = t) (offs : List (Nat × Nat)) (y : State × List Access) :
    (offs.foldl (scratchStep c lane) y).1 = (offs.filter (fun e => live e.1)).foldl (fun t e => (lane c e.1 e.2 t).1) y.1 := by
  induction offs generalizing y with
  | nil => rfl
  | cons e r ih =>
    rw [List.foldl_cons, ih, scratchStep_state, List.filter_cons]
    split
    · rfl
    · next hlive => rw [hidle _ _ _ (by simpa using hlive)]

/-! ### The operation that the part counts -/

/-- The part of `c` counts the new operation in `t`; its registers are as in `s`. -/
def Counts (c : Ctx) (s t : State) (cls : Cls) : Prop :=
  ∃ w p, t.wave? c.ref.key = some w ∧ w.part? c.ref.base = some p ∧ SameVregs c.wave w ∧ p.regs = c.part.regs
    ∧ p.opsOf cls = c.part.opsOf cls ++ [s.nextId]

theorem newOp_counts {s u : State} {c : Ctx} (hi : s.issuing = some c) (hu : ScratchOnly s u) (cls : Cls) (kind : OpKind) (len ord scope sub : Nat)
    (accs : List Access) (due : Nat) : Counts c s (u.newOp c cls kind len ord scope sub accs due).1 cls := by
  have hnext : u.nextId = s.nextId := by rw [hu.eq]
  have hwave : ∀ ops, ({ u with ops := ops, nextId := u.nextId + 1 } : State).wave? c.ref.key = some c.wave :=
    fun _ => (hu.wave? _).trans (issuing_wave hi)
  have hbase : ∀ p, (countOp cls u.nextId ord p).base = p.base := fun p => (addOp_keeps p cls _).1
  refine ⟨_, _, wave?_updWave_some (hwave _) _, part?_updPart_some (issuing_part hi) _ hbase, ⟨rfl, rfl⟩, (addOp_keeps c.part cls _).2, ?_⟩
  rw [← hnext]
  exact (by cases cls <;> rfl : (countOp cls u.nextId ord c.part).opsOf cls = (c.part.addOp cls u.nextId).opsOf cls).trans (addOp_opsOf ..)

theorem Counts.beginRegion {c : Ctx} {s t : State} {cls : Cls} (h : Counts c s t cls) (a : W64) (counted : Bool) :
    Counts c s (t.beginRegion c.ref a counted) cls := by
  obtain ⟨w, p, hw, hp, hvregs, hregs, hops⟩ := h
  obtain ⟨v, hv, hsame, hq⟩ := beginRegion_wave hw hp a counted
  exact ⟨v, _, hv, hq, ⟨hsame.1.trans hvregs.1, hsame.2.trans hvregs.2⟩, hregs, by cases cls <;> exact hops⟩

/-- What a scratch instruction leaves: nothing but scratch, operations and the wave of the part differs, and the part has moved on behind it. -/
structure ScratchDone (c : Ctx) (s t : State) (cls : Cls) (len : Nat) : Prop where
  frame : t = { s with scratch := t.scratch, groups := t.groups, ops := t.ops, nextId := s.nextId + 1, waves := t.waves }
  part : ∃ w p, t.wave? c.ref.key = some w ∧ w.part? c.ref.base = some p ∧ SameVregs c.wave w ∧ p.regs = c.part.regs
    ∧ p.opsOf cls = c.part.opsOf cls ++ [s.nextId] ∧ p.pc = c.next len

theorem Counts.done {c : Ctx} {s t : State} {cls : Cls} (h : Counts c s t cls)
    (hframe : t = { s with scratch := t.scratch, groups := t.groups, ops := t.ops, nextId := s.nextId + 1, waves := t.waves }) (len : Nat) :
    ScratchDone c s (t.done c len) cls len := by
  obtain ⟨w, p, hw, hp, hvregs, hregs, hops⟩ := h
  refine ⟨?_, _, _, wave?_updWave_some hw _, part?_updPart_some hp _ (fun _ => rfl), hvregs, hregs, by cases cls <;> exact hops, rfl⟩
  rw [(onlyWave_done c t len).state, hframe]

section
variable {m : MWord} {x : XmWord} {cls : Cls} {data : Vop} {s : State} {c : Ctx}

/-- A scratch instruction that nothing holds back: its lanes run, and its operation holds what they read. -/
theorem scratchOp_done (hi : s.issuing = some c) (h : ScratchReady m x cls data s c) (len : Nat) (kind : Ctx → OpKind)
    {lane : Ctx → Nat → Nat → State → State × Option Access} (honly : ∀ l off t, ScratchOnly t (lane c l off t).1) {after : Ctx → State → State}
    (hafter : after = (fun _ t => t) ∨ after = fun c t => t.beginRegion c.ref (c.next len) true) :
    ∃ t o, scratchOp m x len cls data kind lane after s = .next t ∧ ScratchDone c s t cls len
      ∧ t.scratch = ((laneOffs c m x).foldl (scratchStep c lane) (s, [])).1.scratch
      ∧ o ∈ t.ops ∧ o.id = s.nextId
      ∧ o.accs.map (fun a => (a.lane, a.data)) = ((laneOffs c m x).foldl (scratchStep c lane) (s, [])).2.map (fun a => (a.lane, a.data)) := by
  have hu := scratchSteps_only honly (laneOffs c m x) s
  set r := (laneOffs c m x).foldl (scratchStep c lane) (s, []) with hr
  set due := s.dcc + 13 + bankCycles ((laneOffs c m x).map Prod.snd) with hdue
  set new := r.1.newOp c cls (kind c) len x.ord.toNat x.scope.toNat x.sub.toNat (r.2.map (fun a => { a with phase := .done, due := due })) due with hnew
  have hnext : scratchOp m x len cls data kind lane after s = .next ((after c new.1).done c len) := by
    refine Eq.trans (issue_next _ _ c s hi (by simp) rfl h.operands h.free) ?_
    dsimp only
    rw [fullReleaseWait_of_ready h.release]
    dsimp only
    rw [show scratchTrap c.scratchArea.2 (szBytes x.sz) (((lanesOf (c.xmActive x)).map (fun l => (l, c.scratchOff m x.off l))).map Prod.snd) = none from
      scratchTrap_of_ok h.offsets]
    rfl
  have hcounts : Counts c s new.1 cls := newOp_counts hi hu ..
  have hframe : new.1 = { s with scratch := new.1.scratch, groups := new.1.groups, ops := new.1.ops, nextId := s.nextId + 1, waves := new.1.waves } := by
    rw [hnew, State.newOp, State.updPart_eq]
    dsimp only
    rw [hu.eq]
  have hops : new.2 ∈ new.1.ops := by
    rw [hnew, State.newOp, State.updPart_ops]
    exact List.mem_append_right _ (List.mem_singleton_self _)
  have hid : new.2.id = s.nextId := (congrArg State.nextId hu.eq :)
  have haccs : new.2.accs.map (fun a => (a.lane, a.data)) = r.2.map (fun a => (a.lane, a.data)) := by
    rw [hnew, State.newOp, List.map_map]
    rfl
  have hscratch : new.1.scratch = r.1.scratch := by rw [hnew, State.newOp, State.updPart_scratch]
  rcases hafter with rfl | rfl
  · exact ⟨_, new.2, hnext, hcounts.done hframe len, by rw [State.done_scratch, hscratch], by rwa [State.done_ops], hid, haccs⟩
  · refine ⟨_, new.2, hnext, (hcounts.beginRegion _ _).done ?_ len, by rw [State.done_scratch, State.beginRegion_scratch, hscratch],
      by rwa [State.done_ops, State.beginRegion_ops], hid, haccs⟩
    rw [(onlyWave_beginRegion c new.1 (c.next len) true).state]
    dsimp only
    rw [hframe]

/-! ### The lanes of `ldl`, `stl` and `atoml` -/

/-- A lane of `ldl`. -/
def loadLane (x : XmWord) (c : Ctx) (l off : Nat) (s : State) : State × Option Access :=
  (s, some (newAccess l off (szBytes x.sz) 0 0 (s.scratchRead c off (szBytes x.sz)) []))

/-- A lane of `stl`: a helper lane stores nothing. -/
def storeLane (m : MWord) (x : XmWord) (c : Ctx) (l off : Nat) (s : State) : State × Option Access :=
  if c.wave.helper.getLsbD l then (s, none) else (s.scratchWrite c off (bytesOfNat (szBytes x.sz) (c.vec l (mData m.d x.sz) 0 0)), none)

/-- What a lane of `atoml` leaves at its offset. -/
def atomLeaves (m : MWord) (x : XmWord) (c : Ctx) (l off : Nat) (s : State) : List Byte :=
  let b := atomBytes c (atomData m.d x) x l
  bytesOfNat (szBytes x.sz)
    (atomNew x.sub.toNat (8 * szBytes x.sz) (natOfBytes (s.scratchRead c off (szBytes x.sz))) (natOfBytes b.1) (natOfBytes b.2))

/-- A lane of `atoml`: a helper lane changes nothing and returns 0. -/
def atomLane (m : MWord) (x : XmWord) (c : Ctx) (l off : Nat) (s : State) : State × Option Access :=
  if c.wave.helper.getLsbD l then (s, if m.nr then none else some (newAccess l off (szBytes x.sz) 0 0 (bytesOfNat (szBytes x.sz) 0) []))
  else (s.scratchWrite c off (atomLeaves m x c l off s),
    if m.nr then none else some (newAccess l off (szBytes x.sz) 0 0 (s.scratchRead c off (szBytes x.sz)) []))

theorem loadSteps (x : XmWord) (c : Ctx) (offs : List (Nat × Nat)) (s : State) (as : List Access) :
    offs.foldl (scratchStep c (loadLane x)) (s, as)
      = (s, as ++ offs.map (fun e => newAccess e.1 e.2 (szBytes x.sz) 0 0 (s.scratchRead c e.2 (szBytes x.sz)) [])) := by
  induction offs generalizing as with
  | nil => simp
  | cons e r ih => simp [scratchStep, loadLane, ih]

theorem storeLane_state (m : MWord) (x : XmWord) (c : Ctx) (l off : Nat) (s : State) : (storeLane m x c l off s).1
    = if c.wave.helper.getLsbD l then s else s.scratchWrite c off (bytesOfNat (szBytes x.sz) (c.vec l (mData m.d x.sz) 0 0)) := by
  unfold storeLane
  split <;> rfl

theorem atomLane_state (m : MWord) (x : XmWord) (c : Ctx) (l off : Nat) (s : State) :
    (atomLane m x c l off s).1 = if c.wave.helper.getLsbD l then s else s.scratchWrite c off (atomLeaves m x c l off s) := by
  unfold atomLane
  split <;> rfl

/-- A write of scratch that a helper lane does not make. -/
theorem scratchOnly_unlessHelper (helper : Bool) (s : State) (c : Ctx) (off : Nat) (bytes : List Byte) :
    ScratchOnly s (if helper then s else s.scratchWrite c off bytes) := by
  split
  · exact .refl s
  · exact scratchOnly_scratchWrite ..

theorem readByte_scratchWrite_outside {s : State} {c : Ctx} {off a : Nat} {bytes : List Byte}
    (h : a < scratchKey c.ref.core (c.scratchArea.1 + off) ∨ scratchKey c.ref.core (c.scratchArea.1 + off) + bytes.length ≤ a) :
    readByte (s.scratchWrite c off bytes).scratch a = readByte s.scratch a := by
  rw [scratchWrite_scratch, readByte_writeBytes_outside _ _ _ _ h]

theorem readBytes_scratchWrite {s : State} {c : Ctx} {off n : Nat} {bytes : List Byte} (h : bytes.length = n) :
    readBytes (s.scratchWrite c off bytes).scratch (scratchKey c.ref.core (c.scratchArea.1 + off)) n = bytes := by
  rw [scratchWrite_scratch, ← h, readBytes_writeBytes]

end

section
variable {m : MWord} {x : XmWord} {s : State} {c : Ctx}

theorem loadScratch_done (hi : s.issuing = some c) (h : ScratchReady m x .ld (mData m.d x.sz) s c) (len : Nat) :
    ∃ t, loadScratch m x len s = .next t ∧ ScratchDone c s t .ld len ∧ t.scratch = s.scratch ∧ ∃ o ∈ t.ops, o.id = s.nextId
      ∧ o.accs.map (fun a => (a.lane, a.data))
        = (laneOffs c m x).map (fun e => (e.1, readBytes s.scratch (scratchKey c.ref.core (c.scratchArea.1 + e.2)) (szBytes x.sz))) := by
  obtain ⟨t, o, ht, hdone, hscratch, ho, hid, haccs⟩ := scratchOp_done hi h len
    (fun c => .scratchLoad c.part.depth ((mData m.d x.sz).reg c.wb 0 0) (mData m.d x.sz).unit) (lane := loadLane x) (fun _ _ t => .refl t) (.inl rfl)
  rw [loadSteps] at hscratch haccs
  refine ⟨t, ht, hdone, hscratch, o, ho, hid, haccs.trans ?_⟩
  rw [List.nil_append, List.map_map]
  rfl

theorem storeScratch_done (hi : s.issuing = some c) (h : ScratchReady m x .st (mData m.d x.sz) s c) (len : Nat) :
    let stores := (laneOffs c m x).filter (fun e => !c.wave.helper.getLsbD e.1)
    let key := fun off => scratchKey c.ref.core (c.scratchArea.1 + off)
    ∃ t, storeScratch m x len s = .next t ∧ ScratchDone c s t .st len
      ∧ (∀ l off, stores = [(l, off)] → readBytes t.scratch (key off) (szBytes x.sz) = bytesOfNat (szBytes x.sz) (c.vec l (mData m.d x.sz) 0 0))
      ∧ ∀ a, (∀ e ∈ stores, a < key e.2 ∨ key e.2 + szBytes x.sz ≤ a) → readByte t.scratch a = readByte s.scratch a := by
  intro stores key
  obtain ⟨t, -, ht, hdone, hscratch, -⟩ := scratchOp_done hi h len (fun _ => .scratchStore) (lane := storeLane m x)
    (fun l off t => storeLane_state m x c l off t ▸ scratchOnly_unlessHelper ..) (.inl rfl)
  refine ⟨t, ht, hdone, fun l off hone => ?_, fun a ha => ?_⟩
  · have hmem : (l, off) ∈ stores := hone ▸ List.mem_singleton_self (l, off)
    have hhelper : c.wave.helper.getLsbD l = false := by simpa only [Bool.not_eq_true'] using (List.mem_filter.mp hmem).2
    rw [hscratch, scratchSteps_live (live := fun l => !c.wave.helper.getLsbD l) (fun l off t hl => by rw [storeLane_state, if_pos (by simpa using hl)]),
      show (laneOffs c m x).filter _ = _ from hone, List.foldl_cons, List.foldl_nil, storeLane_state, hhelper]
    exact readBytes_scratchWrite (bytesOfNat_length ..)
  · rw [hscratch]
    refine scratchSteps_readByte (fun e he t => ?_) s
    rw [storeLane_state]
    split
    · rfl
    · next hhelper =>
      refine readByte_scratchWrite_outside ?_
      rw [bytesOfNat_length]
      exact ha e (List.mem_filter.mpr ⟨he, by simpa using hhelper⟩)

theorem atomScratch_done (hi : s.issuing = some c) (h : ScratchReady m x (if m.nr then .st else .ld) (atomData m.d x) s c) (len : Nat) :
    let key := fun off => scratchKey c.ref.core (c.scratchArea.1 + off)
    ∃ t, atomScratch m x len s = .next t ∧ ScratchDone c s t (if m.nr then .st else .ld) len
      ∧ (∀ l off, laneOffs c m x = [(l, off)] → c.wave.helper.getLsbD l = false → readBytes t.scratch (key off) (szBytes x.sz) = atomLeaves m x c l off s)
      ∧ ∀ a, (∀ e ∈ laneOffs c m x, a < key e.2 ∨ key e.2 + szBytes x.sz ≤ a) → readByte t.scratch a = readByte s.scratch a := by
  intro key
  obtain ⟨t, -, ht, hdone, hscratch, -⟩ := scratchOp_done hi h len
    (fun c => .scratchAtom (if m.nr then none else some (c.part.depth, (atomData m.d x).reg c.wb 0 0))) (lane := atomLane m x)
    (fun l off t => atomLane_state m x c l off t ▸ scratchOnly_unlessHelper ..) (.inr rfl)
  refine ⟨t, ht, hdone, fun l off hone hhelper => ?_, fun a ha => ?_⟩
  · rw [hscratch, hone, List.foldl_cons, List.foldl_nil, scratchStep_state, atomLane_state, hhelper]
    exact readBytes_scratchWrite (bytesOfNat_length ..)
  · rw [hscratch]
    refine scratchSteps_readByte (fun e he t => ?_) s
    rw [atomLane_state]
    split
    · rfl
    · refine readByte_scratchWrite_outside ?_
      rw [atomLeaves, bytesOfNat_length]
      exact ha e he

end

end Sys2Proof.Machine
end

section
/-! SUPPORT. The statement about scratch instructions. -/

open Sys2Proof Sys2Proof.Machine

/-- Settles O22, from the run of the lanes of `ldl`, `stl` and `atoml`, and from what their operation leaves of the state. -/
theorem scratchAccesses : Obligations.ScratchAccesses := by
  unfold Obligations.ScratchAccesses
  intro m x size key frame load store atom
  have hframe : ∀ {c s t cls len}, ScratchDone c s t cls len → frame c s t cls len := fun h => ⟨h.frame ▸ rfl, h.part⟩
  have hload : ∀ i len y, (∀ s, exec i s = loadScratch m y len s) → load i len y := by
    intro i len y he s c hi hready
    obtain ⟨t, ht, hdone, hrest⟩ := loadScratch_done hi hready len
    exact ⟨t, (he s).trans ht, hframe hdone, hrest⟩
  have hstore : ∀ i len y, (∀ s, exec i s = storeScratch m y len s) → store i len y := by
    intro i len y he s c hi hready stores
    obtain ⟨t, ht, hdone, hrest⟩ := storeScratch_done hi hready len
    exact ⟨t, (he s).trans ht, hframe hdone, hrest⟩
  have hatom : ∀ i len y, (∀ s, exec i s = atomScratch m y len s) → atom i len y := by
    intro i len y he s c hi cls hready
    obtain ⟨t, ht, hdone, hrest⟩ := atomScratch_done hi hready len
    exact ⟨t, (he s).trans ht, hframe hdone, hrest⟩
  exact ⟨hload _ _ _ (fun _ => rfl), hload _ _ _ (fun _ => rfl), hstore _ _ _ (fun _ => rfl), hstore _ _ _ (fun _ => rfl),
    hatom _ _ _ (fun _ => rfl), hatom _ _ _ (fun _ => rfl)⟩

end

section
/-! SUPPORT. The channels (08 R204, R205; 19 R416, R417): a part that waits to be served, and the grant of credits. -/

open Sys2Proof

namespace Sys2Proof.Machine

/-! ### The grant of credits -/

/-- Nothing differs but launches, and whether and when messages arrive. -/
structure GrantsOnly (s t : State) : Prop where
  eq : t = { s with ops := t.ops, launches := t.launches }
  op : ∀ o ∈ s.ops, ∃ o' ∈ t.ops, o' = { o with acted := o'.acted, arrival := o'.arrival }

theorem GrantsOnly.refl (s : State) : GrantsOnly s s := ⟨rfl, fun o ho => ⟨o, ho, rfl⟩⟩

theorem GrantsOnly.trans {s t u : State} (h : GrantsOnly s t) (h' : GrantsOnly t u) : GrantsOnly s u := by
  refine ⟨by rw [h'.eq, h.eq], fun o ho => ?_⟩
  obtain ⟨o', ho', heq⟩ := h.op o ho
  obtain ⟨o'', ho'', heq'⟩ := h'.op o' ho'
  exact ⟨o'', ho'', by rw [heq', heq]⟩

theorem grantsOnly_grant (s : State) (id at_ l : Nat) (f : Launch → Launch) :
    GrantsOnly s ((s.updOp id (fun o => { o with acted := true, arrival := at_ })).updLaunch l f) := by
  refine ⟨?_, fun o ho => ?_⟩
  · unfold State.updLaunch
    split <;> rfl
  · rw [State.updLaunch_ops]
    refine ⟨_, List.mem_map.mpr ⟨o, ho, rfl⟩, ?_⟩
    split <;> rfl

theorem grantsOnly_grantCredits (s : State) (l key fuel : Nat) : GrantsOnly s (s.grantCredits l key fuel) := by
  induction fuel generalizing s with
  | zero => exact .refl s
  | succ fuel ih =>
    rw [State.grantCredits]
    split
    · exact .refl s
    · dsimp only
      split
      · split
        · exact .refl s
        · exact (grantsOnly_grant ..).trans (ih _)
      · exact .refl s

/-! ### A part that waits to be served -/

/-- The part of `c` has asked for `o` in `t`; its registers, memory and scratch are as in `s`. -/
structure Asks (c : Ctx) (s t : State) (cls : Cls) (o : MemOp) : Prop where
  op : o ∈ t.ops
  counts : Counts c s t cls
  mem : t.mem = s.mem
  scratch : t.scratch = s.scratch

theorem newOp_asks {s : State} {c : Ctx} (hi : s.issuing = some c) (cls : Cls) (kind : OpKind) (len ord scope sub : Nat) (accs : List Access)
    (due : Nat) : Asks c s (s.newOp c cls kind len ord scope sub accs due).1 cls (s.newOp c cls kind len ord scope sub accs due).2 := by
  refine ⟨?_, newOp_counts hi (.refl s) .., ?_, ?_⟩
  · rw [State.newOp, State.updPart_ops]
    exact List.mem_append_right _ (List.mem_singleton_self _)
  · rw [State.newOp, State.updPart_mem]
  · rw [State.newOp, State.updPart_scratch]

section
variable {c : Ctx} {s t : State} {cls : Cls} {o : MemOp}

theorem Asks.updOp (h : Asks c s t cls o) (f : MemOp → MemOp) : Asks c s (t.updOp o.id f) cls (f o) :=
  ⟨List.mem_map.mpr ⟨o, h.op, if_pos rfl⟩, h.counts, h.mem, h.scratch⟩

/-- The part moves on behind its instruction, and parks until its operation is served. -/
theorem Asks.waits (h : Asks c s t cls o) (len : Nat) {u : State} (hu : GrantsOnly (t.done c len) u) (k : Park) :
    (∃ w p, (u.parkPart c.ref k).wave? c.ref.key = some w ∧ w.part? c.ref.base = some p ∧ SameVregs c.wave w
      ∧ p.opsOf cls = c.part.opsOf cls ++ [s.nextId] ∧ p.pc = c.next len ∧ p.park = k ∧ p.regs = c.part.regs)
    ∧ (u.parkPart c.ref k).mem = s.mem ∧ (u.parkPart c.ref k).scratch = s.scratch
    ∧ ∃ o' ∈ (u.parkPart c.ref k).ops, o' = { o with acted := o'.acted, arrival := o'.arrival } := by
  obtain ⟨w, p, hw, hp, hvregs, hregs, hops⟩ := h.counts
  have hwaves : u.wave? c.ref.key = (t.done c len).wave? c.ref.key := by
    rw [hu.eq]
    rfl
  have hpark := wave?_updWave_some (hwaves.trans (wave?_updWave_some hw _))
  have hpart := part?_updPart_some hp (fun p => (p.moveTo (c.next len)).issued t.dcc 1) (fun _ => rfl)
  refine ⟨⟨_, _, hpark _, part?_updPart_some hpart _ (fun _ => rfl), hvregs, by cases cls <;> exact hops, rfl, rfl, hregs⟩, ?_, ?_, ?_⟩
  · rw [State.parkPart_mem, hu.eq, State.done_mem, h.mem]
  · rw [State.parkPart_scratch, hu.eq, State.done_scratch, h.scratch]
  · rw [State.parkPart_ops]
    exact hu.op o (by rw [State.done_ops]; exact h.op)

end

/-! ### The channel instructions -/

section
variable {s : State} {c : Ctx} {r : RWord} {d : ChanDecl}

theorem channelPre_none (hc : c.chan? r.b.toNat = some d) (hbytes : d.bytes % (4 * c.part.width) = 0) (hframes : c.part.frames = []) :
    channelPre r c s = none := by
  rw [channelPre, hc]
  dsimp only
  rw [if_neg (not_not.mpr hbytes), gateBan, if_pos hframes]

theorem channelVop_some (f : BitVec 7) (hc : c.chan? r.b.toNat = some d) : channelVop r f c s = spanVop f (messageRegs d c.part.width) := by
  rw [channelVop, hc]

end

end Sys2Proof.Machine
end

section
/-! SUPPORT. The statement about channel instructions. -/

open Sys2Proof Sys2Proof.Machine

/-- Settles O30, from the operation that each starts, the grant of credits, and the part that waits to be served. -/
theorem channelInstructions : Obligations.ChannelInstructions := by
  unfold Obligations.ChannelInstructions
  intro s c r d hi hframes hc hbytes n waits
  have hpre := channelPre_none (s := s) hc hbytes hframes
  refine ⟨fun operands free release => ?_, fun operands free => ?_⟩
  · have hregs : OperandsOk c (channelVop r r.a c s) := channelVop_some (s := s) r.a hc ▸ operands
    refine ⟨_, issue_next _ _ c s hi (by simp) hpre hregs free, ?_⟩
    dsimp only
    rw [fullReleaseWait_of_ready release, hc]
    dsimp only
    have hasks := (newOp_asks hi .st (.chsend (instKey (c.launch.rel c.ref.core) r.b.toNat) (messageOf c r.a n)) 4 0 3 0 [] s.dcc).updOp
      (fun o => { o with parked := true })
    obtain ⟨hwaits, hmem, hscratch, o, ho, heq⟩ := hasks.waits 4 (grantsOnly_grantCredits ..) (.on (.served s.nextId))
    refine ⟨hwaits, hmem, hscratch, o, ho, ?_⟩
    rw [heq]
    exact ⟨rfl, rfl, rfl, rfl⟩
  · have hregs : OperandsOk c (channelVop r r.d c s) := channelVop_some (s := s) r.d hc ▸ operands
    refine ⟨_, issue_next _ _ c s hi (by simp) hpre hregs free, ?_⟩
    dsimp only
    rw [hc]
    dsimp only
    have hasks := (newOp_asks hi .ld (.chrecv (instKey (c.launch.peer (c.launch.rel c.ref.core) (-d.dx) (-d.dy)) r.b.toNat) c.part.depth
      (regNumber c.wb r.d.toNat) n c.emask) 4 1 3 c.part.width [] s.dcc)
    have hparked := hasks.updOp (fun o => { o with parked := true, arrival := (s.newOp c .ld (.chrecv (instKey (c.launch.peer (c.launch.rel c.ref.core)
      (-d.dx) (-d.dy)) r.b.toNat) c.part.depth (regNumber c.wb r.d.toNat) n c.emask) 4 1 3 c.part.width [] s.dcc).1.dcc + 88 })
    obtain ⟨hwaits, hmem, hscratch, o, ho, heq⟩ := hparked.waits 4 (.refl _) (.on (.served s.nextId))
    refine ⟨hwaits, hmem, hscratch, o, ho, ?_⟩
    rw [heq]
    exact ⟨rfl, rfl, rfl, rfl, rfl⟩

end

section
/-! SUPPORT. The statement about the events of channels (08 R204, R205; 19 R417). -/

open Sys2Proof

namespace Sys2Proof.Machine

theorem waveChange_regionBehind (s : State) (o : MemOp) : WaveChange o.key s (s.regionBehind o) := by
  unfold State.regionBehind
  split
  · exact ⟨rfl, fun _ _ => rfl⟩
  · refine List.foldlRecOn (motive := WaveChange o.key s) _ _ ⟨rfl, fun _ _ => rfl⟩ (fun t ht p _ => ?_)
    exact (ht.trans (waveChange_beginRegion t { core := o.core, slot := o.slot, base := p.base } o.next true)).trans
      (waveChange_updPart _ { core := o.core, slot := o.slot, base := p.base } _)

/-- The channel instance `key` of a launch has become `i`, and nothing else of the launch has changed. -/
def InstBecomes (t : State) (lid : Nat) (v : Launch) (key : Nat) (i : ChanInst) : Prop :=
  ∃ v', t.launch? lid = some v' ∧ v' = { v with chans := v'.chans } ∧ ∀ n, v'.inst key n = i

theorem instBecomes_setInst {s t : State} {lid : Nat} {v : Launch} (h : s.launch? lid = some v) (key : Nat) (i : Launch → ChanInst)
    (ht : ∀ k, t.launch? k = (s.updLaunch lid (fun v => v.setInst key (i v))).launch? k) : InstBecomes t lid v key (i v) :=
  ⟨_, (ht lid).trans (State.launch?_updLaunch_some h _), rfl, fun _ => getT_putT_self ..⟩

theorem State.op?_updLaunch (s : State) (lid : Nat) (f : Launch → Launch) (id : Nat) : (s.updLaunch lid f).op? id = s.op? id := by
  rw [State.updLaunch_eq]
  rfl

theorem acquireL1_cores {s t : State} (h : t.cores = s.cores) (core scope : Nat) : (t.acquireL1 core scope).cores = (s.acquireL1 core scope).cores := by
  unfold State.acquireL1
  split
  · exact h
  · simp only [State.setL1, State.updCore, State.setCore, State.core, h]

theorem op?_id {s : State} {id : Nat} {o : MemOp} (h : s.op? id = some o) : o.id = id := by simpa using List.find?_some h

section
variable {s : State} {o : MemOp} {v : Launch} {key : Nat}

/-- The message of a `chsend` that has its credit arrives. -/
theorem messageArrival (ho : s.op? o.id = some o) (hv : s.launch? o.launch = some v) {msg : List Byte} (hkind : o.kind = .chsend key msg)
    (hacted : o.acted = true) (hparked : o.parked = true) (harrival : o.arrival ≤ s.dcc) :
    let i := v.inst key (v.decl key).slots
    ∃ t, exec (.channelMessageArrival o.id) s = .next t ∧ InstBecomes t o.launch v key { i with msgs := i.msgs ++ [(s.dcc, msg)] }
      ∧ t.op? o.id = some { o with parked := false } ∧ t.mem = s.mem ∧ t.scratch = s.scratch := by
  intro i
  let sent := fun v : Launch =>
    { v.inst key (v.decl key).slots with msgs := (v.inst key (v.decl key).slots).msgs ++ [(s.dcc, msg)] }
  let put := fun v : Launch => v.setInst key (sent v)
  have hnext : exec (.channelMessageArrival o.id) s
      = .next (((s.updLaunch o.launch put).updOp o.id (fun o => { o with parked := false })).regionBehind o) := by
    show execChannelMessageArrival o.id s = _
    rw [execChannelMessageArrival, ho]
    dsimp only
    rw [hkind]
    dsimp only
    rw [if_neg (by simp [hacted, hparked, harrival])]
  have hchange := waveChange_regionBehind ((s.updLaunch o.launch put).updOp o.id (fun o => { o with parked := false })) o
  refine ⟨_, hnext, instBecomes_setInst hv key sent (fun k => by rw [hchange.state]; rfl), ?_, ?_, ?_⟩
  · rw [hchange.op?]
    exact op?_updOp ((s.op?_updLaunch ..).trans ho) _ (fun _ => rfl)
  · rw [hchange.state, State.updLaunch_eq]
    rfl
  · rw [hchange.state, State.updLaunch_eq]
    rfl

/-- The oldest receive of an instance takes the oldest message. -/
theorem receives (ho : s.op? o.id = some o) (hv : s.launch? o.launch = some v) {depth dst n : Nat} {act : Lanes} {at_ : Nat} {bytes : List Byte}
    {rest : List (Nat × List Byte)} (hkind : o.kind = .chrecv key depth dst n act) (hdue : s.receiveDue o = true)
    (hmsgs : (v.inst key (v.decl key).slots).msgs = (at_, bytes) :: rest) :
    let i := v.inst key (v.decl key).slots
    ∃ t q a, exec (.sliceRequest o.id) s = .next t
      ∧ InstBecomes t o.launch v key { i with msgs := rest, returning := i.returning ++ [s.dcc + v.chanPath key] }
      ∧ t.op? o.id = some q ∧ q.parked = false ∧ q.accs = [a] ∧ a.phase = .done ∧ a.data = bytes ∧ t.cores = (s.acquireL1 o.core 3).cores
      ∧ t.mem = s.mem ∧ t.scratch = s.scratch := by
  intro i
  have hready : at_ ≤ s.dcc := by
    rw [State.receiveDue, hkind] at hdue
    dsimp only at hdue
    rw [hv] at hdue
    dsimp only at hdue
    rw [hmsgs] at hdue
    simp only [Bool.and_eq_true, decide_eq_true_eq] at hdue
    exact hdue.1.2
  let taken := fun v : Launch => { i with msgs := rest, returning := i.returning ++ [s.dcc + v.chanPath key] }
  let put := fun v : Launch => v.setInst key (taken v)
  let a : Access := { newAccess (s.opBase o) 0 o.sub 0 0 bytes [] with phase := .done, due := max s.dcc o.arrival }
  let u := (s.updLaunch o.launch put).updOp o.id (fun o => { o with accs := [a], parked := false, acted := true })
  have hnext : exec (.sliceRequest o.id) s = .next ((u.acquireL1 o.core 3).regionBehind o) := by
    show execSliceRequest o.id s = _
    rw [execSliceRequest, ho]
    dsimp only
    rw [hkind]
    dsimp only
    rw [if_pos hdue, State.receive, hv]
    dsimp only
    rw [hmsgs]
    dsimp only
    rw [if_neg (not_lt.mpr hready)]
  have hchange := waveChange_regionBehind (u.acquireL1 o.core 3) o
  have hcores := coresOnly_acquireL1 u o.core 3
  have hinst : InstBecomes ((u.acquireL1 o.core 3).regionBehind o) o.launch v key (taken v) :=
    instBecomes_setInst hv key taken (fun k => by rw [hchange.state, hcores]; rfl)
  refine ⟨_, { o with accs := [a], parked := false, acted := true }, a, hnext, hinst, ?_, rfl, rfl, rfl, rfl, ?_, ?_, ?_⟩
  · rw [hchange.op?, hcores]
    exact op?_updOp ((s.op?_updLaunch ..).trans ho) _ (fun _ => rfl)
  · rw [hchange.state]
    exact acquireL1_cores ((State.updOp_cores ..).trans (State.updLaunch_cores ..)) ..
  · rw [hchange.state, hcores]
    show u.mem = s.mem
    exact (State.updOp_mem ..).trans (State.updLaunch_mem ..)
  · rw [hchange.state, hcores]
    show u.scratch = s.scratch
    exact (State.updOp_scratch ..).trans (State.updLaunch_scratch ..)

/-- A credit comes back where no sender waits for it. -/
theorem creditReturn {l : Nat} (hv : s.launch? l = some v) {at_ : Nat} {rest : List Nat}
    (hreturning : (v.inst key (v.decl key).slots).returning = at_ :: rest) (hat : at_ ≤ s.dcc)
    (hwaiting : ∀ e ∈ s.ops, ∀ m, e.kind = .chsend key m → e.launch = l → e.acted = true) :
    let i := v.inst key (v.decl key).slots
    ∃ t, exec (.channelCreditReturn l key) s = .next t ∧ t = { s with launches := t.launches }
      ∧ InstBecomes t l v key { i with credits := i.credits + 1, returning := rest } := by
  intro i
  let put := fun v : Launch => v.setInst key { i with credits := i.credits + 1, returning := rest }
  have hnone : (s.updLaunch l put).grantCredits l key 1 = s.updLaunch l put := by
    rw [State.grantCredits]
    split
    · rfl
    · dsimp only
      split
      next o hfind =>
        rw [State.updLaunch_ops] at hfind
        have hmem := List.mem_of_find?_eq_some hfind
        have hsome := List.find?_some hfind
        split at hsome
        next k m hk =>
          simp only [Bool.and_eq_true, beq_iff_eq, Bool.not_eq_true'] at hsome
          obtain ⟨⟨hl, rfl⟩, hacted⟩ := hsome
          exact absurd (hwaiting o hmem m hk hl) (by simp [hacted])
        next => exact absurd hsome Bool.false_ne_true
      next => rfl
  have hnext : exec (.channelCreditReturn l key) s = .next (s.updLaunch l put) := by
    show execChannelCreditReturn l key s = _
    rw [execChannelCreditReturn, hv]
    dsimp only
    rw [hreturning]
    dsimp only
    rw [if_neg (not_lt.mpr hat)]
    exact congrArg _ hnone
  exact ⟨_, hnext, State.updLaunch_eq .., instBecomes_setInst hv key _ (fun _ => rfl)⟩

end

end Sys2Proof.Machine
end

section
/-! SUPPORT. The statement about the events of channels. -/

open Sys2Proof Sys2Proof.Machine

/-- Settles O31, from the arrival of a message, its receipt, and the return of its credit. -/
theorem channelEvents : Obligations.ChannelEvents := by
  unfold Obligations.ChannelEvents
  intro s o v key ho hv i becomes
  exact ⟨fun msg hkind hacted hparked harrival => messageArrival ho hv hkind hacted hparked harrival,
    fun depth dst n act at_ bytes rest hkind hdue hmsgs => receives ho hv hkind hdue hmsgs,
    fun at_ rest hreturning hat hwaiting => creditReturn hv hreturning hat hwaiting⟩

end


section
/-! SUPPORT. Host and debug accesses (12 R295, R296, 18 R386): a write of any length at its slices, the bytes of a register, and the halts of a die. -/

open Sys2Proof

namespace Sys2Proof.Machine

/-! ### A write of any length -/

/-- Nothing differs but the banks and the dies: what a write leaves beside its bytes. -/
structure BanksOnly (s t : State) : Prop where
  eq : t = { s with banks := t.banks, dies := t.dies }

theorem BanksOnly.refl (s : State) : BanksOnly s s := ⟨rfl⟩
theorem BanksOnly.trans {s t u : State} (h : BanksOnly s t) (h' : BanksOnly t u) : BanksOnly s u := ⟨by rw [h'.eq, h.eq]⟩
theorem BanksOnly.mem {s t : State} (h : BanksOnly s t) : t.mem = s.mem := by rw [h.eq]

theorem swatch_banksOnly {s : State} (h : s.debugOff) (src unit pa n : Nat) :
    BanksOnly s (s.swatch src unit pa n) ∧ (s.swatch src unit pa n).debugOff := by
  refine List.foldlRecOn (motive := fun t : State => BanksOnly s t ∧ t.debugOff) _ _ ⟨.refl s, h⟩ (fun t ht k _ => ?_)
  obtain ⟨hsame, hoff⟩ := ht
  dsimp only
  split
  · rw [postDebug_off hoff]
    split
    · exact ⟨hsame.trans ⟨rfl⟩, debugOff_updDie hoff _ (fun _ => rfl)⟩
    · exact ⟨hsame, hoff⟩
  · exact ⟨hsame, hoff⟩

theorem slicePut_banksOnly {s : State} (h : s.debugOff) (src unit pa : Nat) (bytes : List Byte) :
    BanksOnly { s with mem := writeBytes s.mem pa bytes } (s.slicePut src unit pa bytes) ∧ (s.slicePut src unit pa bytes).debugOff := by
  obtain ⟨hsame, hoff⟩ := swatch_banksOnly (s := State.touchBank { s with mem := writeBytes s.mem pa bytes } pa) h src unit pa bytes.length
  exact ⟨BanksOnly.trans ⟨rfl⟩ hsame, hoff⟩

theorem writeBytes_append (m : List (Nat × Byte)) (a : Nat) (l r : List Byte) :
    writeBytes m a (l ++ r) = writeBytes (writeBytes m a l) (a + l.length) r := by
  induction l generalizing m a with
  | nil => rfl
  | cons b l ih =>
    show writeBytes (writeByte m a b) (a + 1) (l ++ r) = _
    rw [ih, List.length_cons, Nat.add_assoc, Nat.add_comm 1]
    rfl

/-- With fuel for every line, the pieces of a write leave the whole of it. -/
theorem slicePutAll_banksOnly {s : State} (h : s.debugOff) (src unit : Nat) {fuel pa : Nat} {bytes : List Byte}
    (hfuel : pa % 128 + bytes.length ≤ 128 * fuel) :
    BanksOnly { s with mem := writeBytes s.mem pa bytes } (s.slicePutAll src unit fuel pa bytes) := by
  induction fuel generalizing s pa bytes with
  | zero =>
    obtain rfl : bytes = [] := List.length_eq_zero_iff.mp (by omega)
    exact .refl s
  | succ fuel ih =>
    rw [State.slicePutAll.eq_def]
    dsimp only
    split
    · exact .refl s
    · obtain ⟨hput, hoff⟩ := slicePut_banksOnly h src unit pa (bytes.take (128 - pa % 128))
      by_cases hlast : bytes.length ≤ 128 - pa % 128
      · rw [List.take_of_length_le hlast] at hput hoff ⊢
        rw [List.drop_of_length_le hlast]
        refine hput.trans ?_
        have hmod : (pa + (128 - pa % 128)) % 128 = 0 := by omega
        simpa [writeBytes] using ih (bytes := []) (pa := pa + (128 - pa % 128)) hoff (by rw [hmod]; simp)
      · have hwhole : writeBytes (s.slicePut src unit pa (bytes.take (128 - pa % 128))).mem (pa + (128 - pa % 128)) (bytes.drop (128 - pa % 128))
            = writeBytes s.mem pa bytes := by
          have := writeBytes_append s.mem pa (bytes.take (128 - pa % 128)) (bytes.drop (128 - pa % 128))
          rw [List.take_append_drop, List.length_take_of_le (by omega)] at this
          rw [hput.mem, this]
        have hrest := ih (bytes := bytes.drop (128 - pa % 128)) hoff (pa := pa + (128 - pa % 128)) (by rw [List.length_drop]; omega)
        rw [hwhole] at hrest
        refine .trans ⟨?_⟩ hrest
        rw [hput.eq]

theorem putLong_banksOnly {s : State} (h : s.debugOff) (src unit pa : Nat) (bytes : List Byte) :
    BanksOnly { s with mem := writeBytes s.mem pa bytes } (s.putLong src unit pa bytes) :=
  slicePutAll_banksOnly h src unit (by omega)

/-! ### An access of the host at its home -/

theorem pow_size_le {n : Nat} (h : n ≤ 8) : 2 ^ (8 * n) ≤ 2 ^ 64 := Nat.pow_le_pow_right (by decide) (by omega)

theorem ones_toNat {n : Nat} (h : n ≤ 8) : (ones n).toNat = 2 ^ (8 * n) - 1 := by
  have hle := pow_size_le h
  have hpos : 0 < 2 ^ (8 * n) := Nat.two_pow_pos _
  rw [ones, BitVec.toNat_ofNat]
  exact Nat.mod_eq_of_lt (by omega)

section
variable {s : State} {a : HostAccess} {pa : Nat} {i : Instr} {e : Event}

theorem hostAccess_read (hfree : s.pinned none pa = false ∧ s.pinned none (pa + a.size - 1) = false) (hread : a.write = false) :
    s.hostAccess a pa e = (s.touchBank pa).hostData (BitVec.ofNat 64 (natOfBytes (readBytes s.mem pa a.size))) := by
  obtain ⟨hfirst, hlast⟩ := hfree
  simp [State.hostAccess, hfirst, hlast, hread]

theorem hostAccess_write (hfree : s.pinned none pa = false ∧ s.pinned none (pa + a.size - 1) = false) (hwrite : a.write = true) :
    s.hostAccess a pa e = s.putLong 3 0 pa (bytesOfNat a.size a.data.toNat) := by
  obtain ⟨hfirst, hlast⟩ := hfree
  simp [State.hostAccess, hfirst, hlast, hwrite]

/-- An access at its home reads its bytes, or stores them and nothing else. -/
theorem hostAccess_served (hoff : s.debugOff) (hfree : s.pinned none pa = false ∧ s.pinned none (pa + a.size - 1) = false)
    (hexec : exec i s = .next (s.hostAccess a pa e)) :
    (a.write = false → a.size ≤ 8 → ∃ t, exec i s = .next t ∧ t = { s with banks := t.banks, pkg := { s.pkg with readData := t.pkg.readData } }
        ∧ t.pkg.readData.toNat = natOfBytes (readBytes s.mem pa a.size))
      ∧ (a.write = true → a.size ≤ 8 → ∃ t, exec i s = .next t ∧ t = { s with mem := t.mem, banks := t.banks, dies := t.dies }
        ∧ natOfBytes (readBytes t.mem pa a.size) = a.data.toNat % 2 ^ (8 * a.size)
        ∧ ∀ x, x < pa ∨ pa + a.size ≤ x → readByte t.mem x = readByte s.mem x) := by
  refine ⟨fun hread hsize => ?_, fun hwrite _ => ?_⟩
  · rw [hostAccess_read hfree hread] at hexec
    refine ⟨_, hexec, rfl, ?_⟩
    have hlt := natOfBytes_lt (readBytes s.mem pa a.size)
    rw [readBytes_length] at hlt
    have hle := pow_size_le hsize
    rw [pow_mul] at hle
    show (BitVec.ofNat 64 _).toNat = _
    rw [BitVec.toNat_ofNat]
    exact Nat.mod_eq_of_lt (lt_of_lt_of_le hlt hle)
  · rw [hostAccess_write hfree hwrite] at hexec
    have hput := putLong_banksOnly hoff 3 0 pa (bytesOfNat a.size a.data.toNat)
    refine ⟨_, hexec, ?_, ?_, fun x hx => ?_⟩
    · rw [hput.eq]
    · have hbytes := readBytes_writeBytes s.mem pa (bytesOfNat a.size a.data.toNat)
      rw [bytesOfNat_length] at hbytes
      rw [hput.mem]
      dsimp only
      rw [hbytes, natOfBytes_bytesOfNat, pow_mul]
      norm_num
    · rw [hput.mem]
      exact readByte_writeBytes_outside _ _ _ _ (by rwa [bytesOfNat_length])

theorem unanswered_effect (hexec : exec i s = .next (s.unanswered a)) :
    ∃ t, exec i s = .next t ∧ t = { s with pkg := { s.pkg with readData := t.pkg.readData } }
      ∧ (a.write = false → a.size ≤ 8 → t.pkg.readData.toNat = 2 ^ (8 * a.size) - 1) := by
  refine ⟨_, hexec, ?_, fun hread hsize => ?_⟩
  · unfold State.unanswered
    split <;> rfl
  · rw [State.unanswered, if_neg (by simp [hread])]
    exact ones_toNat hsize

end

/-! ### Apertures (R386) -/

theorem apertureAccess_effect {s : State} (hoff : s.debugOff) (a : HostAccess) :
    let pa := s.pkg.apStart.toNat + a.off
    let open_ := s.pkg.apEn = true ∧ a.off < 2 ^ 32 ∧ paClass pa ≤ 1 ∧ paOk pa = true
    let answered := s.pkg.fwState ≠ 2 ∧ (s.pkg.fwState = 3 → a.write = false)
    (answered → open_ → s.pinned none pa = false ∧ s.pinned none (pa + a.size - 1) = false →
      (a.write = false → a.size ≤ 8 → ∃ t, exec (.apertureAccess a) s = .next t
        ∧ t = { s with banks := t.banks, pkg := { s.pkg with readData := t.pkg.readData } }
        ∧ t.pkg.readData.toNat = natOfBytes (readBytes s.mem pa a.size))
      ∧ (a.write = true → a.size ≤ 8 → ∃ t, exec (.apertureAccess a) s = .next t ∧ t = { s with mem := t.mem, banks := t.banks, dies := t.dies }
        ∧ natOfBytes (readBytes t.mem pa a.size) = a.data.toNat % 2 ^ (8 * a.size)
        ∧ ∀ x, x < pa ∨ pa + a.size ≤ x → readByte t.mem x = readByte s.mem x))
    ∧ (answered → ¬ open_ → ∃ t, exec (.apertureAccess a) s = .next t ∧ t = { s with pkg := { s.pkg with apErr := true, readData := t.pkg.readData } }
      ∧ (a.write = false → a.size ≤ 8 → t.pkg.readData.toNat = 2 ^ (8 * a.size) - 1))
    ∧ (¬ answered → ∃ t, exec (.apertureAccess a) s = .next t ∧ t = { s with pkg := { s.pkg with readData := t.pkg.readData } }
      ∧ (a.write = false → a.size ≤ 8 → t.pkg.readData.toNat = 2 ^ (8 * a.size) - 1)) := by
  intro pa open_ answered
  have hgate : s.pkg.fwState = 2 ∨ (s.pkg.fwState = 3 ∧ a.write = true) ↔ ¬ answered := by
    simp only [answered]
    cases a.write <;> simp; tauto
  refine ⟨fun hans hopen hfree => hostAccess_served (e := .apertureAccess a) hoff hfree ?_, fun hans hshut => ?_, fun hans => unanswered_effect ?_⟩
  · show execApertureAccess a s = _
    rw [execApertureAccess]
    dsimp only
    rw [if_neg (fun h => hgate.mp h hans), if_pos hopen]
  · have hexec : exec (.apertureAccess a) s = .next (if a.write then s.updPkg (fun p => { p with apErr := true })
        else (s.updPkg (fun p => { p with apErr := true })).hostData (ones a.size)) := by
      show execApertureAccess a s = _
      rw [execApertureAccess]
      dsimp only
      rw [if_neg (fun h => hgate.mp h hans), if_neg hshut]
    refine ⟨_, hexec, ?_, fun hread hsize => ?_⟩
    · split <;> rfl
    · rw [if_neg (by simp [hread])]
      exact ones_toNat hsize
  · show execApertureAccess a s = _
    rw [execApertureAccess]
    dsimp only
    rw [if_pos (hgate.mpr hans)]

/-- Where a tenant's aperture access lands; none when its window, its walk or its page refuses it. -/
def State.tenantTarget (s : State) (n : Nat) (a : HostAccess) : Option Nat :=
  let x := s.tenant n
  let va := x.tapva.toNat + a.off
  if !x.tapEn ∨ 2 ^ 57 ≤ va then none
  else match s.walk 0 x.tapAsid va with
    | .leaf pte p => if (s.leafFault (if a.write then .write else .read) pte (paOf pte p va)).isNone then some (paOf pte p va) else none
    | _ => none

section
variable {s : State} {n : Nat} {a : HostAccess}

theorem exec_tenantApertureAccess : exec (.tenantApertureAccess n a) s =
    if !s.answers then .next (s.unanswered a)
    else (s.tenantTarget n a).elim (.next (if a.write then s.updTenant n (fun x => { x with taperr := true })
          else (s.updTenant n (fun x => { x with taperr := true })).hostData (ones a.size)))
        (fun pa => .next (s.hostAccess a pa (.tenantApertureAccess n a))) := by
  show execTenantApertureAccess n a s = _
  unfold execTenantApertureAccess State.tenantTarget
  dsimp only
  by_cases hclosed : (!(s.tenant n).tapEn) = true ∨ 2 ^ 57 ≤ (s.tenant n).tapva.toNat + a.off
  · simp only [if_pos hclosed, Option.elim_none]
  · simp only [if_neg hclosed]
    cases s.walk 0 (s.tenant n).tapAsid ((s.tenant n).tapva.toNat + a.off) with
    | leaf pte p =>
      dsimp only
      generalize s.leafFault _ pte _ = fault
      cases fault <;> rfl
    | nonPresent => rfl
    | malformed => rfl

theorem tenantTarget_leaf {pte p : Nat} (hen : (s.tenant n).tapEn = true) (hva : (s.tenant n).tapva.toNat + a.off < 2 ^ 57)
    (hwalk : s.walk 0 (s.tenant n).tapAsid ((s.tenant n).tapva.toNat + a.off) = .leaf pte p)
    (hleaf : s.leafFault (if a.write then .write else .read) pte (paOf pte p ((s.tenant n).tapva.toNat + a.off)) = none) :
    s.tenantTarget n a = some (paOf pte p ((s.tenant n).tapva.toNat + a.off)) := by
  have hin : ¬ ((!(s.tenant n).tapEn) = true ∨ 2 ^ 57 ≤ (s.tenant n).tapva.toNat + a.off) := by
    simp only [hen, Bool.not_true, Bool.false_eq_true, false_or]
    omega
  rw [State.tenantTarget]
  rw [if_neg hin, hwalk]
  dsimp only
  rw [hleaf]
  rfl

theorem tenantTarget_refused (hleaf : ∀ pte p, s.walk 0 (s.tenant n).tapAsid ((s.tenant n).tapva.toNat + a.off) = .leaf pte p →
    s.leafFault (if a.write then .write else .read) pte (paOf pte p ((s.tenant n).tapva.toNat + a.off)) ≠ none) :
    s.tenantTarget n a = none := by
  rw [State.tenantTarget]
  split
  · rfl
  · split
    next pte p hwalk =>
      obtain ⟨f, hf⟩ := Option.ne_none_iff_exists'.mp (hleaf pte p hwalk)
      rw [hf]
      rfl
    next => rfl

theorem tenantTarget_closed (h : (s.tenant n).tapEn = false ∨ 2 ^ 57 ≤ (s.tenant n).tapva.toNat + a.off) : s.tenantTarget n a = none := by
  rw [State.tenantTarget]
  rw [if_pos (by simpa using h)]

/-- An access without a target sets the tenant's error bit; a read returns all ones. -/
theorem tenantApertureAccess_bad (hworking : s.answers = true) (htarget : s.tenantTarget n a = none) :
    ∃ t, exec (.tenantApertureAccess n a) s = .next t ∧ t.mem = s.mem ∧ (t.tenant n).taperr = true ∧ (∀ m, m ≠ n → t.tenant m = s.tenant m)
      ∧ (a.write = false → a.size ≤ 8 → t.pkg.readData.toNat = 2 ^ (8 * a.size) - 1) := by
  let u := s.updTenant n (fun x => { x with taperr := true })
  let t := if a.write then u else u.hostData (ones a.size)
  have hexec : exec (.tenantApertureAccess n a) s = .next t := by
    rw [exec_tenantApertureAccess, hworking, htarget]
    rfl
  have htenant : ∀ m, t.tenant m = u.tenant m := fun m => by
    show (if a.write then u else u.hostData (ones a.size)).tenant m = _
    split <;> rfl
  refine ⟨t, hexec, ?_, ?_, fun m hm => ?_, fun hread hsize => ?_⟩
  · show (if a.write then u else u.hostData (ones a.size)).mem = _
    split <;> rfl
  · rw [htenant]
    exact congrArg Tenant.taperr (s.tenant_updTenant_self n _)
  · rw [htenant]
    exact (s.tenant_updTenant n m _).trans (if_neg hm)
  · show (if a.write then u else u.hostData (ones a.size)).pkg.readData.toNat = _
    rw [if_neg (by simp [hread])]
    exact ones_toNat hsize

theorem tenantApertureAccess_unanswered (h : ¬ (s.pkg.fwState ≠ 2 ∧ s.pkg.fwState ≠ 3)) :
    exec (.tenantApertureAccess n a) s = .next (s.unanswered a) := by
  rw [exec_tenantApertureAccess, if_pos (by rwa [← s.answers_iff, Bool.not_eq_true, ← Bool.not_eq_true'] at h)]

theorem tenantApertureAccess_target {pa : Nat} (hworking : s.answers = true) (htarget : s.tenantTarget n a = some pa) :
    exec (.tenantApertureAccess n a) s = .next (s.hostAccess a pa (.tenantApertureAccess n a)) := by
  rw [exec_tenantApertureAccess, hworking, htarget]
  rfl

end

/-! ### A register as four bytes (R179) -/

theorem opmByte_position {opm i : Nat} (halign : opm % 4 = 0) (hi : i < 4) :
    opmCore (opm + i) = opmCore opm ∧ opmRegion (opm + i) = opmRegion opm ∧ opmReg (opm + i) = opmReg opm ∧ (opm + i) % 4 = i := by
  simp only [opmCore, opmRegion, opmReg, opmOff, Prod.mk.injEq]
  omega

section
variable {s : State} {opm : Nat} {w : Wave}

theorem slotWave_of_lt {core slot : Nat} (h : slot < 128) : s.slotWave core slot = s.wave? (core * 128 + slot) := if_pos h

/-- The four bytes of a register, least first. -/
theorem opmByte_register (halign : opm % 4 = 0) (hregion : opmRegion opm = 0) (hslot : (opmReg opm).1 < 128)
    (hw : s.wave? (opmCore opm * 128 + (opmReg opm).1) = some w) {i : Nat} (hi : i < 4) :
    s.opmByte (opm + i) = BitVec.ofNat 8 ((w.v 0 (opmReg opm).2.2 (opmReg opm).2.1).toNat / 256 ^ i) := by
  obtain ⟨hcore, hreg, hplace, hmod⟩ := opmByte_position halign hi
  rw [State.opmByte]
  dsimp only
  rw [hcore, hreg, hplace, hmod, hregion]
  rw [slotWave_of_lt hslot, hw]
  rfl

theorem natOfBytes_word (v : W32) : natOfBytes ((List.range 4).map (fun i => BitVec.ofNat 8 (v.toNat / 256 ^ i))) = v.toNat := by
  have hlt := v.isLt
  simp [List.range_succ, natOfBytes]
  omega

theorem debugRead_effect (hworking : s.answers = true) (v : W32) :
    ∃ t, exec (.debugInterfaceAccess false opm v) s = .next t ∧ t = { s with pkg := { s.pkg with readData := t.pkg.readData } }
      ∧ (opm % 4 = 0 → opmRegion opm = 0 → (opmReg opm).1 < 128 → ∀ w, s.wave? (opmCore opm * 128 + (opmReg opm).1) = some w →
        t.pkg.readData.toNat = (w.v 0 (opmReg opm).2.2 (opmReg opm).2.1).toNat) := by
  have hexec : exec (.debugInterfaceAccess false opm v) s
      = .next (s.hostData (BitVec.ofNat 64 (natOfBytes ((List.range 4).map (fun i => s.opmByte (opm + i)))))) := by
    show execDebugInterfaceAccess false opm v s = _
    rw [execDebugInterfaceAccess, hworking]
    rfl
  refine ⟨_, hexec, rfl, fun halign hregion hslot w hw => ?_⟩
  have hbytes : (List.range 4).map (fun i => s.opmByte (opm + i))
      = (List.range 4).map (fun i => BitVec.ofNat 8 ((w.v 0 (opmReg opm).2.2 (opmReg opm).2.1).toNat / 256 ^ i)) :=
    List.map_congr_left (fun i hi => opmByte_register halign hregion hslot hw (List.mem_range.mp hi))
  show (BitVec.ofNat 64 _).toNat = _
  rw [hbytes, natOfBytes_word, BitVec.toNat_ofNat]
  have hlt := (w.v 0 (opmReg opm).2.2 (opmReg opm).2.1).isLt
  omega

/-- Register `n` of lane `lane` of the wave at `key`, once `w`, has become `x`, and nothing else has changed. -/
structure RegisterIs (s : State) (key lane n : Nat) (w : Wave) (x : W32) (t : State) : Prop where
  state : t = { s with waves := t.waves }
  wave : ∃ q, t.wave? key = some q ∧ q = { w with vregs := q.vregs, dirty := q.dirty }
    ∧ ∀ d l m, l < 64 → m < 512 → q.v d l m = if d = 0 ∧ l = lane ∧ m = n then x else w.v d l m

theorem registerIs_self {key lane n : Nat} (hw : s.wave? key = some w) : RegisterIs s key lane n w (w.v 0 lane n) s := by
  refine ⟨rfl, w, hw, rfl, fun d l m _ _ => ?_⟩
  split
  next h =>
    obtain ⟨rfl, rfl, rfl⟩ := h
    rfl
  next => rfl

theorem v_setV (w : Wave) (v : W32) {d l n d' l' n' : Nat} (hl : l < 64) (hl' : l' < 64) (hn : n < 512) (hn' : n' < 512) :
    (w.setV d l n v).v d' l' n' = if d' = d ∧ l' = l ∧ n' = n then v else w.v d' l' n' := by
  split
  next h =>
    obtain ⟨rfl, rfl, rfl⟩ := h
    exact getT_setT_self ..
  next h => exact w.v_setV_of_ne v (fun heq => h (vKey_inj hl' hl hn' hn heq))

/-- A byte of the debug interface goes into its register. -/
theorem RegisterIs.opmPut {t : State} {x : W32} (halign : opm % 4 = 0) (hregion : opmRegion opm = 0) (hslot : (opmReg opm).1 < 128)
    (h : RegisterIs s (opmCore opm * 128 + (opmReg opm).1) (opmReg opm).2.2 (opmReg opm).2.1 w x t) {i : Nat} (hi : i < 4) (b : Byte) :
    RegisterIs s (opmCore opm * 128 + (opmReg opm).1) (opmReg opm).2.2 (opmReg opm).2.1 w (putByteIn x i b) (t.opmPut (opm + i) b) := by
  obtain ⟨hstate, q, hq, hqw, hv⟩ := h
  obtain ⟨hcore, hreg, hplace, hmod⟩ := opmByte_position halign hi
  have hlane : (opmReg opm).2.2 < 64 := Nat.mod_lt _ (by decide)
  have hnum : (opmReg opm).2.1 < 512 := (Nat.mod_lt (opmOff opm / 256) (by decide : 0 < 256)).trans (by decide)
  have hput : t.opmPut (opm + i) b = t.updWave (opmCore opm * 128 + (opmReg opm).1)
      (fun w => w.setV 0 (opmReg opm).2.2 (opmReg opm).2.1 (putByteIn (w.v 0 (opmReg opm).2.2 (opmReg opm).2.1) i b)) := by
    rw [State.opmPut]
    dsimp only
    rw [hcore, hreg, hplace, hmod, hregion]
    rw [slotWave_of_lt hslot, hq]
    rfl
  rw [hput]
  refine ⟨?_, _, wave?_updWave_some hq _, ?_, fun d l m hl hm => ?_⟩
  · rw [State.updWave_eq, hstate]
  · rw [Wave.setV, hqw]
  · have hx : q.v 0 (opmReg opm).2.2 (opmReg opm).2.1 = x := (hv 0 _ _ hlane hnum).trans (if_pos ⟨rfl, rfl, rfl⟩)
    rw [v_setV q _ hlane hl hnum hm, hx, hv d l m hl hm]
    split <;> rfl

theorem putByteIn_toNat (x : W32) {k : Nat} (hk : k < 4) (b : Byte) :
    (putByteIn x k b).toNat = x.toNat - x.toNat / 256 ^ k % 256 * 256 ^ k + b.toNat * 256 ^ k := by
  have hx := x.isLt
  have hb := b.isLt
  rw [putByteIn, BitVec.toNat_ofNat]
  interval_cases k <;> omega

/-- The four bytes of a word replace the whole of another. -/
theorem putByteIn_word (x v : W32) :
    putByteIn (putByteIn (putByteIn (putByteIn x 0 (BitVec.ofNat 8 v.toNat)) 1 (BitVec.ofNat 8 (v.toNat / 256))) 2
      (BitVec.ofNat 8 (v.toNat / 256 / 256))) 3 (BitVec.ofNat 8 (v.toNat / 256 / 256 / 256)) = v := by
  have hx := x.isLt
  have hv := v.isLt
  apply BitVec.eq_of_toNat_eq
  rw [putByteIn_toNat _ (by decide), putByteIn_toNat _ (by decide), putByteIn_toNat _ (by decide), putByteIn_toNat _ (by decide)]
  simp only [BitVec.toNat_ofNat]
  omega

theorem opmWrite_word (v : Nat) : s.opmWrite opm (bytesOfNat 4 v)
    = (((s.opmPut opm (BitVec.ofNat 8 v)).opmPut (opm + 1) (BitVec.ofNat 8 (v / 256))).opmPut (opm + 2)
      (BitVec.ofNat 8 (v / 256 / 256))).opmPut (opm + 3) (BitVec.ofNat 8 (v / 256 / 256 / 256)) := rfl

theorem registerIs_opmWrite (halign : opm % 4 = 0) (hregion : opmRegion opm = 0) (hslot : (opmReg opm).1 < 128)
    (hw : s.wave? (opmCore opm * 128 + (opmReg opm).1) = some w) (v : W32) :
    RegisterIs s (opmCore opm * 128 + (opmReg opm).1) (opmReg opm).2.2 (opmReg opm).2.1 w v (s.opmWrite opm (bytesOfNat 4 v.toNat)) := by
  have h0 := (registerIs_self hw).opmPut halign hregion hslot (i := 0) (by decide) (BitVec.ofNat 8 v.toNat)
  have h1 := h0.opmPut halign hregion hslot (i := 1) (by decide) (BitVec.ofNat 8 (v.toNat / 256))
  have h2 := h1.opmPut halign hregion hslot (i := 2) (by decide) (BitVec.ofNat 8 (v.toNat / 256 / 256))
  have h3 := h2.opmPut halign hregion hslot (i := 3) (by decide) (BitVec.ofNat 8 (v.toNat / 256 / 256 / 256))
  rw [putByteIn_word] at h3
  rw [opmWrite_word]
  exact h3

/-- The state region takes no writes. -/
theorem opmWrite_stateRegion (halign : opm % 4 = 0) (hregion : opmRegion opm = 3) (v : Nat) : s.opmWrite opm (bytesOfNat 4 v) = s := by
  have hput : ∀ i < 4, ∀ b, s.opmPut (opm + i) b = s := fun i hi b => by
    obtain ⟨-, hreg, -, -⟩ := opmByte_position halign hi
    rw [State.opmPut, hreg, hregion]
    rfl
  have h0 : ∀ b, s.opmPut opm b = s := hput 0 (by decide)
  rw [opmWrite_word, h0, hput 1 (by decide), hput 2 (by decide), hput 3 (by decide)]

theorem debugWrite_next (hworking : s.answers = true) (v : W32) : exec (.debugInterfaceAccess true opm v) s
    = .next (if (s.die (dieOf (opmCore opm))).halted then s.opmWrite opm (bytesOfNat 4 v.toNat) else s) := by
  show execDebugInterfaceAccess true opm v s = _
  rw [execDebugInterfaceAccess, hworking]
  rfl

theorem debugWrite_ignored (v : W32) (h : (s.die (dieOf (opmCore opm))).halted = false ∨ opmRegion opm = 3 ∧ opm % 4 = 0
      ∨ ¬ (s.pkg.fwState ≠ 2 ∧ s.pkg.fwState ≠ 3)) : exec (.debugInterfaceAccess true opm v) s = .next s := by
  cases hworking : s.answers
  case false =>
    show execDebugInterfaceAccess true opm v s = _
    rw [execDebugInterfaceAccess, hworking]
    rfl
  case true =>
    rw [debugWrite_next hworking]
    rcases h with hrunning | ⟨hregion, halign⟩ | hidle
    · rw [hrunning]
      rfl
    · rw [opmWrite_stateRegion halign hregion, ite_self]
    · exact absurd (s.answers_iff.mp hworking) hidle

theorem debugWrite_register (hworking : s.answers = true) (hhalted : (s.die (dieOf (opmCore opm))).halted = true) (halign : opm % 4 = 0)
    (hregion : opmRegion opm = 0) (hslot : (opmReg opm).1 < 128) (hw : s.wave? (opmCore opm * 128 + (opmReg opm).1) = some w) (v : W32) :
    ∃ t q, exec (.debugInterfaceAccess true opm v) s = .next t ∧ t = { s with waves := t.waves }
      ∧ t.wave? (opmCore opm * 128 + (opmReg opm).1) = some q ∧ q = { w with vregs := q.vregs, dirty := q.dirty }
      ∧ ∀ d l m, l < 64 → m < 512 → q.v d l m = if d = 0 ∧ l = (opmReg opm).2.2 ∧ m = (opmReg opm).2.1 then v else w.v d l m := by
  obtain ⟨hstate, q, hq, hqw, hv⟩ := registerIs_opmWrite halign hregion hslot hw v
  refine ⟨_, q, (debugWrite_next hworking v).trans ?_, hstate, hq, hqw, hv⟩
  rw [hhalted]
  rfl

end

/-! ### Halts (R295, R296) -/

section
variable {s : State} {d : Nat}

theorem dieHalt_effect {at_ : Nat} (hat : (s.die d).haltAt = some at_) (hdue : at_ ≤ s.dcc) :
    ∃ u, exec (.dieHalt d) s = .next u ∧ u = { s with dies := u.dies }
      ∧ ∀ n, u.die n = if n = d then { s.die d with haltAt := none, halted := true } else s.die n := by
  have hexec : exec (.dieHalt d) s = .next (s.updDie d (fun d => { d with haltAt := none, halted := true })) := by
    show execDieHalt d s = _
    rw [execDieHalt, hat]
    dsimp only
    rw [if_pos hdue]
  exact ⟨_, hexec, rfl, fun n => s.die_updDie d n _⟩

theorem haltedWrite_effect {src : Source} (hsrc : src = .pf0 ∨ src = .controller) (hworking : s.answers = true) (v : W64) :
    ∃ u, exec (.haltedWrite d v src) s = .next u ∧ u = { s with dies := u.dies } ∧ (∀ n, n ≠ d → u.die n = s.die n)
      ∧ (u.die d).brkHalt = v.getLsbD 1 ∧ (u.die d).halted = ((s.die d).halted && !v.getLsbD 0)
      ∧ ((s.die d).halted = true → v.getLsbD 0 = true → (u.die d).selectFrom = s.dcc + 1) := by
  have hfrom : fromManagement src = true := by rcases hsrc with rfl | rfl <;> rfl
  let put := fun x : Die => { x with
    brkHalt := v.getLsbD 1
    halted := x.halted && !v.getLsbD 0
    selectFrom := if x.halted && v.getLsbD 0 then s.dcc + 1 else x.selectFrom }
  refine ⟨s.updDie d put, ?_, rfl, fun n hn => (s.die_updDie d n _).trans (if_neg hn), ?_⟩
  · show execHaltedWrite d v src s = _
    rw [execHaltedWrite, hfrom, hworking]
    rfl
  · rw [s.die_updDie_self]
    exact ⟨rfl, rfl, fun hhalted hresume => by simp [put, hhalted, hresume]⟩

end

end Sys2Proof.Machine
end

section
/-! SUPPORT. The statement about host and debug accesses. -/

open Sys2Proof Sys2Proof.Machine

/-- Settles O51, from the apertures of PF0 and of the tenants, the debug interface, and the halts. -/
theorem hostAccesses : Obligations.HostAccesses := by
  unfold Obligations.HostAccesses
  intro s hoff served unanswered free working
  have hworks : working ↔ s.answers = true := s.answers_iff.symm
  refine ⟨fun a => apertureAccess_effect hoff a, fun n a => ?_, fun opm v => ?_,
    fun d => ⟨fun t hat hdue => dieHalt_effect hat hdue, fun v src hsrc hw => haltedWrite_effect hsrc (hworks.mp hw) v⟩⟩
  · refine ⟨fun hidle => unanswered_effect (tenantApertureAccess_unanswered hidle),
      fun hshut hw => tenantApertureAccess_bad (hworks.mp hw) (tenantTarget_closed hshut),
      fun hen hva hw => ⟨fun pte p hwalk hleaf hfree => ?_, fun hleaf => ?_⟩⟩
    · exact hostAccess_served hoff hfree (tenantApertureAccess_target (hworks.mp hw) (tenantTarget_leaf hen hva hwalk hleaf))
    · exact tenantApertureAccess_bad (hworks.mp hw) (tenantTarget_refused hleaf)
  · exact ⟨fun hw => debugRead_effect (hworks.mp hw) v, fun h => debugWrite_ignored v h,
      fun hw hhalted halign hregion hslot w hwave => debugWrite_register (hworks.mp hw) hhalted halign hregion hslot hwave v⟩

end


section
/-! SUPPORT. An access alone at its slice (08 R196, R197, R199): what performs, and what stands in memory behind it. -/

open Sys2Proof

namespace Sys2Proof.Machine

/-! ### What an access at a slice may change -/

/-- Nothing differs but memory, caches, pins, banks and write-backs under way. -/
structure SliceOnly (s t : State) : Prop where
  eq : t = { s with mem := t.mem, cores := t.cores, dies := t.dies, pins := t.pins, banks := t.banks, l2 := t.l2, backs := t.backs }

theorem SliceOnly.refl (s : State) : SliceOnly s s := ⟨rfl⟩
theorem SliceOnly.trans {s t u : State} (h : SliceOnly s t) (h' : SliceOnly t u) : SliceOnly s u := ⟨by rw [h'.eq, h.eq]⟩
theorem SliceOnly.op? {s t : State} (h : SliceOnly s t) (id : Nat) : t.op? id = s.op? id := by
  rw [h.eq]
  rfl
theorem CachesOnly.sliceOnly {s t : State} (h : CachesOnly s t) : SliceOnly s t := ⟨by rw [h.eq]⟩
theorem CoresOnly.sliceOnly {s t : State} (h : CoresOnly s t) : SliceOnly s t := ⟨by rw [h]⟩
theorem StoreOnly.sliceOnly {s t : State} (h : StoreOnly s t) : SliceOnly s t := ⟨by rw [h.eq]⟩

theorem patchL1_same (s : State) (core pa : Nat) (bytes : List Byte) :
    s.patchL1 core pa bytes = { s with cores := (s.patchL1 core pa bytes).cores, backs := (s.patchL1 core pa bytes).backs } := by
  unfold State.patchL1
  dsimp only
  split <;> rfl

/-! ### Nothing goes ahead of the access -/

section
variable {s : State} {core line : Nat}

/-- A line without dirty sectors has none among any of its sectors. -/
theorem sectorsBusy_of_lineBusy (h : s.lineBusy core line = false) (mask : BitVec 4) : s.sectorsBusy core line mask = false := by
  have hnone : ∀ x : BitVec 4, x &&& 0xF = 0 → x &&& mask = 0 := fun x hx => by
    obtain rfl : x = 0 := (BitVec.and_allOnes (x := x)).symm.trans hx
    exact BitVec.zero_and
  simp only [State.lineBusy, State.sectorsBusy, Bool.or_eq_false_iff, List.any_eq_false, Bool.and_eq_true, bne_iff_ne, ne_eq, not_and,
    not_not] at h ⊢
  obtain ⟨hbacks, hlines⟩ := h
  refine ⟨fun b hb hat => hnone _ (hbacks b hb hat), ?_⟩
  split
  next l hl =>
    rw [hl] at hlines
    simpa using hnone _ (by simpa using hlines)
  next => rfl

variable {o : MemOp} {a : Access}

theorem performAccess_of_quiet (h : bypasses o a = true → s.lineBusy o.core (a.pa / 128) = false) :
    (∀ d r n, o.kind = .load d r n → s.performAccess o a = s.performLoad o a)
    ∧ (o.kind = .store → s.performAccess o a = s.performStore o a)
    ∧ ∀ op ret, o.kind = .atom op ret → s.performAccess o a = s.performAtom o op a := by
  have hquiet : ¬ (bypasses o a = true ∧ s.sectorsBusy o.core (a.pa / 128) (sectorsAhead o a) = true) := fun ⟨hby, hbusy⟩ =>
    Bool.false_ne_true ((sectorsBusy_of_lineBusy (h hby) _).symm.trans hbusy)
  refine ⟨fun _ _ _ hkind => ?_, fun hkind => ?_, fun _ _ hkind => ?_⟩
  all_goals simp only [State.performAccess, if_neg hquiet, hkind]

/-! ### The three accesses -/

/-- A store that does not stay in the L1 leaves its bytes. -/
theorem performStore_writes (hwide : narrowStore a.kind a.cp o.scope = false) (hfree : s.pinned (some o.core) a.pa = false)
    (hoff : (s.die (dieOfPa a.pa)).dbgEn = false) :
    ∃ u b, s.performStore o a = (u, b) ∧ SliceOnly s u ∧ u.mem = writeBytes s.mem a.pa a.data ∧ b.phase = .done ∧ b.lane = a.lane ∧ b.data = a.data := by
  rw [State.performStore, if_neg (by simp [hwide]), if_neg (by simp [hfree])]
  dsimp only
  refine ⟨_, _, rfl, ?_, ?_, rfl, rfl, rfl⟩
  · refine .trans ?_ ((storeOnly_slicePut ..).sliceOnly.trans (cachesOnly_l2Use ..).sliceOnly)
    split
    · exact (coresOnly_dropClean ..).sliceOnly
    · exact ⟨by rw [patchL1_same]⟩
  · have hput : ∀ v : State, v.mem = s.mem → v.dies = s.dies → (v.slicePut 0 o.core a.pa a.data).mem = writeBytes s.mem a.pa a.data :=
      fun v hm hd => (swatch_mem (by show (getT _ v.dies _).dbgEn = false; rw [hd]; exact hoff) ..).trans (congrArg (writeBytes · a.pa a.data) hm)
    refine (cachesOnly_l2Use ..).mem.trans (hput _ ?_ ?_)
    · split
      · exact (coresOnly_dropClean ..).mem
      · rw [patchL1_same]
    · split
      · rw [coresOnly_dropClean]
      · rw [patchL1_same]

/-- A load that bypasses the L1 takes the bytes at its address. -/
theorem performLoad_reads (hby : bypasses o a = true) (hfree : s.pinned (some o.core) a.pa = false) :
    ∃ u b, s.performLoad o a = (u, b) ∧ SliceOnly s u ∧ u.mem = s.mem ∧ b.phase = .done ∧ b.lane = a.lane ∧ b.data = readBytes s.mem a.pa a.size := by
  rw [State.performLoad, if_neg (by simp [hby]), if_neg (by simp [hfree]), State.loadSlice]
  dsimp only
  rw [if_pos hby]
  have hused := (cachesOnly_touchBank s a.pa).trans (cachesOnly_l2Use _ a.pa a.cp (s.dcc + 0 + s.beyondSlice a.pa))
  refine ⟨_, _, rfl, hused.sliceOnly.trans (coresOnly_dropClean ..).sliceOnly, (coresOnly_dropClean ..).mem.trans hused.mem, rfl, rfl, ?_⟩
  dsimp only
  rw [hused.mem]

/-- What an atomic leaves at its address. -/
def atomResult (m : List (Nat × Byte)) (op : Nat) (a : Access) : List Byte :=
  bytesOfNat a.size (atomNew op (8 * a.size) (natOfBytes (readBytes m a.pa a.size)) (natOfBytes a.data) (natOfBytes a.data2))

/-- An atomic leaves its result, and returns the old bytes. -/
theorem performAtom_updates (op : Nat) (hfree : s.pinned (some o.core) a.pa = false) (hoff : (s.die (dieOfPa a.pa)).dbgEn = false) :
    ∃ u b, s.performAtom o op a = (u, b) ∧ SliceOnly s u ∧ u.mem = writeBytes s.mem a.pa (atomResult s.mem op a)
      ∧ b.phase = .done ∧ b.lane = a.lane ∧ b.data = readBytes s.mem a.pa a.size := by
  have hclean := coresOnly_dropClean s o.core (a.pa / 128) (sectorsOf a.pa a.size)
  rw [State.performAtom, if_neg (by simp [hfree])]
  dsimp only
  rw [hclean.mem]
  refine ⟨_, _, rfl, hclean.sliceOnly.trans ((storeOnly_slicePut ..).sliceOnly.trans (cachesOnly_l2Use ..).sliceOnly), ?_, rfl, rfl, rfl⟩
  refine (cachesOnly_l2Use ..).mem.trans ((swatch_mem ?_ ..).trans ?_)
  · show ((s.dropClean o.core (a.pa / 128) (sectorsOf a.pa a.size)).die (dieOfPa a.pa)).dbgEn = false
    rw [hclean]
    exact hoff
  · show writeBytes (s.dropClean o.core (a.pa / 128) (sectorsOf a.pa a.size)).mem a.pa _ = _
    rw [hclean.mem]
    rfl

end

/-! ### The operation with one access -/

section
variable {s u : State} {o : MemOp} {a b : Access}

theorem startRelease_of_relaxed (ho : s.op? o.id = some o) (hord : o.ord = 0) : s.startRelease o.id = s := by
  rw [State.startRelease, ho]
  exact if_neg (by simp [State.releaseDueAt, isRelease, hord])

/-- The access of an operation that has no other performs, and the operation holds it done. -/
theorem performLanes_alone (ho : s.op? o.id = some o) (haccs : o.accs = [a]) (hcan : s.canPerform o a = true)
    (hperform : s.performAccess o a = (u, b)) (hu : SliceOnly s u) (hlane : b.lane = a.lane) :
    s.performLanes o.id (o.accs.map (fun a => a.lane)) = u.updOp o.id (fun o => o.putAccess b)
      ∧ (u.updOp o.id (fun o => o.putAccess b)).op? o.id = some { o with accs := [b] } := by
  have hfind : [a].find? (fun b => b.lane == a.lane) = some a := List.find?_cons_of_pos (beq_self_eq_true a.lane)
  have hput : o.putAccess b = { o with accs := [b] } := by
    rw [MemOp.putAccess, haccs, List.map_singleton, if_pos hlane.symm]
  have hop := op?_updOp ((hu.op? o.id).trans ho) (fun o => o.putAccess b) (fun _ => rfl)
  rw [hput] at hop
  refine ⟨?_, hop⟩
  rw [haccs, List.map_singleton, State.performLanes, ho]
  dsimp only
  rw [haccs, hfind]
  dsimp only
  rw [if_pos hcan, hperform]
  rfl

/-- Behind a relaxed operation nothing is left but the region of an atomic. -/
theorem afterPerform_relaxed {v : State} {q : MemOp} (hq : v.op? q.id = some q) (hord : q.ord = 0) :
    ∃ q', (v.afterPerform q.id).op? q.id = some q' ∧ q'.accs = q.accs ∧ (v.afterPerform q.id).mem = v.mem := by
  rw [State.afterPerform, hq]
  dsimp only
  split
  · exact ⟨q, hq, rfl, rfl⟩
  · have hacted := op?_updOp hq (fun o => { o with acted := true }) (fun _ => rfl)
    rw [if_neg (by simp [hord])]
    split
    · have hbehind := waveChange_regionBehind (v.updOp q.id (fun o => { o with acted := true })) q
      exact ⟨_, (hbehind.op? _).trans hacted, rfl, by rw [hbehind.state]; rfl⟩
    · exact ⟨_, hacted, rfl, rfl⟩

/-- An operation whose only access performs leaves what the access leaves. -/
theorem sliceRequest_alone (ho : s.op? o.id = some o) (haccs : o.accs = [a]) (hplain : o.kind.plain = true) (hord : o.ord = 0)
    (hcan : s.canPerform o a = true) (hperform : s.performAccess o a = (u, b)) (hu : SliceOnly s u) (hlane : b.lane = a.lane) :
    ∃ t q, exec (.sliceRequest o.id) s = .next t ∧ t.op? o.id = some q ∧ q.accs = [b] ∧ t.mem = u.mem := by
  obtain ⟨hlanes, hop⟩ := performLanes_alone ho haccs hcan hperform hu hlane
  have hfree := coresOnly_freeLog (u.updOp o.id (fun o => o.putAccess b)) o.id
  have hstill : ((u.updOp o.id (fun o => o.putAccess b)).freeLog o.id).op? o.id = some { o with accs := [b] } := by
    rw [hfree]
    exact hop
  obtain ⟨q, hq, hqaccs, hmem⟩ := afterPerform_relaxed (q := { o with accs := [b] }) hstill hord
  refine ⟨_, q, ?_, hq, hqaccs, hmem.trans hfree.mem⟩
  have hexec : exec (.sliceRequest o.id) s = .next (s.performOp o.id) := by
    show execSliceRequest o.id s = _
    rw [execSliceRequest, ho]
    dsimp only
    split
    next h => simp [h, OpKind.plain] at hplain
    next => rfl
  rw [hexec, State.performOp, ho]
  dsimp only
  rw [if_pos hplain, startRelease_of_relaxed ho hord, hlanes]

end

/-- The bytes of a write stand at its address, and every other byte is as it was. -/
theorem writeBytes_leaves {m m' : List (Nat × Byte)} {pa n : Nat} {bytes : List Byte} (h : m' = writeBytes m pa bytes) (hlen : bytes.length = n) :
    readBytes m' pa n = bytes ∧ ∀ p, p < pa ∨ pa + n ≤ p → readByte m' p = readByte m p := by
  subst hlen h
  exact ⟨readBytes_writeBytes .., fun p hp => readByte_writeBytes_outside _ _ _ _ hp⟩

end Sys2Proof.Machine
end

section
/-! SUPPORT. The statement about what performs at a slice. -/

open Sys2Proof Sys2Proof.Machine

/-- Settles O24, from the store, the load and the atomic that perform alone at their slice. -/
theorem slicePerforms : Obligations.SlicePerforms := by
  unfold Obligations.SlicePerforms
  intro s o a ho haccs hcan hord hfree hquiet hoff done rest
  obtain ⟨hload, hstore, hatom⟩ := performAccess_of_quiet hquiet
  refine ⟨fun hkind hwide hlen => ?_, fun d r n hkind hs => ?_, fun op ret hkind => ?_⟩
  · obtain ⟨u, b, hperform, hu, hmem, hphase, hlane, hdata⟩ := performStore_writes hwide hfree hoff
    obtain ⟨t, q, hexec, hq, hqaccs, htmem⟩ :=
      sliceRequest_alone ho haccs (by rw [hkind]; rfl) hord hcan ((hstore hkind).trans hperform) hu hlane
    obtain ⟨hbytes, hrest⟩ := writeBytes_leaves (htmem.trans hmem) hlen
    exact ⟨t, hexec, ⟨q, b, hq, hqaccs, hphase, hlane, hdata⟩, hbytes, hrest⟩
  · have hby : bypasses o a = true := by simp [bypasses, hs]
    obtain ⟨u, b, hperform, hu, hmem, hphase, hlane, hdata⟩ := performLoad_reads hby hfree
    obtain ⟨t, q, hexec, hq, hqaccs, htmem⟩ :=
      sliceRequest_alone ho haccs (by rw [hkind]; rfl) hord hcan ((hload d r n hkind).trans hperform) hu hlane
    exact ⟨t, hexec, ⟨q, b, hq, hqaccs, hphase, hlane, hdata⟩, htmem.trans hmem⟩
  · obtain ⟨u, b, hperform, hu, hmem, hphase, hlane, hdata⟩ := performAtom_updates (o := o) (a := a) op hfree hoff
    obtain ⟨t, q, hexec, hq, hqaccs, htmem⟩ :=
      sliceRequest_alone ho haccs (by rw [hkind]; rfl) hord hcan ((hatom op ret hkind).trans hperform) hu hlane
    obtain ⟨hbytes, hrest⟩ := writeBytes_leaves (htmem.trans hmem) (bytesOfNat_length ..)
    exact ⟨t, hexec, ⟨q, b, hq, hqaccs, hphase, hlane, hdata⟩, hbytes, hrest⟩

end


section
/-! SUPPORT. Slice queues (08 R202, R203, 21 R463): an operation whose release has nothing to send, and a request that the queue lets through. -/

open Sys2Proof

namespace Sys2Proof.Machine

/-! ### The release of an operation whose core is clean -/

section
variable {s : State} {o : MemOp}

/-- The note of a release in an operation does not change who is parked before a request. -/
theorem queuedBefore_updOp_relAt (s : State) (id : Nat) (r : Option Nat) (o : MemOp) (pa : Nat) :
    (s.updOp id (fun o => { o with relAt := r })).queuedBefore o pa = s.queuedBefore o pa := by
  simp only [State.queuedBefore, State.updOp, List.any_map]
  refine congrArg (s.ops.any ·) (funext fun e => ?_)
  simp only [Function.comp_apply]
  split <;> rfl

/-- With no dirty line, a release only notes that it is under way. -/
theorem startRelease_of_clean (ho : s.op? o.id = some o) (hclean : ∀ l ∈ (s.core o.core).l1, l.dirty = 0) :
    ∃ r, s.startRelease o.id = { s with ops := (s.startRelease o.id).ops } ∧ (s.startRelease o.id).op? o.id = some { o with relAt := r }
      ∧ ∀ pa, (s.startRelease o.id).queuedBefore { o with relAt := r } pa = s.queuedBefore o pa := by
  rw [State.startRelease, ho]
  dsimp only
  rw [releaseL1_of_clean (fun _ l hl _ => hclean l hl)]
  split
  · exact ⟨some s.nextId, rfl, op?_updOp ho _ (fun _ => rfl), fun pa => queuedBefore_updOp_relAt s o.id (some s.nextId) o pa⟩
  · exact ⟨o.relAt, rfl, ho, fun _ => rfl⟩

theorem lineBusy_of_clean {core : Nat} (hclean : ∀ l ∈ (s.core core).l1, l.dirty = 0) (hbacks : ∀ b ∈ s.backs, b.core ≠ core) (line : Nat) :
    s.lineBusy core line = false := by
  rw [State.lineBusy, State.sectorsBusy, Bool.or_eq_false_iff]
  refine ⟨List.any_eq_false.mpr (fun b hb => by simp [hbacks b hb]), ?_⟩
  split
  next l hl => simp [hclean l (List.mem_of_find?_eq_some hl)]
  next => rfl

end

/-! ### The queue lets a request through -/

section
variable {s u : State} {o : MemOp} {a b : Access} {head tail cap : Nat}

/-- What an enqueue leaves: its value at TAIL's place, and TAIL one on. -/
theorem queueMove_enqueues (hoff : s.debugOff) {v : W64} (hkind : o.kind = .qenq v) :
    ∃ u b, s.queueMove o a head tail cap = (u, b) ∧ SliceOnly s u
      ∧ u.mem = writeBytes (writeBytes s.mem (a.pa + 64 + 8 * (tail % cap)) (bytesOfNat 8 v.toNat)) (a.pa + 8) (bytesOfNat 8 (tail + 1))
      ∧ b.phase = .done ∧ b.lane = a.lane ∧ b.data = a.data := by
  obtain ⟨hvalue, hoff'⟩ := slicePut_banksOnly hoff 0 o.core (a.pa + 64 + 8 * (tail % cap)) (bytesOfNat 8 v.toNat)
  obtain ⟨htail, -⟩ := slicePut_banksOnly hoff' 0 o.core (a.pa + 8) (bytesOfNat 8 (tail + 1))
  rw [State.queueMove, hkind]
  refine ⟨_, _, rfl, (storeOnly_slicePut ..).sliceOnly.trans (storeOnly_slicePut ..).sliceOnly, ?_, rfl, rfl, rfl⟩
  rw [htail.mem, hvalue.mem]

/-- What a dequeue leaves: HEAD one on; it takes the value at HEAD's place. -/
theorem queueMove_dequeues (hoff : s.debugOff) {d : Nat} (hkind : o.kind = .qdeq d) :
    ∃ u b, s.queueMove o a head tail cap = (u, b) ∧ SliceOnly s u ∧ u.mem = writeBytes s.mem a.pa (bytesOfNat 8 (head + 1))
      ∧ b.phase = .done ∧ b.lane = a.lane ∧ b.data = readBytes s.mem (a.pa + 64 + 8 * (head % cap)) 8 := by
  obtain ⟨hhead, -⟩ := slicePut_banksOnly hoff 0 o.core a.pa (bytesOfNat 8 (head + 1))
  rw [State.queueMove, hkind]
  refine ⟨_, _, rfl, (storeOnly_slicePut ..).sliceOnly.trans (coresOnly_acquireL1 ..).sliceOnly, ?_, rfl, rfl, rfl⟩
  exact (coresOnly_acquireL1 ..).mem.trans hhead.mem

/-- The states in which a request that has reached its queue performs. -/
structure QueueReady (s : State) (o : MemOp) (a : Access) (head tail cap : Nat) : Prop where
  found : s.op? o.id = some o
  access : o.queueAccess? = some a
  accs : o.accs = [a]
  can : s.canPerform o a = true
  page : a.kind ≠ 2
  free : s.pinnedIn (some o.core) (s.linesOfQueue o a) = []
  quiet : ∀ line, s.lineBusy o.core line = false
  block : queueBlock s.mem a.pa (s.blockPage a.pa a.logPage) = some (head, tail, cap)
  lets : queueOpen o.kind head tail cap = true
  first : s.queuedBefore o a.pa = false

/-- The request of a queue that lets it through leaves what the move leaves. -/
theorem QueueReady.queueRequest (h : QueueReady (s.startRelease o.id) o a head tail cap)
    (hmove : (s.startRelease o.id).queueMove o a head tail cap = (u, b)) (hu : SliceOnly (s.startRelease o.id) u) (hlane : b.lane = a.lane) :
    ∃ q, (s.queueRequest o.id).op? o.id = some q ∧ q.accs = [b] ∧ (s.queueRequest o.id).mem = u.mem := by
  have hused := cachesOnly_useLine u a.pa 0
  have hput : o.putAccess b = { o with accs := [b] } := by
    rw [MemOp.putAccess, h.accs, List.map_singleton, if_pos hlane.symm]
  have hop := op?_updOp ((hused.sliceOnly.op? o.id).trans ((hu.op? o.id).trans h.found)) (fun o => o.putAccess b) (fun _ => rfl)
  rw [hput] at hop
  have hfree := coresOnly_freeLog ((u.useLine a.pa 0).updOp o.id (fun o => o.putAccess b)) o.id
  have hbehind := waveChange_regionBehind (((u.useLine a.pa 0).updOp o.id (fun o => o.putAccess b)).freeLog o.id) o
  have hrequest : s.queueRequest o.id = (((u.useLine a.pa 0).updOp o.id (fun o => o.putAccess b)).freeLog o.id).regionBehind o := by
    have hnobusy : ¬ ((s.startRelease o.id).linesOfQueue o a).any (fun pa => (s.startRelease o.id).lineBusy o.core (pa / 128)) = true := by
      simp [h.quiet]
    rw [State.queueRequest]
    dsimp only
    rw [h.found]
    dsimp only
    rw [h.access]
    dsimp only
    rw [h.can, if_neg (by decide), if_neg h.page, if_neg (not_not.mpr h.free), if_neg hnobusy, h.block]
    dsimp only
    rw [h.lets, h.first, hmove]
    rfl
  rw [hrequest]
  refine ⟨{ o with accs := [b] }, (hbehind.op? _).trans ?_, rfl, ?_⟩
  · rw [hfree]
    exact hop
  · rw [hbehind.state, hfree]
    exact hused.mem

/-- What the state of a request gives once its release has nothing to send. -/
theorem queueReady_of_clean (access : o.queueAccess? = some a) (ho : s.op? o.id = some o) (haccs : o.accs = [a]) (hpage : a.kind ≠ 2)
    (hcan : ∀ o1, (s.startRelease o.id).op? o.id = some o1 → (s.startRelease o.id).canPerform o1 a = true)
    (hfree : s.pinnedIn (some o.core) (s.linesOfQueue o a) = []) (hclean : ∀ l ∈ (s.core o.core).l1, l.dirty = 0)
    (hbacks : ∀ b ∈ s.backs, b.core ≠ o.core) (hblock : queueBlock s.mem a.pa (s.blockPage a.pa a.logPage) = some (head, tail, cap))
    (hlets : queueOpen o.kind head tail cap = true) (hfirst : s.queuedBefore o a.pa = false) :
    ∃ r, s.startRelease o.id = { s with ops := (s.startRelease o.id).ops }
      ∧ QueueReady (s.startRelease o.id) { o with relAt := r } a head tail cap := by
  obtain ⟨r, hstate, hop, hbefore⟩ := startRelease_of_clean ho hclean
  refine ⟨r, hstate, hop, access, haccs, hcan _ hop, hpage, ?_, ?_, ?_, hlets, (hbefore _).trans hfirst⟩
  · rw [hstate]
    exact hfree
  · rw [hstate]
    exact lineBusy_of_clean hclean hbacks
  · rw [hstate]
    exact hblock

/-- The eight bytes of a number stand at their place after a write of them, and every other byte is as it was. -/
theorem writeWord_leaves {m m' : List (Nat × Byte)} {pa v : Nat} (h : m' = writeBytes m pa (bytesOfNat 8 v)) :
    natOfBytes (readBytes m' pa 8) = v % 2 ^ 64 ∧ ∀ p, p < pa ∨ pa + 8 ≤ p → readByte m' p = readByte m p := by
  obtain ⟨hbytes, hrest⟩ := writeBytes_leaves h (bytesOfNat_length 8 v)
  exact ⟨by rw [hbytes, natOfBytes_bytesOfNat]; norm_num, hrest⟩

/-- A write that lies apart from some bytes leaves them. -/
theorem readBytes_congr {m m' : List (Nat × Byte)} {pa n : Nat} (h : ∀ p, pa ≤ p → p < pa + n → readByte m' p = readByte m p) :
    readBytes m' pa n = readBytes m pa n := by
  induction n generalizing pa with
  | zero => rfl
  | succ n ih => exact congrArg₂ List.cons (h pa (le_refl _) (by omega)) (ih (fun p hle hlt => h p (by omega) (by omega)))

variable (ho : s.op? o.id = some o) (hoff : s.debugOff)
  (hready : ∃ r, s.startRelease o.id = { s with ops := (s.startRelease o.id).ops } ∧ QueueReady (s.startRelease o.id) { o with relAt := r } a head tail cap)
include ho hoff hready

theorem queueEnqueueRequest_effect {v : W64} (hkind : o.kind = .qenq v) :
    ∃ t, exec (.queueEnqueueRequest o.id) s = .next t
      ∧ (∃ q b, t.op? o.id = some q ∧ q.accs = [b] ∧ b.phase = .done ∧ b.data = a.data)
      ∧ natOfBytes (readBytes t.mem (a.pa + 64 + 8 * (tail % cap)) 8) = v.toNat
      ∧ natOfBytes (readBytes t.mem (a.pa + 8) 8) = (tail + 1) % 2 ^ 64
      ∧ ∀ p, (p < a.pa + 64 + 8 * (tail % cap) ∨ a.pa + 64 + 8 * (tail % cap) + 8 ≤ p) → (p < a.pa + 8 ∨ a.pa + 16 ≤ p) →
          readByte t.mem p = readByte s.mem p := by
  obtain ⟨r, hstate, hready⟩ := hready
  have hoff1 : (s.startRelease o.id).debugOff := by rw [hstate]; exact hoff
  have hmem1 : (s.startRelease o.id).mem = s.mem := by rw [hstate]
  obtain ⟨u, b, hmove, hu, hmem, hphase, hlane, hdata⟩ :=
    queueMove_enqueues (o := { o with relAt := r }) (a := a) (head := head) (tail := tail) (cap := cap) hoff1 hkind
  obtain ⟨q, hq, hqaccs, htmem⟩ := hready.queueRequest hmove hu hlane
  have hexec : exec (.queueEnqueueRequest o.id) s = .next (s.queueRequest o.id) := by
    show execQueueEnqueueRequest o.id s = _
    rw [execQueueEnqueueRequest, ho]
    dsimp only
    rw [hkind]
    rfl
  obtain ⟨hvalue, hvalueRest⟩ := writeWord_leaves (m := s.mem) (pa := a.pa + 64 + 8 * (tail % cap)) (v := v.toNat) rfl
  obtain ⟨htail, htailRest⟩ := writeWord_leaves (htmem.trans hmem)
  rw [hmem1] at htailRest
  refine ⟨_, hexec, ⟨q, b, hq, hqaccs, hphase, hdata⟩, ?_, htail, fun p hp hp' => (htailRest p (by omega)).trans (hvalueRest p hp)⟩
  rw [readBytes_congr (fun p hle hlt => htailRest p (by omega)), hvalue]
  exact Nat.mod_eq_of_lt v.isLt

theorem queueDequeueRequest_effect {d : Nat} (hkind : o.kind = .qdeq d) :
    ∃ t, exec (.queueDequeueRequest o.id) s = .next t
      ∧ (∃ q b, t.op? o.id = some q ∧ q.accs = [b] ∧ b.phase = .done ∧ b.data = readBytes s.mem (a.pa + 64 + 8 * (head % cap)) 8)
      ∧ natOfBytes (readBytes t.mem a.pa 8) = (head + 1) % 2 ^ 64
      ∧ ∀ p, (p < a.pa ∨ a.pa + 8 ≤ p) → readByte t.mem p = readByte s.mem p := by
  obtain ⟨r, hstate, hready⟩ := hready
  have hoff1 : (s.startRelease o.id).debugOff := by rw [hstate]; exact hoff
  have hmem1 : (s.startRelease o.id).mem = s.mem := by rw [hstate]
  obtain ⟨u, b, hmove, hu, hmem, hphase, hlane, hdata⟩ :=
    queueMove_dequeues (o := { o with relAt := r }) (a := a) (head := head) (tail := tail) (cap := cap) hoff1 hkind
  obtain ⟨q, hq, hqaccs, htmem⟩ := hready.queueRequest hmove hu hlane
  have hexec : exec (.queueDequeueRequest o.id) s = .next (s.queueRequest o.id) := by
    show execQueueDequeueRequest o.id s = _
    rw [execQueueDequeueRequest, ho]
    dsimp only
    rw [hkind]
    rfl
  rw [hmem1] at hmem hdata
  obtain ⟨hhead, hrest⟩ := writeWord_leaves (htmem.trans hmem)
  exact ⟨_, hexec, ⟨q, b, hq, hqaccs, hphase, hdata⟩, hhead, hrest⟩

end

/-! ### The queue instructions (21 R462, R463) -/

section
variable {s : State} {c : Ctx} {u : UWord}

theorem qenq_starts (hi : s.issuing = some c) (hq : (c.sreg u.a.toNat).toNat < 2 ^ 57) (free : Free c u.s true (some .st) none)
    (release : ReleaseReady s c 2) :
    ∃ t, exec (.qenq u) s = .next t
      ∧ Started c s t .st (.qenq (c.sreg u.b.toNat)) 4 [(c.part.base, (c.sreg u.a.toNat).toNat, 8, [], [])] := by
  refine ⟨_, issue_next _ _ c s hi (by simp) rfl rfl free, ?_⟩
  dsimp only
  rw [releaseWait_of_ready release]
  dsimp only
  rw [if_neg (not_le.mpr hq)]
  exact startOp_starts hi .st _ 4 2 5 0 [newAccess c.part.base (c.sreg u.a.toNat).toNat 8 0 0 [] []] (fun h => absurd h Bool.false_ne_true)

theorem qdeq_starts (hi : s.issuing = some c) (hq : (c.sreg u.a.toNat).toNat < 2 ^ 57) (free : Free c u.s true (some .ld) none) :
    ∃ t, exec (.qdeq u) s = .next t ∧ Started c s t .ld (.qdeq u.d.toNat) 4 [(c.part.base, (c.sreg u.a.toNat).toNat, 8, [], [])] := by
  refine ⟨_, issue_next _ _ c s hi (by simp) rfl rfl free, ?_⟩
  dsimp only
  rw [releaseWait_of_ready (fun h => absurd h (by decide))]
  dsimp only
  rw [if_neg (not_le.mpr hq)]
  exact startOp_starts hi .ld _ 4 1 5 0 [newAccess c.part.base (c.sreg u.a.toNat).toNat 8 0 0 [] []] (fun h => absurd h Bool.false_ne_true)

end

end Sys2Proof.Machine
end

section
/-! SUPPORT. The statement about queue instructions. -/

open Sys2Proof Sys2Proof.Machine

/-- Settles O29, from the one access that each instruction starts, and the two moves of a queue at its slice. -/
theorem queueInstructions : Obligations.QueueInstructions := by
  unfold Obligations.QueueInstructions
  constructor
  · intro s c u hi q hq
    exact ⟨fun free release => qenq_starts hi hq free release, fun free => qdeq_starts hi hq free⟩
  · intro s o a head tail cap ho haccs hpage hcan hfree hclean hbacks hoff hblock hlets hfirst done
    have hready : o.queueAccess? = some a → _ :=
      fun access => queueReady_of_clean access ho haccs hpage hcan hfree hclean hbacks hblock hlets hfirst
    refine ⟨fun v hkind => queueEnqueueRequest_effect ho hoff (hready ?_) hkind, fun d hkind => queueDequeueRequest_effect ho hoff (hready ?_) hkind⟩
    · simp [MemOp.queueAccess?, hkind, haccs]
    · simp [MemOp.queueAccess?, hkind, haccs]

end


section
/-! SUPPORT. A rejected access (08 R191): beside its phase, the rejection notes in it the extent that its record covers. -/

open Sys2Proof

namespace Sys2Proof.Machine

/-- A load of a page that is not present: its access is held on ticket 0 of die 0, and has met no leaf yet. -/
def heldLoad : MemOp :=
  { id := 0, core := 0, slot := 0, admission := 0, group := 0, launch := 0, asid := 0, cls := .ld, pc := 0, next := 0, kind := .load 0 0 2, ord := 0
    scope := 0, sub := 0, accs := [{ newAccess 0 0x10000 8 0 0 [] [] with phase := .held 0 0 }], issued := 0, due := 0, parked := false
    arrival := 0, acted := false, status := 0, lane := 0, reads := [], relAt := none }

/-- The record of its page, of 64 KiB. -/
def heldRecord : FaultRec :=
  { ticket := 0, va := 0x10000, asid := 0, kind := 0, core := 0, slot := 0, stamp := 0, page := 0x10000, size := 0x10000 }

/-- The two alone, in a package that answers. -/
def heldState : State :=
  { State.reset with
    ops := [heldLoad]
    dies := [(0, { Die.reset with faults := [heldRecord] })]
    pkg := { Package.reset with fwState := 1 } }

/-- The write of FREPLY that rejects ticket 0. -/
def rejectZero : W64 := 0x100000000

/-- The rejection leaves log2 of the record's 64 KiB in the access, where 0 stood. -/
theorem reject_notes_extent : ∃ t, exec (.faultReply 0 rejectZero .pf0) heldState = .next t ∧ t.op? 0 = some
    { heldLoad with accs := [{ newAccess 0 0x10000 8 0 0 [] [] with phase := .failed 1, logPage := 16 }] } :=
  ⟨_, rfl, by decide⟩

end Sys2Proof.Machine
end

section
/-! SUPPORT. The statement about walks, replies, pins and banks. -/

open Sys2Proof Sys2Proof.Machine

/-- Refutes O42: a rejection changes more of the accesses that it fails than their phase. A load of a 64 KiB page that is not present, held on ticket 0
with no page size noted, holds log2 of the record's extent after the rejection of the ticket. -/
theorem not_walksAndReplies : ¬ Obligations.WalksAndReplies := by
  unfold Obligations.WalksAndReplies
  rintro ⟨⟨-, hreplies⟩, -⟩
  obtain ⟨-, hreject, -⟩ := hreplies heldState 0 rejectZero .pf0 heldRecord rfl (by decide) (by decide)
  obtain ⟨t, hexec, -, -, -, -, hafter⟩ := hreject (by decide) (by decide)
  obtain ⟨u, hexec', hop⟩ := reject_notes_extent
  obtain rfl : t = u := Host.Outcome.next.inj (hexec.symm.trans hexec')
  obtain ⟨q, hq, haccs⟩ := hafter heldLoad (by decide) (fun _ _ _ _ => by simp [heldLoad])
  have hnoted : q.accs.map (fun a => a.logPage) = [16] := by
    obtain rfl : _ = q := Option.some.inj (hop.symm.trans hq)
    rfl
  rw [haccs] at hnoted
  exact absurd hnoted (by decide)

end

section
/-! SUPPORT. `exit`, `entry` and `region` (20 R428-R430, 12 R281): what the end of lanes leaves of their wave, and what a region's begin records. -/

namespace Sys2Proof.Machine

/-! ### Lanes that exit (20 R429, R430) -/

theorem State.retireFrags_eq (s : State) (w : Wave) (lanes : Lanes) (killed : Bool) :
    s.retireFrags w lanes killed = { s with frags := (s.retireFrags w lanes killed).frags } := by
  unfold State.retireFrags
  split <;> rfl

theorem State.countPixelWave_eq (s : State) (w : Wave) : s.countPixelWave w = { s with dies := (s.countPixelWave w).dies } := by
  unfold State.countPixelWave
  split
  · split <;> rfl
  · rfl

theorem State.endGroup_frame (s : State) (g : Nat) (v : Group) : (s.endGroup g v).waves = s.waves ∧ (s.endGroup g v).mem = s.mem := by
  rw [State.endGroup, State.updLaunch_waves, State.updLaunch_mem]
  cases v.kind with
  | task j =>
    dsimp only
    split
    · split <;> exact ⟨rfl, rfl⟩
    · exact ⟨rfl, rfl⟩
  | ordinary => exact ⟨rfl, rfl⟩
  | mesh => exact ⟨rfl, rfl⟩
  | pixel => exact ⟨rfl, rfl⟩

/-- The end of a resident wave takes it from the table of waves, and leaves every other one and memory. -/
theorem State.endWave_frame {s : State} {k : Nat} {w : Wave} (h : s.wave? k = some w) :
    (s.endWave k).waves = delT s.waves k ∧ (s.endWave k).mem = s.mem := by
  have hretired : ((s.retireFrags w (laneRange 0 w.width) false).countPixelWave w).waves = s.waves
      ∧ ((s.retireFrags w (laneRange 0 w.width) false).countPixelWave w).mem = s.mem := by
    rw [State.countPixelWave_eq, State.retireFrags_eq]
    exact ⟨rfl, rfl⟩
  obtain ⟨hwaves, hmem⟩ := hretired
  unfold State.endWave
  rw [h]
  dsimp only
  split
  · split
    · rw [(State.endGroup_frame _ _ _).1, (State.endGroup_frame _ _ _).2, State.updGroup_waves, State.updGroup_mem]
      exact ⟨congrArg (delT · k) hwaves, hmem⟩
    · rw [State.updGroup_waves, State.updGroup_mem]
      exact ⟨congrArg (delT · k) hwaves, hmem⟩
  · rw [State.updGroup_waves, State.updGroup_mem]
    exact ⟨congrArg (delT · k) hwaves, hmem⟩

/-- The parts that do not have a lane base are those that an update of the one that has it leaves. -/
theorem Wave.otherParts_updPart (w : Wave) (b : Nat) (f : Part → Part) (hf : ∀ p, (f p).base = p.base) :
    (w.updPart b f).parts.filter (fun p => p.base != b) = w.parts.filter (fun p => p.base != b) := by
  show (w.parts.map _).filter _ = _
  induction w.parts with
  | nil => rfl
  | cons p r ih =>
    rw [List.map_cons, List.filter_cons, List.filter_cons, ih]
    by_cases hp : p.base = b
    · simp [hp, hf]
    · simp [hp]

/-- The wave of a part whose only path of a part, with no other lanes, exits. -/
def exitedWave (c : Ctx) (w : Wave) : Wave :=
  { w with exited := w.exited ||| (c.part.cur &&& ~~~c.wave.exited), parts := w.parts.filter (fun p => p.base != c.ref.base) }

/-- Lanes that exit on the only path of their part take the part with them, and the wave when no part is left. -/
theorem exitLanes_frame {s : State} {c : Ctx} {w : Wave} (hw : s.wave? c.ref.key = some w) (hpaths : c.part.otherLanes = 0) :
    ∃ t, s.exitLanes c = t ∧ t.mem = s.mem ∧ (∀ k, k ≠ c.ref.key → t.wave? k = s.wave? k)
      ∧ ((exitedWave c w).parts ≠ [] → t.wave? c.ref.key = some (exitedWave c w) ∧ t.cores = s.cores)
      ∧ ((exitedWave c w).parts = [] → t.wave? c.ref.key = none) := by
  have hretired := s.retireFrags_eq c.wave (c.part.cur &&& ~~~c.wave.exited) false
  generalize hu : ((s.retireFrags c.wave (c.part.cur &&& ~~~c.wave.exited) false).updWave c.ref.key
    (fun w => { w with exited := w.exited ||| (c.part.cur &&& ~~~c.wave.exited) })).updWave c.ref.key
      (fun w => { w with parts := w.parts.filter (fun p => p.base != c.ref.base) }) = u
  have hresident : (s.retireFrags c.wave (c.part.cur &&& ~~~c.wave.exited) false).wave? c.ref.key = some w := by
    rw [hretired]
    exact hw
  have hfound : u.wave? c.ref.key = some (exitedWave c w) := hu ▸ wave?_updWave_some (wave?_updWave_some hresident _) _
  have hothers : ∀ k, k ≠ c.ref.key → u.wave? k = s.wave? k := fun k hk => by
    rw [← hu, State.wave?_updWave_of_ne _ _ hk, State.wave?_updWave_of_ne _ _ hk, hretired]
    rfl
  have hrest : u.mem = s.mem ∧ u.cores = s.cores := by
    rw [← hu, hretired]
    simp
  obtain ⟨hmem, hcores⟩ := hrest
  refine ⟨_, rfl, ?_⟩
  unfold State.exitLanes
  dsimp only
  rw [if_neg (not_not.mpr hpaths), hu, hfound]
  dsimp only
  split
  · next hnone =>
    obtain ⟨hwaves, hend⟩ := State.endWave_frame hfound
    refine ⟨hend.trans hmem, fun k hk => ?_, fun h => absurd hnone h, fun _ => ?_⟩
    · rw [State.wave?, hwaves, lookT_delT_of_ne _ hk]
      exact hothers k hk
    · rw [State.wave?, hwaves]
      exact lookT_delT_self _ _
  · next hsome => exact ⟨hmem, hothers, fun _ => ⟨hfound, hcores⟩, fun h => absurd h hsome⟩

theorem oldestDelivery_none {p : Part} (hfails : p.fails = []) (hheld : p.held = []) : oldestDelivery p = none := by
  rw [oldestDelivery, hfails, hheld]
  rfl

theorem exit_completes {s : State} {c : Ctx} {r : RWord} (hi : s.issuing = some c) (free : Plain c r.s) (hframes : c.part.frames = [])
    (hquiet : s.quiet c = true) (hfails : c.part.fails = []) (hheld : c.part.held = []) (hpaths : c.part.otherLanes = 0) :
    ∃ t, exec (.exit r) s = .next t ∧ (∀ k, k ≠ c.ref.key → t.wave? k = s.wave? k) ∧ t.mem = s.mem
      ∧ ((∃ p ∈ c.wave.parts, p.base ≠ c.ref.base) → ∃ w, t.wave? c.ref.key = some w ∧ SameVregs c.wave w
          ∧ w.exited = c.wave.exited ||| (c.part.cur &&& ~~~c.wave.exited) ∧ w.parts = c.wave.parts.filter (fun p => p.base != c.ref.base)
          ∧ t.cores = s.cores)
      ∧ ((∀ p ∈ c.wave.parts, p.base = c.ref.base) → t.wave? c.ref.key = none) := by
  have hcleared := wave?_updWave_some (issuing_wave hi) (fun w => w.updPart c.ref.base (fun p => { p with fails := [], held := [] }))
  have hleft : (exitedWave c (c.wave.updPart c.ref.base (fun p => { p with fails := [], held := [] }))).parts
      = c.wave.parts.filter (fun p => p.base != c.ref.base) := Wave.otherParts_updPart _ _ _ (fun _ => rfl)
  obtain ⟨t, ht, hmem, hothers, hstays, hends⟩ := exitLanes_frame hcleared hpaths
  rw [hleft] at hstays hends
  refine ⟨t, ?_, fun k hk => (hothers k hk).trans (State.wave?_updWave_of_ne _ _ hk), hmem.trans (State.updWave_mem ..), fun ⟨p, hp, hne⟩ => ?_,
    fun hall => hends (List.filter_eq_nil_iff.mpr (fun p hp => by simp [hall p hp]))⟩
  · refine (issue_next _ _ c s hi (by simp) (if_pos hframes) rfl free).trans (congrArg _ ?_)
    dsimp only
    rw [if_neg (by simp [hquiet]), oldestDelivery_none hfails hheld, ite_self]
    exact ht
  · obtain ⟨hfound, hcores⟩ := hstays (List.ne_nil_of_mem (List.mem_filter.mpr ⟨hp, bne_iff_ne.mpr hne⟩))
    exact ⟨_, hfound, ⟨rfl, rfl⟩, rfl, hleft, hcores.trans (State.updWave_cores ..)⟩

/-! ### `entry` and `region` (20 R428, 12 R281, 15 R352) -/

theorem entry_completes {s : State} {c : Ctx} {r : RWord} (hi : s.issuing = some c) (free : Plain c r.s) :
    ∃ t w, exec (.entry r) s = .next t ∧ t = { s with cores := t.cores, waves := t.waves }
      ∧ (∀ k, k ≠ c.ref.key → t.wave? k = s.wave? k) ∧ t.cores = (s.acquireL1 c.ref.core 6).cores
      ∧ SameVregs c.wave w ∧ WaveIs c t id (c.part.pastIn c 4 4 s.dcc) w := by
  have hacquired := coresOnly_acquireL1 s c.ref.core 6
  obtain ⟨hstate, hothers, w, hsame, hwave⟩ := hacquired.updPart_effect (issuing_ctx hi)
    (fun p => (p.moveTo (c.next 4)).issued (s.acquireL1 c.ref.core 6).dcc 4) (fun _ => rfl)
  rw [hacquired.dcc] at hwave
  exact ⟨_, w, issue_next _ _ c s hi (by simp) rfl rfl free, hstate, hothers, State.updPart_cores .., hsame, hwave⟩

/-- The traversal states that a region records are those of the region before it, and those that stand. -/
theorem recordRays_records {s : State} {r : PartRef} {w : Wave} (h : s.wave? r.key = some w) :
    ∃ v, (s.recordRays r).wave? r.key = some v ∧ v = { w with raysAtRegion := v.raysAtRegion }
      ∧ ∀ e ∈ v.raysAtRegion, e ∈ w.raysAtRegion ∨ e ∈ w.rays := by
  refine ⟨_, wave?_updWave_some h _, ?_⟩
  split
  · exact ⟨rfl, fun e he => Or.inl he⟩
  · exact ⟨rfl, fun e he => (List.mem_append.mp he).imp (List.mem_filter.mp · |>.1) (List.mem_filter.mp · |>.1)⟩

theorem region_completes {s : State} {c : Ctx} {r : RWord} (hi : s.issuing = some c) (free : Plain c r.s) (hloads : c.part.ldOps = [])
    (hheld : c.part.heldOf [.ld] = none) :
    ∃ t w, exec (.region r) s = .next t ∧ OnlyWave c s t ∧ SameVregs c.wave w
      ∧ WaveIs c t (fun v => { v with raysAtRegion := w.raysAtRegion })
          (Part.past { c.part with region := c.next 4, regionAt := s.dcc, regionCount := min (c.part.regionCount + 1) 127 } c 4 s.dcc) w
      ∧ ∀ e ∈ w.raysAtRegion, e ∈ c.wave.raysAtRegion ∨ e ∈ c.wave.rays := by
  have hentered := wave?_updWave_some (issuing_wave hi) (fun w => w.updPart c.ref.base (fun p => p.enterRegion (c.next 4) true s.dcc))
  obtain ⟨v, hv, heq, hrays⟩ := recordRays_records (s := s.updPart c.ref (fun p => p.enterRegion (c.next 4) true s.dcc)) hentered
  have hpart : v.part? c.ref.base = some (c.part.enterRegion (c.next 4) true s.dcc) := by
    rw [heq]
    exact part?_updPart_some (issuing_part hi) _ (fun _ => rfl)
  have hchange := (waveChange_beginRegion s c.ref (c.next 4) true).trans
    (waveChange_updPart (s.beginRegion c.ref (c.next 4) true) c.ref (fun p => p.past c 4 (s.beginRegion c.ref (c.next 4) true).dcc))
  have hdcc : (s.beginRegion c.ref (c.next 4) true).dcc = s.dcc := State.beginRegion_dcc ..
  refine ⟨(s.beginRegion c.ref (c.next 4) true).done c 4, v.updPart c.ref.base (fun p => p.past c 4 s.dcc), ?_, ?_, ?_, ⟨?_, ?_, ?_, ?_⟩, hrays⟩
  · refine (issue_next _ _ c s hi (by simp) rfl rfl free).trans (congrArg _ ?_)
    rw [if_neg (not_not.mpr hloads), hheld]
  · exact ⟨hchange.state, hchange.others⟩
  · rw [heq]
    exact ⟨rfl, rfl⟩
  · rw [← hdcc]
    exact wave?_done hv 4
  · rw [heq]
    rfl
  · exact part?_updPart_some hpart _ (fun _ => rfl)
  · intro b hb
    rw [Wave.part?_updPart_of_ne _ _ (fun p => Part.pastIn_base p c 4 1 s.dcc) hb, heq]
    exact Wave.part?_updPart_of_ne _ _ (fun _ => rfl) hb

end Sys2Proof.Machine
end

section
/-! SUPPORT. The statement about `exit`, `entry` and `region`. -/

open Sys2Proof Sys2Proof.Machine

/-- Settles O15: the lanes of an only path take their part with them, and a wave's last part the wave; `entry` and `region` move their part on behind
the L1's acquire and the region's begin. -/
theorem exits : Obligations.Exits := by
  unfold Obligations.Exits
  exact ⟨fun _ _ _ hi free hframes hquiet hfails hheld hpaths => exit_completes hi free hframes hquiet hfails hheld hpaths,
    fun _ _ _ hi free => ⟨entry_completes hi free, region_completes hi free⟩⟩

end

section
/-! SUPPORT. A part that moves on or waits behind changes of the caches: what its wave holds, and the release that it waits for (09 R217). -/

namespace Sys2Proof.Machine

/-! ### A part that moves on behind changes elsewhere -/

/-- The wave of a part that moves on in a state with the waves of `s`. -/
theorem done_movesOn {s u : State} {c : Ctx} (hi : s.issuing = some c) (hwaves : u.waves = s.waves) (hdcc : u.dcc = s.dcc) (len : Nat) :
    (∀ k, k ≠ c.ref.key → (u.done c len).wave? k = s.wave? k)
      ∧ ∃ w, SameVregs c.wave w ∧ WaveIs c (u.done c len) id (c.part.past c len s.dcc) w := by
  have hsame : ∀ k, u.wave? k = s.wave? k := fun k => by rw [State.wave?, hwaves, State.wave?]
  rw [← hdcc]
  refine ⟨fun k hk => (State.wave?_updWave_of_ne _ _ hk).trans (hsame k), c.wave.updPart c.ref.base (fun p => p.past c len u.dcc), ⟨rfl, rfl⟩,
    wave?_done ((hsame _).trans (issuing_wave hi)) len, rfl, part?_updPart_some (issuing_part hi) _ (fun _ => rfl), fun b hb => ?_⟩
  exact Wave.part?_updPart_of_ne _ _ (fun p => Part.pastIn_base p c len 1 u.dcc) hb

/-! ### A release whose write-backs are under way -/

/-- A release that finds dirty sectors sends them, and its part waits for them before its instruction. -/
theorem releaseAt_sends {s : State} {c : Ctx} {scope : Nat} (barrier : Bool) (hi : s.issuing = some c) (hrel : c.part.relAt = none)
    (hbacks : (s.releaseL1 c.ref.core scope).backsDone c.ref.core (s.releaseL1 c.ref.core scope).nextId = false) :
    ∃ t, s.releaseAt c scope barrier = some t ∧ ReleaseSent s c scope barrier t := by
  have hsent := unitOnly_releaseL1 s c.ref.core scope
  have hctx : (s.releaseL1 c.ref.core scope).ctx? c.ref = some c := by
    rw [hsent.eq]
    exact issuing_ctx hi
  have hdcc : (s.releaseL1 c.ref.core scope).dcc = s.dcc := by rw [hsent.eq]
  have hnext : ((s.releaseL1 c.ref.core scope).updPart c.ref (fun p => { p with relAt := some (s.releaseL1 c.ref.core scope).nextId })
      |>.parkPart c.ref (.on (.backs barrier))).nextId = (s.releaseL1 c.ref.core scope).nextId := by simp
  obtain ⟨v, honly, hsame, hwave⟩ := updPart_effect hctx (fun p => { p with relAt := some (s.releaseL1 c.ref.core scope).nextId }) (fun _ => rfl)
  have hbecomes := PartBecomes.parkPart ⟨v, honly, hsame, hwave⟩ (.on (.backs barrier))
  obtain ⟨w, honly, hsame, hwave⟩ := hbecomes
  refine ⟨_, ?_, w, honly.state, fun k hk => (honly.others k hk).trans (hsent.wave? k), hsame, ?_⟩
  · rw [State.releaseAt, hrel]
    dsimp only
    rw [if_neg (by rw [hbacks]; exact Bool.false_ne_true)]
  · rw [hnext, ← hdcc]
    exact hwave

theorem releaseFirst_sends {s : State} {c : Ctx} {scope : Nat} {ks : List Cls} (hi : s.issuing = some c) (hdrained : s.drained c.ref.core c.part = true)
    (hheld : c.part.heldOf ks = none) (hrel : c.part.relAt = none)
    (hbacks : (s.releaseL1 c.ref.core scope).backsDone c.ref.core (s.releaseL1 c.ref.core scope).nextId = false) :
    ∃ t, s.releaseFirst c scope ks = some t ∧ ReleaseSent s c scope false t := by
  obtain ⟨t, ht, hsent⟩ := releaseAt_sends false hi hrel hbacks
  refine ⟨t, ?_, hsent⟩
  simp only [State.releaseFirst, State.drainFirst, hdrained, hheld, Bool.not_true, Bool.false_eq_true, if_false, Option.map_none, ht]

theorem drainFirst_none {s : State} {c : Ctx} {ks : List Cls} (hdrained : s.drained c.ref.core c.part = true) (hheld : c.part.heldOf ks = none) :
    s.drainFirst c ks = none := by
  simp [State.drainFirst, hdrained, hheld]

end Sys2Proof.Machine
end

section
/-! SUPPORT. `fence` (09 R218): the release it waits for, and the clean sectors that its acquire drops. -/

namespace Sys2Proof.Machine

/-- The state that a fence leaves behind its release: its acquire's. -/
def State.fenced (s : State) (core ord scope : Nat) : State := if isAcquire ord then s.acquireL1 core scope else s

theorem coresOnly_fenced (s : State) (core ord scope : Nat) : CoresOnly s (s.fenced core ord scope) := by
  unfold State.fenced
  split
  · exact coresOnly_acquireL1 ..
  · rfl

theorem execFence_next {s : State} {c : Ctx} {m : MWord} {x : XmWord} (hi : s.issuing = some c) (free : Free c m.s true none none)
    (hdrained : s.drained c.ref.core c.part = true) (hheld : c.part.heldOf [.ld, .st] = none)
    (hbacks : 2 ≤ x.ord.toNat → BacksGone s c x.scope.toNat) :
    exec (.fence m x) s = .next ((s.fenced c.ref.core x.ord.toNat x.scope.toNat).done c 8) := by
  refine (issue_next _ _ c s hi (by simp) rfl rfl free).trans (congrArg _ ?_)
  have hwait : (if isRelease x.ord.toNat then s.releaseFirst c x.scope.toNat [.ld, .st] else s.drainFirst c [.ld, .st]) = none := by
    split
    · next hord => exact releaseFirst_none ⟨hdrained, hbacks (of_decide_eq_true hord)⟩ hheld
    · exact drainFirst_none hdrained hheld
  dsimp only
  rw [hwait]
  rfl

/-- The clean C-page sectors that an acquire covers are gone. -/
theorem acquireL1_clean {s : State} {core scope : Nat} {l : L1Line} (hl : l ∈ ((s.acquireL1 core scope).core core).l1) (hkind : l.kind = 0)
    (hscope : scope = 6 ∨ 3 ≤ scope ∧ l2Cached (l.line * 128) = true) : l.valid &&& ~~~l.dirty = 0 := by
  unfold State.acquireL1 at hl
  rw [if_neg (by omega), State.setL1, State.core_updCore_self] at hl
  obtain ⟨o, -, ho⟩ := List.mem_map.mp (List.mem_filter.mp hl).1
  split at ho
  · rw [← ho]
    exact BitVec.zero_and
  · next hout =>
    rw [ho] at hout
    exact absurd ⟨hkind, hscope.imp id (·.2)⟩ hout

theorem fence_moves {s : State} {c : Ctx} {m : MWord} {x : XmWord} (hi : s.issuing = some c) (free : Free c m.s true none none)
    (hdrained : s.drained c.ref.core c.part = true) (hheld : c.part.heldOf [.ld, .st] = none)
    (hbacks : 2 ≤ x.ord.toNat → BacksGone s c x.scope.toNat) :
    ∃ t, exec (.fence m x) s = .next t
      ∧ ((∀ k, k ≠ c.ref.key → t.wave? k = s.wave? k) ∧ ∃ w, SameVregs c.wave w ∧ WaveIs c t id (c.part.past c 8 s.dcc) w)
      ∧ t = { s with cores := t.cores, waves := t.waves }
      ∧ (x.ord.toNat % 2 = 0 → t.cores = s.cores) ∧ (x.ord.toNat % 2 = 1 → t.cores = (s.acquireL1 c.ref.core x.scope.toNat).cores)
      ∧ (x.ord.toNat % 2 = 1 → ∀ l ∈ (t.core c.ref.core).l1, l.kind = 0 →
          x.scope.toNat = 6 ∨ (3 ≤ x.scope.toNat ∧ l2Cached (l.line * 128) = true) → l.valid &&& ~~~l.dirty = 0) := by
  have hcores := coresOnly_fenced s c.ref.core x.ord.toNat x.scope.toNat
  have hacquires : x.ord.toNat % 2 = 1 → s.fenced c.ref.core x.ord.toNat x.scope.toNat = s.acquireL1 c.ref.core x.scope.toNat :=
    fun h => if_pos (beq_iff_eq.mpr h)
  refine ⟨_, execFence_next hi free hdrained hheld hbacks, done_movesOn hi (by rw [hcores]) hcores.dcc 8, ?_, fun h => ?_, fun h => ?_,
    fun h l hl hkind hscope => ?_⟩
  · rw [State.done_cores, (onlyWave_done c _ 8).state, hcores]
  · rw [State.done_cores, State.fenced, if_neg (by rw [isAcquire, beq_iff_eq]; omega)]
  · rw [State.done_cores, hacquires h]
  · rw [State.core, State.done_cores, hacquires h] at hl
    exact acquireL1_clean hl hkind hscope

theorem fence_sends {s : State} {c : Ctx} {m : MWord} {x : XmWord} (hi : s.issuing = some c) (free : Free c m.s true none none)
    (hdrained : s.drained c.ref.core c.part = true) (hheld : c.part.heldOf [.ld, .st] = none) (hord : 2 ≤ x.ord.toNat) (hrel : c.part.relAt = none)
    (hbacks : (s.releaseL1 c.ref.core x.scope.toNat).backsDone c.ref.core (s.releaseL1 c.ref.core x.scope.toNat).nextId = false) :
    ∃ t, exec (.fence m x) s = .next t ∧ ReleaseSent s c x.scope.toNat false t := by
  obtain ⟨t, ht, hsent⟩ := releaseFirst_sends (ks := [.ld, .st]) hi hdrained hheld hrel hbacks
  refine ⟨t, (issue_next _ _ c s hi (by simp) rfl rfl free).trans (congrArg _ ?_), hsent⟩
  have hrelease : isRelease x.ord.toNat = true := decide_eq_true hord
  dsimp only
  rw [if_pos hrelease, ht]

end Sys2Proof.Machine
end

section
/-! SUPPORT. `cctl` (19 R413-R415): what it leaves of the lines that it names, and of the others. -/

namespace Sys2Proof.Machine

/-! ### Walks read the same tables -/

/-- No table that a walk reads differs. -/
structure KeepsTables (s t : State) : Prop where
  mem : t.mem = s.mem
  base : ∀ d, (t.die d).asidt = (s.die d).asidt

theorem KeepsTables.refl (s : State) : KeepsTables s s := ⟨rfl, fun _ => rfl⟩
theorem KeepsTables.trans {s t u : State} (h : KeepsTables s t) (h' : KeepsTables t u) : KeepsTables s u :=
  ⟨h'.mem.trans h.mem, fun d => (h'.base d).trans (h.base d)⟩

theorem KeepsTables.walk {s t : State} (h : KeepsTables s t) (die : Nat) (asid : BitVec 16) (va : Nat) : t.walk die asid va = s.walk die asid va := by
  rw [State.walk, State.walk, h.mem, h.base]

theorem keepsTables_of_dies {s t : State} (hmem : t.mem = s.mem) (hdies : t.dies = s.dies) : KeepsTables s t :=
  ⟨hmem, fun d => by rw [State.die, State.die, hdies]⟩

theorem keepsTables_updDie (s : State) (d : Nat) (f : Die → Die) (hf : ∀ k, (f k).asidt = k.asidt) : KeepsTables s (s.updDie d f) := by
  refine ⟨rfl, fun n => ?_⟩
  by_cases h : n = d
  · rw [h, State.die_updDie_self, hf]
  · rw [State.die, State.die, State.updDie, getT_setT_of_ne _ _ _ h]

theorem keepsTables_fillTlbs (s : State) (core : Nat) (copy : Bool) (e : TlbEntry) : KeepsTables s (s.fillTlbs core copy e) := by
  have hdie := keepsTables_updDie s (dieOf core) (fun d => { d with llTlb := tlbFill 1024 12 d.llTlb e }) (fun _ => rfl)
  unfold State.fillTlbs
  dsimp only
  split
  · exact hdie.trans (keepsTables_of_dies rfl rfl)
  · exact hdie.trans (keepsTables_of_dies rfl rfl)

theorem keepsTables_tlbLook (s : State) (core : Nat) (copy : Bool) (asid : BitVec 16) (va : Nat) : KeepsTables s (s.tlbLook core copy asid va).1 := by
  unfold State.tlbLook
  dsimp only
  split
  · split <;> exact keepsTables_of_dies rfl rfl
  · split
    · exact keepsTables_of_dies rfl rfl
    · split
      · exact keepsTables_of_dies rfl rfl
      · split
        · next e _ =>
          exact (keepsTables_updDie s (dieOf core) (fun d => { d with llTlb := tlbTouch d.llTlb e }) (fun _ => rfl)).trans (keepsTables_of_dies rfl rfl)
        · exact .refl s

theorem useLine_dies (s : State) (pa cp : Nat) : (s.useLine pa cp).dies = s.dies := by
  unfold State.useLine State.l2Use
  split
  · rfl
  · dsimp only
    split
    · split
      · rfl
      · split <;> rfl
    · rfl

theorem useRefs_dies (s : State) (die : Nat) (asid : BitVec 16) (va : Nat) : (s.useRefs die asid va).dies = s.dies :=
  List.foldlRecOn (motive := fun t : State => t.dies = s.dies) _ _ rfl (fun _ hb _ _ => (useLine_dies ..).trans hb)

theorem keepsTables_translate (s : State) (core : Nat) (copy : Bool) (asid : BitVec 16) (va : Nat) :
    KeepsTables s (s.translate core copy asid va).1 := by
  have hlook := keepsTables_tlbLook s core copy asid va
  unfold State.translate
  generalize s.tlbLook core copy asid va = look at hlook ⊢
  obtain ⟨u, found, d⟩ := look
  cases found with
  | some e => exact hlook
  | none =>
    have hrefs := hlook.trans (keepsTables_of_dies (cachesOnly_useRefs u (dieOf core) asid va).mem (useRefs_dies ..))
    dsimp only
    split
    · exact hrefs.trans (keepsTables_fillTlbs ..)
    · dsimp only
      exact hrefs

/-! ### What a `cctl` may change -/

/-- Nothing differs but caches, banks and write-backs: those of before are still under way, and walks read the same tables. -/
structure Controls (s t : State) : Prop where
  eq : t = { s with cores := t.cores, dies := t.dies, banks := t.banks, l2 := t.l2, backs := t.backs, nextId := t.nextId }
  tables : KeepsTables s t
  backs : ∀ b ∈ s.backs, b ∈ t.backs

theorem Controls.refl (s : State) : Controls s s := ⟨rfl, .refl s, fun _ h => h⟩
theorem Controls.trans {s t u : State} (h : Controls s t) (h' : Controls t u) : Controls s u :=
  ⟨by rw [h'.eq, h.eq], h.tables.trans h'.tables, fun b hb => h'.backs b (h.backs b hb)⟩
theorem Controls.dcc {s t : State} (h : Controls s t) : t.dcc = s.dcc := by rw [h.eq]
theorem Controls.waves {s t : State} (h : Controls s t) : t.waves = s.waves := by rw [h.eq]

theorem controls_translate (s : State) (core : Nat) (asid : BitVec 16) (va : Nat) : Controls s (s.translate core false asid va).1 := by
  have hcaches := cachesOnly_translate s core false asid va
  refine ⟨?_, keepsTables_translate .., fun b hb => by rw [hcaches.eq]; exact hb⟩
  have hpins := translate_pins s core false asid va
  rw [hcaches.eq] at hpins ⊢
  rw [hpins]

theorem controls_of_sends {s t : State} (h : SendsLines s t) : Controls s t :=
  ⟨by rw [h.only], keepsTables_of_dies (by rw [h.only]) (by rw [h.only]), h.backs⟩

theorem controls_of_cores {s t : State} (h : CoresOnly s t) : Controls s t :=
  ⟨by rw [h], keepsTables_of_dies h.mem (by rw [h]), fun b hb => by rw [h]; exact hb⟩

theorem cctlLine_controls (s : State) (core sub pa : Nat) : Controls s (s.cctlLine core sub pa) := by
  unfold State.cctlLine
  split
  · exact controls_of_sends (sendsLines_sendBack ..)
  · exact controls_of_cores (coresOnly_dropClean ..)
  · exact (controls_of_sends (sendsLines_sendBack ..)).trans (controls_of_cores (coresOnly_dropClean ..))

/-! ### What a `cctl` leaves of a line (19 R414) -/

/-- What `cctl` leaves of a line of the L1, found as `old` before it and as `new` after: no dirty sector unless it only drops, and no clean one if it
drops; the sectors that are valid and dirty stay where it only drops. -/
structure LineControlled (sub : Nat) (old new : Option L1Line) : Prop where
  sent : sub ≠ 1 → ∀ l, new = some l → l.dirty = 0
  dropped : 1 ≤ sub → ∀ l, new = some l → l.valid &&& ~~~l.dirty = 0
  kept : sub = 1 → ∀ l, old = some l → l.valid &&& l.dirty ≠ 0 → new = some { l with valid := l.valid &&& l.dirty }

theorem LineControlled.again {sub : Nat} {old mid new : Option L1Line} (h : LineControlled sub old mid) (h' : LineControlled sub mid new) :
    LineControlled sub old new := by
  refine ⟨h'.sent, h'.dropped, fun hsub l hl hd => ?_⟩
  have hagain : l.valid &&& l.dirty &&& l.dirty = l.valid &&& l.dirty := by rw [BitVec.and_assoc, BitVec.and_self]
  have hnew := h'.kept hsub _ (h.kept hsub l hl hd) (by rwa [hagain])
  rwa [hagain] at hnew

theorem find?_putLine_self {t : List L1Line} {line : Nat} {o l : L1Line} (ho : t.find? (fun x => x.line == line) = some o) (hl : l.line = line) :
    (putLine t l).find? (fun x => x.line == line) = if l.empty then none else some l := by
  unfold putLine
  split
  · rw [List.find?_filter]
    exact List.find?_eq_none.mpr (fun x _ => by simp [hl])
  · induction t with
    | nil => simp at ho
    | cons x r ih =>
      by_cases hx : x.line = line
      · simp [hx, hl]
      · rw [List.find?_cons, beq_false_of_ne hx] at ho
        rw [List.map_cons, if_neg (hl ▸ hx), List.find?_cons, beq_false_of_ne hx]
        exact ih ho

theorem l1Line?_line {s : State} {core line : Nat} {l : L1Line} (h : s.l1Line? core line = some l) : l.line = line := by
  simpa using List.find?_some h

theorem l1Line?_putLine {s : State} {core line : Nat} {o l : L1Line} (h : s.l1Line? core line = some o) (hl : l.line = line) :
    (s.setL1 core (fun t => putLine t l)).l1Line? core line = if l.empty then none else some l := by
  rw [State.l1Line?, State.setL1, State.core_updCore_self]
  exact find?_putLine_self h hl

/-- Behind a write-back of a line no sector of it is dirty. -/
theorem sendBack_clean {s : State} {core line : Nat} {l : L1Line} (h : (s.sendBack core line).l1Line? core line = some l) : l.dirty = 0 := by
  unfold State.sendBack State.sendBackAs State.sendSectors at h
  split at h
  · next hnone => rw [hnone] at h; exact absurd h (by simp)
  · next o ho =>
    have hgo : o.dirty &&& 0xF = o.dirty := BitVec.and_allOnes
    dsimp only at h
    rw [hgo] at h
    split at h
    · next hd =>
      rw [ho, Option.some.injEq] at h
      rw [← h]
      exact hd
    · rw [l1Line?_putLine (o := o) ?found ?line] at h
      case found => exact ho
      case line => exact l1Line?_line (l := o) ho
      split at h
      · exact absurd h (by simp)
      · rw [← Option.some.inj h]
        exact BitVec.and_not_self _

/-- What is left of a line whose clean sectors are dropped. -/
theorem dropClean_line {s : State} {core line : Nat} {o : L1Line} (h : s.l1Line? core line = some o) :
    (s.dropClean core line 0xF).l1Line? core line
      = if ({ o with valid := o.valid &&& o.dirty } : L1Line).empty then none else some { o with valid := o.valid &&& o.dirty } := by
  have hvalid : o.valid &&& ~~~(0xF &&& ~~~o.dirty) = o.valid &&& o.dirty := by
    rw [show (0xF &&& ~~~o.dirty) = ~~~o.dirty from BitVec.allOnes_and, BitVec.not_not]
  rw [State.dropClean, h]
  dsimp only
  rw [hvalid]
  exact l1Line?_putLine h (l1Line?_line (l := o) h)

theorem dropClean_none {s : State} {core line : Nat} (mask : BitVec 4) (h : s.l1Line? core line = none) : s.dropClean core line mask = s := by
  rw [State.dropClean, h]

theorem dropClean_dropped {s : State} {core line : Nat} {l : L1Line} (h : (s.dropClean core line 0xF).l1Line? core line = some l) :
    (∃ o, s.l1Line? core line = some o ∧ l = { o with valid := o.valid &&& o.dirty }) ∧ l.valid &&& ~~~l.dirty = 0 := by
  cases ho : s.l1Line? core line with
  | none => rw [dropClean_none _ ho, ho] at h; exact absurd h (by simp)
  | some o =>
    rw [dropClean_line ho] at h
    split at h
    · exact absurd h (by simp)
    · rw [← Option.some.inj h]
      refine ⟨⟨o, rfl, rfl⟩, ?_⟩
      show o.valid &&& o.dirty &&& ~~~o.dirty = 0
      rw [BitVec.and_assoc, BitVec.and_not_self]
      exact BitVec.and_zero

theorem dropClean_l1Line?_of_ne (s : State) {core line other : Nat} (mask : BitVec 4) (h : other ≠ line) :
    (s.dropClean core line mask).l1Line? core other = s.l1Line? core other := by
  unfold State.dropClean
  split
  · rfl
  · next l hl =>
    unfold State.l1Line? State.setL1
    rw [State.core_updCore_self]
    exact find?_putLine_of_ne _ _ (by rw [← l1Line?_line hl] at h; exact h)

theorem cctlLine_controlled (s : State) (core sub pa : Nat) :
    LineControlled sub (s.l1Line? core (pa / 128)) ((s.cctlLine core sub pa).l1Line? core (pa / 128)) := by
  unfold State.cctlLine
  split
  · exact ⟨fun _ l hl => sendBack_clean hl, fun h => absurd h (by omega), fun h => absurd h (by omega)⟩
  · refine ⟨fun h => absurd rfl h, fun _ l hl => (dropClean_dropped hl).2, fun _ l hl hd => ?_⟩
    rw [dropClean_line hl, if_neg]
    exact fun hempty => hd (beq_iff_eq.mp (Bool.and_eq_true_iff.mp hempty).1)
  · next h0 h1 =>
    refine ⟨fun _ l hl => ?_, fun _ l hl => (dropClean_dropped hl).2, fun h => absurd h h1⟩
    obtain ⟨⟨o, ho, rfl⟩, -⟩ := dropClean_dropped hl
    exact sendBack_clean (l := o) ho

theorem cctlLine_l1Line?_of_ne (s : State) {core pa other : Nat} (sub : Nat) (h : other ≠ pa / 128) :
    (s.cctlLine core sub pa).l1Line? core other = s.l1Line? core other := by
  unfold State.cctlLine
  split
  · exact sendBack_l1Line?_of_ne s h
  · exact dropClean_l1Line?_of_ne s _ h
  · exact (dropClean_l1Line?_of_ne _ _ h).trans (sendBack_l1Line?_of_ne s h)

/-- The dirty sectors of a line are on their way in `t`. -/
def DirtySent (s t : State) (core : Nat) (l : L1Line) : Prop :=
  ∃ b ∈ t.backs, b.core = core ∧ b.line = l.line ∧ b.sectors = l.dirty ∧ b.data = l.data ∧ s.dcc < b.due

theorem DirtySent.later {s t u : State} {core : Nat} {l : L1Line} (h : DirtySent s t core l) (h' : Controls t u) : DirtySent s u core l := by
  obtain ⟨b, hb, hline⟩ := h
  exact ⟨b, h'.backs b hb, hline⟩

theorem DirtySent.after {s t u : State} {core : Nat} {l : L1Line} (h : Controls s t) (h' : DirtySent t u core l) : DirtySent s u core l := by
  unfold DirtySent at *
  rwa [h.dcc] at h'

theorem cctlLine_sends {s : State} {core sub pa : Nat} {l : L1Line} (hsub : sub ≠ 1) (hl : s.l1Line? core (pa / 128) = some l) (hd : l.dirty ≠ 0) :
    DirtySent s (s.cctlLine core sub pa) core l := by
  obtain ⟨b, hb⟩ := sendBack_sends hl hd
  have hsent : DirtySent s (s.sendBack core (pa / 128)) core l :=
    ⟨b, hb.found, hb.core, hb.line.trans (l1Line?_line hl).symm, hb.sectors, hb.data, hb.due⟩
  unfold State.cctlLine
  split
  · exact hsent
  · exact absurd rfl hsub
  · exact hsent.later (controls_of_cores (coresOnly_dropClean ..))

/-! ### The lines of the lanes' addresses (19 R413-R415) -/

/-- `cctl` at one address: at a mapped one, that the address's leaf allows anything at, it acts on the line. -/
def State.cctlAddress (core : Nat) (asid : BitVec 16) (sub : Nat) (s : State) (a : Nat) : State :=
  match s.walk (dieOf core) asid a with
  | .leaf pte p => if bitsOf pte 2 3 = 0 then s else (s.translate core false asid a).1.cctlLine core sub (paOf pte p a)
  | _ => s

theorem cctlAddress_of_leaf {s : State} {core : Nat} {asid : BitVec 16} {sub a pte p : Nat} (hwalk : s.walk (dieOf core) asid a = .leaf pte p)
    (hallows : bitsOf pte 2 3 ≠ 0) : s.cctlAddress core asid sub a = (s.translate core false asid a).1.cctlLine core sub (paOf pte p a) := by
  rw [State.cctlAddress, hwalk]
  exact if_neg hallows

theorem controls_cctlAddress (s : State) (core : Nat) (asid : BitVec 16) (sub a : Nat) : Controls s (s.cctlAddress core asid sub a) := by
  unfold State.cctlAddress
  split
  · split
    · exact .refl s
    · exact (controls_translate ..).trans (cctlLine_controls ..)
  · exact .refl s

theorem translate_l1Line? (s : State) (core : Nat) (asid : BitVec 16) (va line : Nat) :
    (s.translate core false asid va).1.l1Line? core line = s.l1Line? core line := by
  rw [State.l1Line?, State.l1Line?, (keepsL1_translate s core false asid va core).1]

/-- `cctl` at an address acts on a line. -/
def State.names (s : State) (core : Nat) (asid : BitVec 16) (line a : Nat) : Prop :=
  ∃ pte p, s.walk (dieOf core) asid a = .leaf pte p ∧ bitsOf pte 2 3 ≠ 0 ∧ paOf pte p a / 128 = line

theorem Controls.names {s t : State} (h : Controls s t) {core : Nat} {asid : BitVec 16} {line a : Nat} (hnames : s.names core asid line a) :
    t.names core asid line a := by
  obtain ⟨pte, p, hwalk, hrest⟩ := hnames
  exact ⟨pte, p, (h.tables.walk ..).trans hwalk, hrest⟩

/-- What `cctl` has done with a line between two states: it is controlled, and its dirty sectors are sent. -/
structure Ctl (sub core line : Nat) (s t : State) : Prop where
  controlled : LineControlled sub (s.l1Line? core line) (t.l1Line? core line)
  sent : sub ≠ 1 → ∀ l, s.l1Line? core line = some l → l.dirty ≠ 0 → DirtySent s t core l

theorem cctlAddress_ctl {s : State} {core : Nat} {asid : BitVec 16} {sub line a : Nat} (h : s.names core asid line a) :
    Ctl sub core line s (s.cctlAddress core asid sub a) := by
  obtain ⟨pte, p, hwalk, hallows, rfl⟩ := h
  rw [cctlAddress_of_leaf hwalk hallows]
  have hsame := translate_l1Line? s core asid a (paOf pte p a / 128)
  exact ⟨hsame ▸ cctlLine_controlled .., fun hsub l hl hd => .after (controls_translate ..) (cctlLine_sends hsub (hsame.trans hl) hd)⟩

theorem cctlAddress_other {s : State} {core : Nat} {asid : BitVec 16} (sub : Nat) {line a : Nat} (h : ¬ s.names core asid line a) :
    (s.cctlAddress core asid sub a).l1Line? core line = s.l1Line? core line := by
  unfold State.cctlAddress
  split
  · next pte p hwalk =>
    split
    · rfl
    · next hallows =>
      have hne : line ≠ paOf pte p a / 128 := fun heq => h ⟨pte, p, hwalk, hallows, heq.symm⟩
      exact (cctlLine_l1Line?_of_ne _ sub hne).trans (translate_l1Line? ..)
  · rfl

/-- The addresses in turn. -/
def State.cctlAddresses (s : State) (core : Nat) (asid : BitVec 16) (sub : Nat) (vas : List Nat) : State :=
  vas.foldl (State.cctlAddress core asid sub) s

theorem cctlAddresses_cons (s : State) (core : Nat) (asid : BitVec 16) (sub a : Nat) (r : List Nat) :
    s.cctlAddresses core asid sub (a :: r) = (s.cctlAddress core asid sub a).cctlAddresses core asid sub r := by
  rw [State.cctlAddresses, State.cctlAddresses, List.foldl_cons]

theorem controls_cctlAddresses (s : State) (core : Nat) (asid : BitVec 16) (sub : Nat) (vas : List Nat) :
    Controls s (s.cctlAddresses core asid sub vas) :=
  List.foldlRecOn vas _ (.refl s) (fun _ hb _ _ => hb.trans (controls_cctlAddress ..))

/-- A line once controlled stays so. -/
theorem cctlAddresses_again {s : State} {core : Nat} {asid : BitVec 16} {sub line : Nat} {old : Option L1Line} (vas : List Nat)
    (h : LineControlled sub old (s.l1Line? core line)) : LineControlled sub old ((s.cctlAddresses core asid sub vas).l1Line? core line) := by
  induction vas generalizing s with
  | nil => exact h
  | cons a r ih =>
    rw [cctlAddresses_cons]
    refine ih ?_
    by_cases hnames : s.names core asid line a
    · exact h.again (cctlAddress_ctl hnames).controlled
    · rwa [cctlAddress_other sub hnames]

/-- Every line that the addresses name is controlled, and its dirty sectors are sent. -/
theorem cctlAddresses_ctl {s : State} {core : Nat} {asid : BitVec 16} {sub line : Nat} {vas : List Nat} (h : ∃ a ∈ vas, s.names core asid line a) :
    Ctl sub core line s (s.cctlAddresses core asid sub vas) := by
  induction vas generalizing s with
  | nil => simp at h
  | cons x r ih =>
    rw [cctlAddresses_cons]
    have hstep := controls_cctlAddress s core asid sub x
    by_cases hnames : s.names core asid line x
    · obtain ⟨hline, hsent⟩ := cctlAddress_ctl (sub := sub) hnames
      exact ⟨cctlAddresses_again r hline, fun hsub l hl hd => (hsent hsub l hl hd).later (controls_cctlAddresses ..)⟩
    · obtain ⟨a, ha, hother⟩ := h
      have hrest : a ∈ r := (List.mem_cons.mp ha).resolve_left (fun heq => hnames (heq ▸ hother))
      have hsame := cctlAddress_other sub hnames
      obtain ⟨hline, hsent⟩ := ih ⟨a, hrest, hstep.names hother⟩
      rw [hsame] at hline hsent
      exact ⟨hline, fun hsub l hl hd => .after hstep (hsent hsub l hl hd)⟩

/-! ### The whole L1 (19 R414) -/

/-- `cctl` with SUB 3 at a list of lines. -/
def State.cctlLines (s : State) (core : Nat) (lines : List Nat) : State := lines.foldl (fun s l => s.cctlLine core 2 (l * 128)) s

theorem cctlLines_cons (s : State) (core line : Nat) (r : List Nat) :
    s.cctlLines core (line :: r) = (s.cctlLine core 2 (line * 128)).cctlLines core r := by
  rw [State.cctlLines, State.cctlLines, List.foldl_cons]

theorem sendsOrDrops_cctlLine (s : State) (core sub pa : Nat) :
    s.cctlLine core sub pa = { s with cores := (s.cctlLine core sub pa).cores, backs := (s.cctlLine core sub pa).backs
                                      nextId := (s.cctlLine core sub pa).nextId } := by
  unfold State.cctlLine
  split
  · exact (sendsLines_sendBack ..).only
  · rw [coresOnly_dropClean s core (pa / 128) 0xF]
  · rw [coresOnly_dropClean _ core (pa / 128) 0xF, (sendsLines_sendBack s core (pa / 128)).only]

theorem cctlLines_eq (s : State) (core : Nat) (lines : List Nat) :
    s.cctlLines core lines = { s with cores := (s.cctlLines core lines).cores, backs := (s.cctlLines core lines).backs
                                      nextId := (s.cctlLines core lines).nextId } := by
  refine List.foldlRecOn (motive := fun t : State => t = { s with cores := t.cores, backs := t.backs, nextId := t.nextId }) lines _ rfl
    (fun t ht l _ => ?_)
  rw [sendsOrDrops_cctlLine t core 2 (l * 128), ht]

theorem controls_cctlLines (s : State) (core : Nat) (lines : List Nat) : Controls s (s.cctlLines core lines) :=
  List.foldlRecOn lines _ (.refl s) (fun _ hb _ _ => hb.trans (cctlLine_controls ..))

theorem putLine_lines {t : List L1Line} {l o : L1Line} (h : o ∈ putLine t l) : ∃ x ∈ t, x.line = o.line := by
  unfold putLine at h
  split at h
  · exact ⟨o, (List.mem_filter.mp h).1, rfl⟩
  · obtain ⟨x, hx, rfl⟩ := List.mem_map.mp h
    refine ⟨x, hx, ?_⟩
    split
    · assumption
    · rfl

/-- No line of the L1 is new. -/
theorem cctlLine_lines {s : State} {core sub pa : Nat} {o : L1Line} (h : o ∈ ((s.cctlLine core sub pa).core core).l1) :
    ∃ x ∈ (s.core core).l1, x.line = o.line := by
  have hsend : ∀ o ∈ ((s.sendBack core (pa / 128)).core core).l1, ∃ x ∈ (s.core core).l1, x.line = o.line := by
    intro o ho
    unfold State.sendBack State.sendBackAs State.sendSectors at ho
    split at ho
    · exact ⟨o, ho, rfl⟩
    · dsimp only at ho
      split at ho
      · exact ⟨o, ho, rfl⟩
      · rw [State.setL1, State.core_updCore_self] at ho
        exact putLine_lines ho
  have hdrop : ∀ (u : State), ∀ o ∈ ((u.dropClean core (pa / 128) 0xF).core core).l1, ∃ x ∈ (u.core core).l1, x.line = o.line := by
    intro u o ho
    unfold State.dropClean at ho
    split at ho
    · exact ⟨o, ho, rfl⟩
    · rw [State.setL1, State.core_updCore_self] at ho
      exact putLine_lines ho
  unfold State.cctlLine at h
  split at h
  · exact hsend o h
  · exact hdrop s o h
  · obtain ⟨x, hx, hline⟩ := hdrop _ o h
    obtain ⟨y, hy, hline'⟩ := hsend x hx
    exact ⟨y, hy, hline'.trans hline⟩

/-- Sent back and dropped, a line is gone. -/
theorem cctlLine_gone (s : State) (core pa : Nat) : (s.cctlLine core 2 pa).l1Line? core (pa / 128) = none := by
  show ((s.sendBack core (pa / 128)).dropClean core (pa / 128) 0xF).l1Line? core (pa / 128) = none
  cases hl : (s.sendBack core (pa / 128)).l1Line? core (pa / 128) with
  | none => rw [dropClean_none _ hl, hl]
  | some l =>
    rw [dropClean_line hl, if_pos]
    simp [L1Line.empty, sendBack_clean hl]

/-- The lines of a list sent back and dropped, no other is left in an L1 that holds these alone. -/
theorem cctlLines_empties {s : State} {core : Nat} {lines : List Nat} (h : ∀ o ∈ (s.core core).l1, o.line ∈ lines) :
    ((s.cctlLines core lines).core core).l1 = [] := by
  induction lines generalizing s with
  | nil => exact List.eq_nil_iff_forall_not_mem.mpr (fun o ho => absurd (h o ho) List.not_mem_nil)
  | cons x r ih =>
    rw [cctlLines_cons]
    refine ih (fun o ho => ?_)
    obtain ⟨y, hy, hline⟩ := cctlLine_lines ho
    refine (List.mem_cons.mp (h y hy)).elim (fun hx => ?_) (fun hr => hline ▸ hr)
    have hgone := cctlLine_gone s core (x * 128)
    rw [Nat.mul_div_cancel _ (by omega), State.l1Line?, List.find?_eq_none] at hgone
    exact absurd (beq_iff_eq.mpr (hline.symm.trans hx)) (hgone o ho)

theorem cctlLines_sends {s : State} {core : Nat} {lines : List Nat} {l : L1Line} (hmem : l.line ∈ lines) (hl : s.l1Line? core l.line = some l)
    (hd : l.dirty ≠ 0) : DirtySent s (s.cctlLines core lines) core l := by
  induction lines generalizing s with
  | nil => exact absurd hmem List.not_mem_nil
  | cons x r ih =>
    rw [cctlLines_cons]
    have hx : x * 128 / 128 = x := Nat.mul_div_cancel _ (by omega)
    by_cases hline : l.line = x
    · exact (cctlLine_sends (by omega) (by rw [hx, ← hline]; exact hl) hd).later (controls_cctlLines ..)
    · exact .after (cctlLine_controls ..) (ih ((List.mem_cons.mp hmem).resolve_left hline)
        ((cctlLine_l1Line?_of_ne s 2 (by rwa [hx])).trans hl))

/-! ### The instruction -/

theorem holdPipe_controls (s : State) (c : Ctx) (lines : Nat) : Controls s (s.holdPipe c lines) := controls_of_cores rfl

theorem holdPipe_l1Line? (s : State) (c : Ctx) (lines core line : Nat) : (s.holdPipe c lines).l1Line? core line = s.l1Line? core line := by
  have hl1 := (keepsL1_updCore s c.ref.core (fun k => { k with memBusy := putT k.memBusy c.wave.partition (s.dcc + (lines + 3) / 4) })
    (fun _ => ⟨rfl, rfl⟩) core).1
  rw [State.l1Line?, State.l1Line?, State.holdPipe, hl1]

theorem done_l1Line? (s : State) (c : Ctx) (len core line : Nat) : (s.done c len).l1Line? core line = s.l1Line? core line := by
  rw [State.l1Line?, State.l1Line?, State.core, State.core, State.done_cores]

/-- A `cctl` with another SUB than 3 whose addresses pass their checks, behind no earlier access to their lines. -/
theorem cacheControl_next {s : State} {c : Ctx} {m : MWord} {y : XmWord} {len : Nat} (hi : s.issuing = some c) (free : Free c m.s true none none)
    (hsub : y.sub.toNat ≠ 3) (hops : OperandsOk c (mOffset m).toList)
    (haddrs : ∀ a ∈ (laneAddrs c m y).map Prod.snd, a < 2 ^ 57 ∧ s.walk (dieOf c.ref.core) c.part.regs.asid a ≠ .malformed)
    (hbefore : s.opsBefore c false ((laneAddrs c m y).map Prod.snd) = []) :
    cacheControl m y len s = .next (((s.cctlAddresses c.ref.core c.part.regs.asid y.sub.toNat ((laneAddrs c m y).map Prod.snd)).holdPipe c
      (lineCount ((laneAddrs c m y).map Prod.snd))).done c len) := by
  have hvas : (lanesOf (c.xmActive y)).map (c.globalAddr m y.off) = (laneAddrs c m y).map Prod.snd := by
    rw [laneAddrs, List.map_map]
    rfl
  refine (issue_next _ _ c s hi (by simp) rfl ?_ free).trans (congrArg _ ?_)
  · dsimp only
    rw [if_neg hsub]
    exact hops
  · dsimp only
    rw [if_neg hsub, hvas, List.find?_eq_none.mpr (fun a ha => by simpa using (haddrs a ha).1)]
    dsimp only
    rw [List.find?_eq_none.mpr (fun a ha => by simpa using (haddrs a ha).2)]
    dsimp only
    rewrite [hbefore, if_neg (not_not.mpr rfl)]
    refine congrArg (fun f : State → Nat → State => ((((laneAddrs c m y).map Prod.snd).foldl f s).holdPipe c _).done c len)
      (funext (fun u => funext (fun a => ?_)))
    unfold State.cctlAddress
    generalize u.walk (dieOf c.ref.core) c.part.regs.asid a = found
    cases found <;> rfl

theorem cctl_completes {i : Instr} {s : State} {c : Ctx} {m : MWord} {y : XmWord} {len : Nat} (he : ∀ s, exec i s = cacheControl m y len s)
    (hi : s.issuing = some c) (free : Free c m.s true none none) (hsub : y.sub.toNat ≠ 3) (hops : OperandsOk c (mOffset m).toList)
    (haddrs : ∀ a ∈ (laneAddrs c m y).map Prod.snd, a < 2 ^ 57 ∧ s.walk (dieOf c.ref.core) c.part.regs.asid a ≠ .malformed)
    (hbefore : s.opsBefore c false ((laneAddrs c m y).map Prod.snd) = []) :
    ∃ t, exec i s = .next t
      ∧ ((∀ k, k ≠ c.ref.key → t.wave? k = s.wave? k) ∧ ∃ w, SameVregs c.wave w ∧ WaveIs c t id (c.part.past c len s.dcc) w)
      ∧ t = { s with cores := t.cores, dies := t.dies, banks := t.banks, l2 := t.l2, backs := t.backs, nextId := t.nextId, waves := t.waves }
      ∧ ∀ line, (∃ a ∈ (laneAddrs c m y).map Prod.snd, s.names c.ref.core c.part.regs.asid line a) → Ctl y.sub.toNat c.ref.core line s t := by
  have hctl := controls_cctlAddresses s c.ref.core c.part.regs.asid y.sub.toNat ((laneAddrs c m y).map Prod.snd)
  have hheld := hctl.trans (holdPipe_controls _ c (lineCount ((laneAddrs c m y).map Prod.snd)))
  refine ⟨_, (he s).trans (cacheControl_next hi free hsub hops haddrs hbefore), done_movesOn hi hheld.waves hheld.dcc len, ?_, fun line hline => ?_⟩
  · rw [(onlyWave_done c _ len).state]
    generalize hu : State.holdPipe _ _ _ = u at hheld ⊢
    rw [hheld.eq]
  · obtain ⟨hcontrolled, hsent⟩ := cctlAddresses_ctl (sub := y.sub.toNat) hline
    refine ⟨?_, fun hs l hl hd => ?_⟩
    · rw [done_l1Line?]
      have hsame := holdPipe_l1Line? (s.cctlAddresses c.ref.core c.part.regs.asid y.sub.toNat ((laneAddrs c m y).map Prod.snd)) c
        (lineCount ((laneAddrs c m y).map Prod.snd)) c.ref.core line
      exact hsame ▸ hcontrolled
    · obtain ⟨b, hb, hline⟩ := (hsent hs l hl hd).later (holdPipe_controls _ c (lineCount ((laneAddrs c m y).map Prod.snd)))
      exact ⟨b, by rwa [State.done_backs], hline⟩

theorem cctlAll_completes {s : State} {c : Ctx} {m : MWord} {x : XmWord} (hi : s.issuing = some c) (free : Free c m.s true none none)
    (hsub : x.sub.toNat = 3) (hbefore : s.opsBefore c true [] = []) :
    ∃ t, exec (.cctlExt m x) s = .next t
      ∧ ((∀ k, k ≠ c.ref.key → t.wave? k = s.wave? k) ∧ ∃ w, SameVregs c.wave w ∧ WaveIs c t id (c.part.past c 8 s.dcc) w)
      ∧ t = { s with cores := t.cores, backs := t.backs, nextId := t.nextId, waves := t.waves }
      ∧ (t.core c.ref.core).l1 = [] ∧ ∀ l, s.l1Line? c.ref.core l.line = some l → l.dirty ≠ 0 → DirtySent s t c.ref.core l := by
  have hctl := controls_cctlLines s c.ref.core ((s.core c.ref.core).l1.map (fun l => l.line))
  refine ⟨(s.cctlLines c.ref.core ((s.core c.ref.core).l1.map (fun l => l.line))).done c 8, ?_, done_movesOn hi hctl.waves hctl.dcc 8, ?_, ?_,
    fun l hl hd => ?_⟩
  · refine (issue_next _ _ c s hi (by simp) rfl ?_ free).trans (congrArg _ ?_)
    · dsimp only
      rw [if_pos hsub]
      rfl
    · dsimp only
      rw [if_pos hsub, hbefore, if_neg (not_not.mpr rfl)]
      rfl
  · rw [(onlyWave_done c _ 8).state, cctlLines_eq s c.ref.core ((s.core c.ref.core).l1.map (fun l => l.line))]
  · rw [State.core, State.done_cores]
    exact cctlLines_empties (fun o ho => List.mem_map_of_mem ho)
  · obtain ⟨b, hb, hline⟩ := cctlLines_sends (List.mem_map_of_mem (List.mem_of_find?_eq_some hl)) hl hd
    exact ⟨b, by rwa [State.done_backs], hline⟩

end Sys2Proof.Machine
end

section
/-! SUPPORT. `pfetch` (21 R457, R458): the requests that it sends. -/

namespace Sys2Proof.Machine

/-- `t` comes from `s` by asking for lines: nothing else differs but what lookups change, and walks read the same tables. -/
structure Requests (asked : List Prefetch) (s t : State) : Prop where
  eq : t = { s with cores := t.cores, dies := t.dies, prefetches := t.prefetches }
  tables : KeepsTables s t
  asked : t.prefetches = s.prefetches ++ asked

theorem Requests.none (s : State) : Requests [] s s := ⟨rfl, .refl s, (List.append_nil _).symm⟩
theorem Requests.trans {s t u : State} {a b : List Prefetch} (h : Requests a s t) (h' : Requests b t u) : Requests (a ++ b) s u :=
  ⟨by rw [h'.eq, h.eq], h.tables.trans h'.tables, by rw [h'.asked, h.asked, List.append_assoc]⟩
theorem Requests.dcc {s t : State} {a : List Prefetch} (h : Requests a s t) : t.dcc = s.dcc := by rw [h.eq]
theorem Requests.waves {s t : State} {a : List Prefetch} (h : Requests a s t) : t.waves = s.waves := by rw [h.eq]

/-- A request for the line of an address, as it leaves a core. -/
structure LineRequest (s : State) (core : Nat) (asid : BitVec 16) (cp va : Nat) (f : Prefetch) : Prop where
  core : f.core = core
  asid : f.asid = asid
  cp : f.cp = cp
  low : va < 2 ^ 57
  later : s.dcc < f.arrival
  va : f.va = va

theorem tlbLook_only (s : State) (core : Nat) (asid : BitVec 16) (va : Nat) :
    (s.tlbLook core false asid va).1
      = { s with cores := (s.tlbLook core false asid va).1.cores, dies := (s.tlbLook core false asid va).1.dies } := by
  unfold State.tlbLook
  dsimp only
  rw [if_neg Bool.false_ne_true]
  split
  · rfl
  · split
    · rfl
    · split <;> rfl

theorem requests_one {s u : State} (hlook : u = { s with cores := u.cores, dies := u.dies }) (htables : KeepsTables s u) (f : Prefetch) :
    Requests [f] s { u with prefetches := u.prefetches ++ [f] } := by
  refine ⟨?_, ⟨htables.mem, htables.base⟩, ?_⟩
  · rw [hlook]
  · rw [hlook]

/-- A prefetch of one address asks for its line where it is mapped, and for no other. -/
theorem prefetchLine_asks (s : State) (core : Nat) (asid : BitVec 16) (cp va : Nat) :
    ∃ asked, Requests asked s (s.prefetchLine core asid cp va) ∧ (∀ f ∈ asked, LineRequest s core asid cp va f)
      ∧ (va < 2 ^ 57 → ∀ pte p, s.walk (dieOf core) asid va = .leaf pte p → ∃ f ∈ asked, f.va = va) := by
  unfold State.prefetchLine
  split
  · next hhigh => exact ⟨[], .none s, by simp, fun hlow => absurd hlow (by omega)⟩
  · next hlow =>
    split
    · next pte p hwalk =>
      have hpath := slicePath_pos core (paOf pte p va)
      refine ⟨[_], requests_one (tlbLook_only s core asid va) (keepsTables_tlbLook s core false asid va) _, fun f hf => ?_,
        fun _ _ _ _ => ⟨_, List.mem_singleton_self _, rfl⟩⟩
      rw [List.mem_singleton.mp hf]
      exact ⟨rfl, rfl, rfl, by omega, by dsimp only; omega, rfl⟩
    · next hnone => exact ⟨[], .none s, by simp, fun _ pte p hwalk => absurd hwalk (hnone pte p)⟩

/-- The addresses in turn. -/
def State.prefetchLines (s : State) (core : Nat) (asid : BitVec 16) (cp : Nat) (vas : List Nat) : State :=
  vas.foldl (fun s a => s.prefetchLine core asid cp a) s

theorem prefetchLines_asks (s : State) (core : Nat) (asid : BitVec 16) (cp : Nat) (vas : List Nat) :
    ∃ asked, Requests asked s (s.prefetchLines core asid cp vas) ∧ (∀ f ∈ asked, ∃ va ∈ vas, LineRequest s core asid cp va f)
      ∧ ∀ va ∈ vas, va < 2 ^ 57 → ∀ pte p, s.walk (dieOf core) asid va = .leaf pte p → ∃ f ∈ asked, f.va = va := by
  induction vas generalizing s with
  | nil => exact ⟨[], .none s, by simp, by simp⟩
  | cons a r ih =>
    obtain ⟨first, hfirst, hfor, hmapped⟩ := prefetchLine_asks s core asid cp a
    obtain ⟨rest, hrest, hfors, hmappeds⟩ := ih (s.prefetchLine core asid cp a)
    refine ⟨first ++ rest, ?_, fun f hf => ?_, fun va hva hlow pte p hwalk => ?_⟩
    · rw [State.prefetchLines, List.foldl_cons]
      exact hfirst.trans hrest
    · rcases List.mem_append.mp hf with hf | hf
      · exact ⟨a, List.mem_cons_self, hfor f hf⟩
      · obtain ⟨va, hva, h⟩ := hfors f hf
        exact ⟨va, List.mem_cons_of_mem _ hva, { h with later := hfirst.dcc ▸ h.later }⟩
    · rcases List.mem_cons.mp hva with rfl | hva
      · obtain ⟨f, hf, h⟩ := hmapped hlow pte p hwalk
        exact ⟨f, List.mem_append_left _ hf, h⟩
      · obtain ⟨f, hf, h⟩ := hmappeds va hva hlow pte p ((hfirst.tables.walk ..).trans hwalk)
        exact ⟨f, List.mem_append_right _ hf, h⟩

theorem requests_holdPipe (s : State) (c : Ctx) (lines : Nat) : Requests [] s (s.holdPipe c lines) :=
  ⟨rfl, keepsTables_of_dies rfl rfl, (List.append_nil _).symm⟩

theorem pfetch_completes {i : Instr} {s : State} {c : Ctx} {m : MWord} {y : XmWord} {len : Nat} (he : ∀ s, exec i s = prefetch m y len s)
    (hi : s.issuing = some c) (free : Free c m.s true none none) (hops : OperandsOk c (mOffset m).toList) :
    ∃ t asked, exec i s = .next t
      ∧ ((∀ k, k ≠ c.ref.key → t.wave? k = s.wave? k) ∧ ∃ w, SameVregs c.wave w ∧ WaveIs c t id (c.part.past c len s.dcc) w)
      ∧ t = { s with cores := t.cores, dies := t.dies, prefetches := t.prefetches, waves := t.waves }
      ∧ t.prefetches = s.prefetches ++ asked
      ∧ (∀ f ∈ asked, f.core = c.ref.core ∧ f.asid = c.part.regs.asid ∧ f.cp = y.cp.toNat ∧ s.dcc < f.arrival
        ∧ f.va ∈ (laneAddrs c m y).map Prod.snd ∧ f.va < 2 ^ 57 ∧ f.va % szBytes y.sz = 0)
      ∧ ∀ a ∈ (laneAddrs c m y).map Prod.snd, a < 2 ^ 57 → a % szBytes y.sz = 0 → ∀ pte p,
        s.walk (dieOf c.ref.core) c.part.regs.asid a = .leaf pte p → ∃ f ∈ asked, f.va = a := by
  have hvas : (lanesOf (c.xmActive y)).map (c.globalAddr m y.off) = (laneAddrs c m y).map Prod.snd := by
    rw [laneAddrs, List.map_map]
    rfl
  obtain ⟨asked, hasks, hfor, hmapped⟩ := prefetchLines_asks s c.ref.core c.part.regs.asid y.cp.toNat
    (((laneAddrs c m y).map Prod.snd).filter (fun a => a % szBytes y.sz == 0))
  have hheld := hasks.trans (requests_holdPipe _ c (lineCount ((laneAddrs c m y).map Prod.snd)))
  rw [List.append_nil] at hheld
  refine ⟨_, asked, (he s).trans ((issue_next _ _ c s hi (by simp) rfl ?_ free).trans (congrArg _ ?_)), done_movesOn hi hheld.waves hheld.dcc len, ?_,
    ?_, fun f hf => ?_, fun a ha hlow haligned => ?_⟩
  · exact hops
  · dsimp only
    rw [hvas]
    rfl
  · rw [(onlyWave_done c _ len).state]
    generalize State.holdPipe _ _ _ = u at hheld ⊢
    rw [hheld.eq]
  · rw [State.done_prefetches]
    exact hheld.asked
  · obtain ⟨va, hva, h⟩ := hfor f hf
    obtain ⟨hmem, haligned⟩ := List.mem_filter.mp hva
    rw [h.va]
    exact ⟨h.core, h.asid, h.cp, h.later, hmem, h.low, beq_iff_eq.mp haligned⟩
  · exact hmapped a (List.mem_filter.mpr ⟨ha, beq_iff_eq.mpr haligned⟩) hlow

end Sys2Proof.Machine
end

section
/-! SUPPORT. The statement about `fence`, `cctl` and `pfetch`. -/

open Sys2Proof Sys2Proof.Machine

/-- Settles O23, from what each instruction leaves: a fence its acquire's cores, a `cctl` the lines that its addresses name, a prefetch its requests. -/
theorem cacheInstructions : Obligations.CacheInstructions := by
  unfold Obligations.CacheInstructions
  intro m x s c hi free
  refine ⟨fun hdrained hheld => ⟨fence_moves hi free hdrained hheld, fence_sends hi free hdrained hheld⟩, fun i len y hform hsub hops haddrs hbefore => ?_,
    fun hsub hbefore => cctlAll_completes hi free hsub hbefore, fun i len y hform hops => ?_⟩
  · have he : ∀ s, exec i s = cacheControl m y len s := by
      rcases hform with h | h
      · cases h; exact fun _ => rfl
      · cases h; exact fun _ => rfl
    obtain ⟨t, hexec, hmoves, hframe, hlines⟩ := cctl_completes he hi free hsub hops haddrs hbefore
    refine ⟨t, hexec, hmoves, hframe, fun a ha pte p hwalk hallows => ?_⟩
    obtain ⟨⟨hclean, hdropped, hkept⟩, hsent⟩ := hlines _ ⟨a, ha, pte, p, hwalk, hallows, rfl⟩
    exact ⟨fun h => ⟨hclean h, hsent h⟩, hdropped, hkept⟩
  · have he : ∀ s, exec i s = prefetch m y len s := by
      rcases hform with h | h
      · cases h; exact fun _ => rfl
      · cases h; exact fun _ => rfl
    exact pfetch_completes he hi free hops

end

section
/-! SUPPORT. The completion of an operation whose every access is back, whatever their number and whatever parts hold it (09 R223). -/

namespace Sys2Proof.Machine

/-! ### What a completion reads of a wave -/

/-- Where a part stands, and its operations of class LD and ST. -/
def Part.counted (p : Part) : W64 × List Nat × List Nat := (p.pc, p.ldOps, p.stOps)

/-- Two waves differ in nothing that the completion of an operation reads or shows. -/
structure Wave.Like (w v : Wave) : Prop where
  admission : v.admission = w.admission
  allot : v.allot = w.allot
  vregs : v.vregs = w.vregs
  dirty : v.dirty = w.dirty
  parts : v.parts.map Part.counted = w.parts.map Part.counted

theorem Wave.Like.refl (w : Wave) : w.Like w := ⟨rfl, rfl, rfl, rfl, rfl⟩
theorem Wave.Like.trans {w v u : Wave} (h : w.Like v) (h' : v.Like u) : w.Like u :=
  ⟨h'.admission.trans h.admission, h'.allot.trans h.allot, h'.vregs.trans h.vregs, h'.dirty.trans h.dirty, h'.parts.trans h.parts⟩

/-- A part's counterpart in a wave that is like its own. -/
theorem Wave.Like.part {w v : Wave} (h : w.Like v) {n : Nat} {p : Part} (hp : w.parts[n]? = some p) :
    ∃ q, v.parts[n]? = some q ∧ q.counted = p.counted := by
  have hn := congrArg (fun l => l[n]?) h.parts
  simpa [hp] using hn

theorem Wave.Like.symm {w v : Wave} (h : w.Like v) : v.Like w :=
  ⟨h.admission.symm, h.allot.symm, h.vregs.symm, h.dirty.symm, h.parts.symm⟩

theorem Wave.like_updPart (w : Wave) (base : Nat) {f : Part → Part} (hf : ∀ p, (f p).counted = p.counted) : w.Like (w.updPart base f) := by
  refine ⟨rfl, rfl, rfl, rfl, ?_⟩
  rw [Wave.updPart, List.map_map]
  refine List.map_congr_left (fun p _ => ?_)
  dsimp only [Function.comp]
  split
  · exact hf p
  · rfl

theorem opsOf_of_counted {p q : Part} (h : q.counted = p.counted) {k : Cls} (hk : k = .ld ∨ k = .st) : q.opsOf k = p.opsOf k := by
  obtain ⟨-, hld, hst⟩ : q.pc = p.pc ∧ q.ldOps = p.ldOps ∧ q.stOps = p.stOps := by simpa [Part.counted] using h
  rcases hk with rfl | rfl
  · exact hld
  · exact hst

/-- A region that begins in a part changes nothing that a completion reads of its wave. -/
theorem wave_beginRegion_like {s : State} {r : PartRef} {w : Wave} (h : s.wave? r.key = some w) (a : W64) (counted : Bool) :
    ∃ v, (s.beginRegion r a counted).wave? r.key = some v ∧ w.Like v := by
  obtain ⟨v, hv, heq⟩ := recordRays_wave (s := s.updPart r (fun p => p.enterRegion a counted s.dcc)) (wave?_updWave_some (k := r.key) h _)
  refine ⟨v, hv, (w.like_updPart r.base (f := fun p => p.enterRegion a counted s.dcc) (fun _ => rfl)).trans ?_⟩
  generalize v.raysAtRegion = rays at heq
  subst heq
  exact ⟨rfl, rfl, rfl, rfl, rfl⟩

theorem wave_regionBehind_like {s : State} {o : MemOp} {w : Wave} (h : s.wave? o.key = some w) :
    ∃ v, (s.regionBehind o).wave? o.key = some v ∧ w.Like v := by
  unfold State.regionBehind
  split
  · exact ⟨w, h, .refl w⟩
  · refine List.foldlRecOn (motive := fun t => ∃ v, State.wave? t o.key = some v ∧ w.Like v) _ _ ⟨w, h, .refl w⟩ (fun t ht p _ => ?_)
    obtain ⟨v, hv, hlike⟩ := ht
    obtain ⟨v', hv', hlike'⟩ := wave_beginRegion_like (r := { core := o.core, slot := o.slot, base := p.base }) hv o.next true
    exact ⟨_, wave?_updWave_some hv' _, (hlike.trans hlike').trans (v'.like_updPart p.base (fun _ => rfl))⟩

/-! ### An operation whose accesses are all back -/

/-- An operation of class LD or ST whose accesses are all back, the oldest of its class in every part of its wave that holds it. -/
structure AllBack (s : State) (o : MemOp) (w : Wave) : Prop where
  found : s.op? o.id = some o
  accs : ∀ a ∈ o.accs, a.phase = .done ∧ a.due ≤ s.dcc
  due : o.due ≤ s.dcc
  parked : o.parked = false
  posted : ∀ q ∈ s.posted, q.op ≠ some o.id
  wave : s.wave? o.key = some w
  admission : w.admission = o.admission
  oldest : ∀ p ∈ w.parts, o.id ∈ p.opsOf o.cls → (p.opsOf o.cls).head? = some o.id
  cls : o.cls = .ld ∨ o.cls = .st

/-- A step before the write of the results: the operation may be marked, and its wave and memory are as before in all that a completion reads. -/
structure Readied (s u : State) (o : MemOp) (w : Wave) (o' : MemOp) (w' : Wave) : Prop where
  back : AllBack u o' w'
  op : o' = { o with acted := o'.acted }
  like : w.Like w'
  mem : u.mem = s.mem

/-- The steps before the write of the results leave an operation ready for it. -/
def Readies (s u : State) (o : MemOp) (w : Wave) : Prop := ∃ o' w', Readied s u o w o' w'

/-- Memory, time and the posted writes are as before. -/
structure KeepsPosted (s u : State) : Prop where
  mem : u.mem = s.mem
  dcc : u.dcc = s.dcc
  posted : u.posted = s.posted

section
variable {s u : State} {o : MemOp} {w : Wave}

theorem AllBack.opWave (h : AllBack s o w) : s.opWave o = some w := by
  rw [State.opWave, h.wave, Option.bind_some, if_pos h.admission]

theorem AllBack.readies (h : AllBack s o w) {acted : Bool} {w' : Wave} (hu : KeepsPosted s u) (hop : u.op? o.id = some { o with acted })
    (hwave : u.wave? o.key = some w') (hlike : w.Like w') : Readies s u o w := by
  refine ⟨{ o with acted }, w', ?_, rfl, hlike, hu.mem⟩
  exact
    { h with
      found := hop
      accs := hu.dcc ▸ h.accs
      due := hu.dcc ▸ h.due
      posted := hu.posted ▸ h.posted
      wave := hwave
      admission := hlike.admission.trans h.admission
      oldest := fun q hq hmem => by
        obtain ⟨n, hn⟩ := List.mem_iff_getElem?.mp hq
        obtain ⟨p, hp, hcounted⟩ := hlike.symm.part hn
        have hops := opsOf_of_counted hcounted h.cls
        dsimp only at hmem ⊢
        rw [← hops] at hmem ⊢
        exact h.oldest p (List.mem_of_getElem? hp) hmem }

theorem AllBack.readies_coresOnly (h : AllBack s o w) (hu : CoresOnly s u) : Readies s u o w :=
  h.readies (acted := o.acted) ⟨hu.mem, hu.dcc, by rw [hu]⟩ (by rw [hu]; exact h.found) ((hu.wave? _).trans h.wave) (.refl w)

theorem Acted.keepsPosted (hu : Acted s u o) : KeepsPosted s u := ⟨by rw [hu]; rfl, by rw [hu]; rfl, by rw [hu]; rfl⟩
theorem Acted.wave? (hu : Acted s u o) (k : Nat) : u.wave? k = s.wave? k := by rw [hu]; rfl
theorem AllBack.acted_op (h : AllBack s o w) (hu : Acted s u o) : u.op? o.id = some o.marked := by
  have hop := op?_updOp h.found MemOp.marked (fun _ => rfl)
  rwa [hu]

theorem AllBack.readies_acted (h : AllBack s o w) (hu : Acted s u o) : Readies s u o w :=
  h.readies hu.keepsPosted (h.acted_op hu) ((hu.wave? _).trans h.wave) (.refl w)

/-- An operation that is marked, and behind which a region begins. -/
theorem AllBack.readies_region (h : AllBack s o w) (hu : Acted s u o) : Readies s (u.regionBehind o) o w := by
  have hchange := waveChange_regionBehind u o
  have hkept := hu.keepsPosted
  obtain ⟨w', hwave, hlike⟩ := wave_regionBehind_like ((hu.wave? _).trans h.wave)
  exact h.readies ⟨hchange.mem.trans hkept.mem, hchange.dcc.trans hkept.dcc, hchange.posted.trans hkept.posted⟩
    ((hchange.op? _).trans (h.acted_op hu)) hwave hlike

/-! ### What is left of its performance (09 R216, 12 R281) -/

theorem AllBack.not_open (h : AllBack s o w) : o.accs.any Access.isOpen = false :=
  List.any_eq_false.mpr (fun a ha => by simp [Access.isOpen, (h.accs a ha).1])

theorem AllBack.startRelease (h : AllBack s o w) : s.startRelease o.id = s := by
  rw [State.startRelease, h.found]
  exact if_neg (by simp [State.releaseDueAt, h.not_open])

theorem AllBack.performLanes (h : AllBack s o w) (lanes : List Nat) : s.performLanes o.id lanes = s := by
  induction lanes with
  | nil => rfl
  | cons l r ih =>
    rw [State.performLanes, h.found]
    dsimp only
    split
    · exact ih
    · next a ha =>
      have hcan : s.canPerform o a = false := by simp [State.canPerform, (h.accs a (List.mem_of_find?_eq_some ha)).1]
      rw [if_neg (by simp [hcan]), ih]

/-- No lane of a unit's operation is left to evaluate. -/
theorem AllBack.runUnit (h : AllBack s o w) (lanes : List Nat) : s.runUnit o.id lanes = s := by
  induction lanes with
  | nil => rfl
  | cons l r ih =>
    have hnone : o.accs.find? (fun a => a.lane == l && s.laneDue o a) = none :=
      List.find?_eq_none.mpr (fun a ha => by simp [State.laneDue, (h.accs a ha).1])
    rw [State.runUnit, h.found]
    dsimp only
    rw [hnone]
    exact ih

theorem AllBack.performOp (h : AllBack s o w) : Readies s (s.performOp o.id) o w := by
  rw [State.performOp, h.found]
  dsimp only
  rw [h.startRelease, h.performLanes]
  split
  · have hfree := coresOnly_freeLog s o.id
    have hstill : (s.freeLog o.id).op? o.id = some o := by rw [hfree]; exact h.found
    rw [State.afterPerform, hstill]
    dsimp only
    split
    · exact h.readies_coresOnly hfree
    · have hcores : CoresOnly ((s.freeLog o.id).updOp o.id MemOp.marked) (if o.ord % 2 = 1
          then ((s.freeLog o.id).updOp o.id MemOp.marked).acquireL1 o.core o.scope
          else (s.freeLog o.id).updOp o.id MemOp.marked) := by
        split
        · exact coresOnly_acquireL1 ..
        · rfl
      have hacted := Acted.of_coresOnly hfree hcores
      split
      · exact h.readies_region hacted
      · exact h.readies_acted hacted
  · exact h.readies_coresOnly rfl

/-- The outputs of an operation are queued, if it has any, before the rest of its completion. -/
theorem AllBack.queueOutput (h : AllBack s o w) : Readies s ((s.queueOutput o.id).performOp o.id) o w := by
  have hqueue : s.queueOutput o.id = s ∨ o.kind.plain = false ∧ Readies s (s.queueOutput o.id) o w := by
    rw [State.queueOutput, h.found]
    dsimp only
    split
    · exact .inl rfl
    · split
      · next ws hkind => exact .inr ⟨by rw [hkind]; rfl, h.readies_region rfl⟩
      · exact .inl rfl
  rcases hqueue with hsame | ⟨hplain, o', w', hready⟩
  · rw [hsame]
    exact h.performOp
  · have hidle : (s.queueOutput o.id).performOp o.id = s.queueOutput o.id := by
      have hfound : (s.queueOutput o.id).op? o.id = some o' := by
        have := hready.back.found
        rwa [hready.op] at this ⊢
      rw [State.performOp, hfound]
      exact if_neg (by rw [hready.op]; simp [hplain])
    rw [hidle]
    exact ⟨o', w', hready⟩

/-! ### The write of its results, and its end (09 R223) -/

theorem AllBack.writeBack_eq (h : AllBack s o w) :
    s.writeBack o.id = (s.updOp o.id (MemOp.taken s.dcc)).updWave o.key (o.landIn s.dcc w) := by
  have hwave : (s.updOp o.id (MemOp.taken s.dcc)).opWave o = some w := h.opWave
  unfold MemOp.taken at *
  rw [State.writeBack, h.found]
  dsimp only
  rw [hwave]
  rfl

theorem AllBack.writeBack_change (h : AllBack s o w) : WaveChange o.key (s.updOp o.id (MemOp.taken s.dcc)) (s.writeBack o.id) := by
  rw [h.writeBack_eq]
  exact waveChange_updWave ..

theorem AllBack.writeBack_op (h : AllBack s o w) : (s.writeBack o.id).op? o.id = some (o.taken s.dcc) :=
  (h.writeBack_change.op? _).trans (op?_updOp h.found (MemOp.taken s.dcc) (fun _ => rfl))

theorem AllBack.writeBack_wave (h : AllBack s o w) : (s.writeBack o.id).wave? o.key = some (o.landIn s.dcc w w) := by
  have hwave : (s.updOp o.id (MemOp.taken s.dcc)).wave? o.key = some w := h.wave
  rw [h.writeBack_eq, wave?_updWave_some hwave]

theorem AllBack.writeBack_opWave (h : AllBack s o w) : (s.writeBack o.id).opWave (o.taken s.dcc) = some (o.landIn s.dcc w w) := by
  have hkey : (o.taken s.dcc).key = o.key := rfl
  rw [State.opWave, hkey, h.writeBack_wave]
  exact if_pos ((Wave.setVs_admission ..).trans h.admission)

theorem landIn_parts (o : MemOp) (now : Nat) (w v : Wave) :
    (o.landIn now w v).parts = v.parts.map (fun p => if p.holdsOp o.id then o.setUniform now p else p) := by
  rw [MemOp.landIn]
  dsimp only
  rw [Wave.setVs_parts]

theorem counted_setUniform (o : MemOp) (now : Nat) (p : Part) :
    (if p.holdsOp o.id then o.setUniform now p else p).counted = p.counted := by
  split
  · rw [setUniform_eq]
    rfl
  · rfl

theorem landIn_like_parts (o : MemOp) (now : Nat) (w v : Wave) : (o.landIn now w v).parts.map Part.counted = v.parts.map Part.counted := by
  rw [landIn_parts, List.map_map]
  exact List.map_congr_left (fun p _ => counted_setUniform o now p)

/-- The results stay no reason for a part to hold another operation before this one. -/
theorem AllBack.headOfClass_landIn (h : AllBack s o w) : headOfClass (o.landIn s.dcc w w) (o.taken s.dcc) = true := by
  refine List.all_eq_true.mpr (fun q hq => ?_)
  rw [landIn_parts] at hq
  obtain ⟨p, hp, rfl⟩ := List.mem_map.mp hq
  have hops := opsOf_of_counted (counted_setUniform o s.dcc p) h.cls
  have hcls : (o.taken s.dcc).cls = o.cls := rfl
  have hid : (o.taken s.dcc).id = o.id := rfl
  rw [hcls, hid, hops]
  by_cases hmem : o.id ∈ p.opsOf o.cls
  · simp [h.oldest p hp hmem]
  · simp [hmem]

theorem AllBack.taken_ended (h : AllBack s o w) : (o.taken s.dcc).accs.all Access.ended = true := by
  refine List.all_eq_true.mpr (fun b hb => ?_)
  obtain ⟨a, ha, rfl⟩ := List.mem_map.mp hb
  obtain ⟨hphase, hdue⟩ := h.accs a ha
  rw [if_pos (by simp [Access.returned, hphase, hdue])]
  rfl

/-- Once its results are written, nothing of it is left to do. -/
theorem AllBack.over (h : AllBack s o w) : (s.writeBack o.id).opOver (o.taken s.dcc) = true := by
  have hnone : s.posted.any (fun q => q.op == some o.id) = false := List.any_eq_false.mpr (fun q hq => by simpa using h.posted q hq)
  rw [State.opOver, h.taken_ended, h.writeBack_opWave]
  dsimp only
  rw [h.headOfClass_landIn, h.writeBack_change.posted, h.writeBack_change.dcc]
  simp [MemOp.taken, h.due, h.parked, hnone]

theorem AllBack.endOp_eq (h : AllBack s o w) :
    (s.writeBack o.id).endOp o.id = ((s.writeBack o.id).updWave o.key (o.leave s.dcc)).dropOp o.id := by
  rw [State.endOp, h.writeBack_op]
  dsimp only
  rw [if_pos h.over, State.retire, h.writeBack_opWave, h.writeBack_change.dcc]
  rfl

theorem AllBack.ended_wave (h : AllBack s o w) :
    ((s.writeBack o.id).endOp o.id).wave? o.key = some (o.leave s.dcc (o.landIn s.dcc w w)) := by
  rw [h.endOp_eq]
  exact wave?_updWave_some h.writeBack_wave _

theorem AllBack.ended_mem (h : AllBack s o w) : ((s.writeBack o.id).endOp o.id).mem = s.mem := by
  rw [h.endOp_eq]
  exact (waveChange_updWave ..).mem.trans h.writeBack_change.mem

theorem AllBack.ended_op (h : AllBack s o w) : ((s.writeBack o.id).endOp o.id).op? o.id = none := by
  rw [h.endOp_eq]
  exact op?_dropOp ..

/-- A part that an ended operation has left stands where it stood, and counts the operation no longer. -/
theorem counted_leave (o : MemOp) (now : Nat) (p : Part) :
    ((if p.holdsOp o.id then p.arriveStatus now o.status else p).dropOp o.id).counted
      = (p.pc, p.ldOps.filter (fun i => i != o.id), p.stOps.filter (fun i => i != o.id)) := by
  split <;> rfl

theorem leave_parts (o : MemOp) (now : Nat) (w v : Wave) :
    (o.leave now (o.landIn now w v)).parts.map Part.counted
      = (v.parts.map Part.counted).map (fun e => (e.1, e.2.1.filter (fun i => i != o.id), e.2.2.filter (fun i => i != o.id))) := by
  rw [← landIn_like_parts o now w v, MemOp.leave, List.map_map, List.map_map]
  exact List.map_congr_left (fun p _ => counted_leave o now p)

end

/-! ### The values of a load (08 R205) -/

/-- Registers below 512 of one call depth have one place only in one lane, whatever the lanes. -/
theorem vKey_inj_depth {d l n l' n' : Nat} (hn : n < 512) (hn' : n' < 512) (h : vKey d l n = vKey d l' n') : l = l' ∧ n = n' := by
  unfold vKey at h
  omega

/-- Every access of a load writes its own lane's registers: each value stands in them. -/
theorem v_setVs_loads {accs : List Access} (hlanes : (accs.map (fun a => a.lane)).Nodup) {dst n : Nat} (hn : dst + n ≤ 512) (w : Wave) (depth : Nat)
    {a : Access} (ha : a ∈ accs) {k : Nat} (hk : k < n) :
    (w.setVs depth (accs.flatMap (fun a => loadWrites a.lane dst n a.data))).v depth a.lane (dst + k)
      = BitVec.ofNat 32 (natOfBytes a.data / 2 ^ (32 * k)) := by
  have hmem : ∀ {b : Access} {e}, e ∈ loadWrites b.lane dst n b.data ↔
      ∃ j < n, e = (b.lane, dst + j, BitVec.ofNat 32 (natOfBytes b.data / 2 ^ (32 * j))) := by
    intro b e
    rw [loadWrites_eq, mem_laneWrites]
    simp
  refine v_setVs_agree w depth _ ⟨_, List.mem_flatMap.mpr ⟨a, ha, hmem.mpr ⟨k, hk, rfl⟩⟩, rfl⟩ (fun e he hkey => ?_)
  obtain ⟨b, hb, he⟩ := List.mem_flatMap.mp he
  obtain ⟨j, hj, rfl⟩ := hmem.mp he
  obtain ⟨hlane, hreg⟩ := vKey_inj_depth (show dst + j < 512 by omega) (by omega) hkey
  obtain rfl : b = a := List.inj_on_of_nodup_map hlanes hb ha hlane
  obtain rfl : j = k := Nat.add_left_cancel hreg
  rfl

theorem keepHeldRegs_loads {w : Wave} {depth dst n : Nat} (h : depth ≠ 0 ∨ dst + n ≤ w.allot) (accs : List Access) :
    keepHeldRegs w depth (accs.flatMap (fun a => loadWrites a.lane dst n a.data)) = accs.flatMap (fun a => loadWrites a.lane dst n a.data) := by
  unfold keepHeldRegs
  split
  · next hzero =>
    refine List.filter_eq_self.mpr (fun e he => ?_)
    obtain ⟨b, -, he⟩ := List.mem_flatMap.mp he
    rw [loadWrites_eq] at he
    obtain ⟨l, -, k, hk, rfl⟩ := mem_laneWrites.mp he
    refine decide_eq_true ?_
    dsimp only
    omega
  · rfl

section
variable {s u : State} {o o' : MemOp} {w w' : Wave}

theorem AllBack.load_writes (h : AllBack s o w) {depth dst n : Nat} (hkind : o.kind = .load depth dst n) :
    o.writes s.dcc = (depth, o.accs.flatMap (fun a => loadWrites a.lane dst n a.data)) := by
  have hback : o.accs.filter (Access.returned s.dcc) = o.accs :=
    List.filter_eq_self.mpr (fun a ha => by simp [Access.returned, h.accs a ha])
  rw [MemOp.writes, hkind]
  dsimp only
  rw [hback]

/-- A load that has ended has left its values in its lanes. -/
theorem AllBack.v_loads (h : AllBack s o w) {depth dst n : Nat} (hkind : o.kind = .load depth dst n) (hlanes : (o.accs.map (fun a => a.lane)).Nodup)
    (hn : dst + n ≤ 512) (hheld : depth ≠ 0 ∨ dst + n ≤ w.allot) {a : Access} (ha : a ∈ o.accs) {k : Nat} (hk : k < n) :
    (o.leave s.dcc (o.landIn s.dcc w w)).v depth a.lane (dst + k) = BitVec.ofNat 32 (natOfBytes a.data / 2 ^ (32 * k)) := by
  refine Eq.trans (v_congr (v := w.setVs (o.writes s.dcc).1 (keepHeldRegs w (o.writes s.dcc).1 (o.writes s.dcc).2)) rfl ..) ?_
  rw [h.load_writes hkind]
  dsimp only
  rw [keepHeldRegs_loads hheld]
  exact v_setVs_loads hlanes hn w depth ha hk

/-! ### The completion of the operation -/

/-- The operation has ended: memory is as before, it is counted no longer, its wave's parts stand where they stood, and a load's values stand in its lanes. -/
structure CameBack (s t : State) (o : MemOp) (w w' : Wave) : Prop where
  mem : t.mem = s.mem
  gone : t.op? o.id = none
  wave : t.wave? o.key = some w'
  parts : ∀ (n : Nat) (p : Part), w.parts[n]? = some p → ∃ q, w'.parts[n]? = some q ∧ q.pc = p.pc
    ∧ q.opsOf o.cls = (p.opsOf o.cls).filter (fun i => i != o.id)
  loaded : ∀ depth dst n, o.kind = .load depth dst n → (o.accs.map (fun a => a.lane)).Nodup → dst + n ≤ 512 → depth ≠ 0 ∨ dst + n ≤ w.allot →
    ∀ a ∈ o.accs, ∀ k < n, w'.v depth a.lane (dst + k) = BitVec.ofNat 32 (natOfBytes a.data / 2 ^ (32 * k))

/-- The parts of a wave that an ended operation has left. -/
theorem parts_leave (o : MemOp) (now : Nat) (w v : Wave) (hcls : o.cls = .ld ∨ o.cls = .st) {n : Nat} {p : Part} (hp : v.parts[n]? = some p) :
    ∃ q, (o.leave now (o.landIn now w v)).parts[n]? = some q ∧ q.pc = p.pc ∧ q.opsOf o.cls = (p.opsOf o.cls).filter (fun i => i != o.id) := by
  have hn := congrArg (fun l => l[n]?) (leave_parts o now w v)
  obtain ⟨q, hq, hcounted⟩ : ∃ q, (o.leave now (o.landIn now w v)).parts[n]? = some q
      ∧ q.counted = (p.pc, p.ldOps.filter (fun i => i != o.id), p.stOps.filter (fun i => i != o.id)) := by
    simpa [hp, Part.counted] using hn
  obtain ⟨hpc, hld, hst⟩ : q.pc = p.pc ∧ q.ldOps = p.ldOps.filter (fun i => i != o.id) ∧ q.stOps = p.stOps.filter (fun i => i != o.id) := by
    simpa [Part.counted] using hcounted
  refine ⟨q, hq, hpc, ?_⟩
  rcases hcls with hc | hc <;> rw [hc]
  · exact hld
  · exact hst

theorem Readied.cameBack (h : Readied s u o w o' w') :
    CameBack s ((u.writeBack o.id).endOp o.id) o w (o'.leave u.dcc (o'.landIn u.dcc w' w')) := by
  obtain ⟨back, hop, hlike, hmem⟩ := h
  have hid : o'.id = o.id := by rw [hop]
  have hkey : o'.key = o.key := by rw [hop]; rfl
  have hcls : o'.cls = o.cls := by rw [hop]
  have haccs : o'.accs = o.accs := by rw [hop]
  have hkind : o'.kind = o.kind := by rw [hop]
  refine ⟨hid ▸ back.ended_mem.trans hmem, hid ▸ back.ended_op, hid ▸ hkey ▸ back.ended_wave, fun n p hp => ?_, ?_⟩
  · obtain ⟨p', hp', hcounted⟩ := hlike.part hp
    obtain ⟨q, hq, hpc, hops⟩ := parts_leave o' u.dcc w' w' back.cls hp'
    rw [hcls, hid, opsOf_of_counted hcounted (hcls ▸ back.cls)] at hops
    exact ⟨q, hq, hpc.trans (congrArg Prod.fst hcounted), hops⟩
  · intro depth dst n hk hlanes hn hheld a ha k hkn
    exact back.v_loads (hkind.trans hk) (haccs.symm ▸ hlanes) hn (hlike.allot.symm ▸ hheld) (haccs.symm ▸ ha) hkn

theorem AllBack.ld_ends (h : AllBack s o w) (hc : o.cls = .ld) : ∃ t w', exec (.ldCompletion o.id) s = .next t ∧ CameBack s t o w w' := by
  obtain ⟨o', w', hready⟩ := h.performOp
  refine ⟨_, _, ?_, hready.cameBack⟩
  show execLdCompletion o.id s = _
  rw [execLdCompletion, h.found]
  dsimp only
  rw [if_pos hc, h.runUnit, ite_self]
  rfl

theorem AllBack.st_ends (h : AllBack s o w) (hc : o.cls = .st) : ∃ t w', exec (.stCompletion o.id) s = .next t ∧ CameBack s t o w w' := by
  obtain ⟨o', w', hready⟩ := h.queueOutput
  refine ⟨_, _, ?_, hready.cameBack⟩
  show execStCompletion o.id s = _
  rw [execStCompletion, h.found]
  exact if_pos hc

end

end Sys2Proof.Machine
end

section
/-! SUPPORT. Where a part stands after `gret` (13 R305) and after what waits alone, and the doorbells of a tenant (11 R252, R253, R265). -/

namespace Sys2Proof.Machine

/-! ### Where a part stands -/

/-- The part of a reference stands at an address. -/
def StandsAt (s : State) (r : PartRef) (pc : W64) : Prop := ∃ w p, s.wave? r.key = some w ∧ w.part? r.base = some p ∧ p.pc = pc

theorem StandsAt.coresOnly {s t : State} {r : PartRef} {pc : W64} (h : StandsAt s r pc) (ht : CoresOnly s t) : StandsAt t r pc := by
  obtain ⟨w, p, hw, hp, hpc⟩ := h
  exact ⟨w, p, (ht.wave? _).trans hw, hp, hpc⟩

theorem StandsAt.beginRegion {s : State} {r : PartRef} {pc : W64} (h : StandsAt s r pc) (a : W64) (counted : Bool) :
    StandsAt (s.beginRegion r a counted) r pc := by
  obtain ⟨w, p, hw, hp, hpc⟩ := h
  obtain ⟨v, hv, -, hq⟩ := beginRegion_wave hw hp a counted
  exact ⟨v, _, hv, hq, hpc⟩

/-! ### `gret` (13 R305) -/

theorem coresOnly_creditPopped (s : State) (r : PartRef) (old : Wave) : CoresOnly s (s.creditPopped r old) := by
  unfold State.creditPopped
  split <;> rfl

theorem dropScratch_eq (s : State) (core : Nat) (f : GateFrame) : s.dropScratch core f = { s with scratch := (s.dropScratch core f).scratch } := by
  unfold State.dropScratch
  split <;> rfl

theorem StandsAt.dropScratch {s : State} {r : PartRef} {pc : W64} (h : StandsAt s r pc) (core : Nat) (f : GateFrame) :
    StandsAt (s.dropScratch core f) r pc := by
  rw [dropScratch_eq]
  exact h

theorem dropScratch_mem (s : State) (core : Nat) (f : GateFrame) : (s.dropScratch core f).mem = s.mem := by rw [dropScratch_eq]

theorem leaveCallee_mem (s : State) (c : Ctx) (f : GateFrame) (a : BitVec 7) : (s.leaveCallee c f a).mem = s.mem := by
  rw [State.leaveCallee, State.beginRegion_mem, dropScratch_mem, (coresOnly_creditPopped ..).mem, State.updPart_mem, State.updWave_mem, State.dropCallee, State.updWave_mem]

/-- A part that leaves its callee stands at its return address. -/
theorem standsAt_leaveCallee {s : State} {c : Ctx} (hi : s.issuing = some c) (f : GateFrame) (a : BitVec 7) :
    StandsAt (s.leaveCallee c f a) c.ref f.ret := by
  rw [State.leaveCallee]
  refine StandsAt.beginRegion (StandsAt.dropScratch (StandsAt.coresOnly ?_ (coresOnly_creditPopped ..)) ..) ..
  refine ⟨_, _, wave?_updWave_some (wave?_updWave_some (wave?_updWave_some (issuing_wave hi) _) _) _,
    part?_updPart_some (p := c.part) ?_ _ (fun _ => rfl), rfl⟩
  rw [Wave.part?, Wave.setVs_parts]
  exact issuing_part hi

theorem execGret_leaves {s : State} {c : Ctx} {r : RWord} {f : GateFrame} {fs : List GateFrame} (hi : s.issuing = some c)
    (hframes : c.part.frames = f :: fs) (htcode : c.part.tcode = 0) (hops : OperandsOk c (spanVop r.a f.nres)) (free : Free c r.s false none (some f.width))
    (hquiet : s.quiet c = true) (hfails : c.part.fails = []) (hheld : c.part.held = []) : exec (.gret r) s = .next (s.leaveCallee c f r.a) := by
  have hframe : (if c.part.tcode = 0 then c.part.frames.head? else none) = some f := by
    rw [if_pos htcode, hframes]
    rfl
  have hnone : oldestDelivery c.part = none := by
    rw [oldestDelivery, hfails, hheld]
    rfl
  refine (issue_next _ _ c s hi (by simp) ?_ ?_ ?_).trans (congrArg _ ?_)
  · exact if_neg (by simp [hframes])
  · dsimp only
    rw [hframe]
    exact hops
  · dsimp only [Option.map_some]
    rw [hframe]
    exact free
  · rw [hframes]
    dsimp only
    rw [if_neg (by simp [htcode]), hquiet, hnone]
    rfl

/-! ### Queues behind a doorbell (11 R253) -/

/-- Nothing of a queue differs but its command buffer. -/
def Queue.Buffered (q p : Queue) : Prop := p = { q with buffer := p.buffer }

theorem refillFrom_buffered (s : State) (q : Queue) (fuel : Nat) : q.Buffered (s.refillFrom q fuel) := by
  induction fuel generalizing q with
  | zero => rfl
  | succ fuel ih =>
    unfold State.refillFrom
    split
    · rfl
    · split
      · rfl
      · next b _ =>
        have h := ih { q with buffer := q.buffer ++ [b] }
        unfold Queue.Buffered at h ⊢
        rw [h]

theorem queue_refuseAll (s : State) (pas : List Nat) (n : Nat) : (s.refuseAll pas).queue n = s.queue n := by
  have h := (cachesOnly_refuseAll s pas).eq
  rw [h]
  rfl

/-- A queue that prefetches changes in its command buffer alone, and memory does not. -/
theorem refill_buffered (s : State) (n : Nat) : (s.queue n).Buffered ((s.refill n).queue n) ∧ (s.refill n).mem = s.mem := by
  unfold State.refill
  dsimp only
  split
  · rw [queue_refuseAll, State.queue_updQueue_self]
    exact ⟨refillFrom_buffered .., (cachesOnly_refuseAll ..).mem⟩
  · exact ⟨rfl, rfl⟩

/-- QTAIL_WRITE is taken: the queue's TAIL is the value's low word. -/
theorem qtailWrite_taken {s : State} {n : Nat} {v : W64} {src : Source} (hanswers : s.answers = true) (hmay : mayTenant src (s.queue n).tenant = true) :
    ∃ t, exec (.qtailWrite n v src) s = .next t ∧ t.mem = s.mem ∧ (t.queue n).tail = v.extractLsb' 0 32 := by
  show ∃ t, execQtailWrite n v src s = .next t ∧ _
  have htail : ((s.updQueue n (fun q => { q with tail := v.extractLsb' 0 32 })).queue n).tail = v.extractLsb' 0 32 := by
    rw [State.queue_updQueue_self]
  rw [execQtailWrite, if_neg (by simp [hanswers, hmay])]
  generalize hu : s.updQueue n (fun q => { q with tail := v.extractLsb' 0 32 }) = u at htail
  have hmem : u.mem = s.mem := by rw [← hu]; rfl
  dsimp only
  split
  · refine ⟨_, rfl, hmem, ?_⟩
    rw [State.stopQueue, State.queue_updQueue_self]
    exact htail
  · obtain ⟨hqueue, hkept⟩ := refill_buffered u n
    refine ⟨_, rfl, hkept.trans hmem, ?_⟩
    rw [hqueue]
    exact htail

/-- QERR_STOP_WRITE is taken: a stopped queue goes on. -/
theorem qerrStopWrite_taken {s : State} {n : Nat} {v : W64} {src : Source} (hanswers : s.answers = true)
    (hmay : mayTenant src (s.queue n).tenant = true) (hv : v.getLsbD 63 = true) (hstop : (s.queue n).stop = true) :
    ∃ t, exec (.qerrStopWrite n v src) s = .next t ∧ t.mem = s.mem ∧ (t.queue n).stop = false := by
  show ∃ t, execQerrStopWrite n v src s = .next t ∧ _
  rw [execQerrStopWrite, if_neg (by simp [hanswers, hmay, hv, hstop]), State.consume]
  obtain ⟨hqueue, hkept⟩ := refill_buffered ((s.updQueue n (fun q => { q with stop := false })).updQueue n
    (fun q => { q with head := q.head + 1, buffer := q.buffer.drop 1, pollAt := 0, pollOk := false })) n
  refine ⟨_, rfl, hkept, ?_⟩
  rw [hqueue, State.queue_updQueue_self, State.queue_updQueue_self]

/-- QPASS_WRITE is taken: the queue's pass is the value's. -/
theorem qpassWrite_taken {s : State} {n : Nat} {v : W64} {src : Source} (hanswers : s.answers = true) (hmay : mayTenant src (s.queue n).tenant = true) :
    ∃ t, exec (.qpassWrite n v src) s = .next t ∧ t.mem = s.mem ∧ (t.queue n).qpass.toNat = v.toNat / 64 % 2 ^ 51 * 64 := by
  show ∃ t, execQpassWrite n v src s = .next t ∧ _
  rw [execQpassWrite, if_neg (by simp [hanswers, hmay])]
  refine ⟨_, rfl, rfl, ?_⟩
  rw [State.queue_updQueue_self]
  dsimp only
  rw [BitVec.toNat_ofNat]
  omega

/-! ### TRIGGER (11 R265-R268) -/

/-- Memory and every tenant's PATCH and GID are as before. -/
structure KeepsTriggers (s t : State) : Prop where
  mem : t.mem = s.mem
  patch : ∀ k, (t.tenant k).patch = (s.tenant k).patch
  gid : ∀ k, (t.tenant k).gid = (s.tenant k).gid

theorem KeepsTriggers.refl (s : State) : KeepsTriggers s s := ⟨rfl, fun _ => rfl, fun _ => rfl⟩
theorem KeepsTriggers.trans {s t u : State} (h : KeepsTriggers s t) (h' : KeepsTriggers t u) : KeepsTriggers s u :=
  ⟨h'.mem.trans h.mem, fun k => (h'.patch k).trans (h.patch k), fun k => (h'.gid k).trans (h.gid k)⟩

/-- A change of the scheduler outside its tenants, and of launches. -/
theorem keepsTriggers_of_tenants {s t : State} (hmem : t.mem = s.mem) (htenants : t.sched.tenants = s.sched.tenants) : KeepsTriggers s t := by
  have htenant : ∀ k, t.tenant k = s.tenant k := fun k => by rw [State.tenant, htenants]; rfl
  exact ⟨hmem, fun k => by rw [htenant], fun k => by rw [htenant]⟩

theorem keepsTriggers_dropTrigger (s : State) (t k : Nat) : KeepsTriggers s (s.dropTrigger t k) := by
  refine ⟨rfl, fun j => ?_, fun j => ?_⟩ <;> rw [State.dropTrigger, State.tenant_updTenant]
  · split
    · next h => rw [h]
    · rfl
  · split
    · next h => rw [h]
    · rfl

theorem keepsTriggers_insts (s : State) (insts : List GraphInst) : KeepsTriggers s { s with sched := { s.sched with insts } } :=
  keepsTriggers_of_tenants rfl rfl

theorem keepsTriggers_launchNode (s : State) (g : Graph) (i decode : Nat) : KeepsTriggers s (s.launchNode g i decode) := by
  unfold State.launchNode
  split
  · exact .refl s
  · split
    · exact keepsTriggers_of_tenants rfl rfl
    · exact keepsTriggers_of_tenants rfl rfl

theorem keepsTriggers_startInstance (s : State) (g : Graph) (fuel : Nat) : KeepsTriggers s (s.startInstance g fuel) := by
  induction fuel generalizing s with
  | zero => exact .refl s
  | succ fuel ih =>
    unfold State.startInstance
    dsimp only
    split
    · exact .refl s
    · split
      · exact .refl s
      · split
        · exact ((keepsTriggers_insts s _).trans (keepsTriggers_dropTrigger _ g.tenant 2)).trans (ih _)
        · exact List.foldlRecOn (motive := KeepsTriggers s) _ _ (keepsTriggers_insts s _)
            (fun _ ht i _ => ht.trans (keepsTriggers_launchNode _ g i _))

/-- TRIGGER_WRITE is taken: the tenant's PATCH and GID are the value's. -/
theorem triggerWrite_taken {s : State} {n : Nat} {v : W64} {src : Source} (hanswers : s.answers = true) (hmay : mayTenant src n = true)
    (hflr : (s.tenant n).flrAt ≠ some s.dcc) :
    ∃ t, exec (.triggerWrite n v true src) s = .next t ∧ t.mem = s.mem ∧ (t.tenant n).patch = v.extractLsb' 0 48
      ∧ (t.tenant n).gid = v.extractLsb' 48 16 := by
  let u := s.updTenant n (fun x => { x with patch := v.extractLsb' 0 48, gid := v.extractLsb' 48 16 })
  have hu : u.tenant n = { s.tenant n with patch := v.extractLsb' 0 48, gid := v.extractLsb' 48 16 } := State.tenant_updTenant_self ..
  have hkept : ∃ t, execTriggerWrite n v true src s = .next t ∧ KeepsTriggers u t := by
    rw [execTriggerWrite, if_neg (by simp [hanswers, hmay, hflr]), if_neg (by simp)]
    dsimp only
    split
    · exact ⟨_, rfl, keepsTriggers_dropTrigger ..⟩
    · split
      · exact ⟨_, rfl, keepsTriggers_dropTrigger ..⟩
      · exact ⟨_, rfl, (keepsTriggers_insts u _).trans (keepsTriggers_startInstance ..)⟩
  obtain ⟨t, ht, hkeeps⟩ := hkept
  exact ⟨t, ht, hkeeps.mem, by rw [hkeeps.patch, hu], by rw [hkeeps.gid, hu]⟩

end Sys2Proof.Machine
end

section
/-! SUPPORT. The statement about the forms that wait or notify, and about results of any number of lanes. -/

open Sys2Proof Sys2Proof.Machine

/-- Settles O26, from the end of an operation whose accesses are all back, where each instruction leaves its part, and what each doorbell keeps. -/
theorem formsComplete : Obligations.FormsComplete := by
  unfold Obligations.FormsComplete
  refine fun s => ⟨fun o w found accs due parked posted wave admission oldest => ?_, fun c hi => ⟨?_, fun m x free => ⟨?_, fun hops => ?_, ?_⟩, ?_⟩,
    fun n v src hanswers => ⟨fun hmay => ?_, triggerWrite_taken hanswers⟩⟩
  · have back : ∀ hcls, AllBack s o w := fun hcls => ⟨found, accs, due, parked, posted, wave, admission, oldest, hcls⟩
    refine ⟨fun hc => ?_, fun hc => ?_⟩
    · obtain ⟨t, w', hexec, h⟩ := (back (.inl hc)).ld_ends hc
      exact ⟨t, w', hexec, h.mem, h.gone, h.wave, h.parts,
        fun depth dst n hkind hlanes hn hheld a ha _ k hk => h.loaded depth dst n hkind hlanes hn hheld a ha k hk⟩
    · obtain ⟨t, w', hexec, h⟩ := (back (.inr hc)).st_ends hc
      exact ⟨t, w', hexec, h.mem, h.gone, h.wave, h.parts,
        fun depth dst n hkind hlanes hn hheld a ha _ k hk => h.loaded depth dst n hkind hlanes hn hheld a ha k hk⟩
  · intro r f fs hframes htcode hops free hquiet hfails hheld
    obtain ⟨w, p, hw, hp, hpc⟩ := standsAt_leaveCallee hi f r.a
    exact ⟨_, w, p, execGret_leaves hi hframes htcode hops free hquiet hfails hheld, leaveCallee_mem .., hw, hp, hpc⟩
  · intro hdrained hheld hbacks
    obtain ⟨t, hexec, ⟨-, w, -, hw⟩, hframe, -⟩ := fence_moves hi free hdrained hheld hbacks
    exact ⟨t, w, _, hexec, by rw [hframe], hw.found, hw.part, rfl⟩
  · have hpast : ∀ {i len y}, (∀ s, exec i s = prefetch m y len s) →
        ∃ t w p, exec i s = .next t ∧ t.mem = s.mem ∧ t.wave? c.ref.key = some w ∧ w.part? c.ref.base = some p ∧ p.pc = c.next len := by
      intro i len y he
      obtain ⟨t, asked, hexec, ⟨-, w, -, hw⟩, hframe, -⟩ := pfetch_completes he hi free hops
      exact ⟨t, w, _, hexec, by rw [hframe], hw.found, hw.part, rfl⟩
    exact ⟨hpast (fun _ => rfl), hpast (fun _ => rfl)⟩
  · intro i len y hform hsub hops haddrs hbefore
    have he : ∀ s, exec i s = cacheControl m y len s := by
      rcases hform with h | h
      · cases h; exact fun _ => rfl
      · cases h; exact fun _ => rfl
    have haddrs' : ∀ a ∈ (laneAddrs c m y).map Prod.snd, a < 2 ^ 57 ∧ s.walk (dieOf c.ref.core) c.part.regs.asid a ≠ .malformed := by
      intro a ha
      obtain ⟨e, hmem, rfl⟩ := List.mem_map.mp ha
      exact haddrs e hmem
    obtain ⟨t, hexec, ⟨-, w, -, hw⟩, hframe, -⟩ := cctl_completes he hi free hsub hops haddrs' hbefore
    exact ⟨t, w, _, hexec, by rw [hframe], hw.found, hw.part, rfl⟩
  · intro r free hcount hlogged hfail
    obtain ⟨t, w, hexec, honly, -, hw⟩ := waitc_completes r s c hi ⟨free, hcount, fun _ => hlogged, hfail⟩
    exact ⟨t, w, _, hexec, by rw [honly.state], hw.found, hw.part, rfl⟩
  · exact ⟨qtailWrite_taken hanswers hmay, qerrStopWrite_taken hanswers hmay, qpassWrite_taken hanswers hmay⟩

end

section
/-! SUPPORT. `rbar`, and the events of rectangle barriers (21 R466-R469, 09 R217). -/

namespace Sys2Proof.Machine

/-! ### `rbar` -/

/-- The barrier of a core with the quads of a part of shape `sh` arrived. -/
def RbarCore.arrive (k : RbarCore) (c : Ctx) (sh : Nat × Nat) : RbarCore :=
  { k with shape := some sh, arrived := putT k.arrived c.ref.slot (getT 0 k.arrived c.ref.slot ||| laneRange c.part.base c.part.width) }

theorem rbar_setRbar (l : Launch) (core : Nat) (k : RbarCore) : (l.setRbar core k).rbar core = k := getT_putT_self ..

/-- An `rbar` of an effective width that passes its checks, of a part whose earlier accesses have performed. -/
structure RectReady (s : State) (c : Ctx) (r : RWord) (mw : Nat) : Prop where
  issues : s.issuing = some c
  frames : c.part.frames = []
  logw : r.b.toNat % 8 ≤ c.launch.logw
  logh : r.b.toNat / 8 % 4 ≤ c.launch.logh
  shape : (c.launch.rbar c.ref.core).shape = none ∨ (c.launch.rbar c.ref.core).shape = some (r.b.toNat % 8, r.b.toNat / 8 % 4)
  done : s.releaseDone c = true
  free : Free c r.s false none (some (c.effWidth mw))

/-- The part of `c` has parked in its core's open instance, of shape `sh`, where its quads have arrived; nothing else differs. -/
structure RectArrived (c : Ctx) (sh : Nat × Nat) (s t : State) (w : Wave) (l : Launch) : Prop where
  others : ∀ n, n ≠ c.ref.key → t.wave? n = s.wave? n
  vregs : SameVregs c.wave w
  wave : WaveIs c t id (c.part.parkedAtOnce (.rbar (c.launch.rbar c.ref.core).num sh.1 sh.2) s.dcc) w
  state : t = { s with launches := t.launches, waves := t.waves }
  launch : t.launch? c.wave.launch = some l
  rbar : l.rbar c.ref.core = (c.launch.rbar c.ref.core).arrive c sh

/-- The state of a part that arrives in its core's instance of shape `sh`. -/
def State.arriveRect (s : State) (c : Ctx) (sh : Nat × Nat) : State :=
  (s.updLaunch c.wave.launch (fun l => l.setRbar c.ref.core ((c.launch.rbar c.ref.core).arrive c sh))).parkPart c.ref
    (.rbar (c.launch.rbar c.ref.core).num sh.1 sh.2)

theorem arriveRect_arrived {s : State} {c : Ctx} (hi : s.issuing = some c) (sh : Nat × Nat) : ∃ w l, RectArrived c sh s (s.arriveRect c sh) w l := by
  obtain ⟨-, hw, hp, -, hl⟩ := ctx_parts (issuing_ctx hi)
  have hlaunch := State.launch?_updLaunch_some hl (fun l => l.setRbar c.ref.core ((c.launch.rbar c.ref.core).arrive c sh))
  have hstate := s.updLaunch_eq c.wave.launch (fun l => l.setRbar c.ref.core ((c.launch.rbar c.ref.core).arrive c sh))
  unfold State.arriveRect
  generalize s.updLaunch c.wave.launch (fun l => l.setRbar c.ref.core ((c.launch.rbar c.ref.core).arrive c sh)) = u at hlaunch hstate ⊢
  have hwave : ∀ n, u.wave? n = s.wave? n := fun n => by rw [hstate]; rfl
  have hdcc : u.dcc = s.dcc := by rw [hstate]
  obtain ⟨w, honly, hsame, his⟩ := (partBecomes_of_wave ((hwave _).trans hw) hp).parkPart (.rbar (c.launch.rbar c.ref.core).num sh.1 sh.2)
  refine ⟨w, _, fun n hn => (honly.others n hn).trans (hwave n), hsame, hdcc ▸ his, ?_, ?_, rbar_setRbar c.launch ..⟩
  · rw [honly.state, hstate]
  · rw [honly.state]
    exact hlaunch

section
variable {s : State} {c : Ctx} {r : RWord} {mw : Nat}

/-- An `rbar` that passes its checks sends its release's write-backs, and arrives where none are left. -/
theorem rectBarrier_next (h : RectReady s c r mw) (len : Nat) :
    rectBarrier r len mw s = .next ((s.releaseAt c 3 true).getD (s.arriveRect c (r.b.toNat % 8, r.b.toNat / 8 % 4))) := by
  have hpre : (match illegalAt c 0 (decide (c.launch.logw < r.b.toNat % 8) || decide (c.launch.logh < r.b.toNat / 8 % 4)) with
      | some t => some t
      | none => gateBan c) = none := by
    simp [illegalAt, gateBan, h.frames, not_lt.mpr h.logw, not_lt.mpr h.logh]
  have hsame : ¬ ((c.launch.rbar c.ref.core).shape.isSome = true
      ∧ (c.launch.rbar c.ref.core).shape ≠ some (r.b.toNat % 8, r.b.toNat / 8 % 4)) := by
    rcases h.shape with hshape | hshape <;> simp [hshape]
  refine (issue_next _ _ c s h.issues (by simp) hpre rfl h.free).trans
    (congrArg _ ((if_neg hsame).trans ((if_neg (by simp [h.done])).trans ?_)))
  cases s.releaseAt c 3 true <;> rfl

theorem rbar_arrives (h : RectReady s c r mw) (hbacks : BacksGone s c 3) (len : Nat) :
    ∃ t w l, rectBarrier r len mw s = .next t ∧ RectArrived c (r.b.toNat % 8, r.b.toNat / 8 % 4) s t w l := by
  obtain ⟨w, l, harrived⟩ := arriveRect_arrived h.issues (r.b.toNat % 8, r.b.toNat / 8 % 4)
  refine ⟨_, w, l, ?_, harrived⟩
  rw [rectBarrier_next h, releaseAt_none true hbacks, Option.getD_none]

theorem rbar_sends (h : RectReady s c r mw) (hrel : c.part.relAt = none)
    (hbacks : (s.releaseL1 c.ref.core 3).backsDone c.ref.core (s.releaseL1 c.ref.core 3).nextId = false) (len : Nat) :
    ∃ t, rectBarrier r len mw s = .next t ∧ ReleaseSent s c 3 true t := by
  obtain ⟨t, ht, hsent⟩ := releaseAt_sends true h.issues hrel hbacks
  refine ⟨t, ?_, hsent⟩
  rw [rectBarrier_next h, ht, Option.getD_some]

end

/-! ### A waiter goes on (19 R403, 21 R468) -/

theorem lenAt_four_or_eight (s : State) (core : Nat) (p : Part) : s.lenAt core p = 4 ∨ s.lenAt core p = 8 := by
  unfold State.lenAt
  split
  · exact .inr rfl
  · exact .inr rfl
  · exact .inl rfl

/-- A part behind its barrier instruction, which is a word or two long. -/
theorem pc_behind (s : State) (core : Nat) (p : Part) :
    p.pc + BitVec.ofNat 64 (s.lenAt core p) = p.pc + 4 ∨ p.pc + BitVec.ofNat 64 (s.lenAt core p) = p.pc + 8 := by
  rcases lenAt_four_or_eight s core p with h | h <;> rw [h]
  · exact .inl rfl
  · exact .inr rfl

/-! ### The phase of a named barrier (19 R403) -/

section
variable {s : State} {g b n : Nat} {w : Wave} {p : Part}

/-- A waiter of a phase that is over goes on behind its instruction, four cycles later, and may arrive again. -/
theorem phasePart_waiter {m : Nat} (hpark : p.park = .barrier b m) (hm : m ≤ n) :
    (s.phasePart g b n w p).park = .running ∧ ((s.phasePart g b n w p).pc = p.pc + 4 ∨ (s.phasePart g b n w p).pc = p.pc + 8)
      ∧ (s.phasePart g b n w p).notBefore = s.dcc + 4 ∧ (s.phasePart g b n w p).arrival? b = none := by
  have heq : s.phasePart g b n w p
      = ({ p with arrivals := delT p.arrivals b }.moveTo (p.pc + BitVec.ofNat 64 (s.lenAt w.core p))).issued s.dcc 4 := by
    unfold State.phasePart
    rw [hpark]
    exact if_pos ⟨rfl, hm⟩
  rw [heq]
  exact ⟨rfl, pc_behind .., rfl, lookT_delT_self ..⟩

/-- Every other part stays where it is. -/
theorem phasePart_other (hpark : ∀ m, p.park = .barrier b m → n < m) :
    (s.phasePart g b n w p).pc = p.pc ∧ (s.phasePart g b n w p).park = p.park ∧ (s.phasePart g b n w p).arrivals = p.arrivals := by
  unfold State.phasePart
  split
  · next b' m h =>
    rw [if_neg]
    · exact ⟨rfl, rfl, rfl⟩
    · rintro ⟨rfl, hm⟩
      have := hpark m h
      omega
  · split <;> exact ⟨rfl, rfl, rfl⟩
  · split <;> exact ⟨rfl, rfl, rfl⟩
  · exact ⟨rfl, rfl, rfl⟩

theorem phasePart_regs : (s.phasePart g b n w p).regs = p.regs := by
  unfold State.phasePart
  split
  · dsimp only
    split
    · rw [Part.issued_regs, Part.moveTo_regs]
    · rfl
  · split <;> rfl
  · split <;> rfl
  · rfl

end

/-- A wave of a group whose phase has ended. -/
def Wave.phaseEnds (s : State) (g b n : Nat) (w : Wave) : Wave := { w with parts := w.parts.map (s.phasePart g b n w) }

/-- The next phase of a group's barrier is open. -/
def State.openPhase (s : State) (g b n : Nat) : State :=
  s.updGroup g (fun v => { v with barriers := putT v.barriers b { phase := n + 1, arrived := [] } })

/-- A phase is over: the group is in the next one, and the parts of its waves have been told. -/
theorem barrierPhaseComplete_next {s : State} {g b : Nat} {v : Group} (hover : s.phaseOver g b = true) (hg : s.group? g = some v) :
    ∃ t u, exec (.barrierPhaseComplete g b) s = .next t ∧ t = { s with groups := t.groups, waves := t.waves } ∧ u.dcc = s.dcc
      ∧ t.group? g = some { v with barriers := putT v.barriers b { phase := (barrierOf v b).phase + 1, arrived := [] } }
      ∧ ∀ k, t.wave? k = (s.wave? k).map (fun w => if w.group = g then w.phaseEnds u g b (barrierOf v b).phase else w) := by
  have hgroup : (s.openPhase g b (barrierOf v b).phase).group? g
      = some { v with barriers := putT v.barriers b { phase := (barrierOf v b).phase + 1, arrived := [] } } := by
    rw [State.openPhase, State.updGroup_self, hg]
    rfl
  have hstate : s.openPhase g b (barrierOf v b).phase = { s with groups := (s.openPhase g b (barrierOf v b).phase).groups } := s.updGroup_eq ..
  have hexec : exec (.barrierPhaseComplete g b) s = .next { s.openPhase g b (barrierOf v b).phase with
      waves := (s.openPhase g b (barrierOf v b).phase).waves.map (fun (e : Nat × Wave) =>
        if e.2.group = g then (e.1, e.2.phaseEnds (s.openPhase g b (barrierOf v b).phase) g b (barrierOf v b).phase) else e) } := by
    show execBarrierPhaseComplete g b s = _
    rw [execBarrierPhaseComplete, hover, hg]
    rfl
  generalize s.openPhase g b (barrierOf v b).phase = u at hgroup hstate hexec
  refine ⟨_, u, hexec, ?_, by rw [hstate], hgroup, fun k => ?_⟩
  · rw [hstate]
  · refine (lookT_map_if (fun w : Wave => w.group = g) (fun w => w.phaseEnds u g b (barrierOf v b).phase) u.waves k).trans ?_
    rw [State.wave?, hstate]

/-! ### Instances of a core (21 R467-R469) -/

/-- The launch's barrier at a core has become `k`, and nothing else of the launch differs. -/
def RbarBecomes (t : State) (l core : Nat) (v : Launch) (k : RbarCore) : Prop :=
  ∃ v', t.launch? l = some v' ∧ v'.rbar core = k ∧ v' = { v with rbars := v'.rbars }

/-- The parts of a core go on behind their barrier in cycle `at_`. -/
def GoesAt (s t : State) (core at_ : Nat) (r : PartRef) : Prop :=
  ∀ p, s.part? r = some p → r.core = core → ∃ q, t.part? r = some q ∧ q.park = .running ∧ q.regs = p.regs ∧ (q.pc = p.pc + 4 ∨ q.pc = p.pc + 8)
    ∧ q.notBefore = at_

/-- The state with another record of a core's instances. -/
def State.putRbar (s : State) (l core : Nat) (k : RbarCore) : State := s.updLaunch l (fun v => v.setRbar core k)

theorem putRbar_eq (s : State) (l core : Nat) (k : RbarCore) : s.putRbar l core k = { s with launches := (s.putRbar l core k).launches } :=
  s.updLaunch_eq ..

theorem rbarBecomes_putRbar {s : State} {l : Nat} {v : Launch} (h : s.launch? l = some v) (core : Nat) (k : RbarCore) :
    RbarBecomes (s.putRbar l core k) l core v k :=
  ⟨_, State.launch?_updLaunch_some h _, rbar_setRbar v core k, rfl⟩

theorem RbarBecomes.of_launches {t u : State} {l core : Nat} {v : Launch} {k : RbarCore} (h : RbarBecomes t l core v k)
    (hlaunches : u.launches = t.launches) : RbarBecomes u l core v k := by
  obtain ⟨v', hv, hrest⟩ := h
  refine ⟨v', ?_, hrest⟩
  rw [State.launch?, hlaunches]
  exact hv

/-- A waiter of an instance that is over, as it goes on. -/
def State.passed (s : State) (t d : Nat) (r : PartRef) (p : Part) : Part :=
  { (p.moveTo (p.pc + BitVec.ofNat 64 (s.lenAt r.core p))).issued s.dcc 1 with notBefore := max (s.dcc + 1) (t + d) }

theorem passed_base (s : State) (t d : Nat) (r : PartRef) (p : Part) : (s.passed t d r p).base = p.base := by
  simp only [State.passed, Part.issued_base, Part.moveTo_base]
theorem passed_regs (s : State) (t d : Nat) (r : PartRef) (p : Part) : (s.passed t d r p).regs = p.regs := by
  simp only [State.passed, Part.issued_regs, Part.moveTo_regs]

theorem passRbar_eq (s : State) (t d : Nat) (r : PartRef) : s.passRbar t d r = s.updPart r (s.passed t d r) := rfl

/-- A waiter of an instance that is over goes on. -/
theorem passRbar_part {s : State} {r : PartRef} {p : Part} (h : s.part? r = some p) (t d : Nat) :
    ∃ q, (s.passRbar t d r).part? r = some q ∧ q.park = .running ∧ q.regs = p.regs ∧ (q.pc = p.pc + 4 ∨ q.pc = p.pc + 8)
      ∧ q.notBefore = max (s.dcc + 1) (t + d) := by
  have hpart : (s.passRbar t d r).part? r = some (s.passed t d r p) := by
    rw [passRbar_eq]
    exact State.part?_updPart h (s.passed t d r) (passed_base s t d r)
  exact ⟨_, hpart, rfl, passed_regs s t d r p, pc_behind s r.core p, rfl⟩

theorem passRbar_waves (s : State) (t d : Nat) (rs : List PartRef) :
    rs.foldl (fun s r => s.passRbar t d r) s = { s with waves := (rs.foldl (fun s r => s.passRbar t d r) s).waves } := by
  refine List.foldlRecOn (motive := fun u => u = { s with waves := State.waves u }) rs _ (show s = { s with waves := s.waves } from rfl)
    (fun u hu r _ => ?_)
  rw [State.passRbar, (waveChange_updPart u r _).state, hu]

/-- The waiters of a core acquire, and go on. -/
def State.passAll (s : State) (core t d : Nat) (rs : List PartRef) : State :=
  rs.foldl (fun s r => s.passRbar t d r) (s.acquireL1 core 3)

/-- Time stands while waiters go on. -/
theorem passRbar_now {u : State} {now : Nat} (h : u.dcc = now) (d : Nat) (rs : List PartRef) :
    rs.foldl (fun s r => s.passRbar s.dcc d r) u = rs.foldl (fun s r => s.passRbar now d r) u := by
  induction rs generalizing u with
  | nil => rfl
  | cons r rs ih =>
    rw [List.foldl_cons, List.foldl_cons, h]
    exact ih ((waveChange_updPart u r _).dcc.trans h)

theorem passAll_now (s : State) (core d : Nat) (rs : List PartRef) :
    rs.foldl (fun s r => s.passRbar s.dcc d r) (s.acquireL1 core 3) = s.passAll core s.dcc d rs :=
  passRbar_now (coresOnly_acquireL1 s core 3).dcc d rs

theorem passAll_eq (s : State) (core t d : Nat) (rs : List PartRef) :
    s.passAll core t d rs = { s with cores := (s.acquireL1 core 3).cores, waves := (s.passAll core t d rs).waves } := by
  have hcores := coresOnly_acquireL1 s core 3
  rw [State.passAll, passRbar_waves]
  generalize s.acquireL1 core 3 = u at hcores ⊢
  rw [hcores]

theorem passAll_goes {s : State} {core t d : Nat} (r : PartRef) : GoesAt s (s.passAll core t d [r]) core (max (s.dcc + 1) (t + d)) r := by
  intro p hp _
  have hcores := coresOnly_acquireL1 s core 3
  have hp' : (s.acquireL1 core 3).part? r = some p := by
    rw [State.part?, hcores.wave?]
    exact hp
  have hpass := passRbar_part hp' t d
  rw [hcores.dcc] at hpass
  exact hpass

theorem rbarWaiters_putRbar (s : State) (l core m : Nat) (k : RbarCore) (inst : Nat) :
    (s.putRbar l m k).rbarWaiters l core inst = s.rbarWaiters l core inst := by
  rw [putRbar_eq]
  rfl

section
variable {s : State} {l core : Nat} {v : Launch}

/-- A core's record once its open instance is over: it is reported, and the next one opens. -/
def RbarCore.advance (k : RbarCore) (sh : Nat × Nat) (now : Nat) : RbarCore :=
  { k with num := k.num + 1, arrived := [], shape := none, report := some (k.num, sh, now) }

theorem rbarLocalCompletion_next (hl : s.launch? l = some v) {sh : Nat × Nat} (hshape : (v.rbar core).shape = some sh)
    (hover : s.rbarOver l core = true) :
    exec (.rbarLocalCompletion l core) s = .next (if sh = (0, 0) then
      (s.putRbar l core ((v.rbar core).advance sh s.dcc)).passAll core (s.putRbar l core ((v.rbar core).advance sh s.dcc)).dcc 4
        (s.rbarWaiters l core (v.rbar core).num)
      else s.putRbar l core ((v.rbar core).advance sh s.dcc)) := by
  rw [← rbarWaiters_putRbar s l core core ((v.rbar core).advance sh s.dcc)]
  show execRbarLocalCompletion l core s = _
  rw [execRbarLocalCompletion, hl]
  dsimp only
  rw [hshape]
  dsimp only
  rw [if_neg (by simp [hover]), passAll_now]
  exact (apply_ite (fun u : State => (.next u : Out)) (sh = (0, 0)) _ _).symm

/-- An instance that a core's quads have all reached is reported, and the core's next one opens; of the core alone, its waiters go on. -/
theorem rbarLocalCompletion_advances (hl : s.launch? l = some v) {sh : Nat × Nat} (hshape : (v.rbar core).shape = some sh)
    (hover : s.rbarOver l core = true) :
    ∃ t, exec (.rbarLocalCompletion l core) s = .next t ∧ RbarBecomes t l core v ((v.rbar core).advance sh s.dcc)
      ∧ (sh ≠ (0, 0) → t = { s with launches := t.launches })
      ∧ (sh = (0, 0) → t.cores = (s.acquireL1 core 3).cores ∧ t.mem = s.mem
        ∧ ∀ r, s.rbarWaiters l core (v.rbar core).num = [r] → GoesAt s t core (s.dcc + 4) r) := by
  have hbecomes := rbarBecomes_putRbar hl core ((v.rbar core).advance sh s.dcc)
  have hstate := putRbar_eq s l core ((v.rbar core).advance sh s.dcc)
  refine ⟨_, rbarLocalCompletion_next hl hshape hover, ?_⟩
  generalize s.putRbar l core ((v.rbar core).advance sh s.dcc) = u at hbecomes hstate ⊢
  have hdcc : u.dcc = s.dcc := by rw [hstate]
  have hcores : u.cores = s.cores := by rw [hstate]
  have hmem : u.mem = s.mem := by rw [hstate]
  have hpart : ∀ r, u.part? r = s.part? r := fun r => by rw [hstate]; rfl
  by_cases hsh : sh = (0, 0)
  · rw [if_pos hsh]
    have hpass := passAll_eq u core u.dcc 4 (s.rbarWaiters l core (v.rbar core).num)
    refine ⟨hbecomes.of_launches (by rw [hpass]), fun h => absurd hsh h, fun _ => ⟨?_, ?_, fun r hr p hp hcore => ?_⟩⟩
    · rw [hpass]
      exact acquireL1_cores hcores core 3
    · rw [hpass]
      exact hmem
    · have hgoes := passAll_goes (s := u) (core := core) (t := u.dcc) (d := 4) r p ((hpart r).trans hp) hcore
      rw [hdcc, Nat.max_eq_right (show s.dcc + 1 ≤ s.dcc + 4 by omega)] at hgoes
      rwa [hr, hdcc]
  · rw [if_neg hsh]
    exact ⟨hbecomes, fun _ => hstate, fun h => absurd h hsh⟩

/-- No other core of the sub-rectangle has reported an instance with another shape. -/
def Launch.SameShape (v : Launch) (core inst : Nat) (sh : Nat × Nat) : Prop :=
  ∀ c ∈ v.subRect core sh.1 sh.2, c ≠ core → ∀ x y, (v.rbar c).reported inst = some (x, y) → x = sh

/-- The coordinating slice's test for a report that names another shape. -/
def Launch.clashes (v : Launch) (core inst : Nat) (sh : Nat × Nat) : Bool :=
  ((v.subRect core sh.1 sh.2).filter (fun c => c != core)).any (fun c =>
    match (v.rbar c).reported inst with
    | some (sh', _) => sh' != sh
    | none => false)

theorem clashes_eq_false {inst : Nat} {sh : Nat × Nat} : v.clashes core inst sh = false ↔ v.SameShape core inst sh := by
  refine List.any_eq_false.trans ⟨fun h c hc hne x y hreport => ?_, fun h c hc hclash => ?_⟩
  · have hc' := h c (List.mem_filter.mpr ⟨hc, bne_iff_ne.mpr hne⟩)
    rw [hreport] at hc'
    simpa using hc'
  · obtain ⟨hmem, hne⟩ := List.mem_filter.mp hc
    cases hreport : (v.rbar c).reported inst with
    | none => simp [hreport] at hclash
    | some e =>
      rw [hreport] at hclash
      exact (bne_iff_ne.mp hclash) (h c hmem (bne_iff_ne.mp hne) e.1 e.2 hreport)

/-- A core whose report is turned away: its instance is as before its arrivals. -/
def RbarCore.turnedAway (k : RbarCore) (inst : Nat) : RbarCore := { k with report := none, num := inst, arrived := [], shape := none }

/-- What the waiters of a report that is turned away take. -/
def State.barrierTraps (s : State) (sh : Nat × Nat) (rs : List PartRef) : State :=
  rs.foldl (fun s r => match s.part? r with
    | none => s
    | some p => s.takeTrap r { code := tcBarrier, detail := 2, taddr := BitVec.ofNat 64 (sh.1 + 8 * sh.2), tword := p.pc, resume := p.pc }) s

theorem rbarReport_next (hl : s.launch? l = some v) {inst at_ : Nat} {sh : Nat × Nat} (hreport : (v.rbar core).report = some (inst, sh, at_))
    (hat : at_ ≤ s.dcc) :
    exec (.rbarReport l core) s = .next (if v.clashes core inst sh then
      (s.putRbar l core ((v.rbar core).turnedAway inst)).barrierTraps sh (s.rbarWaiters l core inst)
      else s.putRbar l core { v.rbar core with report := none, reports := (inst, sh, at_) :: (v.rbar core).reports }) := by
  rw [← rbarWaiters_putRbar s l core core ((v.rbar core).turnedAway inst)]
  show execRbarReport l core s = _
  rw [execRbarReport, hl]
  dsimp only
  rw [hreport]
  dsimp only
  rw [if_neg (by omega)]
  exact (apply_ite (fun u : State => (.next u : Out)) (v.clashes core inst sh = true) _ _).symm

/-- A report that no other core's contradicts is recorded. -/
theorem rbarReport_records (hl : s.launch? l = some v) {inst at_ : Nat} {sh : Nat × Nat} (hreport : (v.rbar core).report = some (inst, sh, at_))
    (hat : at_ ≤ s.dcc) (hsame : v.SameShape core inst sh) :
    ∃ t, exec (.rbarReport l core) s = .next t ∧ t = { s with launches := t.launches }
      ∧ RbarBecomes t l core v { v.rbar core with report := none, reports := (inst, sh, at_) :: (v.rbar core).reports } := by
  refine ⟨_, (rbarReport_next hl hreport hat).trans (congrArg _ (if_neg ?_)), putRbar_eq .., rbarBecomes_putRbar hl ..⟩
  rw [clashes_eq_false.mpr hsame]
  exact Bool.false_ne_true

/-- The context of a part where another launch record stands: nothing else of it differs. -/
theorem ctx?_putRbar {c : Ctx} (h : s.ctx? c.ref = some c) (k : RbarCore) :
    ∃ launch, (s.putRbar l core k).ctx? c.ref = some { c with launch } := by
  obtain ⟨-, hw, hp, hg, hlaunch⟩ := ctx_parts h
  have hstate := putRbar_eq s l core k
  obtain ⟨launch, hfound⟩ : ∃ launch, (s.putRbar l core k).launch? c.wave.launch = some launch := by
    by_cases hk : c.wave.launch = l
    · subst hk
      exact ⟨_, State.launch?_updLaunch_some hlaunch _⟩
    · exact ⟨_, (State.launch?_updLaunch_of_ne s _ hk).trans hlaunch⟩
  generalize s.putRbar l core k = u at hstate hfound ⊢
  have hw' : u.wave? c.ref.key = some c.wave := by rw [hstate]; exact hw
  have hg' : u.group? c.wave.group = some c.group := by rw [hstate]; exact hg
  refine ⟨launch, ?_⟩
  rw [State.ctx?, hw']
  dsimp only
  rw [hp, hg', hfound]

/-- A handler's entry goes by the part and its wave alone. -/
theorem InHandler.of_launch {c : Ctx} {launch : Launch} {u t : State} {code detail : Nat} {taddr resume : W64} {w : Wave} {p : Part}
    (h : InHandler { c with launch } u t code detail taddr resume w p) : InHandler c u t code detail taddr resume w p := by
  obtain ⟨⟨hstate, hothers⟩, hsame, ⟨hfound, hwave, hpart, hparts⟩, heq⟩ := h
  exact ⟨⟨hstate, hothers⟩, hsame, ⟨hfound, hwave, hpart, hparts⟩, heq⟩

/-- A report of another shape gives its waiter BARRIER. -/
theorem rbarReport_traps (hl : s.launch? l = some v) {inst at_ : Nat} {sh : Nat × Nat} (hreport : (v.rbar core).report = some (inst, sh, at_))
    (hat : at_ ≤ s.dcc) (hclash : ¬ v.SameShape core inst sh) {c : Ctx} (hone : s.rbarWaiters l core inst = [c.ref]) (hc : s.ctx? c.ref = some c)
    (ready : HandlerReady c) :
    ∃ t w p, exec (.rbarReport l core) s = .next t ∧ RbarBecomes t l core v ((v.rbar core).turnedAway inst)
      ∧ InHandler c { s with launches := t.launches } t tcBarrier 2 (BitVec.ofNat 64 (sh.1 + 8 * sh.2)) c.part.pc w p := by
  have hnext := rbarReport_next hl hreport hat
  rw [if_pos (by rw [← Bool.not_eq_false, clashes_eq_false]; exact hclash), hone] at hnext
  obtain ⟨launch, hctx⟩ := ctx?_putRbar (l := l) (core := core) hc ((v.rbar core).turnedAway inst)
  have hbecomes := rbarBecomes_putRbar hl core ((v.rbar core).turnedAway inst)
  have hstate := putRbar_eq s l core ((v.rbar core).turnedAway inst)
  generalize s.putRbar l core ((v.rbar core).turnedAway inst) = u at hnext hctx hbecomes hstate
  obtain ⟨w, p, hin⟩ := takeTrap_inHandler hctx ready tcBarrier 2 (BitVec.ofNat 64 (sh.1 + 8 * sh.2)) c.part.pc
  have htraps : u.barrierTraps sh [c.ref] = u.takeTrap c.ref
      { code := tcBarrier, detail := 2, taddr := BitVec.ofNat 64 (sh.1 + 8 * sh.2), tword := c.part.pc, resume := c.part.pc } := by
    rw [State.barrierTraps, List.foldl_cons, part?_of_ctx hctx]
    rfl
  rw [htraps] at hnext
  refine ⟨_, w, p, hnext, ?_, ?_⟩
  · exact hbecomes.of_launches (by rw [hin.only.state])
  · have hsame : { s with launches := (u.takeTrap c.ref { code := tcBarrier, detail := 2, taddr := BitVec.ofNat 64 (sh.1 + 8 * sh.2)
                                                          tword := c.part.pc, resume := c.part.pc }).launches } = u := by
      rw [hin.only.state]
      exact hstate.symm
    rw [hsame]
    exact hin.of_launch

/-- An instance that every core has reported: the waiters of a core go on. -/
theorem rbarGlobalCompletion_passes (hl : s.launch? l = some v) {inst at_ last : Nat} (hglobal : s.rbarGlobal l core = some (inst, at_, last)) :
    exec (.rbarGlobalCompletion l core) s = .next (s.passAll core at_
      (if dieOf core = dieOf (coreId v.x0 v.y0) ∧ dieOf last = dieOf (coreId v.x0 v.y0) then 88 else 130) (s.rbarWaiters l core inst)) := by
  show execRbarGlobalCompletion l core s = _
  rw [execRbarGlobalCompletion, hglobal, hl]
  rfl

end

end Sys2Proof.Machine
end

section
/-! SUPPORT. The statement about rectangle barriers and the barrier events. -/

open Sys2Proof Sys2Proof.Machine

/-- Settles O28, from the arrival of `rbar` and its release, what the end of a phase makes of each part, and where an instance's waiters go. -/
theorem rectangleBarriers : Obligations.RectangleBarriers := by
  unfold Obligations.RectangleBarriers
  refine ⟨fun s c r x hi hframes => ?_, fun s g b v hover hg => ?_, fun s l core v hl => ⟨fun sh hshape hover => ?_,
    fun inst sh at_ hreport hat => ⟨rbarReport_records hl hreport hat, fun hclash c hone hc ready => rbarReport_traps hl hreport hat hclash hone hc ready⟩,
    fun inst at_ last hglobal => ?_⟩⟩
  · intro sh k hw hh hshape hdone i len y hform free
    have hexec : exec i s = rectBarrier r len y s := by
      rcases hform with hform | hform <;> cases hform <;> rfl
    have ready : RectReady s c r y := ⟨hi, hframes, hw, hh, hshape, hdone, free⟩
    refine ⟨fun hbacks => ?_, fun hrel hbacks => ?_⟩
    · obtain ⟨t, w, l, ht, harrived⟩ := rbar_arrives ready hbacks len
      refine ⟨t, w, l, hexec.trans ht, harrived.others, harrived.vregs, harrived.wave, harrived.state, harrived.launch, ?_⟩
      rw [harrived.rbar]
      exact ⟨rfl, rfl, getT_putT_self ..⟩
    · obtain ⟨t, ht, hsent⟩ := rbar_sends ready hrel hbacks len
      exact ⟨t, hexec.trans ht, hsent⟩
  · obtain ⟨t, u, hexec, hstate, hdcc, hgroup, hwaves⟩ := barrierPhaseComplete_next hover hg
    refine ⟨t, hexec, hstate, hgroup, fun k w hw => ⟨_, (hwaves k).trans (congrArg _ hw), ?_, fun hne => if_neg hne, fun m p hp hwg => ?_⟩⟩
    · dsimp only
      split <;> rfl
    · refine ⟨u.phasePart g b (barrierOf v b).phase w p, ?_, phasePart_regs, fun n hpark hn => hdcc ▸ phasePart_waiter hpark hn, phasePart_other⟩
      dsimp only
      rw [if_pos hwg, Wave.phaseEnds, List.getElem?_map, hp]
      rfl
  · exact rbarLocalCompletion_advances hl hshape hover
  · refine ⟨_, rbarGlobalCompletion_passes hl hglobal, ?_, ?_, fun r hone => ?_⟩
    · rw [passAll_eq]
    · rw [passAll_eq]
    · rw [hone]
      exact passAll_goes r

end

section
/-! SUPPORT. The commands of a queue: how each is consumed, and how one that breaks a rule stops its queue (11 R253-R258, R264). -/

namespace Sys2Proof.Machine

/-! ### Refusals change no more than the counts of pins (09 R221, R222) -/

/-- Nothing differs but the counts of pins. -/
structure PinCounts (s t : State) : Prop where
  eq : t = { s with pins := t.pins }
  same : SamePins s t

theorem PinCounts.refl (s : State) : PinCounts s s := ⟨rfl, rfl⟩
theorem PinCounts.trans {s t u : State} (h : PinCounts s t) (h' : PinCounts t u) : PinCounts s u :=
  ⟨by rw [h'.eq, h.eq], Eq.trans h'.same h.same⟩

/-- A pin that has refused an access, its count beginning now where none had begun. -/
def Pin.counting (p : Pin) (now : Nat) : Pin := { p with refused := some (p.refused.getD now) }

theorem refuse_pins (s : State) (pa : Nat) :
    s.refuse pa = { s with pins := s.pins.map (fun p => if p.line = pa / 128 then p.counting s.dcc else p) } := by
  unfold State.refuse Pin.counting
  congr 2
  funext p
  split
  · cases p.refused <;> rfl
  · rfl

theorem pinCounts_refuse (s : State) (pa : Nat) : PinCounts s (s.refuse pa) := by
  rw [refuse_pins]
  refine ⟨rfl, ?_⟩
  unfold SamePins
  rw [List.map_map]
  refine List.map_congr_left (fun p _ => ?_)
  dsimp only [Function.comp]
  split <;> rfl

theorem pinCounts_refuseAll (s : State) (pas : List Nat) : PinCounts s (s.refuseAll pas) :=
  List.foldlRecOn (motive := PinCounts s) _ _ (.refl s) (fun t ht pa _ => ht.trans (pinCounts_refuse t pa))

/-- The one pin of a package counts once, however many of its line's accesses it refuses. -/
theorem refuseAll_one {s : State} {p : Pin} (hp : s.pins = [p]) {pas : List Nat} (hpas : ∀ a ∈ pas, p.line = a / 128) (hne : pas ≠ []) :
    s.refuseAll pas = { s with pins := [p.counting s.dcc] } := by
  have hone : ∀ {u : State} {q : Pin} {a : Nat}, u.pins = [q] → q.line = a / 128 → u.refuse a = { u with pins := [q.counting u.dcc] } := by
    intro u q a hq ha
    rw [refuse_pins, hq, List.map_singleton, if_pos ha]
  have hagain : ∀ as : List Nat, (∀ a ∈ as, p.line = a / 128) →
      State.refuseAll { s with pins := [p.counting s.dcc] } as = { s with pins := [p.counting s.dcc] } := by
    intro as has
    refine List.foldlRecOn (motive := fun u => u = { s with pins := [p.counting s.dcc] }) as _ rfl (fun u hu a ha => ?_)
    subst hu
    exact hone (q := p.counting s.dcc) rfl (has a ha)
  cases pas with
  | nil => exact absurd rfl hne
  | cons a as =>
    rw [State.refuseAll, List.foldl_cons, hone hp (hpas a List.mem_cons_self)]
    exact hagain as (fun b hb => hpas b (List.mem_cons_of_mem _ hb))

/-! ### A command is consumed (11 R253) -/

/-- Nothing differs but the command buffer of queue `n`, and the count of a pin that refuses its prefetch. -/
structure Prefetched (n : Nat) (s t : State) : Prop where
  eq : t = { s with sched := { s.sched with queues := t.sched.queues }, pins := t.pins }
  pins : SamePins s t
  queue : (s.queue n).Buffered (t.queue n)
  others : ∀ m, m ≠ n → t.queue m = s.queue m

theorem refill_prefetches (s : State) (n : Nat) : Prefetched n s (s.refill n) := by
  unfold State.refill
  dsimp only
  split
  · have hcounts := pinCounts_refuseAll (s.updQueue n (fun _ => s.refillFrom (s.queue n) 4)) (s.ringPins (s.refillFrom (s.queue n) 4))
    have hqueue := queue_refuseAll (s.updQueue n (fun _ => s.refillFrom (s.queue n) 4)) (s.ringPins (s.refillFrom (s.queue n) 4))
    generalize State.refuseAll _ _ = u at hcounts hqueue ⊢
    refine ⟨?_, hcounts.same, ?_, fun m hm => ?_⟩
    · rw [hcounts.eq]
      rfl
    · rw [hqueue, State.queue_updQueue_self]
      exact refillFrom_buffered ..
    · rw [hqueue, State.queue_updQueue, if_neg hm]
  · exact ⟨rfl, rfl, rfl, fun _ _ => rfl⟩

/-- What the consumption of a command leaves. -/
structure Consumption (n : Nat) (s t : State) : Prop where
  eq : t = { s with sched := { s.sched with queues := t.sched.queues }, pins := t.pins }
  pins : SamePins s t
  consumed : Consumed n s t
  draws : (t.queue n).draws = (s.queue n).draws

theorem consume_consumption (s : State) (n : Nat) : Consumption n s (s.consume n) := by
  have hfetch := refill_prefetches (s.updQueue n (fun q => { q with head := q.head + 1, buffer := q.buffer.drop 1, pollAt := 0, pollOk := false })) n
  rw [State.consume]
  generalize State.refill _ n = t at hfetch ⊢
  obtain ⟨heq, hpins, hqueue, hothers⟩ := hfetch
  rw [State.queue_updQueue_self] at hqueue
  refine ⟨?_, hpins, ⟨?_, ?_, fun m hm => ?_⟩, ?_⟩
  · rw [heq]
    rfl
  · rw [hqueue]
  · rw [hqueue]
    exact ⟨rfl, rfl, rfl, rfl, rfl⟩
  · rw [hothers m hm, State.queue_updQueue, if_neg hm]
  · rw [hqueue]

theorem Consumption.schedOnly {n : Nat} {s t : State} (h : Consumption n s t) : t = { s with sched := t.sched, pins := t.pins } := by rw [h.eq]
theorem Consumption.mem {n : Nat} {s t : State} (h : Consumption n s t) : t.mem = s.mem := by rw [h.eq]
theorem Consumption.graphs {n : Nat} {s t : State} (h : Consumption n s t) : t.sched.graphs = s.sched.graphs := by rw [h.eq]
theorem Consumption.region {n : Nat} {s t : State} (h : Consumption n s t) : t.sched.mem = s.sched.mem := by rw [h.eq]

/-- A command is consumed where only its effect on the rest of the package came first. -/
theorem Consumption.after {n : Nat} {s u t : State} (h : Consumption n u t) (hqueue : ∀ m, u.queue m = s.queue m) : Consumed n s t := by
  obtain ⟨hhead, hrest, hothers⟩ := h.consumed
  simp only [hqueue] at hhead hrest hothers
  exact ⟨hhead, hrest, hothers⟩

theorem stopQueue_stops (s : State) (n code : Nat) : StoppedWith n code s (s.stopQueue n code) := by
  refine ⟨rfl, ?_, fun m hm => ?_⟩
  · rw [State.stopQueue, State.queue_updQueue_self]
  · rw [State.stopQueue, State.queue_updQueue, if_neg hm]

/-! ### WAIT: the pins of its word (09 R221, R222) -/

/-- A word that the scheduler polls lies in one line. -/
theorem schedPins_word {s : State} {asid : BitVec 16} {va : Nat} (h : va % 8 = 0) :
    s.schedPins asid va 8 = s.walkPins 0 asid va ++ s.pinnedIn none (s.schedPas asid va) := by
  have hlines : (va % 128 + 8 + 127) / 128 = 1 := by omega
  have hfirst : max va ((va / 128 + 0) * 128) = va := by omega
  rw [State.schedPins, hlines, List.range_one, List.flatMap_singleton]
  dsimp only
  rw [hfirst]

/-- What a package's one pin refuses lies in its line. -/
theorem line_of_pinnedIn {s : State} {p : Pin} (hp : s.pins = [p]) {pas : List Nat} {a : Nat} (ha : a ∈ s.pinnedIn none pas) : p.line = a / 128 := by
  have hpinned : s.pinned none a = true := (List.mem_filter.mp ha).2
  by_contra hne
  have hnone : s.pin? (a / 128) = none := by
    rw [State.pin?, hp]
    exact List.find?_cons_of_neg (by simpa using hne)
  rw [State.pinned, hnone] at hpinned
  exact Bool.false_ne_true hpinned

theorem pinned_of_one {s : State} {p : Pin} (hp : s.pins = [p]) {pa : Nat} (hline : p.line = pa / 128) : s.pinned none pa = true := by
  have hsome : s.pin? (pa / 128) = some p := by
    rw [State.pin?, hp]
    exact List.find?_cons_of_pos (by simpa using hline)
  rw [State.pinned, hsome]
  rfl

section
variable {s : State} {n : Nat}

theorem waitPoll_due (hdue : s.pollDue n = true) (haligned : cmdAddr (s.headBytes n) % 8 = 0) :
    exec (.waitPoll n) s = (if s.schedPins (s.queue n).asid (cmdAddr (s.headBytes n)) 8 ≠ []
      then .next (s.refuseAll (s.schedPins (s.queue n).asid (cmdAddr (s.headBytes n)) 8))
      else match s.schedBytes (s.queue n).asid .read (cmdAddr (s.headBytes n)) 8 with
        | none => .next (s.stopQueue n 9)
        | some v => .next (s.updQueue n (fun q =>
            { q with pollAt := s.dcc + 1024, pollOk := decide (cmdValue (s.headBytes n) ≤ natOfBytes v) }))) := by
  show execWaitPoll n s = _
  rw [execWaitPoll, if_neg (by simp [hdue])]
  exact if_neg (by simp [haligned])

/-- A poll of a pinned word starts the pin's count. -/
theorem waitPoll_refused (hdue : s.pollDue n = true) (haligned : cmdAddr (s.headBytes n) % 8 = 0) {pa : Nat} {p : Pin}
    (hpa : s.schedPas (s.queue n).asid (cmdAddr (s.headBytes n)) = [pa]) (hp : s.pins = [p]) (hline : p.line = pa / 128) :
    exec (.waitPoll n) s = .next { s with pins := [p.counting s.dcc] } := by
  have hpins := schedPins_word (s := s) (asid := (s.queue n).asid) haligned
  have hmem : pa ∈ s.schedPins (s.queue n).asid (cmdAddr (s.headBytes n)) 8 := by
    rw [hpins, hpa]
    exact List.mem_append_right _ (List.mem_filter.mpr ⟨List.mem_singleton_self pa, pinned_of_one hp hline⟩)
  have hlines : ∀ a ∈ s.schedPins (s.queue n).asid (cmdAddr (s.headBytes n)) 8, p.line = a / 128 := by
    intro a ha
    rw [hpins] at ha
    exact (List.mem_append.mp ha).elim (line_of_pinnedIn hp) (line_of_pinnedIn hp)
  have hne := List.ne_nil_of_mem hmem
  rw [waitPoll_due hdue haligned, if_pos hne, refuseAll_one hp hlines hne]

/-! ### SIGNAL (11 R256) -/

theorem signal_stores (hkind : s.headKind n = some 3) (hidle : s.queueIdle n = true) (haligned : cmdAddr (s.headBytes n) % 8 = 0) {pa : Nat}
    (hpa : s.schedPa (s.queue n).asid (cmdAddr (s.headBytes n)) = some pa)
    (hpins : s.schedPins (s.queue n).asid (cmdAddr (s.headBytes n)) 8 = []) (hoff : s.debugOff) :
    ∃ t, exec (.signal n) s = .next t ∧ Consumed n s t ∧ t.mem = writeBytes s.mem pa (bytesOfNat 8 (cmdValue (s.headBytes n))) := by
  have hput := slicePut_writes hoff 6 0 pa (bytesOfNat 8 (cmdValue (s.headBytes n)))
  refine ⟨(s.slicePut 6 0 pa (bytesOfNat 8 (cmdValue (s.headBytes n)))).consume n, ?_, ?_, ?_⟩
  · show execSignal n s = _
    rw [execSignal, if_neg (by simp [hkind, hidle])]
    dsimp only
    rw [if_neg (by simp [haligned]), hpa]
    exact if_neg (by simp [hpins])
  · exact (consume_consumption _ n).after (fun m => by rw [hput.eq]; rfl)
  · exact (consume_consumption _ n).mem.trans hput.mem

/-! ### LAUNCH: the identifier that it is accepted with (11 R255, R268) -/

/-- Either the identifier that is found is free, or all the successive ones, modulo 2^16, that were tried are in use. -/
theorem freeLaunchId_free_or (used : List Nat) (fuel : Nat) {n : Nat} (hn : n < 65536) :
    freeLaunchId used fuel n ∉ used ∨ ∀ j ≤ fuel, (n + j) % 65536 ∈ used := by
  induction fuel generalizing n with
  | zero =>
    refine (Classical.em (n ∈ used)).symm.imp_right (fun h j hj => ?_)
    obtain rfl := Nat.le_zero.mp hj
    rwa [Nat.add_zero, Nat.mod_eq_of_lt hn]
  | succ fuel ih =>
    rw [freeLaunchId]
    split
    · next hused =>
      refine (ih (Nat.mod_lt (n + 1) (by omega))).imp_right (fun hall j hj => ?_)
      cases j with
      | zero => rw [Nat.add_zero, Nat.mod_eq_of_lt hn]; simpa using hused
      | succ j =>
        have hmem := hall j (by omega)
        rwa [Nat.mod_add_mod, Nat.add_assoc, Nat.add_comm 1] at hmem
    · next hfree => exact .inl (by simpa using hfree)

/-- Fewer than 2^16 identifiers in use leave one free among as many successive ones, and one more. -/
theorem freeLaunchId_free {used : List Nat} {n : Nat} (hn : n < 65536) (hused : used.length < 65536) :
    freeLaunchId used used.length n ∉ used := by
  refine (freeLaunchId_free_or used used.length hn).resolve_right (fun hall => ?_)
  have hnodup : ((List.range (used.length + 1)).map (fun j => (n + j) % 65536)).Nodup := by
    refine List.Nodup.map_on (fun i hi j hj heq => ?_) List.nodup_range
    rw [List.mem_range] at hi hj
    omega
  have hsub : (List.range (used.length + 1)).map (fun j => (n + j) % 65536) ⊆ used := by
    intro x hx
    obtain ⟨j, hj, rfl⟩ := List.mem_map.mp hx
    exact hall j (Nat.lt_succ_iff.mp (List.mem_range.mp hj))
  have hlength := (hnodup.subperm hsub).length_le
  rw [List.length_map, List.length_range] at hlength
  omega

/-- The state in which a launch has been accepted. -/
theorem accept_accepts {s : State} (l : Launch) (decode : Nat) (hlaunches : s.launches.length < 65536) (hnext : s.sched.nextLaunch < 65536) :
    ∃ l', (s.accept l decode).launch? s.sched.launchSeq = some l'
      ∧ (∀ k, k ≠ s.sched.launchSeq → (s.accept l decode).launch? k = s.launch? k)
      ∧ l' = { l with id := l'.id, seq := s.sched.launchSeq, acceptedAt := s.dcc + decode, placeFrom := s.dcc + decode + 16 }
      ∧ ∀ e ∈ s.launches, e.2.at_ ≠ .completed → e.2.id ≠ l'.id := by
  refine ⟨_, lookT_putT_self .., fun k hk => lookT_putT_of_ne _ _ hk, rfl, fun e he hopen hid => ?_⟩
  have hlength : ((s.launches.filter (fun e => e.2.at_ != .completed)).map (fun e => e.2.id)).length < 65536 := by
    rw [List.length_map]
    exact Nat.lt_of_le_of_lt (List.length_filter_le ..) hlaunches
  refine freeLaunchId_free hnext hlength (List.mem_map.mpr ⟨e, List.mem_filter.mpr ⟨he, by simpa using hopen⟩, hid⟩)

theorem launch_accepts (hready : s.launchReady n = true) {l : Launch} (hvalid : s.validate (s.queueOrigin n) (s.headBytes n) = .ok l) :
    ∃ t, exec (.launch n) s = .next t ∧ Consumed n s t ∧ t = { s with sched := t.sched, launches := t.launches, pins := t.pins } ∧ SamePins s t
      ∧ t.launches = (s.accept l 104).launches ∧ (t.queue n).draws = (s.queue n).draws + (if l.draw.isSome then 1 else 0) := by
  have hconsume := consume_consumption (s.accept l 104) n
  have hqueue : ∀ m, (s.accept l 104).queue m = s.queue m := fun _ => rfl
  have hexec : exec (.launch n) s = .next (if l.draw.isSome
      then ((s.accept l 104).consume n).updQueue n (fun q => { q with draws := q.draws + 1 }) else (s.accept l 104).consume n) := by
    show execLaunch n s = _
    rw [execLaunch, if_neg (by simp [hready]), hvalid]
  refine ⟨_, hexec, ?_⟩
  have hframe : (s.accept l 104).consume n = { s with sched := ((s.accept l 104).consume n).sched, launches := (s.accept l 104).launches
                                                      pins := ((s.accept l 104).consume n).pins } := hconsume.schedOnly
  have hdone := hconsume.after hqueue
  have hsame : SamePins s ((s.accept l 104).consume n) := hconsume.pins
  have hdraws : (((s.accept l 104).consume n).queue n).draws = (s.queue n).draws := hconsume.draws
  generalize (s.accept l 104).consume n = u at hframe hdone hsame hdraws ⊢
  split
  · obtain ⟨hhead, hrest, hothers⟩ := hdone
    refine ⟨⟨?_, ?_, fun m hm => ?_⟩, ?_, hsame, ?_, ?_⟩
    · rw [State.queue_updQueue_self]
      exact hhead
    · rw [State.queue_updQueue_self]
      exact hrest
    · rw [State.queue_updQueue, if_neg hm]
      exact hothers m hm
    · rw [hframe]
      rfl
    · rw [hframe]
      rfl
    · rw [State.queue_updQueue_self]
      exact congrArg (· + 1) hdraws
  · exact ⟨hdone, by rw [hframe], hsame, by rw [hframe], hdraws⟩

/-! ### GRAPHLOAD (11 R264) -/

/-- The scheduler's record of a graph's image and nodes. -/
def State.keepGraph (s : State) (tenant gid off size : Nat) (kept : List (Nat × Nat × Nat)) (img : List Byte) (g : Graph) : State :=
  let u := s.updTenant tenant (fun t => { t with images := (gid, off, size) :: kept })
  { u with sched := { u.sched with
    mem := writeBytes u.sched.mem (schedKey tenant off) img
    graphs := g :: u.sched.graphs.filter (fun g => !(g.tenant == tenant && g.gid == gid)) } }

/-- A GRAPHLOAD whose image is read and has a place. -/
structure ImageRead (s : State) (n off : Nat) (img : List Byte) : Prop where
  ready : s.graphloadReady n = true
  gid : fieldAt (s.headBytes n) 2 2 ≤ 1023
  size : fieldAt (s.headBytes n) 16 4 ≤ 1048576
  pins : s.schedPins (s.queue n).asid (cmdAddr (s.headBytes n)) (fieldAt (s.headBytes n) 16 4) = []
  bytes : s.schedBytes (s.queue n).asid .read (cmdAddr (s.headBytes n)) (fieldAt (s.headBytes n) 16 4) = some img
  place : freePlace ((s.tenant (s.queue n).tenant).images.filter (fun i => i.1 != fieldAt (s.headBytes n) 2 2)) (fieldAt (s.headBytes n) 16 4)
    = some off

theorem graphload_refused {off : Nat} {img : List Byte} (h : ImageRead s n off img) (hbad : badGraph img (fieldAt (s.headBytes n) 16 4) = true) :
    exec (.graphload n) s = .next (s.stopQueue n 8) := by
  obtain ⟨hready, hgid, hsize, hpins, hbytes, hplace⟩ := h
  show execGraphload n s = _
  rw [execGraphload, if_neg (by simp [hready])]
  dsimp only
  rw [if_neg (by omega), if_neg (by simp [hpins]), hbytes]
  dsimp only
  rw [hplace]
  exact if_pos hbad

theorem graphload_keeps {off : Nat} {img : List Byte} (h : ImageRead s n off img) (hgood : badGraph img (fieldAt (s.headBytes n) 16 4) = false)
    {g : Graph} (hg : g = graphOf { s.queueOrigin n with qpass := 0 } (fieldAt (s.headBytes n) 2 2) img)
    (hnodes : ∀ x ∈ g.nodes, ∃ l, s.validate g.origin (x.take 64) = .ok l) :
    exec (.graphload n) s = .next ((s.keepGraph (s.queue n).tenant (fieldAt (s.headBytes n) 2 2) off (fieldAt (s.headBytes n) 16 4)
      ((s.tenant (s.queue n).tenant).images.filter (fun i => i.1 != fieldAt (s.headBytes n) 2 2)) img g).consume n) := by
  obtain ⟨hready, hgid, hsize, hpins, hbytes, hplace⟩ := h
  subst hg
  show execGraphload n s = _
  rw [execGraphload, if_neg (by simp [hready])]
  dsimp only
  rw [if_neg (by omega), if_neg (by simp [hpins]), hbytes]
  dsimp only
  rw [hplace]
  dsimp only
  rw [if_neg (by simp [hgood])]
  split
  · next c hsome =>
    obtain ⟨x, hx, hfails⟩ := List.exists_of_findSome?_eq_some hsome
    obtain ⟨l, hl⟩ := hnodes x hx
    rw [hl] at hfails
    cases hfails
  · rfl

/-- A graph that is kept is the tenant's graph of its number. -/
theorem graph?_keepGraph (tenant gid off size : Nat) (kept : List (Nat × Nat × Nat)) (img : List Byte) {g : Graph} (ht : g.tenant = tenant)
    (hg : g.gid = gid) : (s.keepGraph tenant gid off size kept img g).graph? tenant gid = some g :=
  List.find?_cons_of_pos (by simp [ht, hg])

theorem graphload_loads {off : Nat} {img : List Byte} (h : ImageRead s n off img) (hgood : badGraph img (fieldAt (s.headBytes n) 16 4) = false)
    {g : Graph} (hg : g = graphOf { s.queueOrigin n with qpass := 0 } (fieldAt (s.headBytes n) 2 2) img)
    (hnodes : ∀ x ∈ g.nodes, ∃ l, s.validate g.origin (x.take 64) = .ok l) :
    ∃ t, exec (.graphload n) s = .next t ∧ t = { s with sched := t.sched, pins := t.pins } ∧ SamePins s t ∧ Consumed n s t
      ∧ t.graph? (s.queue n).tenant (fieldAt (s.headBytes n) 2 2) = some g
      ∧ readBytes t.sched.mem (schedKey (s.queue n).tenant off) img.length = img := by
  have hfound := graph?_keepGraph (s := s) (s.queue n).tenant (fieldAt (s.headBytes n) 2 2) off (fieldAt (s.headBytes n) 16 4)
    ((s.tenant (s.queue n).tenant).images.filter (fun i => i.1 != fieldAt (s.headBytes n) 2 2)) img (g := g) (by rw [hg]; rfl) (by rw [hg]; rfl)
  refine ⟨_, graphload_keeps h hgood hg hnodes, ?_⟩
  generalize hu : s.keepGraph _ _ _ _ _ img g = u at hfound ⊢
  have hframe : u = { s with sched := u.sched } := by rw [← hu]; rfl
  have hqueue : ∀ m, u.queue m = s.queue m := fun m => by rw [← hu]; rfl
  have himage : readBytes u.sched.mem (schedKey (s.queue n).tenant off) img.length = img := by
    rw [← hu]
    exact readBytes_writeBytes ..
  have hconsume := consume_consumption u n
  have hpins : SamePins s (u.consume n) := by
    have hsame := hconsume.pins
    rw [hframe] at hsame ⊢
    exact hsame
  refine ⟨?_, hpins, hconsume.after hqueue, ?_, ?_⟩
  · rw [hconsume.schedOnly, hframe]
  · rw [State.graph?, hconsume.graphs]
    exact hfound
  · rw [hconsume.region]
    exact himage

end

end Sys2Proof.Machine
end

section
/-! SUPPORT. The statement about the commands of a queue. -/

open Sys2Proof Sys2Proof.Machine

/-- Settles O45, from the consumption of a command, which each command's own effect comes before, and the stop of a queue. -/
theorem queueCommands : Obligations.QueueCommands := by
  unfold Obligations.QueueCommands
  refine fun s n => ⟨fun c hhead hkind => ?_, fun code hhead => ?_, fun hkind hok => ?_, fun hdue haligned hpins v hread => ?_,
    fun hdue haligned hpins hread => ?_, fun hdue haligned pa p hpa hp hline => ?_, fun hkind hidle haligned pa hpa hpins hoff => ?_,
    fun hready code hvalid => ?_, fun hready l hvalid hlaunches hnext => ?_, fun hready hgid hsize hpins img off hbytes hplace => ?_⟩
  · have hconsume := consume_consumption s n
    refine ⟨_, ?_, hconsume.schedOnly, hconsume.pins, hconsume.consumed⟩
    show execQueueNop n s = _
    rw [execQueueNop, hhead]
    exact congrArg _ (if_pos hkind)
  · refine ⟨_, ?_, stopQueue_stops s n code⟩
    show execQueueNop n s = _
    rw [execQueueNop, hhead]
  · have hconsume := consume_consumption s n
    refine ⟨_, ?_, hconsume.schedOnly, hconsume.pins, hconsume.consumed⟩
    show execWait n s = _
    rw [execWait, if_pos ⟨hkind, hok⟩]
  · refine ⟨s.updQueue n (fun q => { q with pollAt := s.dcc + 1024, pollOk := decide (cmdValue (s.headBytes n) ≤ natOfBytes v) }),
      (waitPoll_due hdue haligned).trans ?_, rfl, fun m => State.queue_updQueue ..⟩
    rw [if_neg (by simp [hpins]), hread]
  · refine ⟨_, (waitPoll_due hdue haligned).trans ?_, stopQueue_stops s n 9⟩
    rw [if_neg (by simp [hpins]), hread]
  · exact ⟨_, waitPoll_refused hdue haligned hpa hp hline, rfl⟩
  · obtain ⟨t, hexec, hconsumed, hmem⟩ := signal_stores hkind hidle haligned hpa hpins hoff
    exact ⟨t, hexec, hconsumed, writeWord_leaves hmem⟩
  · refine ⟨_, ?_, stopQueue_stops s n code⟩
    show execLaunch n s = _
    rw [execLaunch, if_neg (by simp [hready]), hvalid]
  · obtain ⟨t, hexec, hconsumed, hframe, hsame, hkept, hdraws⟩ := launch_accepts hready hvalid
    obtain ⟨l', hfound, hothers, hl', hfree⟩ := accept_accepts l 104 hlaunches hnext
    have hlaunch : ∀ k, t.launch? k = (s.accept l 104).launch? k := fun k => congrArg (fun m => lookT m k) hkept
    exact ⟨t, l', hexec, hconsumed, hframe, hsame, (hlaunch _).trans hfound, fun k hk => (hlaunch k).trans (hothers k hk), hl', hfree, hdraws⟩
  · have hread : ImageRead s n off img := ⟨hready, hgid, hsize, hpins, hbytes, hplace⟩
    exact ⟨fun hbad => ⟨_, graphload_refused hread hbad, stopQueue_stops s n 8⟩,
      fun hgood hnodes => graphload_loads hread hgood rfl hnodes⟩

end

section
/-! SUPPORT. The image of the state dump: its header, where its descriptors stand, and how far it reaches (18 R390). -/

namespace Sys2Proof.Machine

/-! ### Writes that stay within a range of addresses -/

/-- Every byte outside a range of addresses is as before. -/
def KeepsOutside (lo hi : Nat) (m m' : List (Nat × Byte)) : Prop := ∀ x, x < lo ∨ hi ≤ x → readByte m' x = readByte m x

theorem KeepsOutside.refl (lo hi : Nat) (m : List (Nat × Byte)) : KeepsOutside lo hi m m := fun _ _ => rfl
theorem KeepsOutside.trans {lo hi : Nat} {m m' m'' : List (Nat × Byte)} (h : KeepsOutside lo hi m m') (h' : KeepsOutside lo hi m' m'') :
    KeepsOutside lo hi m m'' := fun x hx => (h' x hx).trans (h x hx)
theorem KeepsOutside.widen {lo hi lo' hi' : Nat} {m m' : List (Nat × Byte)} (h : KeepsOutside lo hi m m') (hlo : lo' ≤ lo) (hhi : hi ≤ hi') :
    KeepsOutside lo' hi' m m' := fun x hx => h x (by omega)

theorem keepsOutside_writeBytes {lo hi : Nat} (m : List (Nat × Byte)) {a : Nat} {bytes : List Byte} (hlo : lo ≤ a) (hhi : a + bytes.length ≤ hi) :
    KeepsOutside lo hi m (writeBytes m a bytes) := fun x hx => readByte_writeBytes_outside m a bytes x (by omega)

theorem keepsOutside_foldl {α : Type} {lo hi : Nat} {f : List (Nat × Byte) → α → List (Nat × Byte)} (l : List α)
    (hf : ∀ m, ∀ a ∈ l, KeepsOutside lo hi m (f m a)) (m : List (Nat × Byte)) : KeepsOutside lo hi m (l.foldl f m) :=
  List.foldlRecOn (motive := KeepsOutside lo hi m) l f (.refl lo hi m) (fun u hu a ha => hu.trans (hf u a ha))

theorem KeepsOutside.readBytes {lo hi : Nat} {m m' : List (Nat × Byte)} (h : KeepsOutside lo hi m m') {a n : Nat} (ha : a + n ≤ lo ∨ hi ≤ a) :
    readBytes m' a n = readBytes m a n := readBytes_congr (fun x hle hlt => h x (by omega))

/-- A piece of the bytes of a write stands behind those before it. -/
theorem readBytes_writeBytes_piece (m : List (Nat × Byte)) (a : Nat) (l mid r : List Byte) :
    readBytes (writeBytes m a (l ++ (mid ++ r))) (a + l.length) mid.length = mid := by
  rw [writeBytes_append, writeBytes_append]
  have hkeep := keepsOutside_writeBytes (writeBytes (writeBytes m a l) (a + l.length) mid) (a := a + l.length + mid.length) (bytes := r) (le_refl _)
    (le_refl _)
  rw [hkeep.readBytes (.inl (le_refl _)), readBytes_writeBytes]

/-! ### The header -/

section
variable {s : State} {m : List (Nat × Byte)} {base : Nat}

/-- A field of some bytes, where it stands in them. -/
theorem field_of_writeBytes {bytes l r : List Byte} {off n v size : Nat} (hbytes : bytes = l ++ (bytesOfNat n v ++ r)) (hoff : l.length = off)
    (hsize : 256 ^ n = size) : natOfBytes (readBytes (writeBytes m base bytes) (base + off) n) = v % size := by
  have hpiece := readBytes_writeBytes_piece m base l (bytesOfNat n v) r
  rw [bytesOfNat_length] at hpiece
  rw [hbytes, ← hoff, hpiece, natOfBytes_bytesOfNat, hsize]

/-- The error counts and debug rings of the dies, as the header holds them. -/
def State.dumpCounts (s : State) : List Byte :=
  (List.range 4).flatMap (fun d => bytesOfNat 8 ((s.die d).readSystem 0x20) ++ bytesOfNat 8 ((s.die d).readDebug 0x10))

/-- The number at the head of the dump. -/
def dumpMagic : List Byte := bytesOfNat 4 0x444D5039

/-- The header's fields in a row. -/
theorem dumpHeader_row (s : State) : s.dumpHeader = dumpMagic ++ bytesOfNat 4 0 ++ bytesOfNat 8 s.pkg.dumpDcc ++ bytesOfNat 1 s.pkg.dumpCause
    ++ bytesOfNat 7 0 ++ bytesOfNat 8 s.pkg.dumpPa ++ s.dumpCounts := rfl

theorem dumpHeader_eq (s : State) : s.dumpHeader = dumpMagic ++ (bytesOfNat 4 0 ++ (bytesOfNat 8 s.pkg.dumpDcc
    ++ (bytesOfNat 1 s.pkg.dumpCause ++ (bytesOfNat 7 0 ++ (bytesOfNat 8 s.pkg.dumpPa ++ s.dumpCounts))))) := by
  rw [dumpHeader_row, List.append_assoc, List.append_assoc, List.append_assoc, List.append_assoc, List.append_assoc]

theorem dumpHeader_length (s : State) : s.dumpHeader.length = 96 := by
  simp [State.dumpHeader, bytesOfNat_length]

theorem dumpHeader_magic : natOfBytes (readBytes (writeBytes m base s.dumpHeader) (base + 0) 4) = 0x444D5039 := by
  have hfield := field_of_writeBytes (m := m) (base := base) (bytes := s.dumpHeader) (l := []) (off := 0) (n := 4) (v := 0x444D5039) (size := 2 ^ 32)
    (by rw [dumpHeader_eq s, dumpMagic, List.nil_append]) rfl (by norm_num)
  rw [hfield]
  norm_num

theorem dumpHeader_dcc : natOfBytes (readBytes (writeBytes m base s.dumpHeader) (base + 8) 8) = s.pkg.dumpDcc % 2 ^ 64 :=
  field_of_writeBytes (l := dumpMagic ++ bytesOfNat 4 0) (by rw [dumpHeader_eq, List.append_assoc]) (by simp [dumpMagic, bytesOfNat_length])
    (by norm_num)

theorem dumpHeader_cause : natOfBytes (readBytes (writeBytes m base s.dumpHeader) (base + 16) 1) = s.pkg.dumpCause % 256 :=
  field_of_writeBytes (l := dumpMagic ++ (bytesOfNat 4 0 ++ bytesOfNat 8 s.pkg.dumpDcc))
    (by rw [dumpHeader_eq, List.append_assoc, List.append_assoc]) (by simp [dumpMagic, bytesOfNat_length]) (by norm_num)

theorem dumpHeader_pa : natOfBytes (readBytes (writeBytes m base s.dumpHeader) (base + 24) 8) = s.pkg.dumpPa % 2 ^ 64 :=
  field_of_writeBytes (l := dumpMagic ++ (bytesOfNat 4 0 ++ (bytesOfNat 8 s.pkg.dumpDcc ++ (bytesOfNat 1 s.pkg.dumpCause
      ++ bytesOfNat 7 0))))
    (by rw [dumpHeader_eq, List.append_assoc, List.append_assoc, List.append_assoc, List.append_assoc]) (by simp [dumpMagic, bytesOfNat_length])
    (by norm_num)

end

/-! ### The pages of dies and cores -/

theorem padTo_length (n : Nat) (b : List Byte) : (padTo n b).length = n := by
  simp [padTo]
  omega

theorem dumped_length (w : Walk) : w.dumped.length = 32 := by simp [Walk.dumped, bytesOfNat_length]

/-- Blocks of one length, in a row. -/
theorem length_flatMap_blocks {α : Type} {f : α → List Byte} {n : Nat} (hf : ∀ a, (f a).length = n) (l : List α) : (l.flatMap f).length = n * l.length := by
  induction l with
  | nil => rfl
  | cons a l ih => rw [List.flatMap_cons, List.length_append, hf, ih, List.length_cons]; ring

theorem dumpDie_length (s : State) (d : Nat) : (s.dumpDie d).length ≤ 0x1000 := by
  have hwalks := length_flatMap_blocks dumped_length ((s.walks.filter (fun w => dieOf w.core == d)).take 64)
  have htake : ((s.walks.filter (fun w => dieOf w.core == d)).take 64).length ≤ 64 := List.length_take_le ..
  rw [State.dumpDie, List.length_append, padTo_length, hwalks]
  omega

theorem dumpCore_length (s : State) (core : Nat) : (s.dumpCore core).length = 160 := by
  simp [State.dumpCore, bytesOfNat_length]

theorem descriptor_length (s : State) (w : Wave) (quad : Nat) : (s.descriptor w quad).length = 64 := by
  unfold State.descriptor
  dsimp only
  split
  · simp [bytesOfNat_length]
  · split <;> simp [bytesOfNat_length]

/-- The descriptors of a wave's quads. -/
def State.descriptors (s : State) (w : Wave) : List Byte := (List.range (w.width / 4)).flatMap (s.descriptor w)

theorem descriptors_length (s : State) (w : Wave) : (s.descriptors w).length = 64 * (w.width / 4) := by
  rw [State.descriptors, length_flatMap_blocks (descriptor_length s w), List.length_range]

/-- One quad's descriptor among those of its wave. -/
theorem readBytes_descriptor (s : State) (w : Wave) (m : List (Nat × Byte)) (a : Nat) {q : Nat} (hq : q < w.width / 4) :
    readBytes (writeBytes m a (s.descriptors w)) (a + 64 * q) 64 = s.descriptor w q := by
  obtain ⟨k, hk⟩ : ∃ k, w.width / 4 = q + (1 + k) := ⟨w.width / 4 - q - 1, by omega⟩
  have hsplit : s.descriptors w = (List.range q).flatMap (s.descriptor w)
      ++ (s.descriptor w q ++ ((List.range k).map (fun i => q + (1 + i))).flatMap (s.descriptor w)) := by
    rw [State.descriptors, hk, List.range_add, List.flatMap_append, List.range_add, List.map_append, List.flatMap_append]
    simp [Function.comp_def]
  have hpiece := readBytes_writeBytes_piece m a ((List.range q).flatMap (s.descriptor w)) (s.descriptor w q)
    (((List.range k).map (fun i => q + (1 + i))).flatMap (s.descriptor w))
  rw [length_flatMap_blocks (descriptor_length s w), List.length_range, descriptor_length] at hpiece
  rw [hsplit, hpiece]

/-! ### The image -/

/-- A wave's descriptors written at their place in its core's page. -/
def State.dumpWave (s : State) (base k : Nat) (m : List (Nat × Byte)) (e : Nat × Wave) : List (Nat × Byte) :=
  writeBytes m (base + 0x6000 + 0x21000 * k + 0x400 * e.2.slot) (s.descriptors e.2)

/-- A core's page written: what it holds, and the descriptors of its waves. -/
def State.dumpPage (s : State) (base : Nat) (m : List (Nat × Byte)) (k : Nat) : List (Nat × Byte) :=
  (s.waves.filter (fun e => e.2.core == k)).foldl (s.dumpWave base k) (writeBytes m (base + 0x5000 + 0x21000 * k) (s.dumpCore k))

/-- The dies' pages written. -/
def State.dumpDies (s : State) (base : Nat) (m : List (Nat × Byte)) : List (Nat × Byte) :=
  (List.range 4).foldl (fun m d => writeBytes m (base + 0x1000 + 0x1000 * d) (s.dumpDie d)) m

/-- The memory in which the dump stands. -/
def State.dumpImage (s : State) : List (Nat × Byte) :=
  let base := s.pkg.dump.toNat
  (List.range 128).foldl (s.dumpPage base) (s.dumpDies base (writeBytes (clearRange s.mem base (base + dumpBytes)) base s.dumpHeader))

/-- Every wave has a place in the dump. -/
def State.WavesFit (s : State) : Prop := ∀ e ∈ s.waves, e.2.core < 128 ∧ e.2.slot < 128 ∧ e.2.width ≤ 64

section
variable {s : State} {base : Nat}

theorem keepsOutside_dumpDies (m : List (Nat × Byte)) : KeepsOutside (base + 0x1000) (base + 0x5000) m (s.dumpDies base m) := by
  refine keepsOutside_foldl _ (fun m d hd => ?_) m
  have hlt := List.mem_range.mp hd
  have hlength := dumpDie_length s d
  exact keepsOutside_writeBytes m (by omega) (by omega)

theorem keepsOutside_dumpPage (hfit : s.WavesFit) (m : List (Nat × Byte)) (k : Nat) :
    KeepsOutside (base + 0x5000 + 0x21000 * k) (base + 0x5000 + 0x21000 * (k + 1)) m (s.dumpPage base m k) := by
  have hcore := dumpCore_length s k
  refine (keepsOutside_writeBytes m (a := base + 0x5000 + 0x21000 * k) (bytes := s.dumpCore k) (le_refl _) (by omega)).trans
    (keepsOutside_foldl _ (fun m e he => ?_) _)
  obtain ⟨-, hslot, hwidth⟩ := hfit e (List.mem_filter.mp he).1
  have hlength := descriptors_length s e.2
  exact keepsOutside_writeBytes m (by omega) (by omega)

theorem keepsOutside_dumpPages (hfit : s.WavesFit) (m : List (Nat × Byte)) {n : Nat} (hn : n ≤ 128) :
    KeepsOutside (base + 0x5000) (base + dumpBytes) m ((List.range n).foldl (s.dumpPage base) m) := by
  refine keepsOutside_foldl _ (fun m k hk => ?_) m
  have hlt := List.mem_range.mp hk
  have hbytes : dumpBytes = 17825792 := rfl
  exact (keepsOutside_dumpPage hfit m k).widen (by omega) (by omega)

/-- The dump changes no byte outside its 17 MiB. -/
theorem keepsOutside_dumpImage (hfit : s.WavesFit) : KeepsOutside s.pkg.dump.toNat (s.pkg.dump.toNat + dumpBytes) s.mem s.dumpImage := by
  have hbytes : dumpBytes = 17825792 := rfl
  have hheader := dumpHeader_length s
  rw [State.dumpImage]
  refine KeepsOutside.trans (fun x hx => ?_) ((keepsOutside_dumpPages hfit _ (le_refl 128)).widen (by omega) (le_refl _))
  rw [keepsOutside_dumpDies _ x (by omega), readByte_writeBytes_outside _ _ _ _ (by omega)]
  exact readByte_clearRange_outside _ _ _ _ hx

/-- The header stands at the head of the dump. -/
theorem readBytes_dumpImage_header (hfit : s.WavesFit) {off n : Nat} (hoff : off + n ≤ 0x1000) :
    readBytes s.dumpImage (s.pkg.dump.toNat + off) n
      = readBytes (writeBytes (clearRange s.mem s.pkg.dump.toNat (s.pkg.dump.toNat + dumpBytes)) s.pkg.dump.toNat s.dumpHeader)
        (s.pkg.dump.toNat + off) n := by
  rw [State.dumpImage, (keepsOutside_dumpPages hfit _ (le_refl 128)).readBytes (.inl (by omega)),
    (keepsOutside_dumpDies _).readBytes (.inl (by omega))]

/-- Later cores' pages leave an earlier one's. -/
theorem readBytes_dumpPages (hfit : s.WavesFit) (m : List (Nat × Byte)) {k n a len : Nat} (hk : k < n)
    (hhi : a + len ≤ base + 0x5000 + 0x21000 * (k + 1)) :
    readBytes ((List.range n).foldl (s.dumpPage base) m) a len
      = readBytes (s.dumpPage base ((List.range k).foldl (s.dumpPage base) m) k) a len := by
  induction n with
  | zero => exact absurd hk (Nat.not_lt_zero k)
  | succ n ih =>
    rw [List.range_succ, List.foldl_append, List.foldl_cons, List.foldl_nil]
    rcases Nat.lt_succ_iff_lt_or_eq.mp hk with hlt | rfl
    · rw [(keepsOutside_dumpPage hfit _ n).readBytes (.inl (by omega))]
      exact ih hlt
    · rfl

/-- The descriptors of the one wave of a package stand in its core's page. -/
theorem readBytes_dumpImage_descriptor (hfit : s.WavesFit) {key : Nat} {w : Wave} (hone : s.waves = [(key, w)]) {q : Nat} (hq : q < w.width / 4) :
    readBytes s.dumpImage (s.pkg.dump.toNat + 0x5000 + w.core * 0x21000 + 0x1000 + w.slot * 0x400 + 64 * q) 64 = s.descriptor w q := by
  obtain ⟨hcore, hslot, hwidth⟩ := hfit (key, w) (by rw [hone]; exact List.mem_singleton_self _)
  dsimp only at hcore hslot hwidth
  have hat : s.pkg.dump.toNat + 0x5000 + w.core * 0x21000 + 0x1000 + w.slot * 0x400 + 64 * q
      = s.pkg.dump.toNat + 0x6000 + 0x21000 * w.core + 0x400 * w.slot + 64 * q := by omega
  have hfilter : s.waves.filter (fun e => e.2.core == w.core) = [(key, w)] := by
    rw [hone]
    exact List.filter_cons_of_pos (by simp)
  rw [hat, State.dumpImage, readBytes_dumpPages hfit _ hcore (by omega), State.dumpPage, hfilter, List.foldl_cons, List.foldl_nil,
    State.dumpWave]
  exact readBytes_descriptor s w _ _ hq

end

/-! ### The end of the dump -/

/-- Where no slice watches, the dump stands at once, and the firmware sends vector 5. -/
theorem stateDumpComplete_dumps {s : State} (hdumping : s.pkg.dumping = true) (hpins : s.dumpPins = [])
    (hwatch : ∀ e ∈ s.dies, ∀ w ∈ e.2.swatch, w.2.getLsbD 0 = false) :
    exec .stateDumpComplete s = .next ((State.updPkg { s with mem := s.dumpImage } (fun p => { p with dumping := false })).sendMsix 0 5) := by
  have hnone : s.dies.all (fun e => e.2.swatch.all (fun w => !w.2.getLsbD 0)) = true :=
    List.all_eq_true.mpr (fun e he => List.all_eq_true.mpr (fun w hw => by rw [hwatch e he w hw]; rfl))
  show execStateDumpComplete s = _
  rw [execStateDumpComplete, if_neg (by simp [hdumping]), if_neg (by simp [hpins])]
  unfold State.putDump
  dsimp only
  rw [if_pos hnone]
  rfl

theorem stateDumpComplete_refused {s : State} (hdumping : s.pkg.dumping = true) (hpins : s.dumpPins ≠ []) :
    exec .stateDumpComplete s = .next (s.refuseAll s.dumpPins) := by
  show execStateDumpComplete s = _
  rw [execStateDumpComplete, if_neg (by simp [hdumping]), if_pos hpins]

/-- A vector that is not masked is sent, and one that is masked is pending. -/
theorem sendMsix_eq (p : Package) (fn vec : Nat) : p.sendMsix fn vec = { p with msix := (p.sendMsix fn vec).msix, msixPend := (p.sendMsix fn vec).msixPend }
    ∧ ((fn, vec) ∉ p.msixMask → (p.sendMsix fn vec).msix = (fn, vec) :: p.msix ∧ (p.sendMsix fn vec).msixPend = p.msixPend)
    ∧ ((fn, vec) ∈ p.msixMask → (p.sendMsix fn vec).msix = p.msix ∧ (fn, vec) ∈ (p.sendMsix fn vec).msixPend) := by
  unfold Package.sendMsix
  by_cases hmask : (fn, vec) ∈ p.msixMask
  · rw [if_pos (List.contains_iff_mem.mpr hmask)]
    refine ⟨rfl, fun h => absurd hmask h, fun _ => ⟨rfl, ?_⟩⟩
    dsimp only
    split
    · next hpend => exact List.contains_iff_mem.mp hpend
    · exact List.mem_cons_self
  · rw [if_neg (by simpa using hmask)]
    exact ⟨rfl, fun _ => ⟨rfl, rfl⟩, fun h => absurd h hmask⟩

/-- The dump stands in memory, and vector 5 has been sent; nothing else differs. -/
structure DumpStands (s t : State) : Prop where
  eq : t = { s with mem := t.mem, pkg := { s.pkg with dumping := false, msix := t.pkg.msix, msixPend := t.pkg.msixPend } }
  sent : (0, 5) ∉ s.pkg.msixMask → t.pkg.msix = (0, 5) :: s.pkg.msix ∧ t.pkg.msixPend = s.pkg.msixPend
  masked : (0, 5) ∈ s.pkg.msixMask → t.pkg.msix = s.pkg.msix ∧ (0, 5) ∈ t.pkg.msixPend
  mem : t.mem = s.dumpImage

theorem stateDumpComplete_stands {s : State} (hdumping : s.pkg.dumping = true) (hpins : s.dumpPins = [])
    (hwatch : ∀ e ∈ s.dies, ∀ w ∈ e.2.swatch, w.2.getLsbD 0 = false) : ∃ t, exec .stateDumpComplete s = .next t ∧ DumpStands s t := by
  obtain ⟨hframe, hsent, hmasked⟩ := sendMsix_eq { s.pkg with dumping := false } 0 5
  refine ⟨_, stateDumpComplete_dumps hdumping hpins hwatch, ?_, hsent, hmasked, rfl⟩
  exact congrArg (fun p => ({ s with mem := s.dumpImage, pkg := p } : State)) hframe

/-- The header's fields in the dump. -/
theorem dumpImage_header {s : State} (hfit : s.WavesFit) :
    natOfBytes (readBytes s.dumpImage (s.pkg.dump.toNat + 0) 4) = 0x444D5039
      ∧ natOfBytes (readBytes s.dumpImage (s.pkg.dump.toNat + 8) 8) = s.pkg.dumpDcc % 2 ^ 64
      ∧ natOfBytes (readBytes s.dumpImage (s.pkg.dump.toNat + 16) 1) = s.pkg.dumpCause % 256
      ∧ natOfBytes (readBytes s.dumpImage (s.pkg.dump.toNat + 24) 8) = s.pkg.dumpPa % 2 ^ 64 := by
  rw [readBytes_dumpImage_header hfit (by omega), readBytes_dumpImage_header hfit (by omega), readBytes_dumpImage_header hfit (by omega),
    readBytes_dumpImage_header hfit (by omega)]
  exact ⟨dumpHeader_magic, dumpHeader_dcc, dumpHeader_cause, dumpHeader_pa⟩

end Sys2Proof.Machine
end

section
/-! SUPPORT. Fatal errors (18 R390), a peer link that goes down (18 R387), and a function-level reset (18 R391). -/

namespace Sys2Proof.Machine

/-! ### A fatal error (18 R390) -/

/-- A die that halts in the following cycle. -/
def Die.halting (now : Nat) (d : Die) : Die := { d with haltAt := some (now + 1) }

theorem haltDies_die (s : State) (n d : Nat) :
    ((List.range n).foldl (fun s d => s.updDie d (fun d => { d with haltAt := some (s.dcc + 1) })) s).die d
      = (if d < n then (s.die d).halting s.dcc else s.die d)
    ∧ ((List.range n).foldl (fun s d => s.updDie d (fun d => { d with haltAt := some (s.dcc + 1) })) s)
      = { s with dies := ((List.range n).foldl (fun s d => s.updDie d (fun d => { d with haltAt := some (s.dcc + 1) })) s).dies } := by
  induction n with
  | zero => exact ⟨rfl, rfl⟩
  | succ n ih =>
    obtain ⟨hdie, hstate⟩ := ih
    rw [List.range_succ, List.foldl_append, List.foldl_cons, List.foldl_nil]
    generalize (List.range n).foldl (fun s d => State.updDie s d (fun d => { d with haltAt := some (s.dcc + 1) })) s = u at hdie hstate ⊢
    have hdcc : u.dcc = s.dcc := by rw [hstate]
    refine ⟨?_, ?_⟩
    · rw [State.die_updDie]
      by_cases hd : d = n
      · subst hd
        rw [if_pos rfl, if_pos (Nat.lt_succ_self d), hdie, if_neg (Nat.lt_irrefl d), hdcc]
        rfl
      · rw [if_neg hd, hdie]
        exact if_congr (by omega) rfl rfl
    · rw [hstate]
      rfl

/-- The package of a fatal error. -/
def Package.fatal (p : Package) (cause pa now : Nat) : Package :=
  { p with fwState := 3, dumping := true, dumpCause := cause, dumpPa := pa, dumpDcc := now }

/-- A first fatal error halts every die, and starts the dump. -/
theorem fatal_first {s : State} (h : s.pkg.fwState ≠ 3) (cause pa : Nat) :
    s.fatal cause pa = { s with dies := (s.fatal cause pa).dies, pkg := s.pkg.fatal cause pa s.dcc }
      ∧ ∀ d < 4, (s.fatal cause pa).die d = (s.die d).halting s.dcc := by
  obtain ⟨-, hstate⟩ := haltDies_die s 4 0
  have hdie := fun d => (haltDies_die s 4 d).1
  rw [State.fatal, if_neg h]
  dsimp only
  generalize (List.range 4).foldl (fun s d => State.updDie s d (fun d => { d with haltAt := some (s.dcc + 1) })) s = u at hstate hdie ⊢
  refine ⟨?_, fun d hd => (hdie d).trans (if_pos hd)⟩
  rw [hstate]
  rfl

/-- A second one during the dump is recorded. -/
theorem fatal_again {s : State} (h : s.pkg.fwState = 3) (hdumping : s.pkg.dumping = true) (cause pa : Nat) :
    s.fatal cause pa = { s with pkg := { s.pkg with dumpCause := 4 } } := by
  have hcause : (if s.pkg.dumping then 4 else s.pkg.dumpCause) = 4 := if_pos hdumping
  rw [State.fatal, if_pos h, State.updPkg]
  dsimp only
  rw [hcause]

/-! ### Accesses that fail (18 R387) -/

/-- An access that has failed as its link went down. -/
def Access.lost (a : Access) : Access := { a with phase := .failed 3, logPage := 16 }

theorem overLink_lost (k now : Nat) (a : Access) : overLink k now a.lost = false := by
  simp [overLink, Access.lost]

/-- An access after the failures over a link. -/
def Access.loseOver (k now : Nat) (a : Access) : Access := if overLink k now a then a.lost else a

theorem overLink_loseOver (k now : Nat) (a : Access) : overLink k now (a.loseOver k now) = false := by
  unfold Access.loseOver
  split
  · exact overLink_lost k now a
  · next h => simpa using h

/-- The accesses on their way over a link, failed. -/
def loseOver (k now : Nat) (accs : List Access) : List Access := accs.map (Access.loseOver k now)

theorem loseOver_again (k now : Nat) (accs : List Access) : loseOver k now (loseOver k now accs) = loseOver k now accs := by
  rw [loseOver, loseOver, List.map_map]
  exact List.map_congr_left (fun a _ => if_neg (by simp [overLink_loseOver]))

theorem loseOver_of_none {k now : Nat} {accs : List Access} (h : ∀ a ∈ accs, overLink k now a = false) : loseOver k now accs = accs :=
  (List.map_congr_left (fun a ha => if_neg (by simp [h a ha]))).trans (List.map_id accs)

theorem filter_loseOver (k now : Nat) (accs : List Access) : (loseOver k now accs).filter (overLink k now) = [] := by
  refine List.filter_eq_nil_iff.mpr (fun b hb => ?_)
  obtain ⟨a, -, rfl⟩ := List.mem_map.mp hb
  simp [overLink_loseOver]

/-- An operation whose accesses over a link have failed. -/
def MemOp.lose (k now : Nat) (o : MemOp) : MemOp := { o with accs := loseOver k now o.accs }

/-- Nothing differs but the failures that parts hold, and side logs. -/
structure HoldsOnly (s t : State) : Prop where
  eq : t = { s with cores := t.cores, waves := t.waves }

theorem HoldsOnly.refl (s : State) : HoldsOnly s s := ⟨rfl⟩
theorem HoldsOnly.trans {s t u : State} (h : HoldsOnly s t) (h' : HoldsOnly t u) : HoldsOnly s u := ⟨by rw [h'.eq, h.eq]⟩
theorem CoresOnly.holdsOnly {s t : State} (h : CoresOnly s t) : HoldsOnly s t := ⟨by rw [h]⟩
theorem WaveChange.holdsOnly {k : Nat} {s t : State} (h : WaveChange k s t) : HoldsOnly s t := ⟨by rw [h.state]⟩

theorem holdsOnly_holdFailure (s : State) (o : MemOp) (detail va logPage : Nat) : HoldsOnly s (s.holdFailure o detail va logPage) := by
  unfold State.holdFailure
  split
  · exact .refl s
  · split
    · exact .refl s
    · split
      · exact .refl s
      · exact (waveChange_updPart s _ _).holdsOnly

theorem holdsOnly_holdFailures (s : State) (o : MemOp) (accs : List Access) : HoldsOnly s (s.holdFailures o accs) := by
  refine List.foldlRecOn (motive := HoldsOnly s) accs _ (.refl s) (fun t ht a _ => ht.trans ?_)
  split
  · exact holdsOnly_holdFailure ..
  · exact .refl t

/-- Nothing differs but operations, the failures that parts hold, and side logs. -/
structure FailsOnly (s t : State) : Prop where
  eq : t = { s with cores := t.cores, waves := t.waves, ops := t.ops }

theorem FailsOnly.refl (s : State) : FailsOnly s s := ⟨rfl⟩
theorem FailsOnly.trans {s t u : State} (h : FailsOnly s t) (h' : FailsOnly t u) : FailsOnly s u := ⟨by rw [h'.eq, h.eq]⟩

/-- An operation after the failures of some identifiers' accesses over a link. -/
def loseAmong (ids : List Nat) (k now : Nat) (o : MemOp) : MemOp := if o.id ∈ ids then o.lose k now else o

theorem loseAmong_id (ids : List Nat) (k now : Nat) (o : MemOp) : (loseAmong ids k now o).id = o.id := by
  unfold loseAmong
  split <;> rfl

theorem loseAmong_kind (ids : List Nat) (k now : Nat) (o : MemOp) : (loseAmong ids k now o).kind = o.kind := by
  unfold loseAmong
  split <;> rfl

theorem loseAmong_cons (id : Nat) (ids : List Nat) (k now : Nat) (o : MemOp) :
    loseAmong ids k now (loseAmong [id] k now o) = loseAmong (id :: ids) k now o := by
  have hlose : (o.lose k now).lose k now = o.lose k now := by
    simp only [MemOp.lose, loseOver_again]
  by_cases hid : o.id = id
  · have hone : loseAmong [id] k now o = o.lose k now := if_pos (by simp [hid])
    have hboth : loseAmong (id :: ids) k now o = o.lose k now := if_pos (by simp [hid])
    rw [hone, hboth, loseAmong, hlose, ite_self]
  · have hone : loseAmong [id] k now o = o := if_neg (by simp [hid])
    rw [hone, loseAmong, loseAmong]
    exact if_congr (by simp [hid]) rfl rfl

/-- The accesses over a link fail of every operation of an identifier, and of no other. -/
theorem failAccesses_loses (s : State) (id k : Nat) :
    FailsOnly s (s.failAccesses id 3 16 (overLink k s.dcc))
      ∧ (s.failAccesses id 3 16 (overLink k s.dcc)).ops = s.ops.map (loseAmong [id] k s.dcc) := by
  cases hq : s.op? id with
  | none =>
    have hnone : s.ops.map (loseAmong [id] k s.dcc) = s.ops :=
      (List.map_congr_left (fun o ho => if_neg (by simpa using List.find?_eq_none.mp hq o ho))).trans (List.map_id _)
    rw [State.failAccesses, hq, hnone]
    exact ⟨.refl s, rfl⟩
  | some q =>
    have hops : (s.updOp id (MemOp.lose k s.dcc)).ops = s.ops.map (loseAmong [id] k s.dcc) :=
      List.map_congr_left (fun o _ => if_congr (by simp) rfl rfl)
    have hholds := (holdsOnly_holdFailures (s.updOp id (MemOp.lose k s.dcc)) q ((q.accs.filter (overLink k s.dcc)).map Access.lost)).trans
      (coresOnly_freeLog _ id).holdsOnly
    have hfail : s.failAccesses id 3 16 (overLink k s.dcc)
        = ((s.updOp id (MemOp.lose k s.dcc)).holdFailures q ((q.accs.filter (overLink k s.dcc)).map Access.lost)).freeLog id := by
      rw [State.failAccesses, hq]
      rfl
    rw [hfail]
    generalize State.freeLog _ _ = u at hholds ⊢
    exact ⟨⟨by rw [hholds.eq]; rfl⟩, by rw [hholds.eq]; exact hops⟩

/-- The accesses over a link of some operations, failed in turn. -/
def State.loseReads (s : State) (k : Nat) (reads : List MemOp) : State :=
  reads.foldl (fun s o => s.failAccesses o.id 3 16 (overLink k s.dcc)) s

theorem loseReads_loses (s : State) (k : Nat) (reads : List MemOp) :
    FailsOnly s (s.loseReads k reads) ∧ (s.loseReads k reads).ops = s.ops.map (loseAmong (reads.map (fun o => o.id)) k s.dcc) := by
  induction reads generalizing s with
  | nil => exact ⟨.refl s, ((List.map_congr_left (fun o _ => if_neg List.not_mem_nil)).trans (List.map_id _)).symm⟩
  | cons o reads ih =>
    obtain ⟨hfails, hops⟩ := failAccesses_loses s o.id k
    obtain ⟨hrest, hrestOps⟩ := ih (s.failAccesses o.id 3 16 (overLink k s.dcc))
    have hdcc : (s.failAccesses o.id 3 16 (overLink k s.dcc)).dcc = s.dcc := by rw [hfails.eq]
    refine ⟨hfails.trans hrest, hrestOps.trans ?_⟩
    rw [hops, hdcc, List.map_map, List.map_cons]
    exact List.map_congr_left (fun q _ => loseAmong_cons o.id _ k s.dcc q)

/-! ### A link that goes down (18 R387) -/

/-- Operations that read over a link. -/
def State.readsOver (s : State) (k : Nat) : List MemOp := s.ops.filter (fun o => !o.kind.writesMemory && o.accs.any (overLink k s.dcc))

/-- A peer's link in a state. -/
def State.setLink (s : State) (k st : Nat) : State :=
  s.updPkg (fun p => { p with peers := setT Peer.reset p.peers k { getT Peer.reset s.pkg.peers k with link := BitVec.ofNat 2 st } })

/-- A link that goes down: its fills are lost, and its reads fail. -/
def State.dropLink (s : State) (k : Nat) : State :=
  State.loseReads { s with fills := s.fills.filter (fun f => paClass (f.line * 128) != 4 + k) } k (s.readsOver k)

section
variable {s : State} {k st : Nat}

theorem peerLinkState_other (h : ¬ ((getT Peer.reset s.pkg.peers k).link = 2 ∧ st ≠ 2)) : exec (.peerLinkState k st) s = .next (s.setLink k st) := by
  show execPeerLinkState k st s = _
  rw [execPeerLinkState]
  exact if_neg h

theorem peerLinkState_down (h : (getT Peer.reset s.pkg.peers k).link = 2 ∧ st ≠ 2) :
    exec (.peerLinkState k st) s = .next (match ((s.setLink k st).dropLink k).writesOver k with
      | pa :: _ => ((s.setLink k st).dropLink k).fatal 3 pa
      | [] => (s.setLink k st).dropLink k) := by
  show execPeerLinkState k st s = _
  rw [execPeerLinkState]
  exact if_pos h

theorem setLink_peer (s : State) (k st : Nat) :
    getT Peer.reset (s.setLink k st).pkg.peers k = { getT Peer.reset s.pkg.peers k with link := BitVec.ofNat 2 st } := getT_setT_self ..

theorem dropLink_drops (s : State) (k : Nat) :
    FailsOnly { s with fills := s.fills.filter (fun f => paClass (f.line * 128) != 4 + k) } (s.dropLink k)
      ∧ (s.dropLink k).ops = s.ops.map (loseAmong ((s.readsOver k).map (fun o => o.id)) k s.dcc) := loseReads_loses ..

/-- Addresses over a link that operations are writing. -/
def opsOver (k now : Nat) (ops : List MemOp) : List Nat :=
  (ops.filter (fun o => o.kind.writesMemory)).flatMap (fun o => (o.accs.filter (overLink k now)).map (fun a => a.pa))

/-- Addresses over a link of the write-backs and the posted writes on their way. -/
def State.sentOver (s : State) (k : Nat) : List Nat :=
  ((s.backs.map (fun (b : Back) => b.line * 128)) ++ s.posted.map (fun (p : Posted) => p.pa)).filter (fun pa => paClass pa == 4 + k)

theorem writesOver_eq (s : State) (k : Nat) : s.writesOver k = opsOver k s.dcc s.ops ++ s.sentOver k := rfl

theorem sentOver_dropLink (s : State) (k : Nat) : (s.dropLink k).sentOver k = s.sentOver k := by
  rw [(dropLink_drops s k).1.eq]
  rfl

theorem dropLink_dcc (s : State) (k : Nat) : (s.dropLink k).dcc = s.dcc := by rw [(dropLink_drops s k).1.eq]

/-- Failed reads write nothing more than before. -/
theorem opsOver_loseAmong {now : Nat} {ops : List MemOp} (h : opsOver k now ops = []) (ids : List Nat) :
    opsOver k now (ops.map (loseAmong ids k now)) = [] := by
  refine List.flatMap_eq_nil_iff.mpr (fun q hq => ?_)
  obtain ⟨hmem, hwrites⟩ := List.mem_filter.mp hq
  obtain ⟨o, ho, rfl⟩ := List.mem_map.mp hmem
  rw [loseAmong_kind] at hwrites
  unfold loseAmong
  split
  · rw [MemOp.lose, filter_loseOver]
    rfl
  · exact List.flatMap_eq_nil_iff.mp h o (List.mem_filter.mpr ⟨ho, hwrites⟩)

theorem writesOver_dropLink_nil (h : s.writesOver k = []) : (s.dropLink k).writesOver k = [] := by
  rw [writesOver_eq] at h ⊢
  obtain ⟨hops, hsent⟩ := List.append_eq_nil_iff.mp h
  rw [sentOver_dropLink, hsent, dropLink_dcc, (dropLink_drops s k).2, opsOver_loseAmong hops, List.append_nil]

/-- Where identifiers are distinct, the failure of the reads leaves the writes. -/
theorem writesOver_dropLink (hids : s.ops.Pairwise (fun a b => a.id ≠ b.id)) : (s.dropLink k).writesOver k = s.writesOver k := by
  have hnodup : (s.ops.map (fun o => o.id)).Nodup := List.pairwise_map.mpr hids
  have hkinds : (fun o : MemOp => o.kind.writesMemory) ∘ loseAmong ((s.readsOver k).map (fun o => o.id)) k s.dcc
      = fun o => o.kind.writesMemory := by
    funext o
    exact congrArg OpKind.writesMemory (loseAmong_kind ..)
  have hwriters : (s.ops.filter (fun o => o.kind.writesMemory)).map (loseAmong ((s.readsOver k).map (fun o => o.id)) k s.dcc)
      = s.ops.filter (fun o => o.kind.writesMemory) := by
    refine (List.map_congr_left (fun q hq => if_neg (fun hread => ?_))).trans (List.map_id _)
    obtain ⟨hq, hwrites⟩ := List.mem_filter.mp hq
    obtain ⟨o, ho, hid⟩ := List.mem_map.mp hread
    obtain ⟨ho, hreads⟩ := List.mem_filter.mp ho
    obtain rfl := List.inj_on_of_nodup_map hnodup ho hq hid
    simp [hwrites] at hreads
  rw [writesOver_eq, writesOver_eq, sentOver_dropLink, dropLink_dcc, (dropLink_drops s k).2, opsOver, List.filter_map, hkinds, hwriters]
  rfl

/-- An operation that reads has lost its accesses over the link. -/
theorem op?_dropLink {o : MemOp} (ho : s.op? o.id = some o) (hreads : o.kind.writesMemory = false) :
    ∃ q, (s.dropLink k).op? o.id = some q ∧ q.accs = loseOver k s.dcc o.accs := by
  have hids : (fun q : MemOp => q.id == o.id) ∘ loseAmong ((s.readsOver k).map (fun o => o.id)) k s.dcc = fun q => q.id == o.id := by
    funext q
    dsimp only [Function.comp]
    rw [loseAmong_id]
  refine ⟨loseAmong ((s.readsOver k).map (fun o => o.id)) k s.dcc o, ?_, ?_⟩
  · rw [State.op?, (dropLink_drops s k).2, List.find?_map, hids]
    exact congrArg (Option.map _) ho
  · unfold loseAmong
    split
    · rfl
    · next hout =>
      refine (loseOver_of_none (fun a ha => ?_)).symm
      by_contra hover
      refine hout (List.mem_map.mpr ⟨o, List.mem_filter.mpr ⟨List.mem_of_find?_eq_some ho, ?_⟩, rfl⟩)
      have hany : o.accs.any (overLink k s.dcc) = true := List.any_eq_true.mpr ⟨a, ha, by simpa using hover⟩
      rw [hreads, hany]
      rfl

/-- A link over which nothing is on its way: its state alone changes. -/
theorem dropLink_of_quiet (hops : ∀ o ∈ s.ops, ∀ a ∈ o.accs, overLink k s.dcc a = false) (hfills : ∀ f ∈ s.fills, paClass (f.line * 128) ≠ 4 + k) :
    s.dropLink k = s := by
  have hreads : s.readsOver k = [] := List.filter_eq_nil_iff.mpr (fun o ho => by
    have hnone : o.accs.any (overLink k s.dcc) = false := List.any_eq_false.mpr (fun a ha => by simp [hops o ho a ha])
    simp [hnone])
  have hkept : s.fills.filter (fun f => paClass (f.line * 128) != 4 + k) = s.fills :=
    List.filter_eq_self.mpr (fun f hf => by simpa using hfills f hf)
  rw [State.dropLink, hreads, hkept]
  rfl

/-- The peer's link has its new state. -/
def LinkIs (s t : State) (k st : Nat) : Prop := getT Peer.reset t.pkg.peers k = { getT Peer.reset s.pkg.peers k with link := BitVec.ofNat 2 st }

theorem LinkIs.of_pkg {t u : State} (h : LinkIs s t k st) (hpkg : u.pkg.peers = t.pkg.peers) : LinkIs s u k st := by
  rw [LinkIs, hpkg]
  exact h

/-- The link's state alone changes where nothing is on its way over it. -/
theorem peerLinkState_quiet (hwrites : s.writesOver k = []) (hops : ∀ o ∈ s.ops, ∀ a ∈ o.accs, overLink k s.dcc a = false)
    (hfills : ∀ f ∈ s.fills, paClass (f.line * 128) ≠ 4 + k) :
    ∃ t, exec (.peerLinkState k st) s = .next t ∧ t = { s with pkg := t.pkg } ∧ LinkIs s t k st := by
  have hquiet : (s.setLink k st).dropLink k = s.setLink k st := dropLink_of_quiet hops hfills
  refine ⟨s.setLink k st, ?_, rfl, setLink_peer s k st⟩
  by_cases h : (getT Peer.reset s.pkg.peers k).link = 2 ∧ st ≠ 2
  · have hnone : (s.setLink k st).writesOver k = [] := hwrites
    rw [peerLinkState_down h, hquiet, hnone]
  · exact peerLinkState_other h

/-- Over a link that goes down fills are lost, and reads on their way fail. -/
theorem peerLinkState_loses (h : (getT Peer.reset s.pkg.peers k).link = 2 ∧ st ≠ 2) (hwrites : s.writesOver k = []) :
    ∃ t, exec (.peerLinkState k st) s = .next t ∧ LinkIs s t k st ∧ t.pkg.fwState = s.pkg.fwState
      ∧ t.fills = s.fills.filter (fun f => paClass (f.line * 128) != 4 + k)
      ∧ ∀ o, s.op? o.id = some o → o.kind.writesMemory = false → ∃ q, t.op? o.id = some q ∧ q.accs = loseOver k s.dcc o.accs := by
  have hnone : ((s.setLink k st).dropLink k).writesOver k = [] := writesOver_dropLink_nil hwrites
  have hdrops := (dropLink_drops (s.setLink k st) k).1
  have hlink : LinkIs s (s.setLink k st) k st := setLink_peer s k st
  refine ⟨(s.setLink k st).dropLink k, ?_, hlink.of_pkg ?_, ?_, ?_, fun o ho hreads => op?_dropLink (s := s.setLink k st) ho hreads⟩
  · rw [peerLinkState_down h, hnone]
  · rw [hdrops.eq]
  · rw [hdrops.eq]
    rfl
  · rw [hdrops.eq]
    rfl

/-- Writes on their way over a link that goes down are a fatal error. -/
theorem peerLinkState_fatal (h : (getT Peer.reset s.pkg.peers k).link = 2 ∧ st ≠ 2) (hfirst : s.pkg.fwState ≠ 3) (hwrites : s.writesOver k ≠ [])
    (hids : s.ops.Pairwise (fun a b => a.id ≠ b.id)) :
    ∃ t, exec (.peerLinkState k st) s = .next t ∧ LinkIs s t k st ∧ t.pkg.fwState = 3 ∧ t.pkg.dumpCause = 3 := by
  have hsome : ((s.setLink k st).dropLink k).writesOver k ≠ [] := by
    rw [writesOver_dropLink (s := s.setLink k st) hids]
    exact hwrites
  have hpkg : ((s.setLink k st).dropLink k).pkg = (s.setLink k st).pkg := by rw [(dropLink_drops (s.setLink k st) k).1.eq]
  have hexec := peerLinkState_down h
  have hlink : LinkIs s (s.setLink k st) k st := setLink_peer s k st
  generalize (s.setLink k st).dropLink k = u at hsome hpkg hexec
  obtain ⟨pa, rest, hpas⟩ := List.exists_cons_of_ne_nil hsome
  rw [hpas] at hexec
  have hnot : u.pkg.fwState ≠ 3 := by
    rw [hpkg]
    exact hfirst
  have hfatal : (u.fatal 3 pa).pkg = u.pkg.fatal 3 pa u.dcc := by rw [(fatal_first hnot 3 pa).1]
  refine ⟨u.fatal 3 pa, hexec, hlink.of_pkg ?_, congrArg Package.fwState hfatal, congrArg Package.dumpCause hfatal⟩
  rw [hfatal, ← hpkg]
  rfl

end

end Sys2Proof.Machine
end

section
/-! SUPPORT. What ends with a tenant at its function-level reset, and what a package reset keeps (18 R388, R391). -/

namespace Sys2Proof.Machine

/-! ### Entries of tables -/

theorem mem_of_mem_delT {α : Type} {m : List (Nat × α)} {k : Nat} {e : Nat × α} (h : e ∈ delT m k) : e ∈ m := by
  induction m with
  | nil => exact h
  | cons x r ih =>
    rw [delT] at h
    split at h
    · exact List.mem_cons_of_mem _ (ih h)
    · exact List.mem_cons.mpr ((List.mem_cons.mp h).imp_right ih)

theorem eq_or_mem_of_mem_insT {α : Type} {m : List (Nat × α)} {k : Nat} {v : α} {e : Nat × α} (h : e ∈ insT m k v) : e = (k, v) ∨ e ∈ m := by
  induction m with
  | nil => exact List.mem_cons.mp h
  | cons x r ih =>
    rw [insT] at h
    split at h
    · exact List.mem_cons.mp h
    · rcases List.mem_cons.mp h with rfl | hr
      · exact .inr List.mem_cons_self
      · exact (ih hr).imp_right (List.mem_cons_of_mem _)

theorem eq_or_mem_of_mem_putT {α : Type} {m : List (Nat × α)} {k : Nat} {v : α} {e : Nat × α} (h : e ∈ putT m k v) : e = (k, v) ∨ e ∈ m :=
  (eq_or_mem_of_mem_insT h).imp_right mem_of_mem_delT

/-! ### A wave ends (20 R430) -/

/-- Memory, the scheduler and time are as before, and every launch is one of before, of the same tenant. -/
structure KeepsTenants (s t : State) : Prop where
  mem : t.mem = s.mem
  sched : t.sched = s.sched
  dcc : t.dcc = s.dcc
  launches : ∀ e ∈ t.launches, ∃ l, (e.1, l) ∈ s.launches ∧ l.tenant = e.2.tenant

theorem KeepsTenants.of_launches {s t : State} (hmem : t.mem = s.mem) (hsched : t.sched = s.sched) (hdcc : t.dcc = s.dcc)
    (hlaunches : t.launches = s.launches) : KeepsTenants s t :=
  ⟨hmem, hsched, hdcc, fun e he => ⟨e.2, hlaunches ▸ he, rfl⟩⟩

theorem KeepsTenants.refl (s : State) : KeepsTenants s s := .of_launches rfl rfl rfl rfl
theorem KeepsTenants.trans {s t u : State} (h : KeepsTenants s t) (h' : KeepsTenants t u) : KeepsTenants s u := by
  refine ⟨h'.mem.trans h.mem, h'.sched.trans h.sched, h'.dcc.trans h.dcc, fun e he => ?_⟩
  obtain ⟨l, hl, htenant⟩ := h'.launches e he
  obtain ⟨l', hl', htenant'⟩ := h.launches _ hl
  exact ⟨l', hl', htenant'.trans htenant⟩

theorem keepsTenants_updLaunch (s : State) (lid : Nat) {f : Launch → Launch} (hf : ∀ l, (f l).tenant = l.tenant) :
    KeepsTenants s (s.updLaunch lid f) := by
  unfold State.updLaunch
  split
  · next v hv =>
    refine ⟨rfl, rfl, rfl, fun e he => ?_⟩
    rcases eq_or_mem_of_mem_putT he with rfl | he
    · exact ⟨v, mem_of_lookT hv, (hf v).symm⟩
    · exact ⟨e.2, he, rfl⟩
  · exact .refl s

/-- A step that ends no wave, and keeps what a tenant's reset looks at. -/
structure KeepsRest (s t : State) : Prop where
  tenants : KeepsTenants s t
  waves : t.waves = s.waves

theorem KeepsRest.trans {s t u : State} (h : KeepsRest s t) (h' : KeepsRest t u) : KeepsRest s u :=
  ⟨h.tenants.trans h'.tenants, h'.waves.trans h.waves⟩

theorem KeepsRest.of_eq {s t : State} (h : t = { s with groups := t.groups, cores := t.cores, dies := t.dies, frags := t.frags, meshes := t.meshes
                                                        joinDecs := t.joinDecs }) : KeepsRest s t := by
  rw [h]
  exact ⟨.of_launches rfl rfl rfl rfl, rfl⟩

theorem keepsRest_retireFrags (s : State) (w : Wave) (lanes : Lanes) (killed : Bool) : KeepsRest s (s.retireFrags w lanes killed) := by
  unfold State.retireFrags
  split <;> exact .of_eq rfl

theorem keepsRest_countPixelWave (s : State) (w : Wave) : KeepsRest s (s.countPixelWave w) := by
  unfold State.countPixelWave
  split
  · split <;> exact .of_eq rfl
  · exact .of_eq rfl

theorem keepsRest_endGroup (s : State) (g : Nat) (v : Group) : KeepsRest s (s.endGroup g v) := by
  unfold State.endGroup
  extract_lets u done t last
  have hu : KeepsRest s u := .of_eq rfl
  have ht : KeepsRest u t := by
    unfold t
    cases v.kind with
    | task j =>
      dsimp only
      split
      · split <;> exact .of_eq rfl
      · exact .of_eq rfl
    | _ => exact .of_eq rfl
  refine hu.trans (ht.trans ⟨keepsTenants_updLaunch t _ (fun _ => rfl), ?_⟩)
  rw [State.updLaunch_eq]

/-- A wave that ends leaves every other, and a wave that is none changes nothing. -/
theorem endWave_ends (s : State) (key : Nat) :
    KeepsTenants s (s.endWave key) ∧ ∀ k, (s.endWave key).wave? k = if k = key then none else s.wave? k := by
  cases hw : s.wave? key with
  | none =>
    have hsame : s.endWave key = s := by rw [State.endWave, hw]
    rw [hsame]
    refine ⟨.refl s, fun k => ?_⟩
    split
    · next h => exact h ▸ hw
    · rfl
  | some w =>
    let u := ((s.retireFrags w (laneRange 0 w.width) false).countPixelWave w).freeWaveRegs w
    have hu : KeepsRest s u := ((keepsRest_retireFrags s w _ false).trans (keepsRest_countPixelWave _ w)).trans (.of_eq rfl)
    have hrest : KeepsRest { u with waves := delT u.waves key } (s.endWave key) := by
      rw [State.endWave, hw]
      refine KeepsRest.trans (t := State.updGroup { u with waves := delT u.waves key } w.group (fun g =>
        { g with slots := g.slots.filter (fun n => n != w.slot) })) (.of_eq (by rw [State.updGroup_eq])) ?_
      dsimp only
      split
      · split
        · exact keepsRest_endGroup ..
        · exact .of_eq rfl
      · exact .of_eq rfl
    refine ⟨hu.tenants.trans ((KeepsTenants.of_launches (s := u) (t := { u with waves := delT u.waves key }) rfl rfl rfl rfl).trans
      hrest.tenants), fun k => ?_⟩
    rw [State.wave?, hrest.waves, hu.waves]
    split
    · next h => exact h ▸ lookT_delT_self _ _
    · next h => exact lookT_delT_of_ne _ h

theorem endWaveList_ends (s : State) (keys : List Nat) :
    KeepsTenants s (keys.foldl State.endWave s) ∧ ∀ k, (keys.foldl State.endWave s).wave? k = if k ∈ keys then none else s.wave? k := by
  induction keys generalizing s with
  | nil => exact ⟨.refl s, fun k => (if_neg List.not_mem_nil).symm⟩
  | cons key keys ih =>
    obtain ⟨hkeeps, hwave⟩ := endWave_ends s key
    obtain ⟨hrest, hwaves⟩ := ih (s.endWave key)
    refine ⟨hkeeps.trans hrest, fun k => ?_⟩
    rw [List.foldl_cons, hwaves, hwave]
    by_cases hk : k = key
    · simp [hk]
    · simp [hk]

/-- The waves of some launches end: no wave of them is left. -/
theorem endWaves_ends (s : State) (lids : List Nat) :
    KeepsTenants s (s.endWaves lids) ∧ ∀ k w, (s.endWaves lids).wave? k = some w → w.launch ∉ lids := by
  obtain ⟨hkeeps, hwaves⟩ := endWaveList_ends s ((s.waves.filter (fun e => lids.contains e.2.launch)).map Prod.fst)
  refine ⟨hkeeps, fun k w hw hmem => ?_⟩
  have hw' := (hwaves k).symm.trans hw
  split at hw'
  · cases hw'
  · next hout =>
    exact hout (List.mem_map.mpr ⟨(k, w), List.mem_filter.mpr ⟨mem_of_lookT hw', List.contains_iff_mem.mpr hmem⟩, rfl⟩)

theorem coresOnly_dropEngines (s : State) (gone : Nat → Bool) : CoresOnly s (s.dropEngines gone) :=
  List.foldlRecOn (motive := CoresOnly s) _ _ rfl (fun _ ht core _ => ht.trans (coresOnly_startNext _ core))

theorem endPasses_eq (s : State) (es : List (Nat × Launch)) :
    es.foldl (fun s e => s.endPass e.2) s = { s with marks := (es.foldl (fun s e => s.endPass e.2) s).marks
                                                     sentMarks := (es.foldl (fun s e => s.endPass e.2) s).sentMarks
                                                     dies := (es.foldl (fun s e => s.endPass e.2) s).dies } := by
  refine List.foldlRecOn (motive := fun t : State => t = { s with marks := t.marks, sentMarks := t.sentMarks, dies := t.dies }) es _
    (show s = { s with marks := s.marks, sentMarks := s.sentMarks, dies := s.dies } from rfl) (fun t ht e _ => ?_)
  rw [endPass_eq t, ht]

/-! ### A function-level reset (18 R391) -/

/-- A queue of the tenant that is reset. -/
def Queue.disabled (q : Queue) : Queue := { q with en := false, buffer := [], pollAt := 0, pollOk := false }

/-- The scheduler without a tenant. -/
def Sched.without (x : Sched) (n : Nat) : Sched :=
  { x with
    queues := x.queues.map (fun (e : Nat × Queue) => if e.2.tenant = n then (e.1, e.2.disabled) else e)
    graphs := x.graphs.filter (fun g => g.tenant != n)
    insts := x.insts.filter (fun i => i.tenant != n)
    mem := clearRange x.mem (schedKey n 0) (schedKey (n + 1) 0) }

/-- The state without some launches and what the scheduler holds of a tenant. -/
def State.withoutLaunches (s : State) (gone : Nat → Bool) (n : Nat) : State :=
  { s with
    launches := s.launches.filter (fun e => !gone e.1)
    posted := s.posted.filter (fun p => !gone p.launch)
    groups := s.groups.filter (fun e => !gone e.2.launch)
    meshes := s.meshes.filter (fun m => !gone m.launch)
    prims := s.prims.filter (fun p => !gone p.launch)
    frags := s.frags.filter (fun f => !gone f.launch)
    sched := s.sched.without n }

/-- Launches of a tenant. -/
def State.launchesOf (s : State) (n : Nat) : List Nat := (s.launches.filter (fun e => e.2.tenant == n)).map Prod.fst

/-- The state before a function-level reset's last writes: the tenant's waves, engine operations, launches and scheduler state are gone. -/
def State.tenantGone (s : State) (n : Nat) : State :=
  ((s.endWaves (s.launchesOf n)).dropEngines (fun l => (s.launchesOf n).contains l)).withoutLaunches (fun l => (s.launchesOf n).contains l) n

theorem functionLevelReset_next (s : State) (n : Nat) :
    exec (.functionLevelReset n) s = .next (((s.launches.filter (fun e => e.2.tenant == n)).foldl (fun s e => s.endPass e.2) (s.tenantGone n)).updTenant n
      (fun x => { x with images := [], flrAt := some ((s.launches.filter (fun e => e.2.tenant == n)).foldl (fun s e => s.endPass e.2)
        (s.tenantGone n)).dcc })) := rfl

section
variable {s : State} {n : Nat}

theorem queue_without (x : Sched) (q : Nat) :
    getT Queue.reset (x.without n).queues q = (if (getT Queue.reset x.queues q).tenant = n then (getT Queue.reset x.queues q).disabled
      else getT Queue.reset x.queues q) ∨ getT Queue.reset (x.without n).queues q = Queue.reset := by
  have hlook := lookT_map_if (fun q : Queue => q.tenant = n) Queue.disabled x.queues q
  rw [getT_eq, getT_eq, Sched.without]
  dsimp only
  rw [hlook]
  cases lookT x.queues q with
  | none => exact .inr rfl
  | some v => exact .inl rfl

/-- The tenant's queues are disabled. -/
theorem queue_without_disabled (x : Sched) (q : Nat) (h : (getT Queue.reset (x.without n).queues q).tenant = n) :
    (getT Queue.reset (x.without n).queues q).en = false := by
  rcases queue_without (n := n) x q with hq | hq
  · rw [hq] at h ⊢
    split at h
    · next ht => rw [if_pos ht]; rfl
    · next ht => exact absurd h ht
  · rw [hq]
    rfl

theorem region_without (x : Sched) {off : Nat} (hoff : off < 2 ^ 20) : readByte (x.without n).mem (schedKey n off) = 0 := by
  refine readByte_clearRange_inside _ ⟨?_, ?_⟩ <;> unfold schedKey <;> omega

/-- What a function-level reset leaves. -/
structure TenantGone (n : Nat) (s t : State) : Prop where
  launches : ∀ e ∈ t.launches, e.2.tenant ≠ n
  waves : ∀ k w, t.wave? k = some w → ∀ e ∈ s.launches, e.2.tenant = n → w.launch ≠ e.1
  sched : t.sched = s.sched.without n
  mem : t.mem = s.mem
  dcc : t.dcc = s.dcc

theorem mem_launchesOf {e : Nat × Launch} (he : e ∈ s.launches) (htenant : e.2.tenant = n) : e.1 ∈ s.launchesOf n :=
  List.mem_map.mpr ⟨e, List.mem_filter.mpr ⟨he, beq_iff_eq.mpr htenant⟩, rfl⟩

theorem tenantGone_gone (s : State) (n : Nat) : TenantGone n s (s.tenantGone n) := by
  obtain ⟨hkeeps, hwaves⟩ := endWaves_ends s (s.launchesOf n)
  have hengines := coresOnly_dropEngines (s.endWaves (s.launchesOf n)) (fun l => (s.launchesOf n).contains l)
  unfold State.tenantGone
  generalize s.endWaves (s.launchesOf n) = u at hkeeps hwaves hengines ⊢
  generalize u.dropEngines (fun l => (s.launchesOf n).contains l) = t at hengines ⊢
  have hlaunches : t.launches = u.launches := by rw [hengines]
  have hsched : t.sched = u.sched := by rw [hengines]
  refine ⟨fun e he htenant => ?_, fun k w hw e he htenant hlaunch => ?_, ?_, ?_, ?_⟩
  · obtain ⟨he, hgone⟩ := List.mem_filter.mp he
    obtain ⟨l, hl, hsame⟩ := hkeeps.launches e (hlaunches ▸ he)
    have hmem : e.1 ∈ s.launchesOf n := mem_launchesOf (e := (e.1, l)) hl (hsame.trans htenant)
    simp [hmem] at hgone
  · have hmem := mem_launchesOf he htenant
    rw [← hlaunch] at hmem
    exact hwaves k w ((hengines.wave? k).symm.trans hw) hmem
  · exact congrArg (fun x => Sched.without x n) (hsched.trans hkeeps.sched)
  · exact hengines.mem.trans hkeeps.mem
  · exact hengines.dcc.trans hkeeps.dcc

/-- The scheduler after the last writes of a reset of tenant `n`: that tenant's registers alone differ. -/
theorem functionLevelReset_leaves (s : State) (n : Nat) :
    ∃ t, exec (.functionLevelReset n) s = .next t ∧ (∀ e ∈ t.launches, e.2.tenant ≠ n)
      ∧ (∀ k w, t.wave? k = some w → ∀ e ∈ s.launches, e.2.tenant = n → w.launch ≠ e.1)
      ∧ t.sched = { s.sched.without n with tenants := t.sched.tenants } ∧ t.mem = s.mem ∧ (t.tenant n).flrAt = some s.dcc := by
  have hgone := tenantGone_gone s n
  have hpasses := endPasses_eq (s.tenantGone n) (s.launches.filter (fun e => e.2.tenant == n))
  refine ⟨_, functionLevelReset_next s n, ?_⟩
  generalize List.foldl _ (s.tenantGone n) _ = u at hpasses ⊢
  have hlaunches : u.launches = (s.tenantGone n).launches := by rw [hpasses]
  have hwaves : u.waves = (s.tenantGone n).waves := by rw [hpasses]
  have hsched : u.sched = s.sched.without n := (by rw [hpasses] : u.sched = (s.tenantGone n).sched).trans hgone.sched
  have hmem : u.mem = s.mem := (by rw [hpasses] : u.mem = (s.tenantGone n).mem).trans hgone.mem
  have hdcc : u.dcc = s.dcc := (by rw [hpasses] : u.dcc = (s.tenantGone n).dcc).trans hgone.dcc
  refine ⟨fun e he => hgone.launches e (hlaunches ▸ he), fun k w hw => hgone.waves k w ?_, ?_, hmem, ?_⟩
  · exact (congrArg (fun m => lookT m k) hwaves).symm.trans hw
  · rw [← hsched]
    rfl
  · rw [State.tenant_updTenant_self, hdcc]

end

/-! ### A package reset (18 R388, R391) -/

/-- The package of a reset: its stored image, and the messages already sent. -/
theorem packageReset_pkg (s : State) :
    s.packageReset.pkg.firmware = s.pkg.firmware ∧ s.packageReset.pkg.msix = s.pkg.msix ∧ s.packageReset.pkg.mbState = 0
      ∧ s.packageReset.pkg.segments = [] ∧ s.packageReset.pkg.fwState = if fwVerified s.pkg.firmware then 1 else 2 := by
  rw [State.packageReset]
  dsimp only
  generalize fwVerified s.pkg.firmware = ok
  cases ok <;> exact ⟨rfl, rfl, rfl, rfl, rfl⟩

end Sys2Proof.Machine
end

section
/-! SUPPORT. The statement about errors and resets. -/

open Sys2Proof Sys2Proof.Machine

/-- Settles O52, from the halts of a fatal error, the image of the dump, what a link that goes down loses, and what each reset leaves. -/
theorem errorsAndResets : Obligations.ErrorsAndResets := by
  unfold Obligations.ErrorsAndResets
  refine fun s => ⟨fun cause pa => ⟨fun hfirst => ?_, fun hfatal hdumping => ?_⟩, fun hdumping hpins hwatch hfit => ?_, fun hdumping hpins => ?_,
    fun k st => ⟨fun hwrites hops hfills => ?_, fun hup hdown hwrites => ?_, fun hup hdown hfirst hwrites hids => ?_⟩, ?_, fun n => ?_⟩
  · obtain ⟨hstate, hdies⟩ := fatal_first hfirst cause pa
    refine ⟨s.fatal cause pa, rfl, ?_, hdies, ?_⟩
    · rw [hstate]
    · rw [hstate]
      exact ⟨rfl, rfl, rfl, rfl, rfl⟩
  · exact congrArg _ (fatal_again hfatal hdumping cause pa)
  · obtain ⟨t, hexec, hstands⟩ := stateDumpComplete_stands hdumping hpins hwatch
    obtain ⟨hmagic, hdcc, hcause, hpa⟩ := dumpImage_header hfit
    refine ⟨t, hexec, hstands.eq, hstands.sent, hstands.masked, ?_⟩
    dsimp only
    rw [hstands.mem]
    exact ⟨keepsOutside_dumpImage hfit, hmagic, hdcc, hcause, hpa, fun key w hone q hq => readBytes_dumpImage_descriptor hfit hone hq⟩
  · have hcounts := pinCounts_refuseAll s s.dumpPins
    exact ⟨_, stateDumpComplete_refused hdumping hpins, hcounts.eq, hcounts.same⟩
  · exact peerLinkState_quiet hwrites hops hfills
  · exact peerLinkState_loses ⟨hup, hdown⟩ hwrites
  · exact peerLinkState_fatal ⟨hup, hdown⟩ hfirst hwrites hids
  · refine ⟨s.packageReset, rfl, rfl, fun a ha => ?_, fun a ha => ?_, packageReset_pkg s⟩
    · exact readByte_clearRange_inside _ ⟨Nat.zero_le a, ha⟩
    · exact readByte_clearRange_outside _ _ _ _ (.inr ha)
  · obtain ⟨t, hexec, hlaunches, hwaves, hsched, hmem, hflr⟩ := functionLevelReset_leaves s n
    refine ⟨t, hexec, hlaunches, hwaves, fun q hq => ?_, fun g hg => ?_, fun i hi => ?_, fun off hoff => ?_, hmem, hflr⟩
    · rw [State.queue, hsched] at hq ⊢
      exact queue_without_disabled s.sched q hq
    · rw [hsched] at hg
      simpa using (List.mem_filter.mp hg).2
    · rw [hsched] at hi
      simpa using (List.mem_filter.mp hi).2
    · rw [hsched]
      exact region_without s.sched hoff

end
